-- ==== Sys2Proof/Word.lean ====
section
/-! DEFINITION. The words of the model and the one form of sparse map its state is made of. -/

namespace Sys2Proof

/-- A byte of memory, of a message or of an image. -/
abbrev Byte := BitVec 8
/-- A register of the Gatehouse, and a crew register of a Hand. -/
abbrev Word := BitVec 64
/-- A lane register of a Hand, and the bits of an FP32 value. -/
abbrev Lane := BitVec 32

/-- A sparse map from indices to data, in one canonical form: keys strictly rising, no entry equal to
what an unlisted key reads as. The operations stand in Machine/Map.lean. -/
abbrev SMap (α : Type) := List (Nat × α)

/-- Bytes named by their offset in a line, as a store or a data message carries them. -/
abbrev Bytes := List (Nat × Byte)

/-- The two PCIe ports: 0 is A, 1 is B. -/
abbrev Port := Fin 2
/-- Polders P0 to P63. -/
abbrev Pol := Fin 64
/-- Mill dies M0 to M7. -/
abbrev Die := Fin 8
/-- Keels K0 to K3. -/
abbrev Keel := Fin 4
/-- HBM stacks H00 to H23. -/
abbrev StackId := Fin 24
/-- Optical engines OE0 to OE7. -/
abbrev Engine := Fin 8
/-- Zelpel Link ports ZP00 to ZP63. -/
abbrev ZPort := Fin 64
/-- A Hand of the module: 1,024 x die + 32 x row + column (R117, R339). -/
abbrev HandId := Fin 8192

end Sys2Proof
end

