-- ==== Sys2Proof/Types.lean ====
section
/-! DEFINITION. The records that commands carry and that the state holds: messages, image records,
instruction formats. Layouts follow the chapters named beside each. -/

namespace Sys2Proof

/-! ## Gatehouse accesses -/

/-- Who makes a Gatehouse access: a physical function, a virtual function, or the device-side view of a
supervisor polder (R281, R24). -/
inductive Src where
  | pf (port : Port)
  | vf (port : Port) (n : Fin 32)
  | dev (port : Port)
deriving DecidableEq, Repr

/-- One access to a Gatehouse register whose offset the command's row names: 8 bytes, or 4 bytes of the
low (0) or high (1) half (R400). -/
structure RegAcc where
  src : Src
  size : Nat := 8
  half : Nat := 0
  value : Word := 0
deriving DecidableEq, Repr

/-! ## Events (chapter 16) -/

/-- The codes of R352, R146 and R273. -/
inductive Code where
  | translationMiss | joined | permission | manifestReject | rangeClipped
  | poisonRead | bondPoison | memoryUe | caskMalformed | poisonConsumed | stockPoisoned
  | partialCrew | strandedBarrier | illegalInstruction | maskOverflow | localRange | misaligned | handTrap
  | deadlineMiss | freeboardLow | admissionRefused | firmLate
  | almanacHoldover | almanacLocked | manifestDone
  | fencedTarget | lateCompletion | dieFenced | keelFenced | dieReturned
  | daybookOverflow | polderFenced | bundleDead | hostTimeout | peerPortReset
  | linkDowngrade | linkDown | linkUp | collectiveTimeout | peerNotice | laserLost
  | stackHot | stackFenced | dieHot | droop | capChanged | inputRange | sealLapsed
  | imageReject | keyChanged | firmwareFallback
deriving DecidableEq, Repr

/-- A source's event message in the module band (R340): the day book it goes to, the polder it concerns,
and its 16 detail bytes. -/
structure Event where
  code : Code
  source : Nat
  /-- The polder whose day book receives the record. -/
  book : Nat
  /-- The polder the record names (R346 byte 11). -/
  pol : Nat
  detail : List Byte := []
deriving DecidableEq, Repr

/-! ## Coherence messages (R190, R191) -/

inductive MsgType where
  | gets | getm | rdsec | pute | putm | puto | done | invAck | fwdAck | wbCross | recallAck
  | fwdGets | fwdGetm | inv | recall | grant | dataH | putAck | nackRd | dataF
deriving DecidableEq, Repr

/-- A coherence message. Agents are numbered as in R190: 0 to 7 Bins, 8 to 11 homes. `dst` is the agent
the message travels to; `data` holds the bytes of the sectors carried, by offset in the line. -/
structure CohMsg where
  type : MsgType
  src : Nat
  dst : Nat
  req : Nat := 0
  pol : Nat := 0
  need : BitVec 8 := 0
  cover : BitVec 8 := 0
  mark : BitVec 8 := 0
  poison : BitVec 8 := 0
  /-- STATE of R190: for GRANT 1 S, 2 E, 3 M; for FWD_ACK 0 I, 1 S, 4 O; for RECALL 0 CLEAN, 1 INVAL, 2 DROP. -/
  st : Nat := 0
  way : Nat := 0
  set : Nat := 0
  tag : Nat := 0
  /-- Bits [47:10] of the line's local DPA. -/
  line : Nat
  data : Bytes := []
  /-- The hint of the access behind it, which acts at the home too (R171) and for which R190 has no field.
  (DEDUCED: log 22) -/
  hint : Nat := 0
deriving DecidableEq, Repr

/-! ## Requests to a home by non-caching agents (R186) -/

/-- The atomic operations of R138. -/
inductive AtomOp where
  | add | fadd32 | faddBf16 | min | max | and | or | xor | xchg | cas
deriving DecidableEq, Repr

/-- The element types of add-to-line (R176). -/
inductive AtlType where
  | fp32 | bf16 | int32
deriving DecidableEq, Repr

/-- The range operations of R177. -/
inductive RangeOp where
  | prefetch | flush | cleanInvalidate | discard
deriving DecidableEq, Repr

/-- What a non-caching agent asks of a home. -/
inductive HomeOp where
  /-- A read of the sectors in the mask. -/
  | read (need : BitVec 8)
  /-- A write of bytes by offset in the line; `dead` is the dead hint, `poison` the poison of the data. -/
  | write (bytes : Bytes) (dead : Bool) (poison : Bool)
  /-- An atomic on `size` bytes at an offset of the line, with the combined operand and CAS's expected value. -/
  | atomic (op : AtomOp) (off : Nat) (size : Nat) (value : Word) (expect : Word) (poison : Bool)
  /-- Add-to-line: addends by element index, and their poison. -/
  | addLine (ty : AtlType) (addends : List (Nat × Lane)) (poison : Bool)
  /-- A range step's action on the line; `granary` is LEVEL 1. -/
  | range (op : RangeOp) (granary : Bool)
deriving DecidableEq, Repr

/-- The transaction header of R260 with its data chunks' bytes. `op` is 1 WRITE, 2 READ, 3 READ_DATA, 4
BARRIER. -/
structure Txn where
  op : Nat := 1
  chunks : Nat := 1
  srcModule : Nat := 0
  dstModule : Nat := 0
  srcPol : Nat := 0
  dstPol : Nat := 0
  srcGen : Nat := 0
  hint : Nat := 0
  counted : Bool := false
  tally : Nat := 0
  poison : BitVec 32 := 0
  offset : Nat := 0
  job : Nat := 0
  tag : Nat := 0
  data : List Byte := []
deriving DecidableEq, Repr

/-- Who waits for the answer. -/
inductive Requester where
  /-- Line `idx` of tile `tile` of a Porter stream. -/
  | porter (pol seq stream tile idx : Nat)
  /-- Atomic `slot` of a Hand. -/
  | hand (h : Nat) (slot : Nat)
  /-- A Zelpel Link transaction that arrived on a port. -/
  | link (zport : Nat) (t : Txn)
  /-- A range step of a manifest. -/
  | step (pol seq stepNo : Nat)
  /-- Scale, Sieve or Cooper of a die: kind 1, 2 or 3, for a manifest. -/
  | station (kind die pol seq : Nat)
  /-- Access `id` of a host through BAR index 2. -/
  | host (port : Nat) (id : Nat)
  /-- The sequencer or the Crier: nobody waits for data. -/
  | none
deriving DecidableEq, Repr

/-- A line request on its way to, waiting at, or being served by a home. -/
structure HomeReq where
  id : Nat
  op : HomeOp
  line : Nat
  pol : Nat
  gen : Nat
  orphan : Bool := false
  who : Requester := .none
  /-- The request holds a tracker of its home Keel (R180). -/
  tracked : Bool := false
  va : Nat := 0
  hint : Nat := 0
  /-- Its answer was struck on a bundle, and arrives poisoned (R18). -/
  struck : Bool := false
deriving DecidableEq, Repr

/-- What a transfer across a bundle carries (R18): a coherence message; a line request or its answer; a line of a tile
between a Porter and a station; or traffic without data, such as a start, a credit or a barrier's arrival. -/
inductive Transfer where
  | msg (m : CohMsg)
  | req (id : Nat)
  | tile (seq stream tile idx : Nat)
  | other
deriving DecidableEq, Repr

/-! ## Station operations -/

/-- The array modes of R80. -/
inductive MillMode where
  | solo | quad | gang | pair
deriving DecidableEq, Repr

/-- One operand of a Mill operation as its tiles deliver it: element codes in row-major order of `rows` x
`cols`, and for MX formats one scale byte for each 32 elements of a row (R33). -/
structure Matrix where
  fmt : Nat
  rows : Nat
  cols : Nat
  elems : List Nat
  scales : List Nat := []
deriving DecidableEq, Repr

/-- A GEMM: A is M x K; B is K x N, or N x K when `nk` (R83). -/
structure Gemm where
  pol : Nat
  a : Matrix
  b : Matrix
  nk : Bool := false
  /-- The output format: 0x6 BF16 or 0x7 FP32. -/
  out : Nat := 7
  /-- The operation follows under R87 with its first tiles staged. -/
  follows : Bool := false
  /-- Poison of an operand, which the results carry. -/
  poison : Bool := false
deriving DecidableEq, Repr

/-- The operands of one head: queries m x d, keys and values n x d. -/
structure AttHead where
  q : Matrix
  k : Matrix
  v : Matrix
deriving DecidableEq, Repr

/-- A fused attention pass (R88): its heads, the 32-byte attention record, the declared scale, the region's tiles. -/
structure Attention where
  pol : Nat
  heads : List AttHead
  record : List Byte
  scale : Lane
  tiles : BitVec 16
  out : Nat := 7
  /-- The operation follows under R87. -/
  follows : Bool := false
  poison : Bool := false
deriving DecidableEq, Repr

/-- Verify: the participating dies and the tiles of the region on each; the 64-byte verify record, the hidden rows,
the output head (N x K when `nk`); in sample mode the draft probabilities, rows of V BF16 values. -/
structure VerifyOp where
  pol : Nat
  dies : BitVec 8
  tiles : BitVec 16
  record : List Byte
  hidden : Matrix
  head : Matrix
  nk : Bool := false
  q : List (List (BitVec 16)) := []
  /-- Device virtual address of the result record. -/
  result : Nat
  /-- The operation follows under R87. -/
  follows : Bool := false
  poison : Bool := false
deriving DecidableEq, Repr

/-- The functions of R114 that Scale computes. -/
inductive ScaleFn where
  | exp | recip | rsqrt | sigmoid | tanh | silu | gelu | relu | sqRelu
  | rmsNorm (gain : List Lane) | layerNorm (gain bias : List Lane)
  | rotary (pos : Nat) (freqs : List Lane) | softmax
  /-- Words of the generator (R116): the key, the tile, the first element, the use number, STEP. -/
  | random (key : Nat) (tile element use step : Nat)
deriving DecidableEq, Repr

/-- Elementwise work and conversion in the Sieve. -/
inductive SieveFn where
  /-- A conversion from a format code to a format code over blocks of 32 (R99 to R101). -/
  | convert (src dst : Nat) (scales : List Nat)
  | add (ys : List Lane) | mul (ys : List Lane)
  | random (key : Nat) (tile element use step : Nat)
deriving DecidableEq, Repr

/-- A Sieve-8 tile to encode: the 32-byte record of R105, the hop position, the stream tile, and input elements in FP32
from element 0 of the tile, in whole blocks of 32. -/
structure Sieve8 where
  pol : Nat
  record : List Byte
  hop : Nat
  tile : Nat
  g : List Lane
  poison : Bool := false
deriving DecidableEq, Repr

/-- Cycles by cause, in the order of R72. -/
structure Causes where
  link : Nat := 0
  refresh : Nat := 0
  weir : Nat := 0
  translation : Nat := 0
  wait : Nat := 0
  other : Nat := 0
deriving DecidableEq, Repr

/-- The causes of R72, in its order. -/
inductive Cause where
  | link | refresh | weir | translation | wait | other
deriving DecidableEq, Repr

/-- A cause's place in the table. -/
def Cause.rank : Cause → Nat
  | .link => 0
  | .refresh => 1
  | .weir => 2
  | .translation => 3
  | .wait => 4
  | .other => 5

def Causes.get (c : Causes) : Cause → Nat
  | .link => c.link
  | .refresh => c.refresh
  | .weir => c.weir
  | .translation => c.translation
  | .wait => c.wait
  | .other => c.other

def Causes.set (c : Causes) (k : Cause) (n : Nat) : Causes :=
  match k with
  | .link => { c with link := n }
  | .refresh => { c with refresh := n }
  | .weir => { c with weir := n }
  | .translation => { c with translation := n }
  | .wait => { c with wait := n }
  | .other => { c with other := n }

/-! ## The Hands' instruction formats (R124) -/

/-- DESIGN CHOICE: log 43. (DESIGN CHOICE: log 43) -/
structure FmtL where
  minor : Nat
  fsel : Fin 8 := 0
  finv : Bool := false
  xd : Fin 64 := 0
  xa : Fin 64 := 0
  xb : Fin 64 := 0
  xc : Fin 64 := 0
deriving DecidableEq, Repr

structure FmtI where
  minor : Nat
  fsel : Fin 8 := 0
  finv : Bool := false
  xd : Fin 64 := 0
  xa : Fin 64 := 0
  imm : BitVec 32 := 0
deriving DecidableEq, Repr

structure FmtU where
  minor : Nat
  wd : Fin 32 := 0
  wa : Fin 32 := 0
  wb : Fin 32 := 0
  imm : BitVec 32 := 0
deriving DecidableEq, Repr

structure FmtM where
  minor : Nat := 0
  fsel : Fin 8 := 0
  finv : Bool := false
  xs : Fin 64 := 0
  xo : Fin 64 := 0
  wb : Fin 32 := 0
  size : Fin 8 := 0
  hint : Fin 4 := 0
  scope : Fin 4 := 0
  imm : BitVec 24 := 0
deriving DecidableEq, Repr

structure FmtB where
  minor : Nat := 0
  wa : Fin 32 := 0
  ft : Fin 8 := 0
  t1 : BitVec 20 := 0
  t2 : BitVec 20 := 0
deriving DecidableEq, Repr

structure FmtX where
  xd : Fin 64
  xa : Fin 64
  xb : Fin 64
  mfmt : Fin 16
deriving DecidableEq, Repr

structure FmtS where
  n : BitVec 8 := 0
  wa : Fin 32 := 0
  ft : Fin 8 := 0
  imm : BitVec 32 := 0
deriving DecidableEq, Repr

/-! ## What start-up finds, and the image (chapter 15) -/

/-- A bundle's failing lanes, and its failing spares among those the fuses did not consume (R14). -/
structure LaneFault where
  bundle : Nat
  lanes : Nat
  spares : Nat := 0
deriving DecidableEq, Repr

/-- What Stage 2's tests find (R14, R182, R321). -/
structure Stage2Find where
  lanes : List LaneFault := []
  /-- Per stack, the pseudo-channels that fail training. -/
  pcs : List (Nat × Word) := []
  /-- The MCLK forwarding paths that work (BOOT_FWD). -/
  paths : BitVec 16 := 0xFFFF
  granaryOk : Bool := true
deriving DecidableEq, Repr

/-- A stint record (R150). -/
structure Stint where
  segment : Nat
  pol : Nat
  cls : Nat
  port : Nat := 0
  start : Nat
  length : Nat
  period : Nat
  hop : Nat := 0
  schedule : Nat := 0xFFFF
  laneFirst : Nat
  laneCount : Nat
  owner : Nat
  reserved : Nat := 0
deriving DecidableEq, Repr

/-- A link slot record (R259, R327). -/
structure LinkRec where
  port : Nat
  pol : Nat
  cls : Nat
  schedule : Nat
  owner : Nat
  slotFirst : Nat
  slotCount : Nat
  reserved : Nat := 0
deriving DecidableEq, Repr

/-- The stations of R36. -/
inductive Station where
  | porter | mill | scale | sieve | cooper | hands | wharf
deriving DecidableEq, Repr

/-- A stream's declaration (R33, R34, R38, R39, R52). -/
structure StreamDecl where
  fmt : Nat
  hard : Bool := true
  src : Station
  dst : Station
  length : Nat := 1
  region : Nat := 1
  /-- Up to four loops, outermost first, each COUNT and STRIDE. -/
  loops : List (Nat × Nat) := [(1, 1)]
  runahead : Nat := 1
  die : Nat := 0
  porter : Nat := 0
  /-- A Porter stream that writes memory. -/
  store : Bool := false
  /-- The manifest operand that names the region's base. -/
  operand : Nat := 0
  hint : Nat := 0
  dead : Bool := false
  readsHost : Bool := false
  /-- Booked completion of tile t: phase, offset of tile 0 within it, cycles a tile (R71). -/
  phase : Nat := 0
  bookFirst : Nat := 0
  bookPeriod : Nat := 0
  /-- Tiles at the edge of a matrix: stream tile, valid rows, valid columns (R32). -/
  edges : List (Nat × Nat × Nat) := []
deriving DecidableEq, Repr

/-- A kernel's declaration (R119). -/
structure KernelDecl where
  kernel : Nat
  entry : Nat := 0
  codeSize : Nat := 0
  dies : BitVec 8
  x0 : Nat := 0
  y0 : Nat := 0
  w : Nat := 1
  h : Nat := 1
  /-- Local store in KiB: 16, 32 or 48. -/
  localKib : Nat := 16
  cacheGlobal : Bool := false
  tasks : Nat := 1
  budget : Nat := 1
  watchdog : Nat := 1048576
  arg : Nat := 0
  /-- The number of its SET barrier, if it uses one (R143, R162). -/
  setBarrier : Option Nat := none
  /-- The code uses FADD32, FADDBF16 on global memory (R138). -/
  usesFadd32 : Bool := false
  usesFaddBf16 : Bool := false
deriving DecidableEq, Repr

/-- One phase of a schedule: worst cases at MS-0 to MS-7 and the declared point (R68), and its dies. -/
structure Phase where
  worst : List Nat
  point : Nat := 0
  dies : BitVec 8 := 0
deriving DecidableEq, Repr

/-- An array use of a schedule and one Mill operation's limits (R80, R81, R83). -/
structure MillUse where
  mode : MillMode
  die : Nat
  /-- The tile in SOLO, the quadrant in QUAD. -/
  index : Nat := 0
  /-- 0 output-stationary GEMM, 1 weight-stationary GEMM, 2 batched GEMV, 3 attention, 4 verify. -/
  op : Nat := 0
  fmtA : Nat := 1
  fmtB : Nat := 1
  m : Nat := 1
  n : Nat := 1
  k : Nat := 1
  /-- Operand B is N x K (R83). -/
  nk : Bool := false
  /-- Heads, and the format of the values, of an attention pass. -/
  heads : Nat := 1
  fmtV : Nat := 4
  /-- The scale that the schedule declares for it, as FP32. -/
  scale : Option Lane := none
  /-- Dies of a verify. -/
  dies : BitVec 8 := 0
  /-- The streams of operands A and B, of an attention pass's values, and of the results, where the schedule names them; in PAIR
  `b2` and `out2` are the upper die's (R80). -/
  a : Option Nat := none
  b : Option Nat := none
  b2 : Option Nat := none
  v : Option Nat := none
  out : Option Nat := none
  out2 : Option Nat := none
  /-- The manifest operands that name the record read and the result record (R83, R90, R93). -/
  record : Option Nat := none
  result : Option Nat := none
deriving DecidableEq, Repr

/-- What a schedule has Scale (1), the Sieve (2) or Cooper (3) of a die do: the streams it takes, the one it gives, the manifest
operand that names its record or its generator's key (R105, R116). -/
structure StationUse where
  kind : Nat
  die : Nat
  ins : List Nat := []
  out : Option Nat := none
  record : Option Nat := none
deriving DecidableEq, Repr

/-- A part of a schedule that a dependency names (R38, R216, R217, R222). -/
inductive Step where
  | stream (i : Nat) | kernel (i : Nat) | range (i : Nat) | coll (i : Nat)
deriving DecidableEq, Repr

/-- A range step (R177, R178): its LIMIT, the manifest operand that names its record, its Porter. -/
structure RangeDecl where
  limit : Nat
  operand : Nat := 0
  die : Nat := 0
  porter : Nat := 0
deriving DecidableEq, Repr

/-- A collective step: its tally, the bytes it waits for, LIMIT in tides, its booked landing in cycles from
cycle 1,024 of the start tide (R269). -/
structure CollStep where
  tally : Nat
  bytes : Nat
  limit : Nat := 2048
  landing : Nat := 0
deriving DecidableEq, Repr

/-- A barrier whose participants lie in several modules (R267): its number, the kernel whose SET barriers it joins, its
collector module, and the participant modules. -/
structure BarrierDecl where
  number : Nat
  kernel : Nat
  collector : Nat
  parts : List Nat
deriving DecidableEq, Repr

/-- A quay that a schedule uses (R30, R157): its number in R27's table, the MCLK cycles booked for its crossing, and the
entries booked in flight. -/
structure QuayUse where
  quay : Nat
  booked : Nat
  inFlight : Nat := 1
deriving DecidableEq, Repr

/-- A place where a path is interrupted, as a schedule books it (R152, R157): the tide-table records of the stint that
enters it and of the one that leaves it (none: the other side lies in another clock domain), the MCLK cycles booked
between their starts, and the quays crossed between them, in order. -/
structure Handover where
  enter : Option Nat := none
  leave : Option Nat := none
  gap : Nat := 0
  quays : List QuayUse := []
deriving DecidableEq, Repr

/-- A schedule's descriptor (R327 section 4). -/
structure Schedule where
  pol : Nat
  operands : Nat := 0
  aligns : List Nat := []
  phases : List Phase := []
  freeboard : Nat := 0
  streams : List StreamDecl := []
  mills : List MillUse := []
  kernels : List KernelDecl := []
  ranges : List RangeDecl := []
  colls : List CollStep := []
  /-- Peer modules of the collective. -/
  peers : List Nat := []
  /-- Barriers across modules. -/
  barriers : List BarrierDecl := []
  kmax : Nat := 0
  kvSplit : Bool := false
  /-- Station instances used: 4 x die + (0 Mill, 1 Scale, 2 Sieve, 3 Cooper) (R47). -/
  stations : List Nat := []
  /-- Mill tiles used, 16 x die + tile. -/
  tiles : List Nat := []
  /-- HBM channel groups used, 48 x Keel + group. -/
  groups : List Nat := []
  /-- Requests in flight booked at each Keel (R180). -/
  booked : List Nat := []
  /-- The interruptions of its paths: quays, memories and stations (R30, R152, R157). -/
  handovers : List Handover := []
  /-- What its stations do, and its dependencies: the second part begins when the first is over. -/
  uses : List StationUse := []
  deps : List (Step × Step) := []
deriving DecidableEq, Repr

/-- A polder record of the charter (R328). -/
structure PolRec where
  /-- 0 A, 1 B, 0xFF unbound. -/
  port : Nat := 0xFF
  vf : Nat := 0
  fabric : Bool := false
  share : Nat := 0
  tiles : List (BitVec 16) := []
  handRows : List (BitVec 32) := []
  porters : List (BitVec 8) := []
  groups : List (BitVec 48) := []
  /-- Per die, units of Scale, Sieve and Cooper lanes. -/
  stations : List (Nat × Nat × Nat) := []
  reserved : Bool := false
deriving DecidableEq, Repr

/-- A resource record of the charter (R328): its type, bytes 1 to 3, words at 4, 8 and 12. -/
structure ResRec where
  type : Nat
  b1 : Nat := 0
  b2 : Nat := 0
  b3 : Nat := 0
  w4 : Nat := 0
  w8 : Nat := 0
  w12 : Nat := 0
deriving DecidableEq, Repr

/-- The charter (R328). -/
structure Charter where
  version : Nat := 1
  sealedMode : Bool := false
  timeOwner : Port := 0
  loaders : Nat := 0
  capA : Nat := 0
  capB : Nat := 0
  shareA : Nat × Nat := (0, 0)
  shareB : Nat × Nat := (0, 0)
  zlA : Word := 0
  zlB : Word := 0
  pols : List PolRec := []
  resources : List ResRec := []
  reserved : Bool := false
deriving DecidableEq, Repr

/-- A Mill die's settings (R327 section 7). -/
structure DieSet where
  ladder : Nat := 8
  stagger : Nat := 16
  hold : Nat := 4
  sealStep : Nat := 0
  sealLevel : Nat := 0
deriving DecidableEq, Repr

/-- A code table: the code length of each symbol (R110). -/
abbrev CodeTable := List Nat

/-- A Zelpel image as its header and sections say (R326, R327). -/
structure Image where
  required : Word := 0
  firmwareMin : Nat := 0
  svn : Nat := 0
  raiseFloor : Bool := false
  /-- Measurement: SHAKE256 of the image (R330). -/
  measure : List Byte := []
  charterMeasure : List Byte := []
  keyMeasure : List Byte := []
  tableDigest : List Byte := []
  charter : Charter := {}
  tide : List Stint := []
  links : List LinkRec := []
  /-- Per Zelpel Link port: VERSION and PDMAX. -/
  decls : List (Nat × Nat) := []
  schedules : List Schedule := []
  code : List Byte := []
  /-- By kind 1 to 6. -/
  cask : List (Nat × List CodeTable) := []
  dieSets : List DieSet := []
  tiers : List Nat := []
deriving DecidableEq, Repr

/-! ## Zelpel Link (chapter 12) -/

/-- A link-band message (R265): its type, the sender's module, and the fields of bytes 8 to 31. -/
inductive BandMsg where
  | almSync (t1 : Nat) (hops : Nat)
  | almReq (t2 t3 : Nat)
  | almResp (t1 t4 : Nat)
  | report (lateness commons : Nat)
  | offer (watts epoch commons : Nat)
  | take (watts epoch commons : Nat)
  | notice (job schedule reason dstPol tide : Nat)
deriving DecidableEq, Repr

/-- What training of a link port finds (R248, R249). -/
structure TrainFind where
  peer : Nat := 0
  peerPort : Nat := 0
  /-- The highest version the peer offers: 2 or 3. -/
  peerOffer : Nat := 3
  /-- ZL3 reached a corrected-symbol rate below 2^-20 within 20 ms. -/
  zl3Ok : Bool := true
  delay : Nat := 0
  offset : Int := 0
deriving DecidableEq, Repr

/-! ## Quays (R27) -/

/-- The quays of R27's table. -/
inductive Quay where
  | hbmCmdOut (s : StackId) | hbmStatus (s : StackId)
  | hbmWrite (g : Fin 192) | hbmRead (g : Fin 192)
  | linkTx (n : ZPort) | linkRx (n : ZPort)
  | hostOut (port : Port) | hostIn (port : Port)
  | cfgIn (port : Port) | cfgOut (port : Port)
  | stewardOut (core : Fin 2) | stewardIn (core : Fin 2)
  | almMclk | almSteward | almDiscipline
deriving DecidableEq, Repr

/-- A message to a host: what leaves through a host-out or early configuration quay. -/
inductive HostMsg where
  /-- A completion of a host's read. `status` 0 Successful, 1 Unsupported Request; `ep` poisoned. -/
  | completion (fn : Nat) (data : List Byte) (status : Nat) (ep : Bool)
  /-- A posted memory write: the requester's function, the bus address, the bytes; and for whom: polder, source,
  device virtual address, engine. -/
  | memWrite (fn : Nat) (addr : Nat) (data : List Byte) (ep : Bool) (maker : Nat × Nat × Nat × Nat)
  /-- A memory read request. -/
  | memRead (fn : Nat) (addr : Nat) (len : Nat) (tag : Nat)
  /-- An MSI-X message of a function's vector. -/
  | msix (fn : Nat) (vector : Nat) (addr : Nat) (data : BitVec 32)
  /-- A PTM request (R288). -/
  | ptm
deriving DecidableEq, Repr

/-- The reset events of R290. -/
inductive ResetKind where
  | perst | hotReset | dlDown | pfFlr | vfFlr
deriving DecidableEq, Repr

/-- The parts whose control state an uncorrectable error can strike (R353). -/
inductive Part where
  | mill (d : Die) | keel (k : Keel)
deriving DecidableEq, Repr

end Sys2Proof
end

