-- ==== Sys2Proof/Syntax.lean ====
section
/-! DEFINITION. The commands and events of the module, one constructor for each row of spec/opcode_table.json
in the table's order. The table gives its rows no operand bits; the operands are what the row's rules need
from outside the module. -/

namespace Sys2Proof

/-- A command or event of the module. -/
inductive Instr where
  /-- POWER_GOOD_RISE (R388). A qualified rise of PWRGOOD_IN starts the module's reset sequencer toward Stage 0. -/
  | powerGoodRise (straps : BitVec 10) (lowNs : Nat)
  /-- POWER_GOOD_FALL (R388). A low of PWRGOOD_IN lasting 10 µs or more stops the converters and loses all state; shorter lows are ignored. -/
  | powerGoodFall (lowNs : Nat)
  /-- MODULE_INSERTION (R382). Inserting the module with 50 V present and PWRGOOD_IN low charges its input capacitance under the inrush limit. -/
  | moduleInsertion
  /-- STAGE_1 (R320). Verification of the Steward firmware completes, and the module enters Stage 1 with the firmware running on both Steward cores. -/
  | stage1
  /-- STAGE_2 (R321). Lane test, HBM training, Granary test and hold-group choice complete, and the module enters Stage 2. -/
  | stage2 (f : Stage2Find)
  /-- IMAGE_LOAD_GO (R322). GO in BOOT_LOAD_CTL asks for an image load, which is accepted or refused. -/
  | imageLoadGo (port : Port) (cut : Bool)
  /-- STAGE_3 (R324). A verified image finishes loading: memory is zeroed, structures are built and measured, and Stage 3 is reported. -/
  | stage3
  /-- STAGE_4 (R318). One tide after Stage 3, the tide sequencer starts pickup and the module is Open. -/
  | stage4
  /-- CONSENT (R322). Setting CONSENT gives a PF's consent to a reload under LOADERS 0. -/
  | consent (port : Port)
  /-- REFERENCE_UPDATE (R63). A reference update from the selected Almanac source measures the offset and steers the Almanac. -/
  | referenceUpdate (offset : Int)
  /-- REFERENCE_MISSING (R63). Three consecutive expected reference updates that are missing while LOCKED cause the move to HOLDOVER. -/
  | referenceMissing
  /-- ALM_CTL_WRITE (R63). A write to ALM_CTL selects the Almanac source, port or master role and may change the discipline state. -/
  | almCtlWrite (a : RegAcc)
  /-- ALM_LOCK (R405). Setting ALM_CTL.LOCK locks every RWL field of the ALM block. -/
  | almLock (a : RegAcc)
  /-- ALM_STEP (R64). A write to ALM_STEP requests a step of the Almanac at the next tide boundary. -/
  | almStep (a : RegAcc)
  /-- ALM_STEP_APPLY (R64). At the boundary, the requested step is taken, or it is ignored when manifests are active or the result is out of range. -/
  | almStepApply
  /-- ALM_NOW_READ (R65). A read of ALM_NOW returns the Almanac, and a 4-byte read latches the high word into ALM_NOW_HI. -/
  | almNowRead (src : Src) (size : Nat) (half : Nat)
  /-- PPS_OUT_RISE (R60). ALM_PPS_OUT rises at each whole second of the Almanac. -/
  | ppsOutRise
  /-- PPS_OUT_FALL (R60). ALM_PPS_OUT falls 100 µs after it rose. -/
  | ppsOutFall
  /-- PTM_REQUEST (R288). Each PF with PTM enabled requests a PTM update every 1 ms. -/
  | ptmRequest (port : Port)
  /-- TIDE_BOUNDARY (R59). A tide boundary begins a new 4,096-cycle tide on an Almanac multiple of 4,096, and CSW_TIDE counts it. -/
  | tideBoundary
  /-- PICKUP (R45). At a polder's pickup cycle, the sequencer reads up to four slots of its manifest ring and handles each ready slot. -/
  | pickup (p : Pol)
  /-- MANIFEST_START (R47). An admitted manifest starts at cycle 1,024 of the first tide that satisfies its start conditions. -/
  | manifestStart (p : Pol)
  /-- STREAM_TILE_COMPLETE (R71). A tile of a stream completes, and for a hard stream the lag L is updated against its booked cycle. -/
  | streamTileComplete (p : Pol) (seq : Nat) (stream : Nat) (delays : Causes)
  /-- FREEBOARD_LOW (R73). Remaining freeboard falls below WARN sixteenths, and FREEBOARD_LOW is raised once. -/
  | freeboardLow (p : Pol) (seq : Nat)
  /-- DEADLINE_MISS (R73). Lag exceeds freeboard, DEADLINE_MISS is raised once, and the manifest will end MISSED. -/
  | deadlineMiss (p : Pol) (seq : Nat)
  /-- MANIFEST_COMPLETE (R50). After every store of a manifest has reached its home, its completion record is written. -/
  | manifestComplete (p : Pol) (seq : Nat)
  /-- MRING_BASE_WRITE (R41). A write to CSW_MRING_BASE_p places a polder's ring, and it is ignored while ENABLE is 1. -/
  | mringBaseWrite (p : Pol) (a : RegAcc)
  /-- MRING_ENABLE (R41). A write of 1 to ENABLE starts pickup from a valid ring and zeroes CONSUMER and CONSUMED. -/
  | mringEnable (p : Pol) (a : RegAcc)
  /-- MRING_DISABLE (R41). A write of 0 to ENABLE stops pickup from the next tide boundary. -/
  | mringDisable (p : Pol) (a : RegAcc)
  /-- FB_CFG_WRITE (R77). A write to CSW_FB_CFG_p sets WARN and REQUIRE_LOCK, which take effect at the next pickup boundary. -/
  | fbCfgWrite (p : Pol) (a : RegAcc)
  /-- RC_FIELD_READ (R7). A read of an RC field returns its value and clears it. -/
  | rcFieldRead (src : Src) (off : Nat) (size : Nat)
  /-- REGISTER_WRITE (R7). A write to a register without a row of its own, including RW1C clears, follows its fields' access codes. -/
  | registerWrite (src : Src) (off : Nat) (size : Nat) (value : Word)
  /-- PORTER_TILE_ISSUE (R52). A Porter takes a credit and issues the line requests of the next tile of a load stream. -/
  | porterTileIssue (p : Pol) (seq : Nat) (stream : Nat)
  /-- PORTER_TILE_STAGED (R55). The last line of a tile lands, and the tile is staged for its consumer. -/
  | porterTileStaged (p : Pol) (seq : Nat) (stream : Nat)
  /-- STORE_TILE_EMIT (R52). A producing station takes a credit and emits one tile on a store stream. -/
  | storeTileEmit (p : Pol) (seq : Nat) (stream : Nat) (payload : List Byte) (poison : Bool)
  /-- CREDIT_RETURN (R52). A credit returns to a stream in a CREDIT slot. -/
  | creditReturn (p : Pol) (seq : Nat) (stream : Nat)
  /-- MILL_MODE_CHANGE (R82). The array mode of a set of tiles changes between operations, taking 64 cycles. -/
  | millModeChange (d : Die) (mode : MillMode) (index : Nat)
  /-- GEMM_OUTPUT_STATIONARY (R84). A Mill array runs an output-stationary GEMM. -/
  | gemmOutputStationary (d : Die) (index : Nat) (g : Gemm)
  /-- GEMM_WEIGHT_STATIONARY (R85). A Mill array runs a weight-stationary GEMM. -/
  | gemmWeightStationary (d : Die) (index : Nat) (g : Gemm)
  /-- BATCHED_GEMV (R86). SOLO tiles run a batched GEMV over L loads. -/
  | batchedGemv (d : Die) (tiles : BitVec 16) (g : Gemm)
  /-- FUSED_ATTENTION_PASS (R88). Tiles and Scale run the fused attention pass, unit by unit, with a final merge. -/
  | fusedAttentionPass (d : Die) (g : Attention)
  /-- VERIFY_GREEDY (R91). Verify in greedy mode accepts drafted tokens against argmax and writes the result record. -/
  | verifyGreedy (d : Die) (v : VerifyOp)
  /-- VERIFY_SAMPLE (R92). Verify in sample mode runs the accept/reject test and sampling, then writes the result record. -/
  | verifySample (d : Die) (v : VerifyOp)
  /-- WEIR_LEVEL_CHANGE (R95). A new Weir level for a die takes effect at the next 64-cycle window. -/
  | weirLevelChange (d : Die)
  /-- LADDER_RUNG (R96). A tile's ramp ladder advances to its next rung after LADDER/8 cycles. -/
  | ladderRung (d : Die) (tile : Fin 16)
  /-- SCALE_OP (R114). Scale computes a function, normalisation, rotary embedding or softmax on a lane's data. -/
  | scaleOp (d : Die) (p : Pol) (fn : ScaleFn) (xs : List Lane) (poison : Bool)
  /-- SIEVE_OP (R101). Sieve performs elementwise work or a format conversion on a lane's data. -/
  | sieveOp (d : Die) (p : Pol) (fn : SieveFn) (xs : List Lane) (poison : Bool)
  /-- SIEVE8_ENCODE (R106). Sieve encodes a Sieve-8 tile with stochastic rounding and updates its residual. -/
  | sieve8Encode (d : Die) (r : Sieve8)
  /-- COOPER_REDUCTION (R103). Cooper adds contributions of a reduction or collective in FP32. -/
  | cooperReduction (d : Die) (p : Pol) (first : Bool) (fmt : Nat) (elems : List Nat) (scales : List Nat) (poison : Bool)
  /-- CASK_DECODE (R111). A Porter reads a Cask group, and the Sieve decodes it into the tile. -/
  | caskDecode (d : Die) (p : Pol) (seq : Nat) (stream : Nat) (group : Nat)
  /-- CASK_ENCODE (R112). A store stream to a Cask page encodes each group with the shortest table, or stores it raw. -/
  | caskEncode (d : Die) (p : Pol) (seq : Nat) (stream : Nat) (group : Nat) (bytes : List Byte)
  /-- KERNEL_START (R121). A kernel starts: every Hand's L1 is invalidated and its local store zeroed. -/
  | kernelStart (p : Pol) (seq : Nat) (kernel : Nat)
  /-- TASK_START (R120). A Hand starts its next task 8 cycles after the previous one, with its registers initialised. -/
  | taskStart (h : HandId)
  /-- KERNEL_END (R121). A kernel ends when every task has ended and the Bin has accepted every store, and the L1s are invalidated. -/
  | kernelEnd (p : Pol) (seq : Nat) (kernel : Nat)
  /-- ILLEGAL_INSTRUCTION (R125). An instruction with a reserved opcode or a bad field raises ILLEGAL_INSTRUCTION. -/
  | illegalInstruction (h : HandId) (word : Word)
  /-- IOP (R126). A lane integer operation is performed on the selected lanes. -/
  | iop (h : HandId) (i : FmtL)
  /-- IOPI (R126). A lane integer operation with an immediate is performed. -/
  | iopi (h : HandId) (i : FmtI)
  /-- ICMP (R126). A lane integer compare writes a flag. -/
  | icmp (h : HandId) (i : FmtL)
  /-- FOP (R126). A lane FP32 operation is performed with round-to-nearest-even. -/
  | fop (h : HandId) (i : FmtL)
  /-- FCMP (R126). A lane FP32 compare writes a flag. -/
  | fcmp (h : HandId) (i : FmtL)
  /-- FSPEC (R126). A lane special function is computed within the bounds of R114. -/
  | fspec (h : HandId) (i : FmtL)
  /-- CVT (R126). A lane format conversion is performed. -/
  | cvt (h : HandId) (i : FmtL)
  /-- SEL (R125). A lane select chooses XA or XB by a flag. -/
  | sel (h : HandId) (i : FmtL)
  /-- XLANE (R126). A cross-lane shuffle, reduction or prefix operation is performed. -/
  | xlane (h : HandId) (i : FmtL)
  /-- XU (R126). A value moves between lane registers and crew registers. -/
  | xu (h : HandId) (i : FmtL)
  /-- UOP (R126). A crew 64-bit integer operation is performed. -/
  | uop (h : HandId) (i : FmtU)
  /-- BRA (R130). A crew branch moves the current path. -/
  | bra (h : HandId) (i : FmtB)
  /-- IF (R128). IF pushes a mask stack entry and narrows the active mask. -/
  | divIf (h : HandId) (i : FmtB)
  /-- ELSE (R128). ELSE switches the active mask to the pending lanes. -/
  | divElse (h : HandId) (i : FmtB)
  /-- ENDIF (R128). ENDIF pops the entry and restores the saved mask, less the exited lanes. -/
  | divEndif (h : HandId) (i : FmtB)
  /-- LOOP (R128). LOOP pushes a loop entry. -/
  | divLoop (h : HandId) (i : FmtB)
  /-- BREAK (R128). BREAK removes flagged lanes from the active and stacked masks. -/
  | divBreak (h : HandId) (i : FmtB)
  /-- ENDLOOP (R128). ENDLOOP continues at the loop start or unwinds. -/
  | divEndloop (h : HandId) (i : FmtB)
  /-- LD (R136). A global load checks, translates and reads each active lane's address. -/
  | ld (h : HandId) (i : FmtM)
  /-- LDS (R136). A sign-extending global load is performed. -/
  | lds (h : HandId) (i : FmtM)
  /-- HAND_MISS_FILL (R135). Data for a Hand's outstanding sector miss returns, fills registers and frees the miss entry. -/
  | handMissFill (h : HandId) (sector : Nat)
  /-- ST (R136). A global store is written through the store queue to the Bin. -/
  | st (h : HandId) (i : FmtM)
  /-- ST_DEAD (R172). A global store with the dead hint writes its data and marks the sectors dead. -/
  | stDead (h : HandId) (i : FmtM)
  /-- LDL (R137). A local-store load is performed. -/
  | ldl (h : HandId) (i : FmtM)
  /-- STL (R137). A local-store store is performed. -/
  | stl (h : HandId) (i : FmtM)
  /-- ATOM (R138). A global atomic combines lanes and is sent for application at the line's home. -/
  | atom (h : HandId) (i : FmtM)
  /-- ATOML (R139). A local-store atomic is performed with lane combining. -/
  | atoml (h : HandId) (i : FmtM)
  /-- FENCE_REL (R137). A release fence waits until the stores of its scope are accepted. -/
  | fenceRel (h : HandId) (i : FmtS)
  /-- FENCE_ACQ (R137). An acquire fence at die scope or wider invalidates the Hand's L1. -/
  | fenceAcq (h : HandId) (i : FmtS)
  /-- FENCE_ACQREL (R213). An ACQREL fence performs the release and then the acquire. -/
  | fenceAcqrel (h : HandId) (i : FmtS)
  /-- TALLY_WAIT (R222). TALLY WAIT makes the crew wait until a tally reaches its target. -/
  | tallyWait (h : HandId) (i : FmtS)
  /-- TALLY_SATISFIED (R222). A tally reaches its waiter's target, and the wait completes as a module-scope acquire. -/
  | tallySatisfied (h : HandId)
  /-- TALLY_READ (R125). TALLY READ reads a tally into a crew register. -/
  | tallyRead (h : HandId) (i : FmtS)
  /-- TAKE (R140). TILE TAKE returns the next stream tile's staging address and invalidates its L1 lines. -/
  | take (h : HandId) (i : FmtS)
  /-- TILE_DONE (R140). TILE DONE returns the credit of the oldest taken tile. -/
  | tileDone (h : HandId) (i : FmtS)
  /-- ALLOC (R141). TILE ALLOC takes a credit and gives a free staging slot. -/
  | alloc (h : HandId) (i : FmtS)
  /-- PUT (R141). TILE PUT hands a tile to its output stream as a die-scope release. -/
  | put (h : HandId) (i : FmtS)
  /-- HMMA (R131). HMMA multiplies two 16 × 16 matrices into the accumulator. -/
  | hmma (h : HandId) (i : FmtX)
  /-- BAR_CREW (R142). BAR CREW completes when the participation mask is active, or stops the crew. -/
  | barCrew (h : HandId) (i : FmtS)
  /-- BAR_SET (R143). BAR SET sends the crew's arrival to the die's barrier collector. -/
  | barSet (h : HandId) (i : FmtS)
  /-- BARRIER_RELEASE (R161). The collector releases a barrier once every participant has arrived. -/
  | barrierRelease (p : Pol) (seq : Nat) (kernel : Nat) (d : Die)
  /-- STRANDED_BARRIER (R144). A crew's barrier or tally wait reaches WATCHDOG and fences the kernel. -/
  | strandedBarrier (h : HandId)
  /-- END (R120). SYS END ends the current task. -/
  | sysEnd (h : HandId) (i : FmtS)
  /-- EXIT (R128). SYS EXIT adds the active lanes to the exited set and empties the mask. -/
  | sysExit (h : HandId) (i : FmtS)
  /-- TRAP (R126). SYS TRAP posts HAND_TRAP, and execution continues. -/
  | sysTrap (h : HandId) (i : FmtS)
  /-- RDCYC (R126). SYS RDCYC reads the cycles since kernel start. -/
  | rdcyc (h : HandId) (i : FmtS)
  /-- RDALM (R126). SYS RDALM reads the Almanac. -/
  | rdalm (h : HandId) (i : FmtS)
  /-- NOP (R125). SYS NOP does nothing. -/
  | nop (h : HandId) (i : FmtS)
  /-- STINT_OCCURRENCE (R150). An occurrence of a stint carries its owner's traffic on its slots, or the slots pass empty. -/
  | stintOccurrence (index : Nat) (cycle : Nat) (ready : Nat) (late : Nat)
  /-- BUNDLE_REPLAY (R18). A transfer that fails its check is replayed once from the bundle's replay buffer. -/
  | bundleReplay (bundle : Nat) (p : Pol) (ok : Bool) (hit : Transfer)
  /-- QUAY_WRITE (R28). An entry is written into a quay, or the writer stalls while the quay is full. -/
  | quayWrite (q : Quay) (e : List Byte)
  /-- QUAY_READ (R29). The MCLK side reads an inbound quay entry in its assigned slot. -/
  | quayRead (q : Quay)
  /-- BIN_READ (R196). A Bin serves a read from its die: it hits, or it starts GETS or RDSEC. -/
  | binRead (d : Die) (p : Pol) (line : Nat) (need : BitVec 8) (hint : Nat)
  /-- BIN_WRITE (R196). A Bin serves a write from its die: it hits, or it starts GETM. -/
  | binWrite (h : HandId)
  /-- GRANARY_EVICTION (R163). The Granary cache evicts a line and writes dirty sectors back to HBM. -/
  | granaryEviction (k : Keel) (set : Nat) (way : Nat)
  /-- HOME_NONCACHING_READ (R194). The home serves a non-caching read, recalling an owner if needed. -/
  | homeNoncachingRead (id : Nat)
  /-- HOME_NONCACHING_WRITE (R194). The home performs a non-caching write, atomic or add-to-line after recalling Bin copies. -/
  | homeNoncachingWrite (id : Nat)
  /-- ADD_TO_LINE (R175). Cooper's addends are applied to a line at the Granary of its home Keel. -/
  | addToLine (d : Die) (p : Pol) (seq : Nat) (va : Nat) (ty : AtlType) (addends : List (Nat × Lane))
  /-- PREFETCH (R177). A range step fills each line into the polder's Bin or Granary partition. -/
  | prefetch (p : Pol) (seq : Nat) (stepNo : Nat)
  /-- FLUSH (R177). A range step writes dirty sectors back to their home. -/
  | flush (p : Pol) (seq : Nat) (stepNo : Nat)
  /-- CLEAN_INVALIDATE (R177). A range step flushes and then invalidates the lines. -/
  | cleanInvalidate (p : Pol) (seq : Nat) (stepNo : Nat)
  /-- DISCARD (R177). A range step drops copies without write-back and marks sectors dead. -/
  | discard (p : Pol) (seq : Nat) (stepNo : Nat)
  /-- TRACKER_FREED (R180). A request waiting for a Keel tracker proceeds when one is free. -/
  | trackerFreed (k : Keel)
  /-- HBM_READ (R183). The HBM controller reads a line from its pseudo-channel. -/
  | hbmRead (k : Keel) (line : Nat)
  /-- HBM_WRITE (R183). The HBM controller writes a line to its pseudo-channel. -/
  | hbmWrite (k : Keel) (line : Nat)
  /-- HBM_REFRESH (R184). A pseudo-channel's refresh interval expires, and a refresh block runs. -/
  | hbmRefresh (i : StackId) (pc : Fin 64)
  /-- STACK_TEMP_READ (R184). The Keel reads a stack's temperature every 32 µs and sets its refresh rate. -/
  | stackTempRead (i : StackId) (c : Nat)
  /-- REFRESH_RATE_FALLBACK (R184). After 1 ms at or below a row's limit minus 3 °C, a stack's refresh rate falls back. -/
  | refreshRateFallback (i : StackId)
  /-- STACK_CEILING_RELEASE (R379). After 1 ms at 92 °C or below, the adjacent die's ceiling returns to 64. -/
  | stackCeilingRelease (i : StackId)
  /-- GETS (R194). The home handles a request for read permission. -/
  | gets (m : CohMsg)
  /-- GETM (R194). The home handles a request for write permission. -/
  | getm (m : CohMsg)
  /-- RDSEC (R194). The home supplies sectors to a listed Bin, or answers NACK_RD. -/
  | rdsec (m : CohMsg)
  /-- PUTE (R194). The home handles an eviction from E. -/
  | pute (m : CohMsg)
  /-- PUTM (R194). The home writes the dirty sectors of an eviction from M. -/
  | putm (m : CohMsg)
  /-- PUTO (R194). The home writes the dirty sectors of an eviction from O. -/
  | puto (m : CohMsg)
  /-- DONE (R195). A Bin's DONE ends a transaction, and the home takes the next queued request. -/
  | done (m : CohMsg)
  /-- INV_ACK (R195). The home counts an invalidation acknowledgement. -/
  | invAck (m : CohMsg)
  /-- FWD_ACK (R195). The home records the owner's new state and COVER. -/
  | fwdAck (m : CohMsg)
  /-- WB_CROSS (R200). The home records that a forwarded or recalled owner has crossed with its own put. -/
  | wbCross (m : CohMsg)
  /-- RECALL_ACK (R195). The home writes the sectors a recalled Bin returns. -/
  | recallAck (m : CohMsg)
  /-- FWD_GETS (R197). An owner Bin supplies a requester for a GETS. -/
  | fwdGets (m : CohMsg)
  /-- FWD_GETM (R197). An owner Bin supplies a requester and gives up the line. -/
  | fwdGetm (m : CohMsg)
  /-- INV (R197). A Bin answers an invalidation. -/
  | inv (m : CohMsg)
  /-- RECALL (R197). A Bin answers a recall under its MODE. -/
  | recall (m : CohMsg)
  /-- GRANT (R197). A Bin collects the granted state and completes once every announced sector has arrived. -/
  | grant (m : CohMsg)
  /-- DATA_H (R197). A Bin collects or installs sectors from the home. -/
  | dataH (m : CohMsg)
  /-- DATA_F (R197). A Bin collects sectors supplied by the owner. -/
  | dataF (m : CohMsg)
  /-- PUT_ACK (R197). A Bin whose put has landed goes to I. -/
  | putAck (m : CohMsg)
  /-- NACK_RD (R197). A Bin whose RDSEC was not listed issues GETS. -/
  | nackRd (m : CohMsg)
  /-- HOLD_EXPIRY (R199). A Bin's HOLD on a newly won line ends, and the messages that waited are answered. -/
  | holdExpiry (d : Die) (line : Nat) (p : Pol)
  /-- LAND_WALK (R233). A walker reads the Land Register entry and the span entry, then replies to the requester. -/
  | landWalk (id : Nat)
  /-- WALKER_FREED (R232). A walk waiting for a walker proceeds when one is free. -/
  | walkerFreed (k : Keel)
  /-- TRANSLATION_MISS (R239). A miss reaching the Wharf opens a miss table entry and is reported to the supervisor. -/
  | translationMiss (id : Nat)
  /-- MISS_ENTRY_FREED (R239). A miss waiting for a free table entry proceeds when one frees. -/
  | missEntryFreed
  /-- LAND_EDIT (R237). GO in LAND_EDIT_CTL checks an edit and writes the entry, or refuses it. -/
  | landEdit (a : RegAcc)
  /-- LAND_EDIT_COMPLETE (R238). Once old translations have drained, BUSY falls and STATUS is set. -/
  | landEditComplete (port : Port)
  /-- LAND_RESUME (R241). LAND_RESUME with ABORT 0 closes a miss and makes its waiting engines walk again. -/
  | landResume (a : RegAcc)
  /-- LAND_ABORT (R241). LAND_RESUME with ABORT 1 closes a miss and fails its waiting accesses as PERMISSION. -/
  | landAbort (a : RegAcc)
  /-- LAND_HWIN_LOCK (R405). Setting LAND_HWIN.LOCK locks the host window base. -/
  | landHwinLock (a : RegAcc)
  /-- HOST_WINDOW_READ (R284). The module issues a read request to a host through a host window. -/
  | hostWindowRead (port : Port) (p : Pol) (off : Nat) (len : Nat) (who : Requester)
  /-- HOST_WINDOW_WRITE (R284). The module issues a posted write to a host through a host window. -/
  | hostWindowWrite (port : Port) (p : Pol) (off : Nat) (data : List Byte) (poison : Bool)
  /-- HOST_COMPLETION (R286). A completion for a module read arrives from the host, or it is discarded as unexpected. -/
  | hostCompletion (port : Port) (tag : Nat) (data : List Byte) (status : Nat) (ep : Bool)
  /-- HOST_TIMEOUT (R286). A host read that goes without completion past its timeout completes poisoned. -/
  | hostTimeout (port : Port) (tag : Nat)
  /-- PORT_RESET (R290). PERST low, Hot Reset or DL_Down starts the reset of a port and its polders. -/
  | portReset (port : Port) (kind : ResetKind)
  /-- PF_FLR (R290). A Function Level Reset of a PF resets the PF, its VFs and the port's polders. -/
  | pfFlr (port : Port)
  /-- VF_FLR (R290). A Function Level Reset of a VF resets it and its bound polder. -/
  | vfFlr (port : Port) (n : Fin 32)
  /-- RESET_COMPLETE (R291). A port reset sequence completes, and the other port is notified. -/
  | resetComplete (port : Port)
  /-- REFCLK_LOSS (R383). A reference clock absent for 1 µs stops the port's PCLK and resets it as DL_Down. -/
  | refclkLoss (port : Port)
  /-- CONFIG_REQUEST (R275). A configuration request is answered from Stage 0. -/
  | configRequest (port : Port) (fn : Fin 32) (write : Bool) (off : Nat) (value : BitVec 32) (be : BitVec 4)
  /-- D3HOT_ENTRY (R276). A function enters D3hot and answers configuration requests only. -/
  | d3hotEntry (port : Port) (fn : Fin 32)
  /-- D0_RETURN (R276). A function returns to D0, and its held MSI-X messages are sent. -/
  | d0Return (port : Port) (fn : Fin 32)
  /-- HOST_BAR2_READ (R282). A host read through BAR index 2 is checked and performed at the home. -/
  | hostBar2Read (src : Src) (off : Nat) (len : Nat)
  /-- HOST_BAR2_WRITE (R282). A host write through BAR index 2 is checked and performed at the home. -/
  | hostBar2Write (src : Src) (off : Nat) (data : List Byte) (ep : Bool)
  /-- BAR_RESIZE (R281). A Resizable BAR write changes the size of BAR index 2 while Memory Space Enable is 0. -/
  | barResize (port : Port) (vf : Bool) (sizeLog : Nat)
  /-- MSIX_UNMASK (R287). Unmasking a vector sends the message whose bit is pending. -/
  | msixUnmask (port : Port) (fn : Fin 32) (vector : Nat)
  /-- MSIX_ENTRY_WRITE (R412). A write to an MSI-X table entry takes effect for the next message. -/
  | msixEntryWrite (port : Port) (fn : Fin 32) (off : Nat) (size : Nat) (value : Word)
  /-- VF_ENABLE (R277). Setting VF Enable makes the bound VFs appear. -/
  | vfEnable (port : Port) (numVfs : Nat)
  /-- VF_DISABLE (R296). Clearing VF Enable closes every tenant polder of the port that is not already CLOSED. -/
  | vfDisable (port : Port)
  /-- DOE_DISCOVERY (R289). A DOE Discovery request is answered with the supported objects. -/
  | doeDiscovery (port : Port) (index : Nat)
  /-- ATTEST_REPORT (R333). ATTEST OP 1 returns a signed attestation report. -/
  | attestReport (port : Port) (request : List Byte)
  /-- ATTEST_CERTIFICATE (R333). ATTEST OP 2 returns the identity certificate. -/
  | attestCertificate (port : Port)
  /-- FEATURE_OFFER (R334). FEATURE OP 1 returns the offered feature set. -/
  | featureOffer (port : Port)
  /-- FEATURE_ACCEPT (R334). FEATURE OP 2 confirms a subset of the offer, or refuses it. -/
  | featureAccept (port : Port) (word : Word)
  /-- DOE_CHARTER (R289). The CHARTER object returns the port's resources. -/
  | doeCharter (port : Port)
  /-- DOE_ABORT (R289). A DOE Abort resets its own mailbox only. -/
  | doeAbort (port : Port)
  /-- OPEN (R296). POL command OPEN moves a CLOSED tenant polder to OPEN. -/
  | polOpen (p : Pol) (a : RegAcc)
  /-- CLOSE (R296). POL command CLOSE advances the generation and closes a tenant polder. -/
  | polClose (p : Pol) (a : RegAcc)
  /-- BUMP (R296). POL command BUMP advances the generation of an OPEN polder. -/
  | polBump (p : Pol) (a : RegAcc)
  /-- FREEZE (R296). POL command FREEZE moves a tenant polder to FREEZING. -/
  | polFreeze (p : Pol) (a : RegAcc)
  /-- FREEZE_EFFECT (R305). At the first tide boundary after FREEZE, pickup stops and engines suspend or drain. -/
  | freezeEffect (p : Pol)
  /-- FREEZE_COMPLETE (R305). Once outstanding work completes, the polder becomes FROZEN. -/
  | freezeComplete (p : Pol)
  /-- THAW (R296). POL command THAW requests that a frozen polder resume. -/
  | polThaw (p : Pol) (a : RegAcc)
  /-- THAW_EFFECT (R308). At the next tide boundary, suspended engines resume and the polder is OPEN. -/
  | thawEffect (p : Pol)
  /-- SAVE (R309). POL command SAVE writes a frozen polder's save record. -/
  | polSave (p : Pol) (a : RegAcc)
  /-- RESTORE (R311). POL command RESTORE checks a save record and applies it to a CLOSED polder. -/
  | polRestore (p : Pol) (a : RegAcc)
  /-- POL_CMD_REFUSED (R296). A reserved POL command code is refused with STATUS 1. -/
  | polCmdRefused (p : Pol) (a : RegAcc)
  /-- LASER_LOST (R247). Laser light below its limit for 10 µs takes the engine's ports DOWN. -/
  | laserLost (e : Engine)
  /-- LIGHT_RESTORED (R247). Light steady for 1 ms sets LIGHT_OK, and the ports retrain. -/
  | lightRestored (e : Engine)
  /-- OE_SHUTDOWN (R247). A write of 1 to SHUTDOWN turns an optical engine off. -/
  | oeShutdown (e : Engine) (a : RegAcc)
  /-- OE_SHUTDOWN_CLEAR (R247). A write of 0 to SHUTDOWN turns an optical engine back on. -/
  | oeShutdownClear (e : Engine) (a : RegAcc)
  /-- LINK_TRAINING (R249). A port with light that is not OFF starts training. -/
  | linkTraining (zp : ZPort)
  /-- LINK_UP (R249). Training completes, and the port goes UP. -/
  | linkUp (zp : ZPort) (f : TrainFind)
  /-- LINK_DOWN (R249). A port that loses light, or sees no valid flit for 1 µs, goes DOWN. -/
  | linkDown (zp : ZPort)
  /-- RETRAIN (R249). A write of 1 to RETRAIN forces a new training. -/
  | retrain (zp : ZPort) (a : RegAcc)
  /-- ZL_PORT_OFF (R249). A write of 1 to OFF stops the port's transmitter. -/
  | zlPortOff (zp : ZPort) (a : RegAcc)
  /-- ZL_PORT_ON (R249). A write of 0 to OFF lets the port train again. -/
  | zlPortOn (zp : ZPort) (a : RegAcc)
  /-- ZL_PORT_LOCK (R405). Setting ZL_PORT_CTL_n.LOCK locks MAX_ZL2. -/
  | zlPortLock (zp : ZPort) (a : RegAcc)
  /-- PORT_LIMIT (R250). A port unfit for 10 ms ends the manifests that use it as FENCED. -/
  | portLimit (zp : ZPort)
  /-- FLIT_RECEIVE (R254). A flit arrives, is checked, keeps or requests resends, and processes ACK and NAK. -/
  | flitReceive (zp : ZPort) (flit : List Byte) (corrected : Nat) (uncorrected : Bool)
  /-- NAK_REPEAT (R254). A NAK whose gap still stands after 1 µs is repeated. -/
  | nakRepeat (zp : ZPort)
  /-- FLIT_RELEASE (R257). A landed flit is released into the link receive quay at its booked Almanac time. -/
  | flitRelease (zp : ZPort)
  /-- ALM_SYNC_SEND (R266). Every 256 tides, a time master or the lower-numbered end sends ALM_SYNC. -/
  | almSyncSend (zp : ZPort)
  /-- ALM_SYNC (R258). A received ALM_SYNC is answered with ALM_REQ. -/
  | almSync (zp : ZPort) (src : Nat) (b : BandMsg)
  /-- ALM_REQ (R266). A received ALM_REQ is answered with ALM_RESP. -/
  | almReq (zp : ZPort) (src : Nat) (b : BandMsg)
  /-- ALM_RESP (R266). A received ALM_RESP gives the port offset, and steers the Almanac on its ZL_PORT. -/
  | almResp (zp : ZPort) (src : Nat) (b : BandMsg)
  /-- ALM_EXCHANGE_MISSING (R258). Three missing offset exchanges make the port unfit. -/
  | almExchangeMissing (zp : ZPort)
  /-- ZL_WRITE (R263). An incoming WRITE is checked, performed and counted in its tally. -/
  | zlWrite (zp : ZPort) (t : Txn)
  /-- ZL_READ (R261). An incoming READ is checked and answered with READ_DATA. -/
  | zlRead (zp : ZPort) (t : Txn)
  /-- READ_DATA (R264). Incoming READ_DATA completes a remote read, or it is discarded as late. -/
  | readData (zp : ZPort) (t : Txn)
  /-- ZL_BARRIER (R267). A BARRIER transaction arrives at the collector or returns as the release. -/
  | zlBarrier (zp : ZPort) (t : Txn)
  /-- POWER_REPORT (R271). A peer's lateness report is received for the epoch. -/
  | powerReport (zp : ZPort) (src : Nat) (b : BandMsg)
  /-- POWER_OFFER (R271). A power offer is received, and the first is answered with POWER_TAKE. -/
  | powerOffer (zp : ZPort) (src : Nat) (b : BandMsg)
  /-- POWER_TAKE (R271). A TAKE is received, and the giver lowers its cap at the next epoch. -/
  | powerTake (zp : ZPort) (src : Nat) (b : BandMsg)
  /-- NOTICE (R270). A NOTICE that matches a running manifest raises DEADLINE_MISS or fences it. -/
  | notice (zp : ZPort) (src : Nat) (b : BandMsg)
  /-- POWER_EPOCH (R271). At the end of each 256-tide epoch, the module sends reports and offers and applies shifts. -/
  | powerEpoch
  /-- COLLECTIVE_TIMEOUT (R269). A collective step's tally incomplete for LIMIT tides fences the manifest and sends NOTICE. -/
  | collectiveTimeout (p : Pol) (seq : Nat) (stepNo : Nat)
  /-- ZL_COMMONS_LOCK (R405). Setting ZL_COMMONS.LOCK locks COMMONS and THRESH. -/
  | zlCommonsLock (a : RegAcc)
  /-- EVENT_EDGE (R340). A source's event message is latched, merged or held at the sluice. -/
  | eventEdge
  /-- DAYBOOK_RECORD_WRITE (R342). The record writer writes the next pending record of a class into its day book. -/
  | daybookRecordWrite (cls : Fin 2)
  /-- SLUICE_RELEASE (R341). A held edge is latched once its pending bit clears, and its engine resumes. -/
  | sluiceRelease (cls : Fin 2) (p : Pol) (source : Nat)
  /-- DAYBOOK_ENABLE (R345). A write of ENABLE 1 starts a day book with PROD and CONS at 0. -/
  | daybookEnable (p : Pol) (cls : Fin 2) (a : RegAcc)
  /-- DAYBOOK_DISABLE (R344). A write of ENABLE 0 discards the book's pending records and releases its held engines. -/
  | daybookDisable (p : Pol) (cls : Fin 2) (a : RegAcc)
  /-- DAYBOOK_CONS_WRITE (R348). A write of CONS advances the consumer index of a day book. -/
  | daybookConsWrite (p : Pol) (cls : Fin 2) (a : RegAcc)
  /-- DAYBOOK_OVERFLOW (R350). A tenant's book stays full for 2 µs, and DAYBOOK_OVERFLOW goes to its supervisor. -/
  | daybookOverflow (p : Pol) (cls : Fin 2)
  /-- POLDER_FENCED (R350). A book stays full for LIMIT ms, and the tenant polder is fenced. -/
  | polderFenced (p : Pol) (cls : Fin 2)
  /-- MILL_CLOCK_LOSS (R353). A Keel sees no forwarded MCLK from a Mill die for 64 cycles. -/
  | millClockLoss (d : Die)
  /-- FORWARDING_PATH_LOSS (R353). A Keel loses both MCLK forwarding paths in service. -/
  | forwardingPathLoss (k : Keel) (join : Fin 8)
  /-- BUNDLE_DEAD (R354). Sixteen failed replays in a row make a bundle dead. -/
  | bundleDead (bundle : Nat)
  /-- UNCORRECTABLE_ERROR (R353). An uncorrectable error in the control state of a Mill die or Keel fences it. -/
  | uncorrectableError (part : Part)
  /-- MEMORY_UE (R353). An uncorrectable data error poisons the struck sectors and is reported. -/
  | memoryUe (level : Nat) (d : Die) (line : Nat) (sectors : BitVec 8)
  /-- MILL_RESET (R357). RESET in MILL_CTL_d starts the reset of a Mill die. -/
  | millReset (d : Die) (a : RegAcc) (clockOk : Bool) (faults : List LaneFault)
  /-- DIE_RETURNED (R357). A reset die returns to service at the next tide boundary. -/
  | dieReturned (d : Die)
  /-- WHARF_FAILURE (R360). A Wharf die failure stops the module at Stage 0 with FAIL 6. -/
  | wharfFailure
  /-- POWER_SAMPLE (R370). The controller samples the input every 1 µs and lowers or raises the common limit L. -/
  | powerSample (volts : Nat) (amps : Nat) (mills : List Nat)
  /-- INPUT_RANGE (R362). The 50 V input out of 44–56 V for 10 µs raises INPUT_RANGE. -/
  | inputRange (volts : Nat)
  /-- INPUT_POWER_LOSS (R362). Input below 40 V for 100 µs, or above 60 V, stops the converters. -/
  | inputPowerLoss (volts : Nat)
  /-- CAP_LIMIT_WRITE (R363). A write of LIMIT in PWR_CAP recomputes the cap in force. -/
  | capLimitWrite (a : RegAcc)
  /-- PWR_CAP_LOCK (R405). Setting PWR_CAP.LOCK locks LIMIT. -/
  | pwrCapLock (a : RegAcc)
  /-- DIE_TEMP_READ (R376). Die thermal sensors are read every 10 µs, and thermal conditions are set. -/
  | dieTempRead (i : Fin 13) (c : Nat)
  /-- THERMAL_CEILING_STEP (R376). Every 100 µs, a thermal ceiling falls or rises by 8 levels. -/
  | thermalCeilingStep (i : Fin 13)
  /-- OE_TEMP_READ (R376). An optical engine at 95 °C sets SHUTDOWN and takes its ports OFF. -/
  | oeTempRead (e : Engine) (c : Nat)
  /-- STEP_DOWN (R372). A die whose level has stayed at or below the lower ceiling for 1 ms moves down one step. -/
  | stepDown (d : Die)
  /-- STEP_UP (R372). A die with headroom for 1 ms and a higher preferred step moves up one step. -/
  | stepUp (d : Die)
  /-- VOLTAGE_SETTLED (R368). A step change's voltage settles, and the new ceiling takes effect. -/
  | voltageSettled (d : Die)
  /-- PHASE_START (R373). At a booked phase start, the OPP nibble is applied to the phase's dies. -/
  | phaseStart (p : Pol) (seq : Nat) (phase : Fin 8)
  /-- DROOP (R378). A droop detector stops its tile's issue for 32 cycles and raises DROOP. -/
  | droop (d : Die) (detector : Fin 32)
  /-- DROOP_RESUME (R378). After 32 cycles the tile stopped by droop resumes issue. -/
  | droopResume (d : Die) (tile : Fin 16)
  /-- THERMTRIP_RELEASE (R386). THERMTRIP_N is released 50 ms after the converters stop. -/
  | thermtripRelease
  /-- CLEAR_FAULTS (R389). PMBus CLEAR_FAULTS clears status bits whose condition has passed. -/
  | clearFaults
  /-- STATUS_WORD (R389). PMBus STATUS_WORD returns the summary status. -/
  | statusWord
  /-- STATUS_INPUT (R389). PMBus STATUS_INPUT returns the input warnings. -/
  | statusInput
  /-- STATUS_TEMPERATURE (R389). PMBus STATUS_TEMPERATURE returns the over-temperature warning. -/
  | statusTemperature
  /-- STATUS_CML (R389). PMBus STATUS_CML returns the communication faults. -/
  | statusCml
  /-- STATUS_MFR_SPECIFIC (R389). PMBus STATUS_MFR_SPECIFIC returns the Wharf failure bit. -/
  | statusMfrSpecific
  /-- READ_VIN (R389). PMBus READ_VIN returns the input voltage. -/
  | readVin
  /-- READ_IIN (R389). PMBus READ_IIN returns the input current. -/
  | readIin
  /-- READ_PIN (R389). PMBus READ_PIN returns the input power. -/
  | readPin
  /-- READ_TEMPERATURE_1 (R389). PMBus READ_TEMPERATURE_1 returns the highest die or stack reading. -/
  | readTemperature1
  /-- PMBUS_REVISION (R389). PMBus PMBUS_REVISION returns 0x33. -/
  | pmbusRevision
  /-- MFR_ID (R389). PMBus MFR_ID returns TCHIGAL. -/
  | mfrId
  /-- MFR_MODEL (R389). PMBus MFR_MODEL returns the ordering code. -/
  | mfrModel
  /-- UNSUPPORTED_COMMAND (R389). An unsupported PMBus command is not acknowledged and sets STATUS_CML bit 7. -/
  | unsupportedCommand (code : BitVec 8)
  /-- ALERT_RESPONSE (R387). The module answers the SMBus Alert Response Address while it drives ALERT_N low. -/
  | alertResponse
  /-- ENROL (R409). SEC command ENROL fills an owner key slot after signature checks. -/
  | enrol (port : Port)
  /-- REVOKE (R409). SEC command REVOKE empties an owner key slot after signature checks. -/
  | revoke (port : Port)
  /-- FW_WRITE (R410). SEC command FW_WRITE writes firmware bytes into the inactive slot. -/
  | fwWrite (port : Port)
  /-- FW_COMMIT (R410). SEC command FW_COMMIT verifies the inactive slot and sets FW_PENDING. -/
  | fwCommit (port : Port)
  /-- LINK_SLOT (R256). In each 1.28 ns slot of a tide, a Zelpel Link port transmits one flit. The flit is a data flit from its stint, a resend in the retry band, a link-band message or an idle flit. -/
  | linkSlot (zp : ZPort)
  /-- PERST_RELEASE (R275). A port's reset pin PERSTA_N or PERSTB_N rises, and from then on the port's link may train. -/
  | perstRelease (port : Port)
  /-- PCIE_LINK_UP (R275). PCIe link training of a port completes, and the link comes up at a negotiated rate, width and mode that GH_PORT_n reports. -/
  | pcieLinkUp (port : Port) (rate : Nat) (width : Nat) (flit : Bool)
  /-- L0P_WIDTH_CHANGE (R274). The link partner requests an L0p width change, and the port grants it, which changes L0P and WIDTH. -/
  | l0pWidthChange (port : Port) (width : Nat)
deriving DecidableEq, Repr

end Sys2Proof
end

