-- ==== Sys2Proof/Machine/State.lean ====
section
/-! DEFINITION. The state of the module as plain data: one record for each part the manual describes, each
field's default being its value at reset (the log entries name those the manual does not give), the
machine's faults and refusals, and State.reset. Times are ages in ns of the module oscillator (`clock`),
unless a docstring says Almanac. -/

namespace Sys2Proof.Machine

open Sys2Proof

/-! ## Fuses and flash (chapters 1, 15 and 19): what survives a loss of power -/

/-- A die's fuses (R337). (DESIGN CHOICE: log 6) -/
structure DieFuse where
  features : Word := 0x1FFF
  rev : Nat := 1
  unread : Bool := false
deriving DecidableEq, Repr

/-- An owner key slot in flash (R330): the SHAKE256 digest of its key, the key and its SVN floor. (DESIGN CHOICE: log
6) -/
structure KeySlot where
  filled : Bool := false
  digest : List Byte := []
  key : List Byte := []
  floor : Nat := 0
deriving DecidableEq, Repr

/-- Fuses and flash. Dies are numbered as in GH_DIE_i: 0 Wharf, 1-4 Keels, 5-12 Mill dies. (DESIGN CHOICE: log 6) -/
structure NonVolatile where
  dies : SMap DieFuse := []
  serial : Word := 1
  fibre : Nat := 1
  coldPlate : Nat := 1
  /-- Spares consumed by fuses, by bundle number (R14). -/
  fusedSpares : SMap Nat := []
  /-- Pseudo-channels mapped out by fuse, by stack (R182). -/
  fusedPcs : SMap Word := []
  /-- Owner key slots 0-3. -/
  keys : SMap KeySlot := []
  /-- The active firmware slot (FW_SLOT), the two slots' bytes, and the fused floor (R320). -/
  fwSlot : Nat := 0
  fwBytes : SMap (List Byte) := []
  fwFloor : Nat := 0
  /-- FW_PENDING: the inactive slot becomes active at the next power-good (R410). -/
  fwPending : Bool := false
deriving DecidableEq, Repr

/-! ## Start-up and image loading (chapter 15) -/

/-- One PF's BOOT_LOAD_CTL. GO reads 0 once the load is accepted or refused. -/
structure LoadCtl where
  reason : Nat := 0
  sect : Nat := 0
  record : Nat := 0
  status : Nat := 0
  consent : Bool := false
  busy : Bool := false
deriving DecidableEq, Repr

/-- The stages (R318), BOOT_STAGE, the hold group (R321) and the load that runs. (DESIGN CHOICE: log 8; DESIGN CHOICE:
log 63) -/
structure Boot where
  inserted : Bool := true
  /-- The level of PWRGOOD_IN. -/
  pwrGood : Bool := false
  /-- The converters run. -/
  powered : Bool := false
  /-- Stage 0 is reached: the mask-ROM sequencer has read the straps and fuses. -/
  stage0 : Bool := false
  stage : Nat := 0
  failed : Bool := false
  fail : Nat := 0
  atMs : Nat := 0
  goodAt : Nat := 0
  /-- MODULE_ID straps, read at Stage 0 (R390). -/
  moduleId : Nat := 0
  /-- The package feature set (R337). -/
  package : Word := 0
  /-- The hold group: its first local DPA (R321). -/
  holdBase : Option Nat := none
  /-- IMAGE_HALF, once an image is loaded. -/
  imageHalf : Nat := 0
  loads : SMap LoadCtl := []
  /-- The port of an accepted load whose checks have passed and whose Stage 3 is to come. -/
  loading : Option Port := none
  /-- The checked image of that load. -/
  loadImage : Option Image := none
  /-- The half of the hold group that holds the image of that load. -/
  loadHalf : Nat := 0
  loadedBy : Nat := 0
  /-- BOOT_FWD.PATHS. -/
  paths : BitVec 16 := 0
  granaryOk : Bool := true
  /-- Measurement slots (R331). -/
  meas : SMap (List Byte) := []
  wharfFailed : Bool := false
  /-- THERMTRIP_N held low, and the age at which it fell (R386). -/
  tripLow : Bool := false
  tripAt : Nat := 0
  /-- A port reset that waits for Stage 3 of its own load (R325). -/
  resetAfterLoad : Option ResetKind := none
deriving DecidableEq, Repr

/-! ## The Almanac (chapter 3) -/

/-- The Almanac and the ALM block. (DESIGN CHOICE: log 8) -/
structure Almanac where
  now : Nat := 0
  /-- ALM_NOW_HI, one copy per function: 32 x port + function. -/
  nowHi : SMap Nat := []
  source : Nat := 0
  zlPort : Nat := 0
  master : Bool := false
  lock : Bool := false
  offset : Int := 0
  stepRefused : Bool := false
  holdoverSeen : Bool := false
  hops : Nat := 0
  /-- 0 FREE, 1 ACQUIRING, 2 LOCKED, 3 HOLDOVER. -/
  state : Nat := 0
  ppsDelay : Nat := 0
  masterPorts : Word := 0
  /-- A step written and not yet applied (R64). -/
  step : Option Int := none
  /-- Consecutive updates within, and outside, the accuracy (R63). -/
  within : Nat := 0
  outside : Nat := 0
  missing : Nat := 0
  /-- The slew in force, in parts per million, at most 25 either way (R64). -/
  slew : Int := 0
  /-- What the rate and the slew have made of a nanosecond not yet counted, in millionths. -/
  rateRest : Int := 0
  slewRest : Int := 0
  /-- What is left of the measured offset to remove, in ns. -/
  slewLeft : Int := 0
  /-- The rate that the discipline has learned, in parts per million of the module oscillator's (R63). -/
  rate : Int := 0
  /-- ALM_PPS_OUT, and the age at which it rose. -/
  pps : Bool := false
  ppsAt : Nat := 0
deriving DecidableEq, Repr

/-! ## Manifests and streams (chapters 2 and 3) -/

/-- A manifest that was admitted (R42, R67). -/
structure Manifest where
  /-- Its number in the order of the polder's slots since Stage 3. -/
  seq : Nat := 0
  /-- The record as its slot held it. -/
  raw : List Byte := []
  slot : Nat := 0
  hard : Bool := false
  afterPrev : Bool := false
  notify : Bool := false
  gen : Nat := 0
  tag : Nat := 0
  schedule : Nat := 0
  deadline : Nat := 0
  earliest : Nat := 0
  opp : Nat := 0xFFFFFFFF
  freeboard : Nat := 0
  completion : Nat := 0
  /-- HINT and ADDRESS of the operands in use. -/
  operands : List (Nat × Nat) := []
  /-- The pickup boundary's stamp, the start tide, and the start and end bounds (R67). -/
  tb : Nat := 0
  startTide : Nat := 0
  startNs : Nat := 0
  endNs : Nat := 0
  /-- WARN and REQUIRE_LOCK at admission (R77). -/
  warn : Nat := 4
  requireLock : Bool := false
  /-- Restored and not yet admitted again (R312). -/
  readmit : Bool := false
  /-- The previous manifest of AFTER_PREV: its seq, if it is admitted. -/
  prev : Option Nat := none
deriving DecidableEq, Repr

/-- A tile that a stream has in flight or staged: its bytes as they land, its poisoned sectors of 128 B, requests
still to land, whether a Hand has taken it, the Cask groups decoded or encoded of a Cask page's tile (R111, R112). -/
structure TileBuf where
  bytes : List (Nat × Byte) := []
  poison : List Nat := []
  outstanding : Nat := 0
  staged : Bool := false
  taken : Bool := false
  cask : Bool := false
  groups : List Nat := []
  /-- On a Cask page, the local line of each line of the tile; none for one that translation refused. -/
  lines : List (Option Nat) := []
  /-- The staging slot that it keeps until its credit is returned, of a tile that a kernel has put (R141). -/
  slot : Option Nat := none
deriving DecidableEq, Repr

/-- A running stream (R52, R54). -/
structure StreamRun where
  /-- Credits left. -/
  credits : Nat := 0
  /-- Next tile to issue or emit; tiles completed. -/
  next : Nat := 0
  completed : Nat := 0
  tiles : SMap TileBuf := []
  /-- Tiles that a kernel has put, by index (R141). -/
  put : List Nat := []
  /-- Tiles handed over: their credit is on its way back. -/
  returning : Nat := 0
  ended : Bool := false
  /-- Tiles that its destination has and no operation has used, and the elements used of the first of them. -/
  given : List TileBuf := []
  pos : Nat := 0
  /-- Tiles that its source has made, and the element codes, scales and poison of the one in the making. -/
  made : Nat := 0
  codes : List Nat := []
  scales : List Nat := []
  bad : Bool := false
deriving DecidableEq, Repr

/-- A running kernel (R119 to R121). -/
structure KernelRun where
  started : Bool := false
  startedAt : Nat := 0
  /-- Tasks ended. -/
  tasksDone : Nat := 0
  fenced : Bool := false
  ended : Bool := false
  /-- Per Mill die, SET barriers completed (R143). -/
  sets : SMap Nat := []
deriving DecidableEq, Repr

/-- A range step in progress (R178). -/
structure RangeRun where
  started : Bool := false
  base : Nat := 0
  length : Nat := 0
  op : Nat := 0
  level : Nat := 0
  hint : Nat := 0
  /-- Lines taken so far, and line operations not yet performed. -/
  lines : Nat := 0
  outstanding : Nat := 0
  done : Bool := false
  /-- The granule that was refused last: it raises once. -/
  refused : Option Nat := none
deriving DecidableEq, Repr

/-- A manifest that has started (R47), with the sequencer's accounts of it. -/
structure Run where
  m : Manifest := {}
  /-- The age at its start. -/
  startedAt : Nat := 0
  lag : Nat := 0
  charged : Causes := {}
  uncharged : Causes := {}
  /-- The ages until which each cause has delayed the manifest (R72). -/
  covered : Causes := {}
  lowRaised : Bool := false
  missRaised : Bool := false
  streams : SMap StreamRun := []
  kernels : SMap KernelRun := []
  ranges : SMap RangeRun := []
  /-- Phases started, and the running phase. -/
  phase : Nat := 0
  /-- Stores on their way to their homes. -/
  stores : Nat := 0
  /-- Suspended by a freeze, since the age (R305). -/
  suspended : Bool := false
  /-- The Almanac value when the last stream completed. -/
  lastEnd : Nat := 0
deriving DecidableEq, Repr

/-- A completion record on its way to memory (R50, R243): where it goes and what follows it. -/
structure RecordWait where
  seq : Nat
  va : Nat
  tag : Nat
  bytes : List Byte
  stale : Bool := false
  notify : Bool := false
deriving DecidableEq, Repr

/-- A polder: ring, admission, grant, command and generation state (chapters 2, 3, 14). -/
structure Polder where
  /-- 0 UNBOUND, 1 CLOSED, 2 OPEN, 3 FREEZING, 4 FROZEN (R295). -/
  state : Nat := 0
  gen : Nat := 0
  port : Nat := 0xFF
  vf : Nat := 0
  share : Nat := 0
  -- CSW_MRING_BASE_p, CSW_MRING_CTL_p
  ringBase : Nat := 0
  ringSize : Nat := 0
  stale : Nat := 0
  rejects : Nat := 0
  consumer : Nat := 0
  consumed : Nat := 0
  ringPhase : Bool := true
  frozenBit : Bool := false
  enable : Bool := false
  /-- ENABLE was set since the last boundary, or its clear takes effect at the next (R41). -/
  stopping : Bool := false
  -- CSW_FB_CFG_p, and the values in effect since the last boundary (R77)
  warn : Nat := 4
  requireLock : Bool := false
  warnNow : Nat := 4
  lockNow : Bool := false
  -- the sequencer's lists
  seqNext : Nat := 0
  pending : List Manifest := []
  running : SMap Run := []
  /-- Completion records not yet written. -/
  records : List RecordWait := []
  /-- The latest manifest admitted or refused. -/
  prev : Option Nat := none
  /-- The tide of the last pickup, so that a ring is read once per tide. -/
  pickedTide : Option Nat := none
  /-- Slots taken in this tide. -/
  takenNow : Nat := 0
  -- POL_CTL_p
  cmd : Nat := 0
  mode : Nat := 0
  status : Nat := 0
  busy : Bool := false
  /-- FREEZE asked and not yet in effect; THAW asked. -/
  freezeAsked : Bool := false
  thawAsked : Bool := false
  frozenAt : Nat := 0
  -- POL_GRANT_p
  job : Nat := 0
  hi : Nat := 0
  lo : Nat := 0
  rd : Bool := false
  wr : Bool := false
  saveBase : Nat := 0
  tallies : SMap Nat := []
  /-- The model's own: bytes that completed collective steps have waited for, by tally. -/
  tallyUsed : SMap Nat := []
  -- CSW_SLIP_p
  replays : Nat := 0
  slips : Nat := 0
  emptyLate : Nat := 0
  slipHeld : Nat := 0
  deadReads : Nat := 0
  -- CRIER_LATE_p, and the orphans of the last advance (R351)
  lastGen : Nat := 0
  lateCount : Nat := 0
  orphans : Nat := 0
  orphanGen : Nat := 0
  discarded : Nat := 0
deriving DecidableEq, Repr

/-! ## Memory (chapters 8, 9 and 11) -/

/-- The marks beside a 1 KiB line: dead and poisoned sectors, the Cask tag (R109, R172, R204). -/
structure Mark where
  dead : BitVec 8 := 0
  poison : BitVec 8 := 0
  tag : BitVec 8 := 0
  /-- Sectors whose data here is a dead store's, and what they held before the run of dead stores (R173). -/
  run : BitVec 8 := 0
  before : SMap Byte := []
  runPoison : BitVec 8 := 0
deriving DecidableEq, Repr

/-- A line of a Granary cache: `line` is its local DPA div 1,024 (R163). -/
structure GranLine where
  valid : Bool := false
  line : Nat := 0
  pol : Nat := 0
  present : BitVec 8 := 0
  dirty : BitVec 8 := 0
  dead : BitVec 8 := 0
  poison : BitVec 8 := 0
  /-- Marked keep (R171). -/
  keep : Bool := false
  used : Nat := 0
  data : SMap Byte := []
deriving DecidableEq, Repr

/-- The states of a Bin line (R188, R189). -/
inductive BinSt where
  | i | s | e | m | o
  | isAD | isA | isD | imAD | imA | imD | smAD | smA | smD | omAD | omA | omD
  | eiA | miA | oiA
deriving DecidableEq, Repr

/-- An access that waits at a Bin (R174, R196): the sectors it reads, or the store it makes. -/
structure BinWait where
  read : BitVec 8 := 0
  write : Bytes := []
  dead : Bool := false
  poison : Bool := false
  hint : Nat := 0
  gen : Nat := 0
  hand : Nat := 0
deriving DecidableEq, Repr

/-- A way of a Bin. -/
structure BinLine where
  st : BinSt := .i
  line : Nat := 0
  pol : Nat := 0
  valid : BitVec 8 := 0
  dirty : BitVec 8 := 0
  dead : BitVec 8 := 0
  poison : BitVec 8 := 0
  keep : Bool := false
  used : Nat := 0
  data : SMap Byte := []
  /-- Dead sectors that were dirty before their run of dead stores, and what they held then (R173). -/
  kept : BitVec 8 := 0
  before : SMap Byte := []
  keptPoison : BitVec 8 := 0
  /-- The hint of the last access. -/
  hint : Nat := 0
  /-- NEED of the outstanding GETS or GETM. -/
  need : BitVec 8 := 0
  /-- The GRANT received: STATE, DATA_F sectors, DATA_H sectors (R197). -/
  grant : Option (Nat × BitVec 8 × BitVec 8) := none
  /-- Sectors collected, their bytes, poison and MARK. -/
  got : BitVec 8 := 0
  gotF : BitVec 8 := 0
  bufPoison : BitVec 8 := 0
  mark : BitVec 8 := 0
  buf : SMap Byte := []
  /-- Sectors that an outstanding RDSEC asks for. -/
  rdsec : BitVec 8 := 0
  waits : List BinWait := []
  /-- The age until which the line is held (R199), and messages that wait for it. -/
  holdUntil : Nat := 0
  held : List CohMsg := []
deriving DecidableEq, Repr

/-- The entry states of a home's shadow tags (R187). -/
inductive EntSt where
  | none | s | x | o
deriving DecidableEq, Repr

/-- A shadow entry. -/
structure Shadow where
  st : EntSt := .none
  line : Nat := 0
  pol : Nat := 0
deriving DecidableEq, Repr

/-- The busy states of R195. -/
inductive Busy where
  | a | d | r
deriving DecidableEq, Repr

/-- What a home's transaction serves. -/
inductive Serving where
  | coh (m : CohMsg)
  | many (ms : List CohMsg)
  | req (r : HomeReq)
  /-- The sharers of a line whose owner's die is fenced drop their copies (R205). -/
  | sweep
deriving DecidableEq, Repr

/-- The transaction of a busy line (R193 to R195). -/
structure HomeTxn where
  busy : Busy := .d
  serving : Serving := .many []
  /-- Answers awaited: the Bin and polder each comes from. -/
  await : List (Nat × Nat) := []
  /-- Crossing puts awaited. -/
  awaitPut : List (Nat × Nat) := []
  /-- Bins sent a forward or a RECALL, whose put is a crossing put. -/
  sent : List (Nat × Nat) := []
  cover : BitVec 8 := 0
  /-- The owner's new state: 0 I, 1 S, 4 O. -/
  ownerNew : Option Nat := none
  ownerBin : Option (Nat × Nat) := none
  /-- NEED of a GETS, N of a GETM (R193). -/
  want : BitVec 8 := 0
  /-- Sharers were sent RECALL(DROP) in a sweep; a sweep follows the transaction (R205). -/
  drop : Bool := false
  sweep : Bool := false
  /-- Entries of other Bins to write at DONE, by key. -/
  others : List (Nat × Shadow) := []
  /-- Entries to write at DONE: Bin, set, way, polder, state. -/
  final : List (Nat × Nat × Nat × Nat × EntSt) := []
  dones : Nat := 0
  queue : List Serving := []
deriving DecidableEq, Repr

/-- A translation cache entry (R236). -/
structure TransEntry where
  pol : Nat := 0
  index : Nat := 0
  span : Bool := false
  value : Word := 0
  used : Nat := 0
deriving DecidableEq, Repr

/-- The engines whose accesses are translated (R240 byte 23). -/
inductive EngineRef where
  | porter (die n : Nat) (pol seq stream : Nat)
  | hand (h : Nat)
  /-- Scale, Sieve or Cooper of a die: kind 1, 2 or 3. -/
  | station (kind die : Nat) (pol seq : Nat)
  | sequencer (pol seq : Nat)
  | wharf (pol : Nat)
deriving DecidableEq, Repr

/-- Where a walk stands (R232, R239, R241). -/
inductive WalkSt where
  | noWalker | walking | missSent | noEntry | waiting (serial : Nat) | ready | aborted | fencedKeel
deriving DecidableEq, Repr

/-- A walk, and the access that waits for it. -/
structure Walk where
  id : Nat
  engine : EngineRef
  pol : Nat
  gen : Nat
  va : Nat
  /-- 0 read, 1 write, 2 atomic or add-to-line, 3 range operation. -/
  acc : Nat
  tag : Nat := 0
  st : WalkSt := .walking
  orphan : Bool := false
  /-- The age since which the access waits (R72). -/
  since : Nat := 0
deriving DecidableEq, Repr

/-- An open miss (R239). -/
structure Miss where
  pol : Nat
  index : Nat
  serial : Nat
deriving DecidableEq, Repr

/-- One PF's LAND registers. -/
structure LandRegs where
  idx : Nat := 0
  val : Word := 0
  status : Nat := 0
  busy : Bool := false
  /-- The old value of an accepted edit that has not completed (R238). -/
  old : Word := 0
  joins : Nat := 0
  aborts : Nat := 0
  stray : Nat := 0
  hwin : Nat := 0
  lock : Bool := false
deriving DecidableEq, Repr

/-- The Land Register (chapter 11). Caches are numbered 0-63 for Porters, 64-71 for dies, 72 for the Wharf. (DESIGN
CHOICE: log 8) -/
structure Land where
  entries : SMap Word := []
  caches : SMap (List TransEntry) := []
  walks : List Walk := []
  misses : List Miss := []
  serial : Nat := 0
  regs : SMap LandRegs := []
deriving DecidableEq, Repr

/-- A stack (R184, R379). -/
structure Stack where
  temp : Nat := 0
  peak : Nat := 0
  active : Nat := 0
  out : Word := 0
  rate : Nat := 0
  /-- The row the last readings set, per pseudo-channel applied at its next refresh. -/
  pcRate : SMap Nat := []
  hotSeen : Bool := false
  fenced : Bool := false
  trained : Bool := false
  /-- The adjacent die's ceiling from this stack (R379). -/
  ceiling : Nat := 64
  /-- Ages since which every reading was low enough for the fallbacks. -/
  lowSince : Option Nat := none
  coolSince : Option Nat := none
  refreshes : Nat := 0
deriving DecidableEq, Repr

/-- A Keel's counters (HBM_KEEL_k, HBM_DIR_k) and trackers in use per polder (R180). -/
structure KeelSt where
  fenced : Bool := false
  capacity : Nat := 0
  groups : Nat := 0
  tier : Nat := 0
  poisoned : Nat := 0
  maxq : Nat := 0
  fencedBins : BitVec 8 := 0
  /-- Who holds a tracker: the polder, and the Bin, or 8 for another agent. -/
  trackers : List (Nat × Nat) := []
deriving DecidableEq, Repr

/-! ## Mill dies and stations (chapters 4 and 5) -/

/-- An operation that a Mill runs (R95, R96). -/
structure MillOp where
  pol : Nat
  seq : Nat
  tiles : BitVec 16
  /-- Its array; 22 is a region of SOLO tiles. -/
  array : Nat := 22
  /-- From the age `from_` on it does `work`, in 64ths of a cycle, at a rate of `eff` 64ths; then `fin` cycles follow (R95). -/
  from_ : Nat
  work : Nat
  eff : Nat
  fin : Nat
  /-- Cycles from its last issue to its end. -/
  drain : Nat
  /-- The level that its manifest booked. -/
  booked : Nat := 64
  /-- The highest tile it uses, for its ladder (R96). -/
  tLast : Nat := 0
  /-- The age since which its polder's freeze holds it (R305). -/
  held : Option Nat := none
deriving DecidableEq, Repr

/-- A Mill (R80, R95, R96) and its die's coherence counters. -/
structure MillSt where
  weir : Nat := 16
  /-- Operations on its tiles, a PAIR array's on the lower die. -/
  ops : List MillOp := []
  /-- The age at which a detector stopped each tile (R378). -/
  droopAt : SMap Nat := []
  /-- A level that takes effect at the next window. -/
  weirNext : Nat := 16
  quad : BitVec 4 := 0
  ganged : Bool := false
  paired : Bool := false
  fenced : Bool := false
  held : Bool := true
  stagger : Nat := 16
  ladder : Nat := 8
  issued : Word := 0
  /-- By tile: the age until which it runs an operation, and a change of mode. -/
  runsTo : SMap Nat := []
  changeTo : SMap Nat := []
  /-- By tile: rung 1-8 of its ladder, 0 when it is not in the ladder, and the age the ladder began; the age of its last
  issue plus 1, 0 when it never issued; stopped by droop. -/
  rung : SMap Nat := []
  ladderAt : SMap Nat := []
  lastIssue : SMap Nat := []
  droopStop : BitVec 16 := 0
  /-- Cycles of the last operation by array (0-15 SOLO tiles, 16-19 quadrants, 20 GANG, 21 PAIR, 22 the operations of
  a region), and its results in row-major order with their poison. -/
  cycles : SMap Nat := []
  results : SMap (List Nat) := []
  resultPoison : SMap Bool := []
  -- MILL_CTL_d
  status : Nat := 0
  resetBusy : Bool := false
  /-- Reset, tested and zeroed, to return at the next boundary; spares chosen. -/
  returning : Option Nat := none
  -- MILL_COH_d
  wbCrosses : Nat := 0
  nacks : Nat := 0
  holdWaits : Nat := 0
  hold : Nat := 4
deriving DecidableEq, Repr

/-- A polder's running state in a die's Scale, Sieve and Cooper (R37). -/
structure StationSt where
  scaleOut : List Lane := []
  sieveOut : List Nat := []
  sieveScales : List Nat := []
  /-- Poison of Scale's and the Sieve's last results. -/
  poison : Bool := false
  /-- Cooper's partial sums and their poison. -/
  cooper : List Lane := []
  cooperPoison : Bool := false
deriving DecidableEq, Repr

/-! ## Hands (chapter 6) -/

/-- The kinds of a mask stack entry (R128). -/
inductive MaskKind where
  | ifK | elseK | loopK
deriving DecidableEq, Repr

/-- A mask stack entry: `t1` the else target or the loop start, `t2` the endif or end target. -/
structure MaskEntry where
  kind : MaskKind
  saved : BitVec 16
  pend : BitVec 16 := 0
  t1 : Int := 0
  t2 : Int := 0
deriving DecidableEq, Repr

/-- A register write that a miss's fill makes: lane, register, byte offset in the sector, bytes, sign. -/
structure FillDest where
  lane : Nat
  reg : Nat
  off : Nat
  size : Nat
  signed : Bool := false
  /-- A poisoned flag selected the lane. -/
  bad : Bool := false
deriving DecidableEq, Repr

/-- A miss entry (R135): the sector by local DPA div 128, and its load's destinations. -/
structure MissEntry where
  sector : Nat
  pol : Nat
  gen : Nat
  orphan : Bool := false
  fillL1 : Bool := false
  hint : Nat := 0
  va : Nat := 0
  dests : List FillDest := []
  /-- What the Bin has served, on its way to the Hand. -/
  got : Option (List Byte × Bool) := none
deriving DecidableEq, Repr

/-- Where a store goes from the queue: to its line, in memory, another module or a host's window; one lane's access of a Gatehouse
register; a staging slot, by stream, buffer key and the slot's address. -/
inductive StoreGoal where
  | line
  | gate (lane : Nat)
  | staged (stream key base : Nat)
deriving DecidableEq, Repr

/-- A store in the queue (R135): bytes of one line, named as the L1 names its sectors. -/
structure StoreEntry where
  line : Nat
  bytes : Bytes
  goal : StoreGoal := .line
  /-- The device virtual address of the line. -/
  va : Nat := 0
  dead : Bool := false
  poison : Bool := false
  hint : Nat := 0
  gen : Nat := 0
deriving DecidableEq, Repr

/-- An L1 line (R163). -/
structure L1Line where
  sector : Nat
  data : List Byte
  poison : Bool := false
  used : Nat := 0
deriving DecidableEq, Repr

/-- An atomic sent to its home: the lanes that receive the answer, each with the amount added (R139). -/
structure AtomWait where
  slot : Nat
  /-- Its sector, by local DPA div 128. -/
  sector : Nat := 0
  gen : Nat
  orphan : Bool := false
  size : Nat
  /-- Lane, register and how its value is formed: 0 the old value; 1 old plus the amount; 2 the amount. -/
  dests : List (Nat × Nat × Nat × Word) := []
  /-- A register that it read was poisoned. -/
  bad : Bool := false
deriving DecidableEq, Repr

/-- What a crew waits for (R142, R143, R222). -/
inductive CrewWait where
  | none
  | crewBar (mask : BitVec 16)
  | setBar (count : Nat) (mask : BitVec 16)
  | setStuck (mask : BitVec 16)
  | tally (n : Nat) (target : Nat)
deriving DecidableEq, Repr

/-- A Hand with its crew. -/
structure Hand where
  busy : Bool := false
  pol : Nat := 0
  runSeq : Nat := 0
  kernel : Nat := 0
  /-- Its number within the kernel, its task, the tasks it has ended. -/
  number : Nat := 0
  task : Nat := 0
  running : Bool := false
  endedAt : Option Nat := none
  ended : Nat := 0
  pc : Int := 0
  /-- Lane register r of lane l at 16r + l; its poison; crew registers; flags. -/
  x : SMap Lane := []
  xp : SMap Bool := []
  w : SMap Word := []
  wp : SMap Bool := []
  f : SMap (BitVec 16) := []
  fp : SMap Bool := []
  active : BitVec 16 := 0
  exited : BitVec 16 := 0
  stack : List MaskEntry := []
  localStore : SMap Byte := []
  localPoison : SMap Bool := []
  l1 : List L1Line := []
  misses : List MissEntry := []
  stores : List StoreEntry := []
  /-- Stores that the Bin accepted, still to win their line. -/
  unwon : Nat := 0
  /-- Remote writes on their way to a transmit quay: the port, the link stint, and the number of the stint's chunks that must
  have left first (R213). -/
  remote : List (Nat × Nat × Nat) := []
  atoms : List AtomWait := []
  wait : CrewWait := .none
  waitSince : Nat := 0
  /-- Tiles taken by stream: takes so far in this task; taken and not returned, oldest first: stream and tile. -/
  takes : SMap Nat := []
  taken : List (Nat × Nat) := []
  /-- Slots allocated on output streams, oldest first. -/
  allocs : List (Nat × Nat) := []
  /-- SET barriers it has arrived at. -/
  setArrivals : Nat := 0
deriving DecidableEq, Repr

/-! ## Fabric (chapters 1 and 7) -/

/-- A bundle (R14, R17, R18). -/
structure BundleSt where
  replays : Nat := 0
  chosen : Nat := 0
  state : Nat := 0
  /-- Transfers in a row that failed check and replay (R354). -/
  failRun : Nat := 0
deriving DecidableEq, Repr

/-- An entry of a quay: bytes, or a message to a host. -/
inductive QEntry where
  | bytes (b : List Byte)
  | host (m : HostMsg)
deriving DecidableEq, Repr

/-- A quay's entries and the entries whose writer stalls (R28). -/
structure QuaySt where
  entries : List QEntry := []
  waiting : List QEntry := []
  /-- Completed against a stopped domain (R31). -/
  flushed : Nat := 0
deriving DecidableEq, Repr

/-- A stint's traffic: bytes its owner has yet to send, and lines of them in the slip buffer. -/
structure StintSt where
  queued : Nat := 0
  slipped : Nat := 0
  /-- Cycles by which replays have moved the slots of the transfer in progress (R158). -/
  moved : Nat := 0
deriving DecidableEq, Repr

/-- A barrier across modules (R267): arrivals since the last release, as 64 x module + polder, and releases. -/
structure Collector where
  arrived : List Nat := []
  releases : Nat := 0
deriving DecidableEq, Repr

/-- The tide sequencer and the Causeway's registers. -/
structure Tide where
  tides : Word := 0
  digest : Nat := 0
  stints : Nat := 0
  loaded : Bool := false
  /-- Almanac stamp of the tide in progress; none before the first boundary, or in R64's interval. -/
  boundary : Option Nat := none
  open_ : Bool := false
deriving DecidableEq, Repr

/-! ## Zelpel Link (chapter 12) -/

/-- A flit kept for resending, or waiting: its SEQ and bytes. -/
structure FlitRec where
  seq : Nat
  bytes : List Byte
  resend : Bool := false
deriving DecidableEq, Repr

/-- A READ sent to another module (R261): its TAG, its polder, and the engine that waits. -/
structure RemoteRead where
  tag : Nat
  pol : Nat
  gen : Nat
  orphan : Bool := false
  chunks : Nat
  who : Requester
  va : Nat
deriving DecidableEq, Repr

/-- A landed flit and the Almanac value of its release (R257). -/
structure Landed where
  release : Nat
  bytes : List Byte
deriving DecidableEq, Repr

/-- A link port. (DESIGN CHOICE: log 8) -/
structure LinkPort where
  /-- 0 DARK, 1 TRAINING, 2 UP, 3 DOWN, 4 OFF. -/
  state : Nat := 0
  peer : Nat := 0
  peerPort : Nat := 0
  delay : Nat := 0
  offset : Int := 0
  downSeen : Bool := false
  downgraded : Bool := false
  version : Nat := 0
  -- ZL_PORT_CTL_n
  lock : Bool := false
  retrain : Bool := false
  maxZl2 : Bool := false
  off : Bool := false
  -- ZL_PORT_ERR_n, FEC, DROP
  uncorrected : Nat := 0
  crcFail : Nat := 0
  retries : Nat := 0
  bandFull : Nat := 0
  corrected : Word := 0
  misrouted : Nat := 0
  stale : Nat := 0
  /-- The version that it offered at its training (R248). -/
  trainOffer : Nat := 0
  -- transmitter
  txSeq : Nat := 0
  replay : List FlitRec := []
  slot : Nat := 0
  slotTide : Nat := 0
  band : List BandMsg := []
  bandSent : Nat := 0
  /-- Chunks that wait for the slots of a link stint, by record index. -/
  chunks : SMap (List (List Byte)) := []
  /-- Chunks of each stint that have left. -/
  chunksOut : SMap Nat := []
  /-- The flit sent last. -/
  sent : List Byte := []
  -- receiver
  rxNext : Nat := 0
  rxGot : List Nat := []
  /-- SEQs of lost flits, each with the age of its last NAK. -/
  lost : List (Nat × Nat) := []
  nakDue : List Nat := []
  landing : List Landed := []
  /-- Flits read from the receive quay and not yet in SEQ order (no bytes: a link-band flit), and the next SEQ. -/
  asm : List (Nat × List Byte) := []
  asmNext : Nat := 0
  /-- Chunks of an unfinished transaction, by stint record index; transactions and link-band messages that came in flits. -/
  partialTxn : SMap (List (List Byte)) := []
  arrived : List Txn := []
  inbox : List (Nat × BandMsg) := []
  /-- Transactions that wait for a frozen polder (R307). -/
  heldTxns : List Txn := []
  /-- Fitness (R250, R258): the age since which it is unfit. -/
  unfitSince : Option Nat := none
  exchMissing : Nat := 0
  t1 : Nat := 0
  t2 : Nat := 0
  t3 : Nat := 0
  /-- READs sent and not answered. -/
  reads : List RemoteRead := []
  /-- Watts shifted through this port, and epochs it was unfit. -/
  shift : Int := 0
  unfitEpochs : Nat := 0
  /-- Commons: the lateness our peer measured for us, lateness of the peer's data, watts offered in this epoch. -/
  heard : Option Nat := none
  lateness : Nat := 0
  offered : Option Nat := none
deriving DecidableEq, Repr

/-- An optical engine (ZL_OE_m). -/
structure OptEngine where
  temp : Nat := 0
  laserEn : Bool := false
  lightOk : Bool := false
  shutdown : Bool := false
deriving DecidableEq, Repr

/-- ZL_COMMONS and the epoch's offers (R271). -/
structure Commons where
  commons : Nat := 0
  thresh : Nat := 0x0100
  lock : Bool := false
  /-- The shift in force, and the one for the next epoch. -/
  shift : Int := 0
  nextShift : Int := 0
  epoch : Nat := 0
  taken : Bool := false
deriving DecidableEq, Repr

/-! ## Host ports (chapter 13) -/

/-- An MSI-X table entry (R412); masked at reset as PCI Express gives. -/
structure MsixEntry where
  addr : Nat := 0
  data : BitVec 32 := 0
  mask : Bool := true
deriving DecidableEq, Repr

/-- A function: 0 the PF, n VF n. -/
structure Func where
  mse : Bool := false
  bme : Bool := false
  d3 : Bool := false
  /-- BAR index 2's size as a power of two; 0 stands for the size at reset (R281). -/
  bar2Log : Nat := 0
  /-- Configuration dwords that software stored, by offset. -/
  cfg : SMap (BitVec 32) := []
  msixEnable : Bool := false
  msixMask : Bool := false
  msix : SMap MsixEntry := []
  pba : BitVec 4 := 0
  /-- AER: Poisoned TLP Received, Completion Timeout, Unexpected Completion. -/
  aer : BitVec 32 := 0
  /-- AER's correctable errors: Advisory Non-Fatal Error, bit 13 (R282). -/
  aerCor : BitVec 32 := 0
deriving DecidableEq, Repr

/-- A read the module has sent to a host (R284, R286). -/
structure HostRead where
  tag : Nat
  fn : Nat
  pol : Nat
  gen : Nat
  addr : Nat
  /-- Offset of its first byte in the line or access that the engine reads. -/
  off : Nat := 0
  len : Nat
  since : Nat
  who : Requester
  va : Nat := 0
  orphan : Bool := false
  /-- Bytes received, each with its poison. -/
  got : List (Byte × Bool) := []
deriving DecidableEq, Repr

/-- A host's read through BAR index 2 in progress (R282): runs of local memory, what their homes have answered by local
offset, poison, dead sectors met, answers awaited. -/
structure HostAcc where
  id : Nat
  fn : Nat
  off : Nat
  segs : List (Nat × Nat)
  got : SMap Byte := []
  bad : Bool := false
  dead : Bool := false
  left : Nat := 0
deriving DecidableEq, Repr

/-- A host port. (DESIGN CHOICE: log 8; DESIGN CHOICE: log 63) -/
structure HostPort where
  perst : Bool := false
  rate : Nat := 0
  width : Nat := 0
  /-- The width at training, of which L0p may use less. -/
  fullWidth : Nat := 0
  flit : Bool := false
  l0p : Bool := false
  inReset : Bool := false
  /-- The kind of the reset that runs, and the VF it reaches (0: the port or PF). -/
  resetKind : Option ResetKind := none
  vfResets : List Nat := []
  resets : Nat := 0
  timeouts : Nat := 0
  refclk : Bool := true
  fns : SMap Func := []
  vfEnable : Bool := false
  numVfs : Nat := 0
  /-- The size of VF BAR index 2 as a power of two; 0 stands for the size at reset. -/
  vfBarLog : Nat := 0
  ptmEnable : Bool := false
  ptmAt : Nat := 0
  confirmed : Word := 0
  accepted : Bool := false
  reads : List HostRead := []
  /-- Requests that found no tag (R284). -/
  waitingReads : List HostRead := []
  /-- Reads through BAR index 2 that their lines' homes have not all answered. -/
  bar2 : List HostAcc := []
  /-- What a request object has been written of, and the response (R289). -/
  doeIn : List Byte := []
  doe : List Byte := []
  doeReady : Bool := false
  capLimit : Nat := 0
  capLock : Bool := false
  -- SEC_MBOX_CTL and SEC_MBOX
  mbox : SMap Byte := []
  mboxLen : Nat := 0
  mboxCmd : Nat := 0
  mboxStatus : Nat := 0
  mboxBusy : Bool := false
  /-- Answers to accesses made through the device-side view. -/
  devReply : Option Word := none
deriving DecidableEq, Repr

/-! ## The Crier (chapter 16) -/

/-- A latched edge (R340), keyed by class, book and source. -/
structure Pend where
  code : Code
  cls : Nat
  book : Nat
  source : Nat
  pol : Nat
  gen : Nat
  time : Nat
  detail : List Byte
  merged : Bool := false
  held : Bool := false
deriving DecidableEq, Repr

/-- A day book (R345 to R350). -/
structure Book where
  base : Nat := 0
  size : Nat := 0
  enable : Bool := false
  prod : Nat := 0
  cons : Nat := 0
  limit : Nat := 0x0A
  merges : Nat := 0
  overflow : Bool := false
  afterOverflow : Bool := false
  /-- The age at which a record found the ring full, while it stays full; DAYBOOK_OVERFLOW, POLDER_FENCED were raised. -/
  fullSince : Option Nat := none
  reported : Bool := false
  fenced : Bool := false
deriving DecidableEq, Repr

/-- The Crier. -/
structure Crier where
  /-- Event messages in the module band, oldest first (R340). -/
  band : List Event := []
  pend : List Pend := []
  sluice : List Pend := []
  last : SMap Nat := []
  /-- Books by 2 x polder + class. -/
  books : SMap Book := []
  stray : Nat := 0
deriving DecidableEq, Repr

/-! ## Power and heat (chapter 17) -/

/-- A Mill die's power state (PWR_DIE_d). -/
structure DiePower where
  droops : Nat := 0
  step : Nat := 7
  preferred : Nat := 7
  /-- A step change in progress: the step it goes to. -/
  changing : Option Nat := none
  /-- A phase start changed the preferred step while a change was in progress (R368, R373). -/
  moveDue : Bool := false
  /-- Ages since which the conditions of R372 have held. -/
  lowSince : Option Nat := none
  highSince : Option Nat := none
  sealLevel : Nat := 64
  sealOn : Bool := false
deriving DecidableEq, Repr

/-- A logic die's sensors, numbered as in GH_DIE_i, and its share of the thermal ceilings (R376). (DESIGN CHOICE: log
8) -/
structure DieHeat where
  temp : Nat := 0
  peak : Nat := 0
  /-- The condition holds; every sensor has released; the ceiling, and the age of its last step. -/
  hot : Bool := false
  cool : Bool := false
  ceil : Nat := 64
  stepAt : Nat := 0
deriving DecidableEq, Repr

/-- The controller of R363 and R370, and the input. Volts and amps are in units of 0.1. (DESIGN CHOICE: log 8) -/
structure Power where
  volts : Nat := 500
  amps : Nat := 0
  watts : Nat := 0
  dflt : Bool := true
  inForce : Nat := 600
  common : Nat := 64
  inputSeen : Bool := false
  aboveCap : Bool := false
  /-- INPUT_RANGE was raised and the input has not been back in 44-56 V for 1 ms; in range since. -/
  rangeRaised : Bool := false
  inSince : Option Nat := some 0
  aboveSince : Option Nat := none
  below95Since : Option Nat := none
  /-- The last raise of L while the draw stayed low; a lowering is under way until the draw meets the cap (R370). -/
  raisedAt : Option Nat := none
  forced : Bool := false
  /-- POL_SEAL.LAPSED. -/
  lapsed : Bool := false
  /-- The cap is below the total of the shares (R304). -/
  belowShares : Bool := false
  heats : SMap DieHeat := []
  dies : SMap DiePower := []
deriving DecidableEq, Repr

/-- A die's fence report (GH_FENCE_i). -/
structure FenceSt where
  fenced : Bool := false
  cause : Nat := 0
  fences : Nat := 0
deriving DecidableEq, Repr

/-- The SMBus target (R387, R389): latched status bits, and the last answer. (DESIGN CHOICE: log 63) -/
structure Pmbus where
  input : BitVec 8 := 0
  temperature : BitVec 8 := 0
  cml : BitVec 8 := 0
  mfr : BitVec 8 := 0
  answer : List Byte := []
  acked : Bool := true
deriving DecidableEq, Repr

/-- The SEC block: the port that holds the firmware write sequence (R410), and the ports whose requests wait or run, in
order of GO (R411). -/
structure Sec where
  owner : Option Port := none
  queue : List Nat := []
deriving DecidableEq, Repr

/-! ## The whole -/

/-- The module, its fuses and flash, its input, and the commands that wait (oldest first). -/
structure State where
  pending : List Instr := []
  /-- The model's own: how many free values have been drawn. -/
  seed : Nat := 0
  clock : Nat := 0
  /-- The next number of a request, a walk or a tracker. -/
  nextId : Nat := 0
  nv : NonVolatile := {}
  boot : Boot := {}
  alm : Almanac := {}
  img : Option Image := none
  tide : Tide := {}
  pols : SMap Polder := []
  mem : List Host.Cell := []
  marks : SMap Mark := []
  gran : SMap GranLine := []
  bins : SMap BinLine := []
  shadow : SMap Shadow := []
  txns : SMap HomeTxn := []
  net : List CohMsg := []
  reqs : List HomeReq := []
  land : Land := {}
  hbmStacks : SMap Stack := []
  keels : SMap KeelSt := []
  mills : SMap MillSt := []
  stations : SMap StationSt := []
  hands : SMap Hand := []
  bundles : SMap BundleSt := []
  quays : SMap QuaySt := []
  stints : SMap StintSt := []
  collectors : SMap Collector := []
  links : SMap LinkPort := []
  engines : SMap OptEngine := []
  commons : Commons := {}
  ports : SMap HostPort := []
  crier : Crier := {}
  pwr : Power := {}
  fences : SMap FenceSt := []
  pmbus : Pmbus := {}
  sec : Sec := {}
deriving DecidableEq, Repr

/-- Why the machine stops as broken: the manual gives every command an effect, so nothing raises a fault. -/
inductive Fault where
deriving DecidableEq, Repr

/-- Why the model declines a command. -/
inductive Refusal where
  /-- Raised only by an arm of exec whose command has no meaning yet. Safe. -/
  | notModelled (mnemonic : String)
deriving DecidableEq, Repr

/-- The module as it stands before power-good: inserted, 50 V at its input, PWRGOOD_IN low, converters off, every
register at its reset value, memory listing nothing, nothing waiting. (DESIGN CHOICE: log 5; DESIGN CHOICE: log 6) -/
def State.reset : State := {}

end Sys2Proof.Machine
end

