-- ==== Sys2Proof/Machine/Clock.lean ====
section
/-! DEFINITION. The passage of time: one cycle of ACLK (R57), and longer spans of it. -/

namespace Sys2Proof.Machine

open Sys2Proof

/-- `ppm` parts per million of `d` ns on top of a remainder in millionths: whole nanoseconds, and the new remainder. -/
def ppmOf (ppm rest : Int) (d : Nat) : Int × Int :=
  if ppm = 0 then (0, rest) else
  let r := rest + ppm * d
  (r.tdiv 1000000, r - r.tdiv 1000000 * 1000000)

/-- The slew over `d` ns (R64): what it removes, never more than is left, and the discipline after it. -/
def Almanac.slewOver (a : Almanac) (d : Nat) : Int × Almanac :=
  if a.slewLeft = 0 then (0, a) else
  let (whole, rest) := ppmOf a.slew a.slewRest d
  if a.slewLeft.natAbs ≤ whole.natAbs then (a.slewLeft, { a with slewLeft := 0, slewRest := 0, slew := 0 })
  else (whole, { a with slewLeft := a.slewLeft - whole, slewRest := rest })

/-- What the rate steering adds to the count over `d` ns: the learned rate and the slew (R57, R63, R64). -/
def Almanac.steered (a : Almanac) (d : Nat) : Int × Almanac :=
  let (byRate, rest) := ppmOf a.rate a.rateRest d
  let (bySlew, b) := a.slewOver d
  (byRate + bySlew, { b with rateRest := rest })

/-- The Almanac over one ACLK cycle (R57): 4 ns and what the steering adds, in an unsigned 64-bit count. -/
def Almanac.tick (a : Almanac) : Almanac :=
  let (more, b) := a.steered 4
  { b with now := ((a.now : Int) + 4 + more).toNat % 2 ^ 64 }

/-- The Almanac counts from power-good (R318 step 1) unless the Wharf die has failed (R360). (DESIGN CHOICE: log 4) -/
def State.counts (s : State) : Bool := s.boot.powered && !s.boot.wharfFailed

/-- ALM_PPS_OUT after the Almanac has counted on from `was` (R60): it has risen at a whole second that was passed, and
fallen 100 us after its rise. (DESIGN CHOICE: log 2) -/
def State.ppsPass (s : State) (was : Nat) : State :=
  let a := s.alm
  let past := a.now % 1000000000
  let at_ := if !a.pps && s.counts && 1 ≤ s.boot.stage && was / 1000000000 ≠ a.now / 1000000000 && past ≤ s.clock
    then some (s.clock - past) else if a.pps then some a.ppsAt else none
  match at_ with
  | some t => { s with alm := { a with ppsAt := t, pps := s.clock ≤ t + 100000 } }
  | none => s

/-- One ACLK cycle: the age of the module's oscillator grows by 4 ns, and the Almanac counts. (DESIGN CHOICE: log 2)
-/
def State.tick (s : State) : State :=
  let t := { s with
    clock := s.clock + 4
    alm := if s.counts then s.alm.tick else s.alm }
  t.ppsPass s.alm.now

/-- The moment of an event at a later Almanac value: the time until then has passed, with what the steering does in
that time. (DESIGN CHOICE: log 4) -/
def State.advanceTo (s : State) (value : Nat) : State :=
  let d := value - s.alm.now
  let (more, b) := s.alm.steered d
  let t := { s with
    clock := s.clock + ((d : Int) - more).toNat
    alm := { b with now := value % 2 ^ 64 } }
  t.ppsPass s.alm.now

end Sys2Proof.Machine
end

