-- ==== Sys2Proof/Config.lean ====
section
/-! DEFINITION. What an implementation fixes and the values the manual leaves open: constants with no
body, so that no proof can see what they are. -/

namespace Sys2Proof.Config

open Sys2Proof

/-- A free value of `w` bits; the argument counts the values drawn so far. (DESIGN CHOICE: log 7) -/
opaque freeBits (w : Nat) : Nat → BitVec w

/-- Sign and payload of a NaN that arithmetic makes, which IEEE 754 leaves to the implementation; the argument is what
was combined. (DESIGN CHOICE: log 12) -/
opaque nanOf : List Nat → Lane

/-- ML-DSA-65 verification of FIPS 204, pure mode: context string, public key, message, signature (R330). (DESIGN
CHOICE: log 10) -/
opaque mlDsaVerify : List Byte → List Byte → List Byte → List Byte → Bool

/-- A firmware slot's signature verifies against the fused Tchigal key (R320). (DESIGN CHOICE: log 10) -/
opaque firmwareVerifies : List Byte → Bool
/-- The version a firmware slot's bytes carry: the manual gives no layout of the firmware. (DESIGN CHOICE: log 10) -/
opaque firmwareVersion : List Byte → Nat
/-- The security version a firmware slot's bytes carry. (DESIGN CHOICE: log 10) -/
opaque firmwareSvn : List Byte → Nat
/-- The feature set a firmware supports (R334). (DESIGN CHOICE: log 10) -/
opaque firmwareFeatures : List Byte → Word

/-- The bytes measured into slot 2 and slot 6 of R331, whose layout the manual does not give. (DESIGN CHOICE: log 11)
-/
opaque measuredBytes : Nat → List Nat → List Byte

/-- The descriptors of the SCHEDULES section, whose byte layout the manual does not give. (DESIGN CHOICE: log 11) -/
opaque parseSchedules : List Byte → Option (List Schedule)
/-- The tables of the CASK_TABLES section by kind, whose byte layout the manual does not give. (DESIGN CHOICE: log 11)
-/
opaque parseCask : List Byte → Option (List (Nat × List CodeTable))

/-- The identity public key (1,952 bytes) and Tchigal's signature on it (3,309 bytes), from flash (R332). (DESIGN
CHOICE: log 10) -/
opaque identityKey : List Byte
/-- DESIGN CHOICE: log 10. -/
opaque identityCertificate : List Byte
/-- The attestation public key, derived from the fused secret and measurement slot 1 (R332). (DESIGN CHOICE: log 10)
-/
opaque attestationKey : List Byte → List Byte
/-- A signature by the identity key, and one by the attestation key of a slot-1 measurement. (DESIGN CHOICE: log 10)
-/
opaque identitySign : List Byte → List Byte
/-- DESIGN CHOICE: log 10. -/
opaque attestationSign : List Byte → List Byte → List Byte

/-- The device virtual address of a staging slot, which the manual does not give: die, schedule, stream, slot. (DESIGN
CHOICE: log 45) -/
opaque stagingVa : Nat → Nat → Nat → Nat → BitVec 45

/-- Scale's approximations (R114): function number, operand, answer. (DESIGN CHOICE: log 14) -/
opaque scaleApprox : Nat → Lane → Lane
/-- Scale's sine and cosine of a position times a frequency (R114, rotary embedding). (DESIGN CHOICE: log 14) -/
opaque scaleSinCos : Nat → Lane → Lane × Lane

/-- The sum that a station forms of FP32 values, in an order the manual leaves open (R103). (DESIGN CHOICE: log 14) -/
opaque scaleSum : List Lane → Lane

/-- The content of the CHARTER object of DOE (R289), whose byte layout the manual does not give. (DESIGN CHOICE: log
11) -/
opaque charterObject : Nat → Charter → List Byte

/-- The exponent, less 16, of a LINEAR11 answer (R389): the command and the value in tenths. The manual leaves it
open. (DESIGN CHOICE: log 55) -/
opaque linear11Exp : Nat → Nat → Fin 32

/-- The number of a reset event in byte 17 of PEER_PORT_RESET, which the manual does not give. (DEDUCED: log 27) -/
opaque resetNumber : ResetKind → Byte

/-- PCI Express configuration bits that the manual leaves to the standard and the partner. (PRESUMED: log 9) -/
opaque configStandard : Nat → Nat → BitVec 32

end Sys2Proof.Config
end

