-- ==== Sys2Proof/Machine/Map.lean ====
section
/-! DEFINITION. Operations of sparse maps in canonical form, of byte lists, and of bits. -/

namespace Sys2Proof

/-- The element at a key; `d` where none is listed. -/
def SMap.get {α : Type} (d : α) : SMap α → Nat → α
  | [], _ => d
  | (k, v) :: m, i => if k = i then v else SMap.get d m i

/-- List an element at its place among rising keys. -/
def SMap.put {α : Type} : SMap α → Nat → α → SMap α
  | [], i, v => [(i, v)]
  | (k, w) :: m, i, v => if i < k then (i, v) :: (k, w) :: m else (k, w) :: SMap.put m i v

/-- Put an element at a key; an element equal to `d` is not listed. -/
def SMap.set {α : Type} [DecidableEq α] (d : α) (m : SMap α) (i : Nat) (v : α) : SMap α :=
  let rest := m.filter fun e => e.1 ≠ i
  if v = d then rest else SMap.put rest i v

/-- Change the element at a key. -/
def SMap.upd {α : Type} [DecidableEq α] (d : α) (m : SMap α) (i : Nat) (f : α → α) : SMap α :=
  m.set d i (f (m.get d i))

/-- Change every listed element, dropping those that become `d`. -/
def SMap.mapAll {α : Type} [DecidableEq α] (d : α) (f : Nat → α → α) (m : SMap α) : SMap α :=
  (m.map fun e => (e.1, f e.1 e.2)).filter fun e => e.2 ≠ d

/-- The canonical form: keys strictly rising, no element equal to `d`. -/
def SMap.wf {α : Type} [DecidableEq α] (d : α) : SMap α → Bool
  | [] => true
  | [(_, v)] => v ≠ d
  | (k, v) :: (k', v') :: m => v ≠ d && k < k' && SMap.wf d ((k', v') :: m)

/-! ## Numbers and bits -/

/-- The field of `len` bits at `lo`. -/
def field (w lo len : Nat) : Nat := w / 2 ^ lo % 2 ^ len

/-- A number saturating at `top`. -/
def satAdd (top a b : Nat) : Nat := min top (a + b)

def b2n (b : Bool) : Nat := if b then 1 else 0

/-- Two's complement of `w` bits. -/
def toSigned (w n : Nat) : Int := if n < 2 ^ (w - 1) then (n : Int) else (n : Int) - 2 ^ w

/-- The low `w` bits of an integer. -/
def ofSigned (w : Nat) (i : Int) : Nat := (i % 2 ^ w).toNat

def ceilDiv (a b : Nat) : Nat := (a + b - 1) / b

/-- The bits of a mask that are set, among `0 .. n - 1`, rising. -/
def bitsOf (n : Nat) (mask : Nat) : List Nat := (List.range n).filter mask.testBit

def popCount (n mask : Nat) : Nat := (bitsOf n mask).length

/-! ## Bytes -/

/-- Little-endian bytes of a number. -/
def leBytes : Nat → Nat → List Byte
  | 0, _ => []
  | n + 1, v => BitVec.ofNat 8 v :: leBytes n (v / 256)

/-- The number that little-endian bytes spell. -/
def leNat : List Byte → Nat
  | [] => 0
  | b :: bs => b.toNat + 256 * leNat bs

/-- Bytes `off .. off + n - 1`; zeros where the list is shorter. -/
def slice (bs : List Byte) (off n : Nat) : List Byte :=
  let t := (bs.drop off).take n
  t ++ List.replicate (n - t.length) 0

/-- A little-endian field of bytes. -/
def leAt (bs : List Byte) (off n : Nat) : Nat := leNat (slice bs off n)

/-- All bytes zero. -/
def allZero (bs : List Byte) : Bool := bs.all (· == 0)

/-- Put bytes into a list at an offset, lengthening it with zeros. -/
def putAt (bs : List Byte) (off : Nat) (new : List Byte) : List Byte :=
  slice bs 0 off ++ new ++ bs.drop (off + new.length)

/-- The bytes of ASCII text. -/
def ascii (t : String) : List Byte := t.toList.map fun c => BitVec.ofNat 8 c.toNat

/-- Cut a list into pieces of `n`; `fuel` bounds the number of pieces. -/
def chunks {α : Type} (n : Nat) : Nat → List α → List (List α)
  | 0, _ => []
  | _, [] => []
  | fuel + 1, l => l.take n :: chunks n fuel (l.drop n)

end Sys2Proof
end

