-- ==== Sys2Proof/Machine/Ops.lean ====
section
/-! DEFINITION. The named operations over the module's state: the elements of its maps, memory in canonical
form, the address map, the charter, event posts and free values. -/

namespace Sys2Proof.Machine

open Sys2Proof

/-- The outcome of a command. -/
abbrev Out := Host.Outcome State Fault Refusal

/-! ## Elements -/

def State.pol (s : State) (p : Nat) : Polder := s.pols.get {} p
def State.updPol (s : State) (p : Nat) (f : Polder → Polder) : State := { s with pols := s.pols.upd {} p f }
def State.hand (s : State) (h : Nat) : Hand := s.hands.get {} h
def State.updHand (s : State) (h : Nat) (f : Hand → Hand) : State := { s with hands := s.hands.upd {} h f }
def State.mill (s : State) (d : Nat) : MillSt := s.mills.get {} d
def State.updMill (s : State) (d : Nat) (f : MillSt → MillSt) : State := { s with mills := s.mills.upd {} d f }
def State.keel (s : State) (k : Nat) : KeelSt := s.keels.get {} k
def State.updKeel (s : State) (k : Nat) (f : KeelSt → KeelSt) : State := { s with keels := s.keels.upd {} k f }
def State.stack (s : State) (k : Nat) : Stack := s.hbmStacks.get {} k
def State.updStack (s : State) (k : Nat) (f : Stack → Stack) : State := { s with hbmStacks := s.hbmStacks.upd {} k f }
def State.mark (s : State) (l : Nat) : Mark := s.marks.get {} l
def State.updMark (s : State) (l : Nat) (f : Mark → Mark) : State := { s with marks := s.marks.upd {} l f }
def State.link (s : State) (n : Nat) : LinkPort := s.links.get {} n
def State.updLink (s : State) (n : Nat) (f : LinkPort → LinkPort) : State := { s with links := s.links.upd {} n f }
def State.engine (s : State) (m : Nat) : OptEngine := s.engines.get {} m
def State.updEngine (s : State) (m : Nat) (f : OptEngine → OptEngine) : State :=
  { s with engines := s.engines.upd {} m f }
def State.port (s : State) (n : Nat) : HostPort := s.ports.get {} n
def State.updPort (s : State) (n : Nat) (f : HostPort → HostPort) : State := { s with ports := s.ports.upd {} n f }
def HostPort.fn (p : HostPort) (n : Nat) : Func := p.fns.get {} n
def HostPort.updFn (p : HostPort) (n : Nat) (f : Func → Func) : HostPort := { p with fns := p.fns.upd {} n f }
def State.bundle (s : State) (b : Nat) : BundleSt := s.bundles.get {} b
def State.updBundle (s : State) (b : Nat) (f : BundleSt → BundleSt) : State :=
  { s with bundles := s.bundles.upd {} b f }
def State.stint (s : State) (i : Nat) : StintSt := s.stints.get {} i
def State.updStint (s : State) (i : Nat) (f : StintSt → StintSt) : State := { s with stints := s.stints.upd {} i f }
def State.landRegs (s : State) (n : Nat) : LandRegs := s.land.regs.get {} n
def State.updLand (s : State) (f : Land → Land) : State := { s with land := f s.land }
def State.updLandRegs (s : State) (n : Nat) (f : LandRegs → LandRegs) : State :=
  s.updLand fun l => { l with regs := l.regs.upd {} n f }
def State.load (s : State) (n : Nat) : LoadCtl := s.boot.loads.get {} n
def State.updLoad (s : State) (n : Nat) (f : LoadCtl → LoadCtl) : State :=
  { s with boot := { s.boot with loads := s.boot.loads.upd {} n f } }
def State.fence (s : State) (i : Nat) : FenceSt := s.fences.get {} i
def State.updFence (s : State) (i : Nat) (f : FenceSt → FenceSt) : State := { s with fences := s.fences.upd {} i f }
def State.book (s : State) (p c : Nat) : Book := s.crier.books.get {} (2 * p + c)
def State.updBook (s : State) (p c : Nat) (f : Book → Book) : State :=
  { s with crier := { s.crier with books := s.crier.books.upd {} (2 * p + c) f } }
def State.diePower (s : State) (d : Nat) : DiePower := s.pwr.dies.get {} d
def State.updDiePower (s : State) (d : Nat) (f : DiePower → DiePower) : State :=
  { s with pwr := { s.pwr with dies := s.pwr.dies.upd {} d f } }
def State.heat (s : State) (i : Nat) : DieHeat := s.pwr.heats.get {} i
def State.updHeat (s : State) (i : Nat) (f : DieHeat → DieHeat) : State :=
  { s with pwr := { s.pwr with heats := s.pwr.heats.upd {} i f } }
def State.station (s : State) (d p : Nat) : StationSt := s.stations.get {} (64 * d + p)
def State.updStation (s : State) (d p : Nat) (f : StationSt → StationSt) : State :=
  { s with stations := s.stations.upd {} (64 * d + p) f }
def Polder.run (p : Polder) (seq : Nat) : Run := p.running.get {} seq
def Polder.isRunning (p : Polder) (seq : Nat) : Bool := p.running.any fun e => e.1 = seq
/-- Change a running manifest; one that has ended stays ended. -/
def State.updRun (s : State) (p seq : Nat) (f : Run → Run) : State :=
  s.updPol p fun q => if q.isRunning seq then { q with running := q.running.upd {} seq f } else q

/-- The next free value of `w` bits, and the state that has drawn it. (DESIGN CHOICE: log 7) -/
def State.free (s : State) (w : Nat) : BitVec w × State := (Config.freeBits w s.seed, { s with seed := s.seed + 1 })

/-- A fresh number of a request, a walk or a tracker. (DESIGN CHOICE: log 61) -/
def State.freshId (s : State) : Nat × State := (s.nextId, { s with nextId := s.nextId + 1 })

/-! ## Memory: listed bytes in canonical form; an unlisted byte reads 0 -/

/-- What an unlisted address reads as (a choice for RAM after power-on; R324 zeroes HBM and the Granary). (DESIGN
CHOICE: log 1) -/
def memDefault : Byte := 0

/-- The canonical form of memory. -/
def Memory.wf (m : List Host.Cell) : Bool := SMap.wf memDefault m

/-- DESIGN CHOICE: log 1. -/
def memByte (m : List Host.Cell) (a : Nat) : Byte := SMap.get memDefault m a
def memSet (m : List Host.Cell) (a : Nat) (b : Byte) : List Host.Cell := SMap.set memDefault m a b

/-- `n` bytes from an address. -/
def memRead (m : List Host.Cell) (a n : Nat) : List Byte := (List.range n).map fun i => memByte m (a + i)

/-- Bytes at rising addresses. -/
def memWrite (m : List Host.Cell) (a : Nat) : List Byte → List Host.Cell
  | [] => m
  | b :: bs => memWrite (memSet m a b) (a + 1) bs

/-- Bytes at their own offsets from a base. -/
def memPatch (m : List Host.Cell) (base : Nat) (bs : Bytes) : List Host.Cell :=
  bs.foldl (fun m e => memSet m (base + e.1) e.2) m

/-- Drop every listed byte of the addresses that `f` names. -/
def memClear (m : List Host.Cell) (f : Nat → Bool) : List Host.Cell := m.filter fun c => !f c.1

/-! ## The address map (R19 to R24, R167, R181) -/

def hbmKeelSize : Nat := 0x6000000000
def granBase : Nat := 0x20000000000
def granSize : Nat := 0x40000000
def landPartOff : Nat := 0x3E000000
def hostBase : Nat := 0x40000000000
def gateBase : Nat := 0xF0000000000
def mib62 : Nat := 62 * 1048576

/-- Pseudo-channels in service of group q of a Keel: n(q) of R181. -/
def State.groupMask (s : State) (k q : Nat) : Nat :=
  255 - field (s.stack (6 * k + q / 8)).out.toNat (8 * (q % 8)) 8

def State.nq (s : State) (k q : Nat) : Nat := popCount 8 (s.groupMask k q)

/-- GiB of HBM that a Keel maps at this start (R22). -/
def State.keelGiB (s : State) (k : Nat) : Nat := ((List.range 48).map (s.nq k)).sum

/-- What a local offset names (R20, R22, R23, R167). -/
inductive Region where
  | hbm (k : Nat) (off : Nat)
  | tier (k : Nat) (off : Nat)
  | granCache (k : Nat)
  | landPart (k : Nat)
  | host (port : Nat) (w : Nat)
  | gate (off : Nat)
  | reserved
deriving DecidableEq, Repr

def State.region (s : State) (o : Nat) : Region :=
  if o < 4 * hbmKeelSize then
    let k := o / hbmKeelSize
    let r := o % hbmKeelSize
    if r < s.keelGiB k * 2 ^ 30 then .hbm k r else .reserved
  else if granBase ≤ o ∧ o < granBase + 4 * granSize then
    let k := (o - granBase) / granSize
    let r := (o - granBase) % granSize
    if landPartOff ≤ r then .landPart k
    else if r < (s.keel k).tier * mib62 then .tier k r else .granCache k
  else if hostBase ≤ o ∧ o < hostBase + 2 * 2 ^ 40 then .host ((o - hostBase) / 2 ^ 40) ((o - hostBase) % 2 ^ 40)
  else if gateBase ≤ o ∧ o < gateBase + 0x4000000 then .gate (o - gateBase)
  else .reserved

def Region.isMem : Region → Bool
  | .hbm _ _ => true
  | .tier _ _ => true
  | _ => false

/-- The home Keel of a line of local memory (R20). -/
def homeOf (line : Nat) : Nat :=
  let o := line * 1024
  if o < 4 * hbmKeelSize then o / hbmKeelSize else (o - granBase) / granSize % 4

def isHbmLine (line : Nat) : Bool := line * 1024 < 4 * hbmKeelSize

/-- R181: the group, and the offset within it, of an offset in a Keel's HBM range. -/
def State.locateGroup (s : State) (k : Nat) : Nat → Nat → Nat → Nat × Nat
  | 0, q, o => (q, o)
  | fuel + 1, q, o =>
    let size := s.nq k q * 2 ^ 30
    if o ≥ size then s.locateGroup k fuel (q + 1) (o - size) else (q, o)

/-- R181: channel group, pseudo-channel of the stack, and line in it. -/
def State.locate (s : State) (k o : Nat) : Nat × Nat × Nat :=
  let (q, r) := s.locateGroup k 47 0 o
  let n := s.nq k q
  let line := r / 1024
  let pcs := bitsOf 8 (s.groupMask k q)
  (q, 8 * (q % 8) + pcs.getD (line % n) 0, line / n)

/-- The stack of an HBM line. -/
def State.stackOf (s : State) (line : Nat) : Nat :=
  let k := homeOf line
  6 * k + (s.locate k (line * 1024 % hbmKeelSize)).1 / 8

/-- The local DPA at which channel group q of Keel k begins. -/
def State.groupBase (s : State) (k q : Nat) : Nat :=
  k * hbmKeelSize + ((List.range q).map (s.nq k)).sum * 2 ^ 30

/-! ## The charter -/

def State.charter (s : State) : Charter := (s.img.map Image.charter).getD {}
def State.polRec (s : State) (p : Nat) : PolRec := s.charter.pols.getD p {}
def State.sealed (s : State) : Bool := s.charter.sealedMode
/-- The time owner's port. -/
def State.timeOwner (s : State) : Nat := s.charter.timeOwner.val
def State.schedule (s : State) (i : Nat) : Option Schedule := s.img.bind fun g => g.schedules[i]?

/-- The port that holds a link port: 0, 1, or none. -/
def State.linkOwner (s : State) (n : Nat) : Option Nat :=
  if s.charter.zlA.getLsbD n then some 0 else if s.charter.zlB.getLsbD n then some 1 else none

/-- Whether a polder is granted the channel group (R302). -/
def State.holdsGroup (s : State) (p k q : Nat) : Bool := ((s.polRec p).groups.getD k 0).getLsbD q

/-- Whether a tier granule of a Keel is granted to a polder (record type 1, R328). -/
def State.holdsTier (s : State) (p k g : Nat) : Bool :=
  s.charter.resources.any fun r => r.type = 1 && r.b1 = p && r.b2 = k && r.w4 ≤ g && g < r.w4 + r.w8

/-- The Common Stock region of a local DPA's granule: its number and owner port (record type 4). -/
def State.stockAt (s : State) (o : Nat) : Option (Nat × Nat) :=
  (s.charter.resources.find? fun r => r.type = 4 && r.w4 ≤ o / 2 ^ 21 && o / 2 ^ 21 < r.w4 + r.w8).map
    fun r => (r.b3, r.b1)

/-- Whether the charter lists a polder as a reader of a Common Stock region (record type 5). -/
def State.stockReader (s : State) (p region : Nat) : Bool :=
  s.charter.resources.any fun r => r.type = 5 && r.b3 = region && (r.w8 + 2 ^ 32 * r.w12).testBit p

/-- A resource count of the charter for a polder at a Keel or die; `dflt` where no record gives one. -/
def State.reserve (s : State) (type p loc dflt : Nat) : Nat :=
  match s.charter.resources.find? fun r => r.type = type && r.b1 = p && (type = 9 || r.b2 = loc) with
  | some r => r.w4
  | none => dflt

/-- The line and the size of a polder's Bin partition: first set, sets, or none (record type 3, R165). -/
def State.binPart (s : State) (d p : Nat) : Option (Nat × Nat) :=
  (s.charter.resources.find? fun r => r.type = 3 && r.b1 = p && r.b2 = d).map fun r => (r.w4 * 128, 128 * 2 ^ r.b3)

/-- A polder's Granary cache partition at a Keel: first set, sets, or none (record type 2, R168). -/
def State.granPart (s : State) (k p : Nat) : Option (Nat × Nat) :=
  (s.charter.resources.find? fun r => r.type = 2 && r.b1 = p && r.b2 = k).map fun r => (r.w4 * 64, 64 * 2 ^ r.b3)

/-- The supervisor of a port is the polder of the same number (R277). -/
def supervisorOf (port : Nat) : Nat := port

/-- The supervisor of the port that owns a polder, if any. -/
def State.supOf (s : State) (p : Nat) : Option Nat :=
  let q := (s.pol p).port
  if q < 2 then some q else none

/-- The port that owns an offset of local memory, by the polders granted it. -/
def State.memPort (s : State) (o : Nat) : Option Nat :=
  match s.stockAt o with
  | some (_, port) => some port
  | none =>
    let owner := (List.range 64).find? fun p =>
      match s.region o with
      | .hbm k r => s.holdsGroup p k (s.locate k r).1
      | .tier k r => s.holdsTier p k (r / 2 ^ 21)
      | _ => false
    owner.bind fun p => let q := (s.pol p).port; if q < 2 then some q else none

/-- The confirmed word a Land edit or a POL command is tested against, and the word of everything else (R336). -/
def State.featureWord (s : State) : Word :=
  match s.img with
  | some g => g.required
  | none => s.boot.package

/-! ## Sources and event posts (R339, R340) -/

def srcHand (h : Nat) : Nat := h
def srcPorter (d n : Nat) : Nat := 0x2000 + 8 * d + n
/-- kind 0 Mill, 1 Scale, 2 Sieve, 3 Cooper. (DEDUCED: log 33) -/
def srcStation (kind d : Nat) : Nat := 0x2040 + 8 * kind + d
/-- DEDUCED: log 27. -/
def srcKeel (k : Nat) : Nat := 0x2100 + k
def srcStack (k : Nat) : Nat := 0x2110 + k
/-- DEDUCED: log 27. -/
def srcSeq : Nat := 0x2200
/-- DEDUCED: log 25. -/
def srcMiss : Nat := 0x2201
def srcBar2 (port : Nat) : Nat := 0x2202 + port
def srcAlm : Nat := 0x2204
def srcLoader : Nat := 0x2205
def srcPower : Nat := 0x2206
def srcWharf : Nat := 0x2207
def srcLink (n : Nat) : Nat := 0x2300 + n
def srcEngine (m : Nat) : Nat := 0x2340 + m
/-- DEDUCED: log 27. -/
def srcDie (i : Nat) : Nat := 0x2400 + i
/-- DEDUCED: log 27. -/
def srcPolder (p : Nat) : Nat := 0x2500 + p

/-- Post an event to the day book of polder `book`, about polder `pol`. (DESIGN CHOICE: log 26) -/
def State.raise (s : State) (code : Code) (source book pol : Nat) (detail : List Byte) : State :=
  { s with crier := { s.crier with
      band := s.crier.band ++ [⟨code, source, book, pol, slice detail 0 16⟩] } }

/-- An engine stops while an edge of its own for a polder waits at the sluice (R341). (DEDUCED: log 39) -/
def State.held (s : State) (source p : Nat) : Bool := s.crier.sluice.any fun e => e.source = source && e.pol = p

/-- Post an event in a polder's own day book. -/
def State.raiseOwn (s : State) (code : Code) (source p : Nat) (detail : List Byte) : State :=
  s.raise code source p p detail

/-- Post an event to P0 and P1. -/
def State.raiseBoth (s : State) (code : Code) (source : Nat) (detail : List Byte) : State :=
  (s.raise code source 0 0 detail).raise code source 1 1 detail

/-- Post an event to the supervisor of the port that owns a polder. -/
def State.raiseSup (s : State) (code : Code) (source p : Nat) (detail : List Byte) : State :=
  match s.supOf p with
  | some b => s.raise code source b p detail
  | none => s

/-- Address and engine, as PERMISSION, POISON_READ and FENCED_TARGET carry them (R352). -/
def addrDetail (addr engine : Nat) : List Byte := leBytes 8 addr ++ [BitVec.ofNat 8 engine]

def State.permission (s : State) (source p addr engine : Nat) : State :=
  s.raiseOwn .permission source p (addrDetail addr engine)

/-! ## Time -/

/-- Whether `n` ns have passed since an age. -/
def State.passed (s : State) (since n : Nat) : Bool := since + n ≤ s.clock

/-- Cycle of the tide in progress, in MCLK cycles. -/
def State.tideCycle (s : State) : Nat :=
  match s.tide.boundary with
  | some b => s.alm.now - b
  | none => 0

/-- The Almanac tide number. -/
def State.tideNumber (s : State) : Nat := s.alm.now / 4096

/-! ## Delays of running manifests (R72) -/

/-- The causes in the order of the table. -/
def allCauses : List Cause := [.link, .refresh, .weir, .translation, .wait, .other]

/-- An event of a cause delays a manifest by `n` cycles from `now`, behind what that cause delays already. A cycle
that an earlier cause of the table delays too is not counted, and one that a later cause had counted leaves that total
(R72). (DEDUCED: log 36) -/
def Run.delayed (r : Run) (now n : Nat) (k : Cause) : Run :=
  let start := max now (r.covered.get k)
  let stop := start + n
  let from_ := ((allCauses.filter fun j => j.rank < k.rank).map r.covered.get).foldl max start
  let mine := r.uncharged.set k (r.uncharged.get k + (stop - from_))
  { r with
    covered := r.covered.set k stop
    uncharged := (allCauses.filter fun j => k.rank < j.rank).foldl (fun u j =>
      u.set j (u.get j - (min stop (r.covered.get j) - from_))) mine }

/-- An event of a cause delays the running hard manifests of a polder that `f` names. -/
def State.delayRuns (s : State) (p : Nat) (f : Run → Bool) (n : Nat) (k : Cause) : State :=
  let hit := fun (e : Nat × Run) => if e.2.m.hard && f e.2 then (e.1, e.2.delayed s.clock n k) else e
  s.updPol p fun q => { q with running := q.running.map hit }

/-- Bytes of a line land in a tile, with the sectors that are poisoned; what the same Porter has written there since it asked for the
line stands (R55). -/
def TileBuf.land (b : TileBuf) (line : Nat) (bs : Bytes) (bad : List Nat) : TileBuf :=
  let stands := fun (k : Nat) => (List.range 128).all fun j => b.bytes.any fun e => e.1 = 1024 * line + 128 * k + j
  { b with
    bytes := bs.map (fun e => (1024 * line + e.1, e.2)) ++ b.bytes
    poison := b.poison ++ (bad.filter fun k => !stands k).map (8 * line + ·)
    outstanding := b.outstanding - 1 }

end Sys2Proof.Machine
end

