-- ==== Sys2Proof/Machine/Quays.lean ====
section
/-! DEFINITION. The quays of R27: their depths, writing under stall (R28), flushing (R31), and what leaves for
a host through them (R283, R284). -/

namespace Sys2Proof.Machine

open Sys2Proof

/-- A number for each quay of R27's table. -/
def quayNo : Quay → Nat
  | .hbmCmdOut s => s.val
  | .hbmStatus s => 24 + s.val
  | .hbmWrite g => 48 + g.val
  | .hbmRead g => 240 + g.val
  | .linkTx n => 432 + n.val
  | .linkRx n => 496 + n.val
  | .hostOut p => 560 + p.val
  | .hostIn p => 562 + p.val
  | .cfgIn p => 564 + p.val
  | .cfgOut p => 566 + p.val
  | .stewardOut c => 568 + c.val
  | .stewardIn c => 570 + c.val
  | .almMclk => 572
  | .almSteward => 573
  | .almDiscipline => 574

def hostOutNo (port : Nat) : Nat := 560 + port
def linkTxNo (n : Nat) : Nat := 432 + n
def linkRxNo (n : Nat) : Nat := 496 + n

/-- Depth of a quay (R27). -/
def quayDepth (n : Nat) : Nat :=
  if n < 48 then 64 else if n < 432 then 32 else if n < 560 then 64 else if n < 564 then 128
  else if n < 572 then 16 else 4

/-- Bytes of an entry (R27). -/
def quayEntry (n : Nat) : Nat :=
  if n < 48 then 16 else if n < 432 then 512 else if n < 564 then 256 else if n < 568 then 8
  else if n < 572 then 32 else 8

def State.quay (s : State) (n : Nat) : QuaySt := s.quays.get {} n
def State.updQuay (s : State) (n : Nat) (f : QuaySt → QuaySt) : State := { s with quays := s.quays.upd {} n f }

/-- Write an entry; a full quay stalls its writer (R28). -/
def QuaySt.push (depth : Nat) (e : QEntry) (q : QuaySt) : QuaySt :=
  if q.entries.length < depth && q.waiting.isEmpty then { q with entries := q.entries ++ [e] }
  else { q with waiting := q.waiting ++ [e] }

/-- Read the oldest entry; a stalled writer's entry takes its place. -/
def QuaySt.pop (q : QuaySt) : QuaySt :=
  match q.entries with
  | [] => q
  | _ :: es =>
    match q.waiting with
    | [] => { q with entries := es }
    | w :: ws => { q with entries := es ++ [w], waiting := ws }

/-- R31: the far domain has stopped; every entry completes. -/
def QuaySt.flush (q : QuaySt) : QuaySt :=
  { q with entries := [], waiting := [], flushed := q.flushed + q.entries.length + q.waiting.length }

def State.pushQuay (s : State) (n : Nat) (e : QEntry) : State := s.updQuay n (QuaySt.push (quayDepth n) e)

def State.toHost (s : State) (port : Nat) (m : HostMsg) : State := s.pushQuay (hostOutNo port) (.host m)

/-! ## Configuration values that shape requests (R274, R284) -/

/-- What a configuration dword that software may write reads before it is written: Device Control's
Max_Read_Request_Size is 512 B, SR-IOV System Page Size 4 KiB, as PCI Express gives. `Func.cfg` keeps the difference
from this. (PRESUMED: log 9) -/
def cfgReset (off : Nat) : BitVec 32 := if off = 0x68 then 0x2000 else if off = 0x190 then 1 else 0

/-- Device Control of the PF, at offset 0x68 of its PCI Express capability (R279). -/
def State.devCtl (s : State) (port : Nat) : Nat :=
  (((s.port port).fn 0).cfg.get 0 0x68 ^^^ cfgReset 0x68).toNat

/-- Max_Payload_Size, at most 512 B. -/
def State.mps (s : State) (port : Nat) : Nat := min 512 (128 * 2 ^ field (s.devCtl port) 5 3)

/-- Max_Read_Request_Size; 512 B at reset as PCI Express gives, at most 4,096 B. -/
def State.mrrs (s : State) (port : Nat) : Nat := min 4096 (128 * 2 ^ field (s.devCtl port) 12 3)

/-- Pieces of a transfer: each ends on a multiple of 128 B and carries at most `m` bytes (R283). -/
def splitRcb (m : Nat) : Nat → Nat → List Byte → List (List Byte)
  | 0, _, _ => []
  | _, _, [] => []
  | fuel + 1, a, bs =>
    let n := m - a % 128
    bs.take n :: splitRcb m fuel (a + n) (bs.drop n)

/-- A host's read is answered in split completions (R283); `ep` marks them poisoned. -/
def State.complete (s : State) (port fn addr : Nat) (data : List Byte) (ep : Bool) : State :=
  (splitRcb (s.mps port) (data.length + 1) addr data).foldl
    (fun s d => s.toHost port (.completion fn d 0 ep)) s

/-- Unsupported Request. (DEDUCED: log 41) -/
def State.completeUr (s : State) (port fn : Nat) : State := s.toHost port (.completion fn [] 1 false)

/-- Pieces of a write: at most `m` bytes, none across a 4 KiB boundary (R284). -/
def splitWrite (m : Nat) : Nat → Nat → List Byte → List (Nat × List Byte)
  | 0, _, _ => []
  | _, _, [] => []
  | fuel + 1, a, bs =>
    let n := min m (4096 - a % 4096)
    (a, bs.take n) :: splitWrite m fuel (a + n) (bs.drop n)

/-- Posted writes to a host's bus address (R284). (DESIGN CHOICE: log 63) -/
def State.hostPost (s : State) (port fn addr : Nat) (data : List Byte) (ep : Bool) (maker : Nat × Nat × Nat × Nat) : State :=
  (splitWrite (s.mps port) (data.length + 1) addr data).foldl
    (fun s e => s.toHost port (.memWrite fn e.1 e.2 ep maker)) s

/-- The function whose requester ID a polder's requests carry (R244): the PF, or the bound VF. -/
def State.requester (s : State) (p : Nat) : Nat := (s.pol p).vf

/-! ## MSI-X (R287, R412) -/

/-- Send a function's vector, or set its pending bit while it is masked or the function is in D3hot. (DESIGN CHOICE:
log 63) -/
def State.msixSend (s : State) (port fn v : Nat) : State :=
  let f := (s.port port).fn fn
  let e := f.msix.get {} v
  if !f.msixEnable then s
  else if e.mask || f.msixMask || f.d3 then
    s.updPort port fun p => p.updFn fn fun f => { f with pba := f.pba ||| BitVec.ofNat 4 (2 ^ v) }
  else s.toHost port (.msix fn v e.addr e.data)

/-- The vector of a day book: 0 normal, 1 fast, of the function that serves the polder (R287). -/
def State.bookVector (s : State) (p c : Nat) : State :=
  let q := s.pol p
  if q.port < 2 then s.msixSend q.port q.vf c else s

/-- Vector 2 of each PF: a new stage (R318). -/
def State.stageVector (s : State) : State := (s.msixSend 0 0 2).msixSend 1 0 2

end Sys2Proof.Machine
end

