-- ==== Sys2Proof/Machine/Access.lean ====
section
/-! DEFINITION. Accesses to Gatehouse registers: who reaches them, from which stage, and which bits an access
covers (R319, R400 to R405). -/

namespace Sys2Proof.Machine

open Sys2Proof

end Sys2Proof.Machine

namespace Sys2Proof

/-- The port whose registers an access sees; the device-side view shows those of its port's PF (R24). -/
def Src.portOf : Src → Nat
  | .pf p => p.val
  | .vf p _ => p.val
  | .dev p => p.val

/-- The function number: 0 the PF. -/
def Src.fnOf : Src → Nat
  | .vf _ n => n.val
  | _ => 0

/-- A Hand waits for the answer. -/
def Requester.isHand : Requester → Bool
  | .hand _ _ => true
  | _ => false

def Src.isPf : Src → Bool
  | .vf _ _ => false
  | _ => true

/-- The two lengths of R400. -/
def RegAcc.valid (a : RegAcc) : Bool := (a.size = 8 && a.half = 0) || (a.size = 4 && a.half < 2)

/-- The written bits in their places in the register. -/
def RegAcc.data (a : RegAcc) : Nat :=
  if a.size = 8 then a.value.toNat else a.value.toNat % 2 ^ 32 * 2 ^ (32 * a.half)

/-- The register's 64 bits after the write, were every bit RW. -/
def RegAcc.merge (a : RegAcc) (old : Nat) : Nat :=
  if a.size = 8 then a.value.toNat
  else if a.half = 0 then old / 2 ^ 32 * 2 ^ 32 + a.value.toNat % 2 ^ 32
  else old % 2 ^ 32 + a.value.toNat % 2 ^ 32 * 2 ^ 32

/-- A field's new value under a write: bits outside the addressed half stay. -/
def RegAcc.fld (a : RegAcc) (lo len old : Nat) : Nat := field (a.merge (old * 2 ^ lo)) lo len

/-- A 1 is written to a bit. -/
def RegAcc.bit (a : RegAcc) (lo : Nat) : Bool := a.data.testBit lo

/-- The access covers a bit. -/
def RegAcc.hits (a : RegAcc) (lo : Nat) : Bool := a.size = 8 || lo / 32 = a.half

/-- A one-bit field's new value. -/
def RegAcc.flag (a : RegAcc) (lo : Nat) (old : Bool) : Bool := if a.hits lo then a.bit lo else old

/-- An RC field is cleared by a read that covers it whole (R404). -/
def RegAcc.covers (a : RegAcc) (lo len : Nat) : Bool := a.hits lo && a.hits (lo + len - 1)

end Sys2Proof

namespace Sys2Proof.Machine

open Sys2Proof

/-- The polder of a port's function (R277): the supervisor, or the tenant the charter binds to VF n. -/
def State.fnPolder (s : State) (port fn : Nat) : Option Nat :=
  if fn = 0 then some (supervisorOf port)
  else (List.range 64).find? fun p => (s.pol p).port = port && (s.pol p).vf = fn && 2 ≤ p

/-- A VF exists from Stage 3 where the charter binds it, and answers while VF Enable is set (R277). -/
def State.vfLive (s : State) (port n : Nat) : Bool :=
  let q := s.port port
  3 ≤ s.boot.stage && q.vfEnable && 1 ≤ n && n ≤ q.numVfs && (s.fnPolder port n).isSome

/-- A function takes TLPs: its port is trained and neither it nor its port is in reset (R291). -/
def State.fnUp (s : State) (port fn : Nat) : Bool :=
  let q := s.port port
  s.boot.stage0 && q.rate ≠ 0 && !q.inReset && !q.vfResets.contains fn && (fn = 0 || s.vfLive port fn)

/-- A function's BARs are decoded: Memory Space Enable is set and it is not in D3hot (R276). For VFs, VF Memory
Space Enable is the bit of each. -/
def State.fnReaches (s : State) (port fn : Nat) : Bool :=
  s.fnUp port fn && ((s.port port).fn fn).mse && !((s.port port).fn fn).d3

/-- A register offset's stage has been reached (R319). -/
def State.offLive (s : State) (src : Src) (off : Nat) : Bool :=
  let st := s.boot.stage
  s.boot.stage0 &&
  (if off < 0x11000 then true
   else if off < 0x20000 then 2 ≤ st
   else if off < 0x40000 then 1 ≤ st
   else if off < 0x70000 then 3 ≤ st
   else if off < 0x80000 then (src.isPf || 3 ≤ st)
   else if off < 0x100000 then 1 ≤ st
   else if off < 0x800000 then 3 ≤ st
   else if off < 0x1000000 then 2 ≤ st
   else if off < 0x1001000 then (if off % 0x40 / 8 = 1 then 3 ≤ st else 2 ≤ st)
   else if off < 0x1001040 then 1 ≤ st
   else if off < 0x3000000 then 3 ≤ st
   else 1 ≤ st)

/-- The access arrives: through a function's BAR index 0, or through the device-side view from Stage 3. -/
def State.srcReaches (s : State) (src : Src) : Bool :=
  match src with
  | .dev _ => 3 ≤ s.boot.stage
  | _ => s.fnReaches src.portOf src.fnOf

/-- A write through a PF, or through the device-side view, that reaches a live register: the port. -/
def State.pfWrites (s : State) (a : RegAcc) (off : Nat) : Option Nat :=
  if a.valid && a.src.isPf && s.srcReaches a.src && s.offLive a.src off then some a.src.portOf else none

/-- The answer to a read of a register: a completion to the host, or the value on the device side. -/
def State.reply (s : State) (src : Src) (size : Nat) (v : Nat) : State :=
  match src with
  | .dev p => s.updPort p.val fun q => { q with devReply := some (BitVec.ofNat 64 v) }
  | _ => s.toHost src.portOf (.completion src.fnOf (leBytes size v) 0 false)

/-- The value that a read of 8 bytes, or of a half, returns of a register. -/
def halfOf (size half v : Nat) : Nat := if size = 8 then v else field v (32 * half) 32

/-- A write to a register of a polder: performed for the PF of the port that owns it (R402). -/
def State.ownerWrites (s : State) (p : Nat) (a : RegAcc) (off : Nat) : Bool :=
  match s.pfWrites a off with
  | some port => (s.pol p).port = port
  | none => false

end Sys2Proof.Machine
end

