-- ==== Sys2Proof/Machine/Granary.lean ====
section
/-! DEFINITION. A home's copy of its lines (chapter 8): the Granary cache over HBM, the tier region, dead
marks, poison, and the counts of dead rereads. -/

namespace Sys2Proof.Machine

open Sys2Proof

/-! ## Sectors -/

def inMask (m : BitVec 8) (off : Nat) : Bool := m.getLsbD (off / 128)

/-- The sectors that bytes touch. -/
def touched (bs : Bytes) : BitVec 8 :=
  BitVec.ofNat 8 ((List.range 8).foldl (fun a i => if bs.any fun e => e.1 / 128 = i then a + 2 ^ i else a) 0)

/-- The sectors that bytes cover whole. -/
def covered (bs : Bytes) : BitVec 8 :=
  BitVec.ofNat 8 ((List.range 8).foldl (fun a i =>
    if (List.range 128).all fun j => bs.any fun e => e.1 = 128 * i + j then a + 2 ^ i else a) 0)

/-- The offsets of the sectors of a mask. -/
def maskOffs (m : BitVec 8) : List Nat := (List.range 1024).filter (inMask m)

/-- Bytes named from an offset. -/
def bytesAt (off : Nat) (bs : List Byte) : Bytes := (List.range bs.length).map fun i => (off + i, bs.getD i 0)

/-- The poison of sectors after a write: a poisoned write poisons what it touches, a clean one clears what it
covers whole (R204). -/
def poisonAfter (old : BitVec 8) (bs : Bytes) (poison : Bool) : BitVec 8 :=
  if poison then old ||| touched bs else old &&& ~~~(covered bs)

/-- The dead marks after a write (R172). -/
def deadAfter (old : BitVec 8) (bs : Bytes) (dead : Bool) : BitVec 8 :=
  if dead then old ||| touched bs else old &&& ~~~(touched bs)

def patch (d : SMap Byte) (bs : Bytes) : SMap Byte := bs.foldl (fun d e => d.set 0 e.1 e.2) d

/-! ## The Granary cache -/

def State.setGran (s : State) (key : Nat) (g : GranLine) : State := { s with gran := s.gran.set {} key g }
def State.updGran (s : State) (key : Nat) (f : GranLine → GranLine) : State := { s with gran := s.gran.upd {} key f }

/-- The Granary cache line that holds an HBM line, with its key: 2^20 x Keel + 16 x set + way. -/
def State.granFind (s : State) (line : Nat) : Option (Nat × GranLine) :=
  if isHbmLine line then s.gran.find? fun e => e.1 / 2 ^ 20 = homeOf line && e.2.valid && e.2.line = line else none

def State.stackFenced (s : State) (line : Nat) : Bool := isHbmLine line && (s.stack (s.stackOf line)).fenced

/-- The home of the line is fenced. -/
def State.homeFenced (s : State) (line : Nat) : Bool := (s.keel (homeOf line)).fenced

/-- A byte of the home's copy. -/
def State.homeByte (s : State) (line off : Nat) : Byte :=
  match s.granFind line with
  | some (_, g) => if inMask g.present off then g.data.get 0 off else memByte s.mem (line * 1024 + off)
  | none => memByte s.mem (line * 1024 + off)

/-- Poisoned sectors of the home's copy: a fenced stack's lines read as poison (R185). -/
def State.homePoison (s : State) (line : Nat) : BitVec 8 :=
  let below := if s.stackFenced line then 0xFF else (s.mark line).poison
  match s.granFind line with
  | some (_, g) => (g.present &&& g.poison) ||| (~~~g.present &&& below)
  | none => below

def State.homeDead (s : State) (line : Nat) : BitVec 8 :=
  match s.granFind line with
  | some (_, g) => (g.present &&& g.dead) ||| (~~~g.present &&& (s.mark line).dead)
  | none => (s.mark line).dead

/-- The data of a dead store leaves the home's copy: sectors of a mask hold again what they held before the run of
dead stores (R172, R173). (DEDUCED: log 62) -/
def State.homeUndo (s : State) (line : Nat) (mask : BitVec 8) : State :=
  let m := s.mark line
  let back := mask &&& m.run
  if back = 0 then s else
  let bs : Bytes := (maskOffs back).map fun o => (o, m.before.get 0 o)
  let clear := fun (x : Mark) => { x with
    run := x.run &&& ~~~back, before := x.before.filter fun e => !inMask back e.1
    poison := (x.poison &&& ~~~back) ||| (m.runPoison &&& back), runPoison := x.runPoison &&& ~~~back }
  let s := { s with mem := memPatch s.mem (line * 1024) bs }.updMark line clear
  match s.granFind line with
  | some (key, g) => s.setGran key { g with
      data := patch g.data (bs.filter fun e => inMask g.present e.1)
      poison := (g.poison &&& ~~~(back &&& g.present)) ||| (m.runPoison &&& back &&& g.present) }
  | none => s

/-- Write a Granary line's dirty sectors to HBM: a dead store's data is dropped, and HBM is marked dead (R172);
nothing reaches a fenced stack. (DEDUCED: log 62) -/
def State.granFlush (s : State) (key : Nat) : State :=
  let g := s.gran.get {} key
  if s.stackFenced g.line then s else
  let s := s.homeUndo g.line (g.dirty &&& g.dead)
  let g := s.gran.get {} key
  let bs : Bytes := (maskOffs g.dirty).map fun o => (o, g.data.get 0 o)
  { s with mem := memPatch s.mem (g.line * 1024) bs }.updMark g.line fun m =>
    { m with dead := (m.dead &&& ~~~g.dirty) ||| (g.dead &&& g.present), poison := (m.poison &&& ~~~g.dirty) ||| (g.dirty &&& g.poison) }

/-- Evict a line of the Granary cache (R163). -/
def State.granEvict (s : State) (key : Nat) : State :=
  if (s.gran.get {} key).valid then (s.granFlush key).setGran key {} else s

/-- The way a new line takes in a set: a free one, else the least recently used that is not kept (R171). (DEDUCED: log
22) -/
def victim (ways : List (Nat × Bool × Bool × Nat)) : Option Nat :=
  match ways.find? fun w => !w.2.1 with
  | some w => some w.1
  | none =>
    (ways.filter fun w => !w.2.2.1).foldl (fun (best : Option (Nat × Nat)) w =>
      match best with
      | none => some (w.1, w.2.2.2)
      | some (k, u) => if w.2.2.2 < u then some (w.1, w.2.2.2) else some (k, u)) none |>.map Prod.fst

/-- Bring an HBM line into the polder's Granary cache partition under a hint (R168, R171); evict-first does not
allocate. -/
def State.granAlloc (s : State) (p line hint : Nat) : State :=
  if !isHbmLine line then s else
  let k := homeOf line
  match s.granFind line with
  | some (key, _) =>
    s.updGran key fun g => if hint = 3 then { g with keep := false } else { g with used := s.clock }
  | none =>
    if hint = 3 then s else
    match s.granPart k p with
    | none => s
    | some (first, sets) =>
      let set := first + line % sets
      let keys := (List.range 16).map fun w => 2 ^ 20 * k + 16 * set + w
      let kept := (keys.filter fun i => (s.gran.get {} i).valid && (s.gran.get {} i).keep).length
      match victim (keys.map fun i => let g := s.gran.get {} i; (i, g.valid, g.keep, g.used)) with
      | none => s
      | some key =>
        let s := s.granEvict key
        s.setGran key { valid := true, line := line, pol := p, keep := hint = 1 && kept < 12, used := s.clock }

/-- Copy sectors of HBM that the Granary line lacks into it. -/
def State.granFill (s : State) (line : Nat) (need : BitVec 8) : State :=
  match s.granFind line with
  | none => s
  | some (key, g) =>
    let get := need &&& ~~~g.present
    let po := s.homePoison line
    s.setGran key { g with
      present := g.present ||| get
      poison := (g.poison &&& ~~~get) ||| (po &&& get)
      dead := (g.dead &&& ~~~get) ||| ((s.mark line).dead &&& get)
      data := patch g.data ((maskOffs get).map fun o => (o, memByte s.mem (line * 1024 + o))) }

/-- Count a request that a sector with a dead mark served (R173). (DEDUCED: log 62) -/
def State.countDead (s : State) (p : Nat) (dead : Bool) : State :=
  if dead then s.updPol p fun q => { q with deadReads := satAdd 0xFFFFFFFF q.deadReads 1 } else s

/-- Whether a read of sectors of the home's copy meets a dead mark. -/
def State.meetsDead (s : State) (line : Nat) (need : BitVec 8) : Bool := s.homeDead line &&& need ≠ 0

/-- Read sectors of the home's copy for a polder: their bytes and poison. (DESIGN CHOICE: log 23) -/
def State.homeRead (s : State) (p line : Nat) (need : BitVec 8) (hint : Nat) : (Bytes × BitVec 8) × State :=
  let s := if s.stackFenced line then s else (s.granAlloc p line hint).granFill line need
  (((maskOffs need).map fun o => (o, s.homeByte line o), s.homePoison line &&& need), s)

/-- The sectors a write gives only in part. -/
def partSectors (bs : Bytes) : BitVec 8 := touched bs &&& ~~~(covered bs)

/-- What the home keeps of its copy before a write (R173): the bytes that a run of dead stores begins upon; a write
without the dead hint ends the run of the sectors it touches, and finds in those it gives in part what stood before
the run. (DEDUCED: log 62) -/
def State.homeKeep (s : State) (line : Nat) (bs : Bytes) (dead : Bool) : State :=
  if dead then
    let new := touched bs &&& ~~~(s.mark line).run
    s.updMark line fun m => { m with
      run := m.run ||| touched bs, runPoison := m.runPoison ||| (s.homePoison line &&& new)
      before := patch m.before ((maskOffs new).map fun o => (o, s.homeByte line o)) }
  else
    (s.homeUndo line (partSectors bs)).updMark line fun m => { m with
      run := m.run &&& ~~~(touched bs), runPoison := m.runPoison &&& ~~~(touched bs)
      before := m.before.filter fun e => !inMask (touched bs) e.1 }

/-- Write bytes into the home's copy: into the Granary cache where it holds or takes the line, else into HBM or the
tier region. (DESIGN CHOICE: log 23) -/
def State.homeWrite (s : State) (p line : Nat) (bs : Bytes) (dead poison : Bool) (hint : Nat) : State :=
  if s.stackFenced line && (s.granFind line).isNone then s else
  let s := (s.granAlloc p line hint).homeKeep line bs dead
  match s.granFind line with
  | none =>
    { s with mem := memPatch s.mem (line * 1024) bs }.updMark line fun m =>
      { m with poison := poisonAfter m.poison bs poison, dead := deadAfter m.dead bs dead }
  | some (key, _) =>
    let s := s.granFill line (touched bs)
    s.updGran key fun g => { g with
      data := patch g.data bs
      present := g.present ||| touched bs
      dirty := g.dirty ||| touched bs
      poison := poisonAfter g.poison bs poison
      dead := deadAfter g.dead bs dead }

/-- Mark sectors of the home's copy dead without data (DISCARD): the Granary drops its copy of an HBM line, the tier
region keeps its data (R177). (DEDUCED: log 62) -/
def State.homeDiscard (s : State) (line : Nat) (mask : BitVec 8) (granary : Bool) : State :=
  let s := match s.granFind line with
    | some (key, g) =>
      if granary then s.setGran key {}
      else s.setGran key { g with dead := g.dead ||| (g.present &&& mask) }
    | none => s
  s.updMark line fun m => { m with dead := m.dead ||| mask }

/-- Poison every sector of a line where the home keeps it (R205). -/
def State.homePoisonAll (s : State) (line : Nat) : State :=
  let s := match s.granFind line with
    | some (key, g) => s.setGran key { g with
        poison := 0xFF, present := 0xFF, dirty := 0xFF
        data := patch [] ((List.range 1024).map fun o => (o, s.homeByte line o)) }
    | none => s.updMark line fun m => { m with poison := 0xFF }
  s.updKeel (homeOf line) fun k => { k with poisoned := satAdd 0xFFFFFFFF k.poisoned 1 }

/-- Decoded lines of a coded Cask group by KIND (R108, R109). -/
def caskLines : Nat → Nat
  | 1 => 8
  | 2 => 8
  | 3 => 6
  | 4 => 6
  | 5 => 4
  | 6 => 2
  | _ => 0

/-- The coded group that a line lies in: its first line and its decoded lines (R109). -/
def State.codedGroup (s : State) (line : Nat) : Option (Nat × Nat) :=
  (List.range 8).findSome? fun j =>
    let first := line - j
    let n := caskLines ((s.mark first).tag.toNat / 16)
    if j ≤ line && j < n then some (first, n) else none

/-- The coded groups that a run of local memory meets. -/
def State.groupsIn (s : State) (o len : Nat) : List (Nat × Nat) :=
  ((List.range (len / 1024 + 2)).filterMap fun i =>
    if o + len ≤ (o / 1024 + i) * 1024 then none else s.codedGroup (o / 1024 + i)).eraseDups

/-- A write would cover part of a coded group, which R112 refuses. -/
def State.groupPart (s : State) (o len : Nat) : Bool :=
  (s.groupsIn o len).any fun g => o + len < (g.1 + g.2) * 1024 || g.1 * 1024 < o

/-- A write that covers coded groups whole makes them raw (R112). -/
def State.untag (s : State) (o len : Nat) : State :=
  (s.groupsIn o len).foldl (fun s g => s.updMark g.1 fun m => { m with tag := 0 }) s

end Sys2Proof.Machine
end

