-- ==== Sys2Proof/Machine/Messages.lean ====
section
/-! DEFINITION. Coherence messages as they travel (R190 to R192): type codes, the 32-byte header, its reading, and which
messages keep their order. -/

namespace Sys2Proof.Machine

open Sys2Proof

/-- TYPE of R191. -/
def typeCode : MsgType → Nat
  | .gets => 0x01
  | .getm => 0x02
  | .rdsec => 0x03
  | .pute => 0x04
  | .putm => 0x05
  | .puto => 0x06
  | .done => 0x08
  | .invAck => 0x09
  | .fwdAck => 0x0A
  | .wbCross => 0x0B
  | .recallAck => 0x0C
  | .fwdGets => 0x10
  | .fwdGetm => 0x11
  | .inv => 0x12
  | .recall => 0x13
  | .grant => 0x14
  | .dataH => 0x15
  | .putAck => 0x16
  | .nackRd => 0x17
  | .dataF => 0x18

/-- The types in the order of their codes. -/
def allTypes : List MsgType :=
  [.gets, .getm, .rdsec, .pute, .putm, .puto, .done, .invAck, .fwdAck, .wbCross, .recallAck, .fwdGets, .fwdGetm, .inv,
    .recall, .grant, .dataH, .putAck, .nackRd, .dataF]

/-- The type of a code; none for the reserved codes. -/
def typeOf (code : Nat) : Option MsgType := allTypes.find? fun t => typeCode t = code

/-- The 32 bytes of a message (R190). -/
def msgHeader (m : CohMsg) : List Byte :=
  leBytes 1 (typeCode m.type) ++ leBytes 1 m.src ++ leBytes 1 m.req ++ leBytes 1 m.pol
    ++ leBytes 1 m.need.toNat ++ leBytes 1 m.cover.toNat ++ leBytes 1 m.mark.toNat ++ leBytes 1 m.poison.toNat
    ++ leBytes 1 m.st ++ leBytes 1 m.way ++ leBytes 2 m.set ++ leBytes 4 m.tag ++ leBytes 8 m.line ++ leBytes 8 0

/-- The message that 32 bytes spell, on its way to an agent, without its sectors. -/
def readHeader (dst : Nat) (bs : List Byte) : Option CohMsg :=
  if bs.length ≠ 32 || leAt bs 16 8 ≥ 2 ^ 38 || leAt bs 24 8 ≠ 0 then none else
  (typeOf (leAt bs 0 1)).map fun t => {
    type := t, src := leAt bs 1 1, dst := dst, req := leAt bs 2 1, pol := leAt bs 3 1
    need := BitVec.ofNat 8 (leAt bs 4 1), cover := BitVec.ofNat 8 (leAt bs 5 1), mark := BitVec.ofNat 8 (leAt bs 6 1)
    poison := BitVec.ofNat 8 (leAt bs 7 1), st := leAt bs 8 1, way := leAt bs 9 1, set := leAt bs 10 2
    tag := leAt bs 12 4, line := leAt bs 16 8 }

/-- A message whose sectors travel in a DEMAND stint behind its header (R192). -/
def msgCarries (m : CohMsg) : Bool := !m.data.isEmpty

/-- The agent that a message leaves on its present leg: DATA_F goes up to the home, and down from it (R192). -/
def msgLeaves (m : CohMsg) : Nat := if m.type = .dataF && m.dst < 8 then 8 + homeOf m.line else m.src

/-- Message `b` may not arrive before `a`, which was sent before it (R160, R192): both travel in the same stints, and
`a` is not one whose sectors come in another stint than `b`. (DESIGN CHOICE: log 60) -/
def msgBefore (a b : CohMsg) : Bool :=
  a.pol = b.pol && msgLeaves a = msgLeaves b && a.dst = b.dst && (!msgCarries a || msgCarries b)

end Sys2Proof.Machine
end

