-- ==== Sys2Proof/Machine/Num.lean ====
section
/-! DEFINITION. Number formats (chapter 5): exact values, rounding to each format, FP32 arithmetic, MX blocks,
and the approximations of R114. -/

namespace Sys2Proof.Fpu

open Sys2Proof

/-- A number as a format reads it: (-1)^neg x m x 2^e, an infinity, or a NaN. -/
inductive Val where
  | nan
  | inf (neg : Bool)
  | fin (neg : Bool) (m : Nat) (e : Int)
deriving DecidableEq, Repr

/-- An exact dyadic number m x 2^e. -/
structure Dy where
  m : Int
  e : Int
deriving DecidableEq, Repr

/-- The number of bits of m. -/
def bitLen (m : Nat) : Nat := if m = 0 then 0 else m.log2 + 1

/-- A format of R98 with a sign bit: mantissa bits, exponent of the smallest subnormal, largest finite
magnitude code, width, emax; `ieee` has infinities above maxCode, `nan` only NaN there. -/
structure Fmt where
  t : Nat
  qmin : Int
  maxCode : Nat
  width : Nat
  emax : Int
  ieee : Bool
  nan : Bool
deriving DecidableEq, Repr

/-- R98's floating-point formats by stream code; 0x9 has the layout of 0x2. -/
def fmtOf : Nat → Fmt
  | 1 => ⟨3, -9, 0x7E, 8, 8, false, true⟩
  | 2 => ⟨2, -16, 0x7B, 8, 15, true, true⟩
  | 3 => ⟨2, -4, 0x1F, 6, 4, false, false⟩
  | 4 => ⟨3, -3, 0x1F, 6, 2, false, false⟩
  | 5 => ⟨1, -1, 0x07, 4, 2, false, false⟩
  | 6 => ⟨7, -133, 0x7F7F, 16, 127, true, true⟩
  | 9 => ⟨2, -16, 0x7B, 8, 15, true, true⟩
  | _ => ⟨23, -149, 0x7F7FFFFF, 32, 127, true, true⟩

def f32 : Fmt := fmtOf 7
def bf16 : Fmt := fmtOf 6

/-- m / 2^k to nearest, ties to even. -/
def rneShift (m k : Nat) : Nat :=
  let q := m / 2 ^ k
  let r := 2 * (m % 2 ^ k)
  if r > 2 ^ k then q + 1 else if r = 2 ^ k then q + q % 2 else q

/-- The magnitude code of m x 2^e rounded to nearest even, without a limit above: codes of a format rise with
the magnitude, and a carry out of the mantissa steps the exponent. -/
def magCode (f : Fmt) (m : Nat) (e : Int) : Nat :=
  if m = 0 then 0 else
  let q := max (e + (bitLen m : Int) - 1 - f.t) f.qmin
  let M := if q ≤ e then m * 2 ^ (e - q).toNat else rneShift m (q - e).toNat
  (q - f.qmin).toNat * 2 ^ f.t + M

def signBit (f : Fmt) (neg : Bool) : Nat := if neg then 2 ^ (f.width - 1) else 0

/-- Read a code. -/
def decode (f : Fmt) (c : Nat) : Val :=
  let neg := c.testBit (f.width - 1)
  let mag := c % 2 ^ (f.width - 1)
  if mag > f.maxCode then
    if f.ieee && mag = f.maxCode + 1 then .inf neg
    else if f.nan then .nan
    else .fin neg mag f.qmin
  else
    let ex := mag / 2 ^ f.t
    let man := mag % 2 ^ f.t
    if ex = 0 then .fin neg man f.qmin else .fin neg (man + 2 ^ f.t) (f.qmin + (ex : Int) - 1)

/-- A quiet NaN with the sign kept (R101). (DESIGN CHOICE: log 12) -/
def nanCode (f : Fmt) (neg : Bool) : Nat := signBit f neg + f.maxCode + 1 + 2 ^ (f.t - 1)

/-- Round a value into BF16 or FP32 (R101): overflow gives an infinity. NaN is the caller's. -/
def encodeIeee (f : Fmt) : Val → Nat
  | .nan => nanCode f false
  | .inf neg => signBit f neg + f.maxCode + 1
  | .fin neg m e => signBit f neg + min (magCode f m e) (f.maxCode + 1)

/-- Round a value into an MX element format (R101): overflow saturates. -/
def encodeSat (f : Fmt) : Val → Nat
  | .nan => 0
  | .inf neg => signBit f neg + f.maxCode
  | .fin neg m e => signBit f neg + min (magCode f m e) f.maxCode

/-! ## Exact arithmetic -/

def Dy.ofFin (neg : Bool) (m : Nat) (e : Int) : Dy := ⟨if neg then -(m : Int) else m, e⟩

def Dy.add (a b : Dy) : Dy :=
  if a.e ≤ b.e then ⟨a.m + b.m * 2 ^ (b.e - a.e).toNat, a.e⟩
  else ⟨a.m * 2 ^ (a.e - b.e).toNat + b.m, b.e⟩

def Dy.mul (a b : Dy) : Dy := ⟨a.m * b.m, a.e + b.e⟩

def Dy.val (d : Dy) : Val := .fin (d.m < 0) d.m.natAbs d.e

def Dy.le (a b : Dy) : Bool := (Dy.add b ⟨-a.m, a.e⟩).m ≥ 0

def Val.isNan : Val → Bool
  | .nan => true
  | _ => false

def Val.isInf : Val → Bool
  | .inf _ => true
  | _ => false

def Val.isZero : Val → Bool
  | .fin _ 0 _ => true
  | _ => false

def Val.neg : Val → Bool
  | .nan => false
  | .inf n => n
  | .fin n _ _ => n

def Val.scale (k : Int) : Val → Val
  | .fin n m e => .fin n m (e + k)
  | v => v

/-- The exact sum, before rounding; the sign of a zero sum is IEEE 754's for round-to-nearest. -/
def addV : Val → Val → Val
  | .nan, _ => .nan
  | _, .nan => .nan
  | .inf a, .inf b => if a = b then .inf a else .nan
  | .inf a, _ => .inf a
  | _, .inf b => .inf b
  | .fin na ma ea, .fin nb mb eb =>
    let d := (Dy.ofFin na ma ea).add (Dy.ofFin nb mb eb)
    if d.m = 0 then .fin (na && nb) 0 0 else d.val

/-- The exact product. -/
def mulV : Val → Val → Val
  | .nan, _ => .nan
  | _, .nan => .nan
  | .inf a, .inf b => .inf (a != b)
  | .inf a, .fin b m _ => if m = 0 then .nan else .inf (a != b)
  | .fin a m _, .inf b => if m = 0 then .nan else .inf (a != b)
  | .fin a ma ea, .fin b mb eb => .fin (a != b) (ma * mb) (ea + eb)

/-! ## FP32 -/

def valOf (x : Lane) : Val := decode f32 x.toNat

/-- A quiet NaN whose sign and payload the implementation chooses. (DESIGN CHOICE: log 12) -/
def qnan (ops : List Nat) : Lane := Config.nanOf ops ||| 0x7FC00000

/-- Round to FP32; a NaN depends on what was combined. -/
def toF32 (ops : List Nat) (v : Val) : Lane :=
  match v with
  | .nan => qnan ops
  | v => BitVec.ofNat 32 (encodeIeee f32 v)

def fadd (a b : Lane) : Lane := toF32 [a.toNat, b.toNat] (addV (valOf a) (valOf b))
def fneg (a : Lane) : Lane := a ^^^ 0x80000000
def fabs (a : Lane) : Lane := a &&& 0x7FFFFFFF
def fsub (a b : Lane) : Lane := toF32 [a.toNat, b.toNat] (addV (valOf a) (valOf (fneg b)))
def fmul (a b : Lane) : Lane := toF32 [a.toNat, b.toNat] (mulV (valOf a) (valOf b))
/-- a x b + c, rounded once. -/
def ffma (a b c : Lane) : Lane :=
  toF32 [a.toNat, b.toNat, c.toNat] (addV (mulV (valOf a) (valOf b)) (valOf c))

/-- a < b; false on NaN. -/
def flt (a b : Lane) : Bool :=
  match valOf a, valOf b with
  | .nan, _ => false
  | _, .nan => false
  | .inf na, .inf nb => na && !nb
  | .inf na, _ => na
  | _, .inf nb => !nb
  | .fin na ma ea, .fin nb mb eb => !(Dy.le (Dy.ofFin nb mb eb) (Dy.ofFin na ma ea))

def fnan (a : Lane) : Bool := (valOf a).isNan
def funord (a b : Lane) : Bool := fnan a || fnan b
def feq (a b : Lane) : Bool := !funord a b && !flt a b && !flt b a
def fle (a b : Lane) : Bool := !funord a b && !flt b a

/-- FMIN: a quiet NaN if either is NaN (R126); -0 below +0. (DEDUCED: log 13) -/
def fmin (a b : Lane) : Lane :=
  if funord a b then qnan [a.toNat, b.toNat]
  else if flt a b then a else if flt b a then b else if (valOf a).neg then a else b

/-- DEDUCED: log 13. -/
def fmax (a b : Lane) : Lane :=
  if funord a b then qnan [a.toNat, b.toNat]
  else if flt a b then b else if flt b a then a else if (valOf a).neg then b else a

/-- FP32 to BF16 (R101). -/
def toBf16 (a : Lane) : BitVec 16 :=
  match valOf a with
  | .nan => BitVec.ofNat 16 (nanCode bf16 (a.getMsbD 0))
  | v => BitVec.ofNat 16 (encodeIeee bf16 v)

/-- BF16 to FP32, exact; a NaN becomes quiet with its sign kept (R101). -/
def ofBf16 (a : BitVec 16) : Lane :=
  match decode bf16 a.toNat with
  | .nan => BitVec.ofNat 32 (nanCode f32 (a.getMsbD 0))
  | v => BitVec.ofNat 32 (encodeIeee f32 v)

/-- Round to an integer, ties to even. -/
def rneInt : Val → Int
  | .fin neg m e =>
    let n : Nat := if 0 ≤ e then m * 2 ^ e.toNat else rneShift m (-e).toNat
    if neg then -(n : Int) else n
  | _ => 0

/-- A value to a two's complement integer of w bits, saturating; a NaN gives 0 (R101, R126). -/
def toIntSat (w : Nat) (v : Val) : Nat :=
  let lo : Int := -(2 ^ (w - 1))
  let hi : Int := 2 ^ (w - 1) - 1
  match v with
  | .nan => 0
  | .inf neg => ofSigned w (if neg then lo else hi)
  | v => ofSigned w (max lo (min hi (rneInt v)))

def ofInt (i : Int) : Lane := toF32 [] (Dy.val ⟨i, 0⟩)

/-! ## MX blocks (R98 to R101) -/

/-- floor(log2 amax) of the magnitudes, if any is not zero. -/
def amaxLog (vs : List Val) : Option Int :=
  vs.foldl (fun acc v =>
    match v with
    | .fin _ m e =>
      if m = 0 then acc else
      let l := e + (bitLen m : Int) - 1
      match acc with
      | none => some l
      | some x => some (max x l)
    | _ => acc) none

def special (vs : List Val) : Bool := vs.any fun v => v.isNan || v.isInf

/-- The scale byte of a block (R99). -/
def mxScale (f : Fmt) (vs : List Val) : Nat :=
  if special vs then 0xFF else
  match amaxLog vs with
  | none => 0
  | some l => (max (-127) (min 127 (l - f.emax)) + 127).toNat

/-- Write a block of source values: the scale byte and the element codes (R99). -/
def mxWrite (f : Fmt) (vs : List Val) : Nat × List Nat :=
  if special vs then (0xFF, vs.map fun _ => 0) else
  match amaxLog vs with
  | none => (0, vs.map fun _ => 0)
  | some _ =>
    let s := mxScale f vs
    (s, vs.map fun v => encodeSat f (v.scale (127 - (s : Int))))

/-- Read an element under its scale byte (R98, R100). -/
def mxRead (f : Fmt) (scale code : Nat) : Val :=
  if scale = 0xFF then .nan else (decode f code).scale ((scale : Int) - 127)

/-- Read an element of any stream format: an MX code under its scale, BF16, FP32 or INT8. -/
def elemVal (code : Nat) (scale c : Nat) : Val :=
  if code = 6 then decode bf16 c
  else if code = 7 then decode f32 c
  else if code = 8 then Dy.val ⟨toSigned 8 c, 0⟩
  else mxRead (fmtOf code) scale c

def isMx (code : Nat) : Bool := (1 ≤ code && code ≤ 5) || code = 9

/-- Bits per element of a stream format (R35). -/
def elemBits : Nat → Nat
  | 3 => 6
  | 4 => 6
  | 5 => 4
  | 6 => 16
  | 7 => 32
  | _ => 8

/-- Row bytes and payload bytes of a tile (R35). -/
def rowBytes (code : Nat) : Nat := 32 * elemBits code
def payload (code : Nat) : Nat := 256 * rowBytes code
/-- Payload and scale plane. -/
def footprint (code : Nat) : Nat := payload code + if isMx code then 2048 else 0

/-! ## Sums of the Mill and of the Hands -/

/-- The exact sum of products and its FP32 rounding (R102, R133): NaN and infinity by R100. -/
def dot (ops : List Nat) (ps : List Val) : Lane :=
  if ps.any Val.isNan then qnan ops
  else if ps.any (· == .inf false) && ps.any (· == .inf true) then qnan ops
  else if ps.any Val.isInf then toF32 ops (.inf (ps.any (· == .inf true)))
  else
    let d := ps.foldl (fun acc v =>
      match v with
      | .fin n m e => acc.add (Dy.ofFin n m e)
      | _ => acc) (⟨0, 0⟩ : Dy)
    toF32 ops (if d.m = 0 then .fin (ps.length != 0 && ps.all Val.neg) 0 0 else d.val)

/-- The pairwise tree of fixed shape: neighbours, then pairs of pairs; `fuel` bounds its height. -/
def tree {α : Type} (op : α → α → α) (unit : α) : Nat → List α → α
  | 0, l => l.headD unit
  | n + 1, l => tree op unit n ((chunks 2 l.length l).map fun p =>
      match p with
      | [a, b] => op a b
      | [a] => a
      | _ => unit)

/-! ## The approximations of R114 -/

def one : Lane := 0x3F800000
def posInf : Lane := 0x7F800000
def signOf (x : Lane) : Lane := x &&& 0x80000000

/-- |c - d| is at most 2^-14 of d = 1, for an exact c. -/
def nearOne (c : Dy) (k : Nat) : Bool :=
  Dy.le ⟨2 ^ k - 1, -(k : Int)⟩ c && Dy.le c ⟨2 ^ k + 1, -(k : Int)⟩

/-- 1/x to 48 bits and rounded: well within the bound. -/
def recipExact (x : Lane) : Lane :=
  match valOf x with
  | .fin n m e => if m = 0 then signOf x ||| posInf
    else toF32 [x.toNat] (.fin n (2 ^ (bitLen m + 48) / m) (-e - (bitLen m : Int) - 48))
  | _ => signOf x

/-- 1/x of R114: the implementation's value where it keeps the bound, else one that does. (DESIGN CHOICE: log 14) -/
def recip (x : Lane) : Lane :=
  if fnan x then qnan [x.toNat]
  else if flt (fabs x) 0x00800000 then signOf x ||| posInf
  else if flt 0x7E800000 (fabs x) then signOf x
  else
    let c := Config.scaleApprox 1 x
    match mulV (valOf c) (valOf x) with
    | .fin false m e => if nearOne ⟨m, e⟩ 14 then c else recipExact x
    | _ => recipExact x

def rsqrtExact (x : Lane) : Lane :=
  match valOf x with
  | .fin _ m e =>
    -- x = m 2^e with e even: 1/sqrt x = 2^(-e/2) / sqrt m, and sqrt (2^(2j) / m) is taken with j large
    let (m', e') := if e % 2 = 0 then (m, e) else (2 * m, e - 1)
    let j := bitLen m' + 40
    toF32 [x.toNat] (.fin false (Nat.sqrt (2 ^ (2 * j) / m')) (-(e' / 2) - (j : Int)))
  | _ => 0

/-- 1/sqrt x of R114. (DESIGN CHOICE: log 14) -/
def rsqrt (x : Lane) : Lane :=
  if fnan x then qnan [x.toNat]
  else if flt x 0 then qnan [x.toNat]
  else if flt x 0x00800000 then posInf
  else if flt 0x7E800000 x then 0
  else
    let c := Config.scaleApprox 2 x
    match mulV (mulV (valOf c) (valOf c)) (valOf x) with
    | .fin false m e =>
      -- |c sqrt x - 1| <= 2^-14, squared
      let lo : Int := 2 ^ 14 - 1
      let hi : Int := 2 ^ 14 + 1
      if !(valOf c).neg && Dy.le ⟨lo * lo, -28⟩ ⟨m, e⟩ && Dy.le ⟨m, e⟩ ⟨hi * hi, -28⟩ then c
      else rsqrtExact x
    | _ => rsqrtExact x

/-- A free value held to [0, 2^-125]. -/
def tiny (fn : Nat) (x : Lane) : Lane :=
  let c := Config.scaleApprox fn x
  if c.toNat ≤ 0x01000000 then c else 0

/-! Fixed point with 400 fraction bits, whose own errors lie far below any bound of R114 and any FP32 step. -/

def fxOne : Int := 2 ^ 400
def ln2Fx : Int :=
  0xb17217f7d1cf79abc9e3b39803f2f6af40f343267298b62d8a0d175b8baafa2be7b876206debac98559552fb4afa1b10ed2e
def twoPiFx : Int :=
  0x6487ed5110b4611a62633145c06e0e68948127044533e63a0105df531d89cd9128a5043cc71a026ef7ca8cd9e69d218d98158

/-- A finite FP32 value in fixed point, exactly. -/
def fxOf (x : Lane) : Int :=
  match valOf x with
  | .fin n m e => (Dy.ofFin n m e).m * 2 ^ (e + 400).toNat
  | _ => 0

def fxMul (a b : Int) : Int := a * b / fxOne

/-- The sum of t r^j / (k (k+1) ...), n terms. -/
def expTerms : Nat → Nat → Int → Int → Int
  | 0, _, _, _ => 0
  | n + 1, k, t, r => t + expTerms n (k + 1) (fxMul t r / (k : Int)) r

def expFx (x : Int) : Int :=
  let n := x / ln2Fx
  let v := expTerms 80 1 fxOne (x - n * ln2Fx)
  if 0 ≤ n then v * 2 ^ n.toNat else v / 2 ^ (-n).toNat

def sigmoidFx (x : Int) : Int := fxOne * fxOne / (fxOne + expFx (-x))
def tanhFx (x : Int) : Int := fxOne * (fxOne - expFx (-2 * x)) / (fxOne + expFx (-2 * x))

/-- 0.5 x (1 + tanh (0.79788456 (x + 0.044715 x^3))) as x sigmoid (2 ...); beyond 16 it is x or 0 to within 2^-400. -/
def geluFx (x : Int) : Int :=
  if x > 16 * fxOne then x else if x < -16 * fxOne then 0 else
  fxMul x (sigmoidFx (159576912 * (1000000 * x + 44715 * fxMul (fxMul x x) x) / 100000000000000))

/-- Alternating terms t, -t r^2 / ((k+1) (k+2)), ... -/
def trigTerms : Nat → Nat → Int → Int → Int
  | 0, _, _, _ => 0
  | n + 1, k, t, r2 => t + trigTerms n (k + 2) (-(fxMul t r2) / (((k + 1) * (k + 2) : Nat) : Int)) r2

def sinFx (r : Int) : Int := trigTerms 50 1 r (fxMul r r)
def cosFx (r : Int) : Int := trigTerms 50 0 fxOne (fxMul r r)

/-- |c - v| is at most 2^-rel of |v| plus 2^-abs. (DESIGN CHOICE: log 14) -/
def within (c : Lane) (v : Int) (rel abs : Nat) : Bool :=
  match valOf c with
  | .fin _ _ _ => (fxOf c - v).natAbs ≤ v.natAbs / 2 ^ rel + 2 ^ (400 - abs)
  | _ => false

def fxRound (v : Int) : Lane := toF32 [] (Dy.val ⟨v, -400⟩)

/-- A function of R114 in its domain: the implementation's value where it keeps the relative bound 2^-rel of the exact
v, else v rounded. The smallest FP32 step, 2^-149, is allowed besides. (DESIGN CHOICE: log 14) -/
def approx (fn : Nat) (x : Lane) (v : Int) (rel : Nat) : Lane :=
  let c := Config.scaleApprox fn x
  if within c v rel 149 then c else fxRound v

def f88 : Lane := 0x42B00000
def fm87 : Lane := 0xC2AE0000

def exp (x : Lane) : Lane :=
  if fnan x then qnan [x.toNat]
  else if fle 0x42B170A4 x then posInf
  else if x = 0xFF800000 then 0
  else if flt x fm87 then tiny 0 x
  else approx 0 x (expFx (fxOf x)) 12

def sigmoid (x : Lane) : Lane :=
  if fnan x then qnan [x.toNat]
  else if flt f88 x then one
  else if flt x fm87 then tiny 3 x
  else approx 3 x (sigmoidFx (fxOf x)) 11

def tanh (x : Lane) : Lane :=
  if fnan x then qnan [x.toNat]
  else if fle 0x41100000 (fabs x) then signOf x ||| one
  else approx 4 x (tanhFx (fxOf x)) 11

def silu (x : Lane) : Lane :=
  if fnan x then qnan [x.toNat]
  else if x = posInf then posInf
  else if x = 0xFF800000 then 0
  else if flt f88 x then x
  else if flt x fm87 then
    let c := Config.scaleApprox 5 x
    if c.getMsbD 0 && (fabs c).toNat ≤ 0x04800000 then c else 0
  else approx 5 x (fxMul (fxOf x) (sigmoidFx (fxOf x))) 11

/-- GELU; below -5 the bound is absolute. -/
def gelu (x : Lane) : Lane :=
  if fnan x then qnan [x.toNat]
  else if x = 0xFF800000 then 0
  else if flt 0x5D800000 x then x
  else if flt x 0xC0A00000 then
    let c := Config.scaleApprox 6 x
    if within c (geluFx (fxOf x)) 400 20 then c else fxRound (geluFx (fxOf x))
  else approx 6 x (geluFx (fxOf x)) 10

/-- Sine and cosine of a position times a frequency (R114): the product is formed exactly and reduced modulo 2 pi, and
each answer lies within 2^-14. Frequencies outside 2^-40 to 1 are outside the domain, and their answers are free.
(DESIGN CHOICE: log 14) -/
def sinCos (pos : Nat) (freq : Lane) : Lane × Lane :=
  let c := Config.scaleSinCos pos freq
  if fle 0x2B800000 freq && fle freq one then
    let r := ((pos : Int) * fxOf freq) % twoPiFx
    let keep := fun (c : Lane) (v : Int) => if within c v 400 14 then c else fxRound v
    (keep c.1 (sinFx r), keep c.2 (cosFx r))
  else c

def relu (x : Lane) : Lane := if fnan x then qnan [x.toNat] else if flt x 0 then 0 else x
def sqRelu (x : Lane) : Lane := if fnan x then qnan [x.toNat] else if flt x 0 then 0 else fmul x x

end Sys2Proof.Fpu
end

