-- ==== Sys2Proof/Machine/Home.lean ====
section
/-! DEFINITION. The homes (chapter 9): transactions on a line, the shadow tags, non-caching operations and
their answers, and the one-step accesses of hosts, the sequencer and the Crier. -/

namespace Sys2Proof.Machine

open Sys2Proof

/-! ## Transactions of Zelpel Link on their way out (R260) -/

/-- A transaction's header chunk. -/
def txnHeader (t : Txn) : List Byte :=
  leBytes 1 t.op ++ leBytes 1 t.chunks ++ leBytes 2 t.srcModule ++ leBytes 2 t.dstModule
    ++ leBytes 1 t.srcPol ++ leBytes 1 t.dstPol ++ leBytes 1 t.srcGen ++ leBytes 1 t.hint
    ++ leBytes 2 (t.tally + if t.counted then 2 ^ 15 else 0) ++ leBytes 4 t.poison.toNat
    ++ leBytes 6 t.offset ++ leBytes 2 t.job ++ leBytes 4 t.tag ++ leBytes 4 0

/-- Header and data chunks of 32 bytes. -/
def txnChunks (t : Txn) : List (List Byte) :=
  txnHeader t :: chunks 32 (t.data.length + 1) (slice t.data 0 (32 * if t.op = 2 then 0 else t.chunks))

/-- The link stint record of a port, polder and class, by its index in the table (R259). (DEDUCED: log 50) -/
def State.linkStint (s : State) (n p cls : Nat) : Option Nat :=
  (s.img.map Image.links).getD [] |>.findIdx? fun r => r.port = n && r.pol = p && r.cls = cls

/-- A transaction waits for the slots of its stint on a port. -/
def State.sendTxn (s : State) (n p cls : Nat) (t : Txn) : State :=
  match s.linkStint n p cls with
  | some i => s.updLink n fun l => { l with chunks := l.chunks.upd [] i fun c => c ++ txnChunks t }
  | none => s

/-! ## Trackers (R180) -/

/-- Whether a polder finds a tracker at a Keel: its reserve first, then the unreserved ones, which sealed mode
does not give. -/
def State.trackerFree (s : State) (k p : Nat) : Bool :=
  let used := fun q => ((s.keel k).trackers.filter fun e => e.1 = q).length
  let own := fun q => s.reserve 6 q k (if q = p || (s.pol q).port < 2 then 256 else 0)
  let total := ((List.range 64).map fun q => max (own q) (used q)).sum
  used p < own p || (!s.sealed && total < 65536)

/-- The holder of a tracker that is no Bin. -/
def otherAgent : Nat := 8

/-- A tracker is taken, by a Bin or by another agent. -/
def State.takeTracker (s : State) (k p who : Nat) : State :=
  s.updKeel k fun c => { c with trackers := c.trackers ++ [(p, who)] }

def State.freeTracker (s : State) (k p who : Nat) : State :=
  s.updKeel k fun c => { c with trackers := c.trackers.erase (p, who) }

/-- A new request of a non-caching agent: it takes a tracker, or waits for one at its sender. -/
def State.newReq (s : State) (op : HomeOp) (line p : Nat) (who : Requester) (va hint : Nat) : State :=
  let (id, s) := s.freshId
  let k := homeOf line
  let ok := s.trackerFree k p
  let s := if ok then s.takeTracker k p otherAgent else s
  { s with reqs := s.reqs ++ [{
      id := id, op := op, line := line, pol := p, gen := (s.pol p).gen, who := who, tracked := ok, va := va, hint := hint }] }

/-! ## Answers -/

/-- The source of a requester (R339) and its engine (R240 byte 23). -/
def State.whoSource (s : State) (who : Requester) : Nat × Nat :=
  match who with
  | .porter p seq st _ _ =>
    let r := (s.pol p).run seq
    let d := ((s.schedule r.m.schedule).bind fun c => c.streams[st]?).getD
      { fmt := 0, src := .porter, dst := .porter }
    (srcPorter d.die d.porter, 0)
  | .hand h _ => (srcHand h, 1)
  | .link _ _ => (srcWharf, 4)
  | .step p seq i =>
    let r := (s.pol p).run seq
    let d := ((s.schedule r.m.schedule).bind fun c => c.ranges[i]?).getD { limit := 0 }
    (srcPorter d.die d.porter, 0)
  | .station k d _ _ => (srcStation k d, 2)
  | .host port _ => (srcBar2 port, 4)
  | .none => (srcSeq, 3)

/-- Count a discarded completion of a polder (R299, R351), and raise LATE_COMPLETION with the last orphan. -/
def State.late (s : State) (p : Nat) (orphan : Bool) : State :=
  let s := s.updPol p fun q => { q with
    lateCount := satAdd 0xFFFFFFFF q.lateCount 1
    discarded := if orphan then q.discarded + 1 else q.discarded
    orphans := if orphan then q.orphans - 1 else q.orphans }
  let q := s.pol p
  if orphan && q.orphans = 0 then
    (s.raiseOwn .lateCompletion (srcPolder p) p
      (leBytes 1 q.orphanGen ++ leBytes 3 0 ++ leBytes 4 q.discarded)).updPol p
        fun q => { q with lastGen := q.orphanGen, discarded := 0 }
  else s

/-- Whether an answer is discarded (R299). -/
def State.isLate (s : State) (p gen : Nat) (orphan : Bool) : Bool := orphan || gen != (s.pol p).gen

/-- Write a value of `size` bytes into lane registers from r on. -/
def Hand.setLanes (h : Hand) (lane r size : Nat) (v : Nat) (poison : Bool) : Hand :=
  (List.range (if size = 8 then 2 else 1)).foldl (fun h i =>
    if r + i = 0 then h else
    { h with x := h.x.set 0 (16 * (r + i) + lane) (BitVec.ofNat 32 (v / 2 ^ (32 * i)))
             xp := h.xp.set false (16 * (r + i) + lane) poison }) h

/-- An atomic's old value reaches its lanes (R139): kind 0 the old value, 1 old plus an amount, 2 the amount.
(DEDUCED: log 46) -/
def Hand.atomAnswer (h : Hand) (a : AtomWait) (old : Nat) (poison : Bool) : Hand :=
  let h := a.dests.foldl (fun h d =>
    let (lane, reg, kind, amount) := d
    let v := match kind with
      | 0 => old
      | 1 => (old + amount.toNat) % 2 ^ (8 * a.size)
      | _ => amount.toNat
    h.setLanes lane reg a.size v (poison || a.bad)) h
  { h with atoms := h.atoms.filter fun b => b.slot != a.slot }

/-- The address that a record of an access through BAR index 2 carries: the device virtual address of a VF's, the DPA of a
PF's. -/
def State.bar2Va (s : State) (fn o : Nat) : Nat := if fn = 0 then s.boot.moduleId * 2 ^ 48 + o else o

def State.bar2Addr (s : State) (fn o : Nat) : List Byte := addrDetail (s.bar2Va fn o) 4

/-- Bytes of a host's read arrive, by DPA: with the last of its answers the completion leaves, and one with poison
posts POISON_READ (R282). It counts once if a dead sector served it (R173). (DEDUCED: log 41) -/
def State.hostGot (s : State) (port id p : Nat) (bs : Bytes) (bad dead : Bool) : State :=
  match (s.port port).bar2.find? fun a => a.id = id with
  | none => s
  | some a =>
    let a := { a with got := patch a.got bs, bad := a.bad || bad, dead := a.dead || dead, left := a.left - 1 }
    let s := s.updPort port fun q => { q with
      bar2 := if a.left = 0 then q.bar2.filter fun x => x.id ≠ id else q.bar2.map fun x => if x.id = id then a else x }
    if a.left ≠ 0 then s else
    let s := if a.bad then s.raiseOwn .poisonRead (srcBar2 port) p (s.bar2Addr a.fn a.off) else s
    (s.countDead p a.dead).complete port a.fn a.off
      ((a.segs.map fun g => (List.range g.2).map fun i => a.got.get 0 (g.1 + i)).flatten) a.bad

/-- A line of a host's read is answered at its home. -/
def State.hostAnswer (s : State) (port id : Nat) (r : HomeReq) (bs : Bytes) (poison : BitVec 8) : State :=
  let base := s.boot.moduleId * 2 ^ 48 + r.line * 1024
  let bad := ((s.port port).bar2.filter fun a => a.id = id).any fun a => a.segs.any fun g =>
    (bitsOf 8 poison.toNat).any fun i => base + 128 * i < g.1 + g.2 && g.1 < base + 128 * i + 128
  s.hostGot port id r.pol (bs.map fun e => (base + e.1, e.2)) bad false

/-- The answer of a read, or the landing of a write, reaches whoever waits for it. -/
def State.deliver (s : State) (r : HomeReq) (bs : Bytes) (poison : BitVec 8) : State :=
  let s := if r.tracked then s.freeTracker (homeOf r.line) r.pol otherAgent else s
  match r.who with
  | .porter p seq st tile idx =>
    let isRead := match r.op with
      | .read _ => true
      | _ => false
    if isRead && s.isLate r.pol r.gen r.orphan then s.late r.pol r.orphan else
    s.updRun p seq fun run => { run with
      stores := if isRead then run.stores else run.stores - 1
      streams := run.streams.upd {} st fun c =>
        let b := c.tiles.get {} tile
        let b := if isRead then b.land idx bs (bitsOf 8 poison.toNat) else { b with outstanding := b.outstanding - 1 }
        let landed := !isRead && b.outstanding = 0
        { c with
          tiles := c.tiles.set {} tile (if landed then {} else b)
          returning := if landed then c.returning + 1 else c.returning } }
  | .hand h slot =>
    if s.isLate r.pol r.gen r.orphan then
      (s.late r.pol r.orphan).updHand h fun c => { c with atoms := c.atoms.filter fun a => a.slot != slot }
    else
    s.updHand h fun c =>
      match c.atoms.find? fun a => a.slot = slot with
      | some a => c.atomAnswer a (leNat (bs.map Prod.snd)) (poison ≠ 0)
      | none => c
  | .link n t =>
    match r.op with
    | .read _ =>
      let po := (List.range t.chunks).foldl (fun a i =>
        if inMask poison (t.offset % 1024 + 32 * i) then a + 2 ^ i else a) 0
      let data := (bs.filter fun e => t.offset % 1024 ≤ e.1 && e.1 < t.offset % 1024 + 32 * t.chunks).map Prod.snd
      s.sendTxn n t.dstPol 1 { t with
        op := 3, srcModule := t.dstModule, dstModule := t.srcModule, srcPol := t.dstPol, dstPol := t.srcPol
        data := data, poison := BitVec.ofNat 32 po, counted := false, tally := 0 }
    | _ =>
      if t.counted then s.updPol t.dstPol fun q => { q with
        tallies := q.tallies.upd 0 t.tally fun c => (c + 32 * t.chunks) % 2 ^ 64 } else s
  | .step p seq i =>
    s.updRun p seq fun run => { run with
      ranges := run.ranges.upd {} i fun g => { g with outstanding := g.outstanding - 1 } }
  | .station _ _ p seq => s.updRun p seq fun run => { run with stores := run.stores - 1 }
  | .host port id => s.hostAnswer port id r bs poison
  | .none => s

/-- Whether an answer that is kept carries data to an engine of a polder. -/
def State.readsData (s : State) (r : HomeReq) : Bool :=
  !s.isLate r.pol r.gen r.orphan &&
  match r.who, r.op with
  | .porter _ _ _ _ _, .read _ => true
  | .hand _ _, _ => true
  | _, _ => false

/-- An answer; data that a poisoned sector served raises POISON_READ (R204), as does one that its bundle struck (R18). -/
def State.answer (s : State) (r : HomeReq) (bs : Bytes) (poison : BitVec 8) : State :=
  let (src, eng) := s.whoSource r.who
  let poison := if r.struck then poison ||| touched bs else poison
  let s := if poison ≠ 0 && s.readsData r then s.raiseOwn .poisonRead src r.pol (addrDetail r.va eng) else s
  s.deliver r bs poison

/-- The bytes of a line that nothing gives: poisoned data, whose value the manual leaves open. -/
def State.freeLine (s : State) : Bytes × State :=
  ((List.range 1024).map fun o => (o, Config.freeBits 8 (s.seed + o)), { s with seed := s.seed + 1024 })

/-- A request that meets a fenced home, or a fenced stack's quays, completes with FENCED_TARGET; a read returns
poison (R31, R206). -/
def State.answerFenced (s : State) (r : HomeReq) : State :=
  let (src, eng) := s.whoSource r.who
  let (bs, s) := s.freeLine
  (s.raiseOwn .fencedTarget src r.pol (addrDetail r.va eng)).deliver r bs 0xFF

/-- A request to a fenced stack (R185): a read returns poison and raises POISON_READ; anything that writes is
discarded and raises FENCED_TARGET. -/
def State.answerFencedStack (s : State) (r : HomeReq) : State :=
  match r.op with
  | .read need =>
    let (bs, s) := s.freeLine
    s.answer r (bs.filter fun e => inMask need e.1) need
  | .range _ _ => s.answer r [] 0
  | _ => s.answerFenced r

/-! ## What a home performs -/

/-- An atomic's new value from the old one (R138). -/
def atomNew (op : AtomOp) (size : Nat) (old v expect : Nat) : Nat :=
  let w := 8 * size
  match op with
  | .add => (old + v) % 2 ^ w
  | .fadd32 => (Fpu.fadd (BitVec.ofNat 32 old) (BitVec.ofNat 32 v)).toNat
  | .faddBf16 =>
    (Fpu.toBf16 (Fpu.fadd (Fpu.ofBf16 (BitVec.ofNat 16 old)) (Fpu.ofBf16 (BitVec.ofNat 16 v)))).toNat
  | .min => if toSigned w old ≤ toSigned w v then old else v
  | .max => if toSigned w old ≥ toSigned w v then old else v
  | .and => old &&& v
  | .or => old ||| v
  | .xor => old ^^^ v
  | .xchg => v
  | .cas => if old = expect then v else old

/-- Element size of an add-to-line type (R176). -/
def atlSize : AtlType → Nat
  | .bf16 => 2
  | _ => 4

/-- One addition of an add-to-line (R176): a BF16 addend is a code of 16 bits, widened exactly. -/
def atlAdd (ty : AtlType) (old : Nat) (v : Lane) : Nat :=
  match ty with
  | .fp32 => (Fpu.fadd (BitVec.ofNat 32 old) v).toNat
  | .bf16 => (Fpu.toBf16 (Fpu.fadd (Fpu.ofBf16 (BitVec.ofNat 16 old)) (Fpu.ofBf16 (v.setWidth 16)))).toNat
  | .int32 => (old + v.toNat) % 2 ^ 32

/-- The hint of an update, which takes an HBM line into the Granary whatever its access says (R175). -/
def updateHint (h : Nat) : Nat := if h = 1 then 1 else 2

/-- Perform a non-caching operation on the home's copy (R194, R195), and answer it. Updates go to the polder's
Granary partition and leave the line dirty there (R175); an update of a poisoned sector leaves it poisoned
(R176). -/
def State.perform (s : State) (r : HomeReq) : State :=
  if s.homeFenced r.line then s.answerFenced r
  else if s.stackFenced r.line && (s.granFind r.line).isNone then s.answerFencedStack r else
  match r.op with
  | .read need =>
    let s := match r.who with
      | .host port id => s.updPort port fun q => { q with
          bar2 := q.bar2.map fun (a : HostAcc) => if a.id = id then { a with dead := a.dead || s.meetsDead r.line need } else a }
      | _ => s.countDead r.pol (s.meetsDead r.line need)
    let ((bs, po), s) := s.homeRead r.pol r.line need r.hint
    s.answer r bs po
  | .write bs dead poison => (s.homeWrite r.pol r.line bs dead poison r.hint).answer r [] 0
  | .atomic op off size v expect poison =>
    let sec := touched (bytesAt off (leBytes size 0))
    let s := s.countDead r.pol (s.meetsDead r.line sec)
    let ((bs, po), s) := s.homeRead r.pol r.line sec (updateHint r.hint)
    let old := bs.filter fun e => off ≤ e.1 && e.1 < off + size
    let new := atomNew op size (leNat (old.map Prod.snd)) v.toNat expect.toNat
    let s := s.homeWrite r.pol r.line (bytesAt off (leBytes size new)) false (poison || po ≠ 0) (updateHint r.hint)
    s.answer r old po
  | .addLine ty addends poison =>
    let sz := atlSize ty
    let secs := touched (addends.flatMap fun a => bytesAt (sz * a.1) (leBytes sz 0))
    let s := s.countDead r.pol (s.meetsDead r.line secs)
    let s := addends.foldl (fun s a =>
      let sec := touched (bytesAt (sz * a.1) (leBytes sz 0))
      let ((bs, po), s) := s.homeRead r.pol r.line sec (updateHint r.hint)
      let old := leNat ((bs.filter fun e => sz * a.1 ≤ e.1 && e.1 < sz * a.1 + sz).map Prod.snd)
      s.homeWrite r.pol r.line (bytesAt (sz * a.1) (leBytes sz (atlAdd ty old a.2))) false (poison || po ≠ 0) (updateHint r.hint)) s
    s.answer r [] 0
  | .range op gran =>
    let s := match op with
      | .prefetch => if gran then (s.granAlloc r.pol r.line r.hint).granFill r.line 0xFF else s
      | .flush =>
        match gran, s.granFind r.line with
        | true, some (key, _) => (s.granFlush key).updGran key fun g => { g with dirty := 0 }
        | _, _ => s
      | .cleanInvalidate =>
        match gran, s.granFind r.line with
        | true, some (key, _) => s.granEvict key
        | _, _ => s
      | .discard => s.homeDiscard r.line 0xFF gran
    s.answer r [] 0

/-! ## The shadow tags (R187) -/

/-- A shadow entry of a line: its key, Bin, polder and state. -/
structure Entry where
  key : Nat
  bin : Nat
  pol : Nat
  st : EntSt
deriving DecidableEq, Repr

def shadowKey (k bin slot : Nat) : Nat := 2 ^ 20 * k + 2 ^ 17 * bin + slot

def State.entriesOf (s : State) (line : Nat) : List Entry :=
  (s.shadow.filter fun e => e.1 / 2 ^ 20 = homeOf line && e.2.line = line).map fun e =>
    ⟨e.1, e.1 / 2 ^ 17 % 8, e.2.pol, e.2.st⟩

def State.setShadow (s : State) (key : Nat) (e : Shadow) : State := { s with shadow := s.shadow.set {} key e }

/-- Directory states (R187). -/
inductive DirSt where
  | di | ds | dx | do_
deriving DecidableEq, Repr

def dirOf (es : List Entry) : DirSt :=
  if es.any fun e => e.st = .o then .do_
  else if es.any fun e => e.st = .x then .dx
  else if es.isEmpty then .di else .ds

def isOwner (e : Entry) : Bool := e.st = .x || e.st = .o

def State.busy (s : State) (line : Nat) : Bool := s.txns.any fun e => e.1 = line
/-- The transaction of a line. (DEDUCED: log 22) -/
def State.txn (s : State) (line : Nat) : HomeTxn := s.txns.get {} line
def State.setTxn (s : State) (line : Nat) (t : HomeTxn) : State := { s with txns := s.txns.set {} line t }
/-- A message sets out. (DESIGN CHOICE: log 23; DESIGN CHOICE: log 60) -/
def State.send (s : State) (m : CohMsg) : State := { s with net := s.net ++ [m] }

/-- A message of the home of a line. -/
def fromHome (type : MsgType) (line dst pol : Nat) : CohMsg :=
  { type := type, src := 8 + homeOf line, dst := dst, req := 8 + homeOf line, pol := pol, line := line }

/-- Set and way of a fill as one slot number: 16 x set + way; TAG carries it through a transaction. (DEDUCED: log 22)
-/
def slotOf (m : CohMsg) : Nat := 16 * m.set + m.way

/-- DATA_H with the sectors of a mask, if there are any; a dead store's data stays behind (R173). -/
def State.sendData (s : State) (m : CohMsg) (need : BitVec 8) : State :=
  if need = 0 then s else
  let s := (s.countDead m.pol (m.type ≠ .getm && s.meetsDead m.line need)).homeUndo m.line need
  let ((bs, po), s) := s.homeRead m.pol m.line need m.hint
  s.send { fromHome .dataH m.line m.src m.pol with need := need, poison := po, data := bs, tag := m.tag }

def State.sendGrant (s : State) (m : CohMsg) (st : Nat) (cover need : BitVec 8) : State :=
  s.send { fromHome .grant m.line m.src m.pol with st := st, cover := cover, need := need, tag := m.tag }

/-- The sectors a GETM needs: NEED if the requester is listed, else NEED and USE (R193). -/
def wanted (es : List Entry) (m : CohMsg) : BitVec 8 :=
  if m.type = .gets || (es.any fun e => e.bin = m.src && e.pol = m.pol) then m.need else m.need ||| m.cover

/-- Whether the line is Common Stock (R203). -/
def State.isStock (s : State) (line : Nat) : Bool := (s.stockAt (line * 1024)).isSome

/-- GRANT and DATA_H to a requester from DI or DS, the line then waiting for its DONE (R194). -/
def State.grantNow (s : State) (m : CohMsg) (es : List Entry) (st : Nat) (ent : EntSt) : State :=
  let need := wanted es m
  let s := (s.sendData m need).sendGrant m st 0 need
  s.setTxn m.line { busy := .d, serving := .coh m, dones := 1, final := [(m.src, m.set, m.way, m.pol, ent)] }

/-- INV to every listed entry but the requester's. -/
def State.invalidate (s : State) (m : CohMsg) (es : List Entry) : State :=
  es.foldl (fun s e => s.send { fromHome .inv m.line e.bin e.pol with tag := m.tag }) s

def sharersBut (es : List Entry) (m : CohMsg) : List Entry :=
  es.filter fun e => e.st = .s && !(e.bin = m.src && e.pol = m.pol)

def names (es : List Entry) : List (Nat × Nat) := es.map fun e => (e.bin, e.pol)

/-- A forward to the owner (R194). -/
def State.forward (s : State) (m : CohMsg) (o : Entry) (type : MsgType) (need : BitVec 8) : State :=
  s.send { fromHome type m.line o.bin o.pol with req := m.src, need := need, tag := m.tag }

/-- A request of a Bin in a stable directory state (R194). -/
def State.beginCoh (s : State) (m : CohMsg) : State :=
  let es := s.entriesOf m.line
  let owner := es.find? isOwner
  match m.type with
  | .gets =>
    match dirOf es, owner with
    | .di, _ => if s.isStock m.line then s.grantNow m es 1 .s else s.grantNow m es 2 .x
    | .ds, _ => s.grantNow m es 1 .s
    | _, some o =>
      (s.forward m o .fwdGets m.need).setTxn m.line
        { busy := .a, serving := .coh m, want := m.need, await := [(o.bin, o.pol)], sent := [(o.bin, o.pol)], ownerBin := some (o.bin, o.pol) }
    | _, none => s
  | .getm =>
    let others := sharersBut es m
    let want := wanted es m
    match owner with
    | none =>
      if others.isEmpty then s.grantNow m es 3 .x
      else (s.invalidate m others).setTxn m.line { busy := .a, serving := .coh m, want := want, await := names others }
    | some o =>
      if o.bin = m.src && o.pol = m.pol then
        if others.isEmpty then s.grantNow m es 3 .x
        else (s.invalidate m others).setTxn m.line { busy := .a, serving := .coh m, want := want, await := names others }
      else
        ((s.forward m o .fwdGetm want).invalidate m others).setTxn m.line
          { busy := .a, serving := .coh m, want := want, await := (o.bin, o.pol) :: names others
            sent := [(o.bin, o.pol)], ownerBin := some (o.bin, o.pol) }
  | .rdsec =>
    if es.any fun e => e.bin = m.src && e.pol = m.pol then s.sendData m m.need
    else s.send { fromHome .nackRd m.line m.src m.pol with tag := m.tag }
  | _ => s

/-- Write the sectors a put or a RECALL_ACK carries, and set its dead marks; what a fenced stack cannot take raises
FENCED_TARGET (R185). (DEDUCED: log 62) -/
def State.land_ (s : State) (m : CohMsg) : State :=
  let clean : Bytes := m.data.filter fun e => !inMask m.poison e.1
  let bad : Bytes := m.data.filter fun e => inMask m.poison e.1
  if !m.data.isEmpty && s.stackFenced m.line && (s.granFind m.line).isNone then
    s.raiseOwn .fencedTarget (srcKeel (homeOf m.line)) m.pol (addrDetail (s.boot.moduleId * 2 ^ 48 + m.line * 1024) 1)
  else
  let s := if clean.isEmpty then s else s.homeWrite m.pol m.line clean false false m.hint
  let s := if bad.isEmpty then s else s.homeWrite m.pol m.line bad false true m.hint
  if m.mark = 0 then s else
  let s := s.homeUndo m.line m.mark
  match s.granFind m.line with
  | some (key, g) => s.setGran key { g with dead := g.dead ||| (m.mark &&& g.present) }
      |>.updMark m.line fun k => { k with dead := k.dead ||| (m.mark &&& ~~~g.present) }
  | none => s.updMark m.line fun k => { k with dead := k.dead ||| m.mark }

/-- The put of an owner (R194): write, PUT_ACK, and drop its entry. -/
def State.takePut (s : State) (m : CohMsg) : State :=
  let es := s.entriesOf m.line
  match es.find? fun e => e.bin = m.src && e.pol = m.pol && isOwner e with
  | none => s
  | some e =>
    ((s.land_ m).setShadow e.key {}).send { fromHome .putAck m.line m.src m.pol with tag := m.tag }

def isPut (t : MsgType) : Bool := t = .pute || t = .putm || t = .puto

/-- The RECALL of a non-caching operation (R194): its MODE and the entries it goes to. -/
def recallFor (op : HomeOp) (es : List Entry) : Nat × List Entry :=
  match op with
  | .read _ => (0, es.filter isOwner)
  | .range .flush _ => (0, es.filter isOwner)
  | .range .prefetch _ => (0, es.filter isOwner)
  | .range .discard _ => (2, es)
  | _ => (1, es)

/-- A non-caching request in a stable directory state (R194). -/
def State.beginReq (s : State) (r : HomeReq) : State :=
  let (mode, far) := recallFor r.op (s.entriesOf r.line)
  if far.isEmpty then s.perform r else
  (far.foldl (fun s e => s.send { fromHome .recall r.line e.bin e.pol with st := mode, tag := r.id % 2 ^ 32 }) s).setTxn r.line
    { busy := .r, serving := .req r, await := names far, sent := names far }

/-- RECALL(DROP) to the sharers of a line whose owner's die is fenced (R205). -/
def State.recallSharers (s : State) (line : Nat) : State :=
  let far := (s.entriesOf line).filter fun e => e.st = .s
  if far.isEmpty then s else
  (far.foldl (fun s e => s.send { fromHome .recall line e.bin e.pol with st := 2 }) s).setTxn line
    { busy := .r, serving := .sweep, await := names far, sent := names far }

def State.begin (s : State) (line : Nat) : Serving → State
  | .coh m => if isPut m.type then s.takePut m else s.beginCoh m
  | .req r => s.beginReq r
  | .many ms =>
    -- one DATA_H with the union of the NEEDs, and a GRANT of S to each (R193)
    let need := ms.foldl (fun a m => a ||| m.need) 0
    let s := ms.foldl (fun s m => (s.sendData m need).sendGrant m 1 0 need) s
    s.setTxn line {
      busy := .d, serving := .many ms, dones := ms.length
      final := ms.map fun m => (m.src, m.set, m.way, m.pol, .s) }
  | .sweep => s.recallSharers line

/-- Queued GETS that are handled together with the first (R193, R174, R303). -/
def State.together (s : State) (m : CohMsg) (q : List Serving) : List CohMsg :=
  q.filterMap fun x =>
    match x with
    | .coh n => if n.type = .gets && (n.pol = m.pol || (s.isStock m.line && !s.sealed)) then some n else none
    | _ => none

/-- Puts in the queue of a line that the forward or RECALL just sent has crossed: the home takes them at once (R193, R200).
-/
def State.takeCrossing (s : State) (line : Nat) : State :=
  let t := s.txn line
  let crossed := fun x => match x with
    | .coh m => isPut m.type && t.sent.contains (m.src, m.pol)
    | _ => false
  let puts := t.queue.filterMap fun x => match x with
    | .coh m => if crossed x then some m else none
    | _ => none
  puts.foldl State.takePut <| s.setTxn line { t with
    queue := t.queue.filter fun x => !crossed x
    sent := t.sent.filter fun e => !puts.any fun m => (m.src, m.pol) = e }

/-- Take queued requests until one makes the line busy. -/
def State.drain (s : State) (line : Nat) : Nat → List Serving → State
  | 0, _ => s
  | _, [] => s
  | fuel + 1, x :: q =>
    let (first, rest) := match x with
      | .coh m =>
        let d := dirOf (s.entriesOf line)
        let more := s.together m q
        if m.type = .gets && (d = .di || d = .ds) && !more.isEmpty then
          (Serving.many (m :: more), q.filter fun y => !(more.any fun n => y = .coh n))
        else (x, q)
      | _ => (x, q)
    let s := s.begin line first
    if s.busy line then (s.setTxn line { s.txn line with queue := rest }).takeCrossing line
    else s.drain line fuel rest

/-- The line's transaction is over: the sweep that was put off is made, and the next queued request is taken. -/
def State.finish (s : State) (line : Nat) : State :=
  let t := s.txn line
  let s := { s with txns := s.txns.set {} line {} }
  s.drain line (t.queue.length + 2) (if t.sweep then .sweep :: t.queue else t.queue)

/-- A request reaches the home: it begins, or waits in the line's queue (R193); MAXQ keeps the longest. (DESIGN
CHOICE: log 21) -/
def State.request (s : State) (line : Nat) (x : Serving) : State :=
  if s.busy line then
    let t := s.txn line
    (s.setTxn line { t with queue := t.queue ++ [x] }).updKeel (homeOf line) fun k =>
      { k with maxq := max k.maxq (min 0xFFFF (t.queue.length + 1)) }
  else s.begin line x

/-- A request of a non-caching agent is on its way no more: its home takes it. -/
def State.serve (s : State) (r : HomeReq) : State :=
  { s with reqs := s.reqs.filter fun x => x.id ≠ r.id }.request r.line (.req r)

def opWrites : HomeOp → Bool
  | .write _ _ _ => true
  | _ => false

/-- Line requests that no home has performed. -/
def State.unperformed (s : State) : List HomeReq :=
  s.reqs ++ s.txns.flatMap fun e => (e.2.serving :: e.2.queue).filterMap fun x => match x with
    | .req r => some r
    | _ => none

/-- A request may reach its home: it holds a tracker, and what its source asked of the line before has reached it
(R55, R139, R208). A host port's waits for every earlier write of the port to be performed (R218); updates by a
station keep no order (R176). (DEDUCED: log 41) -/
def State.mayServe (s : State) (r : HomeReq) : Bool :=
  let before := fun (x : HomeReq) => x.id < r.id && (s.whoSource x.who).1 = (s.whoSource r.who).1
  r.tracked &&
  match r.who with
  | .station _ _ _ _ => true
  | .host _ _ => !((s.reqs.any fun x => before x && x.line = r.line) || s.unperformed.any fun x => before x && opWrites x.op)
  | _ => !(s.reqs.any fun x => before x && x.line = r.line)

/-- The entries of other Bins once a GETS or GETM is answered, to be written at DONE (R194, R195). -/
def State.othersAfter (s : State) (m : CohMsg) (t : HomeTxn) : List (Nat × Shadow) :=
  ((s.entriesOf m.line).filter fun e => !(e.bin = m.src && e.pol = m.pol)).map fun e =>
    (e.key,
      if m.type = .getm then {}
      else if isOwner e then
        match t.ownerNew with
        | some 1 => ⟨.s, m.line, e.pol⟩
        | some 4 => ⟨.o, m.line, e.pol⟩
        | _ => {}
      else if t.drop then {} else ⟨.s, m.line, e.pol⟩)

/-- Write final entries of other Bins; a way that has meanwhile taken another line is left alone. -/
def State.writeOthers (s : State) (line : Nat) (es : List (Nat × Shadow)) : State :=
  es.foldl (fun s e => if (s.shadow.get {} e.1).line = line && (s.shadow.get {} e.1).st ≠ .none then s.setShadow e.1 e.2 else s) s

/-- The last DONE is in, or taken as received: the final entries stand, and the transaction is over. -/
def State.closeTxn (s : State) (line : Nat) : State := (s.writeOthers line (s.txn line).others).finish line

/-- The last answer is in (R195). -/
def State.lastAnswer (s : State) (line : Nat) : State :=
  let t := s.txn line
  if !t.await.isEmpty || !t.awaitPut.isEmpty then s else
  match t.busy, t.serving with
  | .a, .coh m =>
    let others := s.othersAfter m t
    let need := t.want &&& ~~~t.cover
    let st :=
      if m.type = .getm then 3
      else if (others.all fun e => e.2.st = .none) && !s.isStock line then 2 else 1
    let s := (s.sendData m need).sendGrant m st t.cover need
    if (s.keel (homeOf line)).fencedBins.getLsbD m.src then
      -- a fenced die's DONE is taken as received, and what it was becoming owner of is poisoned (R205)
      ((if st = 1 then s else s.homePoisonAll line).setTxn line { t with others := others }).closeTxn line
    else s.setTxn line { t with
      busy := .d, dones := 1, others := others
      final := [(m.src, m.set, m.way, m.pol, if st = 1 then .s else .x)] }
  | .r, .req r =>
    let es := s.entriesOf line
    let (mode, far) := recallFor r.op es
    let s := far.foldl (fun s e =>
      if mode = 0 then s.setShadow e.key ⟨if e.st = .o then .s else .x, line, e.pol⟩
      else s.setShadow e.key {}) s
    let s := if t.drop then (es.filter fun e => e.st = .s).foldl (fun s e => s.setShadow e.key {}) s else s
    (s.perform r).finish line
  | .r, .sweep =>
    (((s.entriesOf line).filter fun e => e.st = .s).foldl (fun s e => s.setShadow e.key {}) s).finish line
  | _, _ => s

/-- An answer of a Bin in DB_A or DB_R. -/
def State.answered (s : State) (m : CohMsg) (f : HomeTxn → HomeTxn) : State :=
  let t := s.txn m.line
  if t.await.contains (m.src, m.pol) then
    (s.setTxn m.line (f { t with await := t.await.erase (m.src, m.pol) })).lastAnswer m.line
  else s

/-- DONE (R195): the entry is written in the way that the fill took, replacing what stood there. -/
def State.doneAt (s : State) (m : CohMsg) : State :=
  let t := s.txn m.line
  match t.busy, t.final.find? fun f => f.1 = m.src && f.2.2.2.1 = m.pol with
  | .d, some (bin, set, way, pol, st) =>
    -- an older entry of the same Bin and polder for the line is the one that is replaced
    let s := (s.entriesOf m.line).foldl (fun s e =>
      if e.bin = bin && e.pol = pol then s.setShadow e.key {} else s) s
    let s := s.setShadow (shadowKey (homeOf m.line) bin (16 * set + way)) ⟨st, m.line, pol⟩
    let s := s.freeTracker (homeOf m.line) pol bin
    let s := s.setTxn m.line { t with dones := t.dones - 1, final := t.final.filter fun f => f ≠ (bin, set, way, pol, st) }
    if t.dones = 1 then s.closeTxn m.line else s
  | _, _ => s

/-- Take a message out of those in flight: one that another of the same stints does not precede (R160, R192). (DESIGN
CHOICE: log 60) -/
def State.receive (s : State) (m : CohMsg) : Option State :=
  let before := s.net.takeWhile (· ≠ m)
  if before.length < s.net.length && !before.any (fun a => msgBefore a m) then some { s with net := s.net.erase m } else none

/-! ## One-step accesses at a home: hosts, the sequencer, the Crier -/

/-- States in which a Bin owns dirty data. -/
def isOwning (st : BinSt) : Bool := st = .m || st = .o || st = .omAD || st = .omA || st = .omD

/-- A sector that messages carry. -/
def carried (i : Nat) (m : CohMsg) : Option (SMap Byte × Bool) :=
  if m.data.any fun e => e.1 / 128 = i then some (m.data, m.poison.getLsbD i) else none

/-- The newest data of a sector where the home has not got it: dirty at its owner, on its way from one owner to the next,
or on its way home. -/
def State.newest (s : State) (line i : Nat) : Option (SMap Byte × Bool) :=
  let mine := s.bins.filter fun e => e.2.line = line
  let passed := s.net.filter fun m => m.line = line
  let queued := (s.txn line).queue.filterMap fun x => match x with
    | .coh m => some m
    | _ => none
  (mine.findSome? fun e =>
    if isOwning e.2.st && e.2.dirty.getLsbD i then some (e.2.data, e.2.poison.getLsbD i)
    else if (e.2.gotF &&& e.2.mark).getLsbD i then some (e.2.buf, e.2.bufPoison.getLsbD i) else none).orElse fun _ =>
  (passed.findSome? fun m => if m.type = .dataF && m.mark.getLsbD i then carried i m else none).orElse fun _ =>
  (passed ++ queued).findSome? fun m => if isPut m.type || m.type = .recallAck then carried i m else none

/-- A byte as a read at the home finds it: the newest. -/
def State.peekByte (s : State) (a : Nat) : Byte :=
  match s.newest (a / 1024) (a % 1024 / 128) with
  | some e => e.1.get 0 (a % 1024)
  | none => s.homeByte (a / 1024) (a % 1024)

/-- DESIGN CHOICE: log 21. -/
def State.peek (s : State) (a n : Nat) : List Byte := (List.range n).map fun i => s.peekByte (a + i)

/-- Poison of a range as a read at the home sees it. -/
def State.peekPoison (s : State) (a n : Nat) : Bool :=
  (List.range (n / 128 + 2)).any fun i =>
    let x := min (a + 128 * i) (a + n - 1)
    match s.newest (x / 1024) (x % 1024 / 128) with
    | some e => e.2
    | none => inMask (s.homePoison (x / 1024)) (x % 1024)

def isPutWait (st : BinSt) : Bool := st = .eiA || st = .miA || st = .oiA

/-- The data of dead stores leaves sectors of a Bin's line (R172, R173): those that were dirty before their run hold
again what they held then, the others are no longer valid. (DEDUCED: log 62) -/
def BinLine.settle (b : BinLine) (mask : BitVec 8) : BinLine :=
  let dead := b.dead &&& mask
  let back := dead &&& b.kept
  { b with
    data := patch b.data (b.before.filter fun e => inMask back e.1)
    poison := (b.poison &&& ~~~dead) ||| (b.keptPoison &&& back)
    valid := b.valid &&& (~~~dead ||| back), dirty := b.dirty &&& (~~~dead ||| back)
    dead := b.dead &&& ~~~dead, kept := b.kept &&& ~~~dead, keptPoison := b.keptPoison &&& ~~~dead
    before := b.before.filter fun e => !inMask dead e.1 }

/-- The dirty sectors that a put or a RECALL_ACK carries, without the data of dead stores, which are marked (R172). -/
def carryDirty (m : CohMsg) (b : BinLine) : CohMsg :=
  let c := b.settle 0xFF
  { m with
    cover := c.dirty, mark := b.dead, poison := c.poison &&& c.dirty
    data := (maskOffs c.dirty).map fun o => (o, c.data.get 0 o) }

/-- A copy that is lost, its request for the line still to come (R197). -/
def lostCopy (b : BinLine) : BinLine :=
  { b with st := .imAD, valid := 0, dirty := 0, dead := 0, poison := 0, data := [], kept := 0, before := [], keptPoison := 0 }

/-- A copy that a RECALL of MODE INVAL takes, in one step (R197). (DESIGN CHOICE: log 21) -/
def State.recallOne (s : State) (key : Nat) (b : BinLine) : State :=
  let s := if isOwning b.st then s.land_ { carryDirty (fromHome .recallAck b.line 0 b.pol) b with hint := b.hint } else s
  let st : BinSt := match b.st with
    | .s | .e | .m | .o => .i
    | .smAD | .smA | .smD | .omAD | .omA | .omD => .imAD
    | st => st
  { s with bins := s.bins.set {} key (if st = .i then {} else if st = .imAD then lostCopy b else b) }

/-- Bin copies of a line. -/
def State.copiesOf (s : State) (line : Nat) : SMap BinLine := s.bins.filter fun e => e.2.st ≠ .i && e.2.line = line

/-- A line that is not busy at its home, and that no Bin holds or has on its way home: a write can be made in one
step. (DESIGN CHOICE: log 21) -/
def State.lineQuiet (s : State) (line : Nat) : Bool :=
  let waiting := fun (b : BinLine) => (b.st = .s || b.st = .e || b.st = .m || b.st = .o) && !b.waits.isEmpty
  !s.busy line && !(s.copiesOf line).any fun e => isPutWait e.2.st || s.clock < e.2.holdUntil || waiting e.2

/-- Write at the home in one step, recalling every Bin copy first; a line that is not quiet takes the write as a
queued request instead. (DESIGN CHOICE: log 21) -/
def State.pokeLine (s : State) (p line : Nat) (bs : Bytes) (poison : Bool) : State :=
  if s.homeFenced line then s else
  let copies := s.copiesOf line
  if !s.lineQuiet line then
    s.newReq (.write bs false poison) line p .none 0 0
  else
    let s := copies.foldl (fun s e => s.recallOne e.1 e.2) s
    let s := (s.entriesOf line).foldl (fun s e => s.setShadow e.key {}) s
    s.homeWrite p line bs false poison 0

/-- A write of any length at local DPAs, line by line; one that covers part of a coded group is refused with
PERMISSION (R112). (DESIGN CHOICE: log 21) -/
def State.poke (s : State) (p a : Nat) (bs : List Byte) (poison : Bool) : State :=
  if s.groupPart a bs.length then s.permission srcSeq p a 3 else
  let lines := (List.range ((a % 1024 + bs.length + 1023) / 1024)).map fun i => a / 1024 + i
  lines.foldl (fun s l =>
    let part : Bytes := ((List.range bs.length).filter fun i => (a + i) / 1024 = l).map fun i =>
      ((a + i) % 1024, bs.getD i 0)
    s.pokeLine p l part poison) (s.untag a bs.length)

end Sys2Proof.Machine
end

