-- ==== Sys2Proof/Machine/Land.lean ====
section
/-! DEFINITION. The Land Register (chapter 11): entries and their checks, translation caches, walks, misses,
edits and resumes. -/

namespace Sys2Proof.Machine

open Sys2Proof

/-! ## Entries (R228 to R230) -/

def eValid (e : Word) : Bool := e.getLsbD 63
def eSpan (e : Word) : Bool := e.getLsbD 62
def eCommon (e : Word) : Bool := e.getLsbD 61
def eWrite (e : Word) : Bool := e.getLsbD 60
def eRead (e : Word) : Bool := e.getLsbD 59
def eHint (e : Word) : Nat := field e.toNat 57 2
def eCoding (e : Word) : Nat := field e.toNat 55 2
def ePol (e : Word) : Nat := field e.toNat 49 6
def eFrame (e : Word) : Nat := field e.toNat 9 37

/-- The Keel that holds entry i. -/
def entryKeel (i : Nat) : Nat := i / 512 % 4

/-- The DPA of entry i (R230). -/
def entryDpa (i : Nat) : Nat :=
  granBase + entryKeel i * granSize + landPartOff + (i / 2 ^ 11 * 512 + i % 512) * 8

def spanBase (i : Nat) : Nat := i - i % 512

def State.landEntry (s : State) (i : Nat) : Word := s.land.entries.get 0 i

/-- R229: the DPA, MODULE above bit 47. -/
def entryTarget (e : Word) (va : Nat) : Nat :=
  eFrame e * 2 ^ 21 + va % (if eSpan e then 2 ^ 30 else 2 ^ 21)

def dpaModule (d : Nat) : Nat := d / 2 ^ 48
def dpaOffset (d : Nat) : Nat := d % 2 ^ 48

/-- What an access under an entry is given; `acc` is 0 read, 1 write, 2 atomic or add-to-line, 3 a range operation
that reads, 4 DISCARD: the permissions of R234 in order, then R19, R21 and R167. -/
def State.entryAllows (s : State) (e : Word) (p acc dpa : Nat) : Bool :=
  let o := dpaOffset dpa
  let whose := ePol e = p || (eCommon e &&
    match s.stockAt o with
    | some (r, _) => s.stockReader p r
    | none => false)
  let may := if acc = 0 || acc = 3 then eRead e else eWrite e
  let coding := !(eCoding e = 1 && acc = 2)
  let place :=
    if dpaModule dpa = s.boot.moduleId then
      match s.region o with
      | .hbm _ _ => true
      | .tier _ _ => true
      | .host _ _ => true
      | .gate _ => p < 2
      | _ => false
    else o < 4 * hbmKeelSize || (granBase ≤ o && o < granBase + 4 * granSize)
  whose && may && coding && place

/-- R112: a write under a CODING 1 entry must not cover part of a coded group. -/
def State.codingAllows (s : State) (e : Word) (dpa len : Nat) : Bool :=
  !(eCoding e = 1) || !s.groupPart (dpaOffset dpa) len

/-! ## Translation caches (R236) -/

/-- The caches that serve an engine, nearest first: 0-63 the Porters', 64-71 the dies', 72 the Wharf's. -/
def cachesOf : EngineRef → List Nat
  | .porter d n _ _ _ => [8 * d + n, 64 + d]
  | .hand h => [64 + h / 1024]
  | .station _ d _ _ => [64 + d]
  | .sequencer _ _ => [72]
  | .wharf _ => [72]

def TransEntry.serves (e : TransEntry) (p i : Nat) : Bool :=
  e.pol = p && (if e.span then e.index = spanBase i else e.index = i)

def State.cached (s : State) (eng : EngineRef) (p i : Nat) : Option TransEntry :=
  (cachesOf eng).findSome? fun c => (s.land.caches.get [] c).find? fun e => e.serves p i

/-- The sets of 16 ways of a polder's quota in a die cache; the fully associative caches have one set. -/
def State.cacheSets (s : State) (c p : Nat) : Nat :=
  if 64 ≤ c && c < 72 then max 1 (s.reserve 8 p (c - 64) 64 / 16) else 1

/-- The ways of a set that a polder may fill: a Porter's 64, a die cache's 16, its part of the Wharf's 256. (DESIGN
CHOICE: log 24) -/
def cacheWays (c : Nat) : Nat := if c < 64 then 64 else if c < 72 then 16 else 4

/-- The set of a translation. (DESIGN CHOICE: log 24) -/
def TransEntry.set (e : TransEntry) (sets : Nat) : Nat := (if e.span then e.index / 512 else e.index) % sets

/-- Put a translation in a cache; the victim is the least recently used of its set, and one of the polder's own. -/
def State.fillCache (s : State) (c : Nat) (e : TransEntry) : State :=
  let l := (s.land.caches.get [] c).filter fun x => !(x.pol = e.pol && x.index = e.index && x.span = e.span)
  let sets := s.cacheSets c e.pol
  let mine := l.filter fun x => x.pol = e.pol && x.set sets = e.set sets
  let l := if mine.length < cacheWays c then l else
    match mine.foldl (fun (b : Option TransEntry) x =>
      match b with
      | some y => if x.used < y.used then some x else b
      | none => some x) none with
    | some v => l.erase v
    | none => l
  s.updLand fun g => { g with caches := g.caches.set [] c (l ++ [{ e with used := s.clock }]) }

/-- Drop every cached translation that `f` names. -/
def State.dropCached (s : State) (f : TransEntry → Bool) : State :=
  s.updLand fun g => { g with caches := g.caches.mapAll [] fun _ l => l.filter fun e => !f e }

/-! ## Looking up (R233, R234) -/

/-- What an engine's access finds: `wait` while its walk or miss runs, `start` when a walk must begin. -/
inductive Look where
  | wait | start | denied | fenced
  /-- A refused access whose PERMISSION LAND_RESUME has raised (R241). -/
  | aborted
  | ok (entry : Word) (dpa : Nat)
deriving DecidableEq, Repr

def State.lookup (s : State) (eng : EngineRef) (p va acc : Nat) : Look :=
  if 2 ^ 45 ≤ va then .denied else
  let i := va / 2 ^ 21
  let hit (orElse : Look) : Look :=
    match s.cached eng p i with
    | some e =>
      let d := entryTarget e.value va
      if s.entryAllows e.value p acc d then .ok e.value d else .denied
    | none => if (s.keel (entryKeel i)).fenced then .fenced else orElse
  match s.land.walks.find? fun w => w.engine = eng && w.pol = p && w.va / 2 ^ 21 = i && w.gen = (s.pol p).gen with
  | some w =>
    match w.st with
    | .aborted => .aborted
    | .fencedKeel => .fenced
    | .ready => hit .start
    | _ => .wait
  | none => hit .start

/-- A walk holds its walker until its translation is found or the Wharf has its miss: a miss without a table entry waits at
its walker (R239). -/
def Walk.holds (w : Walk) : Bool := w.st = .walking || w.st = .missSent || w.st = .noEntry

def Walk.keel (w : Walk) : Nat := entryKeel (w.va / 2 ^ 21)

/-- Walkers in use at a Keel by a polder. -/
def State.walkersUsed (s : State) (k p : Nat) : Nat :=
  (s.land.walks.filter fun w => w.keel = k && w.pol = p && w.holds).length

def State.walkerReserve (s : State) (k q : Nat) : Nat := s.reserve 7 q k (if (s.pol q).port < 2 then 1 else 0)

/-- Whether a polder finds a walker at a Keel (R232). -/
def State.walkerFree (s : State) (k p : Nat) : Bool :=
  let own := s.walkerReserve k
  let used := s.walkersUsed k
  let total := ((List.range 64).map fun q => own q + (used q - own q)).sum
  used p < own p || (!s.sealed && total < 128)

/-- Whether a walk that comes now takes a walker: first come, first served, so one that waits goes before, for the reserve
one of the same polder (R232). -/
def State.walkerNow (s : State) (k p : Nat) : Bool :=
  let reserved := s.walkersUsed k p < s.walkerReserve k p
  s.walkerFree k p && !(s.land.walks.any fun w => w.st = .noWalker && w.keel = k && (!reserved || w.pol = p))

/-- Begin a walk for an access that waits; a walk that finds no walker waits at its sender. (DESIGN CHOICE: log 24) -/
def State.startWalk (s : State) (eng : EngineRef) (p va acc tag : Nat) : State :=
  let i := va / 2 ^ 21
  let (id, s) := s.freshId
  let st := if s.walkerNow (entryKeel i) p then WalkSt.walking else .noWalker
  s.updLand fun g => { g with
    walks := (g.walks.filter fun w => !(w.engine = eng && w.pol = p && w.va / 2 ^ 21 = i))
      ++ [{ id := id, engine := eng, pol := p, gen := (s.pol p).gen, va := va, acc := acc, tag := tag, st := st, since := s.clock }] }

/-- The wait of a hard stream for its translations is charged to TRANSLATION (R72). -/
def State.chargeWalks (s : State) (eng : EngineRef) : State :=
  match eng, s.land.walks.filter fun w => w.engine = eng with
  | .porter _ _ p seq n, w :: ws =>
    let m := ((s.pol p).run seq).m
    let hard := m.hard && (((s.schedule m.schedule).bind fun c => c.streams[n]?).map StreamDecl.hard).getD false
    let t := ws.foldl (fun t w => min t w.since) w.since
    if hard then s.updRun p seq fun r => r.delayed s.clock (s.clock - t) .translation else s
  | _, _ => s

/-- The engine's access is over: its walks are forgotten. -/
def State.endWalks (s : State) (eng : EngineRef) : State :=
  (s.chargeWalks eng).updLand fun g => { g with walks := g.walks.filter fun w => w.engine ≠ eng }

/-- A look-up of one access: walks begin where they must; the translation used is marked as recent. (DESIGN CHOICE:
log 24) -/
def State.translate (s : State) (eng : EngineRef) (p va acc tag : Nat) : Look × State :=
  match s.lookup eng p va acc with
  | .start => (.wait, s.startWalk eng p va acc tag)
  | .ok e d =>
    (.ok e d, s.updLand fun g => { g with
      caches := (cachesOf eng).foldl (fun m c => m.upd [] c fun l =>
        l.map fun x => if x.serves p (va / 2 ^ 21) then { x with used := s.clock } else x) g.caches })
  | l => (l, s)

def State.setWalk (s : State) (id : Nat) (f : Walk → Walk) : State :=
  s.updLand fun g => { g with walks := g.walks.map fun w => if w.id = id then f w else w }

/-- A walk joins the end of those that wait. (DESIGN CHOICE: log 24) -/
def State.queueWalk (s : State) (w : Walk) (st : WalkSt) : State :=
  s.updLand fun g => { g with walks := (g.walks.filter fun x => x.id ≠ w.id) ++ [{ w with st := st }] }

def State.dropWalk (s : State) (id : Nat) : State :=
  s.updLand fun g => { g with walks := g.walks.filter fun w => w.id ≠ id }

/-- The walk itself (R233): both entries are read in one cycle; a valid translation fills the engine's caches,
anything else is a miss on its way to the Wharf. A reply for an older generation is discarded (R299). (DESIGN CHOICE:
log 24) -/
def State.walk (s : State) (id : Nat) : State :=
    match s.land.walks.find? fun w => w.id = id && w.st = .walking with
    | none => s
    | some w =>
      if s.isLate w.pol w.gen w.orphan then (s.dropWalk id).late w.pol w.orphan else
      let i := w.va / 2 ^ 21
      if (s.keel (entryKeel i)).fenced then s.setWalk id fun w => { w with st := .fencedKeel } else
      let eb := s.landEntry (spanBase i)
      let ei := s.landEntry i
      let found : Option TransEntry :=
        if eValid eb && eSpan eb then some { pol := w.pol, index := spanBase i, span := true, value := eb }
        else if eValid ei then some { pol := w.pol, index := i, value := ei } else none
      match found with
      | some e => ((cachesOf w.engine).foldl (fun s c => s.fillCache c e) s).setWalk id fun w => { w with st := .ready }
      | none => s.setWalk id fun w => { w with st := .missSent }

/-- WALKER_FREED (R232): the oldest walk waiting for a walker of the Keel that may use one begins. -/
def execWalkerFreed (k : Keel) (s : State) : Out :=
  .next <|
    match s.land.walks.find? fun w =>
      w.st = .noWalker && w.keel = k.val && s.walkerFree k.val w.pol with
    | some w => s.setWalk w.id fun w => { w with st := .walking }
    | none => s

/-! ## Misses (R239 to R242) -/

def State.openMiss (s : State) (p i : Nat) : Option Miss := s.land.misses.find? fun m => m.pol = p && m.index = i

def State.missReserve (s : State) (q : Nat) : Nat := s.reserve 9 q 0 (if (s.pol q).port < 2 then 2 else 0)
def State.missesOf (s : State) (q : Nat) : Nat := (s.land.misses.filter fun m => m.pol = q).length

/-- Whether a polder finds a free entry of the miss table. -/
def State.missRoom (s : State) (p : Nat) : Bool :=
  let own := s.missReserve
  let used := s.missesOf
  let total := ((List.range 64).map fun q => own q + (used q - own q)).sum
  used p < own p || total < 256

/-- Whether a miss that arrives now takes an entry: first come, first served, so one that waits at its walker goes before, for
the reserve one of the same polder (R239). -/
def State.missNow (s : State) (p : Nat) : Bool :=
  let reserved := s.missesOf p < s.missReserve p
  s.missRoom p && !(s.land.walks.any fun w => w.st = .noEntry && (!reserved || w.pol = p))

/-- A serial that no open miss bears. (DESIGN CHOICE: log 61) -/
def newSerial (open_ : List Miss) : Nat → Nat → Nat
  | 0, n => n
  | fuel + 1, n => if open_.any fun m => m.serial = n then newSerial open_ fuel ((n + 1) % 65536) else n

/-- Engine, die and number of R240 bytes 23 to 25; a station's number is that of R339's order. -/
def engineBytes : EngineRef → Nat × Nat
  | .porter d n _ _ _ => (0, d * 4096 + n)
  | .hand h => (1, h / 1024 * 4096 + h % 1024)
  | .station k d _ _ => (2, d * 4096 + k)
  | .sequencer _ _ => (3, 0xF000)
  | .wharf _ => (4, 0xF000)

/-- The detail of TRANSLATION_MISS and JOINED (R240). -/
def missDetail (w : Walk) (serial : Nat) : List Byte :=
  leBytes 6 w.va ++ leBytes 1 (min 3 w.acc) ++ leBytes 1 (engineBytes w.engine).1 ++ leBytes 2 (engineBytes w.engine).2
    ++ leBytes 2 serial ++ leBytes 4 w.tag

/-- A miss at the Wharf: it joins the open miss of its key, opens a new one where it has `room`, or waits for a table
entry. (DEDUCED: log 25) -/
def State.missArrives (s : State) (w : Walk) (room : Bool) : State :=
  let i := w.va / 2 ^ 21
  match s.openMiss w.pol i with
  | some m =>
    let s := s.setWalk w.id fun w => { w with st := .waiting m.serial }
    let s := match s.supOf w.pol with
      | some port => s.updLandRegs port fun r => { r with joins := satAdd 0xFFFF r.joins 1 }
      | none => s
    s.raiseSup .joined srcMiss w.pol (missDetail w m.serial)
  | none =>
    if room then
      let n := newSerial s.land.misses 257 s.land.serial
      let s := s.updLand fun g => { g with
        serial := (n + 1) % 65536
        misses := g.misses ++ [{ pol := w.pol, index := i, serial := n }] }
      (s.setWalk w.id fun w => { w with st := .waiting n }).raiseSup .translationMiss srcMiss w.pol (missDetail w n)
    else s.queueWalk w .noEntry

/-- TRANSLATION_MISS (R239): a miss reaches the Wharf. -/
def execTranslationMiss (id : Nat) (s : State) : Out :=
  .next <|
    match s.land.walks.find? fun w => w.id = id && w.st = .missSent with
    | some w => if s.held srcMiss w.pol then s else s.missArrives w (s.missNow w.pol)
    | none => s

/-- MISS_ENTRY_FREED (R239): the oldest miss waiting at its walker that an entry is free for is taken. -/
def execMissEntryFreed (s : State) : Out :=
  .next <|
    match s.land.walks.find? fun w =>
      w.st = .noEntry && !s.held srcMiss w.pol && ((s.openMiss w.pol (w.va / 2 ^ 21)).isSome || s.missRoom w.pol) with
    | some w => s.missArrives w true
    | none => s

/-- A walk begins again: one that holds a walker keeps it. (DESIGN CHOICE: log 24) -/
def State.walkAgain (s : State) (w : Walk) : State :=
  if w.holds || s.walkerNow w.keel w.pol then s.setWalk w.id fun w => { w with st := .walking } else s.queueWalk w .noWalker

/-- Close a miss: those that wait on it go on by `f`, and a miss of its key that has not reached the table walks again
(R242). -/
def State.closeMiss (s : State) (m : Miss) (f : State → Walk → State) : State :=
  let s := s.updLand fun g => { g with misses := g.misses.filter fun x => x.serial ≠ m.serial }
  s.land.walks.foldl (fun s w =>
    if w.st = .waiting m.serial then f s w
    else if (w.st = .missSent || w.st = .noEntry) && w.pol = m.pol && w.va / 2 ^ 21 = m.index then s.walkAgain w
    else s) s

/-- The source that an engine's events name (R339). -/
def engineSource : EngineRef → Nat
  | .porter d n _ _ _ => srcPorter d n
  | .hand h => srcHand h
  | .station k d _ _ => srcStation k d
  | .sequencer _ _ => srcSeq
  | .wharf _ => srcWharf

/-- A waiting access completes as a PERMISSION failure (R241). -/
def State.abortWalk (s : State) (w : Walk) : State :=
  (s.setWalk w.id fun w => { w with st := .aborted }).permission (engineSource w.engine) w.pol w.va (engineBytes w.engine).1

/-- R241: LAND_RESUME by the PF of a port. -/
def State.resume (s : State) (port serial : Nat) (abort : Bool) : State :=
  match s.land.misses.find? fun m => m.serial = serial && (s.pol m.pol).port = port with
  | none => s.updLandRegs port fun r => { r with stray := satAdd 0xFFFF r.stray 1 }
  | some m =>
    if abort then
      (s.closeMiss m State.abortWalk).updLandRegs port fun r =>
        { r with aborts := satAdd 0xFFFF r.aborts 1 }
    else s.closeMiss m fun s w => s.walkAgain w

/-! ## Edits (R237, R238) -/

def State.share (s : State) (port : Nat) : Nat × Nat := if port = 0 then s.charter.shareA else s.charter.shareB

/-- A valid span covers the index. -/
def State.spanned (s : State) (i : Nat) : Bool :=
  let e := s.landEntry (spanBase i)
  i % 512 ≠ 0 && eValid e && eSpan e

/-- A local granule is granted to a polder for the checks of R237. -/
def State.granuleGranted (s : State) (p o : Nat) : Bool :=
  match s.stockAt o with
  | some (_, port) => p = supervisorOf port
  | none =>
    match s.region o with
    | .hbm k r => s.holdsGroup p k (s.locate k r).1
    | .tier k r => s.holdsTier p k (r / 2 ^ 21)
    | _ => false

/-- A local frame that status 4 accepts. -/
def State.frameOk (s : State) (port p o : Nat) (span : Bool) : Bool :=
  match s.region o with
  | .host q _ => q = port
  | .gate _ => p = supervisorOf port && !span
  | .hbm _ _ => s.granuleGranted p o
  | .tier _ _ => s.granuleGranted p o
  | _ => false

/-- The first matching status of R237. -/
def State.editStatus (s : State) (port i : Nat) (v : Word) : Nat :=
  let (first, limit) := s.share port
  let span := eSpan v
  let word := (s.port port).confirmed
  let home := dpaModule (eFrame v * 2 ^ 21) = s.boot.moduleId
  let o := dpaOffset (eFrame v * 2 ^ 21)
  let hbm := match s.region o with
    | .hbm _ _ => true
    | _ => false
  if i = 0 || i < first || limit ≤ i || s.spanned i || (span && i % 512 ≠ 0) then 1
  else if (s.keel (entryKeel i)).fenced then 7
  else if v = 0 then 0
  else if field v.toNat 46 3 ≠ 0 || field v.toNat 0 9 ≠ 0 || 2 ≤ eCoding v then 2
  else if (s.pol (ePol v)).port ≠ port || (eCommon v && (ePol v ≠ supervisorOf port || eWrite v)) then 3
  else if home && !s.frameOk port (ePol v) o span then 4
  else if span && (eFrame v % 512 ≠ 0 || ((List.range 511).any fun j => s.landEntry (i + 1 + j) ≠ 0)
      || (home && !((List.range 512).all fun j => s.frameOk port (ePol v) (o + j * 2 ^ 21) true))) then 5
  else if (eCoding v = 1 && (!word.getLsbD 9 || (home && !hbm))) || (eCommon v && !word.getLsbD 4) then 6
  else 0

/-- Write an entry and invalidate what the caches hold of the index, or of the span of the old or the new entry. -/
def State.setEntry (s : State) (i : Nat) (v : Word) : State :=
  let old := s.landEntry i
  let wide := (eValid old && eSpan old) || eSpan v
  (s.updLand fun g => { g with entries := g.entries.set 0 i v }).dropCached fun e =>
    if wide then spanBase e.index = spanBase i else e.index = i

/-- A request translated with an entry has not been performed (R238 step 3): a request at a home, a Hand's load or
store, an access that waits at a Bin, a tile of a Cask page, a read of a host or of another module, a write that has
not left for either, for the frame. A Common Stock entry serves every reader's polder. (DEDUCED: log 32) -/
def State.editPending (s : State) (port : Nat) (old : Word) : Bool :=
  let lo := dpaOffset (eFrame old * 2 ^ 21)
  let size := if eSpan old then 2 ^ 30 else 2 ^ 21
  let idx := (s.landRegs port).idx
  let mine := fun p => eCommon old || p = ePol old
  let inFrame := fun line => lo ≤ line * 1024 && line * 1024 < lo + size
  let inIndex := fun va => idx * 2 ^ 21 ≤ va && va < idx * 2 ^ 21 + size
  let req := fun (r : HomeReq) => mine r.pol && inFrame r.line
  let serving := fun x => match x with
    | Serving.req r => req r
    | _ => false
  eValid old &&
  if dpaModule (eFrame old * 2 ^ 21) ≠ s.boot.moduleId then
    (s.hands.any fun e => mine e.2.pol && e.2.stores.any fun t => inIndex t.va)
      || s.links.any fun e => (e.2.reads.any fun r => mine r.pol && inIndex r.va)
      || e.2.chunks.any fun c => !c.2.isEmpty && (match ((s.img.map Image.links).getD [])[c.1]? with
        | some t => mine t.pol
        | none => false)
  else
    s.reqs.any req
    || (s.txns.any fun e => serving e.2.serving || e.2.queue.any serving)
    || (s.hands.any fun e =>
        (e.2.misses.any fun m => mine m.pol && inFrame (m.sector / 8))
          || (mine e.2.pol && e.2.stores.any fun t => inFrame t.line || inIndex t.va))
    || (s.bins.any fun e => mine e.2.pol && !e.2.waits.isEmpty && inFrame e.2.line)
    || (match s.region lo with
        | .host q w =>
          let base := (s.landRegs q).hwin + w
          let meets := fun (p a : Nat) => mine p && base ≤ a && a < base + size
          let out := s.quay (hostOutNo q)
          q = port && (((s.port q).reads ++ (s.port q).waitingReads).any (fun r => meets r.pol r.addr)
            || (out.entries ++ out.waiting).any fun x => match x with
              | .host (.memWrite _ a _ _ (p, _, _, _)) => meets p a
              | _ => false)
        | _ => false)
    || (s.pols.any fun e => mine e.1 && e.2.running.any fun r => r.2.streams.any fun c => c.2.tiles.any fun b =>
        b.2.outstanding ≠ 0 && b.2.lines.any fun l => (l.map inFrame).getD false)

def offLandCtl : Nat := 0x200010
def offLandResume : Nat := 0x200018
def offLandHwin : Nat := 0x200030

/-- GO in LAND_EDIT_CTL (R237): a refused edit completes at once; an accepted one is BUSY until R238 is done. -/
def State.landGo (s : State) (port : Nat) : State :=
  let r := s.landRegs port
  if r.busy then s else
  let st := s.editStatus port r.idx r.val
  if st ≠ 0 then s.updLandRegs port fun r => { r with status := st } else
  let old := s.landEntry r.idx
  (s.setEntry r.idx r.val).updLandRegs port fun r => { r with busy := true, old := old }

def State.landCtlWrite (s : State) (port : Nat) (a : RegAcc) : State := if a.bit 0 then s.landGo port else s

/-- LAND_EDIT_IDX and LAND_EDIT_VAL; ignored while BUSY is 1. -/
def State.landIdxWrite (s : State) (port : Nat) (a : RegAcc) : State :=
  s.updLandRegs port fun r => if r.busy then r else { r with idx := a.fld 0 24 r.idx }

def State.landValWrite (s : State) (port : Nat) (a : RegAcc) : State :=
  s.updLandRegs port fun r => if r.busy then r else { r with val := BitVec.ofNat 64 (a.merge r.val.toNat) }

def State.landResumeWrite (s : State) (port : Nat) (a : RegAcc) : State :=
  if a.hits 0 then s.resume port (field a.data 0 16) (a.bit 16) else s

/-- LAND_HWIN: BASE is locked by LOCK, which a write sets after BASE has taken its value (R405). -/
def State.landHwinWrite (s : State) (port : Nat) (a : RegAcc) : State :=
  s.updLandRegs port fun r =>
    if r.lock then r else { r with
      hwin := 2 ^ 21 * a.fld 21 43 (r.hwin / 2 ^ 21)
      lock := a.bit 0 }

/-- LAND_EDIT (R237): a write to LAND_EDIT_CTL. -/
def execLandEdit (a : RegAcc) (s : State) : Out :=
  .next <|
    match s.pfWrites a offLandCtl with
    | some port => s.landCtlWrite port a
    | none => s

/-- The edit of a port completes: BUSY falls and STATUS is DONE (R238 step 4). (DEDUCED: log 32) -/
def State.editDone (s : State) (port : Nat) : State :=
  s.updLandRegs port fun r => { r with busy := false, status := 0, old := 0 }

/-- LAND_EDIT_COMPLETE (R238): once no request translated with the old value is left. -/
def execLandEditComplete (port : Port) (s : State) : Out :=
  .next <|
    let r := s.landRegs port.val
    if r.busy && !s.editPending port.val r.old then s.editDone port.val else s

/-- LAND_RESUME (R241). -/
def execLandResume (a : RegAcc) (s : State) : Out :=
  .next <|
    match s.pfWrites a offLandResume with
    | some port => if a.bit 16 then s else s.landResumeWrite port a
    | none => s

/-- LAND_HWIN_LOCK (R405): a write to LAND_HWIN that sets LOCK. -/
def execLandHwinLock (a : RegAcc) (s : State) : Out :=
  .next <|
    match s.pfWrites a offLandHwin with
    | some port => if a.bit 0 then s.landHwinWrite port a else s
    | none => s

end Sys2Proof.Machine
end

