-- ==== Sys2Proof/Machine/Fabric.lean ====
section
/-! DEFINITION. Accesses that leave the module's memory: to another module over Zelpel Link (R261, R262) and to
a host's window (R244, R284); and a write or a read at any device physical address. -/

namespace Sys2Proof.Machine

open Sys2Proof

/-! ## Zelpel Link -/

/-- What the image declares for a port: VERSION and PDMAX (R250). (DEDUCED: log 32) -/
def State.portDecl (s : State) (n : Nat) : Nat × Nat := ((s.img.map Image.decls).getD []).getD n (0, 0)

/-- A port is fit (R250, R258). (DEDUCED: log 32) -/
def State.fit (s : State) (n : Nat) : Bool :=
  let l := s.link n
  let (version, pdmax) := s.portDecl n
  l.state = 2 && l.version = version && l.delay ≤ pdmax && -20 ≤ l.offset && l.offset ≤ 20 && l.exchMissing < 3

/-- The fabric grant permits an access to a module (R262). -/
def State.grantOk (s : State) (p m : Nat) (write : Bool) : Bool :=
  let q := s.pol p
  q.job ≠ 0 && q.lo ≤ m && m ≤ q.hi && (if write then q.wr else q.rd)

/-- The lowest-numbered fit port to a module that carries a stint of the polder of the class. -/
def State.remotePort (s : State) (p m cls : Nat) : Option Nat :=
  (List.range 64).find? fun n => s.fit n && (s.link n).peer = m && (s.linkStint n p cls).isSome

/-- Pieces of a byte run at 1 KiB boundaries: address and bytes. -/
def splitLines : Nat → Nat → List Byte → List (Nat × List Byte)
  | 0, _, _ => []
  | _, _, [] => []
  | fuel + 1, a, bs =>
    let n := 1024 - a % 1024
    (a, bs.take n) :: splitLines fuel (a + n) (bs.drop n)

/-- Free bytes, for the part of a 32-byte chunk that a shorter write does not give. (DEDUCED: log 29) -/
def State.freeBytes (s : State) (n : Nat) : List Byte × State :=
  let (v, s) := s.free (8 * n)
  (leBytes n v.toNat, s)

/-- One WRITE: its chunks, its poison. DST_POLDER and the tally it names are not given for an engine's write: free
values. (DEDUCED: log 29) -/
def State.sendWrite (s : State) (n p cls dpa : Nat) (bs : List Byte) (poison : Bool) (hint : Nat) : State :=
  let head := dpa % 32
  let tail := (32 - (head + bs.length) % 32) % 32
  let (pre, s) := s.freeBytes head
  let (post, s) := s.freeBytes tail
  let (dst, s) := s.free 6
  let (counted, s) := s.free 1
  let (tally, s) := s.free 12
  let data := pre ++ bs ++ post
  let k := data.length / 32
  let q := s.pol p
  s.sendTxn n p cls {
    op := 1, chunks := k, srcModule := s.boot.moduleId, dstModule := dpaModule dpa, srcPol := p
    dstPol := dst.toNat, srcGen := q.gen, hint := hint, counted := counted = 1, tally := tally.toNat
    poison := if poison then BitVec.ofNat 32 (2 ^ k - 1) else 0
    offset := dpaOffset dpa - head, job := q.job, data := data }

/-- A write of an engine to another module; none where it is refused with PERMISSION. (DEDUCED: log 29) -/
def State.remoteWrite (s : State) (p cls dpa : Nat) (bs : List Byte) (poison : Bool) (hint : Nat) : Option State :=
  match s.grantOk p (dpaModule dpa) true, s.remotePort p (dpaModule dpa) cls with
  | true, some n => some ((splitLines (bs.length + 1) dpa bs).foldl (fun s e => s.sendWrite n p cls e.1 e.2 poison hint) s)
  | _, _ => none

/-- A READ of an engine from another module, within one line; none where it is refused with PERMISSION. -/
def State.remoteRead (s : State) (p cls dpa len : Nat) (who : Requester) (va : Nat) : Option State :=
  match s.grantOk p (dpaModule dpa) false, s.remotePort p (dpaModule dpa) cls with
  | true, some n =>
    let (id, s) := s.freshId
    let q := s.pol p
    let k := (dpa % 32 + len + 31) / 32
    let (dst, s) := s.free 6
    let s := s.updLink n fun l => { l with
      reads := l.reads ++ [{ tag := id % 2 ^ 32, pol := p, gen := q.gen, chunks := k, who := who, va := va }] }
    some <| s.sendTxn n p cls {
      op := 2, chunks := k, srcModule := s.boot.moduleId, dstModule := dpaModule dpa, srcPol := p
      dstPol := dst.toNat, srcGen := q.gen, offset := dpaOffset dpa / 32 * 32, job := q.job, tag := id % 2 ^ 32 }
  | _, _ => none

/-! ## Host windows -/

/-- A port whose PCLK has stopped, or whose link is down (R31). -/
def State.hostDown (s : State) (port : Nat) : Bool :=
  let q := s.port port
  q.inReset || !q.refclk || q.rate = 0

/-- The bus address of a window offset; none above 2^64 - 1 (R244). -/
def State.busAddr (s : State) (port w len : Nat) : Option Nat :=
  let a := (s.landRegs port).hwin + w
  if a + len ≤ 2 ^ 64 then some a else none

/-- Tags that a port may have outstanding (R284). -/
def State.tagLimit (s : State) (port : Nat) : Nat :=
  let f := (s.port port).fn 0
  if field (f.cfg.get 0 0x88).toNat 12 1 = 1 then 768 else if field (s.devCtl port) 8 1 = 1 then 256 else 32

def State.tagBase (s : State) (port : Nat) : Nat := if s.tagLimit port = 768 then 256 else 0

/-- Send a read on a free tag, or let it wait for one. -/
def State.sendHostRead (s : State) (port : Nat) (r : HostRead) : State :=
  let q := s.port port
  let b := s.tagBase port
  match (List.range (s.tagLimit port)).find? fun i => !q.reads.any fun x => x.tag = b + i with
  | some i =>
    (s.updPort port fun q => { q with reads := q.reads ++ [{ r with tag := b + i, since := s.clock }] }).toHost port
      (.memRead r.fn r.addr r.len (b + i))
  | none => s.updPort port fun q => { q with waitingReads := q.waitingReads ++ [r] }

/-- Pieces of a read: within 1 KiB lines and at most Max_Read_Request_Size. -/
def splitRead (m : Nat) : Nat → Nat → Nat → List (Nat × Nat)
  | 0, _, _ => []
  | fuel + 1, a, len =>
    if len = 0 then [] else
    let n := min len (min m (1024 - a % 1024))
    (a, n) :: splitRead m fuel (a + n) (len - n)

/-- Read a host's window for a polder: the number of requests made; none where the address is a PERMISSION failure. -/
def State.hostRead (s : State) (port p w len : Nat) (who : Requester) (va : Nat) : Option (Nat × State) :=
  (s.busAddr port w len).map fun a =>
    let ps := splitRead (s.mrrs port) (len + 1) a len
    (ps.length, ps.foldl (fun s e => s.sendHostRead port {
      tag := 0, fn := s.requester p, pol := p, gen := (s.pol p).gen, addr := e.1, off := e.1 - a, len := e.2
      since := s.clock, who := who, va := va }) s)

/-- Write a host's window for a polder: for a source, an address and an engine. -/
def State.hostWrite (s : State) (port p w : Nat) (bs : List Byte) (poison : Bool) (src va eng : Nat) : Option State :=
  (s.busAddr port w bs.length).map fun a => s.hostPost port (s.requester p) a bs poison (p, src, va, eng)

/-! ## At any address -/

/-- What becomes of a translated access: refused, completed with FENCED_TARGET, or made. -/
inductive Reach where
  | denied | fenced
  | memory (entry : Word) (dpa : Nat)
deriving DecidableEq, Repr

/-- A fenced stack gives and takes nothing but what the Granary holds (R185). -/
def State.stackGone (s : State) (line : Nat) : Bool := s.stackFenced line && (s.granFind line).isNone

/-- Whether a translated access of `len` bytes can be made: what R31, R112, R185, R206, R244, R261, R262, R281 and R400
refuse. A read of a fenced stack is made, and returns poison. -/
def State.reach (s : State) (p acc len : Nat) (e : Word) (dpa : Nat) : Reach :=
  if dpaModule dpa ≠ s.boot.moduleId then
    if acc ≠ 2 && s.grantOk p (dpaModule dpa) (acc = 1) && (s.remotePort p (dpaModule dpa) 1).isSome then .memory e dpa
    else .denied
  else
    let o := dpaOffset dpa
    match s.region o with
    | .host q w =>
      if acc = 2 then .denied
      else if s.hostDown q then .fenced
      else if (s.busAddr q w len).isNone then .denied else .memory e dpa
    | .gate _ => if acc ≠ 2 && (len = 4 || len = 8) && 3 ≤ s.boot.stage then .memory e dpa else .denied
    | _ =>
      if s.homeFenced (o / 1024) || (acc ≠ 0 && s.stackGone (o / 1024)) then .fenced
      else if acc ≠ 0 && !s.codingAllows e dpa len then .denied else .memory e dpa

/-- What becomes of a write: performed, refused, completed with FENCED_TARGET, or put off until its line is quiet. -/
inductive Did where
  | ok | denied | fenced | wait
deriving DecidableEq, Repr

/-- A one-step write of the sequencer within a line, at a DPA: to local memory, a host's window, or another module. -/
def State.writeDpa (s : State) (p va dpa : Nat) (bs : List Byte) (poison : Bool) : Did × State :=
  if dpaModule dpa ≠ s.boot.moduleId then
    match s.remoteWrite p 1 dpa bs poison 0 with
    | some s => (.ok, s)
    | none => (.denied, s)
  else
    match s.region (dpaOffset dpa) with
    | .host q w =>
      if s.hostDown q then (.fenced, s) else
      match s.hostWrite q p w bs poison srcSeq va 3 with
      | some s => (.ok, s)
      | none => (.denied, s)
    | .hbm _ _ | .tier _ _ =>
      let line := dpaOffset dpa / 1024
      let o := dpaOffset dpa
      if s.homeFenced line || s.stackFenced line then (.fenced, s)
      else if s.groupPart o bs.length then (.denied, s)
      else if !s.lineQuiet line then (.wait, s)
      else (.ok, s.poke p o bs poison)
    | _ => (.denied, s)

end Sys2Proof.Machine
end

