-- ==== Sys2Proof/Machine/MillOps.lean ====
section
/-! DEFINITION. Operations in progress on the Mills (R82, R95, R96, R305, R308, R378): when they end, and what holds them
up. -/

namespace Sys2Proof.Machine

open Sys2Proof

/-- The age at which an operation ends. -/
def MillOp.ends (o : MillOp) : Nat := o.from_ + ceilDiv o.work o.eff + o.fin

/-- It still issues at an age. -/
def MillOp.issuing (o : MillOp) (now : Nat) : Bool := now + o.fin < o.ends

/-- What is left at an age of an operation that still issues. -/
def MillOp.rest (o : MillOp) (now : Nat) : MillOp :=
  { o with from_ := max o.from_ now, work := o.work - (now - o.from_) * o.eff }

/-- The dies that an operation runs on, from the one that keeps it. -/
def MillOp.dies (o : MillOp) (d : Nat) : List Nat := if o.array = 21 then [d, d + 1] else [d]

/-- The operations on a die, each with the die that keeps it. -/
def State.opsOn (s : State) (d : Nat) : List (Nat × MillOp) :=
  (s.mill d).ops.map (fun o => (d, o))
    ++ if d % 2 = 1 then ((s.mill (d - 1)).ops.filter fun o => o.array = 21).map fun o => (d - 1, o) else []

/-- A tile runs an operation, or holds one for a frozen polder. -/
def State.tileRuns (s : State) (d t : Nat) : Bool :=
  s.clock < (s.mill d).runsTo.get 0 t || (s.opsOn d).any fun e => e.2.held.isSome && e.2.tiles.getLsbD t

/-- The ages until which tiles run, and of their last issue plus 1. -/
def State.markTiles (s : State) (d : Nat) (tiles : BitVec 16) (runs last : Nat) : State :=
  s.updMill d fun c => { c with
    runsTo := (bitsOf 16 tiles.toNat).foldl (fun m t => m.set 0 t runs) c.runsTo
    lastIssue := (bitsOf 16 tiles.toNat).foldl (fun m t => m.set 0 t last) c.lastIssue }

/-- An operation goes on as another: the end of its run and its last issue follow. -/
def State.setOp (s : State) (d : Nat) (o new : MillOp) : State :=
  let s := s.updMill d fun c => { c with ops := c.ops.map fun x => if x = o then new else x }
  (new.dies d).foldl (fun s e => s.markTiles e new.tiles new.ends (new.ends - new.drain + 1)) s

/-- Operations that `f` names end now (R82). -/
def State.endOps (s : State) (f : MillOp → Bool) : State :=
  (List.range 8).foldl (fun s d =>
    let gone := (s.mill d).ops.filter f
    let live := gone.filter fun o => s.clock < o.ends || o.held.isSome
    let s := live.foldl (fun s o => (o.dies d).foldl (fun s e => s.markTiles e o.tiles s.clock (s.clock + 1)) s) s
    if gone.isEmpty then s else s.updMill d fun c => { c with ops := c.ops.filter fun o => !f o }) s

/-! ## The Weir (R95) -/

/-- The Weir level of an array: in PAIR the lower of its dies' (R95). -/
def State.weirOf (s : State) (dies : List Nat) : Nat := dies.foldl (fun n d => min n (s.mill d).weir) 64

/-- The rate of issue in 64ths of the booked one. -/
def effOf (n booked : Nat) : Nat := if n < booked then max 1 n else 64

/-- Cycles that the Weir added are charged to WEIR (R95). (DEDUCED: log 16) -/
def State.chargeWeir (s : State) (p seq n : Nat) : State :=
  s.updRun p seq fun r => if r.m.hard then r.delayed s.clock n .weir else r

/-- Cycles charged to WEIR that a rise of the level saves. (DEDUCED: log 16) -/
def State.unchargeWeir (s : State) (p seq n : Nat) : State :=
  s.updRun p seq fun r => { r with
    uncharged := r.uncharged.set .weir (r.uncharged.get .weir - n), covered := r.covered.set .weir (r.covered.get .weir - n) }

/-- A new level of a die: what its operations have still to issue goes on at the new rate. (DEDUCED: log 16) -/
def State.retime (s : State) (d : Nat) : State :=
  (s.opsOn d).foldl (fun s e =>
    let (k, o) := e
    if o.held.isSome || !o.issuing s.clock then s else
    let new := { o.rest s.clock with eff := effOf (s.weirOf (o.dies k)) o.booked }
    ((s.setOp k o new).chargeWeir o.pol o.seq (new.ends - o.ends)).unchargeWeir o.pol o.seq (o.ends - new.ends)) s

/-- A tile of a die stops for n cycles, and its array with it; they are charged to WEIR (R378). -/
def State.stopTile (s : State) (d t n : Nat) : State :=
  (s.opsOn d).foldl (fun s e =>
    let (k, o) := e
    if !o.tiles.getLsbD t || o.held.isSome || !o.issuing s.clock then s else
    let r := o.rest s.clock
    (s.setOp k o { r with from_ := r.from_ + n }).chargeWeir o.pol o.seq n) s

/-! ## Freezing (R305, R308) -/

/-- The operations of a polder stop with their state held. -/
def State.holdOps (s : State) (p : Nat) : State :=
  (List.range 8).foldl (fun s d => s.updMill d fun c => { c with
    ops := c.ops.map fun o => if o.pol = p && o.held.isNone && s.clock < o.ends then { o with held := some s.clock } else o }) s

/-- The cycles of a ladder that begins within an operation (R96). -/
def ladderCost (c : MillSt) (tLast : Nat) : Nat := 56 * c.ladder + c.stagger * tLast

/-- A tile begins its ladder. -/
def MillSt.climb (c : MillSt) (now first t : Nat) : MillSt :=
  { c with rung := c.rung.set 0 t 1, ladderAt := c.ladderAt.set 0 t (now + c.stagger * (first + t)) }

/-- The operations of a polder go on where they stopped; after 256 cycles or more without issue the tiles enter the ladder, at
the cost that R96 gives. -/
def State.resumeOps (s : State) (p : Nat) : State :=
  (List.range 8).foldl (fun s d => (s.mill d).ops.foldl (fun s o =>
    match o.held with
    | none => s
    | some h =>
      if o.pol ≠ p then s else
      let climbs := o.issuing h && 256 ≤ s.clock - h
      let cost := if climbs then ladderCost (s.mill d) o.tLast else 0
      let new :=
        if o.issuing h then
          let r := o.rest h
          { r with from_ := r.from_ + (s.clock - h) + cost, eff := effOf (s.weirOf (o.dies d)) o.booked, held := none }
        else { o with from_ := s.clock + (o.ends - h), work := 0, fin := 0, held := none }
      let s := s.setOp d o new
      if !climbs then s else
      (o.dies d).foldl (fun s e => s.updMill e fun c =>
        (bitsOf 16 o.tiles.toNat).foldl (fun c t => c.climb s.clock (16 * (e - d)) t) c) s) s) s

end Sys2Proof.Machine
end

