-- ==== Sys2Proof/Machine/Route.lean ====
section
/-! DEFINITION. The routes of the Causeway (chapter 7): segments and lanes, the stints of a path and its interruptions at
quays, memories and stations, and the slots that the tide table assigns to a quay. -/

namespace Sys2Proof.Machine

open Sys2Proof

/-! ## Geometry (R148, R149, R151) -/

/-- Lanes of a segment or spine port, and its first control lane: all data where it is the number of lanes, all control where
it is 0, any class where there is none. -/
def laneKinds (seg port : Nat) : Option (Nat × Option Nat) :=
  if seg < 0x10 then (if port = 0 then some (4000, some 4000) else none)
  else if seg < 0x20 then (if port = 0 then some (96, some 0) else none)
  else if seg < 0x28 then (if port = 0 then some (256, some 240) else none)
  else if seg < 0x30 then (if port = 0 then some (64, some 56) else none)
  else if seg < 0x38 then
    if port = 0x00 then some (8192, some 8192)
    else if port = 0x01 then some (1024, some 1024)
    else if port = 0x02 || port = 0x04 then some (128, some 128)
    else if port = 0x03 then some (256, some 256)
    else if 0x08 ≤ port && port < 0x10 then some (16, some 0)
    else if port = 0x10 then some (64, some 0)
    else if port = 0x20 then some (4000, some 4000)
    else if port = 0x21 then some (96, some 0)
    else none
  else if seg < 0x3C then
    if port = 0x00 then some (8192, some 8192)
    else if port = 0x01 then some (192, some 0)
    else if port = 0x20 || port = 0x22 then some (4000, some 4000)
    else if port = 0x21 || port = 0x23 then some (96, some 0)
    else if port = 0x30 || port = 0x31 then some (256, some 240)
    else if port = 0x32 then some (64, some 56)
    else if 0x40 ≤ port && port < 0x70 then some (16, some 16)
    else if 0x70 ≤ port && port < 0x76 then some (1, none)
    else if 0x80 ≤ port && port < 0x90 then some (8, none)
    else none
  else if seg = 0x3C then
    if 0x30 ≤ port && port < 0x34 then some (64, some 56)
    else if port = 0x40 || port = 0x41 then some (8, none)
    else if port = 0x48 || port = 0x49 || port = 0x50 then some (1, none)
    else if port = 0x58 || port = 0x59 then some (16, none)
    else none
  else none

/-- The field ranges and lanes of a stint (R150, R151, R155). -/
def stintRange (t : Stint) : Bool :=
  match laneKinds t.segment t.port with
  | none => false
  | some (lanes, ctl) =>
    t.pol < 64 && t.cls ≤ 6 && t.period ≤ 12 && t.start < 2 ^ t.period && 1 ≤ t.length && t.length ≤ 2 ^ t.period
      && t.hop ≤ 15 && t.reserved = 0 && 1 ≤ t.laneCount && t.laneFirst + t.laneCount ≤ lanes
      && (match ctl with
        | none => true
        | some c => if t.cls ≤ 1 then t.laneFirst + t.laneCount ≤ c else c ≤ t.laneFirst)

/-- A cycle 63 mod 64 lies in an occurrence (R154). -/
def hitsBand (t : Stint) : Bool :=
  let m := 2 ^ min t.period 6
  m ≤ t.length || (63 % m + m - t.start % m) % m < t.length

/-- Two stints may share slots (R153). -/
def mayShare (a b : Stint) : Bool :=
  a.pol = b.pol && a.schedule ≠ b.schedule && a.schedule ≠ 0xFFFF && b.schedule ≠ 0xFFFF

/-- The latency of a segment (R148). -/
def segLatency (seg : Nat) : Nat := if seg < 0x20 then 3 else if seg < 0x30 then 8 else 4

/-- The segment that follows a stint's: none where it enters a quay, a memory or a station. -/
def nextSegment (t : Stint) : Option Nat :=
  let seg := t.segment
  if seg < 0x20 then some (if seg / 8 % 2 = 0 then 0x38 + seg % 8 / 2 else 0x30 + seg % 8)
  else if seg < 0x28 then some (0x38 + [1, 0, 3, 2, 2, 0, 3, 1].getD (seg - 0x20) 0)
  else if seg < 0x30 then some (if seg % 2 = 0 then 0x3C else 0x38 + (seg - 0x28) / 2)
  else if seg < 0x38 then
    if t.port = 0x20 then some (seg - 0x30) else if t.port = 0x21 then some (0x10 + (seg - 0x30)) else none
  else if seg < 0x3C then
    let k := seg - 0x38
    match t.port with
    | 0x20 => some (0x08 + 2 * k)
    | 0x21 => some (0x18 + 2 * k)
    | 0x22 => some (0x09 + 2 * k)
    | 0x23 => some (0x19 + 2 * k)
    | 0x30 => some ([0x20, 0x21, 0x22, 0x23].getD k 0)
    | 0x31 => some ([0x24, 0x26, 0x25, 0x27].getD k 0)
    | 0x32 => some (0x28 + 2 * k)
    | _ => none
  else if 0x30 ≤ t.port && t.port < 0x34 then some (0x29 + 2 * (t.port - 0x30)) else none

/-! ## Quays on the spines (R149, R157) -/

/-- The spine and port code at which the Causeway meets a quay; none for the quays between other domains. -/
def quayPort (n : Nat) : Option (Nat × Nat) :=
  if n < 48 then some (0x38 + n % 24 / 6, 0x70 + n % 6)
  else if n < 432 then some (0x38 + (n - 48) % 192 / 48, 0x40 + (n - 48) % 48)
  else if n < 560 then some (0x38 + (n - 432) % 64 / 16, 0x80 + (n - 432) % 16)
  else if n < 564 then some (0x3C, 0x40 + n % 2)
  else if n < 568 then none
  else if n < 572 then some (0x3C, 0x48 + n % 2)
  else if n = 572 then some (0x3C, 0x50)
  else none

/-- MCLK cycles booked for a crossing (R157's table). -/
def quayBooking (n : Nat) : Nat :=
  if n < 24 then 5 else if n < 48 then 6 else if n < 240 then 5 else if n < 432 then 6
  else if n < 496 then 4 else if n < 560 then 6 else if n < 562 then 6 else if n < 564 then 7
  else if n < 568 then 0 else if n < 570 then 8 else if n < 572 then 12 else if n = 572 then 10 else 0

/-- The quays whose MCLK side is the reading one. -/
def inboundQuay (n : Nat) : Bool :=
  (24 ≤ n && n < 48) || (240 ≤ n && n < 432) || (496 ≤ n && n < 560) || (562 ≤ n && n < 564)
    || (568 ≤ n && n < 570) || n = 572

/-! ## Paths (R152) -/

/-- Two stints of one transfer, in the order of HOP. -/
def nextInPath (u t : Stint) : Bool :=
  u.pol = t.pol && u.cls = t.cls && u.owner = t.owner && u.schedule = t.schedule && u.hop + 1 = t.hop

/-- Stint t is the next hop of a path after u (R152): across a join by cut-through; after a quay, a memory or a
station from the same spine. (DEDUCED: log 57) -/
def follows (u t : Stint) : Bool :=
  nextInPath u t &&
  match nextSegment u with
  | none => u.segment = t.segment
  | some seg => seg = t.segment && u.period = t.period && u.length = t.length && u.laneCount ≤ t.laneCount
      && t.start = (u.start + segLatency u.segment) % 2 ^ t.period

/-- A path leads from stint t by cut-through to a stint that `goal` names. -/
def leadsTo (tide : List Stint) (goal : Stint → Bool) : Nat → Stint → Bool
  | 0, t => goal t
  | fuel + 1, t => goal t ||
      ((nextSegment t).isSome && tide.any fun v => follows t v && leadsTo tide goal fuel v)

/-- Stints on the cut-through path that t lies on, before and after it. -/
def pathOf (tide : List Stint) (t : Stint) : List Stint :=
  t :: tide.filter fun u =>
    (u.hop < t.hop && leadsTo tide (fun v => v = t) 16 u) || (t.hop < u.hop && leadsTo tide (fun v => v = u) 16 t)

/-- The next hop by cut-through of stint `i`, by its record. -/
def nextHop (tide : List Stint) (t : Stint) : Option Nat :=
  if (nextSegment t).isNone then none else
  (tide.zipIdx.find? fun e => follows t e.1).map Prod.snd

/-- The hop before a stint by cut-through. -/
def hopBefore (tide : List Stint) (t : Stint) : Option Stint :=
  tide.find? fun u => follows u t && (nextSegment u).isSome

/-- The segment by which a stint's data entered the spine that holds its slip buffer (R158): none where the source
itself holds the data. -/
def enteredBy (tide : List Stint) (t : Stint) : Option Nat :=
  match hopBefore tide t with
  | none => none
  | some u => if u.segment < 0x30 then some u.segment else (hopBefore tide u).map Stint.segment

/-- The tide table assigns slots of stint t to the reading of an inbound quay (R29): a record names no input port, so
a stint on the quay's spine does that is the first hop of its path, or the next after a stint that entered the quay's
port. (DEDUCED: log 50) -/
def readsQuay (tide : List Stint) (t : Stint) (n : Nat) : Bool :=
  match quayPort n with
  | none => false
  | some (spine, port) => t.segment = spine && (t.hop = 0 || tide.any fun u => nextInPath u t && u.segment = spine &&
      (u.port = port || (0x70 ≤ u.port && u.port < 0x76 && 0x40 ≤ port && (port - 0x40) / 8 = u.port - 0x70)))

/-- A cycle lies in an occurrence of a stint (R150). -/
def occursAt (t : Stint) (cycle : Nat) : Bool := (cycle + 2 ^ t.period - t.start % 2 ^ t.period) % 2 ^ t.period < t.length

/-! ## The ring-read stint (R45) -/

/-- Whether a stint is the ring-read kind (R45). -/
def isRingRead (t : Stint) : Bool := t.cls = 2 && t.segment = 0x3C && t.hop = 0 && t.period = 12

/-- The pickup cycle of a polder: the START of its ring-read stint, the lowest of those it could be. -/
def pickupCycle (tide : List Stint) (pol : Nat) : Option Nat :=
  (tide.filter fun t => isRingRead t && t.pol = pol).foldl (fun a t => some (a.elim t.start (min t.start))) none

/-! ## Stints, Keels and bundles -/

/-- The tide table that is loaded. -/
def State.table (s : State) : List Stint := (s.img.map Image.tide).getD []

/-- Two stints share a slot (R153). -/
def stintsMeet (a b : Stint) : Bool :=
  let m := 2 ^ min a.period b.period
  a.segment = b.segment && a.port = b.port
    && a.laneFirst < b.laneFirst + b.laneCount && b.laneFirst < a.laneFirst + a.laneCount
    && ((b.start + m - a.start % m) % m < a.length || (a.start + m - b.start % m) % m < b.length)

/-- The two Keels of a Keel-Keel segment 0x20 to 0x27 (R148). -/
def segmentKeels (seg : Nat) : List Nat :=
  [[0, 1], [0, 1], [2, 3], [2, 3], [0, 2], [0, 2], [1, 3], [1, 3]].getD (seg - 0x20) []

/-- A stint's segment belongs to a Keel. -/
def stintOnKeel (t : Stint) (k : Nat) : Bool :=
  (0x20 ≤ t.segment && t.segment < 0x28 && (segmentKeels t.segment).contains k)
    || (0x28 ≤ t.segment && t.segment < 0x30 && (t.segment - 0x28) / 2 = k)

/-- The segment of a bundle, its first lane there and its lanes: 32 a bundle across a bond, 64 across a culvert (R9,
R10, R148, R407). -/
def bundleLanes (b : Nat) : Nat × Nat × Nat :=
  if b < 2048 then
    let way := if b % 256 < 128 then 0x00 else 0x08
    let k := b % 128
    if k ≤ 124 then (way + b / 256, 32 * k, 32) else (way + 0x10 + b / 256, 32 * (k - 125), 32)
  else if b < 2080 then (0x20 + (b - 2048) / 4, 64 * (b % 4), 64)
  else (0x28 + (b - 2080), 0, 64)

/-- A stint has lanes in a bundle. -/
def stintOnBundle (t : Stint) (b : Nat) : Bool :=
  let (seg, lane, n) := bundleLanes b
  t.segment = seg && t.laneFirst < lane + n && lane < t.laneFirst + t.laneCount

end Sys2Proof.Machine
end

