-- ==== Sys2Proof/Machine/Seq.lean ====
section
/-! DEFINITION. The tide sequencer's shared operations (chapters 2 and 3): completion records, lag and its causes,
admission, ending a manifest, and the advance of a polder's generation (R298). -/

namespace Sys2Proof.Machine

open Sys2Proof

/-! ## Completion records (R50) -/

def stDone : Nat := 1
def stDoneLate : Nat := 2
def stRefused : Nat := 3
def stRejected : Nat := 4
def stStale : Nat := 5
def stFenced : Nat := 6
def stMissed : Nat := 7

/-- The 16 bytes of a completion record. (DEDUCED: log 28) -/
def recordBytes (end_ tag status gen left : Nat) : List Byte :=
  leBytes 8 end_ ++ leBytes 4 tag ++ leBytes 1 status ++ leBytes 1 gen ++ leBytes 2 (min left 0xFFFF)

/-- The record is settled: MANIFEST_DONE follows it where NOTIFY asks for it. (DEDUCED: log 28) -/
def State.recordOver (s : State) (p : Nat) (r : RecordWait) : State :=
  let s := (s.updPol p fun q => { q with records := q.records.filter fun x => x.seq ≠ r.seq }).endWalks (.sequencer p r.seq)
  if r.notify then
    s.raiseOwn .manifestDone srcSeq p (slice r.bytes 8 8 ++ slice r.bytes 0 8)
  else s

/-- Whether an address is mapped for a polder now. -/
def State.mapped (s : State) (va : Nat) : Bool :=
  let i := va / 2 ^ 21
  let eb := s.landEntry (spanBase i)
  (eValid eb && eSpan eb) || eValid (s.landEntry i)

/-- Try to write a record through the polder's Land Register; a miss delays only the record (R243). -/
def State.settleRecord (s : State) (p : Nat) (r : RecordWait) : State :=
  if r.va = 0 || (r.stale && !s.mapped r.va) then s.recordOver p r else
  match s.translate (.sequencer p r.seq) p r.va 1 r.tag with
  | (.ok e d, s) =>
    if !s.codingAllows e d 16 then (s.permission srcSeq p r.va 3).recordOver p r else
    match s.writeDpa p r.va d r.bytes false with
    | (.ok, s) => s.recordOver p r
    | (.denied, s) => (s.permission srcSeq p r.va 3).recordOver p r
    | (.fenced, s) => (s.raiseOwn .fencedTarget srcSeq p (addrDetail r.va 3)).recordOver p r
    | (.wait, s) => s
  | (.denied, s) => (s.permission srcSeq p r.va 3).recordOver p r
  | (.fenced, s) => (s.raiseOwn .fencedTarget srcSeq p (addrDetail r.va 3)).recordOver p r
  | (.aborted, s) => s.recordOver p r
  | (_, s) => s

/-- A record begins its way to memory. (DEDUCED: log 25) -/
def State.postRecord (s : State) (p : Nat) (r : RecordWait) : State :=
  (s.updPol p fun q => { q with records := q.records ++ [r] }).settleRecord p r

/-- Every waiting record of a polder is tried again. (DESIGN CHOICE: log 21; DEDUCED: log 25) -/
def State.retryRecords (s : State) (p : Nat) : State :=
  (s.pol p).records.foldl (fun s r => s.settleRecord p r) s

/-- The record of a manifest that ends or does not start. -/
def State.manifestRecord (s : State) (p : Nat) (m : Manifest) (status end_ left : Nat) : State :=
  s.postRecord p {
    seq := m.seq, va := m.completion, tag := m.tag, bytes := recordBytes end_ m.tag status m.gen left
    stale := status = stStale, notify := m.notify && status ≠ stStale }

/-! ## Operating points and worst cases (R68, R366) -/

/-- The ceiling of a step (R366). -/
def stepCeiling (ms : Nat) : Nat := [64, 60, 56, 52, 48, 40, 32, 16].getD ms 64

/-- The point of phase i for an OPP word: in sealed mode the slowest sealed step of its dies (R374). -/
def State.phasePoint (s : State) (ph : Phase) (opp i : Nat) : Nat :=
  if s.sealed then
    ((bitsOf 8 ph.dies.toNat).map fun d => (((s.img.map Image.dieSets).getD []).getD d {}).sealStep).foldl max 0
  else
    let n := opp / 16 ^ i % 16
    if n = 15 then ph.point else n

/-- The terms of R68, phase by phase: the worst case at its point, and the cost of raising the step. -/
def State.phaseTerms (s : State) (c : Schedule) (opp : Nat) : List Nat :=
  (List.range c.phases.length).map fun i =>
    let ph := c.phases.getD i { worst := [] }
    let pt := s.phasePoint ph opp i
    let before := s.phasePoint (c.phases.getD (i - 1) { worst := [] }) opp (i - 1)
    let up := if i = 0 || s.sealed then 0 else
      let ci := stepCeiling pt
      let cb := stepCeiling before
      if cb < ci then ceilDiv (500000 * (ci - cb)) ci else 0
    ph.worst.getD pt 0 + up

def State.worstCase (s : State) (c : Schedule) (opp : Nat) : Nat := (s.phaseTerms c opp).sum

/-- When phase i begins, in cycles after cycle 1,024 of the start tide. (DEDUCED: log 53) -/
def State.phaseStart (s : State) (c : Schedule) (opp i : Nat) : Nat := ((s.phaseTerms c opp).take i).sum

/-! ## Resources (R47) -/

def State.shareSlots (s : State) (i j : Nat) : Bool :=
  let t := (s.img.map Image.tide).getD []
  t.any fun a => a.schedule = i && t.any fun b => b.schedule = j && stintsMeet a b

/-- The Porters that a schedule uses, as 8 x die + number. -/
def portersOf (c : Schedule) : List Nat :=
  ((c.streams.filter fun d => d.src = .porter || d.dst = .porter).map fun d => 8 * d.die + d.porter)
    ++ c.ranges.map fun r => 8 * r.die + r.porter

/-- A schedule uses the Wharf as a station. -/
def usesWharf (c : Schedule) : Bool := c.streams.any fun d => d.src = .wharf || d.dst = .wharf

/-- Two kernels have a Hand in common. -/
def shareHands (a b : KernelDecl) : Bool :=
  a.dies &&& b.dies ≠ 0 && a.x0 < b.x0 + b.w && b.x0 < a.x0 + a.w && a.y0 < b.y0 + b.h && b.y0 < a.y0 + a.h

/-- Two schedules of a polder share a station instance, a Mill tile or a Causeway slot (R47). -/
def State.shareResource (s : State) (i j : Nat) : Bool :=
  i = j || s.shareSlots i j ||
  match s.schedule i, s.schedule j with
  | some a, some b => (a.stations.any fun x => b.stations.contains x) || (a.tiles.any fun x => b.tiles.contains x)
      || ((portersOf a).any fun x => (portersOf b).contains x) || (usesWharf a && usesWharf b)
      || a.kernels.any fun x => b.kernels.any (shareHands x)
  | _, _ => false

/-! ## Fenced parts (R356, R156, R354) -/

/-- A schedule uses a Mill die. -/
def usesDie (c : Schedule) (d : Nat) : Bool :=
  (c.stations.any fun x => x / 4 = d) || (c.tiles.any fun x => x / 16 = d) || (c.streams.any fun x => x.die = d)
    || (c.kernels.any fun x => x.dies.getLsbD d) || (c.ranges.any fun x => x.die = d)
    || (c.phases.any fun x => x.dies.getLsbD d)
    || (c.mills.any fun x => x.die = d || (x.mode = .pair && x.die / 2 = d / 2))

def usesStack (c : Schedule) (i : Nat) : Bool := c.groups.any fun g => 6 * (g / 48) + g % 48 / 8 = i

def usesKeel (c : Schedule) (k : Nat) : Bool :=
  (c.groups.any fun g => g / 48 = k) || usesDie c (2 * k) || usesDie c (2 * k + 1)

/-- A stint that schedule i uses satisfies a test: its own, or one that every schedule of its polder uses. -/
def State.schedStint (s : State) (i : Nat) (f : Stint → Bool) : Bool :=
  s.table.any fun t =>
    (t.schedule = i || (t.schedule = 0xFFFF && (s.schedule i).any fun c => c.pol = t.pol)) && f t

/-- A schedule uses a fenced die, stack or Keel, or a dead bundle. -/
def State.usesFenced (s : State) (i : Nat) : Bool :=
  match s.schedule i with
  | none => false
  | some c =>
    ((List.range 8).any fun d => (s.mill d).fenced && usesDie c d)
      || ((List.range 4).any fun k => (s.keel k).fenced && (usesKeel c k || s.schedStint i fun t => stintOnKeel t k))
      || ((List.range 24).any fun x => (s.stack x).fenced && usesStack c x)
      || (s.bundles.any fun e => e.2.state = 3 && s.schedStint i fun t => stintOnBundle t e.1)

/-! ## Admission (R66, R67) -/

def lateBound (tb c : Nat) : Nat := tb + c + ceilDiv c 32768 + 2
def earlyBound (tb c : Nat) : Int := (tb : Int) + c - ceilDiv c 32768 - 2

/-- The least k from a starting point with early(tb, 4096 k + 1024) not below `ready`. -/
def firstTide (tb : Nat) (ready : Int) : Nat → Nat → Nat
  | 0, k => k
  | fuel + 1, k => if earlyBound tb (4096 * k + 1024) < ready then firstTide tb ready fuel (k + 1) else k

/-- The start tide: the loop of R67, begun just below its answer. -/
def startTideOf (tb ready : Nat) : Nat :=
  let r := ready - tb
  firstTide tb ready 16 ((r * 32768 / 32767 - 1024) / 4096 - 2)

/-- What admission answers: reason and computed end bound, or the manifest with its bounds. -/
inductive Admission where
  | refused (reason bound : Nat)
  | admitted (m : Manifest)
deriving DecidableEq, Repr

/-- Manifests of a polder before this one in ring order, pending or running. -/
def Polder.earlier (q : Polder) (m : Manifest) : List Manifest :=
  (q.running.map fun e => e.2.m) ++ (q.pending.filter fun x => x.seq < m.seq)

def State.admission (s : State) (p : Nat) (m : Manifest) (tb : Nat) : Admission :=
  let q := s.pol p
  let c := (s.schedule m.schedule).getD { pol := p }
  let f := if m.freeboard ≠ 0 then m.freeboard else c.freeboard
  let m := { m with freeboard := f, tb := tb, warn := q.warnNow, requireLock := q.lockNow, readmit := false }
  if !m.hard then .admitted m else
  if q.lockNow && s.alm.state ≠ 2 then .refused 4 0 else
  let before := q.earlier m
  if before.any fun x => !x.hard then .refused 3 0 else
  let ready := before.foldl (fun r x =>
    let r := max r x.startNs
    if (m.afterPrev && m.prev = some x.seq) || s.shareResource x.schedule m.schedule then max r x.endNs else r)
    (max m.earliest tb)
  let k := startTideOf tb ready
  let w := s.worstCase c m.opp
  let bound := lateBound tb (4096 * k + 1024 + w + f)
  if m.deadline < bound then .refused 1 bound
  else .admitted { m with startTide := k, startNs := lateBound tb (4096 * k + 1024), endNs := bound }

/-- A refused manifest (R69): ADMISSION_REFUSED, and its record. -/
def State.refuse (s : State) (p : Nat) (m : Manifest) (reason bound tb : Nat) : State :=
  let s := s.raiseOwn .admissionRefused srcSeq p (leBytes 1 reason ++ leBytes 3 0 ++ leBytes 4 m.tag ++ leBytes 8 bound)
  s.manifestRecord p m stRefused tb 0

/-! ## Lag (R71 to R74) -/

def causesSum (c : Causes) : Nat := c.link + c.refresh + c.weir + c.translation + c.wait + c.other

def causesAdd (a b : Causes) : Causes :=
  ⟨a.link + b.link, a.refresh + b.refresh, a.weir + b.weir, a.translation + b.translation, a.wait + b.wait, a.other + b.other⟩

/-- Growth of L by d, charged from the uncharged totals in the order of R72; what they do not cover is OTHER. -/
def Run.grow (r : Run) (d : Nat) : Run :=
  let u := r.uncharged
  let a := min d u.link
  let b := min (d - a) u.refresh
  let c := min (d - a - b) u.weir
  let e := min (d - a - b - c) u.translation
  let f := min (d - a - b - c - e) u.wait
  let rest := d - a - b - c - e - f
  { r with
    lag := r.lag + d
    charged := causesAdd r.charged ⟨a, b, c, e, f, rest⟩
    uncharged := ⟨u.link - a, u.refresh - b, u.weir - c, u.translation - e, u.wait - f, u.other - min rest u.other⟩ }

/-- The manifests whose hard streams a stint's delay strikes: those of its schedule, and of a stream's own stint those
in which the stream is hard (R29, R72). -/
def State.strikes (s : State) (t : Stint) (r : Run) : Bool :=
  (t.schedule = 0xFFFF || r.m.schedule = t.schedule)
    && (!([0, 3, 4].contains t.cls) || match (s.schedule r.m.schedule).bind fun c => c.streams[t.owner]? with
      | some d => d.hard
      | none => false)

/-- Raise L to a value, if it is greater. -/
def Run.lagTo (r : Run) (l : Nat) : Run := if r.lag < l then r.grow (l - r.lag) else r

/-- The booked completion of tile t of a stream, as an Almanac value (R71). -/
def State.bookedAt (s : State) (r : Run) (c : Schedule) (d : StreamDecl) (t : Nat) : Nat :=
  r.m.tb + 4096 * r.m.startTide + 1024 + s.phaseStart c r.m.opp d.phase + d.bookFirst + d.bookPeriod * t

/-- The lag that tiles not yet completed show now. -/
def State.lagNow (s : State) (r : Run) : Nat :=
  match s.schedule r.m.schedule with
  | none => 0
  | some c =>
    ((List.range c.streams.length).map fun j =>
      let d := c.streams.getD j { fmt := 0, src := .porter, dst := .porter }
      let done := (r.streams.get {} j).completed
      if d.hard && done < d.length then s.alm.now - s.bookedAt r c d done else 0).foldl max 0

/-- While DEFAULT holds the Mill's issue, every cycle from the booked start of a hard manifest enters WEIR (R364).
(DEDUCED: log 36) -/
def State.chargeHeld (s : State) (r : Run) : Run :=
  let booked := r.m.tb + 4096 * r.m.startTide + 1024
  let a := max r.covered.weir (s.clock - (s.alm.now - booked))
  if s.pwr.dflt && r.m.hard && booked < s.alm.now && a < s.clock then r.delayed a (s.clock - a) .weir else r

/-- Bring the lag of a running hard manifest up to now. -/
def State.updLag (s : State) (p seq : Nat) : State :=
  if (s.pol p).isRunning seq && ((s.pol p).run seq).m.hard then
    s.updRun p seq fun r => (s.chargeHeld r).lagTo (s.lagNow r)
  else s

/-- FREEBOARD_LEFT: F - L in units of 16 cycles, 0 where L exceeds F or the manifest is firm (R73, R75). -/
def freeboardLeft (r : Run) : Nat := if r.m.hard then (r.m.freeboard - r.lag) / 16 else 0

/-- A cause figure of R74. -/
def causeUnits (n : Nat) : Nat := min 0xFFFF (ceilDiv n 256)

def lagDetail (r : Run) : List Byte :=
  leBytes 4 r.m.tag ++ ([r.charged.link, r.charged.refresh, r.charged.weir, r.charged.translation, r.charged.wait,
    r.charged.other].map fun n => leBytes 2 (causeUnits n)).flatten

/-- DEADLINE_MISS, once for a running hard manifest. -/
def State.missDeadline (s : State) (p seq : Nat) : State :=
  let r := (s.pol p).run seq
  if !(s.pol p).isRunning seq || !r.m.hard || r.missRaised then s else
  (s.raiseOwn .deadlineMiss srcSeq p (lagDetail r)).updRun p seq fun r => { r with missRaised := true }

/-! ## NOTICE (R270) -/

/-- The tide of a manifest's first collective step. (DEDUCED: log 31) -/
def State.collTide (r : Run) (c : Schedule) : Nat :=
  (r.m.tb + 4096 * r.m.startTide + 1024 + (c.colls.map CollStep.landing).headD 0) / 4096

/-- NOTICE to every peer of the collective, on the lowest port that is UP to it; DST_POLDER, which is the peer's own,
is a free value. (DEDUCED: log 29) -/
def State.sendNotices (s : State) (p seq reason : Nat) : State :=
  let r := (s.pol p).run seq
  match s.schedule r.m.schedule with
  | none => s
  | some c =>
    if c.colls.isEmpty then s else
    c.peers.foldl (fun s m =>
      match (List.range 64).find? fun n => (s.link n).state = 2 && (s.link n).peer = m with
      | some n =>
        let (dst, s) := s.free 6
        s.updLink n fun l => { l with
          band := l.band ++ [.notice (s.pol p).job r.m.schedule reason dst.toNat (State.collTide r c)] }
      | none => s) s

/-! ## Ending a manifest -/

/-- A Hand is given up by its kernel: what it has sent completes without effect on it (R145). -/
def Hand.release (h : Hand) : Hand :=
  let atoms := h.atoms.map fun a => { a with dests := [] }
  let misses := h.misses.map fun m => { m with dests := [], fillL1 := false }
  { atoms := atoms, misses := misses, pol := if atoms.isEmpty && misses.isEmpty then 0 else h.pol }

/-- The engines of a manifest forget their walks; a miss on which no engine waits any more closes (R242). -/
def State.endWalksOf (s : State) (f : EngineRef → Bool) : State :=
  let s := s.updLand fun g => { g with walks := g.walks.filter fun w => !f w.engine }
  (s.land.misses.filter fun m => !(s.land.walks.any fun w => w.st = .waiting m.serial)).foldl
    (fun s m => s.closeMiss m fun s _ => s) s

/-- The manifest of a Hand. -/
def Hand.runs (h : Hand) (p seq : Nat) : Bool := h.busy && h.pol = p && h.runSeq = seq

def State.enginesOf (s : State) (p seq : Nat) : EngineRef → Bool
  | .porter _ _ q r _ => q = p && r = seq
  | .hand h => (s.hand h).runs p seq
  | .station _ _ q r => q = p && r = seq
  | .sequencer _ _ => false
  | .wharf _ => false

/-- A manifest ends with a status: its kernels' Hands are free, its staged tiles are gone (R54), its record is on
its way. -/
def State.endRun (s : State) (p seq status end_ left : Nat) : State :=
  if !(s.pol p).isRunning seq then s else
  let r := (s.pol p).run seq
  let s := if status = stFenced then s.sendNotices p seq 2 else s
  let f := s.enginesOf p seq
  let s := (s.endWalksOf f).endOps fun o => o.pol = p && o.seq = seq
  let s := { s with hands := s.hands.mapAll {} fun _ h => if h.runs p seq then h.release else h }
  let s := s.updPol p fun q => { q with running := q.running.filter fun e => e.1 ≠ seq }
  s.manifestRecord p r.m status end_ left

/-- A manifest ends FENCED (R51, R145, R250, R269), with its unused freeboard as L stands now (R50). -/
def State.fenceRun (s : State) (p seq : Nat) : State :=
  let s := s.updLag p seq
  s.endRun p seq stFenced s.alm.now (freeboardLeft ((s.pol p).run seq))

def State.fenceRuns (s : State) (p : Nat) : State :=
  (s.pol p).running.foldl (fun s e => s.fenceRun p e.1) s

/-! ## Generations (R297 to R299, R49) -/

/-- The pending list empties with STALE records (R49); END is the boundary of each manifest's pickup (R50). -/
def State.emptyPending (s : State) (p status : Nat) : State :=
  let ms := (s.pol p).pending
  let s := s.updPol p fun q => { q with
    pending := [], stale := if status = stStale then satAdd 0xFFFF q.stale ms.length else q.stale }
  ms.foldl (fun s m => s.manifestRecord p m status m.tb 0) s

/-- A request whose answer its polder awaits. -/
def reqAwaited (r : HomeReq) : Bool :=
  match r.who, r.op with
  | .porter _ _ _ _ _, .read _ => true
  | .hand _ _, _ => true
  | _, _ => false

def reqOrphaned (p : Nat) (r : HomeReq) : HomeReq := if r.pol = p && reqAwaited r then { r with orphan := true } else r

def Serving.orphaned (p : Nat) : Serving → Serving
  | .req r => .req (reqOrphaned p r)
  | x => x

def Serving.count (p : Nat) : Serving → Nat
  | .req r => if r.pol = p && reqAwaited r then 1 else 0
  | _ => 0

/-- Requests of a polder whose return is still to come. -/
def State.outstanding (s : State) (p : Nat) : Nat :=
  (s.reqs.filter fun r => r.pol = p && reqAwaited r).length
    + (s.txns.map fun e => e.2.serving.count p + (e.2.queue.map (Serving.count p)).sum).sum
    + (s.land.walks.filter fun w => w.pol = p && w.st = .walking).length
    + (s.hands.map fun e => (e.2.misses.filter fun m => m.pol = p).length).sum
    + (s.ports.map fun e => (e.2.reads.filter fun r => r.pol = p && !r.who.isHand).length).sum
    + (s.links.map fun e => (e.2.reads.filter fun r => r.pol = p && !r.who.isHand).length).sum

def missOrphaned (p : Nat) (m : MissEntry) : MissEntry := if m.pol = p then { m with orphan := true } else m
def hostReadOrphaned (p : Nat) (r : HostRead) : HostRead := if r.pol = p then { r with orphan := true } else r
def remoteReadOrphaned (p : Nat) (r : RemoteRead) : RemoteRead := if r.pol = p then { r with orphan := true } else r
def walkOrphaned (p : Nat) (w : Walk) : Walk := if w.pol = p then { w with orphan := true } else w

def txnOrphaned (p : Nat) (t : HomeTxn) : HomeTxn :=
  { t with serving := t.serving.orphaned p, queue := t.queue.map (Serving.orphaned p) }

def HostPort.orphaned (p : Nat) (q : HostPort) : HostPort :=
  { q with reads := q.reads.map (hostReadOrphaned p), waitingReads := q.waitingReads.filter fun r => r.pol ≠ p || (match r.who with
      | .host _ _ => true
      | _ => false) }

/-- Mark every request of a polder still outstanding as orphaned (R299). -/
def State.orphanAll (s : State) (p : Nat) : State :=
  let s := { s with
    reqs := s.reqs.map (reqOrphaned p)
    txns := s.txns.mapAll {} fun _ t => txnOrphaned p t
    hands := s.hands.mapAll {} fun _ h => { h with misses := h.misses.map (missOrphaned p) }
    ports := s.ports.mapAll {} fun _ q => q.orphaned p
    links := s.links.mapAll {} fun _ l => { l with reads := l.reads.map (remoteReadOrphaned p) } }
  s.updLand fun g =>
    let ws := g.walks.filter fun w => w.pol ≠ p || w.st = .walking
    { g with walks := ws.map (walkOrphaned p), misses := g.misses.filter fun m => m.pol ≠ p }

/-- R298: the generation of a polder advances. `own` is false where a command of the polder in progress is aborted by
it (R296). (DEDUCED: log 38) -/
def State.advanceGen (s : State) (p : Nat) (own : Bool) : State :=
  let old := (s.pol p).gen
  let s := s.emptyPending p stStale
  let s := s.fenceRuns p
  let n := s.outstanding p
  let s := s.orphanAll p
  let s := s.updPol p fun q => { q with
    gen := (old + 1) % 256
    tallies := [], tallyUsed := []
    job := 0, hi := 0, lo := 0, rd := false, wr := false
    enable := false, stopping := false
    freezeAsked := false, thawAsked := false
    status := if q.busy && !own then 5 else q.status
    busy := if own then q.busy else false
    orphans := n, orphanGen := old, discarded := if q.orphans = 0 then 0 else q.discarded }
  s.retryRecords p

/-- An advance that leaves the polder its state, but a FREEZING one is FROZEN at once, since no manifest of it runs
any more (R413, R305). (DEDUCED: log 38) -/
def State.advanceKept (s : State) (p : Nat) : State :=
  let t := (s.pol p).state
  let s := s.advanceGen p false
  if t = 3 then s.updPol p fun q => { q with
    state := 4, frozenBit := true, frozenAt := if q.frozenBit then q.frozenAt else s.alm.now } else s

/-! ## Meanings that a waiting record hears of -/

def recordPolder : EngineRef → Option Nat
  | .sequencer p _ => some p
  | _ => none

/-- LAND_WALK (R233): a walk reaches its Keel; a record that waited for it is written. (DESIGN CHOICE: log 24) -/
def execLandWalk (id : Nat) (s : State) : Out :=
  .next <|
    let eng := (s.land.walks.find? fun w => w.id = id).map Walk.engine
    let s := s.walk id
    match eng.bind recordPolder with
    | some p => s.retryRecords p
    | none => s

/-- LAND_ABORT (R241): LAND_RESUME with ABORT 1; the waiting accesses complete as refused. -/
def execLandAbort (a : RegAcc) (s : State) : Out :=
  .next <|
    match s.pfWrites a offLandResume with
    | some port =>
      if a.bit 16 then
        let s := s.landResumeWrite port a
        (List.range 64).foldl (fun s p => s.retryRecords p) s
      else s
    | none => s

end Sys2Proof.Machine
end

