-- ==== Sys2Proof/Machine/Almanac.lean ====
section
/-! DEFINITION. The Almanac, its discipline and its registers (chapter 3), and the tide boundary (R59). -/

namespace Sys2Proof.Machine

open Sys2Proof

/-! ## Discipline (R61 to R63) -/

/-- The accuracy of R61 in ns. -/
def almAccuracy (source hops : Nat) : Nat :=
  match source with
  | 1 => 4
  | 2 => 40
  | 3 => 40
  | 4 => 5 * hops
  | _ => 0

def clampInt (lim : Int) (x : Int) : Int := max (-lim) (min lim x)

/-- The Almanac leaves its state for another. -/
def Almanac.enter (a : Almanac) (st : Nat) : Almanac :=
  { a with state := st, within := 0, outside := 0, missing := 0 }

/-- The rate that stands is kept: what was slewing goes on as rate, and no offset is left to remove (R63). -/
def Almanac.keepRate (a : Almanac) : Almanac :=
  { a with rate := a.rate + a.slew, slew := 0, slewLeft := 0, slewRest := 0 }

/-- The rate that was learned is kept, and no offset is left to remove: HOLDOVER (R63). -/
def Almanac.learnedRate (a : Almanac) : Almanac := { a with slew := 0, slewLeft := 0, slewRest := 0 }

/-- The rate that an update teaches, from `bits` that are free: within the oscillator's 20 ppm of R61. -/
def learnedPpm (bits : BitVec 6) : Int := (bits.toNat % 41 : Nat) - 20

/-- Steer toward the reference: the offset is removed at 25 ppm, the most that R64 permits, from the learned rate.
(DEDUCED: log 30) -/
def Almanac.steer (a : Almanac) (off rate : Int) : Almanac :=
  { a with
    offset := clampInt 0x7FFFFFFF off
    rate := rate
    slew := if off = 0 then 0 else if 0 < off then 25 else -25
    slewLeft := off
    slewRest := 0 }

/-- A reference update that measured an offset (R63). The rate that it teaches is free; the update that ends HOLDOVER
counts among the three in a row (the manual says neither). (DEDUCED: log 30) -/
def State.measured (s : State) (off : Int) : State :=
  let (bits, s) := s.free 6
  let a := s.alm
  let ok := off.natAbs ≤ almAccuracy a.source a.hops && (a.source ≠ 4 || a.hops ≤ 2)
  let set := fun b => { s with alm := b }
  let b := { a.steer off (learnedPpm bits) with missing := 0 }
  match a.state with
  | 1 =>
    if !ok then set { b with within := 0 }
    else if a.within + 1 < 3 then set { b with within := a.within + 1 }
    else (set (b.enter 2)).raiseBoth .almanacLocked srcAlm []
  | 2 =>
    if ok then set { b with outside := 0 }
    else if a.outside + 1 < 3 then set { b with outside := a.outside + 1 }
    else set (b.enter 1)
  | 3 => set { b.enter 1 with within := if ok then 1 else 0 }
  | _ => s

/-- PTM of a port gives updates: PTM Enable is 1 and the link is up (R288). -/
def State.ptmOn (s : State) (port : Nat) : Bool :=
  (s.port port).ptmEnable && (s.port port).rate ≠ 0 && !(s.port port).inReset

/-- REFERENCE_UPDATE (R63): the selected source gives its reference minus the Almanac, in ns. For SOURCE 1 the operand
is the second that the edge marks minus the Almanac at the edge, and ALM_PPS_DELAY is taken off the edge's time; a
LOCKED Almanac ignores an edge more than 1 us from the expected second (R391). (DEDUCED: log 30) -/
def execReferenceUpdate (offset : Int) (s : State) : Out :=
  .next <|
    if !s.counts || s.boot.stage < 1 then s else
    match s.alm.source with
    | 1 =>
      let off := offset + s.alm.ppsDelay
      if s.alm.state = 2 && 1000 < off.natAbs then s else s.measured off
    | 2 => if s.ptmOn 0 then s.measured offset else s
    | 3 => if s.ptmOn 1 then s.measured offset else s
    | _ => s

/-- An expected reference update is missing (R63): the third in a row takes a LOCKED Almanac into HOLDOVER at its
learned rate; in ACQUIRING the current rate stays. It breaks a run of updates within the accuracy and a run outside it
(the manual does not say whether updates on both sides of a missing one are consecutive). (DEDUCED: log 30) -/
def State.refMissing (s : State) : State :=
  let a := s.alm
  if a.source = 0 then s
  else if a.state = 2 && 3 ≤ a.missing + 1 then
    ({ s with alm := { a.learnedRate.enter 3 with holdoverSeen := true } }).raiseBoth .almanacHoldover srcAlm []
  else
    let b := if a.state = 1 then a.keepRate else a
    { s with alm := { b with missing := a.missing + 1, within := 0, outside := 0 } }

/-- REFERENCE_MISSING (R63). -/
def execReferenceMissing (s : State) : Out :=
  .next <| if s.counts && 1 ≤ s.boot.stage then s.refMissing else s

/-! ## Registers (R63 to R65) -/

def offAlmNow : Nat := 0x20000
def offAlmCtl : Nat := 0x20010
def offAlmStep : Nat := 0x20020

/-- A write of the ALM block: from Stage 3 only the time owner's PF writes it. -/
def State.almWrites (s : State) (a : RegAcc) (off : Nat) : Bool :=
  match s.pfWrites a off with
  | some port => s.boot.stage < 3 || port = s.timeOwner
  | none => false

/-- ALM_CTL: SOURCE 5 to 7, and 4 without ALM_ZL_DISCIPLINE, is not written, and such a write changes no state (R61,
R63, R266) even where it moves ZL_PORT under SOURCE 4: R63's last item is taken before its first. Else a change of
SOURCE, or of ZL_PORT under SOURCE 4, ends the state (R63). (DEDUCED: log 30) -/
def State.almCtlWrite (s : State) (a : RegAcc) : State :=
  let m := s.alm
  if m.lock then s else
  let want := a.fld 0 3 m.source
  let ignored := 5 ≤ want || (want = 4 && !s.featureWord.getLsbD 8)
  let src := if ignored then m.source else want
  let zp := a.fld 8 6 m.zlPort
  let b := { m with source := src, zlPort := zp, master := a.flag 4 m.master, lock := a.bit 63 }
  let changed := src ≠ m.source || (src = 4 && zp ≠ m.zlPort && !ignored)
  if !changed then { s with alm := b }
  else if src = 0 then { s with alm := { b.learnedRate.enter 0 with hops := 0, rate := 0, rateRest := 0 } }
  else { s with alm := { b.keepRate.enter 1 with hops := 0 } }

/-- ALM_STEP: the step that the write requests. A second write before the first takes effect replaces it, and a 4-byte
write keeps the other half of a step that still waits, else 0; the manual says neither. (DEDUCED: log 30) -/
def State.almStepWrite (s : State) (a : RegAcc) : State :=
  let old := ofSigned 64 (s.alm.step.getD 0)
  { s with alm := { s.alm with step := some (toSigned 64 (a.merge old)) } }

def State.almPpsWrite (s : State) (a : RegAcc) : State :=
  if s.alm.lock then s else { s with alm := { s.alm with ppsDelay := a.fld 0 16 s.alm.ppsDelay } }

def State.almMasterWrite (s : State) (a : RegAcc) : State :=
  if s.alm.lock then s else
  { s with alm := { s.alm with masterPorts := BitVec.ofNat 64 (a.merge s.alm.masterPorts.toNat) } }

/-- ALM_CTL_WRITE (R63). -/
def execAlmCtlWrite (a : RegAcc) (s : State) : Out :=
  .next <| if s.almWrites a offAlmCtl then s.almCtlWrite a else s

/-- ALM_LOCK (R405): a write of ALM_CTL that sets LOCK. -/
def execAlmLock (a : RegAcc) (s : State) : Out :=
  .next <| if s.almWrites a offAlmCtl && a.bit 63 then s.almCtlWrite a else s

/-- ALM_STEP (R64): a step is requested. -/
def execAlmStep (a : RegAcc) (s : State) : Out :=
  .next <| if s.almWrites a offAlmStep then s.almStepWrite a else s

/-- ALM_NOW: a 4-byte read of the low half latches the high word for the function (R65). -/
def State.almNowRead (s : State) (src : Src) (size half : Nat) : State :=
  let key := 32 * src.portOf + src.fnOf
  let s := if size = 4 && half = 0 then
      { s with alm := { s.alm with nowHi := s.alm.nowHi.set 0 key (s.alm.now / 2 ^ 32) } } else s
  s.reply src size (halfOf size half s.alm.now)

/-- ALM_NOW_READ (R65); before Stage 1 the block reads 0 (R319). -/
def execAlmNowRead (src : Src) (size half : Nat) (s : State) : Out :=
  .next <|
    if !(size = 8 && half = 0) && !(size = 4 && half < 2) then s
    else if !s.srcReaches src then s
    else if s.offLive src offAlmNow then s.almNowRead src size half else s.reply src size 0

/-! ## The PPS output and PTM (R60, R288) -/

/-- The Almanac stands within 2 ns of a whole second. -/
def nearSecond (now : Nat) : Bool := now % 1000000000 ≤ 2 || 1000000000 - 2 ≤ now % 1000000000

/-- PPS_OUT_RISE (R60): within 2 ns of a whole second. Time that passes a second without this command raises the pin
too (`State.ppsPass`). -/
def execPpsOutRise (s : State) : Out :=
  .next <|
    if s.counts && 1 ≤ s.boot.stage && !s.alm.pps && nearSecond s.alm.now then
      { s with alm := { s.alm with pps := true, ppsAt := s.clock } } else s

/-- PPS_OUT_FALL (R60): 100 us after the rise; time that passes that moment drops the pin too (`State.ppsPass`). -/
def execPpsOutFall (s : State) : Out :=
  .next <| if s.alm.pps && s.alm.ppsAt + 100000 ≤ s.clock then { s with alm := { s.alm with pps := false } } else s

/-- PTM_REQUEST (R288): a PF with PTM Enable asks for an update every 1 ms. -/
def execPtmRequest (port : Port) (s : State) : Out :=
  .next <|
    let q := s.port port.val
    if s.boot.stage0 && s.ptmOn port.val && s.passed q.ptmAt 1000000 then
      (s.updPort port.val fun q => { q with ptmAt := s.clock }).toHost port.val .ptm else s

/-! ## Steps and tide boundaries (R59, R64) -/

/-- No manifest of any polder is pending or running. -/
def State.noManifests (s : State) : Bool := s.pols.all fun e => e.2.pending.isEmpty && e.2.running.isEmpty

/-- A requested step that would be taken now (R64). -/
def State.stepOk (s : State) : Bool :=
  match s.alm.step with
  | none => false
  | some d => s.noManifests && 0 ≤ (s.alm.now : Int) + d && (s.alm.now : Int) + d < 2 ^ 64

/-- The requested step at the Almanac value at which it would take effect: taken, which ends the tide, or refused. -/
def State.applyStep (s : State) : State :=
  match s.alm.step with
  | none => s
  | some d =>
    if s.stepOk then
      { s with
        alm := { s.alm with now := ((s.alm.now : Int) + d).toNat, step := none }
        tide := { s.tide with boundary := none, open_ := false } }
    else { s with alm := { s.alm with step := none, stepRefused := true } }

/-- The Almanac value of the next boundary: the first multiple of 4,096 after the tide in progress, or at or after
now where no tide is in progress. -/
def State.nextBoundary (s : State) : Nat :=
  match s.tide.boundary with
  | some b => b + 4096
  | none => ceilDiv s.alm.now 4096 * 4096

/-- What takes effect for a polder at every tide boundary: CSW_FB_CFG_p (R77), the clear of ENABLE (R41), and a ring
that may be read again. -/
def Polder.atBoundary (q : Polder) : Polder :=
  { q with warnNow := q.warn, lockNow := q.requireLock, stopping := false, pickedTide := none, takenNow := 0 }

/-- A tide begins at the Almanac value that stands. A requested step is applied first: taken, it ends the tide and
no other begins until the boundary after it (R64). -/
def State.boundaryHere (s : State) : State :=
  if s.stepOk then s.applyStep else
  let s := s.applyStep
  { s with
    tide := { s.tide with boundary := some s.alm.now, tides := s.tide.tides + 1, open_ := true }
    pols := s.pols.mapAll {} fun _ q => q.atBoundary }

/-- Tides run from Stage 3. -/
def State.tidesRun (s : State) : Bool := s.counts && s.tide.loaded && 3 ≤ s.boot.stage

/-- TIDE_BOUNDARY (R59): the time until the next boundary passes, and the tide begins. (DESIGN CHOICE: log 4) -/
def execTideBoundary (s : State) : Out :=
  .next <| if s.tidesRun then (s.advanceTo s.nextBoundary).boundaryHere else s

/-- ALM_STEP_APPLY (R64): the time until the boundary passes, and the requested step is taken or ignored there.
(DESIGN CHOICE: log 4) -/
def execAlmStepApply (s : State) : Out :=
  .next <|
    if s.counts && s.alm.step.isSome then
      let at_ := if s.tidesRun then s.nextBoundary else ceilDiv s.alm.now 4096 * 4096
      (s.advanceTo at_).applyStep
    else s

/-- A boundary that was `late` ns ago, at the Almanac value that stands: the tide begins, or a step is taken, which may
itself lead to a boundary within those `late` ns (R64). -/
def State.boundaryAgo (s : State) (late : Nat) : State :=
  let at_ := fun (u : State) v => { u with alm := { u.alm with now := v % 2 ^ 64 } }
  let u := s.boundaryHere
  let gap := u.nextBoundary - u.alm.now
  if u.tide.boundary.isNone && gap ≤ late then
    let v := (at_ u u.nextBoundary).boundaryHere
    at_ v (v.alm.now + (late - gap))
  else at_ u (u.alm.now + late)

/-- One ACLK cycle with no command: a boundary that it reaches begins its tide, and before Stage 3 a multiple of 4,096
takes a requested step (R64). (DESIGN CHOICE: log 2) -/
def State.idle (s : State) : State :=
  let t := s.tick
  let moved := (t.alm.now + 2 ^ 64 - s.alm.now) % 2 ^ 64
  let next := if s.tidesRun then s.nextBoundary else ceilDiv s.alm.now 4096 * 4096
  let reached := s.counts && s.alm.now ≤ next && next - s.alm.now ≤ moved
  let late := moved - (next - s.alm.now)
  let there := { t with alm := { t.alm with now := next % 2 ^ 64 } }
  if reached && s.tidesRun then there.boundaryAgo late
  else if reached && s.alm.step.isSome then
    let u := there.applyStep
    { u with alm := { u.alm with now := (u.alm.now + late) % 2 ^ 64 } }
  else t

end Sys2Proof.Machine
end

