-- ==== Sys2Proof/Machine/Fill.lean ====
section
/-! DEFINITION. Data that comes back to an engine: the fill of a Hand's sector miss (R135, R136), and the bytes that a
host or another module answers a read with. -/

namespace Sys2Proof.Machine

open Sys2Proof

/-- The kernel that a Hand runs, as the image declares it. -/
def State.kernelOf (s : State) (h : Nat) : Option KernelDecl :=
  let c := s.hand h
  (s.schedule ((s.pol c.pol).run c.runSeq).m.schedule).bind fun x => x.kernels.find? fun k => k.kernel = c.kernel

/-- An address as a Hand's L1, its queue and its miss entries name it: a local one by its local DPA. -/
def State.keyAddr (s : State) (dpa : Nat) : Nat := (dpaModule dpa ^^^ s.boot.moduleId) * 2 ^ 48 + dpaOffset dpa

/-- A staging slot's bytes there. -/
def stagedAddr (va : Nat) : Nat := 2 ^ 70 + va

/-- A sector of 128 B as the L1 and the miss entries name it. -/
def State.sectorKey (s : State) (dpa : Nat) : Nat := s.keyAddr dpa / 128

/-- The DPA of a sector. -/
def State.sectorDpa (s : State) (key : Nat) : Nat :=
  let a := 128 * key
  (a / 2 ^ 48 ^^^ s.boot.moduleId) * 2 ^ 48 + a % 2 ^ 48

/-! ## The L1 (R134, R163) -/

/-- Its sets, by LOCAL in KiB. -/
def l1Sets (localKib : Nat) : Nat := (64 - localKib) * 2

/-- A Hand's miss entries (R135). -/
def missEntries (localKib : Nat) : Nat := (64 - localKib) * 2

def Hand.l1Find (h : Hand) (key : Nat) : Option L1Line := h.l1.find? fun l => l.sector = key

/-- Put a sector in the L1; the least recently used of its set's four ways makes room. -/
def Hand.l1Put (h : Hand) (sets : Nat) (new : L1Line) : Hand :=
  let rest := h.l1.filter fun l => l.sector ≠ new.sector
  let mine := rest.filter fun l => l.sector % sets = new.sector % sets
  let rest := if mine.length < 4 then rest else
    match mine.foldl (fun (b : Option L1Line) x =>
      match b with
      | some y => if x.used < y.used then some x else b
      | none => some x) none with
    | some v => rest.erase v
    | none => rest
  { h with l1 := rest ++ [new] }

/-- Write a loaded value into its lane registers. -/
def Hand.fillDest (h : Hand) (bytes : List Byte) (poison : Bool) (d : FillDest) : Hand :=
  let v := leAt bytes d.off d.size
  let v := if d.signed && d.size < 4 then ofSigned 32 (toSigned (8 * d.size) v) else v
  h.setLanes d.lane d.reg d.size v (poison || d.bad)

/-- Data for a Hand's outstanding sector returns: it fills every register that waits for it, and the L1 where the load
fills it, and frees the miss entry; data of an older generation is discarded (R299). -/
def State.fillMiss (s : State) (h key : Nat) (bytes : List Byte) (poison : Bool) : State :=
  match (s.hand h).misses.find? fun m => m.sector = key with
  | none => s
  | some m =>
    let kib := ((s.kernelOf h).map KernelDecl.localKib).getD 48
    let s := s.updHand h fun c => { c with misses := c.misses.filter fun x => x.sector ≠ key }
    if s.isLate m.pol m.gen m.orphan then s.late m.pol m.orphan else
    let s := if poison then s.raiseOwn .poisonRead (srcHand h) m.pol (addrDetail m.va 1) else s
    s.updHand h fun c =>
      let c := m.dests.foldl (fun c d => c.fillDest bytes poison d) c
      if m.fillL1 then c.l1Put (l1Sets kib) { sector := key, data := bytes, poison := poison, used := s.clock } else c

/-- The number that a Hand's host or remote read bears, for a sector. -/
def missSlot (key : Nat) : Nat := 2 ^ 32 + key

/-- The answer of a read from a host or another module: bytes from `off` of what was asked, each with its poison. A host's access
bears in `va` the DPA it asked for. -/
def State.deliverRead (s : State) (who : Requester) (pol gen : Nat) (orphan : Bool) (va off : Nat)
    (got : List (Byte × Bool)) : State :=
  let bad := got.any Prod.snd
  match who with
  | .porter p seq st tile idx =>
    if s.isLate pol gen orphan then s.late pol orphan else
    let s := if bad then s.raiseOwn .poisonRead (s.whoSource who).1 pol (addrDetail va 0) else s
    s.updRun p seq fun run => { run with
      streams := run.streams.upd {} st fun c =>
        let secs := ((List.range got.length).filter fun i => (got.getD i (0, false)).2).map fun i => (off + i) / 128
        { c with tiles := c.tiles.upd {} tile fun b => b.land idx (bytesAt off (got.map Prod.fst)) secs.eraseDups } }
  | .hand h slot => s.fillMiss h (slot - 2 ^ 32) (got.map Prod.fst) bad
  | .host port id =>
    let s := if s.isLate pol gen orphan then s.late pol orphan else s
    s.hostGot port id pol (bytesAt (va + off) (got.map Prod.fst)) bad false
  | _ => s

/-- Bytes that nothing gives, poisoned. (DEDUCED: log 35) -/
def State.poisonBytes (s : State) (n : Nat) : List (Byte × Bool) × State :=
  ((List.range n).map fun i => (Config.freeBits 8 (s.seed + i), true), { s with seed := s.seed + n })

/-- A host read completes with poisoned data. (DEDUCED: log 35) -/
def State.poisonHostRead (s : State) (r : HostRead) : State :=
  let (bs, s) := s.poisonBytes r.len
  s.deliverRead r.who r.pol r.gen r.orphan r.va r.off bs

end Sys2Proof.Machine
end

