-- ==== Sys2Proof/Machine/Bins.lean ====
section
/-! DEFINITION. The Bins (R165, R171, R188 to R204) and the meanings of the coherence messages: BIN_READ,
BIN_WRITE, GETS to NACK_RD, and HOLD_EXPIRY. -/

namespace Sys2Proof.Machine

open Sys2Proof

/-! ## Lines of a Bin -/

def binKey (d slot : Nat) : Nat := 2 ^ 17 * d + slot

def State.setBin (s : State) (key : Nat) (b : BinLine) : State := { s with bins := s.bins.set {} key b }

/-- A way in use: it holds a line, or accesses or an RDSEC's reply wait there for a line that was lost. -/
def BinLine.taken (b : BinLine) : Bool := b.st ≠ .i || b.rdsec ≠ 0 || !b.waits.isEmpty

/-- The way of a die's Bin that holds a polder's copy of a line. -/
def State.binFind (s : State) (d p line : Nat) : Option (Nat × BinLine) :=
  s.bins.find? fun e => e.1 / 2 ^ 17 = d && e.2.taken && e.2.line = line && e.2.pol = p

def isStable (st : BinSt) : Bool := st = .s || st = .e || st = .m || st = .o

/-- A message of a Bin to the home of a line, of the transaction `tag`. (DEDUCED: log 22) -/
def fromBin (type : MsgType) (key : Nat) (b : BinLine) (tag : Nat) : CohMsg :=
  { type := type, src := key / 2 ^ 17, dst := 8 + homeOf b.line, req := key / 2 ^ 17, pol := b.pol, line := b.line
    tag := tag, hint := b.hint }

/-- The slot of a way as a TAG: 16 x set + way. (DEDUCED: log 22) -/
def slotTag (key : Nat) : Nat := key % 2 ^ 17

/-- A request that names the set and way it fills (R190). -/
def fillMsg (type : MsgType) (key : Nat) (b : BinLine) : CohMsg :=
  { fromBin type key b (slotTag key) with set := slotTag key / 16, way := key % 16 }

/-- The way that a line of the polder takes in its partition (R165, R171): free, or one whose victim must first leave.
A line with an RDSEC or a waiting access outstanding is no victim (R196). (DEDUCED: log 22) -/
def State.binWay (s : State) (d p line : Nat) : Option Nat :=
  match s.binPart d p with
  | none => none
  | some (first, sets) =>
    let set := first + line % sets
    victim ((List.range 16).map fun w =>
      let key := binKey d (16 * set + w)
      let b := s.bins.get {} key
      (key, b.taken, b.keep || !isStable b.st || b.rdsec ≠ 0 || !b.waits.isEmpty, b.used))

/-- Lines marked keep in the set of a way. -/
def State.keptIn (s : State) (key : Nat) : Nat :=
  (s.bins.filter fun e => e.1 / 16 = key / 16 && e.2.st ≠ .i && e.2.keep).length

/-- An access under a hint (R171): a hit is promoted, but for evict-first, which clears the keep mark. -/
def hitHint (s : State) (hint : Nat) (b : BinLine) : BinLine :=
  if hint = 3 then { b with keep := false, hint := hint } else { b with used := s.clock, hint := hint }

/-- A way as it is when a line begins to fill it under a hint (R171). -/
def State.freshLine (s : State) (key p line hint : Nat) (waits : List BinWait) : BinLine :=
  { line := line, pol := p, waits := waits, hint := hint
    used := if hint = 3 then 0 else s.clock, keep := hint = 1 && s.keptIn key < 12 }

/-- An RDSEC's TAG, which no GETS or GETM bears. (DEDUCED: log 22) -/
def rdsecTag : Nat := 2 ^ 17

/-! ### Accesses of the die (R174, R196) -/

/-- Write bytes into a line held E or M; the line is then M (R196). A run of dead stores begins upon what its sectors
hold, and a write without the dead hint ends it (R172, R173). (DEDUCED: log 62) -/
def BinLine.store (b : BinLine) (w : BinWait) : BinLine :=
  let t := touched w.write
  let begun := if w.dead then t &&& ~~~b.dead &&& b.dirty else 0
  { b with
    st := .m, data := patch b.data w.write, valid := b.valid ||| t, dirty := b.dirty ||| t
    poison := poisonAfter b.poison w.write w.poison, dead := deadAfter b.dead w.write w.dead
    kept := if w.dead then b.kept ||| begun else b.kept &&& ~~~t
    keptPoison := if w.dead then b.keptPoison ||| (b.poison &&& begun) else b.keptPoison &&& ~~~t
    before := if w.dead then patch b.before ((maskOffs begun).map fun o => (o, b.data.get 0 o))
      else b.before.filter fun e => !inMask t e.1 }

/-- A line as a store without the dead hint finds it: a sector that it gives in part keeps no data of dead stores. -/
def BinLine.before_ (b : BinLine) (w : BinWait) : BinLine := if w.dead then b else b.settle (partSectors w.write)

/-- Whether a line serves an access at once (R196). -/
def BinLine.hits (b : BinLine) (w : BinWait) : Bool :=
  if w.write.isEmpty then isStable b.st && w.read &&& ~~~b.valid = 0
  else (b.st = .e || b.st = .m) && partSectors w.write &&& ~~~(b.before_ w).valid = 0

/-- A store of the Hand that the Bin has accepted for a sector and not yet performed. (DEDUCED: log 46) -/
def State.unwonAt (s : State) (h key : Nat) : Bool :=
  s.bins.any fun e => e.2.line = key / 8 && e.2.waits.any fun w => w.hand = h && (touched w.write).getLsbD (key % 8)

/-- Loads of the die's Hands that wait for sectors of a line are performed: their data is on its way to them, and each that a
sector with a dead mark serves is counted (R173, R199). -/
def State.capture (s : State) (key : Nat) (b : BinLine) (secs : BitVec 8) : State :=
  (bitsOf 8 secs.toNat).foldl (fun s o =>
    let sector := 8 * b.line + o
    let waits := fun (x : MissEntry) => x.sector = sector && x.pol = b.pol && x.got.isNone
    let data := (List.range 128).map fun j => b.data.get 0 (128 * o + j)
    let hs := s.hands.filter fun e => e.1 / 1024 = key / 2 ^ 17 && e.2.misses.any waits && !s.unwonAt e.1 sector
    hs.foldl (fun s e => (s.updHand e.1 fun c => { c with
      misses := c.misses.map fun x => if waits x then { x with got := some (data, b.poison.getLsbD o) } else x }).countDead
        b.pol (b.dead.getLsbD o)) s) s

/-- Serve the waiting accesses of a line in their order, as far as its state and its sectors allow. -/
def State.serveHits (s : State) (key : Nat) : Nat → State
  | 0 => s
  | fuel + 1 =>
    let b := s.bins.get {} key
    match b.waits with
    | [] => s
    | w :: ws =>
      if !b.hits w then s
      else if w.write.isEmpty then
        ((s.setBin key { hitHint s w.hint b with waits := ws }).capture key b w.read).serveHits key fuel
      else
        ((s.setBin key { hitHint s w.hint ((b.before_ w).store w) with waits := ws }).updHand w.hand fun h =>
          { h with unwon := h.unwon - 1 }).serveHits key fuel

/-- Ask for sectors of a held line, under a tracker (R180, R196). -/
def State.askRdsec (s : State) (key : Nat) (b : BinLine) (need : BitVec 8) : State :=
  let ask := need &&& ~~~b.valid &&& ~~~b.rdsec
  if ask = 0 || !s.trackerFree (homeOf b.line) b.pol then s else
  ((s.takeTracker (homeOf b.line) b.pol (key / 2 ^ 17)).send
    { fromBin .rdsec key b (rdsecTag + slotTag key) with need := ask }).setBin key { b with rdsec := b.rdsec ||| ask }

/-- Ask for read permission. -/
def State.askGets (s : State) (key : Nat) (b : BinLine) (need : BitVec 8) : State :=
  (s.send { fillMsg .gets key b with need := need }).setBin key { b with st := .isAD, need := need }

/-- Ask for write permission: NEED the sectors it lacks, USE those it holds (R191). -/
def State.askGetm (s : State) (key : Nat) (b : BinLine) (parts : BitVec 8) : State :=
  let st : BinSt := match b.st with
    | .s => .smAD
    | .o => .omAD
    | _ => .imAD
  let need := parts &&& ~~~b.valid
  (s.send { fillMsg .getm key b with need := need, cover := parts &&& b.valid }).setBin key { b with st := st, need := need }

/-- Ask for what the oldest waiting access of a line needs; where no tracker is free, it waits for one (R180). -/
def State.askNext (s : State) (key : Nat) : State :=
  let b := s.bins.get {} key
  let tracked := fun (f : State → State) =>
    if s.trackerFree (homeOf b.line) b.pol then f (s.takeTracker (homeOf b.line) b.pol (key / 2 ^ 17)) else s
  match b.waits with
  | [] => if b.st = .i && b.rdsec = 0 then s.setBin key {} else s
  | w :: _ =>
    if b.st = .i then
      if b.rdsec ≠ 0 then s else
      tracked fun s => if w.write.isEmpty then s.askGets key b w.read else s.askGetm key b (partSectors w.write)
    else if !isStable b.st || b.hits w then s
    else if w.write.isEmpty then s.askRdsec key b w.read
    else if b.st = .e || b.st = .m then s.askRdsec key (b.before_ w) (partSectors w.write)
    else tracked fun s => s.askGetm key b (partSectors w.write)

/-- The waiting accesses of a line go on as far as they can. -/
def State.serveWaits (s : State) (key : Nat) : State := (s.serveHits key (s.bins.get {} key).waits.length).askNext key

/-- A copy is given up: its way is free, unless accesses wait for the line, or an RDSEC's reply is outstanding. -/
def State.giveUp (s : State) (key : Nat) : State :=
  let b := s.bins.get {} key
  (s.setBin key { s.freshLine key b.pol b.line ((b.waits.head?.map BinWait.hint).getD 0) b.waits with rdsec := b.rdsec }).askNext key

/-! ### Answers to the home and the owner (R197 to R200) -/

/-- Supply REQ by way of the home with the sectors asked for and every dirty one, and tell the home (R192, R197). The
data of dead stores stays behind. (DEDUCED: log 35; DEDUCED: log 62) -/
def State.supply (s : State) (m : CohMsg) (key : Nat) (b : BinLine) (ack : Nat) : State :=
  let cov := (m.need &&& b.valid) ||| b.dirty
  (s.send { fromBin .dataF key b m.tag with
    req := m.req, cover := cov, mark := b.dirty
    poison := b.poison &&& cov, data := (maskOffs cov).map fun o => (o, b.data.get 0 o) }).send
    { fromBin .fwdAck key b m.tag with req := m.req, st := ack, cover := cov }

def State.wbCross (s : State) (m : CohMsg) (key : Nat) (b : BinLine) : State :=
  (s.send (fromBin .wbCross key b m.tag)).updMill m.dst fun c => { c with wbCrosses := satAdd 0xFFFF c.wbCrosses 1 }

/-- A Bin without the line answers an INV or a RECALL all the same (R197, state I). -/
def State.ackFor (s : State) (m : CohMsg) (type : MsgType) : State :=
  s.send { type := type, src := m.dst, dst := m.src, req := m.dst, pol := m.pol, line := m.line, tag := m.tag }

/-- What a Bin does on a forward, an INV or a RECALL, once the line's hold is over (R197). -/
def State.answerMsg (s : State) (m : CohMsg) : State :=
  match s.binFind m.dst m.pol m.line with
  | none =>
    match m.type with
    | .inv => s.ackFor m .invAck
    | .recall => s.ackFor m .recallAck
    | _ => s
  | some (key, b0) =>
    if isPutWait b0.st then (if m.type = .inv then s else s.wbCross m key b0) else
    let b := b0.settle 0xFF
    match m.type with
    | .fwdGets =>
      match b.st with
      | .e => (s.supply m key b 1).setBin key { b with st := .s }
      | .m => (s.supply m key b 4).setBin key { b with st := .o }
      | .o | .omAD | .omA | .omD => (s.supply m key b 4).setBin key b
      | _ => s
    | .fwdGetm =>
      match b.st with
      | .e | .m | .o => (s.supply m key b 0).giveUp key
      | .omAD | .omA | .omD => (s.supply m key b 0).setBin key (lostCopy b)
      | _ => s
    | .inv =>
      let s := s.send (fromBin .invAck key b m.tag)
      match b.st with
      | .s => s.giveUp key
      | .smAD | .smA | .smD => s.setBin key (lostCopy b)
      | _ => s
    | .recall =>
      let ack := fromBin .recallAck key b m.tag
      let s := s.send (if isOwning b.st && m.st ≠ 2 then carryDirty ack b0 else ack)
      let clean := { b with dirty := 0 }
      match b.st with
      | .s | .e => if m.st = 0 then s else s.giveUp key
      | .m => if m.st = 0 then s.setBin key { clean with st := .e } else s.giveUp key
      | .o => if m.st = 0 then s.setBin key { clean with st := .s } else s.giveUp key
      | .smAD | .smA | .smD => if m.st = 0 then s else s.setBin key (lostCopy b)
      | .omAD | .omA | .omD => if m.st = 0 then s.setBin key { clean with st := .smAD } else s.setBin key (lostCopy b)
      | _ => s
    | _ => s

/-! ### Victims and misses (R163, R196) -/

/-- Evict a victim (R196): S is dropped without a message, E, M and O send their put, under a tracker. Messages that waited for
the line's hold are answered as the state now has it (R199, R200). -/
def State.evict (s : State) (key : Nat) (b : BinLine) : State :=
  let put := fun (m : CohMsg) (st : BinSt) =>
    ((s.takeTracker (homeOf b.line) b.pol (key / 2 ^ 17)).send m).setBin key { b with st := st, held := [] }
  let s := match b.st with
    | .s => s.setBin key {}
    | .e => put (fromBin .pute key b (slotTag key)) .eiA
    | .m => put (carryDirty (fromBin .putm key b (slotTag key)) b) .miA
    | .o => put (carryDirty (fromBin .puto key b (slotTag key)) b) .oiA
    | _ => s
  b.held.foldl State.answerMsg s

/-- An access with no line in the Bin: take a way, evicting its victim first; none where it must wait for a way or a
tracker. -/
def State.binMiss (s : State) (d p line : Nat) (w : BinWait) : Option State :=
  match s.binWay d p line with
  | none => none
  | some key =>
    let old := s.bins.get {} key
    if old.st = .e || old.st = .m || old.st = .o then
      if s.trackerFree (homeOf old.line) old.pol then some (s.evict key old) else none
    else if !s.trackerFree (homeOf line) p then none
    else
      let s := s.evict key old
      some ((s.setBin key (s.freshLine key p line w.hint [w])).askNext key)

/-- A read at a Bin (R196): a hit, or GETS or RDSEC; in a transient state the read waits and is merged (R174). -/
def State.binRead (s : State) (d p line : Nat) (need : BitVec 8) (hint : Nat) : State :=
  if (s.mill d).fenced || s.homeFenced line || !(s.region (line * 1024)).isMem then s else
  let w : BinWait := { read := need, hint := hint, gen := (s.pol p).gen }
  match s.binFind d p line with
  | some (key, b) =>
    if isPutWait b.st then s
    else (s.setBin key { b with waits := b.waits ++ [w] }).serveWaits key
  | none => (s.binMiss d p line w).getD s

/-- BIN_READ (R196). -/
def execBinRead (d : Die) (p : Pol) (line : Nat) (need : BitVec 8) (hint : Nat) (s : State) : Out :=
  .next (s.binRead d.val p.val line need hint)

/-! ## Messages at the home (R194, R195) -/

/-- The home no longer hears a fenced die's Bin (R205), and a fenced Keel hears nothing (R206). -/
def State.deaf (s : State) (m : CohMsg) : Bool :=
  (s.keel (homeOf m.line)).fenced || (s.keel (homeOf m.line)).fencedBins.getLsbD m.src

/-- Take a message of the given type out of those in flight and let a home act on it. (DESIGN CHOICE: log 60) -/
def State.atHome (s : State) (t : MsgType) (m : CohMsg) (f : State → State) : State :=
  match s.receive m with
  | none => s
  | some s' => if m.type ≠ t then s else if s'.deaf m then s' else f s'

/-- A put: a crossing put of the line's transaction, or a request (R193, R195). -/
def State.put (s : State) (m : CohMsg) : State :=
  let t := s.txn m.line
  if s.busy m.line && (t.busy = .a || t.busy = .r) && t.sent.contains (m.src, m.pol) then
    let s := s.takePut m
    (s.setTxn m.line { t with
      sent := t.sent.erase (m.src, m.pol), awaitPut := t.awaitPut.erase (m.src, m.pol) }).lastAnswer m.line
  else s.request m.line (.coh m)

def execGets (m : CohMsg) (s : State) : Out := .next (s.atHome .gets m fun s => s.request m.line (.coh m))
def execGetm (m : CohMsg) (s : State) : Out := .next (s.atHome .getm m fun s => s.request m.line (.coh m))
def execRdsec (m : CohMsg) (s : State) : Out := .next (s.atHome .rdsec m fun s => s.request m.line (.coh m))
def execPute (m : CohMsg) (s : State) : Out := .next (s.atHome .pute m fun s => s.put m)
def execPutm (m : CohMsg) (s : State) : Out := .next (s.atHome .putm m fun s => s.put m)
def execPuto (m : CohMsg) (s : State) : Out := .next (s.atHome .puto m fun s => s.put m)
def execDone (m : CohMsg) (s : State) : Out := .next (s.atHome .done m fun s => s.doneAt m)
def execInvAck (m : CohMsg) (s : State) : Out := .next (s.atHome .invAck m fun s => s.answered m id)

/-- FWD_ACK: the owner's new state and COVER are recorded. -/
def execFwdAck (m : CohMsg) (s : State) : Out :=
  .next (s.atHome .fwdAck m fun s => s.answered m fun t =>
    { t with ownerNew := some m.st, cover := m.cover, sent := t.sent.erase (m.src, m.pol) })

/-- WB_CROSS: the owner has left; COVER is empty, and the home waits for the crossing put unless it has landed
(R195, R200). -/
def execWbCross (m : CohMsg) (s : State) : Out :=
  .next (s.atHome .wbCross m fun s => s.answered m fun t =>
    { t with
      cover := 0
      awaitPut := if t.sent.contains (m.src, m.pol) then t.awaitPut ++ [(m.src, m.pol)] else t.awaitPut })

/-- RECALL_ACK: the sectors carried are written, the dead marks set (R195). -/
def execRecallAck (m : CohMsg) (s : State) : Out :=
  .next (s.atHome .recallAck m fun s =>
    if (s.txn m.line).await.contains (m.src, m.pol) then
      (s.land_ m).answered m fun t => { t with sent := t.sent.erase (m.src, m.pol) }
    else s)

/-! ## Messages at a Bin (R197 to R200) -/

/-- The transaction completes when the GRANT and every sector it announces have arrived: the sectors are
installed, the waiting accesses performed, DONE sent, and the hold begins (R197, R199). -/
def State.tryComplete (s : State) (key : Nat) : State :=
  let b := s.bins.get {} key
  match b.grant with
  | none => s
  | some (st, cover, need) =>
    if cover &&& ~~~b.gotF ≠ 0 || need &&& ~~~b.got ≠ 0 then s else
    let inst := (cover ||| need) &&& ~~~(b.dirty)
    let dirtyF := if st = 3 then cover &&& b.mark else 0
    -- a copy granted M with nothing dirty is E's equal until its store is performed
    let s := s.setBin key { b with
      st := if st = 1 then .s else if st = 2 then .e else .m
      valid := b.valid ||| inst
      dirty := b.dirty ||| (dirtyF &&& inst)
      poison := (b.poison &&& ~~~inst) ||| (b.bufPoison &&& inst)
      data := patch b.data ((b.buf.filter fun e => inMask inst e.1))
      need := 0, grant := none, got := 0, gotF := 0, bufPoison := 0, mark := 0, buf := [] }
    let s := s.serveHits key b.waits.length
    let b := s.bins.get {} key
    ((s.send (fromBin .done key b (slotTag key))).setBin key { b with
      holdUntil := s.clock + 16 * (s.mill (key / 2 ^ 17)).hold }).askNext key

/-- The transient that follows when the GRANT or data arrives first (R189). -/
def afterGrant : BinSt → BinSt
  | .isAD => .isD
  | .imAD => .imD
  | .smAD => .smD
  | .omAD => .omD
  | st => st

def afterData : BinSt → BinSt
  | .isAD => .isA
  | .imAD => .imA
  | .smAD => .smA
  | .omAD => .omA
  | st => st

def isCollecting (st : BinSt) : Bool := !isStable st && !isPutWait st && st ≠ .i

/-- The way that a transaction's message names by its TAG, if it still holds the line. -/
def State.taggedBin (s : State) (m : CohMsg) : Option (Nat × BinLine) :=
  let key := binKey m.dst (m.tag % rdsecTag)
  let b := s.bins.get {} key
  if b.taken && b.line = m.line then some (key, b) else none

/-- Take a message of the given type and let the Bin act on it; a fenced die's Bin is silent. (DESIGN CHOICE: log 60)
-/
def State.atBin (s : State) (t : MsgType) (m : CohMsg) (f : State → State) : State :=
  match s.receive m with
  | none => s
  | some s' => if m.type ≠ t || 8 ≤ m.dst then s else if (s.mill m.dst).fenced then s' else f s'

/-- GRANT (R197). -/
def execGrant (m : CohMsg) (s : State) : Out :=
  .next (s.atBin .grant m fun s =>
    match s.taggedBin m with
    | some (key, b) =>
      if isCollecting b.st then
        (s.setBin key { b with grant := some (m.st, m.cover, m.need), st := afterGrant b.st }).tryComplete key
      else s
    | none => s)

/-- An RDSEC's reply for a line that was lost meanwhile serves the reads that waited for it, and is dropped; the accesses
behind them ask for the line (R196). -/
def State.serveLost (s : State) (key : Nat) (b : BinLine) (m : CohMsg) (secs : BitVec 8) : State :=
  let s := s.setBin key { b with
    rdsec := b.rdsec &&& ~~~secs
    waits := b.waits.dropWhile fun w => w.write.isEmpty && w.read &&& ~~~secs = 0 }
  (s.capture key { line := b.line, pol := b.pol, data := patch [] m.data, poison := m.poison } secs).askNext key

/-- Data for a collecting line is buffered; in a stable state it is an RDSEC's reply, which fills the sectors
still invalid (R196, R197). -/
def State.binData (s : State) (m : CohMsg) (secs : BitVec 8) (fromOwner : Bool) : State :=
  match s.taggedBin m with
  | none => s
  | some (key, b) =>
    if isCollecting b.st && m.tag < rdsecTag then
      (s.setBin key { b with
        st := afterData b.st
        got := if fromOwner then b.got else b.got ||| secs
        gotF := if fromOwner then b.gotF ||| secs else b.gotF
        bufPoison := (b.bufPoison &&& ~~~secs) ||| (m.poison &&& secs)
        mark := if fromOwner then b.mark ||| (m.mark &&& secs) else b.mark
        buf := patch b.buf m.data }).tryComplete key
    else if m.tag < rdsecTag then s
    else
    let s := s.freeTracker (homeOf m.line) b.pol m.dst
    if isStable b.st then
      let inst := secs &&& ~~~b.valid
      (s.setBin key { b with
        valid := b.valid ||| inst, rdsec := b.rdsec &&& ~~~secs
        poison := (b.poison &&& ~~~inst) ||| (m.poison &&& inst)
        data := patch b.data (m.data.filter fun e => inMask inst e.1) }).serveWaits key
    else s.serveLost key b m secs

def execDataH (m : CohMsg) (s : State) : Out := .next (s.atBin .dataH m fun s => s.binData m m.need false)

/-- DATA_F: it goes up to the home in the owner's stint, and down to the requester in the requester's (R192). -/
def execDataF (m : CohMsg) (s : State) : Out :=
  .next (if 8 ≤ m.dst then s.atHome .dataF m fun s => s.send { m with dst := m.req }
    else s.atBin .dataF m fun s => s.binData m m.cover true)

/-- PUT_ACK: the put has landed, and the way is free (R197). -/
def execPutAck (m : CohMsg) (s : State) : Out :=
  .next (s.atBin .putAck m fun s =>
    match s.taggedBin m with
    | some (key, b) =>
      if isPutWait b.st then
        b.held.foldl State.answerMsg ((s.setBin key {}).freeTracker (homeOf m.line) b.pol m.dst)
      else s
    | none => s)

/-- NACK_RD: the Bin was not listed, and asks with GETS, under the same tracker (R197). -/
def execNackRd (m : CohMsg) (s : State) : Out :=
  .next (s.atBin .nackRd m fun s =>
    let s := s.updMill m.dst fun c => { c with nacks := satAdd 0xFFFF c.nacks 1 }
    let key := binKey m.dst (m.tag % rdsecTag)
    let b := s.bins.get {} key
    if b.line = m.line && b.st = .i && b.rdsec ≠ 0 then s.askGets key { b with rdsec := 0, valid := 0 } b.rdsec
    else s)

/-- A message that takes or shares the line waits until the hold has passed; a RECALL with MODE CLEAN does not
(R199). -/
def State.forwarded (s : State) (m : CohMsg) : State :=
  match s.binFind m.dst m.pol m.line with
  | some (key, b) =>
    if s.clock < b.holdUntil && !(m.type = .recall && m.st = 0) then
      (s.setBin key { b with held := b.held ++ [m] }).updMill m.dst fun c =>
        { c with holdWaits := satAdd 0xFFFF c.holdWaits 1 }
    else s.answerMsg m
  | none => s.answerMsg m

def execFwdGets (m : CohMsg) (s : State) : Out := .next (s.atBin .fwdGets m fun s => s.forwarded m)
def execFwdGetm (m : CohMsg) (s : State) : Out := .next (s.atBin .fwdGetm m fun s => s.forwarded m)
def execInv (m : CohMsg) (s : State) : Out := .next (s.atBin .inv m fun s => s.forwarded m)
def execRecall (m : CohMsg) (s : State) : Out := .next (s.atBin .recall m fun s => s.forwarded m)

/-- HOLD_EXPIRY (R199): the hold has passed, and the messages that waited are answered. -/
def execHoldExpiry (d : Die) (line : Nat) (p : Pol) (s : State) : Out :=
  .next <|
    match s.binFind d p line with
    | some (key, b) =>
      if s.clock < b.holdUntil then s else
      b.held.foldl (fun s m => s.answerMsg m) (s.setBin key { b with held := [] })
    | none => s

end Sys2Proof.Machine
end

