-- ==== Sys2Proof/Machine/Crypto.lean ====
section
/-! DEFINITION. SHAKE256 (FIPS 202, R330 and R331), Philox4x32-10 (R116) and the CRC-64 of a flit (R253). -/

namespace Sys2Proof.Crypto

open Sys2Proof

/-! ## The sponge of FIPS 202: 25 words, the one of column x and plane y at 5y + x -/

/-- The shift register of FIPS 202 algorithm 5 after t steps from 1: its bit 0 is rc(t). -/
def feedback : Nat → Nat
  | 0 => 1
  | t + 1 => let r := 2 * feedback t; if 256 ≤ r then r ^^^ 0x171 else r

/-- The constant of round i: bit 2^j - 1 is rc(7i + j). -/
def iota (i : Nat) : Nat := ((List.range 7).map fun j => feedback (7 * i + j) % 2 * 2 ^ (2 ^ j - 1)).sum

/-- The walk of rho and pi (FIPS 202, 3.2.2 and 3.2.3), n steps of it from step t at column x and plane y: the word
that a word moves to, the word, and its rotation. -/
def walk : Nat → Nat → Nat → Nat → List (Nat × Nat × Nat)
  | 0, _, _, _ => []
  | n + 1, t, x, y =>
    let y' := (2 * x + 3 * y) % 5
    (5 * y' + y, 5 * y + x, (t + 1) * (t + 2) / 2 % 64) :: walk n (t + 1) y y'

/-- Where each word of a round's state comes from, and its rotation; the word (0, 0) stays. -/
def moves : List (Nat × Nat) :=
  let w := walk 24 0 1 0
  (List.range 25).map fun i =>
    match w.find? fun e => e.1 = i with
    | some e => e.2
    | none => (0, 0)

/-- The parity of each column. -/
def columns (a : List (BitVec 64)) : List (BitVec 64) :=
  (chunks 5 5 a).foldl (fun c row => (c.zip row).map fun e => e.1 ^^^ e.2) (List.replicate 5 0)

/-- A row after chi. -/
def mixRow (r : List (BitVec 64)) : List (BitVec 64) :=
  (r.zip ((r.drop 1 ++ r.take 1).zip (r.drop 2 ++ r.take 2))).map fun e => e.1 ^^^ (~~~e.2.1 &&& e.2.2)

/-- One round with its constant. -/
def spongeRound (a : List (BitVec 64)) (k : Nat) : List (BitVec 64) :=
  let c := columns a
  let d := ((c.drop 4 ++ c.take 4).zip (c.drop 1 ++ c.take 1)).map fun e => e.1 ^^^ e.2.rotateLeft 1
  let flat := (chunks 5 5 a).flatMap fun row => (row.zip d).map fun e => e.1 ^^^ e.2
  let moved := moves.map fun m => (flat.getD m.1 0).rotateLeft m.2
  match (chunks 5 5 moved).flatMap mixRow with
  | [] => []
  | w :: rest => (w ^^^ BitVec.ofNat 64 k) :: rest

/-- The permutation: 24 rounds. -/
def permute (a : List (BitVec 64)) : List (BitVec 64) := ((List.range 24).map iota).foldl spongeRound a

/-- A block of 136 bytes enters the first 17 words. -/
def absorb (a : List (BitVec 64)) (block : List Byte) : List (BitVec 64) :=
  permute ((a.zip ((chunks 8 17 block).map leNat ++ List.replicate 8 0)).map fun e => e.1 ^^^ BitVec.ofNat 64 e.2)

/-- The message in whole blocks of 136 bytes: SHAKE's suffix 1111, then 10*1. -/
def padded (m : List Byte) : List Byte :=
  let gap := 135 - m.length % 136
  if gap = 0 then m ++ [0x9F] else m ++ [0x1F] ++ List.replicate (gap - 1) 0 ++ [0x80]

/-- SHAKE256 with 64 bytes of output. -/
def shake256 (m : List Byte) : List Byte :=
  let p := padded m
  let a := (chunks 136 (p.length / 136) p).foldl absorb (List.replicate 25 0)
  (List.range 8).flatMap fun i => leBytes 8 (a.getD i 0).toNat

/-! ## Philox4x32-10 -/

structure PhiloxCtr where
  c0 : Nat
  c1 : Nat
  c2 : Nat
  c3 : Nat
deriving DecidableEq, Repr

/-- Ten rounds with the key words k0 and k1. -/
def philox : Nat → Nat → Nat → PhiloxCtr → PhiloxCtr
  | 0, _, _, c => c
  | n + 1, k0, k1, c =>
    let p0 := 0xD2511F53 * c.c0
    let p1 := 0xCD9E8D57 * c.c2
    let c' : PhiloxCtr :=
      ⟨((p1 / 2 ^ 32) ^^^ c.c1) ^^^ k0, p1 % 2 ^ 32, ((p0 / 2 ^ 32) ^^^ c.c3) ^^^ k1, p0 % 2 ^ 32⟩
    philox n ((k0 + 0x9E3779B9) % 2 ^ 32) ((k1 + 0xBB67AE85) % 2 ^ 32) c'

/-- The generator of R116 under a 64-bit key, low word first. -/
def philox10 (key : Nat) (c0 c1 c2 c3 : Nat) : PhiloxCtr :=
  philox 10 (key % 2 ^ 32) (key / 2 ^ 32 % 2 ^ 32) ⟨c0 % 2 ^ 32, c1 % 2 ^ 32, c2 % 2 ^ 32, c3 % 2 ^ 32⟩

/-- Output word i of the generator. -/
def philoxWord (key c0 c1 c2 c3 i : Nat) : Nat :=
  let r := philox10 key c0 c1 c2 c3
  match i % 4 with
  | 0 => r.c0
  | 1 => r.c1
  | 2 => r.c2
  | _ => r.c3

/-! ## CRC-64 with the ECMA-182 polynomial, from 0, most significant bit first -/

def crcBit : BitVec 64 → BitVec 64 := fun c =>
  if c.getMsbD 0 then (c <<< 1) ^^^ 0x42F0E1EBA9EA3693 else c <<< 1

def crcByte (c : BitVec 64) (b : Byte) : BitVec 64 :=
  (List.range 8).foldl (fun c _ => crcBit c) (c ^^^ (b.setWidth 64 <<< 56))

def crc64 (bs : List Byte) : BitVec 64 := bs.foldl crcByte 0

end Sys2Proof.Crypto
end

