-- ==== Sys2Proof/Machine/Flits.lean ====
section
/-! DEFINITION. Flits, transactions and link-band messages of Zelpel Link (R251 to R265): their bytes, the assembly of
transactions, what becomes of an incoming transaction, and a port that stops. -/

namespace Sys2Proof.Machine

open Sys2Proof

/-- A schedule runs: a manifest of it has started and is not suspended. -/
def State.scheduleRuns (s : State) (p i : Nat) : Bool :=
  (s.pol p).running.any fun e => e.2.m.schedule = i && !e.2.suspended

/-! ## Flits (R252, R253) -/

/-- A flit: its header with CHECK, and chunks 1 to 7. -/
def flitBytes (kind version seq ack : Nat) (nak : Option Nat) (tide slot : Nat) (body : List Byte) : List Byte :=
  let head := leBytes 1 kind ++ leBytes 1 version ++ leBytes 2 seq ++ leBytes 2 ack
    ++ leBytes 2 (match nak with
      | some n => 2 ^ 15 + n
      | none => 0) ++ leBytes 4 (tide % 2 ^ 32) ++ leBytes 2 slot ++ leBytes 10 0
  let b := slice body 0 224
  head ++ leBytes 8 (Crypto.crc64 (head ++ b)).toNat ++ b

def flitKind (f : List Byte) : Nat := leAt f 0 1
def flitSeq (f : List Byte) : Nat := leAt f 2 2 % 4096
def flitAck (f : List Byte) : Nat := leAt f 4 2 % 4096
def flitNak (f : List Byte) : Option Nat := if (leAt f 6 2).testBit 15 then some (leAt f 6 2 % 4096) else none
def flitTide (f : List Byte) : Nat := leAt f 8 4
def flitSlot (f : List Byte) : Nat := leAt f 12 2

/-- CHECK holds. -/
def flitCheck (f : List Byte) : Bool :=
  f.length = 256 && leAt f 24 8 = (Crypto.crc64 (slice f 0 24 ++ slice f 32 224)).toNat

/-- Reserved fields are 0, KIND and VERSION are not reserved. (DEDUCED: log 51) -/
def flitFieldsOk (f : List Byte) : Bool :=
  flitKind f ≤ 4 && (leAt f 1 1 = 2 || leAt f 1 1 = 3) && leAt f 2 2 < 4096 && leAt f 4 2 < 4096
    && leAt f 6 2 % 2 ^ 15 < 4096 && allZero (slice f 14 10)

/-- Chunks 1 to 7. -/
def flitChunks (f : List Byte) : List (List Byte) := (List.range 7).map fun i => slice f (32 + 32 * i) 32

/-! ## Link-band messages (R265) -/

def bandBytes (module_ : Nat) (b : BandMsg) : List Byte :=
  let body := fun (type : Nat) (rest : List Byte) => leBytes 1 type ++ leBytes 1 0 ++ leBytes 2 module_ ++ leBytes 4 0 ++ slice rest 0 24
  match b with
  | .almSync t1 hops => body 1 (leBytes 8 t1 ++ leBytes 1 hops)
  | .almReq t2 t3 => body 2 (leBytes 8 t2 ++ leBytes 8 t3)
  | .almResp t1 t4 => body 3 (leBytes 8 t1 ++ leBytes 8 t4)
  | .report lateness commons => body 4 (leBytes 4 lateness ++ leBytes 2 commons)
  | .offer watts epoch commons => body 5 (leBytes 2 watts ++ leBytes 2 epoch ++ leBytes 2 commons)
  | .take watts epoch commons => body 6 (leBytes 2 watts ++ leBytes 2 epoch ++ leBytes 2 commons)
  | .notice job schedule reason dstPol tide =>
    body 7 (leBytes 2 job ++ leBytes 2 schedule ++ leBytes 1 reason ++ leBytes 1 dstPol ++ leBytes 2 0 ++ leBytes 8 tide)

/-- The sender and the message; none of a reserved type. -/
def parseBand (c : List Byte) : Option (Nat × BandMsg) :=
  let msg : Option BandMsg := match leAt c 0 1 with
    | 1 => some (.almSync (leAt c 8 8) (leAt c 16 1))
    | 2 => some (.almReq (leAt c 8 8) (leAt c 16 8))
    | 3 => some (.almResp (leAt c 8 8) (leAt c 16 8))
    | 4 => some (.report (leAt c 8 4) (leAt c 12 2))
    | 5 => some (.offer (leAt c 8 2) (leAt c 10 2) (leAt c 12 2))
    | 6 => some (.take (leAt c 8 2) (leAt c 10 2) (leAt c 12 2))
    | 7 => some (.notice (leAt c 8 2) (leAt c 10 2) (leAt c 12 1) (leAt c 13 1) (leAt c 16 8))
    | _ => none
  msg.map fun m => (leAt c 2 2 % 1024, m)

/-! ## Transactions in their flits (R260) -/

def parseTxn (h : List Byte) (data : List Byte) : Txn :=
  { op := leAt h 0 1, chunks := leAt h 1 1, srcModule := leAt h 2 2 % 1024, dstModule := leAt h 4 2 % 1024
    srcPol := leAt h 6 1, dstPol := leAt h 7 1, srcGen := leAt h 8 1, hint := leAt h 9 1
    counted := (leAt h 10 2).testBit 15, tally := leAt h 10 2 % 4096, poison := BitVec.ofNat 32 (leAt h 12 4)
    offset := leAt h 16 6, job := leAt h 22 2, tag := leAt h 24 4, data := data }

/-- Data chunks that follow a header. -/
def dataChunks (h : List Byte) : Nat := if leAt h 0 1 = 1 || leAt h 0 1 = 3 then leAt h 1 1 else 0

/-- Whole transactions at the front of a stint's chunks, and what is left; a chunk that is no header is filling.
(DEDUCED: log 51) -/
def cutTxns : Nat → List (List Byte) → List Txn × List (List Byte)
  | 0, cs => ([], cs)
  | _, [] => ([], [])
  | fuel + 1, h :: rest =>
    let op := leAt h 0 1
    if op = 0 || 4 < op then cutTxns fuel rest
    else if rest.length < dataChunks h then ([], h :: rest)
    else
      let r := cutTxns fuel (rest.drop (dataChunks h))
      (parseTxn h (rest.take (dataChunks h)).flatten :: r.1, r.2)

/-- The record of the link slot table that owns a slot of a port. (DEDUCED: log 50) -/
def State.slotOwner (s : State) (n slot : Nat) : Option Nat :=
  ((s.img.map Image.links).getD []).findIdx? fun r => r.port = n && r.slotFirst ≤ slot && slot < r.slotFirst + r.slotCount

/-- A data flit in SEQ order: its chunks join those of its stint. -/
def State.joinFlit (s : State) (n : Nat) (f : List Byte) : State :=
  let key := (s.slotOwner n (flitSlot f)).getD 65535
  s.updLink n fun l =>
    let cs := l.partialTxn.get [] key ++ flitChunks f
    let r := cutTxns cs.length cs
    { l with partialTxn := l.partialTxn.set [] key r.2, arrived := l.arrived ++ r.1 }

/-- Flits in SEQ order, as far as they have come. -/
def State.assemble (s : State) (n : Nat) : Nat → State
  | 0 => s
  | fuel + 1 =>
    let l := s.link n
    match l.asm.find? fun e => e.1 = l.asmNext with
    | none => s
    | some e =>
      let s := s.updLink n fun l => { l with
        asm := l.asm.filter fun x => x.1 ≠ e.1, asmNext := (l.asmNext + 1) % 4096 }
      (if e.2.isEmpty then s else s.joinFlit n e.2).assemble n fuel

/-- A flit that was read from the receive quay, or a link-band flit (no bytes). -/
def State.addFlit (s : State) (n seq : Nat) (f : List Byte) : State :=
  let s := s.updLink n fun l => { l with asm := l.asm ++ [(seq, f)] }
  s.assemble n (s.link n).asm.length

def State.takeFlit (s : State) (n : Nat) (f : List Byte) : State := s.addFlit n (flitSeq f) f

/-! ## A port that stops -/

/-- Detail of a port event: the port, the peer module (R273). -/
def portDetail (n peer : Nat) : List Byte := leBytes 2 n ++ leBytes 2 peer

/-- READs not answered complete with FENCED_TARGET and poisoned data (R264). -/
def State.failReads (s : State) (n : Nat) : State :=
  let rs := (s.link n).reads
  let s := s.updLink n fun l => { l with reads := [] }
  rs.foldl (fun s r =>
    let (src, eng) := s.whoSource r.who
    let (bs, s) := s.poisonBytes (32 * r.chunks)
    let s := if s.isLate r.pol r.gen r.orphan then s else s.raiseOwn .fencedTarget src r.pol (addrDetail r.va eng)
    s.deliverRead r.who r.pol r.gen r.orphan r.va 0 bs) s

/-- Whether the link slot table uses a port. -/
def State.portUsed (s : State) (n : Nat) : Bool := ((s.img.map Image.links).getD []).any fun r => r.port = n

/-- Note since when a port that the table uses is unfit (R250). (DEDUCED: log 52) -/
def State.refit (s : State) (n : Nat) : State :=
  let unfit := s.portUsed n && !s.fit n
  s.updLink n fun l => { l with
    unfitSince := if unfit then (if l.unfitSince.isSome then l.unfitSince else some s.clock) else none }

/-- What a port that stops, or trains, forgets: its flits both ways. -/
def LinkPort.restart (l : LinkPort) : LinkPort :=
  { l with
    txSeq := 0, replay := [], rxNext := 0, rxGot := [], lost := [], nakDue := [], asm := [], asmNext := 0
    partialTxn := [], landing := [], exchMissing := 0 }

/-- A link port stops in state 3 DOWN or 4 OFF: one that goes DOWN raises LINK_DOWN whatever it did (R249), one that goes OFF
where it ran or trained (R273, R376). Its READs fail, and what its transmit quay held is gone with the link. -/
def State.portStops (s : State) (n st : Nat) : State :=
  let l := s.link n
  let ran := l.state = 1 || l.state = 2 || st = 3
  let s := s.updQuay (linkTxNo n) fun q => { q with entries := [], waiting := [] }
  let s := s.updLink n fun l => { l.restart with state := st, version := 0, downSeen := l.downSeen || (ran && st = 3) }
  let s := if ran then s.raiseBoth .linkDown (srcLink n) (portDetail n l.peer) else s
  (s.failReads n).refit n

/-- A link port goes DOWN (R249). (DEDUCED: log 51) -/
def State.portDown (s : State) (n : Nat) : State :=
  if (s.link n).state = 3 || (s.link n).state = 4 then s else s.portStops n 3

/-! ## What becomes of an incoming transaction (R263, R307) -/

/-- Flits that a held transaction fills. -/
def txnFlits (t : Txn) : Nat := ceilDiv (1 + if t.op = 1 || t.op = 3 then t.chunks else 0) 7

/-- The rows of R263 before the grant, and R307; `perform` is the rest. -/
def State.zlRows (s : State) (n : Nat) (t : Txn) (perform : State → State) : State :=
  let q := s.pol t.dstPol
  let stale := fun (s : State) => s.updLink n fun l => { l with stale := satAdd 0xFFFF l.stale 1 }
  if t.dstModule ≠ s.boot.moduleId then s.updLink n fun l => { l with misrouted := satAdd 0xFFFF l.misrouted 1 }
  else if q.job = 0 || t.job ≠ q.job then stale s
  else if q.state = 4 then
    let used := (((s.link n).heldTxns.filter fun x => x.dstPol = t.dstPol).map txnFlits).sum
    if 64 < used + txnFlits t then stale s else s.updLink n fun l => { l with heldTxns := l.heldTxns ++ [t] }
  else perform s

/-- The size and place that R261 permits. -/
def txnOk (t : Txn) : Bool :=
  1 ≤ t.chunks && t.chunks ≤ 32 && t.offset % 32 = 0 && t.offset % 1024 + 32 * t.chunks ≤ 1024

/-- The grant of DST_POLDER covers the access (R263 third row). -/
def State.zlGranted (s : State) (t : Txn) (write : Bool) : Bool :=
  let q := s.pol t.dstPol
  q.lo ≤ t.srcModule && t.srcModule ≤ q.hi && (if write then q.wr else q.rd) &&
  match s.region t.offset with
  | .hbm k r => s.holdsGroup t.dstPol k (s.locate k r).1
  | .tier k r => s.holdsTier t.dstPol k (r / 2 ^ 21)
  | _ => false

def State.zlPermission (s : State) (t : Txn) : State :=
  s.permission srcWharf t.dstPol (2 ^ 48 * s.boot.moduleId + t.offset) 4

/-- The bytes of a transaction are counted in its tally (R220). -/
def State.countTally (s : State) (t : Txn) : State :=
  if !t.counted then s else s.updPol t.dstPol fun q => { q with
    tallies := q.tallies.upd 0 t.tally fun c => (c + 32 * t.chunks) % 2 ^ 64 }

/-- How late a counted write lands against the booking of its collective step (R271); the manifests that wait for it are
charged WAIT for as long (R72, R76). -/
def State.noteLateness (s : State) (n : Nat) (t : Txn) : State :=
  if !t.counted then s else
  let late := (s.pol t.dstPol).running.foldl (fun m e =>
    match s.schedule e.2.m.schedule with
    | some c => (c.colls.filter fun x => x.tally = t.tally).foldl (fun m x =>
        max m (s.alm.now - (e.2.m.tb + 4096 * e.2.m.startTide + 1024 + x.landing))) m
    | none => m) 0
  let waits := fun (r : Run) => match s.schedule r.m.schedule with
    | some c => c.colls.any fun x => x.tally = t.tally
    | none => false
  let s := if late = 0 then s else s.delayRuns t.dstPol waits late .wait
  s.updLink n fun l => { l with lateness := max l.lateness late }

/-- A WRITE past the first two rows: each 32-byte chunk is written at the home, poisoned chunks poisoned; its bytes are
counted as it lands. -/
def State.zlWrite (s : State) (n : Nat) (t : Txn) : State :=
  let s := s.noteLateness n t
  if !s.zlGranted t true || s.groupPart t.offset (32 * t.chunks) then (s.zlPermission t).countTally t else
  let data := slice t.data 0 (32 * t.chunks)
  let off := t.offset % 1024
  let part := fun (bad : Bool) => (List.range (32 * t.chunks)).filterMap fun i =>
    if t.poison.getLsbD (i / 32) = bad then some (off + i, data.getD i 0) else none
  let va := 2 ^ 48 * s.boot.moduleId + t.offset
  let line := t.offset / 1024
  let good := part false
  let bad := part true
  let s := if bad.isEmpty then s else
    s.newReq (.write bad false true) line t.dstPol (.link n (if good.isEmpty then t else { t with counted := false })) va t.hint
  if good.isEmpty then s else s.newReq (.write good false false) line t.dstPol (.link n t) va t.hint

/-- The sectors that a READ covers. -/
def readSectors (t : Txn) : BitVec 8 :=
  BitVec.ofNat 8 (((List.range t.chunks).map fun i => 2 ^ (((t.offset % 1024) + 32 * i) / 128)).eraseDups.sum)

/-- A READ past the first two rows: read at the home, or answered with every chunk poisoned. -/
def State.zlRead (s : State) (n : Nat) (t : Txn) : State :=
  if s.zlGranted t false then
    s.newReq (.read (readSectors t)) (t.offset / 1024) t.dstPol (.link n t) (2 ^ 48 * s.boot.moduleId + t.offset) t.hint
  else
    let s := s.zlPermission t
    let (data, s) := s.freeBytes (32 * t.chunks)
    s.sendTxn n t.dstPol 1 { t with
      op := 3, srcModule := t.dstModule, dstModule := t.srcModule, srcPol := t.dstPol, dstPol := t.srcPol
      data := data, poison := BitVec.ofNat 32 (2 ^ t.chunks - 1), counted := false, tally := 0 }

/-! ## Barriers across modules (R267) -/

/-- The declaration of a barrier, by polder and number. -/
def State.barrierDecl (s : State) (p number : Nat) : Option BarrierDecl :=
  ((s.img.map Image.schedules).getD []).findSome? fun c =>
    if c.pol = p then c.barriers.find? fun b => b.number = number else none

def barrierKey (p number : Nat) : Nat := 2 ^ 32 * p + number

def State.collector (s : State) (p number : Nat) : Collector := s.collectors.get {} (barrierKey p number)
def State.updCollector (s : State) (p number : Nat) (f : Collector → Collector) : State :=
  { s with collectors := s.collectors.upd {} (barrierKey p number) f }

/-- Send BARRIER to a module's polder; without a grant or a port it is refused with PERMISSION (R262). (DEDUCED: log
29) -/
def State.sendBarrier (s : State) (p number m dst : Nat) : State :=
  match s.grantOk p m true, s.remotePort p m 5 with
  | true, some n => s.sendTxn n p 5 {
      op := 4, chunks := 0, srcModule := s.boot.moduleId, dstModule := m, srcPol := p, dstPol := dst
      srcGen := (s.pol p).gen, job := (s.pol p).job, tag := number }
  | _, _ => s.permission srcWharf p (2 ^ 48 * m) 4

/-- An arrival at the collector; the last one releases every participant. -/
def State.barrierArrival (s : State) (p : Nat) (b : BarrierDecl) (m pol : Nat) : State :=
  let c := s.collector p b.number
  let got := if c.arrived.any fun x => x / 64 = m then c.arrived else c.arrived ++ [64 * m + pol]
  if b.parts.all fun x => got.any fun y => y / 64 = x then
    let s := s.updCollector p b.number fun c => { arrived := [], releases := c.releases + 1 }
    (got.filter fun x => x / 64 ≠ s.boot.moduleId).foldl (fun s x => s.sendBarrier p b.number (x / 64) (x % 64)) s
  else s.updCollector p b.number fun c => { c with arrived := got }

/-- The local participants have all arrived. -/
def State.barrierLocal (s : State) (p : Nat) (b : BarrierDecl) : State :=
  if b.collector = s.boot.moduleId then s.barrierArrival p b b.collector p else
  let (dst, s) := s.free 6
  s.sendBarrier p b.number b.collector dst.toNat

/-- A BARRIER past the first two rows: refused with PERMISSION outside the grant's modules or enable; an arrival at
the collector, or the release from it. (DEDUCED: log 29) -/
def State.zlBarrier (s : State) (t : Txn) : State :=
  if !s.grantOk t.dstPol t.srcModule true then s.zlPermission t else
  match s.barrierDecl t.dstPol t.tag with
  | none => s
  | some b =>
    if b.collector = s.boot.moduleId then
      if b.parts.contains t.srcModule then s.barrierArrival t.dstPol b t.srcModule t.srcPol else s
    else if t.srcModule = b.collector then s.updCollector t.dstPol t.tag fun c => { c with releases := c.releases + 1 }
    else s

/-- A transaction of OP 1, 2 or 4. (DEDUCED: log 39) -/
def State.zlPerform (s : State) (n : Nat) (t : Txn) : State :=
  s.zlRows n t fun s =>
    if t.op = 4 then s.zlBarrier t
    else if !txnOk t then s
    else if t.op = 1 then s.zlWrite n t
    else if t.op = 2 then s.zlRead n t
    else s

/-- A polder is thawed: its held transactions are handled in the order they arrived at each port (R307). -/
def State.releaseHeld (s : State) (p : Nat) : State :=
  (List.range 64).foldl (fun s n =>
    let held := (s.link n).heldTxns.filter fun t => t.dstPol = p
    if held.isEmpty then s else
    let s := s.updLink n fun l => { l with heldTxns := l.heldTxns.filter fun t => t.dstPol ≠ p }
    held.foldl (fun s t => s.zlPerform n t) s) s

end Sys2Proof.Machine
end

