-- ==== Sys2Proof/Machine/Tides.lean ====
section
/-! DEFINITION. The tide sequencer (chapters 2 and 3): rings and their registers, pickup, start, lag events and
completion. -/

namespace Sys2Proof.Machine

open Sys2Proof

/-! ## Ring registers (R40, R41, R77) -/

def offMringBase (p : Nat) : Nat := 0x410000 + 0x20 * p
def offMringCtl (p : Nat) : Nat := 0x410008 + 0x20 * p
def offFbCfg (p : Nat) : Nat := 0x410010 + 0x20 * p

def State.mringBaseWrite (s : State) (p : Nat) (a : RegAcc) : State :=
  s.updPol p fun q => if q.enable then q else
    { q with ringBase := 4096 * a.fld 12 46 (q.ringBase / 4096), ringSize := a.fld 0 4 q.ringSize }

/-- A DPA that names local HBM or Granary direct. -/
def State.localMem (s : State) (dpa : Nat) : Bool :=
  dpaModule dpa = s.boot.moduleId && (s.region (dpaOffset dpa)).isMem

/-- A port whose confirmed word lacks a required feature cannot run work (R338). -/
def State.mayRun (s : State) (port : Nat) : Bool :=
  let w := (s.port port).confirmed
  s.featureWord &&& ~~~w = 0

def State.mringCtlWrite (s : State) (p : Nat) (a : RegAcc) : State :=
  if !a.hits 0 then s else
  s.updPol p fun q =>
    if a.bit 0 then
      if q.enable then q
      else if s.localMem q.ringBase && q.ringSize ≤ 8 && s.mayRun q.port then
        { q with enable := true, stopping := false, consumer := 0, consumed := 0, ringPhase := true }
      else q
    else if q.enable then { q with enable := false, stopping := true } else q

def State.fbCfgWrite (s : State) (p : Nat) (a : RegAcc) : State :=
  s.updPol p fun q => { q with warn := a.fld 4 4 q.warn, requireLock := a.flag 0 q.requireLock }

/-- MRING_BASE_WRITE (R41). -/
def execMringBaseWrite (p : Pol) (a : RegAcc) (s : State) : Out :=
  .next <| if s.ownerWrites p.val a (offMringBase p.val) then s.mringBaseWrite p.val a else s

/-- MRING_ENABLE (R41): a write of 1 to ENABLE. -/
def execMringEnable (p : Pol) (a : RegAcc) (s : State) : Out :=
  .next <| if s.ownerWrites p.val a (offMringCtl p.val) && a.bit 0 then s.mringCtlWrite p.val a else s

/-- MRING_DISABLE (R41): a write of 0 to ENABLE. -/
def execMringDisable (p : Pol) (a : RegAcc) (s : State) : Out :=
  .next <| if s.ownerWrites p.val a (offMringCtl p.val) && !a.bit 0 then s.mringCtlWrite p.val a else s

/-- FB_CFG_WRITE (R77). -/
def execFbCfgWrite (p : Pol) (a : RegAcc) (s : State) : Out :=
  .next <| if s.ownerWrites p.val a (offFbCfg p.val) then s.fbCfgWrite p.val a else s

/-! ## Manifest records (R42, R44) -/

def parseManifest (raw : List Byte) (seq slot tb : Nat) : Manifest :=
  let ctl := leAt raw 0 8
  let n := field ctl 36 4
  { seq := seq, raw := raw, slot := slot
    hard := ctl.testBit 62, afterPrev := ctl.testBit 61, notify := ctl.testBit 60
    gen := field ctl 48 8, tag := field ctl 0 32
    schedule := field (leAt raw 8 8) 48 16
    deadline := leAt raw 0x10 8, earliest := leAt raw 0x18 8
    opp := leAt raw 0x20 4, freeboard := leAt raw 0x24 4
    completion := field (leAt raw 0x28 8) 0 45
    operands := (List.range n).map fun i =>
      let e := leAt raw (0x30 + 8 * i) 8
      (field e 61 3, field e 0 45)
    tb := tb }

/-- An operand names the base of a Porter stream's region, which is aligned to 64 KiB (R33). -/
def isRegion (c : Schedule) (i : Nat) : Bool := c.streams.any fun d => (d.src = .porter || d.dst = .porter) && d.operand = i

/-- The reserved fields, references and alignments of the fourth row of R44. (DEDUCED: log 28) -/
def State.slotOk (s : State) (p : Nat) (raw : List Byte) : Bool :=
  let ctl := leAt raw 0 8
  let m := parseManifest raw 0 0 0
  let n := field ctl 36 4
  let entry := fun i => leAt raw (0x30 + 8 * i) 8
  field ctl 56 4 = 0 && field ctl 40 2 = 0 && field ctl 32 4 = 0 && field (leAt raw 8 8) 32 16 = 0
    && field (leAt raw 0x28 8) 45 19 = 0 && n ≤ 10
    && ((List.range 10).all fun i =>
      if i < n then field (entry i) 45 16 = 0 && field (entry i) 61 3 < 4 else entry i = 0)
    && ((List.range 8).all fun i => let x := m.opp / 16 ^ i % 16; x < 8 || x = 15)
    && (match s.schedule m.schedule with
        | none => false
        | some c => c.pol = p && c.operands = n
            && ((List.range n).all fun i =>
              let a := (m.operands.getD i (0, 0)).2
              1024 ≤ a && a % max 1 (c.aligns.getD i 1024) = 0 && (!isRegion c i || a % 65536 = 0))
            && (m.freeboard = 0 || c.freeboard ≤ m.freeboard))
    && leAt raw 8 4 = leAt ((s.img.map Image.measure).getD []) 0 4
    && m.completion % 16 = 0
    && !(m.hard && m.deadline = 2 ^ 64 - 1)

/-! ## Pickup (R45, R44) -/

/-- Slots of a ring. -/
def Polder.slots (q : Polder) : Nat := 2 ^ (q.ringSize + 4)

/-- The consumer index moves past a slot; the expected phase inverts on each lap. (DEDUCED: log 31) -/
def Polder.consume (q : Polder) : Polder :=
  let c := (q.consumer + 1) % q.slots
  { q with
    consumer := c, consumed := (q.consumed + 1) % 2 ^ 32, seqNext := q.seqNext + 1, takenNow := q.takenNow + 1
    ringPhase := if c = 0 then !q.ringPhase else q.ringPhase }

/-- A manifest is admitted to the pending list, or refused. -/
def State.takeManifest (s : State) (p : Nat) (m : Manifest) (tb : Nat) : State :=
  let m := { m with prev := (s.pol p).prev }
  let s := s.updPol p fun q => { q with prev := some m.seq }
  match s.admission p m tb with
  | .admitted m => s.updPol p fun q => { q with pending := q.pending ++ [m] }
  | .refused reason bound => s.refuse p m reason bound tb

/-- One ready slot, in the order of R44. (DEDUCED: log 28) -/
def State.handleSlot (s : State) (p tb : Nat) (raw : List Byte) : State :=
  let q := s.pol p
  let m := parseManifest raw q.seqNext q.consumer tb
  let s := s.updPol p Polder.consume
  let reject := fun (s : State) =>
    let s := s.updPol p fun q => { q with rejects := satAdd 0xFFFF q.rejects 1 }
    let s := s.raiseOwn .manifestReject srcSeq p (leBytes 4 m.tag ++ leBytes 4 m.slot)
    s.manifestRecord p m stRejected tb 0
  if field (leAt raw 0 8) 42 6 ≠ p then reject s
  else if m.gen ≠ q.gen then
    (s.updPol p fun q => { q with stale := satAdd 0xFFFF q.stale 1 }).manifestRecord p m stStale tb 0
  else if !s.slotOk p raw then reject s
  else s.takeManifest p m tb

/-- Consecutive ready slots from the CONSUMER index, at most `fuel` of them. A slot that reads as poison is not
ready. -/
def State.takeSlots (s : State) (p tb : Nat) : Nat → State
  | 0 => s
  | fuel + 1 =>
    let q := s.pol p
    if 16 ≤ q.pending.length then s else
    let a := dpaOffset q.ringBase + 128 * (q.consumer + 1)
    if s.homeFenced (a / 1024) then s.raiseOwn .fencedTarget srcSeq p (addrDetail a 3)
    else if s.peekPoison a 128 then s.raiseOwn .poisonRead srcSeq p (addrDetail a 3)
    else
      let raw := s.peek a 128
      if (leAt raw 0 8).testBit 63 ≠ q.ringPhase then s
      else (s.handleSlot p tb raw).takeSlots p tb fuel

/-- A restored manifest is admitted again at the first pickup after THAW (R312). -/
def State.readmit (s : State) (p tb : Nat) : State :=
  (s.pol p).pending.foldl (fun s m =>
    if !m.readmit then s else
    match s.admission p m tb with
    | .admitted m' => s.updPol p fun q => { q with pending := q.pending.map fun x => if x.seq = m.seq then m' else x }
    | .refused reason bound =>
      (s.updPol p fun q => { q with pending := q.pending.filter fun x => x.seq ≠ m.seq }).refuse p m reason bound tb) s

/-- The polder's ring is read: ENABLE and the state of the polder allow it (R41). -/
def Polder.picks (q : Polder) : Bool :=
  (q.enable || q.stopping) && !q.frozenBit && (q.state = 2 || q.state = 3)

/-- The ring header, which the sequencer alone writes (R40). -/
def State.writeHeader (s : State) (p tb : Nat) : State :=
  let q := s.pol p
  s.poke p (dpaOffset q.ringBase) (leBytes 8 q.consumed ++ leBytes 8 tb ++ leBytes 112 0) false

/-- PICKUP (R45): once in the pickup window of a tide, at the polder's pickup cycle; the time until then passes. -/
def execPickup (p : Pol) (s : State) : Out :=
  .next <|
    match s.tide.boundary, pickupCycle s.table p.val with
    | some tb, some cycle =>
      let q := s.pol p.val
      if s.boot.stage ≠ 4 || !s.tide.open_ || cycle < s.alm.now - tb || !q.picks || s.held srcSeq p.val || q.pickedTide = some tb then s
      else
        let s := s.advanceTo (tb + cycle)
        let s := s.updPol p.val fun q => { q with pickedTide := some tb, takenNow := 0 }
        let s := s.readmit p.val tb
        let s := (s.retryRecords p.val).takeSlots p.val tb 4
        if (s.pol p.val).takenNow = 0 then s else s.writeHeader p.val tb
    | _, _ => s

/-! ## Start (R47) -/

/-- The next pending manifest of a polder starts at an Almanac value. -/
def State.canStart (s : State) (p : Nat) (at_ : Nat) : Bool :=
  let q := s.pol p
  match q.pending with
  | [] => false
  | m :: _ =>
    (q.state = 2 || q.state = 3) && !q.frozenBit && !m.readmit && m.earliest ≤ at_
      && (!m.afterPrev || match m.prev with
          | some n => !q.isRunning n
          | none => true)
      && !(q.running.any fun e => s.shareResource e.2.m.schedule m.schedule)

/-- The account of a manifest that starts: every stream has its run-ahead in credits (R52); a start after the start
bound is charged to WAIT (R72). -/
def State.newRun (s : State) (m : Manifest) (at_ : Nat) : Run :=
  let c := (s.schedule m.schedule).getD { pol := 0 }
  let bound := m.tb + 4096 * m.startTide + 1024
  { m := m, startedAt := at_
    uncharged := if m.hard then ({ wait := at_ - bound } : Causes) else {}
    streams := (List.range c.streams.length).foldl (fun (t : SMap StreamRun) j =>
      t.set {} j { credits := (c.streams.getD j { fmt := 0, src := .porter, dst := .porter }).runahead }) [] }

/-- MANIFEST_START (R46, R47): the time until cycle 1,024 of the tide passes, and the first pending manifest of the
polder starts there if it may. One that uses a fenced part ends at once (R356). (DESIGN CHOICE: log 4) -/
def execManifestStart (p : Pol) (s : State) : Out :=
  .next <|
    match s.tide.boundary, (s.pol p.val).pending with
    | some tb, m :: rest =>
      if s.boot.stage ≠ 4 || !s.tide.open_ || 1024 < s.alm.now - tb || !s.canStart p.val (tb + 1024) then s else
      let s := s.advanceTo (tb + 1024)
      let s := s.updPol p.val fun q => { q with
        pending := rest, running := q.running.set {} m.seq (s.newRun m (tb + 1024)) }
      if s.usesFenced m.schedule then s.fenceRun p.val m.seq else s
    | _, _ => s

/-! ## Lag events (R73) -/

/-- FREEBOARD_LOW, once: F - L below WARN sixteenths of F. -/
def State.checkLow (s : State) (p seq : Nat) : State :=
  let r := (s.pol p).run seq
  if (s.pol p).isRunning seq && r.m.hard && !r.lowRaised && r.m.warn ≠ 0
      && 16 * ((r.m.freeboard : Int) - r.lag) < r.m.warn * r.m.freeboard then
    (s.raiseOwn .freeboardLow srcSeq p (lagDetail r)).updRun p seq fun r => { r with lowRaised := true }
  else s

/-- DEADLINE_MISS where L exceeds F. -/
def State.checkMiss (s : State) (p seq : Nat) : State :=
  if ((s.pol p).run seq).m.freeboard < ((s.pol p).run seq).lag then s.missDeadline p seq else s

/-- FREEBOARD_LOW (R73): L is brought up to now. -/
def execFreeboardLow (p : Pol) (seq : Nat) (s : State) : Out :=
  .next <| (s.updLag p.val seq).checkLow p.val seq

/-- DEADLINE_MISS (R73): L is brought up to now; FREEBOARD_LOW comes first where it is due. -/
def execDeadlineMiss (p : Pol) (seq : Nat) (s : State) : Out :=
  .next <| ((s.updLag p.val seq).checkLow p.val seq).checkMiss p.val seq

/-! ## Streams and completion (R50, R71, R75) -/

/-- An operation that the schedule declares gives a stream, or takes one (R38). -/
def givesStream (c : Schedule) (n : Nat) : Bool :=
  (c.mills.any fun u => u.out = some n || u.out2 = some n) || c.uses.any fun u => u.out = some n
def takesStream (c : Schedule) (n : Nat) : Bool :=
  (c.mills.any fun u => u.a = some n || u.b = some n || u.b2 = some n || u.v = some n) || c.uses.any fun u => u.ins.contains n

/-- The next tile of a stream has reached its destination, or, for a store, its memory; `given` says that an operation that the
schedule declares gives its tiles. -/
def tileDone (d : StreamDecl) (given : Bool) (c : StreamRun) : Bool :=
  c.completed < d.length &&
    (if d.src = .porter || d.dst = .porter then c.completed < c.next && (c.tiles.get {} c.completed).outstanding = 0
     else if d.src = .hands then c.put.contains c.completed
     else !given || c.completed < c.made)

/-- STREAM_TILE_COMPLETE (R71): a tile completes; of a hard stream it sets L against its booked cycle, after the
delays that struck it have entered the uncharged totals (R72). END of a hard manifest is the end of its last hard
stream: R50 names the last stream, and R39 and R70 the hard ones, which alone are held to DEADLINE. (DEDUCED: log 28)
-/
def execStreamTileComplete (p : Pol) (seq stream : Nat) (delays : Causes) (s : State) : Out :=
  .next <|
    let q := s.pol p.val
    let r := q.run seq
    match q.isRunning seq && !r.suspended, s.schedule r.m.schedule with
    | true, some c =>
      match c.streams[stream]? with
      | none => s
      | some d =>
        let t := r.streams.get {} stream
        if !tileDone d (givesStream c stream) t then s else
        let last := t.completed + 1 = d.length
        let s := s.updRun p.val seq fun r => { r with
          streams := r.streams.set {} stream { t with completed := t.completed + 1, ended := last }
          lastEnd := if last && (d.hard || !r.m.hard) then s.alm.now else r.lastEnd }
        if !r.m.hard then s
        else if d.hard then
          let late := s.alm.now - s.bookedAt r c d t.completed
          let s := s.updRun p.val seq fun r =>
            (s.chargeHeld (allCauses.foldl (fun r k => if delays.get k = 0 then r else r.delayed s.clock (delays.get k) k) r)).lagTo late
          (s.checkLow p.val seq).checkMiss p.val seq
        else if last && r.m.deadline < s.alm.now then
          s.raiseOwn .firmLate srcSeq p.val (leBytes 4 r.m.tag)
        else s
    | _, _ => s

/-- A collective step's tally wait is met: the tally has passed what earlier steps used and what it waits for.
(DEDUCED: log 31) -/
def collMet (q : Polder) (c : Schedule) (i : Nat) : Bool :=
  let step := c.colls.getD i { tally := 0, bytes := 0 }
  let here := ((c.colls.take (i + 1)).filter fun x => x.tally = step.tally).map CollStep.bytes
  q.tallyUsed.get 0 step.tally + here.sum ≤ q.tallies.get 0 step.tally

/-- A part of a schedule is over: what it stored has been performed, and what it waited for is there. -/
def stepOver (q : Polder) (r : Run) (c : Schedule) : Step → Bool
  | .stream i => (r.streams.get {} i).ended
  | .kernel i => (r.kernels.get {} i).ended
  | .range i => (r.ranges.get {} i).done
  | .coll i => collMet q c i

/-- A part of a running manifest's schedule may begin: those that it depends on are over, which is the release and the acquire of
R216, R217 and R222. -/
def State.mayBegin (s : State) (p seq : Nat) (x : Step) : Bool :=
  let q := s.pol p
  let r := q.run seq
  match s.schedule r.m.schedule with
  | some c => c.deps.all fun e => e.2 ≠ x || stepOver q r c e.1
  | none => true

/-- An operation of a manifest runs, or is held, on a Mill die. -/
def State.millBusy (s : State) (p seq : Nat) : Bool :=
  s.mills.any fun e => e.2.ops.any fun o => o.pol = p && o.seq = seq && (o.held.isSome || s.clock < o.ends)

/-- Every stream, kernel, range step and collective step of a manifest has ended, its stores have landed and no operation of it
runs. -/
def State.runDone (s : State) (p seq : Nat) (r : Run) (c : Schedule) : Bool :=
  !r.suspended && r.stores = 0 && !s.millBusy p seq
    && ((List.range c.streams.length).all fun j => (r.streams.get {} j).ended)
    && ((List.range c.kernels.length).all fun j => (r.kernels.get {} j).ended)
    && ((List.range c.ranges.length).all fun j => (r.ranges.get {} j).done)
    && ((List.range c.colls.length).all fun i => collMet (s.pol p) c i)

/-- The status of a manifest that has run to completion (R50, R51, R75): of a hard one DONE only with END at or before
DEADLINE (R70). -/
def finalStatus (r : Run) (end_ : Nat) : Nat :=
  if r.m.hard then (if r.missRaised || r.m.freeboard < r.lag || r.m.deadline < end_ then stMissed else stDone)
  else if r.m.deadline ≠ 2 ^ 64 - 1 && r.m.deadline < end_ then stDoneLate else stDone

/-- MANIFEST_COMPLETE (R50). -/
def execManifestComplete (p : Pol) (seq : Nat) (s : State) : Out :=
  .next <|
    let s := s.updLag p.val seq
    let q := s.pol p.val
    let r := q.run seq
    match q.isRunning seq, s.schedule r.m.schedule with
    | true, some c =>
      let s := s.retryRecords p.val
      if !s.runDone p.val seq r c then s else
      let s := (s.checkLow p.val seq).checkMiss p.val seq
      let r := (s.pol p.val).run seq
      let end_ := if r.lastEnd = 0 then s.alm.now else r.lastEnd
      let st := finalStatus r end_
      let s := s.updPol p.val fun q => { q with
        tallyUsed := c.colls.foldl (fun u x => u.upd 0 x.tally (· + x.bytes)) q.tallyUsed }
      let s := if st = stDoneLate then s.raiseOwn .firmLate srcSeq p.val (leBytes 4 r.m.tag) else s
      s.endRun p.val seq st end_ (freeboardLeft r)
    | _, _ => s

end Sys2Proof.Machine
end

