-- ==== Sys2Proof/Machine/Fence.lean ====
section
/-! DEFINITION. Containment (chapter 16): the fences of a Mill die, a Keel and a stack, dead bundles, and
uncorrectable errors. A fence takes its steps, each of which the manual gives an upper limit only, at once. -/

namespace Sys2Proof.Machine

open Sys2Proof

/-! ## Who is affected (R355, R358) -/

def State.polUsesDie (s : State) (p d : Nat) : Bool :=
  let r := s.polRec p
  r.tiles.getD d 0 ≠ 0 || r.handRows.getD d 0 ≠ 0 || r.porters.getD d 0 ≠ 0 || (s.binPart d p).isSome

def State.polUsesKeel (s : State) (p k : Nat) : Bool :=
  let r := s.polRec p
  r.groups.getD k 0 ≠ 0
    || (s.charter.resources.any fun x => [1, 2, 6, 7].contains x.type && x.b1 = p && x.b2 = k)
    || s.polUsesDie p (2 * k) || s.polUsesDie p (2 * k + 1)

/-- Whether a polder is granted a channel group of a stack. -/
def State.polUsesStack (s : State) (p i : Nat) : Bool :=
  (List.range 8).any fun j => s.holdsGroup p (i / 6) (8 * (i % 6) + j)

/-- A record in the books of P0, of P1 and of each affected polder. -/
def State.raiseWide (s : State) (code : Code) (source : Nat) (users : List Nat) (detail : List Byte) : State :=
  (users.filter fun p => 2 ≤ p).foldl (fun s p => s.raiseOwn code source p detail) (s.raiseBoth code source detail)

def State.advanceAll (s : State) (ps : List Nat) : State := ps.foldl State.advanceKept s

/-! ## The homes' sweep of a fenced Bin (R205) -/

/-- A stream's declaration, by the manifest that runs it. -/
def State.declOf (s : State) (p seq stream : Nat) : Option StreamDecl :=
  (s.schedule ((s.pol p).run seq).m.schedule).bind fun c => c.streams[stream]?

/-- A request that an engine of die d made: a Hand, a Porter or a station. -/
def State.madeOn (s : State) (d : Nat) (r : HomeReq) : Bool :=
  match r.who with
  | .hand h _ => h / 1024 = d
  | .porter p seq st _ _ => (s.declOf p seq st).any fun c => c.die = d
  | .step p seq i => ((s.schedule ((s.pol p).run seq).m.schedule).bind fun c => c.ranges[i]?).any fun c => c.die = d
  | .station _ e _ _ => e = d
  | _ => false

/-- Discard requests of die d: those that hold a tracker free it. -/
def State.discardReqs (s : State) (rs : List HomeReq) : State :=
  rs.foldl (fun s r => if r.tracked then s.freeTracker (homeOf r.line) r.pol otherAgent else s) s

/-- Whether a queued request is die d's. -/
def State.queuedBy (s : State) (d : Nat) : Serving → Bool
  | .coh m => m.src = d
  | .req r => s.madeOn d r
  | _ => false

/-- The transaction of a busy line as it stands without die d (R205): answers that d owes are taken as given, its waiting
requests are discarded, and `far` are the sharers that RECALL(DROP) still goes to. -/
def State.txnWithout (s : State) (d : Nat) (t : HomeTxn) (shared : Bool) (far : List Entry) : HomeTxn :=
  let owed := (t.await.any fun a => a.1 = d) && (t.ownerBin.map Prod.fst) = some d
  let final := t.final.filter fun f => f.1 ≠ d
  -- a requester whose own copy is dropped needs the sectors that it held as well (R193)
  let want := match t.serving with
    | .coh m => if far.any fun e => e.bin = m.src && e.pol = m.pol then m.need ||| m.cover else t.want
    | _ => t.want
  { t with
    queue := t.queue.filter fun x => !s.queuedBy d x
    await := (t.await.filter fun a => a.1 ≠ d) ++ names far
    awaitPut := t.awaitPut.filter fun a => a.1 ≠ d
    sent := (t.sent.filter fun a => a.1 ≠ d) ++ names far
    cover := if owed then 0 else t.cover
    ownerNew := if owed then some 0 else t.ownerNew
    want := want, drop := t.drop || !far.isEmpty, sweep := t.sweep || (shared && t.busy = .d)
    others := t.others.filter fun e => e.1 / 2 ^ 17 % 8 ≠ d
    final := final, dones := t.dones - (t.final.length - final.length) }

/-- The sharers of an O line of die d that must still drop their copies, by what the busy line's transaction has asked of them
already. -/
def sharersLeft (t : HomeTxn) (es : List Entry) : List Entry :=
  match t.busy, t.serving with
  | .a, .coh m => if m.type = .getm then es.filter fun e => e.bin = m.src && e.pol = m.pol else es
  | .r, .req r => if (recallFor r.op es).1 = 0 then es else []
  | _, _ => []

/-- What the sweep does to one line, with the lines poisoned so far (R205). An O line's sharers first receive
RECALL(DROP). -/
def sweepLine (d : Nat) (x : Nat × State) (line : Nat) : Nat × State :=
  let (n, s) := x
  let es := s.entriesOf line
  let mine := es.filter fun e => e.bin = d
  let owner := mine.any isOwner
  let shared := mine.any fun e => e.st = .o
  let s := mine.foldl (fun s e => s.setShadow e.key {}) s
  let s := if owner then s.homePoisonAll line else s
  let n := if owner then n + 1 else n
  if !s.busy line then (n, if shared then s.recallSharers line else s) else
  let t := s.txn line
  let far := if shared then sharersLeft t (es.filter fun e => e.st = .s && e.bin ≠ d) else []
  let gone := t.queue.filterMap fun x => match x with
    | .req r => if s.madeOn d r then some r else none
    | _ => none
  let becoming := t.busy = .d && t.final.any fun f => f.1 = d && f.2.2.2.2 ≠ .s
  let t := s.txnWithout d t shared far
  let s := far.foldl (fun s e => s.send { fromHome .recall line e.bin e.pol with st := 2 }) ((s.discardReqs gone).setTxn line t)
  match t.busy with
  | .d =>
    let s := if becoming then s.homePoisonAll line else s
    (if becoming then n + 1 else n, if t.dones = 0 then s.closeTxn line else s)
  | _ => (n, s.lastAnswer line)

/-- Messages of the die that had left for a home are discarded. The data of a supply whose FWD_ACK the home has
counted is announced to its requester, which receives it poisoned; where the FWD_ACK is lost too, the home answers in
its place. (DESIGN CHOICE: log 34) -/
def State.loseMessages (s : State) (d : Nat) : State :=
  let lost := s.net.filter fun m => m.src = d && 8 ≤ m.dst
  { s with net := s.net.filterMap fun m =>
      if m.dst = d || (m.type = .dataF && m.req = d) then none
      else if m.src ≠ d then some m
      else if m.type = .dataF then
        if lost.any fun x => x.type = .fwdAck && x.line = m.line then none
        else if 8 ≤ m.dst then some { m with dst := m.req, poison := m.cover } else some m
      else if 8 ≤ m.dst then none else some m }

/-- What the Hands of a fenced die await from its Bin completes with FENCED_TARGET (R174). (DESIGN CHOICE: log 34) -/
def State.failMisses (s : State) (d : Nat) : State :=
  (s.hands.filter fun e => e.1 / 1024 = d).foldl (fun s e =>
    (e.2.misses.filter fun m => s.localMem (s.sectorDpa m.sector)).foldl (fun s m =>
      let (bs, s) := s.freeBytes 128
      let late := s.isLate m.pol m.gen m.orphan
      let s := s.fillMiss e.1 m.sector bs true
      if late then s else s.raiseOwn .fencedTarget (srcHand e.1) m.pol (addrDetail m.va 1)) s) s

/-- Every home acts on die d's fence message: the number of lines poisoned, and what is left of Bin d is gone. (DESIGN
CHOICE: log 34) -/
def State.sweep (s : State) (d : Nat) : Nat × State :=
  let s := { s with keels := (List.range 4).foldl (fun m k =>
    m.upd {} k fun c => { c with
      fencedBins := c.fencedBins ||| BitVec.ofNat 8 (2 ^ d), trackers := c.trackers.filter fun e => e.2 ≠ d }) s.keels }
  let gone := s.reqs.filter fun r => s.madeOn d r
  let s := (s.loseMessages d).discardReqs gone
  let s := { s with
    bins := s.bins.filter fun e => e.1 / 2 ^ 17 ≠ d
    reqs := s.reqs.filter fun r => !gone.any fun x => x.id = r.id }
  let lines := ((s.shadow.filter fun e => e.1 / 2 ^ 17 % 8 = d).map (fun e => e.2.line) ++ s.txns.map Prod.fst).eraseDups
  let (n, s) := (lines.filter fun l => !s.homeFenced l).foldl (sweepLine d) (0, s)
  (n, s.failMisses d)

/-! ## A Mill die (R355) -/

/-- Bundles in use of a fenced part are untested from now on (STATE 4). -/
def State.untest (s : State) (f : Nat → Bool) : State :=
  { s with bundles := s.bundles.mapAll {} fun b c => if f b && c.state = 1 then { c with state := 4 } else c }

/-- GH_FENCE_i takes a fence. -/
def State.noteFence (s : State) (i cause : Nat) : State :=
  s.updFence i fun f => { f with fenced := true, cause := cause, fences := satAdd 0xFFFF f.fences 1 }

/-- The fence itself, up to the generations. (DESIGN CHOICE: log 34) -/
def State.cutDie (s : State) (d cause : Nat) : Nat × State :=
  let s := (s.updMill d fun c => { c with fenced := true, returning := none }).untest fun b => b / 256 = d
  let (n, s) := s.sweep d
  let s := s.updLand fun g => { g with caches := g.caches.filter fun e => e.1 ≠ 64 + d && !(e.1 < 64 && e.1 / 8 = d) }
  (n, s.noteFence (5 + d) cause)

def dieDetail (i cause n : Nat) : List Byte := leBytes 1 i ++ leBytes 1 cause ++ leBytes 2 0 ++ leBytes 4 n

/-- A reset of a die ends without its return: the die or its Keel fails while it runs. -/
def State.stayFenced (s : State) (d : Nat) : State :=
  s.updMill d fun c => { c with returning := none, resetBusy := false }

/-- A Mill die is fenced, if it is in service; one that a reset would return stays fenced. (DESIGN CHOICE: log 34) -/
def State.fenceDie (s : State) (d cause : Nat) : State :=
  if (s.mill d).fenced then s.stayFenced d else
  let users := (List.range 64).filter fun p => s.polUsesDie p d
  let (n, s) := s.cutDie d cause
  (s.advanceAll users).raiseWide .dieFenced (srcDie (5 + d)) users (dieDetail (5 + d) cause n)

/-! ## A Keel (R358, R359, R206) -/

/-- A request to a fenced Keel completes. (DESIGN CHOICE: log 34) -/
def State.failHome (s : State) (k : Nat) : State :=
  let reqs := s.reqs.filter fun r => homeOf r.line = k
  let txns := s.txns.filter fun e => homeOf e.1 = k
  let waiting := txns.flatMap fun e => (e.2.serving :: e.2.queue).filterMap fun x =>
    match x with
    | .req r => some r
    | _ => none
  let s := { s with
    reqs := s.reqs.filter fun r => homeOf r.line ≠ k
    txns := s.txns.filter fun e => homeOf e.1 ≠ k }
  (reqs ++ waiting).foldl (fun s r => s.answerFenced r) s

/-- The surviving Bins lose every line homed at the Keel; stores that wait there complete with FENCED_TARGET. -/
def State.dropHomed (s : State) (k : Nat) : State :=
  let lost := s.bins.filter fun e => homeOf e.2.line = k
  let s := { s with
    bins := s.bins.filter fun e => homeOf e.2.line ≠ k
    shadow := s.shadow.filter fun e => e.1 / 2 ^ 20 ≠ k
    net := s.net.filter fun m => homeOf m.line ≠ k }
  lost.foldl (fun s e => e.2.waits.foldl (fun s w =>
    if w.write.isEmpty then s else
    (s.updHand w.hand fun h => { h with unwon := h.unwon - 1 }).raiseOwn .fencedTarget (srcHand w.hand) e.2.pol
      (addrDetail (e.2.line * 1024) 1)) s) s

/-- A stack's quays are flushed, and the line requests that wait for its lines complete with FENCED_TARGET, reads
among them with poisoned data (R31). (DESIGN CHOICE: log 23) -/
def State.flushStack (s : State) (i : Nat) : State :=
  let waits := fun (r : HomeReq) => r.tracked && isHbmLine r.line && s.stackOf r.line = i && (s.granFind r.line).isNone
  let rs := s.reqs.filter waits
  let s := rs.foldl State.answerFenced { s with reqs := s.reqs.filter fun r => !waits r }
  let k := i / 6
  let q0 := 48 * k + 8 * (i % 6)
  let ns := [i, 24 + i] ++ ((List.range 8).flatMap fun j => [48 + q0 + j, 240 + q0 + j])
  ns.foldl (fun s n => s.updQuay n QuaySt.flush) s

/-- R359: walks of a fenced Keel's entries complete as fenced, its open misses close. -/
def State.failWalks (s : State) (k : Nat) : State :=
  let here := fun (i : Nat) => entryKeel i = k
  s.updLand fun g => { g with
    misses := g.misses.filter fun m => !here m.index
    walks := g.walks.map fun w =>
      if here (w.va / 2 ^ 21) && w.st ≠ .aborted then { w with st := .fencedKeel } else w }

/-- A Keel is fenced, with its two Mill dies, its six stacks and the link ports of its engines. (DESIGN CHOICE: log
34) -/
def State.fenceKeel (s : State) (k cause : Nat) : State :=
  if (s.keel k).fenced then s else
  let users := (List.range 64).filter fun p => s.polUsesKeel p k
  let s := s.untest fun b => (2048 ≤ b && b < 2080 && (segmentKeels (0x20 + (b - 2048) / 4)).contains k)
    || (2080 ≤ b && (b - 2080) / 2 = k)
  let dies := [2 * k, 2 * k + 1].filter fun d => !(s.mill d).fenced
  let counts := dies.map fun d => (d, (List.range 64).filter fun p => s.polUsesDie p d)
  let s := ((s.updKeel k fun c => { c with fenced := true }).stayFenced (2 * k)).stayFenced (2 * k + 1)
  let (ns, s) := dies.foldl (fun (x : List Nat × State) d =>
    let (n, s) := x.2.cutDie d 5
    (x.1 ++ [n], s)) ([], s)
  let s := (List.range 6).foldl (fun s i =>
    (s.updStack (6 * k + i) fun t => { t with fenced := true, rate := 3 }).flushStack (6 * k + i)) s
  let s := (s.dropHomed k).failHome k
  let s := (List.range 16).foldl (fun s i => s.portDown (16 * k + i)) s
  let s := (s.dropCached fun e => entryKeel e.index = k).failWalks k
  let s := s.updKeel k fun c => { c with capacity := 0, groups := 0 }
  let s := (s.noteFence (1 + k) cause).advanceAll users
  -- manifests of other polders whose stints cross the Keel end FENCED (R156)
  let s := (List.range 64).foldl (fun s p => (s.pol p).running.foldl (fun s e =>
    if s.schedStint e.2.m.schedule fun t => stintOnKeel t k then s.fenceRun p e.1 else s) s) s
  let s := s.raiseWide .keelFenced (srcDie (1 + k)) users (leBytes 1 k ++ leBytes 1 cause)
  (counts.zip ns).foldl (fun s e =>
    s.raiseWide .dieFenced (srcDie (5 + e.1.1)) e.1.2 (dieDetail (5 + e.1.1) 5 e.2)) s

/-! ## A stack (R185, R380) -/

/-- The Granary lines of a fenced stack: clean ones are invalidated, dirty ones poisoned. -/
def State.fenceGranary (s : State) (i : Nat) : State :=
  { s with gran := (s.gran.filter fun e => !(e.2.valid && s.stackOf e.2.line = i && e.2.dirty = 0)).map fun e =>
      if e.2.valid && s.stackOf e.2.line = i then (e.1, { e.2 with poison := 0xFF, present := 0xFF }) else e }

/-- A stack is fenced: STACK_FENCED, and every running hard manifest that uses it raises DEADLINE_MISS and sends
NOTICE with reason 1. (DESIGN CHOICE: log 34) -/
def State.fenceStack (s : State) (i : Nat) : State :=
  if (s.stack i).fenced then s else
  let s := ((s.fenceGranary i).updStack i fun t => { t with fenced := true, rate := 3 }).flushStack i
  let users := (List.range 64).filter fun p => s.polUsesStack p i
  let s := s.raiseWide .stackFenced (srcStack i) users (leBytes 1 i)
  (List.range 64).foldl (fun s p => (s.pol p).running.foldl (fun s e =>
    match s.schedule e.2.m.schedule with
    | some c =>
      if e.2.m.hard && usesStack c i then ((s.updLag p e.1).missDeadline p e.1).sendNotices p e.1 1 else s
    | none => s) s) s

/-! ## Failures (R353, R354) -/

/-- SEGMENT and INDEX of a bundle (R407). -/
def bundleId (b : Nat) : Nat × Nat :=
  if b < 2048 then
    let d := b / 256
    let k := b % 128
    let base := if b % 256 < 128 then 0x00 else 0x08
    if k ≤ 124 then (base + d, k) else (base + 0x10 + d, k - 125)
  else if b < 2080 then (0x20 + (b - 2048) / 4, b % 4)
  else (0x28 + (b - 2080), 0)

/-- The die that a bundle leaves or reaches, as its source: a Mill die, or a Keel. -/
def bundleDie (b : Nat) : Nat :=
  if b < 2048 then 5 + b / 256
  else if b < 2080 then 1 + [0, 1, 2, 3, 0, 2, 1, 3].getD ((b - 2048) / 4) 0
  else 1 + (b - 2080) / 2

/-- DEDUCED: log 27. -/
def bundleDetail (b : Nat) : List Byte := leBytes 2 (bundleId b).1 ++ leBytes 2 (bundleId b).2

/-- A bundle is dead in service (R354). -/
def State.bundleFails (s : State) (b : Nat) : State :=
  if 2088 ≤ b || (s.bundle b).state ≠ 1 then s else
  let s := s.updBundle b fun c => { c with state := 3, failRun := 0 }
  let s := s.raiseBoth .bundleDead (srcDie (bundleDie b)) (bundleDetail b)
  if b < 2048 then s.fenceDie (b / 256) 2
  else if 2080 ≤ b then s.fenceKeel ((b - 2080) / 2) 2
  else (List.range 64).foldl (fun s p => (s.pol p).running.foldl (fun s e =>
    if s.schedStint e.2.m.schedule fun t => stintOnBundle t b then s.fenceRun p e.1 else s) s) s

/-- MILL_CLOCK_LOSS (R353): a Keel has seen no forwarded MCLK from a Mill die for 64 cycles. -/
def execMillClockLoss (d : Die) (s : State) : Out := .next <| if 2 ≤ s.boot.stage then s.fenceDie d.val 1 else s

/-- The joins of BOOT_FWD that reach a Keel. -/
def joinsOf (k : Nat) : List Nat := [[0, 2, 4], [0, 3, 5], [1, 2, 6], [1, 3, 7]].getD k []

/-- FORWARDING_PATH_LOSS (R353): a Keel loses both paths of a culvert in service. -/
def execForwardingPathLoss (k : Keel) (join : Fin 8) (s : State) : Out :=
  .next <|
    if s.boot.stage < 2 || !(joinsOf k.val).contains join.val then s else
    let s := { s with boot := { s.boot with paths := s.boot.paths &&& ~~~(BitVec.ofNat 16 (3 * 4 ^ join.val)) } }
    s.fenceKeel k.val 1

/-- BUNDLE_DEAD (R354). -/
def execBundleDead (bundle : Nat) (s : State) : Out := .next (s.bundleFails bundle)

/-- UNCORRECTABLE_ERROR (R353): in the control state of a Mill die or of a Keel. -/
def execUncorrectableError (part : Part) (s : State) : Out :=
  .next <|
    if s.boot.stage < 2 then s else
    match part with
    | .mill d => s.fenceDie d.val 3
    | .keel k => s.fenceKeel k.val 3

/-- Poison sectors of a line at a level (R204): 0 Bin of a die, 1 Granary, 2 HBM or the tier region. -/
def State.strike (s : State) (level d line : Nat) (sectors : BitVec 8) : State :=
  match level with
  | 0 => { s with bins := s.bins.map fun e =>
      if e.1 / 2 ^ 17 = d && e.2.st ≠ .i && e.2.line = line then
        (e.1, { e.2 with poison := e.2.poison ||| (sectors &&& e.2.valid) }) else e }
  | 1 =>
    match s.granFind line with
    | some (key, g) => s.setGran key { g with poison := g.poison ||| (sectors &&& g.present) }
    | none => s.updMark line fun m => { m with poison := m.poison ||| sectors }
  | _ => s.updMark line fun m => { m with poison := m.poison ||| sectors }

/-- MEMORY_UE (R353, R315, R352): an uncorrectable error in data poisons the sectors it strikes. A sector of Common
Stock is poisoned at its home, and its supervisor receives STOCK_POISONED. -/
def execMemoryUe (level : Nat) (d : Die) (line : Nat) (sectors : BitVec 8) (s : State) : Out :=
  .next <|
    if 2 < level || sectors = 0 || !(s.region (line * 1024)).isMem then s else
    let stock := s.stockAt (line * 1024)
    let s := s.strike (if stock.isSome then 2 else level) d.val line sectors
    let src := srcKeel (homeOf line)
    let dpa := s.boot.moduleId * 2 ^ 48 + line * 1024 + 128 * (bitsOf 8 sectors.toNat).headD 0
    let s := match stock with
      | some (_, port) =>
        s.raise .stockPoisoned src (supervisorOf port) (supervisorOf port) (leBytes 8 dpa)
      | none => s
    let detail := leBytes 8 dpa ++ leBytes 1 level
    match s.memPort (line * 1024) with
    | some port => s.raise .memoryUe src (supervisorOf port) (supervisorOf port) detail
    | none => s.raiseBoth .memoryUe src detail

/-- A request whose transfer failed its check and its replay: what it writes is poisoned, and its answer is. -/
def strikeReq (r : HomeReq) : HomeReq :=
  match r.op with
  | .write bs dead _ => { r with op := .write bs dead true }
  | .atomic op off size v e _ => { r with op := .atomic op off size v e true }
  | .addLine ty adds _ => { r with op := .addLine ty adds true }
  | _ => { r with struck := true }

/-- What the transfer of a polder carries arrives poisoned (R18); other traffic carries no data. -/
def State.poisonTransfer (s : State) (p : Nat) : Transfer → State
  | .msg m => { s with net := s.net.map fun x =>
      if x = m && !x.data.isEmpty then { x with poison := x.poison ||| touched x.data } else x }
  | .req id =>
    let hit := fun (r : HomeReq) => if r.id = id then strikeReq r else r
    let served := fun (x : Serving) => match x with
      | .req r => .req (hit r)
      | x => x
    { s with
      reqs := s.reqs.map hit
      txns := s.txns.mapAll {} fun _ t => { t with serving := served t.serving, queue := t.queue.map served } }
  | .tile seq stream tile idx =>
    s.updRun p seq fun r => { r with streams := r.streams.upd {} stream fun c => { c with
      tiles := c.tiles.upd {} tile fun b => { b with poison := b.poison ++ (List.range 8).map (8 * idx + ·) } } }
  | .other => s

/-- The stint of a polder whose transfer a bundle carries: the one with lanes in it that occurs now, else the first.
(DEDUCED: log 36) -/
def State.bundleStint (s : State) (b p : Nat) : Option Nat :=
  let mine := s.table.zipIdx.filter fun e => e.1.pol = p && stintOnBundle e.1 b
  let cycle := s.alm.now - s.tide.boundary.getD s.alm.now
  ((mine.find? fun e => (List.range 4).any fun i => occursAt e.1 (cycle + i)).orElse fun _ => mine.head?).map Prod.snd

/-- A replay counts in CSW_SLIP_p, moves the later slots of its stint by its cost, and is charged to LINK of the
manifests whose hard stream the stint carries (R18, R158). (DEDUCED: log 36) -/
def State.replayed (s : State) (b p cost : Nat) : State :=
  let s := s.updPol p fun q => { q with replays := satAdd 0xFFFF q.replays 1 }
  match s.bundleStint b p with
  | none => s.delayRuns p (fun _ => true) cost .link
  | some i =>
    let struck := fun r => (s.table[i]?).all fun t => s.strikes t r
    (s.updStint i fun x => { x with moved := x.moved + cost }).delayRuns p struck cost .link

/-- BUNDLE_REPLAY (R18): a transfer of polder p fails its check and is replayed, which its hard manifests pay for as a
link retry; where the replay fails too, the data is delivered poisoned and BOND_POISON raised, and the sixteenth such
transfer in a row makes the bundle dead (R354). (DEDUCED: log 36) -/
def execBundleReplay (bundle : Nat) (p : Pol) (ok : Bool) (hit : Transfer) (s : State) : Out :=
  .next <|
    if 2088 ≤ bundle || (s.bundle bundle).state ≠ 1 then s else
    let cost := if bundle < 2048 then 8 else 16
    let s := s.updBundle bundle fun c => { c with
      replays := satAdd 0xFFFF c.replays 1, failRun := if ok then 0 else c.failRun + 1 }
    let s := s.replayed bundle p.val cost
    if ok then s else
    let s := (s.poisonTransfer p.val hit).raiseOwn .bondPoison (srcDie (bundleDie bundle)) p.val (bundleDetail bundle)
    if 16 ≤ (s.bundle bundle).failRun then s.bundleFails bundle else s

/-! ## Return of a Mill die (R357) -/

def offMillCtl (d : Nat) : Nat := 0x2000020 + 0x200000 * d

/-- Steer a bundle's failing lanes to its unconsumed spares; none where it is unusable (R14, R17). -/
def State.steer (s : State) (f : LaneFault) : Option Nat :=
  let spares := (if f.bundle < 2048 then 2 else 4) - s.nv.fusedSpares.get 0 f.bundle - f.spares
  if f.lanes ≤ spares then some f.lanes else none

/-- RESET of MILL_CTL_d by a port that owns every affected polder. No forwarded MCLK comes from the die while its Keel
is fenced. (DESIGN CHOICE: log 34) -/
def State.millReset (s : State) (d port : Nat) (clockOk : Bool) (faults : List LaneFault) : State :=
  let users := (List.range 64).filter fun p => s.polUsesDie p d
  if (s.mill d).resetBusy || !(users.all fun p => (s.pol p).port = port) then s else
  let s := s.fenceDie d 4
  let mine := faults.filter fun f => f.bundle / 256 = d && f.bundle < 2048
  if !clockOk || (s.keel (d / 2)).fenced then s.updMill d fun c => { c with status := 2 } else
  let s := mine.foldl (fun s f => s.updBundle f.bundle fun c => { c with chosen := (s.steer f).getD 0, state := if (s.steer f).isSome then 1 else 2 }) s
  let s := (List.range 256).foldl (fun s k =>
    if mine.any fun f => f.bundle = 256 * d + k then s
    else s.updBundle (256 * d + k) fun c => { c with chosen := 0, state := 1, failRun := 0 }) s
  if mine.any fun f => (s.steer f).isNone then s.updMill d fun c => { c with status := 3 } else
  let chosen := (mine.map fun f => (s.steer f).getD 0).sum
  -- Bin, edge buffers, local stores and L1s are zeroed; ladder and hold settings come from the image
  let set := (((s.img.map Image.dieSets).getD []).getD d {})
  let s := { s with
    bins := s.bins.filter fun e => e.1 / 2 ^ 17 ≠ d
    hands := s.hands.mapAll {} fun h c => if h / 1024 = d then { c with localStore := [], localPoison := [], l1 := [] } else c }
  s.updMill d fun c => { c with
    resetBusy := true, returning := some chosen, ops := [], runsTo := [], changeTo := [], ladderAt := [], quad := 0, ganged := false, paired := false, results := []
    resultPoison := [], cycles := [], droopStop := 0, rung := [], lastIssue := []
    ladder := set.ladder, stagger := set.stagger, hold := set.hold }

/-- MILL_RESET (R357): a write of 1 to RESET. `clockOk` says that the die's forwarded MCLK is there, `faults` what the
test of its bundles finds. -/
def execMillReset (d : Die) (a : RegAcc) (clockOk : Bool) (faults : List LaneFault) (s : State) : Out :=
  .next <|
    match s.pfWrites a (offMillCtl d.val) with
    | some port => if a.bit 0 then s.millReset d.val port clockOk faults else s
    | none => s

/-- DIE_RETURNED (R357): at a tide boundary the reset die returns to service. -/
def execDieReturned (d : Die) (s : State) : Out :=
  .next <|
    match (s.mill d.val).returning with
    | none => s
    | some n =>
      if s.tide.boundary ≠ some s.alm.now then s else
      let s := s.updMill d.val fun c => { c with fenced := false, resetBusy := false, returning := none, status := 0 }
      let s := s.updFence (5 + d.val) fun f => { f with fenced := false }
      let s := { s with keels := (List.range 4).foldl (fun m k =>
        m.upd {} k fun c => { c with fencedBins := c.fencedBins &&& ~~~(BitVec.ofNat 8 (2 ^ d.val)) }) s.keels }
      s.raiseBoth .dieReturned (srcDie (5 + d.val)) (leBytes 1 (5 + d.val) ++ leBytes 1 (min 255 n))

end Sys2Proof.Machine
end

