-- ==== Sys2Proof/Machine/Weir.lean ====
section
/-! DEFINITION. The Weir levels and operating points of the Mill dies (R366 to R374), and what a loss of power leaves. -/

namespace Sys2Proof.Machine

open Sys2Proof

/-! ## Levels (R369) -/

/-- The Mill die beside which a stack lies: H(6k + s) by M(2k) for s 0-2, by M(2k + 1) for s 3-5. -/
def stackDie (i : Nat) : Nat := 2 * (i / 6) + i % 6 / 3

/-- The lowest of the thermal ceilings that apply to a die (R376, R379). -/
def State.thermalCeiling (s : State) (d : Nat) : Nat :=
  let own := min (s.heat (5 + d)).ceil (min (s.heat (1 + d / 2)).ceil (s.heat 0).ceil)
  ((List.range 24).filter fun i => stackDie i = d).foldl (fun c i => min c (s.stack i).ceiling) own

/-- The sealed level, 64 outside sealed mode. -/
def State.sealCeiling (s : State) (d : Nat) : Nat := if (s.diePower d).sealOn then (s.diePower d).sealLevel else 64

/-! ## PMBus conditions (R387, R389) -/

/-- STATUS_INPUT's conditions: input above 56 V, below 44 V, limited at 109 A (R362), draw above the cap in force. -/
def State.statusInputNow (s : State) : BitVec 8 :=
  let bits := 64 * b2n (560 < s.pwr.volts) + 32 * b2n (s.pwr.volts < 440)
    + 2 * b2n (s.pwr.volts < 440 && s.pwr.inForce = 109 * s.pwr.volts / 10) + b2n s.pwr.aboveCap
  BitVec.ofNat 8 bits

/-- STATUS_TEMPERATURE's: a thermal ceiling below 64 acts on a die, or a stack refreshes at x4 or is fenced. -/
def State.statusTempNow (s : State) : BitVec 8 :=
  if ((List.range 13).any fun i => (s.heat i).ceil < 64)
      || ((List.range 24).any fun i => (s.stack i).ceiling < 64 || (s.stack i).rate = 2 || (s.stack i).fenced) then 0x40 else 0

def State.statusMfrNow (s : State) : BitVec 8 := if s.boot.wharfFailed then 1 else 0

/-- The status bits latch every condition that holds. -/
def State.latchStatus (s : State) : State :=
  { s with pmbus := { s.pmbus with
    input := s.pmbus.input ||| s.statusInputNow, temperature := s.pmbus.temperature ||| s.statusTempNow
    mfr := s.pmbus.mfr ||| s.statusMfrNow } }

/-- STATUS_WORD. -/
def State.statusWord (s : State) : Nat :=
  let i := s.pmbus.input ≠ 0
  let m := s.pmbus.mfr ≠ 0
  0x2000 * b2n i + 0x1000 * b2n m + 4 * b2n (s.pmbus.temperature ≠ 0) + 2 * b2n (s.pmbus.cml ≠ 0) + b2n (i || m)

/-- The level that a die is to take (R369), within 1-64. -/
def State.wantLevel (s : State) (d : Nat) : Nat :=
  max 1 (min (min (stepCeiling (s.diePower d).step) s.pwr.common) (min (s.thermalCeiling d) (s.sealCeiling d)))

/-- The lowest MS number among the running phases that use a die, if any uses it (R373). -/
def State.runningPref (s : State) (d : Nat) : Option Nat :=
  s.pols.foldl (fun acc e => e.2.running.foldl (fun (acc : Option Nat) r =>
    match s.schedule r.2.m.schedule with
    | some c =>
      let i := r.2.phase - 1
      let ph := c.phases.getD i { worst := [] }
      if r.2.phase ≠ 0 && ph.dies.getLsbD d then
        let pt := s.phasePoint ph r.2.m.opp i
        match acc with
        | some x => some (min x pt)
        | none => some pt
      else acc
    | none => acc) acc) none

/-- A moving age: kept while the condition holds, taken when it begins. -/
def sinceWhen (cond : Bool) (now : Nat) (old : Option Nat) : Option Nat :=
  if cond then (if old.isSome then old else some now) else none

/-- R372's two conditions on a die. -/
def State.lowCond (s : State) (d : Nat) : Bool :=
  let p := s.diePower d
  p.step < 7 && (s.mill d).weir ≤ stepCeiling (p.step + 1)

def State.highCond (s : State) (d : Nat) : Bool :=
  let p := s.diePower d
  let pref := match s.runningPref d with
    | some m => m < p.step
    | none => false
  stepCeiling p.step < min s.pwr.common (s.thermalCeiling d) && pref

def State.watchSteps (s : State) : State :=
  (List.range 8).foldl (fun s d => s.updDiePower d fun p => { p with
    lowSince := sinceWhen (s.lowCond d) s.clock p.lowSince, highSince := sinceWhen (s.highCond d) s.clock p.highSince }) s

/-- New levels travel to the dies. -/
def State.reweir (s : State) : State :=
  ((List.range 8).foldl (fun s d => s.updMill d fun c => { c with weirNext := s.wantLevel d }) s).watchSteps.latchStatus

/-! ## Steps (R368, R373) -/

/-- A die begins to change its step: down, the ceiling falls at once; up, the voltage rises first. (DEDUCED: log 53)
-/
def State.beginStep (s : State) (d new : Nat) : State :=
  let p := s.diePower d
  if new = p.step || p.changing.isSome then s else
  (s.updDiePower d fun p => { p with changing := some new, step := max p.step new }).reweir

/-- The one move that a phase start makes: down always, up to the highest step whose ceiling lies at or below both L and
the thermal ceiling; it waits for a change in progress. -/
def State.moveStep (s : State) (d : Nat) : State :=
  let p := s.diePower d
  if s.pwr.dflt || s.sealed then s
  else if p.changing.isSome then s.updDiePower d fun p => { p with moveDue := true }
  else
    let s := s.updDiePower d fun p => { p with moveDue := false }
    match s.runningPref d with
    | none => s
    | some m =>
      if p.step < m then s.beginStep d m
      else
        let room := min s.pwr.common (s.thermalCeiling d)
        match (List.range p.step).find? fun i => m ≤ i && stepCeiling i ≤ room with
        | some i => s.beginStep d i
        | none => s

/-! ## Loss of power (R318, R362, R377) -/

/-- The module without power: fuses, flash, the level of its input and its pins stay; all other state is lost. -/
def State.powerOff (s : State) : State :=
  { ({} : State) with
    pending := s.pending, seed := s.seed, clock := s.clock, nextId := s.nextId, nv := s.nv
    boot := { ({} : Boot) with inserted := s.boot.inserted, pwrGood := s.boot.pwrGood }
    pwr := { ({} : Power) with volts := s.pwr.volts }
    ports := s.ports.mapAll {} fun _ (q : HostPort) => { ({} : HostPort) with perst := q.perst, refclk := q.refclk } }

end Sys2Proof.Machine
end

