-- ==== Sys2Proof/Machine/Hbm.lean ====
section
/-! DEFINITION. Home service of non-caching requests, add-to-line, trackers, and the stacks: access, refresh and
heat (chapters 8 and 9). -/

namespace Sys2Proof.Machine

open Sys2Proof

/-! ## The Granary and the homes -/

/-- The victim of a full set of a Granary cache: the least recently used line that is not marked keep (R163, R171). -/
def State.granVictim (s : State) (k set : Nat) : Option Nat :=
  let keys := (List.range 16).map fun w => 2 ^ 20 * k + 16 * set + w
  if keys.all fun i => (s.gran.get {} i).valid then
    victim (keys.map fun i => let g := s.gran.get {} i; (i, g.valid, g.keep, g.used))
  else none

/-- GRANARY_EVICTION (R163): the victim of a full set leaves it; its dirty sectors go to HBM. -/
def execGranaryEviction (k : Keel) (set way : Nat) (s : State) : Out :=
  .next <|
    let key := 2 ^ 20 * k.val + 16 * set + way
    if (s.keel k.val).fenced || s.granVictim k.val set ≠ some key then s else s.granEvict key

/-- The operations whose recall leaves the owner a clean copy (R194). -/
def readsHome : HomeOp → Bool
  | .read _ => true
  | .range .prefetch _ => true
  | .range .flush _ => true
  | _ => false

/-- A request reaches its home, if it may. -/
def State.serveReq (s : State) (id : Nat) (f : HomeOp → Bool) : State :=
  match s.reqs.find? fun r => r.id = id && f r.op && s.mayServe r with
  | none => s
  | some r => s.serve r

/-- HOME_NONCACHING_READ (R194): an owner is recalled clean first. -/
def execHomeNoncachingRead (id : Nat) (s : State) : Out := .next (s.serveReq id readsHome)

/-- HOME_NONCACHING_WRITE (R194): a write, atomic, add-to-line, CLEAN_INVALIDATE or DISCARD; every Bin copy is
recalled first. -/
def execHomeNoncachingWrite (id : Nat) (s : State) : Out := .next (s.serveReq id fun o => !readsHome o)

/-- A request that waited at its sender holds a tracker. -/
def State.trackReq (s : State) (id : Nat) : State :=
  { s with reqs := s.reqs.map fun (x : HomeReq) => if x.id = id then { x with tracked := true } else x }

/-- TRACKER_FREED (R180): the oldest request of the Keel that finds a tracker now takes it; where none waits, the accesses that
wait at a Bin's line go on. -/
def execTrackerFreed (k : Keel) (s : State) : Out :=
  .next <|
    match s.reqs.find? fun r => !r.tracked && homeOf r.line = k.val && s.trackerFree k.val r.pol with
    | some r => (s.trackReq r.id).takeTracker k.val r.pol otherAgent
    | none =>
      match s.bins.find? fun e => homeOf e.2.line = k.val && !e.2.waits.isEmpty && (isStable e.2.st || e.2.st = .i)
          && s.trackerFree k.val e.2.pol with
      | some e => s.serveWaits e.1
      | none => s

/-- The feature an add-to-line type needs (R176). -/
def atlFeature (w : Word) : AtlType → Bool
  | .fp32 => w.getLsbD 5
  | .bf16 => w.getLsbD 6
  | .int32 => true

/-- ADD_TO_LINE (R175, R176): Cooper of die d sends addends for a line, by element. An HBM line at a Keel where the
polder has no Granary partition, a Cask page, and anything but this module's memory is refused with PERMISSION. -/
def execAddToLine (d : Die) (p : Pol) (seq va : Nat) (ty : AtlType) (addends : List (Nat × Lane)) (s : State) : Out :=
  .next <|
    let src := srcStation 3 d.val
    let eng := EngineRef.station 3 d.val p.val seq
    if va % 1024 ≠ 0 || !(addends.all fun a => a.1 < 1024 / atlSize ty) || !atlFeature s.featureWord ty
        || (s.mill d.val).fenced || !(s.pol p.val).isRunning seq || ((s.pol p.val).run seq).suspended || s.held src p.val then s else
    match s.translate eng p.val va 2 ((s.pol p.val).run seq).m.tag with
    | (.wait, s) => s
    | (.start, s) => s
    | (.denied, s) => (s.endWalks eng).permission src p.val va 2
    | (.aborted, s) => s.endWalks eng
    | (.fenced, s) => (s.endWalks eng).raiseOwn .fencedTarget src p.val (addrDetail va 2)
    | (.ok e dpa, s) =>
      let s := s.endWalks eng
      let line := dpaOffset dpa / 1024
      if !s.localMem dpa || (isHbmLine line && (s.granPart (homeOf line) p.val).isNone) then s.permission src p.val va 2
      else (s.updRun p.val seq fun r => { r with stores := r.stores + 1 }).newReq
        (.addLine ty addends (s.station d.val p.val).cooperPoison) line p.val (.station 3 d.val p.val seq) va (eHint e)

/-! ## The HBM controllers (R181, R183) -/

/-- A stack takes commands. -/
def State.stackUp (s : State) (i : Nat) : Bool := (s.stack i).trained && !(s.stack i).fenced && !(s.keel (i / 6)).fenced

def State.hbmLine (s : State) (k line : Nat) : Option Nat :=
  match s.region (line * 1024) with
  | .hbm k' r => if k' = k && s.stackUp (s.stackOf line) then some (s.locate k r).1 else none
  | _ => none

/-- HBM_READ (R183): a line's 1,024 bytes leave its pseudo-channel as two entries of the group's read quay. (DESIGN
CHOICE: log 23) -/
def execHbmRead (k : Keel) (line : Nat) (s : State) : Out :=
  .next <|
    match s.hbmLine k.val line with
    | none => s
    | some q =>
      let n := 240 + 48 * k.val + q
      -- a quay without room for the line holds the controller (R28)
      if quayDepth n < (s.quay n).entries.length + 2 || !(s.quay n).waiting.isEmpty then s else
      (s.pushQuay n (.bytes (memRead s.mem (line * 1024) 512))).pushQuay n (.bytes (memRead s.mem (line * 1024 + 512) 512))

/-- HBM_WRITE (R183): the two oldest entries of the group's write quay become a line. (DESIGN CHOICE: log 23) -/
def execHbmWrite (k : Keel) (line : Nat) (s : State) : Out :=
  .next <|
    match s.hbmLine k.val line with
    | none => s
    | some q =>
      let n := 48 + 48 * k.val + q
      match (s.quay n).entries with
      | .bytes a :: .bytes b :: _ =>
        let s := (s.updQuay n QuaySt.pop).updQuay n QuaySt.pop
        { s with mem := memWrite s.mem (line * 1024) (slice a 0 512 ++ slice b 0 512) }.updMark line fun m =>
          { m with dead := 0, poison := 0 }
      | _ => s

/-! ## Refresh and heat (R184, R379) -/

/-- HBM_REFRESH (R184): a pseudo-channel's interval expires; the rate that the last reading set takes effect. Above
the normal rate each block costs 100 HCLK cycles (80 ns) more than booked, which is the 4.10 % or 8.20 % that R184
gives to REFRESH, of the running hard manifests that use its channel group. (DEDUCED: log 36) -/
def execHbmRefresh (i : StackId) (pc : Fin 64) (s : State) : Out :=
  .next <|
    if !s.stackUp i.val || (s.stack i.val).out.getLsbD pc.val then s else
    let q := 8 * (i.val % 6) + pc.val / 8
    let group := 48 * (i.val / 6) + q
    let uses := fun (r : Run) => match s.schedule r.m.schedule with
      | some c => c.groups.contains group
      | none => false
    let t := if (s.stack i.val).pcRate.get 0 pc.val = 0 then s else
      (List.range 64).foldl (fun s p => if s.holdsGroup p (i.val / 6) q then s.delayRuns p uses 80 .refresh else s) s
    t.updStack i.val fun t => { t with refreshes := t.refreshes + 1, pcRate := t.pcRate.set 0 pc.val t.rate }

/-- The row of R184 for a reading. (DEDUCED: log 37) -/
def refreshRow (c : Nat) : Nat := if 95 < c then 2 else if 85 < c then 1 else 0

/-- The adjacent die's ceiling at a reading (R379). (DEDUCED: log 37) -/
def stackCeiling (c : Nat) : Nat := max 16 (48 - 8 * (c - 98))

/-- A reading of a stack, row by row. (DEDUCED: log 37) -/
def State.stackReading (s : State) (i c : Nat) : State :=
  let t := s.stack i
  let since := fun (lim : Nat) (old : Option Nat) => if lim < c then none else if old.isSome then old else some s.clock
  let entering := t.rate < 2 && 95 < c
  let hot := entering || t.ceiling < 64
  let s := s.updStack i fun t => { t with
    temp := c, peak := max t.peak c, rate := max t.rate (refreshRow c), hotSeen := t.hotSeen || entering
    ceiling := if hot then stackCeiling c else 64
    lowSince := since 82 t.lowSince, coolSince := since 92 t.coolSince }
  let s := if entering then s.raiseBoth .stackHot (srcStack i) (leBytes 1 i ++ leBytes 1 c) else s
  let s := s.reweir
  if 105 ≤ c then s.fenceStack i else s

/-- STACK_TEMP_READ (R184, R379, R380). -/
def execStackTempRead (i : StackId) (c : Nat) (s : State) : Out :=
  .next <|
    if s.stackUp i.val then s.stackReading i.val (min 255 c)
    else if (s.stack i.val).trained then s.updStack i.val fun t => { t with temp := min 255 c, peak := max t.peak (min 255 c) }
    else s

/-- A condition has held for a time. -/
def State.heldFor (s : State) (since : Option Nat) (n : Nat) : Bool :=
  match since with
  | some a => s.passed a n
  | none => false

/-- REFRESH_RATE_FALLBACK (R184): after 1 ms at or below the lower row's limit minus 3 °C. (DEDUCED: log 37) -/
def execRefreshRateFallback (i : StackId) (s : State) : Out :=
  .next <|
    let t := s.stack i.val
    if !s.stackUp i.val then s
    else if t.rate = 2 && s.heldFor t.coolSince 1000000 then s.updStack i.val fun t => { t with rate := 1 }
    else if t.rate = 1 && s.heldFor t.lowSince 1000000 then s.updStack i.val fun t => { t with rate := 0 }
    else s

/-- STACK_CEILING_RELEASE (R379): after 1 ms at or below 92 °C. (DEDUCED: log 37) -/
def execStackCeilingRelease (i : StackId) (s : State) : Out :=
  .next <|
    let t := s.stack i.val
    if t.ceiling < 64 && s.heldFor t.coolSince 1000000 then (s.updStack i.val fun t => { t with ceiling := 64 }).reweir else s

end Sys2Proof.Machine
end

