-- ==== Sys2Proof/Machine/Crier.lean ====
section
/-! DEFINITION. The Crier and the day books (chapter 16). -/

namespace Sys2Proof.Machine

open Sys2Proof

/-! ## Codes (R352, R146, R273) -/

/-- Code number, class (0 normal, 1 fast), and whether its repeat kind is hold. -/
def codeInfo : Code → Nat × Nat × Bool
  | .translationMiss => (0x0101, 1, true)
  | .joined => (0x0102, 1, true)
  | .permission => (0x0201, 1, true)
  | .manifestReject => (0x0202, 0, false)
  | .rangeClipped => (0x0210, 0, false)
  | .poisonRead => (0x0301, 1, false)
  | .bondPoison => (0x0302, 1, false)
  | .memoryUe => (0x0303, 1, false)
  | .caskMalformed => (0x0308, 1, false)
  | .poisonConsumed => (0x0309, 1, true)
  | .stockPoisoned => (0x030A, 1, false)
  | .partialCrew => (0x0401, 1, true)
  | .strandedBarrier => (0x0402, 1, true)
  | .illegalInstruction => (0x0403, 1, true)
  | .maskOverflow => (0x0404, 1, true)
  | .localRange => (0x0405, 1, true)
  | .misaligned => (0x0406, 1, true)
  | .handTrap => (0x0407, 0, true)
  | .deadlineMiss => (0x0501, 1, true)
  | .freeboardLow => (0x0502, 1, true)
  | .admissionRefused => (0x0503, 0, true)
  | .firmLate => (0x0504, 0, false)
  | .almanacHoldover => (0x0505, 0, false)
  | .almanacLocked => (0x0506, 0, false)
  | .manifestDone => (0x0507, 0, false)
  | .fencedTarget => (0x0601, 1, false)
  | .lateCompletion => (0x0602, 0, false)
  | .dieFenced => (0x0603, 1, false)
  | .keelFenced => (0x0604, 1, false)
  | .dieReturned => (0x0605, 0, false)
  | .daybookOverflow => (0x0606, 1, false)
  | .polderFenced => (0x0607, 1, false)
  | .bundleDead => (0x0608, 1, false)
  | .hostTimeout => (0x0620, 1, false)
  | .peerPortReset => (0x0621, 0, false)
  | .linkDowngrade => (0x0701, 1, false)
  | .linkDown => (0x0702, 1, false)
  | .linkUp => (0x0703, 1, false)
  | .collectiveTimeout => (0x0704, 1, false)
  | .peerNotice => (0x0705, 1, false)
  | .laserLost => (0x0706, 1, false)
  | .stackHot => (0x0801, 0, false)
  | .stackFenced => (0x0802, 1, false)
  | .dieHot => (0x0803, 0, false)
  | .droop => (0x0804, 0, false)
  | .capChanged => (0x0805, 0, false)
  | .inputRange => (0x0806, 1, false)
  | .sealLapsed => (0x0820, 1, false)
  | .imageReject => (0x0901, 1, true)
  | .keyChanged => (0x0902, 0, false)
  | .firmwareFallback => (0x0903, 0, false)

def codeClass (c : Code) : Nat := (codeInfo c).2.1
def codeHold (c : Code) : Bool := (codeInfo c).2.2

/-! ## Edges (R340, R341, R343, R344) -/

/-- The die of a source (R344), numbered as in GH_DIE_i; 0 the Wharf die. -/
def dieOfSource (src : Nat) : Nat :=
  if src < 0x2000 then 5 + src / 1024
  else if src < 0x2040 then 5 + (src - 0x2000) / 8
  else if src < 0x2060 then 5 + (src - 0x2040) % 8
  else if 0x2100 ≤ src && src < 0x2104 then 1 + (src - 0x2100)
  else 0

/-- The die of a source is fenced. -/
def State.sourceFenced (s : State) (src : Nat) : Bool :=
  let i := dieOfSource src
  if i = 0 then false else if i < 5 then (s.keel (i - 1)).fenced else (s.mill (i - 5)).fenced

def State.updCrier (s : State) (f : Crier → Crier) : State := { s with crier := f s.crier }

def Crier.addStray (c : Crier) (n : Nat) : Crier := { c with stray := satAdd 0xFFFFFFFF c.stray n }

def Pend.sameBit (a b : Pend) : Bool := a.cls = b.cls && a.book = b.book && a.source = b.source && a.pol = b.pol

/-- Latch an edge into its pending bit; while its ring is full, OVERFLOW sets again (R350). -/
def State.latch (s : State) (e : Pend) : State :=
  let s := s.updCrier fun c => { c with pend := c.pend ++ [e] }
  if (s.book e.book e.cls).fullSince.isSome then s.updBook e.book e.cls fun b => { b with overflow := true } else s

/-- An edge arrives at the Crier. (DESIGN CHOICE: log 26) -/
def State.edge (s : State) (ev : Event) : State :=
  let cls := codeClass ev.code
  let b := s.book ev.book cls
  if !b.enable || s.sourceFenced ev.source then s.updCrier fun c => c.addStray 1 else
  let e : Pend := {
    code := ev.code, cls := cls, book := ev.book, source := ev.source, pol := ev.pol
    gen := (s.pol ev.pol).gen, time := s.alm.now, detail := ev.detail }
  let set := s.crier.pend.any fun x => x.sameBit e
  if codeHold ev.code then
    if set || b.fullSince.isSome || (s.crier.sluice.any fun x => x.sameBit e) then s.updCrier fun c => { c with sluice := c.sluice ++ [e] } else s.latch e
  else if set then
    (s.updCrier fun c => { c with pend := c.pend.map fun x => if x.sameBit e then { x with merged := true } else x }).updBook
      ev.book cls fun b => { b with merges := satAdd 0xFFFF b.merges 1 }
  else s.latch e

/-- EVENT_EDGE (R340): the oldest event message of the module band arrives. (DESIGN CHOICE: log 26) -/
def execEventEdge (s : State) : Out :=
  .next <|
    match s.crier.band with
    | [] => s
    | ev :: rest => (s.updCrier fun c => { c with band := rest }).edge ev

/-- SLUICE_RELEASE (R341): the oldest held edge of a source for a polder is latched once its pending bit is clear and
its ring has room. -/
def execSluiceRelease (cls : Fin 2) (p : Pol) (source : Nat) (s : State) : Out :=
  .next <|
    match s.crier.sluice.find? fun e => e.cls = cls.val && e.pol = p.val && e.source = source with
    | none => s
    | some e =>
      if (s.crier.pend.any fun x => x.sameBit e) || (s.book e.book e.cls).fullSince.isSome then s else
      (s.updCrier fun c => { c with sluice := c.sluice.erase e }).latch { e with held := true }

/-! ## The record writer (R342 to R350) -/

/-- Records of a ring (R345). -/
def Book.count (b : Book) : Nat := 2 ^ (b.size + 5)
/-- Records not yet consumed. -/
def Book.filled (b : Book) : Nat := (b.prod + 2 ^ 32 - b.cons) % 2 ^ 32
def Book.full (b : Book) : Bool := b.enable && b.filled = b.count

/-- The 32 bytes of a record (R346). -/
def pendRecord (e : Pend) (b : Book) : List Byte :=
  let phase := (b.prod / b.count) % 2 = 0
  let flags := 128 * b2n phase + 4 * b2n e.held + 2 * b2n b.afterOverflow + b2n e.merged
  leBytes 8 e.time ++ leBytes 2 e.source ++ leBytes 1 e.cls ++ leBytes 1 e.pol ++ leBytes 1 e.gen ++ leBytes 1 flags
    ++ leBytes 2 (codeInfo e.code).1 ++ slice e.detail 0 16

/-- Write a record at its place (R347): one write in local memory; in a host window, byte 13 last. (DESIGN CHOICE: log
26) -/
def State.placeRecord (s : State) (p : Nat) (base : Nat) (r : List Byte) : State :=
  let o := dpaOffset base
  match s.region o with
  | .host port w =>
    if s.hostDown port then s else
    [(0, 13), (14, 18), (13, 1)].foldl (fun s e => (s.hostWrite port p (w + e.1) (slice r e.1 e.2) false srcSeq (base + e.1) 3).getD s) s
  | _ => s.poke p o r false

/-- The pending record of a class that the writer serves next: ascending source, after the last winner (R342). -/
def nextPend (last : Nat) (l : List Pend) : Option Pend :=
  let least := fun (l : List Pend) => l.foldl (fun (m : Option Pend) e =>
    match m with
    | none => some e
    | some x => if e.source < x.source then some e else m) none
  match least (l.filter fun e => last < e.source) with
  | some e => some e
  | none => least l

/-- A record finds its ring full (R350 step 1). -/
def State.findFull (s : State) (e : Pend) : State :=
  let b := s.book e.book e.cls
  if b.full && b.fullSince.isNone then
    s.updBook e.book e.cls fun b => { b with overflow := true, fullSince := some s.clock, reported := false, fenced := false }
  else s

/-- DAYBOOK_RECORD_WRITE (R342): the writer of a class takes one pending record whose ring has room, clears its bit,
writes it, advances PROD, and sends the vector of a ring that was empty (R349). -/
def execDaybookRecordWrite (cls : Fin 2) (s : State) : Out :=
  .next <|
    let mine := s.crier.pend.filter fun e => e.cls = cls.val
    let s := mine.foldl (fun s e => s.findFull e) s
    match nextPend (s.crier.last.get 0 cls.val) (mine.filter fun e => !(s.book e.book e.cls).full) with
    | none => s
    | some e =>
      let b := s.book e.book e.cls
      let s := s.updCrier fun c => { c with pend := c.pend.erase e, last := c.last.set 0 cls.val e.source }
      let s := s.placeRecord e.book (b.base + 32 * (b.prod % b.count)) (pendRecord e b)
      let s := s.updBook e.book e.cls fun b => { b with prod := (b.prod + 1) % 2 ^ 32, afterOverflow := false }
      if b.filled = 0 then s.bookVector e.book e.cls else s

/-! ## Registers -/

def offDbBase (p c : Nat) : Nat := 0x40000 + 0x40 * p + 0x20 * c
def offDbRing (p c : Nat) : Nat := 0x40008 + 0x40 * p + 0x20 * c
def offDbStat (p c : Nat) : Nat := 0x40010 + 0x40 * p + 0x20 * c

/-- The base that ENABLE accepts (R345). -/
def State.bookPlace (s : State) (p base : Nat) : Bool :=
  dpaModule base = s.boot.moduleId &&
  match s.region (dpaOffset base) with
  | .hbm _ _ => true
  | .tier _ _ => true
  | .host q _ => q = (s.pol p).port
  | _ => false

/-- ENABLE goes to 0: what is pending is discarded and counted, what is held is released (R344). (DEDUCED: log 38) -/
def State.bookOff (s : State) (p c : Nat) : State :=
  let here := fun (e : Pend) => e.book = p && e.cls = c
  let n := (s.crier.pend.filter here).length + (s.crier.sluice.filter here).length
  (s.updCrier fun k => { k.addStray n with
    pend := k.pend.filter fun e => !here e, sluice := k.sluice.filter fun e => !here e }).updBook p c fun b =>
    { b with enable := false, fullSince := none, reported := false, fenced := false, afterOverflow := false }

/-- A write of CRIER_DB_BASE_p_c by the PF that owns the polder. -/
def State.dbBaseWrite (s : State) (p c : Nat) (a : RegAcc) : State :=
  let b := s.book p c
  if b.enable then (if a.hits 0 && !a.bit 0 then s.bookOff p c else s) else
  let base := 4096 * a.fld 12 46 (b.base / 4096)
  let size := a.fld 8 4 b.size
  let on := a.bit 0 && s.bookPlace p base && size ≤ 10
  s.updBook p c fun b =>
    if on then { b with base := base, size := size, enable := true, prod := 0, cons := 0 }
    else { b with base := base, size := size }

/-- A write of CRIER_DB_RING_p_c (R348). -/
def State.dbRingWrite (s : State) (p c : Nat) (a : RegAcc) : State :=
  let b := s.book p c
  let cons := a.fld 0 32 b.cons
  let b' := { b with cons := cons }
  if b.count < b'.filled then s else
  s.updBook p c fun b =>
    if b.fullSince.isSome && !b'.full then
      { b with cons := cons, fullSince := none, reported := false, fenced := false, afterOverflow := true }
    else { b with cons := cons }

/-- A write of CRIER_DB_STAT_p_c; LIMIT only through the PF. -/
def State.dbStatWrite (s : State) (p c : Nat) (a : RegAcc) (pf : Bool) : State :=
  s.updBook p c fun b => { b with
    limit := if pf then a.fld 56 8 b.limit else b.limit
    overflow := b.overflow && !a.bit 0 }

/-- A write by the polder's own function, the owning PF or its VF. -/
def State.bookWriter (s : State) (p : Nat) (a : RegAcc) (off : Nat) : Bool :=
  a.valid && s.srcReaches a.src && s.offLive a.src off && (s.pol p).port = a.src.portOf
    && (a.src.isPf || (s.pol p).vf = a.src.fnOf)

/-- DAYBOOK_ENABLE (R345). -/
def execDaybookEnable (p : Pol) (cls : Fin 2) (a : RegAcc) (s : State) : Out :=
  .next <|
    if s.ownerWrites p.val a (offDbBase p.val cls.val) && a.bit 0 then s.dbBaseWrite p.val cls.val a else s

/-- DAYBOOK_DISABLE (R344). -/
def execDaybookDisable (p : Pol) (cls : Fin 2) (a : RegAcc) (s : State) : Out :=
  .next <|
    if s.ownerWrites p.val a (offDbBase p.val cls.val) && !a.bit 0 then s.dbBaseWrite p.val cls.val a else s

/-- DAYBOOK_CONS_WRITE (R348): by the polder's VF or its PF. (DEDUCED: log 65) -/
def execDaybookConsWrite (p : Pol) (cls : Fin 2) (a : RegAcc) (s : State) : Out :=
  .next <| if s.bookWriter p.val a (offDbRing p.val cls.val) then s.dbRingWrite p.val cls.val a else s

/-! ## Overflow (R350) -/

/-- DAYBOOK_OVERFLOW (R350 step 2): a tenant's ring has been full for 2 µs. -/
def execDaybookOverflow (p : Pol) (cls : Fin 2) (s : State) : Out :=
  .next <|
    let b := s.book p.val cls.val
    if 2 ≤ p.val && !b.reported && s.heldFor b.fullSince 2000 then
      (s.updBook p.val cls.val fun b => { b with reported := true }).raiseSup .daybookOverflow (srcPolder p.val) p.val
        (leBytes 1 p.val ++ leBytes 1 cls.val)
    else s

/-- POLDER_FENCED (R350 step 4): no room was made within LIMIT ms; the polder's work ends FENCED, its ring stops, and
its held engines go on. The generation stays. -/
def execPolderFenced (p : Pol) (cls : Fin 2) (s : State) : Out :=
  .next <|
    let b := s.book p.val cls.val
    if 2 ≤ p.val && !b.fenced && s.heldFor b.fullSince (1000000 * max 1 b.limit) then
      let s := s.updBook p.val cls.val fun b => { b with fenced := true }
      let s := (s.emptyPending p.val stFenced).fenceRuns p.val
      let s := s.updPol p.val fun q => { q with enable := false, stopping := false }
      let s := s.updCrier fun c => { c with sluice := c.sluice.filter fun e => e.book ≠ p.val }
      s.raiseSup .polderFenced (srcPolder p.val) p.val (leBytes 1 p.val ++ leBytes 1 cls.val)
    else s

end Sys2Proof.Machine
end

