-- ==== Sys2Proof/Machine/HostMem.lean ====
section
/-! DEFINITION. Memory traffic between the module and its hosts: accesses through BAR index 2 (R281 to R283), and the
requests the module makes of a host (R284 to R286). -/

namespace Sys2Proof.Machine

open Sys2Proof

/-! ## BAR index 2 -/

/-- The size of a function's BAR index 2 (R281): 4 TiB of a PF, 64 GiB of a VF at reset. -/
def State.bar2Size (s : State) (port fn : Nat) : Nat :=
  let q := s.port port
  if fn = 0 then 2 ^ (let l := (q.fn 0).bar2Log; if l = 0 then 42 else l)
  else 2 ^ (if q.vfBarLog = 0 then 36 else q.vfBarLog)

/-- A run of an access through BAR index 2: its first DPA, its length, and its hint. -/
structure Seg where
  dpa : Nat
  len : Nat
  hint : Nat := 0
deriving DecidableEq, Repr

/-- How an access through BAR index 2 is decided (R282). -/
inductive Verdict where
  | undecoded | refused | reserved | fenced
  | ok (segs : List Seg)
deriving DecidableEq, Repr

def halfHold : Nat := 2 ^ 32

/-- Whether a PF reaches an access that meets the hold group: none outside it. Before Stage 3 its own staging window; from
Stage 3 not the half that holds the image, and the other half from Stage 4 where LOADERS permits the PF (R321, R322,
R324). -/
def State.holdReach (s : State) (port o len : Nat) : Option Bool :=
  match s.boot.holdBase with
  | none => none
  | some lo =>
    if o + len ≤ lo || lo + 2 * halfHold ≤ o then none else
    let own := lo + port * halfHold
    let free := lo + (1 - s.boot.imageHalf) * halfHold
    let within := fun base => base ≤ o && o + len ≤ base + halfHold
    let loader := [0, 3, port + 1].contains s.charter.loaders
    some (if s.boot.stage < 3 then within own else 4 ≤ s.boot.stage && within free && loader)

/-- The granules an access touches, each by its first address in the access. -/
def granules (o len : Nat) : List (Nat × Nat) :=
  (List.range ((o % 2 ^ 21 + len + 2 ^ 21 - 1) / 2 ^ 21)).map fun i =>
    let a := if i = 0 then o else (o / 2 ^ 21 + i) * 2 ^ 21
    (a, min (o + len) ((o / 2 ^ 21 + i + 1) * 2 ^ 21) - a)

/-- A PF's access: offset o is local offset o. (DEDUCED: log 41) -/
def State.pfVerdict (s : State) (port o len : Nat) : Verdict :=
  if s.bar2Size port 0 < o + len then .undecoded else
  match s.holdReach port o len with
  | some true => .ok [⟨s.boot.moduleId * 2 ^ 48 + o, len, 0⟩]
  | some false => if s.boot.stage < 3 then .undecoded else .refused
  | none =>
    if s.boot.stage < 3 then .undecoded else
    let kinds := (granules o len).map fun g =>
      match s.region g.1 with
      | .landPart _ => 2
      | .hbm _ _ | .tier _ _ => if s.memPort g.1 = some port then 0 else 2
      | _ => 1
    if kinds.contains 2 then .refused else if kinds.contains 1 then .reserved
    else .ok [⟨s.boot.moduleId * 2 ^ 48 + o, len, 0⟩]

/-- The translation of a granule for a VF, from the Wharf cache or the Land Register (R233, R236); none where its Keel is
fenced. -/
def State.wharfEntry (s : State) (p i : Nat) : Option TransEntry :=
  match s.cached (.wharf p) p i with
  | some e => some e
  | none =>
    if (s.keel (entryKeel i)).fenced then none else
    let eb := s.landEntry (spanBase i)
    some (if eValid eb && eSpan eb then { pol := p, index := spanBase i, span := true, value := eb }
      else { pol := p, index := i, value := s.landEntry i })

/-- A granule of a VF's access under R234, which does not wait on a miss (R243): none where it is refused. -/
def State.vfGranule (s : State) (p acc va len : Nat) : Option (Reach × Option TransEntry) :=
  if 2 ^ 45 ≤ va then none else
  match s.wharfEntry p (va / 2 ^ 21) with
  | none => some (.fenced, none)
  | some e =>
    let d := entryTarget e.value va
    if !eValid e.value || !s.entryAllows e.value p acc d then none else
    match s.reach p acc len e.value d with
    | .denied => none
    | r => some (r, some e)

/-- DEDUCED: log 41. -/
def State.vfVerdict (s : State) (port fn p acc o len : Nat) : Verdict :=
  if s.bar2Size port fn < o + len || (s.pol p).state < 2 then .undecoded else
  let gs := (granules o len).map fun g => (g.2, s.vfGranule p acc g.1 g.2)
  if gs.any fun g => g.2.isNone then .refused
  else if gs.any fun g => g.2.any fun r => r.1 = .fenced then .fenced
  else .ok (gs.filterMap fun g => match g.2 with
    | some (.memory e d, _) => some ⟨d, g.1, eHint e⟩
    | _ => none)

/-- A VF's translations stand in the Wharf cache (R236). -/
def State.wharfFill (s : State) (p o len : Nat) : State :=
  (granules o len).foldl (fun s g => match s.vfGranule p 0 g.1 g.2 with
    | some (_, some e) => s.fillCache 72 e
    | _ => s) s

/-- The lines of a run. -/
def linesIn (a n : Nat) : List Nat := (List.range ((a % 1024 + n + 1023) / 1024)).map fun i => a / 1024 + i

/-- The homes of a PF's run: a fenced one, or a fenced stack that cannot take a write, answers with FENCED_TARGET
(R185, R206), and part of a coded group takes no write (R112). (DEDUCED: log 41) -/
def State.bar2Verdict (s : State) (port fn p acc o len : Nat) : Verdict :=
  if fn ≠ 0 then s.vfVerdict port fn p acc o len else
  match s.pfVerdict port o len with
  | .ok segs =>
    if (linesIn o len).any fun l => s.homeFenced l || (acc = 1 && s.stackGone l) then .fenced
    else if acc = 1 && s.groupPart o len then .refused else .ok segs
  | v => v

/-- The sectors of a line that a run touches. -/
def runSectors (line a n : Nat) : BitVec 8 :=
  BitVec.ofNat 8 (((List.range 8).filter fun i =>
    let lo := line * 1024 + 128 * i
    lo < a + n && a < lo + 128).foldl (fun m i => m + 2 ^ i) 0)

/-! ### At the homes, at a host's window, at another module -/

/-- Pieces of a run within 1 KiB lines. -/
def linePieces : Nat → Nat → Nat → List (Nat × Nat)
  | 0, _, _ => []
  | fuel + 1, a, len =>
    if len = 0 then [] else
    let n := min len (1024 - a % 1024)
    (a, n) :: linePieces fuel (a + n) (len - n)

/-- The requests of one run of a host's read, with the answers it now awaits. -/
def State.bar2Read (s : State) (port p id va : Nat) (g : Seg) : Nat × State :=
  let who := Requester.host port id
  let o := dpaOffset g.dpa
  if dpaModule g.dpa ≠ s.boot.moduleId then
    (linePieces (g.len + 1) g.dpa g.len).foldl (fun x e =>
      let a := e.1 / 32 * 32
      match x.2.remoteRead p 1 a (e.1 + e.2 - a) who a with
      | some s => (x.1 + 1, s)
      | none => x) (0, s)
  else
    match s.region o with
    | .host q w => (s.hostRead q p w g.len who g.dpa).getD (0, s)
    | _ =>
      let ls := linesIn o g.len
      (ls.length, ls.foldl (fun s l => s.newReq (.read (runSectors l o g.len)) l p who va g.hint) s)

/-- One run of a host's write. -/
def State.bar2Write (s : State) (port p id va : Nat) (g : Seg) (bs : List Byte) (poison : Bool) : State :=
  let o := dpaOffset g.dpa
  if dpaModule g.dpa ≠ s.boot.moduleId then (s.remoteWrite p 1 g.dpa bs poison g.hint).getD s
  else
    match s.region o with
    | .host q w => (s.hostWrite q p w bs poison (srcBar2 port) va 4).getD s
    | _ =>
      (linesIn o g.len).foldl (fun s l =>
        let part : Bytes := ((List.range bs.length).filter fun i => (o + i) / 1024 = l).map fun i => ((o + i) % 1024, bs.getD i 0)
        s.newReq (.write part false poison) l p (.host port id) va g.hint) (s.untag o g.len)

/-- The line requests of a host's access reach their homes, as far as they may. -/
def State.beginHost (s : State) (port id : Nat) : State :=
  (s.reqs.filter fun r => r.who = .host port id).foldl (fun s r => if s.mayServe r then s.serve r else s) s

/-- A host's read, run by run; its completion leaves when every answer has come. (DEDUCED: log 41) -/
def State.hostFetch (s : State) (port fn p off : Nat) (segs : List Seg) : State :=
  let (id, s) := s.freshId
  let (n, s) := segs.foldl (fun (x : Nat × State) g =>
    let (k, s) := x.2.bar2Read port p id (s.bar2Va fn off) g
    (x.1 + k, s)) (0, s)
  (s.updPort port fun q => { q with
    bar2 := q.bar2 ++ [{ id := id, fn := fn, off := off, left := n, segs := segs.map fun g => (g.dpa, g.len) }] }).beginHost port id

/-- A host's write, run by run. -/
def State.hostStore (s : State) (port fn p off : Nat) (segs : List Seg) (bs : List Byte) (poison : Bool) : State :=
  let (id, s) := s.freshId
  (segs.foldl (fun (x : State × List Byte) g =>
    (x.1.bar2Write port p id (s.bar2Va fn off) g (x.2.take g.len) poison, x.2.drop g.len)) (s, bs)).1.beginHost port id

/-- Free bytes for a completion with EP set. -/
def State.completePoison (s : State) (port fn o len : Nat) : State :=
  let (bs, s) := s.freeBytes len
  s.complete port fn o bs true

/-- HOST_BAR2_READ (R282, R283). (DEDUCED: log 41) -/
def execHostBar2Read (src : Src) (off len : Nat) (s : State) : Out :=
  .next <|
    let port := src.portOf
    let fn := src.fnOf
    match s.fnPolder port fn with
    | none => s
    | some p =>
      if src = .dev 0 || src = .dev 1 || !s.fnUp port fn || len = 0 || s.held (srcBar2 port) p then s
      else if !s.fnReaches port fn || s.boot.stage < 2 then s.completeUr port fn
      else
        let post := fun (s : State) (c : Code) => s.raiseOwn c (srcBar2 port) p (s.bar2Addr fn off)
        match s.bar2Verdict port fn p 0 off len with
        | .undecoded => s.completeUr port fn
        | .refused => post (s.completeUr port fn) .permission
        | .reserved => post (s.completePoison port fn off len) .permission
        | .fenced => post (s.completePoison port fn off len) .fencedTarget
        | .ok segs => (if fn = 0 then s else s.wharfFill p off len).hostFetch port fn p off segs

def State.countAer (s : State) (port fn bit : Nat) : State :=
  s.updPort port fun q => q.updFn fn fun f => { f with aer := f.aer ||| BitVec.ofNat 32 (2 ^ bit) }

/-- A received write with EP set: Poisoned TLP Received, handled as an Advisory Non-Fatal Error (R282). (PRESUMED: log
9) -/
def State.countAdvisory (s : State) (port fn : Nat) : State :=
  (s.countAer port fn 12).updPort port fun q => q.updFn fn fun f => { f with aerCor := f.aerCor ||| 0x2000 }

/-- HOST_BAR2_WRITE (R282): a write received with EP set poisons the sectors it touches. -/
def execHostBar2Write (src : Src) (off : Nat) (data : List Byte) (ep : Bool) (s : State) : Out :=
  .next <|
    let port := src.portOf
    let fn := src.fnOf
    match s.fnPolder port fn with
    | none => s
    | some p =>
      if src = .dev 0 || src = .dev 1 || !s.fnReaches port fn || data.isEmpty || s.boot.stage < 2
          || s.held (srcBar2 port) p then s
      else
        let post := fun (s : State) (c : Code) => s.raiseOwn c (srcBar2 port) p (s.bar2Addr fn off)
        let s := if ep then s.countAdvisory port fn else s
        match s.bar2Verdict port fn p 1 off data.length with
        | .undecoded => s
        | .refused => post s .permission
        | .reserved => post s .permission
        | .fenced => post s .fencedTarget
        | .ok segs => (if fn = 0 then s else s.wharfFill p off data.length).hostStore port fn p off segs data ep

/-! ## Requests of the module -/

/-- HOST_WINDOW_READ (R284): an engine reads within one line of a host's window. A port that is down answers with
FENCED_TARGET and poison (R31). -/
def execHostWindowRead (port : Port) (p : Pol) (off len : Nat) (who : Requester) (s : State) : Out :=
  .next <|
    let (src, eng) := s.whoSource who
    let va := hostBase + port.val * 2 ^ 40 + off
    if (s.pol p).port ≠ port.val || len = 0 || 1024 < off % 1024 + len || 2 ^ 40 ≤ off || s.held src p then s
    else
      let counted := fun (n : Nat) (s : State) =>
        match who with
        | .porter q seq st tile _ => s.updRun q seq fun r => { r with
            streams := r.streams.upd {} st fun c => { c with
              tiles := c.tiles.upd {} tile fun b => { b with outstanding := b.outstanding + n } } }
        | _ => s
      if s.hostDown port then
        let s := (counted 1 s).raiseOwn .fencedTarget src p (addrDetail va eng)
        let (bs, s) := s.poisonBytes len
        s.deliverRead who p (s.pol p).gen false va 0 bs
      else
        match s.hostRead port p off len who va with
        | some (n, s) => counted n s
        | none => s.permission src p va eng

/-- HOST_WINDOW_WRITE (R284): posted writes, those of poisoned data with EP set. -/
def execHostWindowWrite (port : Port) (p : Pol) (off : Nat) (data : List Byte) (poison : Bool) (s : State) : Out :=
  .next <|
    let va := hostBase + port.val * 2 ^ 40 + off
    if (s.pol p).port ≠ port.val || data.isEmpty || 2 ^ 40 ≤ off || s.held srcSeq p then s
    else if s.hostDown port then s.raiseOwn .fencedTarget srcSeq p (addrDetail va 3)
    else
      match s.hostWrite port p off data poison srcSeq va 3 with
      | some s => s
      | none => s.permission srcSeq p va 3

/-- A tag is free: the oldest request that waits for one is sent (R284). -/
def State.nextRead (s : State) (port : Nat) : State :=
  match (s.port port).waitingReads with
  | [] => s
  | r :: rest => (s.updPort port fun q => { q with waitingReads := rest }).sendHostRead port r

def State.dropRead (s : State) (port tag : Nat) : State :=
  s.updPort port fun q => { q with reads := q.reads.filter fun r => r.tag ≠ tag }

/-- HOST_COMPLETION (R286): a completion of a read on its tag; one that no read awaits counts as Unexpected Completion
and is discarded. (PRESUMED: log 9) -/
def execHostCompletion (port : Port) (tag : Nat) (data : List Byte) (status : Nat) (ep : Bool) (s : State) : Out :=
  .next <|
    if s.hostDown port || !s.boot.stage0 then s else
    match (s.port port).reads.find? fun r => r.tag = tag with
    | none => s.countAer port 0 16
    | some r =>
      let s := if ep then s.countAer port r.fn 12 else s
      if status ≠ 0 then ((s.dropRead port tag).poisonHostRead r).nextRead port else
      let got := r.got ++ data.map fun b => (b, ep)
      if got.length < r.len then
        s.updPort port fun q => { q with reads := q.reads.map fun x => if x.tag = tag then { x with got := got } else x }
      else
        ((s.dropRead port tag).deliverRead r.who r.pol r.gen r.orphan r.va r.off (got.take r.len)).nextRead port

/-- The least time, in ns, that a Completion Timeout Value of Device Control 2 names: the default range or ranges A to
D as PCI Express gives them. (PRESUMED: log 9) -/
def timeoutLeast (v : Nat) : Nat :=
  match v with
  | 1 => 50000
  | 2 => 1000000
  | 5 => 16000000
  | 6 => 65000000
  | 9 => 260000000
  | 10 => 1000000000
  | 13 => 4000000000
  | 14 => 17000000000
  | _ => 50000

def State.devCtl2 (s : State) (port : Nat) : Nat := (((s.port port).fn 0).cfg.get 0 0x88).toNat

/-- HOST_TIMEOUT (R286): a read without its completion within the timeout completes poisoned. -/
def execHostTimeout (port : Port) (tag : Nat) (s : State) : Out :=
  .next <|
    match (s.port port).reads.find? fun r => r.tag = tag with
    | none => s
    | some r =>
      if !s.passed r.since (timeoutLeast (field (s.devCtl2 port) 0 4)) then s else
      let s := (s.dropRead port tag).countAer port r.fn 14
      let s := s.updPort port fun q => { q with timeouts := satAdd 0xFFFF q.timeouts 1 }
      let s := s.raiseOwn .hostTimeout (s.whoSource r.who).1 r.pol []
      (s.poisonHostRead r).nextRead port

end Sys2Proof.Machine
end

