-- ==== Sys2Proof/Machine/Polders.lean ====
section
/-! DEFINITION. The polders' commands (chapter 14): opening and closing, freezing and thawing, saving and restoring. -/

namespace Sys2Proof.Machine

open Sys2Proof

/-! ## Registers of the POL block -/

def offPolCtl (p : Nat) : Nat := 0x100008 + 0x40 * p
def offPolGrant (p : Nat) : Nat := 0x100010 + 0x40 * p
def offPolSave (p : Nat) : Nat := 0x100018 + 0x40 * p

/-- POL_GRANT_p (R262); writes count only where the charter sets FABRIC (R328). -/
def State.polGrantWrite (s : State) (p : Nat) (a : RegAcc) : State :=
  if !(s.polRec p).fabric then s else
  s.updPol p fun q => { q with
    job := a.fld 48 16 q.job, hi := a.fld 32 10 q.hi, lo := a.fld 16 10 q.lo, rd := a.flag 1 q.rd, wr := a.flag 0 q.wr }

def State.polSaveWrite (s : State) (p : Nat) (a : RegAcc) : State :=
  s.updPol p fun q => { q with saveBase := 65536 * a.fld 16 42 (q.saveBase / 65536) }

/-! ## Ends of commands -/

/-- A command completes, or is refused, with a STATUS. (DEDUCED: log 38) -/
def State.polDone (s : State) (p st : Nat) : State := s.updPol p fun q => { q with busy := false, status := st }

/-- What a port held for a polder that has no grant left is discarded as stale (R263, R307). -/
def LinkPort.dropHeld (p : Nat) (l : LinkPort) : LinkPort :=
  { l with
    stale := satAdd 0xFFFF l.stale (l.heldTxns.filter fun t => t.dstPol = p).length
    heldTxns := l.heldTxns.filter fun t => t.dstPol ≠ p }

/-- A polder becomes CLOSED, its freeze forgotten. -/
def State.closed (s : State) (p : Nat) : State :=
  { s.updPol p fun q => { q with
      state := 1, frozenBit := false, freezeAsked := false, thawAsked := false } with
    links := s.links.mapAll {} fun _ l => l.dropHeld p }

/-- CLOSE (R296): steps 2 and 3 of R291, then CLOSED. `own` is false where no command of the polder asks for it. -/
def State.closePol (s : State) (p : Nat) (own : Bool) : State := (s.advanceGen p own).closed p

/-! ## Freezing and thawing (R305, R308) -/

/-- A request of a polder that has been issued and has not completed. -/
def State.inFlight (s : State) (p : Nat) : Bool :=
  let serving := fun x => match x with
    | Serving.req r => r.pol = p
    | _ => false
  (s.reqs.any fun r => r.pol = p)
    || (s.txns.any fun e => serving e.2.serving || e.2.queue.any serving)
    || (s.hands.any fun e => e.2.pol = p
        && (!e.2.stores.isEmpty || e.2.unwon ≠ 0 || !e.2.atoms.isEmpty || !e.2.misses.isEmpty))
    || (s.bins.any fun e => e.2.pol = p && !e.2.waits.isEmpty)
    || (s.ports.any fun e => e.2.reads.any fun r => r.pol = p)
    || (s.links.any fun e => e.2.reads.any fun r => r.pol = p)
    || (s.land.walks.any fun w => w.pol = p && w.st = .walking)

/-- Nothing remains to complete: under MODE 0 every issued request, under MODE 1 every running manifest and its
record. -/
def State.frozenOut (s : State) (p : Nat) : Bool :=
  let q := s.pol p
  if q.mode = 0 then !s.inFlight p else q.running.isEmpty && q.records.isEmpty

/-- STATE becomes FROZEN, and the command completes. -/
def State.freezeOver (s : State) (p : Nat) : State :=
  let q := s.pol p
  if q.state = 3 && q.busy && q.frozenBit && s.frozenOut p then
    s.updPol p fun q => { q with state := 4, busy := false, status := 0 }
  else s

/-- FREEZE_EFFECT (R305): at the first tide boundary after GO pickup stops, and under MODE 0 every engine of the
polder stops. -/
def execFreezeEffect (p : Pol) (s : State) : Out :=
  .next <|
    let q := s.pol p.val
    if q.state = 3 && q.freezeAsked && s.tide.boundary = some s.alm.now then
      ((if q.mode = 0 then s.holdOps p.val else s).updPol p.val fun q => { q with
        frozenBit := true, frozenAt := s.alm.now, freezeAsked := false
        running := if q.mode = 0 then q.running.map fun e => (e.1, { e.2 with suspended := true }) else q.running }).freezeOver
        p.val
    else s

/-- FREEZE_COMPLETE (R305): what had to complete has completed. -/
def execFreezeComplete (p : Pol) (s : State) : Out := .next (s.freezeOver p.val)

/-- The polder runs again: suspended engines resume where they stopped, their watchdogs at the count they had (R144). -/
def State.resumePol (s : State) (p : Nat) : State :=
  let away := s.alm.now - (s.pol p).frozenAt
  let stopped := fun (h : Hand) => h.busy && h.pol = p && ((s.pol p).run h.runSeq).suspended && h.wait ≠ .none
  let s := { s with hands := s.hands.mapAll {} fun _ h => if stopped h then { h with waitSince := h.waitSince + away } else h }
  let s := s.updPol p fun q => { q with
    state := 2, frozenBit := false, thawAsked := false
    running := q.running.map fun e => (e.1, { e.2 with suspended := false }) }
  (s.resumeOps p).releaseHeld p

/-- THAW_EFFECT (R308): at the next tide boundary the polder is OPEN. -/
def execThawEffect (p : Pol) (s : State) : Out :=
  .next <|
    let q := s.pol p.val
    if q.state = 4 && q.thawAsked && s.tide.boundary = some s.alm.now then (s.resumePol p.val).polDone p.val 0 else s

/-! ## The save record (R309 to R312) -/

/-- The 64 KiB at an address lie wholly in local HBM, or wholly in the tier regions. -/
def State.recordPlace (s : State) (base : Nat) : Bool :=
  dpaModule base = s.boot.moduleId &&
  match s.region (dpaOffset base), s.region (dpaOffset base + 65535) with
  | .hbm _ _, .hbm _ _ => true
  | .tier _ _, .tier _ _ => true
  | _, _ => false

/-- A pending manifest as its slot held it, PHASE 0. -/
def savedSlot (m : Manifest) : List Byte :=
  putAt (slice m.raw 0 128) 7 [slice m.raw 7 1 |>.map (· &&& 0x7F) |>.headD 0]

/-- Bytes 0x0000 to 0xFFBF of the record. -/
def State.saveBody (s : State) (p : Nat) : List Byte :=
  let q := s.pol p
  leBytes 4 1 ++ leBytes 1 q.gen ++ leBytes 1 q.pending.length ++ leBytes 1 (b2n q.ringPhase)
    ++ leBytes 1 (16 * q.warn + b2n q.requireLock) ++ leBytes 4 q.consumed ++ leBytes 2 q.consumer ++ leBytes 2 q.ringSize
    ++ leBytes 8 q.frozenAt ++ leBytes 2 (s.boot.moduleId + 1024 * p) ++ leBytes 6 0
    ++ slice ((s.img.map Image.measure).getD []) 0 32 ++ leBytes 64 0
    ++ slice (q.pending.map savedSlot).flatten 0 2048 ++ leBytes 0x780 0
    ++ ((List.range 4096).map fun i => leBytes 8 (q.tallies.get 0 i)).flatten ++ leBytes 0x6FC0 0

/-- SAVE begins (R309, R313): VERSION 0 is written first, and the command is BUSY until the next ACLK cycle that no
command takes. (DESIGN CHOICE: log 64) -/
def State.save (s : State) (p : Nat) : State :=
  let q := s.pol p
  if !s.recordPlace q.saveBase then s.polDone p 4 else
  (s.poke p (dpaOffset q.saveBase) (leBytes 4 0) false).updPol p fun q => { q with busy := true }

/-- SAVE ends: the record, VERSION and DIGEST with it, stands in memory. (DESIGN CHOICE: log 64) -/
def State.saveEnd (s : State) (p : Nat) : State :=
  let body := s.saveBody p
  (s.poke p (dpaOffset (s.pol p).saveBase) (body ++ Crypto.shake256 body) false).polDone p 0

/-- The record that RESTORE accepts (R311). -/
def State.recordGood (s : State) (p : Nat) (r : List Byte) : Bool :=
  let q := s.pol p
  leAt r 0 4 = 1 && slice r 0xFFC0 64 = Crypto.shake256 (slice r 0 0xFFC0)
    && slice r 0x20 32 = slice ((s.img.map Image.measure).getD []) 0 32
    && leAt r 0xE 1 = q.ringSize && s.localMem q.ringBase

/-- A restored manifest: POLDER is rewritten, and a hard one waits to be admitted again. -/
def State.restoredManifest (s : State) (p seq i : Nat) (raw : List Byte) : Manifest :=
  let ctl := leAt raw 0 8
  let ctl := ctl - 2 ^ 42 * field ctl 42 6 + 2 ^ 42 * p
  let m := parseManifest (putAt raw 0 (leBytes 8 ctl)) (seq + i) 0 s.alm.now
  let c := (s.schedule m.schedule).getD { pol := p }
  { m with
    readmit := m.hard
    freeboard := if m.freeboard ≠ 0 then m.freeboard else c.freeboard
    prev := if i = 0 then none else some (seq + i - 1) }

/-- DEDUCED: log 38. -/
def State.applyRecord (s : State) (p : Nat) (r : List Byte) : State :=
  let n := min 16 (leAt r 5 1)
  let seq := (s.pol p).seqNext
  let list := (List.range n).map fun i => s.restoredManifest p seq i (slice r (0x80 + 128 * i) 128)
  let tallies := (List.range 4096).foldl (fun (t : SMap Nat) i => t.set 0 i (leAt r (0x1000 + 8 * i) 8)) []
  s.updPol p fun q => { q with
    gen := leAt r 4 1, tallies := tallies, tallyUsed := []
    consumer := leAt r 0xC 2, consumed := leAt r 8 4, ringPhase := (leAt r 6 1) % 2 = 1
    enable := true, stopping := false, warn := leAt r 7 1 / 16, requireLock := (leAt r 7 1) % 2 = 1
    pending := list, seqNext := seq + n, prev := if n = 0 then none else some (seq + n - 1)
    state := 4, frozenBit := true, frozenAt := leAt r 0x10 8 }

/-- RESTORE begins (R311, R313): it is BUSY, and changes nothing, until the next ACLK cycle that no command takes.
(DESIGN CHOICE: log 64) -/
def State.restore (s : State) (p : Nat) : State :=
  if !s.recordPlace (s.pol p).saveBase then s.polDone p 4 else s.updPol p fun q => { q with busy := true }

/-- RESTORE ends: the whole record is checked, and applied in one step. (DESIGN CHOICE: log 64) -/
def State.restoreEnd (s : State) (p : Nat) : State :=
  let base := dpaOffset (s.pol p).saveBase
  let r := s.peek base 65536
  if s.peekPoison base 65536 || !s.recordGood p r then s.polDone p 4 else (s.applyRecord p r).polDone p 0

/-- Every SAVE and RESTORE that is BUSY ends, unless an advance of the generation has ended it first (R313). (DESIGN
CHOICE: log 64) -/
def State.polEnds (s : State) : State :=
  ((List.range 64).filter fun p => (s.pol p).busy).foldl (fun s p =>
    if (s.pol p).cmd = 6 then s.saveEnd p else if (s.pol p).cmd = 7 then s.restoreEnd p else s) s

/-! ## POL_CTL_p (R296) -/

/-- STATE and FEATURE of the first column: the first condition that a command fails, 0 for none. -/
def State.polCheck (s : State) (p cmd : Nat) : Nat :=
  let q := s.pol p
  let word := (s.port q.port).confirmed
  let from_ := match cmd with
    | 1 => q.state = 1 && 2 ≤ p && (s.port q.port).vfEnable
    | 2 => (q.state = 2 || q.state = 3 || q.state = 4) && 2 ≤ p
    | 3 => q.state = 2
    | 4 => q.state = 2 && 2 ≤ p
    | 5 => q.state = 4
    | 6 => q.state = 4
    | 7 => q.state = 1
    | _ => false
  let migrates := cmd = 4 || cmd = 6 || cmd = 7
  if !from_ then 1
  else if (migrates && !word.getLsbD 3) || ((migrates || cmd = 1) && !s.mayRun q.port) then 3
  else if cmd = 6 && !q.running.isEmpty then 2
  else 0

/-- GO: the command that CMD names. -/
def State.polGo (s : State) (p cmd : Nat) : State :=
  let st := s.polCheck p cmd
  if st ≠ 0 then s.polDone p st else
  match cmd with
  | 1 => (s.updPol p fun q => { q with state := 2 }).polDone p 0
  | 2 => (s.closePol p true).polDone p 0
  | 3 => (s.advanceGen p true).polDone p 0
  | 4 => s.updPol p fun q => { q with state := 3, busy := true, freezeAsked := true }
  | 5 => s.updPol p fun q => { q with busy := true, thawAsked := true }
  | 6 => s.save p
  | _ => s.restore p

/-- A write of POL_CTL_p by the PF that owns the polder; ignored while BUSY is 1. (DEDUCED: log 59) -/
def State.polCtlWrite (s : State) (p : Nat) (a : RegAcc) : State :=
  let q := s.pol p
  if q.busy then s else
  let cmd := a.fld 12 4 q.cmd
  let s := s.updPol p fun q => { q with cmd := cmd, mode := a.fld 2 1 q.mode }
  if a.bit 0 then s.polGo p cmd else s

/-- A write that sets GO with the given command code. (DEDUCED: log 38) -/
def State.polCommand (s : State) (p : Nat) (a : RegAcc) (f : Nat → Bool) : State :=
  if s.ownerWrites p a (offPolCtl p) && a.bit 0 && f (a.fld 12 4 (s.pol p).cmd) then s.polCtlWrite p a else s

/-- OPEN (R296). -/
def execPolOpen (p : Pol) (a : RegAcc) (s : State) : Out := .next (s.polCommand p.val a (· == 1))
/-- CLOSE (R296). -/
def execPolClose (p : Pol) (a : RegAcc) (s : State) : Out := .next (s.polCommand p.val a (· == 2))
/-- BUMP (R296). -/
def execPolBump (p : Pol) (a : RegAcc) (s : State) : Out := .next (s.polCommand p.val a (· == 3))
/-- FREEZE (R296). -/
def execPolFreeze (p : Pol) (a : RegAcc) (s : State) : Out := .next (s.polCommand p.val a (· == 4))
/-- THAW (R296). -/
def execPolThaw (p : Pol) (a : RegAcc) (s : State) : Out := .next (s.polCommand p.val a (· == 5))
/-- SAVE (R309). (DESIGN CHOICE: log 64) -/
def execPolSave (p : Pol) (a : RegAcc) (s : State) : Out := .next (s.polCommand p.val a (· == 6))
/-- RESTORE (R311). (DESIGN CHOICE: log 64) -/
def execPolRestore (p : Pol) (a : RegAcc) (s : State) : Out := .next (s.polCommand p.val a (· == 7))
/-- POL_CMD_REFUSED (R296): CMD 0 and 8 to 15 end with STATUS 1. -/
def execPolCmdRefused (p : Pol) (a : RegAcc) (s : State) : Out :=
  .next (s.polCommand p.val a fun c => c = 0 || 8 ≤ c)

/-! ## Advances that reach many polders (R413) -/

def State.polsOf (s : State) (port : Nat) : List Nat := (List.range 64).filter fun p => (s.pol p).port = port

/-- Reset of a port, or FLR of its PF: every tenant that is OPEN, FREEZING or FROZEN becomes CLOSED; the supervisor
stays OPEN. -/
def State.resetPols (s : State) (port : Nat) : State :=
  (s.polsOf port).foldl (fun s p =>
    let t := (s.pol p).state
    let s := s.advanceGen p false
    if p < 2 then s.updPol p fun q => { q with frozenBit := false }
    else if t = 2 || t = 3 || t = 4 then s.closed p else s) s

/-- VF Enable goes to 0: every tenant that is not CLOSED is closed (R296). -/
def State.closeTenants (s : State) (port : Nat) : State :=
  (s.polsOf port).foldl (fun s p => if 2 ≤ p && (s.pol p).state ≠ 1 then s.closePol p false else s) s

end Sys2Proof.Machine
end

