-- ==== Sys2Proof/Machine/Host.lean ====
section
/-! DEFINITION. The host ports (chapter 13): functions, configuration space, MSI-X, resets of a port and of a
function, links, and Data Object Exchange with attestation and feature negotiation (chapter 15). -/

namespace Sys2Proof.Machine

open Sys2Proof

def State.updFn (s : State) (port fn : Nat) (f : Func → Func) : State := s.updPort port fun q => q.updFn fn f

/-! ## MSI-X (R287, R412) -/

/-- Vectors whose pending bit is set and that may be sent are sent. -/
def State.sendPending (s : State) (port fn : Nat) : State :=
  (List.range 4).foldl (fun s v =>
    let f := (s.port port).fn fn
    if f.pba.getLsbD v && f.msixEnable && !f.msixMask && !f.d3 && !(f.msix.get {} v).mask then
      (s.updFn port fn fun f => { f with pba := f.pba &&& ~~~(BitVec.ofNat 4 (2 ^ v)) }).msixSend port fn v
    else s) s

/-- Entries of a function's table. -/
def msixCount (fn : Nat) : Nat := if fn = 0 then 4 else 2

def MsixEntry.bytes (e : MsixEntry) : List Byte := leBytes 8 e.addr ++ leBytes 4 e.data.toNat ++ leBytes 4 (b2n e.mask)

def msixOf (b : List Byte) : MsixEntry :=
  { addr := leAt b 0 8 / 4 * 4, data := BitVec.ofNat 32 (leAt b 8 4), mask := leAt b 12 4 % 2 = 1 }

/-- Write bytes of a table entry; a pending vector that it unmasks is sent. -/
def State.msixWrite (s : State) (port fn off size : Nat) (value : Word) : State :=
  let v := off / 16
  if msixCount fn ≤ v then s else
  (s.updFn port fn fun f => { f with
    msix := f.msix.upd {} v fun e => msixOf (putAt e.bytes (off % 16) (leBytes size value.toNat)) }).sendPending port fn

def offMsix : Nat := 0x70000

/-- MSIX_ENTRY_WRITE (R412): by the function itself, at an offset of its BAR index 0. (DEDUCED: log 41) -/
def execMsixEntryWrite (port : Port) (fn : Fin 32) (off size : Nat) (value : Word) (s : State) : Out :=
  .next <|
    if s.fnReaches port fn && (size = 4 || size = 8) && off % size = 0 && offMsix ≤ off && off < offMsix + 0x8000 then
      s.msixWrite port fn (off - offMsix) size value
    else s

/-- MSIX_UNMASK (R287). -/
def execMsixUnmask (port : Port) (fn : Fin 32) (vector : Nat) (s : State) : Out :=
  .next <|
    if s.fnReaches port fn && vector < msixCount fn then
      (s.updFn port fn fun f => { f with msix := f.msix.upd {} vector fun e => { e with mask := false } }).sendPending port fn
    else s

/-! ## Functions (R276, R277, R281) -/

def State.enterD3 (s : State) (port fn : Nat) : State := s.updFn port fn fun f => { f with d3 := true }
def State.returnD0 (s : State) (port fn : Nat) : State := (s.updFn port fn fun f => { f with d3 := false }).sendPending port fn

/-- D3HOT_ENTRY (R276). -/
def execD3hotEntry (port : Port) (fn : Fin 32) (s : State) : Out :=
  .next <| if s.fnUp port fn then s.enterD3 port fn else s

/-- D0_RETURN (R276): messages held in D3hot are sent. -/
def execD0Return (port : Port) (fn : Fin 32) (s : State) : Out :=
  .next <| if s.fnUp port fn then s.returnD0 port fn else s

/-- A VF's registers at their reset values; VF Memory Space Enable is the PF's. -/
def Func.vfReset (f : Func) : Func := { mse := f.mse }

/-- PRESUMED: log 9. -/
def HostPort.resetVfs (q : HostPort) : HostPort :=
  (List.range 31).foldl (fun q i => q.updFn (i + 1) Func.vfReset) q

def State.setVfs (s : State) (port n : Nat) : State := s.updPort port fun q => { q with vfEnable := true, numVfs := n }

def State.clearVfs (s : State) (port : Nat) : State :=
  (s.closeTenants port).updPort port fun q => { q.resetVfs with vfEnable := false }

/-- VF_ENABLE (R277): from Stage 3 the bound VFs up to NumVFs appear. -/
def execVfEnable (port : Port) (numVfs : Nat) (s : State) : Out :=
  .next <|
    if s.fnUp port 0 && 3 ≤ s.boot.stage && numVfs ≤ 31 && !(s.port port).vfEnable then s.setVfs port numVfs else s

/-- VF_DISABLE (R296). -/
def execVfDisable (port : Port) (s : State) : Out :=
  .next <| if s.fnUp port 0 && (s.port port).vfEnable then s.clearVfs port else s

/-- A new size of BAR index 2, while Memory Space Enable is 0 (R281). -/
def State.resizeBar (s : State) (port : Nat) (vf : Bool) (log : Nat) : State :=
  let q := s.port port
  if vf then
    if 30 ≤ log && log ≤ 45 && !(q.fn 1).mse then s.updPort port fun q => { q with vfBarLog := log } else s
  else if 34 ≤ log && log ≤ 42 && !(q.fn 0).mse then s.updFn port 0 fun f => { f with bar2Log := log } else s

/-- BAR_RESIZE (R281). -/
def execBarResize (port : Port) (vf : Bool) (sizeLog : Nat) (s : State) : Out :=
  .next <| if s.fnUp port 0 then s.resizeBar port vf sizeLog else s

/-! ## Resets (R290 to R293) -/

def otherPort (port : Nat) : Nat := 1 - port

/-- R31: requests that wait in a port's host-out quay, or for a tag, complete with FENCED_TARGET. -/
def State.flushHost (s : State) (port : Nat) : State :=
  let q := s.quay (hostOutNo port)
  let msgs := (q.entries ++ q.waiting).filterMap fun e => match e with
    | .host m => some m
    | _ => none
  let waiting := (s.port port).waitingReads
  let s := s.updQuay (hostOutNo port) QuaySt.flush
  let s := s.updPort port fun q => { q with waitingReads := [] }
  let fail := fun (s : State) (r : HostRead) =>
    let (src, eng) := s.whoSource r.who
    (s.raiseOwn .fencedTarget src r.pol (addrDetail r.va eng)).poisonHostRead r
  let s := msgs.foldl (fun s m =>
    match m with
    | .memWrite _ _ _ _ (p, src, va, eng) => s.raiseOwn .fencedTarget src p (addrDetail va eng)
    | .memRead _ _ _ tag =>
      match (s.port port).reads.find? fun r => r.tag = tag with
      | some r => fail (s.dropRead port tag) r
      | none => s
    | _ => s) s
  waiting.foldl fail s

/-- Step 5: the entries of the port's share become 0, COMMON ones apart. -/
def State.zeroShare (s : State) (port : Nat) : State :=
  let (first, limit) := s.share port
  (s.updLand fun g => { g with
    entries := g.entries.filter fun e => !(first ≤ e.1 && e.1 < limit) || eCommon e.2 }).dropCached fun e =>
      first ≤ e.index && e.index < limit && !eCommon e.value

/-- Step 6: the copies of the port's PF and of its VFs; locks of R405 with them. (DEDUCED: log 40) -/
def State.resetPortRegs (s : State) (port : Nat) : State :=
  let s := s.updPort port fun q => { q with
    fns := [], bar2 := [], vfEnable := false, numVfs := 0, vfBarLog := 0, ptmEnable := false
    doeIn := [], doe := [], doeReady := false, capLock := false
    mbox := [], mboxLen := 0, mboxCmd := 0, mboxStatus := 0, mboxBusy := false, devReply := none }
  let s := (s.updLandRegs port fun _ => {}).updLoad port fun c => if c.busy || c.status = 4 then { c with consent := false } else {}
  let s := { s with
    alm := { s.alm with
      lock := s.alm.lock && !(s.img.isSome && s.timeOwner = port) }
    links := s.links.mapAll {} fun n l => if s.linkOwner n = some port then { l with lock := false } else l
    sec := { owner := if s.sec.owner.map Fin.val = some port then none else s.sec.owner
             queue := s.sec.queue.filter fun q => q ≠ port } }
  s

/-- Steps 2 to 6 of R291 for a port reset or a PF FLR. (DEDUCED: log 40) -/
def State.resetSteps (s : State) (port : Nat) : State :=
  let s := s.resetPols port
  let s := s.flushHost port
  let s := if (s.landRegs port).busy then s.editDone port else s
  (s.zeroShare port).resetPortRegs port

/-- DEDUCED: log 40. -/
def State.countReset (s : State) (port : Nat) : State :=
  s.updPort port fun q => { q with resets := satAdd 0xFFFF q.resets 1 }

/-- The link goes down. -/
def HostPort.linkDown (q : HostPort) : HostPort := { q with rate := 0, width := 0, fullWidth := 0, flit := false, l0p := false }

/-- A reset event that reaches the PF: the confirmed word and CONSENT go at once (R322, R334); the sequence runs now,
or after Stage 3 where a load of this port has passed its checks (R325); one that finds the same reach running is
absorbed (R293). (DEDUCED: log 40) -/
def State.resetPort (s : State) (port : Nat) (kind : ResetKind) : State :=
  let s := s.countReset port
  let wide := kind ≠ .pfFlr
  let q := s.port port
  let running := q.inReset && !(q.resetKind = some .pfFlr && wide)
  let s := if wide then s.updPort port HostPort.linkDown else s
  if running then s else
  let s := s.updPort port fun q => { q with
    inReset := true, resetKind := some kind, vfResets := [], confirmed := 0, accepted := false }
  let s := s.updLoad port fun c => { c with consent := false }
  if s.boot.loading.map Fin.val = some port then { s with boot := { s.boot with resetAfterLoad := some kind } }
  else s.resetSteps port

/-- PORT_RESET (R290): PERST low, Hot Reset or DL_Down. -/
def execPortReset (port : Port) (kind : ResetKind) (s : State) : Out :=
  .next <|
    match kind with
    | .perst =>
      let was := (s.port port).perst
      let s := s.updPort port fun q => { q with perst := false }
      if s.boot.stage0 && was then s.resetPort port .perst else s
    | .hotReset => if s.boot.stage0 && (s.port port).rate ≠ 0 then s.resetPort port .hotReset else s
    | .dlDown => if s.boot.stage0 && (s.port port).rate ≠ 0 then s.resetPort port .dlDown else s
    | _ => s

/-- REFCLK_LOSS (R383): absent for 1 µs with PERST high. -/
def execRefclkLoss (port : Port) (s : State) : Out :=
  .next <|
    let s := s.updPort port fun q => { q with refclk := false }
    if s.boot.stage0 && (s.port port).perst then s.resetPort port .dlDown else s

/-- DEDUCED: log 40. -/
def State.flrPf (s : State) (port : Nat) : State := if s.fnUp port 0 then s.resetPort port .pfFlr else s

/-- FLR of a VF: its polder and its registers; one that runs already absorbs it. (DEDUCED: log 40) -/
def State.flrVf (s : State) (port n : Nat) : State :=
  if n = 0 || !s.vfLive port n || (s.port port).rate = 0 || !s.boot.stage0 then s else
  let s := s.countReset port
  if (s.port port).inReset || (s.port port).vfResets.contains n then s else
  let s := s.updPort port fun q => { q with vfResets := q.vfResets ++ [n], bar2 := q.bar2.filter fun a => a.fn ≠ n }
  let s := match s.fnPolder port n with
    | some p => s.advanceKept p
    | none => s
  s.updFn port n Func.vfReset

/-- PF_FLR (R290). -/
def execPfFlr (port : Port) (s : State) : Out := .next (s.flrPf port)
/-- VF_FLR (R290). -/
def execVfFlr (port : Port) (n : Fin 32) (s : State) : Out := .next (s.flrVf port n)

/-- The other port's supervisor hears of a reset (R291 step 7). (DEDUCED: log 27) -/
def State.peerReset (s : State) (port p : Nat) (kind : ResetKind) : State :=
  let b := supervisorOf (otherPort port)
  s.raise .peerPortReset (srcPolder p) b p [BitVec.ofNat 8 port, Config.resetNumber kind]

/-- RESET_COMPLETE (R291): the sequence of the port, or of its oldest VF in reset, is over. (DEDUCED: log 40) -/
def execResetComplete (port : Port) (s : State) : Out :=
  .next <|
    let q := s.port port
    if q.inReset then
      if s.boot.loading = some port then s else
      (s.updPort port fun q => { q with inReset := false, resetKind := none }).peerReset port (supervisorOf port)
        (q.resetKind.getD .perst)
    else
      match q.vfResets with
      | [] => s
      | n :: rest =>
        (s.updPort port fun q => { q with vfResets := rest }).peerReset port
          ((s.fnPolder port n).getD (supervisorOf port)) .vfFlr

/-! ## Links (R274, R275) -/

/-- PERST_RELEASE (R275). -/
def execPerstRelease (port : Port) (s : State) : Out := .next (s.updPort port fun q => { q with perst := true })

/-- PCIE_LINK_UP (R275): from Stage 0, with the reset pin high and no reset running. 64.0 GT/s runs in Flit Mode. -/
def execPcieLinkUp (port : Port) (rate width : Nat) (flit : Bool) (s : State) : Out :=
  .next <|
    let q := s.port port
    if s.boot.stage0 && q.perst && !q.inReset && q.rate = 0 && 1 ≤ rate && rate ≤ 6 && [1, 2, 4, 8].contains width
        && (flit || rate ≠ 6) then
      s.updPort port fun q => { q with
        rate := rate, width := width, fullWidth := width, flit := flit, l0p := false, refclk := true }
    else s

/-- L0P_WIDTH_CHANGE (R274): the port grants every width its partner asks for; L0p is a feature of Flit Mode. -/
def execL0pWidthChange (port : Port) (width : Nat) (s : State) : Out :=
  .next <|
    let q := s.port port
    if q.rate ≠ 0 && q.flit && [1, 2, 4, 8].contains width && width ≤ q.fullWidth then
      s.updPort port fun q => { q with width := width, l0p := width < q.fullWidth }
    else s

/-! ## Configuration space (R275, R278, R279, R281, R287, R288) -/

/-- The lowest revision among the dies whose fuses are read (R278, R337). -/
def State.lowestRev (s : State) : Nat :=
  ((List.range 13).filter fun i => !(s.nv.dies.get {} i).unread).foldl (fun m i => min m (s.nv.dies.get {} i).rev) 255

/-- Tenant polders of a port. -/
def State.totalVfs (s : State) (port : Nat) : Nat := ((s.polsOf port).filter fun p => 2 ≤ p).length

/-- An extended capability's identity and the next offset; its version is the standard's. -/
def capHead (id next : Nat) : Nat × Nat := (0xFFF0FFFF, next * 2 ^ 20 + id)

/-- The address bits that software may write in a base address register of 2^log bytes: low or high half. -/
def barMask (log : Nat) (high : Bool) : Nat :=
  let m := 2 ^ 64 - 2 ^ log
  if high then m / 2 ^ 32 else m % 2 ^ 32

def log2Of (n : Nat) : Nat := n.log2

/-- Offsets of base address registers: log of the size, high half, and type bits. -/
def State.barAt (s : State) (port fn off : Nat) : Option (Nat × Bool × Nat) :=
  if fn ≠ 0 then none else
  match off with
  | 0x10 => some (26, false, 4)
  | 0x14 => some (26, true, 0)
  | 0x18 => some (log2Of (s.bar2Size port 0), false, 0xC)
  | 0x1C => some (log2Of (s.bar2Size port 0), true, 0)
  | 0x194 => some (20, false, 4)
  | 0x198 => some (20, true, 0)
  | 0x19C => some (log2Of (s.bar2Size port 1), false, 0xC)
  | 0x1A0 => some (log2Of (s.bar2Size port 1), true, 0)
  | _ => none

/-- What the manual gives of a configuration dword: the bits and their value; the other bits are the standard's.
(PRESUMED: log 9) -/
def State.cfgKnown (s : State) (port fn off : Nat) : Nat × Nat :=
  let q := s.port port
  let f := q.fn fn
  let pf := fn = 0
  let all := 0xFFFFFFFF
  let stored := ((f.cfg.get 0 off) ^^^ cfgReset off).toNat
  match s.barAt port fn off with
  | some (log, high, type) => (all, (stored &&& barMask log high) + type)
  | none =>
  match off with
  | 0x00 => (all, (if pf then 0x2400 else 0x2401) * 65536 + 0x1F7A)
  | 0x04 => (0x00100006, 0x00100000 + 4 * b2n f.bme + 2 * b2n (pf && f.mse))
  | 0x08 => (all, 0x12000000 + s.lowestRev)
  | 0x10 | 0x14 | 0x18 | 0x1C | 0x20 | 0x24 => (all, 0)
  | 0x2C => (all, (0x2400 + 0x10 * s.nv.fibre + s.nv.coldPlate) * 65536 + 0x1F7A)
  | 0x34 => (0xFF, 0x40)
  | 0x40 => (0xFE00FFFF, 0x5001)
  | 0x44 => (0xB, 8 + if f.d3 then 3 else 0)
  | 0x50 => (all, 0x6011 + (msixCount fn - 1) * 2 ^ 16 + b2n f.msixMask * 2 ^ 30 + b2n f.msixEnable * 2 ^ 31)
  | 0x54 => (all, 0x70000)
  | 0x58 => (all, 0x78000)
  | 0x60 => (0xFFFF, 0x10)
  | 0x64 => (0x10000027, 0x10000022)
  | 0x68 => (0xFFFF, stored % 0x8000)
  | 0x84 => (0x30BDF, 0x3000F)
  | 0x88 => (0xFFFF, stored % 0x10000)
  | 0x100 => capHead 0x01 0x150
  | 0x104 => (all, f.aer.toNat)
  | 0x110 => (all, f.aerCor.toNat)
  | 0x150 => capHead 0x0E (if pf then 0x160 else 0)
  | _ =>
  if !pf then (0, 0) else
  match off with
  | 0x160 => capHead 0x03 0x170
  | 0x164 => (all, s.nv.serial.toNat % 2 ^ 32)
  | 0x168 => (all, s.nv.serial.toNat / 2 ^ 32)
  | 0x170 => capHead 0x10 0x1B0
  | 0x178 => (0x9, b2n q.vfEnable + 8 * b2n (q.fn 1).mse)
  | 0x17C => (all, s.totalVfs port * 65537)
  | 0x180 => (0xFFFF, q.numVfs)
  | 0x184 => (all, 0x10001)
  | 0x188 => (all, 0x24010000)
  | 0x18C => (all, 0x11)
  | 0x190 => (all, stored)
  | 0x1B0 => capHead 0x15 0x1C0
  | 0x1B4 => (all, 0x07FC0000)
  | 0x1B8 => (all, 0x22 + 256 * (log2Of (s.bar2Size port 0) - 20))
  | 0x1C0 => capHead 0x24 0x1D0
  | 0x1C4 => (all, 0x3FFFC000)
  | 0x1C8 => (all, 0x22 + 256 * (log2Of (s.bar2Size port 1) - 20))
  | 0x1D0 => capHead 0x1F 0x1E0
  | 0x1D4 => (0xFF07, 0x401)
  | 0x1D8 => (1, b2n q.ptmEnable)
  | 0x1E0 => capHead 0x25 0x200
  | 0x200 => capHead 0x26 0x240
  | 0x240 => capHead 0x2A 0x280
  | 0x280 => capHead 0x31 0x2C0
  | 0x2C0 => capHead 0x27 0x300
  | 0x300 => capHead 0x2E 0
  | 0x308 => (1, 0)
  | 0x30C => (0x80000001, b2n q.doeReady * 2 ^ 31)
  | 0x314 => (all, leAt q.doe 0 4)
  | _ => (0, 0)

/-- A configuration dword as a request reads it. (PRESUMED: log 9) -/
def State.configRead (s : State) (port fn off : Nat) : BitVec 32 :=
  let (mask, v) := s.cfgKnown port fn off
  (Config.configStandard (32 * port + fn) off &&& ~~~(BitVec.ofNat 32 mask)) ||| BitVec.ofNat 32 v

/-- The bytes that a request enables. -/
def beMask (be : BitVec 4) : BitVec 32 :=
  BitVec.ofNat 32 ((bitsOf 4 be.toNat).foldl (fun m i => m + 0xFF * 256 ^ i) 0)

/-! ## Data Object Exchange (R289) -/

/-- A response is ready in the mailbox of a PF. (DESIGN CHOICE: log 42) -/
def State.doeAnswer (s : State) (port : Nat) (bytes : List Byte) : State :=
  if s.fnUp port 0 then s.updPort port fun q => { q with doe := bytes, doeReady := true } else s

/-- A response of zero length before Stage 1. -/
def State.doeFrom1 (s : State) (port : Nat) (bytes : List Byte) : State :=
  s.doeAnswer port (if 1 ≤ s.boot.stage then bytes else [])

/-- Discovery (R289): vendor, type and next index of each row; an index beyond them names no vendor. (DESIGN CHOICE:
log 42) -/
def State.discovery (s : State) (port index : Nat) : State :=
  s.doeAnswer port <|
    if index = 0 then leBytes 2 1 ++ leBytes 1 0 ++ leBytes 1 1
    else if index < 4 then leBytes 2 0x1F7A ++ leBytes 1 index ++ leBytes 1 ((index + 1) % 4)
    else leBytes 2 0xFFFF ++ leBytes 2 0

/-- DOE_DISCOVERY (R289). (DESIGN CHOICE: log 42) -/
def execDoeDiscovery (port : Port) (index : Nat) (s : State) : Out := .next (s.discovery port index)

/-- The running firmware's bytes. -/
def State.firmware (s : State) : List Byte := s.nv.fwBytes.get [] s.nv.fwSlot

def State.measAt (s : State) (i : Nat) : List Byte := slice (s.boot.meas.get [] i) 0 64

/-- The report of R333. -/
def State.report (s : State) (port : Nat) (request : List Byte) : List Byte :=
  let mask := leAt request 4 4
  let head := leBytes 4 1 ++ leBytes 4 mask ++ leBytes 8 s.nv.serial.toNat ++ slice request 8 32
    ++ leBytes 8 s.alm.now ++ leBytes 8 s.boot.package.toNat ++ leBytes 8 (s.port port).confirmed.toNat
    ++ ((List.range 13).map fun i => BitVec.ofNat 8 (s.nv.dies.get {} i).rev)
    ++ leBytes 1 s.boot.stage ++ leBytes 1 (b2n s.sealed + 2 * s.boot.loadedBy) ++ leBytes 41 0
    ++ ((List.range 8).map fun i => if mask.testBit i then s.measAt i else leBytes 64 0).flatten
  let key := slice (Config.attestationKey (s.measAt 1)) 0 1952
  let body := head ++ key ++ slice (Config.identitySign (key ++ s.measAt 1)) 0 3309
  body ++ slice (Config.attestationSign (s.measAt 1) body) 0 3309 ++ leBytes 2 0

/-- The report of OP 1 of a 40-byte request with nothing reserved set; another request has a response of zero length. -/
def State.attest (s : State) (port : Nat) (request : List Byte) : State :=
  s.doeFrom1 port (if request.length = 40 && leAt request 0 4 = 1 then s.report port request else [])

/-- ATTEST_REPORT (R333). -/
def execAttestReport (port : Port) (request : List Byte) (s : State) : Out := .next (s.attest port request)

/-- The identity certificate (R333). -/
def State.certificate (s : State) (port : Nat) : State :=
  s.doeFrom1 port <|
    leBytes 8 s.nv.serial.toNat ++ slice Config.identityKey 0 1952 ++ slice Config.identityCertificate 0 3309 ++ leBytes 3 0

/-- ATTEST_CERTIFICATE (R333). -/
def execAttestCertificate (port : Port) (s : State) : Out := .next (s.certificate port)

/-- OFFER (R334, R335): bits 13 to 63 are never offered. -/
def State.offer (s : State) : Word := s.boot.package &&& Config.firmwareFeatures s.firmware &&& 0x1FFF

def State.featureAnswer (s : State) (port status : Nat) : State :=
  s.doeFrom1 port (leBytes 8 status ++ leBytes 8 s.offer.toNat ++ leBytes 8 (s.port port).confirmed.toNat
    ++ leBytes 8 s.boot.package.toNat)

/-- FEATURE_OFFER (R334). -/
def execFeatureOffer (port : Port) (s : State) : Out := .next (s.featureAnswer port 0)

/-- ACCEPT (R334): a subset of OFFER is confirmed once. -/
def State.accept (s : State) (port : Nat) (word : Word) : State :=
  let q := s.port port
  if s.boot.stage < 1 || !s.fnUp port 0 then s.featureAnswer port 0
  else if q.accepted then s.featureAnswer port 2
  else if word &&& ~~~s.offer ≠ 0 then s.featureAnswer port 1
  else (s.updPort port fun q => { q with confirmed := word, accepted := true }).featureAnswer port 0

/-- FEATURE_ACCEPT (R334). -/
def execFeatureAccept (port : Port) (word : Word) (s : State) : Out := .next (s.accept port word)

/-- CHARTER (R289): from Stage 3. -/
def State.tellCharter (s : State) (port : Port) : State :=
  s.doeAnswer port (if 3 ≤ s.boot.stage then Config.charterObject port s.charter else [])

/-- DOE_CHARTER (R289). -/
def execDoeCharter (port : Port) (s : State) : Out := .next (s.tellCharter port)

/-- An abort of a mailbox (R289). (DESIGN CHOICE: log 42) -/
def State.doeStop (s : State) (port : Nat) : State :=
  s.updPort port fun q => { q with doeIn := [], doe := [], doeReady := false }

/-- DOE_ABORT (R289): of its own mailbox. (DESIGN CHOICE: log 42) -/
def execDoeAbort (port : Port) (s : State) : Out := .next (if s.fnUp port 0 then s.doeStop port else s)

/-- A request object in a mailbox (R289, R333, R334): its header names vendor, type and length in dwords, as PCI
Express gives it; one that the table does not list, or made before Stage 1, has a response of zero length. (PRESUMED:
log 9) -/
def State.doeRequest (s : State) (port : Port) (object : List Byte) : State :=
  let body := object.drop 8
  let op := leAt body 0 8
  if leAt object 4 4 % 2 ^ 18 * 4 ≠ object.length || 16384 < object.length then s.doeAnswer port [] else
  match leAt object 0 2, leAt object 2 1 with
  | 0x0001, 0 => s.discovery port (leAt body 0 1)
  | 0x1F7A, 1 => if body.length = 40 && leAt body 0 4 = 2 then s.certificate port else s.attest port body
  | 0x1F7A, 2 =>
    if body.length = 16 && op = 1 && 1 ≤ s.boot.stage then s.featureAnswer port 0
    else if body.length = 16 && op = 2 then s.accept port (BitVec.ofNat 64 (leAt body 8 8))
    else s.doeAnswer port []
  | 0x1F7A, 3 => s.tellCharter port
  | _, _ => s.doeAnswer port []

/-! ## Requests of configuration space -/

/-- A configuration write: `w` the dword with the enabled bytes replaced, `raw` the enabled bytes alone. -/
def State.configWrite (s : State) (port fn off : Nat) (w raw : BitVec 32) : State :=
  let store := fun (v : BitVec 32) => s.updFn port fn fun f => { f with cfg := f.cfg.set 0 off (v ^^^ cfgReset off) }
  let bit := fun (i : Nat) => w.getLsbD i
  if (s.barAt port fn off).isSome then store w else
  match off with
  | 0x04 => s.updFn port fn fun f => { f with bme := bit 2, mse := if fn = 0 then bit 1 else f.mse }
  | 0x44 =>
    if w.toNat % 4 = 3 then s.enterD3 port fn else if w.toNat % 4 = 0 then s.returnD0 port fn else s
  | 0x50 => (s.updFn port fn fun f => { f with msixEnable := bit 31, msixMask := bit 30 }).sendPending port fn
  | 0x68 =>
    let s := store (w &&& 0x7FFF)
    if raw.getLsbD 15 then (if fn = 0 then s.flrPf port else s.flrVf port fn) else s
  | 0x88 => store (w &&& 0xFFEF)
  | 0x104 => s.updFn port fn fun f => { f with aer := f.aer &&& ~~~raw }
  | 0x110 => s.updFn port fn fun f => { f with aerCor := f.aerCor &&& ~~~raw }
  | _ =>
  if fn ≠ 0 then s else
  match off with
  | 0x178 =>
    let q := s.port port
    let s := (List.range 31).foldl (fun s i => s.updFn port (i + 1) fun f => { f with mse := bit 3 }) s
    if bit 0 && !q.vfEnable then (if 3 ≤ s.boot.stage then s.setVfs port q.numVfs else s)
    else if !bit 0 && q.vfEnable then s.clearVfs port else s
  | 0x180 =>
    if (s.port port).vfEnable || 31 < w.toNat % 65536 then s
    else s.updPort port fun q => { q with numVfs := w.toNat % 65536 }
  | 0x190 => if w = 1 || w = 0x10 then store w else s
  | 0x1B8 => s.resizeBar port false (20 + field w.toNat 8 6)
  | 0x1C8 => s.resizeBar port true (20 + field w.toNat 8 6)
  | 0x1D8 => s.updPort port fun q => { q with ptmEnable := bit 0 }
  | 0x308 =>
    if raw.getLsbD 0 then s.doeStop port
    else if raw.getLsbD 31 && port < 2 then
      (s.doeRequest (Fin.ofNat 2 port) (s.port port).doeIn).updPort port fun q => { q with doeIn := [] }
    else s
  | 0x310 => s.updPort port fun q => { q with doeIn := q.doeIn ++ leBytes 4 raw.toNat }
  | 0x314 => s.updPort port fun q =>
      let rest := q.doe.drop 4
      { q with doe := rest, doeReady := q.doeReady && !rest.isEmpty }
  | _ => s

def cfgOutNo (port : Nat) : Nat := 566 + port

/-- The answer to a configuration request: through the early configuration quay at Stage 0 (R27). (DESIGN CHOICE: log
42) -/
def State.cfgAnswer (s : State) (port fn : Nat) (data : List Byte) (status : Nat) : State :=
  s.pushQuay (if s.boot.stage = 0 then cfgOutNo port else hostOutNo port) (.host (.completion fn data status false))

/-- CONFIG_REQUEST (R275): from Stage 0, in D0 and in D3hot alike; a function that does not exist answers with
Unsupported Request. -/
def execConfigRequest (port : Port) (fn : Fin 32) (write : Bool) (off : Nat) (value : BitVec 32) (be : BitVec 4)
    (s : State) : Out :=
  .next <|
    if !s.fnUp port 0 || (s.port port).vfResets.contains fn.val || off % 4 ≠ 0 || 4096 ≤ off then s
    else if fn ≠ 0 && !s.vfLive port fn then s.cfgAnswer port fn [] 1
    else if write then
      let m := beMask be
      let w := (s.configRead port fn off &&& ~~~m) ||| (value &&& m)
      (s.cfgAnswer port fn [] 0).configWrite port fn off w (value &&& m)
    else s.cfgAnswer port fn (leBytes 4 (s.configRead port fn off).toNat) 0

end Sys2Proof.Machine
end

