-- ==== Sys2Proof/Machine/ImageParse.lean ====
section
/-! DEFINITION. The Zelpel image as bytes (R326 to R328, R150, R259): its header, section table and records. A refusal
carries REASON, SECTION and RECORD (R323). -/

namespace Sys2Proof.Machine

open Sys2Proof

/-- A refusal of an image. -/
structure Reject where
  reason : Nat
  sect : Nat := 0
  record : Nat := 0
deriving DecidableEq, Repr

/-- An entry of the section table. -/
structure SecEntry where
  type : Nat
  off : Nat
  len : Nat
deriving DecidableEq, Repr

/-- Bytes of an image before its signature's 3,312. -/
def imageSig : Nat := 3312

/-- The section entries of a header. -/
def imageSections (h : List Byte) : List SecEntry :=
  (List.range (leAt h 0x0C 4)).map fun i =>
    ⟨leAt h (0x900 + 32 * i) 2, leAt h (0x908 + 32 * i) 8, leAt h (0x910 + 32 * i) 8⟩

/-- The header's own fields are right: MAGIC, FORMAT, SECTIONS, LENGTH, reserved bytes. -/
def headerOk (h : List Byte) : Bool :=
  let n := leAt h 0x0C 4
  let len := leAt h 0x10 8
  slice h 0 8 = ascii "ZELPELIM" && leAt h 8 4 = 1 && 1 ≤ n && n ≤ 64 && len % 4 = 0 && len ≤ 2 ^ 32
    && 0x2000 + imageSig ≤ len && leAt h 0x28 1 < 2 && allZero (slice h 0x29 0xD7)
    && allZero (slice h 0x8A0 0x60) && allZero (slice h 0x1100 0xF00)
    && allZero (slice h (0x900 + 32 * n) (32 * (64 - n)))

/-- A section entry is right beside those before it. -/
def sectionOk (h : List Byte) (secs : List SecEntry) (i : Nat) : Bool :=
  match secs[i]? with
  | none => false
  | some e =>
    allZero (slice h (0x902 + 32 * i) 6) && allZero (slice h (0x918 + 32 * i) 8)
      && 1 ≤ e.type && e.type ≤ 7 && e.off % 64 = 0 && 0x2000 ≤ e.off && e.off + e.len + imageSig ≤ leAt h 0x10 8
      && (secs.take i).all fun x => x.type ≠ e.type && (x.off + x.len ≤ e.off || e.off + e.len ≤ x.off)

/-- The index of the section of a type, and its bytes. -/
def sectionOf (bs : List Byte) (secs : List SecEntry) (type : Nat) : Option (Nat × List Byte) :=
  match secs.zipIdx.find? fun e => e.1.type = type with
  | some (e, i) => some (i, slice bs e.off e.len)
  | none => none

/-- Records of `n` bytes. -/
def records (n : Nat) (bs : List Byte) : List (List Byte) := chunks n (bs.length / n) bs

/-- A stint record (R150). -/
def parseStint (r : List Byte) : Stint :=
  { segment := leAt r 0 1, pol := leAt r 1 1, cls := leAt r 2 1, port := leAt r 3 1, start := leAt r 4 2
    length := leAt r 6 2, period := leAt r 8 1, hop := leAt r 9 1, schedule := leAt r 10 2, laneFirst := leAt r 12 2
    laneCount := leAt r 14 2, owner := leAt r 16 2, reserved := leAt r 18 6 }

/-- A link slot record (R327). -/
def parseLink (r : List Byte) : LinkRec :=
  { port := leAt r 0 1, pol := leAt r 1 1, cls := leAt r 2 1, schedule := leAt r 4 2, owner := leAt r 6 2
    slotFirst := leAt r 8 2, slotCount := leAt r 10 2, reserved := leAt r 3 1 + leAt r 12 4 }

/-- VERSION and PDMAX of a port; reserved bytes that are not 0 make VERSION 0. -/
def parseDecl (r : List Byte) : Nat × Nat :=
  (if leAt r 1 1 = 0 && leAt r 4 4 = 0 then leAt r 0 1 else 0, leAt r 2 2)

/-- A polder record of the charter (R328). -/
def parsePol (r : List Byte) : PolRec :=
  { port := leAt r 0 1, vf := leAt r 1 1, fabric := leAt r 2 1 % 2 = 1, share := leAt r 4 2
    tiles := (List.range 8).map fun d => BitVec.ofNat 16 (leAt r (8 + 2 * d) 2)
    handRows := (List.range 8).map fun d => BitVec.ofNat 32 (leAt r (24 + 4 * d) 4)
    porters := (List.range 8).map fun d => BitVec.ofNat 8 (leAt r (56 + d) 1)
    groups := (List.range 4).map fun k => BitVec.ofNat 48 (leAt r (64 + 6 * k) 6)
    stations := (List.range 8).map fun d => (leAt r (88 + 3 * d) 1, leAt r (89 + 3 * d) 1, leAt r (90 + 3 * d) 1)
    reserved := !(leAt r 2 1 < 2 && leAt r 3 1 = 0 && leAt r 6 2 = 0 && allZero (slice r 112 16)) }

/-- A resource record of the charter. -/
def parseRes (r : List Byte) : ResRec :=
  { type := leAt r 0 1, b1 := leAt r 1 1, b2 := leAt r 2 1, b3 := leAt r 3 1, w4 := leAt r 4 4, w8 := leAt r 8 4
    w12 := leAt r 12 4 }

/-- The charter (R328); none where its length does not fit RESOURCES. -/
def parseCharter (bs : List Byte) : Option Charter :=
  let n := leAt bs 40 4
  if bs.length ≠ 64 + 64 * 128 + 16 * n then none else
  let f := leAt bs 1 1
  some {
    version := leAt bs 0 1, sealedMode := f.testBit 0, timeOwner := if f.testBit 1 then 1 else 0
    loaders := f / 4 % 4, capA := leAt bs 2 2, capB := leAt bs 4 2
    shareA := (leAt bs 8 3, leAt bs 11 3), shareB := (leAt bs 16 3, leAt bs 19 3)
    zlA := BitVec.ofNat 64 (leAt bs 24 8), zlB := BitVec.ofNat 64 (leAt bs 32 8)
    pols := (records 128 (slice bs 64 8192)).map parsePol
    resources := (records 16 (bs.drop 8256)).map parseRes
    reserved := !(f < 16 && allZero (slice bs 6 2) && allZero (slice bs 14 2) && allZero (slice bs 22 2)
      && allZero (slice bs 44 20)) }

/-- A Mill die's settings (R327 section 7); a reserved byte that is not 0 makes LADDER 0, which R97 refuses. -/
def parseDieSet (r : List Byte) : DieSet :=
  { ladder := if allZero (slice r 5 11) then leAt r 0 1 else 0, stagger := leAt r 1 1, hold := leAt r 2 1
    sealStep := leAt r 3 1, sealLevel := leAt r 4 1 }

/-- TIER of a Keel; a reserved byte that is not 0 makes it 255, which R167 refuses. -/
def parseTier (r : List Byte) : Nat := if allZero (slice r 1 15) then leAt r 0 1 else 255

/-- The image of bytes whose header and section table are right; none where a section's length or form is not. -/
def parseSections (bs : List Byte) (secs : List SecEntry) : Except Reject Image :=
  let sec := fun t => sectionOf bs secs t
  let body := fun t => ((sec t).map Prod.snd).getD []
  let bad := fun t => Except.error (⟨1, ((sec t).map Prod.fst).getD 0, 0⟩ : Reject)
  let tide := body 2
  let links := body 3
  let dies := body 7
  if tide.length % 24 ≠ 0 then bad 2
  else if (sec 3).isSome && !(512 ≤ links.length && links.length % 16 = 0) then bad 3
  else if (body 5).length % 8 ≠ 0 then bad 5
  else if (sec 7).isSome && dies.length ≠ 192 then bad 7
  else
    match parseCharter (body 1), Config.parseSchedules (body 4),
      (if (sec 6).isSome then Config.parseCask (body 6) else some []) with
    | none, _, _ => bad 1
    | _, none, _ => bad 4
    | _, _, none => bad 6
    | some ch, some scheds, some cask =>
      .ok {
        required := BitVec.ofNat 64 (leAt bs 0x18 8), firmwareMin := leAt bs 0x20 4, svn := leAt bs 0x24 4
        raiseFloor := leAt bs 0x28 1 = 1
        measure := Crypto.shake256 (bs.take (bs.length - imageSig)), charterMeasure := Crypto.shake256 (body 1)
        keyMeasure := Crypto.shake256 (slice bs 0x100 1952), tableDigest := Crypto.shake256 tide
        charter := ch, tide := (records 24 tide).map parseStint
        links := (records 16 (links.take (links.length - 512))).map parseLink
        decls := (records 8 (links.drop (links.length - 512))).map parseDecl
        schedules := scheds, code := body 5, cask := cask
        dieSets := if dies.isEmpty then List.replicate 8 {} else (records 16 (dies.take 128)).map parseDieSet
        tiers := if dies.isEmpty then [0, 0, 0, 0] else (records 16 (dies.drop 128)).map parseTier }

/-- The format checks of R326 and R327 (REASON 1). (DESIGN CHOICE: log 11) -/
def parseImage (bs : List Byte) : Except Reject Image :=
  let h := slice bs 0 0x2000
  let secs := imageSections h
  if !headerOk h then .error ⟨1, 0, 0⟩
  else
    match (List.range secs.length).find? fun i => !sectionOk h secs i with
    | some i => .error ⟨1, i, 0⟩
    | none =>
      if !([1, 2, 4].all fun t => secs.any fun e => e.type = t) || !allZero (slice bs (bs.length - 3) 3) then .error ⟨1, 0, 0⟩
      else parseSections bs secs

end Sys2Proof.Machine
end

