-- ==== Sys2Proof/Machine/Cask.lean ====
section
/-! DEFINITION. Cask, the lossless coding of weight pages (R108 to R113): canonical prefix codes, and a group's
coded form. -/

namespace Sys2Proof.Cask

open Sys2Proof

/-- Decoded bytes of a group by KIND (R108). -/
def groupBytes : Nat → Nat
  | 1 => 8192
  | 2 => 8192
  | 3 => 6144
  | 4 => 6144
  | 5 => 4096
  | 6 => 2048
  | _ => 0

/-- Bits of an element, of its exponent field, and of its mantissa, by element kind. -/
def shape : Nat → Nat × Nat × Nat
  | 1 => (8, 4, 3)
  | 2 => (8, 5, 2)
  | 3 => (6, 3, 2)
  | 4 => (6, 2, 3)
  | _ => (4, 2, 1)

/-- Bits of a number, least significant first. -/
def lsb : Nat → Nat → List Bool
  | 0, _ => []
  | n + 1, v => (v % 2 = 1) :: lsb n (v / 2)

/-- The number that bits spell, least significant first. -/
def ofLsb : List Bool → Nat
  | [] => 0
  | b :: bs => b2n b + 2 * ofLsb bs

/-- Pack bits from the least significant of each byte. (DEDUCED: log 20) -/
def pack (bs : List Bool) : List Byte := (chunks 8 (bs.length + 1) bs).map fun c => BitVec.ofNat 8 (ofLsb c)

/-- DEDUCED: log 20. -/
def unpack (bs : List Byte) : List Bool := (bs.map fun b => lsb 8 b.toNat).flatten

/-! ## Canonical codes (R110) -/

def countLen (t : CodeTable) (n : Nat) : Nat := (t.filter (· = n)).length

/-- The first code of length n. -/
def firstCode (t : CodeTable) : Nat → Nat
  | 0 => 0
  | n + 1 => 2 * (firstCode t n + if n = 0 then 0 else countLen t n)

/-- The code of a symbol, its first bit first; none for a symbol without a code. -/
def codeOf (t : CodeTable) (sym : Nat) : Option (List Bool) :=
  let n := t.getD sym 0
  if n = 0 then none
  else some (lsb n (firstCode t n + countLen (t.take sym) n)).reverse

/-- The Kraft sum is at most 1. -/
def kraftOk (t : CodeTable) : Bool := (t.map fun n => if n = 0 then 0 else 2 ^ (15 - n)).sum ≤ 2 ^ 15

/-- The symbol of a code of length n, if it is one. -/
def symOf (t : CodeTable) (n code : Nat) : Option Nat :=
  let f := firstCode t n
  if f ≤ code && code < f + countLen t n then
    ((List.range t.length).filter fun i => t.getD i 0 = n)[code - f]?
  else none

/-- Read one symbol: at most 15 bits. -/
def readSym (t : CodeTable) : Nat → Nat → Nat → List Bool → Option (Nat × List Bool)
  | 0, _, _, _ => none
  | _, _, _, [] => none
  | fuel + 1, n, code, b :: bs =>
    let code := 2 * code + b2n b
    match symOf t (n + 1) code with
    | some sym => some (sym, bs)
    | none => readSym t fuel (n + 1) code bs

/-- Read `k` symbols. -/
def readSyms (t : CodeTable) : Nat → List Bool → Option (List Nat × List Bool)
  | 0, bs => some ([], bs)
  | k + 1, bs =>
    match readSym t 15 0 0 bs with
    | none => none
    | some (x, bs) => (readSyms t k bs).map fun r => (x :: r.1, r.2)

/-- Read `k` fields of `w` bits. -/
def readFields (w : Nat) : Nat → List Bool → Option (List Nat × List Bool)
  | 0, bs => some ([], bs)
  | k + 1, bs =>
    if bs.length < w then none
    else (readFields w k (bs.drop w)).map fun r => (ofLsb (bs.take w) :: r.1, r.2)

/-! ## Groups (R109) -/

/-- The elements of a group's decoded bytes. -/
def elements (w : Nat) (bs : List Byte) : List Nat := (chunks w (8 * bs.length + 1) (unpack bs)).map ofLsb

/-- One row of eight scales: the first, and the differences of the other seven. -/
def scaleRow : List Nat → Nat × List Nat
  | [] => (0, [])
  | x :: xs => (x, (List.range xs.length).map fun i => (xs.getD i 0 + 256 - (x :: xs).getD i 0) % 256)

/-- The prefix codes of symbols; none where a symbol has no code. -/
def codes (t : CodeTable) : List Nat → Option (List Bool)
  | [] => some []
  | x :: xs =>
    match codeOf t x, codes t xs with
    | some a, some b => some (a ++ b)
    | _, _ => none

def scaleRows (t : CodeTable) : List (List Nat) → Option (List Bool)
  | [] => some []
  | r :: rs =>
    match codes t (scaleRow r).2, scaleRows t rs with
    | some a, some b => some (lsb 8 (scaleRow r).1 ++ a ++ b)
    | _, _ => none

/-- The coded bits of a group after its table selector byte. (DEDUCED: log 20) -/
def codeBits (kind : Nat) (t : CodeTable) (bs : List Byte) : Option (List Bool) :=
  if kind = 6 then scaleRows t (chunks 8 (bs.length + 1) (bs.map BitVec.toNat))
  else
    let (w, e, m) := shape kind
    let els := elements w bs
    (codes t (els.map fun x => field x m e)).map fun c =>
      let pad := List.replicate ((8 - c.length % 8) % 8) false
      c ++ pad ++ (els.map fun x => lsb (m + 1) (x % 2 ^ m + 2 ^ m * (x / 2 ^ (m + e)))).flatten

/-- The bytes of a coded group with a table of a number. -/
def codedWith (kind n : Nat) (t : CodeTable) (bs : List Byte) : Option (List Byte) :=
  (codeBits kind t bs).map fun c => BitVec.ofNat 8 n :: pack c

/-- The shortest coded form over the tables of the kind, in whole bytes, the lowest table number on a tie (R112).
(DEDUCED: log 20) -/
def encode (kind : Nat) (tables : List CodeTable) (bs : List Byte) : Option (List Byte) :=
  (List.range tables.length).foldl (fun (best : Option (List Byte)) n =>
    match codedWith kind n (tables.getD n []) bs, best with
    | some c, some b => if c.length < b.length then some c else best
    | some c, none => some c
    | none, _ => best) none

/-- One row of scales read back. -/
def readRows (t : CodeTable) : Nat → List Bool → Option (List Nat × List Bool)
  | 0, bs => some ([], bs)
  | k + 1, bs =>
    match readFields 8 1 bs with
    | none => none
    | some (hd, bs) =>
      match readSyms t 7 bs with
      | none => none
      | some (ds, bs) =>
        let row := ds.foldl (fun r d => r ++ [(r.getLastD 0 + d) % 256]) [hd.headD 0]
        (readRows t k bs).map fun r => (row ++ r.1, r.2)

/-- A group's decoded bytes from its coded lines; none where it is malformed. R111 names non-zero bits left over at
the end, so the padding between the codes and the rest is not looked at. (DEDUCED: log 20) -/
def decode (kind : Nat) (tables : List CodeTable) (coded : List Byte) : Option (List Byte) :=
  let sel := (coded.getD 0 0).toNat
  match tables[sel]? with
  | none => none
  | some t =>
    let bits := unpack (coded.drop 1)
    if kind = 6 then
      match readRows t 256 bits with
      | some (xs, rest) => if rest.any id then none else some (xs.map fun x => BitVec.ofNat 8 x)
      | none => none
    else
      let (w, e, m) := shape kind
      let n := 8 * groupBytes kind / w
      match readSyms t n bits with
      | none => none
      | some (exps, rest) =>
        let used := bits.length - rest.length
        let rest' := rest.drop ((8 - used % 8) % 8)
        match readFields (m + 1) n rest' with
        | none => none
        | some (sm, tail) =>
          if tail.any id then none
          else some (pack ((List.zip exps sm).map fun x =>
            lsb w (x.2 % 2 ^ m + 2 ^ m * x.1 + 2 ^ (m + e) * (x.2 / 2 ^ m))).flatten)

end Sys2Proof.Cask
end

