-- ==== Sys2Proof/Machine/Streams.lean ====
section
/-! DEFINITION. Porter streams (chapters 2 and 5): where their tiles lie, issue, staging, store, credits, and Cask
pages. -/

namespace Sys2Proof.Machine

open Sys2Proof

/-! ## Where a tile lies (R33, R34) -/

/-- Region tile of stream tile t: loop 0 is the outermost. -/
def regionTile (loops : List (Nat × Nat)) (t : Nat) : Nat :=
  ((loops.foldr (fun l (acc : Nat × Nat) => (acc.1 / l.1, acc.2 + acc.1 % l.1 * l.2)) (t, 0))).2

/-- The device virtual address of byte `b` of the tile's footprint: payload, then its scale plane after the region. -/
def tileVa (d : StreamDecl) (base t b : Nat) : Nat :=
  let pay := Fpu.payload d.fmt
  let r := regionTile d.loops t
  if b < pay then base + r * pay + b else base + d.region * pay + r * 2048 + (b - pay)

/-- Lines of a tile's footprint. -/
def tileLines (d : StreamDecl) : Nat := Fpu.footprint d.fmt / 1024

/-- Valid rows and columns of tile t (R32). -/
def tileValid (d : StreamDecl) (t : Nat) : Nat × Nat :=
  match d.edges.find? fun e => e.1 = t with
  | some e => (e.2.1, e.2.2)
  | none => (256, 256)

/-- The bits of a payload byte that lie in the valid area, as a mask. -/
def validBits (d : StreamDecl) (t b : Nat) : Nat :=
  let (rows, cols) := tileValid d t
  let rb := Fpu.rowBytes d.fmt
  let bits := cols * Fpu.elemBits d.fmt
  if rows ≤ b / rb then 0
  else if 8 * (b % rb) + 8 ≤ bits then 255
  else 2 ^ (bits - 8 * (b % rb)) - 1

/-- Whether a scale byte belongs to a block that the valid area meets. -/
def validScale (d : StreamDecl) (t b : Nat) : Bool :=
  let (rows, cols) := tileValid d t
  b / 8 < rows && 32 * (b % 8) < cols

/-- A declaration of a running stream and its run. -/
def State.streamOf (s : State) (p seq stream : Nat) : Option (StreamDecl × StreamRun × Manifest) :=
  let q := s.pol p
  let r := q.run seq
  if !q.isRunning seq || r.suspended then none else
  ((s.schedule r.m.schedule).bind fun c => c.streams[stream]?).map fun d => (d, r.streams.get {} stream, r.m)

def State.updStream (s : State) (p seq stream : Nat) (f : StreamRun → StreamRun) : State :=
  s.updRun p seq fun r => { r with streams := r.streams.upd {} stream f }

def State.updTile (s : State) (p seq stream t : Nat) (f : TileBuf → TileBuf) : State :=
  s.updStream p seq stream fun c => { c with tiles := c.tiles.upd {} t f }

def streamBase (d : StreamDecl) (m : Manifest) : Nat := (m.operands.getD d.operand (0, 0)).2

/-- The hint of a stream: its operand's, else its declaration's, else the entry's (R170). -/
def streamHint (d : StreamDecl) (m : Manifest) (e : Word) : Nat :=
  let h := (m.operands.getD d.operand (0, 0)).1
  let h := if h = 0 then d.hint else h
  let h := if h = 0 then eHint e else h
  if h = 2 then 0 else h

def porterRef (d : StreamDecl) (p seq stream : Nat) : EngineRef := .porter d.die d.porter p seq stream

/-! ## Cask pages (R108) -/

/-- The codings of the granules that a stream's region touches, as the Land Register stands. -/
def State.regionCodings (s : State) (d : StreamDecl) (base : Nat) : List Nat :=
  let size := d.region * Fpu.footprint d.fmt
  (List.range (size / 2 ^ 21 + 2)).filterMap fun j =>
    let va := base / 2 ^ 21 * 2 ^ 21 + j * 2 ^ 21
    if base + size ≤ va then none else
    let i := va / 2 ^ 21
    let eb := s.landEntry (spanBase i)
    let e := if eValid eb && eSpan eb then eb else s.landEntry i
    if eValid e then some (eCoding e) else none

/-- A stream whose region mixes codings, or of a format without Cask on a Cask page, is refused. -/
def State.caskRefused (s : State) (d : StreamDecl) (base : Nat) : Bool :=
  let cs := s.regionCodings d base
  cs.contains 1 && (cs.contains 0 || !(1 ≤ d.fmt && d.fmt ≤ 5))

/-- KIND, first byte in the footprint and bytes of group j of a tile: eight element groups, then the scale group. -/
def tileGroup (fmt j : Nat) : Nat × Nat × Nat :=
  if j < 8 then (fmt, j * (Fpu.payload fmt / 8), Fpu.payload fmt / 8) else (6, Fpu.payload fmt, 2048)

/-! ## Issue (R52) -/

/-- What every line of a tile finds in translation, with the state that has begun the walks it needs. -/
def State.translateLines (s : State) (eng : EngineRef) (p acc tag : Nat) (vas : List Nat) : List (Nat × Look) × State :=
  vas.foldl (fun (x : List (Nat × Look) × State) va =>
    let (l, s) := x.2.translate eng p va acc tag
    (x.1 ++ [(va, l)], s)) ([], s)

def anyWait (ls : List (Nat × Look)) : Bool := ls.any fun e => e.2 = .wait

/-- Raise once for each granule what its lines raise. -/
def State.raiseGranules (s : State) (code : Code) (src p eng : Nat) (vas : List Nat) : State :=
  (vas.foldl (fun (acc : List Nat × State) va =>
    if acc.1.contains (va / 2 ^ 21) then acc
    else (va / 2 ^ 21 :: acc.1, acc.2.raiseOwn code src p (addrDetail va eng))) ([], s)).2

/-- The local lines that translated lines lie in; none where one is refused or is not the module's memory. -/
def State.localLines (s : State) (ls : List (Nat × Look)) : List (Option Nat) :=
  ls.map fun e => match e.2 with
    | .ok _ dpa => if s.localMem dpa then some (dpaOffset dpa / 1024) else none
    | _ => none

def linesOf (ls : List (Nat × Look)) (l : Look) : List Nat := (ls.filter fun e => e.2 = l).map Prod.fst

/-- What a line raises that no request can be made for: FENCED_TARGET where its host's link is down, else PERMISSION (R31,
R244). -/
def State.refusal (s : State) (dpa : Nat) : Code :=
  match s.region (dpaOffset dpa) with
  | .host q _ => if s.hostDown q then .fencedTarget else .permission
  | _ => .permission

/-- One line of a load: a request at its home, a read of a host, or a READ of another module; the number of answers
it will bring, none where it is refused. -/
def State.loadLine (s : State) (p : Nat) (who : Requester) (va dpa hint : Nat) : Option (Nat × State) :=
  if dpaModule dpa ≠ s.boot.moduleId then (s.remoteRead p 0 dpa 1024 who va).map fun s => (1, s)
  else
    match s.region (dpaOffset dpa) with
    | .host q w => if s.hostDown q then none else s.hostRead q p w 1024 who va
    | .gate _ => none
    | _ => some (1, s.newReq (.read 0xFF) (dpaOffset dpa / 1024) p who va hint)

/-- PORTER_TILE_ISSUE (R52): the next tile of a load stream takes a credit and its line requests leave; a line that
misses translation stalls the stream (R56). A refused line lands as poison. -/
def execPorterTileIssue (p : Pol) (seq stream : Nat) (s : State) : Out :=
  .next <|
    match s.streamOf p.val seq stream with
    | none => s
    | some (d, c, m) =>
      if d.src ≠ .porter || d.store || c.credits = 0 || d.length ≤ c.next
          || s.held (srcPorter d.die d.porter) p.val || (s.mill d.die).fenced || !s.mayBegin p.val seq (.stream stream) then s else
      let base := streamBase d m
      let eng := porterRef d p.val seq stream
      let src := srcPorter d.die d.porter
      let t := c.next
      let take := fun (s : State) (b : TileBuf) => s.updStream p.val seq stream fun c => { c with
        credits := c.credits - 1, next := c.next + 1, tiles := c.tiles.set {} t b }
      let sectors := List.range (8 * tileLines d)
      let (ls, s) := s.translateLines eng p.val 0 m.tag ((List.range (tileLines d)).map fun i => tileVa d base t (1024 * i))
      if anyWait ls then s else
      let s := s.endWalks eng
      if s.caskRefused d base then
        (take s { poison := sectors }).permission src p.val (tileVa d base t 0) 0
      else
      let s := s.raiseGranules .permission src p.val 0 (linesOf ls .denied)
      let s := s.raiseGranules .fencedTarget src p.val 0 (linesOf ls .fenced)
      let cask := ls.any fun e => match e.2 with
        | .ok w _ => eCoding w = 1
        | _ => false
      if cask then take s { cask := true, outstanding := 9, lines := s.localLines ls } else
      let s := take s {}
      (List.range ls.length).foldl (fun s i =>
        let bad := fun (s : State) =>
          let (bs, s) := s.freeLine
          s.updTile p.val seq stream t fun b => { b with
            poison := b.poison ++ (List.range 8).map (8 * i + ·), bytes := b.bytes ++ bs.map fun e => (1024 * i + e.1, e.2) }
        match ls.getD i (0, .denied) with
        | (va, .ok e dpa) =>
          match s.loadLine p.val (.porter p.val seq stream t i) va dpa (streamHint d m e) with
          | some (n, s) => s.updTile p.val seq stream t fun b => { b with outstanding := b.outstanding + n }
          | none => bad (s.raiseOwn (s.refusal dpa) src p.val (addrDetail va 0))
        | _ => bad s) s

/-- Landed bytes of a tile, with zeros beyond the valid area of its payload (R32). -/
def fillEdge (d : StreamDecl) (t : Nat) (b : TileBuf) : TileBuf :=
  if tileValid d t = (256, 256) then b else
  { b with bytes := b.bytes.map fun e =>
    if e.1 < Fpu.payload d.fmt then (e.1, e.2 &&& BitVec.ofNat 8 (validBits d t e.1)) else e }

/-- PORTER_TILE_STAGED (R55): the last line of the oldest tile in flight has landed. -/
def execPorterTileStaged (p : Pol) (seq stream : Nat) (s : State) : Out :=
  .next <|
    match s.streamOf p.val seq stream with
    | none => s
    | some (d, c, _) =>
      if d.src ≠ .porter || d.store then s else
      match c.tiles.find? fun e => !e.2.staged with
      | some (t, b) =>
        if b.outstanding = 0 then s.updTile p.val seq stream t fun b => { fillEdge d t b with staged := true } else s
      | none => s

/-! ## Stores (R52, R112) -/

/-- The bits of a byte of a tile's footprint that a store writes: those of the valid area, and whole each scale byte
of a block that the valid area meets. (DEDUCED: log 29) -/
def storeBits (d : StreamDecl) (t b : Nat) : Nat :=
  if b < Fpu.payload d.fmt then validBits d t b else if validScale d t (b - Fpu.payload d.fmt) then 255 else 0

/-- A byte of a store: the bits beyond the valid area keep what stands in local memory; beyond the module they are
`free`. (DEDUCED: log 29) -/
def storeByte (s : State) (d : StreamDecl) (t b dpa : Nat) (free v : Byte) : Option Byte :=
  let k := storeBits d t b
  if k = 0 then none
  else if k = 255 then some v
  else some ((v &&& BitVec.ofNat 8 k) ||| ((if s.localMem dpa then s.peekByte (dpaOffset dpa) else free) &&& ~~~(BitVec.ofNat 8 k)))

/-- Bytes of a line in runs without gaps, each at the offset of its first. -/
def byteRuns (bs : Bytes) : List (Nat × List Byte) :=
  bs.foldr (fun e acc => match acc with
    | (o, l) :: r => if o = e.1 + 1 then (e.1, e.2 :: l) :: r else (e.1, [e.2]) :: acc
    | [] => [(e.1, [e.2])]) []

/-- One line of a store stream: the number of landings it will bring, none where it is refused. What leaves the module
goes in runs without gaps. -/
def State.storeLine (s : State) (p : Nat) (who : Requester) (va dpa hint : Nat) (bs : Bytes) (dead poison : Bool) : Option (Nat × State) :=
  let each := fun (f : State → Nat × List Byte → Option State) =>
    ((byteRuns bs).foldl (fun x e => x.bind fun s => f s e) (some s)).map fun s => (0, s)
  if dpaModule dpa ≠ s.boot.moduleId then each fun s e => s.remoteWrite p 0 (dpa + e.1) e.2 poison hint
  else
    match s.region (dpaOffset dpa) with
    | .host q w =>
      if s.hostDown q then none
      else each fun s e => s.hostWrite q p (w + e.1) e.2 poison (s.whoSource who).1 (va + e.1) 0
    | .gate _ => none
    | _ => some (1, s.newReq (.write bs dead poison) (dpaOffset dpa / 1024) p who va hint)

/-- A byte of a tile; what was written last stands. -/
def tileByte (b : TileBuf) (o : Nat) : Byte := ((b.bytes.reverse.find? fun e => e.1 = o).map Prod.snd).getD 0

/-- A running stream's tiles come from an operation that the schedule declares, or go to one (R38). -/
def State.isGiven (s : State) (p seq n : Nat) : Bool :=
  (s.schedule ((s.pol p).run seq).m.schedule).any fun c => givesStream c n
def State.isTaken (s : State) (p seq n : Nat) : Bool :=
  (s.schedule ((s.pol p).run seq).m.schedule).any fun c => takesStream c n

/-- Bytes of a line in its clean sectors and in its poisoned ones, where there are any. -/
def byPoison (bad : Nat → Bool) (bs : Bytes) : List (Bytes × Bool) :=
  [(bs.filter fun e => !bad (e.1 / 128), false), (bs.filter fun e => bad (e.1 / 128), true)].filter fun g => !g.1.isEmpty

/-- Bytes that the Porter writes on line `line` of a tile that it has asked for, and their poison (R55). -/
def TileBuf.overwrite (b : TileBuf) (d : StreamDecl) (t line : Nat) (bs : Bytes) (bad : Bool) : TileBuf :=
  let secs := (bs.map fun e => 8 * line + e.1 / 128).eraseDups
  let whole := fun (k : Nat) => (bs.filter fun e => 8 * line + e.1 / 128 = k).length = 128
  let b := { b with
    bytes := b.bytes ++ bs.map fun e => (1024 * line + e.1, e.2)
    poison := if bad then b.poison ++ secs else b.poison.filter fun k => !whole k }
  if b.staged then fillEdge d t b else b

/-- A line that a Porter writes appears in the tiles that it has in flight or staged and that lie there (R55).
(DEDUCED: log 29) -/
def State.overwrite (s : State) (p seq die porter va : Nat) (bs : Bytes) (bad : Bool) : State :=
  let r := (s.pol p).run seq
  match s.schedule r.m.schedule with
  | none => s
  | some c =>
    c.streams.zipIdx.foldl (fun s e =>
      let (d, j) := e
      if d.src ≠ .porter || d.die ≠ die || d.porter ≠ porter then s else
      s.updStream p seq j fun x => { x with
        tiles := x.tiles.map fun e =>
          match (List.range (tileLines d)).find? fun i => tileVa d (streamBase d r.m) e.1 (1024 * i) = va with
          | some i => (e.1, e.2.overwrite d e.1 i bs bad)
          | none => e }) s

/-- STORE_TILE_EMIT (R38, R52, R141): the producer takes a credit and emits one tile; its lines go to their homes. The tile is what
the Hands put, or what the operation gave that the schedule declares, or else the command's. On a Cask page it waits for its groups
to be encoded. -/
def execStoreTileEmit (p : Pol) (seq stream : Nat) (payload : List Byte) (poison : Bool) (s : State) : Out :=
  .next <|
    match s.streamOf p.val seq stream with
    | none => s
    | some (d, c, m) =>
      let hands := d.src = .hands
      let flow := !hands && s.isGiven p.val seq stream
      let own := hands || flow
      let b0 := if flow then c.given.headD {} else c.tiles.get {} c.next
      let payload := if own then (List.range (Fpu.footprint d.fmt)).map (tileByte b0) else payload
      let badAt := fun (i : Nat) => poison || (own && b0.poison.contains i)
      if d.dst ≠ .porter || (if hands then !c.put.contains c.next else c.credits = 0 || (flow && c.given.isEmpty)) || d.length ≤ c.next
          || payload.length ≠ Fpu.footprint d.fmt || s.held (srcPorter d.die d.porter) p.val || (s.mill d.die).fenced
          || !s.mayBegin p.val seq (.stream stream) then s else
      let base := streamBase d m
      let eng := porterRef d p.val seq stream
      let src := srcPorter d.die d.porter
      let t := c.next
      let take := fun (s : State) (b : TileBuf) => s.updStream p.val seq stream fun c => { c with
        credits := if hands then c.credits else c.credits - 1, next := c.next + 1, tiles := c.tiles.set {} t { b with slot := b0.slot }
        given := if flow then c.given.drop 1 else c.given }
      let handed := fun (s : State) => s.updStream p.val seq stream fun c => { c with
        tiles := c.tiles.set {} t {}, returning := c.returning + 1 }
      let (ls, s) := s.translateLines eng p.val 1 m.tag ((List.range (tileLines d)).map fun i => tileVa d base t (1024 * i))
      if anyWait ls then s else
      let s := s.endWalks eng
      if s.caskRefused d base then
        (handed (take s {})).permission src p.val (tileVa d base t 0) 0
      else
      let s := s.raiseGranules .permission src p.val 0 (linesOf ls .denied)
      let s := s.raiseGranules .fencedTarget src p.val 0 (linesOf ls .fenced)
      let cask := ls.any fun e => match e.2 with
        | .ok w _ => eCoding w = 1
        | _ => false
      if cask then
        take s { cask := true, outstanding := 9, bytes := bytesAt 0 payload, lines := s.localLines ls
                 poison := (List.range (8 * tileLines d)).filter badAt }
      else
      let s := take s {}
      let (n, s) := (List.range ls.length).foldl (fun (x : Nat × State) i =>
        match ls.getD i (0, .denied) with
        | (va, .ok e dpa) =>
          let (fr, s) := if s.localMem dpa then ([], x.2) else x.2.freeBytes 1024
          let x := (x.1, s)
          let hint := streamHint d m e
          let bs : Bytes := (List.range 1024).filterMap fun j =>
            (storeByte s d t (1024 * i + j) (dpa + j) (fr.getD j 0) (payload.getD (1024 * i + j) 0)).map fun v => (j, v)
          (byPoison (fun k => badAt (8 * i + k)) bs).foldl (fun x g =>
            match x.2.storeLine p.val (.porter p.val seq stream t i) va dpa hint g.1 d.dead g.2 with
            | some (k, s) => (x.1 + k, s.overwrite p.val seq d.die d.porter va g.1 g.2)
            | none => (x.1, x.2.raiseOwn (x.2.refusal dpa) src p.val (addrDetail va 0))) x
        | _ => x) (0, s)
      if n = 0 then handed s
      else (s.updTile p.val seq stream t fun b => { b with outstanding := n }).updRun p.val seq fun r =>
        { r with stores := r.stores + n }

/-- CREDIT_RETURN (R52): the consumer has read the last element of the oldest staged tile, or the last line of a
stored tile has been accepted. For a stream to the Hands, TILE_DONE says which tile. What is read waits for the operation that the
schedule declares for it (R38). -/
def execCreditReturn (p : Pol) (seq stream : Nat) (s : State) : Out :=
  .next <|
    match s.streamOf p.val seq stream with
    | none => s
    | some (d, c, _) =>
      let taken := s.isTaken p.val seq stream
      if c.returning ≠ 0 then
        s.updStream p.val seq stream fun c => { c with credits := c.credits + 1, returning := c.returning - 1 }
      else if d.src = .porter && !d.store && d.dst ≠ .hands then
        match c.tiles.find? fun e => e.2.staged with
        | some (t, b) => s.updStream p.val seq stream fun c => { c with
            credits := c.credits + 1, tiles := c.tiles.set {} t {}, given := if taken then c.given ++ [b] else c.given }
        | none => s
      else if d.src = .hands && d.dst ≠ .porter && c.put.contains c.next then
        s.updStream p.val seq stream fun c => { c with
          credits := c.credits + 1, next := c.next + 1, tiles := c.tiles.set {} c.next {}
          given := if taken then c.given ++ [c.tiles.get {} c.next] else c.given }
      else s

/-! ## Cask groups (R111, R112) -/

/-- The code tables of a kind. -/
def State.caskTables (s : State) (kind : Nat) : List CodeTable :=
  (((s.img.map Image.cask).getD []).find? fun e => e.1 = kind).map Prod.snd |>.getD []

/-- The lines of a group of a tile on a Cask page; none where one was refused. -/
def TileBuf.groupLines (b : TileBuf) (off n : Nat) : Option (List Nat) :=
  ((List.range n).map fun i => b.lines.getD (off / 1024 + i) none).mapM id

/-- CASK_DECODE (R111): group 9 t + j of tile t is read in its coded lines and decoded into the tile; a malformed
group arrives poisoned. (DEDUCED: log 20) -/
def execCaskDecode (d : Die) (p : Pol) (seq stream group : Nat) (s : State) : Out :=
  .next <|
    match s.streamOf p.val seq stream with
    | none => s
    | some (sd, c, m) =>
      let t := group / 9
      let j := group % 9
      let b := c.tiles.get {} t
      if sd.die ≠ d.val || sd.src ≠ .porter || sd.store || !b.cask || b.groups.contains j then s else
      let (kind, off, len) := tileGroup sd.fmt j
      let n := len / 1024
      let got := fun (s : State) (bytes : List Byte) (bad : Bool) => s.updTile p.val seq stream t fun b => { b with
        bytes := bytesAt off bytes ++ b.bytes, groups := b.groups ++ [j], outstanding := b.outstanding - 1
        poison := if bad then b.poison ++ (List.range (8 * n)).map (off / 128 + ·) else b.poison }
      -- a group without a value arrives as free bytes, poisoned
      let none_ := fun (s : State) =>
        let (bs, s) := s.freeBytes len
        got s bs true
      match b.groupLines off n with
      | none => none_ s
      | some lines =>
        let tag := (s.mark (lines.headD 0)).tag.toNat
        let read := fun (k : Nat) => ((lines.take k).map fun l => s.peek (1024 * l) 1024).flatten
        let struck := fun (k : Nat) => (lines.take k).any fun l => s.peekPoison (1024 * l) 1024
        let poisonRead := fun (s : State) => s.raiseOwn .poisonRead (srcPorter sd.die sd.porter) p.val
          (addrDetail (tileVa sd (streamBase sd m) t off) 0)
        if tag / 16 = 0 then
          if struck n then
            let secs := (List.range (8 * n)).filter fun i => s.peekPoison (1024 * lines.getD (i / 8) 0 + 128 * (i % 8)) 128
            (got (poisonRead s) (read n) false).updTile p.val seq stream t fun b =>
              { b with poison := b.poison ++ secs.map (off / 128 + ·) }
          else got s (read n) false
        else if tag / 16 ≠ kind || tag % 16 = 0 || n ≤ tag % 16 then
          none_ (s.raiseOwn .caskMalformed (srcStation 2 d) p.val [])
        else if struck (tag % 16) then none_ (poisonRead s)
        else
          match Cask.decode kind (s.caskTables kind) (read (tag % 16)) with
          | some bytes => got s bytes false
          | none => none_ (s.raiseOwn .caskMalformed (srcStation 2 d) p.val [])

/-- What a group of a Cask page decodes to now, and whether it is poisoned; one that has no value is free and poisoned (R111). -/
def State.groupBytes (s : State) (kind : Nat) (lines : List Nat) : List Byte × Bool × State :=
  let n := lines.length
  let tag := (s.mark (lines.headD 0)).tag.toNat
  let read := fun (k : Nat) => ((lines.take k).map fun l => s.peek (1024 * l) 1024).flatten
  let struck := fun (k : Nat) => (lines.take k).any fun l => s.peekPoison (1024 * l) 1024
  let none_ := let (bs, s) := s.freeBytes (1024 * n); (bs, true, s)
  if tag / 16 = 0 then (read n, struck n, s)
  else if tag / 16 ≠ kind || tag % 16 = 0 || n ≤ tag % 16 || struck (tag % 16) then none_
  else
    match Cask.decode kind (s.caskTables kind) (read (tag % 16)) with
    | some bytes => (bytes, false, s)
    | none => none_

/-- A group's bytes with what stands beyond the valid area of its tile kept (R32), and whether what was kept is
poisoned. (DEDUCED: log 20) -/
def State.groupEdges (s : State) (sd : StreamDecl) (t off kind : Nat) (lines : List Nat) (bytes : List Byte) : List Byte × Bool × State :=
  let mask := fun (i : Nat) => storeBits sd t (off + i)
  if (List.range bytes.length).all fun i => mask i = 255 then (bytes, false, s) else
  let (old, bad, s) := s.groupBytes kind lines
  ((List.range bytes.length).map fun i =>
    let k := BitVec.ofNat 8 (mask i)
    (bytes.getD i 0 &&& k) ||| (old.getD i 0 &&& ~~~k), bad, s)

/-- What a group is stored as, and its tag: its shortest coded form where that saves a line and no sector is poisoned,
else raw (R112). (DEDUCED: log 20) -/
def State.caskForm (s : State) (kind : Nat) (bytes : List Byte) (clean : Bool) : List Byte × Nat :=
  match Cask.encode kind (s.caskTables kind) bytes with
  | some x =>
    let n := ceilDiv x.length 1024
    if n < bytes.length / 1024 && clean then (slice x 0 (1024 * n), 16 * kind + n) else (bytes, 0)
  | none => (bytes, 0)

/-- Whole lines are written at their homes, each sector with its poison. -/
def State.pokeGroup (s : State) (p : Nat) (lines : List Nat) (bad : Nat → Bool) (out : List Byte) : State :=
  (List.range (out.length / 1024)).foldl (fun s i =>
    (byPoison (fun k => bad (8 * i + k)) (bytesAt 0 (slice out (1024 * i) 1024))).foldl (fun s g =>
      s.pokeLine p (lines.getD i 0) g.1 g.2) s) s

/-- The bytes of a group that an emitted tile holds. -/
def TileBuf.groupBytes (b : TileBuf) (off len : Nat) : List Byte :=
  (List.range len).map fun i => ((b.bytes.find? fun e => e.1 = off + i).map Prod.snd).getD 0

/-- A group of an emitted tile is done; with its last the tile's credit is on its way back. -/
def StreamRun.groupDone (c : StreamRun) (t j : Nat) : StreamRun :=
  let b := c.tiles.get {} t
  if b.outstanding = 1 then { c with tiles := c.tiles.set {} t {}, returning := c.returning + 1 }
  else { c with tiles := c.tiles.set {} t { b with groups := b.groups ++ [j], outstanding := b.outstanding - 1 } }

/-- CASK_ENCODE (R112): group 9 t + j of an emitted tile is coded with the shortest table, or stored raw. A group with
a poisoned sector is stored raw, and those of its sectors poisoned. (DEDUCED: log 20) -/
def execCaskEncode (d : Die) (p : Pol) (seq stream group : Nat) (bytes : List Byte) (s : State) : Out :=
  .next <|
    match s.streamOf p.val seq stream with
    | none => s
    | some (sd, c, m) =>
      let t := group / 9
      let j := group % 9
      let b := c.tiles.get {} t
      let (kind, off, len) := tileGroup sd.fmt j
      if sd.die ≠ d.val || sd.dst ≠ .porter || !b.cask || b.groups.contains j || bytes ≠ b.groupBytes off len then s else
      let settle := fun (s : State) => s.updStream p.val seq stream fun c => c.groupDone t j
      match b.groupLines off (len / 1024) with
      | none => settle s
      | some lines =>
        if !(lines.all s.lineQuiet) then s else
        let (bytes, oldBad, s) := s.groupEdges sd t off kind lines bytes
        let bad := fun (i : Nat) => oldBad || b.poison.contains (off / 128 + i)
        let (out, tag) := s.caskForm kind bytes (!(List.range (len / 128)).any bad)
        let s := s.pokeGroup p.val lines bad out
        let s := (List.range (len / 1024)).foldl (fun s i =>
          (byPoison (fun k => bad (8 * i + k)) (bytesAt 0 (slice bytes (1024 * i) 1024))).foldl (fun s g =>
            s.overwrite p.val seq sd.die sd.porter (tileVa sd (streamBase sd m) t (off + 1024 * i)) g.1 g.2) s) s
        settle (s.updMark (lines.headD 0) fun k => { k with tag := BitVec.ofNat 8 tag })

/-! ## Range steps (R177 to R179) -/

/-- A fenced manifest over a malformed range record (R178). -/
def State.rejectRun (s : State) (p seq : Nat) : State :=
  let m := ((s.pol p).run seq).m
  (s.raiseOwn .manifestReject srcSeq p (leBytes 4 m.tag ++ leBytes 4 m.slot)).fenceRun p seq

/-- The fields of a range record that R177 allows. -/
def rangeOk (raw : List Byte) : Bool :=
  leAt raw 0 8 % 1024 = 0 && leAt raw 0 8 < 2 ^ 45 && leAt raw 8 8 % 1024 = 0 && 1024 ≤ leAt raw 8 8
    && leAt raw 16 1 < 4 && leAt raw 17 1 < 2 && (leAt raw 16 1 ≠ 0 || leAt raw 18 1 < 4)
    && allZero (slice raw 19 13)

def State.updRange (s : State) (p seq i : Nat) (f : RangeRun → RangeRun) : State :=
  s.updRun p seq fun r => { r with ranges := r.ranges.upd {} i f }

/-- The record is read: the step begins. -/
def State.rangeBegin (s : State) (p seq i : Nat) (d : RangeDecl) (raw : List Byte) : State :=
  if !rangeOk raw then s.rejectRun p seq else
  let len := leAt raw 8 8
  let m := ((s.pol p).run seq).m
  let clipped := d.limit < len
  let s := if clipped then s.raiseOwn .rangeClipped (srcPorter d.die d.porter) p (leBytes 4 m.tag) else s
  s.updRange p seq i fun _ => {
    started := true, base := leAt raw 0 8, length := if clipped then d.limit / 1024 * 1024 else len
    op := leAt raw 16 1, level := leAt raw 17 1, hint := leAt raw 18 1 }

/-- The operation of a record on a line of local memory; none where the line must wait (a Bin without a way or a
tracker). -/
def State.rangeLine (s : State) (p seq i : Nat) (d : RangeDecl) (g : RangeRun) (line va entryHint : Nat) : Option State :=
  let send := fun (op : RangeOp) =>
    some ((s.updRange p seq i fun g => { g with outstanding := g.outstanding + 1 }).newReq
      (.range op (g.level = 1)) line p (.step p seq i) va (if g.hint = 0 then entryHint else g.hint))
  match g.op with
  | 0 =>
    if g.level = 1 then send .prefetch
    else
      let h := if g.hint = 0 then entryHint else g.hint
      let s' := s.binRead d.die p line 0xFF h
      if (s'.binFind d.die p line).isSome || (s'.mill d.die).fenced || s'.homeFenced line then some s' else none
  | 1 => send .flush
  | 2 => send .cleanInvalidate
  | _ => send .discard

/-- Lines in ascending order, until one must wait; a granule without the permission raises PERMISSION once and is
skipped. -/
def State.rangeLines (s : State) (p seq i : Nat) (d : RangeDecl) : Nat → State
  | 0 => s
  | fuel + 1 =>
    let r := (s.pol p).run seq
    let g := r.ranges.get {} i
    if g.length ≤ 1024 * g.lines then s else
    let va := g.base + 1024 * g.lines
    let eng := EngineRef.porter d.die d.porter p seq (256 + i)
    let src := srcPorter d.die d.porter
    let next := fun (s : State) => (s.updRange p seq i fun g => { g with lines := g.lines + 1 }).rangeLines p seq i d fuel
    let first := g.refused ≠ some (va / 2 ^ 21)
    let skip := fun (s : State) (raise : State → State) =>
      next ((if first then raise s else s).updRange p seq i fun g => { g with refused := some (va / 2 ^ 21) })
    match s.translate eng p va (if g.op = 3 then 4 else 3) r.m.tag with
    | (.denied, s) => skip s fun s => s.permission src p va 0
    | (.fenced, s) => skip s fun s => s.raiseOwn .fencedTarget src p (addrDetail va 0)
    | (.aborted, s) => skip s id
    | (.ok e dpa, s) =>
      if dpaModule dpa ≠ s.boot.moduleId then skip s fun s => s.permission src p va 0
      else if !s.localMem dpa then next s
      else
        match s.rangeLine p seq i d g (dpaOffset dpa / 1024) va (eHint e) with
        | some s => next s
        | none => s
    | (_, s) => s

/-- Every line operation has reached the level it names. -/
def State.rangeSettled (s : State) (p seq i : Nat) (d : RangeDecl) : Bool :=
  let g := ((s.pol p).run seq).ranges.get {} i
  g.started && g.length ≤ 1024 * g.lines && g.outstanding = 0
    && (g.op ≠ 0 || g.level = 1 || !(s.bins.any fun e =>
      e.1 / 2 ^ 17 = d.die && e.2.pol = p && isCollecting e.2.st && !e.2.waits.isEmpty))

/-- A range step of operation `op`: its record is read, its lines are taken as far as they can be, and it ends. -/
def State.rangeStep (s : State) (p seq i op : Nat) : State :=
  let q := s.pol p
  let r := q.run seq
  match q.isRunning seq && !r.suspended, (s.schedule r.m.schedule).bind fun c => c.ranges[i]? with
  | true, some d =>
    if s.held (srcPorter d.die d.porter) p then s else
    let eng := EngineRef.porter d.die d.porter p seq (256 + i)
    let go := fun (s : State) =>
      let g := ((s.pol p).run seq).ranges.get {} i
      if !(s.pol p).isRunning seq || !g.started || g.op ≠ op || g.done then s else
      let s := s.rangeLines p seq i d (g.length / 1024 - g.lines + 1)
      if s.rangeSettled p seq i d then
        (s.updRange p seq i fun g => { g with done := true }).endWalks eng else s
    if (r.ranges.get {} i).started then go s else
    if !s.mayBegin p seq (.range i) then s else
    let va := (r.m.operands.getD d.operand (0, 0)).2
    match s.translate eng p va 0 r.m.tag with
    | (.ok _ dpa, s) =>
      if !s.localMem dpa then (s.permission (srcPorter d.die d.porter) p va 0).rejectRun p seq
      else
        let raw := s.peek (dpaOffset dpa) 32
        if leAt raw 16 1 ≠ op && rangeOk raw then s else go (s.rangeBegin p seq i d raw)
    | (.denied, s) => (s.permission (srcPorter d.die d.porter) p va 0).rejectRun p seq
    | (.fenced, s) => (s.raiseOwn .fencedTarget (srcPorter d.die d.porter) p (addrDetail va 0)).rejectRun p seq
    | (.aborted, s) => s.rejectRun p seq
    | (_, s) => s
  | _, _ => s

/-- PREFETCH (R177). -/
def execPrefetch (p : Pol) (seq stepNo : Nat) (s : State) : Out := .next (s.rangeStep p.val seq stepNo 0)
/-- FLUSH (R177). -/
def execFlush (p : Pol) (seq stepNo : Nat) (s : State) : Out := .next (s.rangeStep p.val seq stepNo 1)
/-- CLEAN_INVALIDATE (R177). -/
def execCleanInvalidate (p : Pol) (seq stepNo : Nat) (s : State) : Out := .next (s.rangeStep p.val seq stepNo 2)
/-- DISCARD (R177). (DEDUCED: log 62) -/
def execDiscard (p : Pol) (seq stepNo : Nat) (s : State) : Out := .next (s.rangeStep p.val seq stepNo 3)

end Sys2Proof.Machine
end

