-- ==== Sys2Proof/Machine/Tiles.lean ====
section
/-! DEFINITION. Tiles between stations (R32, R33, R38, R80 to R88): what a stream has brought to its destination, the
order in which an operation takes it, and the tiles that an operation makes. -/

namespace Sys2Proof

open Fpu

/-- An element by row and column; zero beyond the valid area (R83). -/
def Matrix.val (m : Matrix) (r c : Nat) : Val :=
  if r < m.rows && c < m.cols then
    elemVal m.fmt (m.scales.getD (r * ceilDiv m.cols 32 + c / 32) 0) (m.elems.getD (r * m.cols + c) 0)
  else .fin false 0 0

/-- The code of an element. -/
def Matrix.code (m : Matrix) (r c : Nat) : Nat := if r < m.rows && c < m.cols then m.elems.getD (r * m.cols + c) 0 else 0

/-- The lists hold one code for each element, and a scale for each 32 elements of a row of an MX format. -/
def Matrix.ok (m : Matrix) : Bool :=
  1 ≤ m.rows && m.rows ≤ 1048576 && 1 ≤ m.cols && m.cols ≤ 1048576 && m.elems.length = m.rows * m.cols
    && m.scales.length = (if isMx m.fmt then m.rows * ceilDiv m.cols 32 else 0)

end Sys2Proof

namespace Sys2Proof.Machine

open Sys2Proof Fpu

/-! ## A tile's contents (R33) -/

/-- The code of element i of a tile, in row-major order. -/
def tileCode (fmt : Nat) (b : TileBuf) (i : Nat) : Nat :=
  let w := elemBits fmt
  leNat ((List.range 5).map fun j => tileByte b (i * w / 8 + j)) / 2 ^ (i * w % 8) % 2 ^ w

/-- The scale byte of block k of row r. -/
def tileScale (fmt : Nat) (b : TileBuf) (r k : Nat) : Nat := (tileByte b (payload fmt + 8 * r + k)).toNat

/-- A tile holds the part of a matrix at a row tile and a column tile. -/
def tileIs (m : Matrix) (i j : Nat) (b : TileBuf) : Bool :=
  let rows := min 256 (m.rows - 256 * i)
  let cols := min 256 (m.cols - 256 * j)
  (List.range rows).all fun r =>
    ((List.range cols).all fun c => tileCode m.fmt b (256 * r + c) = m.code (256 * i + r) (256 * j + c))
      && (!isMx m.fmt || (List.range (ceilDiv cols 32)).all fun k =>
        tileScale m.fmt b r k = m.scales.getD ((256 * i + r) * ceilDiv m.cols 32 + 8 * j + k) 0)

/-- A tile of the part of a matrix of BF16 or FP32 codes that lies at a row tile and a column tile; zeros beyond it. -/
def tileOf (m : Matrix) (i j : Nat) (bad : Bool) : TileBuf :=
  let w := elemBits m.fmt / 8
  { staged := true
    poison := if bad then List.range (footprint m.fmt / 128) else []
    bytes := ((List.range (min 256 (m.rows - 256 * i))).map fun r => ((List.range (min 256 (m.cols - 256 * j))).map fun c =>
      bytesAt ((256 * r + c) * w) (leBytes w (m.code (256 * i + r) (256 * j + c)))).flatten).flatten }

/-- The tile of all 65,536 element codes and, of an MX format, its 2,048 scales. -/
def packTile (fmt : Nat) (codes scales : List Nat) (bad : Bool) : TileBuf :=
  let w := elemBits fmt
  let byte := fun (j : Nat) => (List.range 8).foldl (fun a k =>
    let bit := 8 * j + k
    if (codes.getD (bit / w) 0).testBit (bit % w) then a + 2 ^ k else a) 0
  { staged := true
    poison := if bad then List.range (footprint fmt / 128) else []
    bytes := bytesAt 0 ((List.range (payload fmt)).map fun j => BitVec.ofNat 8 (byte j))
      ++ bytesAt (payload fmt) (scales.map fun x => BitVec.ofNat 8 x) }

/-! ## What a stream has brought (R38) -/

def State.streamRun (s : State) (p seq n : Nat) : StreamRun := ((s.pol p).run seq).streams.get {} n

/-- Tiles of one stream, in stream order, with the part of a matrix that each is. -/
structure Demand where
  stream : Nat
  tiles : List (Matrix × Nat × Nat)
deriving DecidableEq, Repr

/-- The first tiles of a stream are those that an operation takes. -/
def State.meets (s : State) (p seq : Nat) (d : Demand) : Bool :=
  let g := (s.streamRun p seq d.stream).given
  d.tiles.length ≤ g.length && (d.tiles.zip g).all fun e => tileIs e.1.1 e.1.2.1 e.1.2.2 e.2

/-- Whether a tile that an operation takes carries poison. -/
def State.demandBad (s : State) (p seq : Nat) (d : Demand) : Bool :=
  ((s.streamRun p seq d.stream).given.take d.tiles.length).any fun b => !b.poison.isEmpty

/-- The streams that an operation takes and gives may begin. -/
def State.mayFlow (s : State) (p seq : Nat) (ns : List Nat) : Bool := ns.all fun n => s.mayBegin p seq (.stream n)

/-- An operation has its operands: the streams that the schedule names have brought them in order, those that it takes
and gives may begin, and its results carry their poison. (DESIGN CHOICE: log 66) -/
def State.fed (s : State) (p seq : Nat) (ds : List Demand) (outs : List (Option Nat)) (poison : Bool) : Bool :=
  ds.all (s.meets p seq) && s.mayFlow p seq (ds.map Demand.stream ++ outs.filterMap id) && (poison || !ds.any (s.demandBad p seq))

/-- The tiles are used. -/
def State.useTiles (s : State) (p seq : Nat) (ds : List Demand) : State :=
  ds.foldl (fun s d => s.updStream p seq d.stream fun c => { c with given := c.given.drop d.tiles.length }) s

/-- Tiles come to the destination of a stream: at the Hands each is staged under its index (R140). -/
def StreamRun.bring (c : StreamRun) (hands : Bool) (ts : List TileBuf) : StreamRun :=
  let c' := if hands then { c with tiles := ts.zipIdx.foldl (fun m e => m.set {} (c.made + e.2) e.1) c.tiles }
    else { c with given := c.given ++ ts }
  { c' with made := c.made + ts.length }

/-- The destination of a running stream is the Hands. -/
def State.toHands (s : State) (p seq n : Nat) : Bool := (s.streamOf p seq n).any fun x => x.1.dst = .hands

/-- Tiles come to the destination of the stream that an operation gives. -/
def State.giveTiles (s : State) (p seq : Nat) (n : Option Nat) (ts : List TileBuf) : State :=
  match n with
  | none => s
  | some n => s.updStream p seq n fun c => c.bring (s.toHands p seq n) ts

/-! ## Orders (R84 to R88) -/

/-- Row tiles, reduction tiles and column tiles of a product, and its blocks: row tiles and column tiles of each. -/
structure Blocks where
  rows : Nat
  ks : Nat
  cols : Nat
  y : Nat
  x : Nat
deriving DecidableEq, Repr

/-- Part i of a run of `n` tiles in parts of `size`. -/
def part (n size i : Nat) : List Nat := (List.range (min size (n - size * i))).map (size * i + ·)

def parts (n size : Nat) : List (List Nat) := (List.range (ceilDiv n size)).map (part n size)

/-- Operand A of an output-stationary GEMM (R84): N block, M block, reduction tile, row tile within the block. -/
def Blocks.osA (b : Blocks) : List (Nat × Nat) :=
  (parts b.cols b.x).flatMap fun _ => (parts b.rows b.y).flatMap fun rs => (List.range b.ks).flatMap fun k => rs.map (·, k)

/-- Operand B (R84): N block, M block, reduction tile, column tile; `keep` picks a die's columns of a block. -/
def Blocks.osB (b : Blocks) (keep : List Nat → List Nat) : List (Nat × Nat) :=
  (parts b.cols b.x).flatMap fun cs => (parts b.rows b.y).flatMap fun _ => (List.range b.ks).flatMap fun k => (keep cs).map (k, ·)

/-- Operand A of a weight-stationary GEMM (R85): N block, chunk of 512 rows, Y-row block, reduction tile, row tile.
(DEDUCED: log 16) -/
def Blocks.wsA (b : Blocks) : List (Nat × Nat) :=
  (parts b.cols b.x).flatMap fun _ => (parts b.rows 2).flatMap fun rs => (parts b.ks b.y).flatMap fun ks => ks.flatMap fun k => rs.map (·, k)

/-- Operand B (R85): N block, chunk, Y-row block, reduction tile, column tile. (DEDUCED: log 16) -/
def Blocks.wsB (b : Blocks) (keep : List Nat → List Nat) : List (Nat × Nat) :=
  (parts b.cols b.x).flatMap fun cs => (parts b.rows 2).flatMap fun _ => (parts b.ks b.y).flatMap fun ks => ks.flatMap fun k =>
    (keep cs).map (k, ·)

/-- Operand B of a batched GEMV (R86): column group, reduction tile, column tile of the load. -/
def gemvB (ks cols width : Nat) : List (Nat × Nat) :=
  (parts cols width).flatMap fun cs => (List.range ks).flatMap fun k => cs.map (k, ·)

/-- Result tiles: N block, M block, row tile, column tile. (DESIGN CHOICE: log 66) -/
def Blocks.out (b : Blocks) (keep : List Nat → List Nat) : List (Nat × Nat) :=
  (parts b.cols b.x).flatMap fun cs => (parts b.rows b.y).flatMap fun rs => rs.flatMap fun r => (keep cs).map (r, ·)

/-! ## Elements of a tile, for Scale, the Sieve and Cooper -/

/-- The next `n` elements of the first tile of a stream, their scales by blocks of 32, and whether it carries poison; none where the
stream has brought no such tile. -/
def State.nextElems (s : State) (p seq fmt stream n : Nat) : Option (List Nat × List Nat × Bool) :=
  let c := s.streamRun p seq stream
  match c.given with
  | [] => none
  | b :: _ =>
    if 65536 < c.pos + n then none else
    some ((List.range n).map fun i => tileCode fmt b (c.pos + i),
      if isMx fmt then (List.range (ceilDiv n 32)).map fun k => tileScale fmt b ((c.pos + 32 * k) / 256) ((c.pos + 32 * k) % 256 / 32) else [],
      !b.poison.isEmpty)

/-- Elements are used; the tile goes with its last. -/
def State.useElems (s : State) (p seq stream n : Nat) : State :=
  s.updStream p seq stream fun c =>
    if c.pos + n < 65536 then { c with pos := c.pos + n } else { c with pos := 0, given := c.given.drop 1 }

/-- Elements are made; with its last the tile comes to the destination of the stream. -/
def State.giveElems (s : State) (p seq fmt : Nat) (n : Option Nat) (codes scales : List Nat) (bad : Bool) : State :=
  match n with
  | none => s
  | some n => s.updStream p seq n fun c =>
    let cs := c.codes ++ codes
    let ss := c.scales ++ scales
    let b := c.bad || bad
    if cs.length < 65536 then { c with codes := cs, scales := ss, bad := b }
    else { c.bring (s.toHands p seq n) [packTile fmt (cs.take 65536) (ss.take 2048) b] with
      codes := cs.drop 65536, scales := ss.drop 2048, bad := bad && 65536 < cs.length }

/-- FP32 values as a format's codes and scales (R36, R99, R101). -/
def laneCodes (fmt : Nat) (xs : List Lane) : List Nat × List Nat :=
  if isMx fmt then
    let bs := (chunks 32 xs.length (xs.map valOf)).map (mxWrite (fmtOf fmt))
    ((bs.map Prod.snd).flatten, bs.map Prod.fst)
  else if fmt = 6 then (xs.map fun x => (toBf16 x).toNat, [])
  else (xs.map BitVec.toNat, [])

/-! ## Records that an operation reads (R83, R90, R105, R116) -/

/-- What an engine finds where an operand of its manifest lies. -/
inductive Record where
  | wait
  /-- The bytes stand there, poisoned or not; bytes beyond local memory come with the command. -/
  | is (bad : Bool)
  | other
deriving DecidableEq, Repr

/-- Read a record through the polder's Land Register: `bytes` are what the command brings. (DESIGN CHOICE: log 66) -/
def State.readRecord (s : State) (eng : EngineRef) (p seq : Nat) (operand : Option Nat) (bytes : List Byte) : Record × State :=
  match operand with
  | none => (.is false, s)
  | some i =>
    let m := ((s.pol p).run seq).m
    let va := (m.operands.getD i (0, 0)).2
    match s.translate eng p va 0 m.tag with
    | (.ok _ dpa, s) =>
      if !s.localMem dpa then (.is false, s)
      else if s.peek (dpaOffset dpa) bytes.length ≠ bytes then (.other, s)
      else if s.peekPoison (dpaOffset dpa) bytes.length then
        (.is true, (s.endWalks eng).raiseOwn .poisonRead (engineSource eng) p (addrDetail va 2))
      else (.is false, s.endWalks eng)
    | (.denied, s) => (.is true, (s.endWalks eng).permission (engineSource eng) p va 2)
    | (.fenced, s) => (.is true, (s.endWalks eng).raiseOwn .fencedTarget (engineSource eng) p (addrDetail va 2))
    | (.aborted, s) => (.is true, s.endWalks eng)
    | (_, s) => (.wait, s)

end Sys2Proof.Machine
end

