-- ==== Sys2Proof/Machine/Mill.lean ====
section
/-! DEFINITION. The Mill (chapter 4): arrays and their modes, GEMM, batched GEMV, the attention pass, the Weir and the
ramp ladder. An operation is one command: its results and cycle count stand when it is taken, its tiles run until the
age that the count gives. -/

namespace Sys2Proof

open Fpu

/-- Operand B's reduction dimension and output columns, and its element (R83). -/
def Gemm.bK (g : Gemm) : Nat := if g.nk then g.b.cols else g.b.rows
def Gemm.n (g : Gemm) : Nat := if g.nk then g.b.rows else g.b.cols
def Gemm.bVal (g : Gemm) (k j : Nat) : Val := if g.nk then g.b.val j k else g.b.val k j
def Gemm.bCode (g : Gemm) (k j : Nat) : Nat := if g.nk then g.b.code j k else g.b.code k j

/-- R78: which formats meet. -/
def pairAllowed (a b : Nat) : Bool := (1 ≤ b && b ≤ 5 && 1 ≤ a && a ≤ 5) || (b = 6 && a = 6)

def Gemm.ok (g : Gemm) : Bool :=
  g.a.ok && g.b.ok && g.bK = g.a.cols && pairAllowed g.a.fmt g.b.fmt && (g.out = 6 || g.out = 7)

/-- The FP32 sum of one 32-element block (R79 steps 1 to 3, R102). (DEDUCED: log 15) -/
def Gemm.blockSum (g : Gemm) (i j b : Nat) : Lane :=
  let ks := (List.range 32).map fun k => 32 * b + k
  dot (ks.map (g.a.code i) ++ ks.map fun k => g.bCode k j) (ks.map fun k => mulV (g.a.val i k) (g.bVal k j))

/-- FP32 addition in ascending order, starting from the first (R79 step 4). (DEDUCED: log 15) -/
def seqSum : List Lane → Lane
  | [] => 0
  | x :: xs => xs.foldl fadd x

/-- One element of the product: the block sums of each span of `span` reduction rows are added in ascending order,
then the spans are. (DEDUCED: log 15) -/
def Gemm.elem (g : Gemm) (span i j : Nat) : Lane :=
  let sums := (List.range (ceilDiv g.a.cols 32)).map (g.blockSum i j)
  seqSum ((chunks (span / 32) sums.length sums).map seqSum)

/-- An FP32 value as a result's format holds it (R36). -/
def outCode (out : Nat) (x : Lane) : Nat := if out = 6 then (toBf16 x).toNat else x.toNat

/-- The output in row-major order, in FP32 or rounded to BF16 (R36, R79). (DEDUCED: log 15) -/
def Gemm.result (g : Gemm) (span : Nat) : List Nat :=
  ((List.range g.a.rows).map fun i => (List.range g.n).map fun j =>
    outCode g.out (g.elem span i j)).flatten

/-- The output as a matrix. -/
def Gemm.product (g : Gemm) (span : Nat) : Matrix := { fmt := g.out, rows := g.a.rows, cols := g.n, elems := g.result span }

def negInf : Lane := 0xFF800000

/-- g of R78. -/
def rateOf (fmtB : Nat) : Nat := if fmtB = 6 then 2 else 1
/-- 2 in the double-rate case. -/
def doubleOf (fmtB : Nat) : Nat := if fmtB = 5 then 2 else 1

end Sys2Proof

namespace Sys2Proof.Machine

open Sys2Proof Fpu

/-! ## Arrays (R80, R81) -/

/-- Arrays are numbered 0-15 SOLO tiles, 16-19 quadrants, 20 GANG, 21 PAIR. -/
def quadMask (q : Nat) : BitVec 16 := [0x0033, 0x00CC, 0x3300, 0xCC00].getD q 0
def quadOf (t : Nat) : Nat := t / 8 * 2 + t % 4 / 2

/-- The tiles of an array on its die. -/
def arrayTiles (i : Nat) : BitVec 16 := if i < 16 then 1 <<< i else if i < 20 then quadMask (i - 16) else 0xFFFF

/-- The dies of an array: in PAIR both dies of the Keel. -/
def arrayDies (d i : Nat) : List Nat := if i = 21 then [d, d + 1] else [d]

/-- Height and width (R80). -/
def arrayY (i : Nat) : Nat := if i < 16 then 256 else if i < 20 then 512 else 1024
def arrayX (i : Nat) : Nat := if i = 21 then 2048 else arrayY i

/-- The array's number as the schedule declares it. -/
def useArray (u : MillUse) : Nat :=
  match u.mode with
  | .solo => u.index
  | .quad => 16 + u.index
  | .gang => 20
  | .pair => 21

/-- The array is formed. (DEDUCED: log 49) -/
def State.formed (s : State) (d i : Nat) : Bool :=
  let c := s.mill d
  if i < 16 then !c.ganged && !c.quad.getLsbD (quadOf i)
  else if i < 20 then !c.ganged && c.quad.getLsbD (i - 16)
  else if i = 20 then c.ganged && !c.paired
  else i = 21 && d % 2 = 0 && c.paired && (s.mill (d + 1)).paired

/-- Every tile of a mask belongs to the polder (R81). -/
def State.ownsTiles (s : State) (p d : Nat) (mask : BitVec 16) : Bool :=
  (s.polRec p).tiles.getD d 0 &&& mask = mask

def highest (mask : BitVec 16) : Nat := (bitsOf 16 mask.toNat).foldl max 0

/-- The running manifest of a polder whose schedule uses a station of a die: kind 0 Mill, 1 Scale, 2 Sieve, 3 Cooper; none
while an edge of the station waits at the sluice (R341). -/
def State.stationRun (s : State) (p d kind : Nat) (f : Schedule → Bool) : Option (Nat × Schedule) :=
  if s.held (srcStation kind d) p then none else
  (s.pol p).running.findSome? fun e =>
    match s.schedule e.2.m.schedule with
    | some c => if !e.2.suspended && c.pol = p && c.stations.contains (4 * d + kind) && f c then some (e.1, c) else none
    | none => none

/-- Op codes of a schedule's Mill uses. -/
def useGemmOs : Nat := 0
def useGemmWs : Nat := 1
def useGemv : Nat := 2
def useAttention : Nat := 3
def useVerify : Nat := 4

/-- The use that the schedule declares for an operation on an array of the die, within its limits. -/
def useFor (c : Schedule) (op d fmtA fmtB m n k : Nat) (nk : Bool) (i : Nat) : Option MillUse :=
  c.mills.find? fun u =>
    u.op = op && u.die = d && useArray u = i && u.fmtA = fmtA && u.fmtB = fmtB && u.nk = nk && m ≤ u.m && n ≤ u.n && k ≤ u.k

/-- The schedule declares the operation on each of its arrays. -/
def fits (c : Schedule) (op d fmtA fmtB m n k : Nat) (nk : Bool) (arrays : List Nat) : Bool :=
  arrays.all fun i => (useFor c op d fmtA fmtB m n k nk i).isSome

/-- The tiles may start: the die is in service and not held (R364), no change of mode is in progress, and no operation
runs on them, but for one that this operation follows (R87). -/
def State.tilesFree (s : State) (d : Nat) (mask : BitVec 16) (follows : Bool) : Bool :=
  let c := s.mill d
  !c.fenced && !c.held && (bitsOf 16 mask.toNat).all fun t =>
    c.changeTo.get 0 t ≤ s.clock && (follows || !s.tileRuns d t) && !c.droopStop.getLsbD t

/-- R87's time: every tile has issued its last, no more than 256 cycles ago. (DEDUCED: log 16) -/
def State.followsNow (s : State) (d : Nat) (mask : BitVec 16) : Bool :=
  (bitsOf 16 mask.toNat).all fun t =>
    let l := (s.mill d).lastIssue.get 0 t
    l ≠ 0 && l - 1 ≤ s.clock && s.clock ≤ l - 1 + 256

/-! ## Cycles (R84 to R88, R95, R96) -/

/-- A term of c cycles at Weir level n, stretched where the level lies below the booked one (R95). (DEDUCED: log 16)
-/
def stretch (n booked c : Nat) : Nat := if n < booked then ceilDiv (c * 64) n else c

/-- The level booked for the operating point of the running phase (R367). -/
def State.bookedLevel (s : State) (p seq : Nat) : Nat :=
  let r := (s.pol p).run seq
  match s.schedule r.m.schedule with
  | some c =>
    let i := r.phase - 1
    stepCeiling (s.phasePoint (c.phases.getD i { worst := [] }) r.m.opp i)
  | none => 64

/-- The ladder term (R96) of a die's settings; of a PAIR array's, the lower die's. (DEDUCED: log 16) -/
def ladderTerm (c : MillSt) (tLast gyx : Nat) : Nat := 56 * c.ladder + c.stagger * tLast - gyx

/-- What an operation takes: `free` constants, `terms` that the Weir stretches; `entry` and `ladder` are absent where the
operation follows another (R87). -/
structure Timing where
  consts : Nat
  terms : List Nat
  ladder : Nat
  /-- Cycles from the last issue to the end. -/
  drain : Nat
  /-- Tile-cycles of issue on each tile. -/
  issues : Nat
deriving DecidableEq, Repr

/-- The cycle count at a Weir level. (DEDUCED: log 16) -/
def Timing.cycles (t : Timing) (follows : Bool) (n booked : Nat) : Nat :=
  (if follows then t.consts - 256 else t.consts) + (t.terms.map (stretch n booked)).sum
    + if follows then 0 else stretch n booked t.ladder

/-- R84. (DEDUCED: log 16) -/
def osTiming (c : MillSt) (i : Nat) (g : Gemm) : Timing :=
  let y := arrayY i
  let x := arrayX i
  let r := rateOf g.b.fmt
  let nb := ceilDiv g.a.rows y * ceilDiv g.n (x * doubleOf g.b.fmt)
  let kp := ceilDiv g.a.cols 32 * 32
  { consts := 512, terms := [nb * max (r * kp) y, r * (y + x), y, if i = 21 then 6 else 0]
    ladder := ladderTerm c (if i = 21 then 31 else highest (arrayTiles i)) (r * (y + x))
    drain := y + 256, issues := nb * r * kp }

/-- Rows of the chunks of at most 512 (R85). -/
def chunkRows (m : Nat) : List Nat := (List.range (ceilDiv m 512)).map fun i => min 512 (m - 512 * i)

/-- R85. (DEDUCED: log 16) -/
def wsTiming (c : MillSt) (i : Nat) (g : Gemm) : Timing :=
  let y := arrayY i
  let x := arrayX i
  let r := rateOf g.b.fmt
  let nw := ceilDiv g.a.cols y * ceilDiv g.n (x * doubleOf g.b.fmt)
  { consts := 512
    terms := [64 * r, nw * ((chunkRows g.a.rows).map fun m => max (64 * r) (r * m)).sum, r * (y + x), if i = 21 then 6 else 0]
    ladder := ladderTerm c (if i = 21 then 31 else highest (arrayTiles i)) (r * (y + x))
    drain := 256, issues := nw * r * g.a.rows }

/-- Loads of a batched GEMV (R86). -/
def gemvLoads (fmtB k n : Nat) : Nat := ceilDiv k 256 * ceilDiv n (256 * doubleOf fmtB)

/-- The tiles of a region that loads or units reach when they are dealt round-robin from the lowest (R86, R88).
(DEDUCED: log 16) -/
def dealt (tiles : BitVec 16) (n : Nat) : BitVec 16 :=
  ((bitsOf 16 tiles.toNat).take n).foldl (fun m t => m ||| ((1 : BitVec 16) <<< t)) 0

/-- R86; `issues` are those of all loads, each on one tile. (DEDUCED: log 16) -/
def gemvTiming (c : MillSt) (tiles : BitVec 16) (fmtB b k n : Nat) : Timing :=
  let r := rateOf fmtB
  let l := gemvLoads fmtB k n
  { consts := 528, terms := [ceilDiv l (popCount 16 tiles.toNat) * max (64 * r) (r * b)]
    ladder := ladderTerm c (highest (dealt tiles l)) (r * 512), drain := 272, issues := l * r * b }

/-! ## Running an operation -/

/-- A tile that issues after 256 or more cycles without issue enters the ladder (R96). -/
def enterLadder (now first : Nat) (c : MillSt) (t : Nat) : MillSt :=
  let l := c.lastIssue.get 0 t
  if l = 0 || l - 1 + 256 ≤ now then c.climb now first t else c

/-- The operation runs on tiles of a die: ladders, last issue, the end of the run, tile-cycles of issue. (DEDUCED: log
16) -/
def State.occupy (s : State) (d first : Nat) (mask : BitVec 16) (cycles drain issues : Nat) : State :=
  let s := s.updMill d fun c =>
    { (bitsOf 16 mask.toNat).foldl (enterLadder s.clock first) c with issued := c.issued + BitVec.ofNat 64 issues }
  s.markTiles d mask (s.clock + cycles) (s.clock + cycles - drain + 1)

/-- An operation begins on an array: what it takes at the Weir's level, the cycles that this adds, its record. Its
tiles run on every die, `issues` tile-cycles on each. (DEDUCED: log 16) -/
def State.begin_ (s : State) (d i p seq : Nat) (tiles : BitVec 16) (follows : Bool) (t : Timing) : Nat × State :=
  let dies := if i = 21 then [d, d + 1] else [d]
  let booked := s.bookedLevel p seq
  let n := s.weirOf dies
  let cycles := t.cycles follows n booked
  let s := s.chargeWeir p seq (cycles - t.cycles follows 64 booked)
  let s := dies.zipIdx.foldl (fun s e => s.occupy e.1 (16 * e.2) tiles cycles t.drain t.issues) s
  let entry := if follows then 0 else 256
  let fin := t.consts - 256
  let op : MillOp := {
    pol := p, seq := seq, tiles := tiles, array := i, from_ := s.clock + entry, work := (cycles - entry - fin) * effOf n booked
    eff := effOf n booked, fin := fin, drain := t.drain, booked := booked, tLast := if i = 21 then 31 else highest tiles }
  (cycles, s.updMill d fun c => { c with ops := (c.ops.filter fun o => s.clock < o.ends || o.held.isSome) ++ [op] })

/-- The results of an array of a die, their poison and cycles. -/
def State.millResults (s : State) (d i cycles : Nat) (out : List Nat) (poison : Bool) : State :=
  s.updMill d fun c => { c with
    cycles := c.cycles.set 0 i cycles, results := c.results.set [] i out, resultPoison := c.resultPoison.set false i poison }

/-- The blocks of a product on an array, in tiles. -/
def gemmBlocks (i : Nat) (g : Gemm) : Blocks :=
  { rows := ceilDiv g.a.rows 256, ks := ceilDiv g.a.cols 256, cols := ceilDiv g.n 256
    y := arrayY i / 256, x := arrayX i * doubleOf g.b.fmt / 256 }

/-- The column tiles of a block that a die computes: in PAIR the lower die the first half of the array's width, the upper die the
rest (R80). -/
def dieCols (i x : Nat) (upper : Bool) (cs : List Nat) : List Nat :=
  if i ≠ 21 then (if upper then [] else cs) else if upper then cs.drop (x / 2) else cs.take (x / 2)

/-- The tile of operand B at a reduction tile and a column tile, in its orientation (R83). -/
def bTile (g : Gemm) (e : Nat × Nat) : Matrix × Nat × Nat := if g.nk then (g.b, e.2, e.1) else (g.b, e.1, e.2)

/-- The tiles that a GEMM takes from the streams of its use. -/
def gemmDemands (u : MillUse) (op i : Nat) (g : Gemm) : List Demand :=
  let b := gemmBlocks i g
  let orderA := if op = useGemmOs then b.osA else b.wsA
  let orderB := fun upper => if op = useGemmOs then b.osB (dieCols i b.x upper) else b.wsB (dieCols i b.x upper)
  (u.a.toList.map fun n => ⟨n, orderA.map fun e => (g.a, e.1, e.2)⟩)
    ++ (u.b.toList.map fun n => ⟨n, (orderB false).map (bTile g)⟩) ++ (u.b2.toList.map fun n => ⟨n, (orderB true).map (bTile g)⟩)

/-- The columns of a result that one die of a PAIR array computes (R80). -/
def pairColumns (g : Gemm) (upper : Bool) (out : List Nat) : List Nat :=
  let x := 2048 * doubleOf g.b.fmt
  ((List.range out.length).filter fun e => (x / 2 ≤ e % g.n % x : Bool) = upper).map fun e => out.getD e 0

/-- A GEMM on array i of die d, its additions grouped by `span`. -/
def State.gemm (s : State) (d i op span : Nat) (tm : MillSt → Nat → Gemm → Timing) (g : Gemm) : State :=
  let dies := arrayDies d i
  let mask := arrayTiles i
  let use := fun (c : Schedule) => useFor c op d g.a.fmt g.b.fmt g.a.rows g.n g.a.cols g.nk i
  match s.stationRun g.pol d 0 fun c => (use c).isSome with
  | none => s
  | some (seq, c) =>
    let u := (use c).getD { mode := .solo, die := d }
    let ds := gemmDemands u op i g
    let follows := g.follows && dies.all fun e => s.followsNow e mask
    if !g.ok || !s.formed d i || !(dies.all fun e => s.ownsTiles g.pol e mask && s.tilesFree e mask follows)
        || !s.fed g.pol seq ds [u.out, u.out2] g.poison then s else
    let t := tm (s.mill d) i g
    let (cycles, s) := s.begin_ d i g.pol seq mask follows { t with issues := t.issues * popCount 16 mask.toNat }
    let out := g.result span
    let s := s.useTiles g.pol seq ds
    let tiles := fun upper => ((gemmBlocks i g).out (dieCols i (gemmBlocks i g).x upper)).map fun e =>
      tileOf (g.product span) e.1 e.2 g.poison
    let s := (s.giveTiles g.pol seq u.out (tiles false)).giveTiles g.pol seq u.out2 (tiles true)
    if i ≠ 21 then s.millResults d i cycles out g.poison
    else (s.millResults d i cycles (pairColumns g false out) g.poison).millResults (d + 1) i cycles (pairColumns g true out) g.poison

/-- GEMM_OUTPUT_STATIONARY (R84). -/
def execGemmOutputStationary (d : Die) (index : Nat) (g : Gemm) (s : State) : Out :=
  .next (s.gemm d.val index useGemmOs (32 * (g.a.cols / 32 + 1)) osTiming g)

/-- GEMM_WEIGHT_STATIONARY (R85): sums are made within each Y-row block, then across blocks in the edge buffer. -/
def execGemmWeightStationary (d : Die) (index : Nat) (g : Gemm) (s : State) : Out :=
  .next (s.gemm d.val index useGemmWs (arrayY index) wsTiming g)

/-- The results of operations of a region of SOLO tiles are numbered 22. -/
def regionArray : Nat := 22

/-- The tiles of a region are SOLO arrays, owned and free. -/
def State.regionReady (s : State) (p d : Nat) (tiles : BitVec 16) (follows : Bool) : Bool :=
  tiles ≠ 0 && (bitsOf 16 tiles.toNat).all (s.formed d) && s.ownsTiles p d tiles && s.tilesFree d tiles follows

/-- The tiles that a batched GEMV takes: its vectors once, and B load by load (R86), from column tile `first` on. -/
def gemvDemands (u : MillUse) (g : Gemm) (first cols : Nat) : List Demand :=
  let ks := ceilDiv g.a.cols 256
  (u.a.toList.map fun n => ⟨n, (List.range ks).map fun k => (g.a, 0, k)⟩)
    ++ (u.b.toList.map fun n => ⟨n, (gemvB ks cols (doubleOf g.b.fmt)).map fun e => (bTile g) (e.1, first + e.2)⟩)

/-- BATCHED_GEMV (R86): each load of 256 rows is summed in its tile, and the collector adds the loads in ascending order. -/
def execBatchedGemv (d : Die) (tiles : BitVec 16) (g : Gemm) (s : State) : Out :=
  .next <|
    let arrays := bitsOf 16 tiles.toNat
    match s.stationRun g.pol d.val 0 fun c => fits c useGemv d.val g.a.fmt g.b.fmt g.a.rows g.n g.a.cols g.nk arrays with
    | none => s
    | some (seq, c) =>
      let u := (useFor c useGemv d.val g.a.fmt g.b.fmt g.a.rows g.n g.a.cols g.nk (arrays.headD 0)).getD { mode := .solo, die := d.val }
      let ds := gemvDemands u g 0 (ceilDiv g.n 256)
      let used := dealt tiles (gemvLoads g.b.fmt g.a.cols g.n)
      let follows := g.follows && s.followsNow d.val used
      if !g.ok || 64 < g.a.rows || 16384 < g.a.cols || !s.regionReady g.pol d.val tiles follows || !s.fed g.pol seq ds [u.out] g.poison then s else
      let t := gemvTiming (s.mill d.val) tiles g.b.fmt g.a.rows g.a.cols g.n
      let (cycles, s) := s.begin_ d.val regionArray g.pol seq used follows t
      let s := (s.useTiles g.pol seq ds).giveTiles g.pol seq u.out
        ((List.range (ceilDiv g.n 256)).map fun j => tileOf (g.product 256) 0 j g.poison)
      s.millResults d.val regionArray cycles (g.result 256) g.poison

/-! ## Softmax as Scale computes it (R88, R89, R115) -/

def dyOf (x : Lane) : Dy :=
  match valOf x with
  | .fin n m e => Dy.ofFin n m e
  | _ => ⟨0, 0⟩

/-- A sum of FP32 values in some order: the implementation's value where it keeps the bound of R103, else the one of
the ascending order. (DESIGN CHOICE: log 14) -/
def anySum (xs : List Lane) : Lane :=
  let fixed := seqSum xs
  if xs.length ≤ 1 || xs.any (fun x => fnan x || (valOf x).isInf) || (valOf fixed).isInf then fixed else
  let c := Config.scaleSum xs
  if fnan c || (valOf c).isInf then fixed else
  let n := xs.length - 1
  let exact := xs.foldl (fun acc x => acc.add (dyOf x)) (⟨0, 0⟩ : Dy)
  let mag := xs.foldl (fun acc x => acc.add (dyOf (fabs x))) (⟨0, 0⟩ : Dy)
  let err := (dyOf c).add ⟨-exact.m, exact.e⟩
  if Dy.le (Dy.mul ⟨err.m.natAbs, err.e⟩ ⟨2 ^ 24 - n, 0⟩) (Dy.mul mag ⟨n, 0⟩) then c else fixed

/-- Values as MXFP8 E4M3 stores them, in blocks of 32, and dequantises them (R98, R99). -/
def quantE4m3 (xs : List Lane) : List Val :=
  ((chunks 32 xs.length xs).map fun b =>
    let (sc, codes) := mxWrite (fmtOf 1) (b.map valOf)
    codes.map (mxRead (fmtOf 1) sc)).flatten

/-- The largest of some values; -infinity of none. -/
def maxOf (xs : List Lane) : Lane := xs.foldl fmax negInf

/-! ## The fused attention pass -/

/-- The running maximum, sum and output of a query row. -/
structure AttRow where
  m : Lane := negInf
  l : Lane := 0
  o : List Lane
deriving DecidableEq, Repr

/-- MASK of the record; a reserved value is taken as 1 (R88). -/
def attMask (rec : List Byte) : Nat := let m := leAt rec 24 1; if m < 3 then m else 1

/-- A key that a query row sees. -/
def attSees (rec : List Byte) (row key : Nat) : Bool :=
  let mode := attMask rec
  mode = 0 || key ≤ leAt rec 0 8 + row || (mode = 2 && key < leAt rec 16 8)

/-- One key block for one query row: scores, the new maximum, the probabilities in E4M3, the running sum and output.
(DEDUCED: log 15) -/
def attStep (h : AttHead) (rec : List Byte) (scale : Lane) (keys row blk : Nat) (a : AttRow) : AttRow :=
  let js := (List.range 256).map (256 * blk + ·)
  let sees := fun (j : Nat) => j < keys && attSees rec row j
  let g : Gemm := { pol := 0, a := h.q, b := h.k, nk := true }
  let score := fun (j : Nat) => fmul (g.elem (32 * (h.q.cols / 32 + 1)) row j) scale
  let seen := js.filter sees
  if seen.isEmpty then a else
  let m := fmax a.m (maxOf (seen.map score))
  let ps := quantE4m3 (js.map fun j => if sees j then exp (fsub (score j) m) else 0)
  let r := exp (fsub a.m m)
  let sum := anySum (ps.map fun v => toF32 [] v)
  let pv := fun (c : Nat) => seqSum ((List.range 8).map fun b =>
    let ks := (List.range 32).map (32 * b + ·)
    dot (ks.map fun k => h.v.code (256 * blk + k) c) (ks.map fun k => mulV (ps.getD k (.fin false 0 0)) (h.v.val (256 * blk + k) c)))
  { m := m, l := fadd (fmul a.l r) sum, o := a.o.zipIdx.map fun e => fadd (fmul e.1 r) (pv e.2) }

/-- The output row: key blocks in ascending order, then the division by the final sum; zeros where every key is hidden
(R89). (DEDUCED: log 15) -/
def attRow (h : AttHead) (rec : List Byte) (scale : Lane) (keys row : Nat) : List Lane :=
  let a := (List.range (ceilDiv keys 256)).foldl (fun a b => attStep h rec scale keys row b a)
    ({ o := List.replicate h.v.cols 0 } : AttRow)
  if (List.range keys).any (attSees rec row) then a.o.map fun x => fmul x (recip a.l) else a.o.map fun _ => 0

/-- Units of a head that the mask leaves (R88). -/
def attUnits (h : AttHead) (rec : List Byte) (keys : Nat) : Nat :=
  ((List.range (ceilDiv h.q.rows 512)).map fun c => ((List.range (ceilDiv keys 256)).filter fun b =>
    (List.range (min 512 (h.q.rows - 512 * c))).any fun i =>
      (List.range (min 256 (keys - 256 * b))).any fun j => attSees rec (512 * c + i) (256 * b + j)).length).sum

/-- The operands of a head fit together (R83): the same formats, rows of d. -/
def attHeadOk (h : AttHead) (d : Nat) : Bool :=
  h.q.ok && h.k.ok && h.v.ok && h.q.cols = d && h.k.cols = d && h.v.cols = d && pairAllowed h.q.fmt h.k.fmt
    && pairAllowed 1 h.v.fmt

/-- The tiles that a pass takes: queries head by head; keys and values head by head, chunk by chunk, block by block.
(DESIGN CHOICE: log 66) -/
def attDemands (u : MillUse) (hs : List AttHead) : List Demand :=
  let blocks := fun (f : AttHead → Matrix) => hs.flatMap fun h => (List.range (ceilDiv h.q.rows 512)).flatMap fun _ =>
    (List.range (ceilDiv u.n 256)).map fun b => (f h, b, 0)
  (u.a.toList.map fun n => ⟨n, hs.flatMap fun h => (List.range (ceilDiv h.q.rows 256)).map fun r => (h.q, r, 0)⟩)
    ++ (u.b.toList.map fun n => ⟨n, blocks AttHead.k⟩) ++ (u.v.toList.map fun n => ⟨n, blocks AttHead.v⟩)

/-- The use that the schedule declares for a pass over heads like one. -/
def attUse (c : Schedule) (d : Nat) (h : AttHead) (heads : Nat) : Option MillUse :=
  c.mills.find? fun u => u.op = useAttention && u.die = d && u.fmtA = h.q.fmt && u.fmtB = h.k.fmt && u.fmtV = h.v.fmt
    && h.q.rows ≤ u.m && h.q.cols ≤ u.k && heads ≤ u.heads

/-- The output of a head in FP32, row by row. -/
def attRows (h : AttHead) (rec : List Byte) (scale : Lane) (keys : Nat) : List Lane :=
  ((List.range h.q.rows).map fun i => attRow h rec scale keys i).flatten

/-- R88, of `u` units. (DEDUCED: log 16) -/
def attTiming (c : MillSt) (tiles used : BitVec 16) (fmtB dim rows u : Nat) : Timing :=
  let r := rateOf fmtB
  let m := min 512 rows
  { consts := 656, terms := [ceilDiv u (popCount 16 tiles.toNat) * r * (max (ceilDiv dim 4) m + max 64 m)]
    ladder := ladderTerm c (highest used) (r * 512), drain := 400, issues := u * r * 2 * m }

/-- The tiles of a pass's output, head by head. (DESIGN CHOICE: log 66) -/
def attTiles (g : Attention) (keys : Nat) : List TileBuf :=
  g.heads.flatMap fun h => (List.range (ceilDiv h.q.rows 256)).map fun i =>
    tileOf { fmt := g.out, rows := h.q.rows, cols := h.q.cols, elems := (attRows h g.record g.scale keys).map (outCode g.out) } i 0 g.poison

/-- FUSED_ATTENTION_PASS (R88, R89): min(NKEYS, the compiled key count) keys. -/
def execFusedAttentionPass (d : Die) (g : Attention) (s : State) : Out :=
  .next <|
    match g.heads with
    | [] => s
    | h0 :: _ =>
      let dim := h0.q.cols
      let rows := h0.q.rows
      match s.stationRun g.pol d.val 0 fun c => (attUse c d.val h0 g.heads.length).isSome with
      | none => s
      | some (seq, c) =>
        let mu := (attUse c d.val h0 g.heads.length).getD { mode := .solo, die := d.val }
        let keys := min (leAt g.record 8 8) mu.n
        let u := (g.heads.map fun h => attUnits h g.record keys).sum
        let used := dealt g.tiles u
        let ds := attDemands mu g.heads
        let follows := g.follows && s.followsNow d.val used
        if g.record.length ≠ 32 || 256 < dim || 256 < g.heads.length || (mu.scale.any fun x => x ≠ g.scale)
          || !(g.heads.all fun h => attHeadOk h dim && h.q.rows = rows && h.v.fmt = h0.v.fmt) || !(g.out = 6 || g.out = 7)
          || !s.regionReady g.pol d.val g.tiles follows || !s.fed g.pol seq ds [mu.out] g.poison then s else
        match s.readRecord (.station 1 d.val g.pol seq) g.pol seq mu.record g.record with
        | (.wait, s) => s
        | (.other, _) => s
        | (.is bad, s') =>
          if bad && !g.poison then s else
          let s := s'
          let t := attTiming (s.mill d.val) g.tiles used h0.k.fmt dim rows u
          let (cycles, s) := s.begin_ d.val regionArray g.pol seq used follows t
          let s := (s.useTiles g.pol seq ds).giveTiles g.pol seq mu.out (attTiles g keys)
          s.millResults d.val regionArray cycles (g.heads.flatMap fun h => (attRows h g.record g.scale keys).map (outCode g.out)) g.poison

/-! ## Modes, Weir and ladder -/

/-- The tiles that a change of mode concerns: SOLO a quadrant 0-3, or 4 the whole die; QUAD a quadrant. (DEDUCED: log
49) -/
def changeTiles (mode : MillMode) (i : Nat) : BitVec 16 :=
  match mode with
  | .solo => if i < 4 then quadMask i else 0xFFFF
  | .quad => quadMask i
  | .gang => 0xFFFF
  | .pair => 0xFFFF

/-- The mode bits of a die after a change. (DEDUCED: log 49) -/
def MillSt.setMode (c : MillSt) (mode : MillMode) (i : Nat) : MillSt :=
  match mode with
  | .solo => { c with ganged := false, paired := false, quad := if i < 4 then c.quad &&& ~~~((1 : BitVec 4) <<< i) else 0 }
  | .quad => { c with ganged := false, paired := false, quad := c.quad ||| ((1 : BitVec 4) <<< i) }
  | .gang => { c with ganged := true, paired := false, quad := 0 }
  | .pair => { c with ganged := true, paired := true, quad := 0 }

/-- MILL_MODE_CHANGE (R82): between operations, over 64 cycles; all tiles of an array that is formed belong to one
polder (R81). A die that leaves PAIR takes its partner with it, which then forms GANG. (DEDUCED: log 49) -/
def execMillModeChange (d : Die) (mode : MillMode) (index : Nat) (s : State) : Out :=
  .next <|
    let pairs := mode = .pair
    let was := (s.mill d.val).paired
    let mask := if (s.mill d.val).ganged then 0xFFFF else changeTiles mode index
    let partner := d.val / 2 * 2 + (1 - d.val % 2)
    let dies := if pairs || was then [d.val, partner] else [d.val]
    let owned := mode = .solo || (List.range 64).any fun p =>
      (if pairs then [d.val, partner] else [d.val]).all fun e => s.ownsTiles p e (changeTiles mode index)
    let free := dies.all fun e => (bitsOf 16 (if e = d.val then mask else 0xFFFF : BitVec 16).toNat).all fun t =>
      !s.tileRuns e t && (s.mill e).changeTo.get 0 t ≤ s.clock
    if !owned || !free || (mode = .quad && 4 ≤ index) || dies.any (fun e => (s.mill e).fenced) then s else
    dies.foldl (fun s e => s.updMill e fun c =>
      let c := if e = d.val || pairs then c.setMode mode index else c.setMode .gang 0
      let moved := bitsOf 16 (if e = d.val then mask else 0xFFFF : BitVec 16).toNat
      { c with changeTo := moved.foldl (fun m t => m.set 0 t (s.clock + 64)) c.changeTo }) s

/-- WEIR_LEVEL_CHANGE (R95): at a boundary of the 64-cycle windows the new level takes effect, for the operations in progress
too. -/
def execWeirLevelChange (d : Die) (s : State) : Out :=
  .next <|
    if s.clock % 64 ≠ 0 then s else
    ((s.updMill d.val fun c => { c with weir := c.weirNext }).retime d.val).watchSteps

/-- LADDER_RUNG (R96): after LADDER / 8 cycles on a rung the tile takes the next; after the eighth it leaves the ladder. -/
def execLadderRung (d : Die) (tile : Fin 16) (s : State) : Out :=
  .next <|
    let c := s.mill d.val
    let r := c.rung.get 0 tile.val
    if r = 0 || s.clock < c.ladderAt.get 0 tile.val + r * (16 * c.ladder) then s else
    s.updMill d.val fun c => { c with rung := c.rung.set 0 tile.val (if r < 8 then r + 1 else 0) }

/-- The issue limit of a tile in 64ths: the lower of its rung's and the Weir's (R96). -/
def MillSt.limit (c : MillSt) (t : Nat) : Nat :=
  let r := c.rung.get 0 t
  if r = 0 then c.weir else min c.weir (8 * r)

/-- The issue limit of an array: that of its most restricted tile (R95, R96). -/
def State.arrayLimit (s : State) (d i : Nat) : Nat :=
  (arrayDies d i).foldl (fun n e => (bitsOf 16 (arrayTiles i).toNat).foldl (fun n t => min n ((s.mill e).limit t)) n) 64

end Sys2Proof.Machine
end

