-- ==== Sys2Proof/Machine/Power.lean ====
section
/-! DEFINITION. Power and heat (chapter 17): the input, the module cap, the controller of the common limit, thermal
ceilings, operating-point steps and droop. Volts are in units of 0.1 V, amps of 0.1 A. -/

namespace Sys2Proof.Machine

open Sys2Proof

/-! ## The cap (R362, R363, R271, R304) -/

/-- The base cap: the lower of the LIMITs that are not 0, within 1,500-4,800 W. -/
def State.baseCap (s : State) : Nat :=
  let a := (s.port 0).capLimit
  let b := (s.port 1).capLimit
  let low := if a = 0 then b else if b = 0 then a else min a b
  if s.pwr.dflt then 600 else if low = 0 then 4800 else max 1500 (min 4800 low)

/-- The range that R271 leaves a cap shifted by the commons: 85 % to 115 % of the base, and 1,500-4,800 W. -/
def capLow (base : Nat) : Nat := max 1500 (ceilDiv (85 * base) 100)
def capHigh (base : Nat) : Nat := min 4800 (115 * base / 100)

/-- The cap in force: the commons shift, then the input rule of R362. -/
def State.capNow (s : State) : Nat :=
  let base := s.baseCap
  let c := if s.pwr.dflt || s.commons.shift = 0 then base else
    max (capLow base) (min (capHigh base) ((base : Int) + s.commons.shift).toNat)
  if s.pwr.volts < 440 then min c (109 * s.pwr.volts / 10) else c

/-- The total of the power shares (R303). -/
def State.sharesTotal (s : State) : Nat := (s.charter.pols.map PolRec.share).sum

/-- SEAL_LAPSED (R304): in sealed mode, as the cap falls below the total of the shares and as it returns. -/
def State.checkSeal (s : State) : State :=
  let low := s.sealed && s.pwr.inForce < s.sharesTotal
  if low = s.pwr.belowShares then s else
  ({ s with pwr := { s.pwr with belowShares := low, lapsed := true } }).raiseBoth .sealLapsed srcPower (leBytes 1 (b2n !low))

/-- The cap in force is formed again; a change raises CAP_CHANGED, and a lower cap is met at once (R363). -/
def State.recap (s : State) : State :=
  let c := s.capNow
  let s := if c = s.pwr.inForce then s else
    ({ s with pwr := { s.pwr with inForce := c, forced := s.pwr.forced || c < s.pwr.inForce } }).raiseBoth .capChanged
      srcPower (leBytes 2 c)
  s.checkSeal

def offPwrCap : Nat := 0x80000

/-- PWR_CAP of a port (R363, R405); the first LIMIT that is not 0 ends DEFAULT, and HELD with it (R364). -/
def State.pwrCapWrite (s : State) (port : Nat) (a : RegAcc) : State :=
  let q := s.port port
  if q.capLock then s else
  let limit := a.fld 0 13 q.capLimit
  let s := s.updPort port fun q => { q with capLimit := limit, capLock := a.bit 16 }
  let s := if limit ≠ 0 && s.pwr.dflt && a.hits 0 then
      { s with
        pwr := { s.pwr with dflt := false }
        pols := s.pols.mapAll {} fun _ q => { q with running := q.running.map fun e => (e.1, s.chargeHeld e.2) }
        mills := (List.range 8).foldl (fun m d => m.upd {} d fun c => { c with held := false }) s.mills }
    else s
  s.recap.reweir

/-- CAP_LIMIT_WRITE (R363). -/
def execCapLimitWrite (a : RegAcc) (s : State) : Out :=
  .next <|
    match s.pfWrites a offPwrCap with
    | some port => s.pwrCapWrite port a
    | none => s

/-- PWR_CAP_LOCK (R405): a write that sets LOCK. -/
def execPwrCapLock (a : RegAcc) (s : State) : Out :=
  .next <|
    match s.pfWrites a offPwrCap with
    | some port => if a.bit 16 then s.pwrCapWrite port a else s
    | none => s

/-! ## The input (R362, R399) -/

/-- The input voltage changes: the cap, and the time in range. -/
def State.setVolts (s : State) (volts : Nat) : State :=
  let inside := 440 ≤ volts && volts ≤ 560
  let since := sinceWhen inside s.clock s.pwr.inSince
  let armed := match since with
    | some a => s.passed a 1000000
    | none => false
  let s := { s with pwr := { s.pwr with
    volts := volts, inSince := since, rangeRaised := s.pwr.rangeRaised && !armed } }
  if s.boot.powered then s.recap.latchStatus else s

/-- INPUT_RANGE (R362): the input has been outside 44-56 V for 10 us; raised once until it has been back for 1 ms.
(DEDUCED: log 54) -/
def execInputRange (volts : Nat) (s : State) : Out :=
  .next <|
    -- the time in range ends before the new reading
    let s := s.setVolts s.pwr.volts
    let s := s.setVolts volts
    if !s.boot.powered || (440 ≤ volts && volts ≤ 560) || s.pwr.rangeRaised then s else
    ({ s with pwr := { s.pwr with rangeRaised := true, inputSeen := true } }).raiseBoth .inputRange srcPower (leBytes 2 volts)

/-- INPUT_POWER_LOSS (R362): below 40 V for 100 us, or above 60 V, the converters stop, as at a loss of power. The
damage of R399 past 70 V is outside the model. -/
def execInputPowerLoss (volts : Nat) (s : State) : Out :=
  .next <| if 400 ≤ volts && volts ≤ 600 then s else
    let s := { s with pwr := { s.pwr with volts := volts } }
    if s.boot.powered then s.powerOff else s

/-! ## The common limit (R370) -/

/-- Mill rail of a step in units of 0.01 V (R366). -/
def stepVolts (ms : Nat) : Nat := [80, 77, 74, 71, 68, 65, 62, 60].getD ms 80

/-- Mill-rail draw of a die at a step and level, in mW: 280 W x level / 64 x (V / 0.80)^2 + 40 W x V / 0.80. (DEDUCED:
log 54) -/
def millDraw (ms level : Nat) : Nat :=
  let v := stepVolts ms
  280000 * level * v * v / (64 * 6400) + 40000 * v / 80

/-- The draw that the per-level table gives at a common limit, in mW, every other consumer as measured. (DEDUCED: log
54) -/
def State.drawAt (s : State) (others l : Nat) : Nat :=
  others + ((List.range 8).map fun d =>
    millDraw (s.diePower d).step (max 1 (min (min (stepCeiling (s.diePower d).step) l) (min (s.thermalCeiling d) (s.sealCeiling d))))).sum

/-- Lower L: the highest level below it that the table brings to the cap or below; 1 where none does. -/
def State.lowerL (s : State) (others : Nat) : State :=
  let fit := (List.range s.pwr.common).reverse.find? fun l => l ≠ 0 && s.drawAt others l ≤ 1000 * s.pwr.inForce
  ({ s with pwr := { s.pwr with common := fit.getD 1, forced := true } }).reweir

def State.raiseL (s : State) : State :=
  ({ s with pwr := { s.pwr with common := min 64 (s.pwr.common + 4), raisedAt := some s.clock } }).reweir

/-- POWER_SAMPLE (R361, R370): the input's volts and amps, and the Mill-rail draw of each die in mW. (DEDUCED: log 54)
-/
def execPowerSample (volts amps : Nat) (mills : List Nat) (s : State) : Out :=
  .next <|
    if !s.boot.powered then s else
    let s := s.setVolts volts
    let w := volts * amps / 100
    let cap := s.pwr.inForce
    let above := cap < w
    let low := 100 * w ≤ 95 * cap
    let s := { s with pwr := { s.pwr with
      amps := amps, watts := w, aboveCap := above
      aboveSince := sinceWhen above s.clock s.pwr.aboveSince
      below95Since := sinceWhen low s.clock s.pwr.below95Since
      raisedAt := if low then s.pwr.raisedAt else none, forced := s.pwr.forced && above } }
    let s := s.latchStatus
    let over800 := match s.pwr.aboveSince with
      | some a => s.passed a 800000
      | none => false
    let mayLower := !s.sealed || cap < s.sharesTotal
    if above && mayLower && 1 < s.pwr.common && (s.pwr.forced || 5 * cap < 4 * w || 6000 < w || over800) then
      s.lowerL (1000 * w - mills.sum)
    else
      let due := match s.pwr.raisedAt, s.pwr.below95Since with
        | some a, _ => s.passed a 16000
        | none, some a => s.passed a 64000
        | none, none => false
      if low && due && s.pwr.common < 64 then s.raiseL else s

/-! ## Heat (R375 to R377) -/

/-- The reading at which a logic die's condition begins, and at which it is released: index as in GH_DIE_i. (DEDUCED:
log 53) -/
def hotAt (i : Nat) : Nat := if i < 5 then 105 else 100
/-- DEDUCED: log 53. -/
def coolAt (i : Nat) : Nat := if i < 5 then 100 else 95

/-- A thermal ceiling falls by 8 levels, to a floor of 8; the Weir lowers the die. (DEDUCED: log 53) -/
def State.ceilFalls (s : State) (i : Nat) : State :=
  (s.updHeat i fun h => { h with ceil := max 8 (h.ceil - 8), stepAt := s.clock }).reweir

/-- A condition of R376 begins: the first fall, and DIE_HOT, which a condition that stays true raises once (R340).
(DEDUCED: log 53) -/
def State.heatBegins (s : State) (i : Nat) : State :=
  let s := s.ceilFalls i
  s.raiseBoth .dieHot srcPower (leBytes 1 i ++ leBytes 1 (s.heat i).ceil)

/-- 120 °C on a logic die: THERMTRIP_N falls and every converter stops (R377, R386). -/
def State.trip (s : State) : State :=
  let t := s.powerOff
  { t with boot := { t.boot with tripLow := true, tripAt := s.clock } }

/-- DIE_TEMP_READ (R375 to R377): the highest reading of die i, numbered as in GH_DIE_i, in °C. -/
def execDieTempRead (i : Fin 13) (c : Nat) (s : State) : Out :=
  .next <|
    if !s.boot.stage0 then s
    else if 120 ≤ c then s.trip
    else
      let was := (s.heat i.val).hot
      let hot := hotAt i.val ≤ c
      let s := s.updHeat i.val fun h => { h with
        temp := c, peak := max h.peak c, hot := hot, cool := c ≤ coolAt i.val }
      if hot && !was then s.heatBegins i.val else s

/-- THERMAL_CEILING_STEP (R376): 100 us after the last step the ceiling falls while the condition holds, or rises once
every sensor has released. (DEDUCED: log 53) -/
def execThermalCeilingStep (i : Fin 13) (s : State) : Out :=
  .next <|
    let h := s.heat i.val
    if !s.boot.stage0 || !s.passed h.stepAt 100000 then s
    else if h.hot && 8 < h.ceil then s.ceilFalls i.val
    else if !h.hot && h.cool && h.ceil < 64 then
      (s.updHeat i.val fun h => { h with ceil := min 64 (h.ceil + 8), stepAt := s.clock }).reweir
    else s

/-! ## Steps (R368, R372, R373) -/

/-- A condition has held for 1 ms. -/
def State.heldMs (s : State) (since : Option Nat) : Bool :=
  match since with
  | some a => s.passed a 1000000
  | none => false

/-- A die's steps may change: not under DEFAULT (R364), not in sealed mode (R374), no change in progress. -/
def State.stepsFree (s : State) (d : Nat) : Bool :=
  s.boot.powered && !s.pwr.dflt && !s.sealed && (s.diePower d).changing.isNone

/-- STEP_DOWN (R372); a die whose preferred step fell as a phase of another manifest ended moves down to it, since it
never runs above it (R373). (DEDUCED: log 53) -/
def execStepDown (d : Die) (s : State) : Out :=
  .next <|
    let p := s.diePower d.val
    if !s.stepsFree d.val then s
    else if s.lowCond d.val && s.heldMs p.lowSince then s.beginStep d.val (p.step + 1)
    else
      match s.runningPref d.val with
      | some m => if p.step < m then s.beginStep d.val m else s
      | none => s

/-- STEP_UP (R372). (DEDUCED: log 53) -/
def execStepUp (d : Die) (s : State) : Out :=
  .next <|
    let p := s.diePower d.val
    if s.stepsFree d.val && s.highCond d.val && s.heldMs p.highSince then s.beginStep d.val (p.step - 1) else s

/-- VOLTAGE_SETTLED (R368): the change is complete, a higher ceiling takes effect, and a move that waited is made. -/
def execVoltageSettled (d : Die) (s : State) : Out :=
  .next <|
    match (s.diePower d.val).changing with
    | none => s
    | some n =>
      let due := (s.diePower d.val).moveDue
      let s := (s.updDiePower d.val fun p => { p with step := n, changing := none }).reweir
      if due then s.moveStep d.val else s

/-- PHASE_START (R373): the booked start of the next phase of a running manifest; the preferred step of each die that it
uses, and of each that the phase before used, is formed again. -/
def execPhaseStart (p : Pol) (seq : Nat) (phase : Fin 8) (s : State) : Out :=
  .next <|
    let r := (s.pol p.val).run seq
    match s.schedule r.m.schedule with
    | none => s
    | some c =>
      let at_ := r.m.tb + 4096 * r.m.startTide + 1024 + s.phaseStart c r.m.opp phase.val
      if !(s.pol p.val).isRunning seq || r.suspended || r.phase ≠ phase.val || c.phases.length ≤ phase.val || s.alm.now < at_ then s else
      let before := (List.range 8).map s.runningPref
      let s := s.updRun p.val seq fun r => { r with phase := phase.val + 1 }
      let s := (List.range 8).foldl (fun s d =>
        match s.runningPref d with
        | some m =>
          let s := s.updDiePower d fun q => { q with preferred := m }
          if before.getD d none ≠ some m then s.moveStep d else s
        | none => s) s
      s.watchSteps

/-! ## Droop (R378) -/

/-- DROOP: detector t of a die, two per tile, stops its tile for 32 cycles; those that an operation loses are charged to WEIR. -/
def execDroop (d : Die) (detector : Fin 32) (s : State) : Out :=
  .next <|
    let t := detector.val / 2
    if !s.boot.powered || (s.mill d.val).fenced then s else
    let s := s.updMill d.val fun c => { c with
      droopStop := c.droopStop ||| ((1 : BitVec 16) <<< t), droopAt := c.droopAt.set 0 t s.clock }
    let s := s.updDiePower d.val fun p => { p with droops := satAdd 0xFF p.droops 1 }
    let s := s.stopTile d.val t 32
    s.raiseBoth .droop srcPower (leBytes 1 (5 + d.val) ++ leBytes 1 detector.val)

/-- DROOP_RESUME: after 32 cycles the tile issues again. -/
def execDroopResume (d : Die) (tile : Fin 16) (s : State) : Out :=
  .next <|
    let c := s.mill d.val
    if c.droopStop.getLsbD tile.val && s.passed (c.droopAt.get 0 tile.val) 32 then
      s.updMill d.val fun c => { c with droopStop := c.droopStop &&& ~~~((1 : BitVec 16) <<< tile.val) }
    else s

end Sys2Proof.Machine
end

