-- ==== Sys2Proof/Machine/ImageCheck.lean ====
section
/-! DEFINITION. The checks of an image being loaded (R323), in the order of their REASONs: the charter (R302, R303, R329), the
tide and link slot tables (R148 to R155, R162, R259), schedules, kernels, tables and settings, and the hardware of this
start. -/

namespace Sys2Proof.Machine

open Sys2Proof

/-- The first failing one of a list of tests, each with its record. -/
def firstBad (tests : List (Bool × Nat)) : Option Nat := (tests.find? fun t => !t.1).map Prod.snd

/-- Tests of each member of a list, with the record each is reported under. -/
def eachOf {α : Type} (base : Nat) (l : List α) (ok : Nat → α → Bool) : List (Bool × Nat) :=
  l.zipIdx.map fun e => (ok e.2 e.1, base + e.2)

/-- No two members of a list, at different places, stand in a relation; the later one is reported. -/
def apart {α : Type} (base : Nat) (l : List α) (clash : α → α → Bool) : List (Bool × Nat) :=
  eachOf base l fun i x => !((l.take i).any fun y => clash y x)

/-- Ranges [a, a + n) and [b, b + m) meet. -/
def meet (a n b m : Nat) : Bool := a < b + m && b < a + n

/-! ## The charter (REASON 7) -/

/-- Masks that no two polders share. -/
def exclusive (pols : List PolRec) (f : PolRec → Nat) : List (Bool × Nat) :=
  apart 0 pols fun x y => f x &&& f y ≠ 0

/-- Reserved bytes of a resource record, and its type. -/
def resForm (r : ResRec) : Bool :=
  match r.type with
  | 1 => r.b3 = 0 && r.w12 = 0
  | 2 => r.w8 = 0 && r.w12 = 0
  | 3 => true
  | 4 => r.b2 = 0 && r.w12 = 0 && r.b1 < 2
  | 5 => r.b1 = 0 && r.b2 = 0 && r.w4 = 0
  | 6 => r.b3 = 0 && r.w8 = 0 && r.w12 = 0
  | 7 => r.b3 = 0 && r.w8 = 0 && r.w12 = 0
  | 8 => r.b3 = 0 && r.w8 = 0 && r.w12 = 0
  | 9 => r.b2 = 0 && r.b3 = 0 && r.w8 = 0 && r.w12 = 0
  | _ => false

/-- A resource record's own values (R165, R167, R168, R180, R232, R236, R329). -/
def resRange (g : Image) (r : ResRec) : Bool :=
  let tier := g.tiers.getD r.b2 0
  match r.type with
  | 1 => r.b1 < 64 && r.b2 < 4 && r.w4 + r.w8 ≤ 31 * tier
  | 2 => r.b1 < 64 && r.b2 < 4 && r.b3 ≤ 10 && r.w4 % 2 ^ r.b3 = 0 && r.w4 + 2 ^ r.b3 ≤ 62 * (16 - tier)
  | 3 => r.b1 < 64 && r.b2 < 8 && r.b3 ≤ 6 && r.w4 % 2 ^ r.b3 = 0 && r.w4 + 2 ^ r.b3 ≤ 64 && r.w8 + r.w12 ≤ 64
    && !meet r.w4 (2 ^ r.b3) r.w12 r.w8
  | 4 => g.required.getLsbD 4
  | 5 => g.required.getLsbD 4
  | 6 => r.b1 < 64 && r.b2 < 4 && 256 ≤ r.w4
  | 7 => r.b1 < 64 && r.b2 < 4 && 1 ≤ r.w4
  | 8 => r.b1 < 64 && r.b2 < 8 && 64 ≤ r.w4 && r.w4 % 64 = 0
  | 9 => r.b1 < 64 && 1 ≤ r.w4 && r.w4 ≤ 256
  | _ => false

/-- Two resource records that the rules keep apart (R302): overlapping grants, or a second one of the same kind. -/
def resClash (x y : ResRec) : Bool :=
  x.type = y.type &&
  match x.type with
  | 1 => x.b2 = y.b2 && meet x.w4 x.w8 y.w4 y.w8
  | 2 => x.b2 = y.b2 && (x.b1 = y.b1 || meet x.w4 (2 ^ x.b3) y.w4 (2 ^ y.b3))
  | 3 => x.b2 = y.b2 && (x.b1 = y.b1 || meet x.w4 (2 ^ x.b3) y.w4 (2 ^ y.b3) || meet x.w4 (2 ^ x.b3) y.w12 y.w8
      || meet x.w12 x.w8 y.w4 (2 ^ y.b3) || meet x.w12 x.w8 y.w12 y.w8)
  | 4 => meet x.w4 x.w8 y.w4 y.w8 || (x.b3 = y.b3 && x.b1 ≠ y.b1)
  | 6 => x.b1 = y.b1 && x.b2 = y.b2
  | 7 => x.b1 = y.b1 && x.b2 = y.b2
  | 8 => x.b1 = y.b1 && x.b2 = y.b2
  | 9 => x.b1 = y.b1
  | _ => false

/-- The counts of one type at one place. -/
def resTotal (rs : List ResRec) (type loc : Nat) : Nat :=
  ((rs.filter fun r => r.type = type && (type = 9 || r.b2 = loc)).map ResRec.w4).sum

/-- The reserves of one type at one place, with `dflt` for each bound polder without a record (R180, R232, R236, R239). -/
def reserveTotal (c : Charter) (type loc dflt : Nat) : Nat :=
  resTotal c.resources type loc
    + dflt * (c.pols.zipIdx.filter fun e => e.1.port < 2
      && !(c.resources.any fun r => r.type = type && r.b1 = e.2 && (type = 9 || r.b2 = loc))).length

/-- A channel group's granules of 2 MiB at this start. -/
def State.groupGranules (s : State) (k q : Nat) : Nat × Nat := (s.groupBase k q / 2 ^ 21, 512 * s.nq k q)

/-- The granules at which a Keel's tier region begins. -/
def tierGranule (k : Nat) : Nat := (granBase + k * granSize) / 2 ^ 21

/-- Granules that two ranges share. -/
def overlap (a n b m : Nat) : Nat := min (a + n) (b + m) - max a b

/-- A Common Stock region lies in HBM groups or tier granules, outside the hold group, and no tenant is granted any of
it (R302, R314). (DEDUCED: log 57) -/
def State.stockOk (s : State) (g : Image) (r : ResRec) : Bool :=
  let hbm := fun k => overlap r.w4 r.w8 (k * hbmKeelSize / 2 ^ 21) (512 * s.keelGiB k)
  let tier := fun k => overlap r.w4 r.w8 (tierGranule k) (31 * g.tiers.getD k 0)
  let hold := match s.boot.holdBase with
    | some b => meet r.w4 r.w8 (b / 2 ^ 21) 4096
    | none => false
  ((List.range 4).map fun k => hbm k + tier k).sum = r.w8 && !hold
    && ((List.range 4).all fun k => (List.range 48).all fun q =>
      !(meet r.w4 r.w8 (s.groupGranules k q).1 (s.groupGranules k q).2
        && (g.charter.pols.drop 2).any fun p => (p.groups.getD k 0).getLsbD q))
    && !(g.charter.resources.any fun x => x.type = 1 && 2 ≤ x.b1 && meet r.w4 r.w8 (tierGranule x.b2 + x.w4) x.w8)

/-- A polder's record by itself. -/
def polForm (p : Nat) (r : PolRec) : Bool :=
  !r.reserved && (if p < 2 then r.port = p && r.vf = 0
    else if r.port < 2 then 1 ≤ r.vf && r.vf ≤ 31 else r.port = 0xFF && r.vf = 0)
    && r.stations.all fun u => u.1 ≤ 16 && u.2.1 ≤ 16 && u.2.2 ≤ 16

/-- A polder's channel groups hold pseudo-channels, and the hold group is none of them (R182, R329). -/
def State.groupsOk (s : State) (r : PolRec) : Bool :=
  (List.range 4).all fun k => (List.range 48).all fun q =>
    !(r.groups.getD k 0).getLsbD q || (s.nq k q ≠ 0 && s.boot.holdBase ≠ some (s.groupBase k q))

/-- The draw that the sealed steps and levels allow fits the shares (R303), in units of 1/409,600 W. -/
def sealedFits (g : Image) : Bool :=
  let pd := (g.dieSets.map fun d =>
    let v := stepVolts d.sealStep
    280 * d.sealLevel * v * v + 204800 * v).sum
  1000 * (pd + 1730 * 409600) ≤ 894 * 409600 * (g.charter.pols.map PolRec.share).sum

/-- Sealed mode (R303, R327, R365). -/
def sealOk (g : Image) : Bool :=
  let c := g.charter
  let total := fun (port : Nat) => ((c.pols.filter fun p => p.port = port).map PolRec.share).sum
  if c.sealedMode then
    g.required.getLsbD 12 && total 0 ≤ c.capA && total 1 ≤ c.capB
      && (g.dieSets.all fun d => d.sealStep ≤ 7 && 1 ≤ d.sealLevel && d.sealLevel ≤ stepCeiling d.sealStep) && sealedFits g
  else g.dieSets.all fun d => d.sealStep = 0 && d.sealLevel = 0

/-- The charter's header and totals. (DEDUCED: log 57) -/
def State.charterWhole (s : State) (g : Image) : Bool :=
  let c := g.charter
  let lanes := fun (d : Nat) (f : Nat × Nat × Nat → Nat) => (c.pols.map fun p => f (p.stations.getD d (0, 0, 0))).sum
  c.version = 1 && !c.reserved && !meet c.shareA.1 (c.shareA.2 - c.shareA.1) c.shareB.1 (c.shareB.2 - c.shareB.1)
    && c.zlA &&& c.zlB = 0
    && ((List.range 8).all fun d => lanes d Prod.fst ≤ 16 && lanes d (fun u => u.2.1) ≤ 16 && lanes d (fun u => u.2.2) ≤ 16)
    && ((List.range 4).all fun k => reserveTotal c 6 k 256 ≤ 65536 && reserveTotal c 7 k 1 ≤ 128)
    && ((List.range 8).all fun d => reserveTotal c 8 d 64 ≤ 4096) && reserveTotal c 9 0 2 ≤ 256 && sealOk g
    && (c.pols.map PolRec.share).sum ≤ s.pwr.inForce && c.capA + c.capB ≤ s.pwr.inForce

/-- DEDUCED: log 57. -/
def State.charterTests (s : State) (g : Image) : List (Bool × Nat) :=
  let c := g.charter
  [(s.charterWhole g, 0)] ++ eachOf 0 c.pols (fun p r => polForm p r && s.groupsOk r)
    ++ apart 0 c.pols (fun x y => x.port < 2 && x.port = y.port && x.vf ≠ 0 && x.vf = y.vf)
    ++ ((List.range 8).flatMap fun d => exclusive c.pols (fun p => (p.tiles.getD d 0).toNat)
      ++ exclusive c.pols (fun p => (p.handRows.getD d 0).toNat) ++ exclusive c.pols (fun p => (p.porters.getD d 0).toNat))
    ++ ((List.range 4).flatMap fun k => exclusive c.pols fun p => (p.groups.getD k 0).toNat)
    ++ eachOf 64 c.resources (fun _ r => resForm r && resRange g r && (r.type ≠ 4 || s.stockOk g r))
    ++ apart 64 c.resources resClash

/-- The charter's resources as an image being loaded grants them. -/
def imageRec (g : Image) (p : Nat) : PolRec := g.charter.pols.getD p {}
def imageRes (g : Image) (type p loc : Nat) : Option ResRec :=
  g.charter.resources.find? fun r => r.type = type && r.b1 = p && r.b2 = loc

/-- A Common Stock region that a polder owns, as its port's supervisor, or reads. -/
def imageStockOf (g : Image) (p : Nat) : List ResRec :=
  g.charter.resources.filter fun r => r.type = 4 && (r.b1 = p ||
    g.charter.resources.any fun x => x.type = 5 && x.b3 = r.b3 && (x.w8 + 2 ^ 32 * x.w12).testBit p)

/-- First lane and number of lanes of a polder in Scale (0), Sieve (1) or Cooper (2) of a die (R37, R328). -/
def imageStationLanes (g : Image) (p d i : Nat) : Nat × Nat :=
  let unit := [8, 16, 8].getD i 8
  let of := fun (r : PolRec) => let u := r.stations.getD d (0, 0, 0); [u.1, u.2.1, u.2.2].getD i 0
  (unit * ((g.charter.pols.take p).map of).sum, unit * of (imageRec g p))

/-- The charter grants the polder what the stint reaches (R155). -/
def State.stintGranted (s : State) (g : Image) (t : Stint) : Bool :=
  let r := imageRec g t.pol
  let stock := imageStockOf g t.pol
  if 0x30 ≤ t.segment && t.segment < 0x38 then
    let d := t.segment - 0x30
    if t.port = 0x00 then (imageRes g 3 t.pol d).isSome
    else if t.port = 0x01 then r.tiles.getD d 0 ≠ 0
    else if 0x02 ≤ t.port && t.port ≤ 0x04 then
      let l := imageStationLanes g t.pol d (t.port - 2)
      l.1 ≤ t.laneFirst && t.laneFirst + t.laneCount ≤ l.1 + l.2
    else if t.port = 0x10 then r.handRows.getD d 0 ≠ 0
    else if 0x08 ≤ t.port && t.port < 0x10 then (r.porters.getD d 0).getLsbD (t.port - 8)
    else true
  else if 0x38 ≤ t.segment && t.segment < 0x3C then
    let k := t.segment - 0x38
    let group := fun q => (r.groups.getD k 0).getLsbD q
      || stock.any fun x => meet x.w4 x.w8 (s.groupGranules k q).1 (s.groupGranules k q).2
    if t.port = 0x00 then (imageRes g 1 t.pol k).isSome || (imageRes g 2 t.pol k).isSome
      || stock.any fun x => meet x.w4 x.w8 (tierGranule k) (31 * g.tiers.getD k 0)
    else if 0x40 ≤ t.port && t.port < 0x70 then group (t.port - 0x40)
    else if 0x70 ≤ t.port && t.port < 0x76 then (List.range 8).any fun j => group (8 * (t.port - 0x70) + j)
    else true
  else true

/-- OWNER by class (R151): a stream, the Mill die of a Bin partition, the polder, a barrier, or the Bin die or the
Wharf; and a barrier's PERIOD (R161). -/
def stintOwnerOk (g : Image) (t : Stint) : Bool :=
  match t.cls with
  | 1 => (imageRes g 3 t.pol t.owner).isSome
  | 2 => t.owner = t.pol
  | 5 => 6 ≤ t.period && t.period ≤ 11
  | 6 => t.owner < 8 || t.owner = 0xFF
  | _ => t.owner < 256 && (t.schedule = 0xFFFF || match g.schedules[t.schedule]? with
    | some c => t.owner < c.streams.length
    | none => false)

/-- The schedule that a stint names is its polder's (R155). -/
def stintScheduleOk (g : Image) (t : Stint) : Bool :=
  t.schedule = 0xFFFF || match g.schedules[t.schedule]? with
    | some c => c.pol = t.pol
    | none => false

/-- A stint after the first hop stands behind another (R152): by cut-through, or where its schedule books the
interruption between them. -/
def stintPathOk (g : Image) (i : Nat) (t : Stint) : Bool :=
  t.hop = 0 || g.tide.zipIdx.any fun e => follows e.1 t && ((nextSegment e.1).isSome || t.schedule = 0xFFFF ||
    match g.schedules[t.schedule]? with
    | some c => c.handovers.any fun h => h.enter = some e.2 && h.leave = some i
    | none => false)

/-- One stint of the table, beside those before it. -/
def State.stintOk (s : State) (g : Image) (i : Nat) (t : Stint) : Bool :=
  stintRange t && (t.cls ≤ 1 || !hitsBand t) && s.stintGranted g t && stintOwnerOk g t && stintScheduleOk g t
    && stintPathOk g i t
    && (!isRingRead t || t.start ≤ 511 || g.tide.any fun u => isRingRead u && u.pol = t.pol && u.start < t.start)

/-- DEDUCED: log 57. -/
def State.stintTests (s : State) (g : Image) : List (Bool × Nat) :=
  eachOf 0 g.tide (fun i t => s.stintOk g i t) ++ apart 0 g.tide (fun a b => stintsMeet a b && !mayShare a b)

/-! ## Reservations (R159, R162) -/

/-- A path by cut-through of a polder's class and owner, recurring at least every 2^p cycles, from a first hop on one of
the segments to a stint that `goal` names. -/
def imageRoute (g : Image) (pol cls owner p : Nat) (start : List Nat) (goal : Stint → Bool) : Bool :=
  g.tide.any fun t => t.pol = pol && t.cls = cls && t.owner = owner && t.period ≤ p && start.contains t.segment
    && (t.hop = 0 || !(g.tide.any fun u => follows u t && (nextSegment u).isSome)) && leadsTo g.tide goal 16 t

/-- A stint that enters a port of a spine. -/
def enters (seg : Nat) (ports : List Nat) (t : Stint) : Bool := t.segment = seg && ports.contains t.port

/-- Control paths of a class each way between a die and a Keel's directory or Granary port. -/
def imageBetween (g : Image) (pol cls owner p d k : Nat) (ports : List Nat) : Bool :=
  imageRoute g pol cls owner p [0x30 + d, 0x10 + d] (enters (0x38 + k) ports)
    && imageRoute g pol cls owner p [0x38 + k] fun t => t.segment = 0x18 + d

/-- COHERENCE paths each way between a die and every Keel. -/
def imageDieWalks (g : Image) (pol d p : Nat) : Bool :=
  (List.range 4).all fun k => imageBetween g pol 6 d p d k [0x01]

/-- COHERENCE paths each way between the Wharf and every Keel. -/
def imageWharfWalks (g : Image) (pol : Nat) : Bool :=
  (List.range 4).all fun k =>
    imageRoute g pol 6 0xFF 12 [0x3C] (enters (0x38 + k) [0x01])
      && imageRoute g pol 6 0xFF 12 [0x38 + k] fun t => t.segment = 0x28 + 2 * k

/-- A polder is granted memory at a Keel: channel groups, tier granules, a Granary partition or Common Stock. -/
def State.usesMemory (s : State) (g : Image) (pol k : Nat) : Bool :=
  (imageRec g pol).groups.getD k 0 ≠ 0 || (imageRes g 1 pol k).isSome || (imageRes g 2 pol k).isSome
    || (imageStockOf g pol).any fun x =>
      meet x.w4 x.w8 (k * hbmKeelSize / 2 ^ 21) (512 * s.keelGiB k) || meet x.w4 x.w8 (tierGranule k) (31 * g.tiers.getD k 0)

/-- The ports by which a Keel's spine reaches its memory: the Granary and the HBM data quays. -/
def memoryPorts : List Nat := 0x00 :: (List.range 48).map fun q => 0x40 + q

/-- DEMAND paths each way between a die's Bin and the memory of a Keel. -/
def imageDemand (g : Image) (pol d k : Nat) : Bool :=
  imageRoute g pol 1 d 12 [0x30 + d, 0x00 + d] (enters (0x38 + k) memoryPorts)
    && imageRoute g pol 1 d 12 [0x38 + k] fun t => t.segment = 0x08 + d

/-- The latency from the start of a stint to the end of the path behind it at segment `last`; none where it does not
lead there. -/
def pathTime (tide : List Stint) (last : Nat) : Nat → Stint → Option Nat
  | 0, _ => none
  | fuel + 1, t =>
    if t.segment = last then some (segLatency t.segment)
    else if (nextSegment t).isNone then none
    else (tide.findSome? fun v => if follows t v then pathTime tide last fuel v else none).map fun n => segLatency t.segment + n

/-- The first cycle at or after `c` at which a stint occurs. -/
def occursFrom (t : Stint) (c : Nat) : Nat := c + (t.start + 2 ^ t.period - c % 2 ^ t.period) % 2 ^ t.period

/-- A ring anywhere in a Keel's memory is read in time (R45, R162): the read leaves at the pickup cycle, the Granary takes
48 cycles (R169), and the 512 bytes are back at the Wharf by cycle 1,023. -/
def imageRingRead (g : Image) (pol k : Nat) : Bool :=
  let mine := fun (t : Stint) => t.pol = pol && t.cls = 2 && t.owner = pol && t.hop = 0
  g.tide.any fun t => mine t && isRingRead t && pickupCycle g.tide pol = some t.start &&
    match pathTime g.tide (0x38 + k) 16 t with
    | none => false
    | some there => g.tide.any fun u => mine u && u.segment = 0x38 + k &&
      match pathTime g.tide (0x28 + 2 * k) 16 u with
      | none => false
      | some back =>
        let n := ceilDiv 512 (32 * u.laneCount * u.length) - 1
        occursFrom u (t.start + there + 48) + back + n * 2 ^ u.period + u.length ≤ 1024

/-- What a bound polder's reservations must hold. (DEDUCED: log 57) -/
def State.imageReserves (s : State) (g : Image) (pol : Nat) : Bool :=
  let r := imageRec g pol
  let keels := (List.range 4).filter (s.usesMemory g pol)
  (g.tide.any fun t => isRingRead t && t.pol = pol) && imageWharfWalks g pol && keels.all (imageRingRead g pol)
    && (keels.all fun k => imageRoute g pol 2 pol 12 [0x3C] (enters (0x38 + k) [0x01, 0x70, 0x71, 0x72, 0x73, 0x74, 0x75]))
    && (List.range 8).all fun d =>
      let part := (imageRes g 3 pol d).isSome
      let works := r.porters.getD d 0 ≠ 0 || r.handRows.getD d 0 ≠ 0 || r.stations.getD d (0, 0, 0) ≠ (0, 0, 0)
      (!part || (keels.all (imageDemand g pol d) && imageDieWalks g pol d 6))
        && (!works || (imageDieWalks g pol d 12 && imageRoute g pol 2 pol 12 [0x3C] fun t => t.segment = 0x18 + d))

/-- A stint of a schedule, of a class and owner, with at least one occurrence in `n` cycles. -/
def imageStreamStint (g : Image) (i pol cls owner n : Nat) (f : Stint → Bool) : Bool :=
  g.tide.any fun t => t.pol = pol && t.cls = cls && t.owner = owner && (t.schedule = i || t.schedule = 0xFFFF)
    && 2 ^ t.period ≤ n && f t

/-- The output port of a station on its die's spine (R149): a Porter and the Hands take tiles staged in the Bin. -/
def stationPort (st : Station) : Option Nat :=
  match st with
  | .mill => some 0x01
  | .scale => some 0x02
  | .sieve => some 0x03
  | .cooper => some 0x04
  | .hands => some 0x00
  | _ => none

/-- STREAM stints on every hop of a stream's path (R152, R162): no path of it breaks off, a load reaches the Bin of its
Porter's die, a store the memory of a Keel, and the destination station's port is entered. -/
def imageStreamPath (g : Image) (i j : Nat) (c : Schedule) (d : StreamDecl) : Bool :=
  let mine := fun (t : Stint) => t.pol = c.pol && t.cls = 0 && t.owner = j && (t.schedule = i || t.schedule = 0xFFFF)
  let die := 0x30 + d.die
  let onSpine := fun (ports : List Nat) => imageStreamStint g i c.pol 0 j d.bookPeriod (enters die ports)
  (g.tide.all fun t => !mine t || (nextSegment t).isNone || g.tide.any (follows t))
    && (d.src ≠ .porter || onSpine [0x00])
    && (d.dst ≠ .porter || (List.range 4).any fun k =>
      imageStreamStint g i c.pol 0 j d.bookPeriod (enters (0x38 + k) memoryPorts))
    && (d.dst ≠ .wharf || (List.range 4).any fun k =>
      imageStreamStint g i c.pol 0 j d.bookPeriod (enters (0x38 + k) ((List.range 16).map fun n => 0x80 + n)))
    && match stationPort d.dst with
      | none => true
      | some port => onSpine [port]

/-- The two messages of a SET barrier on a die (R161): its release reaches the Hands grid, and where several dies take part its
arrivals leave the die and the release comes back. -/
def imageBarrierOn (g : Image) (i : Nat) (c : Schedule) (n d : Nat) (alone : Bool) : Bool :=
  let on := fun f => imageStreamStint g i c.pol 5 n 2048 f
  on (enters (0x30 + d) [0x10]) && (alone || (on (fun t => t.segment = 0x10 + d) && on fun t => t.segment = 0x18 + d))

/-- A port of a spine is a quay's. -/
def atQuay (t : Stint) : Bool :=
  if 0x38 ≤ t.segment && t.segment < 0x3C then 0x40 ≤ t.port && t.port < 0x90
  else t.segment = 0x3C && 0x40 ≤ t.port && t.port ≤ 0x50

/-- A booked interruption (R30, R152, R157): every quay at no less than R157's cycles and within its depth, the stints at
its ports, and the next stint no earlier than the bookings and, at the Granary, the 48 cycles of R169. -/
def handoverOk (g : Image) (c : Schedule) (h : Handover) : Bool :=
  let inOf := h.enter.bind fun i => g.tide[i]?
  let outOf := h.leave.bind fun i => g.tide[i]?
  (h.enter.isNone || inOf.isSome) && (h.leave.isNone || outOf.isSome)
    && (h.quays.all fun q => quayBooking q.quay ≤ q.booked && (quayPort q.quay).isSome)
    && (inOf.all fun u => u.pol = c.pol && (nextSegment u).isNone
      && (!atQuay u || h.quays.head?.any fun q => quayPort q.quay = some (u.segment, u.port) && !inboundQuay q.quay))
    && (outOf.all fun t => t.pol = c.pol && h.quays.getLast?.all fun q => (quayPort q.quay).map Prod.fst = some t.segment)
    && match inOf, outOf with
      | some u, some t =>
        let m := 2 ^ min u.period t.period
        let access := if 0x38 ≤ u.segment && u.segment < 0x3C && u.port = 0x00 then 48 else 0
        nextInPath u t && u.segment = t.segment && (u.start + h.gap) % m = t.start % m
          && (h.quays.map QuayUse.booked).sum + access ≤ h.gap
      | _, _ => true

/-- A schedule books a quay crossing shorter than R27's worst case (R30). -/
def bookedShort (c : Schedule) : Bool :=
  c.handovers.any fun h => h.quays.any fun q => q.booked < quayBooking q.quay

/-- Entries that a schedule books in flight at a quay. -/
def bookedInFlight (c : Schedule) (n : Nat) : Nat :=
  (c.handovers.map fun h => ((h.quays.filter fun q => q.quay = n).map QuayUse.inFlight).sum).sum

/-- The quays of a schedule (R30, R157, R162): its interruptions are as they must be, each stint of its own that enters a
quay is one of them, and no quay holds more than its depth. -/
def imageQuaysOk (g : Image) (i : Nat) (c : Schedule) : Bool :=
  !bookedShort c && c.handovers.all (handoverOk g c)
    && (c.handovers.all fun h => h.quays.all fun q => bookedInFlight c q.quay ≤ quayDepth q.quay)
    && g.tide.zipIdx.all fun e => !(e.1.schedule = i && atQuay e.1) || c.handovers.any fun h => h.enter = some e.2

/-- What a schedule's streams, barriers and quays must have. -/
def imageSchedReserves (g : Image) (i : Nat) (c : Schedule) : Bool :=
  imageQuaysOk g i c
    && (c.streams.zipIdx.all fun e =>
      let any := fun cls => imageStreamStint g i c.pol cls e.2 e.1.bookPeriod fun _ => true
      any 0 && imageStreamPath g i e.2 c e.1 && ((e.1.src ≠ .porter && e.1.dst ≠ .porter) || (any 3 && any 4)))
    && (c.kernels.all fun k => match k.setBarrier with
      | none => true
      | some n =>
        let dies := bitsOf 8 k.dies.toNat
        dies.all fun d => imageBarrierOn g i c n d (dies.length = 1))
    && c.barriers.all fun b => imageStreamStint g i c.pol 5 b.number 2048 fun _ => true

/-! ## Link slot table (R250, R259) -/

def linksMeet (a b : LinkRec) : Bool :=
  a.port = b.port && meet a.slotFirst a.slotCount b.slotFirst b.slotCount
    && !(a.pol = b.pol && a.schedule ≠ b.schedule && a.schedule ≠ 0xFFFF && b.schedule ≠ 0xFFFF)

/-- Slots of a port that its records own. -/
def imageOwnedSlots (g : Image) (n : Nat) : Nat :=
  ((List.range 3192).filter fun slot => g.links.any fun r =>
    r.port = n && r.slotFirst ≤ slot && slot < r.slotFirst + r.slotCount).length

def imageLinkOk (g : Image) (r : LinkRec) : Bool :=
  let d := g.decls.getD r.port (0, 0)
  r.port < 64 && r.pol < 64 && [0, 1, 5].contains r.cls && r.reserved = 0 && 8 ≤ r.slotFirst && 1 ≤ r.slotCount
    && r.slotFirst + r.slotCount ≤ 3192 && (imageRec g r.pol).fabric && (d.1 = 2 || (d.1 = 3 && g.required.getLsbD 0)) && d.2 ≤ 600
    && (d.1 = 3 || (r.slotFirst % 2 = 0 && r.slotCount % 2 = 0)) && imageOwnedSlots g r.port ≤ 2992

/-! ## Schedules (REASON 9) -/

/-- The formats that a station takes and gives (R36). (DEDUCED: log 33) -/
def stationTakes (st : Station) (f : Nat) : Bool :=
  match st with
  | .mill => 1 ≤ f && f ≤ 6
  | .scale => f = 6 || f = 7
  | .cooper => f = 6 || f = 7 || f = 9
  | _ => true

/-- DEDUCED: log 33. -/
def stationGives (st : Station) (f : Nat) : Bool :=
  match st with
  | .mill => f = 6 || f = 7
  | .scale => f = 1 || f = 2 || f = 6 || f = 7
  | .cooper => f = 6 || f = 7 || f = 9
  | _ => true

/-- A stream's region tiles: the strides a loop set reaches, without repeat. -/
def visitsOnce (loops : List (Nat × Nat)) : Bool :=
  let tiles := (List.range (loops.map Prod.fst).prod).map (regionTile loops)
  tiles.eraseDups.length = tiles.length

/-- A stream's declaration (R32, R34 to R36, R38, R52, R285). -/
def imageStreamOk (g : Image) (p : Nat) (d : StreamDecl) : Bool :=
  let porter := d.src = .porter || d.dst = .porter
  1 ≤ d.fmt && d.fmt ≤ 9 && ((d.fmt ≠ 3 && d.fmt ≠ 4) || g.required.getLsbD 1) && (d.fmt ≠ 9 || g.required.getLsbD 11)
    && stationGives d.src d.fmt && stationTakes d.dst d.fmt
    && 1 ≤ d.region && d.region ≤ 2 ^ 24 && 1 ≤ d.loops.length && d.loops.length ≤ 4
    && (d.loops.all fun l => 1 ≤ l.1 && l.1 ≤ 65536 && l.2 < 2 ^ 24)
    && d.length = (d.loops.map Prod.fst).prod && (d.loops.map fun l => (l.1 - 1) * l.2).sum < d.region
    && d.store = (d.dst = .porter : Bool) && (d.dst ≠ .porter || (d.src ≠ .porter && visitsOnce d.loops)) && !(d.hard && d.readsHost)
    && (!porter || (1 ≤ d.runahead && d.runahead ≤ 64 && d.die < 8 && ((imageRec g p).porters.getD d.die 0).getLsbD d.porter))
    && d.edges.all fun e => e.1 < d.length && 1 ≤ e.2.1 && e.2.1 ≤ 256 && 1 ≤ e.2.2 && e.2.2 ≤ 256

/-- A schedule's staging need on a Porter, in lines, and its run-ahead there (R53, R165). -/
def porterNeed (c : Schedule) (d n : Nat) : Nat × Nat :=
  let mine := c.streams.filter fun x => (x.src = .porter || x.dst = .porter) && x.die = d && x.porter = n
  ((mine.map fun x => x.runahead * tileLines x).sum, (mine.map StreamDecl.runahead).sum)

/-- A kernel's code has a global atomic of a minor operation, with or without return (R124, R125). -/
def usesAtom (g : Image) (k : KernelDecl) (minor : Nat) : Bool :=
  (List.range k.codeSize).any fun j =>
    let w := leAt g.code (8 * (k.entry + j)) 8
    field w 58 6 = 0x14 && (field w 52 6 = minor || field w 52 6 = minor + 32)

/-- A kernel's declaration (R118, R119, R122, R138). -/
def imageKernelOk (g : Image) (p : Nat) (k : KernelDecl) : Bool :=
  let rows := (2 ^ k.h - 1) * 2 ^ k.y0
  k.kernel ≤ 255 && k.codeSize ≤ 65536 && 8 * (k.entry + k.codeSize) ≤ g.code.length && 1 ≤ k.w && 1 ≤ k.h
    && k.x0 + k.w ≤ 32 && k.y0 + k.h ≤ 32 && [16, 32, 48].contains k.localKib && 1 ≤ k.tasks && k.tasks ≤ 2 ^ 24
    && 1 ≤ k.budget && k.budget < 2 ^ 32 && ((List.range 27).drop 16).any (fun e => k.watchdog = 2 ^ e) && k.arg ≤ 9
    && (!k.cacheGlobal || g.required.getLsbD 7) && (!(k.usesFadd32 || usesAtom g k 1) || g.required.getLsbD 5)
    && (!(k.usesFaddBf16 || usesAtom g k 2) || g.required.getLsbD 6)
    && (bitsOf 8 k.dies.toNat).all fun d => ((imageRec g p).handRows.getD d 0).toNat &&& rows = rows

/-- The tiles of an array, as die and tile (R80). -/
def millTiles (m : MillUse) : List (Nat × Nat) :=
  match m.mode with
  | .solo => [(m.die, m.index)]
  | .quad => ([0, 1, 4, 5].map fun t => (m.die, t + [0, 2, 8, 10].getD m.index 0))
  | .gang => (List.range 16).map fun t => (m.die, t)
  | .pair => (List.range 32).map fun t => (m.die / 2 * 2 + t / 16, t % 16)

/-- A Mill use: the array in one polder (R81), its formats (R78), its limits (R83). -/
def imageMillOk (g : Image) (p : Nat) (m : MillUse) : Bool :=
  let within := fun (x hi : Nat) => 1 ≤ x && x ≤ hi
  m.die < 8 && (match m.mode with
    | .solo => m.index < 16
    | .quad => m.index < 4
    | _ => true)
    && ((millTiles m).all fun t => ((imageRec g p).tiles.getD t.1 0).getLsbD t.2)
    && within m.fmtA 6 && within m.fmtB 6 && (m.fmtA = 6 : Bool) = (m.fmtB = 6 : Bool)
    && ((m.fmtA ≠ 3 && m.fmtA ≠ 4 && m.fmtB ≠ 3 && m.fmtB ≠ 4) || g.required.getLsbD 1)
    && (match m.op with
      | 0 => within m.m 1048576 && within m.n 1048576 && within m.k 1048576
      | 1 => within m.m 1048576 && within m.n 1048576 && within m.k 1048576
      | 2 => m.mode = .solo && within m.m 64 && within m.k 16384
      | 3 => m.mode = .solo && 1 ≤ m.m && within m.n 1048576 && within m.k 256 && within m.heads 256 && within m.fmtV 5
        && ((m.fmtV ≠ 3 && m.fmtV ≠ 4) || g.required.getLsbD 1)
      | 4 => m.mode = .solo && m.m ≤ (if g.required.getLsbD 2 then 9 else 5) && within m.k 16384 && m.dies ≠ 0
        && 256 ≤ m.n && m.n ≤ 1048576 && m.n % (256 * popCount 8 m.dies.toNat) = 0
      | _ => false)

/-- A part of a schedule that a dependency names is there. -/
def stepThere (c : Schedule) : Step → Bool
  | .stream i => i < c.streams.length
  | .kernel i => i < c.kernels.length
  | .range i => i < c.ranges.length
  | .coll i => i < c.colls.length

/-- What a Mill use takes and gives: streams to and from the Mill in its formats (R38). -/
def millFlowOk (c : Schedule) (m : MillUse) : Bool :=
  let takes := fun (n : Option Nat) (f : Nat) => n.all fun n => c.streams[n]?.any fun d => d.dst = .mill && d.fmt = f
  let gives := fun (n : Option Nat) => n.all fun n => c.streams[n]?.any fun d => d.src = .mill
  takes m.a m.fmtA && takes m.b m.fmtB && takes m.b2 m.fmtB && takes m.v (if m.op = 4 then 6 else m.fmtV) && gives m.out && gives m.out2
    && (m.record.all fun i => i < c.operands) && m.result.all fun i => i < c.operands

/-- What a station's use takes and gives: streams to and from the station (R38). -/
def useFlowOk (c : Schedule) (u : StationUse) : Bool :=
  let st := [Station.mill, .scale, .sieve, .cooper].getD u.kind .mill
  1 ≤ u.kind && u.kind ≤ 3 && u.die < 8 && (u.ins.all fun n => c.streams[n]?.any fun d => d.dst = st)
    && (u.out.all fun n => c.streams[n]?.any fun d => d.src = st) && u.record.all fun i => i < c.operands

/-- A schedule's descriptor. -/
def imageScheduleOk (g : Image) (c : Schedule) : Bool :=
  let p := c.pol
  p < 64 && (imageRec g p).port < 2 && c.operands ≤ 10 && c.aligns.length = c.operands && c.phases.length ≤ 8
    && (c.phases.all fun x => x.worst.length = 8 && x.point ≤ 7) && c.streams.length ≤ 256
    && c.streams.all (imageStreamOk g p) && c.kernels.all (imageKernelOk g p) && c.mills.all (imageMillOk g p)
    && c.mills.all (millFlowOk c) && c.uses.all (useFlowOk c) && (c.deps.all fun e => stepThere c e.1 && stepThere c e.2)
    && c.kmax ≤ 8 && (c.kmax ≤ 4 || g.required.getLsbD 2) && (!c.kvSplit || g.required.getLsbD 10)
    && ((List.range 64).all fun n => (porterNeed c (n / 8) (n % 8)).2 ≤ 64 && (porterNeed c (n / 8) (n % 8)).1 ≤ 4096)
    && (c.ranges.all fun r => r.die < 8 && ((imageRec g p).porters.getD r.die 0).getLsbD r.porter)
    && ((List.range 4).all fun k =>
      c.booked.getD k 0 = 0 || c.booked.getD k 0 ≤ ((imageRes g 6 p k).map ResRec.w4).getD 0)

/-- A polder's staging area on a die holds the largest need on each Porter (R165); the last schedule of the polder is reported. -/
def imageStagingOk (g : Image) (p d : Nat) : Bool :=
  let mine := g.schedules.filter fun c => c.pol = p
  let need := ((List.range 8).map fun n => (mine.map fun c => (porterNeed c d n).1).foldl max 0).sum
  need ≤ 2048 * ((imageRes g 3 p d).map ResRec.w8).getD 0

def imageSchedTests (g : Image) : List (Bool × Nat) :=
  eachOf 0 g.schedules (fun _ c => imageScheduleOk g c)
    ++ eachOf 0 g.schedules (fun _ c => (List.range 8).all fun d => imageStagingOk g c.pol d)

/-- Symbols of a kind of code table (R110). -/
def caskSymbols (kind : Nat) : Nat := [0, 16, 32, 8, 4, 4, 256].getD kind 0

/-- The code tables: the feature, their number and lengths, and Kraft sums of at most 1. -/
def imageCaskTests (g : Image) : List (Bool × Nat) :=
  eachOf 0 g.cask fun _ e =>
    g.required.getLsbD 9 && 1 ≤ e.1 && e.1 ≤ 6 && e.2.length ≤ 4 && e.2.all fun (t : CodeTable) =>
      t.length = caskSymbols e.1 && (t.all fun l => l ≤ 15)
        && ((t.filter fun l => l ≠ 0).map fun l => 2 ^ (15 - l)).sum ≤ 2 ^ 15

/-- Settings (R97, R167, R199). -/
def imageSettingTests (g : Image) : List (Bool × Nat) :=
  eachOf 0 g.dieSets (fun _ d => 4 ≤ d.ladder && d.ladder ≤ 32 && 8 ≤ d.stagger && d.stagger ≤ 64 && 2 ≤ d.hold && d.hold ≤ 16)
    ++ eachOf 8 g.tiers (fun _ t => t ≤ 16)

/-! ## The hardware of this start (REASON 10) -/

/-- The bundles that a stint's lanes lie in, where bundles hold 64 lanes (R148, R407). -/
def stintBundles (t : Stint) : List Nat :=
  if 0x20 ≤ t.segment && t.segment < 0x28 then
    ((List.range 4).filter fun i => meet t.laneFirst t.laneCount (64 * i) 64).map fun i => 2048 + 4 * (t.segment - 0x20) + i
  else if 0x28 ≤ t.segment && t.segment < 0x30 then [2080 + (t.segment - 0x28)]
  else []

/-- A stint meets a fenced die, a fenced Keel, or a bundle that is unusable or dead. -/
def State.stintDown (s : State) (t : Stint) : Bool :=
  let seg := t.segment
  (if seg < 0x20 then (s.mill (seg % 8)).fenced
   else if seg < 0x30 then (List.range 4).any fun k => (s.keel k).fenced && stintOnKeel t k
   else if seg < 0x38 then (s.mill (seg - 0x30)).fenced
   else seg < 0x3C && (s.keel (seg - 0x38)).fenced)
    || (stintBundles t).any fun b => (s.bundle b).state = 2 || (s.bundle b).state = 3

/-- A schedule meets a fenced die, Keel or stack. -/
def State.schedDown (s : State) (c : Schedule) : Bool :=
  ((List.range 8).any fun d => (s.mill d).fenced && usesDie c d)
    || ((List.range 4).any fun k => (s.keel k).fenced && usesKeel c k)
    || ((List.range 24).any fun i => (s.stack i).fenced && usesStack c i)

/-! ## All of R323 -/

/-- The version of the running firmware. -/
def State.runningFirmware (s : State) : List Byte := s.nv.fwBytes.get [] s.nv.fwSlot

/-- The key slot whose digest an image's OWNER_KEY has. -/
def State.ownerSlot (s : State) (g : Image) : Option Nat :=
  (List.range 4).find? fun n => (s.nv.keys.get {} n).filled && (s.nv.keys.get {} n).digest = g.keyMeasure

/-- The checks that follow the format: none where the image passes. (DEDUCED: log 57) -/
def State.refuses (s : State) (port : Nat) (bs : List Byte) (g : Image) : Option Reject :=
  let secs := imageSections (slice bs 0 0x2000)
  let at_ := fun (reason type : Nat) (tests : List (Bool × Nat)) =>
    (firstBad tests).map fun r => (⟨reason, ((sectionOf bs secs type).map Prod.fst).getD 0, r⟩ : Reject)
  match s.ownerSlot g with
  | none => some ⟨2, 0, 0⟩
  | some n =>
    if !Config.mlDsaVerify (ascii "zelpel-image") (slice bs 0x100 1952) g.measure (slice bs (bs.length - imageSig) 3309) then
      some ⟨3, 0, 0⟩
    else if g.svn < (s.nv.keys.get {} n).floor then some ⟨4, 0, 0⟩
    else if g.required &&& ~~~(s.boot.package &&& (s.port port).confirmed) ≠ 0 then some ⟨5, 0, 0⟩
    else if Config.firmwareVersion s.runningFirmware < g.firmwareMin then some ⟨6, 0, 0⟩
    else
      (at_ 7 1 (s.charterTests g)).orElse fun _ =>
      (at_ 8 2 (s.stintTests g)).orElse fun _ =>
      (at_ 8 2 [((List.range 64).all fun p => (imageRec g p).port ≥ 2 || s.imageReserves g p, 0)]).orElse fun _ =>
      (at_ 8 4 (eachOf 0 g.schedules fun i c => imageSchedReserves g i c)).orElse fun _ =>
      (at_ 8 3 (eachOf 0 g.links (fun _ r => imageLinkOk g r) ++ apart 0 g.links linksMeet)).orElse fun _ =>
      (at_ 9 4 (imageSchedTests g)).orElse fun _ =>
      (at_ 9 6 (imageCaskTests g)).orElse fun _ =>
      (at_ 9 7 (imageSettingTests g)).orElse fun _ =>
      (at_ 10 4 (eachOf 0 g.schedules fun _ c => !s.schedDown c)).orElse fun _ =>
      (at_ 10 2 (eachOf 0 g.tide fun _ t => !s.stintDown t)).orElse fun _ =>
      at_ 10 3 (eachOf 0 g.links fun _ r => !(s.keel (r.port / 16)).fenced)

/-- Every check of R323: the image, or the first refusal. (DEDUCED: log 57) -/
def State.checkImage (s : State) (port : Nat) (bs : List Byte) : Except Reject Image :=
  match parseImage bs with
  | .error e => .error e
  | .ok g =>
    match s.refuses port bs g with
    | some e => .error e
    | none => .ok g

end Sys2Proof.Machine
end

