-- ==== Sys2Proof/Machine/Link.lean ====
section
/-! DEFINITION. Zelpel Link (chapter 12): engines and lasers, training and fitness, slots, flits and retry, transactions,
the Almanac exchange, notices, collectives and the power commons. -/

namespace Sys2Proof.Machine

open Sys2Proof

/-! ## Engines and lasers (R247, R376) -/

def portsOf (e : Nat) : List Nat := (List.range 8).map (8 * e + ·)

/-- An engine turns off: LASER_EN falls and its ports are OFF. -/
def State.engineOff (s : State) (e : Nat) : State :=
  let s := s.updEngine e fun x => { x with shutdown := true, laserEn := false, lightOk := false }
  (portsOf e).foldl (fun s n => if (s.link n).state = 4 then s else s.portStops n 4) s

/-- An engine turns on again: LASER_EN rises from Stage 1, and ports that are not OFF themselves are dark. -/
def State.engineOn (s : State) (e : Nat) : State :=
  let s := s.updEngine e fun x => { x with shutdown := false, laserEn := 1 ≤ s.boot.stage }
  (portsOf e).foldl (fun s n => s.updLink n fun l => if l.state = 4 && !l.off then { l with state := 0 } else l) s

/-- LASER_LOST: light below its limit for more than 10 us. -/
def execLaserLost (e : Engine) (s : State) : Out :=
  .next <|
    let x := s.engine e.val
    if !x.lightOk then s else
    let s := s.updEngine e.val fun x => { x with lightOk := false }
    let s := (portsOf e.val).foldl (fun s n => s.portDown n) s
    s.raiseBoth .laserLost (srcEngine e.val) (leBytes 1 e.val)

/-- LIGHT_RESTORED: light that has held for 1 ms; the ports train again by LINK_TRAINING. -/
def execLightRestored (e : Engine) (s : State) : Out :=
  .next <| if (s.engine e.val).laserEn then s.updEngine e.val fun x => { x with lightOk := true } else s

def offOe (m : Nat) : Nat := 0x1001000 + 8 * m

/-- Whether a PF's write of SHUTDOWN takes effect (R247). -/
def State.oeMay (s : State) (e port : Nat) (v : Bool) : Bool :=
  if s.boot.stage < 3 then true
  else if v then (portsOf e).all fun n => s.linkOwner n = some port
  else (portsOf e).any fun n => s.linkOwner n = some port

/-- ZL_OE_m. -/
def State.oeWrite (s : State) (port e : Nat) (a : RegAcc) : State :=
  let old := (s.engine e).shutdown
  let v := a.flag 0 old
  if v = old || !s.oeMay e port v then s else if v then s.engineOff e else s.engineOn e

/-- OE_SHUTDOWN: a write of 1. -/
def execOeShutdown (e : Engine) (a : RegAcc) (s : State) : Out :=
  .next <|
    match s.pfWrites a (offOe e.val) with
    | some port => if a.bit 0 then s.oeWrite port e.val a else s
    | none => s

/-- OE_SHUTDOWN_CLEAR: a write of 0. -/
def execOeShutdownClear (e : Engine) (a : RegAcc) (s : State) : Out :=
  .next <|
    match s.pfWrites a (offOe e.val) with
    | some port => if a.bit 0 then s else s.oeWrite port e.val a
    | none => s

/-- OE_TEMP_READ (R376): at 95 °C the engine sets SHUTDOWN. -/
def execOeTempRead (e : Engine) (c : Nat) (s : State) : Out :=
  .next <|
    if !s.boot.powered then s else
    let s := s.updEngine e.val fun x => { x with temp := c }
    if 95 ≤ c && !(s.engine e.val).shutdown then s.engineOff e.val else s

/-! ## Training (R248, R249) -/

/-- The highest version that a port offers. -/
def State.linkOffer (s : State) (n : Nat) : Nat :=
  if s.featureWord.getLsbD 0 && !(s.link n).maxZl2 then 3 else 2

/-- A port may train: from Stage 2, with light, not OFF, its Keel in service (R358). -/
def State.mayTrain (s : State) (n : Nat) : Bool :=
  let l := s.link n
  2 ≤ s.boot.stage && (s.engine (n / 8)).lightOk && !l.off && !(s.engine (n / 8)).shutdown && !(s.keel (n / 16)).fenced

/-- Training begins. -/
def State.beginTraining (s : State) (n : Nat) : State :=
  ((s.updLink n fun l => { l.restart with
    state := 1, version := 0, retrain := false, trainOffer := s.linkOffer n }).failReads n).refit n

/-- LINK_TRAINING. -/
def execLinkTraining (zp : ZPort) (s : State) : Out :=
  .next <|
    let l := s.link zp.val
    if s.mayTrain zp.val && (l.retrain || !(l.state = 1 || l.state = 2)) then s.beginTraining zp.val else s

/-- An offset that the port of ALM_CTL.ZL_PORT measured steers the Almanac while SOURCE is 4; `off` is peer minus this
module (R258). (DEDUCED: log 30) -/
def State.linkOffset (s : State) (n : Nat) (off : Int) : State :=
  let s := (s.updLink n fun l => { l with offset := clampInt 2047 off, exchMissing := 0 }).refit n
  if s.alm.source = 4 && s.alm.zlPort = n then s.measured off else s

/-- LINK_UP (R248, R249): what training found. -/
def execLinkUp (zp : ZPort) (f : TrainFind) (s : State) : Out :=
  .next <|
    let n := zp.val
    if (s.link n).state ≠ 1 || !s.mayTrain n then s else
    let low := min (s.link n).trainOffer f.peerOffer
    let fell := low = 3 && !f.zl3Ok
    let s := s.updLink n fun l => { l with
      state := 2, peer := f.peer % 1024, peerPort := f.peerPort % 64, delay := min 1023 f.delay
      version := if fell then 2 else low, downgraded := l.downgraded || fell }
    let d := portDetail n (s.link n).peer
    let s := if fell then s.raiseBoth .linkDowngrade (srcLink n) d else s
    (s.raiseBoth .linkUp (srcLink n) d).linkOffset n f.offset

/-- LINK_DOWN: the port loses light, or has received no valid flit for 1 us. -/
def execLinkDown (zp : ZPort) (s : State) : Out :=
  .next <| if (s.link zp.val).state = 1 || (s.link zp.val).state = 2 then s.portDown zp.val else s

/-! ## ZL_PORT_CTL_n -/

def offZlCtl (n : Nat) : Nat := 0x1000008 + 0x40 * n

/-- The PF that may write a port's control register: from Stage 3 the owner. -/
def State.zlMay (s : State) (n port : Nat) : Bool := s.boot.stage < 3 || s.linkOwner n = some port

def State.zlCtlWrite (s : State) (n : Nat) (a : RegAcc) : State :=
  let l := s.link n
  let off := a.flag 0 l.off
  let s := s.updLink n fun l => { l with
    off := off, maxZl2 := if l.lock then l.maxZl2 else a.flag 1 l.maxZl2
    retrain := l.retrain || a.bit 2, lock := l.lock || a.bit 3 }
  if off then (if l.state = 4 then s else s.portStops n 4)
  else if l.state = 4 && !(s.engine (n / 8)).shutdown then s.updLink n fun l => { l with state := 0 }
  else s

/-- A write of a port's control register by a PF that may, under a test of the written value. -/
def State.zlCtl (s : State) (n : Nat) (a : RegAcc) (f : Bool) : State :=
  match s.pfWrites a (offZlCtl n) with
  | some port => if f && s.zlMay n port then s.zlCtlWrite n a else s
  | none => s

/-- RETRAIN: a write of 1 to RETRAIN. -/
def execRetrain (zp : ZPort) (a : RegAcc) (s : State) : Out := .next (s.zlCtl zp.val a (a.bit 2))
/-- ZL_PORT_OFF: a write of 1 to OFF. -/
def execZlPortOff (zp : ZPort) (a : RegAcc) (s : State) : Out := .next (s.zlCtl zp.val a (a.bit 0))
/-- ZL_PORT_ON: a write of 0 to OFF. -/
def execZlPortOn (zp : ZPort) (a : RegAcc) (s : State) : Out := .next (s.zlCtl zp.val a (a.hits 0 && !a.bit 0))
/-- ZL_PORT_LOCK (R405): a write of 1 to LOCK. -/
def execZlPortLock (zp : ZPort) (a : RegAcc) (s : State) : Out := .next (s.zlCtl zp.val a (a.bit 3))

/-! ## PORT_LIMIT (R250) -/

/-- The link records of a port that a running manifest's schedule uses. -/
def State.runUsesPort (s : State) (p i n : Nat) : Bool :=
  ((s.img.map Image.links).getD []).any fun r => r.port = n && r.pol = p && (r.schedule = i || r.schedule = 0xFFFF)

/-- PORT_LIMIT: a port unfit for 10 ms; manifests that start later wait for the next limit. (DEDUCED: log 52) -/
def execPortLimit (zp : ZPort) (s : State) : Out :=
  .next <|
    let n := zp.val
    match (s.link n).unfitSince with
    | none => s
    | some a =>
      if s.fit n || !s.passed a 10000000 then s else
      let hit := (List.range 64).filter fun p => (s.pol p).running.any fun e => s.runUsesPort p e.2.m.schedule n
      let s := hit.foldl (fun s p =>
        let s := (s.pol p).running.foldl (fun s e =>
          if s.runUsesPort p e.2.m.schedule n then s.fenceRun p e.1 else s) s
        s.raiseOwn .linkDown (srcLink n) p (portDetail n (s.link n).peer)) s
      s.updLink n fun l => { l with unfitSince := some s.clock }

/-! ## Transmission (R254 to R256, R265) -/

/-- The slot that a port sends next, by its tide. -/
def State.nextSlot (s : State) (n : Nat) : Nat :=
  if (s.link n).slotTide = s.tideNumber then (s.link n).slot else 0

/-- A stint record may use its slots now. -/
def State.recordRuns (s : State) (r : LinkRec) : Bool :=
  (s.pol r.pol).state ≠ 4 && (r.schedule = 0xFFFF || s.scheduleRuns r.pol r.schedule)

/-- The record with chunks to send in a slot: shared slots belong to whichever schedule runs. -/
def State.slotSender (s : State) (n slot : Nat) : Option Nat :=
  ((s.img.map Image.links).getD []).zipIdx.findSome? fun e =>
    let r := e.1
    if r.port = n && r.slotFirst ≤ slot && slot < r.slotFirst + r.slotCount && s.recordRuns r
        && !((s.link n).chunks.get [] e.2).isEmpty then some e.2 else none

/-- Send a flit in the port's slot: the header's ACK and NAK are those due. (DEDUCED: log 51) -/
def State.emitFlit (s : State) (n kind seq tide slot : Nat) (body : List Byte) : State :=
  s.updLink n fun l => { l with
    sent := flitBytes kind l.version seq ((l.rxNext + 4095) % 4096) l.nakDue.head? tide slot body
    nakDue := l.nakDue.tail }

/-- Send a new data or link-band flit through the transmit quay (R28) and keep it for resending. -/
def State.emitNew (s : State) (n kind slot : Nat) (body : List Byte) : State :=
  let seq := (s.link n).txSeq
  let s := s.emitFlit n kind seq s.tideNumber slot body
  let s := s.updLink n fun l => { l with txSeq := (seq + 1) % 4096, replay := l.replay ++ [{ seq := seq, bytes := l.sent }] }
  s.pushQuay (linkTxNo n) (.bytes (s.link n).sent)

/-- Cycles that a port loses are charged to a cause of every running hard manifest that uses it. (DEDUCED: log 36) -/
def State.chargePort (s : State) (n cycles : Nat) (k : Cause) : State :=
  (List.range 64).foldl (fun s p => s.delayRuns p (fun r => s.runUsesPort p r.m.schedule n) cycles k) s

/-- Lost slots are charged to LINK (R255, R257). (DEDUCED: log 36) -/
def State.chargeLink (s : State) (n cycles : Nat) : State := s.chargePort n cycles .link

/-- What waits at an unfit port is charged to WAIT (R250). (DEDUCED: log 36) -/
def State.chargeUnfit (s : State) (n cycles : Nat) : State := s.chargePort n cycles .wait

/-- The link transmit quay of a port is full: its writer stalls (R28). -/
def State.txFull (s : State) (n : Nat) : Bool :=
  let q := s.quay (linkTxNo n)
  quayDepth (linkTxNo n) ≤ q.entries.length || !q.waiting.isEmpty

/-- What a slot carries; where no tide runs, as in the interval after a step, an idle flit (R64). -/
def State.slotFlit (s : State) (n slot width : Nat) : State :=
  let l := s.link n
  let idle := s.emitFlit n 0 0 s.tideNumber slot []
  let full := 1024 ≤ l.replay.length
  if s.tide.boundary.isNone || 3192 ≤ slot then idle
  else if (slot < 8 || (s.slotOwner n slot).isSome) && s.fit n && s.txFull n then idle
  else if slot < 8 then
    match l.band with
    | b :: rest =>
      if 8 ≤ l.bandSent || full then idle else
      (s.emitNew n 2 slot (bandBytes s.boot.moduleId b)).updLink n fun l => { l with band := rest, bandSent := l.bandSent + 1 }
    | [] => idle
  else if (s.slotOwner n slot).isSome then
    match s.slotSender n slot with
    | some i =>
      if !s.fit n then idle.chargeUnfit n (2 * width) else if full then idle.chargeLink n (2 * width) else
      let cs := l.chunks.get [] i
      (s.emitNew n 1 slot (cs.take 7).flatten).updLink n fun l => { l with
        chunks := l.chunks.set [] i (cs.drop 7)
        chunksOut := l.chunksOut.upd 0 i fun x => x + (cs.take 7).length }
    | none => idle
  else
    match l.replay.find? fun r => r.resend with
    | some r =>
      let kind := if flitKind r.bytes = 2 then 2 else 3
      let s := s.emitFlit n kind r.seq (flitTide r.bytes) (flitSlot r.bytes) (r.bytes.drop 32)
      s.updLink n fun l => { l with
        retries := satAdd 0xFFFF l.retries 1
        replay := l.replay.map fun x => if x.seq = r.seq then { x with resend := false } else x }
    | none => idle

/-- LINK_SLOT (R255, R256): the port's next slot of the tide, once its time has come. -/
def execLinkSlot (zp : ZPort) (s : State) : Out :=
  .next <|
    let n := zp.val
    let slot := s.nextSlot n
    let l := s.link n
    if !s.counts || 3200 ≤ slot || s.alm.now % 4096 * 25 < slot * 32 then s else
    let width := if l.version = 2 then 2 else 1
    if l.state ≠ 2 then
      -- the port is not UP: what its stints would carry in the slot waits (R250)
      let s := if (s.slotSender n slot).isSome then s.chargeUnfit n (2 * width) else s
      s.updLink n fun l => { l with slot := slot + width, slotTide := s.tideNumber }
    else
    let s := if l.slotTide = s.tideNumber then s else s.updLink n fun l => { l with bandSent := 0 }
    let s := if slot < 3192 then s else s.updLink n fun l => { l with
      bandFull := if slot = 3192 then satAdd 0xFFFF l.bandFull (l.replay.filter fun r => r.resend).length else l.bandFull }
    (s.slotFlit n slot width).updLink n fun l => { l with slot := slot + width, slotTide := s.tideNumber }

/-! ## Reception (R254, R257) -/

/-- Distance of a SEQ past another. -/
def seqPast (a b : Nat) : Nat := (a + 4096 - b) % 4096

/-- ACK and NAK of a flit. -/
def LinkPort.heed (l : LinkPort) (f : List Byte) : LinkPort :=
  let ack := flitAck f
  let kept := l.replay.filter fun r => !(seqPast ack r.seq < 2048)
  { l with replay := match flitNak f with
      | some k => kept.map fun r => if r.seq = k then { r with resend := true } else r
      | none => kept }

/-- The next SEQ not yet received. -/
def advanceRx : Nat → Nat → List Nat → Nat × List Nat
  | 0, x, got => (x, got)
  | fuel + 1, x, got => if got.contains x then advanceRx fuel ((x + 1) % 4096) (got.filter (· ≠ x)) else (x, got)

/-- A SEQ arrives: gaps before it are lost, and NAK is due for each. -/
def LinkPort.gotSeq (l : LinkPort) (q now : Nat) : LinkPort :=
  let gap := (List.range (seqPast q l.rxNext)).map fun i => (l.rxNext + i) % 4096
  let new := gap.filter fun x => !l.rxGot.contains x && !l.lost.any fun e => e.1 = x
  let r := advanceRx 4096 l.rxNext (q :: l.rxGot)
  { l with
    rxNext := r.1, rxGot := r.2, nakDue := (l.nakDue.filter (· ≠ q)) ++ new
    lost := (l.lost.filter fun e => e.1 ≠ q) ++ new.map fun x => (x, now) }

/-- The Almanac value at which a flit is released (R257): slot s of tide T, plus PDMAX and 20 ns. -/
def State.releaseAt (s : State) (n : Nat) (f : List Byte) : Nat :=
  let t := s.tideNumber
  let base := t / 2 ^ 32 * 2 ^ 32 + flitTide f
  4096 * base + ceilDiv (32 * flitSlot f) 25 + (s.portDecl n).2 + 20

/-- The link receive quay of a port is full, which holds the link layer (R28). -/
def State.rxFull (s : State) (n : Nat) : Bool :=
  let q := s.quay (linkRxNo n)
  quayDepth (linkRxNo n) ≤ q.entries.length || !q.waiting.isEmpty

/-- A good data flit lands: it waits for its release, or goes into the quay at once where that has passed, in the landing
buffer while the quay is full. -/
def State.landFlit (s : State) (n : Nat) (f : List Byte) : State :=
  let at_ := s.releaseAt n f
  let wait := fun (s : State) => s.updLink n fun l => { l with landing := l.landing ++ [⟨at_, f⟩] }
  if s.alm.now < at_ then wait s
  else
    let s := s.chargeLink n (s.alm.now - at_)
    if s.rxFull n then wait s else s.pushQuay (linkRxNo n) (.bytes f)

/-- FLIT_RECEIVE (R251, R254): 256 bytes arrive; `corrected` symbols were corrected, and `uncorrected` says that a codeword
of the flit was not. -/
def execFlitReceive (zp : ZPort) (flit : List Byte) (corrected : Nat) (uncorrected : Bool) (s : State) : Out :=
  .next <|
    let n := zp.val
    if (s.link n).state ≠ 2 then s else
    let s := s.updLink n fun l => { l with corrected := l.corrected + BitVec.ofNat 64 corrected }
    if uncorrected then s.updLink n fun l => { l with uncorrected := satAdd 0xFFFF l.uncorrected 1 }
    else if !flitCheck flit then s.updLink n fun l => { l with crcFail := satAdd 0xFFFF l.crcFail 1 }
    else if !flitFieldsOk flit then s
    else
      let s := s.updLink n fun l => l.heed flit
      let k := flitKind flit
      let q := flitSeq flit
      let l := s.link n
      if k = 0 || k = 4 || 2048 ≤ seqPast q l.rxNext || l.rxGot.contains q
          || (k ≠ 2 && 1024 ≤ l.landing.length) then s else
      let s := s.updLink n fun l => l.gotSeq q s.clock
      if k = 2 then
        let s := match parseBand (flitChunks flit |>.headD []) with
          | some m => s.updLink n fun l => { l with inbox := l.inbox ++ [m] }
          | none => s
        s.addFlit n q []
      else s.landFlit n flit

/-- NAK_REPEAT (R254): gaps that still stand 1 us after their last NAK. -/
def execNakRepeat (zp : ZPort) (s : State) : Out :=
  .next <|
    let due := ((s.link zp.val).lost.filter fun e => s.passed e.2 1000).map Prod.fst
    s.updLink zp.val fun l => { l with
      nakDue := l.nakDue ++ due.filter fun x => !l.nakDue.contains x
      lost := l.lost.map fun e => if due.contains e.1 then (e.1, s.clock) else e }

/-- FLIT_RELEASE (R257): the first landed flit whose Almanac value has come goes into the receive quay; a full quay holds
it in the landing buffer (R28). -/
def execFlitRelease (zp : ZPort) (s : State) : Out :=
  .next <|
    if s.rxFull zp.val then s else
    match (s.link zp.val).landing.find? fun f => f.release ≤ s.alm.now with
    | some f => (s.updLink zp.val fun l => { l with landing := l.landing.erase f }).pushQuay (linkRxNo zp.val) (.bytes f.bytes)
    | none => s

/-! ## Incoming transactions (R261 to R264, R267) -/

/-- A transaction arrives on a port that is UP; one that came in flits leaves the list of those. (DEDUCED: log 51) -/
def State.zlTake (s : State) (n : Nat) (t : Txn) (op : Nat) (f : State → State) : State :=
  if (s.link n).state ≠ 2 || t.op ≠ op then s else
  f (s.updLink n fun l => { l with arrived := l.arrived.erase t })

/-- ZL_WRITE (R263). -/
def execZlWrite (zp : ZPort) (t : Txn) (s : State) : Out := .next (s.zlTake zp.val t 1 fun s => s.zlPerform zp.val t)
/-- ZL_READ (R261, R263). -/
def execZlRead (zp : ZPort) (t : Txn) (s : State) : Out := .next (s.zlTake zp.val t 2 fun s => s.zlPerform zp.val t)
/-- ZL_BARRIER (R263, R267). -/
def execZlBarrier (zp : ZPort) (t : Txn) (s : State) : Out := .next (s.zlTake zp.val t 4 fun s => s.zlPerform zp.val t)

/-- READ_DATA (R263, R264): the answer of the READ with its TAG; one of an older generation is late. (DEDUCED: log 39)
-/
def execReadData (zp : ZPort) (t : Txn) (s : State) : Out :=
  .next <| s.zlTake zp.val t 3 fun s =>
    let n := zp.val
    if t.dstModule ≠ s.boot.moduleId then s.updLink n fun l => { l with misrouted := satAdd 0xFFFF l.misrouted 1 } else
    match (s.link n).reads.find? fun r => r.tag = t.tag && r.chunks = t.chunks with
    | none => s
    | some r =>
      let s := s.updLink n fun l => { l with reads := l.reads.filter fun x => x.tag ≠ r.tag }
      let data := slice t.data 0 (32 * t.chunks)
      s.deliverRead r.who r.pol t.srcGen r.orphan r.va 0 (data.zipIdx.map fun e => (e.1, t.poison.getLsbD (e.2 / 32)))

/-! ## The Almanac exchange (R258, R266) -/

/-- A link-band message arrives on a port that is UP. (DEDUCED: log 51) -/
def State.bandTake (s : State) (n src : Nat) (b : BandMsg) (f : State → State) : State :=
  if (s.link n).state ≠ 2 then s else
  f (s.updLink n fun l => { l with inbox := l.inbox.erase (src, b) })

def State.sendBand (s : State) (n : Nat) (b : BandMsg) : State := s.updLink n fun l => { l with band := l.band ++ [b] }

/-- This end sends ALM_SYNC on a port: a time master on its ports, else the lower module number. -/
def State.sendsSync (s : State) (n : Nat) : Bool :=
  (s.alm.master && s.alm.masterPorts.getLsbD n) || s.boot.moduleId < (s.link n).peer

/-- HOPS that this module sends on a port (R62): 0 from a master whose SOURCE is not 4, its own HOPS from one that is
LOCKED, 15 from one that is not and from a sender that is no time master there. (DEDUCED: log 52) -/
def State.hopsOut (s : State) (n : Nat) : Nat :=
  if !(s.alm.master && s.alm.masterPorts.getLsbD n) then 15
  else if s.alm.source ≠ 4 then 0
  else if s.alm.state = 2 then s.alm.hops else 15

/-- ALM_SYNC_SEND: in the link band of every tide whose number is a multiple of 256. -/
def execAlmSyncSend (zp : ZPort) (s : State) : Out :=
  .next <|
    let n := zp.val
    if (s.link n).state ≠ 2 || s.tideNumber % 256 ≠ 0 || !s.sendsSync n then s else
    (s.updLink n fun l => { l with t1 := s.alm.now }).sendBand n (.almSync s.alm.now (s.hopsOut n))

/-- The distance from the root that an ALM_SYNC gives (R62): one more than it carries, saturating at 15; a LOCKED
module that is then 3 or more hops away returns to ACQUIRING (R63). -/
def Almanac.takeHops (a : Almanac) (carried : Nat) : Almanac :=
  let h := min 15 (carried + 1)
  if a.state = 2 && 3 ≤ h then { a with state := 1, within := 0, outside := 0, missing := 0, hops := h } else { a with hops := h }

/-- ALM_SYNC: answered with ALM_REQ; on ALM_CTL.ZL_PORT under SOURCE 4 it gives the distance from the root. -/
def execAlmSync (zp : ZPort) (src : Nat) (b : BandMsg) (s : State) : Out :=
  .next <|
    match b with
    | .almSync t1 hops => s.bandTake zp.val src b fun s =>
      let n := zp.val
      let s := s.updLink n fun l => { l with t1 := t1, t2 := s.alm.now, t3 := s.alm.now }
      let s := if s.alm.source = 4 && s.alm.zlPort = n then { s with alm := s.alm.takeHops hops } else s
      s.sendBand n (.almReq s.alm.now s.alm.now)
    | _ => s

/-- ((t2 - t1) - (t4 - t3)) / 2: the follower minus the sender of the SYNC. (DEDUCED: log 30) -/
def exchangeOffset (t1 t2 t3 t4 : Nat) : Int := (((t2 : Int) - t1) - ((t4 : Int) - t3)).tdiv 2

/-- ALM_REQ: answered with ALM_RESP; this end takes the offset of its peer. -/
def execAlmReq (zp : ZPort) (src : Nat) (b : BandMsg) (s : State) : Out :=
  .next <|
    match b with
    | .almReq t2 t3 => s.bandTake zp.val src b fun s =>
      let n := zp.val
      let t1 := (s.link n).t1
      let s := s.updLink n fun l => { l with t2 := t2, t3 := t3 }
      (s.linkOffset n (exchangeOffset t1 t2 t3 s.alm.now)).sendBand n (.almResp t1 s.alm.now)
    | _ => s

/-- ALM_RESP: the offset of the sender of the SYNC, which steers the Almanac on its ZL_PORT. (DEDUCED: log 30) -/
def execAlmResp (zp : ZPort) (src : Nat) (b : BandMsg) (s : State) : Out :=
  .next <|
    match b with
    | .almResp t1 t4 => s.bandTake zp.val src b fun s =>
      let l := s.link zp.val
      s.linkOffset zp.val (-(exchangeOffset t1 l.t2 l.t3 t4))
    | _ => s

/-- ALM_EXCHANGE_MISSING (R258, R266): the third in a row makes the port unfit, and counts as a missing reference on
ALM_CTL.ZL_PORT under SOURCE 4. -/
def execAlmExchangeMissing (zp : ZPort) (s : State) : Out :=
  .next <|
    let n := zp.val
    if (s.link n).state ≠ 2 then s else
    let s := (s.updLink n fun l => { l with exchMissing := min 3 (l.exchMissing + 1) }).refit n
    if s.alm.source = 4 && s.alm.zlPort = n then s.refMissing else s

/-! ## Notices and collectives (R269, R270) -/

/-- NOTICE: every running manifest that matches JOB, SCHEDULE_ID and DST_POLDER. -/
def execNotice (zp : ZPort) (src : Nat) (b : BandMsg) (s : State) : Out :=
  .next <|
    match b with
    | .notice job sched reason p _ => s.bandTake zp.val src b fun s =>
      let q := s.pol p
      if q.job ≠ job || job = 0 || !(reason = 1 || reason = 2) then s else
      (q.running.filter fun e => e.2.m.schedule = sched).foldl (fun s e =>
        let s := s.raiseOwn .peerNotice (srcLink zp.val) p
          (leBytes 2 job ++ leBytes 1 reason ++ leBytes 1 0 ++ leBytes 2 src)
        if reason = 1 then (s.updLag p e.1).missDeadline p e.1 else s.fenceRun p e.1) s
    | _ => s

/-- COLLECTIVE_TIMEOUT (R269): the tally wait is incomplete LIMIT tides after the step's booked landing. (DEDUCED: log
31) -/
def execCollectiveTimeout (p : Pol) (seq : Nat) (stepNo : Nat) (s : State) : Out :=
  .next <|
    let q := s.pol p.val
    let r := q.run seq
    match (s.schedule r.m.schedule).bind fun c => c.colls[stepNo]?.map fun x => (c, x) with
    | none => s
    | some (c, x) =>
      let due := r.m.tb + 4096 * r.m.startTide + 1024 + x.landing + 4096 * x.limit
      if !q.isRunning seq || r.suspended || collMet q c stepNo || s.alm.now < due then s else
      (s.raiseOwn .collectiveTimeout srcSeq p.val []).fenceRun p.val seq

/-! ## The power commons (R271) -/

def offCommons : Nat := 0x1001100

/-- ZL_COMMONS: written by the PF of the time owner. -/
def State.commonsWrite (s : State) (a : RegAcc) : State :=
  let c := s.commons
  { s with commons := { c with
      commons := if c.lock then c.commons else a.fld 48 16 c.commons
      thresh := if c.lock then c.thresh else a.fld 32 16 c.thresh
      lock := c.lock || a.bit 0 } }

/-- ZL_COMMONS_LOCK (R405). -/
def execZlCommonsLock (a : RegAcc) (s : State) : Out :=
  .next <|
    match s.pfWrites a offCommons with
    | some port => if a.bit 0 && port = s.timeOwner then s.commonsWrite a else s
    | none => s

/-- The commons runs: a number is set, and sealed mode is off. -/
def State.commonsOn (s : State) (commons : Nat) : Bool := s.commons.commons ≠ 0 && s.commons.commons = commons && !s.sealed

/-- A shift for the next epoch keeps the cap within 85-115 % of the base and within 1.5-4.8 kW. -/
def State.shiftOk (s : State) (shift : Int) : Bool :=
  let base := s.baseCap
  !s.pwr.dflt && (capLow base : Int) ≤ base + shift && base + shift ≤ (capHigh base : Int)

/-- POWER_REPORT: the lateness that a peer measured for this module. -/
def execPowerReport (zp : ZPort) (src : Nat) (b : BandMsg) (s : State) : Out :=
  .next <|
    match b with
    | .report lateness commons => s.bandTake zp.val src b fun s =>
      if s.commonsOn commons then s.updLink zp.val fun l => { l with heard := some lateness } else s
    | _ => s

/-- POWER_OFFER: the first of the epoch that the limits allow is answered with POWER_TAKE. -/
def execPowerOffer (zp : ZPort) (src : Nat) (b : BandMsg) (s : State) : Out :=
  .next <|
    match b with
    | .offer watts epoch commons => s.bandTake zp.val src b fun s =>
      if !s.commonsOn commons || s.commons.taken || epoch ≠ s.commons.epoch || !s.shiftOk (s.commons.nextShift + watts) then s else
      let s := { s with commons := { s.commons with taken := true, nextShift := s.commons.nextShift + watts } }
      (s.updLink zp.val fun l => { l with shift := l.shift + watts }).sendBand zp.val (.take watts epoch commons)
    | _ => s

/-- POWER_TAKE: the giver's cap falls by the amount at the start of the next epoch. -/
def execPowerTake (zp : ZPort) (src : Nat) (b : BandMsg) (s : State) : Out :=
  .next <|
    match b with
    | .take watts epoch commons => s.bandTake zp.val src b fun s =>
      if !s.commonsOn commons || (s.link zp.val).offered ≠ some watts || epoch ≠ s.commons.epoch then s else
      let s := { s with commons := { s.commons with nextShift := s.commons.nextShift - watts } }
      s.updLink zp.val fun l => { l with offered := none, shift := l.shift - watts }
    | _ => s

/-- Ports of direct peers: UP, one for each peer, the lowest. -/
def State.peerPorts (s : State) : List Nat :=
  (List.range 64).filter fun n => (s.link n).state = 2 &&
    !(List.range n).any fun m => (s.link m).state = 2 && (s.link m).peer = (s.link n).peer

/-- Shifts whose port was unfit for two epochs lapse. -/
def State.lapseShifts (s : State) : State :=
  (List.range 64).foldl (fun s n =>
    let l := s.link n
    if l.shift = 0 then s
    else if s.fit n then s.updLink n fun l => { l with unfitEpochs := 0 }
    else if 1 ≤ l.unfitEpochs then
      let s := { s with commons := { s.commons with nextShift := s.commons.nextShift - l.shift } }
      s.updLink n fun l => { l with shift := 0, unfitEpochs := 0 }
    else s.updLink n fun l => { l with unfitEpochs := 1 }) s

/-- The offer of the epoch (R271 step 3): to the latest peer, where this module's own lateness, the mean of what its peers
measured, is smaller by more than THRESH. -/
def State.makeOffer (s : State) (late : List (Nat × Nat)) (heard : List Nat) : State :=
  match late with
  | [] => s
  | x :: xs =>
    let worst := xs.foldl (fun b e => if b.2 < e.2 then e else b) x
    let own := if heard.isEmpty then 0 else heard.sum / heard.length
    let watts := s.baseCap / 64
    if heard.isEmpty || worst.2 ≤ own + 16 * s.commons.thresh || !s.shiftOk (s.commons.nextShift - watts) then s else
    (s.updLink worst.1 fun l => { l with offered := some watts }).sendBand worst.1
      (.offer watts s.commons.epoch s.commons.commons)

/-- POWER_EPOCH: at a tide whose number is a multiple of 256 the shifts of the last epoch take effect, reports go out
and an offer is made. (DEDUCED: log 31) -/
def execPowerEpoch (s : State) : Out :=
  .next <|
    if s.boot.stage < 3 || s.tide.boundary ≠ some s.alm.now || s.tideNumber % 256 ≠ 0 then s else
    let s := s.lapseShifts
    let on := s.commonsOn s.commons.commons
    let s := if on then s else { s with
      commons := { s.commons with nextShift := 0 }
      links := s.links.mapAll {} fun _ l => { l with shift := 0 } }
    let s := { s with commons := { s.commons with
      shift := s.commons.nextShift, epoch := s.tideNumber / 256 % 2 ^ 16, taken := false } }
    let ports := s.peerPorts
    let late := (ports.filter fun n => (s.link n).heard.isSome).map fun n => (n, (s.link n).lateness)
    let heard := ports.filterMap fun n => (s.link n).heard
    let s := { s with links := s.links.mapAll {} fun _ l => { l with offered := none } }
    let s := if on then
        (ports.foldl (fun s n => s.sendBand n (.report (s.link n).lateness s.commons.commons)) s).makeOffer late heard
      else s
    let s := { s with links := s.links.mapAll {} fun _ l => { l with heard := none, lateness := 0 } }
    s.recap.reweir

end Sys2Proof.Machine
end

