-- ==== Sys2Proof/Machine/Boot.lean ====
section
/-! DEFINITION. Start-up and image loading (chapter 15), power-good and insertion (R382, R388), and the failure of the Wharf die
(R360). -/

namespace Sys2Proof.Machine

open Sys2Proof

/-- A new stage is reported, and vector 2 sent from each PF (R318). -/
def State.enterStage (s : State) (n : Nat) : State :=
  ({ s with boot := { s.boot with
      stage := n, atMs := min 0xFFFFFFFF ((s.clock - s.boot.goodAt) / 1000000) } }).stageVector

/-- The work of the next stage fails: the module stays, with FAILED and the cause. -/
def State.failStage (s : State) (fail : Nat) : State :=
  { s with boot := { s.boot with failed := true, fail := fail } }

def State.setMeas (s : State) (i : Nat) (d : List Byte) : State :=
  { s with boot := { s.boot with meas := s.boot.meas.set [] i d } }

/-! ## Power-good (R318, R388) -/

/-- The package feature set: the AND of the dies whose fuses are read (R337). -/
def State.packageSet (s : State) : Word :=
  ((List.range 13).filter fun i => !(s.nv.dies.get {} i).unread).foldl (fun w i => w &&& (s.nv.dies.get {} i).features)
    (BitVec.allOnes 64)

/-- Stage 0: straps and fuses are read; firmware verified by FW_COMMIT becomes active (R410); the Almanac starts at 0. -/
def State.stage0 (s : State) (straps : BitVec 10) : State :=
  let pend := s.nv.fwPending
  let s := { s with
    nv := { s.nv with fwSlot := if pend then 1 - s.nv.fwSlot else s.nv.fwSlot, fwPending := false }
    alm := {}
    boot := { s.boot with
      pwrGood := true, powered := true, stage0 := true, goodAt := s.clock, moduleId := straps.toNat
      package := s.packageSet } }
  (s.setMeas 0 (Crypto.shake256 (Config.measuredBytes 0 []))).enterStage 0

/-- POWER_GOOD_RISE: accepted after 10 ms low and with the input in 44-56 V; otherwise ignored until PWRGOOD_IN falls.
(DESIGN CHOICE: log 5) -/
def execPowerGoodRise (straps : BitVec 10) (lowNs : Nat) (s : State) : Out :=
  .next <|
    if s.boot.pwrGood || !s.boot.inserted then s
    else if 10000000 ≤ lowNs && 440 ≤ s.pwr.volts && s.pwr.volts ≤ 560 && !s.boot.powered then s.stage0 straps
    else { s with boot := { s.boot with pwrGood := true } }

/-- POWER_GOOD_FALL: a low under 10 us is ignored; a longer one stops the converters. -/
def execPowerGoodFall (lowNs : Nat) (s : State) : Out :=
  .next <|
    if lowNs < 10000 || !s.boot.pwrGood then s else
    let low := s.boot.tripLow
    let at_ := s.boot.tripAt
    let s := s.powerOff
    { s with boot := { s.boot with pwrGood := false, tripLow := low, tripAt := at_ } }

/-- MODULE_INSERTION (R382): with PWRGOOD_IN low the module only charges its input; with it high, insertion is a loss of
power. -/
def execModuleInsertion (s : State) : Out :=
  .next <|
    if s.boot.inserted then s else
    let s := if s.boot.pwrGood then s.powerOff else s
    { s with boot := { s.boot with inserted := true } }

/-! ## Stage 1 (R320) -/

/-- A firmware slot passes. -/
def State.firmwareOk (s : State) (slot : Nat) : Bool :=
  let fw := s.nv.fwBytes.get [] slot
  Config.firmwareVerifies fw && s.nv.fwFloor ≤ Config.firmwareSvn fw

/-- What slot 2 measures: straps, and each die's revision, features, fused spares and map-out. -/
def State.packageRecord (s : State) : List Nat :=
  s.boot.moduleId :: ((List.range 13).flatMap fun i => [(s.nv.dies.get {} i).rev, (s.nv.dies.get {} i).features.toNat])
    ++ (s.nv.fusedSpares.flatMap fun e => [e.1, e.2]) ++ s.nv.fusedPcs.flatMap fun e => [e.1, e.2.toNat]

/-- Stage 1 with the firmware of the active slot: slots 1 and 2 are measured, and LASER_EN goes high (R247). -/
def State.stage1 (s : State) : State :=
  let s := s.setMeas 1 (Crypto.shake256 s.runningFirmware)
  let s := s.setMeas 2 (Crypto.shake256 (Config.measuredBytes 2 s.packageRecord))
  let s := (List.range 8).foldl (fun s m => s.updEngine m fun x => { x with laserEn := !x.shutdown }) s
  s.enterStage 1

/-- STAGE_1: the active slot is verified, then the other, which becomes active. -/
def execStage1 (s : State) : Out :=
  .next <|
    if !s.boot.stage0 || s.boot.stage ≠ 0 || s.boot.failed then s
    else if s.firmwareOk s.nv.fwSlot then s.stage1
    else if s.firmwareOk (1 - s.nv.fwSlot) then
      let s := { s with nv := { s.nv with fwSlot := 1 - s.nv.fwSlot }, boot := { s.boot with fail := 1 } }
      (s.raiseBoth .firmwareFallback 0x2205 []).stage1
    else s.failStage 2

/-! ## Stage 2 (R14 to R17, R182, R321) -/

/-- What the test of a bundle leaves: the spares it chose and its state. -/
def State.tested (s : State) (f : Stage2Find) (b : Nat) : BundleSt :=
  match f.lanes.find? fun x => x.bundle = b with
  | none => { state := 1 }
  | some x =>
    match s.steer x with
    | some n => { chosen := n, state := 1 }
    | none => { state := 2 }

/-- A join has lost both its forwarding paths. -/
def joinLost (paths : BitVec 16) (j : Nat) : Bool := !paths.getLsbD (2 * j) && !paths.getLsbD (2 * j + 1)

/-- A Keel's culvert to the Wharf is lost: one of its bundles, or both forwarding paths. (DEDUCED: log 58) -/
def State.wharfCut (s : State) (k : Nat) : Bool :=
  (s.bundle (2080 + 2 * k)).state = 2 || (s.bundle (2081 + 2 * k)).state = 2 || joinLost s.boot.paths (4 + k)

/-- Why a Keel is fenced at Stage 2, if it is: 1 a forwarding path, 2 a bundle (R17). (DEDUCED: log 58) -/
def State.keelCause (s : State) (k : Nat) : Option Nat :=
  if (joinsOf k).any (joinLost s.boot.paths) then some 1 else if s.wharfCut k then some 2 else none

/-- Stacks train; pseudo-channels are mapped out by fuse or for failing (R182). -/
def State.trainStacks (s : State) (f : Stage2Find) : State :=
  let s := (List.range 24).foldl (fun s i =>
    let bad := ((f.pcs.filter fun x => x.1 = i).map Prod.snd).foldl (· ||| ·) (s.nv.fusedPcs.get 0 i)
    s.updStack i fun t => { t with
      out := bad, active := 64 - popCount 64 bad.toNat, trained := !(s.keel (i / 6)).fenced }) s
  (List.range 4).foldl (fun s k =>
    let cap := s.keelGiB k
    let n := ((List.range 48).filter fun q => s.nq k q ≠ 0).length
    s.updKeel k fun c => if c.fenced then { c with capacity := 0, groups := 0 } else { c with capacity := cap, groups := n }) s

/-- The hold group: the lowest whole channel group of the lowest Keel in service that has one (R321). -/
def State.findHold (s : State) : Option Nat :=
  (List.range 4).findSome? fun k =>
    if (s.keel k).fenced then none else
    ((List.range 48).find? fun q => s.nq k q = 8).map fun q => s.groupBase k q

/-- Zero memory and its marks at the local addresses that `f` names. -/
def State.zero (s : State) (f : Nat → Bool) : State :=
  { s with mem := memClear s.mem f, marks := s.marks.filter fun e => !f (e.1 * 1024) }

/-- STAGE_2: the tests' findings are taken; a failure leaves the module at Stage 1. (DEDUCED: log 58) -/
def execStage2 (f : Stage2Find) (s : State) : Out :=
  .next <|
    if s.boot.stage ≠ 1 || s.boot.failed || s.boot.wharfFailed then s else
    let old := s
    let s := { s with
      bundles := (List.range 2088).map fun b => (b, old.tested f b)
      boot := { s.boot with paths := f.paths, granaryOk := f.granaryOk } }
    if (List.range 4).all s.wharfCut then s.failStage 3 else
    let s := (List.range 4).foldl (fun s k =>
      match s.keelCause k with
      | some cause => s.fenceKeel k cause
      | none => s) s
    let s := (List.range 8).foldl (fun s d =>
      if s.bundles.any fun e => e.1 / 256 = d && e.2.state = 2 then s.fenceDie d 2 else s) s
    let s := s.trainStacks f
    if !s.boot.granaryOk then
      let (cause, s) := s.free 16
      s.failStage cause.toNat
    else
      match s.findHold with
      | none => s.failStage 4
      | some base =>
        let s := s.zero fun a => base ≤ a && a < base + 2 * halfHold
        let s := { s with boot := { s.boot with holdBase := some base } }
        let chosen := (s.bundles.filter fun e => e.2.chosen ≠ 0).flatMap fun e => [e.1, e.2.chosen]
        let outs := (List.range 24).map fun i => (s.stack i).out.toNat
        (s.setMeas 6 (Crypto.shake256 (Config.measuredBytes 6 (chosen ++ outs ++ [base])))).enterStage 2

/-! ## Loading an image (R322 to R325) -/

/-- A load runs. -/
def State.loads (s : State) : Bool := s.boot.loading.isSome || (s.load 0).busy || (s.load 1).busy

/-- The charter in force lets a port load at Stage 4, with the other PF's consent where LOADERS is 0. -/
def State.mayLoad (s : State) (port : Nat) : Bool :=
  match s.charter.loaders with
  | 0 => (s.load (otherPort port)).consent
  | 3 => true
  | n => n = port + 1

/-- Every tenant is CLOSED or UNBOUND, and P0 and P1 are disabled and idle. -/
def State.quiet (s : State) : Bool :=
  ((List.range 64).drop 2).all (fun p => (s.pol p).state ≤ 1)
    && [0, 1].all fun p => !(s.pol p).enable && (s.pol p).pending.isEmpty && (s.pol p).running.isEmpty

/-- The STATUS of a refused GO; none where it is accepted (R322). -/
def State.loadRefusal (s : State) (port : Nat) : Option Nat :=
  if s.loads then some 1
  else if s.boot.stage = 2 then none
  else if s.boot.stage = 4 && s.mayLoad port && s.quiet then none
  else some 3

/-- Where the image of a port's load begins. -/
def State.loadBase (s : State) (port : Nat) : Nat :=
  s.boot.holdBase.getD 0 + (if s.boot.stage = 4 then 1 - s.boot.imageHalf else port) * halfHold

/-- The bytes that the header's LENGTH spans; the header alone where LENGTH is out of range. -/
def State.stagedImage (s : State) (base : Nat) : List Byte :=
  let len := leNat (memRead s.mem (base + 0x10) 8)
  memRead s.mem base (if 0x2000 ≤ len && len ≤ halfHold then len else 0x2000)

/-- A check fails (R323). -/
def State.rejectLoad (s : State) (port : Nat) (r : Reject) : State :=
  let s := s.updLoad port fun c => { c with
    busy := false, status := 2, reason := r.reason % 256, sect := r.sect % 256, record := r.record % 2 ^ 32 }
  if s.boot.stage ≠ 4 then s else
  s.raise .imageReject 0x2205 (supervisorOf port) (supervisorOf port)
    (leBytes 1 r.reason ++ leBytes 1 r.sect ++ leBytes 2 0 ++ leBytes 4 r.record)

/-- Every check has passed: at Stage 4 the sequencer stops, STAGE reads 2 and slots 3 to 5 become zero (R324 step 1). -/
def State.acceptLoad (s : State) (port : Port) (g : Image) : State :=
  let half := if s.boot.stage = 4 then 1 - s.boot.imageHalf else port.val
  let s := if s.boot.stage = 4 then
      ({ ((s.setMeas 3 []).setMeas 4 []).setMeas 5 [] with tide := { s.tide with open_ := false } }).enterStage 2
    else s
  { s with
    boot := { s.boot with
      loads := s.boot.loads.upd {} port.val fun c => { c with busy := true }
      loading := some port, loadImage := some g, loadHalf := half } }

/-- GO in BOOT_LOAD_CTL. `cut` says that a reset of the port arrives before every check has passed (R325). (DEDUCED:
log 58) -/
def State.loadGo (s : State) (port : Port) (cut : Bool) : State :=
  match s.loadRefusal port.val with
  | some st => s.updLoad port.val fun c => { c with status := st }
  | none =>
    if cut then s.updLoad port.val fun c => { c with status := 4 } else
    match s.checkImage port.val (s.stagedImage (s.loadBase port.val)) with
    | .error r => s.rejectLoad port.val r
    | .ok g => s.acceptLoad port g

/-- IMAGE_LOAD_GO (R322, R323, R325). -/
def execImageLoadGo (port : Port) (cut : Bool) (s : State) : Out :=
  .next <| if s.srcReaches (.pf port) then s.loadGo port cut else s

/-- CONSENT (R322). -/
def execConsent (port : Port) (s : State) : Out :=
  .next <| if s.srcReaches (.pf port) then s.updLoad port.val fun c => { c with consent := true } else s

/-! ## Stage 3 (R324) -/

/-- A polder as the charter binds it: what software wrote to its registers stays, its rings stop, its generation and
tallies are 0. -/
def Polder.bound (q : Polder) (p : Nat) (r : PolRec) : Polder :=
  { ({} : Polder) with
    state := if 2 ≤ r.port then 0 else if p < 2 then 2 else 1
    port := r.port, vf := r.vf, share := r.share
    ringBase := q.ringBase, ringSize := q.ringSize, stale := q.stale, rejects := q.rejects, warn := q.warn
    requireLock := q.requireLock, warnNow := q.warn, lockNow := q.requireLock, job := q.job, hi := q.hi, lo := q.lo, rd := q.rd, wr := q.wr
    saveBase := q.saveBase, replays := q.replays, slips := q.slips, emptyLate := q.emptyLate, slipHeld := q.slipHeld
    deadReads := q.deadReads, lateCount := q.lateCount }

/-- The image's settings of Mill die d; in sealed mode its step and level are fixed (R303, R374). -/
def State.setDie (s : State) (g : Image) (d : Nat) : State :=
  let e := g.dieSets.getD d {}
  let s := s.updMill d fun c => { c with
    ladder := e.ladder, stagger := e.stagger, hold := e.hold, quad := 0, ganged := false, paired := false, rung := []
    issued := 0, ladderAt := [], lastIssue := [], ops := [], runsTo := [], changeTo := [], cycles := [], results := [], resultPoison := [] }
  s.updDiePower d fun p =>
    if g.charter.sealedMode then
      { p with step := e.sealStep, changing := none, moveDue := false, sealLevel := e.sealLevel, sealOn := true }
    else { p with sealLevel := 64, sealOn := false }

/-- Steps 2 and 3: memory outside the image's half is zeroed, everything the image defines is built. (DEDUCED: log 58)
-/
def State.build (s : State) (g : Image) : State :=
  let keep := s.boot.holdBase.getD 0 + s.boot.loadHalf * halfHold
  let s := s.zero fun a => !(keep ≤ a && a < keep + halfHold)
  let old := s
  let s := { s with
    img := some g, gran := [], bins := [], shadow := [], txns := [], net := [], reqs := []
    land := { s.land with entries := [], caches := [], walks := [], misses := [], serial := 0 }
    pols := (List.range 64).foldl (fun m p => m.set {} p ((old.pol p).bound p (g.charter.pols.getD p {}))) []
    hands := [], stations := [], stints := [], collectors := []
    tide := { digest := leAt g.tableDigest 0 4, stints := g.tide.length, loaded := true } }
  let s := { s with
    keels := (List.range 4).foldl (fun m k => m.upd {} k fun c => { c with tier := g.tiers.getD k 0, trackers := [] }) s.keels
    links := s.links.mapAll {} fun _ l => { l with chunks := [], partialTxn := [], heldTxns := [], reads := [] } }
  ((List.range 8).foldl (fun s d => s.setDie g d) s).recap.reweir

/-- RAISE_FLOOR (R326): the owner key's floor becomes SVN. -/
def State.raiseFloor (s : State) (g : Image) : State :=
  match s.ownerSlot g with
  | some n =>
    if g.raiseFloor then
      { s with nv := { s.nv with keys := s.nv.keys.upd {} n fun k => { k with floor := g.svn } } }
    else s
  | none => s

/-- Every link port: its fitness under the new table, and training again where its offer has changed (R249, R336). -/
def State.relink (s : State) : State :=
  (List.range 64).foldl (fun s n =>
    let l := s.link n
    if (l.state = 1 || l.state = 2) && s.linkOffer n ≠ l.trainOffer then s.beginTraining n else s.refit n) s

/-- STAGE_3: the load of a verified image completes; a reset that waited for it runs (R325). (DEDUCED: log 58) -/
def execStage3 (s : State) : Out :=
  .next <|
    match s.boot.loading, s.boot.loadImage with
    | some port, some g =>
      let s := (s.build g).raiseFloor g
      let s := ((s.setMeas 3 g.keyMeasure).setMeas 4 g.measure).setMeas 5 g.charterMeasure
      let reset := s.boot.resetAfterLoad
      let done := fun (c : LoadCtl) => { c with consent := false }
      let loads := ((s.boot.loads.upd {} 0 done).upd {} 1 done).set {} port.val {}
      let s := { s with boot := { s.boot with
        imageHalf := s.boot.loadHalf, loadedBy := port.val, loading := none, loadImage := none, resetAfterLoad := none
        loads := loads } }
      let s := s.relink.enterStage 3
      if reset.isSome then s.resetSteps port.val else s
    | _, _ => s

/-- STAGE_4 (R318): pickup starts. -/
def execStage4 (s : State) : Out :=
  .next <| if s.boot.stage = 3 then s.enterStage 4 else s

/-! ## Failure of the Wharf die (R360) -/

/-- WHARF_FAILURE: only the oscillator runs; the module stands at Stage 0 with FAIL 6 until PWRGOOD_IN falls and
rises. (DEDUCED: log 54) -/
def execWharfFailure (s : State) : Out :=
  .next <|
    if !s.boot.stage0 then s else
    let t := s.powerOff
    let t := { t with
      alm := { ({} : Almanac) with now := s.alm.now }
      boot := { t.boot with
        powered := true, stage0 := true, goodAt := s.boot.goodAt, moduleId := s.boot.moduleId, package := s.boot.package
        meas := s.boot.meas.filter fun e => e.1 = 0, failed := true, fail := 6, wharfFailed := true }
      pmbus := s.pmbus }
    (t.enterStage 0).latchStatus

end Sys2Proof.Machine
end

