-- ==== Sys2Proof/Machine/Causeway.lean ====
section
/-! DEFINITION. The Causeway (chapter 7): a stint's occurrence carries its owner's traffic, slips and holds; and the
writing and reading of quays (R28 to R31). -/

namespace Sys2Proof.Machine

open Sys2Proof

/-! ## Stints -/

/-- A segment or spine belongs to a fenced die (R156). -/
def State.segmentFenced (s : State) (seg : Nat) : Bool :=
  if seg < 0x20 then (s.mill (seg % 8)).fenced || (s.keel (seg % 8 / 2)).fenced
  else if seg < 0x28 then (segmentKeels seg).any fun k => (s.keel k).fenced
  else if seg < 0x30 then (s.keel ((seg - 0x28) / 2)).fenced
  else if seg < 0x38 then (s.mill (seg - 0x30)).fenced
  else if seg < 0x3C then (s.keel (seg - 0x38)).fenced
  else false

/-- The slots of a stint pass empty (R156), as all do where no tide runs (R64): a frozen polder, a schedule that does not
run, a fenced die's segment or spine anywhere on its path. -/
def State.stintIdle (s : State) (t : Stint) : Bool :=
  s.tide.boundary.isNone || (s.pol t.pol).state = 4 || (t.schedule ≠ 0xFFFF && !s.scheduleRuns t.pol t.schedule)
    || (pathOf s.table t).any fun u => s.segmentFenced u.segment

/-- A control class (R151). -/
def controlClass (c : Nat) : Bool := 2 ≤ c && c ≤ 6

/-- Slots of an occurrence that begins at a cycle: on control lanes the cycles numbered 63 mod 64 belong to the module
band (R154). (DEDUCED: log 50) -/
def occurrenceSlots (t : Stint) (cycle : Nat) : Nat :=
  let own := (List.range t.length).filter fun i => !(controlClass t.cls && (cycle + i) % 64 = 63)
  own.length * t.laneCount

/-- Lines in the slip buffer that a spine holds for the segment by which a stint's data entered it, beside those of stint
i itself (R158). -/
def State.slippedElsewhere (s : State) (i : Nat) (seg : Option Nat) : Nat :=
  (s.table.zipIdx.map fun e =>
    if e.2 ≠ i && enteredBy s.table e.1 = seg then (s.stint e.2).slipped else 0).sum

/-- The slip buffer that holds the data of a stint, as a segment, is full; the source's own storage never is. -/
def State.slipFull (s : State) (i : Nat) (t : Stint) : Bool :=
  match enteredBy s.table t with
  | none => false
  | some seg => 256 ≤ s.slippedElsewhere i (some seg) + (s.stint i).slipped

/-- STINT_OCCURRENCE (R150, R152, R153, R156, R158): at stint `index`'s occurrence beginning at `cycle` of the tide,
its owner has `ready` more bytes, and the source of `late` slots is late. What it carries is queued for the next hop,
and stays where the slip buffer of the next spine is full; the slots that replays moved past its end are lost. What it
does not carry waits in the slip buffer, and beyond 256 lines at the sender. (DEDUCED: log 50) -/
def execStintOccurrence (index cycle ready late : Nat) (s : State) : Out :=
  .next <|
    match s.table[index]? with
    | none => s
    | some t =>
      if !s.tide.loaded || cycle % 2 ^ t.period ≠ t.start || 4096 ≤ cycle then s
      else if s.stintIdle t then s.updStint index fun x => { x with queued := x.queued + ready }
      else
      let x := s.stint index
      let next := nextHop s.table t
      let full := next.any fun j => s.slipFull j (s.table.getD j t)
      let slots := occurrenceSlots t cycle - x.moved * t.laneCount
      let empty := min late slots
      let have_ := x.queued + ready
      let sent := if full then 0 else min have_ (32 * (slots - empty))
      let rest := have_ - sent
      let room := 256 - s.slippedElsewhere index (enteredBy s.table t)
      let lines := ceilDiv rest 1024
      let s := s.updStint index fun x => { x with
        queued := rest, moved := 0
        slipped := if (enteredBy s.table t).isNone then 0 else min lines room }
      let s := match next with
        | some j => s.updStint j fun x => { x with queued := x.queued + sent }
        | none => s
      let held := full || ((enteredBy s.table t).isSome && room < lines)
      let s := s.updPol t.pol fun q => { q with
        emptyLate := satAdd 0xFFFF q.emptyLate empty
        slips := if rest = 0 then q.slips else satAdd 0xFFFF q.slips 1
        slipHeld := if rest ≠ 0 && held then satAdd 0xFFFF q.slipHeld (2 ^ t.period) else q.slipHeld }
      if rest = 0 || empty = 0 then s else s.delayRuns t.pol (s.strikes t) (2 ^ t.period) .wait

/-! ## Quays -/

/-- The domain on a quay's far side has stopped (R31): a fenced stack, alone or with its Keel, or a port's PCLK. -/
def State.quayStopped (s : State) (q : Quay) : Bool :=
  let down := fun i => (s.stack i).fenced || (s.keel (i / 6)).fenced
  match q with
  | .hbmCmdOut i => down i.val
  | .hbmStatus i => down i.val
  | .hbmWrite g => down (g.val / 8)
  | .hbmRead g => down (g.val / 8)
  | .hostOut p => s.hostDown p.val
  | .hostIn p => s.hostDown p.val
  | _ => false

/-- The stint whose slot the tide table assigns to the reading of an inbound quay now: one of the four MCLK cycles of
this ACLK cycle lies in an occurrence of it, and its slots do not pass empty (R29, R156). (DEDUCED: log 50) -/
def State.quaySlot (s : State) (n : Nat) : Option Nat :=
  match s.tide.boundary with
  | none => none
  | some tb => (s.table.zipIdx.find? fun e =>
      readsQuay s.table e.1 n && !s.stintIdle e.1
        && (List.range 4).any fun i => occursAt e.1 (s.alm.now - tb + i)).map Prod.snd

/-- QUAY_WRITE (R28, R31): an entry enters a quay; a full quay stalls its writer; an entry for a stopped domain completes
at once. -/
def execQuayWrite (q : Quay) (e : List Byte) (s : State) : Out :=
  .next <|
    let n := quayNo q
    if !s.boot.stage0 || e.length ≠ quayEntry n then s
    else if s.quayStopped q then s.updQuay n fun x => { x with flushed := x.flushed + 1 }
    else s.pushQuay n (.bytes e)

/-- A slot comes and the entry has not: it passes empty, and what the stint still has to bring waits for its next
occurrence (R29). -/
def State.emptySlot (s : State) (i : Nat) : State :=
  match s.table[i]? with
  | none => s
  | some t =>
    if (s.stint i).queued = 0 then s else
    let s := s.updPol t.pol fun q => { q with emptyLate := satAdd 0xFFFF q.emptyLate 1 }
    s.delayRuns t.pol (s.strikes t) (2 ^ t.period) .wait

/-- QUAY_READ (R29): the oldest entry is read, and a stalled writer's entry takes its place. The MCLK side reads an inbound
quay in a slot of its own only. A flit read from a link receive quay goes to the assembly of its transactions. -/
def execQuayRead (q : Quay) (s : State) : Out :=
  .next <|
    let n := quayNo q
    match inboundQuay n, s.quaySlot n with
    | true, none => s
    | inbound, slot =>
      let t := s.updQuay n QuaySt.pop
      match q, (s.quay n).entries with
      | .linkRx p, .bytes b :: _ => t.takeFlit p.val b
      | _, [] => match inbound, slot with
        | true, some i => s.emptySlot i
        | _, _ => t
      | _, _ => t

end Sys2Proof.Machine
end

