-- ==== Sys2Proof/Machine/Operands.lean ====
section
/-! DEFINITION. The operands of a Hand's instructions (chapter 6): lane registers, crew registers, flags and the
selected lanes, each with its poison (R124, R127); when a crew may issue (R125); faults of a kernel (R145 to R147). -/

namespace Sys2Proof.Machine

open Sys2Proof

/-! ## Registers -/

/-- x0 reads as 0. -/
def Hand.rx (h : Hand) (r l : Nat) : Lane := if r = 0 then 0 else h.x.get 0 (16 * r + l)
def Hand.px (h : Hand) (r l : Nat) : Bool := r ≠ 0 && h.xp.get false (16 * r + l)

/-- A write to x0 is ignored. -/
def Hand.wx (h : Hand) (r l : Nat) (v : Lane) (p : Bool) : Hand :=
  if r = 0 then h else { h with x := h.x.set 0 (16 * r + l) v, xp := h.xp.set false (16 * r + l) p }

/-- w0 reads as 0. -/
def Hand.rw (h : Hand) (r : Nat) : Word := if r = 0 then 0 else h.w.get 0 r
def Hand.pw (h : Hand) (r : Nat) : Bool := r ≠ 0 && h.wp.get false r
def Hand.ww (h : Hand) (r : Nat) (v : Word) (p : Bool) : Hand :=
  if r = 0 then h else { h with w := h.w.set 0 r v, wp := h.wp.set false r p }

/-- f0 reads as all ones. -/
def Hand.rf (h : Hand) (r : Nat) : BitVec 16 := if r = 0 then 0xFFFF else h.f.get 0 r
def Hand.pf (h : Hand) (r : Nat) : Bool := r ≠ 0 && h.fp.get false r
def Hand.wf (h : Hand) (r : Nat) (v : BitVec 16) (p : Bool) : Hand :=
  if r = 0 then h else { h with f := h.f.set 0 r v, fp := h.fp.set false r p }

/-- The lanes that a lane instruction acts on: the active mask and FSEL, or its complement (R124). (DEDUCED: log 44)
-/
def Hand.select (h : Hand) (fsel : Nat) (finv : Bool) : List Nat :=
  bitsOf 16 (h.active &&& (if finv then ~~~(h.rf fsel) else h.rf fsel)).toNat

/-- A lane has a register group of `n` registers from r that is poisoned. -/
def Hand.pxs (h : Hand) (r n l : Nat) : Bool := (List.range n).any fun i => h.px (r + i) l

/-- The value of `n` registers from r, the first lowest. -/
def Hand.rxs (h : Hand) (r n l : Nat) : Nat := ((List.range n).map fun i => (h.rx (r + i) l).toNat * 2 ^ (32 * i)).sum

/-- Registers that an access of SIZE takes (R124). -/
def sizeRegs (size : Nat) : Nat := if size = 3 then 2 else if size = 4 then 4 else 1
def sizeBytes (size : Nat) : Nat := 2 ^ size

/-- The next instruction. -/
def Hand.next (h : Hand) : Hand := { h with pc := h.pc + 1 }

/-! ## Issue (R117, R125) -/

/-- A lane register waits for a load or an atomic that has not returned. -/
def Hand.pendingX (h : Hand) (r : Nat) : Bool :=
  (h.misses.any fun m => m.dests.any fun d => d.reg ≤ r && r < d.reg + (if d.size = 8 then 2 else 1))
    || (h.atoms.any fun a => a.dests.any fun d => d.2.1 ≤ r && r < d.2.1 + (if a.size = 8 then 2 else 1))

/-- The crew issues its next instruction: its task runs and waits at nothing, its manifest is not suspended (R305),
none of its edges waits at the sluice (R341), its die is in service; nothing proceeds but an access at the addresses
`vas` whose translation it waits for (R239). (DESIGN CHOICE: log 43) -/
def State.issuesAt (s : State) (h : Nat) (vas : List Nat) : Bool :=
  let c := s.hand h
  c.busy && c.running && c.wait = .none && (s.pol c.pol).isRunning c.runSeq
    && !((s.pol c.pol).run c.runSeq).suspended && !s.held (srcHand h) c.pol && !(s.mill (h / 1024)).fenced
    && s.land.walks.all fun w => w.engine ≠ .hand h || vas.contains w.va

/-- DESIGN CHOICE: log 43. -/
def State.issues (s : State) (h : Nat) : Bool := s.issuesAt h []

/-- An instruction that touches the lane registers `xs` issues once each of them is there. (DESIGN CHOICE: log 43) -/
def State.ready (s : State) (h : Nat) (xs : List Nat) : Bool := s.issues h && !xs.any (s.hand h).pendingX

/-! ## Faults (R145 to R147) -/

/-- Detail bytes of R147: bytes 26-27 and 28-29 as given. -/
def Hand.detail (c : Hand) (h m sub : Nat) : List Byte :=
  leBytes 1 (h / 1024) ++ leBytes 1 c.kernel ++ leBytes 2 (h % 1024) ++ leBytes 4 (ofSigned 32 c.pc)
    ++ leBytes 2 c.active.toNat ++ leBytes 2 m ++ leBytes 2 sub ++ leBytes 2 c.task

/-- A fault of the crew range, or POISON_CONSUMED: it is raised in the polder's fast day book, and the kernel is
fenced, which ends its manifest FENCED. -/
def State.handFault (s : State) (h : Nat) (code : Code) (m sub : Nat) : State :=
  let c := s.hand h
  (s.raiseOwn code (srcHand h) c.pol (c.detail h m sub)).fenceRun c.pol c.runSeq

/-- ILLEGAL_INSTRUCTION: 1 reserved opcode, 2 FSEL or FINV, 3 register group, 4 mask stack, 5 format not offered, 6 tile
index. -/
def State.illegal (s : State) (h sub : Nat) : State := s.handFault h .illegalInstruction 0 sub

def State.poisonConsumed (s : State) (h : Nat) : State := s.handFault h .poisonConsumed 0 0

/-! ## The lanes' common forms -/

/-- Each selected lane writes register xd with a value and its poison; a poisoned selecting flag poisons what is
written. -/
def Hand.lanes (h : Hand) (fsel : Nat) (finv : Bool) (xd : Nat) (f : Nat → Lane × Bool) : Hand :=
  (h.select fsel finv).foldl (fun c l => c.wx xd l (f l).1 ((f l).2 || h.pf fsel)) h

/-- The same instruction for every lane: a value from the lane's sources. -/
def State.laneOp (s : State) (h fsel : Nat) (finv : Bool) (xd : Nat) (srcs : List Nat) (f : Hand → Nat → Lane) : State :=
  if !s.ready h (xd :: srcs) then s else
  s.updHand h fun c => (c.lanes fsel finv xd fun l => (f c l, srcs.any fun r => c.px r l)).next

end Sys2Proof.Machine
end

