-- ==== Sys2Proof/Machine/Flags.lean ====
section
/-! DEFINITION. The flags f0 to f7 (R124 to R127): the compares that write them and the votes that read them. -/

namespace Sys2Proof.Machine

open Sys2Proof

/-- A bit of a mask set or cleared. -/
def setBit16 (m : BitVec 16) (l : Nat) (v : Bool) : BitVec 16 :=
  if v then m ||| BitVec.ofNat 16 (2 ^ l) else m &&& ~~~(BitVec.ofNat 16 (2 ^ l))

/-- A compare writes the flag's bits of the selected lanes and keeps the others. The flag is poisoned by a poisoned
source, and stays so unless every lane is written. -/
def Hand.compare (h : Hand) (fsel : Nat) (finv : Bool) (fd : Nat) (srcs : List Nat) (f : Nat → Bool) : Hand :=
  let ls := h.select fsel finv
  let bits := ls.foldl (fun m l => setBit16 m l (f l)) (h.rf fd)
  let bad := h.pf fsel || ls.any fun l => srcs.any fun r => h.px r l
  h.wf fd bits (bad || (h.pf fd && ls.length ≠ 16))

/-- Integer compares: EQ, NE, LT, LE signed, LTU, LEU. -/
def icmpFn (minor : Nat) (a b : Lane) : Bool :=
  match minor with
  | 0 => a = b
  | 1 => a ≠ b
  | 2 => a.slt b
  | 3 => a.sle b
  | 4 => a.ult b
  | _ => a.ule b

/-- FP32 compares: EQ, NE, LT, LE, UNORD; NE is the only one that NaN meets besides UNORD. -/
def fcmpFn (minor : Nat) (a b : Lane) : Bool :=
  match minor with
  | 0 => Fpu.feq a b
  | 1 => !Fpu.feq a b
  | 2 => Fpu.flt a b
  | 3 => Fpu.fle a b
  | _ => Fpu.funord a b

/-- A compare of XA and XB into flag XD[2:0]. -/
def State.compareOp (s : State) (h : Nat) (i : FmtL) (minors : Nat) (f : Nat → Lane → Lane → Bool) : State :=
  if !s.issues h then s
  else if minors ≤ i.minor then s.illegal h 1
  else if !s.ready h [i.xa.val, i.xb.val] then s
  else s.updHand h fun c =>
    (c.compare i.fsel.val i.finv (i.xd.val % 8) [i.xa.val, i.xb.val] fun l => f i.minor (c.rx i.xa.val l) (c.rx i.xb.val l)).next

/-- ICMP (R126). -/
def execIcmp (h : HandId) (i : FmtL) (s : State) : Out := .next (s.compareOp h.val i 6 icmpFn)

/-- FCMP (R126). -/
def execFcmp (h : HandId) (i : FmtL) (s : State) : Out := .next (s.compareOp h.val i 5 fcmpFn)

/-- SEL (R125): XA where flag XC[2:0] is set, else XB. -/
def execSel (h : HandId) (i : FmtL) (s : State) : Out :=
  .next <|
    if !s.issues h then s
    else if i.minor ≠ 0 then s.illegal h 1
    else if !s.ready h [i.xd.val, i.xa.val, i.xb.val] then s
    else s.updHand h fun c =>
      (c.lanes i.fsel.val i.finv i.xd.val fun l =>
        let r := if (c.rf (i.xc.val % 8)).getLsbD l then i.xa.val else i.xb.val
        (c.rx r l, c.px i.xa.val l || c.px i.xb.val l || c.pf (i.xc.val % 8))).next

end Sys2Proof.Machine
end

