-- ==== Sys2Proof/Machine/HandsAlu.lean ====
section
/-! DEFINITION. The Hands' arithmetic (R126, R131 to R133): IOP, IOPI, FOP, FSPEC, CVT, XLANE, XU, UOP and HMMA. -/

namespace Sys2Proof.Machine

open Sys2Proof

/-! ## Lane integers -/

/-- Leading zeros of a lane. -/
def clz32 (a : Lane) : Nat := 32 - Fpu.bitLen a.toNat

/-- IOP's operations; arithmetic wraps, a shift uses the low 5 bits of its count. -/
def iopFn (minor : Nat) (a b : Lane) : Lane :=
  let k := b.toNat % 32
  match minor with
  | 0 => a + b
  | 1 => a - b
  | 2 => a &&& b
  | 3 => a ||| b
  | 4 => a ^^^ b
  | 5 => a <<< k
  | 6 => a >>> k
  | 7 => a.sshiftRight k
  | 8 => if a.slt b then a else b
  | 9 => if a.slt b then b else a
  | 10 => if a.ult b then a else b
  | 11 => if a.ult b then b else a
  | 12 => a * b
  | 13 => BitVec.ofInt 32 ((a.toInt * b.toInt) / 2 ^ 32)
  | 14 => BitVec.ofNat 32 (a.toNat * b.toNat / 2 ^ 32)
  | 15 => BitVec.ofNat 32 (popCount 32 a.toNat)
  | _ => BitVec.ofNat 32 (clz32 a)

/-- Sources of an operation: POPC and CLZ read XA alone. -/
def iopSrcs (minor xa xb : Nat) : List Nat := if 15 ≤ minor then [xa] else [xa, xb]

/-- IOP (R126). -/
def execIop (h : HandId) (i : FmtL) (s : State) : Out :=
  .next <|
    if !s.issues h then s
    else if 17 ≤ i.minor then s.illegal h 1
    else s.laneOp h i.fsel.val i.finv i.xd.val (iopSrcs i.minor i.xa.val i.xb.val) fun c l =>
      iopFn i.minor (c.rx i.xa.val l) (c.rx i.xb.val l)

/-- IOPI (R126): IMM in place of XB. -/
def execIopi (h : HandId) (i : FmtI) (s : State) : Out :=
  .next <|
    if !s.issues h then s
    else if 17 ≤ i.minor then s.illegal h 1
    else s.laneOp h i.fsel.val i.finv i.xd.val [i.xa.val] fun c l => iopFn i.minor (c.rx i.xa.val l) i.imm

/-! ## Lane FP32, functions and conversions -/

def fopFn (minor : Nat) (a b c : Lane) : Lane :=
  match minor with
  | 0 => Fpu.fadd a b
  | 1 => Fpu.fsub a b
  | 2 => Fpu.fmul a b
  | 3 => Fpu.ffma a b c
  | 4 => Fpu.fmin a b
  | 5 => Fpu.fmax a b
  | 6 => Fpu.fabs a
  | _ => Fpu.fneg a

def fopSrcs (minor xa xb xc : Nat) : List Nat := if minor = 3 then [xa, xb, xc] else if 6 ≤ minor then [xa] else [xa, xb]

/-- FOP (R126). -/
def execFop (h : HandId) (i : FmtL) (s : State) : Out :=
  .next <|
    if !s.issues h then s
    else if 8 ≤ i.minor then s.illegal h 1
    else s.laneOp h i.fsel.val i.finv i.xd.val (fopSrcs i.minor i.xa.val i.xb.val i.xc.val) fun c l =>
      fopFn i.minor (c.rx i.xa.val l) (c.rx i.xb.val l) (c.rx i.xc.val l)

def fspecFn (minor : Nat) (a : Lane) : Lane :=
  match minor with
  | 0 => Fpu.exp a
  | 1 => Fpu.recip a
  | 2 => Fpu.rsqrt a
  | 3 => Fpu.sigmoid a
  | 4 => Fpu.tanh a
  | _ => Fpu.silu a

/-- FSPEC (R126): within the bounds of R114. -/
def execFspec (h : HandId) (i : FmtL) (s : State) : Out :=
  .next <|
    if !s.issues h then s
    else if 6 ≤ i.minor then s.illegal h 1
    else s.laneOp h i.fsel.val i.finv i.xd.val [i.xa.val] fun c l => fspecFn i.minor (c.rx i.xa.val l)

/-- FP32 to an 8-bit MX element under a given scale: a value that is no number writes 0, as in a block (R99, R101). -/
def toElem (fmt : Fpu.Fmt) (a : Lane) (scale : Nat) : Lane :=
  let v := Fpu.valOf a
  if scale = 0xFF || v.isNan || v.isInf then 0 else BitVec.ofNat 32 (Fpu.encodeSat fmt (v.scale (127 - (scale : Int))))

/-- An 8-bit MX element under a given scale to FP32 (R100). -/
def ofElem (fmt : Fpu.Fmt) (a : Lane) (scale : Nat) : Lane :=
  Fpu.toF32 [a.toNat, scale] (Fpu.mxRead fmt scale (a.toNat % 256))

/-- DEDUCED: log 19. -/
def cvtFn (minor : Nat) (a b : Lane) : Lane :=
  let scale := b.toNat % 256
  match minor with
  | 0 => (Fpu.toBf16 a).setWidth 32
  | 1 => Fpu.ofBf16 (a.setWidth 16)
  | 2 => toElem (Fpu.fmtOf 1) a scale
  | 3 => toElem (Fpu.fmtOf 2) a scale
  | 4 => ofElem (Fpu.fmtOf 1) a scale
  | 5 => ofElem (Fpu.fmtOf 2) a scale
  | 6 => BitVec.ofNat 32 (Fpu.toIntSat 32 (Fpu.valOf a))
  | 7 => Fpu.ofInt a.toInt
  | _ => BitVec.ofNat 32 (Fpu.toIntSat 8 (Fpu.valOf a))

def cvtSrcs (minor xa xb : Nat) : List Nat := if 2 ≤ minor && minor ≤ 5 then [xa, xb] else [xa]

/-- CVT (R126): XB[7:0] holds the scale of the FP8 conversions. -/
def execCvt (h : HandId) (i : FmtL) (s : State) : Out :=
  .next <|
    if !s.issues h then s
    else if 9 ≤ i.minor then s.illegal h 1
    else s.laneOp h i.fsel.val i.finv i.xd.val (cvtSrcs i.minor i.xa.val i.xb.val) fun c l =>
      cvtFn i.minor (c.rx i.xa.val l) (c.rx i.xb.val l)

/-! ## Across lanes -/

/-- The reduction and the identity that a lane taking no part contributes. (DEDUCED: log 44) -/
def xlaneRed (minor : Nat) : (Lane → Lane → Lane) × Lane :=
  match minor with
  | 3 => (fun a b => a + b, 0)
  | 4 => (Fpu.fadd, 0x80000000)
  | 5 => (fun a b => if a.slt b then a else b, 0x7FFFFFFF)
  | 6 => (fun a b => if a.slt b then b else a, 0x80000000)
  | 7 => (Fpu.fmin, 0x7F800000)
  | _ => (Fpu.fmax, 0xFF800000)

/-- The value and poison that lane l writes. -/
def Hand.xlaneVal (c : Hand) (minor xa xb : Nat) (part : List Nat) (l : Nat) : Lane × Bool :=
  let from_ := fun (k : Nat) => (c.rx xa k, c.px xa k || c.px xb l)
  match minor with
  | 0 => from_ ((c.rx xb l).toNat % 16)
  | 1 => let n := (c.rx xb l).toNat; if n ≤ l then from_ (l - n) else from_ l
  | 2 => let n := (c.rx xb l).toNat; if l + n < 16 then from_ (l + n) else from_ l
  | 9 =>
    let below := part.filter (· < l)
    ((below.map fun k => c.rx xa k).foldl (· + ·) 0, below.any fun k => c.px xa k)
  | 10 => (BitVec.ofNat 32 l, false)
  | _ =>
    let (op, unit) := xlaneRed minor
    (Fpu.tree op unit 4 ((List.range 16).map fun k => if part.contains k then c.rx xa k else unit), part.any fun k => c.px xa k)

/-- XLANE (R126). -/
def execXlane (h : HandId) (i : FmtL) (s : State) : Out :=
  .next <|
    if !s.issues h then s
    else if 11 ≤ i.minor then s.illegal h 1
    else if !s.ready h [i.xd.val, i.xa.val, i.xb.val] then s
    else s.updHand h fun c =>
      (c.lanes i.fsel.val i.finv i.xd.val (c.xlaneVal i.minor i.xa.val i.xb.val (c.select i.fsel.val i.finv))).next

/-- XU (R126): BCAST, BALLOT, SPLAT, SPLATHI. -/
def execXu (h : HandId) (i : FmtL) (s : State) : Out :=
  .next <|
    if !s.issues h then s
    else if 4 ≤ i.minor then s.illegal h 1
    else
      let wd := i.xd.val % 32
      match i.minor with
      | 0 =>
        if !s.ready h [i.xa.val] then s else
        s.updHand h fun c =>
          match c.select i.fsel.val i.finv with
          | l :: _ => (c.ww wd ((c.rx i.xa.val l).setWidth 64) (c.px i.xa.val l || c.pf i.fsel.val)).next
          | [] => c.next
      | 1 => s.updHand h fun c =>
          let m := (c.select i.fsel.val i.finv).foldl (fun m l => setBit16 m l ((c.rf (i.xa.val % 8)).getLsbD l)) 0
          (c.ww wd (m.setWidth 64) (c.pf (i.xa.val % 8) || c.pf i.fsel.val)).next
      | k =>
        if !s.ready h [i.xd.val] then s else
        s.updHand h fun c =>
          let w := c.rw (i.xa.val % 32)
          let v : Lane := if k = 2 then w.setWidth 32 else (w >>> 32).setWidth 32
          (c.lanes i.fsel.val i.finv i.xd.val fun _ => (v, c.pw (i.xa.val % 32))).next

/-! ## Crew integers -/

/-- UOP's operations (R126); a shift by 64 or more gives the free value, as the manual names no result. (DESIGN
CHOICE: log 45) -/
def uopFn (minor : Nat) (old a b imm free : Word) : Word :=
  match minor with
  | 0 => a + b
  | 1 => a - b
  | 2 => a &&& b
  | 3 => a ||| b
  | 4 => a ^^^ b
  | 5 => if b.toNat < 64 then a <<< b.toNat else free
  | 6 => if b.toNat < 64 then a >>> b.toNat else free
  | 7 => a * b
  | 8 => imm
  | 9 => (old &&& 0xFFFFFFFF) ||| (imm <<< 32)
  | 10 => a + imm
  | 11 => if a = b then 1 else 0
  | 12 => if a.slt b then 1 else 0
  | _ => if a.ult b then 1 else 0

/-- Crew registers that an operation reads. -/
def uopSrcs (minor wd wa wb : Nat) : List Nat :=
  match minor with
  | 8 => []
  | 9 => [wd]
  | 10 => [wa]
  | _ => [wa, wb]

/-- UOP (R126). -/
def execUop (h : HandId) (i : FmtU) (s : State) : Out :=
  .next <|
    if !s.issues h then s
    else if 14 ≤ i.minor then s.illegal h 1
    else
      let c := s.hand h
      let b := c.rw i.wb.val
      let open_ := (i.minor = 5 || i.minor = 6) && 64 ≤ b.toNat
      let (v, s) := if open_ then s.free 64 else (0, s)
      s.updHand h fun c =>
        (c.ww i.wd.val (uopFn i.minor (c.rw i.wd.val) (c.rw i.wa.val) b (i.imm.signExtend 64) v)
          ((uopSrcs i.minor i.wd.val i.wa.val i.wb.val).any c.pw)).next

/-! ## HMMA (R131 to R133) -/

/-- The element formats of A and B by MFMT: stream codes, 8 for INT8. -/
def mfmtOf : Nat → Option (Nat × Nat)
  | 0 => some (1, 1)
  | 1 => some (1, 2)
  | 2 => some (2, 1)
  | 3 => some (2, 2)
  | 4 => some (6, 6)
  | 5 => some (8, 8)
  | _ => none

/-- Element k of a row or column that a lane holds in registers from r. -/
def Hand.element (c : Hand) (fmt r l k : Nat) : Nat :=
  if fmt = 6 then field (c.rx (r + k / 2) l).toNat (16 * (k % 2)) 16 else field (c.rx (r + k / 4) l).toNat (8 * (k % 4)) 8

/-- One output element: row i of A, column j of B, and the accumulator. -/
def Hand.hmmaAt (c : Hand) (fa fb xa xb xd i j : Nat) : Lane :=
  let acc := c.rx (xd + j) i
  let pairs := (List.range 16).map fun k => (c.element fa xa i k, c.element fb xb j k)
  if fa = 8 then
    BitVec.ofInt 32 (acc.toInt + (pairs.map fun e => toSigned 8 e.1 * toSigned 8 e.2).sum)
  else
    Fpu.fadd acc (Fpu.dot (pairs.flatMap fun e => [e.1, e.2])
      (pairs.map fun e => Fpu.mulV (Fpu.elemVal fa 127 e.1) (Fpu.elemVal fb 127 e.2)))

/-- Registers of an operand group. -/
def hmmaRegs (fmt : Nat) : Nat := if fmt = 6 then 8 else 4

/-- Groups aligned, inside x0 to x63, and apart from each other. -/
def hmmaGroups (fmt xa xb xd : Nat) : Bool :=
  let n := hmmaRegs fmt
  let apart := fun a m b k => a + m ≤ b || b + k ≤ a
  xa % n = 0 && xb % n = 0 && xd % 16 = 0 && apart xa n xb n && apart xa n xd 16 && apart xb n xd 16

def Hand.hmma (c : Hand) (fa fb xa xb xd : Nat) : Hand :=
  let n := hmmaRegs fa
  (List.range 256).foldl (fun d e =>
    let i := e / 16
    let j := e % 16
    d.wx (xd + j) i (c.hmmaAt fa fb xa xb xd i j) (c.pxs xa n i || c.pxs xb n j || c.px (xd + j) i)) c

/-- HMMA (R131 to R133): under a partial mask it raises PARTIAL_CREW before it reads any operand. (DEDUCED: log 44) -/
def execHmma (h : HandId) (i : FmtX) (s : State) : Out :=
  .next <|
    if !s.issues h then s else
    match mfmtOf i.mfmt.val with
    | none => s.illegal h 5
    | some (fa, fb) =>
      if !hmmaGroups fa i.xa.val i.xb.val i.xd.val then s.illegal h 3
      else if (s.hand h).active ≠ 0xFFFF then s.handFault h .partialCrew 0 0
      else
        let n := hmmaRegs fa
        let group := fun r k => (List.range k).map (r + ·)
        if !s.ready h (group i.xa.val n ++ group i.xb.val n ++ group i.xd.val 16) then s
        else s.updHand h fun c => (c.hmma fa fb i.xa.val i.xb.val i.xd.val).next

end Sys2Proof.Machine
end

