-- ==== Sys2Proof/Machine/HandsCtl.lean ====
section
/-! DEFINITION. The Hands' control (chapter 6): kernels and tasks, branches and divergence, barriers, tally waits, fences,
stream tiles, and the system instructions. -/

namespace Sys2Proof.Machine

open Sys2Proof

/-! ## Kernels and tasks (R119 to R121) -/

/-- A kernel of a running manifest: its place in the schedule and its declaration. -/
def State.kernelDecl (s : State) (p seq kernel : Nat) : Option (Nat × KernelDecl) :=
  if !(s.pol p).isRunning seq then none else
  (s.schedule ((s.pol p).run seq).m.schedule).bind fun c =>
    (List.range c.kernels.length).findSome? fun j =>
      match c.kernels[j]? with
      | some k => if k.kernel = kernel then some (j, k) else none
      | none => none

/-- The kernel's Hands in the order of their numbers: die, then y, then x (R120). -/
def kernelHands (k : KernelDecl) : List Nat :=
  (bitsOf 8 k.dies.toNat).flatMap fun d => (List.range k.h).flatMap fun y =>
    (List.range k.w).map fun x => 1024 * d + 32 * (k.y0 + y) + (k.x0 + x)

def State.updKernel (s : State) (p seq j : Nat) (f : KernelRun → KernelRun) : State :=
  s.updRun p seq fun r => { r with kernels := r.kernels.upd {} j f }

/-- A Hand that a kernel may take: nothing of its last kernel is left in it but answers to come. -/
def State.handFree (s : State) (h : Nat) : Bool :=
  let c := s.hand h
  !c.busy && c.stores.isEmpty && c.unwon = 0 && !(s.mill (h / 1024)).fenced

/-- A Hand at kernel start: its L1 invalidated, its local store zeroed. -/
def Hand.enter (c : Hand) (p seq kernel number : Nat) : Hand :=
  { busy := true, pol := p, runSeq := seq, kernel := kernel, number := number, misses := c.misses, atoms := c.atoms }

/-- The barrier across modules that a kernel's SET barriers join (R267). -/
def State.crossBarrier (s : State) (p seq kernel : Nat) : Option BarrierDecl :=
  (s.schedule ((s.pol p).run seq).m.schedule).bind fun c => c.barriers.find? fun b => b.kernel = kernel

/-- KERNEL_START (R121). -/
def execKernelStart (p : Pol) (seq kernel : Nat) (s : State) : Out :=
  .next <|
    match s.kernelDecl p.val seq kernel with
    | none => s
    | some (j, k) =>
      let r := (s.pol p.val).run seq
      let ids := kernelHands k
      if r.suspended || (r.kernels.get {} j).started || !(ids.all s.handFree) || !s.mayBegin p.val seq (.kernel j) then s else
      let s := (List.range ids.length).foldl (fun s n =>
        s.updHand (ids.getD n 0) fun c => c.enter p.val seq kernel n) s
      let s := match s.crossBarrier p.val seq kernel with
        | some b => s.updCollector p.val b.number fun c => { c with releases := 0 }
        | none => s
      s.updKernel p.val seq j fun _ => { started := true, startedAt := s.clock }

/-- The task that a Hand runs next, if it has one left (R120). -/
def nextTask (k : KernelDecl) (c : Hand) : Option Nat :=
  let t := c.number + c.ended * (kernelHands k).length
  if t < k.tasks then some t else none

/-- The registers at the start of task t (R120). -/
def Hand.startTask (c : Hand) (h t tasks arg : Nat) : Hand :=
  { c with
    running := true, task := t, endedAt := none, pc := 0
    x := [], xp := [], wp := [], f := [], fp := [], takes := []
    w := [arg, t, tasks, c.number, h / 1024].zipIdx.foldl (fun (m : SMap Word) e =>
      m.set 0 (e.2 + 1) (BitVec.ofNat 64 e.1)) []
    active := 0xFFFF, exited := 0, stack := [], wait := .none, taken := [], allocs := [] }

/-- TASK_START (R120): 8 cycles after the Hand's previous task, or 64 after the kernel's start. (DEDUCED: log 48) -/
def execTaskStart (h : HandId) (s : State) : Out :=
  .next <|
    let c := s.hand h
    match s.kernelDecl c.pol c.runSeq c.kernel with
    | none => s
    | some (j, k) =>
      let r := (s.pol c.pol).run c.runSeq
      let due := match c.endedAt with
        | some a => s.passed a 8
        | none => s.passed (r.kernels.get {} j).startedAt 64
      match nextTask k c with
      | some t =>
        if !c.busy || c.running || r.suspended || !due || (s.mill (h.val / 1024)).fenced then s else
        s.updHand h fun c => c.startTask h t k.tasks ((r.m.operands.getD k.arg (0, 0)).2)
      | none => s

/-- What is on its way to the registers of a task that has ended reaches none. (DEDUCED: log 44) -/
def Hand.endTask (c : Hand) (now : Nat) : Hand :=
  { c with
    running := false, endedAt := some now, ended := c.ended + 1, wait := .none, stack := [], taken := [], allocs := []
    misses := c.misses.map fun m => { m with dests := [] }
    atoms := c.atoms.map fun a => { a with dests := [] } }

/-- A Hand has arrived at SET barrier n of its kernel, or has no task left (R143). -/
def setArrived (k : KernelDecl) (n : Nat) (c : Hand) : Bool := n ≤ c.setArrivals || (!c.running && (nextTask k c).isNone)

/-- The last Hand of a kernel to reach SET barrier n sends the module's arrival (R267). (DEDUCED: log 48) -/
def State.setReached (s : State) (h n : Nat) : State :=
  let c := s.hand h
  match s.kernelDecl c.pol c.runSeq c.kernel, s.crossBarrier c.pol c.runSeq c.kernel with
  | some (_, k), some b =>
    if (kernelHands k).all fun x => setArrived k n (s.hand x) then s.barrierLocal c.pol b else s
  | _, _ => s

/-- The current task of a Hand ends. -/
def State.taskOver (s : State) (h : Nat) : State :=
  let c := s.hand h
  let s := s.updHand h fun c => c.endTask s.clock
  match s.kernelDecl c.pol c.runSeq c.kernel with
  | some (j, k) =>
    let s := s.updKernel c.pol c.runSeq j fun k => { k with tasksDone := k.tasksDone + 1 }
    -- a Hand with no task left counts as arrived
    match s.crossBarrier c.pol c.runSeq c.kernel with
    | some b =>
      let n := (s.collector c.pol b.number).releases + 1
      if (kernelHands k).any (fun x => (s.hand x).wait matches .setBar _ _ && (s.hand x).setArrivals = n) then s.setReached h n
      else s
    | none => s
  | none => s

/-- A Hand's writes to host windows that stall at a full host-out quay. -/
def State.hostStalled (s : State) (h : Nat) : Bool :=
  (List.range 2).any fun port => (s.quay (hostOutNo port)).waiting.any fun e => match e with
    | .host (.memWrite _ _ _ _ (_, src, _, _)) => src = srcHand h
    | _ => false

/-- KERNEL_END (R121, R217): every task has ended, every store has been accepted and has won its line, or has entered
its host's quay; the L1s are invalidated and the Hands are free. (DEDUCED: log 48) -/
def execKernelEnd (p : Pol) (seq kernel : Nat) (s : State) : Out :=
  .next <|
    match s.kernelDecl p.val seq kernel with
    | none => s
    | some (j, k) =>
      let g := ((s.pol p.val).run seq).kernels.get {} j
      let ids := kernelHands k
      let quiet := ids.all fun h => let c := s.hand h; c.stores.isEmpty && c.unwon = 0 && c.atoms.isEmpty && !s.hostStalled h
      if !g.started || g.ended || g.tasksDone < k.tasks || !quiet then s else
      let s := ids.foldl (fun s h => s.updHand h Hand.release) s
      s.updKernel p.val seq j fun g => { g with ended := true }

/-! ## Branches (R130) -/

/-- A signed instruction offset from an instruction. -/
def target (pc : Int) (t : BitVec 20) : Int := pc + t.toInt

/-- BRA (R130): JMP, JZ, JNZ; a poisoned condition is consumed (R127). -/
def execBra (h : HandId) (i : FmtB) (s : State) : Out :=
  .next <|
    let c := s.hand h
    if !s.issues h then s
    else if 3 ≤ i.minor then s.illegal h 1
    else if i.minor ≠ 0 && c.pw i.wa.val then s.poisonConsumed h
    else
      let taken := i.minor = 0 || (i.minor = 1 && c.rw i.wa.val = 0) || (i.minor = 2 && c.rw i.wa.val ≠ 0)
      s.updHand h fun c => if taken then { c with pc := target c.pc i.t2 } else c.next

/-! ## Divergence (R128 to R130) -/

/-- R129: unwind the mask stack until a mask is not empty. -/
def unwind (exited : BitVec 16) (pc : Int) : List MaskEntry → List MaskEntry × BitVec 16 × Int
  | [] => ([], 0, pc)
  | e :: rest =>
    if e.kind = .ifK && e.pend ≠ 0 then ({ e with kind := .elseK } :: rest, e.pend, e.t1 + 1)
    else
      let a := e.saved &&& ~~~exited
      if a ≠ 0 then (rest, a, e.t2 + 1) else unwind exited (e.t2 + 1) rest

/-- A new mask, stack and next instruction; an empty mask unwinds, and an empty stack then ends the task. -/
def State.settle (s : State) (h : Nat) (a : BitVec 16) (stack : List MaskEntry) (pc : Int) : State :=
  let c := s.hand h
  let (st, m, p) := if a ≠ 0 then (stack, a, pc) else unwind c.exited pc stack
  let s := s.updHand h fun c => { c with active := m, stack := st, pc := p }
  if m = 0 then s.taskOver h else s

def stackLimit : Nat := 32

/-- IF. -/
def execDivIf (h : HandId) (i : FmtB) (s : State) : Out :=
  .next <|
    let c := s.hand h
    if !s.issues h then s
    else if c.pf i.ft.val then s.poisonConsumed h
    else if stackLimit ≤ c.stack.length then s.handFault h .maskOverflow 0 0
    else
      let f := c.rf i.ft.val
      let e : MaskEntry := {
        kind := .ifK, saved := c.active, pend := c.active &&& ~~~f, t1 := target c.pc i.t1, t2 := target c.pc i.t2 }
      s.settle h (c.active &&& f) (e :: c.stack) (c.pc + 1)

/-- ELSE. -/
def execDivElse (h : HandId) (_i : FmtB) (s : State) : Out :=
  .next <|
    let c := s.hand h
    if !s.issues h then s else
    match c.stack with
    | e :: rest =>
      if e.kind = .loopK then s.illegal h 4
      else s.settle h e.pend ({ e with kind := .elseK } :: rest) (c.pc + 1)
    | [] => s.illegal h 4

/-- ENDIF. -/
def execDivEndif (h : HandId) (_i : FmtB) (s : State) : Out :=
  .next <|
    let c := s.hand h
    if !s.issues h then s else
    match c.stack with
    | e :: rest =>
      if e.kind = .loopK then s.illegal h 4 else s.settle h (e.saved &&& ~~~c.exited) rest (c.pc + 1)
    | [] => s.illegal h 4

/-- LOOP. -/
def execDivLoop (h : HandId) (i : FmtB) (s : State) : Out :=
  .next <|
    let c := s.hand h
    if !s.issues h then s
    else if stackLimit ≤ c.stack.length then s.handFault h .maskOverflow 0 0
    else
      let e : MaskEntry := { kind := .loopK, saved := c.active, t1 := c.pc + 1, t2 := target c.pc i.t2 }
      s.updHand h fun c => { c with stack := e :: c.stack, pc := c.pc + 1 }

/-- Lanes leave the saved and pending masks of every entry above the innermost LOOP entry. -/
def leaveLoop (out : BitVec 16) : List MaskEntry → List MaskEntry
  | [] => []
  | e :: rest =>
    if e.kind = .loopK then e :: rest
    else { e with saved := e.saved &&& ~~~out, pend := e.pend &&& ~~~out } :: leaveLoop out rest

/-- BREAK. -/
def execDivBreak (h : HandId) (i : FmtB) (s : State) : Out :=
  .next <|
    let c := s.hand h
    if !s.issues h then s
    else if !(c.stack.any fun e => e.kind = .loopK) then s.illegal h 4
    else if c.pf i.ft.val then s.poisonConsumed h
    else
      let out := c.active &&& c.rf i.ft.val
      s.settle h (c.active &&& ~~~out) (leaveLoop out c.stack) (c.pc + 1)

/-- ENDLOOP: at the innermost LOOP entry's start while a lane is active. (DEDUCED: log 44) -/
def execDivEndloop (h : HandId) (_i : FmtB) (s : State) : Out :=
  .next <|
    let c := s.hand h
    if !s.issues h then s else
    match c.stack.find? fun e => e.kind = .loopK with
    | none => s.illegal h 4
    | some e => s.settle h c.active c.stack e.t1

/-! ## System -/

/-- END (R120). -/
def execSysEnd (h : HandId) (_i : FmtS) (s : State) : Out := .next <| if s.issues h then s.taskOver h else s

/-- EXIT (R128). -/
def execSysExit (h : HandId) (_i : FmtS) (s : State) : Out :=
  .next <|
    if !s.issues h then s else
    let a := (s.hand h).active
    let s := s.updHand h fun c => { c with
      exited := c.exited ||| a
      stack := c.stack.map fun e => { e with saved := e.saved &&& ~~~a, pend := e.pend &&& ~~~a } }
    s.settle h 0 (s.hand h).stack ((s.hand h).pc + 1)

/-- TRAP (R126, R147): HAND_TRAP carries wWA in bytes 20 to 27 and IMM[15:0] in bytes 28 and 29. (DEDUCED: log 44) -/
def execSysTrap (h : HandId) (i : FmtS) (s : State) : Out :=
  .next <|
    if !s.issues h then s else
    let c := s.hand h
    let d := (c.detail h 0 (i.imm.toNat % 65536))
    (s.raiseOwn .handTrap (srcHand h) c.pol (putAt d 4 (leBytes 8 (c.rw i.wa.val).toNat))).updHand h Hand.next

/-- RDCYC (R126): cycles since the kernel's start, into wWA. -/
def execRdcyc (h : HandId) (i : FmtS) (s : State) : Out :=
  .next <|
    if !s.issues h then s else
    let c := s.hand h
    let at_ := match s.kernelDecl c.pol c.runSeq c.kernel with
      | some (j, _) => (((s.pol c.pol).run c.runSeq).kernels.get {} j).startedAt
      | none => s.clock
    s.updHand h fun c => (c.ww i.wa.val (BitVec.ofNat 64 (s.clock - at_)) false).next

/-- RDALM (R126). -/
def execRdalm (h : HandId) (i : FmtS) (s : State) : Out :=
  .next <|
    if !s.issues h then s else
    s.updHand h fun c => (c.ww i.wa.val (BitVec.ofNat 64 s.alm.now) false).next

/-- NOP. -/
def execNop (h : HandId) (_i : FmtS) (s : State) : Out :=
  .next <| if s.issues h then s.updHand h Hand.next else s

/-! ## Barriers (R142 to R144) -/

/-- The crew stops at its instruction. -/
def Hand.stop (c : Hand) (w : CrewWait) (now : Nat) : Hand := { c with wait := w, waitSince := now }

/-- BAR CREW (R142): it completes if every lane of M is active; otherwise the crew stops for good. -/
def execBarCrew (h : HandId) (i : FmtS) (s : State) : Out :=
  .next <|
    if !s.issues h then s else
    let m := (s.hand h).rf i.ft.val
    s.updHand h fun c => if m &&& ~~~c.active = 0 then c.next else c.stop (.crewBar m) s.clock

/-- BAR SET (R143): the crew arrives, under the rule of R142, and waits for its release. -/
def execBarSet (h : HandId) (i : FmtS) (s : State) : Out :=
  .next <|
    if !s.issues h then s else
    let m := (s.hand h).rf i.ft.val
    let n := (s.hand h).setArrivals + 1
    if m &&& ~~~(s.hand h).active ≠ 0 then s.updHand h fun c => c.stop (.setStuck m) s.clock else
    (s.updHand h fun c => { c.stop (.setBar n m) s.clock with setArrivals := n }).setReached h n

/-- A Hand waits at SET barrier n. -/
def Hand.waitsSet (c : Hand) (n : Nat) : Bool := match c.wait with
  | .setBar m _ => m = n
  | _ => false

/-- The next SET barrier of kernel j on a die is complete (R143): every Hand there has arrived at it or has finished all its tasks; one
that spans modules also waits for the collector (R267). -/
def State.setDone (s : State) (p seq j : Nat) (k : KernelDecl) (d : Nat) : Bool :=
  let g := ((s.pol p).run seq).kernels.get {} j
  let n := g.sets.get 0 d + 1
  let ids := (kernelHands k).filter fun h => h / 1024 = d
  let joined := match s.crossBarrier p seq k.kernel with
    | some b => n ≤ (s.collector p b.number).releases
    | none => true
  g.started && !g.ended && joined && (ids.all fun h => setArrived k n (s.hand h)) && ids.any fun h => (s.hand h).waitsSet n

/-- BARRIER_RELEASE (R143, R161): the next SET barrier of the kernel on a die completes. -/
def execBarrierRelease (p : Pol) (seq kernel : Nat) (d : Die) (s : State) : Out :=
  .next <|
    match s.kernelDecl p.val seq kernel with
    | none => s
    | some (j, k) =>
      if !s.setDone p.val seq j k d.val then s else
      let n := (((s.pol p.val).run seq).kernels.get {} j).sets.get 0 d.val + 1
      let ids := (kernelHands k).filter fun h => h / 1024 = d.val
      let s := ids.foldl (fun s h => s.updHand h fun c =>
        if c.waitsSet n then { c with wait := .none, pc := c.pc + 1 } else c) s
      s.updKernel p.val seq j fun g => { g with sets := g.sets.set 0 d.val n }

/-- M and the lanes arrived, or the tally number, of what a crew waits at (R147, R222). -/
def waitDetail (c : Hand) : Nat × Nat :=
  match c.wait with
  | .crewBar m => (m.toNat, (c.active &&& m).toNat)
  | .setStuck m => (m.toNat, (c.active &&& m).toNat)
  | .setBar _ m => (m.toNat, (c.active &&& m).toNat)
  | .tally n _ => (n, 0xFFFF)
  | .none => (0, 0)

/-- A wait that is met completes instead of stranding (R144). (DEDUCED: log 48) -/
def State.waitMet (s : State) (h : Nat) : Bool :=
  let c := s.hand h
  match c.wait with
  | .tally n t => t ≤ (s.pol c.pol).tallies.get 0 n
  | .none => true
  | .setBar n _ => match s.kernelDecl c.pol c.runSeq c.kernel with
    | some (j, k) =>
      n = (((s.pol c.pol).run c.runSeq).kernels.get {} j).sets.get 0 (h / 1024) + 1 && s.setDone c.pol c.runSeq j k (h / 1024)
    | none => false
  | _ => false

/-- STRANDED_BARRIER (R144, R222): the wait has lasted WATCHDOG cycles; the count stands still while the polder is
frozen. -/
def execStrandedBarrier (h : HandId) (s : State) : Out :=
  .next <|
    let c := s.hand h
    match s.kernelDecl c.pol c.runSeq c.kernel with
    | none => s
    | some (_, k) =>
      if !c.busy || s.waitMet h || ((s.pol c.pol).run c.runSeq).suspended || !s.passed c.waitSince k.watchdog then s
      else s.handFault h .strandedBarrier (waitDetail c).1 (waitDetail c).2

/-! ## Tallies (R222) -/

def tallyNo (i : FmtS) : Nat := i.imm.toNat % 4096

/-- An acquire at die scope or wider invalidates the L1 (R137, R213). -/
def Hand.acquire (c : Hand) : Hand := { c with l1 := [] }

/-- The crew's earlier reads have returned: an acquire orders the later ones after them (R213). -/
def Hand.hasRead (c : Hand) : Bool := c.misses.isEmpty && c.atoms.isEmpty

/-- TALLY WAIT (R222); a poisoned target is consumed (R127). -/
def execTallyWait (h : HandId) (i : FmtS) (s : State) : Out :=
  .next <|
    if !s.issues h then s else
    let c := s.hand h
    if c.pw i.wa.val then s.poisonConsumed h else
    let t := (c.rw i.wa.val).toNat
    if t ≤ (s.pol c.pol).tallies.get 0 (tallyNo i) then (if c.hasRead then s.updHand h fun c => c.acquire.next else s)
    else s.updHand h fun c => c.stop (.tally (tallyNo i) t) s.clock

/-- TALLY_SATISFIED (R222). -/
def execTallySatisfied (h : HandId) (s : State) : Out :=
  .next <|
    let c := s.hand h
    match c.wait with
    | .tally _ _ =>
      if s.waitMet h && c.hasRead && c.busy && !((s.pol c.pol).run c.runSeq).suspended then
        s.updHand h fun c => { c.acquire.next with wait := .none }
      else s
    | _ => s

/-- TALLY READ. -/
def execTallyRead (h : HandId) (i : FmtS) (s : State) : Out :=
  .next <|
    if !s.issues h then s else
    s.updHand h fun c => (c.ww i.wa.val (BitVec.ofNat 64 ((s.pol c.pol).tallies.get 0 (tallyNo i))) false).next

/-! ## Fences (R137, R213) -/

/-- A release of a scope has nothing left to wait for: 0 crew, 1 die, 2 module, 3 fabric. -/
def State.released (s : State) (h scope : Nat) : Bool :=
  let c := s.hand h
  (scope = 0 || (c.stores.isEmpty && c.atoms.isEmpty)) && (scope < 2 || (c.unwon = 0 && !s.hostStalled h))
    && (scope < 3 || c.remote.all fun e => e.2.2 ≤ (s.link e.1).chunksOut.get 0 e.2.1)

def fenceScope (i : FmtS) : Nat := i.imm.toNat % 4

/-- An acquire of a scope may complete. (DEDUCED: log 46) -/
def Hand.mayAcquire (c : Hand) (scope : Nat) : Bool := scope = 0 || c.hasRead

/-- An acquire of a scope: the L1 is invalidated at die scope and wider. -/
def Hand.acquireAt (c : Hand) (scope : Nat) : Hand := if scope = 0 then c else c.acquire

/-- FENCE REL. -/
def execFenceRel (h : HandId) (i : FmtS) (s : State) : Out :=
  .next <| if s.issues h && s.released h (fenceScope i) then s.updHand h Hand.next else s

/-- FENCE ACQ. -/
def execFenceAcq (h : HandId) (i : FmtS) (s : State) : Out :=
  .next <| if s.issues h && (s.hand h).mayAcquire (fenceScope i) then s.updHand h fun c => (c.acquireAt (fenceScope i)).next else s

/-- FENCE ACQREL: the release, then the acquire. -/
def execFenceAcqrel (h : HandId) (i : FmtS) (s : State) : Out :=
  .next <|
    if s.issues h && s.released h (fenceScope i) && (s.hand h).mayAcquire (fenceScope i) then s.updHand h fun c => (c.acquireAt (fenceScope i)).next else s

/-! ## Stream tiles (R140, R141) -/

/-- Key of the buffer of a staging slot that an output tile is written in. -/
def slotKey (slot : Nat) : Nat := 2 ^ 32 + slot

/-- The device virtual address of a staging slot of a stream. (DESIGN CHOICE: log 45) -/
def State.slotVa (s : State) (p seq stream slot : Nat) (d : StreamDecl) : Nat :=
  (Config.stagingVa d.die ((s.pol p).run seq).m.schedule stream slot).toNat

/-- TAKE (R140): the k-th of task t takes tile t + k TASKS, once it is staged; the Hand's L1 keeps no line of its slot. -/
def execTake (h : HandId) (i : FmtS) (s : State) : Out :=
  .next <|
    let c := s.hand h
    let n := i.n.toNat
    match s.streamOf c.pol c.runSeq n, s.kernelDecl c.pol c.runSeq c.kernel with
    | some (d, r, _), some (_, k) =>
      let t := c.task + c.takes.get 0 n * k.tasks
      let b := r.tiles.get {} t
      if !s.issues h || d.dst ≠ .hands || !b.staged || b.taken then s else
      let va := s.slotVa c.pol c.runSeq n (t % d.runahead) d
      (s.updTile c.pol c.runSeq n t fun b => { b with taken := true }).updHand h fun c =>
        ({ c with
          takes := c.takes.upd 0 n (· + 1), taken := c.taken ++ [(n, t)]
          l1 := c.l1.filter fun x => !(stagedAddr va / 128 ≤ x.sector && 128 * x.sector < stagedAddr va + Fpu.footprint d.fmt) }.ww i.wa.val
          (BitVec.ofNat 64 va) false).next
    | _, _ => s

/-- DONE (R140): the credit of the oldest tile of the stream that the task has taken and not returned. -/
def execTileDone (h : HandId) (i : FmtS) (s : State) : Out :=
  .next <|
    if !s.issues h then s else
    let c := s.hand h
    match c.taken.find? fun e => e.1 = i.n.toNat with
    | some (n, t) =>
      (s.updStream c.pol c.runSeq n fun r => { r with
        tiles := r.tiles.set {} t {}, returning := r.returning + 1 }).updHand h fun c =>
          { c with taken := c.taken.erase (n, t), pc := c.pc + 1 }
    | none => s

/-- ALLOC (R141): a credit and a free staging slot: one that no task has and that holds no put tile whose credit is out. -/
def execAlloc (h : HandId) (i : FmtS) (s : State) : Out :=
  .next <|
    let c := s.hand h
    let n := i.n.toNat
    match s.streamOf c.pol c.runSeq n with
    | some (d, r, _) =>
      match (List.range d.runahead).find? fun k => r.tiles.get {} (slotKey k) = {} && !(r.tiles.any fun e => e.2.slot = some k) with
      | some slot =>
        if !s.issues h || d.src ≠ .hands || r.credits = 0 then s else
        (s.updStream c.pol c.runSeq n fun r => { r with
          credits := r.credits - 1, tiles := r.tiles.set {} (slotKey slot) { taken := true } }).updHand h fun c =>
            ({ c with allocs := c.allocs ++ [(n, slot)] }.ww i.wa.val
              (BitVec.ofNat 64 (s.slotVa c.pol c.runSeq n slot d)) false).next
      | none => s
    | none => s

/-- PUT (R141): a release at die scope; the oldest slot the task allocated becomes the tile of the index in the crew
register that IMM names. An index put already, or beyond LENGTH, is illegal. (DEDUCED: log 48) -/
def execPut (h : HandId) (i : FmtS) (s : State) : Out :=
  .next <|
    let c := s.hand h
    let n := i.n.toNat
    if !s.issues h || !s.released h 1 then s else
    match s.streamOf c.pol c.runSeq n with
    | some (d, r, _) =>
      let t := (c.rw (i.imm.toNat % 32)).toNat
      if d.length ≤ t || r.put.contains t then s.illegal h 6 else
      match c.allocs.find? fun e => e.1 = n with
      | some (_, slot) =>
        let b := r.tiles.get {} (slotKey slot)
        (s.updStream c.pol c.runSeq n fun r => { r with
          put := r.put ++ [t]
          tiles := (r.tiles.set {} (slotKey slot) {}).set {} t { b with staged := true, taken := false, slot := some slot } }).updHand h fun c =>
            { c with allocs := c.allocs.erase (n, slot), pc := c.pc + 1 }
      | none => s
    | none => s.illegal h 6

end Sys2Proof.Machine
end

