-- ==== Sys2Proof/Machine/Sec.lean ====
section
/-! DEFINITION. The SEC block (R330, R408 to R411): enrolling and revoking owner keys, and writing firmware. The checks of a
request run in this order: its form, the slots' state, the signature, the security version (DEDUCED from R411's example). -/

namespace Sys2Proof.Machine

open Sys2Proof

def State.keySlot (s : State) (n : Nat) : KeySlot := s.nv.keys.get {} n
def State.setKey (s : State) (n : Nat) (k : KeySlot) : State := { s with nv := { s.nv with keys := s.nv.keys.set {} n k } }

/-- KEYS: bit n, slot n is filled. -/
def State.keysWord (s : State) : Nat := ((List.range 4).map fun n => b2n (s.keySlot n).filled * 2 ^ n).sum

/-- The request of a port's buffer. -/
def HostPort.request (q : HostPort) (n : Nat) : List Byte := (List.range n).map fun i => q.mbox.get 0 i

/-- The request ends: STATUS, BUSY 0, and the next one runs. (DEDUCED: log 56) -/
def State.secDone (s : State) (port status : Nat) : State :=
  { s.updPort port (fun q => { q with mboxStatus := status, mboxBusy := false }) with
    sec := { s.sec with queue := s.sec.queue.filter fun q => q ≠ port } }

/-- The port's request with this CMD is the one that runs. -/
def State.secRuns (s : State) (port cmd : Nat) : Bool :=
  1 ≤ s.boot.stage && s.sec.queue.head? = some port && (s.port port).mboxBusy && (s.port port).mboxCmd = cmd

/-- A key record whose form is right: MAGIC, the command, SLOT, SIGNER, reserved bytes; no key in a REVOKE. -/
def keyRecordOk (cmd len : Nat) (r : List Byte) : Bool :=
  len = 5293 && slice r 0 8 = ascii "ZELPELKY" && leAt r 8 1 = cmd && leAt r 9 1 < 4 && leAt r 10 1 < 4
    && allZero (slice r 11 5) && allZero (slice r 20 12) && (cmd = 1 || allZero (slice r 32 1952))

/-- The signer's signature of a key record (R409). -/
def State.recordSigned (s : State) (r : List Byte) : Bool :=
  let k := s.keySlot (leAt r 10 1)
  Config.mlDsaVerify (ascii "zelpel-image") k.key (Crypto.shake256 (slice r 0 1984)) (slice r 1984 3309)

/-- The first refusal of a key record, 0 for none. (DEDUCED: log 56) -/
def State.keyRefusal (s : State) (cmd len : Nat) (r : List Byte) : Nat :=
  let slot := s.keySlot (leAt r 9 1)
  let signer := s.keySlot (leAt r 10 1)
  if !keyRecordOk cmd len r then 1
  else if cmd = 1 && s.keysWord = 0 then 0
  else if slot.filled = (cmd = 1 : Bool) || !signer.filled then 4
  else if cmd = 2 && popCount 4 s.keysWord = 1 then 5
  else if !s.recordSigned r then 2
  else if cmd = 1 && leAt r 16 4 < signer.floor then 3
  else 0

/-- What an accepted key record leaves in its slot. -/
def keyOf (cmd : Nat) (r : List Byte) : KeySlot :=
  if cmd = 1 then
    { filled := true, digest := Crypto.shake256 (slice r 32 1952), key := slice r 32 1952, floor := leAt r 16 4 }
  else {}

/-- ENROL and REVOKE. (DEDUCED: log 56) -/
def State.keyRequest (s : State) (port cmd : Nat) : State :=
  let len := (s.port port).mboxLen
  let r := (s.port port).request len
  let status := s.keyRefusal cmd len r
  let s := if status ≠ 0 then s else
    (s.setKey (leAt r 9 1) (keyOf cmd r)).raiseBoth .keyChanged 0x2205 [BitVec.ofNat 8 (leAt r 9 1)]
  s.secDone port status

/-- ENROL (R409). -/
def execEnrol (port : Port) (s : State) : Out :=
  .next <| if s.secRuns port.val 1 then s.keyRequest port.val 1 else s

/-- REVOKE (R409). -/
def execRevoke (port : Port) (s : State) : Out :=
  .next <| if s.secRuns port.val 2 then s.keyRequest port.val 2 else s

/-! ## Firmware (R320, R410) -/

/-- Bytes of a firmware slot. (DEDUCED: log 56) -/
def fwSlotSize : Nat := 16 * 1048576

def State.inactiveSlot (s : State) : Nat := 1 - s.nv.fwSlot

/-- The sequence belongs to the other PF. -/
def State.fwTaken (s : State) (port : Port) : Bool := s.sec.owner.any fun q => q ≠ port

/-- FW_WRITE (R410). -/
def execFwWrite (port : Port) (s : State) : Out :=
  .next <|
    if !s.secRuns port.val 3 then s else
    let len := (s.port port.val).mboxLen
    let r := (s.port port.val).request len
    let off := leAt r 0 8
    if off % 8 ≠ 0 || fwSlotSize < off + (len - 8) || fwSlotSize ≤ off then s.secDone port.val 1
    else if s.fwTaken port then s.secDone port.val 6
    else
      let old := s.nv.fwBytes.get [] s.inactiveSlot
      let s := { s with
        nv := { s.nv with fwBytes := s.nv.fwBytes.set [] s.inactiveSlot (putAt old off (r.drop 8)) }
        sec := { s.sec with owner := some port } }
      s.secDone port.val 0

/-- FW_COMMIT (R410): the inactive slot is verified under R320. (DEDUCED: log 56) -/
def execFwCommit (port : Port) (s : State) : Out :=
  .next <|
    if !s.secRuns port.val 4 then s else
    let n := leAt ((s.port port.val).request (s.port port.val).mboxLen) 0 8
    if fwSlotSize < n then s.secDone port.val 1
    else if s.fwTaken port then s.secDone port.val 6
    else
      let fw := slice (s.nv.fwBytes.get [] s.inactiveSlot) 0 n
      let status := if !Config.firmwareVerifies fw then 2 else if Config.firmwareSvn fw < s.nv.fwFloor then 3 else 0
      let s := { s with
        nv := { s.nv with fwPending := status = 0, fwBytes := if status = 0 then s.nv.fwBytes.set [] s.inactiveSlot fw else s.nv.fwBytes }
        sec := { s.sec with owner := none } }
      s.secDone port.val status

end Sys2Proof.Machine
end

