-- ==== Sys2Proof/Machine/Regs.lean ====
section
/-! DEFINITION. The Gatehouse register map (chapter 19): what every offset reads, which fields a read clears (R404), and what a
write of a register does (R7, R400 to R406). -/

namespace Sys2Proof.Machine

open Sys2Proof

/-- A word of fields: the low bit and the value of each. -/
def word (fs : List (Nat × Nat)) : Nat := (fs.map fun f => f.2 * 2 ^ f.1).sum

/-- An RC field: its place, and what clearing it does. -/
structure RcField where
  lo : Nat
  len : Nat
  clear : State → State

/-- A register as a read finds it. -/
structure RegView where
  value : Nat := 0
  rc : List RcField := []

/-! ## Blocks -/

/-- GH (R278, R337, R290, R353). -/
def State.regGh (s : State) (src : Src) (off : Nat) : RegView :=
  let port := src.portOf
  let pf := src.isPf
  if off = 0x0 then
    { value := word [(48, 0x1F7A), (32, 0x2400), (24, s.lowestRev), (12, s.nv.fibre), (8, s.nv.coldPlate)] }
  else if off = 0x8 then { value := s.nv.serial.toNat }
  else if off = 0x10 then { value := s.boot.moduleId }
  else if off = 0x18 then { value := word [(16, port), (8, src.fnOf), (0, (s.fnPolder port src.fnOf).getD 0)] }
  else if off = 0x300 then { value := s.boot.package.toNat }
  else if off = 0x308 then { value := (s.port port).confirmed.toNat }
  else if !pf then {}
  else if 0x100 ≤ off && off < 0x110 then
    let n := (off - 0x100) / 8
    let q := s.port n
    { value := word [(48, q.resets), (32, q.timeouts), (12, b2n q.l0p), (11, b2n q.flit), (7, q.width), (4, q.rate)
        , (1, b2n q.inReset), (0, b2n q.perst)]
      rc := [⟨48, 16, fun s => s.updPort n fun q => { q with resets := 0 }⟩,
        ⟨32, 16, fun s => s.updPort n fun q => { q with timeouts := 0 }⟩] }
  else if 0x200 ≤ off && off < 0x2D0 then
    let d := s.nv.dies.get {} ((off - 0x200) / 16)
    if off % 16 = 0 then { value := if d.unread then 0 else d.features.toNat }
    else { value := word [(8, b2n d.unread), (0, d.rev)] }
  else if 0x400 ≤ off && off < 0x468 then
    let i := (off - 0x400) / 8
    let f := s.fence i
    { value := word [(48, f.fences), (4, f.cause), (0, b2n f.fenced)]
      rc := [⟨48, 16, fun s => s.updFence i fun f => { f with fences := 0 }⟩] }
  else {}

/-- BOOT (chapters 15 and 19). -/
def State.regBoot (s : State) (src : Src) (off : Nat) : RegView :=
  let port := src.portOf
  let b := s.boot
  if off = 0x10000 then { value := word [(32, b.atMs), (16, b.fail), (7, b2n b.failed), (0, b.stage)] }
  else if !src.isPf then {}
  else if off = 0x10010 then
    let c := s.load port
    { value := word [(56, c.reason), (48, c.sect), (16, c.record), (12, c.status), (3, b2n c.consent), (2, b2n c.busy)] }
  else if off = 0x10018 then
    match b.holdBase with
    | none => {}
    | some lo =>
      let base := if b.stage < 3 then lo + port * halfHold else lo + (1 - b.imageHalf) * halfHold
      { value := word [(63, 1), (62, b.imageHalf), (0, base)] }
  else if off = 0x10020 then { value := b.paths.toNat }
  else if 0x11000 ≤ off && off < 0x11000 + 8 * 2088 then
    let n := (off - 0x11000) / 8
    let c := s.bundle n
    { value := word [(56, (bundleId n).1), (48, (bundleId n).2), (24, c.replays), (12, if n < 2048 then 2 else 4)
        , (8, s.nv.fusedSpares.get 0 n), (4, c.chosen), (0, c.state)]
      rc := [⟨24, 16, fun s => s.updBundle n fun c => { c with replays := 0 }⟩] }
  else {}

/-- ALM (chapter 3). -/
def State.regAlm (s : State) (src : Src) (off : Nat) : RegView :=
  let a := s.alm
  if off = 0x20000 then { value := a.now }
  else if off = 0x20008 then { value := a.nowHi.get 0 (32 * src.portOf + src.fnOf) }
  else if off = 0x20018 then
    { value := word [(32, ofSigned 32 a.offset), (9, b2n a.stepRefused), (8, b2n a.holdoverSeen), (4, min 15 a.hops), (0, a.state)] }
  else if !src.isPf then {}
  else if off = 0x20010 then { value := word [(63, b2n a.lock), (8, a.zlPort), (4, b2n a.master), (0, a.source)] }
  else if off = 0x20028 then { value := a.ppsDelay }
  else if off = 0x20030 then { value := a.masterPorts.toNat }
  else {}

/-- The polder that a function sees under a per-polder offset: a VF only its own, a PF any. (DEDUCED: log 59) -/
def State.seesPolder (s : State) (src : Src) (p : Nat) : Bool :=
  src.isPf || s.fnPolder src.portOf src.fnOf = some p

/-- CRIER (chapter 16), with MSI-X (R412). -/
def State.regCrier (s : State) (src : Src) (off : Nat) : RegView :=
  if off < 0x41000 then
    let p := (off - 0x40000) / 0x40
    let c := off / 0x20 % 2
    if !s.seesPolder src p then {} else
    let b := s.book p c
    match off % 0x20 with
    | 0x00 => { value := word [(12, b.base / 4096), (8, b.size), (0, b2n b.enable)] }
    | 0x08 => { value := word [(32, b.prod), (0, b.cons)] }
    | 0x10 =>
      let waits := (s.crier.sluice.filter fun e => e.book = p && e.cls = c).length
      { value := word [(56, b.limit), (40, b.merges), (16, waits), (1, b2n (b.enable && b.full)), (0, b2n b.overflow)]
        rc := [⟨40, 16, fun s => s.updBook p c fun b => { b with merges := 0 }⟩] }
    | _ => {}
  else if off = 0x41000 then
    if src.isPf then
      { value := s.crier.stray, rc := [⟨0, 32, fun s => { s with crier := { s.crier with stray := 0 } }⟩] }
    else {}
  else if 0x41100 ≤ off && off < 0x41300 then
    let p := (off - 0x41100) / 8
    if !s.seesPolder src p then {} else
    let q := s.pol p
    { value := word [(32, q.lastGen), (0, q.lateCount)], rc := [⟨0, 32, fun s => s.updPol p fun q => { q with lateCount := 0 }⟩] }
  else if 0x70000 ≤ off && off < 0x78000 then
    let f := (s.port src.portOf).fn src.fnOf
    let v := (off - 0x70000) / 16
    if v < msixCount src.fnOf then { value := leAt (f.msix.get {} v).bytes (off % 16) 8 } else {}
  else if off = 0x78000 then { value := ((s.port src.portOf).fn src.fnOf).pba.toNat }
  else {}

/-- PWR (chapter 17). -/
def State.regPwr (s : State) (src : Src) (off : Nat) : RegView :=
  let w := s.pwr
  if off = 0x80008 then { value := word [(48, w.watts), (32, w.inForce), (16, w.amps), (0, w.volts)] }
  else if off = 0x80010 then
    { value := word [(7, b2n w.inputSeen), (6, b2n w.aboveCap), (2, b2n s.sealed), (1, b2n w.dflt)] }
  else if !src.isPf then {}
  else if off = 0x80000 then
    let q := s.port src.portOf
    { value := word [(16, b2n q.capLock), (0, q.capLimit)] }
  else if 0x80100 ≤ off && off < 0x80180 then
    if off % 16 ≠ 0 then {} else
    let d := (off - 0x80100) / 16
    let p := s.diePower d
    let h := s.heat (5 + d)
    let th := s.thermalCeiling d
    { value := word [(56, h.temp), (48, h.peak), (40, p.droops), (28, p.step), (24, (s.runningPref d).getD p.preferred), (16, th), (8, w.common)
        , (3, b2n (th < 64)), (2, b2n (w.common < 64)), (1, b2n (stepCeiling p.step < 64)), (0, b2n (s.sealCeiling d < 64))]
      rc := [⟨48, 8, fun s => s.updHeat (5 + d) fun h => { h with peak := 0 }⟩,
        ⟨40, 8, fun s => s.updDiePower d fun p => { p with droops := 0 }⟩] }
  else if 0x80200 ≤ off && off < 0x80228 then
    let i := (off - 0x80200) / 8
    let h := s.heat i
    { value := word [(56, h.temp), (48, h.peak)], rc := [⟨48, 8, fun s => s.updHeat i fun h => { h with peak := 0 }⟩] }
  else {}

/-- POL (chapter 14). -/
def State.regPol (s : State) (off : Nat) : RegView :=
  if off = 0x101000 then
    { value := word [(48, s.sharesTotal), (1, b2n s.pwr.lapsed), (0, b2n s.sealed)] }
  else if 0x101000 ≤ off then {}
  else
    let p := (off - 0x100000) / 0x40
    let q := s.pol p
    match off % 0x40 with
    | 0x00 => { value := word [(56, q.gen), (32, if s.sealed then q.share else 0), (19, q.vf), (16, if q.port = 1 then 1 else 0)
        , (8, q.running.length), (3, q.pending.length), (0, q.state)] }
    | 0x08 => { value := word [(12, q.cmd), (4, q.status), (2, q.mode), (1, b2n q.busy), (0, b2n q.busy)] }
    | 0x10 => { value := word [(48, q.job), (32, q.hi), (16, q.lo), (1, b2n q.rd), (0, b2n q.wr)] }
    | 0x18 => { value := word [(16, q.saveBase / 65536)] }
    | _ => {}

/-- LAND (chapter 11). -/
def State.regLand (s : State) (src : Src) (off : Nat) : RegView :=
  let port := src.portOf
  let r := s.landRegs port
  let clear := fun (f : LandRegs → LandRegs) (s : State) => s.updLandRegs port f
  match off - 0x200000 with
  | 0x00 => { value := r.idx }
  | 0x08 => { value := r.val.toNat }
  | 0x10 => { value := word [(4, r.status), (1, b2n r.busy), (0, b2n r.busy)] }
  | 0x20 => { value := word [(32, (s.share port).2), (0, (s.share port).1)] }
  | 0x28 =>
    let open_ := (s.land.misses.filter fun m => (s.pol m.pol).port = port).length
    { value := word [(48, r.joins), (32, r.aborts), (16, r.stray), (0, open_)]
      rc := [⟨48, 16, clear fun r => { r with joins := 0 }⟩, ⟨32, 16, clear fun r => { r with aborts := 0 }⟩,
        ⟨16, 16, clear fun r => { r with stray := 0 }⟩] }
  | 0x30 => { value := word [(21, r.hwin / 2 ^ 21), (0, b2n r.lock)] }
  | _ => {}

/-- CSW (chapters 2, 3 and 7): per-polder registers only in the owning port's PF. -/
def State.regCsw (s : State) (src : Src) (off : Nat) : RegView :=
  let t := s.tide
  if off = 0x400000 then { value := t.tides.toNat }
  else if off = 0x400008 then { value := word [(32, t.digest), (8, t.stints), (0, b2n t.loaded)] }
  else if off < 0x410000 || 0x410800 ≤ off then {}
  else
    let p := (off - 0x410000) / 0x20
    let q := s.pol p
    if q.port ≠ src.portOf then {} else
    let clear := fun (f : Polder → Polder) (s : State) => s.updPol p f
    match off % 0x20 with
    | 0x00 => { value := word [(12, q.ringBase / 4096), (0, q.ringSize)] }
    | 0x08 =>
      { value := word [(48, q.stale), (32, q.rejects), (16, q.consumer), (2, b2n (16 ≤ q.pending.length))
          , (1, b2n q.frozenBit), (0, b2n q.enable)]
        rc := [⟨48, 16, clear fun q => { q with stale := 0 }⟩, ⟨32, 16, clear fun q => { q with rejects := 0 }⟩] }
    | 0x10 => { value := word [(4, q.warn), (0, b2n q.requireLock)] }
    | _ =>
      { value := word [(48, q.replays), (32, q.slips), (16, q.emptyLate), (0, q.slipHeld)]
        rc := [⟨48, 16, clear fun q => { q with replays := 0 }⟩, ⟨32, 16, clear fun q => { q with slips := 0 }⟩,
          ⟨16, 16, clear fun q => { q with emptyLate := 0 }⟩, ⟨0, 16, clear fun q => { q with slipHeld := 0 }⟩] }

/-- HBM (chapters 8 and 9). -/
def State.regHbm (s : State) (src : Src) (off : Nat) : RegView :=
  let o := off - 0x800000
  if o < 0x180 then
    let i := o / 16
    let t := s.stack i
    if o % 16 = 8 then { value := t.out.toNat } else
    { value := word [(56, t.temp), (48, t.peak), (32, t.active), (4, t.rate), (3, b2n t.hotSeen), (2, b2n t.fenced), (1, b2n t.trained)]
      rc := [⟨48, 8, fun s => s.updStack i fun t => { t with peak := 0 }⟩] }
  else if o < 0x240 then { value := (s.nv.fusedPcs.get 0 ((o - 0x180) / 8)).toNat }
  else if 0x300 ≤ o && o < 0x320 then
    let c := s.keel ((o - 0x300) / 8)
    { value := word [(32, c.capacity), (16, c.groups), (0, c.tier)] }
  else if 0x320 ≤ o && o < 0x340 then
    let k := (o - 0x320) / 8
    let c := s.keel k
    { value := word [(32, c.poisoned), (16, c.maxq), (0, c.fencedBins.toNat)]
      rc := [⟨32, 32, fun s => s.updKeel k fun c => { c with poisoned := 0 }⟩,
        ⟨16, 16, fun s => s.updKeel k fun c => { c with maxq := 0 }⟩] }
  else if 0x400 ≤ o && o < 0x600 then
    let p := (o - 0x400) / 8
    if (s.pol p).port ≠ src.portOf then {} else
    { value := (s.pol p).deadReads, rc := [⟨0, 32, fun s => s.updPol p fun q => { q with deadReads := 0 }⟩] }
  else {}

/-- ZL (chapter 12). -/
def State.regZl (s : State) (off : Nat) : RegView :=
  let o := off - 0x1000000
  if o < 0x1000 then
    let n := o / 0x40
    let l := s.link n
    let clear := fun (f : LinkPort → LinkPort) (s : State) => s.updLink n f
    match o % 0x40 with
    | 0x00 => { value := word [(54, l.peer), (48, l.peerPort), (28, l.delay), (16, ofSigned 12 l.offset), (7, b2n l.downSeen)
        , (6, b2n l.downgraded), (4, l.version), (3, b2n (s.fit n)), (0, l.state)] }
    | 0x08 => { value := word [(3, b2n l.lock), (2, b2n l.retrain), (1, b2n l.maxZl2), (0, b2n l.off)] }
    | 0x10 =>
      { value := word [(48, l.uncorrected), (32, l.crcFail), (16, l.retries), (0, l.bandFull)]
        rc := [⟨48, 16, clear fun l => { l with uncorrected := 0 }⟩, ⟨32, 16, clear fun l => { l with crcFail := 0 }⟩,
          ⟨16, 16, clear fun l => { l with retries := 0 }⟩, ⟨0, 16, clear fun l => { l with bandFull := 0 }⟩] }
    | 0x18 => { value := l.corrected.toNat }
    | 0x20 =>
      { value := word [(48, l.misrouted), (32, l.stale)]
        rc := [⟨48, 16, clear fun l => { l with misrouted := 0 }⟩, ⟨32, 16, clear fun l => { l with stale := 0 }⟩] }
    | _ => {}
  else if o < 0x1040 then
    let x := s.engine ((o - 0x1000) / 8)
    { value := word [(56, x.temp), (2, b2n x.laserEn), (1, b2n x.lightOk), (0, b2n x.shutdown)] }
  else if o = 0x1100 then
    let c := s.commons
    { value := word [(48, c.commons), (32, c.thresh), (16, ofSigned 16 c.shift), (0, b2n c.lock)] }
  else {}

/-- MILL (chapters 4, 9 and 16). -/
def State.regMill (s : State) (off : Nat) : RegView :=
  let d := (off - 0x2000000) / 0x200000
  let c := s.mill d
  match (off - 0x2000000) % 0x200000 with
  | 0x00 =>
    let busy := (List.range 16).map fun t => (16 + t, b2n (s.tileRuns d t))
    { value := word ([(48, c.weir), (4, c.quad.toNat), (3, b2n (c.ganged || c.paired)), (2, b2n c.paired), (1, b2n c.fenced)
        , (0, b2n c.held)] ++ busy) }
  | 0x08 => { value := word [(8, c.stagger), (0, c.ladder)] }
  | 0x10 => { value := c.issued.toNat }
  | 0x18 =>
    { value := word [(48, c.wbCrosses), (32, c.nacks), (16, c.holdWaits), (0, c.hold)]
      rc := [⟨48, 16, fun s => s.updMill d fun c => { c with wbCrosses := 0 }⟩,
        ⟨32, 16, fun s => s.updMill d fun c => { c with nacks := 0 }⟩,
        ⟨16, 16, fun s => s.updMill d fun c => { c with holdWaits := 0 }⟩] }
  | 0x20 => { value := word [(4, c.status), (1, b2n c.resetBusy), (0, b2n c.resetBusy)] }
  | _ => {}

/-- SEC (chapter 19). -/
def State.regSec (s : State) (src : Src) (off : Nat) : RegView :=
  let o := off - 0x3000000
  let q := s.port src.portOf
  if o = 0x0 then
    { value := word [(32, Config.firmwareVersion s.runningFirmware % 2 ^ 32), (16, s.nv.fwFloor), (8, s.keysWord)
        , (1, s.nv.fwSlot), (0, b2n s.nv.fwPending)] }
  else if o = 0x20 then
    { value := word [(32, q.mboxLen), (24, q.mboxStatus), (8, q.mboxCmd), (1, b2n q.mboxBusy), (0, b2n q.mboxBusy)] }
  else if 0x100 ≤ o && o < 0x140 then
    if o % 16 ≠ 0 then {} else
    let k := s.keySlot ((o - 0x100) / 16)
    { value := word [(32, k.floor), (0, leAt k.digest 0 4)] }
  else if 0x800 ≤ o && o < 0xA00 then { value := leAt (s.boot.meas.get [] ((o - 0x800) / 64)) (o % 64) 8 }
  else if 0x8000 ≤ o && o < 0x10000 then { value := leNat ((List.range 8).map fun i => q.mbox.get 0 (o - 0x8000 + i)) }
  else {}

/-! ## Reads -/

/-- The register at an offset as a function sees it; offsets of no register read 0 (R401). -/
def State.regView (s : State) (src : Src) (off : Nat) : RegView :=
  if !s.offLive src off then {}
  else if off < 0x10000 then s.regGh src off
  else if off < 0x20000 then s.regBoot src off
  else if off < 0x40000 then s.regAlm src off
  else if off < 0x80000 then s.regCrier src off
  else if off < 0x100000 then s.regPwr src off
  else if !src.isPf then {}
  else if off < 0x200000 then s.regPol off
  else if off < 0x400000 then s.regLand src off
  else if off < 0x800000 then s.regCsw src off
  else if off < 0x1000000 then s.regHbm src off
  else if off < 0x2000000 then s.regZl off
  else if off < 0x3000000 then s.regMill off
  else s.regSec src off

/-- A read of 8 bytes, or of the low or high half, of the register at an offset: its value, and the RC fields that the
read covers whole cleared (R404). (DEDUCED: log 59) -/
def State.readReg (s : State) (src : Src) (off size half : Nat) : Nat × State :=
  let v := s.regView src off
  let a : RegAcc := { src := src, size := size, half := half }
  let s := v.rc.foldl (fun (s : State) f => if a.covers f.lo f.len then f.clear s else s) s
  let s := if off = offAlmNow && size = 4 && half = 0 && s.offLive src off then
      { s with alm := { s.alm with nowHi := s.alm.nowHi.set 0 (32 * src.portOf + src.fnOf) (s.alm.now / 2 ^ 32) } }
    else s
  (halfOf size half v.value, s)

/-- The access's size and alignment (R400). -/
def accessOk (off size : Nat) : Bool := (size = 4 || size = 8) && off % size = 0

/-- RC_FIELD_READ: a read of `size` bytes at an offset of BAR index 0, RC fields among them. (DEDUCED: log 65) -/
def execRcFieldRead (src : Src) (off size : Nat) (s : State) : Out :=
  .next <|
    match src with
    | .dev _ =>
      if !accessOk off size || !s.srcReaches src then s else
      let (v, s) := s.readReg src (off / 8 * 8) size (off / 4 % 2)
      s.reply src size v
    | _ =>
      if !s.fnUp src.portOf src.fnOf then s
      else if !accessOk off size || !s.srcReaches src then s.toHost src.portOf (.completion src.fnOf [] 1 false)
      else
        let (v, s) := s.readReg src (off / 8 * 8) size (off / 4 % 2)
        s.reply src size v

/-! ## Writes -/

/-- BOOT_LOAD_CTL: CONSENT is set before GO acts. -/
def State.loadCtlWrite (s : State) (port : Port) (a : RegAcc) : State :=
  let s := if a.bit 3 then s.updLoad port.val fun c => { c with consent := true } else s
  if a.bit 0 then s.loadGo port false else s

/-- SEC_MBOX_CTL: GO starts the port's request, behind the other's where that runs (R411); a request whose CMD or LENGTH is
invalid ends at once with STATUS 1. -/
def State.mboxCtlWrite (s : State) (port : Nat) (a : RegAcc) : State :=
  let q := s.port port
  if q.mboxBusy then s else
  let len := a.fld 32 16 q.mboxLen
  let cmd := a.fld 8 8 q.mboxCmd
  let s := s.updPort port fun q => { q with mboxLen := len, mboxCmd := cmd }
  if !a.bit 0 then s
  else if cmd < 1 || 4 < cmd || len < 8 || 32768 < len then s.updPort port fun q => { q with mboxStatus := 1 }
  else { s.updPort port (fun q => { q with mboxBusy := true }) with sec := { s.sec with queue := s.sec.queue ++ [port] } }

/-- SEC_MBOX: ignored while BUSY is 1. -/
def State.mboxWrite (s : State) (port o : Nat) (a : RegAcc) : State :=
  let q := s.port port
  if q.mboxBusy then s else
  s.updPort port fun q => { q with
    mbox := (bytesAt (o + 4 * a.half) (leBytes a.size a.value.toNat)).foldl (fun m e => m.set 0 e.1 e.2) q.mbox }

/-- Writes to CRIER, per polder: the owning PF, and its VF for CONS alone. -/
def State.crierWrite (s : State) (off : Nat) (a : RegAcc) : State :=
  let p := (off - 0x40000) / 0x40
  let c := off / 0x20 % 2
  if !s.bookWriter p a off then s else
  match off % 0x20 with
  | 0x00 => if a.src.isPf then s.dbBaseWrite p c a else s
  | 0x08 => s.dbRingWrite p c a
  | 0x10 => if a.src.isPf then s.dbStatWrite p c a true else s
  | _ => s

/-- Writes to POL, by the PF that owns the polder; POL_SEAL by either. -/
def State.polWrite (s : State) (off : Nat) (a : RegAcc) : State :=
  if off = 0x101000 then { s with pwr := { s.pwr with lapsed := s.pwr.lapsed && !a.bit 1 } }
  else if 0x101000 ≤ off then s
  else
    let p := (off - 0x100000) / 0x40
    if (s.pol p).port ≠ a.src.portOf then s else
    match off % 0x40 with
    | 0x08 => s.polCtlWrite p a
    | 0x10 => s.polGrantWrite p a
    | 0x18 => s.polSaveWrite p a
    | _ => s

/-- Writes to LAND. -/
def State.landWrite (s : State) (port off : Nat) (a : RegAcc) : State :=
  match off - 0x200000 with
  | 0x00 => s.landIdxWrite port a
  | 0x08 => s.landValWrite port a
  | 0x10 => s.landCtlWrite port a
  | 0x18 => (List.range 64).foldl (fun s p => s.retryRecords p) (s.landResumeWrite port a)
  | 0x30 => s.landHwinWrite port a
  | _ => s

/-- Writes to CSW, by the PF that owns the polder. -/
def State.cswWrite (s : State) (off : Nat) (a : RegAcc) : State :=
  let p := (off - 0x410000) / 0x20
  if off < 0x410000 || 0x410800 ≤ off || (s.pol p).port ≠ a.src.portOf then s else
  match off % 0x20 with
  | 0x00 => s.mringBaseWrite p a
  | 0x08 => s.mringCtlWrite p a
  | 0x10 => s.fbCfgWrite p a
  | _ => s

/-- Writes to ZL: control registers by the owning PF, the write-one fields of a status register by either. -/
def State.zlRegWrite (s : State) (port off : Nat) (a : RegAcc) : State :=
  let o := off - 0x1000000
  if o < 0x1000 then
    let n := o / 0x40
    match o % 0x40 with
    | 0x00 => s.updLink n fun l => { l with downSeen := l.downSeen && !a.bit 7, downgraded := l.downgraded && !a.bit 6 }
    | 0x08 => if s.zlMay n port then s.zlCtlWrite n a else s
    | _ => s
  else if o < 0x1040 then s.oeWrite port ((o - 0x1000) / 8) a
  else if o = 0x1100 && port = s.timeOwner then s.commonsWrite a
  else s

/-- Writes to ALM: from Stage 3 by the time owner. -/
def State.almRegWrite (s : State) (port off : Nat) (a : RegAcc) : State :=
  if 3 ≤ s.boot.stage && port ≠ s.timeOwner then s else
  match off - 0x20000 with
  | 0x10 => s.almCtlWrite a
  | 0x18 => { s with alm := { s.alm with
      stepRefused := s.alm.stepRefused && !a.bit 9, holdoverSeen := s.alm.holdoverSeen && !a.bit 8 } }
  | 0x20 => s.almStepWrite a
  | 0x28 => s.almPpsWrite a
  | 0x30 => s.almMasterWrite a
  | _ => s

/-- A write of the register at an offset, by an access that reaches it: RO and RSV fields ignore it (R7, R11), a lock
bit takes the fields written with it (R405). The RESET of MILL_CTL_d is the command MILL_RESET, whose operands say
what its test finds. (DEDUCED: log 59) -/
def State.writeReg (s : State) (off : Nat) (a : RegAcc) : State :=
  if !s.offLive a.src off then s
  else if 0x40000 ≤ off && off < 0x41000 then s.crierWrite off a
  else if 0x70000 ≤ off && off < 0x78000 then
    s.msixWrite a.src.portOf a.src.fnOf (off - 0x70000 + 4 * a.half) a.size a.value
  else
    match a.src with
    | .vf _ _ => s
    | .pf port | .dev port =>
      if off = 0x10010 then s.loadCtlWrite port a
      else if 0x20000 ≤ off && off < 0x40000 then s.almRegWrite port.val off a
      else if off = 0x80000 then s.pwrCapWrite port.val a
      else if off = 0x80010 then { s with pwr := { s.pwr with inputSeen := s.pwr.inputSeen && !a.bit 7 } }
      else if 0x100000 ≤ off && off < 0x200000 then s.polWrite off a
      else if 0x200000 ≤ off && off < 0x400000 then s.landWrite port.val off a
      else if 0x400000 ≤ off && off < 0x800000 then s.cswWrite off a
      else if 0x800000 ≤ off && off < 0x800180 && off % 16 = 0 then
        s.updStack ((off - 0x800000) / 16) fun t => { t with hotSeen := t.hotSeen && !a.bit 3 }
      else if 0x1000000 ≤ off && off < 0x2000000 then s.zlRegWrite port.val off a
      else if off = 0x3000020 then s.mboxCtlWrite port.val a
      else if 0x3008000 ≤ off && off < 0x3010000 then s.mboxWrite port.val (off - 0x3008000) a
      else s

/-- REGISTER_WRITE: a write of `size` bytes at an offset of BAR index 0, or through the device-side view; one of any
other size or alignment is discarded (R400). (DEDUCED: log 65) -/
def execRegisterWrite (src : Src) (off size : Nat) (value : Word) (s : State) : Out :=
  .next <|
    if accessOk off size && s.srcReaches src then
      s.writeReg (off / 8 * 8) { src := src, size := size, half := if size = 4 then off / 4 % 2 else 0, value := value }
    else s

end Sys2Proof.Machine
end

