-- ==== Sys2Proof/Machine/HandsMem.lean ====
section
/-! DEFINITION. Memory from a Hand (R135 to R139): global loads and stores, the fill of a sector miss, the local store,
atomics, and ILLEGAL_INSTRUCTION. -/

namespace Sys2Proof.Machine

open Sys2Proof

/-! ## Addresses (R136, R137) -/

def sext24 (v : BitVec 24) : Nat := ofSigned 64 v.toInt

/-- The device virtual address of a lane: wWB + XO + IMM, both sign-extended. -/
def Hand.globalVa (c : Hand) (i : FmtM) (l : Nat) : Nat :=
  ((c.rw i.wb.val).toNat + ofSigned 64 (c.rx i.xo.val l).toInt + sext24 i.imm) % 2 ^ 64

/-- The local-store address of a lane: XO + IMM, taken unsigned. -/
def Hand.localVa (c : Hand) (i : FmtM) (l : Nat) : Nat :=
  ((c.rx i.xo.val l).toNat + ofSigned 32 i.imm.toInt) % 2 ^ 32

def Hand.memLanes (c : Hand) (i : FmtM) : List Nat := c.select i.fsel.val i.finv

/-- A register used as an address is poisoned (R127). -/
def Hand.badAddr (c : Hand) (i : FmtM) (global : Bool) : Bool :=
  let ls := c.memLanes i
  !ls.isEmpty && ((global && c.pw i.wb.val) || ls.any fun l => c.px i.xo.val l)

/-- The value that a lane stores, and its poison. -/
def Hand.source (c : Hand) (i : FmtM) (l : Nat) : Nat × Bool :=
  ((c.rxs i.xs.val (sizeRegs i.size.val) l) % 2 ^ (8 * sizeBytes i.size.val),
    c.pxs i.xs.val (sizeRegs i.size.val) l || c.pf i.fsel.val)

/-- The lane registers that a format M instruction names. -/
def memRegs (i : FmtM) (n : Nat) : List Nat := i.xo.val :: (List.range n).map (i.xs.val + ·)

/-- A bad field of a format M instruction (R125): its sub-code. -/
def memFault (i : FmtM) (n : Nat) : Option Nat :=
  if 4 < i.size.val then some 1 else if 64 < i.xs.val + n then some 3 else none

/-- What every memory instruction of a Hand does before it reads or writes: it issues when its registers are there,
and its bad fields, its poisoned address and its misalignment fence the kernel, in that order. (DEDUCED: log 46) -/
def State.memStart (s : State) (h : Nat) (i : FmtM) (n : Nat) (global : Bool) (bad : Option Nat) (go : State → State) : State :=
  let c := s.hand h
  if !s.issuesAt h (if global then (c.memLanes i).map (c.globalVa i) else []) then s else
  match bad with
  | some sub => s.illegal h sub
  | none =>
    if (memRegs i n).any c.pendingX then s
    else if c.badAddr i global then s.poisonConsumed h
    else
      let va := fun l => if global then c.globalVa i l else c.localVa i l
      if (c.memLanes i).any fun l => va l % sizeBytes i.size.val ≠ 0 then s.handFault h .misaligned 0 0 else go s

/-! ## Global accesses -/

/-- The staging slot of one of the manifest's streams on the Hand's die that bytes lie in: stream, buffer key, offset. -/
def State.stagedAt (s : State) (h va len : Nat) : Option (Nat × Nat × Nat) :=
  let c := s.hand h
  match s.schedule ((s.pol c.pol).run c.runSeq).m.schedule with
  | none => none
  | some sc =>
    (List.range sc.streams.length).findSome? fun n =>
      match sc.streams[n]?, s.streamOf c.pol c.runSeq n with
      | some d, some (_, r, _) =>
        if d.die ≠ h / 1024 || (d.src ≠ .hands && d.dst ≠ .hands) then none else
        (List.range d.runahead).findSome? fun slot =>
          let a := s.slotVa c.pol c.runSeq n slot d
          if a ≤ va && va + len ≤ a + Fpu.footprint d.fmt then
            let key := if d.src = .hands then
                match r.tiles.find? fun e => e.2.slot = some slot with
                | some e => e.1
                | none => slotKey slot
              else match r.tiles.find? fun e => e.2.taken && e.1 % d.runahead = slot with
              | some e => e.1
              | none => slotKey slot
            some (n, key, va - a)
          else none
      | _, _ => none

/-- Where a lane's access goes: to a staging slot, or on. -/
inductive LaneAt where
  | far (r : Reach)
  | staged (stream key off : Nat)
  /-- Refused, and PERMISSION raised already (R241). -/
  | aborted
deriving DecidableEq, Repr

def LaneAt.isStaged : LaneAt → Bool
  | .staged _ _ _ => true
  | _ => false

/-- Look up every lane; `none` where a translation miss holds the instruction. -/
def State.lanesAt (s : State) (h : Nat) (i : FmtM) (acc : Nat) : Option (List (Nat × Nat × LaneAt)) × State :=
  let c := s.hand h
  let tag := ((s.pol c.pol).run c.runSeq).m.tag
  (c.memLanes i).foldl (fun (x : Option (List (Nat × Nat × LaneAt)) × State) l =>
    let (got, s) := x
    let va := c.globalVa i l
    match s.stagedAt h va (sizeBytes i.size.val) with
    | some (n, key, off) =>
      (got.map fun g => g ++ [(l, va, if acc = 2 then .far .denied else .staged n key off)], s)
    | none =>
      let (k, s) := s.translate (.hand h) c.pol va acc tag
      match k with
      | .denied => (got.map fun g => g ++ [(l, va, .far .denied)], s)
      | .aborted => (got.map fun g => g ++ [(l, va, .aborted)], s)
      | .fenced => (got.map fun g => g ++ [(l, va, .far .fenced)], s)
      | .ok e dpa => (got.map fun g => g ++ [(l, va, .far (s.reach c.pol acc (sizeBytes i.size.val) e dpa))], s)
      | _ => (none, s)) (some [], s)

/-- Once the checks are made: the walks end, and PERMISSION and FENCED_TARGET are raised once each for the instruction
(R136, R206). (DEDUCED: log 46) -/
def State.checked (s : State) (h : Nat) (ls : List (Nat × Nat × LaneAt)) : State :=
  let p := (s.hand h).pol
  let s := s.endWalks (.hand h)
  let s := match ls.find? fun e => e.2.2 = .far .denied with
    | some (_, va, _) => s.permission (srcHand h) p va 1
    | none => s
  match ls.find? fun e => e.2.2 = .far .fenced with
  | some (_, va, _) => s.raiseOwn .fencedTarget (srcHand h) p (addrDetail va 1)
  | none => s

/-- The lanes whose access reaches memory. -/
def reached (ls : List (Nat × Nat × LaneAt)) : List (Nat × Nat × Word × Nat) :=
  ls.filterMap fun e => match e.2.2 with
    | .far (.memory w dpa) => some (e.1, e.2.1, w, dpa)
    | _ => none

/-- A local access of the device-side view. (DESIGN CHOICE: log 47) -/
def State.gateOff (s : State) (dpa : Nat) : Option Nat :=
  if dpaModule dpa ≠ s.boot.moduleId then none else
  match s.region (dpaOffset dpa) with
  | .gate o => some o
  | _ => none

/-- An earlier access of the crew to a sector that a later one waits for: a store still in the queue or still to win
its line, a load or an atomic that has not returned (R208). (DEDUCED: log 46) -/
def State.earlier (s : State) (h key : Nat) (loads : Bool) : Bool :=
  let c := s.hand h
  let line := key / 8
  (c.stores.any fun e => e.line = line && e.bytes.any fun b => b.1 / 128 = key % 8)
    || (loads && c.misses.any fun m => m.sector = key)
    || (c.atoms.any fun a => a.sector = key)

/-- Miss entries in use (R135): a sector that loads or atomics wait for holds one. -/
def Hand.entriesUsed (c : Hand) : Nat := (c.misses.map MissEntry.sector ++ c.atoms.map AtomWait.sector).eraseDups.length

def State.handLocal (s : State) (h : Nat) : Nat := ((s.kernelOf h).map KernelDecl.localKib).getD 48

/-! ## Loads -/

/-- The writes that a lane's load makes, from a byte offset of its sector. -/
def loadDests (i : FmtM) (signed bad : Bool) (l off : Nat) : List FillDest :=
  if i.size.val = 4 then
    (List.range 4).map fun k => { lane := l, reg := i.xs.val + k, off := off + 4 * k, size := 4, bad := bad }
  else [{ lane := l, reg := i.xs.val, off := off, size := sizeBytes i.size.val, signed := signed, bad := bad }]

/-- Bytes that a load takes at once. -/
def Hand.loadNow (c : Hand) (i : FmtM) (signed : Bool) (l : Nat) (bytes : List Byte) (poison : Bool) : Hand :=
  (loadDests i signed (c.pf i.fsel.val) l 0).foldl (fun c d => c.fillDest bytes poison d) c

/-- Load data that is not given: free bytes, poisoned. -/
def State.loadFree (s : State) (h : Nat) (i : FmtM) (signed : Bool) (l : Nat) : State :=
  let (bs, s) := s.freeBytes (sizeBytes i.size.val)
  s.updHand h fun c => c.loadNow i signed l bs true

/-- A load that hits in the L1 at once: SCOPE 0 under CACHE_GLOBAL (R214). -/
def State.l1Hit (s : State) (h : Nat) (i : FmtM) (key : Nat) : Option L1Line :=
  let cached := ((s.kernelOf h).map KernelDecl.cacheGlobal).getD false
  if cached && i.scope = 0 then (s.hand h).l1Find key else none

/-- A load under CACHE_GLOBAL of a hint fills the L1; one of a wider scope updates the sector that stands there (R136, R171, R214). -/
def State.fillsL1 (s : State) (h : Nat) (i : FmtM) (key hint : Nat) : Bool :=
  if i.scope = 0 then ((s.kernelOf h).map KernelDecl.cacheGlobal).getD false && hint ≠ 3 else ((s.hand h).l1Find key).isSome

/-- A lane's load from a sector of 128 B that is there. -/
def State.loadSector (s : State) (h : Nat) (i : FmtM) (signed : Bool) (l va off : Nat) (line : L1Line) : State :=
  let c := s.hand h
  let s := if line.poison then s.raiseOwn .poisonRead (srcHand h) c.pol (addrDetail va 1) else s
  s.updHand h fun c =>
    { (loadDests i signed (c.pf i.fsel.val) l off).foldl (fun c d => c.fillDest line.data line.poison d) c with
      l1 := c.l1.map fun x => if x.sector = line.sector then { x with used := s.clock } else x }

/-- A sector of a staging slot, the bytes put there; those that nothing wrote are free. (DESIGN CHOICE: log 45) -/
def State.stagedSector (s : State) (h n key base sector : Nat) : L1Line × State :=
  let c := s.hand h
  let b := ((((s.pol c.pol).run c.runSeq).streams.get {} n).tiles.get {} key)
  let (fr, s) := s.freeBytes 128
  let data := (List.range 128).map fun j =>
    let a := 128 * sector + j
    if base ≤ a && b.bytes.any fun e => e.1 = a - base then tileByte b (a - base) else fr.getD j 0
  ({ sector := sector, data := data, poison := (List.range 128).any fun j => base ≤ 128 * sector + j && b.poison.contains ((128 * sector + j - base) / 128)
     used := s.clock }, s)

/-- A load from a staging slot: it is there at once, and fills the L1 as another load does (R136, R140). (DESIGN
CHOICE: log 45) -/
def State.loadStaged (s : State) (h : Nat) (i : FmtM) (signed : Bool) (l va n key off : Nat) : State :=
  let a := stagedAddr va
  match s.l1Hit h i (a / 128) with
  | some line => s.loadSector h i signed l va (a % 128) line
  | none =>
    let (line, s) := s.stagedSector h n key (a - off) (a / 128)
    let s := s.loadSector h i signed l va (a % 128) line
    if s.fillsL1 h i (a / 128) i.hint.val then s.updHand h fun c => c.l1Put (l1Sets (s.handLocal h)) line else s

/-- Ask for a sector from beyond the L1: of the Bin, of a host's window or of another module. -/
def State.askSector (s : State) (h key va hint : Nat) : State :=
  let p := (s.hand h).pol
  let dpa := s.sectorDpa key
  if dpaModule dpa ≠ s.boot.moduleId then (s.remoteRead p 1 dpa 128 (.hand h (missSlot key)) va).getD s
  else
    match s.region (dpaOffset dpa) with
    | .host q w => ((s.hostRead q p w 128 (.hand h (missSlot key)) va).map Prod.snd).getD s
    | _ => s.binRead (h / 1024) p (key / 8) (1 <<< (key % 8)) hint

/-- One sector that an instruction's lanes miss: its entry and its request, which serves them all (R135). -/
def State.missSector (s : State) (h : Nat) (i : FmtM) (signed : Bool) (ls : List (Nat × Nat × Word × Nat)) (key : Nat) : State :=
  let c := s.hand h
  match ls.filter fun e => s.sectorKey e.2.2.2 = key with
  | [] => s
  | (l, va, e, dpa) :: rest =>
    let hint := if i.hint = 0 then eHint e else i.hint.val
    let m : MissEntry := {
      sector := key, pol := c.pol, gen := (s.pol c.pol).gen, hint := hint, va := va
      fillL1 := s.localMem dpa && s.fillsL1 h i key hint
      dests := ((l, va, e, dpa) :: rest).flatMap fun e => loadDests i signed (c.pf i.fsel.val) e.1 (e.2.2.2 % 128) }
    (s.updHand h fun c => { c with misses := c.misses ++ [m] }).askSector h key va hint

/-- One lane's part of a load that is answered at once. -/
def State.loadLane (s : State) (h : Nat) (i : FmtM) (signed : Bool) (e : Nat × Nat × LaneAt) : State :=
  let c := s.hand h
  match e.2.2 with
  | .far .denied => s.loadFree h i signed e.1
  | .far .fenced => s.loadFree h i signed e.1
  | .aborted => s.loadFree h i signed e.1
  | .staged n key off => s.loadStaged h i signed e.1 e.2.1 n key off
  | .far (.memory _ dpa) =>
    match s.gateOff dpa with
    | some o =>
      let size := sizeBytes i.size.val
      let (v, s) := s.readReg (.dev (if c.pol = 0 then 0 else 1)) (o / 8 * 8) size (o / 4 % 2)
      s.updHand h fun c => c.loadNow i signed e.1 (leBytes size v) false
    | none =>
      let key := s.sectorKey dpa
      match s.l1Hit h i key with
      | some line => s.loadSector h i signed e.1 e.2.1 (dpa % 128) line
      | none => s

/-- The sectors of staging slots that lanes reach. -/
def stagedKeys (ls : List (Nat × Nat × LaneAt)) : List Nat :=
  (ls.filter fun e => e.2.2.isStaged).map fun e => stagedAddr e.2.1 / 128

/-- A global load (R136, R214): zero-extended, or sign-extended for LDS. -/
def State.loadGlobal (s : State) (h : Nat) (i : FmtM) (signed : Bool) : State :=
  let n := sizeRegs i.size.val
  s.memStart h i n true (memFault i n) fun s =>
    match s.lanesAt h i 0 with
    | (none, s) => s
    | (some ls, s) =>
      let far := (reached ls).filter fun e => (s.gateOff e.2.2.2).isNone && (s.l1Hit h i (s.sectorKey e.2.2.2)).isNone
      let keys := (far.map fun e => s.sectorKey e.2.2.2).eraseDups
      if (keys ++ stagedKeys ls).any fun k => s.earlier h k true then s
      else if missEntries (s.handLocal h) < (s.hand h).entriesUsed + keys.length then s
      else
        let s := s.checked h ls
        -- a hit is taken before a fill may put it out
        let s := (ls.filter fun e => !e.2.2.isStaged).foldl (fun s e => s.loadLane h i signed e) s
        let s := (ls.filter fun e => e.2.2.isStaged).foldl (fun s e => s.loadLane h i signed e) s
        let s := keys.foldl (fun s k => s.missSector h i signed far k) s
        s.updHand h Hand.next

/-- LD (R136). -/
def execLd (h : HandId) (i : FmtM) (s : State) : Out := .next (s.loadGlobal h i false)

/-- LDS (R125, R136). -/
def execLds (h : HandId) (i : FmtM) (s : State) : Out := .next (s.loadGlobal h i true)

/-- HAND_MISS_FILL (R135): the Bin has performed the load, and its data returns. A sector that the Bin has not taken up is asked
of it; one of a fenced Keel completes with FENCED_TARGET (R206). Data of a host or another module returns with its own
message. -/
def execHandMissFill (h : HandId) (sector : Nat) (s : State) : Out :=
  .next <|
    let c := s.hand h
    match c.misses.find? fun m => m.sector = sector with
    | none => s
    | some m =>
      let dpa := s.sectorDpa sector
      let line := sector / 8
      let ofs := sector % 8
      let taken := fun (s : State) => match ((s.hand h).misses.find? fun m => m.sector = sector).bind MissEntry.got with
        | some (bs, po) => s.fillMiss h sector bs po
        | none => s
      if dpaModule dpa ≠ s.boot.moduleId || !(s.region (dpaOffset dpa)).isMem || (s.mill (h.val / 1024)).fenced then s
      else if s.homeFenced line then
        let (bs, s) := s.freeBytes 128
        if s.isLate m.pol m.gen m.orphan then s.fillMiss h sector bs true
        else (s.fillMiss h sector bs true).raiseOwn .fencedTarget (srcHand h) m.pol (addrDetail m.va 1)
      else
        if m.got.isSome then taken s else
        match s.binFind (h.val / 1024) m.pol line with
        | none => taken (s.binRead (h.val / 1024) m.pol line (1 <<< ofs) m.hint)
        | some (key, b) =>
          if b.waits.any fun w => w.write.isEmpty && w.read.getLsbD ofs then taken (s.serveWaits key)
          else taken (s.binRead (h.val / 1024) m.pol line (1 <<< ofs) m.hint)

/-! ## Stores -/

/-- What one lane stores: the address of its first byte as the queue names it, the hint, where it goes. -/
structure StoreLane where
  lane : Nat
  at_ : Nat
  va : Nat
  hint : Nat
  goal : StoreGoal
deriving DecidableEq, Repr

/-- One byte of a store. -/
structure StoreByte where
  at_ : Nat
  v : Byte
  bad : Bool
  hint : Nat
  goal : StoreGoal
  va : Nat
deriving DecidableEq, Repr

/-- The lanes whose store is performed, and where each goes. -/
def State.storeLanes (s : State) (i : FmtM) (ls : List (Nat × Nat × LaneAt)) : List StoreLane :=
  ls.filterMap fun e => match e.2.2 with
    | .far (.memory w dpa) =>
      some ⟨e.1, s.keyAddr dpa, e.2.1, if i.hint = 0 then eHint w else i.hint.val, if (s.gateOff dpa).isSome then .gate e.1 else .line⟩
    | .staged n key off => some ⟨e.1, stagedAddr e.2.1, e.2.1, i.hint.val, .staged n key (stagedAddr (e.2.1 - off))⟩
    | _ => none

/-- The bytes that lanes store: the highest lane's stands (R209). -/
def storeBytes (c : Hand) (i : FmtM) (ls : List StoreLane) : List StoreByte :=
  ls.foldl (fun out e =>
    let (v, bad) := c.source i e.lane
    let new := (List.range (sizeBytes i.size.val)).map fun j =>
      (⟨e.at_ + j, BitVec.ofNat 8 (v / 2 ^ (8 * j)), bad, e.hint, e.goal, e.va + j⟩ : StoreByte)
    (out.filter fun x => !new.any fun y => y.at_ = x.at_) ++ new) []

/-- Entries of the store queue: bytes of one line, of one goal, poison and hint. -/
def storeEntries (bs : List StoreByte) (dead : Bool) (gen : Nat) : List StoreEntry :=
  let key := fun (b : StoreByte) => (b.at_ / 1024, b.goal, b.bad, b.hint)
  (bs.map key).eraseDups.map fun k =>
    let mine := bs.filter fun b => key b = k
    { line := k.1, goal := k.2.1, dead := dead, poison := k.2.2.1, hint := k.2.2.2, gen := gen
      va := (mine.map fun b => b.va - b.at_ % 1024).headD 0
      bytes := mine.map fun b => (b.at_ % 1024, b.v) }

/-- Sectors of the store queue that entries take: it holds 32 (R135). -/
def queueSectors (es : List StoreEntry) : Nat := (es.map fun e => (e.bytes.map fun b => b.1 / 128).eraseDups.length).sum

/-- A store updates the L1's line if it is present (R136). -/
def L1Line.store (x : L1Line) (bs : List StoreByte) : L1Line :=
  let mine := bs.filter fun b => b.at_ / 128 = x.sector
  { x with
    data := mine.foldl (fun d b => d.set (b.at_ % 128) b.v) x.data
    poison := (x.poison && mine.length < 128) || mine.any StoreByte.bad }

/-- Where in its stint's queue a crew's remote write stands, which a fabric-scope release waits for (R213). -/
def State.noteRemote (s : State) (h m : Nat) : State :=
  let p := (s.hand h).pol
  match s.remotePort p m 1 with
  | none => s
  | some n =>
    match s.linkStint n p 1 with
    | none => s
    | some i =>
      let behind := (s.link n).chunksOut.get 0 i + ((s.link n).chunks.get [] i).length
      s.updHand h fun c => { c with
        remote := (c.remote.filter fun e => (s.link e.1).chunksOut.get 0 e.2.1 < e.2.2) ++ [(n, i, behind)] }

/-- A global store (R135, R136, R172): its bytes enter the store queue. -/
def State.store (s : State) (h : Nat) (i : FmtM) (dead : Bool) : State :=
  let n := sizeRegs i.size.val
  s.memStart h i n true (memFault i n) fun s =>
    match s.lanesAt h i 1 with
    | (none, s) => s
    | (some ls, s) =>
      let c := s.hand h
      let bs := storeBytes c i (s.storeLanes i ls)
      let es := storeEntries bs dead (s.pol c.pol).gen
      if bs.any fun b => (c.misses.any fun m => m.sector = b.at_ / 128) || (c.atoms.any fun a => a.sector = b.at_ / 128) then s
      else if 32 < queueSectors c.stores + queueSectors es then s
      else
        (s.checked h ls).updHand h fun c => { c.next with
          stores := c.stores ++ es
          l1 := c.l1.map fun x => x.store bs }

/-- ST (R136). -/
def execSt (h : HandId) (i : FmtM) (s : State) : Out := .next (s.store h i false)

/-- ST.DEAD (R172). -/
def execStDead (h : HandId) (i : FmtM) (s : State) : Out := .next (s.store h i true)

/-! ## The store queue (R135) -/

/-- Bytes of a line in whole chunks of 32 B for another module: what the store does not give is free. (DEDUCED: log
29) -/
def State.chunked (s : State) (bs : Bytes) : Bytes × State :=
  let (fr, s) := s.freeBytes 1024
  ((List.range 1024).filterMap fun j =>
    if bs.any fun e => e.1 / 32 = j / 32 then some (j, ((bs.find? fun e => e.1 = j).map Prod.snd).getD (fr.getD j 0)) else none, s)

/-- A store leaves the queue for another module, a host's window or a Gatehouse register; a poisoned register write is
dropped. (DESIGN CHOICE: log 47) -/
def State.storeAway (s : State) (h : Nat) (e : StoreEntry) : State :=
  let p := (s.hand h).pol
  let dpa := s.sectorDpa (8 * e.line)
  let runs := fun (s : State) (bs : Bytes) (f : State → Nat × List Byte → Option State) =>
    ((byteRuns bs).foldl (fun x r => x.bind fun s => f s r) (some s)).getD (s.permission (srcHand h) p e.va 1)
  if dpaModule dpa ≠ s.boot.moduleId then
    let (bs, s) := s.chunked e.bytes
    (runs s bs fun s r => s.remoteWrite p 1 (dpa + r.1) r.2 e.poison e.hint).noteRemote h (dpaModule dpa)
  else
    match s.region (dpaOffset dpa + (e.bytes.headD (0, 0)).1) with
    | .host q w =>
      if s.hostDown q then s.raiseOwn .fencedTarget (srcHand h) p (addrDetail e.va 1) else
      let at_ := w - (e.bytes.headD (0, 0)).1
      runs s e.bytes fun s r => s.hostWrite q p (at_ + r.1) r.2 e.poison (srcHand h) (e.va + r.1) 1
    | .gate o =>
      if e.poison then s else
      let size := e.bytes.length
      s.writeReg (o / 8 * 8) {
        src := .dev (if p = 0 then 0 else 1), size := size
        half := if size = 4 then o / 4 % 2 else 0, value := BitVec.ofNat 64 (leNat (e.bytes.map Prod.snd)) }
    | _ => s

/-- BIN_WRITE (R135, R196): the oldest store of a Hand's queue leaves it. Of local memory the Bin accepts it; a stopped domain
completes it with FENCED_TARGET (R185, R206). -/
def execBinWrite (h : HandId) (s : State) : Out :=
  .next <|
    let c := s.hand h
    let d := h.val / 1024
    match c.stores with
    | [] => s
    | e :: rest =>
      let popped := s.updHand h fun c => { c with stores := rest }
      match e.goal with
      | .gate _ => popped.storeAway h e
      | .staged n key base =>
        popped.updTile c.pol c.runSeq n key fun b => { b with
          bytes := b.bytes ++ e.bytes.map fun x => (1024 * e.line + x.1 - base, x.2)
          poison := if e.poison then b.poison ++ (e.bytes.map fun x => (1024 * e.line + x.1 - base) / 128).eraseDups else b.poison }
      | .line =>
      let dpa := s.sectorDpa (8 * e.line)
      if dpaModule dpa ≠ s.boot.moduleId || !(s.region (dpaOffset dpa)).isMem then popped.storeAway h e
      else if (s.mill d).fenced || s.homeFenced e.line || (s.stackFenced e.line && (s.granFind e.line).isNone) then
        popped.raiseOwn .fencedTarget (srcHand h) c.pol (addrDetail e.va 1)
      else
      let w : BinWait := {
        write := e.bytes, dead := e.dead, poison := e.poison, hint := e.hint, gen := e.gen, hand := h }
      let taken := fun (s : State) => s.updHand h fun c => { c with stores := rest, unwon := c.unwon + 1 }
      match s.binFind d c.pol e.line with
      | some (key, b) =>
        if isPutWait b.st then s
        else ((taken s).setBin key { b with waits := b.waits ++ [w] }).serveWaits key
      | none =>
        match s.binMiss d c.pol e.line w with
        | none => s
        | some s' => if (s'.binFind d c.pol e.line).isSome then taken s' else s'

/-! ## The local store (R137) -/

def Hand.localBytes (c : Hand) (a n : Nat) : List Byte := (List.range n).map fun j => c.localStore.get 0 (a + j)
def Hand.localBad (c : Hand) (a n : Nat) : Bool := (List.range n).any fun j => c.localPoison.get false (a + j)

def Hand.localWrite (c : Hand) (a : Nat) (bs : List Byte) (bad : Bool) : Hand :=
  { c with
    localStore := patch c.localStore (bytesAt a bs)
    localPoison := (List.range bs.length).foldl (fun m j => m.set false (a + j) bad) c.localPoison }

/-- An access to the local store: one at or beyond LOCAL raises LOCAL_RANGE; `raise` is what the access raises besides. -/
def State.localAccess (s : State) (h : Nat) (i : FmtM) (n : Nat) (bad : Option Nat) (raise : Hand → State → State)
    (f : Hand → Hand) : State :=
  s.memStart h i n false bad fun s =>
    let c := s.hand h
    if (c.memLanes i).any fun l => 1024 * s.handLocal h ≤ c.localVa i l then s.handFault h .localRange 0 0
    else (raise c s).updHand h fun c => (f c).next

/-- LDL (R127, R137): minor 0 zero-extends, 1 sign-extends; poisoned data raises POISON_READ, once. (DEDUCED: log 46)
-/
def execLdl (h : HandId) (i : FmtM) (s : State) : Out :=
  .next <|
    let n := sizeRegs i.size.val
    let size := sizeBytes i.size.val
    s.localAccess h i n (if 2 ≤ i.minor then some 1 else memFault i n)
      (fun c s => match ((c.memLanes i).map (c.localVa i)).find? fun a => c.localBad a size with
        | some a => s.raiseOwn .poisonRead (srcHand h) c.pol (addrDetail a 1)
        | none => s)
      fun c => (c.memLanes i).foldl (fun d l =>
        let a := c.localVa i l
        d.loadNow i (i.minor = 1) l (c.localBytes a size) (c.localBad a size)) c

/-- STL (R137, R209). -/
def execStl (h : HandId) (i : FmtM) (s : State) : Out :=
  .next <|
    let n := sizeRegs i.size.val
    s.localAccess h i n (if 1 ≤ i.minor then some 1 else memFault i n) (fun _ s => s) fun c =>
      (c.memLanes i).foldl (fun d l =>
        d.localWrite (c.localVa i l) (leBytes (sizeBytes i.size.val) (c.source i l).1) (c.source i l).2) c

/-! ## Atomics (R138, R139) -/

/-- An atomic's operation and whether it returns a value. -/
def atomOf (minor : Nat) : Option (AtomOp × Bool) :=
  let ops : List AtomOp := [.add, .fadd32, .faddBf16, .min, .max, .and, .or, .xor, .xchg, .cas]
  if minor < 10 then (ops[minor]?).map (·, true)
  else if 32 ≤ minor then (ops[minor - 32]?).map (·, false) else none

/-- DEDUCED: log 46. -/
def atomSizeOk (op : AtomOp) (size : Nat) : Bool :=
  match op with
  | .fadd32 => size = 2
  | .faddBf16 => size = 1
  | _ => size = 2 || size = 3

/-- Registers from XS: CAS takes its expected value after its new one. -/
def atomRegs (op : AtomOp) (size : Nat) : Nat := if op = .cas then 2 * sizeRegs size else sizeRegs size

def atomFault (i : FmtM) : Option Nat :=
  match atomOf i.minor with
  | none => some 1
  | some (op, _) => if !atomSizeOk op i.size.val then some 1 else memFault i (atomRegs op i.size.val)

/-- One request of an atomic instruction: its lanes, what it applies, and what each lane receives. -/
structure AtomReq where
  at_ : Nat
  hint : Nat := 0
  value : Nat
  expect : Nat := 0
  bad : Bool := false
  dests : List (Nat × Nat × Nat × Word) := []
deriving DecidableEq, Repr

/-- The operand of the combined request. -/
def combine (op : AtomOp) (size : Nat) (vs : List Nat) : Nat :=
  let v := vs.headD 0
  let rest := vs.drop 1
  match op with
  | .add => vs.sum % 2 ^ (8 * size)
  | .faddBf16 =>
    let f := fun v => Fpu.ofBf16 (BitVec.ofNat 16 v)
    (Fpu.toBf16 (rest.foldl (fun a x => Fpu.fadd a (f x)) (f v))).toNat
  | .xchg => vs.getLastD 0
  | .cas => v
  | _ => rest.foldl (fun a x => atomNew op size a x 0) v

/-- What each lane of a combined request receives: how, and the amount. -/
def combinedDests (op : AtomOp) (xs : Nat) (ls : List (Nat × Nat)) : List (Nat × Nat × Nat × Word) :=
  (List.range ls.length).map fun k =>
    let l := (ls.getD k (0, 0)).1
    match op with
    | .add => (l, xs, 1, BitVec.ofNat 64 ((ls.take k).map Prod.snd).sum)
    | .xchg => if k = 0 then (l, xs, 0, 0) else (l, xs, 2, BitVec.ofNat 64 (ls.getD (k - 1) (0, 0)).2)
    | _ => (l, xs, 0, 0)

/-- The requests that lanes at addresses make: one an address, CAS one a lane (R139). -/
def atomReqs (c : Hand) (i : FmtM) (op : AtomOp) (ret : Bool) (ls : List (Nat × Nat)) : List AtomReq :=
  let k := sizeRegs i.size.val
  let size := sizeBytes i.size.val
  let src := fun l => (c.rxs i.xs.val k l) % 2 ^ (8 * size)
  let bad := fun l => c.pxs i.xs.val (atomRegs op i.size.val) l || c.pf i.fsel.val
  if op = .cas then
    ls.map fun e => {
      at_ := e.2, value := src e.1, expect := (c.rxs (i.xs.val + k) k e.1) % 2 ^ (8 * size), bad := bad e.1
      dests := if ret then [(e.1, i.xs.val, 0, 0)] else [] }
  else
    (ls.map Prod.snd).eraseDups.map fun a =>
      let mine := (ls.filter fun e => e.2 = a).map fun e => (e.1, src e.1)
      { at_ := a, value := combine op size (mine.map Prod.snd), bad := mine.any fun e => bad e.1
        dests := if ret then combinedDests op i.xs.val mine else [] }

/-- Send one request to the home of its line. (DESIGN CHOICE: log 47) -/
def State.sendAtom (s : State) (h : Nat) (i : FmtM) (op : AtomOp) (va : Nat) (r : AtomReq) : State :=
  let c := s.hand h
  let (slot, s) := s.freshId
  let o := dpaOffset r.at_
  let key := s.sectorKey r.at_
  let w : AtomWait := {
    slot := slot, sector := key, gen := (s.pol c.pol).gen, size := sizeBytes i.size.val, dests := r.dests
    bad := c.pf i.fsel.val || r.bad }
  (s.updHand h fun c => { c with atoms := c.atoms ++ [w], l1 := c.l1.filter fun x => x.sector ≠ key }).newReq
    (.atomic op (o % 1024) (sizeBytes i.size.val) (BitVec.ofNat 64 r.value) (BitVec.ofNat 64 r.expect) r.bad)
    (o / 1024) c.pol (.hand h slot) va r.hint

/-- ATOM (R138, R139, R175). -/
def execAtom (h : HandId) (i : FmtM) (s : State) : Out :=
  .next <|
    match atomOf i.minor with
    | none => s.memStart h i 1 true (some 1) id
    | some (op, ret) =>
      s.memStart h i (atomRegs op i.size.val) true (atomFault i) fun s =>
        match s.lanesAt h i 2 with
        | (none, s) => s
        | (some ls, s) =>
          let c := s.hand h
          let there := reached ls
          let reqs := atomReqs c i op ret (there.map fun e => (e.1, e.2.2.2))
          let keys := (there.map fun e => s.sectorKey e.2.2.2).eraseDups
          if keys.any fun k => s.earlier h k true || s.unwonAt h k then s
          else if missEntries (s.handLocal h) < c.entriesUsed + keys.length then s
          else
            let s := s.checked h ls
            let s := ls.foldl (fun s e => match e.2.2 with
              | .far (.memory _ _) => s
              | _ => if ret then s.loadFree h i false e.1 else s) s
            let vaOf := fun a => ((there.find? fun e => e.2.2.2 = a).map fun e => e.2.1).getD 0
            let hintOf := fun a => if i.hint = 0 then ((there.find? fun e => e.2.2.2 = a).map fun e => eHint e.2.2.1).getD 0 else i.hint.val
            (reqs.foldl (fun s r => s.sendAtom h i op (vaOf r.at_) { r with hint := hintOf r.at_ }) s).updHand h Hand.next

/-- One request applied to the local store. -/
def Hand.atomLocal (c : Hand) (i : FmtM) (op : AtomOp) (r : AtomReq) : Hand :=
  let size := sizeBytes i.size.val
  let old := leNat (c.localBytes r.at_ size)
  let poison := c.localBad r.at_ size
  let w : AtomWait := { slot := 0, gen := 0, size := size, dests := r.dests, bad := c.pf i.fsel.val || r.bad }
  let d := (c.localWrite r.at_ (leBytes size (atomNew op size old r.value r.expect)) (poison || r.bad)).atomAnswer w old poison
  { d with atoms := c.atoms }

/-- ATOML (R125, R139). -/
def execAtoml (h : HandId) (i : FmtM) (s : State) : Out :=
  .next <|
    match atomOf i.minor with
    | none => s.memStart h i 1 false (some 1) id
    | some (op, ret) =>
      s.localAccess h i (atomRegs op i.size.val) (atomFault i) (fun _ s => s) fun c =>
        (atomReqs c i op ret ((c.memLanes i).map fun l => (l, c.localVa i l))).foldl (fun c r => c.atomLocal i op r) c

/-! ## Illegal words (R124, R125) -/

/-- How many minor operations a major opcode has. -/
def minors (major : Nat) : Nat :=
  [0, 17, 17, 6, 8, 5, 6, 9, 1, 11, 4, 14, 3, 6, 0, 0, 2, 2, 2, 1, 0, 0, 3, 2, 4, 0, 0, 0, 1, 2, 6].getD major 0

/-- Crew, control, synchronisation and matrix instructions, which must have FSEL and FINV 0. -/
def wholeCrew (major : Nat) : Bool := [0x0B, 0x0C, 0x0D, 0x16, 0x17, 0x18, 0x1C, 0x1D, 0x1E].contains major

/-- The fields of format M in a word. (DEDUCED: log 46) -/
def fmtM (w : Word) : FmtM :=
  { minor := field w.toNat 52 6, xs := Fin.ofNat 64 (field w.toNat 42 6), xo := Fin.ofNat 64 (field w.toNat 36 6)
    wb := Fin.ofNat 32 (field w.toNat 31 5), size := Fin.ofNat 8 (field w.toNat 28 3) }

/-- The sub-code that an instruction word raises whatever the crew holds; none for a word that may run. (DESIGN
CHOICE: log 43) -/
def wordFault (w : Word) : Option Nat :=
  let n := w.toNat
  let major := field n 58 6
  let minor := field n 52 6
  let i := fmtM w
  let atom := major = 0x14 || major = 0x15
  if (if atom then (atomOf minor).isNone else minors major ≤ minor) then some 1
  else if wholeCrew major && field n 48 4 ≠ 0 then some 2
  else if atom then atomFault i
  else if 0x10 ≤ major && major ≤ 0x13 then memFault i (sizeRegs i.size.val)
  else if major = 0x1C then
    match mfmtOf (field n 26 4) with
    | none => some 5
    | some (fa, _) => if hmmaGroups fa (field n 36 6) (field n 30 6) (field n 42 6) then none else some 3
  else none

/-- ILLEGAL_INSTRUCTION (R125): the crew meets a word with a reserved opcode or a bad field. (DESIGN CHOICE: log 43)
-/
def execIllegalInstruction (h : HandId) (word : Word) (s : State) : Out :=
  .next <|
    if !s.issues h then s else
    match wordFault word with
    | some sub => s.illegal h sub
    | none => s

end Sys2Proof.Machine
end

