-- ==== Sys2Proof/Machine/Pmbus.lean ====
section
/-! DEFINITION. The SMBus target and its pins (R386, R387, R389): an answer stands in Pmbus.answer, low byte first, and
`acked` says whether the last transaction was acknowledged. -/

namespace Sys2Proof.Machine

open Sys2Proof

/-- One transaction: not acknowledged before Stage 0. -/
def State.smbus (s : State) (f : State → State × Option (List Byte)) : State :=
  let r := if s.boot.stage0 then f s.latchStatus else (s, none)
  { r.1 with pmbus := { r.1.pmbus with answer := r.2.getD [], acked := r.2.isSome } }

/-- A command that only reads. -/
def State.smbusRead (s : State) (f : State → List Byte) : State := s.smbus fun s => (s, some (f s))

/-- A block read: its count, then its bytes. -/
def block (bs : List Byte) : List Byte := leBytes 1 bs.length ++ bs

/-- LINEAR11 of a number of tenths: a mantissa of 11 bits in [10:0], nearest, at most 1,023, and an exponent of 5
bits. (DESIGN CHOICE: log 55) -/
def linear11 (cmd tenths : Nat) : List Byte :=
  let e := (Config.linear11Exp cmd tenths).val
  let y := if 16 ≤ e then (2 * tenths + 10 * 2 ^ (e - 16)) / (20 * 2 ^ (e - 16))
    else (2 * tenths * 2 ^ (16 - e) + 10) / 20
  leBytes 2 (min 1023 y + 2048 * ((e + 16) % 32))

/-- The highest of every die and stack reading. -/
def State.hottest (s : State) : Nat :=
  (((List.range 13).map fun i => (s.heat i).temp) ++ (List.range 24).map fun i => (s.stack i).temp).foldl max 0

/-- ALERT_N is driven low (R387). (DESIGN CHOICE: log 55) -/
def State.alertLow (s : State) : Bool := s.boot.stage0 && (s.boot.wharfFailed || s.statusWord ≠ 0)

/-- CLEAR_FAULTS: bits whose condition has passed are cleared. -/
def execClearFaults (s : State) : Out :=
  .next <| s.smbus fun s => ({ s with pmbus := { s.pmbus with
    input := s.statusInputNow, temperature := s.statusTempNow, cml := 0, mfr := s.statusMfrNow } }, some [])

/-- STATUS_WORD. -/
def execStatusWord (s : State) : Out := .next <| s.smbusRead fun s => leBytes 2 s.statusWord

/-- STATUS_INPUT. -/
def execStatusInput (s : State) : Out := .next <| s.smbusRead fun s => [s.pmbus.input]

/-- STATUS_TEMPERATURE. -/
def execStatusTemperature (s : State) : Out := .next <| s.smbusRead fun s => [s.pmbus.temperature]

/-- STATUS_CML. (DESIGN CHOICE: log 55) -/
def execStatusCml (s : State) : Out := .next <| s.smbusRead fun s => [s.pmbus.cml]

/-- STATUS_MFR_SPECIFIC. -/
def execStatusMfrSpecific (s : State) : Out := .next <| s.smbusRead fun s => [s.pmbus.mfr]

/-- READ_VIN. -/
def execReadVin (s : State) : Out := .next <| s.smbusRead fun s => linear11 0x88 s.pwr.volts

/-- READ_IIN. -/
def execReadIin (s : State) : Out := .next <| s.smbusRead fun s => linear11 0x89 s.pwr.amps

/-- READ_PIN. -/
def execReadPin (s : State) : Out := .next <| s.smbusRead fun s => linear11 0x97 (10 * s.pwr.watts)

/-- READ_TEMPERATURE_1. -/
def execReadTemperature1 (s : State) : Out := .next <| s.smbusRead fun s => linear11 0x8D (10 * s.hottest)

/-- PMBUS_REVISION. -/
def execPmbusRevision (s : State) : Out := .next <| s.smbusRead fun _ => [0x33]

/-- MFR_ID. -/
def execMfrId (s : State) : Out := .next <| s.smbusRead fun _ => block (ascii "TCHIGAL")

/-- MFR_MODEL: the ordering code. -/
def execMfrModel (s : State) : Out :=
  .next <| s.smbusRead fun s => block (ascii "ZP-2400-F" ++ [BitVec.ofNat 8 (48 + s.nv.fibre)] ++ ascii "-C"
    ++ [BitVec.ofNat 8 (48 + s.nv.coldPlate)])

/-- The commands of R389. -/
def pmbusCodes : List Nat := [0x03, 0x79, 0x7C, 0x7D, 0x7E, 0x80, 0x88, 0x89, 0x97, 0x8D, 0x98, 0x99, 0x9A]

/-- UNSUPPORTED_COMMAND: any other code is not acknowledged and sets bit 7 of STATUS_CML. -/
def execUnsupportedCommand (code : BitVec 8) (s : State) : Out :=
  .next <|
    if pmbusCodes.contains code.toNat then s else
    s.smbus fun s => ({ s with pmbus := { s.pmbus with cml := s.pmbus.cml ||| 0x80 } }, none)

/-- ALERT_RESPONSE: while ALERT_N is low the module answers with its address, 0x58; SMBus leaves the last bit open.
(DESIGN CHOICE: log 55) -/
def execAlertResponse (s : State) : Out :=
  .next <| s.smbus fun s =>
    if s.alertLow then
      let (bit, s) := s.free 1
      (s, some [0xB0 ||| bit.setWidth 8])
    else (s, none)

/-- THERMTRIP_RELEASE (R386): 50 ms after the converters stopped. -/
def execThermtripRelease (s : State) : Out :=
  .next <|
    if s.boot.tripLow && s.passed s.boot.tripAt 50000000 then { s with boot := { s.boot with tripLow := false } } else s

end Sys2Proof.Machine
end

