-- ==== Sys2Proof/Machine/Stations.lean ====
section
/-! DEFINITION. Scale, Sieve and Cooper (chapters 2, 4 and 5): verify, Scale's functions, conversions, Sieve-8 and
reductions. Each command is one operation of a polder's own lanes (R37). -/

namespace Sys2Proof

open Fpu

/-! ## Verify (R90 to R94) -/

/-- The product that the dies compute: hidden rows times the output head. -/
def VerifyOp.gemm (v : VerifyOp) : Gemm := { pol := v.pol, a := v.hidden, b := v.head, nk := v.nk }

/-- Logits of a row; a NaN counts as -infinity (R90). -/
def VerifyOp.logits (v : VerifyOp) (row : Nat) : List Lane :=
  let g := v.gemm
  (List.range g.n).map fun t =>
    let x := g.elem 256 row t
    if fnan x then negInf else x

/-- min(K, k_max). -/
def VerifyOp.k (v : VerifyOp) (kmax : Nat) : Nat := min (leAt v.record 0 1) kmax
/-- Sample mode: MODE 1; other values are greedy. -/
def VerifyOp.samples (v : VerifyOp) : Bool := leAt v.record 1 1 = 1
def VerifyOp.draft (v : VerifyOp) (i : Nat) : Nat := leAt v.record (24 + 4 * i) 4
/-- TEMP; 1.0 where it is not positive or not finite. -/
def VerifyOp.temp (v : VerifyOp) : Lane :=
  let t : Lane := BitVec.ofNat 32 (leAt v.record 4 4)
  if flt 0 t && flt t posInf then t else one

/-- u(position, purpose) of R92, as an exact value. -/
def VerifyOp.u (v : VerifyOp) (position purpose : Nat) : Val :=
  .fin false (Crypto.philoxWord (leAt v.record 8 8) (leAt v.record 16 4) (leAt v.record 20 4) position purpose 0) (-32)

end Sys2Proof

namespace Sys2Proof.Machine

open Sys2Proof Fpu

/-- The largest logit, the lowest token on a tie. -/
def argmax (xs : List Lane) : Nat :=
  (xs.zipIdx.foldl (fun (b : Nat × Lane) e => if flt b.2 e.1 then (e.2, e.1) else b) (0, xs.headD 0)).1

/-- x / n rounded once. -/
def divNat (x : Lane) (n : Nat) : Lane :=
  match valOf x with
  | .fin neg m e =>
    let q := m * 2 ^ 48 / n
    let sticky := if m * 2 ^ 48 % n = 0 then 0 else 1
    toF32 [x.toNat] (.fin neg (2 * q + sticky) (e - 49))
  | v => toF32 [x.toNat] v

/-- The softmax of a row, from probabilities as MXFP8 E4M3 stores them (R115); uniform where every logit is -infinity. -/
def softmaxQ (xs : List Lane) : List Lane :=
  if xs.all (· == negInf) then xs.map fun _ => divNat one xs.length else
  let m := maxOf xs
  let ps := (quantE4m3 (xs.map fun x => exp (fsub x m))).map (toF32 [])
  let r := recip (anySum ps)
  ps.map fun x => fmul x r

/-- p_i of R92. -/
def vProb (v : VerifyOp) (row : Nat) : List Lane :=
  let r := recip v.temp
  let l := v.logits row
  softmaxQ (if l.all (· == negInf) then l else l.map fun x => fmul x r)

def vDraftProb (v : VerifyOp) (i : Nat) : List Lane := (v.q.getD i []).map ofBf16

/-- Running sums in ascending order. -/
def runningSums : Lane → List Lane → List Lane
  | _, [] => []
  | acc, x :: xs => fadd acc x :: runningSums (fadd acc x) xs

/-- The first index whose running sum exceeds u times the total; the last of positive weight where rounding leaves
none. (DEDUCED: log 17) -/
def pick (ws : List Lane) (u : Val) : Nat :=
  match ws with
  | [] => 0
  | w :: rest =>
    let sums := w :: runningSums w rest
    let thr := toF32 [] (mulV u (valOf (sums.getLastD 0)))
    match sums.findIdx? fun x => flt thr x with
    | some i => i
    | none => (ws.zipIdx.foldl (fun b e => if flt 0 e.1 then e.2 else b) 0)

/-- The total of a slice. -/
def sliceTotal (ws : List Lane) : Lane := seqSum ws

/-- Sample a token from a weight spread over the dies (R92): a candidate within each slice, then a die. (DEDUCED: log
17) -/
def sampleToken (v : VerifyOp) (dies row : Nat) (ws : List Lane) : Nat :=
  let vs := ws.length / dies
  let slices := chunks vs dies ws
  let die := pick (slices.map sliceTotal) (v.u row 2)
  vs * die + pick (slices.getD die []) (v.u row 1)

/-- max(0, p - q) by token. (DEDUCED: log 17) -/
def residualWeights (p q : List Lane) : List Lane := p.zip q |>.map fun e => let x := fsub e.1 e.2; if flt 0 x then x else 0

/-- Greedy mode (R91): drafts accepted and the token emitted. (DEDUCED: log 17) -/
def greedyPass (v : VerifyOp) (k : Nat) : Nat × Nat :=
  let acc := ((List.range k).takeWhile fun i => v.draft i = argmax (v.logits i)).length
  (acc, argmax (v.logits acc))

/-- R92's test of a drafted token. (DEDUCED: log 17) -/
def acceptsDraft (v : VerifyOp) (i : Nat) : Bool :=
  let pt := (vProb v i).getD (v.draft i) 0
  let qt := (vDraftProb v i).getD (v.draft i) 0
  !(feq pt 0) && (fle qt pt || flt (toF32 [] (mulV (v.u i 0) (valOf qt))) pt)

/-- Sample mode (R92): drafts accepted, the token emitted, FALLBACK. (DEDUCED: log 17) -/
def samplePass (v : VerifyOp) (dies k : Nat) : Nat × Nat × Bool :=
  let acc := ((List.range k).takeWhile (acceptsDraft v)).length
  let p := vProb v acc
  if acc = k then (acc, sampleToken v dies acc p, false) else
  let w := residualWeights p (vDraftProb v acc)
  if w.all fun x => feq x 0 then (acc, sampleToken v dies acc p, true)
  else (acc, sampleToken v dies acc w, false)

/-- The result record (R93). -/
def resultRecord (v : VerifyOp) (kmax acc token : Nat) (fallback : Bool) : List Byte :=
  let k := v.k kmax
  let invalid := (List.range (k + 1)).any fun i => (v.logits i).all (· == negInf)
  let flags := b2n (acc = k) + 2 * b2n fallback + 4 * b2n (kmax < leAt v.record 0 1) + 8 * b2n invalid
  leBytes 1 acc ++ leBytes 1 (acc + 1) ++ leBytes 1 flags ++ leBytes 5 0
    ++ ((List.range 9).map fun i => leBytes 4 (if i < acc then v.draft i else if i = acc then token else 0xFFFFFFFF)).flatten
    ++ leBytes 4 0 ++ leBytes 8 (leAt v.record 16 8) ++ leBytes 8 0

/-- R94. -/
def verifyTiming (c : MillSt) (v : VerifyOp) (kmax vs : Nat) : Timing :=
  let g := gemvTiming c v.tiles v.head.fmt (kmax + 1) v.hidden.cols vs
  { g with
    ladder := ladderTerm c (highest (dealt v.tiles (gemvLoads v.head.fmt v.hidden.cols vs))) (rateOf v.head.fmt * 512)
    terms := g.terms ++ [(if v.samples then 2 else 1) * ceilDiv ((kmax + 1) * vs) 1024, 384, 32 * (kmax + 1)] }

/-- What a polder's station has asked of homes that none has performed. -/
def State.stationOwes (s : State) (kind d p : Nat) : List HomeReq :=
  s.unperformed.filter fun r => match r.who with
    | .station k e q _ => k = kind && e = d && q = p
    | _ => false

/-- Lines of a station's writes, by device virtual address and DPA with their bytes: each becomes a request at its home, or
leaves for another module or a host's window. What a home refuses raises PERMISSION; a coded group must be written whole
(R112). -/
def State.stationLines (s : State) (kind d p seq : Nat) (ls : List (Nat × Nat × Bytes)) (poison : Bool) : State :=
  let whole := ls.filterMap fun e => if e.2.2.length = 1024 && dpaModule e.2.1 = s.boot.moduleId then some (dpaOffset e.2.1 / 1024) else none
  let groups := fun (e : Nat × Nat × Bytes) =>
    if dpaModule e.2.1 = s.boot.moduleId then s.groupsIn (dpaOffset e.2.1 + (e.2.2.headD (0, 0)).1) e.2.2.length else []
  let covered := fun (g : Nat × Nat) => (List.range g.2).all fun i => whole.contains (g.1 + i)
  let (good, bad) := ls.partition fun e => (groups e).all covered
  let s := s.raiseGranules .permission (srcStation kind d) p 2 (bad.map Prod.fst)
  let s := ((good.map groups).flatten).foldl (fun s g => s.updMark g.1 fun m => { m with tag := 0 }) s
  good.foldl (fun s e =>
    let (va, dpa, part) := e
    match s.storeLine p (.station kind d p seq) va dpa 0 part false poison with
    | some (n, s) => s.updRun p seq fun r => { r with stores := r.stores + n }
    | none => s.permission (srcStation kind d) p va 2) s

/-- Bytes at a device virtual address as one store a line, from an engine of a polder: none where the operation must wait
for a translation. -/
def State.stationStore (s : State) (kind d p seq va : Nat) (bytes : List Byte) (poison : Bool) : Option State × State :=
  let eng := EngineRef.station kind d p seq
  let src := srcStation kind d
  let lines := (List.range (ceilDiv (va % 1024 + bytes.length) 1024)).map fun i => va / 1024 * 1024 + 1024 * i
  let (ls, s) := s.translateLines eng p 1 ((s.pol p).run seq).m.tag lines
  if anyWait ls then (none, s) else
  let s := s.endWalks eng
  let s := s.raiseGranules .permission src p 2 (linesOf ls .denied)
  let s := s.raiseGranules .fencedTarget src p 2 (linesOf ls .fenced)
  (some <| s.stationLines kind d p seq (ls.filterMap fun e => match e.2 with
    | .ok _ dpa => some (e.1, dpa / 1024 * 1024,
        ((List.range bytes.length).filter fun i => (va + i) / 1024 * 1024 = e.1).map fun i => ((va + i) % 1024, bytes.getD i 0))
    | _ => none) poison, s)

/-- The use that the schedule declares for a verify on a die. -/
def verifyUse (c : Schedule) (v : VerifyOp) (d : Nat) : Option MillUse :=
  useFor c useVerify d v.hidden.fmt v.head.fmt (c.kmax + 1) v.gemm.n v.hidden.cols v.nk (bitsOf 16 v.tiles.toNat |>.headD 0)

/-- The tiles that each die takes: the hidden rows, and its slice of the output head; the home die the draft's probabilities (R90). -/
def verifyDemands (c : Schedule) (v : VerifyOp) (dies : List Nat) : List Demand :=
  let vs := v.gemm.n / dies.length
  let q : Matrix := { fmt := 6, rows := v.q.length, cols := v.gemm.n, elems := v.q.flatten.map BitVec.toNat }
  (dies.zipIdx.flatMap fun e => match verifyUse c v e.1 with
    | some u => gemvDemands u v.gemm (e.2 * vs / 256) (vs / 256)
    | none => [])
    ++ match (dies.head?.bind (verifyUse c v)).bind MillUse.v with
      | some n => [⟨n, if v.q.isEmpty then [] else (List.range (v.gemm.n / 256)).map fun j => (q, 0, j)⟩]
      | none => []

/-- One pass of verify in either mode: the record is read, the result record is written at its operand, as a release (R93, R213), and
every die runs its slice. -/
def State.verify (s : State) (home : Nat) (v : VerifyOp) (sample : Bool) : State :=
  let dies := bitsOf 8 v.dies.toNat
  let nd := dies.length
  let g := v.gemm
  match s.stationRun v.pol home 0 fun c => dies.all fun d =>
      fits c useVerify d v.hidden.fmt v.head.fmt (c.kmax + 1) g.n v.hidden.cols v.nk (bitsOf 16 v.tiles.toNat) with
  | none => s
  | some (seq, c) =>
    let kmax := c.kmax
    let k := v.k kmax
    let mu := (verifyUse c v home).getD { mode := .solo, die := home }
    let ds := verifyDemands c v dies
    let used := dealt v.tiles (gemvLoads v.head.fmt v.hidden.cols (g.n / nd))
    let follows := v.follows && dies.all fun d => s.followsNow d used
    if v.samples ≠ sample || dies.head? ≠ some home || v.record.length ≠ 64 || !g.ok || 16384 < v.hidden.cols
        || g.n % (256 * nd) ≠ 0 || v.hidden.rows < k + 1
        || (sample && !(v.q.length = kmax && v.q.all fun r => r.length = g.n))
        || (mu.result.any fun i => v.result ≠ (((s.pol v.pol).run seq).m.operands.getD i (0, 0)).2)
        || !(dies.all fun d => s.regionReady v.pol d v.tiles follows) || !s.fed v.pol seq ds [] v.poison
        || !(s.stationOwes 1 home v.pol).isEmpty then s else
    match s.readRecord (.station 1 home v.pol seq) v.pol seq mu.record v.record with
    | (.wait, s) => s
    | (.other, _) => s
    | (.is bad, s') =>
      if bad && !v.poison then s else
      let (acc, token, fb) := if sample then samplePass v nd k else let r := greedyPass v k; (r.1, r.2, false)
      match s'.stationStore 1 home v.pol seq v.result (resultRecord v kmax acc token fb) v.poison with
      | (none, s) => s
      | (some s, _) =>
        let s := s.useTiles v.pol seq ds
        dies.foldl (fun s d =>
          let (cycles, s) := s.begin_ d regionArray v.pol seq used follows (verifyTiming (s.mill home) v kmax (g.n / nd))
          s.updMill d fun c => { c with cycles := c.cycles.set 0 regionArray cycles }) s

/-- VERIFY_GREEDY (R91, R93). -/
def execVerifyGreedy (d : Die) (v : VerifyOp) (s : State) : Out := .next (s.verify d.val v false)

/-- VERIFY_SAMPLE (R92, R93). -/
def execVerifySample (d : Die) (v : VerifyOp) (s : State) : Out := .next (s.verify d.val v true)

/-! ## Scale (R114) -/

def two15 : Lane := 0x47000000
def half15 : Lane := 0x38000000

/-- The mean of n values from a pairwise tree of fixed shape; where the sum leaves the range, from the values divided
by 2^15. (DESIGN CHOICE: log 18) -/
def treeMean (xs : List Lane) : Lane :=
  let t := tree fadd 0 xs.length xs
  if (valOf t).isInf && xs.all (fun x => !(valOf x).isInf) then
    fmul (divNat (tree fadd 0 xs.length (xs.map fun x => fmul x half15)) xs.length) two15
  else divNat t xs.length

/-- The mean of squares; where a square or the sum leaves the range, from the values divided by 2^15. (DESIGN CHOICE:
log 18) -/
def meanSquare (xs : List Lane) : Lane :=
  let t := tree fadd 0 xs.length (xs.map fun x => fmul x x)
  if (valOf t).isInf && xs.all (fun x => !(valOf x).isInf) then
    fmul (fmul (divNat (tree fadd 0 xs.length (xs.map fun x => fmul (fmul x half15) (fmul x half15))) xs.length) two15) two15
  else divNat t xs.length

/-- DESIGN CHOICE: log 18. -/
def rmsNorm (gain xs : List Lane) : List Lane :=
  let ms := meanSquare xs
  if feq ms 0 then xs.map fun _ => 0 else
  let r := rsqrt ms
  xs.zipIdx.map fun e => fmul (fmul e.1 r) (gain.getD e.2 0)

/-- Values that are all equal have variance 0. (DESIGN CHOICE: log 18) -/
def layerNorm (gain bias xs : List Lane) : List Lane :=
  let mu := treeMean xs
  let ds := xs.map fun x => fsub x mu
  let var := meanSquare ds
  if feq var 0 || xs.all (fun x => feq x (xs.headD 0)) then xs.zipIdx.map fun e => bias.getD e.2 0 else
  let r := rsqrt var
  ds.zipIdx.map fun e => fadd (fmul (fmul e.1 r) (gain.getD e.2 0)) (bias.getD e.2 0)

/-- Rotary embedding of neighbouring pairs by position times frequency. (DESIGN CHOICE: log 18) -/
def rotary (pos : Nat) (freqs : List Lane) : Nat → List Lane → List Lane
  | i, a :: b :: rest =>
    let (sn, cs) := sinCos pos (freqs.getD i 0)
    fsub (fmul a cs) (fmul b sn) :: fadd (fmul a sn) (fmul b cs) :: rotary pos freqs (i + 1) rest
  | _, l => l

/-- DESIGN CHOICE: log 18. -/
def softmax (xs : List Lane) : List Lane :=
  let m := maxOf xs
  let es := xs.map fun x => exp (fsub x m)
  let r := recip (anySum es)
  es.map fun x => fmul x r

/-- Words of the generator for a use of the schedule's own: element e takes word e mod 4 of the output for the counter (tile, e div 4,
use number, STEP) (R116). -/
def randomWords (key tile element use step n : Nat) : List Lane :=
  (List.range n).map fun i =>
    BitVec.ofNat 32 (Crypto.philoxWord key tile ((element + i) / 4) use step ((element + i) % 4))

def scaleCompute (fn : ScaleFn) (xs : List Lane) : List Lane :=
  match fn with
  | .exp => xs.map exp
  | .recip => xs.map recip
  | .rsqrt => xs.map rsqrt
  | .sigmoid => xs.map sigmoid
  | .tanh => xs.map tanh
  | .silu => xs.map silu
  | .gelu => xs.map gelu
  | .relu => xs.map relu
  | .sqRelu => xs.map sqRelu
  | .rmsNorm gain => rmsNorm gain xs
  | .layerNorm gain bias => layerNorm gain bias xs
  | .rotary pos freqs => rotary pos freqs 0 xs
  | .softmax => softmax xs
  | .random key tile element use step => randomWords key tile element use step xs.length

/-- The domain of the functions of many elements: at most 16,384 for a normalisation, a gain and a bias for each; pairs
and a position below 2^31 for the rotary embedding. -/
def scaleTakes (fn : ScaleFn) (xs : List Lane) : Bool :=
  match fn with
  | .rmsNorm gain => 1 ≤ xs.length && xs.length ≤ 16384 && gain.length = xs.length
  | .layerNorm gain bias => 1 ≤ xs.length && xs.length ≤ 16384 && gain.length = xs.length && bias.length = xs.length
  | .rotary pos freqs => pos < 2 ^ 31 && xs.length = 2 * freqs.length
  | _ => true

/-- A polder's lanes of Scale (1), Sieve (2) or Cooper (3) on a die (R37). -/
def State.stationShare (s : State) (p d kind : Nat) : Nat :=
  let x := (s.polRec p).stations.getD d (0, 0, 0)
  if kind = 1 then x.1 else if kind = 2 then x.2.1 else x.2.2

/-- The station works for a polder: the die is in service, the polder holds lanes, and a running manifest uses the
station. -/
def State.stationWorks (s : State) (p d kind : Nat) : Bool :=
  !(s.mill d).fenced && s.stationShare p d kind ≠ 0 && (s.stationRun p d kind fun _ => true).isSome

/-- What an operation takes of a stream: element codes and scales in its format. -/
structure Take where
  stream : Nat
  fmt : Nat
  codes : List Nat
  scales : List Nat := []
deriving DecidableEq, Repr

/-- The format of a stream of a running manifest. -/
def State.streamFmt (s : State) (p seq n : Nat) : Nat :=
  (((s.schedule ((s.pol p).run seq).m.schedule).bind fun c => c.streams[n]?).map StreamDecl.fmt).getD 0

/-- The next elements of a stream are those that an operation takes, and its result carries their poison. -/
def State.brings (s : State) (p seq : Nat) (t : Take) (poison : Bool) : Bool :=
  match s.nextElems p seq t.fmt t.stream t.codes.length with
  | some (codes, scales, bad) => codes = t.codes && scales = t.scales && (poison || !bad)
  | none => false

/-- Lanes as the codes of a stream of FP32 or BF16. -/
def State.takeLanes (s : State) (p seq n : Nat) (xs : List Lane) : Take :=
  let fmt := s.streamFmt p seq n
  { stream := n, fmt := fmt, codes := xs.map fun x => if fmt = 6 then x.toNat / 65536 else x.toNat }

/-- The use of a station that an operation serves, where the schedule declares its uses: one whose streams bring what
it takes. None where none of them does. (DESIGN CHOICE: log 66) -/
def State.pickUse (s : State) (p seq kind d : Nat) (takes : StationUse → Option (List Take)) (poison : Bool) : Option StationUse :=
  match s.schedule ((s.pol p).run seq).m.schedule with
  | none => none
  | some c =>
    let mine := c.uses.filter fun u => u.kind = kind && u.die = d
    if mine.isEmpty then some { kind := kind, die := d } else
    mine.find? fun u => s.mayFlow p seq (u.ins ++ u.out.toList) && match takes u with
      | some ts => ts.all fun t => s.brings p seq t poison
      | none => false

/-- The elements taken are used. -/
def State.useTakes (s : State) (p seq : Nat) (ts : List Take) : State :=
  ts.foldl (fun s t => s.useElems p seq t.stream t.codes.length) s

/-- What an operation on lanes takes of the streams of a use: the first brings the lanes, the second a second operand. A
generator takes none. -/
def State.laneTakes (s : State) (p seq : Nat) (xs : List Lane) (ys : Option (List Lane)) (u : StationUse) : Option (List Take) :=
  match u.ins, ys with
  | [], none => some []
  | [a], none => some [s.takeLanes p seq a xs]
  | [a, b], some ys => some [s.takeLanes p seq a xs, s.takeLanes p seq b ys]
  | _, _ => none

/-- The key that a generator's use names stands at its operand. -/
def keyBytes (key : Option Nat) : List Byte := (key.map (leBytes 8)).getD []

/-- An operation of Scale or the Sieve of a die on a polder's lanes: `f` leaves its results in the station, and the stream of its use
receives them as `give` has them in the stream's format. -/
def State.stationOp (s : State) (kind d p : Nat) (takes : Nat → StationUse → Option (List Take)) (key : Option Nat)
    (give : Nat → List Nat × List Nat) (poison : Bool) (f : State → State) : State :=
  match s.stationRun p d kind fun _ => true with
  | none => s
  | some (seq, _) =>
    match s.pickUse p seq kind d (takes seq) poison with
    | none => s
    | some u =>
      match s.readRecord (.station kind d p seq) p seq (if key.isSome then u.record else none) (keyBytes key) with
      | (.wait, s) => s
      | (.other, _) => s
      | (.is bad, s') =>
        if bad && !poison then s else
        let s := f (s'.useTakes p seq ((takes seq u).getD []))
        match u.out with
        | none => s
        | some n =>
          let fmt := s.streamFmt p seq n
          s.giveElems p seq fmt (some n) (give fmt).1 (give fmt).2 poison

def ScaleFn.key : ScaleFn → Option Nat
  | .random key _ _ _ _ => some key
  | _ => none

/-- SCALE_OP (R114, R116). -/
def execScaleOp (d : Die) (p : Pol) (fn : ScaleFn) (xs : List Lane) (poison : Bool) (s : State) : Out :=
  .next <|
    if !s.stationWorks p.val d.val 1 || !scaleTakes fn xs then s else
    let out := scaleCompute fn xs
    s.stationOp 1 d.val p.val
      (fun seq u => s.laneTakes p.val seq xs none (if (ScaleFn.key fn).isSome then { u with ins := [] } else u))
      (ScaleFn.key fn) (fun fmt => laneCodes fmt out) poison
      fun s => s.updStation d.val p.val fun c => { c with scaleOut := out, poison := poison }

/-! ## Sieve -/

/-- A source element as FP32 holds it: a dequantised value beyond the FP32 range becomes infinity (R100). -/
def sourceVal (fmt scale c : Nat) : Val :=
  if fmt = 6 || fmt = 7 then elemVal fmt scale c
  else
    match elemVal fmt scale c with
    | .fin n m e => decode f32 (encodeIeee f32 (.fin n m e))
    | v => v

/-- The sign of a source NaN, which BF16 and FP32 keep. -/
def sourceNeg (fmt c : Nat) : Bool := c.testBit (elemBits fmt - 1)

/-- A value to BF16, FP32 or INT8 (R101). (DEDUCED: log 19) -/
def convertElem (src dst c : Nat) (v : Val) : Nat :=
  if dst = 8 then toIntSat 8 v
  else if v.isNan then nanCode (fmtOf dst) (sourceNeg src c)
  else encodeIeee (fmtOf dst) v

/-- A conversion over blocks of 32: element codes and, for an MX format, scale bytes (R99 to R101). -/
def convertTile (src dst : Nat) (scales : List Nat) (codes : List Nat) : List Nat × List Nat :=
  let vals := codes.zipIdx.map fun e => sourceVal src (scales.getD (e.2 / 32) 0) e.1
  if isMx dst then
    let bs := (chunks 32 vals.length vals).map (mxWrite (fmtOf dst))
    ((bs.map Prod.snd).flatten, bs.map Prod.fst)
  else ((vals.zip codes).map fun e => convertElem src dst e.2 e.1, [])

/-- What the Sieve takes: formats of R35, whole blocks of an MX format with their scales, operands of one length.
Sieve-8 is written by SIEVE8_ENCODE alone. -/
def sieveTakes (fn : SieveFn) (n : Nat) : Bool :=
  match fn with
  | .convert src dst scales =>
    1 ≤ src && src ≤ 9 && 1 ≤ dst && dst ≤ 8 && (!(isMx src || isMx dst) || n % 32 = 0)
      && scales.length = (if isMx src then n / 32 else 0)
  | .add ys => ys.length = n
  | .mul ys => ys.length = n
  | .random _ _ _ _ _ => true

def sieveCompute (fn : SieveFn) (xs : List Lane) : List Nat × List Nat :=
  match fn with
  | .convert src dst scales => convertTile src dst scales (xs.map BitVec.toNat)
  | .add ys => ((xs.zip ys).map fun e => (fadd e.1 e.2).toNat, [])
  | .mul ys => ((xs.zip ys).map fun e => (fmul e.1 e.2).toNat, [])
  | .random key tile element use step => ((randomWords key tile element use step xs.length).map BitVec.toNat, [])

/-- What an operation of the Sieve takes of the streams of a use. -/
def State.sieveTakesOf (s : State) (p seq : Nat) (fn : SieveFn) (xs : List Lane) (u : StationUse) : Option (List Take) :=
  match fn with
  | .convert src dst scales =>
    match u.ins with
    | [a] =>
      if s.streamFmt p seq a ≠ src || (u.out.any fun n => s.streamFmt p seq n ≠ dst) then none
      else some [{ stream := a, fmt := src, codes := xs.map BitVec.toNat, scales := scales }]
    | _ => none
  | .add ys => s.laneTakes p seq xs (some ys) u
  | .mul ys => s.laneTakes p seq xs (some ys) u
  | .random _ _ _ _ _ => some []

def SieveFn.key : SieveFn → Option Nat
  | .random key _ _ _ _ => some key
  | _ => none

/-- What it gives in a stream's format: a conversion gives its own codes. -/
def sieveGives (fn : SieveFn) (r : List Nat × List Nat) (fmt : Nat) : List Nat × List Nat :=
  match fn with
  | .convert _ _ _ => r
  | _ => laneCodes fmt (r.1.map (BitVec.ofNat 32))

/-- SIEVE_OP (R99 to R101, R116). -/
def execSieveOp (d : Die) (p : Pol) (fn : SieveFn) (xs : List Lane) (poison : Bool) (s : State) : Out :=
  .next <|
    if !s.stationWorks p.val d.val 2 || !sieveTakes fn xs.length then s else
    let r := sieveCompute fn xs
    s.stationOp 2 d.val p.val (fun seq u => s.sieveTakesOf p.val seq fn xs u) (SieveFn.key fn) (sieveGives fn r) poison
      fun s => s.updStation d.val p.val fun c => { c with sieveOut := r.1, sieveScales := r.2, poison := poison }

/-! ## Sieve-8 (R105 to R107) -/

/-- The code sent for v under a scale byte: the E5M2 neighbour that the random word picks (R106). (DEDUCED: log 19) -/
def sieve8Code (v : Val) (scale rand : Nat) : Nat :=
  let f := fmtOf 9
  match v.scale (127 - (scale : Int)) with
  | .fin neg m e =>
    let mag : Dy := ⟨m, e⟩
    if m = 0 then 0
    else if !(Dy.le mag ⟨57344, 0⟩) then signBit f neg + 0x7B
    else if !(Dy.le ⟨1, -17⟩ mag) then signBit f neg
    else
      let q := max (e + (bitLen m : Int) - 1 - f.t) f.qmin
      let k := (q - e).toNat
      let whole := if q ≤ e then m * 2 ^ (e - q).toNat else m / 2 ^ k
      let rest := if q ≤ e then 0 else m % 2 ^ k
      let a := (q - f.qmin).toNat * 2 ^ f.t + whole
      signBit f neg + (if rand < rest * 2 ^ 32 / 2 ^ k then a + 1 else a)
  | _ => 0

/-- What one element sends and keeps. -/
structure Sieve8Out where
  code : Nat
  residual : Lane
deriving DecidableEq, Repr

/-- Encode a block of 32 from its inputs and residuals; `e0` is the index of its first element. (DEDUCED: log 19) -/
def sieve8Block (seed tile hop step e0 : Nat) (gs rs : List Lane) : Nat × List Sieve8Out :=
  let vs := (gs.zip rs).map fun e => fadd e.1 e.2
  let sc := mxScale (fmtOf 9) (vs.map valOf)
  (sc, vs.zipIdx.map fun x =>
    let e := e0 + x.2
    let code := if sc = 0xFF then 0 else
      sieve8Code (valOf x.1) sc (Crypto.philoxWord seed tile (e / 4) hop step (e % 4))
    { code := code, residual := fsub x.1 (toF32 [x.1.toNat] (mxRead (fmtOf 9) sc code)) })

/-- The 1 KiB lines of a residual: reads and writes of each are permitted. (DEDUCED: log 19) -/
def State.residualLines (s : State) (eng : EngineRef) (p seq : Nat) (vas : List Nat) : List (Nat × Look) × List (Nat × Look) × State :=
  let tag := ((s.pol p).run seq).m.tag
  let (rd, s) := s.translateLines eng p 0 tag vas
  let (wr, s) := s.translateLines eng p 1 tag vas
  (rd, wr, s)

/-- The local DPA of a line in HBM. -/
def State.hbmTarget (s : State) (l : Look) : Option Nat :=
  match l with
  | .ok _ dpa =>
    if dpaModule dpa ≠ s.boot.moduleId then none else
    match s.region (dpaOffset dpa) with
    | .hbm _ _ => some (dpaOffset dpa)
    | _ => none
  | _ => none

/-- The tile of a Sieve-8 send, its elements from element 0: of the stream of a declared use, in FP32 or BF16. -/
def State.sieve8Takes (s : State) (p seq : Nat) (r : Sieve8) (u : StationUse) : Option (List Take) :=
  match u.ins with
  | [a] => if (u.out.any fun n => s.streamFmt p seq n ≠ 9 || (s.streamRun p seq n).made ≠ r.tile) then none else some [s.takeLanes p seq a r.g]
  | _ => none

/-- SIEVE8_ENCODE (R105, R106): the record and the residual are read, the tile's elements encoded, the new residual
written. A residual access that does not map to HBM raises PERMISSION, and the tile is sent poisoned. RESIDUAL's
reserved bits and its low 16 are taken as 0. (DEDUCED: log 19) -/
def execSieve8Encode (d : Die) (r : Sieve8) (s : State) : Out :=
  .next <|
    let p := r.pol
    match s.stationRun p d.val 2 fun _ => true with
    | none => s
    | some (seq, _) =>
      if !s.stationWorks p d.val 2 || r.record.length ≠ 32 || r.g.length % 32 ≠ 0 || 65536 < r.g.length || 255 < r.hop then s else
      match s.pickUse p seq 2 d.val (s.sieve8Takes p seq r) r.poison with
      | none => s
      | some u =>
      let seed := leAt r.record 0 8
      let step := leAt r.record 8 4
      let base := leAt r.record 16 8 % 2 ^ 45 / 65536 * 65536 + 262144 * r.tile
      let eng := EngineRef.station 2 d.val p seq
      let src := srcStation 2 d.val
      let vas := (List.range (ceilDiv (4 * r.g.length) 1024)).map fun i => base + 1024 * i
      let (rd, wr, s) := s.residualLines eng p seq vas
      if anyWait rd || anyWait wr then s else
      let dpas := rd.map fun e => (s.hbmTarget e.2).getD 0
      -- what the Sieve wrote of these lines before must stand
      if (s.stationOwes 2 d.val p).any fun q => dpas.contains (1024 * q.line) then s else
      match s.readRecord eng p seq u.record r.record with
      | (.wait, s) => s
      | (.other, _) => s
      | (.is unsound, s') =>
      if unsound && !r.poison then s else
      let s := s'.endWalks eng
      let takes := (s.sieve8Takes p seq r u).getD []
      let bad := (rd ++ wr).filter fun e => (s.hbmTarget e.2).isNone
      let fenced := (bad.filter fun e => e.2 = .fenced).map Prod.fst
      let denied := (bad.filter fun e => e.2 ≠ .fenced && e.2 ≠ .aborted).map Prod.fst
      let sent := fun (s : State) (codes scales : List Nat) (poison : Bool) =>
        ((s.updStation d.val p fun c => { c with sieveOut := codes, sieveScales := scales, poison := poison }).useTakes p seq takes).giveElems
          p seq 9 u.out codes scales poison
      if !bad.isEmpty then
        let s := (s.raiseGranules .permission src p 2 denied).raiseGranules .fencedTarget src p 2 fenced
        let n := r.g.length
        sent { s with seed := s.seed + n + n / 32 }
          ((List.range n).map fun i => (Config.freeBits 8 (s.seed + i)).toNat)
          ((List.range (n / 32)).map fun i => (Config.freeBits 8 (s.seed + n + i)).toNat) true
      else
      let at_ := fun (i : Nat) => dpas.getD (4 * i / 1024) 0 + 4 * i % 1024
      let struck := dpas.any fun a => s.peekPoison a 1024
      let res : List Lane := (List.range r.g.length).map fun i => BitVec.ofNat 32 (leNat (s.peek (at_ i) 4))
      let blocks := (List.range (r.g.length / 32)).map fun b =>
        sieve8Block seed r.tile r.hop step (32 * b) ((r.g.drop (32 * b)).take 32) ((res.drop (32 * b)).take 32)
      let out := (blocks.map Prod.snd).flatten
      let bytes := (out.map fun o => leBytes 4 o.residual.toNat).flatten
      let s := if struck then s.raiseOwn .poisonRead src p (addrDetail base 2) else s
      let s := s.stationLines 2 d.val p seq (dpas.zipIdx.map fun e =>
        (base + 1024 * e.2, s.boot.moduleId * 2 ^ 48 + e.1, bytesAt 0 ((bytes.drop (1024 * e.2)).take 1024))) (struck || r.poison)
      sent s (out.map Sieve8Out.code) (blocks.map Prod.fst) (struck || r.poison)

/-! ## Cooper (R103) -/

/-- A contribution's elements in FP32: FP32, BF16 or Sieve-8, exactly. (DEDUCED: log 33) -/
def contribution (fmt : Nat) (elems scales : List Nat) : List Lane :=
  elems.zipIdx.map fun e =>
    let sc := scales.getD (e.2 / 32) 0
    if fmt = 7 then BitVec.ofNat 32 e.1
    else if fmt = 6 then ofBf16 (BitVec.ofNat 16 e.1)
    else toF32 [e.1, sc] (mxRead (fmtOf 9) sc e.1)

/-- COOPER_REDUCTION (R103): the first contribution of a reduction is held; each later one is added in FP32, in the
order of arrival. Where the schedule declares Cooper's uses, each contribution is the next of the stream of one of
them, and the stream that the use gives receives the sum with its `last`. (DEDUCED: log 33) -/
def execCooperReduction (d : Die) (p : Pol) (first : Bool) (fmt : Nat) (elems scales : List Nat) (poison : Bool) (s : State) : Out :=
  .next <|
    if !s.stationWorks p.val d.val 3 || !(fmt = 6 || fmt = 7 || fmt = 9)
        || (fmt = 9 && (elems.length % 32 ≠ 0 || scales.length ≠ elems.length / 32)) then s else
    let c := contribution fmt elems scales
    let st := s.station d.val p.val
    if !first && st.cooper.length ≠ c.length then s else
    match s.stationRun p.val d.val 3 fun _ => true with
    | none => s
    | some (seq, _) =>
      let takes := fun (u : StationUse) => match u.ins with
        | [a] => if s.streamFmt p.val seq a ≠ fmt then none else some [({ stream := a, fmt := fmt, codes := elems, scales := scales } : Take)]
        | _ => none
      match s.pickUse p.val seq 3 d.val takes poison with
      | none => s
      | some u =>
        let s := s.useTakes p.val seq ((takes u).getD [])
        let sum := if first then c else (st.cooper.zip c).map fun e => fadd e.1 e.2
        let bad := if first then poison else st.cooperPoison || poison
        let s := s.updStation d.val p.val fun x => { x with cooper := sum, cooperPoison := bad }
        match u.out with
        | none => s
        | some n =>
          let f := s.streamFmt p.val seq n
          s.giveElems p.val seq f (some n) (laneCodes f sum).1 (laneCodes f sum).2 bad

end Sys2Proof.Machine
end

