-- ==== Sys2Proof/Machine/Dispatch.lean ====
section
/-! DEFINITION. One arm for each command of the module: each is a direct call of its meaning. -/

namespace Sys2Proof.Machine

/-- What a command does to the module, the queue apart. -/
def exec (i : Instr) (s : State) : Host.Outcome State Fault Refusal :=
  match i with
  | .powerGoodRise straps lowNs => Sys2Proof.Machine.execPowerGoodRise straps lowNs s
  | .powerGoodFall lowNs => Sys2Proof.Machine.execPowerGoodFall lowNs s
  | .moduleInsertion => Sys2Proof.Machine.execModuleInsertion s
  | .stage1 => Sys2Proof.Machine.execStage1 s
  | .stage2 f => Sys2Proof.Machine.execStage2 f s
  | .imageLoadGo port cut => Sys2Proof.Machine.execImageLoadGo port cut s
  | .stage3 => Sys2Proof.Machine.execStage3 s
  | .stage4 => Sys2Proof.Machine.execStage4 s
  | .consent port => Sys2Proof.Machine.execConsent port s
  | .referenceUpdate offset => Sys2Proof.Machine.execReferenceUpdate offset s
  | .referenceMissing => Sys2Proof.Machine.execReferenceMissing s
  | .almCtlWrite a => Sys2Proof.Machine.execAlmCtlWrite a s
  | .almLock a => Sys2Proof.Machine.execAlmLock a s
  | .almStep a => Sys2Proof.Machine.execAlmStep a s
  | .almStepApply => Sys2Proof.Machine.execAlmStepApply s
  | .almNowRead src size half => Sys2Proof.Machine.execAlmNowRead src size half s
  | .ppsOutRise => Sys2Proof.Machine.execPpsOutRise s
  | .ppsOutFall => Sys2Proof.Machine.execPpsOutFall s
  | .ptmRequest port => Sys2Proof.Machine.execPtmRequest port s
  | .tideBoundary => Sys2Proof.Machine.execTideBoundary s
  | .pickup p => Sys2Proof.Machine.execPickup p s
  | .manifestStart p => Sys2Proof.Machine.execManifestStart p s
  | .streamTileComplete p seq stream delays => Sys2Proof.Machine.execStreamTileComplete p seq stream delays s
  | .freeboardLow p seq => Sys2Proof.Machine.execFreeboardLow p seq s
  | .deadlineMiss p seq => Sys2Proof.Machine.execDeadlineMiss p seq s
  | .manifestComplete p seq => Sys2Proof.Machine.execManifestComplete p seq s
  | .mringBaseWrite p a => Sys2Proof.Machine.execMringBaseWrite p a s
  | .mringEnable p a => Sys2Proof.Machine.execMringEnable p a s
  | .mringDisable p a => Sys2Proof.Machine.execMringDisable p a s
  | .fbCfgWrite p a => Sys2Proof.Machine.execFbCfgWrite p a s
  | .rcFieldRead src off size => Sys2Proof.Machine.execRcFieldRead src off size s
  | .registerWrite src off size value => Sys2Proof.Machine.execRegisterWrite src off size value s
  | .porterTileIssue p seq stream => Sys2Proof.Machine.execPorterTileIssue p seq stream s
  | .porterTileStaged p seq stream => Sys2Proof.Machine.execPorterTileStaged p seq stream s
  | .storeTileEmit p seq stream payload poison => Sys2Proof.Machine.execStoreTileEmit p seq stream payload poison s
  | .creditReturn p seq stream => Sys2Proof.Machine.execCreditReturn p seq stream s
  | .millModeChange d mode index => Sys2Proof.Machine.execMillModeChange d mode index s
  | .gemmOutputStationary d index g => Sys2Proof.Machine.execGemmOutputStationary d index g s
  | .gemmWeightStationary d index g => Sys2Proof.Machine.execGemmWeightStationary d index g s
  | .batchedGemv d tiles g => Sys2Proof.Machine.execBatchedGemv d tiles g s
  | .fusedAttentionPass d g => Sys2Proof.Machine.execFusedAttentionPass d g s
  | .verifyGreedy d v => Sys2Proof.Machine.execVerifyGreedy d v s
  | .verifySample d v => Sys2Proof.Machine.execVerifySample d v s
  | .weirLevelChange d => Sys2Proof.Machine.execWeirLevelChange d s
  | .ladderRung d tile => Sys2Proof.Machine.execLadderRung d tile s
  | .scaleOp d p fn xs poison => Sys2Proof.Machine.execScaleOp d p fn xs poison s
  | .sieveOp d p fn xs poison => Sys2Proof.Machine.execSieveOp d p fn xs poison s
  | .sieve8Encode d r => Sys2Proof.Machine.execSieve8Encode d r s
  | .cooperReduction d p first fmt elems scales poison => Sys2Proof.Machine.execCooperReduction d p first fmt elems scales poison s
  | .caskDecode d p seq stream group => Sys2Proof.Machine.execCaskDecode d p seq stream group s
  | .caskEncode d p seq stream group bytes => Sys2Proof.Machine.execCaskEncode d p seq stream group bytes s
  | .kernelStart p seq kernel => Sys2Proof.Machine.execKernelStart p seq kernel s
  | .taskStart h => Sys2Proof.Machine.execTaskStart h s
  | .kernelEnd p seq kernel => Sys2Proof.Machine.execKernelEnd p seq kernel s
  | .illegalInstruction h word => Sys2Proof.Machine.execIllegalInstruction h word s
  | .iop h w => Sys2Proof.Machine.execIop h w s
  | .iopi h w => Sys2Proof.Machine.execIopi h w s
  | .icmp h w => Sys2Proof.Machine.execIcmp h w s
  | .fop h w => Sys2Proof.Machine.execFop h w s
  | .fcmp h w => Sys2Proof.Machine.execFcmp h w s
  | .fspec h w => Sys2Proof.Machine.execFspec h w s
  | .cvt h w => Sys2Proof.Machine.execCvt h w s
  | .sel h w => Sys2Proof.Machine.execSel h w s
  | .xlane h w => Sys2Proof.Machine.execXlane h w s
  | .xu h w => Sys2Proof.Machine.execXu h w s
  | .uop h w => Sys2Proof.Machine.execUop h w s
  | .bra h w => Sys2Proof.Machine.execBra h w s
  | .divIf h w => Sys2Proof.Machine.execDivIf h w s
  | .divElse h w => Sys2Proof.Machine.execDivElse h w s
  | .divEndif h w => Sys2Proof.Machine.execDivEndif h w s
  | .divLoop h w => Sys2Proof.Machine.execDivLoop h w s
  | .divBreak h w => Sys2Proof.Machine.execDivBreak h w s
  | .divEndloop h w => Sys2Proof.Machine.execDivEndloop h w s
  | .ld h w => Sys2Proof.Machine.execLd h w s
  | .lds h w => Sys2Proof.Machine.execLds h w s
  | .handMissFill h sector => Sys2Proof.Machine.execHandMissFill h sector s
  | .st h w => Sys2Proof.Machine.execSt h w s
  | .stDead h w => Sys2Proof.Machine.execStDead h w s
  | .ldl h w => Sys2Proof.Machine.execLdl h w s
  | .stl h w => Sys2Proof.Machine.execStl h w s
  | .atom h w => Sys2Proof.Machine.execAtom h w s
  | .atoml h w => Sys2Proof.Machine.execAtoml h w s
  | .fenceRel h w => Sys2Proof.Machine.execFenceRel h w s
  | .fenceAcq h w => Sys2Proof.Machine.execFenceAcq h w s
  | .fenceAcqrel h w => Sys2Proof.Machine.execFenceAcqrel h w s
  | .tallyWait h w => Sys2Proof.Machine.execTallyWait h w s
  | .tallySatisfied h => Sys2Proof.Machine.execTallySatisfied h s
  | .tallyRead h w => Sys2Proof.Machine.execTallyRead h w s
  | .take h w => Sys2Proof.Machine.execTake h w s
  | .tileDone h w => Sys2Proof.Machine.execTileDone h w s
  | .alloc h w => Sys2Proof.Machine.execAlloc h w s
  | .put h w => Sys2Proof.Machine.execPut h w s
  | .hmma h w => Sys2Proof.Machine.execHmma h w s
  | .barCrew h w => Sys2Proof.Machine.execBarCrew h w s
  | .barSet h w => Sys2Proof.Machine.execBarSet h w s
  | .barrierRelease p seq kernel d => Sys2Proof.Machine.execBarrierRelease p seq kernel d s
  | .strandedBarrier h => Sys2Proof.Machine.execStrandedBarrier h s
  | .sysEnd h w => Sys2Proof.Machine.execSysEnd h w s
  | .sysExit h w => Sys2Proof.Machine.execSysExit h w s
  | .sysTrap h w => Sys2Proof.Machine.execSysTrap h w s
  | .rdcyc h w => Sys2Proof.Machine.execRdcyc h w s
  | .rdalm h w => Sys2Proof.Machine.execRdalm h w s
  | .nop h w => Sys2Proof.Machine.execNop h w s
  | .stintOccurrence index cycle ready late => Sys2Proof.Machine.execStintOccurrence index cycle ready late s
  | .bundleReplay bundle p ok hit => Sys2Proof.Machine.execBundleReplay bundle p ok hit s
  | .quayWrite q e => Sys2Proof.Machine.execQuayWrite q e s
  | .quayRead q => Sys2Proof.Machine.execQuayRead q s
  | .binRead d p line need hint => Sys2Proof.Machine.execBinRead d p line need hint s
  | .binWrite h => Sys2Proof.Machine.execBinWrite h s
  | .granaryEviction k set way => Sys2Proof.Machine.execGranaryEviction k set way s
  | .homeNoncachingRead id => Sys2Proof.Machine.execHomeNoncachingRead id s
  | .homeNoncachingWrite id => Sys2Proof.Machine.execHomeNoncachingWrite id s
  | .addToLine d p seq va ty addends => Sys2Proof.Machine.execAddToLine d p seq va ty addends s
  | .prefetch p seq stepNo => Sys2Proof.Machine.execPrefetch p seq stepNo s
  | .flush p seq stepNo => Sys2Proof.Machine.execFlush p seq stepNo s
  | .cleanInvalidate p seq stepNo => Sys2Proof.Machine.execCleanInvalidate p seq stepNo s
  | .discard p seq stepNo => Sys2Proof.Machine.execDiscard p seq stepNo s
  | .trackerFreed k => Sys2Proof.Machine.execTrackerFreed k s
  | .hbmRead k line => Sys2Proof.Machine.execHbmRead k line s
  | .hbmWrite k line => Sys2Proof.Machine.execHbmWrite k line s
  | .hbmRefresh w pc => Sys2Proof.Machine.execHbmRefresh w pc s
  | .stackTempRead w c => Sys2Proof.Machine.execStackTempRead w c s
  | .refreshRateFallback w => Sys2Proof.Machine.execRefreshRateFallback w s
  | .stackCeilingRelease w => Sys2Proof.Machine.execStackCeilingRelease w s
  | .gets m => Sys2Proof.Machine.execGets m s
  | .getm m => Sys2Proof.Machine.execGetm m s
  | .rdsec m => Sys2Proof.Machine.execRdsec m s
  | .pute m => Sys2Proof.Machine.execPute m s
  | .putm m => Sys2Proof.Machine.execPutm m s
  | .puto m => Sys2Proof.Machine.execPuto m s
  | .done m => Sys2Proof.Machine.execDone m s
  | .invAck m => Sys2Proof.Machine.execInvAck m s
  | .fwdAck m => Sys2Proof.Machine.execFwdAck m s
  | .wbCross m => Sys2Proof.Machine.execWbCross m s
  | .recallAck m => Sys2Proof.Machine.execRecallAck m s
  | .fwdGets m => Sys2Proof.Machine.execFwdGets m s
  | .fwdGetm m => Sys2Proof.Machine.execFwdGetm m s
  | .inv m => Sys2Proof.Machine.execInv m s
  | .recall m => Sys2Proof.Machine.execRecall m s
  | .grant m => Sys2Proof.Machine.execGrant m s
  | .dataH m => Sys2Proof.Machine.execDataH m s
  | .dataF m => Sys2Proof.Machine.execDataF m s
  | .putAck m => Sys2Proof.Machine.execPutAck m s
  | .nackRd m => Sys2Proof.Machine.execNackRd m s
  | .holdExpiry d line p => Sys2Proof.Machine.execHoldExpiry d line p s
  | .landWalk id => Sys2Proof.Machine.execLandWalk id s
  | .walkerFreed k => Sys2Proof.Machine.execWalkerFreed k s
  | .translationMiss id => Sys2Proof.Machine.execTranslationMiss id s
  | .missEntryFreed => Sys2Proof.Machine.execMissEntryFreed s
  | .landEdit a => Sys2Proof.Machine.execLandEdit a s
  | .landEditComplete port => Sys2Proof.Machine.execLandEditComplete port s
  | .landResume a => Sys2Proof.Machine.execLandResume a s
  | .landAbort a => Sys2Proof.Machine.execLandAbort a s
  | .landHwinLock a => Sys2Proof.Machine.execLandHwinLock a s
  | .hostWindowRead port p off len who => Sys2Proof.Machine.execHostWindowRead port p off len who s
  | .hostWindowWrite port p off data poison => Sys2Proof.Machine.execHostWindowWrite port p off data poison s
  | .hostCompletion port tag data status ep => Sys2Proof.Machine.execHostCompletion port tag data status ep s
  | .hostTimeout port tag => Sys2Proof.Machine.execHostTimeout port tag s
  | .portReset port kind => Sys2Proof.Machine.execPortReset port kind s
  | .pfFlr port => Sys2Proof.Machine.execPfFlr port s
  | .vfFlr port n => Sys2Proof.Machine.execVfFlr port n s
  | .resetComplete port => Sys2Proof.Machine.execResetComplete port s
  | .refclkLoss port => Sys2Proof.Machine.execRefclkLoss port s
  | .configRequest port fn write off value be => Sys2Proof.Machine.execConfigRequest port fn write off value be s
  | .d3hotEntry port fn => Sys2Proof.Machine.execD3hotEntry port fn s
  | .d0Return port fn => Sys2Proof.Machine.execD0Return port fn s
  | .hostBar2Read src off len => Sys2Proof.Machine.execHostBar2Read src off len s
  | .hostBar2Write src off data ep => Sys2Proof.Machine.execHostBar2Write src off data ep s
  | .barResize port vf sizeLog => Sys2Proof.Machine.execBarResize port vf sizeLog s
  | .msixUnmask port fn vector => Sys2Proof.Machine.execMsixUnmask port fn vector s
  | .msixEntryWrite port fn off size value => Sys2Proof.Machine.execMsixEntryWrite port fn off size value s
  | .vfEnable port numVfs => Sys2Proof.Machine.execVfEnable port numVfs s
  | .vfDisable port => Sys2Proof.Machine.execVfDisable port s
  | .doeDiscovery port index => Sys2Proof.Machine.execDoeDiscovery port index s
  | .attestReport port request => Sys2Proof.Machine.execAttestReport port request s
  | .attestCertificate port => Sys2Proof.Machine.execAttestCertificate port s
  | .featureOffer port => Sys2Proof.Machine.execFeatureOffer port s
  | .featureAccept port word => Sys2Proof.Machine.execFeatureAccept port word s
  | .doeCharter port => Sys2Proof.Machine.execDoeCharter port s
  | .doeAbort port => Sys2Proof.Machine.execDoeAbort port s
  | .polOpen p a => Sys2Proof.Machine.execPolOpen p a s
  | .polClose p a => Sys2Proof.Machine.execPolClose p a s
  | .polBump p a => Sys2Proof.Machine.execPolBump p a s
  | .polFreeze p a => Sys2Proof.Machine.execPolFreeze p a s
  | .freezeEffect p => Sys2Proof.Machine.execFreezeEffect p s
  | .freezeComplete p => Sys2Proof.Machine.execFreezeComplete p s
  | .polThaw p a => Sys2Proof.Machine.execPolThaw p a s
  | .thawEffect p => Sys2Proof.Machine.execThawEffect p s
  | .polSave p a => Sys2Proof.Machine.execPolSave p a s
  | .polRestore p a => Sys2Proof.Machine.execPolRestore p a s
  | .polCmdRefused p a => Sys2Proof.Machine.execPolCmdRefused p a s
  | .laserLost e => Sys2Proof.Machine.execLaserLost e s
  | .lightRestored e => Sys2Proof.Machine.execLightRestored e s
  | .oeShutdown e a => Sys2Proof.Machine.execOeShutdown e a s
  | .oeShutdownClear e a => Sys2Proof.Machine.execOeShutdownClear e a s
  | .linkTraining zp => Sys2Proof.Machine.execLinkTraining zp s
  | .linkUp zp f => Sys2Proof.Machine.execLinkUp zp f s
  | .linkDown zp => Sys2Proof.Machine.execLinkDown zp s
  | .retrain zp a => Sys2Proof.Machine.execRetrain zp a s
  | .zlPortOff zp a => Sys2Proof.Machine.execZlPortOff zp a s
  | .zlPortOn zp a => Sys2Proof.Machine.execZlPortOn zp a s
  | .zlPortLock zp a => Sys2Proof.Machine.execZlPortLock zp a s
  | .portLimit zp => Sys2Proof.Machine.execPortLimit zp s
  | .flitReceive zp flit corrected uncorrected => Sys2Proof.Machine.execFlitReceive zp flit corrected uncorrected s
  | .nakRepeat zp => Sys2Proof.Machine.execNakRepeat zp s
  | .flitRelease zp => Sys2Proof.Machine.execFlitRelease zp s
  | .almSyncSend zp => Sys2Proof.Machine.execAlmSyncSend zp s
  | .almSync zp src b => Sys2Proof.Machine.execAlmSync zp src b s
  | .almReq zp src b => Sys2Proof.Machine.execAlmReq zp src b s
  | .almResp zp src b => Sys2Proof.Machine.execAlmResp zp src b s
  | .almExchangeMissing zp => Sys2Proof.Machine.execAlmExchangeMissing zp s
  | .zlWrite zp t => Sys2Proof.Machine.execZlWrite zp t s
  | .zlRead zp t => Sys2Proof.Machine.execZlRead zp t s
  | .readData zp t => Sys2Proof.Machine.execReadData zp t s
  | .zlBarrier zp t => Sys2Proof.Machine.execZlBarrier zp t s
  | .powerReport zp src b => Sys2Proof.Machine.execPowerReport zp src b s
  | .powerOffer zp src b => Sys2Proof.Machine.execPowerOffer zp src b s
  | .powerTake zp src b => Sys2Proof.Machine.execPowerTake zp src b s
  | .notice zp src b => Sys2Proof.Machine.execNotice zp src b s
  | .powerEpoch => Sys2Proof.Machine.execPowerEpoch s
  | .collectiveTimeout p seq stepNo => Sys2Proof.Machine.execCollectiveTimeout p seq stepNo s
  | .zlCommonsLock a => Sys2Proof.Machine.execZlCommonsLock a s
  | .eventEdge => Sys2Proof.Machine.execEventEdge s
  | .daybookRecordWrite cls => Sys2Proof.Machine.execDaybookRecordWrite cls s
  | .sluiceRelease cls p source => Sys2Proof.Machine.execSluiceRelease cls p source s
  | .daybookEnable p cls a => Sys2Proof.Machine.execDaybookEnable p cls a s
  | .daybookDisable p cls a => Sys2Proof.Machine.execDaybookDisable p cls a s
  | .daybookConsWrite p cls a => Sys2Proof.Machine.execDaybookConsWrite p cls a s
  | .daybookOverflow p cls => Sys2Proof.Machine.execDaybookOverflow p cls s
  | .polderFenced p cls => Sys2Proof.Machine.execPolderFenced p cls s
  | .millClockLoss d => Sys2Proof.Machine.execMillClockLoss d s
  | .forwardingPathLoss k join => Sys2Proof.Machine.execForwardingPathLoss k join s
  | .bundleDead bundle => Sys2Proof.Machine.execBundleDead bundle s
  | .uncorrectableError part => Sys2Proof.Machine.execUncorrectableError part s
  | .memoryUe level d line sectors => Sys2Proof.Machine.execMemoryUe level d line sectors s
  | .millReset d a clockOk faults => Sys2Proof.Machine.execMillReset d a clockOk faults s
  | .dieReturned d => Sys2Proof.Machine.execDieReturned d s
  | .wharfFailure => Sys2Proof.Machine.execWharfFailure s
  | .powerSample volts amps mills => Sys2Proof.Machine.execPowerSample volts amps mills s
  | .inputRange volts => Sys2Proof.Machine.execInputRange volts s
  | .inputPowerLoss volts => Sys2Proof.Machine.execInputPowerLoss volts s
  | .capLimitWrite a => Sys2Proof.Machine.execCapLimitWrite a s
  | .pwrCapLock a => Sys2Proof.Machine.execPwrCapLock a s
  | .dieTempRead w c => Sys2Proof.Machine.execDieTempRead w c s
  | .thermalCeilingStep w => Sys2Proof.Machine.execThermalCeilingStep w s
  | .oeTempRead e c => Sys2Proof.Machine.execOeTempRead e c s
  | .stepDown d => Sys2Proof.Machine.execStepDown d s
  | .stepUp d => Sys2Proof.Machine.execStepUp d s
  | .voltageSettled d => Sys2Proof.Machine.execVoltageSettled d s
  | .phaseStart p seq phase => Sys2Proof.Machine.execPhaseStart p seq phase s
  | .droop d detector => Sys2Proof.Machine.execDroop d detector s
  | .droopResume d tile => Sys2Proof.Machine.execDroopResume d tile s
  | .thermtripRelease => Sys2Proof.Machine.execThermtripRelease s
  | .clearFaults => Sys2Proof.Machine.execClearFaults s
  | .statusWord => Sys2Proof.Machine.execStatusWord s
  | .statusInput => Sys2Proof.Machine.execStatusInput s
  | .statusTemperature => Sys2Proof.Machine.execStatusTemperature s
  | .statusCml => Sys2Proof.Machine.execStatusCml s
  | .statusMfrSpecific => Sys2Proof.Machine.execStatusMfrSpecific s
  | .readVin => Sys2Proof.Machine.execReadVin s
  | .readIin => Sys2Proof.Machine.execReadIin s
  | .readPin => Sys2Proof.Machine.execReadPin s
  | .readTemperature1 => Sys2Proof.Machine.execReadTemperature1 s
  | .pmbusRevision => Sys2Proof.Machine.execPmbusRevision s
  | .mfrId => Sys2Proof.Machine.execMfrId s
  | .mfrModel => Sys2Proof.Machine.execMfrModel s
  | .unsupportedCommand code => Sys2Proof.Machine.execUnsupportedCommand code s
  | .alertResponse => Sys2Proof.Machine.execAlertResponse s
  | .enrol port => Sys2Proof.Machine.execEnrol port s
  | .revoke port => Sys2Proof.Machine.execRevoke port s
  | .fwWrite port => Sys2Proof.Machine.execFwWrite port s
  | .fwCommit port => Sys2Proof.Machine.execFwCommit port s
  | .linkSlot zp => Sys2Proof.Machine.execLinkSlot zp s
  | .perstRelease port => Sys2Proof.Machine.execPerstRelease port s
  | .pcieLinkUp port rate width flit => Sys2Proof.Machine.execPcieLinkUp port rate width flit s
  | .l0pWidthChange port width => Sys2Proof.Machine.execL0pWidthChange port width s

end Sys2Proof.Machine
end

