-- ==== Sys2Proof/Machine/Step.lean ====
section
/-! DEFINITION. One step of the module: the command at the front of the queue, or one ACLK cycle when the
queue is empty. -/

namespace Sys2Proof.Machine

open Sys2Proof

/-- The front command acts on the state with the queue's rest; with no command waiting, one ACLK cycle passes, in
which a SAVE or a RESTORE in progress ends. (DESIGN CHOICE: log 2; DESIGN CHOICE: log 64) -/
def step (s : State) : Host.Outcome State Fault Refusal :=
  match s.pending with
  | [] => .next s.idle.polEnds
  | i :: rest => exec i { s with pending := rest }

/-- `s` with the command that the word spells put at the front of its queue; `s` where it spells none. (DESIGN CHOICE:
log 5) -/
def State.withFetchWord (s : State) (nbits w : Nat) : State :=
  match decodeTableWord nbits w with
  | some i => { s with pending := i :: s.pending }
  | none => s

end Sys2Proof.Machine
end

