-- ==== Sys2Proof/Safety.lean ====
section
/-! DEFINITION. The terms that statements use: a command that completes, the invariants of the state, and what the
instructions of one shape leave. -/

namespace Sys2Proof.Machine

open Sys2Proof

/-- The command answers a next state, of which P holds. -/
def completes (c : Instr) (s : State) (P : State → Prop) : Prop := ∃ t, exec c s = .next t ∧ P t

/-- Memory is in its canonical form: addresses strictly rising, no byte listed that an unlisted address reads as. -/
def State.memCanonical (s : State) : Prop := Memory.wf s.mem = true

/-- What is fused or soldered is the same: dies, serial number, fibre, cold plate, and the spares and pseudo-channels that fuses
consumed. -/
def State.sameFuses (s t : State) : Prop :=
  t.nv.dies = s.nv.dies ∧ t.nv.serial = s.nv.serial ∧ t.nv.fibre = s.nv.fibre ∧ t.nv.coldPlate = s.nv.coldPlate
    ∧ t.nv.fusedSpares = s.nv.fusedSpares ∧ t.nv.fusedPcs = s.nv.fusedPcs

/-- Nothing of the module but one Hand has changed, and that Hand is now `c`. -/
def State.onlyHand (s : State) (h : Nat) (c : Hand) (t : State) : Prop :=
  t = { s with hands := t.hands } ∧ (∀ j, j ≠ h → t.hand j = s.hand j) ∧ t.hand h = c

/-- An instruction over the selected lanes has written XD with a value and its poison for each, the poison of the selecting flag
on top; every other register, and all else that the Hand and the module hold, as before; x0 keeps reading as 0 (R124, R127). -/
def laneWrote (h fsel : Nat) (finv : Bool) (xd : Nat) (f : Nat → Lane × Bool) (s t : State) : Prop :=
  let c := s.hand h
  let d := t.hand h
  s.onlyHand h { c with x := d.x, xp := d.xp, pc := c.pc + 1 } t ∧
  ∀ l, l < 16 → ∀ r,
    let hit := l ∈ c.select fsel finv ∧ r = xd ∧ r ≠ 0
    (hit → d.rx r l = (f l).1 ∧ d.px r l = ((f l).2 || c.pf fsel)) ∧ (¬hit → d.rx r l = c.rx r l ∧ d.px r l = c.px r l)

/-- The same of an instruction that computes each lane's value from the lane's own source registers. -/
def laneResult (h fsel : Nat) (finv : Bool) (xd : Nat) (srcs : List Nat) (f : Hand → Nat → Lane) (s t : State) : Prop :=
  laneWrote h fsel finv xd (fun l => (f (s.hand h) l, srcs.any fun r => (s.hand h).px r l)) s t

/-- The lane registers that an instruction touches wait for nothing. -/
def State.freeRegs (s : State) (h : Nat) (rs : List Nat) : Prop := ∀ r ∈ rs, (s.hand h).pendingX r = false

/-- A crew instruction has written one crew register and moved on: the module but for that Hand, and all else of the Hand, as
before; w0 keeps reading as 0. -/
def crewResult (h wd : Nat) (v : Word) (bad : Bool) (s t : State) : Prop :=
  let c := s.hand h
  let d := t.hand h
  s.onlyHand h { c with w := d.w, wp := d.wp, pc := c.pc + 1 } t ∧
  ∀ r, (r = wd ∧ r ≠ 0 → d.rw r = v ∧ d.pw r = bad) ∧ (¬(r = wd ∧ r ≠ 0) → d.rw r = c.rw r ∧ d.pw r = c.pw r)

/-- A compare has written one flag: of the selected lanes the bits given, of the others those it had, and its poison; f0 keeps
reading as all ones. -/
def flagResult (h fsel : Nat) (finv : Bool) (fd : Nat) (f : Nat → Bool) (bad : Bool) (s t : State) : Prop :=
  let c := s.hand h
  let d := t.hand h
  s.onlyHand h { c with f := d.f, fp := d.fp, pc := c.pc + 1 } t ∧
  (∀ r, ¬(r = fd ∧ r ≠ 0) → d.rf r = c.rf r ∧ d.pf r = c.pf r) ∧
  (fd ≠ 0 → d.pf fd = bad ∧
    ∀ l, l < 16 → (d.rf fd).getLsbD l = if l ∈ c.select fsel finv then f l else (c.rf fd).getLsbD l)

/-- A divergence instruction has given the crew a mask, a stack and its next instruction; an empty mask unwinds the stack as R129
says, and a task whose stack gives no lane ends. `c` is the Hand before the mask changed. -/
def maskResult (h : Nat) (c : Hand) (a : BitVec 16) (st : List MaskEntry) (pc : Int) (s t : State) : Prop :=
  let r := if a ≠ 0 then (st, a, pc) else unwind c.exited pc st
  (r.2.1 ≠ 0 → s.onlyHand h { c with active := r.2.1, stack := r.1, pc := r.2.2 } t) ∧
  (r.2.1 = 0 → (t.hand h).running = false ∧ (t.hand h).ended = c.ended + 1 ∧ (t.hand h).endedAt = some s.clock)

/-- The range of a memory form: each selected lane's bytes, as aligned and placed as a global access must be (R136). -/
def globalReady (s : State) (h : Nat) (i : FmtM) (n : Nat) (bad : Option Nat) : Prop :=
  s.issues h = true ∧ bad = none ∧ s.freeRegs h (memRegs i n) ∧ (s.hand h).badAddr i true = false
    ∧ ∀ l ∈ (s.hand h).memLanes i, (s.hand h).globalVa i l % sizeBytes i.size.val = 0

/-- The same of the local store, with every address below LOCAL (R137). -/
def localReady (s : State) (h : Nat) (i : FmtM) (n : Nat) (bad : Option Nat) : Prop :=
  s.issues h = true ∧ bad = none ∧ s.freeRegs h (memRegs i n) ∧ (s.hand h).badAddr i false = false
    ∧ ∀ l ∈ (s.hand h).memLanes i,
        (s.hand h).localVa i l % sizeBytes i.size.val = 0 ∧ (s.hand h).localVa i l < 1024 * s.handLocal h

/-- The request that a command names has come to its home: it holds a tracker, and nothing that it must follow is under way. -/
def State.arrives (s : State) (id : Nat) (f : HomeOp → Bool) (r : HomeReq) : Prop :=
  s.reqs.find? (fun r => r.id = id && f r.op && s.mayServe r) = some r

/-- A home receives a message: none of the same stints precedes it, and the home hears its sender. -/
def State.heard (s : State) (m : CohMsg) (u : State) : Prop := s.receive m = some u ∧ u.deaf m = false

/-- A Bin receives a message, its die being in service. -/
def State.binHears (s : State) (m : CohMsg) (u : State) : Prop := s.receive m = some u ∧ m.dst < 8 ∧ (u.mill m.dst).fenced = false

/-- A line at its home that nothing stands in the way of: its home and stack are in service, no Bin, request or transaction has it,
the Granary takes no part in it, its copy is clean of poison and of dead stores, and a tracker is free for the polder. -/
def State.restingLine (s : State) (p line : Nat) : Prop :=
  s.homeFenced line = false ∧ s.stackFenced line = false ∧ s.granFind line = none ∧ s.granPart (homeOf line) p = none
    ∧ (s.mark line).run = 0 ∧ (s.mark line).poison = 0 ∧ (s.mark line).dead = 0 ∧ s.entriesOf line = [] ∧ s.reqs = [] ∧ s.txns = []
    ∧ s.trackerFree (homeOf line) p = true

end Sys2Proof.Machine
end

