-- ==== Sys2Proof/WellFormed.lean ====
section
/-! DEFINITION. Which commands the manual can form: the ranges of the fields that a command's type does not bound. The
machine gives every command a meaning, well-formed or not. -/

namespace Sys2Proof

/-- An access of R400: 8 bytes, or 4 bytes of a half. -/
def accWf (a : RegAcc) : Bool := (a.size = 8 && a.half = 0) || (a.size = 4 && a.half < 2)

/-- The fields of R190: agents 0 to 11, polder, STATE, set, way and TAG, line, and bytes within the line. -/
def cohWf (m : CohMsg) : Bool :=
  m.src < 12 && m.dst < 12 && m.req < 12 && m.pol < 64 && m.st < 8 && m.way < 16 && m.set < 2 ^ 13 && m.tag < 2 ^ 18
    && m.line < 2 ^ 38 && m.data.all fun e => e.1 < 1024

/-- The header of R260 with its data: whole chunks of 32 bytes, at most 32. -/
def txnWf (t : Txn) : Bool :=
  1 ≤ t.op && t.op ≤ 4 && t.chunks ≤ 32 && t.srcPol < 64 && t.dstPol < 64 && t.tally < 4096 && t.data.length ≤ 1024
    && t.data.length % 32 = 0

/-- A matrix has a format of R33 and holds its elements. -/
def matrixWf (m : Matrix) : Bool := 1 ≤ m.fmt && m.fmt ≤ 9 && m.elems.length = m.rows * m.cols

/-- A GEMM's operands agree in K, and its output is BF16 or FP32 (R83, R84). -/
def gemmWf (g : Gemm) : Bool :=
  g.pol < 64 && matrixWf g.a && matrixWf g.b && (g.out = 6 || g.out = 7)
    && g.a.cols = (if g.nk then g.b.cols else g.b.rows)

def attentionWf (g : Attention) : Bool :=
  g.pol < 64 && g.record.length = 32 && g.heads.all fun x => matrixWf x.q && matrixWf x.k && matrixWf x.v

def verifyWf (v : VerifyOp) : Bool := v.pol < 64 && v.record.length = 64 && matrixWf v.hidden && matrixWf v.head

/-- Whole blocks of 32 elements (R105). -/
def sieve8Wf (r : Sieve8) : Bool := r.pol < 64 && r.record.length = 32 && r.g.length % 32 = 0

/-- A command whose fields are in their ranges. -/
def Instr.wf : Instr → Bool
  | .almCtlWrite a => accWf a
  | .almLock a => accWf a
  | .almStep a => accWf a
  | .almNowRead _ size half => ((size = 8 && half = 0) || (size = 4 && half < 2))
  | .mringBaseWrite _ a => accWf a
  | .mringEnable _ a => accWf a
  | .mringDisable _ a => accWf a
  | .fbCfgWrite _ a => accWf a
  | .rcFieldRead _ off size => decide (off < 2 ^ 26 ∧ (size = 4 ∨ size = 8))
  | .registerWrite _ off size _ => decide (off < 2 ^ 26 ∧ (size = 4 ∨ size = 8))
  | .gemmOutputStationary _ _ g => gemmWf g
  | .gemmWeightStationary _ _ g => gemmWf g
  | .batchedGemv _ _ g => gemmWf g
  | .fusedAttentionPass _ g => attentionWf g
  | .verifyGreedy _ v => verifyWf v
  | .verifySample _ v => verifyWf v
  | .sieve8Encode _ r => sieve8Wf r
  | .kernelStart _ _ kernel => decide (kernel < 256)
  | .kernelEnd _ _ kernel => decide (kernel < 256)
  | .iop _ i => decide (i.minor < 64)
  | .iopi _ i => decide (i.minor < 64)
  | .icmp _ i => decide (i.minor < 64)
  | .fop _ i => decide (i.minor < 64)
  | .fcmp _ i => decide (i.minor < 64)
  | .fspec _ i => decide (i.minor < 64)
  | .cvt _ i => decide (i.minor < 64)
  | .sel _ i => decide (i.minor < 64)
  | .xlane _ i => decide (i.minor < 64)
  | .xu _ i => decide (i.minor < 64)
  | .uop _ i => decide (i.minor < 64)
  | .bra _ i => decide (i.minor < 64)
  | .divIf _ i => decide (i.minor < 64)
  | .divElse _ i => decide (i.minor < 64)
  | .divEndif _ i => decide (i.minor < 64)
  | .divLoop _ i => decide (i.minor < 64)
  | .divBreak _ i => decide (i.minor < 64)
  | .divEndloop _ i => decide (i.minor < 64)
  | .ld _ i => decide (i.minor < 64)
  | .lds _ i => decide (i.minor < 64)
  | .st _ i => decide (i.minor < 64)
  | .stDead _ i => decide (i.minor < 64)
  | .ldl _ i => decide (i.minor < 64)
  | .stl _ i => decide (i.minor < 64)
  | .atom _ i => decide (i.minor < 64)
  | .atoml _ i => decide (i.minor < 64)
  | .barrierRelease _ _ kernel _ => decide (kernel < 256)
  | .bundleReplay bundle _ _ _ => decide (bundle < 2088)
  | .binRead _ _ line _ hint => decide (line < 2 ^ 38) && decide (hint < 4)
  | .hbmRead _ line => decide (line < 2 ^ 38)
  | .hbmWrite _ line => decide (line < 2 ^ 38)
  | .stackTempRead _ c => decide (c < 256)
  | .gets m => cohWf m
  | .getm m => cohWf m
  | .rdsec m => cohWf m
  | .pute m => cohWf m
  | .putm m => cohWf m
  | .puto m => cohWf m
  | .done m => cohWf m
  | .invAck m => cohWf m
  | .fwdAck m => cohWf m
  | .wbCross m => cohWf m
  | .recallAck m => cohWf m
  | .fwdGets m => cohWf m
  | .fwdGetm m => cohWf m
  | .inv m => cohWf m
  | .recall m => cohWf m
  | .grant m => cohWf m
  | .dataH m => cohWf m
  | .dataF m => cohWf m
  | .putAck m => cohWf m
  | .nackRd m => cohWf m
  | .holdExpiry _ line _ => decide (line < 2 ^ 38)
  | .landEdit a => accWf a
  | .landResume a => accWf a
  | .landAbort a => accWf a
  | .landHwinLock a => accWf a
  | .msixUnmask _ _ vector => decide (vector < 4)
  | .msixEntryWrite _ _ off size _ => decide (off < 0x8000 ∧ (size = 4 ∨ size = 8))
  | .polOpen _ a => accWf a
  | .polClose _ a => accWf a
  | .polBump _ a => accWf a
  | .polFreeze _ a => accWf a
  | .polThaw _ a => accWf a
  | .polSave _ a => accWf a
  | .polRestore _ a => accWf a
  | .polCmdRefused _ a => accWf a
  | .oeShutdown _ a => accWf a
  | .oeShutdownClear _ a => accWf a
  | .retrain _ a => accWf a
  | .zlPortOff _ a => accWf a
  | .zlPortOn _ a => accWf a
  | .zlPortLock _ a => accWf a
  | .flitReceive _ flit _ _ => decide (flit.length = 256)
  | .zlWrite _ t => txnWf t
  | .zlRead _ t => txnWf t
  | .readData _ t => txnWf t
  | .zlBarrier _ t => txnWf t
  | .zlCommonsLock a => accWf a
  | .daybookEnable _ _ a => accWf a
  | .daybookDisable _ _ a => accWf a
  | .daybookConsWrite _ _ a => accWf a
  | .bundleDead bundle => decide (bundle < 2088)
  | .memoryUe level _ line _ => decide (level < 4) && decide (line < 2 ^ 38)
  | .millReset _ a _ _ => accWf a
  | .powerSample _ _ mills => decide (mills.length = 8)
  | .capLimitWrite a => accWf a
  | .pwrCapLock a => accWf a
  | .dieTempRead _ c => decide (c < 256)
  | .oeTempRead _ c => decide (c < 256)
  | .pcieLinkUp _ rate _ _ => decide (1 ≤ rate ∧ rate ≤ 6)
  | .powerGoodRise _ _ | .powerGoodFall _ | .moduleInsertion | .stage1 | .stage2 _ | .imageLoadGo _ _ | .stage3
  | .stage4 | .consent _ | .referenceUpdate _ | .referenceMissing | .almStepApply | .ppsOutRise | .ppsOutFall
  | .ptmRequest _ | .tideBoundary | .pickup _ | .manifestStart _ | .streamTileComplete _ _ _ _ | .freeboardLow _ _
  | .deadlineMiss _ _ | .manifestComplete _ _ | .porterTileIssue _ _ _ | .porterTileStaged _ _ _
  | .storeTileEmit _ _ _ _ _ | .creditReturn _ _ _ | .millModeChange _ _ _ | .weirLevelChange _ | .ladderRung _ _
  | .scaleOp _ _ _ _ _ | .sieveOp _ _ _ _ _ | .cooperReduction _ _ _ _ _ _ _ | .caskDecode _ _ _ _ _
  | .caskEncode _ _ _ _ _ _ | .taskStart _ | .illegalInstruction _ _ | .handMissFill _ _ | .fenceRel _ _
  | .fenceAcq _ _ | .fenceAcqrel _ _ | .tallyWait _ _ | .tallySatisfied _ | .tallyRead _ _ | .take _ _
  | .tileDone _ _ | .alloc _ _ | .put _ _ | .hmma _ _ | .barCrew _ _ | .barSet _ _ | .strandedBarrier _ | .sysEnd _ _
  | .sysExit _ _ | .sysTrap _ _ | .rdcyc _ _ | .rdalm _ _ | .nop _ _ | .stintOccurrence _ _ _ _ | .quayWrite _ _
  | .quayRead _ | .binWrite _ | .granaryEviction _ _ _ | .homeNoncachingRead _ | .homeNoncachingWrite _
  | .addToLine _ _ _ _ _ _ | .prefetch _ _ _ | .flush _ _ _ | .cleanInvalidate _ _ _ | .discard _ _ _
  | .trackerFreed _ | .hbmRefresh _ _ | .refreshRateFallback _ | .stackCeilingRelease _ | .landWalk _
  | .walkerFreed _ | .translationMiss _ | .missEntryFreed | .landEditComplete _ | .hostWindowRead _ _ _ _ _
  | .hostWindowWrite _ _ _ _ _ | .hostCompletion _ _ _ _ _ | .hostTimeout _ _ | .portReset _ _ | .pfFlr _
  | .vfFlr _ _ | .resetComplete _ | .refclkLoss _ | .configRequest _ _ _ _ _ _ | .d3hotEntry _ _ | .d0Return _ _
  | .hostBar2Read _ _ _ | .hostBar2Write _ _ _ _ | .barResize _ _ _ | .vfEnable _ _ | .vfDisable _
  | .doeDiscovery _ _ | .attestReport _ _ | .attestCertificate _ | .featureOffer _ | .featureAccept _ _
  | .doeCharter _ | .doeAbort _ | .freezeEffect _ | .freezeComplete _ | .thawEffect _ | .laserLost _
  | .lightRestored _ | .linkTraining _ | .linkUp _ _ | .linkDown _ | .portLimit _ | .nakRepeat _ | .flitRelease _
  | .almSyncSend _ | .almSync _ _ _ | .almReq _ _ _ | .almResp _ _ _ | .almExchangeMissing _ | .powerReport _ _ _
  | .powerOffer _ _ _ | .powerTake _ _ _ | .notice _ _ _ | .powerEpoch | .collectiveTimeout _ _ _ | .eventEdge
  | .daybookRecordWrite _ | .sluiceRelease _ _ _ | .daybookOverflow _ _ | .polderFenced _ _ | .millClockLoss _
  | .forwardingPathLoss _ _ | .uncorrectableError _ | .dieReturned _ | .wharfFailure | .inputRange _
  | .inputPowerLoss _ | .thermalCeilingStep _ | .stepDown _ | .stepUp _ | .voltageSettled _ | .phaseStart _ _ _
  | .droop _ _ | .droopResume _ _ | .thermtripRelease | .clearFaults | .statusWord | .statusInput
  | .statusTemperature | .statusCml | .statusMfrSpecific | .readVin | .readIin | .readPin | .readTemperature1
  | .pmbusRevision | .mfrId | .mfrModel | .unsupportedCommand _ | .alertResponse | .enrol _ | .revoke _ | .fwWrite _
  | .fwCommit _ | .linkSlot _ | .perstRelease _ | .l0pWidthChange _ _ => true

end Sys2Proof
end

