-- ==== Sys2Proof/Certificates/Slice0/Obligations.lean ====
section
/-! DEFINITION. The statements about the model, for the provers: what each command does, by the numbered rules of the manual,
and what every step keeps. -/

open Sys2Proof Sys2Proof.Machine Sys2Proof.Fpu

/-! ## The machine -/

/-- A step with commands waiting is exec of the front command on the state with the queue's rest. -/
def Obligations.StepRunsTheFrontCommand : Prop :=
  ∀ (s : State) (c : Instr) (r : List Instr), s.pending = c :: r → step s = exec c { s with pending := r }

/-- From R57: with no command waiting one ACLK cycle of 4 ns passes; the Almanac, with nothing to slew, no learned rate and no
tide boundary, step or whole second reached, counts 4, and nothing else changes where no SAVE and no RESTORE is in progress.
The model's own choices here are those of log entries 2 and 64. -/
def Obligations.EmptyQueueIsOneAclkCycle : Prop :=
  (∀ s : State, s.pending = [] → s.counts = true → s.alm.slewLeft = 0 → s.alm.rate = 0 → s.tidesRun = false →
      s.alm.now + 4 < 2 ^ 64 → s.alm.step = none → s.alm.pps = false → s.alm.now % 1000000000 < 1000000000 - 4 →
      (∀ p, p < 64 → (s.pol p).busy = false) → step s = .next { s with clock := s.clock + 4, alm := { s.alm with now := s.alm.now + 4 } }) ∧
  (∀ s : State, s.pending = [] → s.counts = false → s.alm.pps = false → (∀ p, p < 64 → (s.pol p).busy = false) →
      step s = .next { s with clock := s.clock + 4 })

/-- What the model's reset is: nothing waits, memory lists nothing, no stage is reached, no image is loaded, every polder is
UNBOUND with generation 0 and its ring disabled, every Hand is free, every link port is DARK, and the registers named read as
the manual's tables give. The model's own choices here are those of log entries 1, 5, 6 and 8. -/
def Obligations.ResetIsTheUnpoweredModule : Prop :=
  State.reset.memCanonical ∧ State.reset.pending = [] ∧ State.reset.mem = [] ∧ State.reset.boot.stage0 = false
    ∧ State.reset.boot.stage = 0 ∧ State.reset.boot.powered = false ∧ State.reset.img = none ∧ State.reset.alm.now = 0
    ∧ State.reset.alm.state = 0 ∧ State.reset.tide.boundary = none ∧ State.reset.pwr.inForce = 600 ∧ State.reset.commons.thresh = 0x0100
    ∧ (∀ p, (State.reset.pol p).state = 0 ∧ (State.reset.pol p).gen = 0 ∧ (State.reset.pol p).enable = false
        ∧ (State.reset.pol p).warn = 4)
    ∧ (∀ h, (State.reset.hand h).busy = false) ∧ (∀ n, (State.reset.link n).state = 0)
    ∧ (∀ k, (State.reset.book k 0).limit = 0x0A) ∧ ∀ a, State.reset.peekByte a = 0

/-- Every step keeps memory in its canonical form: addresses strictly rising, and no byte listed that an unlisted address
reads as. The model's own choices here are those of log entry 1. -/
def Obligations.EveryStepKeepsMemoryCanonical : Prop :=
  ∀ s t : State, s.memCanonical → step s = .next t → t.memCanonical

/-- No command, and no idle cycle, changes what is fused or soldered. The model's own choices here are those of log entry 6.
-/
def Obligations.EveryStepKeepsTheFuses : Prop :=
  ∀ s t : State, step s = .next t → s.sameFuses t

/-- From R295, R297: every polder's generation is a number from 0 to 255 and its state one of the five of R295; every step
keeps that. -/
def Obligations.EveryStepKeepsPoldersLegal : Prop :=
  ∀ s t : State, (∀ p, (s.pol p).gen < 256 ∧ (s.pol p).state ≤ 4) → step s = .next t →
    ∀ p, (t.pol p).gen < 256 ∧ (t.pol p).state ≤ 4

/-- Every command completes in every state, since a command whose condition does not hold leaves the state as it is (log entry
3), and acts on everything but the queue: no meaning takes from it or adds to it. -/
def Obligations.CommandsLeaveTheQueueAlone : Prop :=
  ∀ (c : Instr) (s : State), completes c s fun t => t.pending = s.pending

/-! ## Start-up and images (chapters 15 and 18) -/

/-- From R318, R320, R382, R388: power-good, insertion and the first stages. The model's own choices here are those of log
entries 3, 5 and 58. -/
def Obligations.StartupCommandsComplete : Prop :=
  (∀ (s : State) (straps : BitVec 10) (low : Nat), s.boot.pwrGood = false → s.boot.inserted = true →
      s.boot.powered = false → 10000000 ≤ low → 440 ≤ s.pwr.volts → s.pwr.volts ≤ 560 →
      completes (.powerGoodRise straps low) s fun t =>
        t.boot.stage0 = true ∧ t.boot.stage = 0 ∧ t.boot.powered = true ∧ t.boot.pwrGood = true
          ∧ t.boot.moduleId = straps.toNat ∧ t.boot.package = s.packageSet ∧ t.alm = {} ∧ t.mem = s.mem ∧ t.nv.fwPending = false
          ∧ t.nv.fwSlot = (if s.nv.fwPending then 1 - s.nv.fwSlot else s.nv.fwSlot)) ∧
  (∀ (s : State) (low : Nat), s.boot.pwrGood = true → 10000 ≤ low →
      completes (.powerGoodFall low) s fun t =>
        t.boot.powered = false ∧ t.boot.stage0 = false ∧ t.boot.pwrGood = false ∧ t.mem = [] ∧ t.img = none
          ∧ t.pols = [] ∧ t.hands = [] ∧ s.sameFuses t) ∧
  (∀ (s : State) (low : Nat), low < 10000 → exec (.powerGoodFall low) s = .next s) ∧
  (∀ s : State, s.boot.inserted = false → s.boot.pwrGood = false →
      exec .moduleInsertion s = .next { s with boot := { s.boot with inserted := true } }) ∧
  (∀ s : State, s.boot.inserted = false → s.boot.pwrGood = true →
      completes .moduleInsertion s fun t =>
        t.boot.inserted = true ∧ t.boot.powered = false ∧ t.boot.pwrGood = true ∧ t.mem = [] ∧ t.img = none) ∧
  (∀ s : State, s.boot.stage0 = true → s.boot.stage = 0 → s.boot.failed = false →
      completes .stage1 s fun t =>
        if s.firmwareOk s.nv.fwSlot then
          t.boot.stage = 1 ∧ t.nv.fwSlot = s.nv.fwSlot ∧ t.boot.failed = false ∧
            ∀ m, m < 8 → (t.engine m).laserEn = !(s.engine m).shutdown
        else if s.firmwareOk (1 - s.nv.fwSlot) then
          t.boot.stage = 1 ∧ t.nv.fwSlot = 1 - s.nv.fwSlot ∧ t.boot.fail = 1
        else t.boot.stage = 0 ∧ t.boot.failed = true ∧ t.boot.fail = 2) ∧
  (∀ (s : State) (f : Stage2Find), s.boot.stage = 1 → s.boot.failed = false → s.boot.wharfFailed = false →
      completes (.stage2 f) s fun t =>
        t.boot.paths = f.paths ∧ t.boot.granaryOk = f.granaryOk ∧ (f.granaryOk = false → t.boot.failed = true)
          ∧ (t.boot.stage = 2 ∧ t.boot.failed = false ∧ t.boot.holdBase.isSome = true ∨ t.boot.stage = 1 ∧ t.boot.failed = true)) ∧
  (∀ (s : State), s.boot.stage = 1 → s.boot.failed = false → s.boot.wharfFailed = false → s.nv.fusedPcs = [] →
      (∀ k, k < 4 → (s.keel k).fenced = false) →
      completes (.stage2 {}) s fun t =>
        t.boot.stage = 2 ∧ t.boot.failed = false ∧ t.boot.holdBase = some 0 ∧ t.boot.paths = 0xFFFF
          ∧ (∀ b, b < 2088 → (t.bundle b).state = 1) ∧ ∀ i, i < 24 → (t.stack i).out = 0 ∧ (t.stack i).trained = true)

/-- From R322 to R325, R360: GO takes a load whose checks pass and refuses any other with REASON; CONSENT is noted; Stage 3
puts the image's charter in force and zeroes memory outside the image's half; Stage 4 follows; a failure of the Wharf die
stops all but the oscillator. The model's own choices here are those of log entries 11, 57 and 58. -/
def Obligations.ImageCommandsComplete : Prop :=
  (∀ (s : State) (port : Port), s.srcReaches (.pf port) = true → s.loadRefusal port = none →
      completes (.imageLoadGo port false) s fun t =>
        match s.checkImage port (s.stagedImage (s.loadBase port)) with
        | .ok g => t.boot.loading = some port ∧ t.boot.loadImage = some g ∧ (t.load port).busy = true ∧ t.boot.stage = 2
        | .error r => (t.load port).status = 2 ∧ (t.load port).reason = r.reason % 256 ∧ (t.load port).busy = false
            ∧ t.boot.stage = s.boot.stage ∧ t.img = s.img ∧ t.mem = s.mem) ∧
  (∀ (s : State) (port : Port), s.srcReaches (.pf port) = true →
      exec (.consent port) s = .next (s.updLoad port fun c => { c with consent := true })) ∧
  (∀ (s : State) (port : Port) (g : Image), s.boot.loading = some port → s.boot.loadImage = some g →
      s.boot.resetAfterLoad = none →
      completes .stage3 s fun t =>
        t.boot.stage = 3 ∧ t.img = some g ∧ t.boot.loading = none ∧ t.boot.imageHalf = s.boot.loadHalf
          ∧ (∀ p, p < 64 → (t.pol p).gen = 0 ∧ (t.pol p).tallies = [] ∧ (t.pol p).enable = false
              ∧ (t.pol p).state = (if 2 ≤ (g.charter.pols.getD p {}).port then 0 else if p < 2 then 2 else 1))
          ∧ (∀ a, memByte t.mem a = if s.boot.holdBase.getD 0 + s.boot.loadHalf * halfHold ≤ a
              ∧ a < s.boot.holdBase.getD 0 + s.boot.loadHalf * halfHold + halfHold then memByte s.mem a else 0)) ∧
  (∀ s : State, s.boot.stage = 3 →
      completes .stage4 s fun t => t.boot.stage = 4 ∧ t.pols = s.pols ∧ t.mem = s.mem ∧ t.img = s.img) ∧
  (∀ s : State, s.boot.stage0 = true →
      completes .wharfFailure s fun t =>
        t.boot.stage = 0 ∧ t.boot.failed = true ∧ t.boot.fail = 6 ∧ t.boot.wharfFailed = true ∧ t.alm.now = s.alm.now
          ∧ t.mem = [] ∧ t.boot.moduleId = s.boot.moduleId)

/-! ## The Almanac and the tides (chapters 2 and 3) -/

/-- From R61, R63, R288: an update within the accuracy brings an ACQUIRING Almanac on its third to LOCKED with ALMANAC_LOCKED;
three in a row outside it take a LOCKED Almanac to ACQUIRING; the third missing takes it to HOLDOVER with ALMANAC_HOLDOVER at
the rate it learned, and another missing one changes neither state nor rate. The model's own choices here are those of log
entries 3 and 30. -/
def Obligations.AlmanacDisciplineFollowsItsStates : Prop :=
  (∀ (s : State) (off : Int) (port : Nat), s.counts = true → 1 ≤ s.boot.stage → (s.alm.source = 2 ∧ port = 0 ∨ s.alm.source = 3 ∧ port = 1) →
      s.ptmOn port = true → s.alm.state = 1 → off.natAbs ≤ 40 →
      completes (.referenceUpdate off) s fun t =>
        t.alm.now = s.alm.now ∧ t.alm.offset = off
          ∧ (2 ≤ s.alm.within → t.alm.state = 2 ∧ ∃ a b, t.crier.band = s.crier.band ++ [a, b] ∧ a.code = .almanacLocked
              ∧ b.code = .almanacLocked ∧ a.book = 0 ∧ b.book = 1)
          ∧ (s.alm.within < 2 → t.alm.state = 1 ∧ t.alm.within = s.alm.within + 1 ∧ t.crier = s.crier)) ∧
  (∀ (s : State) (off : Int), s.counts = true → 1 ≤ s.boot.stage → s.alm.source = 2 → s.ptmOn 0 = true → s.alm.state = 2 →
      40 < off.natAbs →
      completes (.referenceUpdate off) s fun t =>
        t.crier = s.crier ∧ (s.alm.outside < 2 → t.alm.state = 2 ∧ t.alm.outside = s.alm.outside + 1)
          ∧ (2 ≤ s.alm.outside → t.alm.state = 1)) ∧
  (∀ (s : State) (off : Int), s.counts = true → 1 ≤ s.boot.stage → s.alm.source = 1 → s.alm.state = 2 →
      1000 < (off + s.alm.ppsDelay).natAbs → exec (.referenceUpdate off) s = .next s) ∧
  (∀ s : State, s.counts = true → 1 ≤ s.boot.stage → s.alm.source ≠ 0 → s.alm.state = 2 → 2 ≤ s.alm.missing →
      completes .referenceMissing s fun t =>
        t.alm.state = 3 ∧ t.alm.holdoverSeen = true ∧ t.alm.now = s.alm.now ∧ t.alm.rate = s.alm.rate ∧ t.alm.slew = 0
          ∧ ∃ a b, t.crier.band = s.crier.band ++ [a, b] ∧ a.code = .almanacHoldover ∧ b.code = .almanacHoldover) ∧
  (∀ s : State, s.counts = true → 1 ≤ s.boot.stage → s.alm.source ≠ 0 → (s.alm.state ≠ 2 ∨ s.alm.missing < 2) →
      completes .referenceMissing s fun t =>
        t.alm.state = s.alm.state ∧ t.alm.missing = s.alm.missing + 1 ∧ t.alm.now = s.alm.now
          ∧ t.alm.rate + t.alm.slew = s.alm.rate + s.alm.slew ∧ t = { s with alm := t.alm })

/-- From R63 to R65, R405: a write of ALM_CTL takes its fields and restarts the state where the source changes; once LOCK is
written nothing of it is written again; ALM_STEP keeps the step; a read of the low half latches the high word. The model's own
choices here are those of log entries 3 and 59. -/
def Obligations.AlmanacRegistersAreWritten : Prop :=
  (∀ (s : State) (a : RegAcc), s.almWrites a offAlmCtl = true → s.alm.lock = false → a.size = 8 → a.value.toNat % 8 < 4 →
      completes (.almCtlWrite a) s fun t =>
        t.alm.source = a.value.toNat % 8 ∧ t.alm.lock = a.value.toNat.testBit 63 ∧ t.alm.master = a.value.toNat.testBit 4
          ∧ t.alm.now = s.alm.now ∧ (t.alm.source ≠ s.alm.source → t.alm.state = if t.alm.source = 0 then 0 else 1)
          ∧ (t.alm.source = s.alm.source → t.alm.state = s.alm.state)) ∧
  (∀ (s : State) (a : RegAcc), s.almWrites a offAlmCtl = true → s.alm.lock = true → exec (.almCtlWrite a) s = .next s) ∧
  (∀ (s : State) (a : RegAcc), s.almWrites a offAlmCtl = true → s.alm.lock = false → a.size = 8 → a.bit 63 = true →
      completes (.almLock a) s fun t =>
        t.alm.lock = true ∧ (∀ b, exec (.almCtlWrite b) t = .next t) ∧ t.alm.now = s.alm.now ∧ t.crier = s.crier) ∧
  (∀ (s : State) (a : RegAcc), s.almWrites a offAlmStep = true → a.size = 8 →
      exec (.almStep a) s = .next { s with alm := { s.alm with step := some a.value.toInt } }) ∧
  (∀ (s : State) (port : Port), s.srcReaches (.dev port) = true → s.offLive (.dev port) offAlmNow = true →
      exec (.almNowRead (.dev port) 8 0) s
        = .next (s.updPort port fun q => { q with devReply := some (BitVec.ofNat 64 s.alm.now) })) ∧
  (∀ (s : State) (src : Src), s.srcReaches src = true → s.offLive src offAlmNow = true →
      completes (.almNowRead src 4 0) s fun t =>
        t.alm.nowHi.get 0 (32 * src.portOf + src.fnOf) = s.alm.now / 2 ^ 32 ∧ t.alm.now = s.alm.now ∧ t.mem = s.mem)

/-- From R59, R60, R64, R288: a tide begins at the first multiple of 4,096; a requested step is taken there when nothing is
pending or running, and refused otherwise; the PPS output rises within 2 ns of a second and falls 100 us later; a PF asks for
PTM every 1 ms. The model's own choices here are those of log entries 3 and 4. -/
def Obligations.TidesAndStepsComplete : Prop :=
  (∀ s : State, s.tidesRun = true → s.alm.step = none →
      completes .tideBoundary s fun t =>
        t.alm.now = s.nextBoundary % 2 ^ 64 ∧ t.tide.boundary = some (s.nextBoundary % 2 ^ 64) ∧ t.tide.tides = s.tide.tides + 1
          ∧ t.tide.open_ = true ∧ t.mem = s.mem ∧ t.crier = s.crier) ∧
  (∀ (s : State) (d : Int), s.counts = true → s.tidesRun = false → s.alm.step = some d → s.noManifests = true →
      ceilDiv s.alm.now 4096 * 4096 < 2 ^ 64 →
      0 ≤ (ceilDiv s.alm.now 4096 * 4096 : Int) + d → (ceilDiv s.alm.now 4096 * 4096 : Int) + d < 2 ^ 64 →
      completes .almStepApply s fun t =>
        (t.alm.now : Int) = (ceilDiv s.alm.now 4096 * 4096 : Int) + d ∧ t.alm.step = none ∧ t.tide.boundary = none
          ∧ t.alm.stepRefused = s.alm.stepRefused) ∧
  (∀ (s : State) (d : Int), s.counts = true → s.tidesRun = true → s.alm.step = some d → s.noManifests = false →
      completes .almStepApply s fun t =>
        t.alm.now = s.nextBoundary % 2 ^ 64 ∧ t.alm.step = none ∧ t.alm.stepRefused = true ∧ t.tide = s.tide) ∧
  (∀ s : State, s.counts = true → 1 ≤ s.boot.stage → s.alm.pps = false →
      (s.alm.now % 1000000000 ≤ 2 ∨ 999999998 ≤ s.alm.now % 1000000000) →
      exec .ppsOutRise s = .next { s with alm := { s.alm with pps := true, ppsAt := s.clock } }) ∧
  (∀ s : State, 2 < s.alm.now % 1000000000 → s.alm.now % 1000000000 < 999999998 → exec .ppsOutRise s = .next s) ∧
  (∀ s : State, s.alm.pps = true → s.alm.ppsAt + 100000 ≤ s.clock →
      exec .ppsOutFall s = .next { s with alm := { s.alm with pps := false } }) ∧
  (∀ s : State, s.clock < s.alm.ppsAt + 100000 → exec .ppsOutFall s = .next s) ∧
  (∀ (s : State) (port : Port), s.boot.stage0 = true → s.ptmOn port = true → s.passed (s.port port).ptmAt 1000000 = true →
      exec (.ptmRequest port) s = .next ((s.updPort port fun q => { q with ptmAt := s.clock }).toHost port .ptm))

/-- From R44, R45, R47, R49, R52, R356: a pickup, once in a tide and at its cycle, reads the ring: a full list, a slot that is
not ready, one of a fenced home or a poisoned one ends it, and a ready slot is taken and the next looked at, up to four; the
slot is rejected, stale, admitted to the pending list or refused. A start takes the first pending manifest at cycle 1,024 with
every stream's credits, and one that uses a fenced part ends at once. The model's own choices here are those of log entries 3,
4 and 28. -/
def Obligations.ManifestsArePickedUpAndStarted : Prop :=
  (∀ (s : State) (p : Pol) (tb cycle : Nat), s.tide.boundary = some tb → pickupCycle s.table p = some cycle → s.boot.stage = 4 →
      s.tide.open_ = true → s.alm.now - tb ≤ cycle → (s.pol p).picks = true → s.held srcSeq p = false →
      (s.pol p).pickedTide ≠ some tb →
      let v := (((s.advanceTo (tb + cycle)).updPol p fun q => { q with pickedTide := some tb, takenNow := 0 }).readmit p tb).retryRecords p
      let slot := dpaOffset (v.pol p).ringBase + 128 * ((v.pol p).consumer + 1)
      let raw := v.peek slot 128
      v.alm.now = (tb + cycle) % 2 ^ 64 ∧
      (16 ≤ (v.pol p).pending.length → exec (.pickup p) s = .next v) ∧
      ((v.pol p).pending.length < 16 → v.homeFenced (slot / 1024) = true →
        exec (.pickup p) s = .next (v.raiseOwn .fencedTarget srcSeq p (addrDetail slot 3))) ∧
      ((v.pol p).pending.length < 16 → v.homeFenced (slot / 1024) = false → v.peekPoison slot 128 = true →
        exec (.pickup p) s = .next (v.raiseOwn .poisonRead srcSeq p (addrDetail slot 3))) ∧
      ((v.pol p).pending.length < 16 → v.homeFenced (slot / 1024) = false → v.peekPoison slot 128 = false →
        ((leAt raw 0 8).testBit 63 ≠ (v.pol p).ringPhase → exec (.pickup p) s = .next v) ∧
        ((leAt raw 0 8).testBit 63 = (v.pol p).ringPhase →
          completes (.pickup p) s fun t =>
            t = ((v.handleSlot p tb raw).takeSlots p tb 3).writeHeader p tb
              ∧ 1 ≤ (((v.handleSlot p tb raw).takeSlots p tb 3).pol p).takenNow
              ∧ (((v.handleSlot p tb raw).takeSlots p tb 3).pol p).takenNow ≤ 4))) ∧
  (∀ (s : State) (p : Pol) (tb cycle : Nat), s.tide.boundary = some tb → pickupCycle s.table p = some cycle →
      (cycle < s.alm.now - tb ∨ (s.pol p).pickedTide = some tb ∨ (s.pol p).picks = false) → exec (.pickup p) s = .next s) ∧
  (∀ (s : State) (p : Pol) (tb : Nat) (raw : List Byte),
      let q := s.pol p
      let m := parseManifest raw q.seqNext q.consumer tb
      let u := s.handleSlot p tb raw
      let v := (s.updPol p Polder.consume).updPol p fun q => { q with prev := some (s.pol p).seqNext }
      (u.pol p).takenNow = q.takenNow + 1 ∧ (u.pol p).consumer = (q.consumer + 1) % q.slots ∧ (u.pol p).seqNext = q.seqNext + 1 ∧
      (field (leAt raw 0 8) 42 6 ≠ p → (u.pol p).rejects = satAdd 0xFFFF q.rejects 1 ∧ (u.pol p).pending = q.pending) ∧
      (field (leAt raw 0 8) 42 6 = p → m.gen ≠ q.gen →
        (u.pol p).stale = satAdd 0xFFFF q.stale 1 ∧ (u.pol p).rejects = q.rejects ∧ (u.pol p).pending = q.pending) ∧
      (field (leAt raw 0 8) 42 6 = p → m.gen = q.gen → (s.updPol p Polder.consume).slotOk p raw = false →
        (u.pol p).rejects = satAdd 0xFFFF q.rejects 1 ∧ (u.pol p).pending = q.pending) ∧
      (field (leAt raw 0 8) 42 6 = p → m.gen = q.gen → (s.updPol p Polder.consume).slotOk p raw = true →
        (∀ x, v.admission p { m with prev := q.prev } tb = .admitted x → (u.pol p).pending = q.pending ++ [x] ∧ u.mem = s.mem) ∧
        (∀ reason bound, v.admission p { m with prev := q.prev } tb = .refused reason bound →
          (u.pol p).pending = q.pending ∧ ∃ e l, u.crier.band = s.crier.band ++ e :: l ∧ e.code = .admissionRefused ∧ e.book = p.val))) ∧
  (∀ (s : State) (p : Pol) (tb : Nat) (m : Manifest) (r : List Manifest), s.tide.boundary = some tb →
      (s.pol p).pending = m :: r → s.boot.stage = 4 → s.tide.open_ = true → s.alm.now - tb ≤ 1024 →
      s.canStart p (tb + 1024) = true →
      completes (.manifestStart p) s fun t =>
        t.alm.now = (tb + 1024) % 2 ^ 64 ∧ (t.pol p).pending = r ∧ (t.pol p).isRunning m.seq = !(s.usesFenced m.schedule)
          ∧ (s.usesFenced m.schedule = false → ((t.pol p).run m.seq).m = m ∧ ((t.pol p).run m.seq).startedAt = tb + 1024
            ∧ (∀ c, s.schedule m.schedule = some c → ∀ j, j < c.streams.length → ∀ d, c.streams[j]? = some d →
                (((t.pol p).run m.seq).streams.get {} j).credits = d.runahead)
            ∧ t.mem = s.mem ∧ t.crier = s.crier ∧ ∀ q, q ≠ p.val → t.pol q = s.pol q)) ∧
  (∀ (s : State) (p : Pol) (tb : Nat), s.tide.boundary = some tb → s.canStart p (tb + 1024) = false →
      exec (.manifestStart p) s = .next s)

/-- From R50, R51, R70 to R73, R75: a tile of a running manifest completes, of a hard stream with the lag that it shows and
the events that are due, of a firm one of a hard manifest with FIRM_LATE after DEADLINE; a manifest whose parts have all ended
leaves the running list, with MANIFEST_DONE where it asked for it and the status of R50; FREEBOARD_LOW and DEADLINE_MISS are
raised once each, when the lag passes WARN sixteenths of F, and F. The model's own choices here are those of log entries 3, 25
and 28. -/
def Obligations.StreamsAndManifestsComplete : Prop :=
  (∀ (s : State) (p : Pol) (seq stream : Nat) (delays : Causes) (c : Schedule) (d : StreamDecl), (s.pol p).isRunning seq = true →
      ((s.pol p).run seq).suspended = false → s.schedule ((s.pol p).run seq).m.schedule = some c →
      c.streams[stream]? = some d → tileDone d (givesStream c stream) (((s.pol p).run seq).streams.get {} stream) = true →
      let r := (s.pol p).run seq
      let x := r.streams.get {} stream
      completes (.streamTileComplete p seq stream delays) s fun t =>
        let u := (t.pol p).run seq
        (u.streams.get {} stream).completed = x.completed + 1 ∧ (u.streams.get {} stream).ended = decide (x.completed + 1 = d.length)
          ∧ (∀ j, j ≠ stream → u.streams.get {} j = r.streams.get {} j) ∧ t.mem = s.mem ∧ (∀ q, q ≠ p.val → t.pol q = s.pol q)
          ∧ (r.m.hard = false → t.crier = s.crier ∧ u.lag = r.lag)
          ∧ (r.m.hard = true → d.hard = true →
            u.lag = max r.lag (s.alm.now - s.bookedAt r c d x.completed) ∧ (r.m.freeboard < u.lag → u.missRaised = true))
          ∧ (r.m.hard = true → d.hard = false → u.lag = r.lag ∧
            t.crier.band.map Event.code = s.crier.band.map Event.code
              ++ if x.completed + 1 = d.length ∧ r.m.deadline < s.alm.now then [Code.firmLate] else [])) ∧
  (∀ (s : State) (p : Pol) (seq : Nat) (c : Schedule), (s.pol p).isRunning seq = true →
      s.schedule ((s.pol p).run seq).m.schedule = some c →
      let r := ((s.updLag p seq).pol p).run seq
      let end_ := if r.lastEnd = 0 then s.alm.now else r.lastEnd
      ((s.updLag p seq).retryRecords p).runDone p seq r c = true →
      completes (.manifestComplete p seq) s fun t =>
        (t.pol p).isRunning seq = false ∧ (∀ h, ((t.hand h).runs p seq) = false)
          ∧ (r.m.notify = true → r.m.completion = 0 → ∃ e, t.crier.band.getLast? = some e ∧ e.code = .manifestDone ∧ e.book = p.val
            ∧ e.detail = leBytes 4 r.m.tag ++ [BitVec.ofNat 8 (finalStatus r end_), BitVec.ofNat 8 r.m.gen]
              ++ leBytes 2 (min (freeboardLeft r) 0xFFFF) ++ leBytes 8 end_)) ∧
  (∀ (s : State) (p : Pol) (seq : Nat), (s.pol p).isRunning seq = true → ((s.pol p).run seq).m.hard = true →
      let r := (s.pol p).run seq
      let lag := max r.lag (s.lagNow r)
      r.lowRaised = false → r.m.warn ≠ 0 → 16 * ((r.m.freeboard : Int) - lag) < r.m.warn * r.m.freeboard →
      completes (.freeboardLow p seq) s fun t =>
        ((t.pol p).run seq).lowRaised = true ∧ ((t.pol p).run seq).lag = lag ∧ ((t.pol p).run seq).missRaised = r.missRaised
          ∧ t.mem = s.mem ∧ (∀ q, q ≠ p.val → t.pol q = s.pol q)
          ∧ t.crier.band = s.crier.band ++ [⟨.freeboardLow, srcSeq, p, p, lagDetail ((t.pol p).run seq)⟩]) ∧
  (∀ (s : State) (p : Pol) (seq : Nat), (s.pol p).isRunning seq = true → ((s.pol p).run seq).m.hard = true →
      let r := (s.pol p).run seq
      let lag := max r.lag (s.lagNow r)
      (r.lowRaised = true ∨ r.m.warn = 0 ∨ r.m.warn * (r.m.freeboard : Int) ≤ 16 * ((r.m.freeboard : Int) - lag)) →
      completes (.freeboardLow p seq) s fun t => ((t.pol p).run seq).lag = lag ∧ t.crier = s.crier ∧ t.mem = s.mem) ∧
  (∀ (s : State) (p : Pol) (seq : Nat), (s.pol p).isRunning seq = true → ((s.pol p).run seq).m.hard = true →
      let r := (s.pol p).run seq
      let lag := max r.lag (s.lagNow r)
      r.missRaised = false → r.m.freeboard < lag →
      completes (.deadlineMiss p seq) s fun t =>
        let u := (t.pol p).run seq
        u.missRaised = true ∧ u.lag = lag ∧ t.mem = s.mem ∧ (∀ q, q ≠ p.val → t.pol q = s.pol q)
          ∧ t.crier.band = s.crier.band
            ++ (if r.lowRaised = false ∧ r.m.warn ≠ 0 then [⟨.freeboardLow, srcSeq, p, p, lagDetail u⟩] else [])
            ++ [⟨.deadlineMiss, srcSeq, p, p, lagDetail u⟩]) ∧
  (∀ (s : State) (p : Pol) (seq : Nat), (((s.updLag p seq).pol p).run seq).lag ≤ ((s.pol p).run seq).m.freeboard →
      exec (.deadlineMiss p seq) s = exec (.freeboardLow p seq) s) ∧
  (∀ (s : State) (p : Pol) (seq : Nat), (s.pol p).isRunning seq = false →
      exec (.freeboardLow p seq) s = .next s ∧ exec (.manifestComplete p seq) s = .next s)

/-- From R41, R77: the ring registers take what their polder's owner writes, by halves or whole: base and size while the ring
is disabled, ENABLE on local memory with a legal size and the features confirmed, its clear, and WARN and REQUIRE_LOCK. The
model's own choices here are those of log entry 3. -/
def Obligations.RingRegistersAreWritten : Prop :=
  (∀ (s : State) (p : Pol) (a : RegAcc), s.ownerWrites p a (offMringBase p) = true → (s.pol p).enable = false →
      completes (.mringBaseWrite p a) s fun t =>
        (t.pol p).ringBase % 4096 = 0 ∧ (t.pol p).ringSize < 16
          ∧ (a.size = 8 → (t.pol p).ringBase = 4096 * field a.value.toNat 12 46 ∧ (t.pol p).ringSize = field a.value.toNat 0 4)
          ∧ (a.size = 4 → a.half = 1 → (t.pol p).ringSize = (s.pol p).ringSize % 16)
          ∧ t.pol p = { s.pol p with ringBase := (t.pol p).ringBase, ringSize := (t.pol p).ringSize }
          ∧ t = { s with pols := t.pols } ∧ ∀ q, q ≠ p.val → t.pol q = s.pol q) ∧
  (∀ (s : State) (p : Pol) (a : RegAcc), s.ownerWrites p a (offMringBase p) = true → (s.pol p).enable = true →
      completes (.mringBaseWrite p a) s fun t => (∀ q, t.pol q = s.pol q) ∧ t = { s with pols := t.pols }) ∧
  (∀ (s : State) (p : Pol) (a : RegAcc), s.ownerWrites p a (offMringCtl p) = true → a.bit 0 = true → (s.pol p).enable = false →
      completes (.mringEnable p a) s fun t =>
        t = { s with pols := t.pols } ∧ (∀ q, q ≠ p.val → t.pol q = s.pol q) ∧
        if s.localMem (s.pol p).ringBase = true ∧ (s.pol p).ringSize ≤ 8 ∧ s.mayRun (s.pol p).port = true then
          t.pol p = { s.pol p with enable := true, stopping := false, consumer := 0, consumed := 0, ringPhase := true }
        else t.pol p = s.pol p) ∧
  (∀ (s : State) (p : Pol) (a : RegAcc), s.ownerWrites p a (offMringCtl p) = true → a.hits 0 = true → a.bit 0 = false →
      (s.pol p).enable = true →
      completes (.mringDisable p a) s fun t =>
        t = { s with pols := t.pols } ∧ (∀ q, q ≠ p.val → t.pol q = s.pol q)
          ∧ t.pol p = { s.pol p with enable := false, stopping := true }) ∧
  (∀ (s : State) (p : Pol) (a : RegAcc), s.ownerWrites p a (offFbCfg p) = true →
      completes (.fbCfgWrite p a) s fun t =>
        t = { s with pols := t.pols } ∧ (∀ q, q ≠ p.val → t.pol q = s.pol q)
          ∧ t.pol p = { s.pol p with warn := (t.pol p).warn, requireLock := (t.pol p).requireLock }
          ∧ (a.size = 8 ∨ a.half = 0 → (t.pol p).warn = field a.value.toNat 4 4 ∧ (t.pol p).requireLock = a.value.toNat.testBit 0)
          ∧ (a.size = 4 → a.half = 1 → (t.pol p).warn = (s.pol p).warn % 16 ∧ (t.pol p).requireLock = (s.pol p).requireLock))

/-- From R38, R52, R54, R108, R111: a load stream takes a credit and asks for every line of its next tile, raw or in the
groups of a Cask page, and one that waits for translation stalls; a tile whose last line has landed is staged; a store stream
takes a credit, or a tile that the Hands put or an operation gave, and writes it through its home; a credit returns. The
model's own choices here are those of log entries 24 and 66. -/
def Obligations.StreamCreditsMove : Prop :=
  (∀ (s u : State) (p : Pol) (seq stream : Nat) (d : StreamDecl) (c : StreamRun) (m : Manifest) (ls : List (Nat × Look)),
      s.streamOf p seq stream = some (d, c, m) → d.src = .porter → d.store = false → c.credits ≠ 0 → c.next < d.length →
      s.held (srcPorter d.die d.porter) p = false → (s.mill d.die).fenced = false → s.mayBegin p seq (.stream stream) = true →
      s.translateLines (porterRef d p seq stream) p 0 m.tag
        ((List.range (tileLines d)).map fun i => tileVa d (streamBase d m) c.next (1024 * i)) = (ls, u) →
      (anyWait ls = true → exec (.porterTileIssue p seq stream) s = .next u) ∧
      (anyWait ls = false →
        completes (.porterTileIssue p seq stream) s fun t =>
          let x := ((t.pol p).run seq).streams.get {} stream
          x.credits = c.credits - 1 ∧ x.next = c.next + 1 ∧ t.mem = s.mem ∧
          (s.caskRefused d (streamBase d m) = true → (x.tiles.get {} c.next).poison = List.range (8 * tileLines d)
            ∧ (x.tiles.get {} c.next).outstanding = 0 ∧ ∃ e, t.crier.band.getLast? = some e ∧ e.code = .permission ∧ e.book = p.val) ∧
          (s.caskRefused d (streamBase d m) = false → (∃ e ∈ ls, ∃ w dpa, e.2 = .ok w dpa ∧ eCoding w = 1) →
            (x.tiles.get {} c.next).cask = true ∧ (x.tiles.get {} c.next).outstanding = 9) ∧
          (s.caskRefused d (streamBase d m) = false →
            (∀ e ∈ ls, ∃ w dpa, e.2 = .ok w dpa ∧ eCoding w ≠ 1 ∧ dpaModule dpa = u.boot.moduleId
              ∧ (u.region (dpaOffset dpa)).isMem = true) →
            (x.tiles.get {} c.next).outstanding = ls.length ∧ t.reqs.length = u.reqs.length + ls.length))) ∧
  (∀ (s : State) (p : Pol) (seq stream n : Nat) (d : StreamDecl) (c : StreamRun) (m : Manifest) (b : TileBuf),
      s.streamOf p seq stream = some (d, c, m) → d.src = .porter → d.store = false →
      (c.tiles.find? fun e => !e.2.staged) = some (n, b) →
      completes (.porterTileStaged p seq stream) s fun t =>
        let x := ((t.pol p).run seq).streams.get {} stream
        if b.outstanding = 0 then
          (x.tiles.get {} n).staged = true ∧ (∀ j, j ≠ n → x.tiles.get {} j = c.tiles.get {} j) ∧ x.credits = c.credits
            ∧ t = { s with pols := t.pols }
            ∧ ∀ e ∈ (x.tiles.get {} n).bytes, tileValid d n ≠ (256, 256) → e.1 < Fpu.payload d.fmt →
                e.2 &&& ~~~(BitVec.ofNat 8 (validBits d n e.1)) = 0
        else t = s) ∧
  (∀ (s u : State) (p : Pol) (seq stream : Nat) (d : StreamDecl) (c : StreamRun) (m : Manifest) (ls : List (Nat × Look))
      (payload : List Byte) (poison : Bool), s.streamOf p seq stream = some (d, c, m) → d.dst = .porter → c.next < d.length →
      (d.src = .hands → c.put.contains c.next = true) →
      (d.src ≠ .hands → c.credits ≠ 0 ∧ (s.isGiven p seq stream = true → c.given ≠ [])) →
      (d.src ≠ .hands → s.isGiven p seq stream = false → payload.length = Fpu.footprint d.fmt) →
      s.held (srcPorter d.die d.porter) p = false → (s.mill d.die).fenced = false → s.mayBegin p seq (.stream stream) = true →
      s.translateLines (porterRef d p seq stream) p 1 m.tag
        ((List.range (tileLines d)).map fun i => tileVa d (streamBase d m) c.next (1024 * i)) = (ls, u) →
      (anyWait ls = true → exec (.storeTileEmit p seq stream payload poison) s = .next u) ∧
      (anyWait ls = false →
        completes (.storeTileEmit p seq stream payload poison) s fun t =>
          let x := ((t.pol p).run seq).streams.get {} stream
          x.credits = (if d.src = .hands then c.credits else c.credits - 1) ∧ x.next = c.next + 1
            ∧ x.given = (if d.src ≠ .hands ∧ s.isGiven p seq stream = true then c.given.drop 1 else c.given) ∧ t.mem = s.mem)) ∧
  (∀ (s : State) (p : Pol) (seq stream : Nat) (d : StreamDecl) (c : StreamRun) (m : Manifest),
      s.streamOf p seq stream = some (d, c, m) →
      (c.returning ≠ 0 → completes (.creditReturn p seq stream) s fun t =>
        let x := ((t.pol p).run seq).streams.get {} stream
        x = { c with credits := c.credits + 1, returning := c.returning - 1 } ∧ t = { s with pols := t.pols }) ∧
      (c.returning = 0 → d.src = .porter → d.store = false → d.dst ≠ .hands → ∀ n b, (c.tiles.find? fun e => e.2.staged) = some (n, b) →
        completes (.creditReturn p seq stream) s fun t =>
          let x := ((t.pol p).run seq).streams.get {} stream
          x.credits = c.credits + 1 ∧ x.tiles.get {} n = {} ∧ x.next = c.next
            ∧ x.given = (if s.isTaken p seq stream = true then c.given ++ [b] else c.given) ∧ t = { s with pols := t.pols }) ∧
      (c.returning = 0 → d.src = .hands → d.dst ≠ .porter → c.put.contains c.next = true →
        completes (.creditReturn p seq stream) s fun t =>
          let x := ((t.pol p).run seq).streams.get {} stream
          x.credits = c.credits + 1 ∧ x.next = c.next + 1 ∧ x.tiles.get {} c.next = {}
            ∧ x.given = (if s.isTaken p seq stream = true then c.given ++ [c.tiles.get {} c.next] else c.given)
            ∧ t = { s with pols := t.pols }))

/-! ## The Hands (chapter 6) -/

/-- From R126: IOP, IOPI, FOP, FSPEC and CVT write XD of each selected lane with the operation's value, poisoned where a
source is, and change nothing else; the integer operations are spelled out. The model's own choices here are those of log
entries 12, 13, 19, 43 and 44. -/
def Obligations.LaneOperationsWriteXd : Prop :=
  (∀ (s : State) (h : HandId) (i : FmtL), s.issues h = true → i.minor < 17 →
      s.freeRegs h (i.xd.val :: iopSrcs i.minor i.xa.val i.xb.val) →
      completes (.iop h i) s (laneResult h i.fsel.val i.finv i.xd.val (iopSrcs i.minor i.xa.val i.xb.val)
        (fun c l => iopFn i.minor (c.rx i.xa.val l) (c.rx i.xb.val l)) s)) ∧
  (∀ (s : State) (h : HandId) (i : FmtI), s.issues h = true → i.minor < 17 → s.freeRegs h [i.xd.val, i.xa.val] →
      completes (.iopi h i) s (laneResult h i.fsel.val i.finv i.xd.val [i.xa.val]
        (fun c l => iopFn i.minor (c.rx i.xa.val l) i.imm) s)) ∧
  (∀ (s : State) (h : HandId) (i : FmtL), s.issues h = true → i.minor < 8 →
      s.freeRegs h (i.xd.val :: fopSrcs i.minor i.xa.val i.xb.val i.xc.val) →
      completes (.fop h i) s (laneResult h i.fsel.val i.finv i.xd.val (fopSrcs i.minor i.xa.val i.xb.val i.xc.val)
        (fun c l => fopFn i.minor (c.rx i.xa.val l) (c.rx i.xb.val l) (c.rx i.xc.val l)) s)) ∧
  (∀ (s : State) (h : HandId) (i : FmtL), s.issues h = true → i.minor < 6 → s.freeRegs h [i.xd.val, i.xa.val] →
      completes (.fspec h i) s (laneResult h i.fsel.val i.finv i.xd.val [i.xa.val]
        (fun c l => fspecFn i.minor (c.rx i.xa.val l)) s)) ∧
  (∀ (s : State) (h : HandId) (i : FmtL), s.issues h = true → i.minor < 9 →
      s.freeRegs h (i.xd.val :: cvtSrcs i.minor i.xa.val i.xb.val) →
      completes (.cvt h i) s (laneResult h i.fsel.val i.finv i.xd.val (cvtSrcs i.minor i.xa.val i.xb.val)
        (fun c l => cvtFn i.minor (c.rx i.xa.val l) (c.rx i.xb.val l)) s)) ∧
  (∀ a b : Lane,
      iopFn 0 a b = a + b ∧ iopFn 1 a b = a - b ∧ iopFn 5 a b = a <<< (b.toNat % 32) ∧ iopFn 6 a b = a >>> (b.toNat % 32)
        ∧ iopFn 7 a b = a.sshiftRight (b.toNat % 32) ∧ iopFn 12 a b = a * b
        ∧ (iopFn 8 a b).toInt = min a.toInt b.toInt ∧ (iopFn 9 a b).toInt = max a.toInt b.toInt
        ∧ (iopFn 10 a b).toNat = min a.toNat b.toNat ∧ (iopFn 11 a b).toNat = max a.toNat b.toNat
        ∧ (iopFn 14 a b).toNat = a.toNat * b.toNat / 2 ^ 32)

/-- From R126, R127: ICMP and FCMP write the selected lanes' bits of a flag; SEL, XLANE and the forms of XU that write lanes
write XD; the others write a crew register. The model's own choices here are those of log entries 43 and 44. -/
def Obligations.ComparesVotesAndLanesComplete : Prop :=
  (∀ (s : State) (h : HandId) (i : FmtL), s.issues h = true → i.minor < 6 → s.freeRegs h [i.xa.val, i.xb.val] →
      let c := s.hand h
      let ls := c.select i.fsel.val i.finv
      completes (.icmp h i) s (flagResult h i.fsel.val i.finv (i.xd.val % 8)
        (fun l => icmpFn i.minor (c.rx i.xa.val l) (c.rx i.xb.val l))
        (c.pf i.fsel.val || (ls.any fun l => c.px i.xa.val l || c.px i.xb.val l) || (c.pf (i.xd.val % 8) && ls.length ≠ 16)) s)) ∧
  (∀ (s : State) (h : HandId) (i : FmtL), s.issues h = true → i.minor < 5 → s.freeRegs h [i.xa.val, i.xb.val] →
      let c := s.hand h
      let ls := c.select i.fsel.val i.finv
      completes (.fcmp h i) s (flagResult h i.fsel.val i.finv (i.xd.val % 8)
        (fun l => fcmpFn i.minor (c.rx i.xa.val l) (c.rx i.xb.val l))
        (c.pf i.fsel.val || (ls.any fun l => c.px i.xa.val l || c.px i.xb.val l) || (c.pf (i.xd.val % 8) && ls.length ≠ 16)) s)) ∧
  (∀ (s : State) (h : HandId) (i : FmtL), s.issues h = true → i.minor = 0 → s.freeRegs h [i.xd.val, i.xa.val, i.xb.val] →
      let c := s.hand h
      completes (.sel h i) s (laneWrote h i.fsel.val i.finv i.xd.val (fun l =>
        (if (c.rf (i.xc.val % 8)).getLsbD l then c.rx i.xa.val l else c.rx i.xb.val l,
          c.px i.xa.val l || c.px i.xb.val l || c.pf (i.xc.val % 8))) s)) ∧
  (∀ (s : State) (h : HandId) (i : FmtL), s.issues h = true → i.minor < 11 → s.freeRegs h [i.xd.val, i.xa.val, i.xb.val] →
      completes (.xlane h i) s (laneWrote h i.fsel.val i.finv i.xd.val
        ((s.hand h).xlaneVal i.minor i.xa.val i.xb.val ((s.hand h).select i.fsel.val i.finv)) s)) ∧
  (∀ (s : State) (h : HandId) (i : FmtL), s.issues h = true → (i.minor = 2 ∨ i.minor = 3) → s.freeRegs h [i.xd.val] →
      let c := s.hand h
      completes (.xu h i) s (laneWrote h i.fsel.val i.finv i.xd.val (fun _ =>
        ((c.rw (i.xa.val % 32) >>> (if i.minor = 2 then 0 else 32)).setWidth 32, c.pw (i.xa.val % 32))) s)) ∧
  (∀ (s : State) (h : HandId) (i : FmtL), s.issues h = true → i.minor = 0 → s.freeRegs h [i.xa.val] →
      (∀ l ls, (s.hand h).select i.fsel.val i.finv = l :: ls →
        completes (.xu h i) s (crewResult h (i.xd.val % 32) (((s.hand h).rx i.xa.val l).setWidth 64)
          ((s.hand h).px i.xa.val l || (s.hand h).pf i.fsel.val) s)) ∧
      ((s.hand h).select i.fsel.val i.finv = [] →
        completes (.xu h i) s (s.onlyHand h { s.hand h with pc := (s.hand h).pc + 1 }))) ∧
  (∀ (s : State) (h : HandId) (i : FmtL), s.issues h = true → i.minor = 1 →
      completes (.xu h i) s fun t =>
        crewResult h (i.xd.val % 32) (if i.xd.val % 32 = 0 then 0 else (t.hand h).rw (i.xd.val % 32))
          ((s.hand h).pf (i.xa.val % 8) || (s.hand h).pf i.fsel.val) s t ∧
        (i.xd.val % 32 ≠ 0 → ∀ l, l < 64 → ((t.hand h).rw (i.xd.val % 32)).getLsbD l
          = (decide (l ∈ (s.hand h).select i.fsel.val i.finv) && ((s.hand h).rf (i.xa.val % 8)).getLsbD l)))

/-- From R126, R130: UOP writes WD with the 64-bit result, a shift of 64 or more a free value; BRA goes to its target or to
the next instruction, and changes nothing else. The model's own choices here are those of log entries 43 and 45. -/
def Obligations.CrewIntegerAndBranchComplete : Prop :=
  (∀ (s : State) (h : HandId) (i : FmtU), s.issues h = true → i.minor < 14 →
      let c := s.hand h
      let open_ := (i.minor = 5 ∨ i.minor = 6) ∧ 64 ≤ (c.rw i.wb.val).toNat
      completes (.uop h i) s fun t =>
        crewResult h i.wd.val
          (uopFn i.minor (c.rw i.wd.val) (c.rw i.wa.val) (c.rw i.wb.val) (i.imm.signExtend 64) (Config.freeBits 64 s.seed))
          ((uopSrcs i.minor i.wd.val i.wa.val i.wb.val).any c.pw) { s with seed := t.seed } t
          ∧ t.seed = if open_ then s.seed + 1 else s.seed) ∧
  (∀ a b old imm free : Word,
      uopFn 0 old a b imm free = a + b ∧ uopFn 1 old a b imm free = a - b ∧ uopFn 7 old a b imm free = a * b
        ∧ (b.toNat < 64 → uopFn 5 old a b imm free = a <<< b.toNat ∧ uopFn 6 old a b imm free = a >>> b.toNat)
        ∧ (64 ≤ b.toNat → uopFn 5 old a b imm free = free ∧ uopFn 6 old a b imm free = free)
        ∧ (uopFn 9 old a b imm free).toNat % 2 ^ 32 = old.toNat % 2 ^ 32
        ∧ (uopFn 9 old a b imm free).toNat / 2 ^ 32 = imm.toNat % 2 ^ 32
        ∧ uopFn 12 old a b imm free = (if a.toInt < b.toInt then 1 else 0)
        ∧ uopFn 13 old a b imm free = (if a.toNat < b.toNat then 1 else 0)) ∧
  (∀ (s : State) (h : HandId) (i : FmtB), s.issues h = true → i.minor < 3 → (i.minor ≠ 0 → (s.hand h).pw i.wa.val = false) →
      completes (.bra h i) s (s.onlyHand h { s.hand h with
        pc := if i.minor = 0 ∨ (i.minor = 1 ∧ (s.hand h).rw i.wa.val = 0) ∨ (i.minor = 2 ∧ (s.hand h).rw i.wa.val ≠ 0)
          then (s.hand h).pc + i.t2.toInt else (s.hand h).pc + 1 })) ∧
  (∀ (s : State) (h : HandId) (i : FmtB), s.issues h = true → (i.minor = 1 ∨ i.minor = 2) →
      (s.hand h).pw i.wa.val = true → exec (.bra h i) s = .next (s.poisonConsumed h))

/-- From R128 to R130: the divergence instructions, with the unwinding of R129 where no lane stays active, and the stack's
limit of 32 entries. The model's own choices here are those of log entries 43 and 44. -/
def Obligations.DivergenceFollowsTheMaskStack : Prop :=
  (∀ (s : State) (h : HandId) (i : FmtB), s.issues h = true → (s.hand h).pf i.ft.val = false → (s.hand h).stack.length < 32 →
      let c := s.hand h
      completes (.divIf h i) s (maskResult h c (c.active &&& c.rf i.ft.val)
        ({ kind := .ifK, saved := c.active, pend := c.active &&& ~~~(c.rf i.ft.val)
           t1 := c.pc + i.t1.toInt, t2 := c.pc + i.t2.toInt } :: c.stack) (c.pc + 1) s)) ∧
  (∀ (s : State) (h : HandId) (i : FmtB) (e : MaskEntry) (r : List MaskEntry), s.issues h = true →
      (s.hand h).stack = e :: r → e.kind ≠ .loopK →
      completes (.divElse h i) s (maskResult h (s.hand h) e.pend ({ e with kind := .elseK } :: r) ((s.hand h).pc + 1) s)) ∧
  (∀ (s : State) (h : HandId) (i : FmtB) (e : MaskEntry) (r : List MaskEntry), s.issues h = true →
      (s.hand h).stack = e :: r → e.kind ≠ .loopK →
      completes (.divEndif h i) s (maskResult h (s.hand h) (e.saved &&& ~~~((s.hand h).exited)) r ((s.hand h).pc + 1) s)) ∧
  (∀ (s : State) (h : HandId) (i : FmtB), s.issues h = true → (s.hand h).stack.length < 32 →
      completes (.divLoop h i) s (s.onlyHand h { s.hand h with
        stack := { kind := .loopK, saved := (s.hand h).active, t1 := (s.hand h).pc + 1, t2 := (s.hand h).pc + i.t2.toInt }
          :: (s.hand h).stack
        pc := (s.hand h).pc + 1 })) ∧
  (∀ (s : State) (h : HandId) (i : FmtB), s.issues h = true → (s.hand h).pf i.ft.val = false →
      (∃ e ∈ (s.hand h).stack, e.kind = .loopK) →
      let c := s.hand h
      completes (.divBreak h i) s (maskResult h c (c.active &&& ~~~(c.active &&& c.rf i.ft.val))
        (leaveLoop (c.active &&& c.rf i.ft.val) c.stack) (c.pc + 1) s)) ∧
  (∀ (s : State) (h : HandId) (i : FmtB) (e : MaskEntry), s.issues h = true →
      ((s.hand h).stack.find? fun e => e.kind = .loopK) = some e →
      completes (.divEndloop h i) s (maskResult h (s.hand h) (s.hand h).active (s.hand h).stack e.t1 s)) ∧
  (∀ (s : State) (h : HandId) (i : FmtB), s.issues h = true → 32 ≤ (s.hand h).stack.length →
      ((s.hand h).pf i.ft.val = false → exec (.divIf h i) s = .next (s.handFault h .maskOverflow 0 0))
        ∧ exec (.divLoop h i) s = .next (s.handFault h .maskOverflow 0 0)) ∧
  (∀ (s : State) (h : HandId) (i : FmtB), s.issues h = true → (∀ e ∈ (s.hand h).stack, e.kind ≠ .loopK) →
      exec (.divBreak h i) s = .next (s.illegal h 4) ∧ exec (.divEndloop h i) s = .next (s.illegal h 4)
        ∧ ((s.hand h).stack = [] → exec (.divElse h i) s = .next (s.illegal h 4) ∧ exec (.divEndif h i) s = .next (s.illegal h 4))) ∧
  (∀ (s : State) (h : HandId) (i : FmtB) (e : MaskEntry) (r : List MaskEntry), s.issues h = true →
      (s.hand h).stack = e :: r → e.kind = .loopK →
      exec (.divElse h i) s = .next (s.illegal h 4) ∧ exec (.divEndif h i) s = .next (s.illegal h 4)) ∧
  (∀ (s : State) (h : HandId) (i : FmtB), s.issues h = true → (s.hand h).pf i.ft.val = true →
      exec (.divIf h i) s = .next (s.poisonConsumed h)
        ∧ ((∃ e ∈ (s.hand h).stack, e.kind = .loopK) → exec (.divBreak h i) s = .next (s.poisonConsumed h)))

/-- From R120, R126, R128, R129: the system instructions. The model's own choices here are those of log entries 43 and 44. -/
def Obligations.SystemInstructionsComplete : Prop :=
  (∀ (s : State) (h : HandId) (i : FmtS), s.issues h = true →
      completes (.nop h i) s (s.onlyHand h { s.hand h with pc := (s.hand h).pc + 1 })) ∧
  (∀ (s : State) (h : HandId) (i : FmtS), s.issues h = true →
      completes (.rdalm h i) s (crewResult h i.wa.val (BitVec.ofNat 64 s.alm.now) false s)) ∧
  (∀ (s : State) (h : HandId) (i : FmtS) (j : Nat) (k : KernelDecl), s.issues h = true →
      s.kernelDecl (s.hand h).pol (s.hand h).runSeq (s.hand h).kernel = some (j, k) →
      completes (.rdcyc h i) s (crewResult h i.wa.val
        (BitVec.ofNat 64 (s.clock - (((s.pol (s.hand h).pol).run (s.hand h).runSeq).kernels.get {} j).startedAt)) false s)) ∧
  (∀ (s : State) (h : HandId) (i : FmtS), s.issues h = true →
      completes (.sysEnd h i) s fun t =>
        (t.hand h).running = false ∧ (t.hand h).ended = (s.hand h).ended + 1 ∧ (t.hand h).endedAt = some s.clock
          ∧ t.mem = s.mem ∧ t.bins = s.bins ∧ (∀ j, j ≠ h.val → t.hand j = s.hand j)
          ∧ ∀ j k, s.kernelDecl (s.hand h).pol (s.hand h).runSeq (s.hand h).kernel = some (j, k) →
            (((t.pol (s.hand h).pol).run (s.hand h).runSeq).kernels.get {} j).tasksDone
              = (((s.pol (s.hand h).pol).run (s.hand h).runSeq).kernels.get {} j).tasksDone + 1) ∧
  (∀ (s : State) (h : HandId) (i : FmtS), s.issues h = true →
      let c := s.hand h
      let d := { c with
        exited := c.exited ||| c.active
        stack := c.stack.map fun e => { e with saved := e.saved &&& ~~~c.active, pend := e.pend &&& ~~~c.active } }
      completes (.sysExit h i) s (maskResult h d 0 d.stack (c.pc + 1) s)) ∧
  (∀ (s : State) (h : HandId) (i : FmtS), s.issues h = true →
      completes (.sysTrap h i) s fun t =>
        (t.hand h).pc = (s.hand h).pc + 1 ∧ (t.hand h).running = (s.hand h).running
          ∧ t = { s with hands := t.hands, crier := t.crier } ∧ (∀ j, j ≠ h.val → t.hand j = s.hand j)
          ∧ ∃ e, t.crier.band = s.crier.band ++ [e] ∧ e.code = .handTrap ∧ e.source = h.val ∧ e.book = (s.hand h).pol
            ∧ e.pol = (s.hand h).pol ∧ slice e.detail 4 8 = leBytes 8 ((s.hand h).rw i.wa.val).toNat
            ∧ slice e.detail 12 2 = leBytes 2 (i.imm.toNat % 65536))

/-- From R131 to R133: under the full mask HMMA writes every element of the accumulator with the rounded sum and leaves all
else; under any other mask it raises PARTIAL_CREW and the kernel is fenced. The model's own choices here are those of log
entry 44. -/
def Obligations.HmmaNeedsTheWholeCrew : Prop :=
  (∀ (s : State) (h : HandId) (i : FmtX) (fa fb : Nat), s.issues h = true → mfmtOf i.mfmt.val = some (fa, fb) →
      hmmaGroups fa i.xa.val i.xb.val i.xd.val = true → (s.hand h).active = 0xFFFF →
      (∀ r, r < 64 → (s.hand h).pendingX r = false) →
      completes (.hmma h i) s fun t =>
        s.onlyHand h { s.hand h with x := (t.hand h).x, xp := (t.hand h).xp, pc := (s.hand h).pc + 1 } t ∧
        (∀ a b, a < 16 → b < 16 → i.xd.val + b ≠ 0 →
          (t.hand h).rx (i.xd.val + b) a = (s.hand h).hmmaAt fa fb i.xa.val i.xb.val i.xd.val a b ∧
          (t.hand h).px (i.xd.val + b) a = ((s.hand h).pxs i.xa.val (hmmaRegs fa) a || (s.hand h).pxs i.xb.val (hmmaRegs fa) b
            || (s.hand h).px (i.xd.val + b) a)) ∧
        ∀ r l, l < 16 → (r < i.xd.val ∨ i.xd.val + 16 ≤ r) →
          (t.hand h).rx r l = (s.hand h).rx r l ∧ (t.hand h).px r l = (s.hand h).px r l) ∧
  (∀ (s : State) (h : HandId) (i : FmtX) (fa fb : Nat), s.issues h = true → mfmtOf i.mfmt.val = some (fa, fb) →
      hmmaGroups fa i.xa.val i.xb.val i.xd.val = true → (s.hand h).active ≠ 0xFFFF →
      exec (.hmma h i) s = .next (s.handFault h .partialCrew 0 0)) ∧
  (∀ (s : State) (h : HandId) (i : FmtX) (fa fb : Nat), s.issues h = true → mfmtOf i.mfmt.val = some (fa, fb) →
      hmmaGroups fa i.xa.val i.xb.val i.xd.val = false → exec (.hmma h i) s = .next (s.illegal h 3)) ∧
  (∀ (s : State) (h : HandId) (i : FmtX), s.issues h = true → 6 ≤ i.mfmt.val → exec (.hmma h i) s = .next (s.illegal h 5))

/-- From R124, R125, R145: a word with a reserved opcode or a bad field raises ILLEGAL_INSTRUCTION with its sub-code in the
polder's own day book, and fences the kernel, which ends its manifest. The model's own choices here are those of log entry 43.
-/
def Obligations.IllegalWordsFenceTheKernel : Prop :=
  (∀ (s : State) (h : HandId) (w : Word) (sub : Nat), s.issues h = true → wordFault w = some sub →
      completes (.illegalInstruction h w) s fun t =>
        (t.pol (s.hand h).pol).isRunning (s.hand h).runSeq = false ∧ (t.hand h).busy = false
          ∧ ∃ e l, t.crier.band = s.crier.band ++ e :: l ∧ e.code = .illegalInstruction ∧ e.source = h.val
            ∧ e.book = (s.hand h).pol ∧ slice e.detail 0 4 = leBytes 1 (h / 1024) ++ leBytes 1 (s.hand h).kernel ++ leBytes 2 (h % 1024)
            ∧ slice e.detail 12 2 = leBytes 2 sub) ∧
  (∀ w : Word, field w.toNat 58 6 ∈ [0x00, 0x0E, 0x0F, 0x19, 0x1A, 0x1B, 0x1F, 0x20, 0x3F] → wordFault w = some 1) ∧
  (∀ w : Word, field w.toNat 58 6 = 0x0C → field w.toNat 52 6 < 3 → field w.toNat 48 4 ≠ 0 → wordFault w = some 2) ∧
  (∀ w : Word, field w.toNat 58 6 = 0x10 → field w.toNat 52 6 < 2 → field w.toNat 28 3 = 3 → field w.toNat 42 6 = 63 →
      wordFault w = some 3) ∧
  (∀ w : Word, field w.toNat 58 6 = 0x1C → field w.toNat 52 6 = 0 → field w.toNat 48 4 = 0 → 6 ≤ field w.toNat 26 4 →
      wordFault w = some 5)

/-- From R119 to R121: a kernel starts on all its Hands, with their L1 invalid and their local store zero; a task starts with
the registers of R120; the kernel ends when every task has ended and every store is accepted. The model's own choices here are
those of log entry 48. -/
def Obligations.KernelsAndTasksRun : Prop :=
  (∀ (s : State) (p : Pol) (seq kernel j : Nat) (k : KernelDecl), s.kernelDecl p seq kernel = some (j, k) →
      ((s.pol p).run seq).suspended = false → (((s.pol p).run seq).kernels.get {} j).started = false →
      (kernelHands k).all s.handFree = true → s.mayBegin p seq (.kernel j) = true →
      completes (.kernelStart p seq kernel) s fun t =>
        (((t.pol p).run seq).kernels.get {} j).started = true ∧ (((t.pol p).run seq).kernels.get {} j).startedAt = s.clock
          ∧ (∀ h ∈ kernelHands k, (t.hand h).busy = true ∧ (t.hand h).pol = p ∧ (t.hand h).runSeq = seq
              ∧ (t.hand h).kernel = kernel ∧ (t.hand h).running = false ∧ (t.hand h).l1 = []
              ∧ (t.hand h).localStore = [] ∧ (t.hand h).localPoison = [])
          ∧ ((kernelHands k).Nodup → ∀ n, n < (kernelHands k).length → (t.hand ((kernelHands k).getD n 0)).number = n)
          ∧ t.mem = s.mem ∧ t.bins = s.bins ∧ ∀ h, h ∉ kernelHands k → t.hand h = s.hand h) ∧
  (∀ (s : State) (h : HandId) (j n : Nat) (k : KernelDecl),
      s.kernelDecl (s.hand h).pol (s.hand h).runSeq (s.hand h).kernel = some (j, k) →
      (s.hand h).busy = true → (s.hand h).running = false →
      ((s.pol (s.hand h).pol).run (s.hand h).runSeq).suspended = false → (s.mill (h / 1024)).fenced = false →
      nextTask k (s.hand h) = some n →
      (match (s.hand h).endedAt with
        | some a => a + 8 ≤ s.clock
        | none => (((s.pol (s.hand h).pol).run (s.hand h).runSeq).kernels.get {} j).startedAt + 64 ≤ s.clock) →
      completes (.taskStart h) s fun t =>
        s.onlyHand h (t.hand h) t ∧ (t.hand h).running = true ∧ (t.hand h).task = n ∧ (t.hand h).pc = 0
          ∧ (t.hand h).active = 0xFFFF ∧ (t.hand h).exited = 0 ∧ (t.hand h).stack = []
          ∧ (t.hand h).rw 1 = BitVec.ofNat 64 ((((s.pol (s.hand h).pol).run (s.hand h).runSeq).m.operands.getD k.arg (0, 0)).2)
          ∧ (t.hand h).rw 2 = BitVec.ofNat 64 n ∧ (t.hand h).rw 3 = BitVec.ofNat 64 k.tasks
          ∧ (t.hand h).rw 4 = BitVec.ofNat 64 (s.hand h).number ∧ (t.hand h).rw 5 = BitVec.ofNat 64 (h / 1024)
          ∧ (∀ r, 5 < r → (t.hand h).rw r = 0) ∧ (∀ r l, (t.hand h).rx r l = 0 ∧ (t.hand h).px r l = false)
          ∧ (t.hand h).l1 = (s.hand h).l1 ∧ (t.hand h).localStore = (s.hand h).localStore) ∧
  (∀ (s : State) (p : Pol) (seq kernel j : Nat) (k : KernelDecl), s.kernelDecl p seq kernel = some (j, k) →
      (((s.pol p).run seq).kernels.get {} j).started = true → (((s.pol p).run seq).kernels.get {} j).ended = false →
      k.tasks ≤ (((s.pol p).run seq).kernels.get {} j).tasksDone →
      (∀ h ∈ kernelHands k, (s.hand h).stores = [] ∧ (s.hand h).unwon = 0 ∧ (s.hand h).atoms = [] ∧ s.hostStalled h = false) →
      completes (.kernelEnd p seq kernel) s fun t =>
        (((t.pol p).run seq).kernels.get {} j).ended = true
          ∧ (∀ h ∈ kernelHands k, (t.hand h).busy = false ∧ (t.hand h).l1 = [])
          ∧ ∀ h, h ∉ kernelHands k → t.hand h = s.hand h)

/-- From R127, R135, R136, R214: LD and LDS, once every lane is translated and none waits for an earlier access, ask for each
sector missed and go on; HAND_MISS_FILL writes the waiting registers from the Bin's line; a misaligned access raises
MISALIGNED, a poisoned address POISON_CONSUMED. The model's own choices here are those of log entries 24, 35, 45 and 46. -/
def Obligations.GlobalLoadsComplete : Prop :=
  (∀ (s u : State) (h : HandId) (i : FmtM) (ls : List (Nat × Nat × LaneAt)) (signed : Bool),
      globalReady s h i (sizeRegs i.size.val) (memFault i (sizeRegs i.size.val)) → s.lanesAt h i 0 = (some ls, u) →
      let keys := (((reached ls).filter fun e =>
        (u.gateOff e.2.2.2).isNone && (u.l1Hit h i (u.sectorKey e.2.2.2)).isNone).map fun e => u.sectorKey e.2.2.2).eraseDups
      (∀ k ∈ keys ++ stagedKeys ls, u.earlier h k true = false) →
      (u.hand h).entriesUsed + keys.length ≤ missEntries (u.handLocal h) → (∀ e ∈ reached ls, u.gateOff e.2.2.2 = none) →
      completes (if signed then .lds h i else .ld h i) s fun t =>
        (t.hand h).pc = (u.hand h).pc + 1 ∧ (t.hand h).stores = (u.hand h).stores
          ∧ (t.hand h).misses.map MissEntry.sector = (u.hand h).misses.map MissEntry.sector ++ keys
          ∧ t.mem = u.mem ∧ (t.hand h).w = (u.hand h).w ∧ (t.hand h).localStore = (u.hand h).localStore) ∧
  (∀ (s u : State) (h : HandId) (i : FmtM), globalReady s h i (sizeRegs i.size.val) (memFault i (sizeRegs i.size.val)) →
      s.lanesAt h i 0 = (none, u) → exec (.ld h i) s = .next u ∧ exec (.lds h i) s = .next u) ∧
  (∀ (s : State) (h : HandId) (m : MissEntry) (bytes : List Byte) (poison : Bool), (s.hand h).misses = [m] →
      dpaModule (s.sectorDpa m.sector) = s.boot.moduleId → (s.region (dpaOffset (s.sectorDpa m.sector))).isMem = true →
      (s.region (m.sector / 8 * 1024)).isMem = true → (s.mill (h / 1024)).fenced = false → s.homeFenced (m.sector / 8) = false →
      s.isLate m.pol m.gen m.orphan = false →
      (m.got = some (bytes, poison) ∨ (m.got = none ∧ ∃ key b, s.binFind (h / 1024) m.pol (m.sector / 8) = some (key, b) ∧
        isStable b.st = true ∧ b.waits = [] ∧ b.valid.getLsbD (m.sector % 8) = true ∧ s.unwonAt h m.sector = false ∧ key / 2 ^ 17 = h / 1024
        ∧ poison = b.poison.getLsbD (m.sector % 8) ∧ bytes = (List.range 128).map fun j => b.data.get 0 (128 * (m.sector % 8) + j))) →
      completes (.handMissFill h m.sector) s fun t =>
        (t.hand h).misses = [] ∧ (t.hand h).pc = (s.hand h).pc ∧ (t.hand h).w = (s.hand h).w
          ∧ (t.hand h).x = (m.dests.foldl (fun c d => c.fillDest bytes poison d) (s.hand h)).x
          ∧ (t.hand h).xp = (m.dests.foldl (fun c d => c.fillDest bytes poison d) (s.hand h)).xp
          ∧ (poison = true → ∃ e ∈ t.crier.band, e.code = .poisonRead ∧ e.source = h.val ∧ e.book = m.pol)
          ∧ (m.fillL1 = true → ∃ l ∈ (t.hand h).l1, l.sector = m.sector ∧ l.data = bytes ∧ l.poison = poison)) ∧
  (∀ (c : Hand) (bytes : List Byte) (poison : Bool) (d : FillDest), d.reg ≠ 0 → d.lane < 16 →
      (d.size = 4 → (c.fillDest bytes poison d).rx d.reg d.lane = BitVec.ofNat 32 (leAt bytes d.off 4)) ∧
      (d.size ≤ 2 → d.signed = false → (c.fillDest bytes poison d).rx d.reg d.lane = BitVec.ofNat 32 (leAt bytes d.off d.size)) ∧
      (d.size = 2 → d.signed = true → (c.fillDest bytes poison d).rx d.reg d.lane = (BitVec.ofNat 16 (leAt bytes d.off 2)).signExtend 32) ∧
      (d.size = 1 → d.signed = true → (c.fillDest bytes poison d).rx d.reg d.lane = (BitVec.ofNat 8 (leAt bytes d.off 1)).signExtend 32) ∧
      (c.fillDest bytes poison d).px d.reg d.lane = (poison || d.bad)) ∧
  (∀ (s : State) (h : HandId) (i : FmtM) (l : Nat), s.issues h = true →
      s.freeRegs h (memRegs i (sizeRegs i.size.val)) → memFault i (sizeRegs i.size.val) = none →
      (s.hand h).badAddr i true = false → l ∈ (s.hand h).memLanes i →
      (s.hand h).globalVa i l % sizeBytes i.size.val ≠ 0 →
      exec (.ld h i) s = .next (s.handFault h .misaligned 0 0) ∧ exec (.lds h i) s = .next (s.handFault h .misaligned 0 0)
        ∧ exec (.st h i) s = .next (s.handFault h .misaligned 0 0)
        ∧ exec (.stDead h i) s = .next (s.handFault h .misaligned 0 0)) ∧
  (∀ (s : State) (h : HandId) (i : FmtM), s.issues h = true →
      s.freeRegs h (memRegs i (sizeRegs i.size.val)) → memFault i (sizeRegs i.size.val) = none →
      (s.hand h).badAddr i true = true →
      exec (.ld h i) s = .next (s.poisonConsumed h) ∧ exec (.lds h i) s = .next (s.poisonConsumed h)
        ∧ exec (.st h i) s = .next (s.poisonConsumed h) ∧ exec (.stDead h i) s = .next (s.poisonConsumed h))

/-- From R135, R136, R172, R196: a store enters the store queue, byte for byte, with its dead hint, and changes no memory; the
oldest leaves the queue for the Bin, for a staging slot, or for a host or another module; a Bin that holds its line E or M
holds it M with those bytes, one that holds it S or O keeps the store until it has the line. The model's own choices here are
those of log entries 45, 46 and 47. -/
def Obligations.GlobalStoresReachTheBin : Prop :=
  (∀ (s u : State) (h : HandId) (i : FmtM) (ls : List (Nat × Nat × LaneAt)) (dead : Bool),
      globalReady s h i (sizeRegs i.size.val) (memFault i (sizeRegs i.size.val)) → s.lanesAt h i 1 = (some ls, u) →
      let bs := storeBytes (u.hand h) i (u.storeLanes i ls)
      let es := storeEntries bs dead (u.pol (u.hand h).pol).gen
      (∀ b ∈ bs, (∀ m ∈ (u.hand h).misses, m.sector ≠ b.at_ / 128) ∧ ∀ a ∈ (u.hand h).atoms, a.sector ≠ b.at_ / 128) →
      queueSectors (u.hand h).stores + queueSectors es ≤ 32 →
      completes (if dead then .stDead h i else .st h i) s fun t =>
        t.mem = u.mem ∧ t.bins = u.bins ∧ t.reqs = u.reqs ∧ (t.hand h).pc = (u.hand h).pc + 1
          ∧ (t.hand h).x = (u.hand h).x ∧ (t.hand h).w = (u.hand h).w ∧ (t.hand h).stores = (u.hand h).stores ++ es
          ∧ ((∀ e ∈ ls, ∃ w dpa, e.2.2 = .far (.memory w dpa)) → t.crier = u.crier)) ∧
  (∀ (s u : State) (h : HandId) (i : FmtM), globalReady s h i (sizeRegs i.size.val) (memFault i (sizeRegs i.size.val)) →
      s.lanesAt h i 1 = (none, u) → exec (.st h i) s = .next u ∧ exec (.stDead h i) s = .next u) ∧
  (∀ (c : Hand) (i : FmtM) (ls : List StoreLane) (e : StoreLane) (j : Nat), j < sizeBytes i.size.val →
      ∃ b ∈ storeBytes c i (ls ++ [e]), b.at_ = e.at_ + j ∧ b.v = BitVec.ofNat 8 ((c.source i e.lane).1 / 2 ^ (8 * j))
        ∧ b.bad = (c.source i e.lane).2) ∧
  (∀ (s : State) (h : HandId) (e : StoreEntry) (r : List StoreEntry) (key : Nat) (b : BinLine),
      (s.hand h).stores = e :: r → e.goal = .line → dpaModule (s.sectorDpa (8 * e.line)) = s.boot.moduleId →
      (s.region (dpaOffset (s.sectorDpa (8 * e.line)))).isMem = true → (s.mill (h / 1024)).fenced = false →
      s.homeFenced e.line = false → s.stackFenced e.line = false →
      s.binFind (h / 1024) (s.hand h).pol e.line = some (key, b) → isPutWait b.st = false → b.waits = [] → e.bytes ≠ [] → partSectors e.bytes &&& ~~~b.valid = 0 →
      b.dead = 0 →
      completes (.binWrite h) s fun t =>
        (t.hand h).stores = r ∧ t.mem = s.mem ∧ (∀ k, k ≠ key → t.bins.get {} k = s.bins.get {} k)
          ∧ (b.st = .e ∨ b.st = .m → (t.hand h).unwon = (s.hand h).unwon ∧ t.net = s.net
            ∧ (t.bins.get {} key).st = .m ∧ (t.bins.get {} key).data = patch b.data e.bytes
            ∧ (t.bins.get {} key).dirty = b.dirty ||| touched e.bytes
            ∧ (t.bins.get {} key).dead = deadAfter b.dead e.bytes e.dead)
          ∧ (b.st = .s ∨ b.st = .o → (t.hand h).unwon = (s.hand h).unwon + 1 ∧ (t.bins.get {} key).data = b.data
            ∧ (t.bins.get {} key).waits.length = 1)) ∧
  (∀ (s : State) (h : HandId) (e : StoreEntry) (r : List StoreEntry) (n key base : Nat),
      (s.hand h).stores = e :: r → e.goal = .staged n key base → (s.pol (s.hand h).pol).isRunning (s.hand h).runSeq = true → e.bytes ≠ [] →
      completes (.binWrite h) s fun t =>
        (t.hand h).stores = r ∧ t.mem = s.mem ∧ t.bins = s.bins
          ∧ ((((t.pol (s.hand h).pol).run (s.hand h).runSeq).streams.get {} n).tiles.get {} key).bytes
            = ((((s.pol (s.hand h).pol).run (s.hand h).runSeq).streams.get {} n).tiles.get {} key).bytes
              ++ e.bytes.map fun x => (1024 * e.line + x.1 - base, x.2)) ∧
  (∀ (s : State) (h : HandId) (e : StoreEntry) (r : List StoreEntry), (s.hand h).stores = e :: r → e.goal = .line →
      dpaModule (s.sectorDpa (8 * e.line)) ≠ s.boot.moduleId →
      completes (.binWrite h) s fun t => (t.hand h).stores = r ∧ t.mem = s.mem ∧ t.bins = s.bins) ∧
  (∀ (s : State) (h : HandId) (e : StoreEntry) (r : List StoreEntry), (s.hand h).stores = e :: r → e.goal = .line →
      dpaModule (s.sectorDpa (8 * e.line)) = s.boot.moduleId → (s.region (dpaOffset (s.sectorDpa (8 * e.line)))).isMem = true →
      s.homeFenced e.line = true →
      completes (.binWrite h) s fun t =>
        (t.hand h).stores = r ∧ t.mem = s.mem ∧ t.bins = s.bins ∧ ∃ x, t.crier.band = s.crier.band ++ [x] ∧ x.code = .fencedTarget
          ∧ x.source = h.val ∧ x.book = (s.hand h).pol)

/-- From R127, R137, R139, R209: the local store: a load takes what stands there, zero-extended or sign-extended, the highest
lane's store stands, an address at or beyond LOCAL raises LOCAL_RANGE, and an atomic returns the old value and writes the new
one, lane after lane. The model's own choices here are those of log entry 46. -/
def Obligations.LocalStoreAccesses : Prop :=
  (∀ (s : State) (h : HandId) (i : FmtM), i.minor < 2 →
      localReady s h i (sizeRegs i.size.val) (memFault i (sizeRegs i.size.val)) →
      let c := s.hand h
      let bad := fun l => c.localBad (c.localVa i l) (sizeBytes i.size.val)
      completes (.ldl h i) s fun t =>
        s.onlyHand h { c with x := (t.hand h).x, xp := (t.hand h).xp, pc := c.pc + 1 } { t with crier := s.crier } ∧
        (∀ l ∈ c.memLanes i, i.xs.val ≠ 0 → i.size.val ≤ 2 →
          (t.hand h).rx i.xs.val l = (if i.minor = 1
              then BitVec.ofInt 32 (toSigned (8 * sizeBytes i.size.val) (leNat (c.localBytes (c.localVa i l) (sizeBytes i.size.val))))
              else BitVec.ofNat 32 (leNat (c.localBytes (c.localVa i l) (sizeBytes i.size.val))))
            ∧ (t.hand h).px i.xs.val l = (bad l || c.pf i.fsel.val)) ∧
        (∀ l ∈ c.memLanes i, 3 ≤ i.size.val → ∀ k, k < sizeRegs i.size.val → i.xs.val + k ≠ 0 →
          (t.hand h).rx (i.xs.val + k) l = BitVec.ofNat 32 (leNat (c.localBytes (c.localVa i l + 4 * k) 4))) ∧
        ((∀ l ∈ c.memLanes i, bad l = false) → t.crier = s.crier) ∧
        ((∃ l ∈ c.memLanes i, bad l = true) → ∃ e, t.crier.band = s.crier.band ++ [e] ∧ e.code = .poisonRead ∧ e.source = h.val
          ∧ e.book = c.pol)) ∧
  (∀ (s : State) (h : HandId) (i : FmtM), i.minor = 0 → localReady s h i (sizeRegs i.size.val) (memFault i (sizeRegs i.size.val)) →
      let c := s.hand h
      completes (.stl h i) s fun t =>
        s.onlyHand h { c with localStore := (t.hand h).localStore, localPoison := (t.hand h).localPoison, pc := c.pc + 1 } t ∧
        (∀ l ∈ c.memLanes i, ∀ j, j < sizeBytes i.size.val →
          (∀ m ∈ c.memLanes i, l < m → c.localVa i l + j < c.localVa i m ∨ c.localVa i m + sizeBytes i.size.val ≤ c.localVa i l + j) →
          (t.hand h).localStore.get 0 (c.localVa i l + j) = BitVec.ofNat 8 ((c.source i l).1 / 2 ^ (8 * j)) ∧
          (t.hand h).localPoison.get false (c.localVa i l + j) = (c.source i l).2) ∧
        ∀ a, (∀ l ∈ c.memLanes i, a < c.localVa i l ∨ c.localVa i l + sizeBytes i.size.val ≤ a) →
          (t.hand h).localStore.get 0 a = c.localStore.get 0 a ∧ (t.hand h).localPoison.get false a = c.localPoison.get false a) ∧
  (∀ (s : State) (h : HandId) (i : FmtM) (op : AtomOp) (ret : Bool), atomOf i.minor = some (op, ret) →
      localReady s h i (atomRegs op i.size.val) (atomFault i) →
      let c := s.hand h
      completes (.atoml h i) s fun t =>
        s.onlyHand h { c with
          x := (t.hand h).x, xp := (t.hand h).xp, localStore := (t.hand h).localStore, localPoison := (t.hand h).localPoison
          pc := c.pc + 1 } t ∧
        (ret = false → (t.hand h).x = c.x ∧ (t.hand h).xp = c.xp) ∧
        (∀ l, c.memLanes i = [l] →
          let size := sizeBytes i.size.val
          let old := leNat (c.localBytes (c.localVa i l) size)
          let expect := c.rxs (i.xs.val + sizeRegs i.size.val) (sizeRegs i.size.val) l % 2 ^ (8 * size)
          (t.hand h).localBytes (c.localVa i l) size
            = leBytes size (atomNew op size old (combine op size [c.rxs i.xs.val (sizeRegs i.size.val) l % 2 ^ (8 * size)])
                (if op = .cas then expect else 0)) ∧
          (ret = true → i.xs.val ≠ 0 → (t.hand h).rx i.xs.val l = BitVec.ofNat 32 old))) ∧
  (∀ (s : State) (h : HandId) (i : FmtM) (l : Nat), s.issues h = true → i.minor = 0 → i.size = 2 →
      s.freeRegs h [i.xo.val, i.xs.val] → i.xs.val < 64 → (s.hand h).badAddr i false = false →
      (∀ l ∈ (s.hand h).memLanes i, (s.hand h).localVa i l % 4 = 0) → l ∈ (s.hand h).memLanes i →
      1024 * s.handLocal h ≤ (s.hand h).localVa i l →
      exec (.ldl h i) s = .next (s.handFault h .localRange 0 0) ∧ exec (.stl h i) s = .next (s.handFault h .localRange 0 0)
        ∧ exec (.atoml h i) s = .next (s.handFault h .localRange 0 0))

/-- From R135, R138, R139: a global atomic makes one request an address, CAS one a lane, each a request of the line's home; it
bypasses the L1, whose copies of its sectors go; memory is as before until the home applies it. The model's own choices here
are those of log entries 46 and 47. -/
def Obligations.GlobalAtomicsAreSent : Prop :=
  (∀ (s u : State) (h : HandId) (i : FmtM) (op : AtomOp) (ret : Bool) (ls : List (Nat × Nat × LaneAt)),
      atomOf i.minor = some (op, ret) → globalReady s h i (atomRegs op i.size.val) (atomFault i) →
      s.lanesAt h i 2 = (some ls, u) →
      let keys := ((reached ls).map fun e => u.sectorKey e.2.2.2).eraseDups
      let reqs := atomReqs (u.hand h) i op ret ((reached ls).map fun e => (e.1, e.2.2.2))
      (∀ k ∈ keys, u.earlier h k true = false ∧ u.unwonAt h k = false) →
      (u.hand h).entriesUsed + keys.length ≤ missEntries (u.handLocal h) →
      completes (.atom h i) s fun t =>
        (t.hand h).pc = (u.hand h).pc + 1 ∧ t.mem = u.mem ∧ t.bins = u.bins ∧ (t.hand h).w = (u.hand h).w
          ∧ t.reqs.map HomeReq.op = u.reqs.map HomeReq.op ++ (reqs.map fun r =>
              HomeOp.atomic op (dpaOffset r.at_ % 1024) (sizeBytes i.size.val) (BitVec.ofNat 64 r.value) (BitVec.ofNat 64 r.expect) r.bad)
          ∧ t.reqs.map HomeReq.line = u.reqs.map HomeReq.line ++ (reqs.map fun r => dpaOffset r.at_ / 1024)
          ∧ (t.hand h).atoms.map AtomWait.dests = (u.hand h).atoms.map AtomWait.dests ++ reqs.map AtomReq.dests
          ∧ ∀ l ∈ (t.hand h).l1, l.sector ∉ keys) ∧
  (∀ (c : Hand) (i : FmtM) (ret : Bool) (ls : List (Nat × Nat)), (atomReqs c i .cas ret ls).length = ls.length) ∧
  (∀ (c : Hand) (i : FmtM) (op : AtomOp) (ret : Bool) (ls : List (Nat × Nat)), op ≠ .cas →
      (atomReqs c i op ret ls).map AtomReq.at_ = (ls.map Prod.snd).eraseDups) ∧
  (∀ (c : Hand) (i : FmtM) (a l m : Nat), i.size = 2 →
      (atomReqs c i .add true [(l, a), (m, a)]).map AtomReq.value
        = [((c.rx i.xs.val l).toNat + (c.rx i.xs.val m).toNat) % 2 ^ 32])

/-- From R137, R213, R222: a release waits until the Bin has accepted every store and every atomic is performed; an acquire at
die scope or wider waits for the crew's reads and invalidates the L1; a tally wait completes at its target as an acquire, and
otherwise stops the crew. The model's own choices here are those of log entries 3 and 48. -/
def Obligations.FencesAndTalliesComplete : Prop :=
  (∀ (s : State) (h : HandId) (i : FmtS), s.issues h = true → s.released h (fenceScope i) = true →
      exec (.fenceRel h i) s = .next (s.updHand h fun c => { c with pc := c.pc + 1 })) ∧
  (∀ (s : State) (h : HandId) (i : FmtS), s.issues h = true → s.released h (fenceScope i) = false →
      exec (.fenceRel h i) s = .next s ∧ exec (.fenceAcqrel h i) s = .next s) ∧
  (∀ (s : State) (h : HandId) (i : FmtS), s.issues h = true → fenceScope i ≠ 0 → (s.hand h).hasRead = false →
      exec (.fenceAcq h i) s = .next s ∧ exec (.fenceAcqrel h i) s = .next s) ∧
  (∀ (s : State) (h : HandId) (i : FmtS), s.issues h = true → fenceScope i ≠ 0 → (s.hand h).hasRead = true →
      exec (.fenceAcq h i) s = .next (s.updHand h fun c => { c with l1 := [], pc := c.pc + 1 })) ∧
  (∀ (s : State) (h : HandId) (i : FmtS), s.issues h = true → fenceScope i = 0 →
      exec (.fenceAcq h i) s = .next (s.updHand h fun c => { c with pc := c.pc + 1 })) ∧
  (∀ (s : State) (h : HandId) (i : FmtS), s.issues h = true → s.released h (fenceScope i) = true →
      (fenceScope i ≠ 0 → (s.hand h).hasRead = true) →
      exec (.fenceAcqrel h i) s
        = .next (s.updHand h fun c => { c with l1 := if fenceScope i = 0 then c.l1 else [], pc := c.pc + 1 })) ∧
  (∀ (s : State) (h : HandId) (i : FmtS), fenceScope i = 1 → ((s.hand h).stores ≠ [] ∨ (s.hand h).atoms ≠ []) →
      exec (.fenceRel h i) s = .next s ∧ exec (.fenceAcqrel h i) s = .next s) ∧
  (∀ (s : State) (h : HandId) (i : FmtS), s.issues h = true → (s.hand h).pw i.wa.val = false →
      ((s.hand h).rw i.wa.val).toNat ≤ (s.pol (s.hand h).pol).tallies.get 0 (tallyNo i) → (s.hand h).hasRead = true →
      exec (.tallyWait h i) s = .next (s.updHand h fun c => { c with l1 := [], pc := c.pc + 1 })) ∧
  (∀ (s : State) (h : HandId) (i : FmtS), s.issues h = true → (s.hand h).pw i.wa.val = false →
      (s.pol (s.hand h).pol).tallies.get 0 (tallyNo i) < ((s.hand h).rw i.wa.val).toNat →
      exec (.tallyWait h i) s = .next (s.updHand h fun c => { c with
        wait := .tally (tallyNo i) (c.rw i.wa.val).toNat, waitSince := s.clock })) ∧
  (∀ (s : State) (h : HandId) (n g : Nat), (s.hand h).wait = .tally n g → g ≤ (s.pol (s.hand h).pol).tallies.get 0 n →
      (s.hand h).busy = true → ((s.pol (s.hand h).pol).run (s.hand h).runSeq).suspended = false → (s.hand h).hasRead = true →
      exec (.tallySatisfied h) s = .next (s.updHand h fun c => { c with l1 := [], pc := c.pc + 1, wait := .none })) ∧
  (∀ (s : State) (h : HandId) (i : FmtS), s.issues h = true →
      completes (.tallyRead h i) s (crewResult h i.wa.val
        (BitVec.ofNat 64 ((s.pol (s.hand h).pol).tallies.get 0 (tallyNo i))) false s))

/-- From R140, R141: TAKE returns tile t + k TASKS once it is staged; DONE returns its credit; ALLOC takes a credit and a free
slot; PUT, a release at die scope, hands the slot over as the tile of its index. The model's own choices here are those of log
entries 45 and 48. -/
def Obligations.StreamTilesPassThroughHands : Prop :=
  (∀ (s : State) (h : HandId) (i : FmtS) (d : StreamDecl) (r : StreamRun) (m : Manifest) (j : Nat) (k : KernelDecl),
      s.issues h = true → s.streamOf (s.hand h).pol (s.hand h).runSeq i.n.toNat = some (d, r, m) →
      s.kernelDecl (s.hand h).pol (s.hand h).runSeq (s.hand h).kernel = some (j, k) → d.dst = .hands →
      (r.tiles.get {} ((s.hand h).task + (s.hand h).takes.get 0 i.n.toNat * k.tasks)).staged = true →
      (r.tiles.get {} ((s.hand h).task + (s.hand h).takes.get 0 i.n.toNat * k.tasks)).taken = false →
      completes (.take h i) s fun t =>
        (t.hand h).pc = (s.hand h).pc + 1 ∧ (t.hand h).takes.get 0 i.n.toNat = (s.hand h).takes.get 0 i.n.toNat + 1
          ∧ (t.hand h).taken = (s.hand h).taken ++ [(i.n.toNat, (s.hand h).task + (s.hand h).takes.get 0 i.n.toNat * k.tasks)]
          ∧ (t.hand h).x = (s.hand h).x ∧ t.mem = s.mem
          ∧ ((((t.pol (s.hand h).pol).run (s.hand h).runSeq).streams.get {} i.n.toNat).tiles.get {}
              ((s.hand h).task + (s.hand h).takes.get 0 i.n.toNat * k.tasks)).taken = true
          ∧ (i.wa.val ≠ 0 → (t.hand h).rw i.wa.val = BitVec.ofNat 64 (s.slotVa (s.hand h).pol (s.hand h).runSeq i.n.toNat
              (((s.hand h).task + (s.hand h).takes.get 0 i.n.toNat * k.tasks) % d.runahead) d))) ∧
  (∀ (s : State) (h : HandId) (i : FmtS) (n g : Nat), s.issues h = true →
      ((s.hand h).taken.find? fun e => e.1 = i.n.toNat) = some (n, g) → (s.pol (s.hand h).pol).isRunning (s.hand h).runSeq = true →
      completes (.tileDone h i) s fun t =>
        (t.hand h).pc = (s.hand h).pc + 1 ∧ (t.hand h).taken = (s.hand h).taken.erase (n, g)
          ∧ (((t.pol (s.hand h).pol).run (s.hand h).runSeq).streams.get {} n).returning
            = (((s.pol (s.hand h).pol).run (s.hand h).runSeq).streams.get {} n).returning + 1) ∧
  (∀ (s : State) (h : HandId) (i : FmtS) (d : StreamDecl) (r : StreamRun) (m : Manifest) (slot : Nat),
      s.issues h = true → s.streamOf (s.hand h).pol (s.hand h).runSeq i.n.toNat = some (d, r, m) → d.src = .hands →
      ((List.range d.runahead).find? fun k => r.tiles.get {} (slotKey k) = {} && !(r.tiles.any fun e => e.2.slot = some k)) = some slot →
      r.credits ≠ 0 →
      completes (.alloc h i) s fun t =>
        (i.wa.val ≠ 0 → (t.hand h).rw i.wa.val
            = BitVec.ofNat 64 (s.slotVa (s.hand h).pol (s.hand h).runSeq i.n.toNat slot d)) ∧
        (t.hand h).pc = (s.hand h).pc + 1 ∧ (t.hand h).allocs = (s.hand h).allocs ++ [(i.n.toNat, slot)]
          ∧ (((t.pol (s.hand h).pol).run (s.hand h).runSeq).streams.get {} i.n.toNat).credits = r.credits - 1) ∧
  (∀ (s : State) (h : HandId) (i : FmtS) (d : StreamDecl) (r : StreamRun) (m : Manifest) (slot : Nat),
      s.issues h = true → s.released h 1 = true →
      s.streamOf (s.hand h).pol (s.hand h).runSeq i.n.toNat = some (d, r, m) →
      ((s.hand h).rw (i.imm.toNat % 32)).toNat < d.length → ((s.hand h).rw (i.imm.toNat % 32)).toNat ∉ r.put →
      ((s.hand h).allocs.find? fun e => e.1 = i.n.toNat) = some (i.n.toNat, slot) →
      completes (.put h i) s fun t =>
        (t.hand h).pc = (s.hand h).pc + 1 ∧ (t.hand h).allocs = (s.hand h).allocs.erase (i.n.toNat, slot)
          ∧ (((t.pol (s.hand h).pol).run (s.hand h).runSeq).streams.get {} i.n.toNat).put
            = r.put ++ [((s.hand h).rw (i.imm.toNat % 32)).toNat]
          ∧ (((((t.pol (s.hand h).pol).run (s.hand h).runSeq).streams.get {} i.n.toNat).tiles.get {}
              ((s.hand h).rw (i.imm.toNat % 32)).toNat).staged = true)) ∧
  (∀ (s : State) (h : HandId) (i : FmtS) (d : StreamDecl) (r : StreamRun) (m : Manifest),
      s.issues h = true → s.released h 1 = true →
      s.streamOf (s.hand h).pol (s.hand h).runSeq i.n.toNat = some (d, r, m) →
      (d.length ≤ ((s.hand h).rw (i.imm.toNat % 32)).toNat ∨ ((s.hand h).rw (i.imm.toNat % 32)).toNat ∈ r.put) →
      exec (.put h i) s = .next (s.illegal h 6))

/-- R142: BAR CREW completes in the cycle it issues if the active mask contains every lane of the participation mask;
otherwise the crew stops at that instruction. -/
def Obligations.CrewBarrierNeedsItsLanes : Prop :=
  ∀ (s : State) (h : HandId) (i : FmtS), s.issues h = true →
    exec (.barCrew h i) s = .next (s.updHand h fun c =>
      if c.rf i.ft.val &&& ~~~c.active = 0 then { c with pc := c.pc + 1 }
      else { c with wait := .crewBar (c.rf i.ft.val), waitSince := s.clock })

/-- From R143, R144: BAR SET counts the crew's arrival; the k-th SET barrier of a die is released when every Hand of the
kernel there has arrived k times or has no task left; a wait of WATCHDOG cycles raises STRANDED_BARRIER. The model's own
choices here are those of log entry 48. -/
def Obligations.SetBarriersReleaseOrStrand : Prop :=
  (∀ (s : State) (h : HandId) (i : FmtS), s.issues h = true → (s.hand h).rf i.ft.val &&& ~~~(s.hand h).active = 0 →
      s.crossBarrier (s.hand h).pol (s.hand h).runSeq (s.hand h).kernel = none →
      exec (.barSet h i) s = .next (s.updHand h fun c => { c with
        wait := .setBar (c.setArrivals + 1) (c.rf i.ft.val), waitSince := s.clock, setArrivals := c.setArrivals + 1 })) ∧
  (∀ (s : State) (h : HandId) (i : FmtS), s.issues h = true → (s.hand h).rf i.ft.val &&& ~~~(s.hand h).active = 0 →
      completes (.barSet h i) s fun t => t.hand h = { s.hand h with
        wait := .setBar ((s.hand h).setArrivals + 1) ((s.hand h).rf i.ft.val), waitSince := s.clock
        setArrivals := (s.hand h).setArrivals + 1 } ∧ (∀ j, j ≠ h.val → t.hand j = s.hand j) ∧ t.mem = s.mem) ∧
  (∀ (s : State) (h : HandId) (i : FmtS), s.issues h = true → (s.hand h).rf i.ft.val &&& ~~~(s.hand h).active ≠ 0 →
      exec (.barSet h i) s = .next (s.updHand h fun c => { c with wait := .setStuck (c.rf i.ft.val), waitSince := s.clock })) ∧
  (∀ (s : State) (p : Pol) (seq kernel j : Nat) (k : KernelDecl) (d : Die) (h : Nat) (m : BitVec 16),
      s.kernelDecl p seq kernel = some (j, k) →
      (∀ b, s.crossBarrier p seq k.kernel = some b →
        (((s.pol p).run seq).kernels.get {} j).sets.get 0 d + 1 ≤ (s.collector p b.number).releases) →
      (((s.pol p).run seq).kernels.get {} j).started = true → (((s.pol p).run seq).kernels.get {} j).ended = false →
      (∀ x ∈ kernelHands k, x / 1024 = d.val →
        setArrived k ((((s.pol p).run seq).kernels.get {} j).sets.get 0 d + 1) (s.hand x) = true) →
      h ∈ kernelHands k → h / 1024 = d.val → (kernelHands k).Nodup →
      (s.hand h).wait = .setBar ((((s.pol p).run seq).kernels.get {} j).sets.get 0 d + 1) m →
      completes (.barrierRelease p seq kernel d) s fun t =>
        (t.hand h).wait = .none ∧ (t.hand h).pc = (s.hand h).pc + 1
          ∧ (((t.pol p).run seq).kernels.get {} j).sets.get 0 d = (((s.pol p).run seq).kernels.get {} j).sets.get 0 d + 1
          ∧ ∀ x, x / 1024 ≠ d.val → t.hand x = s.hand x) ∧
  (∀ (s : State) (h : HandId) (j : Nat) (k : KernelDecl),
      s.kernelDecl (s.hand h).pol (s.hand h).runSeq (s.hand h).kernel = some (j, k) → (s.hand h).busy = true →
      s.waitMet h = false → ((s.pol (s.hand h).pol).run (s.hand h).runSeq).suspended = false →
      (s.hand h).waitSince + k.watchdog ≤ s.clock →
      exec (.strandedBarrier h) s
        = .next (s.handFault h .strandedBarrier (waitDetail (s.hand h)).1 (waitDetail (s.hand h)).2))

/-! ## Mill and stations (chapters 2, 4 and 5) -/

/-- Whether an operation follows the one before on the tiles it uses, as the command asks (R87). -/
def followsOn (s : State) (dies : List Nat) (mask : BitVec 16) (asked : Bool) : Bool :=
  asked && dies.all fun e => s.followsNow e mask

/-- What a GEMM needs: a running manifest of its polder that declares it, operands that fit, the array formed, its tiles owned and
free on every die of the array, and its operands' tiles there. -/
def gemmReady (s : State) (d : Die) (i op : Nat) (g : Gemm) (seq : Nat) (c : Schedule) (u : MillUse) : Prop :=
  let use := fun c => useFor c op d.val g.a.fmt g.b.fmt g.a.rows g.n g.a.cols g.nk i
  let dies := arrayDies d.val i
  s.stationRun g.pol d.val 0 (fun c => (use c).isSome) = some (seq, c) ∧ use c = some u
    ∧ g.ok = true ∧ s.formed d.val i = true
    ∧ (∀ e ∈ dies, s.ownsTiles g.pol e (arrayTiles i) = true
        ∧ s.tilesFree e (arrayTiles i) (followsOn s dies (arrayTiles i) g.follows) = true)
    ∧ s.fed g.pol seq (gemmDemands u op i g) [u.out, u.out2] g.poison = true

/-- What runs on tiles of some dies for `cycles` cycles: their last issue `drain` cycles before the end, the array's cycle count, the
operation's record at the first of them, and the cycles that the Weir added charged; other dies, other polders, memory and the rest of the
module as before. -/
def millRuns (s t : State) (dies : List Nat) (p seq i cycles free drain : Nat) (mask : BitVec 16) : Prop :=
  (∀ e ∈ dies, (t.mill e).cycles.get 0 i = cycles ∧ ∀ k ∈ bitsOf 16 mask.toNat,
      (t.mill e).runsTo.get 0 k = s.clock + cycles ∧ (t.mill e).lastIssue.get 0 k = s.clock + cycles - drain + 1)
    ∧ (∀ e, e ∉ dies → t.mill e = s.mill e) ∧ (∀ q, q ≠ p → t.pol q = s.pol q)
    ∧ (∃ o ∈ (t.mill (dies.headD 0)).ops, o.pol = p ∧ o.seq = seq ∧ o.tiles = mask ∧ o.array = i ∧ o.ends = s.clock + cycles)
    ∧ (((s.pol p).run seq).m.hard = true → ((t.pol p).run seq).uncharged
        = (((s.pol p).run seq).delayed s.clock (cycles - free) .weir).uncharged)
    ∧ t = { s with mills := t.mills, pols := t.pols }

/-- What an array of each die holds after it: its part of the result and its poison; its other results as before. -/
def millHolds (s t : State) (dies : List Nat) (i : Nat) (out : Nat → List Nat) (poison : Bool) : Prop :=
  ∀ e ∈ dies, (t.mill e).results.get [] i = out e ∧ (t.mill e).resultPoison.get false i = poison
    ∧ ∀ j, j ≠ i → (t.mill e).results.get [] j = (s.mill e).results.get [] j

/-- The tiles taken are used up, and those made come to the streams that the use gives. -/
def tilesFlow (s t : State) (p seq : Nat) (ds : List Demand) (outs : List (Option Nat × List TileBuf)) : Prop :=
  ∀ n, t.streamRun p seq n = (outs.foldl (fun s e => s.giveTiles p seq e.1 e.2) (s.useTiles p seq ds)).streamRun p seq n

/-- What a GEMM of an array leaves, with the additions grouped by `span`. -/
def gemmDone (s t : State) (d : Die) (i op span : Nat) (tm : Timing) (g : Gemm) (seq : Nat) (u : MillUse) : Prop :=
  let dies := arrayDies d.val i
  let b := gemmBlocks i g
  let f := followsOn s dies (arrayTiles i) g.follows
  let booked := s.bookedLevel g.pol seq
  millRuns s t dies g.pol seq i (tm.cycles f (s.weirOf dies) booked) (tm.cycles f 64 booked) tm.drain (arrayTiles i)
    ∧ millHolds s t dies i (fun e => if i = 21 then pairColumns g (e ≠ d.val) (g.result span) else g.result span) g.poison
    ∧ tilesFlow s t g.pol seq (gemmDemands u op i g)
        [(u.out, (b.out (dieCols i b.x false)).map fun e => tileOf (g.product span) e.1 e.2 g.poison),
          (u.out2, (b.out (dieCols i b.x true)).map fun e => tileOf (g.product span) e.1 e.2 g.poison)]

/-- From R79, R80, R84 to R87: the three matrix operations, on every array, following another operation or not: the sums are
made in ascending blocks of 32, each die of a PAIR array holds its half of the columns, and the tiles of the streams are used
and given. Where the Weir stands at the booked level or above, the cycles of the output-stationary GEMM are those of R84, of
the weight-stationary GEMM those of R85, of a batched GEMV those of R86, and 256 and the ladder less where the operation
follows another. The model's own choices here are those of log entries 15, 16 and 66. -/
def Obligations.MatrixOperationsRun : Prop :=
  (∀ (s : State) (d : Die) (i seq : Nat) (g : Gemm) (c : Schedule) (u : MillUse), gemmReady s d i useGemmOs g seq c u →
      completes (.gemmOutputStationary d i g) s fun t =>
        gemmDone s t d i useGemmOs (32 * (g.a.cols / 32 + 1)) (osTiming (s.mill d.val) i g) g seq u) ∧
  (∀ (s : State) (d : Die) (i seq : Nat) (g : Gemm) (c : Schedule) (u : MillUse), gemmReady s d i useGemmWs g seq c u →
      completes (.gemmWeightStationary d i g) s fun t =>
        gemmDone s t d i useGemmWs (arrayY i) (wsTiming (s.mill d.val) i g) g seq u) ∧
  (∀ (s : State) (d : Die) (tiles : BitVec 16) (seq : Nat) (g : Gemm) (c : Schedule) (u : MillUse),
      let arrays := bitsOf 16 tiles.toNat
      let ds := gemvDemands u g 0 (ceilDiv g.n 256)
      let used := dealt tiles (gemvLoads g.b.fmt g.a.cols g.n)
      let f := followsOn s [d.val] used g.follows
      let tm := gemvTiming (s.mill d.val) tiles g.b.fmt g.a.rows g.a.cols g.n
      let booked := s.bookedLevel g.pol seq
      s.stationRun g.pol d.val 0 (fun c => fits c useGemv d.val g.a.fmt g.b.fmt g.a.rows g.n g.a.cols g.nk arrays) = some (seq, c) →
      useFor c useGemv d.val g.a.fmt g.b.fmt g.a.rows g.n g.a.cols g.nk (arrays.headD 0) = some u →
      g.ok = true → g.a.rows ≤ 64 → g.a.cols ≤ 16384 → s.regionReady g.pol d.val tiles f = true →
      s.fed g.pol seq ds [u.out] g.poison = true →
      completes (.batchedGemv d tiles g) s fun t =>
        millRuns s t [d.val] g.pol seq 22 (tm.cycles f (s.weirOf [d.val]) booked) (tm.cycles f 64 booked) tm.drain used
          ∧ millHolds s t [d.val] 22 (fun _ => g.result 256) g.poison
          ∧ tilesFlow s t g.pol seq ds [(u.out, (List.range (ceilDiv g.n 256)).map fun j => tileOf (g.product 256) 0 j g.poison)]) ∧
  (∀ (m : MillSt) (i n booked : Nat) (tiles : BitVec 16) (g : Gemm), booked ≤ n →
      let r := rateOf g.b.fmt
      let y := arrayY i
      let x := arrayX i
      let pair := if i = 21 then 6 else 0
      let last := if i = 21 then 31 else highest (arrayTiles i)
      let rise := 56 * m.ladder + m.stagger * last - r * (y + x)
      let os := ceilDiv g.a.rows y * ceilDiv g.n (x * doubleOf g.b.fmt) * max (r * (32 * ceilDiv g.a.cols 32)) y + r * (y + x) + y
      let ws := 64 * r + ceilDiv g.a.cols y * ceilDiv g.n (x * doubleOf g.b.fmt)
        * ((chunkRows g.a.rows).map fun m => max (64 * r) (r * m)).sum + r * (y + x)
      let l := ceilDiv g.a.cols 256 * ceilDiv g.n (256 * doubleOf g.b.fmt)
      let gemv := ceilDiv l (popCount 16 tiles.toNat) * max (64 * r) (r * g.a.rows)
      let riseV := 56 * m.ladder + m.stagger * highest (dealt tiles l) - r * 512
      (osTiming m i g).cycles false n booked = os + 256 + 256 + pair + rise
        ∧ (osTiming m i g).cycles true n booked = os + 256 + pair
        ∧ (wsTiming m i g).cycles false n booked = ws + 256 + 256 + pair + rise
        ∧ (wsTiming m i g).cycles true n booked = ws + 256 + pair
        ∧ (gemvTiming m tiles g.b.fmt g.a.rows g.a.cols g.n).cycles false n booked = 256 + gemv + 16 + 256 + riseV
        ∧ (gemvTiming m tiles g.b.fmt g.a.rows g.a.cols g.n).cycles true n booked = gemv + 16 + 256) ∧
  ∀ (g : Gemm) (span i j : Nat), i < g.a.rows → j < g.n → g.a.cols ≤ 32 → 0 < g.a.cols → 32 ≤ span → g.out = 7 →
    (g.result span)[i * g.n + j]? = some (g.blockSum i j 0).toNat

/-- From R87 to R89: the attention pass, of any number of heads, in either result format: each head's rows, each the running
form over ascending blocks of 256 keys, and the cycles of R88; a row that sees no key is zeros. The model's own choices here
are those of log entries 15, 16 and 66. -/
def Obligations.AttentionPassRuns : Prop :=
  (∀ (s s' : State) (d : Die) (seq : Nat) (g : Attention) (c : Schedule) (h : AttHead) (hs : List AttHead) (u : MillUse) (bad : Bool),
      let keys := min (leAt g.record 8 8) u.n
      let units := (g.heads.map fun h => attUnits h g.record keys).sum
      let used := dealt g.tiles units
      let f := followsOn s [d.val] used g.follows
      let ds := attDemands u g.heads
      let tm := attTiming (s'.mill d.val) g.tiles used h.k.fmt h.q.cols h.q.rows units
      let booked := s'.bookedLevel g.pol seq
      g.heads = h :: hs → s.stationRun g.pol d.val 0 (fun c => (attUse c d.val h g.heads.length).isSome) = some (seq, c) →
      attUse c d.val h g.heads.length = some u → (∀ x, u.scale = some x → x = g.scale) →
      g.record.length = 32 → h.q.cols ≤ 256 → g.heads.length ≤ 256 → g.out = 6 ∨ g.out = 7 →
      (∀ k ∈ g.heads, attHeadOk k h.q.cols = true ∧ k.q.rows = h.q.rows ∧ k.v.fmt = h.v.fmt) →
      s.regionReady g.pol d.val g.tiles f = true → s.fed g.pol seq ds [u.out] g.poison = true →
      s.readRecord (.station 1 d.val g.pol seq) g.pol seq u.record g.record = (.is bad, s') → (bad = true → g.poison = true) →
      completes (.fusedAttentionPass d g) s fun t =>
        millRuns s' t [d.val] g.pol seq 22 (tm.cycles f (s'.weirOf [d.val]) booked) (tm.cycles f 64 booked) tm.drain used
          ∧ millHolds s' t [d.val] 22 (fun _ => g.heads.flatMap fun h => (attRows h g.record g.scale keys).map (outCode g.out)) g.poison
          ∧ tilesFlow s' t g.pol seq ds [(u.out, attTiles g keys)]) ∧
  (∀ (m : MillSt) (tiles used : BitVec 16) (fmt dim rows u n booked : Nat), booked ≤ n →
      let g := rateOf fmt
      let m' := min 512 rows
      let work := ceilDiv u (popCount 16 tiles.toNat) * g * (max (ceilDiv dim 4) m' + max 64 m')
      (attTiming m tiles used fmt dim rows u).cycles false n booked
          = 256 + work + 16 + 128 + 256 + (56 * m.ladder + m.stagger * highest used - g * 512)
        ∧ (attTiming m tiles used fmt dim rows u).cycles true n booked = work + 16 + 128 + 256) ∧
  ∀ (h : AttHead) (rec : List Byte) (scale : Lane) (keys row : Nat),
    (∀ k, k < keys → attSees rec row k = false) → attRow h rec scale keys row = List.replicate h.v.cols 0

/-- From R90 to R94: a verify pass in either mode, on any number of dies, stores its result record and nothing else of the
polder's memory view changes but through that store; each of its dies runs its slice; a record of the other mode is not taken.
The record gives ACCEPTED, EMITTED and the tokens. The model's own choices here are those of log entries 3, 16, 17 and 66. -/
def Obligations.VerifyPassesRun : Prop :=
  (∀ (s s' u : State) (d : Die) (v : VerifyOp) (seq : Nat) (c : Schedule) (mu : MillUse) (bad : Bool),
      let dies := bitsOf 8 v.dies.toNat
      let nd := dies.length
      let k := v.k c.kmax
      let used := dealt v.tiles (gemvLoads v.head.fmt v.hidden.cols (v.gemm.n / nd))
      let f := followsOn s dies used v.follows
      let ds := verifyDemands c v dies
      let tm := verifyTiming (u.mill d.val) v c.kmax (v.gemm.n / nd)
      let booked := u.bookedLevel v.pol seq
      let r := if v.samples then samplePass v nd k else ((greedyPass v k).1, (greedyPass v k).2, false)
      s.stationRun v.pol d.val 0 (fun c => dies.all fun e => fits c useVerify e v.hidden.fmt v.head.fmt (c.kmax + 1) v.gemm.n
        v.hidden.cols v.nk (bitsOf 16 v.tiles.toNat)) = some (seq, c) →
      verifyUse c v d.val = some mu → dies.head? = some d.val →
      v.record.length = 64 → v.gemm.ok = true → v.hidden.cols ≤ 16384 → v.gemm.n % (256 * nd) = 0 → k < v.hidden.rows →
      (v.samples = true → v.q.length = c.kmax ∧ ∀ r ∈ v.q, r.length = v.gemm.n) →
      (∀ i, mu.result = some i → v.result = (((s.pol v.pol).run seq).m.operands.getD i (0, 0)).2) →
      (∀ e ∈ dies, s.regionReady v.pol e v.tiles f = true) → s.fed v.pol seq ds [] v.poison = true →
      s.stationOwes 1 d.val v.pol = [] →
      s.readRecord (.station 1 d.val v.pol seq) v.pol seq mu.record v.record = (.is bad, s') → (bad = true → v.poison = true) →
      (s'.stationStore 1 d.val v.pol seq v.result (resultRecord v c.kmax r.1 r.2.1 r.2.2) v.poison).1 = some u →
      completes (if v.samples then .verifySample d v else .verifyGreedy d v) s fun t =>
        t = { u with mills := t.mills, pols := t.pols } ∧ (∀ e, e ∉ dies → t.mill e = u.mill e)
          ∧ (∀ q, q ≠ v.pol → t.pol q = u.pol q) ∧ tilesFlow u t v.pol seq ds []
          ∧ ∀ e ∈ dies, (t.mill e).results = (u.mill e).results
              ∧ (t.mill e).cycles.get 0 22 = tm.cycles f (min 64 (u.mill e).weir) booked
              ∧ ∀ i ∈ bitsOf 16 used.toNat, (t.mill e).runsTo.get 0 i = u.clock + tm.cycles f (min 64 (u.mill e).weir) booked) ∧
  (∀ (m : MillSt) (v : VerifyOp) (kmax vs n booked : Nat), booked ≤ n →
      let l := gemvLoads v.head.fmt v.hidden.cols vs
      let g := rateOf v.head.fmt
      (verifyTiming m v kmax vs).cycles false n booked
        = 256 + ceilDiv l (popCount 16 v.tiles.toNat) * max (64 * g) (g * (kmax + 1)) + 16 + 256
          + (if v.samples then 2 else 1) * ceilDiv ((kmax + 1) * vs) 1024 + 384 + 32 * (kmax + 1)
          + (56 * m.ladder + m.stagger * highest (dealt v.tiles l) - g * 512)) ∧
  (∀ (s : State) (d : Die) (v : VerifyOp), (v.samples = true → exec (.verifyGreedy d v) s = .next s)
      ∧ (v.samples = false → exec (.verifySample d v) s = .next s)) ∧
  (∀ (v : VerifyOp) (kmax acc token : Nat) (fb : Bool), acc ≤ 8 → token < 2 ^ 32 →
      let r := resultRecord v kmax acc token fb
      r.length = 64 ∧ leAt r 0 1 = acc ∧ leAt r 1 1 = acc + 1 ∧ leAt r (8 + 4 * acc) 4 = token) ∧
  ∀ (v : VerifyOp) (k : Nat),
    (greedyPass v k).1 ≤ k ∧ (∀ i, i < (greedyPass v k).1 → v.draft i = argmax (v.logits i))
      ∧ ((greedyPass v k).1 < k → v.draft (greedyPass v k).1 ≠ argmax (v.logits (greedyPass v k).1))

/-- The dies that a change of mode concerns, the tiles that it moves on each, and that it may begin: its tiles belong to one polder and
run nothing (R81, R82). -/
def modeDies (s : State) (d : Die) (m : MillMode) : List Nat :=
  if m = .pair ∨ (s.mill d.val).paired then [d.val, d.val / 2 * 2 + (1 - d.val % 2)] else [d.val]

def modeTiles (s : State) (d : Die) (m : MillMode) (i e : Nat) : List Nat :=
  bitsOf 16 (if e = d.val ∧ (s.mill d.val).ganged = false then changeTiles m i else 0xFFFF : BitVec 16).toNat

def modeMayChange (s : State) (d : Die) (m : MillMode) (i : Nat) : Prop :=
  (m = .quad → i < 4)
    ∧ (m = .solo ∨ ∃ p, p < 64 ∧ ∀ e ∈ (if m = .pair then [d.val, d.val / 2 * 2 + (1 - d.val % 2)] else [d.val]),
        s.ownsTiles p e (changeTiles m i) = true)
    ∧ ∀ e ∈ modeDies s d m, (s.mill e).fenced = false ∧ ∀ k ∈ modeTiles s d m i e,
        s.tileRuns e k = false ∧ (s.mill e).changeTo.get 0 k ≤ s.clock

/-- From R80 to R82, R95, R96: arrays of every mode are formed over 64 cycles on tiles of one polder that run nothing, with
the partner of a PAIR; the Weir's new level takes effect at a boundary of 64 cycles, for operations in progress too; a tile
climbs its ladder a rung at a time and leaves it after the eighth. The model's own choices here are those of log entries 3, 16
and 49. -/
def Obligations.ArraysWeirAndLadderFollow : Prop :=
  (∀ (s : State) (d : Die) (m : MillMode) (i : Nat), modeMayChange s d m i →
      completes (.millModeChange d m i) s fun t =>
        (∀ e ∈ modeDies s d m,
            t.mill e = { (if e = d.val ∨ m = .pair then (s.mill e).setMode m i else (s.mill e).setMode .gang 0) with
              changeTo := (t.mill e).changeTo }
              ∧ ∀ k ∈ modeTiles s d m i e, (t.mill e).changeTo.get 0 k = s.clock + 64)
          ∧ (∀ e, e ∉ modeDies s d m → t.mill e = s.mill e) ∧ t = { s with mills := t.mills }
          ∧ (m = .solo → ∀ k ∈ bitsOf 16 (changeTiles m i).toNat, t.formed d.val k = true)
          ∧ (m = .quad → t.formed d.val (16 + i) = true) ∧ (m = .gang → t.formed d.val 20 = true)
          ∧ (m = .pair → t.formed (d.val / 2 * 2) 21 = true)) ∧
  (∀ (s : State) (d : Die) (m : MillMode) (i k : Nat), k ∈ modeTiles s d m i d.val → s.tileRuns d.val k = true →
      exec (.millModeChange d m i) s = .next s) ∧
  (∀ (s : State) (d : Die), s.clock % 64 = 0 → completes (.weirLevelChange d) s fun t =>
      (t.mill d.val).weir = (s.mill d.val).weirNext
        ∧ (∀ o ∈ (s.mill d.val).ops, o.held = none → o.issuing s.clock = true → ∃ o' ∈ (t.mill d.val).ops,
            o' = { o.rest s.clock with eff := effOf (t.weirOf (o.dies d.val)) o.booked })
        ∧ (∀ e, e + 1 < d.val ∨ d.val + 1 < e → t.mill e = s.mill e) ∧ (∀ e, (t.mill e).results = (s.mill e).results)
        ∧ t = { s with mills := t.mills, pols := t.pols, pwr := t.pwr }) ∧
  (∀ (s : State) (d : Die), s.clock % 64 ≠ 0 → exec (.weirLevelChange d) s = .next s) ∧
  ∀ (s : State) (d : Die) (tile : Fin 16) (r : Nat), (s.mill d.val).rung.get 0 tile.val = r → 0 < r →
    (s.mill d.val).ladderAt.get 0 tile.val + r * (16 * (s.mill d.val).ladder) ≤ s.clock →
    completes (.ladderRung d tile) s fun t =>
      (t.mill d.val).rung.get 0 tile.val = (if r < 8 then r + 1 else 0) ∧ (∀ e, e ≠ d.val → t.mill e = s.mill e)
        ∧ (∀ k, k ≠ tile.val → (t.mill d.val).rung.get 0 k = (s.mill d.val).rung.get 0 k) ∧ t = { s with mills := t.mills }

/-- What an operation of a station needs: a running manifest of its polder that uses the station, a use of it whose streams bring what
it takes, and its record read. -/
def stationReady (s s' : State) (kind d p seq : Nat) (takes : StationUse → Option (List Take)) (key : Option Nat) (poison : Bool)
    (u : StationUse) : Prop :=
  s.stationWorks p d kind = true ∧ (∃ c, s.stationRun p d kind (fun _ => true) = some (seq, c)) ∧ s.pickUse p seq kind d takes poison = some u
    ∧ ∃ bad, s.readRecord (.station kind d p seq) p seq (if key.isSome then u.record else none) (keyBytes key) = (.is bad, s')
        ∧ (bad = true → poison = true)

/-- The elements taken are used, and those made come to the stream of the use, in its format. -/
def elemsFlow (s t : State) (p seq : Nat) (ts : List Take) (out : Option Nat) (give : Nat → List Nat × List Nat) (poison : Bool) : Prop :=
  let w := s.useTakes p seq ts
  ∀ n, t.streamRun p seq n = (match out with
    | none => w
    | some k => w.giveElems p seq (s.streamFmt p seq k) (some k) (give (s.streamFmt p seq k)).1 (give (s.streamFmt p seq k)).2 poison).streamRun p seq n

/-- Only a polder's lanes of a die's stations and its streams have changed. -/
def onlyLanes (s t : State) (d p : Nat) (st : StationSt) : Prop :=
  t = { s with stations := t.stations, pols := t.pols } ∧ t.station d p = st ∧ (∀ q, q ≠ p → t.pol q = s.pol q)
    ∧ ∀ e q, e < 8 → q < 64 → (e, q) ≠ (d, p) → t.station e q = s.station e q

/-- From R37, R38, R99 to R103, R106, R107, R114, R116: Scale and Sieve results stand in the polder's own lanes and go to the
stream of the use; a reduction's first contribution is held and later ones are added in FP32, in each of its formats; NaN
operands give NaN; a Sieve-8 residual is the input less the value sent, and goes back to HBM where the residual is, and where
it is not in HBM the tile is sent poisoned; each touches nothing else. The model's own choices here are those of log entries
3, 14, 18, 19, 33 and 66. -/
def Obligations.StationsCompute : Prop :=
  (∀ (s s' : State) (d : Die) (p : Pol) (seq : Nat) (fn : ScaleFn) (xs : List Lane) (poison : Bool) (u : StationUse),
      let takes := fun u => s.laneTakes p.val seq xs none (if (ScaleFn.key fn).isSome then { u with ins := [] } else u)
      stationReady s s' 1 d.val p.val seq takes (ScaleFn.key fn) poison u → scaleTakes fn xs = true →
      completes (.scaleOp d p fn xs poison) s fun t =>
        onlyLanes s' t d.val p.val { s'.station d.val p.val with scaleOut := scaleCompute fn xs, poison := poison }
          ∧ elemsFlow s' t p.val seq ((takes u).getD []) u.out (fun f => laneCodes f (scaleCompute fn xs)) poison) ∧
  (∀ (s s' : State) (d : Die) (p : Pol) (seq : Nat) (fn : SieveFn) (xs : List Lane) (poison : Bool) (u : StationUse),
      let takes := s.sieveTakesOf p.val seq fn xs
      stationReady s s' 2 d.val p.val seq takes (SieveFn.key fn) poison u → sieveTakes fn xs.length = true →
      completes (.sieveOp d p fn xs poison) s fun t =>
        onlyLanes s' t d.val p.val { s'.station d.val p.val with
            sieveOut := (sieveCompute fn xs).1, sieveScales := (sieveCompute fn xs).2, poison := poison }
          ∧ elemsFlow s' t p.val seq ((takes u).getD []) u.out (sieveGives fn (sieveCompute fn xs)) poison) ∧
  (∀ (s : State) (d : Die) (p : Pol) (seq : Nat) (first : Bool) (fmt : Nat) (elems scales : List Nat) (poison : Bool) (u : StationUse),
      let takes := fun (u : StationUse) => match u.ins with
        | [a] => if s.streamFmt p.val seq a ≠ fmt then none else some [({ stream := a, fmt := fmt, codes := elems, scales := scales } : Take)]
        | _ => none
      let st := s.station d.val p.val
      let c := contribution fmt elems scales
      let sum := if first then c else (st.cooper.zip c).map fun e => fadd e.1 e.2
      let bad := if first then poison else st.cooperPoison || poison
      fmt = 6 ∨ fmt = 7 ∨ (fmt = 9 ∧ elems.length % 32 = 0 ∧ scales.length = elems.length / 32) →
      (first = false → st.cooper.length = elems.length) → stationReady s s 3 d.val p.val seq takes none poison u →
      completes (.cooperReduction d p first fmt elems scales poison) s fun t =>
        onlyLanes s t d.val p.val { st with cooper := sum, cooperPoison := bad }
          ∧ elemsFlow s t p.val seq ((takes u).getD []) u.out (fun f => laneCodes f sum) bad) ∧
  (∀ (s : State) (d : Die) (p : Pol) (fn : ScaleFn) (xs : List Lane) (bad : Bool), s.stationShare p.val d.val 1 = 0 →
      exec (.scaleOp d p fn xs bad) s = .next s) ∧
  (∀ (s v s' : State) (d : Die) (r : Sieve8) (seq : Nat) (c : Schedule) (u : StationUse) (unsound : Bool),
      let base := leAt r.record 16 8 % 2 ^ 45 / 65536 * 65536 + 262144 * r.tile
      let eng := EngineRef.station 2 d.val r.pol seq
      let vas := (List.range (ceilDiv (4 * r.g.length) 1024)).map fun i => base + 1024 * i
      let w := s.residualLines eng r.pol seq vas
      let takes := ((s'.endWalks eng).sieve8Takes r.pol seq r u).getD []
      let dpas := w.1.map fun e => (w.2.2.hbmTarget e.2).getD 0
      s.stationRun r.pol d.val 2 (fun _ => true) = some (seq, c) → s.stationWorks r.pol d.val 2 = true →
      r.record.length = 32 → r.g.length % 32 = 0 → r.g.length ≤ 65536 → r.hop < 256 →
      s.pickUse r.pol seq 2 d.val (s.sieve8Takes r.pol seq r) r.poison = some u → v = w.2.2 →
      anyWait w.1 = false → anyWait w.2.1 = false → (∀ q ∈ v.stationOwes 2 d.val r.pol, 1024 * q.line ∉ dpas) →
      v.readRecord eng r.pol seq u.record r.record = (.is unsound, s') → (unsound = true → r.poison = true) →
      (∀ dpas : List Nat, w.1.map (fun e => v.hbmTarget e.2) = dpas.map some → w.2.1.map (fun e => v.hbmTarget e.2) = dpas.map some →
        let x := s'.endWalks eng
        let struck := dpas.any fun a => x.peekPoison a 1024
        let at_ := fun (i : Nat) => dpas.getD (4 * i / 1024) 0 + 4 * i % 1024
        let res : List Lane := (List.range r.g.length).map fun i => BitVec.ofNat 32 (leNat (x.peek (at_ i) 4))
        let blocks := (List.range (r.g.length / 32)).map fun b =>
          sieve8Block (leAt r.record 0 8) r.tile r.hop (leAt r.record 8 4) (32 * b) ((r.g.drop (32 * b)).take 32) ((res.drop (32 * b)).take 32)
        let out := (blocks.map Prod.snd).flatten
        let bytes := (out.map fun o => leBytes 4 o.residual.toNat).flatten
        let y := (if struck then x.raiseOwn .poisonRead (srcStation 2 d.val) r.pol (addrDetail base 2) else x).stationLines 2 d.val r.pol seq
          (dpas.zipIdx.map fun e => (base + 1024 * e.2, x.boot.moduleId * 2 ^ 48 + e.1, bytesAt 0 ((bytes.drop (1024 * e.2)).take 1024)))
          (struck || r.poison)
        completes (.sieve8Encode d r) s fun t =>
          onlyLanes y t d.val r.pol { y.station d.val r.pol with
              sieveOut := out.map Sieve8Out.code, sieveScales := blocks.map Prod.fst, poison := struck || r.poison }
            ∧ elemsFlow y t r.pol seq takes u.out (fun _ => (out.map Sieve8Out.code, blocks.map Prod.fst)) (struck || r.poison)) ∧
      (∀ e ∈ w.1 ++ w.2.1, v.hbmTarget e.2 = none → e.2 ≠ .fenced → e.2 ≠ .aborted →
        completes (.sieve8Encode d r) s fun t =>
          (t.station d.val r.pol).poison = true ∧ (t.station d.val r.pol).sieveOut.length = r.g.length ∧ t.mem = s'.mem ∧ t.reqs = s'.reqs
            ∧ ∃ x ∈ t.crier.band, x.code = .permission ∧ x.book = r.pol)) ∧
  (∀ (seed tile hop step e0 : Nat) (gs rs : List Lane), ∀ o ∈ (sieve8Block seed tile hop step e0 gs rs).2,
      ∃ v ∈ (gs.zip rs).map fun e => fadd e.1 e.2,
        o.residual = fsub v (toF32 [v.toNat] (mxRead (fmtOf 9) (sieve8Block seed tile hop step e0 gs rs).1 o.code))) ∧
  ∀ x : Lane, fnan x = true → ∀ fn ∈ [ScaleFn.exp, .recip, .rsqrt, .sigmoid, .tanh, .silu, .gelu, .relu, .sqRelu],
    ∀ y ∈ scaleCompute fn [x], fnan y = true

/-- From R32, R111, R112: a raw group reads as its lines stand; a coded one as the decoder gives it; a malformed tag raises
CASK_MALFORMED and its part of the tile arrives poisoned; the encoder stores the shortest coded form that saves a line, or the
raw lines, and the tag, keeping what stands beyond the valid area. The model's own choices here are those of log entries 3 and
20. -/
def Obligations.CaskGroupsAreCodedAndRead : Prop :=
  (∀ (s : State) (d : Die) (p : Pol) (seq stream group : Nat) (sd : StreamDecl) (c : StreamRun) (m : Manifest),
      let b := c.tiles.get {} (group / 9)
      let g := tileGroup sd.fmt (group % 9)
      let n := g.2.2 / 1024
      let arrives := fun (t : State) (bytes : Bytes) (bad : List Nat) => ∃ c', t.streamOf p.val seq stream = some (sd, c', m)
        ∧ c'.tiles.get {} (group / 9) = { b with
            bytes := bytes ++ b.bytes, groups := b.groups ++ [group % 9], outstanding := b.outstanding - 1, poison := b.poison ++ bad }
      let part := (List.range (8 * n)).map (g.2.1 / 128 + ·)
      s.streamOf p.val seq stream = some (sd, c, m) → sd.die = d.val → sd.src = .porter → sd.store = false → b.cask = true →
      (group % 9) ∉ b.groups →
      (b.groupLines g.2.1 n = none → completes (.caskDecode d p seq stream group) s fun t =>
        t = { s with pols := t.pols, seed := t.seed } ∧ ∃ bytes, arrives t bytes part) ∧
      ∀ lines, b.groupLines g.2.1 n = some lines →
        let tag := (s.mark (lines.headD 0)).tag.toNat
        let read := fun (k : Nat) => ((lines.take k).map fun l => s.peek (1024 * l) 1024).flatten
        let struck := fun (k : Nat) => (lines.take k).any fun l => s.peekPoison (1024 * l) 1024
        (tag < 16 → struck n = false → completes (.caskDecode d p seq stream group) s fun t =>
            arrives t (bytesAt g.2.1 (read n)) [] ∧ t = { s with pols := t.pols }) ∧
        (tag < 16 → struck n = true → completes (.caskDecode d p seq stream group) s fun t =>
            arrives t (bytesAt g.2.1 (read n)) (((List.range (8 * n)).filter fun i =>
              s.peekPoison (1024 * lines.getD (i / 8) 0 + 128 * (i % 8)) 128).map (g.2.1 / 128 + ·))
            ∧ t = { s with pols := t.pols, crier := t.crier } ∧ ∃ e, t.crier.band = s.crier.band ++ [e] ∧ e.code = .poisonRead) ∧
        (16 ≤ tag → (tag / 16 ≠ g.1 ∨ tag % 16 = 0 ∨ n ≤ tag % 16
              ∨ (struck (tag % 16) = false ∧ Cask.decode g.1 (s.caskTables g.1) (read (tag % 16)) = none)) →
            completes (.caskDecode d p seq stream group) s fun t => (∃ bytes, arrives t bytes part)
              ∧ t = { s with pols := t.pols, seed := t.seed, crier := t.crier }
              ∧ ∃ e, t.crier.band = s.crier.band ++ [e] ∧ e.code = .caskMalformed) ∧
        (16 ≤ tag → tag / 16 = g.1 → 0 < tag % 16 → tag % 16 < n → struck (tag % 16) = true →
            completes (.caskDecode d p seq stream group) s fun t => (∃ bytes, arrives t bytes part)
              ∧ t = { s with pols := t.pols, seed := t.seed, crier := t.crier }
              ∧ ∃ e, t.crier.band = s.crier.band ++ [e] ∧ e.code = .poisonRead) ∧
        (∀ bytes, 16 ≤ tag → tag / 16 = g.1 → 0 < tag % 16 → tag % 16 < n → struck (tag % 16) = false →
            Cask.decode g.1 (s.caskTables g.1) (read (tag % 16)) = some bytes →
            completes (.caskDecode d p seq stream group) s fun t => arrives t (bytesAt g.2.1 bytes) [] ∧ t = { s with pols := t.pols })) ∧
  (∀ (s : State) (d : Die) (p : Pol) (seq stream group : Nat) (bytes : List Byte) (sd : StreamDecl) (c : StreamRun) (m : Manifest),
      let b := c.tiles.get {} (group / 9)
      let g := tileGroup sd.fmt (group % 9)
      let settled := fun (t : State) => ∃ c', t.streamOf p.val seq stream = some (sd, c', m)
        ∧ c'.tiles.get {} (group / 9) = (c.groupDone (group / 9) (group % 9)).tiles.get {} (group / 9)
        ∧ c'.returning = (c.groupDone (group / 9) (group % 9)).returning
      s.streamOf p.val seq stream = some (sd, c, m) → sd.die = d.val → sd.src ≠ .porter → sd.dst = .porter → b.cask = true →
      (group % 9) ∉ b.groups → bytes = b.groupBytes g.2.1 g.2.2 →
      (b.groupLines g.2.1 (g.2.2 / 1024) = none → completes (.caskEncode d p seq stream group bytes) s fun t =>
        settled t ∧ t = { s with pols := t.pols }) ∧
      ∀ lines, b.groupLines g.2.1 (g.2.2 / 1024) = some lines →
        (lines.all s.lineQuiet = false → exec (.caskEncode d p seq stream group bytes) s = .next s) ∧
        (lines.all s.lineQuiet = true →
          let e := s.groupEdges sd (group / 9) g.2.1 g.1 lines bytes
          let bad := fun (i : Nat) => e.2.1 || b.poison.contains (g.2.1 / 128 + i)
          let f := e.2.2.caskForm g.1 e.1 (!(List.range (g.2.2 / 128)).any bad)
          completes (.caskEncode d p seq stream group bytes) s fun t =>
            settled t ∧ (t.mark (lines.headD 0)).tag = BitVec.ofNat 8 f.2 ∧ t.mem = (e.2.2.pokeGroup p.val lines bad f.1).mem)) ∧
  (∀ (s : State) (kind : Nat) (bytes out : List Byte) (tag : Nat), bytes.length ≤ 16384 → s.caskForm kind bytes true = (out, tag) →
      (tag = 0 → out = bytes) ∧ (tag ≠ 0 → tag / 16 = kind ∧ tag % 16 < bytes.length / 1024
        ∧ ∃ x, Cask.encode kind (s.caskTables kind) bytes = some x ∧ out.length = 1024 * (tag % 16) ∧ ∀ i, i < x.length → out[i]? = x[i]?)) ∧
  ∀ (kind : Nat) (tables : List CodeTable) (bs cs : List Byte), Cask.encode kind tables bs = some cs →
    (∃ n, n < tables.length ∧ Cask.codedWith kind n (tables.getD n []) bs = some cs)
      ∧ ∀ n, n < tables.length → ∀ ds, Cask.codedWith kind n (tables.getD n []) bs = some ds → cs.length ≤ ds.length

/-- From R28, R29, R31, R150, R153, R158, R380: the quays keep their entries in order and stall a writer when full; a stint
carries 32 bytes a slot and what it does not carry slips or is held; a replay costs the link its cycles, and a failed one
poisons. The model's own choices here are those of log entries 3, 23, 36 and 50. -/
def Obligations.CausewayAndQuaysMoveTraffic : Prop :=
  (∀ (s : State) (q : Quay) (e : List Byte), s.boot.stage0 = true → e.length = quayEntry (quayNo q) → s.quayStopped q = false →
      completes (.quayWrite q e) s fun t =>
        t = { s with quays := t.quays } ∧ (∀ n, n ≠ quayNo q → t.quay n = s.quay n)
          ∧ ((s.quay (quayNo q)).entries.length < quayDepth (quayNo q) → (s.quay (quayNo q)).waiting = [] →
              t.quay (quayNo q) = { s.quay (quayNo q) with entries := (s.quay (quayNo q)).entries ++ [.bytes e] })
          ∧ (quayDepth (quayNo q) ≤ (s.quay (quayNo q)).entries.length →
              t.quay (quayNo q) = { s.quay (quayNo q) with waiting := (s.quay (quayNo q)).waiting ++ [.bytes e] })) ∧
  (∀ (s : State) (q : Quay) (e : List Byte), s.boot.stage0 = true → e.length = quayEntry (quayNo q) → s.quayStopped q = true →
      completes (.quayWrite q e) s fun t =>
        t.quay (quayNo q) = { s.quay (quayNo q) with flushed := (s.quay (quayNo q)).flushed + 1 }) ∧
  (∀ (s : State) (q : Quay) (e : QEntry) (r : List QEntry), (∀ n, q ≠ .linkRx n) →
      (inboundQuay (quayNo q) = true → s.quaySlot (quayNo q) ≠ none) → (s.quay (quayNo q)).entries = e :: r →
      completes (.quayRead q) s fun t =>
        t = { s with quays := t.quays } ∧ (t.quay (quayNo q)).entries ++ (t.quay (quayNo q)).waiting = r ++ (s.quay (quayNo q)).waiting
          ∧ ∀ n, n ≠ quayNo q → t.quay n = s.quay n) ∧
  (∀ (s : State) (q : Quay), inboundQuay (quayNo q) = true → s.quaySlot (quayNo q) = none →
      exec (.quayRead q) s = .next s) ∧
  (∀ (s : State) (q : Quay), (s.quay (quayNo q)).entries = [] →
      completes (.quayRead q) s fun t => t = { s with quays := t.quays, pols := t.pols } ∧ (∀ n, t.quay n = s.quay n)
        ∧ ∀ i x, inboundQuay (quayNo q) = true → s.quaySlot (quayNo q) = some i → s.table[i]? = some x → (s.stint i).queued ≠ 0 →
            (t.pol x.pol).emptyLate = satAdd 0xFFFF (s.pol x.pol).emptyLate 1) ∧
  (∀ (s : State) (n : ZPort) (b : List Byte) (r : List QEntry), (s.quay (quayNo (.linkRx n))).entries = .bytes b :: r →
      s.quaySlot (quayNo (.linkRx n)) ≠ none →
      exec (.quayRead (.linkRx n)) s = .next ((s.updQuay (quayNo (.linkRx n)) QuaySt.pop).takeFlit n.val b)) ∧
  (∀ (s : State) (i cycle ready late : Nat) (x : Stint), s.table[i]? = some x →
      s.tide.loaded = true → cycle % 2 ^ x.period = x.start → cycle < 4096 → s.stintIdle x = false →
      let slots := occurrenceSlots x cycle - (s.stint i).moved * x.laneCount
      let next := nextHop s.table x
      let sent := if next.any (fun j => s.slipFull j (s.table.getD j x)) then 0
        else min ((s.stint i).queued + ready) (32 * (slots - min late slots))
      completes (.stintOccurrence i cycle ready late) s fun t =>
        (t.stint i).queued = (s.stint i).queued + ready - sent ∧ (t.stint i).moved = 0
          ∧ (t.stint i).slipped ≤ 256 - s.slippedElsewhere i (enteredBy s.table x)
          ∧ (∀ j ∈ next, (t.stint j).queued = (s.stint j).queued + sent)
          ∧ (t.pol x.pol).emptyLate = satAdd 0xFFFF (s.pol x.pol).emptyLate (min late slots)
          ∧ (∀ j, j ≠ i → next ≠ some j → t.stint j = s.stint j) ∧ t = { s with stints := t.stints, pols := t.pols }) ∧
  (∀ (s : State) (i cycle ready late : Nat) (x : Stint), s.table[i]? = some x →
      s.tide.loaded = true → cycle % 2 ^ x.period = x.start → cycle < 4096 → s.stintIdle x = true →
      completes (.stintOccurrence i cycle ready late) s fun t =>
        (t.stint i).queued = (s.stint i).queued + ready ∧ t = { s with stints := t.stints }) ∧
  (∀ (s : State) (b : Nat) (p : Pol) (hit : Transfer), b < 2088 → (s.bundle b).state = 1 →
      let cost := if b < 2048 then 8 else 16
      completes (.bundleReplay b p true hit) s fun t =>
        t.bundle b = { s.bundle b with replays := satAdd 0xFFFF (s.bundle b).replays 1, failRun := 0 }
          ∧ (∀ j, j ≠ b → t.bundle j = s.bundle j) ∧ (t.pol p).replays = satAdd 0xFFFF (s.pol p).replays 1
          ∧ t = { s with bundles := t.bundles, pols := t.pols, stints := t.stints }
          ∧ (∀ i, s.bundleStint b p = some i → (t.stint i).moved = (s.stint i).moved + cost)
          ∧ (∀ j, s.bundleStint b p ≠ some j → t.stint j = s.stint j)
          ∧ ∀ seq r, (seq, r) ∈ (s.pol p).running → r.m.hard = true →
              (∀ i x, s.bundleStint b p = some i → s.table[i]? = some x → s.strikes x r = true) →
              ∃ r', (seq, r') ∈ (t.pol p).running ∧ r'.uncharged.link = r.uncharged.link + cost ∧ r'.lag = r.lag) ∧
  ∀ (s : State) (b : Nat) (p : Pol) (m : CohMsg), b < 2088 → (s.bundle b).state = 1 → (s.bundle b).failRun < 15 →
    m ∈ s.net → m.data ≠ [] →
    completes (.bundleReplay b p false (.msg m)) s fun t =>
      { m with poison := m.poison ||| touched m.data } ∈ t.net ∧ (t.bundle b).failRun = (s.bundle b).failRun + 1
        ∧ (t.bundle b).state = 1 ∧ t.mem = s.mem ∧ ∃ e, t.crier.band = s.crier.band ++ [e] ∧ e.code = .bondPoison

/-! ## Memory and coherence (chapters 8 and 9) -/

/-- The command of a request: a read leaves the owner a clean copy, anything else takes every copy. -/
def homeCommand (r : HomeReq) : Instr := if readsHome r.op then .homeNoncachingRead r.id else .homeNoncachingWrite r.id

/-- From R163, R173, R175, R176, R180, R194, R195: a request that holds its tracker is performed once no copy stands in its
way; where copies stand, a RECALL goes to each, and the line waits; on a busy line it waits in the queue. A read leaves memory
as it is, a write, an atomic and an add-to-line change the home's copy, in memory where the Granary takes no part. The victim
of a full set of the Granary leaves it, and its dirty sectors go to HBM. A tracker that is free goes to the oldest that waits
for it. The model's own choices here are those of log entries 3, 21, 22, 23 and 62. -/
def Obligations.HomesServeRequests : Prop :=
  (∀ (s : State) (r : HomeReq), s.arrives r.id (fun o => readsHome o = readsHome r.op) r →
      let u := { s with reqs := s.reqs.filter fun x => x.id ≠ r.id }
      let far := recallFor r.op (s.entriesOf r.line)
      (s.busy r.line = false → far.2 = [] → exec (homeCommand r) s = .next (u.perform r)) ∧
      (s.busy r.line = false → far.2 ≠ [] → completes (homeCommand r) s fun t =>
        t = { u with net := t.net, txns := t.txns } ∧ (t.txn r.line).busy = .r ∧ (t.txn r.line).serving = .req r
          ∧ (t.txn r.line).await = names far.2 ∧ (∀ l, l ≠ r.line → t.txn l = s.txn l)
          ∧ t.net = s.net ++ far.2.map fun e => { fromHome .recall r.line e.bin e.pol with st := far.1, tag := r.id % 2 ^ 32 }) ∧
      (s.busy r.line = true → completes (homeCommand r) s fun t =>
        t = { u with txns := t.txns, keels := t.keels } ∧ (t.txn r.line).queue = (s.txn r.line).queue ++ [.req r]
          ∧ (t.keel (homeOf r.line)).maxq
            = max (s.keel (homeOf r.line)).maxq (min 0xFFFF ((s.txn r.line).queue.length + 1)))) ∧
  (∀ (s : State) (r : HomeReq), s.homeFenced r.line = false → s.stackFenced r.line = false → s.granFind r.line = none →
      s.granPart (homeOf r.line) r.pol = none → (s.mark r.line).run = 0 →
      let t := s.perform r
      (∀ need, r.op = .read need → t.mem = s.mem) ∧
      (∀ bs dead poison, r.op = .write bs dead poison → (∀ e ∈ bs, e.1 < 1024) →
        t.mem = memPatch s.mem (r.line * 1024) bs ∧ (∀ a, a / 1024 ≠ r.line → memByte t.mem a = memByte s.mem a)
          ∧ (t.mark r.line).dead = deadAfter (s.mark r.line).dead bs dead
          ∧ (t.mark r.line).poison = poisonAfter (s.mark r.line).poison bs poison ∧ t.gran = s.gran ∧ t.bins = s.bins) ∧
      (∀ op off size v expect poison, r.op = .atomic op off size v expect poison → off + size ≤ 1024 →
        let old := leNat ((List.range size).map fun i => memByte s.mem (r.line * 1024 + off + i))
        t.mem = memPatch s.mem (r.line * 1024) (bytesAt off (leBytes size (atomNew op size old v.toNat expect.toNat)))
          ∧ t.gran = s.gran ∧ t.bins = s.bins) ∧
      (∀ ty addends poison, r.op = .addLine ty addends poison → (∀ a ∈ addends, a.1 < 1024 / atlSize ty) →
        t.mem = addends.foldl (fun m a =>
          let n := atlSize ty
          let old := leNat ((List.range n).map fun i => memByte m (r.line * 1024 + n * a.1 + i))
          memPatch m (r.line * 1024) (bytesAt (n * a.1) (leBytes n (atlAdd ty old a.2)))) s.mem
          ∧ t.gran = s.gran ∧ t.bins = s.bins) ∧
      (∀ g, r.op = .range .discard g → t.mem = s.mem ∧ (t.mark r.line).dead = 0xFF)) ∧
  (∀ (s : State) (k : Keel) (set way : Nat) (g : GranLine), let key := 2 ^ 20 * k.val + 16 * set + way
      (s.keel k.val).fenced = false → s.granVictim k.val set = some key → s.gran.get {} key = g →
      completes (.granaryEviction k set way) s fun t =>
        (t.gran.get {} key).valid = false ∧ (∀ j, j ≠ key → s.granFind g.line = some (key, g) → t.gran.get {} j = s.gran.get {} j)
          ∧ t = { s with mem := t.mem, marks := t.marks, gran := t.gran }
          ∧ (s.stackFenced g.line = true → t.mem = s.mem)
          ∧ (s.stackFenced g.line = false → s.granFind g.line = some (key, g) → ∀ a, memByte t.mem a =
            if a / 1024 = g.line ∧ inMask g.dirty (a % 1024) = true then
              if inMask (g.dirty &&& g.dead &&& g.present &&& (s.mark g.line).run) (a % 1024) = true
                then (s.mark g.line).before.get 0 (a % 1024) else g.data.get 0 (a % 1024)
            else memByte s.mem a)) ∧
  (∀ (s : State) (k : Keel) (set way : Nat), s.granVictim k.val set ≠ some (2 ^ 20 * k.val + 16 * set + way) →
      exec (.granaryEviction k set way) s = .next s) ∧
  (∀ (s : State) (d : Die) (p : Pol) (seq va dpa : Nat) (ty : AtlType) (w : Word) (u : State) (addends : List (Nat × Lane)), va % 1024 = 0 →
      (∀ a ∈ addends, a.1 < 1024 / atlSize ty) → atlFeature s.featureWord ty = true → (s.mill d.val).fenced = false →
      (s.pol p.val).isRunning seq = true → ((s.pol p.val).run seq).suspended = false → s.held (srcStation 3 d.val) p.val = false →
      s.translate (.station 3 d.val p.val seq) p.val va 2 ((s.pol p.val).run seq).m.tag = (.ok w dpa, u) →
      let v := u.endWalks (.station 3 d.val p.val seq)
      let line := dpaOffset dpa / 1024
      let kept := isHbmLine line = true → (v.granPart (homeOf line) p.val).isSome = true
      (v.localMem dpa = true → kept → completes (.addToLine d p seq va ty addends) s fun t =>
          t = (v.updRun p.val seq fun r => { r with stores := r.stores + 1 }).newReq
            (.addLine ty addends (v.station d.val p.val).cooperPoison) line p.val (.station 3 d.val p.val seq) va (eHint w) ∧ t.mem = u.mem) ∧
      (v.localMem dpa = false ∨ ¬kept → completes (.addToLine d p seq va ty addends) s fun t =>
          t = { v with crier := t.crier } ∧ ∃ e, t.crier.band = v.crier.band ++ [e] ∧ e.code = .permission ∧ e.book = p.val)) ∧
  ∀ (s : State) (k : Keel),
    (∀ r, s.reqs.find? (fun r => !r.tracked && homeOf r.line = k.val && s.trackerFree k.val r.pol) = some r →
      completes (.trackerFreed k) s fun t =>
        (t.keel k.val).trackers = (s.keel k.val).trackers ++ [(r.pol, otherAgent)] ∧ t.mem = s.mem
          ∧ t.reqs.map HomeReq.id = s.reqs.map HomeReq.id ∧ ∃ x ∈ t.reqs, x.id = r.id ∧ x.tracked = true) ∧
    (∀ e, s.reqs.find? (fun r => !r.tracked && homeOf r.line = k.val && s.trackerFree k.val r.pol) = none →
      s.bins.find? (fun e => homeOf e.2.line = k.val && !e.2.waits.isEmpty && (isStable e.2.st || e.2.st = .i)
        && s.trackerFree k.val e.2.pol) = some e → exec (.trackerFreed k) s = .next (s.serveWaits e.1))

/-- From R187, R191 to R195, R200: what a home does with the messages of Bins, in each state of the directory: a GETS is
granted E or S, or forwarded to the owner, a GETM is granted M once the sharers are invalidated and the owner has supplied; a
sector is sent or refused; a put lands and is acknowledged; DONE writes the entry; the answers a transaction waits for are
counted off; WB_CROSS makes it wait for the crossing put, FWD_ACK hands its COVER on. The model's own choices here are those
of log entries 22 and 60. -/
def Obligations.HomesAnswerBins : Prop :=
  (∀ (s u : State) (m : CohMsg), s.heard m u → m.type = .gets ∨ m.type = .getm ∨ m.type = .rdsec →
      let c := if m.type = .gets then Instr.gets m else if m.type = .getm then .getm m else .rdsec m
      let es := u.entriesOf m.line
      let others := sharersBut es m
      let mine := fun (e : Entry) => e.bin = m.src ∧ e.pol = m.pol
      let granted := fun (t : State) (need : BitVec 8) (st : Nat) (e : EntSt) =>
        (t.txn m.line).busy = .d ∧ (t.txn m.line).final = [(m.src, m.set, m.way, m.pol, e)] ∧ (t.txn m.line).dones = 1
          ∧ t.bins = s.bins ∧ t.hands = s.hands
          ∧ { fromHome .grant m.line m.src m.pol with st := st, need := need, tag := m.tag } ∈ t.net
          ∧ (need ≠ 0 → ∃ x ∈ t.net, x.type = .dataH ∧ x.dst = m.src ∧ x.need = need ∧ x.tag = m.tag
              ∧ x.data = (maskOffs need).map fun o => (o, t.homeByte m.line o))
      let waits := fun (t : State) (want : BitVec 8) (ns : List (Nat × Nat)) => (t.txn m.line).busy = .a
        ∧ (t.txn m.line).serving = .coh m ∧ (t.txn m.line).want = want ∧ (t.txn m.line).await = ns ∧ t = { u with net := t.net, txns := t.txns }
      let invs := others.map fun e => { fromHome .inv m.line e.bin e.pol with tag := m.tag }
      (u.busy m.line = true → completes c s fun t => (t.txn m.line).queue = (u.txn m.line).queue ++ [.coh m]
        ∧ t = { u with txns := t.txns, keels := t.keels }) ∧
      (u.busy m.line = false →
        (m.type = .gets → es.find? isOwner = none → completes c s fun t =>
          let alone := es = [] ∧ u.isStock m.line = false
          granted t m.need (if alone then 2 else 1) (if alone then .x else .s)) ∧
        (m.type = .gets → ∀ o, es.find? isOwner = some o → completes c s fun t => waits t m.need [(o.bin, o.pol)]
          ∧ (t.txn m.line).sent = [(o.bin, o.pol)]
          ∧ t.net = u.net ++ [{ fromHome .fwdGets m.line o.bin o.pol with req := m.src, need := m.need, tag := m.tag }]) ∧
        (m.type = .getm → others = [] → (∀ o, es.find? isOwner = some o → mine o) → completes c s fun t => granted t (wanted es m) 3 .x) ∧
        (m.type = .getm → others ≠ [] → (∀ o, es.find? isOwner = some o → mine o) → completes c s fun t =>
          waits t (wanted es m) (names others) ∧ t.net = u.net ++ invs) ∧
        (m.type = .getm → ∀ o, es.find? isOwner = some o → ¬mine o → completes c s fun t =>
          waits t (wanted es m) ((o.bin, o.pol) :: names others) ∧ (t.txn m.line).sent = [(o.bin, o.pol)]
          ∧ t.net = u.net ++ { fromHome .fwdGetm m.line o.bin o.pol with req := m.src, need := wanted es m, tag := m.tag } :: invs) ∧
        (m.type = .rdsec → (∀ e ∈ es, ¬mine e) → completes c s fun t =>
          t = { u with net := u.net ++ [{ fromHome .nackRd m.line m.src m.pol with tag := m.tag }] }) ∧
        (m.type = .rdsec → m.need ≠ 0 → (∃ e ∈ es, mine e) → completes c s fun t => ∃ x, t.net = u.net ++ [x] ∧ x.type = .dataH
          ∧ x.dst = m.src ∧ x.need = m.need ∧ x.tag = m.tag ∧ x.data = (maskOffs m.need).map fun o => (o, t.homeByte m.line o)))) ∧
  (∀ (s u : State) (m : CohMsg), s.heard m u → isPut m.type = true →
      let c := if m.type = .pute then Instr.pute m else if m.type = .putm then .putm m else .puto m
      let mine := fun (e : Entry) => e.bin = m.src && e.pol = m.pol && isOwner e
      let crossing := ((u.txn m.line).busy = .a ∨ (u.txn m.line).busy = .r) ∧ (m.src, m.pol) ∈ (u.txn m.line).sent
      (u.busy m.line = false → ∀ e, (u.entriesOf m.line).find? mine = some e → completes c s fun t =>
        t.shadow.get {} e.key = {} ∧ t.bins = s.bins ∧ t.txns = s.txns
          ∧ t.net = u.net ++ [{ fromHome .putAck m.line m.src m.pol with tag := m.tag }]) ∧
      (u.busy m.line = false → (u.entriesOf m.line).find? mine = none → exec c s = .next u) ∧
      (u.busy m.line = true → ¬crossing → completes c s fun t => (t.txn m.line).queue = (u.txn m.line).queue ++ [.coh m]
        ∧ t = { u with txns := t.txns, keels := t.keels }) ∧
      (u.busy m.line = true → crossing → (u.txn m.line).await ≠ [] → ∀ e, (u.entriesOf m.line).find? mine = some e → completes c s fun t =>
        t.shadow.get {} e.key = {} ∧ (t.txn m.line).await = (u.txn m.line).await
          ∧ (t.txn m.line).awaitPut = (u.txn m.line).awaitPut.erase (m.src, m.pol)
          ∧ t.net = u.net ++ [{ fromHome .putAck m.line m.src m.pol with tag := m.tag }])) ∧
  (∀ (s u : State) (m : CohMsg) (bin set way : Nat) (st : EntSt), s.heard m u → m.type = .done → (u.txn m.line).busy = .d →
      (u.txn m.line).final.find? (fun f => f.1 = m.src && f.2.2.2.1 = m.pol) = some (bin, set, way, m.pol, st) →
      let key := shadowKey (homeOf m.line) bin (16 * set + way)
      ((u.txn m.line).dones = 1 → (u.txn m.line).queue = [] → (u.txn m.line).sweep = false → (∀ e ∈ (u.txn m.line).others, e.1 ≠ key) →
        completes (.done m) s fun t =>
          t.busy m.line = false ∧ t.shadow.get {} key = ⟨st, m.line, m.pol⟩ ∧ t.net = u.net ∧ t.mem = s.mem
            ∧ (t.keel (homeOf m.line)).trackers = (u.keel (homeOf m.line)).trackers.erase (m.pol, bin)) ∧
      (1 < (u.txn m.line).dones → completes (.done m) s fun t =>
        (t.txn m.line).busy = .d ∧ (t.txn m.line).dones = (u.txn m.line).dones - 1 ∧ t.shadow.get {} key = ⟨st, m.line, m.pol⟩
          ∧ t.net = u.net ∧ t.mem = s.mem)) ∧
  (∀ (s u : State) (m : CohMsg), s.heard m u → (m.src, m.pol) ∈ (u.txn m.line).await →
      let rest := (u.txn m.line).await.erase (m.src, m.pol)
      rest ≠ [] →
      (m.type = .invAck → completes (.invAck m) s fun t =>
        (t.txn m.line).await = rest ∧ t.net = u.net ∧ t.mem = s.mem) ∧
      (m.type = .fwdAck → completes (.fwdAck m) s fun t =>
        (t.txn m.line).await = rest ∧ (t.txn m.line).cover = m.cover ∧ (t.txn m.line).ownerNew = some m.st
          ∧ (t.txn m.line).sent = (u.txn m.line).sent.erase (m.src, m.pol) ∧ t.net = u.net ∧ t.mem = s.mem) ∧
      (m.type = .wbCross → completes (.wbCross m) s fun t =>
        (t.txn m.line).await = rest ∧ (t.txn m.line).cover = 0 ∧ t.net = u.net ∧ t.mem = s.mem
          ∧ ((m.src, m.pol) ∈ (u.txn m.line).sent → (m.src, m.pol) ∈ (t.txn m.line).awaitPut)) ∧
      (m.type = .recallAck → completes (.recallAck m) s fun t =>
        (t.txn m.line).await = rest ∧ t.net = u.net ∧ (m.data = [] → m.mark = 0 → t.mem = s.mem))) ∧
  (∀ (s u : State) (m g : CohMsg), s.heard m u → m.type = .fwdAck → (u.txn m.line).await = [(m.src, m.pol)] → (u.txn m.line).awaitPut = [] →
      (u.txn m.line).busy = .a → (u.txn m.line).serving = .coh g → g.type = .getm ∨ g.type = .gets → g.line = m.line →
      (u.keel (homeOf m.line)).fencedBins.getLsbD g.src = false →
      completes (.fwdAck m) s fun t =>
        let others := u.othersAfter g { u.txn m.line with ownerNew := some m.st }
        let st := if g.type = .getm then 3 else if (others.all fun e => e.2.st = .none) && !u.isStock m.line then 2 else 1
        (t.txn m.line).busy = .d ∧ (t.txn m.line).dones = 1 ∧ (t.txn m.line).others = others
          ∧ (t.txn m.line).final = [(g.src, g.set, g.way, g.pol, if st = 1 then .s else .x)]
          ∧ ∃ x ∈ t.net, x.type = .grant ∧ x.dst = g.src ∧ x.st = st ∧ x.cover = m.cover ∧ x.tag = g.tag
            ∧ x.need = (u.txn m.line).want &&& ~~~m.cover) ∧
  ∀ (s u : State) (m : CohMsg) (r : HomeReq), s.heard m u → m.type = .recallAck → (u.txn m.line).await = [(m.src, m.pol)] →
    (u.txn m.line).awaitPut = [] → (u.txn m.line).busy = .r → (u.txn m.line).serving = .req r → (u.txn m.line).queue = [] →
    (u.txn m.line).sweep = false → r.line = m.line →
    completes (.recallAck m) s fun t => t.busy m.line = false ∧ t.net = u.net

/-- From R189, R196, R197, R199, R200: what a Bin does: a hit changes no message; a miss evicts a victim or asks the home; a
line that lacks sectors asks for them; GRANT and data are collected, and with the last of them the line is held and DONE goes
out; forwards, invalidations and recalls are answered in every state, unless the line is held. The model's own choices here
are those of log entries 3, 22, 60 and 62. -/
def Obligations.BinsCollectAndAnswer : Prop :=
  (∀ (s : State) (d : Die) (p : Pol) (line : Nat) (need : BitVec 8) (hint : Nat), (s.mill d.val).fenced = false →
      s.homeFenced line = false → (s.region (line * 1024)).isMem = true →
      let w : BinWait := { read := need, hint := hint, gen := (s.pol p.val).gen }
      (∀ key b, s.binFind d.val p.val line = some (key, b) →
        (isStable b.st = true → b.waits = [] → need &&& ~~~b.valid = 0 → completes (.binRead d p line need hint) s fun t =>
          t = { s with bins := t.bins, hands := t.hands, pols := t.pols } ∧ t.bins.get {} key = hitHint s hint b
            ∧ ∀ k, k ≠ key → t.bins.get {} k = s.bins.get {} k) ∧
        (isStable b.st = true → b.waits = [] → need &&& ~~~b.valid &&& ~~~b.rdsec ≠ 0 → s.trackerFree (homeOf b.line) b.pol = true →
          completes (.binRead d p line need hint) s fun t =>
            t.bins.get {} key = { b with waits := [w], rdsec := b.rdsec ||| (need &&& ~~~b.valid &&& ~~~b.rdsec) }
              ∧ ∃ m, t.net = s.net ++ [m] ∧ m.type = .rdsec ∧ m.line = b.line ∧ m.pol = b.pol ∧ m.need = need &&& ~~~b.valid &&& ~~~b.rdsec) ∧
        (isCollecting b.st = true → completes (.binRead d p line need hint) s fun t =>
          t = { s with bins := t.bins } ∧ t.bins.get {} key = { b with waits := b.waits ++ [w] }) ∧
        (isPutWait b.st = true → exec (.binRead d p line need hint) s = .next s)) ∧
      (∀ key, s.binFind d.val p.val line = none → s.binWay d.val p.val line = some key →
        let old := s.bins.get {} key
        old.held = [] →
        (old.st = .i ∨ old.st = .s → s.trackerFree (homeOf line) p.val = true → completes (.binRead d p line need hint) s fun t =>
          (t.bins.get {} key).st = .isAD ∧ (t.bins.get {} key).line = line ∧ (t.bins.get {} key).pol = p.val
            ∧ (t.bins.get {} key).need = need ∧ (t.bins.get {} key).waits = [w] ∧ t.mem = s.mem
            ∧ (∀ k, k ≠ key → t.bins.get {} k = s.bins.get {} k)
            ∧ ∃ m, t.net = s.net ++ [m] ∧ m.type = .gets ∧ m.line = line ∧ m.pol = p.val ∧ m.need = need ∧ m.dst = 8 + homeOf line
              ∧ 16 * m.set + m.way = slotTag key) ∧
        (old.st = .e ∨ old.st = .m ∨ old.st = .o → s.trackerFree (homeOf old.line) old.pol = true →
          completes (.binRead d p line need hint) s fun t =>
            (t.bins.get {} key) = { old with st := (if old.st = .e then .eiA else if old.st = .m then .miA else .oiA) } ∧ t.mem = s.mem
              ∧ ∃ m, t.net = s.net ++ [m] ∧ m.type = (if old.st = .e then .pute else if old.st = .m then .putm else .puto)
                ∧ m.line = old.line ∧ m.pol = old.pol ∧ (old.st = .e → m.data = [])
                ∧ (old.st ≠ .e → m.mark = old.dead ∧ m.data = (maskOffs (old.settle 0xFF).dirty).map fun o => (o, (old.settle 0xFF).data.get 0 o))))) ∧
  (∀ (s u : State) (m : CohMsg) (key : Nat) (b : BinLine), s.binHears m u → u.taggedBin m = some (key, b) →
      let hold := u.clock + 16 * (u.mill (key / 2 ^ 17)).hold
      let done := fun (x : CohMsg) => x.type = .done ∧ x.line = b.line ∧ x.pol = b.pol ∧ x.src = key / 2 ^ 17 ∧ x.tag = slotTag key
      (m.type = .grant → isCollecting b.st = true → m.cover &&& ~~~b.gotF ≠ 0 ∨ m.need &&& ~~~b.got ≠ 0 → completes (.grant m) s fun t =>
        t.bins.get {} key = { b with grant := some (m.st, m.cover, m.need), st := afterGrant b.st } ∧ t.net = u.net) ∧
      (m.type = .grant → isCollecting b.st = true → m.cover &&& ~~~b.gotF = 0 → m.need &&& ~~~b.got = 0 → completes (.grant m) s fun t =>
        (t.bins.get {} key).holdUntil = hold ∧ (t.bins.get {} key).grant = none ∧ t.mem = s.mem ∧ ∃ x ∈ t.net, done x) ∧
      (m.type = .dataH → m.tag < rdsecTag → isCollecting b.st = true → b.grant = none → completes (.dataH m) s fun t =>
        (t.bins.get {} key).got = b.got ||| m.need ∧ (t.bins.get {} key).st = afterData b.st
          ∧ (t.bins.get {} key).buf = patch b.buf m.data ∧ t.net = u.net) ∧
      (m.type = .dataH → m.tag < rdsecTag → b.st = .isD → b.grant = some (1, 0, m.need) → b.waits = [] → b.dirty = 0 →
        completes (.dataH m) s fun t =>
        (t.bins.get {} key).st = .s ∧ (t.bins.get {} key).valid = b.valid ||| m.need ∧ (t.bins.get {} key).grant = none
          ∧ (t.bins.get {} key).data = patch b.data ((patch b.buf m.data).filter fun e => inMask m.need e.1)
          ∧ (t.bins.get {} key).holdUntil = hold ∧ t.mem = s.mem ∧ ∃ x, t.net = u.net ++ [x] ∧ done x) ∧
      (m.type = .dataF → m.tag < rdsecTag → b.st = .imD → b.grant = some (3, m.cover, 0) → b.waits = [] → b.dirty = 0 →
        completes (.dataF m) s fun t =>
        (t.bins.get {} key).st = .m ∧ (t.bins.get {} key).valid = b.valid ||| m.cover
          ∧ (t.bins.get {} key).dirty = m.cover &&& (b.mark ||| (m.mark &&& m.cover)) ∧ ∃ x, t.net = u.net ++ [x] ∧ done x) ∧
      (m.type = .putAck → isPutWait b.st = true → b.held = [] → completes (.putAck m) s fun t =>
        t.bins.get {} key = {} ∧ t.net = u.net ∧ (∀ k, k ≠ key → t.bins.get {} k = s.bins.get {} k)
          ∧ (t.keel (homeOf m.line)).trackers = (u.keel (homeOf m.line)).trackers.erase (b.pol, m.dst)) ∧
      (m.type = .nackRd → b.st = .i → b.rdsec ≠ 0 → completes (.nackRd m) s fun t =>
        (t.bins.get {} key).st = .isAD ∧ (t.bins.get {} key).valid = 0
          ∧ (t.mill m.dst).nacks = satAdd 0xFFFF (u.mill m.dst).nacks 1
          ∧ ∃ x, t.net = u.net ++ [x] ∧ x.type = .gets ∧ x.need = b.rdsec)) ∧
  (∀ (s u : State) (m : CohMsg), s.heard m u → m.type = .dataF → 8 ≤ m.dst → exec (.dataF m) s = .next (u.send { m with dst := m.req })) ∧
  (∀ (s u : State) (m : CohMsg) (key : Nat) (b0 : BinLine), s.binHears m u →
      u.binFind m.dst m.pol m.line = some (key, b0) → u.bins.get {} key = b0 → b0.holdUntil ≤ u.clock ∨ (m.type = .recall ∧ m.st = 0) →
      b0.waits = [] → b0.rdsec = 0 →
      let b := b0.settle 0xFF
      let inOM := b.st = .omAD ∨ b.st = .omA ∨ b.st = .omD
      let inSM := b.st = .smAD ∨ b.st = .smA ∨ b.st = .smD
      let gone := fun (t : State) => t.bins.get {} key = {} ∧ ∀ k, k ≠ key → t.bins.get {} k = s.bins.get {} k
      let becomes := fun (t : State) (x : BinLine) => t.bins.get {} key = x ∧ ∀ k, k ≠ key → t.bins.get {} k = s.bins.get {} k
      let supplied := fun (t : State) (ack : Nat) => t.mem = s.mem ∧ ∃ x y, t.net = u.net ++ [x, y] ∧ x.type = .dataF ∧ x.req = m.req
        ∧ x.cover = ((m.need &&& b.valid) ||| b.dirty) ∧ x.mark = b.dirty ∧ x.data = (maskOffs x.cover).map (fun o => (o, b.data.get 0 o))
        ∧ y.type = .fwdAck ∧ y.st = ack ∧ y.cover = x.cover
      (m.type = .fwdGets → (b.st = .e → completes (.fwdGets m) s fun t => becomes t { b with st := .s } ∧ supplied t 1)
        ∧ (b.st = .m → completes (.fwdGets m) s fun t => becomes t { b with st := .o } ∧ supplied t 4)
        ∧ (b.st = .o ∨ inOM → completes (.fwdGets m) s fun t => becomes t b ∧ supplied t 4)) ∧
      (m.type = .fwdGetm → (b.st = .e ∨ b.st = .m ∨ b.st = .o → completes (.fwdGetm m) s fun t => gone t ∧ supplied t 0)
        ∧ (inOM → completes (.fwdGetm m) s fun t => becomes t (lostCopy b) ∧ supplied t 0)) ∧
      (m.type = .inv → isPutWait b.st = false → completes (.inv m) s fun t => t.mem = s.mem
        ∧ (∃ x, t.net = u.net ++ [x] ∧ x.type = .invAck ∧ x.dst = 8 + homeOf b.line)
        ∧ (b.st = .s → gone t) ∧ (inSM → becomes t (lostCopy b)) ∧ (b.st ≠ .s → ¬inSM → t.bins = s.bins)) ∧
      (m.type = .recall → isPutWait b.st = false → completes (.recall m) s fun t => t.mem = s.mem
        ∧ (∃ x, t.net = u.net ++ [x] ∧ x.type = .recallAck ∧ x.data = if isOwning b.st = true ∧ m.st ≠ 2
            then (maskOffs b.dirty).map (fun o => (o, b.data.get 0 o)) else [])
        ∧ (m.st = 0 → (b.st = .m → becomes t { b with st := .e, dirty := 0 }) ∧ (b.st = .o → becomes t { b with st := .s, dirty := 0 })
            ∧ (inOM → becomes t { b with st := .smAD, dirty := 0 }) ∧ (b.st = .s ∨ b.st = .e ∨ inSM → t.bins = s.bins))
        ∧ (m.st ≠ 0 → (isStable b.st = true → gone t) ∧ (inSM ∨ inOM → becomes t (lostCopy b)))) ∧
      (isPutWait b.st = true → ∀ c, (m.type = .fwdGets ∧ c = .fwdGets m ∨ m.type = .fwdGetm ∧ c = .fwdGetm m ∨ m.type = .recall ∧ c = .recall m) →
        completes c s fun t => t.bins = s.bins ∧ (∃ x, t.net = u.net ++ [x] ∧ x.type = .wbCross ∧ x.dst = 8 + homeOf b.line)
          ∧ (t.mill m.dst).wbCrosses = satAdd 0xFFFF (u.mill m.dst).wbCrosses 1)) ∧
  (∀ (s u : State) (m : CohMsg), s.binHears m u → u.binFind m.dst m.pol m.line = none →
      (m.type = .inv → completes (.inv m) s fun t => t.bins = s.bins ∧ ∃ x, t.net = u.net ++ [x] ∧ x.type = .invAck ∧ x.dst = m.src) ∧
      (m.type = .recall → completes (.recall m) s fun t => t.bins = s.bins ∧ ∃ x, t.net = u.net ++ [x] ∧ x.type = .recallAck ∧ x.dst = m.src)) ∧
  (∀ (s u : State) (m : CohMsg) (key : Nat) (b : BinLine), s.binHears m u →
      u.binFind m.dst m.pol m.line = some (key, b) → u.clock < b.holdUntil →
      ∀ c, (m.type = .fwdGets ∧ c = .fwdGets m ∨ m.type = .fwdGetm ∧ c = .fwdGetm m ∨ m.type = .inv ∧ c = .inv m
          ∨ m.type = .recall ∧ m.st ≠ 0 ∧ c = .recall m) →
        completes c s fun t =>
          t.bins.get {} key = { b with held := b.held ++ [m] } ∧ t.net = u.net
            ∧ (t.mill m.dst).holdWaits = satAdd 0xFFFF (u.mill m.dst).holdWaits 1) ∧
  ∀ (s : State) (d : Die) (p : Pol) (line key : Nat) (b : BinLine), s.binFind d.val p.val line = some (key, b) →
    (s.clock < b.holdUntil → exec (.holdExpiry d line p) s = .next s) ∧
    (b.holdUntil ≤ s.clock → b.held = [] → completes (.holdExpiry d line p) s fun t =>
      t.bins.get {} key = { b with held := [] } ∧ t.net = s.net ∧ t.mem = s.mem) ∧
    (b.holdUntil ≤ s.clock → exec (.holdExpiry d line p) s = .next (b.held.foldl State.answerMsg (s.setBin key { b with held := [] })))

/-- From R319, R400, R401, R404: a read of a register answers its value and clears the RC fields that it covers whole and no
other; a half read returns that half; an offset before its stage or not defined reads 0 and ignores writes; an access of
another size or alignment writes nothing; the low half of ALM_NOW latches the high half. The model's own choices here are
those of log entries 3 and 59. -/
def Obligations.RegistersAreReadAndWritten : Prop :=
  (∀ (s : State) (p : Port) (d : Die), 3 ≤ s.boot.stage → s.boot.stage0 = true →
      let off := 0x2000018 + 0x200000 * d.val
      (completes (.rcFieldRead (.dev p) off 8) s fun t =>
        (t.port p.val).devReply = some (BitVec.ofNat 64 (word [(48, (s.mill d.val).wbCrosses), (32, (s.mill d.val).nacks)
          , (16, (s.mill d.val).holdWaits), (0, (s.mill d.val).hold)]))
        ∧ (t.mill d.val) = { s.mill d.val with wbCrosses := 0, nacks := 0, holdWaits := 0 } ∧ (∀ e, e ≠ d.val → t.mill e = s.mill e)
        ∧ t = { s with mills := t.mills, ports := t.ports }) ∧
      completes (.rcFieldRead (.dev p) off 4) s fun t =>
        (t.mill d.val) = { s.mill d.val with holdWaits := 0 }) ∧
  (∀ (s : State) (src : Src) (off size : Nat), (src = .dev 0 ∨ src = .dev 1 ∨ s.fnUp src.portOf src.fnOf = true) →
      s.srcReaches src = true → accessOk off size = true →
      completes (.rcFieldRead src off size) s fun t => ∃ u, t = u.reply src size (halfOf size (off / 4 % 2) (s.regView src (off / 8 * 8)).value)
        ∧ u = (s.readReg src (off / 8 * 8) size (off / 4 % 2)).2 ∧ u.mem = s.mem ∧ u.crier.band = s.crier.band
        ∧ ((s.regView src (off / 8 * 8)).rc = [] → off / 8 * 8 ≠ offAlmNow → u = s)) ∧
  (∀ (s : State) (src : Src) (off size : Nat), s.fnUp src.portOf src.fnOf = true → src ≠ .dev 0 → src ≠ .dev 1 →
      accessOk off size = true → s.srcReaches src = true → s.offLive src (off / 8 * 8) = false →
      exec (.rcFieldRead src off size) s = .next (s.toHost src.portOf (.completion src.fnOf (leBytes size 0) 0 false))) ∧
  (∀ (s : State) (src : Src) (off size : Nat) (v : Word), s.srcReaches src = true → accessOk off size = true →
      s.offLive src (off / 8 * 8) = false → exec (.registerWrite src off size v) s = .next s) ∧
  (∀ (s : State) (src : Src) (off size : Nat) (v : Word), s.srcReaches src = true → accessOk off size = true →
      exec (.registerWrite src off size v) s = .next (s.writeReg (off / 8 * 8)
        { src := src, size := size, half := if size = 4 then off / 4 % 2 else 0, value := v })) ∧
  (∀ (s : State) (src : Src) (off size : Nat) (v : Word), (size ≠ 4 ∧ size ≠ 8) ∨ off % size ≠ 0 →
      exec (.registerWrite src off size v) s = .next s) ∧
  (∀ (s : State) (p : Port) (v : Word), 2 ≤ s.boot.stage → s.boot.stage0 = true → s.srcReaches (.pf p) = true → v.getLsbD 3 = true →
      ∀ i : StackId, completes (.registerWrite (.pf p) (0x800000 + 16 * i.val) 8 v) s fun t =>
        t.stack i.val = { s.stack i.val with hotSeen := false } ∧ (∀ j, j ≠ i.val → t.stack j = s.stack j)
          ∧ t = { s with hbmStacks := t.hbmStacks }) ∧
  ∀ (s : State) (p : Port), 1 ≤ s.boot.stage → s.boot.stage0 = true → s.fnUp p.val 0 = true → s.srcReaches (.pf p) = true →
    completes (.rcFieldRead (.pf p) offAlmNow 4) s fun t => t.alm.nowHi.get 0 (32 * p.val) = s.alm.now / 2 ^ 32 ∧ t.alm.now = s.alm.now

/-- The command of a range operation. -/
def rangeCommand (p : Pol) (seq i op : Nat) : Instr :=
  match op with
  | 0 => .prefetch p seq i
  | 1 => .flush p seq i
  | 2 => .cleanInvalidate p seq i
  | _ => .discard p seq i

/-- From R177 to R179: a range step reads its record, and a bad one ends its manifest; it takes its lines in ascending order,
each a request of the home or, of PREFETCH at LEVEL 0, a read of the Bin; a granule without the permission is skipped with
PERMISSION, a line that misses waits; the step ends when the last has reached its level. PREFETCH, FLUSH and CLEAN_INVALIDATE
go by the read permission of R179, DISCARD by the write permission. The model's own choices here are those of log entries 3,
24 and 62. -/
def Obligations.RangeStepsRun : Prop :=
  (∀ (s : State) (p : Pol) (seq i op : Nat) (c : Schedule) (d : RangeDecl) (g : RangeRun), op < 4 → (s.pol p).isRunning seq = true →
      ((s.pol p).run seq).suspended = false → s.schedule ((s.pol p).run seq).m.schedule = some c → c.ranges[i]? = some d →
      s.held (srcPorter d.die d.porter) p = false →
      ((s.pol p).run seq).ranges.get {} i = g → g.started = true → g.op = op → g.done = false →
      let eng := EngineRef.porter d.die d.porter p seq (256 + i)
      let src := srcPorter d.die d.porter
      let va := g.base + 1024 * g.lines
      let look := s.translate eng p va (if op = 3 then 4 else 3) ((s.pol p).run seq).m.tag
      (g.lines * 1024 < g.length → look.1 = .wait → exec (rangeCommand p seq i op) s = .next look.2) ∧
      (g.length = 1024 * (g.lines + 1) →
        (∀ w dpa, look.1 = .ok w dpa → look.2.localMem dpa = true → op ≠ 0 ∨ g.level = 1 →
          completes (rangeCommand p seq i op) s fun t =>
            (∃ r, t.reqs = s.reqs ++ [r] ∧ r.op = .range ([RangeOp.prefetch, .flush, .cleanInvalidate, .discard].getD op .flush) (g.level = 1)
              ∧ r.line = dpaOffset dpa / 1024 ∧ r.pol = p.val ∧ r.who = .step p.val seq i
              ∧ r.hint = if g.hint = 0 then eHint w else g.hint) ∧
            ((t.pol p).run seq).ranges.get {} i = { g with lines := g.lines + 1, outstanding := g.outstanding + 1 }
              ∧ t.mem = s.mem ∧ t.gran = s.gran ∧ t.bins = s.bins ∧ ∀ q, q ≠ p.val → t.pol q = s.pol q) ∧
        (∀ w dpa, look.1 = .ok w dpa → look.2.localMem dpa = true → op = 0 → g.level ≠ 1 →
          let line := dpaOffset dpa / 1024
          let u := look.2.binRead d.die p line 0xFF (if g.hint = 0 then eHint w else g.hint)
          ((u.binFind d.die p line).isNone = true → (u.mill d.die).fenced = false → u.homeFenced line = false →
            exec (rangeCommand p seq i op) s = .next look.2) ∧
          ((u.binFind d.die p line).isSome = true → completes (rangeCommand p seq i op) s fun t =>
            (((t.pol p).run seq).ranges.get {} i).lines = g.lines + 1 ∧ t.bins = u.bins ∧ t.net = u.net ∧ t.reqs = u.reqs)) ∧
        (look.1 = .denied → g.refused = none → completes (rangeCommand p seq i op) s fun t =>
          (((t.pol p).run seq).ranges.get {} i).lines = g.lines + 1 ∧ t.reqs = s.reqs ∧ t.mem = s.mem
            ∧ ∃ e ∈ t.crier.band, e.code = .permission ∧ e.book = p.val ∧ e.source = src)) ∧
      (g.level = 1 ∨ op ≠ 0 → g.length ≤ 1024 * g.lines → g.outstanding = 0 → completes (rangeCommand p seq i op) s fun t =>
        ((t.pol p).run seq).ranges.get {} i = { g with done := true } ∧ t.mem = s.mem ∧ t.reqs = s.reqs)) ∧
  (∀ (s : State) (p : Pol) (seq i op : Nat) (c : Schedule) (d : RangeDecl), op < 4 → (s.pol p).isRunning seq = true →
      ((s.pol p).run seq).suspended = false → s.schedule ((s.pol p).run seq).m.schedule = some c → c.ranges[i]? = some d →
      s.held (srcPorter d.die d.porter) p = false →
      (((s.pol p).run seq).ranges.get {} i).started = false →
      let va := (((s.pol p).run seq).m.operands.getD d.operand (0, 0)).2
      let look := s.translate (.porter d.die d.porter p seq (256 + i)) p va 0 ((s.pol p).run seq).m.tag
      (s.mayBegin p seq (.range i) = false → exec (rangeCommand p seq i op) s = .next s) ∧
      (s.mayBegin p seq (.range i) = true → ∀ w dpa, look.1 = .ok w dpa → look.2.localMem dpa = true →
        let raw := look.2.peek (dpaOffset dpa) 32
        (rangeOk raw = false → exec (rangeCommand p seq i op) s = .next (look.2.rejectRun p seq)) ∧
        (rangeOk raw = true → leAt raw 16 1 = op → completes (rangeCommand p seq i op) s fun t =>
          let g := ((t.pol p).run seq).ranges.get {} i
          g.started = true ∧ g.op = op ∧ g.level = leAt raw 17 1 ∧ g.hint = leAt raw 18 1 ∧ g.base = leAt raw 0 8
            ∧ g.length = (if d.limit < leAt raw 8 8 then d.limit / 1024 * 1024 else leAt raw 8 8)
            ∧ (d.limit < leAt raw 8 8 → ∃ e ∈ t.crier.band, e.code = .rangeClipped ∧ e.book = p.val)))) ∧
  (∀ (s : State) (r : HomeReq) (g : Bool), s.homeFenced r.line = false → s.stackFenced r.line = false → r.op = .range .discard g →
      (s.perform r).mem = s.mem ∧ ∀ l, l ≠ r.line → (s.perform r).mark l = s.mark l) ∧
  ∀ raw : List Byte, rangeOk raw = true →
    leAt raw 0 8 % 1024 = 0 ∧ leAt raw 8 8 % 1024 = 0 ∧ 1024 ≤ leAt raw 8 8 ∧ leAt raw 16 1 < 4 ∧ leAt raw 17 1 < 2

/-- From R183, R184, R376, R379: a line leaves and enters HBM as the two entries of its channel group's quay; a refresh
applies the rate of the last reading; readings set temperature, peak and rate, at 105 the stack is fenced; the rate falls back
a row after 1 ms, and the ceiling is lifted after 1 ms. The model's own choices here are those of log entries 3, 23, 36 and
37. -/
def Obligations.StacksServeAndRefresh : Prop :=
  (∀ (s : State) (k : Keel) (line q : Nat), s.hbmLine k.val line = some q →
      let n := 240 + 48 * k.val + q
      (s.quay n).entries.length + 2 ≤ quayDepth n → (s.quay n).waiting = [] →
      completes (.hbmRead k line) s fun t =>
        t = { s with quays := t.quays } ∧ (∀ j, j ≠ n → t.quay j = s.quay j)
          ∧ (t.quay n).entries = (s.quay n).entries
            ++ [.bytes (memRead s.mem (line * 1024) 512), .bytes (memRead s.mem (line * 1024 + 512) 512)]) ∧
  (∀ (s : State) (k : Keel) (line q : Nat), s.hbmLine k.val line = some q →
      quayDepth (240 + 48 * k.val + q) < (s.quay (240 + 48 * k.val + q)).entries.length + 2 → exec (.hbmRead k line) s = .next s) ∧
  (∀ (s : State) (k : Keel) (line q : Nat) (a b : List Byte) (r : List QEntry), s.hbmLine k.val line = some q →
      let n := 48 + 48 * k.val + q
      (s.quay n).entries = .bytes a :: .bytes b :: r → a.length = 512 → b.length = 512 → (s.quay n).waiting = [] →
      completes (.hbmWrite k line) s fun t =>
        (t.quay n).entries = r ∧ (t.mark line).dead = 0 ∧ (t.mark line).poison = 0
          ∧ (∀ i, i < 1024 → memByte t.mem (line * 1024 + i) = (a ++ b).getD i 0)
          ∧ (∀ x, x / 1024 ≠ line → memByte t.mem x = memByte s.mem x)
          ∧ t = { s with mem := t.mem, marks := t.marks, quays := t.quays }) ∧
  (∀ (s : State) (i : StackId) (pc : Fin 64), s.stackUp i.val = true → (s.stack i.val).out.getLsbD pc.val = false →
      completes (.hbmRefresh i pc) s fun t =>
        (t.stack i.val).refreshes = (s.stack i.val).refreshes + 1 ∧ (t.stack i.val).pcRate.get 0 pc.val = (s.stack i.val).rate
          ∧ (∀ j, j ≠ i.val → t.stack j = s.stack j) ∧ t = { s with hbmStacks := t.hbmStacks, pols := t.pols }
          ∧ ((s.stack i.val).pcRate.get 0 pc.val = 0 → t.pols = s.pols)
          ∧ ((s.stack i.val).pcRate.get 0 pc.val ≠ 0 → ∀ p seq r c, p < 64 → (seq, r) ∈ (s.pol p).running → r.m.hard = true →
              s.holdsGroup p (i.val / 6) (8 * (i.val % 6) + pc.val / 8) = true → s.schedule r.m.schedule = some c →
              48 * (i.val / 6) + (8 * (i.val % 6) + pc.val / 8) ∈ c.groups →
              (seq, r.delayed s.clock 80 .refresh) ∈ (t.pol p).running)) ∧
  (∀ (s : State) (i : StackId) (c : Nat), s.stackUp i.val = true → c < 105 →
      let x := s.stack i.val
      let entering := x.rate < 2 ∧ 95 < c
      completes (.stackTempRead i c) s fun t =>
        (t.stack i.val).temp = c ∧ (t.stack i.val).peak = max x.peak c ∧ (t.stack i.val).rate = max x.rate (if 95 < c then 2 else if 85 < c then 1 else 0)
          ∧ (t.stack i.val).hotSeen = (x.hotSeen || decide entering) ∧ (t.stack i.val).fenced = x.fenced ∧ t.mem = s.mem
          ∧ (t.stack i.val).ceiling = (if entering ∨ x.ceiling < 64 then max 16 (48 - 8 * (c - 98)) else 64)
          ∧ (∀ j, j ≠ i.val → t.stack j = s.stack j) ∧ (¬entering → t.crier = s.crier)
          ∧ (entering → ∃ x y, t.crier.band = s.crier.band ++ [x, y] ∧ x.code = .stackHot ∧ x.book = 0 ∧ y.code = .stackHot ∧ y.book = 1)) ∧
  (∀ (s : State) (i : StackId) (c : Nat), s.stackUp i.val = true → 105 ≤ c →
      completes (.stackTempRead i c) s fun t => (t.stack i.val).fenced = true) ∧
  (∀ (s : State) (i : StackId) (c : Nat), s.stackUp i.val = false → (s.stack i.val).trained = true →
      completes (.stackTempRead i c) s fun t => t = { s with hbmStacks := t.hbmStacks }
        ∧ t.stack i.val = { s.stack i.val with temp := min 255 c, peak := max (s.stack i.val).peak (min 255 c) }) ∧
  (∀ (s : State) (i : StackId) (a : Nat), s.stackUp i.val = true →
      ((s.stack i.val).rate = 2 → (s.stack i.val).coolSince = some a → a + 1000000 ≤ s.clock →
        completes (.refreshRateFallback i) s fun t =>
          t.stack i.val = { s.stack i.val with rate := 1 } ∧ t = { s with hbmStacks := t.hbmStacks }) ∧
      ((s.stack i.val).rate = 1 → (s.stack i.val).lowSince = some a → a + 1000000 ≤ s.clock →
        completes (.refreshRateFallback i) s fun t =>
          t.stack i.val = { s.stack i.val with rate := 0 } ∧ t = { s with hbmStacks := t.hbmStacks })) ∧
  ∀ (s : State) (i : StackId) (a : Nat), (s.stack i.val).ceiling < 64 → (s.stack i.val).coolSince = some a →
    a + 1000000 ≤ s.clock → completes (.stackCeilingRelease i) s fun t =>
      t.stack i.val = { s.stack i.val with ceiling := 64 } ∧ (∀ j, j ≠ i.val → t.stack j = s.stack j) ∧ t.mem = s.mem

/-! ## Translation (chapter 11) -/

/-- From R229, R232 to R236, R239, R242, R299: a walk reads its entries and ends ready, its caches filled from a valid span or
granule, or as a miss, or finds its Keel fenced; the miss opens a table entry with a serial of its own, joins the open one, or
waits; TRANSLATION_MISS and JOINED go to the supervisor; a freed walker or table entry is taken by the oldest that waits. A
translation is FRAME x 2^21 plus the offset. The model's own choices here are those of log entries 24 and 25. -/
def Obligations.WalksAndMissesProceed : Prop :=
  (∀ (s : State) (w : Walk), s.land.walks.find? (fun x => x.id = w.id && x.st = .walking) = some w →
      let i := w.va / 2 ^ 21
      let u := s.walk w.id
      let after := fun (t : State) (st : WalkSt) => { w with st := st } ∈ t.land.walks ∧ t = { s with land := t.land }
        ∧ t.land.entries = s.land.entries ∧ t.land.misses = s.land.misses
      let found := fun (span : Bool) => after u .ready ∧ ∃ e, u.cached w.engine w.pol i = some e ∧ e.serves w.pol i = true
        ∧ ((s.land.caches = [] → e.span = span ∧ e.value = s.landEntry (if span then spanBase i else i)))
      (∀ y, s.land.walks.find? (fun x => x.id = w.id) = some y →
        exec (.landWalk w.id) s = .next (match recordPolder y.engine with
          | some p => u.retryRecords p
          | none => u)) ∧
      (s.isLate w.pol w.gen w.orphan = true → (∀ x ∈ u.land.walks, x.id ≠ w.id) ∧ u.land.entries = s.land.entries) ∧
      (s.isLate w.pol w.gen w.orphan = false → (s.keel (entryKeel i)).fenced = true → after u .fencedKeel) ∧
      (s.isLate w.pol w.gen w.orphan = false → (s.keel (entryKeel i)).fenced = false →
        let eb := s.landEntry (spanBase i)
        (eValid eb = true → eSpan eb = true → found true) ∧
        (¬(eValid eb = true ∧ eSpan eb = true) → eValid (s.landEntry i) = true → found false) ∧
        (¬(eValid eb = true ∧ eSpan eb = true) → eValid (s.landEntry i) = false → after u .missSent))) ∧
  (∀ (s : State) (w : Walk) (port : Nat), s.land.walks.find? (fun x => x.id = w.id && x.st = .missSent) = some w → s.held srcMiss w.pol = false →
      s.supOf w.pol = some port →
      (s.openMiss w.pol (w.va / 2 ^ 21) = none → s.missNow w.pol = true → completes (.translationMiss w.id) s fun t =>
        ∃ n e, t.land.misses = s.land.misses ++ [{ pol := w.pol, index := w.va / 2 ^ 21, serial := n }]
          ∧ { w with st := .waiting n } ∈ t.land.walks ∧ t.crier.band = s.crier.band ++ [e]
          ∧ e.code = .translationMiss ∧ e.book = port ∧ e.detail = missDetail w n) ∧
      (∀ m, s.openMiss w.pol (w.va / 2 ^ 21) = some m → completes (.translationMiss w.id) s fun t =>
        t.land.misses = s.land.misses ∧ { w with st := .waiting m.serial } ∈ t.land.walks
          ∧ (t.landRegs port).joins = satAdd 0xFFFF (s.landRegs port).joins 1
          ∧ ∃ e, t.crier.band = s.crier.band ++ [e] ∧ e.code = .joined ∧ e.book = port) ∧
      (s.openMiss w.pol (w.va / 2 ^ 21) = none → s.missNow w.pol = false → completes (.translationMiss w.id) s fun t =>
        t.land.walks = (s.land.walks.filter fun x => x.id ≠ w.id) ++ [{ w with st := .noEntry }] ∧ t.land.misses = s.land.misses
          ∧ t = { s with land := t.land })) ∧
  (∀ (s : State) (w : Walk), s.land.walks.find? (fun w => w.st = .noEntry && !s.held srcMiss w.pol
        && ((s.openMiss w.pol (w.va / 2 ^ 21)).isSome || s.missRoom w.pol)) = some w →
      (s.openMiss w.pol (w.va / 2 ^ 21) = none → completes .missEntryFreed s fun t =>
        ∃ n, t.land.misses = s.land.misses ++ [{ pol := w.pol, index := w.va / 2 ^ 21, serial := n }]
          ∧ { w with st := .waiting n } ∈ t.land.walks ∧ t.mem = s.mem) ∧
      (∀ m, s.openMiss w.pol (w.va / 2 ^ 21) = some m → completes .missEntryFreed s fun t =>
        t.land.misses = s.land.misses ∧ { w with st := .waiting m.serial } ∈ t.land.walks)) ∧
  (∀ (s : State) (k : Keel) (w : Walk), s.land.walks.find? (fun w => w.st = .noWalker && w.keel = k.val && s.walkerFree k.val w.pol) = some w →
      completes (.walkerFreed k) s fun t =>
        { w with st := .walking } ∈ t.land.walks ∧ t = { s with land := t.land } ∧ t.land.walks.length = s.land.walks.length) ∧
  ∀ (e : Word) (va : Nat),
    (eSpan e = false → entryTarget e va = field e.toNat 9 37 * 2 ^ 21 + va % 2 ^ 21)
      ∧ (eSpan e = true → entryTarget e va = field e.toNat 9 37 * 2 ^ 21 + va % 2 ^ 30)

/-- From R237, R238, R241, R405: an edit that a check refuses leaves the entry and gives its status; an accepted one writes
the entry, is BUSY, and no cache holds the index; it completes when nothing translated with the old value is left; a resume of
an unknown serial is counted as stray, one of an open miss closes it, and its walks go on or are refused; LOCK holds
LAND_HWIN. The model's own choices here are those of log entries 3 and 32. -/
def Obligations.EditsAndResumesAct : Prop :=
  (∀ (s : State) (a : RegAcc) (port : Nat), s.pfWrites a offLandCtl = some port → a.bit 0 = true → (s.landRegs port).busy = false →
      let r := s.landRegs port
      (s.editStatus port r.idx r.val ≠ 0 → completes (.landEdit a) s fun t =>
        t = { s with land := t.land } ∧ t.land.entries = s.land.entries ∧ t.land.caches = s.land.caches
          ∧ (t.landRegs port) = { r with status := s.editStatus port r.idx r.val }) ∧
      (s.editStatus port r.idx r.val = 0 → completes (.landEdit a) s fun t =>
        t.landEntry r.idx = r.val ∧ (∀ i, i ≠ r.idx → t.landEntry i = s.landEntry i) ∧ (t.landRegs port).busy = true
          ∧ t = { s with land := t.land } ∧ t.land.walks = s.land.walks
          ∧ ∀ c, ∀ e ∈ t.land.caches.get [] c, e.index ≠ r.idx)) ∧
  (∀ (s : State) (a : RegAcc) (port : Nat), s.pfWrites a offLandCtl = some port → (s.landRegs port).busy = true →
      exec (.landEdit a) s = .next s) ∧
  (∀ (s : State) (port : Nat) (i : Nat) (v : Word),
      (i < (s.share port).1 ∨ (s.share port).2 ≤ i ∨ i = 0 → s.editStatus port i v = 1) ∧
      (s.editStatus port i v = 0 → v ≠ 0 → (s.pol (ePol v)).port = port ∧ eCoding v < 2)) ∧
  (∀ (s : State) (port : Port), (s.landRegs port.val).busy = true → s.editPending port.val (s.landRegs port.val).old = false →
      completes (.landEditComplete port) s fun t =>
        (t.landRegs port.val).busy = false ∧ (t.landRegs port.val).status = 0 ∧ t.land.entries = s.land.entries
          ∧ t = { s with land := t.land }) ∧
  (∀ (s : State) (port : Port), s.editPending port.val (s.landRegs port.val).old = true ∨ (s.landRegs port.val).busy = false →
      exec (.landEditComplete port) s = .next s) ∧
  (∀ (s : State) (a : RegAcc) (port : Nat), s.pfWrites a offLandResume = some port → a.hits 0 = true →
      s.land.misses.find? (fun m => m.serial = field a.data 0 16 && (s.pol m.pol).port = port) = none →
      (a.bit 16 = false → completes (.landResume a) s fun t =>
        (t.landRegs port).stray = satAdd 0xFFFF (s.landRegs port).stray 1 ∧ t.land.misses = s.land.misses
          ∧ t.land.walks = s.land.walks ∧ t = { s with land := t.land })) ∧
  (∀ (s : State) (a : RegAcc) (port : Nat) (m : Miss), s.pfWrites a offLandResume = some port → a.hits 0 = true →
      s.land.misses.find? (fun m => m.serial = field a.data 0 16 && (s.pol m.pol).port = port) = some m →
      (a.bit 16 = false → completes (.landResume a) s fun t =>
        t.land.misses = (s.land.misses.filter fun x => x.serial ≠ m.serial) ∧ t = { s with land := t.land }
          ∧ ∀ w ∈ s.land.walks, w.st = .waiting m.serial → ∃ x ∈ t.land.walks, x.id = w.id ∧ (x.st = .walking ∨ x.st = .noWalker)) ∧
      (a.bit 16 = true →
        let u := s.landResumeWrite port a
        exec (.landAbort a) s = .next ((List.range 64).foldl (fun s p => s.retryRecords p) u)
          ∧ u.land.misses = (s.land.misses.filter fun x => x.serial ≠ m.serial)
          ∧ (u.landRegs port).aborts = satAdd 0xFFFF (s.landRegs port).aborts 1
          ∧ ∀ w ∈ s.land.walks, w.st = .waiting m.serial → (∀ x ∈ s.land.walks, x.id = w.id → x = w) →
              { w with st := .aborted } ∈ u.land.walks
                ∧ ∃ e ∈ u.crier.band, e.code = .permission ∧ e.book = w.pol ∧ e.detail = slice (addrDetail w.va (engineBytes w.engine).1) 0 16)) ∧
  (∀ (s : State) (a : RegAcc) (port : Nat), s.pfWrites a offLandResume = some port →
      (a.bit 16 = true → exec (.landResume a) s = .next s) ∧ (a.bit 16 = false → exec (.landAbort a) s = .next s)) ∧
  ∀ (s : State) (a : RegAcc) (port : Nat), s.pfWrites a offLandHwin = some port → a.bit 0 = true →
    ((s.landRegs port).lock = true → completes (.landHwinLock a) s fun t => t.landRegs port = s.landRegs port ∧ t.mem = s.mem) ∧
    ((s.landRegs port).lock = false → completes (.landHwinLock a) s fun t =>
      (t.landRegs port).lock = true ∧ (t.landRegs port).hwin = 2 ^ 21 * a.fld 21 43 ((s.landRegs port).hwin / 2 ^ 21)
        ∧ (a.size = 8 → a.half = 0 → (t.landRegs port).hwin = 2 ^ 21 * field a.value.toNat 21 43) ∧ t = { s with land := t.land })

/-! ## Host interface and polders (chapters 13 and 14) -/

/-- From R282 to R286: a host's access to memory that passes its checks is made of its runs; a read of a resting line is
answered with the bytes of the home, a write changes them and no other byte; a refused one is answered with Unsupported
Request and raises PERMISSION, one that meets what is fenced is answered with poison and raises FENCED_TARGET; the module's
own reads and writes of a host's window become requests on a tag; completions gather on their tag, one without a read is
unexpected, and a timeout is counted and raised. The model's own choices here are those of log entries 21, 35 and 41. -/
def Obligations.HostTrafficCompletes : Prop :=
  (∀ (s : State) (src : Src) (off len p : Nat), s.fnPolder src.portOf src.fnOf = some p → src ≠ .dev 0 → src ≠ .dev 1 →
      s.fnUp src.portOf src.fnOf = true → len ≠ 0 → s.held (srcBar2 src.portOf) p = false →
      s.fnReaches src.portOf src.fnOf = true → 2 ≤ s.boot.stage →
      let port := src.portOf
      let fn := src.fnOf
      let n := hostOutNo port
      let v := s.bar2Verdict port fn p 0 off len
      (∀ segs, v = .ok segs → exec (.hostBar2Read src off len) s
        = .next ((if fn = 0 then s else s.wharfFill p off len).hostFetch port fn p off segs)) ∧
      ((s.quay n).waiting = [] → (s.quay n).entries.length < 128 → off % 128 + len ≤ 128 →
        let answers := fun (t : State) (bs : List Byte) (status : Nat) (ep : Bool) =>
          (t.quay n).entries = (s.quay n).entries ++ [.host (.completion fn bs status ep)] ∧ t.mem = s.mem
        let tells := fun (t : State) (c : Code) => ∃ e, t.crier.band = s.crier.band ++ [e] ∧ e.code = c ∧ e.book = p
        (∀ a h, v = .ok [⟨a, len, h⟩] → dpaModule a = s.boot.moduleId → (∀ q w, s.region (dpaOffset a) ≠ .host q w) →
          dpaOffset a % 1024 + len ≤ 1024 → s.restingLine p (dpaOffset a / 1024) → (s.port port).bar2 = [] →
          completes (.hostBar2Read src off len) s fun t =>
            answers t ((List.range len).map fun i => memByte s.mem (dpaOffset a + i)) 0 false ∧ t.crier = s.crier) ∧
        (v = .undecoded → completes (.hostBar2Read src off len) s fun t => answers t [] 1 false ∧ t.crier = s.crier) ∧
        (v = .refused → completes (.hostBar2Read src off len) s fun t => answers t [] 1 false ∧ tells t .permission) ∧
        (v = .reserved → completes (.hostBar2Read src off len) s fun t =>
          ∃ bs, bs.length = len ∧ answers t bs 0 true ∧ tells t .permission) ∧
        (v = .fenced → completes (.hostBar2Read src off len) s fun t =>
          ∃ bs, bs.length = len ∧ answers t bs 0 true ∧ tells t .fencedTarget))) ∧
  (∀ (s : State) (src : Src) (off p : Nat) (data : List Byte) (ep : Bool), s.fnPolder src.portOf src.fnOf = some p → src ≠ .dev 0 →
      src ≠ .dev 1 → s.fnReaches src.portOf src.fnOf = true → data ≠ [] → 2 ≤ s.boot.stage →
      s.held (srcBar2 src.portOf) p = false →
      let port := src.portOf
      let fn := src.fnOf
      let u := if ep then s.countAdvisory port fn else s
      let v := u.bar2Verdict port fn p 1 off data.length
      (∀ segs, v = .ok segs → exec (.hostBar2Write src off data ep) s
        = .next ((if fn = 0 then u else u.wharfFill p off data.length).hostStore port fn p off segs data ep)) ∧
      (∀ a h, v = .ok [⟨a, data.length, h⟩] → ep = false → dpaModule a = s.boot.moduleId → (∀ q w, s.region (dpaOffset a) ≠ .host q w) →
        dpaOffset a % 1024 + data.length ≤ 1024 → s.restingLine p (dpaOffset a / 1024) → (s.port port).bar2 = [] →
        completes (.hostBar2Write src off data ep) s fun t =>
          t.mem = memPatch s.mem (dpaOffset a / 1024 * 1024) ((List.range data.length).map fun i =>
              (dpaOffset a % 1024 + i, data.getD i 0))
            ∧ (∀ x, x < dpaOffset a ∨ dpaOffset a + data.length ≤ x → memByte t.mem x = memByte s.mem x)
            ∧ t.quays = s.quays ∧ t.crier = s.crier) ∧
      (v = .undecoded → exec (.hostBar2Write src off data ep) s = .next u) ∧
      (∀ c : Code, v = .refused ∧ c = .permission ∨ v = .reserved ∧ c = .permission ∨ v = .fenced ∧ c = .fencedTarget →
        completes (.hostBar2Write src off data ep) s fun t =>
          t.mem = s.mem ∧ t.quays = s.quays ∧ ∃ e, t.crier.band = s.crier.band ++ [e] ∧ e.code = c ∧ e.book = p)) ∧
  (∀ (s : State) (port : Port) (p : Pol) (off len : Nat) (who : Requester), (s.pol p).port = port.val → len ≠ 0 →
      s.held (s.whoSource who).1 p = false → off % 1024 + len ≤ 1024 → off < 2 ^ 40 → s.hostDown port = false →
      (s.port port).reads = [] → len ≤ 128 →
      ((s.landRegs port).hwin + off) % 1024 + len ≤ 1024 → (s.landRegs port).hwin + off + len ≤ 2 ^ 64 →
      (s.quay (hostOutNo port)).waiting = [] → (s.quay (hostOutNo port)).entries.length < 128 →
      completes (.hostWindowRead port p off len who) s fun t =>
        ∃ r, (t.port port).reads = [r] ∧ r.pol = p.val ∧ r.len = len ∧ r.addr = (s.landRegs port).hwin + off
          ∧ r.fn = (s.pol p).vf ∧ r.who = who
          ∧ (t.quay (hostOutNo port)).entries = (s.quay (hostOutNo port)).entries ++ [.host (.memRead r.fn r.addr len r.tag)]
          ∧ t.mem = s.mem ∧ t.crier = s.crier) ∧
  (∀ (s : State) (port : Port) (p : Pol) (off : Nat) (data : List Byte) (poison : Bool), (s.pol p).port = port.val → data ≠ [] →
      s.held srcSeq p = false → off < 2 ^ 40 →
      (s.hostDown port = false → data.length ≤ 128 → ((s.landRegs port).hwin + off) % 4096 + data.length ≤ 4096 →
        (s.landRegs port).hwin + off + data.length ≤ 2 ^ 64 →
        (s.quay (hostOutNo port)).waiting = [] → (s.quay (hostOutNo port)).entries.length < 128 →
        completes (.hostWindowWrite port p off data poison) s fun t =>
          ∃ m, (t.quay (hostOutNo port)).entries = (s.quay (hostOutNo port)).entries
            ++ [.host (.memWrite (s.pol p).vf ((s.landRegs port).hwin + off) data poison m)] ∧ t = { s with quays := t.quays }) ∧
      (s.hostDown port = true → completes (.hostWindowWrite port p off data poison) s fun t =>
          (∃ e, t.crier.band = s.crier.band ++ [e] ∧ e.code = .fencedTarget ∧ e.book = p.val) ∧ t.quays = s.quays)) ∧
  (∀ (s : State) (port : Port) (tag : Nat) (data : List Byte), s.hostDown port = false → s.boot.stage0 = true →
      (∀ r l, (s.port port).reads = r :: l → r.tag = tag → r.got.length + data.length < r.len →
        (∀ x ∈ l, x.tag ≠ tag) → completes (.hostCompletion port tag data 0 false) s fun t =>
          (t.port port).reads = { r with got := r.got ++ data.map fun b => (b, false) } :: l ∧ t = { s with ports := t.ports }) ∧
      (∀ r l, (s.port port).reads = r :: l → r.tag = tag → r.len ≤ r.got.length + data.length →
        exec (.hostCompletion port tag data 0 false) s = .next (((s.dropRead port tag).deliverRead r.who r.pol r.gen r.orphan r.va
          r.off ((r.got ++ data.map fun b => (b, false)).take r.len)).nextRead port)) ∧
      ((s.port port).reads = [] → completes (.hostCompletion port tag data 0 false) s fun t =>
        ((t.port port).fn 0).aer.getLsbD 16 = true ∧ t = { s with ports := t.ports })) ∧
  ∀ (s : State) (port : Port) (r : HostRead), (s.port port).reads = [r] → r.who = .none → (s.port port).waitingReads = [] →
    r.since + timeoutLeast (field (s.devCtl2 port) 0 4) ≤ s.clock →
    completes (.hostTimeout port r.tag) s fun t =>
      (t.port port).reads = [] ∧ (t.port port).timeouts = satAdd 0xFFFF (s.port port).timeouts 1
        ∧ ∃ e, t.crier.band = s.crier.band ++ [e] ∧ e.code = .hostTimeout ∧ e.book = r.pol

/-- What every reset that reaches a port's PF leaves (R290, R291, R322, R334). -/
def portIsReset (s t : State) (port : Nat) (kind : ResetKind) : Prop :=
  (t.port port).inReset = true ∧ (t.port port).resetKind = some kind ∧ (t.port port).resets = satAdd 0xFFFF (s.port port).resets 1
    ∧ (t.port port).confirmed = 0 ∧ (t.port port).accepted = false ∧ (t.port port).vfEnable = false ∧ (t.port port).fns = []
    ∧ (t.load port).consent = false ∧ t.boot.stage = s.boot.stage ∧ t.img = s.img ∧ t.nv = s.nv
    ∧ (∀ p, p < 64 → (s.pol p).port = port → (t.pol p).gen = ((s.pol p).gen + 1) % 256 ∧ (t.pol p).enable = false)
    ∧ ∀ p, p < 64 → (s.pol p).port ≠ port → (t.pol p).gen = (s.pol p).gen

/-- From R274, R275, R290 to R293: the reset events of a port and its functions, their completion, and the link. The model's
own choices here are those of log entries 9 and 40. -/
def Obligations.PortsResetAndTrain : Prop :=
  (∀ (s : State) (port : Port), s.boot.stage0 = true → s.boot.loading ≠ some port → (s.port port).inReset = false →
      ((s.port port).rate ≠ 0 → completes (.portReset port .hotReset) s fun t =>
        portIsReset s t port .hotReset ∧ (t.port port).rate = 0) ∧
      ((s.port port).rate ≠ 0 → completes (.portReset port .dlDown) s fun t =>
        portIsReset s t port .dlDown ∧ (t.port port).rate = 0) ∧
      ((s.port port).perst = true → completes (.portReset port .perst) s fun t =>
        portIsReset s t port .perst ∧ (t.port port).rate = 0 ∧ (t.port port).perst = false) ∧
      ((s.port port).perst = true → completes (.refclkLoss port) s fun t =>
        portIsReset s t port .dlDown ∧ (t.port port).refclk = false) ∧
      (s.fnUp port 0 = true → completes (.pfFlr port) s fun t =>
        portIsReset s t port .pfFlr ∧ (t.port port).rate = (s.port port).rate)) ∧
  (∀ (s : State) (port : Port), s.boot.stage0 = true → (s.port port).rate ≠ 0 → (s.port port).inReset = true →
      (s.port port).resetKind ≠ some .pfFlr → completes (.portReset port .hotReset) s fun t =>
        (t.port port).resets = satAdd 0xFFFF (s.port port).resets 1 ∧ t = { s with ports := t.ports }) ∧
  (∀ (s : State) (port : Port) (n : Fin 32) (p : Nat), s.boot.stage0 = true → (s.port port).rate ≠ 0 → n ≠ 0 →
      s.vfLive port n = true → (s.port port).inReset = false → (s.port port).vfResets.contains n.val = false →
      s.fnPolder port n = some p →
      completes (.vfFlr port n) s fun t =>
        (t.port port).vfResets = (s.port port).vfResets ++ [n.val] ∧ (t.pol p).gen = ((s.pol p).gen + 1) % 256
          ∧ (t.port port).resets = satAdd 0xFFFF (s.port port).resets 1
          ∧ (t.pol p).state = (if (s.pol p).state = 3 then 4 else (s.pol p).state) ∧ (t.pol p).enable = false) ∧
  (∀ (s : State) (port : Port) (k : ResetKind), (s.port port).inReset = true → (s.port port).resetKind = some k →
      s.boot.loading ≠ some port → completes (.resetComplete port) s fun t =>
        (t.port port).inReset = false ∧ t.pols = s.pols ∧ t.mem = s.mem
          ∧ ∃ e, t.crier.band = s.crier.band ++ [e] ∧ e.code = .peerPortReset ∧ e.book = 1 - port.val) ∧
  (∀ (s : State) (port : Port) (n : Nat) (l : List Nat), (s.port port).inReset = false → (s.port port).vfResets = n :: l →
      completes (.resetComplete port) s fun t =>
        (t.port port).vfResets = l ∧ t.pols = s.pols ∧ t.mem = s.mem
          ∧ ∃ e, t.crier.band = s.crier.band ++ [e] ∧ e.code = .peerPortReset ∧ e.book = 1 - port.val) ∧
  (∀ (s : State) (port : Port), completes (.perstRelease port) s fun t =>
      t.port port = { s.port port with perst := true } ∧ t = { s with ports := t.ports }) ∧
  (∀ (s : State) (port : Port) (rate width : Nat) (flit : Bool), s.boot.stage0 = true → (s.port port).perst = true →
      (s.port port).inReset = false → (s.port port).rate = 0 → 1 ≤ rate → rate ≤ 6 → width ∈ [1, 2, 4, 8] →
      flit = true ∨ rate ≠ 6 → completes (.pcieLinkUp port rate width flit) s fun t =>
        (t.port port).rate = rate ∧ (t.port port).width = width ∧ (t.port port).flit = flit ∧ t = { s with ports := t.ports }) ∧
  ∀ (s : State) (port : Port) (width : Nat), (s.port port).rate ≠ 0 → (s.port port).flit = true → width ∈ [1, 2, 4, 8] →
    width ≤ (s.port port).fullWidth → completes (.l0pWidthChange port width) s fun t =>
      (t.port port).width = width ∧ ((t.port port).l0p = true ↔ width < (s.port port).fullWidth) ∧ t = { s with ports := t.ports }

/-- From R275 to R281, R287, R296, R412: configuration requests are answered and written; D3hot holds a function's messages,
and its return sends them; sizes, VFs and MSI-X entries are set; disabling the VFs closes the port's tenants. The model's own
choices here are those of log entries 3, 9 and 41. -/
def Obligations.FunctionsAreConfigured : Prop :=
  (∀ (s : State) (port : Port) (fn : Fin 32) (off : Nat) (v : BitVec 32) (be : BitVec 4), s.fnUp port 0 = true →
      (s.port port).vfResets.contains fn.val = false → off % 4 = 0 → off < 4096 → 1 ≤ s.boot.stage →
      let n := hostOutNo port
      (s.quay n).waiting = [] → (s.quay n).entries.length < 128 →
      (fn ≠ 0 → s.vfLive port fn = false → ∀ w, completes (.configRequest port fn w off v be) s fun t =>
        (t.quay n).entries = (s.quay n).entries ++ [.host (.completion fn [] 1 false)] ∧ t = { s with quays := t.quays }) ∧
      (fn = 0 ∨ s.vfLive port fn = true → completes (.configRequest port fn false off v be) s fun t =>
        (t.quay n).entries = (s.quay n).entries ++ [.host (.completion fn (leBytes 4 (s.configRead port fn off).toNat) 0 false)]
          ∧ t = { s with quays := t.quays }) ∧
      (fn = 0 ∨ s.vfLive port fn = true → exec (.configRequest port fn true off v be) s = .next
        ((s.toHost port (.completion fn [] 0 false)).configWrite port fn off
          ((s.configRead port fn off &&& ~~~(beMask be)) ||| (v &&& beMask be)) (v &&& beMask be))) ∧
      (fn = 0 → off = 4 → be = 0xF → completes (.configRequest port fn true off v be) s fun t =>
        ((t.port port).fn 0).bme = v.getLsbD 2 ∧ ((t.port port).fn 0).mse = v.getLsbD 1
          ∧ t = { s with quays := t.quays, ports := t.ports })) ∧
  (∀ (s : State) (port : Port), s.configRead port 0 0 = 0x24001F7A) ∧
  (∀ (s : State) (port : Port) (fn : Fin 32), s.fnUp port fn = true →
      (completes (.d3hotEntry port fn) s fun t =>
        (t.port port).fn fn = { (s.port port).fn fn with d3 := true } ∧ t = { s with ports := t.ports }) ∧
      (((s.port port).fn fn).pba = 0 → completes (.d0Return port fn) s fun t =>
        (t.port port).fn fn = { (s.port port).fn fn with d3 := false } ∧ t = { s with ports := t.ports })) ∧
  (∀ (s : State) (port : Port) (log : Nat), s.fnUp port 0 = true →
      (34 ≤ log → log ≤ 42 → ((s.port port).fn 0).mse = false → completes (.barResize port false log) s fun t =>
        t.bar2Size port 0 = 2 ^ log ∧ t = { s with ports := t.ports }) ∧
      (30 ≤ log → log ≤ 45 → ((s.port port).fn 1).mse = false → completes (.barResize port true log) s fun t =>
        t.bar2Size port 1 = 2 ^ log ∧ t = { s with ports := t.ports }) ∧
      (((s.port port).fn 0).mse = true → exec (.barResize port false log) s = .next s)) ∧
  (∀ (s : State) (port : Port) (n : Nat), s.fnUp port 0 = true → 3 ≤ s.boot.stage → n ≤ 31 → (s.port port).vfEnable = false →
      completes (.vfEnable port n) s fun t =>
        (t.port port).vfEnable = true ∧ (t.port port).numVfs = n ∧ t = { s with ports := t.ports }) ∧
  (∀ (s : State) (port : Port), s.fnUp port 0 = true → (s.port port).vfEnable = true →
      completes (.vfDisable port) s fun t =>
        (t.port port).vfEnable = false ∧ ∀ p, 2 ≤ p → p < 64 → (s.pol p).port = port.val → (t.pol p).state = 1) ∧
  (∀ (s : State) (port : Port) (fn : Fin 32) (v : Nat), s.fnReaches port fn = true → v < msixCount fn →
      ((s.port port).fn fn).pba = 0 → completes (.msixUnmask port fn v) s fun t =>
        (((t.port port).fn fn).msix.get {} v).mask = false ∧ t = { s with ports := t.ports }) ∧
  (∀ (s : State) (port : Port) (v : Nat) (e : MsixEntry), s.fnReaches port 0 = true → v < 4 →
      ((s.port port).fn 0).msix.get {} v = e → ((s.port port).fn 0).pba = BitVec.ofNat 4 (2 ^ v) →
      ((s.port port).fn 0).msixEnable = true → ((s.port port).fn 0).msixMask = false → ((s.port port).fn 0).d3 = false →
      (s.quay (hostOutNo port)).waiting = [] → (s.quay (hostOutNo port)).entries.length < 128 →
      completes (.msixUnmask port 0 v) s fun t =>
        ((t.port port).fn 0).pba = 0 ∧ (t.quay (hostOutNo port)).entries
          = (s.quay (hostOutNo port)).entries ++ [.host (.msix 0 v e.addr e.data)]) ∧
  ∀ (s : State) (port : Port) (fn : Fin 32) (v : Nat) (x : Word), s.fnReaches port fn = true → v < msixCount fn →
    ((s.port port).fn fn).pba = 0 → completes (.msixEntryWrite port fn (0x70000 + 16 * v) 8 x) s fun t =>
      (((t.port port).fn fn).msix.get {} v).addr = x.toNat / 4 * 4
        ∧ (((t.port port).fn fn).msix.get {} v).data = (((s.port port).fn fn).msix.get {} v).data
        ∧ t = { s with ports := t.ports }

/-- From R289, R333 to R335: each data object has its response: the discovery rows, the report and the certificates of their
lengths, the feature words, and from Stage 3 the charter; a word is confirmed once, if it is a subset of OFFER; an abort
empties the mailbox. The model's own choices here are those of log entries 10, 11 and 42. -/
def Obligations.MailboxesAnswer : Prop :=
  ∀ (s : State) (port : Port), s.fnUp port 0 = true →
    (completes (.doeDiscovery port 0) s fun t => (t.port port).doe = [1, 0, 0, 1] ∧ (t.port port).doeReady = true) ∧
    (completes (.doeDiscovery port 3) s fun t => (t.port port).doe = [0x7A, 0x1F, 3, 0]) ∧
    (∀ r : List Byte, 1 ≤ s.boot.stage → r.length = 40 → leAt r 0 4 = 1 → completes (.attestReport port r) s fun t =>
      (t.port port).doe = s.report port r ∧ slice (t.port port).doe 16 32 = slice r 8 32
        ∧ leAt (t.port port).doe 8 8 = s.nv.serial.toNat ∧ t = { s with ports := t.ports }) ∧
    (∀ r : List Byte, r.length ≠ 40 → completes (.attestReport port r) s fun t => (t.port port).doe = []) ∧
    (1 ≤ s.boot.stage → completes (.attestCertificate port) s fun t =>
      (t.port port).doe.length = 5272 ∧ leAt (t.port port).doe 0 8 = s.nv.serial.toNat ∧ t = { s with ports := t.ports }) ∧
    (1 ≤ s.boot.stage → completes (.featureOffer port) s fun t =>
      (t.port port).doe = leBytes 8 0 ++ leBytes 8 s.offer.toNat ++ leBytes 8 (s.port port).confirmed.toNat
        ++ leBytes 8 s.boot.package.toNat ∧ t = { s with ports := t.ports }) ∧
    (∀ w : Word, 1 ≤ s.boot.stage → (s.port port).accepted = false → w &&& ~~~s.offer = 0 →
      completes (.featureAccept port w) s fun t =>
        (t.port port).confirmed = w ∧ (t.port port).accepted = true ∧ leAt (t.port port).doe 0 8 = 0
          ∧ leAt (t.port port).doe 16 8 = w.toNat ∧ t = { s with ports := t.ports }) ∧
    (∀ w : Word, 1 ≤ s.boot.stage → (s.port port).accepted = true → completes (.featureAccept port w) s fun t =>
      (t.port port).confirmed = (s.port port).confirmed ∧ leAt (t.port port).doe 0 8 = 2) ∧
    (completes (.doeCharter port) s fun t =>
      (t.port port).doe = (if 3 ≤ s.boot.stage then Config.charterObject port s.charter else [])
        ∧ (t.port port).doeReady = true ∧ t = { s with ports := t.ports }) ∧
    completes (.doeAbort port) s fun t =>
      (t.port port).doe = [] ∧ (t.port port).doeReady = false ∧ t = { s with ports := t.ports }

/-- What a polder's command by its owner needs: an access that reaches POL_CTL, GO, the command's code, and BUSY 0. -/
def polGoes (s : State) (p : Pol) (a : RegAcc) (cmd : Nat) : Prop :=
  s.ownerWrites p a (offPolCtl p) = true ∧ a.size = 8 ∧ a.bit 0 = true ∧ field a.value.toNat 12 4 = cmd ∧ (s.pol p).busy = false

/-- From R295, R296, R305, R308, R309, R311, R313: the commands of a polder: OPEN, CLOSE and BUMP end at once, CLOSE and BUMP
with a new generation; FREEZE and THAW take effect at a tide boundary; SAVE and RESTORE refuse a record in no place of R309,
are BUSY until the next cycle, and end with STATUS 5 where the generation advances first; a command that the checks of POL_CTL
turn away ends with the STATUS of the first that it fails. The model's own choices here are those of log entries 2, 3, 38 and
64. -/
def Obligations.PolderCommandsAct : Prop :=
  (∀ (s : State) (p : Pol) (a : RegAcc), polGoes s p a 1 → (s.pol p).state = 1 → 2 ≤ p.val →
      (s.port (s.pol p).port).vfEnable = true → s.mayRun (s.pol p).port = true → completes (.polOpen p a) s fun t =>
        (t.pol p).state = 2 ∧ (t.pol p).status = 0 ∧ (t.pol p).gen = (s.pol p).gen ∧ (∀ q, q ≠ p.val → t.pol q = s.pol q)
          ∧ t = { s with pols := t.pols }) ∧
  (∀ (s : State) (p : Pol) (a : RegAcc), polGoes s p a 2 → 2 ≤ (s.pol p).state → (s.pol p).state ≤ 4 → 2 ≤ p.val → completes (.polClose p a) s fun t =>
      (t.pol p).state = 1 ∧ (t.pol p).status = 0 ∧ (t.pol p).gen = ((s.pol p).gen + 1) % 256 ∧ (t.pol p).enable = false
        ∧ (t.pol p).tallies = []) ∧
  (∀ (s : State) (p : Pol) (a : RegAcc), polGoes s p a 3 → (s.pol p).state = 2 → completes (.polBump p a) s fun t =>
      (t.pol p).state = 2 ∧ (t.pol p).status = 0 ∧ (t.pol p).gen = ((s.pol p).gen + 1) % 256 ∧ (t.pol p).enable = false) ∧
  (∀ (s : State) (p : Pol) (a : RegAcc), polGoes s p a 4 → (s.pol p).state = 2 → 2 ≤ p.val →
      s.mayRun (s.pol p).port = true → (s.port (s.pol p).port).confirmed.getLsbD 3 = true → completes (.polFreeze p a) s fun t =>
        (t.pol p).state = 3 ∧ (t.pol p).busy = true ∧ (t.pol p).freezeAsked = true ∧ (t.pol p).running = (s.pol p).running
          ∧ t = { s with pols := t.pols }) ∧
  (∀ (s : State) (p : Pol), (s.pol p).state = 3 → (s.pol p).freezeAsked = true → s.tide.boundary = some s.alm.now →
      completes (.freezeEffect p) s fun t =>
        (t.pol p).frozenBit = true ∧ (t.pol p).frozenAt = s.alm.now ∧ (t.pol p).freezeAsked = false
          ∧ ((s.pol p).mode = 0 → ∀ e ∈ (t.pol p).running, e.2.suspended = true)
          ∧ ((s.pol p).busy = true → (t.pol p).state = if s.frozenOut p then 4 else 3)
          ∧ t = { s with pols := t.pols, mills := t.mills }) ∧
  (∀ (s : State) (p : Pol), (s.pol p).state = 3 → (s.pol p).busy = true → (s.pol p).frozenBit = true →
      (s.frozenOut p = true → completes (.freezeComplete p) s fun t =>
        t.pol p = { s.pol p with state := 4, busy := false, status := 0 } ∧ t = { s with pols := t.pols }) ∧
      (s.frozenOut p = false → exec (.freezeComplete p) s = .next s)) ∧
  (∀ (s : State) (p : Pol) (a : RegAcc), polGoes s p a 5 → (s.pol p).state = 4 → completes (.polThaw p a) s fun t =>
      (t.pol p).state = 4 ∧ (t.pol p).busy = true ∧ (t.pol p).thawAsked = true ∧ t = { s with pols := t.pols }) ∧
  (∀ (s : State) (p : Pol), (s.pol p).state = 4 → (s.pol p).thawAsked = true → s.tide.boundary = some s.alm.now →
      (∀ n, (s.link n).heldTxns = []) → completes (.thawEffect p) s fun t =>
        (t.pol p).state = 2 ∧ (t.pol p).busy = false ∧ (t.pol p).frozenBit = false ∧ t.mem = s.mem
          ∧ ∀ e ∈ (t.pol p).running, e.2.suspended = false) ∧
  (∀ (s : State) (p : Pol) (a : RegAcc), polGoes s p a 6 → (s.pol p).state = 4 → (s.pol p).running = [] →
      s.mayRun (s.pol p).port = true → (s.port (s.pol p).port).confirmed.getLsbD 3 = true →
      (s.recordPlace (s.pol p).saveBase = false → completes (.polSave p a) s fun t => (t.pol p).status = 4 ∧ t.mem = s.mem) ∧
      (s.recordPlace (s.pol p).saveBase = true → completes (.polSave p a) s fun t =>
        (t.pol p).busy = true ∧ (t.pol p).state = 4
          ∧ ∃ u, u = s.updPol p (fun q => { q with cmd := 6, mode := field a.value.toNat 2 1 })
            ∧ t = (u.poke p (dpaOffset (s.pol p).saveBase) (leBytes 4 0) false).updPol p fun q => { q with busy := true })) ∧
  (∀ (s : State) (p : Pol) (a : RegAcc), polGoes s p a 7 → (s.pol p).state = 1 →
      s.mayRun (s.pol p).port = true → (s.port (s.pol p).port).confirmed.getLsbD 3 = true →
      (s.recordPlace (s.pol p).saveBase = false → completes (.polRestore p a) s fun t =>
        (t.pol p).status = 4 ∧ (t.pol p).state = 1) ∧
      (s.recordPlace (s.pol p).saveBase = true → completes (.polRestore p a) s fun t =>
        (t.pol p).busy = true ∧ (t.pol p).state = 1 ∧ t = { s with pols := t.pols })) ∧
  (∀ (s : State) (p : Pol), s.pending = [] → (s.pol p).busy = true → (∀ q, q < 64 → q ≠ p.val → (s.idle.pol q).busy = false) →
      s.idle.pol p = s.pol p →
      let u := s.idle
      let base := dpaOffset (s.pol p).saveBase
      let r := u.peek base 65536
      ((s.pol p).cmd = 6 → step s = .next ((u.poke p base (u.saveBody p ++ Crypto.shake256 (u.saveBody p)) false).polDone p 0)) ∧
      ((s.pol p).cmd = 7 → u.peekPoison base 65536 = false → u.recordGood p r = true → ∃ t, step s = .next t
        ∧ (t.pol p).state = 4 ∧ (t.pol p).status = 0 ∧ (t.pol p).busy = false ∧ (t.pol p).gen = leAt r 4 1 ∧ t.mem = u.mem) ∧
      ((s.pol p).cmd = 7 → u.peekPoison base 65536 = true ∨ u.recordGood p r = false → step s = .next (u.polDone p 4))) ∧
  (∀ (s : State) (p : Nat), (s.pol p).busy = true →
      ((s.advanceGen p false).pol p).busy = false ∧ ((s.advanceGen p false).pol p).status = 5) ∧
  (∀ (s : State) (p : Pol) (a : RegAcc) (cmd : Nat) (c : Instr), polGoes s p a cmd → s.polCheck p cmd ≠ 0 →
      (cmd, c) ∈ [(1, .polOpen p a), (2, .polClose p a), (3, .polBump p a), (4, .polFreeze p a), (5, .polThaw p a), (6, .polSave p a),
        (7, .polRestore p a)] → completes c s fun t =>
      (t.pol p).status = s.polCheck p cmd ∧ (t.pol p).state = (s.pol p).state ∧ (t.pol p).gen = (s.pol p).gen
        ∧ t = { s with pols := t.pols }) ∧
  ∀ (s : State) (p : Pol) (a : RegAcc) (cmd : Nat), polGoes s p a cmd → (cmd = 0 ∨ 8 ≤ cmd) →
    completes (.polCmdRefused p a) s fun t =>
      (t.pol p).status = 1 ∧ (t.pol p).state = (s.pol p).state ∧ t = { s with pols := t.pols }

/-! ## Zelpel Link (chapter 12) -/

/-- From R247 to R250, R376, R405: an engine that loses its light, is shut down or reads 95 degrees stops its eight ports;
ports train, come UP in the version both ends offer, and go DOWN with LINK_DOWN; OFF, RETRAIN and LOCK are written; a port
unfit for 10 ms fences what uses it. The model's own choices here are those of log entries 3, 51 and 52. -/
def Obligations.OpticsAndPortsFollow : Prop :=
  (∀ (s : State) (e : Engine), (s.engine e.val).lightOk = true → completes (.laserLost e) s fun t =>
      (t.engine e.val).lightOk = false ∧ (∀ n ∈ portsOf e.val, (t.link n).state = if (s.link n).state = 4 then 4 else 3)
        ∧ (∀ n, n ∉ portsOf e.val → (t.link n).state = (s.link n).state)
        ∧ ∃ l x y, t.crier.band = s.crier.band ++ l ++ [x, y] ∧ x.code = .laserLost ∧ y.code = .laserLost) ∧
  (∀ (s : State) (e : Engine), (s.engine e.val).laserEn = true → completes (.lightRestored e) s fun t =>
      t.engine e.val = { s.engine e.val with lightOk := true } ∧ t = { s with engines := t.engines }) ∧
  (∀ (s : State) (e : Engine) (a : RegAcc) (port : Nat), s.pfWrites a (offOe e.val) = some port →
      (a.bit 0 = true → (s.engine e.val).shutdown = false → s.oeMay e.val port true = true →
        completes (.oeShutdown e a) s fun t =>
          (t.engine e.val).shutdown = true ∧ (t.engine e.val).laserEn = false ∧ ∀ n ∈ portsOf e.val, (t.link n).state = 4) ∧
      (a.bit 0 = true → s.oeMay e.val port true = false → exec (.oeShutdown e a) s = .next s) ∧
      (a.bit 0 = false → a.hits 0 = true → (s.engine e.val).shutdown = true → s.oeMay e.val port false = true →
        completes (.oeShutdownClear e a) s fun t =>
          (t.engine e.val).shutdown = false ∧ t = { s with engines := t.engines, links := t.links }
            ∧ ∀ n ∈ portsOf e.val, (t.link n).state = if (s.link n).state = 4 ∧ (s.link n).off = false then 0 else (s.link n).state)) ∧
  (∀ (s : State) (e : Engine) (c : Nat), s.boot.powered = true →
      (c < 95 → completes (.oeTempRead e c) s fun t =>
        t.engine e.val = { s.engine e.val with temp := c } ∧ t = { s with engines := t.engines }) ∧
      (95 ≤ c → (s.engine e.val).shutdown = false → completes (.oeTempRead e c) s fun t =>
        (t.engine e.val).temp = c ∧ (t.engine e.val).shutdown = true ∧ ∀ n ∈ portsOf e.val, (t.link n).state = 4)) ∧
  (∀ (s : State) (n : ZPort), s.mayTrain n = true →
      (s.link n).retrain = true ∨ ((s.link n).state ≠ 1 ∧ (s.link n).state ≠ 2) →
      completes (.linkTraining n) s fun t =>
        (t.link n).state = 1 ∧ (t.link n).version = 0 ∧ (t.link n).replay = [] ∧ (t.link n).trainOffer = s.linkOffer n
          ∧ ∀ m, m ≠ n.val → (t.link m).state = (s.link m).state) ∧
  (∀ (s : State) (n : ZPort) (f : TrainFind), (s.link n).state = 1 → s.mayTrain n = true →
      (min (s.link n).trainOffer f.peerOffer ≠ 3 ∨ f.zl3Ok = true → completes (.linkUp n f) s fun t =>
        (t.link n).state = 2 ∧ (t.link n).version = min (s.link n).trainOffer f.peerOffer ∧ (t.link n).peer = f.peer % 1024
          ∧ (s.alm.source ≠ 4 ∨ s.alm.zlPort ≠ n → t.alm = s.alm)
          ∧ ∃ x y l, t.crier.band = s.crier.band ++ x :: y :: l ∧ x.code = .linkUp ∧ y.code = .linkUp) ∧
      (min (s.link n).trainOffer f.peerOffer = 3 → f.zl3Ok = false → completes (.linkUp n f) s fun t =>
        (t.link n).state = 2 ∧ (t.link n).version = 2 ∧ (t.link n).downgraded = true
          ∧ ∃ x, x ∈ t.crier.band ∧ x.code = .linkDowngrade)) ∧
  (∀ (s : State) (n : ZPort), (s.link n).state = 1 ∨ (s.link n).state = 2 → completes (.linkDown n) s fun t =>
      (t.link n).state = 3 ∧ (t.link n).downSeen = true ∧ (t.link n).reads = []
        ∧ ∃ l x y, t.crier.band = s.crier.band ++ [x, y] ++ l ∧ x.code = .linkDown ∧ y.code = .linkDown) ∧
  (∀ (s : State) (n : ZPort) (a : RegAcc) (port : Nat), s.pfWrites a (offZlCtl n) = some port → s.zlMay n port = true → a.size = 8 →
      (a.bit 2 = true → a.bit 0 = false → (s.link n).state ≠ 4 → completes (.retrain n a) s fun t =>
        (t.link n).retrain = true ∧ (t.link n).state = (s.link n).state ∧ t = { s with links := t.links }) ∧
      (a.bit 0 = true → completes (.zlPortOff n a) s fun t =>
        (t.link n).off = true ∧ (t.link n).state = 4
          ∧ ((s.link n).state = 2 → ∃ x, x ∈ t.crier.band ∧ x.code = .linkDown)) ∧
      (a.bit 0 = false → (s.link n).state = 4 → (s.engine (n / 8)).shutdown = false → completes (.zlPortOn n a) s fun t =>
        (t.link n).off = false ∧ (t.link n).state = 0 ∧ t = { s with links := t.links }) ∧
      (a.bit 3 = true → a.bit 0 = false → (s.link n).state ≠ 4 → completes (.zlPortLock n a) s fun t =>
        (t.link n).lock = true ∧ ((s.link n).lock = true → (t.link n).maxZl2 = (s.link n).maxZl2)
          ∧ t = { s with links := t.links })) ∧
  ∀ (s : State) (n : ZPort) (a : Nat), (s.link n).unfitSince = some a → s.fit n = false → a + 10000000 ≤ s.clock →
    completes (.portLimit n) s fun t =>
      (t.link n).unfitSince = some s.clock ∧
        ∀ p, p < 64 → (s.pol p).running.any (fun e => s.runUsesPort p e.2.m.schedule n) = true →
          ∃ x, x ∈ t.crier.band ∧ x.code = .linkDown ∧ x.book = p

/-- From R252 to R257: a flit whose codeword or CHECK fails is counted and dropped; a good data flit in order advances the
receiver and lands until its release value, then goes into the receive quay; a gap is asked for again after 1 us; a slot sends
what the table gives it. The model's own choices here are those of log entry 51. -/
def Obligations.FlitsAreReceivedAndSent : Prop :=
  (∀ (s : State) (n : ZPort) (f : List Byte) (c : Nat), (s.link n).state = 2 →
      (completes (.flitReceive n f c true) s fun t =>
        (t.link n).uncorrected = satAdd 0xFFFF (s.link n).uncorrected 1
          ∧ (t.link n).corrected = (s.link n).corrected + BitVec.ofNat 64 c ∧ (t.link n).rxNext = (s.link n).rxNext
          ∧ t = { s with links := t.links }) ∧
      (flitCheck f = false → completes (.flitReceive n f c false) s fun t =>
        (t.link n).crcFail = satAdd 0xFFFF (s.link n).crcFail 1 ∧ (t.link n).rxNext = (s.link n).rxNext
          ∧ t = { s with links := t.links }) ∧
      (flitCheck f = true → flitFieldsOk f = true → flitKind f = 1 → flitSeq f = (s.link n).rxNext → (s.link n).rxGot = [] →
        (s.link n).lost = [] → (s.link n).landing = [] → s.alm.now < s.releaseAt n f → completes (.flitReceive n f c false) s fun t =>
          (t.link n).rxNext = ((s.link n).rxNext + 1) % 4096 ∧ (t.link n).landing = [⟨s.releaseAt n f, f⟩] ∧ t = { s with links := t.links })) ∧
  (∀ (s : State) (n : ZPort) (x a : Nat), (s.link n).lost = [(x, a)] → (s.link n).nakDue = [] → a + 1000 ≤ s.clock →
      completes (.nakRepeat n) s fun t =>
        (t.link n).nakDue = [x] ∧ (t.link n).lost = [(x, s.clock)] ∧ t = { s with links := t.links }) ∧
  (∀ (s : State) (n : ZPort) (f : Landed) (r : List Landed), (s.link n).landing = f :: r → f.release ≤ s.alm.now →
      (s.quay (linkRxNo n)).waiting = [] → (s.quay (linkRxNo n)).entries.length < quayDepth (linkRxNo n) →
      completes (.flitRelease n) s fun t =>
        (t.link n).landing = r ∧ (t.quay (linkRxNo n)).entries = (s.quay (linkRxNo n)).entries ++ [.bytes f.bytes]
          ∧ t = { s with links := t.links, quays := t.quays }) ∧
  (∀ (s : State) (n : ZPort), (s.link n).state = 2 → s.counts = true → s.nextSlot n < 3200 →
      s.nextSlot n * 32 ≤ s.alm.now % 4096 * 25 → completes (.linkSlot n) s fun t =>
        (t.link n).slot = s.nextSlot n + (if (s.link n).version = 2 then 2 else 1) ∧ (t.link n).slotTide = s.tideNumber
          ∧ t.mem = s.mem ∧ t.crier = s.crier ∧ t.hands = s.hands) ∧
  ∀ (s : State) (n : ZPort) (b : BandMsg) (r : List BandMsg), (s.link n).state = 2 → s.counts = true →
    (s.link n).slotTide = s.tideNumber → (s.link n).slot < 8 → (s.link n).slot * 32 ≤ s.alm.now % 4096 * 25 →
    (s.link n).band = b :: r → (s.link n).bandSent < 8 → (s.link n).replay = [] → (s.link n).nakDue = [] → s.tide.boundary ≠ none → s.txFull n = false →
    completes (.linkSlot n) s fun t =>
      (t.link n).band = r ∧ (t.link n).txSeq = ((s.link n).txSeq + 1) % 4096
        ∧ (t.link n).sent = flitBytes 2 (s.link n).version (s.link n).txSeq (((s.link n).rxNext + 4095) % 4096) none s.tideNumber
            (s.link n).slot (bandBytes s.boot.moduleId b)
        ∧ (t.link n).replay = [{ seq := (s.link n).txSeq, bytes := (t.link n).sent }]

/-- From R260 to R264, R267, R307: an incoming WRITE or READ becomes a request of the home where the rows of R263 let it; a
misrouted one, one of another job and one without a grant are counted or raise PERMISSION and change no memory; a frozen
polder's is held; READ_DATA answers its READ; BARRIER arrives at its collector, or releases. The model's own choices here are
those of log entries 39 and 51. -/
def Obligations.TransactionsAreHandled : Prop :=
  (∀ (s : State) (n : ZPort) (x : Txn), (s.link n).state = 2 → x.dstModule = s.boot.moduleId → x.job ≠ 0 →
      (s.pol x.dstPol).job = x.job → (s.pol x.dstPol).state ≠ 4 → txnOk x = true →
      let part := fun (bad : Bool) => (List.range (32 * x.chunks)).filterMap fun i =>
        if x.poison.getLsbD (i / 32) = bad then some (x.offset % 1024 + i, (slice x.data 0 (32 * x.chunks)).getD i 0) else none
      (x.op = 1 → s.zlGranted x true = true → s.groupPart x.offset (32 * x.chunks) = false → completes (.zlWrite n x) s fun t =>
        (∃ l, t.reqs = s.reqs ++ l
          ∧ (∀ r ∈ l, r.line = x.offset / 1024 ∧ r.pol = x.dstPol ∧ ∃ bad, part bad ≠ [] ∧ r.op = .write (part bad) false bad)
          ∧ ∀ bad, part bad ≠ [] → ∃ r ∈ l, r.op = .write (part bad) false bad)
          ∧ t.mem = s.mem ∧ t.crier = s.crier) ∧
      (x.op = 1 → s.zlGranted x true = false ∨ s.groupPart x.offset (32 * x.chunks) = true → completes (.zlWrite n x) s fun t =>
        t.reqs = s.reqs ∧ t.mem = s.mem ∧ ∃ e, t.crier.band = s.crier.band ++ [e] ∧ e.code = .permission ∧ e.book = x.dstPol) ∧
      (x.op = 2 → s.zlGranted x false = true → completes (.zlRead n x) s fun t =>
        (∃ r, t.reqs = s.reqs ++ [r] ∧ r.op = .read (readSectors x) ∧ r.line = x.offset / 1024 ∧ r.pol = x.dstPol
          ∧ r.who = .link n x) ∧ t.mem = s.mem ∧ t.crier = s.crier) ∧
      (x.op = 2 → s.zlGranted x false = false → completes (.zlRead n x) s fun t =>
        t.reqs = s.reqs ∧ t.mem = s.mem ∧ ∃ e, t.crier.band = s.crier.band ++ [e] ∧ e.code = .permission ∧ e.book = x.dstPol)) ∧
  (∀ (s : State) (n : ZPort) (x : Txn) (c : Instr),
      (x.op = 1 ∧ c = .zlWrite n x ∨ x.op = 2 ∧ c = .zlRead n x ∨ x.op = 4 ∧ c = .zlBarrier n x) → (s.link n).state = 2 →
      (x.dstModule ≠ s.boot.moduleId → completes c s fun t =>
        (t.link n).misrouted = satAdd 0xFFFF (s.link n).misrouted 1 ∧ t = { s with links := t.links }) ∧
      (x.dstModule = s.boot.moduleId → x.job ≠ (s.pol x.dstPol).job → completes c s fun t =>
        (t.link n).stale = satAdd 0xFFFF (s.link n).stale 1 ∧ t = { s with links := t.links }) ∧
      (x.dstModule = s.boot.moduleId → x.job = (s.pol x.dstPol).job → x.job ≠ 0 → (s.pol x.dstPol).state = 4 →
        (s.link n).heldTxns = [] → txnFlits x ≤ 64 → completes c s fun t =>
          (t.link n).heldTxns = [x] ∧ t = { s with links := t.links })) ∧
  (∀ (s : State) (n : ZPort) (x : Txn), (s.link n).state = 2 → x.op = 3 →
      (x.dstModule ≠ s.boot.moduleId → completes (.readData n x) s fun t =>
        (t.link n).misrouted = satAdd 0xFFFF (s.link n).misrouted 1 ∧ t = { s with links := t.links }) ∧
      (∀ r, x.dstModule = s.boot.moduleId → (s.link n).reads = [r] → r.tag = x.tag → r.chunks = x.chunks →
        ∃ u, u = s.updLink n (fun l => { l with arrived := l.arrived.erase x, reads := [] }) ∧ completes (.readData n x) s fun t =>
          (t.link n).reads = [] ∧ t = u.deliverRead r.who r.pol x.srcGen r.orphan r.va 0
            ((slice x.data 0 (32 * x.chunks)).zipIdx.map fun e => (e.1, x.poison.getLsbD (e.2 / 32))))) ∧
  (∀ (s : State) (n : ZPort) (x : Txn), (s.link n).state = 2 → x.op = 4 → x.dstModule = s.boot.moduleId →
      x.job ≠ 0 → (s.pol x.dstPol).job = x.job → (s.pol x.dstPol).state ≠ 4 → s.grantOk x.dstPol x.srcModule true = false →
      completes (.zlBarrier n x) s fun t => t = { s with links := t.links, crier := t.crier }
        ∧ ∃ e, t.crier.band = s.crier.band ++ [e] ∧ e.code = .permission ∧ e.book = x.dstPol) ∧
  ∀ (s : State) (n : ZPort) (x : Txn) (b : BarrierDecl), (s.link n).state = 2 → x.op = 4 → x.dstModule = s.boot.moduleId →
    x.job ≠ 0 → (s.pol x.dstPol).job = x.job → (s.pol x.dstPol).state ≠ 4 → s.grantOk x.dstPol x.srcModule true = true →
    s.barrierDecl x.dstPol x.tag = some b →
    (b.collector ≠ s.boot.moduleId → x.srcModule = b.collector → completes (.zlBarrier n x) s fun t =>
      (t.collector x.dstPol x.tag).releases = (s.collector x.dstPol x.tag).releases + 1
        ∧ t = { s with links := t.links, collectors := t.collectors }) ∧
    (b.collector = s.boot.moduleId → x.srcModule ∈ b.parts → b.number = x.tag → (s.collector x.dstPol x.tag).arrived = [] →
      x.srcPol < 64 → (∃ m ∈ b.parts, m ≠ x.srcModule) → completes (.zlBarrier n x) s fun t =>
        (t.collector x.dstPol x.tag).arrived = [64 * x.srcModule + x.srcPol]
          ∧ (t.collector x.dstPol x.tag).releases = (s.collector x.dstPol x.tag).releases
          ∧ t = { s with links := t.links, collectors := t.collectors })

/-- From R258, R265, R266, R269 to R271, R405: the link-band messages: the four stamps of the Almanac exchange give its
offset; three missing exchanges make a port unfit; a NOTICE ends or marks what matches it; a collective that waits beyond
LIMIT is fenced; reports, offers and takes of the power commons move the next epoch's shift, and the epoch puts it in force.
The model's own choices here are those of log entries 3, 29, 30 and 31. -/
def Obligations.LinkBandMessagesAct : Prop :=
  (∀ (s : State) (n : ZPort), (s.link n).state = 2 → s.tideNumber % 256 = 0 → s.sendsSync n = true →
      completes (.almSyncSend n) s fun t =>
        (t.link n).t1 = s.alm.now ∧ (t.link n).band = (s.link n).band ++ [.almSync s.alm.now (s.hopsOut n)]
          ∧ s.hopsOut n = (if !(s.alm.master && s.alm.masterPorts.getLsbD n) then 15 else if s.alm.source ≠ 4 then 0
              else if s.alm.state = 2 then s.alm.hops else 15)
          ∧ t = { s with links := t.links }) ∧
  (∀ (s : State) (n : ZPort) (src t1 hops : Nat), (s.link n).state = 2 → completes (.almSync n src (.almSync t1 hops)) s fun t =>
      (t.link n).t1 = t1 ∧ (t.link n).t2 = s.alm.now ∧ (t.link n).band = (s.link n).band ++ [.almReq s.alm.now s.alm.now]
        ∧ t.alm.now = s.alm.now
        ∧ (s.alm.source = 4 ∧ s.alm.zlPort = n.val → t.alm.hops = min 15 (hops + 1)
            ∧ t.alm.state = if s.alm.state = 2 ∧ 2 ≤ hops then 1 else s.alm.state)
        ∧ (¬(s.alm.source = 4 ∧ s.alm.zlPort = n.val) → t.alm = s.alm)) ∧
  (∀ (s : State) (n : ZPort) (src t2 t3 : Nat), (s.link n).state = 2 →
      completes (.almReq n src (.almReq t2 t3)) s fun t =>
        (t.link n).offset = clampInt 2047 (exchangeOffset (s.link n).t1 t2 t3 s.alm.now) ∧ (t.link n).exchMissing = 0
          ∧ (t.link n).band = (s.link n).band ++ [.almResp (s.link n).t1 s.alm.now]
          ∧ (s.alm.source ≠ 4 ∨ s.alm.zlPort ≠ n → t.alm = s.alm)) ∧
  (∀ (s : State) (n : ZPort) (src t1 t4 : Nat), (s.link n).state = 2 →
      completes (.almResp n src (.almResp t1 t4)) s fun t =>
        (t.link n).offset = clampInt 2047 (-(exchangeOffset t1 (s.link n).t2 (s.link n).t3 t4)) ∧ (t.link n).exchMissing = 0
          ∧ (s.alm.source ≠ 4 ∨ s.alm.zlPort ≠ n → t.alm = s.alm)) ∧
  (∀ (s : State) (n : ZPort), (s.link n).state = 2 → completes (.almExchangeMissing n) s fun t =>
      (t.link n).exchMissing = min 3 ((s.link n).exchMissing + 1) ∧ (2 ≤ (s.link n).exchMissing → t.fit n = false)
        ∧ (s.alm.source ≠ 4 ∨ s.alm.zlPort ≠ n → t = { s with links := t.links })) ∧
  (∀ (s : State) (n : ZPort) (src job sched reason p tide seq : Nat) (r : Run), (s.link n).state = 2 → job ≠ 0 → (s.pol p).job = job →
      (s.pol p).running = [(seq, r)] → r.m.schedule = sched → r.m.hard = true → r.missRaised = false →
      (reason = 1 → completes (.notice n src (.notice job sched reason p tide)) s fun t =>
        ((t.pol p).run seq).missRaised = true ∧ ∃ x y, t.crier.band = s.crier.band ++ [x, y] ∧ x.code = .peerNotice ∧ x.book = p
          ∧ y.code = .deadlineMiss) ∧
      (reason = 2 → completes (.notice n src (.notice job sched reason p tide)) s fun t => (t.pol p).isRunning seq = false)) ∧
  (∀ (s : State) (p : Pol) (seq i : Nat) (c : Schedule) (x : CollStep), (s.pol p).isRunning seq = true →
      ((s.pol p).run seq).suspended = false → s.schedule ((s.pol p).run seq).m.schedule = some c → c.colls[i]? = some x →
      collMet (s.pol p) c i = false →
      let due := ((s.pol p).run seq).m.tb + 4096 * ((s.pol p).run seq).m.startTide + 1024 + x.landing + 4096 * x.limit
      (due ≤ s.alm.now → completes (.collectiveTimeout p seq i) s fun t =>
        (t.pol p).isRunning seq = false ∧ ∃ l e, t.crier.band = s.crier.band ++ e :: l ∧ e.code = .collectiveTimeout ∧ e.book = p.val) ∧
      (s.alm.now < due → exec (.collectiveTimeout p seq i) s = .next s)) ∧
  (∀ (s : State) (n : ZPort) (src x commons : Nat), (s.link n).state = 2 → s.commonsOn commons = true →
      completes (.powerReport n src (.report x commons)) s fun t =>
        (t.link n).heard = some x ∧ t = { s with links := t.links }) ∧
  (∀ (s : State) (n : ZPort) (src watts commons : Nat), (s.link n).state = 2 → s.commonsOn commons = true →
      (s.commons.taken = false → s.shiftOk (s.commons.nextShift + watts) = true →
        completes (.powerOffer n src (.offer watts s.commons.epoch commons)) s fun t =>
          t.commons.nextShift = s.commons.nextShift + watts ∧ t.commons.taken = true ∧ t.pwr = s.pwr
            ∧ (t.link n).band = (s.link n).band ++ [.take watts s.commons.epoch commons]) ∧
      ((s.link n).offered = some watts → completes (.powerTake n src (.take watts s.commons.epoch commons)) s fun t =>
        t.commons.nextShift = s.commons.nextShift - watts ∧ (t.link n).offered = none ∧ t.pwr = s.pwr)) ∧
  (∀ s : State, 3 ≤ s.boot.stage → s.tide.boundary = some s.alm.now → s.tideNumber % 256 = 0 →
      s.commonsOn s.commons.commons = true → (∀ n, (s.link n).shift = 0) → completes .powerEpoch s fun t =>
        t.commons.shift = s.commons.nextShift ∧ t.commons.epoch = s.tideNumber / 256 % 2 ^ 16 ∧ t.commons.taken = false
          ∧ t.mem = s.mem ∧ ∀ n, (t.link n).heard = none ∧ (t.link n).lateness = 0) ∧
  (∀ s : State, 3 ≤ s.boot.stage → s.tide.boundary = some s.alm.now → s.tideNumber % 256 = 0 →
      s.commonsOn s.commons.commons = false → completes .powerEpoch s fun t =>
        t.commons.shift = 0 ∧ t.commons.nextShift = 0 ∧ t.commons.epoch = s.tideNumber / 256 % 2 ^ 16
          ∧ t.mem = s.mem ∧ ∀ n, (t.link n).shift = 0) ∧
  ∀ (s : State) (a : RegAcc), s.pfWrites a offCommons = some s.timeOwner → a.bit 0 = true →
    completes (.zlCommonsLock a) s fun t =>
      t.commons.lock = true ∧ t = { s with commons := t.commons }
        ∧ (s.commons.lock = true → t.commons.commons = s.commons.commons ∧ t.commons.thresh = s.commons.thresh)


/-! ## Events and faults (chapter 16) -/

/-- R348: the ring of a day book is full when PROD - CONS modulo 2^32 equals N; CONS moves by a write of CRIER_DB_RING_p_c
from a function that sees it, and a write that would put PROD - CONS modulo 2^32 above N changes nothing. -/
def Obligations.RingConsMovesWithinN : Prop :=
  (∀ b : Book, b.enable = true → b.prod < 2 ^ 32 → b.cons < 2 ^ 32 →
      (b.full = true ↔ ((b.prod : Int) - b.cons) % 2 ^ 32 = b.count)) ∧
  (∀ (s : State) (p : Pol) (cls : Fin 2) (a : RegAcc), s.bookWriter p.val a (offDbRing p.val cls.val) = true →
      ((s.book p.val cls.val).count : Int) < ((s.book p.val cls.val).prod - (a.fld 0 32 (s.book p.val cls.val).cons : Nat) : Int) % 2 ^ 32 →
      (s.book p.val cls.val).prod < 2 ^ 32 → exec (.daybookConsWrite p cls a) s = .next s) ∧
  ∀ (s : State) (p : Pol) (cls : Fin 2) (a : RegAcc), s.bookWriter p.val a (offDbRing p.val cls.val) = true →
    ((s.book p.val cls.val).prod - (a.fld 0 32 (s.book p.val cls.val).cons : Nat) : Int) % 2 ^ 32 ≤ (s.book p.val cls.val).count →
    (s.book p.val cls.val).prod < 2 ^ 32 → completes (.daybookConsWrite p cls a) s fun t =>
      (t.book p.val cls.val).cons = a.fld 0 32 (s.book p.val cls.val).cons
        ∧ (t.book p.val cls.val).prod = (s.book p.val cls.val).prod ∧ t = { s with crier := t.crier }

/-- From R340 to R347, R349 to R351, and R352 to R359 of the fences: an event at a day book that is off is counted as stray;
one whose bit is clear sets it; one whose bit is set is counted as merged, or held in the Sluice where its code holds; a held
one is released to a clear bit; the Crier writes the record of the pending bit at PROD; enabling a book places it empty; a
ring full for 2 us is reported, and one full for its LIMIT fences its polder; a lost clock, path or bundle and an
uncorrectable error fence their die; bad memory is poisoned and reported; and MILL_RESET with DIE_RETURNED brings a die back.
The model's own choices here are those of log entries 26, 27, 34 and 35. -/
def Obligations.EventsReachBooksAndFencesHold : Prop :=
  (∀ (s : State) (ev : Event) (rest : List Event), s.crier.band = ev :: rest →
      let cls := codeClass ev.code
      let e : Pend := ⟨ev.code, cls, ev.book, ev.source, ev.pol, (s.pol ev.pol).gen, s.alm.now, ev.detail, false, false⟩
      ((s.book ev.book cls).enable = false ∨ s.sourceFenced ev.source = true → exec .eventEdge s =
        .next { s with crier := { s.crier with band := rest, stray := satAdd 0xFFFFFFFF s.crier.stray 1 } }) ∧
      ((s.book ev.book cls).enable = true → s.sourceFenced ev.source = false → (s.book ev.book cls).fullSince = none →
        s.crier.pend.any (fun x => x.sameBit e) = false →
        (codeHold ev.code = true → s.crier.sluice.any (fun x => x.sameBit e) = false) → exec .eventEdge s =
          .next { s with crier := { s.crier with band := rest, pend := s.crier.pend ++ [e] } }) ∧
      ((s.book ev.book cls).enable = true → s.sourceFenced ev.source = false → (s.book ev.book cls).fullSince ≠ none →
        s.crier.pend.any (fun x => x.sameBit e) = false →
        (codeHold ev.code = true → exec .eventEdge s =
          .next { s with crier := { s.crier with band := rest, sluice := s.crier.sluice ++ [e] } }) ∧
        (codeHold ev.code = false → completes .eventEdge s fun t =>
          (t.book ev.book cls).overflow = true ∧ t.crier.band = rest ∧ t.crier.pend = s.crier.pend ++ [e]
            ∧ t = { s with crier := t.crier })) ∧
      ((s.book ev.book cls).enable = true → s.sourceFenced ev.source = false →
        s.crier.pend.any (fun x => x.sameBit e) = true →
        (codeHold ev.code = true → exec .eventEdge s =
          .next { s with crier := { s.crier with band := rest, sluice := s.crier.sluice ++ [e] } }) ∧
        (codeHold ev.code = false → completes .eventEdge s fun t =>
          (t.book ev.book cls).merges = satAdd 0xFFFF (s.book ev.book cls).merges 1 ∧ t.crier.band = rest
            ∧ t.crier.pend.length = s.crier.pend.length ∧ t = { s with crier := t.crier }))) ∧
  (∀ (s : State) (cls : Fin 2) (p : Pol) (source : Nat) (e : Pend),
      s.crier.sluice.find? (fun e => e.cls = cls.val && e.pol = p.val && e.source = source) = some e → s.crier.pend.any (fun x => x.sameBit e) = false → (s.book e.book e.cls).fullSince = none →
      exec (.sluiceRelease cls p source) s =
        .next { s with crier := { s.crier with sluice := s.crier.sluice.erase e, pend := s.crier.pend ++ [{ e with held := true }] } }) ∧
  (∀ (s : State) (cls : Fin 2) (e : Pend), (∀ x ∈ s.crier.pend, x.cls = cls.val → (s.book x.book x.cls).full = false) →
      nextPend (s.crier.last.get 0 cls.val) (s.crier.pend.filter fun x => x.cls = cls.val) = some e →
      let b := s.book e.book e.cls
      completes (.daybookRecordWrite cls) s fun t =>
        t.crier.pend = s.crier.pend.erase e ∧ (t.book e.book e.cls).prod = (b.prod + 1) % 2 ^ 32 ∧ (t.book e.book e.cls).cons = b.cons
          ∧ t.mem = (s.placeRecord e.book (b.base + 32 * (b.prod % b.count)) (pendRecord e b)).mem) ∧
  (∀ (s : State) (p : Pol) (cls : Fin 2) (a : RegAcc), s.ownerWrites p.val a (offDbBase p.val cls.val) = true →
      let b := s.book p.val cls.val
      (a.bit 0 = true → b.enable = false → s.bookPlace p.val (4096 * a.fld 12 46 (b.base / 4096)) = true → a.fld 8 4 b.size ≤ 10 →
        completes (.daybookEnable p cls a) s fun t =>
          (t.book p.val cls.val).enable = true ∧ (t.book p.val cls.val).prod = 0 ∧ (t.book p.val cls.val).cons = 0
            ∧ (t.book p.val cls.val).base = 4096 * a.fld 12 46 (b.base / 4096) ∧ t = { s with crier := t.crier }) ∧
      (a.bit 0 = false → a.hits 0 = true → b.enable = true → completes (.daybookDisable p cls a) s fun t =>
        (t.book p.val cls.val).enable = false ∧ (∀ x ∈ t.crier.pend, ¬(x.book = p.val ∧ x.cls = cls.val)) ∧ t.mem = s.mem)) ∧
  (∀ (s : State) (p : Pol) (cls : Fin 2) (sup : Nat), s.supOf p.val = some sup → 2 ≤ p.val →
      ((s.book p.val cls.val).reported = false → s.heldFor (s.book p.val cls.val).fullSince 2000 = true →
        completes (.daybookOverflow p cls) s fun t =>
          (t.book p.val cls.val).reported = true ∧ ∃ e, t.crier.band = s.crier.band ++ [e] ∧ e.code = .daybookOverflow ∧ e.book = sup) ∧
      ((s.book p.val cls.val).fenced = false →
        s.heldFor (s.book p.val cls.val).fullSince (1000000 * max 1 (s.book p.val cls.val).limit) = true →
        completes (.polderFenced p cls) s fun t =>
          (t.pol p.val).enable = false ∧ (t.pol p.val).pending = []
            ∧ (∀ x ∈ t.crier.sluice, x.book ≠ p.val) ∧ ∃ l e, t.crier.band = l ++ [e] ∧ e.code = .polderFenced)) ∧
  (∀ (s : State) (d : Die), 2 ≤ s.boot.stage → (s.mill d.val).fenced = false →
      (completes (.millClockLoss d) s fun t =>
        (t.mill d.val).fenced = true ∧ (t.fence (5 + d.val)).cause = 1
          ∧ (t.fence (5 + d.val)).fences = satAdd 0xFFFF (s.fence (5 + d.val)).fences 1) ∧
      (completes (.uncorrectableError (.mill d)) s fun t =>
        (t.mill d.val).fenced = true ∧ (t.fence (5 + d.val)).cause = 3) ∧
      (∀ b, b / 256 = d.val → (s.bundle b).state = 1 → completes (.bundleDead b) s fun t =>
        (t.bundle b).state = 3 ∧ (t.mill d.val).fenced = true ∧ (t.fence (5 + d.val)).cause = 2)) ∧
  (∀ (s : State) (b : Nat), 2048 ≤ b → (s.bundle b).state = 1 →
      (b < 2080 → completes (.bundleDead b) s fun t => (t.bundle b).state = 3
        ∧ ∀ p, p < 64 → ∀ e ∈ (s.pol p).running, (s.schedStint e.2.m.schedule fun x => stintOnBundle x b) = true →
            (t.pol p).isRunning e.1 = false) ∧
      (2080 ≤ b → b < 2088 → (s.keel ((b - 2080) / 2)).fenced = false → completes (.bundleDead b) s fun t =>
        (t.bundle b).state = 3 ∧ (t.keel ((b - 2080) / 2)).fenced = true ∧ (t.fence (1 + (b - 2080) / 2)).cause = 2)) ∧
  (∀ (s : State) (k : Keel) (join : Fin 8), 2 ≤ s.boot.stage → (s.keel k.val).fenced = false →
      (joinsOf k.val).contains join.val = true →
      (completes (.forwardingPathLoss k join) s fun t => (t.keel k.val).fenced = true ∧ (t.fence (1 + k.val)).cause = 1
        ∧ t.boot.paths = s.boot.paths &&& ~~~(BitVec.ofNat 16 (3 * 4 ^ join.val))) ∧
      completes (.uncorrectableError (.keel k)) s fun t => (t.keel k.val).fenced = true ∧ (t.fence (1 + k.val)).cause = 3) ∧
  (∀ (s : State) (level : Nat) (d : Die) (line : Nat) (sectors : BitVec 8), level ≤ 2 → sectors ≠ 0 →
      (s.region (line * 1024)).isMem = true → completes (.memoryUe level d line sectors) s fun t =>
        t.mem = s.mem ∧ (∃ l e, t.crier.band = l ++ [e] ∧ e.code = .memoryUe ∧ e.source = srcKeel (homeOf line))
          ∧ (level = 2 ∨ s.stockAt (line * 1024) ≠ none ∨ (level = 1 ∧ s.granFind line = none) →
            (t.mark line).poison = (s.mark line).poison ||| sectors ∧ t.gran = s.gran ∧ t.bins = s.bins)
          ∧ (s.stockAt (line * 1024) ≠ none → ∃ e ∈ t.crier.band, e.code = .stockPoisoned)
          ∧ (s.stockAt (line * 1024) = none →
            (∀ key g, level = 1 → s.granFind line = some (key, g) → t.bins = s.bins ∧ t.marks = s.marks
              ∧ t.gran.get {} key = { g with poison := g.poison ||| (sectors &&& g.present) })
            ∧ (level = 0 → t.gran = s.gran ∧ t.marks = s.marks ∧ t.bins = s.bins.map fun e =>
              if e.1 / 2 ^ 17 = d.val ∧ e.2.st ≠ .i ∧ e.2.line = line then
                (e.1, { e.2 with poison := e.2.poison ||| (sectors &&& e.2.valid) }) else e))) ∧
  (∀ (s : State) (d : Die) (a : RegAcc) (port : Nat), s.pfWrites a (offMillCtl d.val) = some port → a.bit 0 = true →
      (s.mill d.val).resetBusy = false → (∀ p, s.polUsesDie p d.val = true → (s.pol p).port = port) →
      ((s.keel (d.val / 2)).fenced = false → completes (.millReset d a true []) s fun t =>
        (t.mill d.val).resetBusy = true ∧ (t.mill d.val).fenced = true ∧ (t.mill d.val).returning = some 0
          ∧ ((s.mill d.val).fenced = false → (t.fence (5 + d.val)).cause = 4)) ∧
      ∀ faults,
        (∀ clockOk, clockOk = false ∨ (s.keel (d.val / 2)).fenced = true → completes (.millReset d a clockOk faults) s fun t =>
          (t.mill d.val).status = 2 ∧ (t.mill d.val).fenced = true) ∧
        (∀ f ∈ faults, (s.keel (d.val / 2)).fenced = false → f.bundle < 2048 → f.bundle / 256 = d.val → s.steer f = none → completes (.millReset d a true faults) s fun t =>
          (t.mill d.val).status = 3 ∧ (t.mill d.val).fenced = true)) ∧
  ∀ (s : State) (d : Die) (n : Nat), (s.mill d.val).returning = some n → s.tide.boundary = some s.alm.now →
    completes (.dieReturned d) s fun t =>
      (t.mill d.val).fenced = false ∧ (t.mill d.val).resetBusy = false ∧ (t.fence (5 + d.val)).fenced = false
        ∧ ∃ x y, t.crier.band = s.crier.band ++ [x, y] ∧ x.code = .dieReturned ∧ y.code = .dieReturned ∧ t.mem = s.mem


/-! ## Power and heat (chapter 17) -/

/-- From R362 to R378, R383, R385, R386: the caps, the samples that lower and raise the common level L, the input's range and
its loss, the thermal ceilings, the voltage steps, droop, and THERMTRIP_N. The model's own choices here are those of log
entries 3, 53 and 54. -/
def Obligations.PowerAndHeatFollow : Prop :=
  (∀ (s : State) (volts amps : Nat) (mills : List Nat), s.boot.powered = true →
      let cap := (s.setVolts volts).pwr.inForce
      let w := volts * amps / 100
      (completes (.powerSample volts amps mills) s fun t =>
        t.pwr.volts = volts ∧ t.pwr.amps = amps ∧ t.pwr.watts = w ∧ t.pwr.inForce = cap ∧ t.mem = s.mem) ∧
      (w ≤ cap → 95 * cap < 100 * w → completes (.powerSample volts amps mills) s fun t =>
        t.pwr.common = s.pwr.common ∧ t.mills = s.mills) ∧
      (cap < w → 5 * cap < 4 * w → s.sealed = false → 1 < s.pwr.common →
        completes (.powerSample volts amps mills) s fun t => 1 ≤ t.pwr.common ∧ t.pwr.common < s.pwr.common) ∧
      (∀ a, 100 * w ≤ 95 * cap → s.pwr.raisedAt = none → s.pwr.below95Since = some a → s.passed a 64000 = true →
        s.pwr.common < 64 → completes (.powerSample volts amps mills) s fun t => t.pwr.common = min 64 (s.pwr.common + 4)) ∧
      (∀ a, 100 * w ≤ 95 * cap → s.pwr.raisedAt = some a → s.passed a 16000 = true →
        s.pwr.common < 64 → completes (.powerSample volts amps mills) s fun t => t.pwr.common = min 64 (s.pwr.common + 4))) ∧
  (∀ (s : State) (volts : Nat), s.boot.powered = true → s.pwr.rangeRaised = false → ¬(440 ≤ volts ∧ volts ≤ 560) →
      completes (.inputRange volts) s fun t =>
        t.pwr.volts = volts ∧ t.pwr.rangeRaised = true ∧ ∃ l x y, t.crier.band = l ++ [x, y] ∧ x.code = .inputRange ∧ x.book = 0
          ∧ y.code = .inputRange ∧ y.book = 1 ∧ x.detail.take 2 = leBytes 2 volts) ∧
  (∀ (s : State) (volts : Nat),
      (400 ≤ volts → volts ≤ 600 → exec (.inputPowerLoss volts) s = .next s) ∧
      (volts < 400 ∨ 600 < volts → s.boot.powered = true → completes (.inputPowerLoss volts) s fun t =>
        t.boot.powered = false ∧ t.boot.stage0 = false ∧ t.mem = [] ∧ t.img = none ∧ t.nv = s.nv ∧ t.pwr.volts = volts)) ∧
  (∀ (s : State) (a : RegAcc) (port : Nat), s.pfWrites a offPwrCap = some port →
      ((s.port port).capLock = true → exec (.capLimitWrite a) s = .next s ∧ exec (.pwrCapLock a) s = .next s) ∧
      ((s.port port).capLock = false → completes (.capLimitWrite a) s fun t =>
        (t.port port).capLimit = a.fld 0 13 (s.port port).capLimit ∧ (t.port port).capLock = a.bit 16
          ∧ (a.fld 0 13 (s.port port).capLimit ≠ 0 → a.hits 0 = true → t.pwr.dflt = false) ∧ t.mem = s.mem) ∧
      ((s.port port).capLock = false → a.bit 16 = true → completes (.pwrCapLock a) s fun t => (t.port port).capLock = true)) ∧
  (∀ (s : State) (i : Fin 13) (c : Nat), s.boot.stage0 = true →
      (120 ≤ c → completes (.dieTempRead i c) s fun t =>
        t.boot.tripLow = true ∧ t.boot.powered = false ∧ t.boot.stage0 = false ∧ t.nv = s.nv) ∧
      (c < 120 → completes (.dieTempRead i c) s fun t =>
        (t.heat i.val).temp = c ∧ (t.heat i.val).peak = max (s.heat i.val).peak c ∧ t.boot = s.boot
          ∧ (c < hotAt i.val ∨ (s.heat i.val).hot = true → (t.heat i.val).ceil = (s.heat i.val).ceil ∧ t.crier = s.crier)
          ∧ (hotAt i.val ≤ c → (s.heat i.val).hot = false → (t.heat i.val).ceil = max 8 ((s.heat i.val).ceil - 8)
            ∧ ∃ x y, t.crier.band = s.crier.band ++ [x, y] ∧ x.code = .dieHot ∧ y.code = .dieHot)) ∧
      (s.passed (s.heat i.val).stepAt 100000 = true →
        ((s.heat i.val).hot = true → 8 < (s.heat i.val).ceil → completes (.thermalCeilingStep i) s fun t =>
          (t.heat i.val).ceil = max 8 ((s.heat i.val).ceil - 8) ∧ (t.heat i.val).stepAt = s.clock ∧ t.crier = s.crier) ∧
        ((s.heat i.val).hot = false → (s.heat i.val).cool = true → (s.heat i.val).ceil < 64 →
          completes (.thermalCeilingStep i) s fun t =>
            (t.heat i.val).ceil = min 64 ((s.heat i.val).ceil + 8) ∧ t.crier = s.crier))) ∧
  (∀ (s : State) (d : Die), s.stepsFree d.val = true →
      (s.lowCond d.val = true → s.heldMs (s.diePower d.val).lowSince = true → completes (.stepDown d) s fun t =>
        (t.diePower d.val).changing = some ((s.diePower d.val).step + 1) ∧ (t.diePower d.val).step = (s.diePower d.val).step + 1
          ∧ t.mem = s.mem) ∧
      (s.highCond d.val = true → s.heldMs (s.diePower d.val).highSince = true → completes (.stepUp d) s fun t =>
        (t.diePower d.val).changing = some ((s.diePower d.val).step - 1) ∧ (t.diePower d.val).step = (s.diePower d.val).step
          ∧ t.mem = s.mem)) ∧
  (∀ (s : State) (d : Die) (n : Nat), (s.diePower d.val).changing = some n → (s.diePower d.val).moveDue = false →
      completes (.voltageSettled d) s fun t =>
        (t.diePower d.val).step = n ∧ (t.diePower d.val).changing = none ∧ t.crier = s.crier) ∧
  (∀ (s : State) (p : Pol) (seq : Nat) (phase : Fin 8) (c : Schedule), (s.pol p.val).isRunning seq = true →
      let r := (s.pol p.val).run seq
      s.schedule r.m.schedule = some c → r.suspended = false → r.phase = phase.val → phase.val < c.phases.length →
      r.m.tb + 4096 * r.m.startTide + 1024 + s.phaseStart c r.m.opp phase.val ≤ s.alm.now →
      completes (.phaseStart p seq phase) s fun t => ((t.pol p.val).run seq).phase = phase.val + 1 ∧ t.mem = s.mem) ∧
  (∀ (s : State) (d : Die) (detector : Fin 32), s.boot.powered = true → (s.mill d.val).fenced = false →
      completes (.droop d detector) s fun t =>
        (t.mill d.val).droopStop = (s.mill d.val).droopStop ||| ((1 : BitVec 16) <<< (detector.val / 2))
          ∧ (t.mill d.val).droopAt.get 0 (detector.val / 2) = s.clock
          ∧ (t.diePower d.val).droops = satAdd 0xFF (s.diePower d.val).droops 1 ∧ t.mem = s.mem
          ∧ ∃ x y, t.crier.band = s.crier.band ++ [x, y] ∧ x.code = .droop ∧ y.code = .droop) ∧
  (∀ (s : State) (d : Die) (tile : Fin 16), (s.mill d.val).droopStop.getLsbD tile.val = true →
      s.passed ((s.mill d.val).droopAt.get 0 tile.val) 32 = true → completes (.droopResume d tile) s fun t =>
        (t.mill d.val).droopStop = (s.mill d.val).droopStop &&& ~~~((1 : BitVec 16) <<< tile.val) ∧ t = { s with mills := t.mills }) ∧
  ∀ s : State, s.boot.tripLow = true →
    (s.passed s.boot.tripAt 50000000 = true →
      exec .thermtripRelease s = .next { s with boot := { s.boot with tripLow := false } }) ∧
    (s.passed s.boot.tripAt 50000000 = false → exec .thermtripRelease s = .next s)

/-! ## The SMBus target and security (chapters 17 and 18) -/

/-- The state after an SMBus transaction: the status bits latch what holds, and the answer stands at the target. -/
def smbusAnswers (s : State) (answer : List Byte) (acked : Bool) : State :=
  { s.latchStatus with pmbus := { s.latchStatus.pmbus with answer := answer, acked := acked } }

/-- From R387, R389 and R327 to R331, R335: what the SMBus target answers from Stage 0 on, and that it acknowledges nothing
before; that CLEAR_FAULTS clears what no longer holds; that key and firmware requests of the security mailbox end with their
status and change the slot, or the firmware, only on success. The model's own choices here are those of log entries 10, 55 and
56. -/
def Obligations.TargetAndSecurityAnswer : Prop :=
  (∀ (s : State), s.boot.stage0 = false →
      ∀ c ∈ ([.clearFaults, .statusWord, .statusInput, .statusTemperature, .statusCml, .statusMfrSpecific, .readVin, .readIin, .readPin,
        .readTemperature1, .pmbusRevision, .mfrId, .mfrModel, .alertResponse] : List Instr),
        exec c s = .next { s with pmbus := { s.pmbus with answer := [], acked := false } }) ∧
  (∀ (s : State), s.boot.stage0 = true →
      exec .statusWord s = .next (smbusAnswers s (leBytes 2 s.latchStatus.statusWord) true)
        ∧ exec .statusInput s = .next (smbusAnswers s [s.pmbus.input ||| s.statusInputNow] true)
        ∧ exec .statusTemperature s = .next (smbusAnswers s [s.pmbus.temperature ||| s.statusTempNow] true)
        ∧ exec .statusCml s = .next (smbusAnswers s [s.pmbus.cml] true)
        ∧ exec .statusMfrSpecific s = .next (smbusAnswers s [s.pmbus.mfr ||| s.statusMfrNow] true)
        ∧ exec .readVin s = .next (smbusAnswers s (linear11 0x88 s.pwr.volts) true)
        ∧ exec .readIin s = .next (smbusAnswers s (linear11 0x89 s.pwr.amps) true)
        ∧ exec .readPin s = .next (smbusAnswers s (linear11 0x97 (10 * s.pwr.watts)) true)
        ∧ exec .readTemperature1 s = .next (smbusAnswers s (linear11 0x8D (10 * s.hottest)) true)
        ∧ exec .pmbusRevision s = .next (smbusAnswers s [0x33] true)
        ∧ exec .mfrId s = .next (smbusAnswers s (7 :: ascii "TCHIGAL") true)
        ∧ exec .mfrModel s = .next (smbusAnswers s (13 :: (ascii "ZP-2400-F" ++ [BitVec.ofNat 8 (48 + s.nv.fibre)] ++ ascii "-C"
            ++ [BitVec.ofNat 8 (48 + s.nv.coldPlate)])) true)
        ∧ exec .clearFaults s = .next { s with pmbus := { s.pmbus with
            input := s.statusInputNow, temperature := s.statusTempNow, cml := 0, mfr := s.statusMfrNow, answer := [], acked := true } }) ∧
  (∀ (s : State) (code : BitVec 8), s.boot.stage0 = true → pmbusCodes.contains code.toNat = false →
      completes (.unsupportedCommand code) s fun t =>
        t.pmbus.cml = s.pmbus.cml ||| 0x80 ∧ t.pmbus.answer = [] ∧ t.pmbus.acked = false ∧ t = { s with pmbus := t.pmbus }) ∧
  (∀ (s : State), s.boot.stage0 = true →
      (s.latchStatus.alertLow = true → completes .alertResponse s fun t =>
        (t.pmbus.answer = [0xB0] ∨ t.pmbus.answer = [0xB1]) ∧ t.pmbus.acked = true
          ∧ t = { s with seed := t.seed, pmbus := t.pmbus }) ∧
      (s.latchStatus.alertLow = false → exec .alertResponse s = .next (smbusAnswers s [] false))) ∧
  (∀ (s : State) (port : Port),
      let r := (s.port port.val).request (s.port port.val).mboxLen
      (∀ cmd, cmd = 1 ∨ cmd = 2 → s.secRuns port.val cmd = true →
        let status := s.keyRefusal cmd (s.port port.val).mboxLen r
        completes (if cmd = 1 then .enrol port else .revoke port) s fun t =>
          (t.port port.val).mboxStatus = status ∧ (t.port port.val).mboxBusy = false ∧ t.mem = s.mem
            ∧ (status = 0 → t.keySlot (leAt r 9 1) = keyOf cmd r
              ∧ ∃ x y, t.crier.band = s.crier.band ++ [x, y] ∧ x.code = .keyChanged ∧ y.code = .keyChanged)
            ∧ (status ≠ 0 → t.nv = s.nv ∧ t.crier = s.crier)) ∧
      ((∀ slot, keyOf 2 slot = {}) ∧ (keyRecordOk 1 (s.port port.val).mboxLen r = true → s.keysWord = 0 →
        s.keyRefusal 1 (s.port port.val).mboxLen r = 0)) ∧
      (s.secRuns port.val 3 = true →
        (leAt r 0 8 % 8 = 0 → leAt r 0 8 < fwSlotSize → leAt r 0 8 + ((s.port port.val).mboxLen - 8) ≤ fwSlotSize →
          s.fwTaken port = false → completes (.fwWrite port) s fun t =>
            t.nv.fwBytes.get [] s.inactiveSlot = putAt (s.nv.fwBytes.get [] s.inactiveSlot) (leAt r 0 8) (r.drop 8)
              ∧ t.sec.owner = some port ∧ (t.port port.val).mboxStatus = 0 ∧ t.nv.fwSlot = s.nv.fwSlot ∧ t.crier = s.crier) ∧
        (leAt r 0 8 % 8 = 0 → leAt r 0 8 < fwSlotSize → leAt r 0 8 + ((s.port port.val).mboxLen - 8) ≤ fwSlotSize →
          s.fwTaken port = true → completes (.fwWrite port) s fun t => (t.port port.val).mboxStatus = 6 ∧ t.nv = s.nv ∧ t.sec.owner = s.sec.owner) ∧
        (leAt r 0 8 % 8 ≠ 0 → completes (.fwWrite port) s fun t => (t.port port.val).mboxStatus = 1 ∧ t.nv = s.nv)) ∧
      (s.secRuns port.val 4 = true → leAt r 0 8 ≤ fwSlotSize → s.fwTaken port = false →
        let fw := slice (s.nv.fwBytes.get [] s.inactiveSlot) 0 (leAt r 0 8)
        completes (.fwCommit port) s fun t =>
          (t.port port.val).mboxStatus = (if Config.firmwareVerifies fw then if Config.firmwareSvn fw < s.nv.fwFloor then 3 else 0 else 2)
            ∧ t.nv.fwPending = (Config.firmwareVerifies fw && s.nv.fwFloor ≤ Config.firmwareSvn fw) ∧ t.sec.owner = none
            ∧ t.nv.fwSlot = s.nv.fwSlot))
end

