-- ==== Sys2Proof/Laws/Map.lean ====
section
/-! SUPPORT. Sparse maps and memory: an element read after it is set, every other element left alone, and the canonical
form kept. -/

namespace Sys2Proof

variable {α : Type}

theorem SMap.get_filter_ne (d : α) (m : SMap α) (i j : Nat) (h : j ≠ i) :
    SMap.get d (m.filter fun e => e.1 ≠ i) j = SMap.get d m j := by
  induction m with
  | nil => rfl
  | cons e m ih =>
    by_cases hi : e.1 = i
    · have : e.1 ≠ j := fun hj => h (hj ▸ hi)
      simp [List.filter, hi, SMap.get] at ih ⊢
      rw [if_neg (Ne.symm h)]; exact ih
    · simp [hi, SMap.get] at ih ⊢
      rw [ih]

theorem SMap.get_filter_eq (d : α) (m : SMap α) (i : Nat) : SMap.get d (m.filter fun e => e.1 ≠ i) i = d := by
  induction m with
  | nil => rfl
  | cons e m ih =>
    by_cases hi : e.1 = i
    · simp [hi] at ih ⊢; exact ih
    · simp [hi, SMap.get] at ih ⊢; exact ih

theorem SMap.get_put_same (d : α) (m : SMap α) (i : Nat) (v : α) (h : ∀ e ∈ m, e.1 ≠ i) :
    SMap.get d (SMap.put m i v) i = v := by
  induction m with
  | nil => simp [SMap.put, SMap.get]
  | cons e m ih =>
    have he := h e (by simp)
    by_cases hi : i < e.1
    · simp [SMap.put, hi, SMap.get]
    · simp [SMap.put, hi, SMap.get, he]; exact ih fun x hx => h x (by simp [hx])

theorem SMap.get_put_other (d : α) (m : SMap α) (i j : Nat) (v : α) (h : j ≠ i) :
    SMap.get d (SMap.put m i v) j = SMap.get d m j := by
  induction m with
  | nil => simp [SMap.put, SMap.get, Ne.symm h]
  | cons e m ih =>
    by_cases hi : i < e.1
    · simp [SMap.put, hi, SMap.get, Ne.symm h]
    · simp [SMap.put, hi, SMap.get, ih]

/-- An element read after it is set. -/
@[simp] theorem SMap.get_set_same [DecidableEq α] (d : α) (m : SMap α) (i : Nat) (v : α) :
    SMap.get d (SMap.set d m i v) i = v := by
  unfold SMap.set
  split
  · next h => rw [SMap.get_filter_eq, h]
  · exact SMap.get_put_same d _ i v (by simp)

/-- Every other element is left alone. -/
theorem SMap.get_set_other [DecidableEq α] (d : α) (m : SMap α) (i j : Nat) (v : α) (h : j ≠ i) :
    SMap.get d (SMap.set d m i v) j = SMap.get d m j := by
  unfold SMap.set
  split
  · exact SMap.get_filter_ne d m i j h
  · rw [SMap.get_put_other d _ i j v h, SMap.get_filter_ne d m i j h]

@[simp] theorem SMap.get_upd_same [DecidableEq α] (d : α) (m : SMap α) (i : Nat) (f : α → α) :
    SMap.get d (SMap.upd d m i f) i = f (SMap.get d m i) := SMap.get_set_same d m i _

theorem SMap.get_upd_other [DecidableEq α] (d : α) (m : SMap α) (i j : Nat) (f : α → α) (h : j ≠ i) :
    SMap.get d (SMap.upd d m i f) j = SMap.get d m j := SMap.get_set_other d m i j _ h

/-! ## The canonical form -/

/-- Keys strictly rising, no element equal to `d`. -/
theorem SMap.wf_iff [DecidableEq α] (d : α) (m : SMap α) :
    SMap.wf d m = true ↔ (∀ e ∈ m, e.2 ≠ d) ∧ m.Pairwise fun a b => a.1 < b.1 := by
  induction m with
  | nil => simp [SMap.wf]
  | cons e m ih =>
    cases m with
    | nil => simp [SMap.wf]
    | cons f m =>
      simp only [SMap.wf, Bool.and_eq_true, decide_eq_true_eq, ih]
      constructor
      · rintro ⟨⟨h1, h2⟩, h3, h4⟩
        refine ⟨fun x hx => ?_, List.pairwise_cons.2 ⟨fun x hx => ?_, h4⟩⟩
        · rcases List.mem_cons.1 hx with rfl | hx
          · exact h1
          · exact h3 x hx
        · rcases List.mem_cons.1 hx with rfl | hx
          · exact h2
          · exact Nat.lt_trans h2 ((List.pairwise_cons.1 h4).1 x hx)
      · rintro ⟨h1, h2⟩
        exact ⟨⟨h1 e (by simp), (List.pairwise_cons.1 h2).1 f (by simp)⟩,
          fun x hx => h1 x (by simp [hx]), (List.pairwise_cons.1 h2).2⟩

/-- Dropping elements keeps the canonical form. -/
theorem SMap.wf_filter [DecidableEq α] (d : α) (m : SMap α) (p : Nat × α → Bool) (h : SMap.wf d m = true) :
    SMap.wf d (m.filter p) = true := by
  rw [SMap.wf_iff] at h ⊢
  exact ⟨fun e he => h.1 e (List.mem_filter.1 he).1, h.2.filter p⟩

theorem SMap.mem_put (m : SMap α) (i : Nat) (v : α) (e : Nat × α) : e ∈ SMap.put m i v ↔ e = (i, v) ∨ e ∈ m := by
  induction m with
  | nil => simp [SMap.put]
  | cons f m ih =>
    by_cases hi : i < f.1
    · simp [SMap.put, hi]
    · simp [SMap.put, hi, ih]; tauto

theorem SMap.put_rising (m : SMap α) (i : Nat) (v : α) (h : m.Pairwise fun a b => a.1 < b.1) (hi : ∀ e ∈ m, e.1 ≠ i) :
    (SMap.put m i v).Pairwise fun a b => a.1 < b.1 := by
  induction m with
  | nil => simp [SMap.put]
  | cons f m ih =>
    have hf := List.pairwise_cons.1 h
    by_cases hlt : i < f.1
    · simp only [SMap.put, if_pos hlt]
      refine List.pairwise_cons.2 ⟨fun e he => ?_, h⟩
      rcases List.mem_cons.1 he with rfl | he
      · exact hlt
      · exact Nat.lt_trans hlt (hf.1 e he)
    · simp only [SMap.put, if_neg hlt]
      refine List.pairwise_cons.2 ⟨fun e he => ?_, ih hf.2 fun e he => hi e (by simp [he])⟩
      have := hi f (by simp)
      rcases (SMap.mem_put m i v e).1 he with rfl | he
      · show f.1 < i
        omega
      · exact hf.1 e he

/-- Setting an element keeps the canonical form. -/
theorem SMap.wf_set [DecidableEq α] (d : α) (m : SMap α) (i : Nat) (v : α) (h : SMap.wf d m = true) :
    SMap.wf d (SMap.set d m i v) = true := by
  unfold SMap.set
  split
  · exact SMap.wf_filter d m _ h
  · next hv =>
    have hw := (SMap.wf_iff d _).1 (SMap.wf_filter d m (fun e => e.1 ≠ i) h)
    rw [SMap.wf_iff]
    refine ⟨fun e he => ?_, SMap.put_rising _ i v hw.2 (by simp)⟩
    rcases (SMap.mem_put _ i v e).1 he with rfl | he
    · exact hv
    · exact hw.1 e he

theorem SMap.wf_upd [DecidableEq α] (d : α) (m : SMap α) (i : Nat) (f : α → α) (h : SMap.wf d m = true) :
    SMap.wf d (SMap.upd d m i f) = true := SMap.wf_set d m i _ h

namespace Machine

/-! ## Memory -/

@[simp] theorem memByte_memSet (m : List Host.Cell) (a : Nat) (b : Byte) : memByte (memSet m a b) a = b :=
  SMap.get_set_same memDefault m a b

theorem memByte_memSet_other (m : List Host.Cell) (a c : Nat) (b : Byte) (h : c ≠ a) :
    memByte (memSet m a b) c = memByte m c := SMap.get_set_other memDefault m a c b h

theorem Memory.wf_memSet (m : List Host.Cell) (a : Nat) (b : Byte) (h : Memory.wf m = true) :
    Memory.wf (memSet m a b) = true := SMap.wf_set memDefault m a b h

theorem Memory.wf_memWrite (bs : List Byte) (m : List Host.Cell) (a : Nat) (h : Memory.wf m = true) :
    Memory.wf (memWrite m a bs) = true := by
  induction bs generalizing m a with
  | nil => exact h
  | cons b bs ih => exact ih _ _ (Memory.wf_memSet m a b h)

theorem Memory.wf_memPatch (bs : Bytes) (m : List Host.Cell) (base : Nat) (h : Memory.wf m = true) :
    Memory.wf (memPatch m base bs) = true := by
  unfold memPatch
  induction bs generalizing m with
  | nil => exact h
  | cons e bs ih => exact ih _ (Memory.wf_memSet m _ _ h)

theorem Memory.wf_memClear (m : List Host.Cell) (f : Nat → Bool) (h : Memory.wf m = true) :
    Memory.wf (memClear m f) = true := SMap.wf_filter memDefault m _ h

/-- A byte outside those that a patch names is left alone. -/
theorem memByte_memPatch_other (bs : Bytes) (m : List Host.Cell) (base c : Nat) (h : ∀ e ∈ bs, c ≠ base + e.1) :
    memByte (memPatch m base bs) c = memByte m c := by
  unfold memPatch
  induction bs generalizing m with
  | nil => rfl
  | cons e bs ih =>
    simp only [List.foldl_cons]
    rw [ih _ fun x hx => h x (by simp [hx]), memByte_memSet_other _ _ _ _ (h e (by simp))]

theorem memByte_memClear (m : List Host.Cell) (f : Nat → Bool) (a : Nat) :
    memByte (memClear m f) a = if f a then memDefault else memByte m a := by
  unfold memByte memClear
  induction m with
  | nil => simp [SMap.get]
  | cons e m ih =>
    by_cases hf : f e.1
    · simp only [List.filter, hf, Bool.not_true]
      rw [ih]
      by_cases ha : e.1 = a
      · subst ha; simp [hf]
      · simp [SMap.get, ha]
    · simp only [List.filter, hf, Bool.not_false, SMap.get]
      by_cases ha : e.1 = a
      · subst ha; simp [hf]
      · simp only [ha, if_false]; exact ih

/-- A byte of a range as it was written, any other as it was. -/
theorem memByte_memWrite (bs : List Byte) (m : List Host.Cell) (a x : Nat) :
    memByte (memWrite m a bs) x = if a ≤ x then bs.getD (x - a) (memByte m x) else memByte m x := by
  induction bs generalizing m a with
  | nil => simp [memWrite]
  | cons b bs ih =>
    rw [memWrite, ih]
    by_cases h : x = a
    · subst h; simp
    · rw [memByte_memSet_other _ _ _ _ h]
      by_cases hx : a ≤ x
      · have : a + 1 ≤ x := by omega
        rw [if_pos this, if_pos hx]
        obtain ⟨k, rfl⟩ : ∃ k, x = a + 1 + k := ⟨x - (a + 1), by omega⟩
        have : a + 1 + k - a = k + 1 := by omega
        simp [this]
      · rw [if_neg (by omega), if_neg hx]

/-- Bytes read after they are written. -/
theorem memRead_memWrite (bs : List Byte) (a : Nat) : memRead (memWrite [] a bs) a bs.length = bs := by
  apply List.ext_getElem
  · simp [memRead]
  · intro i h1 h2
    simp [memRead, memByte_memWrite, h2]

end Machine

end Sys2Proof
end

