-- ==== Sys2Proof/Laws/State.lean ====
section
/-! SUPPORT. What each update of the state leaves alone, and what an element reads after it: one lemma for each field of each
update. -/

namespace Sys2Proof.Machine

open Sys2Proof

variable (s : State)

/-! ## updPol -/

@[simp] theorem State.updPol_pending (p : Nat) (f : Polder → Polder) : (s.updPol p f).pending = s.pending := rfl
@[simp] theorem State.updPol_seed (p : Nat) (f : Polder → Polder) : (s.updPol p f).seed = s.seed := rfl
@[simp] theorem State.updPol_clock (p : Nat) (f : Polder → Polder) : (s.updPol p f).clock = s.clock := rfl
@[simp] theorem State.updPol_nextId (p : Nat) (f : Polder → Polder) : (s.updPol p f).nextId = s.nextId := rfl
@[simp] theorem State.updPol_nv (p : Nat) (f : Polder → Polder) : (s.updPol p f).nv = s.nv := rfl
@[simp] theorem State.updPol_boot (p : Nat) (f : Polder → Polder) : (s.updPol p f).boot = s.boot := rfl
@[simp] theorem State.updPol_alm (p : Nat) (f : Polder → Polder) : (s.updPol p f).alm = s.alm := rfl
@[simp] theorem State.updPol_img (p : Nat) (f : Polder → Polder) : (s.updPol p f).img = s.img := rfl
@[simp] theorem State.updPol_tide (p : Nat) (f : Polder → Polder) : (s.updPol p f).tide = s.tide := rfl
@[simp] theorem State.updPol_mem (p : Nat) (f : Polder → Polder) : (s.updPol p f).mem = s.mem := rfl
@[simp] theorem State.updPol_marks (p : Nat) (f : Polder → Polder) : (s.updPol p f).marks = s.marks := rfl
@[simp] theorem State.updPol_gran (p : Nat) (f : Polder → Polder) : (s.updPol p f).gran = s.gran := rfl
@[simp] theorem State.updPol_bins (p : Nat) (f : Polder → Polder) : (s.updPol p f).bins = s.bins := rfl
@[simp] theorem State.updPol_shadow (p : Nat) (f : Polder → Polder) : (s.updPol p f).shadow = s.shadow := rfl
@[simp] theorem State.updPol_txns (p : Nat) (f : Polder → Polder) : (s.updPol p f).txns = s.txns := rfl
@[simp] theorem State.updPol_net (p : Nat) (f : Polder → Polder) : (s.updPol p f).net = s.net := rfl
@[simp] theorem State.updPol_reqs (p : Nat) (f : Polder → Polder) : (s.updPol p f).reqs = s.reqs := rfl
@[simp] theorem State.updPol_land (p : Nat) (f : Polder → Polder) : (s.updPol p f).land = s.land := rfl
@[simp] theorem State.updPol_hbmStacks (p : Nat) (f : Polder → Polder) : (s.updPol p f).hbmStacks = s.hbmStacks := rfl
@[simp] theorem State.updPol_keels (p : Nat) (f : Polder → Polder) : (s.updPol p f).keels = s.keels := rfl
@[simp] theorem State.updPol_mills (p : Nat) (f : Polder → Polder) : (s.updPol p f).mills = s.mills := rfl
@[simp] theorem State.updPol_stations (p : Nat) (f : Polder → Polder) : (s.updPol p f).stations = s.stations := rfl
@[simp] theorem State.updPol_hands (p : Nat) (f : Polder → Polder) : (s.updPol p f).hands = s.hands := rfl
@[simp] theorem State.updPol_bundles (p : Nat) (f : Polder → Polder) : (s.updPol p f).bundles = s.bundles := rfl
@[simp] theorem State.updPol_quays (p : Nat) (f : Polder → Polder) : (s.updPol p f).quays = s.quays := rfl
@[simp] theorem State.updPol_stints (p : Nat) (f : Polder → Polder) : (s.updPol p f).stints = s.stints := rfl
@[simp] theorem State.updPol_collectors (p : Nat) (f : Polder → Polder) : (s.updPol p f).collectors = s.collectors := rfl
@[simp] theorem State.updPol_links (p : Nat) (f : Polder → Polder) : (s.updPol p f).links = s.links := rfl
@[simp] theorem State.updPol_engines (p : Nat) (f : Polder → Polder) : (s.updPol p f).engines = s.engines := rfl
@[simp] theorem State.updPol_commons (p : Nat) (f : Polder → Polder) : (s.updPol p f).commons = s.commons := rfl
@[simp] theorem State.updPol_ports (p : Nat) (f : Polder → Polder) : (s.updPol p f).ports = s.ports := rfl
@[simp] theorem State.updPol_crier (p : Nat) (f : Polder → Polder) : (s.updPol p f).crier = s.crier := rfl
@[simp] theorem State.updPol_pwr (p : Nat) (f : Polder → Polder) : (s.updPol p f).pwr = s.pwr := rfl
@[simp] theorem State.updPol_fences (p : Nat) (f : Polder → Polder) : (s.updPol p f).fences = s.fences := rfl
@[simp] theorem State.updPol_pmbus (p : Nat) (f : Polder → Polder) : (s.updPol p f).pmbus = s.pmbus := rfl
@[simp] theorem State.updPol_sec (p : Nat) (f : Polder → Polder) : (s.updPol p f).sec = s.sec := rfl
@[simp] theorem State.pol_updPol (p : Nat) (f : Polder → Polder) : (s.updPol p f).pol p = f (s.pol p) := SMap.get_upd_same _ _ _ _
theorem State.pol_updPol_other (p : Nat) (f : Polder → Polder) (j : Nat) (hj : j ≠ p) : (s.updPol p f).pol j = s.pol j :=
  SMap.get_upd_other _ _ _ _ _ hj

/-! ## updHand -/

@[simp] theorem State.updHand_pending (h : Nat) (f : Hand → Hand) : (s.updHand h f).pending = s.pending := rfl
@[simp] theorem State.updHand_seed (h : Nat) (f : Hand → Hand) : (s.updHand h f).seed = s.seed := rfl
@[simp] theorem State.updHand_clock (h : Nat) (f : Hand → Hand) : (s.updHand h f).clock = s.clock := rfl
@[simp] theorem State.updHand_nextId (h : Nat) (f : Hand → Hand) : (s.updHand h f).nextId = s.nextId := rfl
@[simp] theorem State.updHand_nv (h : Nat) (f : Hand → Hand) : (s.updHand h f).nv = s.nv := rfl
@[simp] theorem State.updHand_boot (h : Nat) (f : Hand → Hand) : (s.updHand h f).boot = s.boot := rfl
@[simp] theorem State.updHand_alm (h : Nat) (f : Hand → Hand) : (s.updHand h f).alm = s.alm := rfl
@[simp] theorem State.updHand_img (h : Nat) (f : Hand → Hand) : (s.updHand h f).img = s.img := rfl
@[simp] theorem State.updHand_tide (h : Nat) (f : Hand → Hand) : (s.updHand h f).tide = s.tide := rfl
@[simp] theorem State.updHand_pols (h : Nat) (f : Hand → Hand) : (s.updHand h f).pols = s.pols := rfl
@[simp] theorem State.updHand_mem (h : Nat) (f : Hand → Hand) : (s.updHand h f).mem = s.mem := rfl
@[simp] theorem State.updHand_marks (h : Nat) (f : Hand → Hand) : (s.updHand h f).marks = s.marks := rfl
@[simp] theorem State.updHand_gran (h : Nat) (f : Hand → Hand) : (s.updHand h f).gran = s.gran := rfl
@[simp] theorem State.updHand_bins (h : Nat) (f : Hand → Hand) : (s.updHand h f).bins = s.bins := rfl
@[simp] theorem State.updHand_shadow (h : Nat) (f : Hand → Hand) : (s.updHand h f).shadow = s.shadow := rfl
@[simp] theorem State.updHand_txns (h : Nat) (f : Hand → Hand) : (s.updHand h f).txns = s.txns := rfl
@[simp] theorem State.updHand_net (h : Nat) (f : Hand → Hand) : (s.updHand h f).net = s.net := rfl
@[simp] theorem State.updHand_reqs (h : Nat) (f : Hand → Hand) : (s.updHand h f).reqs = s.reqs := rfl
@[simp] theorem State.updHand_land (h : Nat) (f : Hand → Hand) : (s.updHand h f).land = s.land := rfl
@[simp] theorem State.updHand_hbmStacks (h : Nat) (f : Hand → Hand) : (s.updHand h f).hbmStacks = s.hbmStacks := rfl
@[simp] theorem State.updHand_keels (h : Nat) (f : Hand → Hand) : (s.updHand h f).keels = s.keels := rfl
@[simp] theorem State.updHand_mills (h : Nat) (f : Hand → Hand) : (s.updHand h f).mills = s.mills := rfl
@[simp] theorem State.updHand_stations (h : Nat) (f : Hand → Hand) : (s.updHand h f).stations = s.stations := rfl
@[simp] theorem State.updHand_bundles (h : Nat) (f : Hand → Hand) : (s.updHand h f).bundles = s.bundles := rfl
@[simp] theorem State.updHand_quays (h : Nat) (f : Hand → Hand) : (s.updHand h f).quays = s.quays := rfl
@[simp] theorem State.updHand_stints (h : Nat) (f : Hand → Hand) : (s.updHand h f).stints = s.stints := rfl
@[simp] theorem State.updHand_collectors (h : Nat) (f : Hand → Hand) : (s.updHand h f).collectors = s.collectors := rfl
@[simp] theorem State.updHand_links (h : Nat) (f : Hand → Hand) : (s.updHand h f).links = s.links := rfl
@[simp] theorem State.updHand_engines (h : Nat) (f : Hand → Hand) : (s.updHand h f).engines = s.engines := rfl
@[simp] theorem State.updHand_commons (h : Nat) (f : Hand → Hand) : (s.updHand h f).commons = s.commons := rfl
@[simp] theorem State.updHand_ports (h : Nat) (f : Hand → Hand) : (s.updHand h f).ports = s.ports := rfl
@[simp] theorem State.updHand_crier (h : Nat) (f : Hand → Hand) : (s.updHand h f).crier = s.crier := rfl
@[simp] theorem State.updHand_pwr (h : Nat) (f : Hand → Hand) : (s.updHand h f).pwr = s.pwr := rfl
@[simp] theorem State.updHand_fences (h : Nat) (f : Hand → Hand) : (s.updHand h f).fences = s.fences := rfl
@[simp] theorem State.updHand_pmbus (h : Nat) (f : Hand → Hand) : (s.updHand h f).pmbus = s.pmbus := rfl
@[simp] theorem State.updHand_sec (h : Nat) (f : Hand → Hand) : (s.updHand h f).sec = s.sec := rfl
@[simp] theorem State.hand_updHand (h : Nat) (f : Hand → Hand) : (s.updHand h f).hand h = f (s.hand h) := SMap.get_upd_same _ _ _ _
theorem State.hand_updHand_other (h : Nat) (f : Hand → Hand) (j : Nat) (hj : j ≠ h) : (s.updHand h f).hand j = s.hand j :=
  SMap.get_upd_other _ _ _ _ _ hj

/-! ## updMill -/

@[simp] theorem State.updMill_pending (d : Nat) (f : MillSt → MillSt) : (s.updMill d f).pending = s.pending := rfl
@[simp] theorem State.updMill_seed (d : Nat) (f : MillSt → MillSt) : (s.updMill d f).seed = s.seed := rfl
@[simp] theorem State.updMill_clock (d : Nat) (f : MillSt → MillSt) : (s.updMill d f).clock = s.clock := rfl
@[simp] theorem State.updMill_nextId (d : Nat) (f : MillSt → MillSt) : (s.updMill d f).nextId = s.nextId := rfl
@[simp] theorem State.updMill_nv (d : Nat) (f : MillSt → MillSt) : (s.updMill d f).nv = s.nv := rfl
@[simp] theorem State.updMill_boot (d : Nat) (f : MillSt → MillSt) : (s.updMill d f).boot = s.boot := rfl
@[simp] theorem State.updMill_alm (d : Nat) (f : MillSt → MillSt) : (s.updMill d f).alm = s.alm := rfl
@[simp] theorem State.updMill_img (d : Nat) (f : MillSt → MillSt) : (s.updMill d f).img = s.img := rfl
@[simp] theorem State.updMill_tide (d : Nat) (f : MillSt → MillSt) : (s.updMill d f).tide = s.tide := rfl
@[simp] theorem State.updMill_pols (d : Nat) (f : MillSt → MillSt) : (s.updMill d f).pols = s.pols := rfl
@[simp] theorem State.updMill_mem (d : Nat) (f : MillSt → MillSt) : (s.updMill d f).mem = s.mem := rfl
@[simp] theorem State.updMill_marks (d : Nat) (f : MillSt → MillSt) : (s.updMill d f).marks = s.marks := rfl
@[simp] theorem State.updMill_gran (d : Nat) (f : MillSt → MillSt) : (s.updMill d f).gran = s.gran := rfl
@[simp] theorem State.updMill_bins (d : Nat) (f : MillSt → MillSt) : (s.updMill d f).bins = s.bins := rfl
@[simp] theorem State.updMill_shadow (d : Nat) (f : MillSt → MillSt) : (s.updMill d f).shadow = s.shadow := rfl
@[simp] theorem State.updMill_txns (d : Nat) (f : MillSt → MillSt) : (s.updMill d f).txns = s.txns := rfl
@[simp] theorem State.updMill_net (d : Nat) (f : MillSt → MillSt) : (s.updMill d f).net = s.net := rfl
@[simp] theorem State.updMill_reqs (d : Nat) (f : MillSt → MillSt) : (s.updMill d f).reqs = s.reqs := rfl
@[simp] theorem State.updMill_land (d : Nat) (f : MillSt → MillSt) : (s.updMill d f).land = s.land := rfl
@[simp] theorem State.updMill_hbmStacks (d : Nat) (f : MillSt → MillSt) : (s.updMill d f).hbmStacks = s.hbmStacks := rfl
@[simp] theorem State.updMill_keels (d : Nat) (f : MillSt → MillSt) : (s.updMill d f).keels = s.keels := rfl
@[simp] theorem State.updMill_stations (d : Nat) (f : MillSt → MillSt) : (s.updMill d f).stations = s.stations := rfl
@[simp] theorem State.updMill_hands (d : Nat) (f : MillSt → MillSt) : (s.updMill d f).hands = s.hands := rfl
@[simp] theorem State.updMill_bundles (d : Nat) (f : MillSt → MillSt) : (s.updMill d f).bundles = s.bundles := rfl
@[simp] theorem State.updMill_quays (d : Nat) (f : MillSt → MillSt) : (s.updMill d f).quays = s.quays := rfl
@[simp] theorem State.updMill_stints (d : Nat) (f : MillSt → MillSt) : (s.updMill d f).stints = s.stints := rfl
@[simp] theorem State.updMill_collectors (d : Nat) (f : MillSt → MillSt) : (s.updMill d f).collectors = s.collectors := rfl
@[simp] theorem State.updMill_links (d : Nat) (f : MillSt → MillSt) : (s.updMill d f).links = s.links := rfl
@[simp] theorem State.updMill_engines (d : Nat) (f : MillSt → MillSt) : (s.updMill d f).engines = s.engines := rfl
@[simp] theorem State.updMill_commons (d : Nat) (f : MillSt → MillSt) : (s.updMill d f).commons = s.commons := rfl
@[simp] theorem State.updMill_ports (d : Nat) (f : MillSt → MillSt) : (s.updMill d f).ports = s.ports := rfl
@[simp] theorem State.updMill_crier (d : Nat) (f : MillSt → MillSt) : (s.updMill d f).crier = s.crier := rfl
@[simp] theorem State.updMill_pwr (d : Nat) (f : MillSt → MillSt) : (s.updMill d f).pwr = s.pwr := rfl
@[simp] theorem State.updMill_fences (d : Nat) (f : MillSt → MillSt) : (s.updMill d f).fences = s.fences := rfl
@[simp] theorem State.updMill_pmbus (d : Nat) (f : MillSt → MillSt) : (s.updMill d f).pmbus = s.pmbus := rfl
@[simp] theorem State.updMill_sec (d : Nat) (f : MillSt → MillSt) : (s.updMill d f).sec = s.sec := rfl
@[simp] theorem State.mill_updMill (d : Nat) (f : MillSt → MillSt) : (s.updMill d f).mill d = f (s.mill d) := SMap.get_upd_same _ _ _ _
theorem State.mill_updMill_other (d : Nat) (f : MillSt → MillSt) (j : Nat) (hj : j ≠ d) : (s.updMill d f).mill j = s.mill j :=
  SMap.get_upd_other _ _ _ _ _ hj

/-! ## updKeel -/

@[simp] theorem State.updKeel_pending (k : Nat) (f : KeelSt → KeelSt) : (s.updKeel k f).pending = s.pending := rfl
@[simp] theorem State.updKeel_seed (k : Nat) (f : KeelSt → KeelSt) : (s.updKeel k f).seed = s.seed := rfl
@[simp] theorem State.updKeel_clock (k : Nat) (f : KeelSt → KeelSt) : (s.updKeel k f).clock = s.clock := rfl
@[simp] theorem State.updKeel_nextId (k : Nat) (f : KeelSt → KeelSt) : (s.updKeel k f).nextId = s.nextId := rfl
@[simp] theorem State.updKeel_nv (k : Nat) (f : KeelSt → KeelSt) : (s.updKeel k f).nv = s.nv := rfl
@[simp] theorem State.updKeel_boot (k : Nat) (f : KeelSt → KeelSt) : (s.updKeel k f).boot = s.boot := rfl
@[simp] theorem State.updKeel_alm (k : Nat) (f : KeelSt → KeelSt) : (s.updKeel k f).alm = s.alm := rfl
@[simp] theorem State.updKeel_img (k : Nat) (f : KeelSt → KeelSt) : (s.updKeel k f).img = s.img := rfl
@[simp] theorem State.updKeel_tide (k : Nat) (f : KeelSt → KeelSt) : (s.updKeel k f).tide = s.tide := rfl
@[simp] theorem State.updKeel_pols (k : Nat) (f : KeelSt → KeelSt) : (s.updKeel k f).pols = s.pols := rfl
@[simp] theorem State.updKeel_mem (k : Nat) (f : KeelSt → KeelSt) : (s.updKeel k f).mem = s.mem := rfl
@[simp] theorem State.updKeel_marks (k : Nat) (f : KeelSt → KeelSt) : (s.updKeel k f).marks = s.marks := rfl
@[simp] theorem State.updKeel_gran (k : Nat) (f : KeelSt → KeelSt) : (s.updKeel k f).gran = s.gran := rfl
@[simp] theorem State.updKeel_bins (k : Nat) (f : KeelSt → KeelSt) : (s.updKeel k f).bins = s.bins := rfl
@[simp] theorem State.updKeel_shadow (k : Nat) (f : KeelSt → KeelSt) : (s.updKeel k f).shadow = s.shadow := rfl
@[simp] theorem State.updKeel_txns (k : Nat) (f : KeelSt → KeelSt) : (s.updKeel k f).txns = s.txns := rfl
@[simp] theorem State.updKeel_net (k : Nat) (f : KeelSt → KeelSt) : (s.updKeel k f).net = s.net := rfl
@[simp] theorem State.updKeel_reqs (k : Nat) (f : KeelSt → KeelSt) : (s.updKeel k f).reqs = s.reqs := rfl
@[simp] theorem State.updKeel_land (k : Nat) (f : KeelSt → KeelSt) : (s.updKeel k f).land = s.land := rfl
@[simp] theorem State.updKeel_hbmStacks (k : Nat) (f : KeelSt → KeelSt) : (s.updKeel k f).hbmStacks = s.hbmStacks := rfl
@[simp] theorem State.updKeel_mills (k : Nat) (f : KeelSt → KeelSt) : (s.updKeel k f).mills = s.mills := rfl
@[simp] theorem State.updKeel_stations (k : Nat) (f : KeelSt → KeelSt) : (s.updKeel k f).stations = s.stations := rfl
@[simp] theorem State.updKeel_hands (k : Nat) (f : KeelSt → KeelSt) : (s.updKeel k f).hands = s.hands := rfl
@[simp] theorem State.updKeel_bundles (k : Nat) (f : KeelSt → KeelSt) : (s.updKeel k f).bundles = s.bundles := rfl
@[simp] theorem State.updKeel_quays (k : Nat) (f : KeelSt → KeelSt) : (s.updKeel k f).quays = s.quays := rfl
@[simp] theorem State.updKeel_stints (k : Nat) (f : KeelSt → KeelSt) : (s.updKeel k f).stints = s.stints := rfl
@[simp] theorem State.updKeel_collectors (k : Nat) (f : KeelSt → KeelSt) : (s.updKeel k f).collectors = s.collectors := rfl
@[simp] theorem State.updKeel_links (k : Nat) (f : KeelSt → KeelSt) : (s.updKeel k f).links = s.links := rfl
@[simp] theorem State.updKeel_engines (k : Nat) (f : KeelSt → KeelSt) : (s.updKeel k f).engines = s.engines := rfl
@[simp] theorem State.updKeel_commons (k : Nat) (f : KeelSt → KeelSt) : (s.updKeel k f).commons = s.commons := rfl
@[simp] theorem State.updKeel_ports (k : Nat) (f : KeelSt → KeelSt) : (s.updKeel k f).ports = s.ports := rfl
@[simp] theorem State.updKeel_crier (k : Nat) (f : KeelSt → KeelSt) : (s.updKeel k f).crier = s.crier := rfl
@[simp] theorem State.updKeel_pwr (k : Nat) (f : KeelSt → KeelSt) : (s.updKeel k f).pwr = s.pwr := rfl
@[simp] theorem State.updKeel_fences (k : Nat) (f : KeelSt → KeelSt) : (s.updKeel k f).fences = s.fences := rfl
@[simp] theorem State.updKeel_pmbus (k : Nat) (f : KeelSt → KeelSt) : (s.updKeel k f).pmbus = s.pmbus := rfl
@[simp] theorem State.updKeel_sec (k : Nat) (f : KeelSt → KeelSt) : (s.updKeel k f).sec = s.sec := rfl
@[simp] theorem State.keel_updKeel (k : Nat) (f : KeelSt → KeelSt) : (s.updKeel k f).keel k = f (s.keel k) := SMap.get_upd_same _ _ _ _
theorem State.keel_updKeel_other (k : Nat) (f : KeelSt → KeelSt) (j : Nat) (hj : j ≠ k) : (s.updKeel k f).keel j = s.keel j :=
  SMap.get_upd_other _ _ _ _ _ hj

/-! ## updStack -/

@[simp] theorem State.updStack_pending (k : Nat) (f : Stack → Stack) : (s.updStack k f).pending = s.pending := rfl
@[simp] theorem State.updStack_seed (k : Nat) (f : Stack → Stack) : (s.updStack k f).seed = s.seed := rfl
@[simp] theorem State.updStack_clock (k : Nat) (f : Stack → Stack) : (s.updStack k f).clock = s.clock := rfl
@[simp] theorem State.updStack_nextId (k : Nat) (f : Stack → Stack) : (s.updStack k f).nextId = s.nextId := rfl
@[simp] theorem State.updStack_nv (k : Nat) (f : Stack → Stack) : (s.updStack k f).nv = s.nv := rfl
@[simp] theorem State.updStack_boot (k : Nat) (f : Stack → Stack) : (s.updStack k f).boot = s.boot := rfl
@[simp] theorem State.updStack_alm (k : Nat) (f : Stack → Stack) : (s.updStack k f).alm = s.alm := rfl
@[simp] theorem State.updStack_img (k : Nat) (f : Stack → Stack) : (s.updStack k f).img = s.img := rfl
@[simp] theorem State.updStack_tide (k : Nat) (f : Stack → Stack) : (s.updStack k f).tide = s.tide := rfl
@[simp] theorem State.updStack_pols (k : Nat) (f : Stack → Stack) : (s.updStack k f).pols = s.pols := rfl
@[simp] theorem State.updStack_mem (k : Nat) (f : Stack → Stack) : (s.updStack k f).mem = s.mem := rfl
@[simp] theorem State.updStack_marks (k : Nat) (f : Stack → Stack) : (s.updStack k f).marks = s.marks := rfl
@[simp] theorem State.updStack_gran (k : Nat) (f : Stack → Stack) : (s.updStack k f).gran = s.gran := rfl
@[simp] theorem State.updStack_bins (k : Nat) (f : Stack → Stack) : (s.updStack k f).bins = s.bins := rfl
@[simp] theorem State.updStack_shadow (k : Nat) (f : Stack → Stack) : (s.updStack k f).shadow = s.shadow := rfl
@[simp] theorem State.updStack_txns (k : Nat) (f : Stack → Stack) : (s.updStack k f).txns = s.txns := rfl
@[simp] theorem State.updStack_net (k : Nat) (f : Stack → Stack) : (s.updStack k f).net = s.net := rfl
@[simp] theorem State.updStack_reqs (k : Nat) (f : Stack → Stack) : (s.updStack k f).reqs = s.reqs := rfl
@[simp] theorem State.updStack_land (k : Nat) (f : Stack → Stack) : (s.updStack k f).land = s.land := rfl
@[simp] theorem State.updStack_keels (k : Nat) (f : Stack → Stack) : (s.updStack k f).keels = s.keels := rfl
@[simp] theorem State.updStack_mills (k : Nat) (f : Stack → Stack) : (s.updStack k f).mills = s.mills := rfl
@[simp] theorem State.updStack_stations (k : Nat) (f : Stack → Stack) : (s.updStack k f).stations = s.stations := rfl
@[simp] theorem State.updStack_hands (k : Nat) (f : Stack → Stack) : (s.updStack k f).hands = s.hands := rfl
@[simp] theorem State.updStack_bundles (k : Nat) (f : Stack → Stack) : (s.updStack k f).bundles = s.bundles := rfl
@[simp] theorem State.updStack_quays (k : Nat) (f : Stack → Stack) : (s.updStack k f).quays = s.quays := rfl
@[simp] theorem State.updStack_stints (k : Nat) (f : Stack → Stack) : (s.updStack k f).stints = s.stints := rfl
@[simp] theorem State.updStack_collectors (k : Nat) (f : Stack → Stack) : (s.updStack k f).collectors = s.collectors := rfl
@[simp] theorem State.updStack_links (k : Nat) (f : Stack → Stack) : (s.updStack k f).links = s.links := rfl
@[simp] theorem State.updStack_engines (k : Nat) (f : Stack → Stack) : (s.updStack k f).engines = s.engines := rfl
@[simp] theorem State.updStack_commons (k : Nat) (f : Stack → Stack) : (s.updStack k f).commons = s.commons := rfl
@[simp] theorem State.updStack_ports (k : Nat) (f : Stack → Stack) : (s.updStack k f).ports = s.ports := rfl
@[simp] theorem State.updStack_crier (k : Nat) (f : Stack → Stack) : (s.updStack k f).crier = s.crier := rfl
@[simp] theorem State.updStack_pwr (k : Nat) (f : Stack → Stack) : (s.updStack k f).pwr = s.pwr := rfl
@[simp] theorem State.updStack_fences (k : Nat) (f : Stack → Stack) : (s.updStack k f).fences = s.fences := rfl
@[simp] theorem State.updStack_pmbus (k : Nat) (f : Stack → Stack) : (s.updStack k f).pmbus = s.pmbus := rfl
@[simp] theorem State.updStack_sec (k : Nat) (f : Stack → Stack) : (s.updStack k f).sec = s.sec := rfl
@[simp] theorem State.stack_updStack (k : Nat) (f : Stack → Stack) : (s.updStack k f).stack k = f (s.stack k) := SMap.get_upd_same _ _ _ _
theorem State.stack_updStack_other (k : Nat) (f : Stack → Stack) (j : Nat) (hj : j ≠ k) : (s.updStack k f).stack j = s.stack j :=
  SMap.get_upd_other _ _ _ _ _ hj

/-! ## updMark -/

@[simp] theorem State.updMark_pending (l : Nat) (f : Mark → Mark) : (s.updMark l f).pending = s.pending := rfl
@[simp] theorem State.updMark_seed (l : Nat) (f : Mark → Mark) : (s.updMark l f).seed = s.seed := rfl
@[simp] theorem State.updMark_clock (l : Nat) (f : Mark → Mark) : (s.updMark l f).clock = s.clock := rfl
@[simp] theorem State.updMark_nextId (l : Nat) (f : Mark → Mark) : (s.updMark l f).nextId = s.nextId := rfl
@[simp] theorem State.updMark_nv (l : Nat) (f : Mark → Mark) : (s.updMark l f).nv = s.nv := rfl
@[simp] theorem State.updMark_boot (l : Nat) (f : Mark → Mark) : (s.updMark l f).boot = s.boot := rfl
@[simp] theorem State.updMark_alm (l : Nat) (f : Mark → Mark) : (s.updMark l f).alm = s.alm := rfl
@[simp] theorem State.updMark_img (l : Nat) (f : Mark → Mark) : (s.updMark l f).img = s.img := rfl
@[simp] theorem State.updMark_tide (l : Nat) (f : Mark → Mark) : (s.updMark l f).tide = s.tide := rfl
@[simp] theorem State.updMark_pols (l : Nat) (f : Mark → Mark) : (s.updMark l f).pols = s.pols := rfl
@[simp] theorem State.updMark_mem (l : Nat) (f : Mark → Mark) : (s.updMark l f).mem = s.mem := rfl
@[simp] theorem State.updMark_gran (l : Nat) (f : Mark → Mark) : (s.updMark l f).gran = s.gran := rfl
@[simp] theorem State.updMark_bins (l : Nat) (f : Mark → Mark) : (s.updMark l f).bins = s.bins := rfl
@[simp] theorem State.updMark_shadow (l : Nat) (f : Mark → Mark) : (s.updMark l f).shadow = s.shadow := rfl
@[simp] theorem State.updMark_txns (l : Nat) (f : Mark → Mark) : (s.updMark l f).txns = s.txns := rfl
@[simp] theorem State.updMark_net (l : Nat) (f : Mark → Mark) : (s.updMark l f).net = s.net := rfl
@[simp] theorem State.updMark_reqs (l : Nat) (f : Mark → Mark) : (s.updMark l f).reqs = s.reqs := rfl
@[simp] theorem State.updMark_land (l : Nat) (f : Mark → Mark) : (s.updMark l f).land = s.land := rfl
@[simp] theorem State.updMark_hbmStacks (l : Nat) (f : Mark → Mark) : (s.updMark l f).hbmStacks = s.hbmStacks := rfl
@[simp] theorem State.updMark_keels (l : Nat) (f : Mark → Mark) : (s.updMark l f).keels = s.keels := rfl
@[simp] theorem State.updMark_mills (l : Nat) (f : Mark → Mark) : (s.updMark l f).mills = s.mills := rfl
@[simp] theorem State.updMark_stations (l : Nat) (f : Mark → Mark) : (s.updMark l f).stations = s.stations := rfl
@[simp] theorem State.updMark_hands (l : Nat) (f : Mark → Mark) : (s.updMark l f).hands = s.hands := rfl
@[simp] theorem State.updMark_bundles (l : Nat) (f : Mark → Mark) : (s.updMark l f).bundles = s.bundles := rfl
@[simp] theorem State.updMark_quays (l : Nat) (f : Mark → Mark) : (s.updMark l f).quays = s.quays := rfl
@[simp] theorem State.updMark_stints (l : Nat) (f : Mark → Mark) : (s.updMark l f).stints = s.stints := rfl
@[simp] theorem State.updMark_collectors (l : Nat) (f : Mark → Mark) : (s.updMark l f).collectors = s.collectors := rfl
@[simp] theorem State.updMark_links (l : Nat) (f : Mark → Mark) : (s.updMark l f).links = s.links := rfl
@[simp] theorem State.updMark_engines (l : Nat) (f : Mark → Mark) : (s.updMark l f).engines = s.engines := rfl
@[simp] theorem State.updMark_commons (l : Nat) (f : Mark → Mark) : (s.updMark l f).commons = s.commons := rfl
@[simp] theorem State.updMark_ports (l : Nat) (f : Mark → Mark) : (s.updMark l f).ports = s.ports := rfl
@[simp] theorem State.updMark_crier (l : Nat) (f : Mark → Mark) : (s.updMark l f).crier = s.crier := rfl
@[simp] theorem State.updMark_pwr (l : Nat) (f : Mark → Mark) : (s.updMark l f).pwr = s.pwr := rfl
@[simp] theorem State.updMark_fences (l : Nat) (f : Mark → Mark) : (s.updMark l f).fences = s.fences := rfl
@[simp] theorem State.updMark_pmbus (l : Nat) (f : Mark → Mark) : (s.updMark l f).pmbus = s.pmbus := rfl
@[simp] theorem State.updMark_sec (l : Nat) (f : Mark → Mark) : (s.updMark l f).sec = s.sec := rfl
@[simp] theorem State.mark_updMark (l : Nat) (f : Mark → Mark) : (s.updMark l f).mark l = f (s.mark l) := SMap.get_upd_same _ _ _ _
theorem State.mark_updMark_other (l : Nat) (f : Mark → Mark) (j : Nat) (hj : j ≠ l) : (s.updMark l f).mark j = s.mark j :=
  SMap.get_upd_other _ _ _ _ _ hj

/-! ## updLink -/

@[simp] theorem State.updLink_pending (n : Nat) (f : LinkPort → LinkPort) : (s.updLink n f).pending = s.pending := rfl
@[simp] theorem State.updLink_seed (n : Nat) (f : LinkPort → LinkPort) : (s.updLink n f).seed = s.seed := rfl
@[simp] theorem State.updLink_clock (n : Nat) (f : LinkPort → LinkPort) : (s.updLink n f).clock = s.clock := rfl
@[simp] theorem State.updLink_nextId (n : Nat) (f : LinkPort → LinkPort) : (s.updLink n f).nextId = s.nextId := rfl
@[simp] theorem State.updLink_nv (n : Nat) (f : LinkPort → LinkPort) : (s.updLink n f).nv = s.nv := rfl
@[simp] theorem State.updLink_boot (n : Nat) (f : LinkPort → LinkPort) : (s.updLink n f).boot = s.boot := rfl
@[simp] theorem State.updLink_alm (n : Nat) (f : LinkPort → LinkPort) : (s.updLink n f).alm = s.alm := rfl
@[simp] theorem State.updLink_img (n : Nat) (f : LinkPort → LinkPort) : (s.updLink n f).img = s.img := rfl
@[simp] theorem State.updLink_tide (n : Nat) (f : LinkPort → LinkPort) : (s.updLink n f).tide = s.tide := rfl
@[simp] theorem State.updLink_pols (n : Nat) (f : LinkPort → LinkPort) : (s.updLink n f).pols = s.pols := rfl
@[simp] theorem State.updLink_mem (n : Nat) (f : LinkPort → LinkPort) : (s.updLink n f).mem = s.mem := rfl
@[simp] theorem State.updLink_marks (n : Nat) (f : LinkPort → LinkPort) : (s.updLink n f).marks = s.marks := rfl
@[simp] theorem State.updLink_gran (n : Nat) (f : LinkPort → LinkPort) : (s.updLink n f).gran = s.gran := rfl
@[simp] theorem State.updLink_bins (n : Nat) (f : LinkPort → LinkPort) : (s.updLink n f).bins = s.bins := rfl
@[simp] theorem State.updLink_shadow (n : Nat) (f : LinkPort → LinkPort) : (s.updLink n f).shadow = s.shadow := rfl
@[simp] theorem State.updLink_txns (n : Nat) (f : LinkPort → LinkPort) : (s.updLink n f).txns = s.txns := rfl
@[simp] theorem State.updLink_net (n : Nat) (f : LinkPort → LinkPort) : (s.updLink n f).net = s.net := rfl
@[simp] theorem State.updLink_reqs (n : Nat) (f : LinkPort → LinkPort) : (s.updLink n f).reqs = s.reqs := rfl
@[simp] theorem State.updLink_land (n : Nat) (f : LinkPort → LinkPort) : (s.updLink n f).land = s.land := rfl
@[simp] theorem State.updLink_hbmStacks (n : Nat) (f : LinkPort → LinkPort) : (s.updLink n f).hbmStacks = s.hbmStacks := rfl
@[simp] theorem State.updLink_keels (n : Nat) (f : LinkPort → LinkPort) : (s.updLink n f).keels = s.keels := rfl
@[simp] theorem State.updLink_mills (n : Nat) (f : LinkPort → LinkPort) : (s.updLink n f).mills = s.mills := rfl
@[simp] theorem State.updLink_stations (n : Nat) (f : LinkPort → LinkPort) : (s.updLink n f).stations = s.stations := rfl
@[simp] theorem State.updLink_hands (n : Nat) (f : LinkPort → LinkPort) : (s.updLink n f).hands = s.hands := rfl
@[simp] theorem State.updLink_bundles (n : Nat) (f : LinkPort → LinkPort) : (s.updLink n f).bundles = s.bundles := rfl
@[simp] theorem State.updLink_quays (n : Nat) (f : LinkPort → LinkPort) : (s.updLink n f).quays = s.quays := rfl
@[simp] theorem State.updLink_stints (n : Nat) (f : LinkPort → LinkPort) : (s.updLink n f).stints = s.stints := rfl
@[simp] theorem State.updLink_collectors (n : Nat) (f : LinkPort → LinkPort) : (s.updLink n f).collectors = s.collectors := rfl
@[simp] theorem State.updLink_engines (n : Nat) (f : LinkPort → LinkPort) : (s.updLink n f).engines = s.engines := rfl
@[simp] theorem State.updLink_commons (n : Nat) (f : LinkPort → LinkPort) : (s.updLink n f).commons = s.commons := rfl
@[simp] theorem State.updLink_ports (n : Nat) (f : LinkPort → LinkPort) : (s.updLink n f).ports = s.ports := rfl
@[simp] theorem State.updLink_crier (n : Nat) (f : LinkPort → LinkPort) : (s.updLink n f).crier = s.crier := rfl
@[simp] theorem State.updLink_pwr (n : Nat) (f : LinkPort → LinkPort) : (s.updLink n f).pwr = s.pwr := rfl
@[simp] theorem State.updLink_fences (n : Nat) (f : LinkPort → LinkPort) : (s.updLink n f).fences = s.fences := rfl
@[simp] theorem State.updLink_pmbus (n : Nat) (f : LinkPort → LinkPort) : (s.updLink n f).pmbus = s.pmbus := rfl
@[simp] theorem State.updLink_sec (n : Nat) (f : LinkPort → LinkPort) : (s.updLink n f).sec = s.sec := rfl
@[simp] theorem State.link_updLink (n : Nat) (f : LinkPort → LinkPort) : (s.updLink n f).link n = f (s.link n) := SMap.get_upd_same _ _ _ _
theorem State.link_updLink_other (n : Nat) (f : LinkPort → LinkPort) (j : Nat) (hj : j ≠ n) : (s.updLink n f).link j = s.link j :=
  SMap.get_upd_other _ _ _ _ _ hj

/-! ## updEngine -/

@[simp] theorem State.updEngine_pending (m : Nat) (f : OptEngine → OptEngine) : (s.updEngine m f).pending = s.pending := rfl
@[simp] theorem State.updEngine_seed (m : Nat) (f : OptEngine → OptEngine) : (s.updEngine m f).seed = s.seed := rfl
@[simp] theorem State.updEngine_clock (m : Nat) (f : OptEngine → OptEngine) : (s.updEngine m f).clock = s.clock := rfl
@[simp] theorem State.updEngine_nextId (m : Nat) (f : OptEngine → OptEngine) : (s.updEngine m f).nextId = s.nextId := rfl
@[simp] theorem State.updEngine_nv (m : Nat) (f : OptEngine → OptEngine) : (s.updEngine m f).nv = s.nv := rfl
@[simp] theorem State.updEngine_boot (m : Nat) (f : OptEngine → OptEngine) : (s.updEngine m f).boot = s.boot := rfl
@[simp] theorem State.updEngine_alm (m : Nat) (f : OptEngine → OptEngine) : (s.updEngine m f).alm = s.alm := rfl
@[simp] theorem State.updEngine_img (m : Nat) (f : OptEngine → OptEngine) : (s.updEngine m f).img = s.img := rfl
@[simp] theorem State.updEngine_tide (m : Nat) (f : OptEngine → OptEngine) : (s.updEngine m f).tide = s.tide := rfl
@[simp] theorem State.updEngine_pols (m : Nat) (f : OptEngine → OptEngine) : (s.updEngine m f).pols = s.pols := rfl
@[simp] theorem State.updEngine_mem (m : Nat) (f : OptEngine → OptEngine) : (s.updEngine m f).mem = s.mem := rfl
@[simp] theorem State.updEngine_marks (m : Nat) (f : OptEngine → OptEngine) : (s.updEngine m f).marks = s.marks := rfl
@[simp] theorem State.updEngine_gran (m : Nat) (f : OptEngine → OptEngine) : (s.updEngine m f).gran = s.gran := rfl
@[simp] theorem State.updEngine_bins (m : Nat) (f : OptEngine → OptEngine) : (s.updEngine m f).bins = s.bins := rfl
@[simp] theorem State.updEngine_shadow (m : Nat) (f : OptEngine → OptEngine) : (s.updEngine m f).shadow = s.shadow := rfl
@[simp] theorem State.updEngine_txns (m : Nat) (f : OptEngine → OptEngine) : (s.updEngine m f).txns = s.txns := rfl
@[simp] theorem State.updEngine_net (m : Nat) (f : OptEngine → OptEngine) : (s.updEngine m f).net = s.net := rfl
@[simp] theorem State.updEngine_reqs (m : Nat) (f : OptEngine → OptEngine) : (s.updEngine m f).reqs = s.reqs := rfl
@[simp] theorem State.updEngine_land (m : Nat) (f : OptEngine → OptEngine) : (s.updEngine m f).land = s.land := rfl
@[simp] theorem State.updEngine_hbmStacks (m : Nat) (f : OptEngine → OptEngine) : (s.updEngine m f).hbmStacks = s.hbmStacks := rfl
@[simp] theorem State.updEngine_keels (m : Nat) (f : OptEngine → OptEngine) : (s.updEngine m f).keels = s.keels := rfl
@[simp] theorem State.updEngine_mills (m : Nat) (f : OptEngine → OptEngine) : (s.updEngine m f).mills = s.mills := rfl
@[simp] theorem State.updEngine_stations (m : Nat) (f : OptEngine → OptEngine) : (s.updEngine m f).stations = s.stations := rfl
@[simp] theorem State.updEngine_hands (m : Nat) (f : OptEngine → OptEngine) : (s.updEngine m f).hands = s.hands := rfl
@[simp] theorem State.updEngine_bundles (m : Nat) (f : OptEngine → OptEngine) : (s.updEngine m f).bundles = s.bundles := rfl
@[simp] theorem State.updEngine_quays (m : Nat) (f : OptEngine → OptEngine) : (s.updEngine m f).quays = s.quays := rfl
@[simp] theorem State.updEngine_stints (m : Nat) (f : OptEngine → OptEngine) : (s.updEngine m f).stints = s.stints := rfl
@[simp] theorem State.updEngine_collectors (m : Nat) (f : OptEngine → OptEngine) : (s.updEngine m f).collectors = s.collectors := rfl
@[simp] theorem State.updEngine_links (m : Nat) (f : OptEngine → OptEngine) : (s.updEngine m f).links = s.links := rfl
@[simp] theorem State.updEngine_commons (m : Nat) (f : OptEngine → OptEngine) : (s.updEngine m f).commons = s.commons := rfl
@[simp] theorem State.updEngine_ports (m : Nat) (f : OptEngine → OptEngine) : (s.updEngine m f).ports = s.ports := rfl
@[simp] theorem State.updEngine_crier (m : Nat) (f : OptEngine → OptEngine) : (s.updEngine m f).crier = s.crier := rfl
@[simp] theorem State.updEngine_pwr (m : Nat) (f : OptEngine → OptEngine) : (s.updEngine m f).pwr = s.pwr := rfl
@[simp] theorem State.updEngine_fences (m : Nat) (f : OptEngine → OptEngine) : (s.updEngine m f).fences = s.fences := rfl
@[simp] theorem State.updEngine_pmbus (m : Nat) (f : OptEngine → OptEngine) : (s.updEngine m f).pmbus = s.pmbus := rfl
@[simp] theorem State.updEngine_sec (m : Nat) (f : OptEngine → OptEngine) : (s.updEngine m f).sec = s.sec := rfl
@[simp] theorem State.engine_updEngine (m : Nat) (f : OptEngine → OptEngine) : (s.updEngine m f).engine m = f (s.engine m) := SMap.get_upd_same _ _ _ _
theorem State.engine_updEngine_other (m : Nat) (f : OptEngine → OptEngine) (j : Nat) (hj : j ≠ m) : (s.updEngine m f).engine j = s.engine j :=
  SMap.get_upd_other _ _ _ _ _ hj

/-! ## updPort -/

@[simp] theorem State.updPort_pending (n : Nat) (f : HostPort → HostPort) : (s.updPort n f).pending = s.pending := rfl
@[simp] theorem State.updPort_seed (n : Nat) (f : HostPort → HostPort) : (s.updPort n f).seed = s.seed := rfl
@[simp] theorem State.updPort_clock (n : Nat) (f : HostPort → HostPort) : (s.updPort n f).clock = s.clock := rfl
@[simp] theorem State.updPort_nextId (n : Nat) (f : HostPort → HostPort) : (s.updPort n f).nextId = s.nextId := rfl
@[simp] theorem State.updPort_nv (n : Nat) (f : HostPort → HostPort) : (s.updPort n f).nv = s.nv := rfl
@[simp] theorem State.updPort_boot (n : Nat) (f : HostPort → HostPort) : (s.updPort n f).boot = s.boot := rfl
@[simp] theorem State.updPort_alm (n : Nat) (f : HostPort → HostPort) : (s.updPort n f).alm = s.alm := rfl
@[simp] theorem State.updPort_img (n : Nat) (f : HostPort → HostPort) : (s.updPort n f).img = s.img := rfl
@[simp] theorem State.updPort_tide (n : Nat) (f : HostPort → HostPort) : (s.updPort n f).tide = s.tide := rfl
@[simp] theorem State.updPort_pols (n : Nat) (f : HostPort → HostPort) : (s.updPort n f).pols = s.pols := rfl
@[simp] theorem State.updPort_mem (n : Nat) (f : HostPort → HostPort) : (s.updPort n f).mem = s.mem := rfl
@[simp] theorem State.updPort_marks (n : Nat) (f : HostPort → HostPort) : (s.updPort n f).marks = s.marks := rfl
@[simp] theorem State.updPort_gran (n : Nat) (f : HostPort → HostPort) : (s.updPort n f).gran = s.gran := rfl
@[simp] theorem State.updPort_bins (n : Nat) (f : HostPort → HostPort) : (s.updPort n f).bins = s.bins := rfl
@[simp] theorem State.updPort_shadow (n : Nat) (f : HostPort → HostPort) : (s.updPort n f).shadow = s.shadow := rfl
@[simp] theorem State.updPort_txns (n : Nat) (f : HostPort → HostPort) : (s.updPort n f).txns = s.txns := rfl
@[simp] theorem State.updPort_net (n : Nat) (f : HostPort → HostPort) : (s.updPort n f).net = s.net := rfl
@[simp] theorem State.updPort_reqs (n : Nat) (f : HostPort → HostPort) : (s.updPort n f).reqs = s.reqs := rfl
@[simp] theorem State.updPort_land (n : Nat) (f : HostPort → HostPort) : (s.updPort n f).land = s.land := rfl
@[simp] theorem State.updPort_hbmStacks (n : Nat) (f : HostPort → HostPort) : (s.updPort n f).hbmStacks = s.hbmStacks := rfl
@[simp] theorem State.updPort_keels (n : Nat) (f : HostPort → HostPort) : (s.updPort n f).keels = s.keels := rfl
@[simp] theorem State.updPort_mills (n : Nat) (f : HostPort → HostPort) : (s.updPort n f).mills = s.mills := rfl
@[simp] theorem State.updPort_stations (n : Nat) (f : HostPort → HostPort) : (s.updPort n f).stations = s.stations := rfl
@[simp] theorem State.updPort_hands (n : Nat) (f : HostPort → HostPort) : (s.updPort n f).hands = s.hands := rfl
@[simp] theorem State.updPort_bundles (n : Nat) (f : HostPort → HostPort) : (s.updPort n f).bundles = s.bundles := rfl
@[simp] theorem State.updPort_quays (n : Nat) (f : HostPort → HostPort) : (s.updPort n f).quays = s.quays := rfl
@[simp] theorem State.updPort_stints (n : Nat) (f : HostPort → HostPort) : (s.updPort n f).stints = s.stints := rfl
@[simp] theorem State.updPort_collectors (n : Nat) (f : HostPort → HostPort) : (s.updPort n f).collectors = s.collectors := rfl
@[simp] theorem State.updPort_links (n : Nat) (f : HostPort → HostPort) : (s.updPort n f).links = s.links := rfl
@[simp] theorem State.updPort_engines (n : Nat) (f : HostPort → HostPort) : (s.updPort n f).engines = s.engines := rfl
@[simp] theorem State.updPort_commons (n : Nat) (f : HostPort → HostPort) : (s.updPort n f).commons = s.commons := rfl
@[simp] theorem State.updPort_crier (n : Nat) (f : HostPort → HostPort) : (s.updPort n f).crier = s.crier := rfl
@[simp] theorem State.updPort_pwr (n : Nat) (f : HostPort → HostPort) : (s.updPort n f).pwr = s.pwr := rfl
@[simp] theorem State.updPort_fences (n : Nat) (f : HostPort → HostPort) : (s.updPort n f).fences = s.fences := rfl
@[simp] theorem State.updPort_pmbus (n : Nat) (f : HostPort → HostPort) : (s.updPort n f).pmbus = s.pmbus := rfl
@[simp] theorem State.updPort_sec (n : Nat) (f : HostPort → HostPort) : (s.updPort n f).sec = s.sec := rfl
@[simp] theorem State.port_updPort (n : Nat) (f : HostPort → HostPort) : (s.updPort n f).port n = f (s.port n) := SMap.get_upd_same _ _ _ _
theorem State.port_updPort_other (n : Nat) (f : HostPort → HostPort) (j : Nat) (hj : j ≠ n) : (s.updPort n f).port j = s.port j :=
  SMap.get_upd_other _ _ _ _ _ hj

/-! ## updBundle -/

@[simp] theorem State.updBundle_pending (b : Nat) (f : BundleSt → BundleSt) : (s.updBundle b f).pending = s.pending := rfl
@[simp] theorem State.updBundle_seed (b : Nat) (f : BundleSt → BundleSt) : (s.updBundle b f).seed = s.seed := rfl
@[simp] theorem State.updBundle_clock (b : Nat) (f : BundleSt → BundleSt) : (s.updBundle b f).clock = s.clock := rfl
@[simp] theorem State.updBundle_nextId (b : Nat) (f : BundleSt → BundleSt) : (s.updBundle b f).nextId = s.nextId := rfl
@[simp] theorem State.updBundle_nv (b : Nat) (f : BundleSt → BundleSt) : (s.updBundle b f).nv = s.nv := rfl
@[simp] theorem State.updBundle_boot (b : Nat) (f : BundleSt → BundleSt) : (s.updBundle b f).boot = s.boot := rfl
@[simp] theorem State.updBundle_alm (b : Nat) (f : BundleSt → BundleSt) : (s.updBundle b f).alm = s.alm := rfl
@[simp] theorem State.updBundle_img (b : Nat) (f : BundleSt → BundleSt) : (s.updBundle b f).img = s.img := rfl
@[simp] theorem State.updBundle_tide (b : Nat) (f : BundleSt → BundleSt) : (s.updBundle b f).tide = s.tide := rfl
@[simp] theorem State.updBundle_pols (b : Nat) (f : BundleSt → BundleSt) : (s.updBundle b f).pols = s.pols := rfl
@[simp] theorem State.updBundle_mem (b : Nat) (f : BundleSt → BundleSt) : (s.updBundle b f).mem = s.mem := rfl
@[simp] theorem State.updBundle_marks (b : Nat) (f : BundleSt → BundleSt) : (s.updBundle b f).marks = s.marks := rfl
@[simp] theorem State.updBundle_gran (b : Nat) (f : BundleSt → BundleSt) : (s.updBundle b f).gran = s.gran := rfl
@[simp] theorem State.updBundle_bins (b : Nat) (f : BundleSt → BundleSt) : (s.updBundle b f).bins = s.bins := rfl
@[simp] theorem State.updBundle_shadow (b : Nat) (f : BundleSt → BundleSt) : (s.updBundle b f).shadow = s.shadow := rfl
@[simp] theorem State.updBundle_txns (b : Nat) (f : BundleSt → BundleSt) : (s.updBundle b f).txns = s.txns := rfl
@[simp] theorem State.updBundle_net (b : Nat) (f : BundleSt → BundleSt) : (s.updBundle b f).net = s.net := rfl
@[simp] theorem State.updBundle_reqs (b : Nat) (f : BundleSt → BundleSt) : (s.updBundle b f).reqs = s.reqs := rfl
@[simp] theorem State.updBundle_land (b : Nat) (f : BundleSt → BundleSt) : (s.updBundle b f).land = s.land := rfl
@[simp] theorem State.updBundle_hbmStacks (b : Nat) (f : BundleSt → BundleSt) : (s.updBundle b f).hbmStacks = s.hbmStacks := rfl
@[simp] theorem State.updBundle_keels (b : Nat) (f : BundleSt → BundleSt) : (s.updBundle b f).keels = s.keels := rfl
@[simp] theorem State.updBundle_mills (b : Nat) (f : BundleSt → BundleSt) : (s.updBundle b f).mills = s.mills := rfl
@[simp] theorem State.updBundle_stations (b : Nat) (f : BundleSt → BundleSt) : (s.updBundle b f).stations = s.stations := rfl
@[simp] theorem State.updBundle_hands (b : Nat) (f : BundleSt → BundleSt) : (s.updBundle b f).hands = s.hands := rfl
@[simp] theorem State.updBundle_quays (b : Nat) (f : BundleSt → BundleSt) : (s.updBundle b f).quays = s.quays := rfl
@[simp] theorem State.updBundle_stints (b : Nat) (f : BundleSt → BundleSt) : (s.updBundle b f).stints = s.stints := rfl
@[simp] theorem State.updBundle_collectors (b : Nat) (f : BundleSt → BundleSt) : (s.updBundle b f).collectors = s.collectors := rfl
@[simp] theorem State.updBundle_links (b : Nat) (f : BundleSt → BundleSt) : (s.updBundle b f).links = s.links := rfl
@[simp] theorem State.updBundle_engines (b : Nat) (f : BundleSt → BundleSt) : (s.updBundle b f).engines = s.engines := rfl
@[simp] theorem State.updBundle_commons (b : Nat) (f : BundleSt → BundleSt) : (s.updBundle b f).commons = s.commons := rfl
@[simp] theorem State.updBundle_ports (b : Nat) (f : BundleSt → BundleSt) : (s.updBundle b f).ports = s.ports := rfl
@[simp] theorem State.updBundle_crier (b : Nat) (f : BundleSt → BundleSt) : (s.updBundle b f).crier = s.crier := rfl
@[simp] theorem State.updBundle_pwr (b : Nat) (f : BundleSt → BundleSt) : (s.updBundle b f).pwr = s.pwr := rfl
@[simp] theorem State.updBundle_fences (b : Nat) (f : BundleSt → BundleSt) : (s.updBundle b f).fences = s.fences := rfl
@[simp] theorem State.updBundle_pmbus (b : Nat) (f : BundleSt → BundleSt) : (s.updBundle b f).pmbus = s.pmbus := rfl
@[simp] theorem State.updBundle_sec (b : Nat) (f : BundleSt → BundleSt) : (s.updBundle b f).sec = s.sec := rfl
@[simp] theorem State.bundle_updBundle (b : Nat) (f : BundleSt → BundleSt) : (s.updBundle b f).bundle b = f (s.bundle b) := SMap.get_upd_same _ _ _ _
theorem State.bundle_updBundle_other (b : Nat) (f : BundleSt → BundleSt) (j : Nat) (hj : j ≠ b) : (s.updBundle b f).bundle j = s.bundle j :=
  SMap.get_upd_other _ _ _ _ _ hj

/-! ## updStint -/

@[simp] theorem State.updStint_pending (i : Nat) (f : StintSt → StintSt) : (s.updStint i f).pending = s.pending := rfl
@[simp] theorem State.updStint_seed (i : Nat) (f : StintSt → StintSt) : (s.updStint i f).seed = s.seed := rfl
@[simp] theorem State.updStint_clock (i : Nat) (f : StintSt → StintSt) : (s.updStint i f).clock = s.clock := rfl
@[simp] theorem State.updStint_nextId (i : Nat) (f : StintSt → StintSt) : (s.updStint i f).nextId = s.nextId := rfl
@[simp] theorem State.updStint_nv (i : Nat) (f : StintSt → StintSt) : (s.updStint i f).nv = s.nv := rfl
@[simp] theorem State.updStint_boot (i : Nat) (f : StintSt → StintSt) : (s.updStint i f).boot = s.boot := rfl
@[simp] theorem State.updStint_alm (i : Nat) (f : StintSt → StintSt) : (s.updStint i f).alm = s.alm := rfl
@[simp] theorem State.updStint_img (i : Nat) (f : StintSt → StintSt) : (s.updStint i f).img = s.img := rfl
@[simp] theorem State.updStint_tide (i : Nat) (f : StintSt → StintSt) : (s.updStint i f).tide = s.tide := rfl
@[simp] theorem State.updStint_pols (i : Nat) (f : StintSt → StintSt) : (s.updStint i f).pols = s.pols := rfl
@[simp] theorem State.updStint_mem (i : Nat) (f : StintSt → StintSt) : (s.updStint i f).mem = s.mem := rfl
@[simp] theorem State.updStint_marks (i : Nat) (f : StintSt → StintSt) : (s.updStint i f).marks = s.marks := rfl
@[simp] theorem State.updStint_gran (i : Nat) (f : StintSt → StintSt) : (s.updStint i f).gran = s.gran := rfl
@[simp] theorem State.updStint_bins (i : Nat) (f : StintSt → StintSt) : (s.updStint i f).bins = s.bins := rfl
@[simp] theorem State.updStint_shadow (i : Nat) (f : StintSt → StintSt) : (s.updStint i f).shadow = s.shadow := rfl
@[simp] theorem State.updStint_txns (i : Nat) (f : StintSt → StintSt) : (s.updStint i f).txns = s.txns := rfl
@[simp] theorem State.updStint_net (i : Nat) (f : StintSt → StintSt) : (s.updStint i f).net = s.net := rfl
@[simp] theorem State.updStint_reqs (i : Nat) (f : StintSt → StintSt) : (s.updStint i f).reqs = s.reqs := rfl
@[simp] theorem State.updStint_land (i : Nat) (f : StintSt → StintSt) : (s.updStint i f).land = s.land := rfl
@[simp] theorem State.updStint_hbmStacks (i : Nat) (f : StintSt → StintSt) : (s.updStint i f).hbmStacks = s.hbmStacks := rfl
@[simp] theorem State.updStint_keels (i : Nat) (f : StintSt → StintSt) : (s.updStint i f).keels = s.keels := rfl
@[simp] theorem State.updStint_mills (i : Nat) (f : StintSt → StintSt) : (s.updStint i f).mills = s.mills := rfl
@[simp] theorem State.updStint_stations (i : Nat) (f : StintSt → StintSt) : (s.updStint i f).stations = s.stations := rfl
@[simp] theorem State.updStint_hands (i : Nat) (f : StintSt → StintSt) : (s.updStint i f).hands = s.hands := rfl
@[simp] theorem State.updStint_bundles (i : Nat) (f : StintSt → StintSt) : (s.updStint i f).bundles = s.bundles := rfl
@[simp] theorem State.updStint_quays (i : Nat) (f : StintSt → StintSt) : (s.updStint i f).quays = s.quays := rfl
@[simp] theorem State.updStint_collectors (i : Nat) (f : StintSt → StintSt) : (s.updStint i f).collectors = s.collectors := rfl
@[simp] theorem State.updStint_links (i : Nat) (f : StintSt → StintSt) : (s.updStint i f).links = s.links := rfl
@[simp] theorem State.updStint_engines (i : Nat) (f : StintSt → StintSt) : (s.updStint i f).engines = s.engines := rfl
@[simp] theorem State.updStint_commons (i : Nat) (f : StintSt → StintSt) : (s.updStint i f).commons = s.commons := rfl
@[simp] theorem State.updStint_ports (i : Nat) (f : StintSt → StintSt) : (s.updStint i f).ports = s.ports := rfl
@[simp] theorem State.updStint_crier (i : Nat) (f : StintSt → StintSt) : (s.updStint i f).crier = s.crier := rfl
@[simp] theorem State.updStint_pwr (i : Nat) (f : StintSt → StintSt) : (s.updStint i f).pwr = s.pwr := rfl
@[simp] theorem State.updStint_fences (i : Nat) (f : StintSt → StintSt) : (s.updStint i f).fences = s.fences := rfl
@[simp] theorem State.updStint_pmbus (i : Nat) (f : StintSt → StintSt) : (s.updStint i f).pmbus = s.pmbus := rfl
@[simp] theorem State.updStint_sec (i : Nat) (f : StintSt → StintSt) : (s.updStint i f).sec = s.sec := rfl
@[simp] theorem State.stint_updStint (i : Nat) (f : StintSt → StintSt) : (s.updStint i f).stint i = f (s.stint i) := SMap.get_upd_same _ _ _ _
theorem State.stint_updStint_other (i : Nat) (f : StintSt → StintSt) (j : Nat) (hj : j ≠ i) : (s.updStint i f).stint j = s.stint j :=
  SMap.get_upd_other _ _ _ _ _ hj

/-! ## updLandRegs -/

@[simp] theorem State.updLandRegs_pending (n : Nat) (f : LandRegs → LandRegs) : (s.updLandRegs n f).pending = s.pending := rfl
@[simp] theorem State.updLandRegs_seed (n : Nat) (f : LandRegs → LandRegs) : (s.updLandRegs n f).seed = s.seed := rfl
@[simp] theorem State.updLandRegs_clock (n : Nat) (f : LandRegs → LandRegs) : (s.updLandRegs n f).clock = s.clock := rfl
@[simp] theorem State.updLandRegs_nextId (n : Nat) (f : LandRegs → LandRegs) : (s.updLandRegs n f).nextId = s.nextId := rfl
@[simp] theorem State.updLandRegs_nv (n : Nat) (f : LandRegs → LandRegs) : (s.updLandRegs n f).nv = s.nv := rfl
@[simp] theorem State.updLandRegs_boot (n : Nat) (f : LandRegs → LandRegs) : (s.updLandRegs n f).boot = s.boot := rfl
@[simp] theorem State.updLandRegs_alm (n : Nat) (f : LandRegs → LandRegs) : (s.updLandRegs n f).alm = s.alm := rfl
@[simp] theorem State.updLandRegs_img (n : Nat) (f : LandRegs → LandRegs) : (s.updLandRegs n f).img = s.img := rfl
@[simp] theorem State.updLandRegs_tide (n : Nat) (f : LandRegs → LandRegs) : (s.updLandRegs n f).tide = s.tide := rfl
@[simp] theorem State.updLandRegs_pols (n : Nat) (f : LandRegs → LandRegs) : (s.updLandRegs n f).pols = s.pols := rfl
@[simp] theorem State.updLandRegs_mem (n : Nat) (f : LandRegs → LandRegs) : (s.updLandRegs n f).mem = s.mem := rfl
@[simp] theorem State.updLandRegs_marks (n : Nat) (f : LandRegs → LandRegs) : (s.updLandRegs n f).marks = s.marks := rfl
@[simp] theorem State.updLandRegs_gran (n : Nat) (f : LandRegs → LandRegs) : (s.updLandRegs n f).gran = s.gran := rfl
@[simp] theorem State.updLandRegs_bins (n : Nat) (f : LandRegs → LandRegs) : (s.updLandRegs n f).bins = s.bins := rfl
@[simp] theorem State.updLandRegs_shadow (n : Nat) (f : LandRegs → LandRegs) : (s.updLandRegs n f).shadow = s.shadow := rfl
@[simp] theorem State.updLandRegs_txns (n : Nat) (f : LandRegs → LandRegs) : (s.updLandRegs n f).txns = s.txns := rfl
@[simp] theorem State.updLandRegs_net (n : Nat) (f : LandRegs → LandRegs) : (s.updLandRegs n f).net = s.net := rfl
@[simp] theorem State.updLandRegs_reqs (n : Nat) (f : LandRegs → LandRegs) : (s.updLandRegs n f).reqs = s.reqs := rfl
@[simp] theorem State.updLandRegs_hbmStacks (n : Nat) (f : LandRegs → LandRegs) : (s.updLandRegs n f).hbmStacks = s.hbmStacks := rfl
@[simp] theorem State.updLandRegs_keels (n : Nat) (f : LandRegs → LandRegs) : (s.updLandRegs n f).keels = s.keels := rfl
@[simp] theorem State.updLandRegs_mills (n : Nat) (f : LandRegs → LandRegs) : (s.updLandRegs n f).mills = s.mills := rfl
@[simp] theorem State.updLandRegs_stations (n : Nat) (f : LandRegs → LandRegs) : (s.updLandRegs n f).stations = s.stations := rfl
@[simp] theorem State.updLandRegs_hands (n : Nat) (f : LandRegs → LandRegs) : (s.updLandRegs n f).hands = s.hands := rfl
@[simp] theorem State.updLandRegs_bundles (n : Nat) (f : LandRegs → LandRegs) : (s.updLandRegs n f).bundles = s.bundles := rfl
@[simp] theorem State.updLandRegs_quays (n : Nat) (f : LandRegs → LandRegs) : (s.updLandRegs n f).quays = s.quays := rfl
@[simp] theorem State.updLandRegs_stints (n : Nat) (f : LandRegs → LandRegs) : (s.updLandRegs n f).stints = s.stints := rfl
@[simp] theorem State.updLandRegs_collectors (n : Nat) (f : LandRegs → LandRegs) : (s.updLandRegs n f).collectors = s.collectors := rfl
@[simp] theorem State.updLandRegs_links (n : Nat) (f : LandRegs → LandRegs) : (s.updLandRegs n f).links = s.links := rfl
@[simp] theorem State.updLandRegs_engines (n : Nat) (f : LandRegs → LandRegs) : (s.updLandRegs n f).engines = s.engines := rfl
@[simp] theorem State.updLandRegs_commons (n : Nat) (f : LandRegs → LandRegs) : (s.updLandRegs n f).commons = s.commons := rfl
@[simp] theorem State.updLandRegs_ports (n : Nat) (f : LandRegs → LandRegs) : (s.updLandRegs n f).ports = s.ports := rfl
@[simp] theorem State.updLandRegs_crier (n : Nat) (f : LandRegs → LandRegs) : (s.updLandRegs n f).crier = s.crier := rfl
@[simp] theorem State.updLandRegs_pwr (n : Nat) (f : LandRegs → LandRegs) : (s.updLandRegs n f).pwr = s.pwr := rfl
@[simp] theorem State.updLandRegs_fences (n : Nat) (f : LandRegs → LandRegs) : (s.updLandRegs n f).fences = s.fences := rfl
@[simp] theorem State.updLandRegs_pmbus (n : Nat) (f : LandRegs → LandRegs) : (s.updLandRegs n f).pmbus = s.pmbus := rfl
@[simp] theorem State.updLandRegs_sec (n : Nat) (f : LandRegs → LandRegs) : (s.updLandRegs n f).sec = s.sec := rfl
@[simp] theorem State.landRegs_updLandRegs (n : Nat) (f : LandRegs → LandRegs) : (s.updLandRegs n f).landRegs n = f (s.landRegs n) := SMap.get_upd_same _ _ _ _
theorem State.landRegs_updLandRegs_other (n : Nat) (f : LandRegs → LandRegs) (j : Nat) (hj : j ≠ n) : (s.updLandRegs n f).landRegs j = s.landRegs j :=
  SMap.get_upd_other _ _ _ _ _ hj

/-! ## updLoad -/

@[simp] theorem State.updLoad_pending (n : Nat) (f : LoadCtl → LoadCtl) : (s.updLoad n f).pending = s.pending := rfl
@[simp] theorem State.updLoad_seed (n : Nat) (f : LoadCtl → LoadCtl) : (s.updLoad n f).seed = s.seed := rfl
@[simp] theorem State.updLoad_clock (n : Nat) (f : LoadCtl → LoadCtl) : (s.updLoad n f).clock = s.clock := rfl
@[simp] theorem State.updLoad_nextId (n : Nat) (f : LoadCtl → LoadCtl) : (s.updLoad n f).nextId = s.nextId := rfl
@[simp] theorem State.updLoad_nv (n : Nat) (f : LoadCtl → LoadCtl) : (s.updLoad n f).nv = s.nv := rfl
@[simp] theorem State.updLoad_alm (n : Nat) (f : LoadCtl → LoadCtl) : (s.updLoad n f).alm = s.alm := rfl
@[simp] theorem State.updLoad_img (n : Nat) (f : LoadCtl → LoadCtl) : (s.updLoad n f).img = s.img := rfl
@[simp] theorem State.updLoad_tide (n : Nat) (f : LoadCtl → LoadCtl) : (s.updLoad n f).tide = s.tide := rfl
@[simp] theorem State.updLoad_pols (n : Nat) (f : LoadCtl → LoadCtl) : (s.updLoad n f).pols = s.pols := rfl
@[simp] theorem State.updLoad_mem (n : Nat) (f : LoadCtl → LoadCtl) : (s.updLoad n f).mem = s.mem := rfl
@[simp] theorem State.updLoad_marks (n : Nat) (f : LoadCtl → LoadCtl) : (s.updLoad n f).marks = s.marks := rfl
@[simp] theorem State.updLoad_gran (n : Nat) (f : LoadCtl → LoadCtl) : (s.updLoad n f).gran = s.gran := rfl
@[simp] theorem State.updLoad_bins (n : Nat) (f : LoadCtl → LoadCtl) : (s.updLoad n f).bins = s.bins := rfl
@[simp] theorem State.updLoad_shadow (n : Nat) (f : LoadCtl → LoadCtl) : (s.updLoad n f).shadow = s.shadow := rfl
@[simp] theorem State.updLoad_txns (n : Nat) (f : LoadCtl → LoadCtl) : (s.updLoad n f).txns = s.txns := rfl
@[simp] theorem State.updLoad_net (n : Nat) (f : LoadCtl → LoadCtl) : (s.updLoad n f).net = s.net := rfl
@[simp] theorem State.updLoad_reqs (n : Nat) (f : LoadCtl → LoadCtl) : (s.updLoad n f).reqs = s.reqs := rfl
@[simp] theorem State.updLoad_land (n : Nat) (f : LoadCtl → LoadCtl) : (s.updLoad n f).land = s.land := rfl
@[simp] theorem State.updLoad_hbmStacks (n : Nat) (f : LoadCtl → LoadCtl) : (s.updLoad n f).hbmStacks = s.hbmStacks := rfl
@[simp] theorem State.updLoad_keels (n : Nat) (f : LoadCtl → LoadCtl) : (s.updLoad n f).keels = s.keels := rfl
@[simp] theorem State.updLoad_mills (n : Nat) (f : LoadCtl → LoadCtl) : (s.updLoad n f).mills = s.mills := rfl
@[simp] theorem State.updLoad_stations (n : Nat) (f : LoadCtl → LoadCtl) : (s.updLoad n f).stations = s.stations := rfl
@[simp] theorem State.updLoad_hands (n : Nat) (f : LoadCtl → LoadCtl) : (s.updLoad n f).hands = s.hands := rfl
@[simp] theorem State.updLoad_bundles (n : Nat) (f : LoadCtl → LoadCtl) : (s.updLoad n f).bundles = s.bundles := rfl
@[simp] theorem State.updLoad_quays (n : Nat) (f : LoadCtl → LoadCtl) : (s.updLoad n f).quays = s.quays := rfl
@[simp] theorem State.updLoad_stints (n : Nat) (f : LoadCtl → LoadCtl) : (s.updLoad n f).stints = s.stints := rfl
@[simp] theorem State.updLoad_collectors (n : Nat) (f : LoadCtl → LoadCtl) : (s.updLoad n f).collectors = s.collectors := rfl
@[simp] theorem State.updLoad_links (n : Nat) (f : LoadCtl → LoadCtl) : (s.updLoad n f).links = s.links := rfl
@[simp] theorem State.updLoad_engines (n : Nat) (f : LoadCtl → LoadCtl) : (s.updLoad n f).engines = s.engines := rfl
@[simp] theorem State.updLoad_commons (n : Nat) (f : LoadCtl → LoadCtl) : (s.updLoad n f).commons = s.commons := rfl
@[simp] theorem State.updLoad_ports (n : Nat) (f : LoadCtl → LoadCtl) : (s.updLoad n f).ports = s.ports := rfl
@[simp] theorem State.updLoad_crier (n : Nat) (f : LoadCtl → LoadCtl) : (s.updLoad n f).crier = s.crier := rfl
@[simp] theorem State.updLoad_pwr (n : Nat) (f : LoadCtl → LoadCtl) : (s.updLoad n f).pwr = s.pwr := rfl
@[simp] theorem State.updLoad_fences (n : Nat) (f : LoadCtl → LoadCtl) : (s.updLoad n f).fences = s.fences := rfl
@[simp] theorem State.updLoad_pmbus (n : Nat) (f : LoadCtl → LoadCtl) : (s.updLoad n f).pmbus = s.pmbus := rfl
@[simp] theorem State.updLoad_sec (n : Nat) (f : LoadCtl → LoadCtl) : (s.updLoad n f).sec = s.sec := rfl
@[simp] theorem State.load_updLoad (n : Nat) (f : LoadCtl → LoadCtl) : (s.updLoad n f).load n = f (s.load n) := SMap.get_upd_same _ _ _ _
theorem State.load_updLoad_other (n : Nat) (f : LoadCtl → LoadCtl) (j : Nat) (hj : j ≠ n) : (s.updLoad n f).load j = s.load j :=
  SMap.get_upd_other _ _ _ _ _ hj

/-! ## updFence -/

@[simp] theorem State.updFence_pending (i : Nat) (f : FenceSt → FenceSt) : (s.updFence i f).pending = s.pending := rfl
@[simp] theorem State.updFence_seed (i : Nat) (f : FenceSt → FenceSt) : (s.updFence i f).seed = s.seed := rfl
@[simp] theorem State.updFence_clock (i : Nat) (f : FenceSt → FenceSt) : (s.updFence i f).clock = s.clock := rfl
@[simp] theorem State.updFence_nextId (i : Nat) (f : FenceSt → FenceSt) : (s.updFence i f).nextId = s.nextId := rfl
@[simp] theorem State.updFence_nv (i : Nat) (f : FenceSt → FenceSt) : (s.updFence i f).nv = s.nv := rfl
@[simp] theorem State.updFence_boot (i : Nat) (f : FenceSt → FenceSt) : (s.updFence i f).boot = s.boot := rfl
@[simp] theorem State.updFence_alm (i : Nat) (f : FenceSt → FenceSt) : (s.updFence i f).alm = s.alm := rfl
@[simp] theorem State.updFence_img (i : Nat) (f : FenceSt → FenceSt) : (s.updFence i f).img = s.img := rfl
@[simp] theorem State.updFence_tide (i : Nat) (f : FenceSt → FenceSt) : (s.updFence i f).tide = s.tide := rfl
@[simp] theorem State.updFence_pols (i : Nat) (f : FenceSt → FenceSt) : (s.updFence i f).pols = s.pols := rfl
@[simp] theorem State.updFence_mem (i : Nat) (f : FenceSt → FenceSt) : (s.updFence i f).mem = s.mem := rfl
@[simp] theorem State.updFence_marks (i : Nat) (f : FenceSt → FenceSt) : (s.updFence i f).marks = s.marks := rfl
@[simp] theorem State.updFence_gran (i : Nat) (f : FenceSt → FenceSt) : (s.updFence i f).gran = s.gran := rfl
@[simp] theorem State.updFence_bins (i : Nat) (f : FenceSt → FenceSt) : (s.updFence i f).bins = s.bins := rfl
@[simp] theorem State.updFence_shadow (i : Nat) (f : FenceSt → FenceSt) : (s.updFence i f).shadow = s.shadow := rfl
@[simp] theorem State.updFence_txns (i : Nat) (f : FenceSt → FenceSt) : (s.updFence i f).txns = s.txns := rfl
@[simp] theorem State.updFence_net (i : Nat) (f : FenceSt → FenceSt) : (s.updFence i f).net = s.net := rfl
@[simp] theorem State.updFence_reqs (i : Nat) (f : FenceSt → FenceSt) : (s.updFence i f).reqs = s.reqs := rfl
@[simp] theorem State.updFence_land (i : Nat) (f : FenceSt → FenceSt) : (s.updFence i f).land = s.land := rfl
@[simp] theorem State.updFence_hbmStacks (i : Nat) (f : FenceSt → FenceSt) : (s.updFence i f).hbmStacks = s.hbmStacks := rfl
@[simp] theorem State.updFence_keels (i : Nat) (f : FenceSt → FenceSt) : (s.updFence i f).keels = s.keels := rfl
@[simp] theorem State.updFence_mills (i : Nat) (f : FenceSt → FenceSt) : (s.updFence i f).mills = s.mills := rfl
@[simp] theorem State.updFence_stations (i : Nat) (f : FenceSt → FenceSt) : (s.updFence i f).stations = s.stations := rfl
@[simp] theorem State.updFence_hands (i : Nat) (f : FenceSt → FenceSt) : (s.updFence i f).hands = s.hands := rfl
@[simp] theorem State.updFence_bundles (i : Nat) (f : FenceSt → FenceSt) : (s.updFence i f).bundles = s.bundles := rfl
@[simp] theorem State.updFence_quays (i : Nat) (f : FenceSt → FenceSt) : (s.updFence i f).quays = s.quays := rfl
@[simp] theorem State.updFence_stints (i : Nat) (f : FenceSt → FenceSt) : (s.updFence i f).stints = s.stints := rfl
@[simp] theorem State.updFence_collectors (i : Nat) (f : FenceSt → FenceSt) : (s.updFence i f).collectors = s.collectors := rfl
@[simp] theorem State.updFence_links (i : Nat) (f : FenceSt → FenceSt) : (s.updFence i f).links = s.links := rfl
@[simp] theorem State.updFence_engines (i : Nat) (f : FenceSt → FenceSt) : (s.updFence i f).engines = s.engines := rfl
@[simp] theorem State.updFence_commons (i : Nat) (f : FenceSt → FenceSt) : (s.updFence i f).commons = s.commons := rfl
@[simp] theorem State.updFence_ports (i : Nat) (f : FenceSt → FenceSt) : (s.updFence i f).ports = s.ports := rfl
@[simp] theorem State.updFence_crier (i : Nat) (f : FenceSt → FenceSt) : (s.updFence i f).crier = s.crier := rfl
@[simp] theorem State.updFence_pwr (i : Nat) (f : FenceSt → FenceSt) : (s.updFence i f).pwr = s.pwr := rfl
@[simp] theorem State.updFence_pmbus (i : Nat) (f : FenceSt → FenceSt) : (s.updFence i f).pmbus = s.pmbus := rfl
@[simp] theorem State.updFence_sec (i : Nat) (f : FenceSt → FenceSt) : (s.updFence i f).sec = s.sec := rfl
@[simp] theorem State.fence_updFence (i : Nat) (f : FenceSt → FenceSt) : (s.updFence i f).fence i = f (s.fence i) := SMap.get_upd_same _ _ _ _
theorem State.fence_updFence_other (i : Nat) (f : FenceSt → FenceSt) (j : Nat) (hj : j ≠ i) : (s.updFence i f).fence j = s.fence j :=
  SMap.get_upd_other _ _ _ _ _ hj

/-! ## updDiePower -/

@[simp] theorem State.updDiePower_pending (d : Nat) (f : DiePower → DiePower) : (s.updDiePower d f).pending = s.pending := rfl
@[simp] theorem State.updDiePower_seed (d : Nat) (f : DiePower → DiePower) : (s.updDiePower d f).seed = s.seed := rfl
@[simp] theorem State.updDiePower_clock (d : Nat) (f : DiePower → DiePower) : (s.updDiePower d f).clock = s.clock := rfl
@[simp] theorem State.updDiePower_nextId (d : Nat) (f : DiePower → DiePower) : (s.updDiePower d f).nextId = s.nextId := rfl
@[simp] theorem State.updDiePower_nv (d : Nat) (f : DiePower → DiePower) : (s.updDiePower d f).nv = s.nv := rfl
@[simp] theorem State.updDiePower_boot (d : Nat) (f : DiePower → DiePower) : (s.updDiePower d f).boot = s.boot := rfl
@[simp] theorem State.updDiePower_alm (d : Nat) (f : DiePower → DiePower) : (s.updDiePower d f).alm = s.alm := rfl
@[simp] theorem State.updDiePower_img (d : Nat) (f : DiePower → DiePower) : (s.updDiePower d f).img = s.img := rfl
@[simp] theorem State.updDiePower_tide (d : Nat) (f : DiePower → DiePower) : (s.updDiePower d f).tide = s.tide := rfl
@[simp] theorem State.updDiePower_pols (d : Nat) (f : DiePower → DiePower) : (s.updDiePower d f).pols = s.pols := rfl
@[simp] theorem State.updDiePower_mem (d : Nat) (f : DiePower → DiePower) : (s.updDiePower d f).mem = s.mem := rfl
@[simp] theorem State.updDiePower_marks (d : Nat) (f : DiePower → DiePower) : (s.updDiePower d f).marks = s.marks := rfl
@[simp] theorem State.updDiePower_gran (d : Nat) (f : DiePower → DiePower) : (s.updDiePower d f).gran = s.gran := rfl
@[simp] theorem State.updDiePower_bins (d : Nat) (f : DiePower → DiePower) : (s.updDiePower d f).bins = s.bins := rfl
@[simp] theorem State.updDiePower_shadow (d : Nat) (f : DiePower → DiePower) : (s.updDiePower d f).shadow = s.shadow := rfl
@[simp] theorem State.updDiePower_txns (d : Nat) (f : DiePower → DiePower) : (s.updDiePower d f).txns = s.txns := rfl
@[simp] theorem State.updDiePower_net (d : Nat) (f : DiePower → DiePower) : (s.updDiePower d f).net = s.net := rfl
@[simp] theorem State.updDiePower_reqs (d : Nat) (f : DiePower → DiePower) : (s.updDiePower d f).reqs = s.reqs := rfl
@[simp] theorem State.updDiePower_land (d : Nat) (f : DiePower → DiePower) : (s.updDiePower d f).land = s.land := rfl
@[simp] theorem State.updDiePower_hbmStacks (d : Nat) (f : DiePower → DiePower) : (s.updDiePower d f).hbmStacks = s.hbmStacks := rfl
@[simp] theorem State.updDiePower_keels (d : Nat) (f : DiePower → DiePower) : (s.updDiePower d f).keels = s.keels := rfl
@[simp] theorem State.updDiePower_mills (d : Nat) (f : DiePower → DiePower) : (s.updDiePower d f).mills = s.mills := rfl
@[simp] theorem State.updDiePower_stations (d : Nat) (f : DiePower → DiePower) : (s.updDiePower d f).stations = s.stations := rfl
@[simp] theorem State.updDiePower_hands (d : Nat) (f : DiePower → DiePower) : (s.updDiePower d f).hands = s.hands := rfl
@[simp] theorem State.updDiePower_bundles (d : Nat) (f : DiePower → DiePower) : (s.updDiePower d f).bundles = s.bundles := rfl
@[simp] theorem State.updDiePower_quays (d : Nat) (f : DiePower → DiePower) : (s.updDiePower d f).quays = s.quays := rfl
@[simp] theorem State.updDiePower_stints (d : Nat) (f : DiePower → DiePower) : (s.updDiePower d f).stints = s.stints := rfl
@[simp] theorem State.updDiePower_collectors (d : Nat) (f : DiePower → DiePower) : (s.updDiePower d f).collectors = s.collectors := rfl
@[simp] theorem State.updDiePower_links (d : Nat) (f : DiePower → DiePower) : (s.updDiePower d f).links = s.links := rfl
@[simp] theorem State.updDiePower_engines (d : Nat) (f : DiePower → DiePower) : (s.updDiePower d f).engines = s.engines := rfl
@[simp] theorem State.updDiePower_commons (d : Nat) (f : DiePower → DiePower) : (s.updDiePower d f).commons = s.commons := rfl
@[simp] theorem State.updDiePower_ports (d : Nat) (f : DiePower → DiePower) : (s.updDiePower d f).ports = s.ports := rfl
@[simp] theorem State.updDiePower_crier (d : Nat) (f : DiePower → DiePower) : (s.updDiePower d f).crier = s.crier := rfl
@[simp] theorem State.updDiePower_fences (d : Nat) (f : DiePower → DiePower) : (s.updDiePower d f).fences = s.fences := rfl
@[simp] theorem State.updDiePower_pmbus (d : Nat) (f : DiePower → DiePower) : (s.updDiePower d f).pmbus = s.pmbus := rfl
@[simp] theorem State.updDiePower_sec (d : Nat) (f : DiePower → DiePower) : (s.updDiePower d f).sec = s.sec := rfl
@[simp] theorem State.diePower_updDiePower (d : Nat) (f : DiePower → DiePower) : (s.updDiePower d f).diePower d = f (s.diePower d) := SMap.get_upd_same _ _ _ _
theorem State.diePower_updDiePower_other (d : Nat) (f : DiePower → DiePower) (j : Nat) (hj : j ≠ d) : (s.updDiePower d f).diePower j = s.diePower j :=
  SMap.get_upd_other _ _ _ _ _ hj

/-! ## updHeat -/

@[simp] theorem State.updHeat_pending (i : Nat) (f : DieHeat → DieHeat) : (s.updHeat i f).pending = s.pending := rfl
@[simp] theorem State.updHeat_seed (i : Nat) (f : DieHeat → DieHeat) : (s.updHeat i f).seed = s.seed := rfl
@[simp] theorem State.updHeat_clock (i : Nat) (f : DieHeat → DieHeat) : (s.updHeat i f).clock = s.clock := rfl
@[simp] theorem State.updHeat_nextId (i : Nat) (f : DieHeat → DieHeat) : (s.updHeat i f).nextId = s.nextId := rfl
@[simp] theorem State.updHeat_nv (i : Nat) (f : DieHeat → DieHeat) : (s.updHeat i f).nv = s.nv := rfl
@[simp] theorem State.updHeat_boot (i : Nat) (f : DieHeat → DieHeat) : (s.updHeat i f).boot = s.boot := rfl
@[simp] theorem State.updHeat_alm (i : Nat) (f : DieHeat → DieHeat) : (s.updHeat i f).alm = s.alm := rfl
@[simp] theorem State.updHeat_img (i : Nat) (f : DieHeat → DieHeat) : (s.updHeat i f).img = s.img := rfl
@[simp] theorem State.updHeat_tide (i : Nat) (f : DieHeat → DieHeat) : (s.updHeat i f).tide = s.tide := rfl
@[simp] theorem State.updHeat_pols (i : Nat) (f : DieHeat → DieHeat) : (s.updHeat i f).pols = s.pols := rfl
@[simp] theorem State.updHeat_mem (i : Nat) (f : DieHeat → DieHeat) : (s.updHeat i f).mem = s.mem := rfl
@[simp] theorem State.updHeat_marks (i : Nat) (f : DieHeat → DieHeat) : (s.updHeat i f).marks = s.marks := rfl
@[simp] theorem State.updHeat_gran (i : Nat) (f : DieHeat → DieHeat) : (s.updHeat i f).gran = s.gran := rfl
@[simp] theorem State.updHeat_bins (i : Nat) (f : DieHeat → DieHeat) : (s.updHeat i f).bins = s.bins := rfl
@[simp] theorem State.updHeat_shadow (i : Nat) (f : DieHeat → DieHeat) : (s.updHeat i f).shadow = s.shadow := rfl
@[simp] theorem State.updHeat_txns (i : Nat) (f : DieHeat → DieHeat) : (s.updHeat i f).txns = s.txns := rfl
@[simp] theorem State.updHeat_net (i : Nat) (f : DieHeat → DieHeat) : (s.updHeat i f).net = s.net := rfl
@[simp] theorem State.updHeat_reqs (i : Nat) (f : DieHeat → DieHeat) : (s.updHeat i f).reqs = s.reqs := rfl
@[simp] theorem State.updHeat_land (i : Nat) (f : DieHeat → DieHeat) : (s.updHeat i f).land = s.land := rfl
@[simp] theorem State.updHeat_hbmStacks (i : Nat) (f : DieHeat → DieHeat) : (s.updHeat i f).hbmStacks = s.hbmStacks := rfl
@[simp] theorem State.updHeat_keels (i : Nat) (f : DieHeat → DieHeat) : (s.updHeat i f).keels = s.keels := rfl
@[simp] theorem State.updHeat_mills (i : Nat) (f : DieHeat → DieHeat) : (s.updHeat i f).mills = s.mills := rfl
@[simp] theorem State.updHeat_stations (i : Nat) (f : DieHeat → DieHeat) : (s.updHeat i f).stations = s.stations := rfl
@[simp] theorem State.updHeat_hands (i : Nat) (f : DieHeat → DieHeat) : (s.updHeat i f).hands = s.hands := rfl
@[simp] theorem State.updHeat_bundles (i : Nat) (f : DieHeat → DieHeat) : (s.updHeat i f).bundles = s.bundles := rfl
@[simp] theorem State.updHeat_quays (i : Nat) (f : DieHeat → DieHeat) : (s.updHeat i f).quays = s.quays := rfl
@[simp] theorem State.updHeat_stints (i : Nat) (f : DieHeat → DieHeat) : (s.updHeat i f).stints = s.stints := rfl
@[simp] theorem State.updHeat_collectors (i : Nat) (f : DieHeat → DieHeat) : (s.updHeat i f).collectors = s.collectors := rfl
@[simp] theorem State.updHeat_links (i : Nat) (f : DieHeat → DieHeat) : (s.updHeat i f).links = s.links := rfl
@[simp] theorem State.updHeat_engines (i : Nat) (f : DieHeat → DieHeat) : (s.updHeat i f).engines = s.engines := rfl
@[simp] theorem State.updHeat_commons (i : Nat) (f : DieHeat → DieHeat) : (s.updHeat i f).commons = s.commons := rfl
@[simp] theorem State.updHeat_ports (i : Nat) (f : DieHeat → DieHeat) : (s.updHeat i f).ports = s.ports := rfl
@[simp] theorem State.updHeat_crier (i : Nat) (f : DieHeat → DieHeat) : (s.updHeat i f).crier = s.crier := rfl
@[simp] theorem State.updHeat_fences (i : Nat) (f : DieHeat → DieHeat) : (s.updHeat i f).fences = s.fences := rfl
@[simp] theorem State.updHeat_pmbus (i : Nat) (f : DieHeat → DieHeat) : (s.updHeat i f).pmbus = s.pmbus := rfl
@[simp] theorem State.updHeat_sec (i : Nat) (f : DieHeat → DieHeat) : (s.updHeat i f).sec = s.sec := rfl
@[simp] theorem State.heat_updHeat (i : Nat) (f : DieHeat → DieHeat) : (s.updHeat i f).heat i = f (s.heat i) := SMap.get_upd_same _ _ _ _
theorem State.heat_updHeat_other (i : Nat) (f : DieHeat → DieHeat) (j : Nat) (hj : j ≠ i) : (s.updHeat i f).heat j = s.heat j :=
  SMap.get_upd_other _ _ _ _ _ hj

/-! ## updQuay -/

@[simp] theorem State.updQuay_pending (n : Nat) (f : QuaySt → QuaySt) : (s.updQuay n f).pending = s.pending := rfl
@[simp] theorem State.updQuay_seed (n : Nat) (f : QuaySt → QuaySt) : (s.updQuay n f).seed = s.seed := rfl
@[simp] theorem State.updQuay_clock (n : Nat) (f : QuaySt → QuaySt) : (s.updQuay n f).clock = s.clock := rfl
@[simp] theorem State.updQuay_nextId (n : Nat) (f : QuaySt → QuaySt) : (s.updQuay n f).nextId = s.nextId := rfl
@[simp] theorem State.updQuay_nv (n : Nat) (f : QuaySt → QuaySt) : (s.updQuay n f).nv = s.nv := rfl
@[simp] theorem State.updQuay_boot (n : Nat) (f : QuaySt → QuaySt) : (s.updQuay n f).boot = s.boot := rfl
@[simp] theorem State.updQuay_alm (n : Nat) (f : QuaySt → QuaySt) : (s.updQuay n f).alm = s.alm := rfl
@[simp] theorem State.updQuay_img (n : Nat) (f : QuaySt → QuaySt) : (s.updQuay n f).img = s.img := rfl
@[simp] theorem State.updQuay_tide (n : Nat) (f : QuaySt → QuaySt) : (s.updQuay n f).tide = s.tide := rfl
@[simp] theorem State.updQuay_pols (n : Nat) (f : QuaySt → QuaySt) : (s.updQuay n f).pols = s.pols := rfl
@[simp] theorem State.updQuay_mem (n : Nat) (f : QuaySt → QuaySt) : (s.updQuay n f).mem = s.mem := rfl
@[simp] theorem State.updQuay_marks (n : Nat) (f : QuaySt → QuaySt) : (s.updQuay n f).marks = s.marks := rfl
@[simp] theorem State.updQuay_gran (n : Nat) (f : QuaySt → QuaySt) : (s.updQuay n f).gran = s.gran := rfl
@[simp] theorem State.updQuay_bins (n : Nat) (f : QuaySt → QuaySt) : (s.updQuay n f).bins = s.bins := rfl
@[simp] theorem State.updQuay_shadow (n : Nat) (f : QuaySt → QuaySt) : (s.updQuay n f).shadow = s.shadow := rfl
@[simp] theorem State.updQuay_txns (n : Nat) (f : QuaySt → QuaySt) : (s.updQuay n f).txns = s.txns := rfl
@[simp] theorem State.updQuay_net (n : Nat) (f : QuaySt → QuaySt) : (s.updQuay n f).net = s.net := rfl
@[simp] theorem State.updQuay_reqs (n : Nat) (f : QuaySt → QuaySt) : (s.updQuay n f).reqs = s.reqs := rfl
@[simp] theorem State.updQuay_land (n : Nat) (f : QuaySt → QuaySt) : (s.updQuay n f).land = s.land := rfl
@[simp] theorem State.updQuay_hbmStacks (n : Nat) (f : QuaySt → QuaySt) : (s.updQuay n f).hbmStacks = s.hbmStacks := rfl
@[simp] theorem State.updQuay_keels (n : Nat) (f : QuaySt → QuaySt) : (s.updQuay n f).keels = s.keels := rfl
@[simp] theorem State.updQuay_mills (n : Nat) (f : QuaySt → QuaySt) : (s.updQuay n f).mills = s.mills := rfl
@[simp] theorem State.updQuay_stations (n : Nat) (f : QuaySt → QuaySt) : (s.updQuay n f).stations = s.stations := rfl
@[simp] theorem State.updQuay_hands (n : Nat) (f : QuaySt → QuaySt) : (s.updQuay n f).hands = s.hands := rfl
@[simp] theorem State.updQuay_bundles (n : Nat) (f : QuaySt → QuaySt) : (s.updQuay n f).bundles = s.bundles := rfl
@[simp] theorem State.updQuay_stints (n : Nat) (f : QuaySt → QuaySt) : (s.updQuay n f).stints = s.stints := rfl
@[simp] theorem State.updQuay_collectors (n : Nat) (f : QuaySt → QuaySt) : (s.updQuay n f).collectors = s.collectors := rfl
@[simp] theorem State.updQuay_links (n : Nat) (f : QuaySt → QuaySt) : (s.updQuay n f).links = s.links := rfl
@[simp] theorem State.updQuay_engines (n : Nat) (f : QuaySt → QuaySt) : (s.updQuay n f).engines = s.engines := rfl
@[simp] theorem State.updQuay_commons (n : Nat) (f : QuaySt → QuaySt) : (s.updQuay n f).commons = s.commons := rfl
@[simp] theorem State.updQuay_ports (n : Nat) (f : QuaySt → QuaySt) : (s.updQuay n f).ports = s.ports := rfl
@[simp] theorem State.updQuay_crier (n : Nat) (f : QuaySt → QuaySt) : (s.updQuay n f).crier = s.crier := rfl
@[simp] theorem State.updQuay_pwr (n : Nat) (f : QuaySt → QuaySt) : (s.updQuay n f).pwr = s.pwr := rfl
@[simp] theorem State.updQuay_fences (n : Nat) (f : QuaySt → QuaySt) : (s.updQuay n f).fences = s.fences := rfl
@[simp] theorem State.updQuay_pmbus (n : Nat) (f : QuaySt → QuaySt) : (s.updQuay n f).pmbus = s.pmbus := rfl
@[simp] theorem State.updQuay_sec (n : Nat) (f : QuaySt → QuaySt) : (s.updQuay n f).sec = s.sec := rfl
@[simp] theorem State.quay_updQuay (n : Nat) (f : QuaySt → QuaySt) : (s.updQuay n f).quay n = f (s.quay n) := SMap.get_upd_same _ _ _ _
theorem State.quay_updQuay_other (n : Nat) (f : QuaySt → QuaySt) (j : Nat) (hj : j ≠ n) : (s.updQuay n f).quay j = s.quay j :=
  SMap.get_upd_other _ _ _ _ _ hj

/-! ## updLand -/

@[simp] theorem State.updLand_pending (f : Land → Land) : (s.updLand f).pending = s.pending := rfl
@[simp] theorem State.updLand_seed (f : Land → Land) : (s.updLand f).seed = s.seed := rfl
@[simp] theorem State.updLand_clock (f : Land → Land) : (s.updLand f).clock = s.clock := rfl
@[simp] theorem State.updLand_nextId (f : Land → Land) : (s.updLand f).nextId = s.nextId := rfl
@[simp] theorem State.updLand_nv (f : Land → Land) : (s.updLand f).nv = s.nv := rfl
@[simp] theorem State.updLand_boot (f : Land → Land) : (s.updLand f).boot = s.boot := rfl
@[simp] theorem State.updLand_alm (f : Land → Land) : (s.updLand f).alm = s.alm := rfl
@[simp] theorem State.updLand_img (f : Land → Land) : (s.updLand f).img = s.img := rfl
@[simp] theorem State.updLand_tide (f : Land → Land) : (s.updLand f).tide = s.tide := rfl
@[simp] theorem State.updLand_pols (f : Land → Land) : (s.updLand f).pols = s.pols := rfl
@[simp] theorem State.updLand_mem (f : Land → Land) : (s.updLand f).mem = s.mem := rfl
@[simp] theorem State.updLand_marks (f : Land → Land) : (s.updLand f).marks = s.marks := rfl
@[simp] theorem State.updLand_gran (f : Land → Land) : (s.updLand f).gran = s.gran := rfl
@[simp] theorem State.updLand_bins (f : Land → Land) : (s.updLand f).bins = s.bins := rfl
@[simp] theorem State.updLand_shadow (f : Land → Land) : (s.updLand f).shadow = s.shadow := rfl
@[simp] theorem State.updLand_txns (f : Land → Land) : (s.updLand f).txns = s.txns := rfl
@[simp] theorem State.updLand_net (f : Land → Land) : (s.updLand f).net = s.net := rfl
@[simp] theorem State.updLand_reqs (f : Land → Land) : (s.updLand f).reqs = s.reqs := rfl
@[simp] theorem State.updLand_hbmStacks (f : Land → Land) : (s.updLand f).hbmStacks = s.hbmStacks := rfl
@[simp] theorem State.updLand_keels (f : Land → Land) : (s.updLand f).keels = s.keels := rfl
@[simp] theorem State.updLand_mills (f : Land → Land) : (s.updLand f).mills = s.mills := rfl
@[simp] theorem State.updLand_stations (f : Land → Land) : (s.updLand f).stations = s.stations := rfl
@[simp] theorem State.updLand_hands (f : Land → Land) : (s.updLand f).hands = s.hands := rfl
@[simp] theorem State.updLand_bundles (f : Land → Land) : (s.updLand f).bundles = s.bundles := rfl
@[simp] theorem State.updLand_quays (f : Land → Land) : (s.updLand f).quays = s.quays := rfl
@[simp] theorem State.updLand_stints (f : Land → Land) : (s.updLand f).stints = s.stints := rfl
@[simp] theorem State.updLand_collectors (f : Land → Land) : (s.updLand f).collectors = s.collectors := rfl
@[simp] theorem State.updLand_links (f : Land → Land) : (s.updLand f).links = s.links := rfl
@[simp] theorem State.updLand_engines (f : Land → Land) : (s.updLand f).engines = s.engines := rfl
@[simp] theorem State.updLand_commons (f : Land → Land) : (s.updLand f).commons = s.commons := rfl
@[simp] theorem State.updLand_ports (f : Land → Land) : (s.updLand f).ports = s.ports := rfl
@[simp] theorem State.updLand_crier (f : Land → Land) : (s.updLand f).crier = s.crier := rfl
@[simp] theorem State.updLand_pwr (f : Land → Land) : (s.updLand f).pwr = s.pwr := rfl
@[simp] theorem State.updLand_fences (f : Land → Land) : (s.updLand f).fences = s.fences := rfl
@[simp] theorem State.updLand_pmbus (f : Land → Land) : (s.updLand f).pmbus = s.pmbus := rfl
@[simp] theorem State.updLand_sec (f : Land → Land) : (s.updLand f).sec = s.sec := rfl

/-! ## updBook -/

@[simp] theorem State.updBook_pending (p c : Nat) (f : Book → Book) : (s.updBook p c f).pending = s.pending := rfl
@[simp] theorem State.updBook_seed (p c : Nat) (f : Book → Book) : (s.updBook p c f).seed = s.seed := rfl
@[simp] theorem State.updBook_clock (p c : Nat) (f : Book → Book) : (s.updBook p c f).clock = s.clock := rfl
@[simp] theorem State.updBook_nextId (p c : Nat) (f : Book → Book) : (s.updBook p c f).nextId = s.nextId := rfl
@[simp] theorem State.updBook_nv (p c : Nat) (f : Book → Book) : (s.updBook p c f).nv = s.nv := rfl
@[simp] theorem State.updBook_boot (p c : Nat) (f : Book → Book) : (s.updBook p c f).boot = s.boot := rfl
@[simp] theorem State.updBook_alm (p c : Nat) (f : Book → Book) : (s.updBook p c f).alm = s.alm := rfl
@[simp] theorem State.updBook_img (p c : Nat) (f : Book → Book) : (s.updBook p c f).img = s.img := rfl
@[simp] theorem State.updBook_tide (p c : Nat) (f : Book → Book) : (s.updBook p c f).tide = s.tide := rfl
@[simp] theorem State.updBook_pols (p c : Nat) (f : Book → Book) : (s.updBook p c f).pols = s.pols := rfl
@[simp] theorem State.updBook_mem (p c : Nat) (f : Book → Book) : (s.updBook p c f).mem = s.mem := rfl
@[simp] theorem State.updBook_marks (p c : Nat) (f : Book → Book) : (s.updBook p c f).marks = s.marks := rfl
@[simp] theorem State.updBook_gran (p c : Nat) (f : Book → Book) : (s.updBook p c f).gran = s.gran := rfl
@[simp] theorem State.updBook_bins (p c : Nat) (f : Book → Book) : (s.updBook p c f).bins = s.bins := rfl
@[simp] theorem State.updBook_shadow (p c : Nat) (f : Book → Book) : (s.updBook p c f).shadow = s.shadow := rfl
@[simp] theorem State.updBook_txns (p c : Nat) (f : Book → Book) : (s.updBook p c f).txns = s.txns := rfl
@[simp] theorem State.updBook_net (p c : Nat) (f : Book → Book) : (s.updBook p c f).net = s.net := rfl
@[simp] theorem State.updBook_reqs (p c : Nat) (f : Book → Book) : (s.updBook p c f).reqs = s.reqs := rfl
@[simp] theorem State.updBook_land (p c : Nat) (f : Book → Book) : (s.updBook p c f).land = s.land := rfl
@[simp] theorem State.updBook_hbmStacks (p c : Nat) (f : Book → Book) : (s.updBook p c f).hbmStacks = s.hbmStacks := rfl
@[simp] theorem State.updBook_keels (p c : Nat) (f : Book → Book) : (s.updBook p c f).keels = s.keels := rfl
@[simp] theorem State.updBook_mills (p c : Nat) (f : Book → Book) : (s.updBook p c f).mills = s.mills := rfl
@[simp] theorem State.updBook_stations (p c : Nat) (f : Book → Book) : (s.updBook p c f).stations = s.stations := rfl
@[simp] theorem State.updBook_hands (p c : Nat) (f : Book → Book) : (s.updBook p c f).hands = s.hands := rfl
@[simp] theorem State.updBook_bundles (p c : Nat) (f : Book → Book) : (s.updBook p c f).bundles = s.bundles := rfl
@[simp] theorem State.updBook_quays (p c : Nat) (f : Book → Book) : (s.updBook p c f).quays = s.quays := rfl
@[simp] theorem State.updBook_stints (p c : Nat) (f : Book → Book) : (s.updBook p c f).stints = s.stints := rfl
@[simp] theorem State.updBook_collectors (p c : Nat) (f : Book → Book) : (s.updBook p c f).collectors = s.collectors := rfl
@[simp] theorem State.updBook_links (p c : Nat) (f : Book → Book) : (s.updBook p c f).links = s.links := rfl
@[simp] theorem State.updBook_engines (p c : Nat) (f : Book → Book) : (s.updBook p c f).engines = s.engines := rfl
@[simp] theorem State.updBook_commons (p c : Nat) (f : Book → Book) : (s.updBook p c f).commons = s.commons := rfl
@[simp] theorem State.updBook_ports (p c : Nat) (f : Book → Book) : (s.updBook p c f).ports = s.ports := rfl
@[simp] theorem State.updBook_pwr (p c : Nat) (f : Book → Book) : (s.updBook p c f).pwr = s.pwr := rfl
@[simp] theorem State.updBook_fences (p c : Nat) (f : Book → Book) : (s.updBook p c f).fences = s.fences := rfl
@[simp] theorem State.updBook_pmbus (p c : Nat) (f : Book → Book) : (s.updBook p c f).pmbus = s.pmbus := rfl
@[simp] theorem State.updBook_sec (p c : Nat) (f : Book → Book) : (s.updBook p c f).sec = s.sec := rfl

/-! ## updStation -/

@[simp] theorem State.updStation_pending (d p : Nat) (f : StationSt → StationSt) : (s.updStation d p f).pending = s.pending := rfl
@[simp] theorem State.updStation_seed (d p : Nat) (f : StationSt → StationSt) : (s.updStation d p f).seed = s.seed := rfl
@[simp] theorem State.updStation_clock (d p : Nat) (f : StationSt → StationSt) : (s.updStation d p f).clock = s.clock := rfl
@[simp] theorem State.updStation_nextId (d p : Nat) (f : StationSt → StationSt) : (s.updStation d p f).nextId = s.nextId := rfl
@[simp] theorem State.updStation_nv (d p : Nat) (f : StationSt → StationSt) : (s.updStation d p f).nv = s.nv := rfl
@[simp] theorem State.updStation_boot (d p : Nat) (f : StationSt → StationSt) : (s.updStation d p f).boot = s.boot := rfl
@[simp] theorem State.updStation_alm (d p : Nat) (f : StationSt → StationSt) : (s.updStation d p f).alm = s.alm := rfl
@[simp] theorem State.updStation_img (d p : Nat) (f : StationSt → StationSt) : (s.updStation d p f).img = s.img := rfl
@[simp] theorem State.updStation_tide (d p : Nat) (f : StationSt → StationSt) : (s.updStation d p f).tide = s.tide := rfl
@[simp] theorem State.updStation_pols (d p : Nat) (f : StationSt → StationSt) : (s.updStation d p f).pols = s.pols := rfl
@[simp] theorem State.updStation_mem (d p : Nat) (f : StationSt → StationSt) : (s.updStation d p f).mem = s.mem := rfl
@[simp] theorem State.updStation_marks (d p : Nat) (f : StationSt → StationSt) : (s.updStation d p f).marks = s.marks := rfl
@[simp] theorem State.updStation_gran (d p : Nat) (f : StationSt → StationSt) : (s.updStation d p f).gran = s.gran := rfl
@[simp] theorem State.updStation_bins (d p : Nat) (f : StationSt → StationSt) : (s.updStation d p f).bins = s.bins := rfl
@[simp] theorem State.updStation_shadow (d p : Nat) (f : StationSt → StationSt) : (s.updStation d p f).shadow = s.shadow := rfl
@[simp] theorem State.updStation_txns (d p : Nat) (f : StationSt → StationSt) : (s.updStation d p f).txns = s.txns := rfl
@[simp] theorem State.updStation_net (d p : Nat) (f : StationSt → StationSt) : (s.updStation d p f).net = s.net := rfl
@[simp] theorem State.updStation_reqs (d p : Nat) (f : StationSt → StationSt) : (s.updStation d p f).reqs = s.reqs := rfl
@[simp] theorem State.updStation_land (d p : Nat) (f : StationSt → StationSt) : (s.updStation d p f).land = s.land := rfl
@[simp] theorem State.updStation_hbmStacks (d p : Nat) (f : StationSt → StationSt) : (s.updStation d p f).hbmStacks = s.hbmStacks := rfl
@[simp] theorem State.updStation_keels (d p : Nat) (f : StationSt → StationSt) : (s.updStation d p f).keels = s.keels := rfl
@[simp] theorem State.updStation_mills (d p : Nat) (f : StationSt → StationSt) : (s.updStation d p f).mills = s.mills := rfl
@[simp] theorem State.updStation_hands (d p : Nat) (f : StationSt → StationSt) : (s.updStation d p f).hands = s.hands := rfl
@[simp] theorem State.updStation_bundles (d p : Nat) (f : StationSt → StationSt) : (s.updStation d p f).bundles = s.bundles := rfl
@[simp] theorem State.updStation_quays (d p : Nat) (f : StationSt → StationSt) : (s.updStation d p f).quays = s.quays := rfl
@[simp] theorem State.updStation_stints (d p : Nat) (f : StationSt → StationSt) : (s.updStation d p f).stints = s.stints := rfl
@[simp] theorem State.updStation_collectors (d p : Nat) (f : StationSt → StationSt) : (s.updStation d p f).collectors = s.collectors := rfl
@[simp] theorem State.updStation_links (d p : Nat) (f : StationSt → StationSt) : (s.updStation d p f).links = s.links := rfl
@[simp] theorem State.updStation_engines (d p : Nat) (f : StationSt → StationSt) : (s.updStation d p f).engines = s.engines := rfl
@[simp] theorem State.updStation_commons (d p : Nat) (f : StationSt → StationSt) : (s.updStation d p f).commons = s.commons := rfl
@[simp] theorem State.updStation_ports (d p : Nat) (f : StationSt → StationSt) : (s.updStation d p f).ports = s.ports := rfl
@[simp] theorem State.updStation_crier (d p : Nat) (f : StationSt → StationSt) : (s.updStation d p f).crier = s.crier := rfl
@[simp] theorem State.updStation_pwr (d p : Nat) (f : StationSt → StationSt) : (s.updStation d p f).pwr = s.pwr := rfl
@[simp] theorem State.updStation_fences (d p : Nat) (f : StationSt → StationSt) : (s.updStation d p f).fences = s.fences := rfl
@[simp] theorem State.updStation_pmbus (d p : Nat) (f : StationSt → StationSt) : (s.updStation d p f).pmbus = s.pmbus := rfl
@[simp] theorem State.updStation_sec (d p : Nat) (f : StationSt → StationSt) : (s.updStation d p f).sec = s.sec := rfl

/-! ## raise -/

@[simp] theorem State.raise_pending (c : Code) (src b p : Nat) (d : List Byte) : (s.raise c src b p d).pending = s.pending := rfl
@[simp] theorem State.raise_seed (c : Code) (src b p : Nat) (d : List Byte) : (s.raise c src b p d).seed = s.seed := rfl
@[simp] theorem State.raise_clock (c : Code) (src b p : Nat) (d : List Byte) : (s.raise c src b p d).clock = s.clock := rfl
@[simp] theorem State.raise_nextId (c : Code) (src b p : Nat) (d : List Byte) : (s.raise c src b p d).nextId = s.nextId := rfl
@[simp] theorem State.raise_nv (c : Code) (src b p : Nat) (d : List Byte) : (s.raise c src b p d).nv = s.nv := rfl
@[simp] theorem State.raise_boot (c : Code) (src b p : Nat) (d : List Byte) : (s.raise c src b p d).boot = s.boot := rfl
@[simp] theorem State.raise_alm (c : Code) (src b p : Nat) (d : List Byte) : (s.raise c src b p d).alm = s.alm := rfl
@[simp] theorem State.raise_img (c : Code) (src b p : Nat) (d : List Byte) : (s.raise c src b p d).img = s.img := rfl
@[simp] theorem State.raise_tide (c : Code) (src b p : Nat) (d : List Byte) : (s.raise c src b p d).tide = s.tide := rfl
@[simp] theorem State.raise_pols (c : Code) (src b p : Nat) (d : List Byte) : (s.raise c src b p d).pols = s.pols := rfl
@[simp] theorem State.raise_mem (c : Code) (src b p : Nat) (d : List Byte) : (s.raise c src b p d).mem = s.mem := rfl
@[simp] theorem State.raise_marks (c : Code) (src b p : Nat) (d : List Byte) : (s.raise c src b p d).marks = s.marks := rfl
@[simp] theorem State.raise_gran (c : Code) (src b p : Nat) (d : List Byte) : (s.raise c src b p d).gran = s.gran := rfl
@[simp] theorem State.raise_bins (c : Code) (src b p : Nat) (d : List Byte) : (s.raise c src b p d).bins = s.bins := rfl
@[simp] theorem State.raise_shadow (c : Code) (src b p : Nat) (d : List Byte) : (s.raise c src b p d).shadow = s.shadow := rfl
@[simp] theorem State.raise_txns (c : Code) (src b p : Nat) (d : List Byte) : (s.raise c src b p d).txns = s.txns := rfl
@[simp] theorem State.raise_net (c : Code) (src b p : Nat) (d : List Byte) : (s.raise c src b p d).net = s.net := rfl
@[simp] theorem State.raise_reqs (c : Code) (src b p : Nat) (d : List Byte) : (s.raise c src b p d).reqs = s.reqs := rfl
@[simp] theorem State.raise_land (c : Code) (src b p : Nat) (d : List Byte) : (s.raise c src b p d).land = s.land := rfl
@[simp] theorem State.raise_hbmStacks (c : Code) (src b p : Nat) (d : List Byte) : (s.raise c src b p d).hbmStacks = s.hbmStacks := rfl
@[simp] theorem State.raise_keels (c : Code) (src b p : Nat) (d : List Byte) : (s.raise c src b p d).keels = s.keels := rfl
@[simp] theorem State.raise_mills (c : Code) (src b p : Nat) (d : List Byte) : (s.raise c src b p d).mills = s.mills := rfl
@[simp] theorem State.raise_stations (c : Code) (src b p : Nat) (d : List Byte) : (s.raise c src b p d).stations = s.stations := rfl
@[simp] theorem State.raise_hands (c : Code) (src b p : Nat) (d : List Byte) : (s.raise c src b p d).hands = s.hands := rfl
@[simp] theorem State.raise_bundles (c : Code) (src b p : Nat) (d : List Byte) : (s.raise c src b p d).bundles = s.bundles := rfl
@[simp] theorem State.raise_quays (c : Code) (src b p : Nat) (d : List Byte) : (s.raise c src b p d).quays = s.quays := rfl
@[simp] theorem State.raise_stints (c : Code) (src b p : Nat) (d : List Byte) : (s.raise c src b p d).stints = s.stints := rfl
@[simp] theorem State.raise_collectors (c : Code) (src b p : Nat) (d : List Byte) : (s.raise c src b p d).collectors = s.collectors := rfl
@[simp] theorem State.raise_links (c : Code) (src b p : Nat) (d : List Byte) : (s.raise c src b p d).links = s.links := rfl
@[simp] theorem State.raise_engines (c : Code) (src b p : Nat) (d : List Byte) : (s.raise c src b p d).engines = s.engines := rfl
@[simp] theorem State.raise_commons (c : Code) (src b p : Nat) (d : List Byte) : (s.raise c src b p d).commons = s.commons := rfl
@[simp] theorem State.raise_ports (c : Code) (src b p : Nat) (d : List Byte) : (s.raise c src b p d).ports = s.ports := rfl
@[simp] theorem State.raise_pwr (c : Code) (src b p : Nat) (d : List Byte) : (s.raise c src b p d).pwr = s.pwr := rfl
@[simp] theorem State.raise_fences (c : Code) (src b p : Nat) (d : List Byte) : (s.raise c src b p d).fences = s.fences := rfl
@[simp] theorem State.raise_pmbus (c : Code) (src b p : Nat) (d : List Byte) : (s.raise c src b p d).pmbus = s.pmbus := rfl
@[simp] theorem State.raise_sec (c : Code) (src b p : Nat) (d : List Byte) : (s.raise c src b p d).sec = s.sec := rfl

/-! ## setBin -/

@[simp] theorem State.setBin_pending (k : Nat) (b : BinLine) : (s.setBin k b).pending = s.pending := rfl
@[simp] theorem State.setBin_seed (k : Nat) (b : BinLine) : (s.setBin k b).seed = s.seed := rfl
@[simp] theorem State.setBin_clock (k : Nat) (b : BinLine) : (s.setBin k b).clock = s.clock := rfl
@[simp] theorem State.setBin_nextId (k : Nat) (b : BinLine) : (s.setBin k b).nextId = s.nextId := rfl
@[simp] theorem State.setBin_nv (k : Nat) (b : BinLine) : (s.setBin k b).nv = s.nv := rfl
@[simp] theorem State.setBin_boot (k : Nat) (b : BinLine) : (s.setBin k b).boot = s.boot := rfl
@[simp] theorem State.setBin_alm (k : Nat) (b : BinLine) : (s.setBin k b).alm = s.alm := rfl
@[simp] theorem State.setBin_img (k : Nat) (b : BinLine) : (s.setBin k b).img = s.img := rfl
@[simp] theorem State.setBin_tide (k : Nat) (b : BinLine) : (s.setBin k b).tide = s.tide := rfl
@[simp] theorem State.setBin_pols (k : Nat) (b : BinLine) : (s.setBin k b).pols = s.pols := rfl
@[simp] theorem State.setBin_mem (k : Nat) (b : BinLine) : (s.setBin k b).mem = s.mem := rfl
@[simp] theorem State.setBin_marks (k : Nat) (b : BinLine) : (s.setBin k b).marks = s.marks := rfl
@[simp] theorem State.setBin_gran (k : Nat) (b : BinLine) : (s.setBin k b).gran = s.gran := rfl
@[simp] theorem State.setBin_shadow (k : Nat) (b : BinLine) : (s.setBin k b).shadow = s.shadow := rfl
@[simp] theorem State.setBin_txns (k : Nat) (b : BinLine) : (s.setBin k b).txns = s.txns := rfl
@[simp] theorem State.setBin_net (k : Nat) (b : BinLine) : (s.setBin k b).net = s.net := rfl
@[simp] theorem State.setBin_reqs (k : Nat) (b : BinLine) : (s.setBin k b).reqs = s.reqs := rfl
@[simp] theorem State.setBin_land (k : Nat) (b : BinLine) : (s.setBin k b).land = s.land := rfl
@[simp] theorem State.setBin_hbmStacks (k : Nat) (b : BinLine) : (s.setBin k b).hbmStacks = s.hbmStacks := rfl
@[simp] theorem State.setBin_keels (k : Nat) (b : BinLine) : (s.setBin k b).keels = s.keels := rfl
@[simp] theorem State.setBin_mills (k : Nat) (b : BinLine) : (s.setBin k b).mills = s.mills := rfl
@[simp] theorem State.setBin_stations (k : Nat) (b : BinLine) : (s.setBin k b).stations = s.stations := rfl
@[simp] theorem State.setBin_hands (k : Nat) (b : BinLine) : (s.setBin k b).hands = s.hands := rfl
@[simp] theorem State.setBin_bundles (k : Nat) (b : BinLine) : (s.setBin k b).bundles = s.bundles := rfl
@[simp] theorem State.setBin_quays (k : Nat) (b : BinLine) : (s.setBin k b).quays = s.quays := rfl
@[simp] theorem State.setBin_stints (k : Nat) (b : BinLine) : (s.setBin k b).stints = s.stints := rfl
@[simp] theorem State.setBin_collectors (k : Nat) (b : BinLine) : (s.setBin k b).collectors = s.collectors := rfl
@[simp] theorem State.setBin_links (k : Nat) (b : BinLine) : (s.setBin k b).links = s.links := rfl
@[simp] theorem State.setBin_engines (k : Nat) (b : BinLine) : (s.setBin k b).engines = s.engines := rfl
@[simp] theorem State.setBin_commons (k : Nat) (b : BinLine) : (s.setBin k b).commons = s.commons := rfl
@[simp] theorem State.setBin_ports (k : Nat) (b : BinLine) : (s.setBin k b).ports = s.ports := rfl
@[simp] theorem State.setBin_crier (k : Nat) (b : BinLine) : (s.setBin k b).crier = s.crier := rfl
@[simp] theorem State.setBin_pwr (k : Nat) (b : BinLine) : (s.setBin k b).pwr = s.pwr := rfl
@[simp] theorem State.setBin_fences (k : Nat) (b : BinLine) : (s.setBin k b).fences = s.fences := rfl
@[simp] theorem State.setBin_pmbus (k : Nat) (b : BinLine) : (s.setBin k b).pmbus = s.pmbus := rfl
@[simp] theorem State.setBin_sec (k : Nat) (b : BinLine) : (s.setBin k b).sec = s.sec := rfl

/-! ## setGran -/

@[simp] theorem State.setGran_pending (k : Nat) (g : GranLine) : (s.setGran k g).pending = s.pending := rfl
@[simp] theorem State.setGran_seed (k : Nat) (g : GranLine) : (s.setGran k g).seed = s.seed := rfl
@[simp] theorem State.setGran_clock (k : Nat) (g : GranLine) : (s.setGran k g).clock = s.clock := rfl
@[simp] theorem State.setGran_nextId (k : Nat) (g : GranLine) : (s.setGran k g).nextId = s.nextId := rfl
@[simp] theorem State.setGran_nv (k : Nat) (g : GranLine) : (s.setGran k g).nv = s.nv := rfl
@[simp] theorem State.setGran_boot (k : Nat) (g : GranLine) : (s.setGran k g).boot = s.boot := rfl
@[simp] theorem State.setGran_alm (k : Nat) (g : GranLine) : (s.setGran k g).alm = s.alm := rfl
@[simp] theorem State.setGran_img (k : Nat) (g : GranLine) : (s.setGran k g).img = s.img := rfl
@[simp] theorem State.setGran_tide (k : Nat) (g : GranLine) : (s.setGran k g).tide = s.tide := rfl
@[simp] theorem State.setGran_pols (k : Nat) (g : GranLine) : (s.setGran k g).pols = s.pols := rfl
@[simp] theorem State.setGran_mem (k : Nat) (g : GranLine) : (s.setGran k g).mem = s.mem := rfl
@[simp] theorem State.setGran_marks (k : Nat) (g : GranLine) : (s.setGran k g).marks = s.marks := rfl
@[simp] theorem State.setGran_bins (k : Nat) (g : GranLine) : (s.setGran k g).bins = s.bins := rfl
@[simp] theorem State.setGran_shadow (k : Nat) (g : GranLine) : (s.setGran k g).shadow = s.shadow := rfl
@[simp] theorem State.setGran_txns (k : Nat) (g : GranLine) : (s.setGran k g).txns = s.txns := rfl
@[simp] theorem State.setGran_net (k : Nat) (g : GranLine) : (s.setGran k g).net = s.net := rfl
@[simp] theorem State.setGran_reqs (k : Nat) (g : GranLine) : (s.setGran k g).reqs = s.reqs := rfl
@[simp] theorem State.setGran_land (k : Nat) (g : GranLine) : (s.setGran k g).land = s.land := rfl
@[simp] theorem State.setGran_hbmStacks (k : Nat) (g : GranLine) : (s.setGran k g).hbmStacks = s.hbmStacks := rfl
@[simp] theorem State.setGran_keels (k : Nat) (g : GranLine) : (s.setGran k g).keels = s.keels := rfl
@[simp] theorem State.setGran_mills (k : Nat) (g : GranLine) : (s.setGran k g).mills = s.mills := rfl
@[simp] theorem State.setGran_stations (k : Nat) (g : GranLine) : (s.setGran k g).stations = s.stations := rfl
@[simp] theorem State.setGran_hands (k : Nat) (g : GranLine) : (s.setGran k g).hands = s.hands := rfl
@[simp] theorem State.setGran_bundles (k : Nat) (g : GranLine) : (s.setGran k g).bundles = s.bundles := rfl
@[simp] theorem State.setGran_quays (k : Nat) (g : GranLine) : (s.setGran k g).quays = s.quays := rfl
@[simp] theorem State.setGran_stints (k : Nat) (g : GranLine) : (s.setGran k g).stints = s.stints := rfl
@[simp] theorem State.setGran_collectors (k : Nat) (g : GranLine) : (s.setGran k g).collectors = s.collectors := rfl
@[simp] theorem State.setGran_links (k : Nat) (g : GranLine) : (s.setGran k g).links = s.links := rfl
@[simp] theorem State.setGran_engines (k : Nat) (g : GranLine) : (s.setGran k g).engines = s.engines := rfl
@[simp] theorem State.setGran_commons (k : Nat) (g : GranLine) : (s.setGran k g).commons = s.commons := rfl
@[simp] theorem State.setGran_ports (k : Nat) (g : GranLine) : (s.setGran k g).ports = s.ports := rfl
@[simp] theorem State.setGran_crier (k : Nat) (g : GranLine) : (s.setGran k g).crier = s.crier := rfl
@[simp] theorem State.setGran_pwr (k : Nat) (g : GranLine) : (s.setGran k g).pwr = s.pwr := rfl
@[simp] theorem State.setGran_fences (k : Nat) (g : GranLine) : (s.setGran k g).fences = s.fences := rfl
@[simp] theorem State.setGran_pmbus (k : Nat) (g : GranLine) : (s.setGran k g).pmbus = s.pmbus := rfl
@[simp] theorem State.setGran_sec (k : Nat) (g : GranLine) : (s.setGran k g).sec = s.sec := rfl

/-! ## updGran -/

@[simp] theorem State.updGran_pending (k : Nat) (f : GranLine → GranLine) : (s.updGran k f).pending = s.pending := rfl
@[simp] theorem State.updGran_seed (k : Nat) (f : GranLine → GranLine) : (s.updGran k f).seed = s.seed := rfl
@[simp] theorem State.updGran_clock (k : Nat) (f : GranLine → GranLine) : (s.updGran k f).clock = s.clock := rfl
@[simp] theorem State.updGran_nextId (k : Nat) (f : GranLine → GranLine) : (s.updGran k f).nextId = s.nextId := rfl
@[simp] theorem State.updGran_nv (k : Nat) (f : GranLine → GranLine) : (s.updGran k f).nv = s.nv := rfl
@[simp] theorem State.updGran_boot (k : Nat) (f : GranLine → GranLine) : (s.updGran k f).boot = s.boot := rfl
@[simp] theorem State.updGran_alm (k : Nat) (f : GranLine → GranLine) : (s.updGran k f).alm = s.alm := rfl
@[simp] theorem State.updGran_img (k : Nat) (f : GranLine → GranLine) : (s.updGran k f).img = s.img := rfl
@[simp] theorem State.updGran_tide (k : Nat) (f : GranLine → GranLine) : (s.updGran k f).tide = s.tide := rfl
@[simp] theorem State.updGran_pols (k : Nat) (f : GranLine → GranLine) : (s.updGran k f).pols = s.pols := rfl
@[simp] theorem State.updGran_mem (k : Nat) (f : GranLine → GranLine) : (s.updGran k f).mem = s.mem := rfl
@[simp] theorem State.updGran_marks (k : Nat) (f : GranLine → GranLine) : (s.updGran k f).marks = s.marks := rfl
@[simp] theorem State.updGran_bins (k : Nat) (f : GranLine → GranLine) : (s.updGran k f).bins = s.bins := rfl
@[simp] theorem State.updGran_shadow (k : Nat) (f : GranLine → GranLine) : (s.updGran k f).shadow = s.shadow := rfl
@[simp] theorem State.updGran_txns (k : Nat) (f : GranLine → GranLine) : (s.updGran k f).txns = s.txns := rfl
@[simp] theorem State.updGran_net (k : Nat) (f : GranLine → GranLine) : (s.updGran k f).net = s.net := rfl
@[simp] theorem State.updGran_reqs (k : Nat) (f : GranLine → GranLine) : (s.updGran k f).reqs = s.reqs := rfl
@[simp] theorem State.updGran_land (k : Nat) (f : GranLine → GranLine) : (s.updGran k f).land = s.land := rfl
@[simp] theorem State.updGran_hbmStacks (k : Nat) (f : GranLine → GranLine) : (s.updGran k f).hbmStacks = s.hbmStacks := rfl
@[simp] theorem State.updGran_keels (k : Nat) (f : GranLine → GranLine) : (s.updGran k f).keels = s.keels := rfl
@[simp] theorem State.updGran_mills (k : Nat) (f : GranLine → GranLine) : (s.updGran k f).mills = s.mills := rfl
@[simp] theorem State.updGran_stations (k : Nat) (f : GranLine → GranLine) : (s.updGran k f).stations = s.stations := rfl
@[simp] theorem State.updGran_hands (k : Nat) (f : GranLine → GranLine) : (s.updGran k f).hands = s.hands := rfl
@[simp] theorem State.updGran_bundles (k : Nat) (f : GranLine → GranLine) : (s.updGran k f).bundles = s.bundles := rfl
@[simp] theorem State.updGran_quays (k : Nat) (f : GranLine → GranLine) : (s.updGran k f).quays = s.quays := rfl
@[simp] theorem State.updGran_stints (k : Nat) (f : GranLine → GranLine) : (s.updGran k f).stints = s.stints := rfl
@[simp] theorem State.updGran_collectors (k : Nat) (f : GranLine → GranLine) : (s.updGran k f).collectors = s.collectors := rfl
@[simp] theorem State.updGran_links (k : Nat) (f : GranLine → GranLine) : (s.updGran k f).links = s.links := rfl
@[simp] theorem State.updGran_engines (k : Nat) (f : GranLine → GranLine) : (s.updGran k f).engines = s.engines := rfl
@[simp] theorem State.updGran_commons (k : Nat) (f : GranLine → GranLine) : (s.updGran k f).commons = s.commons := rfl
@[simp] theorem State.updGran_ports (k : Nat) (f : GranLine → GranLine) : (s.updGran k f).ports = s.ports := rfl
@[simp] theorem State.updGran_crier (k : Nat) (f : GranLine → GranLine) : (s.updGran k f).crier = s.crier := rfl
@[simp] theorem State.updGran_pwr (k : Nat) (f : GranLine → GranLine) : (s.updGran k f).pwr = s.pwr := rfl
@[simp] theorem State.updGran_fences (k : Nat) (f : GranLine → GranLine) : (s.updGran k f).fences = s.fences := rfl
@[simp] theorem State.updGran_pmbus (k : Nat) (f : GranLine → GranLine) : (s.updGran k f).pmbus = s.pmbus := rfl
@[simp] theorem State.updGran_sec (k : Nat) (f : GranLine → GranLine) : (s.updGran k f).sec = s.sec := rfl

/-! ## setShadow -/

@[simp] theorem State.setShadow_pending (k : Nat) (e : Shadow) : (s.setShadow k e).pending = s.pending := rfl
@[simp] theorem State.setShadow_seed (k : Nat) (e : Shadow) : (s.setShadow k e).seed = s.seed := rfl
@[simp] theorem State.setShadow_clock (k : Nat) (e : Shadow) : (s.setShadow k e).clock = s.clock := rfl
@[simp] theorem State.setShadow_nextId (k : Nat) (e : Shadow) : (s.setShadow k e).nextId = s.nextId := rfl
@[simp] theorem State.setShadow_nv (k : Nat) (e : Shadow) : (s.setShadow k e).nv = s.nv := rfl
@[simp] theorem State.setShadow_boot (k : Nat) (e : Shadow) : (s.setShadow k e).boot = s.boot := rfl
@[simp] theorem State.setShadow_alm (k : Nat) (e : Shadow) : (s.setShadow k e).alm = s.alm := rfl
@[simp] theorem State.setShadow_img (k : Nat) (e : Shadow) : (s.setShadow k e).img = s.img := rfl
@[simp] theorem State.setShadow_tide (k : Nat) (e : Shadow) : (s.setShadow k e).tide = s.tide := rfl
@[simp] theorem State.setShadow_pols (k : Nat) (e : Shadow) : (s.setShadow k e).pols = s.pols := rfl
@[simp] theorem State.setShadow_mem (k : Nat) (e : Shadow) : (s.setShadow k e).mem = s.mem := rfl
@[simp] theorem State.setShadow_marks (k : Nat) (e : Shadow) : (s.setShadow k e).marks = s.marks := rfl
@[simp] theorem State.setShadow_gran (k : Nat) (e : Shadow) : (s.setShadow k e).gran = s.gran := rfl
@[simp] theorem State.setShadow_bins (k : Nat) (e : Shadow) : (s.setShadow k e).bins = s.bins := rfl
@[simp] theorem State.setShadow_txns (k : Nat) (e : Shadow) : (s.setShadow k e).txns = s.txns := rfl
@[simp] theorem State.setShadow_net (k : Nat) (e : Shadow) : (s.setShadow k e).net = s.net := rfl
@[simp] theorem State.setShadow_reqs (k : Nat) (e : Shadow) : (s.setShadow k e).reqs = s.reqs := rfl
@[simp] theorem State.setShadow_land (k : Nat) (e : Shadow) : (s.setShadow k e).land = s.land := rfl
@[simp] theorem State.setShadow_hbmStacks (k : Nat) (e : Shadow) : (s.setShadow k e).hbmStacks = s.hbmStacks := rfl
@[simp] theorem State.setShadow_keels (k : Nat) (e : Shadow) : (s.setShadow k e).keels = s.keels := rfl
@[simp] theorem State.setShadow_mills (k : Nat) (e : Shadow) : (s.setShadow k e).mills = s.mills := rfl
@[simp] theorem State.setShadow_stations (k : Nat) (e : Shadow) : (s.setShadow k e).stations = s.stations := rfl
@[simp] theorem State.setShadow_hands (k : Nat) (e : Shadow) : (s.setShadow k e).hands = s.hands := rfl
@[simp] theorem State.setShadow_bundles (k : Nat) (e : Shadow) : (s.setShadow k e).bundles = s.bundles := rfl
@[simp] theorem State.setShadow_quays (k : Nat) (e : Shadow) : (s.setShadow k e).quays = s.quays := rfl
@[simp] theorem State.setShadow_stints (k : Nat) (e : Shadow) : (s.setShadow k e).stints = s.stints := rfl
@[simp] theorem State.setShadow_collectors (k : Nat) (e : Shadow) : (s.setShadow k e).collectors = s.collectors := rfl
@[simp] theorem State.setShadow_links (k : Nat) (e : Shadow) : (s.setShadow k e).links = s.links := rfl
@[simp] theorem State.setShadow_engines (k : Nat) (e : Shadow) : (s.setShadow k e).engines = s.engines := rfl
@[simp] theorem State.setShadow_commons (k : Nat) (e : Shadow) : (s.setShadow k e).commons = s.commons := rfl
@[simp] theorem State.setShadow_ports (k : Nat) (e : Shadow) : (s.setShadow k e).ports = s.ports := rfl
@[simp] theorem State.setShadow_crier (k : Nat) (e : Shadow) : (s.setShadow k e).crier = s.crier := rfl
@[simp] theorem State.setShadow_pwr (k : Nat) (e : Shadow) : (s.setShadow k e).pwr = s.pwr := rfl
@[simp] theorem State.setShadow_fences (k : Nat) (e : Shadow) : (s.setShadow k e).fences = s.fences := rfl
@[simp] theorem State.setShadow_pmbus (k : Nat) (e : Shadow) : (s.setShadow k e).pmbus = s.pmbus := rfl
@[simp] theorem State.setShadow_sec (k : Nat) (e : Shadow) : (s.setShadow k e).sec = s.sec := rfl

/-! ## setTxn -/

@[simp] theorem State.setTxn_pending (l : Nat) (t : HomeTxn) : (s.setTxn l t).pending = s.pending := rfl
@[simp] theorem State.setTxn_seed (l : Nat) (t : HomeTxn) : (s.setTxn l t).seed = s.seed := rfl
@[simp] theorem State.setTxn_clock (l : Nat) (t : HomeTxn) : (s.setTxn l t).clock = s.clock := rfl
@[simp] theorem State.setTxn_nextId (l : Nat) (t : HomeTxn) : (s.setTxn l t).nextId = s.nextId := rfl
@[simp] theorem State.setTxn_nv (l : Nat) (t : HomeTxn) : (s.setTxn l t).nv = s.nv := rfl
@[simp] theorem State.setTxn_boot (l : Nat) (t : HomeTxn) : (s.setTxn l t).boot = s.boot := rfl
@[simp] theorem State.setTxn_alm (l : Nat) (t : HomeTxn) : (s.setTxn l t).alm = s.alm := rfl
@[simp] theorem State.setTxn_img (l : Nat) (t : HomeTxn) : (s.setTxn l t).img = s.img := rfl
@[simp] theorem State.setTxn_tide (l : Nat) (t : HomeTxn) : (s.setTxn l t).tide = s.tide := rfl
@[simp] theorem State.setTxn_pols (l : Nat) (t : HomeTxn) : (s.setTxn l t).pols = s.pols := rfl
@[simp] theorem State.setTxn_mem (l : Nat) (t : HomeTxn) : (s.setTxn l t).mem = s.mem := rfl
@[simp] theorem State.setTxn_marks (l : Nat) (t : HomeTxn) : (s.setTxn l t).marks = s.marks := rfl
@[simp] theorem State.setTxn_gran (l : Nat) (t : HomeTxn) : (s.setTxn l t).gran = s.gran := rfl
@[simp] theorem State.setTxn_bins (l : Nat) (t : HomeTxn) : (s.setTxn l t).bins = s.bins := rfl
@[simp] theorem State.setTxn_shadow (l : Nat) (t : HomeTxn) : (s.setTxn l t).shadow = s.shadow := rfl
@[simp] theorem State.setTxn_net (l : Nat) (t : HomeTxn) : (s.setTxn l t).net = s.net := rfl
@[simp] theorem State.setTxn_reqs (l : Nat) (t : HomeTxn) : (s.setTxn l t).reqs = s.reqs := rfl
@[simp] theorem State.setTxn_land (l : Nat) (t : HomeTxn) : (s.setTxn l t).land = s.land := rfl
@[simp] theorem State.setTxn_hbmStacks (l : Nat) (t : HomeTxn) : (s.setTxn l t).hbmStacks = s.hbmStacks := rfl
@[simp] theorem State.setTxn_keels (l : Nat) (t : HomeTxn) : (s.setTxn l t).keels = s.keels := rfl
@[simp] theorem State.setTxn_mills (l : Nat) (t : HomeTxn) : (s.setTxn l t).mills = s.mills := rfl
@[simp] theorem State.setTxn_stations (l : Nat) (t : HomeTxn) : (s.setTxn l t).stations = s.stations := rfl
@[simp] theorem State.setTxn_hands (l : Nat) (t : HomeTxn) : (s.setTxn l t).hands = s.hands := rfl
@[simp] theorem State.setTxn_bundles (l : Nat) (t : HomeTxn) : (s.setTxn l t).bundles = s.bundles := rfl
@[simp] theorem State.setTxn_quays (l : Nat) (t : HomeTxn) : (s.setTxn l t).quays = s.quays := rfl
@[simp] theorem State.setTxn_stints (l : Nat) (t : HomeTxn) : (s.setTxn l t).stints = s.stints := rfl
@[simp] theorem State.setTxn_collectors (l : Nat) (t : HomeTxn) : (s.setTxn l t).collectors = s.collectors := rfl
@[simp] theorem State.setTxn_links (l : Nat) (t : HomeTxn) : (s.setTxn l t).links = s.links := rfl
@[simp] theorem State.setTxn_engines (l : Nat) (t : HomeTxn) : (s.setTxn l t).engines = s.engines := rfl
@[simp] theorem State.setTxn_commons (l : Nat) (t : HomeTxn) : (s.setTxn l t).commons = s.commons := rfl
@[simp] theorem State.setTxn_ports (l : Nat) (t : HomeTxn) : (s.setTxn l t).ports = s.ports := rfl
@[simp] theorem State.setTxn_crier (l : Nat) (t : HomeTxn) : (s.setTxn l t).crier = s.crier := rfl
@[simp] theorem State.setTxn_pwr (l : Nat) (t : HomeTxn) : (s.setTxn l t).pwr = s.pwr := rfl
@[simp] theorem State.setTxn_fences (l : Nat) (t : HomeTxn) : (s.setTxn l t).fences = s.fences := rfl
@[simp] theorem State.setTxn_pmbus (l : Nat) (t : HomeTxn) : (s.setTxn l t).pmbus = s.pmbus := rfl
@[simp] theorem State.setTxn_sec (l : Nat) (t : HomeTxn) : (s.setTxn l t).sec = s.sec := rfl

/-! ## Elements over the other updates -/

@[simp] theorem State.hand_updPol (p : Nat) (f : Polder → Polder) (j : Nat) : (s.updPol p f).hand j = s.hand j := rfl
@[simp] theorem State.mill_updPol (p : Nat) (f : Polder → Polder) (j : Nat) : (s.updPol p f).mill j = s.mill j := rfl
@[simp] theorem State.keel_updPol (p : Nat) (f : Polder → Polder) (j : Nat) : (s.updPol p f).keel j = s.keel j := rfl
@[simp] theorem State.stack_updPol (p : Nat) (f : Polder → Polder) (j : Nat) : (s.updPol p f).stack j = s.stack j := rfl
@[simp] theorem State.mark_updPol (p : Nat) (f : Polder → Polder) (j : Nat) : (s.updPol p f).mark j = s.mark j := rfl
@[simp] theorem State.link_updPol (p : Nat) (f : Polder → Polder) (j : Nat) : (s.updPol p f).link j = s.link j := rfl
@[simp] theorem State.engine_updPol (p : Nat) (f : Polder → Polder) (j : Nat) : (s.updPol p f).engine j = s.engine j := rfl
@[simp] theorem State.port_updPol (p : Nat) (f : Polder → Polder) (j : Nat) : (s.updPol p f).port j = s.port j := rfl
@[simp] theorem State.bundle_updPol (p : Nat) (f : Polder → Polder) (j : Nat) : (s.updPol p f).bundle j = s.bundle j := rfl
@[simp] theorem State.stint_updPol (p : Nat) (f : Polder → Polder) (j : Nat) : (s.updPol p f).stint j = s.stint j := rfl
@[simp] theorem State.landRegs_updPol (p : Nat) (f : Polder → Polder) (j : Nat) : (s.updPol p f).landRegs j = s.landRegs j := rfl
@[simp] theorem State.load_updPol (p : Nat) (f : Polder → Polder) (j : Nat) : (s.updPol p f).load j = s.load j := rfl
@[simp] theorem State.fence_updPol (p : Nat) (f : Polder → Polder) (j : Nat) : (s.updPol p f).fence j = s.fence j := rfl
@[simp] theorem State.diePower_updPol (p : Nat) (f : Polder → Polder) (j : Nat) : (s.updPol p f).diePower j = s.diePower j := rfl
@[simp] theorem State.heat_updPol (p : Nat) (f : Polder → Polder) (j : Nat) : (s.updPol p f).heat j = s.heat j := rfl
@[simp] theorem State.quay_updPol (p : Nat) (f : Polder → Polder) (j : Nat) : (s.updPol p f).quay j = s.quay j := rfl
@[simp] theorem State.pol_updHand (h : Nat) (f : Hand → Hand) (j : Nat) : (s.updHand h f).pol j = s.pol j := rfl
@[simp] theorem State.mill_updHand (h : Nat) (f : Hand → Hand) (j : Nat) : (s.updHand h f).mill j = s.mill j := rfl
@[simp] theorem State.keel_updHand (h : Nat) (f : Hand → Hand) (j : Nat) : (s.updHand h f).keel j = s.keel j := rfl
@[simp] theorem State.stack_updHand (h : Nat) (f : Hand → Hand) (j : Nat) : (s.updHand h f).stack j = s.stack j := rfl
@[simp] theorem State.mark_updHand (h : Nat) (f : Hand → Hand) (j : Nat) : (s.updHand h f).mark j = s.mark j := rfl
@[simp] theorem State.link_updHand (h : Nat) (f : Hand → Hand) (j : Nat) : (s.updHand h f).link j = s.link j := rfl
@[simp] theorem State.engine_updHand (h : Nat) (f : Hand → Hand) (j : Nat) : (s.updHand h f).engine j = s.engine j := rfl
@[simp] theorem State.port_updHand (h : Nat) (f : Hand → Hand) (j : Nat) : (s.updHand h f).port j = s.port j := rfl
@[simp] theorem State.bundle_updHand (h : Nat) (f : Hand → Hand) (j : Nat) : (s.updHand h f).bundle j = s.bundle j := rfl
@[simp] theorem State.stint_updHand (h : Nat) (f : Hand → Hand) (j : Nat) : (s.updHand h f).stint j = s.stint j := rfl
@[simp] theorem State.landRegs_updHand (h : Nat) (f : Hand → Hand) (j : Nat) : (s.updHand h f).landRegs j = s.landRegs j := rfl
@[simp] theorem State.load_updHand (h : Nat) (f : Hand → Hand) (j : Nat) : (s.updHand h f).load j = s.load j := rfl
@[simp] theorem State.fence_updHand (h : Nat) (f : Hand → Hand) (j : Nat) : (s.updHand h f).fence j = s.fence j := rfl
@[simp] theorem State.diePower_updHand (h : Nat) (f : Hand → Hand) (j : Nat) : (s.updHand h f).diePower j = s.diePower j := rfl
@[simp] theorem State.heat_updHand (h : Nat) (f : Hand → Hand) (j : Nat) : (s.updHand h f).heat j = s.heat j := rfl
@[simp] theorem State.quay_updHand (h : Nat) (f : Hand → Hand) (j : Nat) : (s.updHand h f).quay j = s.quay j := rfl
@[simp] theorem State.pol_updMill (d : Nat) (f : MillSt → MillSt) (j : Nat) : (s.updMill d f).pol j = s.pol j := rfl
@[simp] theorem State.hand_updMill (d : Nat) (f : MillSt → MillSt) (j : Nat) : (s.updMill d f).hand j = s.hand j := rfl
@[simp] theorem State.keel_updMill (d : Nat) (f : MillSt → MillSt) (j : Nat) : (s.updMill d f).keel j = s.keel j := rfl
@[simp] theorem State.stack_updMill (d : Nat) (f : MillSt → MillSt) (j : Nat) : (s.updMill d f).stack j = s.stack j := rfl
@[simp] theorem State.mark_updMill (d : Nat) (f : MillSt → MillSt) (j : Nat) : (s.updMill d f).mark j = s.mark j := rfl
@[simp] theorem State.link_updMill (d : Nat) (f : MillSt → MillSt) (j : Nat) : (s.updMill d f).link j = s.link j := rfl
@[simp] theorem State.engine_updMill (d : Nat) (f : MillSt → MillSt) (j : Nat) : (s.updMill d f).engine j = s.engine j := rfl
@[simp] theorem State.port_updMill (d : Nat) (f : MillSt → MillSt) (j : Nat) : (s.updMill d f).port j = s.port j := rfl
@[simp] theorem State.bundle_updMill (d : Nat) (f : MillSt → MillSt) (j : Nat) : (s.updMill d f).bundle j = s.bundle j := rfl
@[simp] theorem State.stint_updMill (d : Nat) (f : MillSt → MillSt) (j : Nat) : (s.updMill d f).stint j = s.stint j := rfl
@[simp] theorem State.landRegs_updMill (d : Nat) (f : MillSt → MillSt) (j : Nat) : (s.updMill d f).landRegs j = s.landRegs j := rfl
@[simp] theorem State.load_updMill (d : Nat) (f : MillSt → MillSt) (j : Nat) : (s.updMill d f).load j = s.load j := rfl
@[simp] theorem State.fence_updMill (d : Nat) (f : MillSt → MillSt) (j : Nat) : (s.updMill d f).fence j = s.fence j := rfl
@[simp] theorem State.diePower_updMill (d : Nat) (f : MillSt → MillSt) (j : Nat) : (s.updMill d f).diePower j = s.diePower j := rfl
@[simp] theorem State.heat_updMill (d : Nat) (f : MillSt → MillSt) (j : Nat) : (s.updMill d f).heat j = s.heat j := rfl
@[simp] theorem State.quay_updMill (d : Nat) (f : MillSt → MillSt) (j : Nat) : (s.updMill d f).quay j = s.quay j := rfl
@[simp] theorem State.pol_updKeel (k : Nat) (f : KeelSt → KeelSt) (j : Nat) : (s.updKeel k f).pol j = s.pol j := rfl
@[simp] theorem State.hand_updKeel (k : Nat) (f : KeelSt → KeelSt) (j : Nat) : (s.updKeel k f).hand j = s.hand j := rfl
@[simp] theorem State.mill_updKeel (k : Nat) (f : KeelSt → KeelSt) (j : Nat) : (s.updKeel k f).mill j = s.mill j := rfl
@[simp] theorem State.stack_updKeel (k : Nat) (f : KeelSt → KeelSt) (j : Nat) : (s.updKeel k f).stack j = s.stack j := rfl
@[simp] theorem State.mark_updKeel (k : Nat) (f : KeelSt → KeelSt) (j : Nat) : (s.updKeel k f).mark j = s.mark j := rfl
@[simp] theorem State.link_updKeel (k : Nat) (f : KeelSt → KeelSt) (j : Nat) : (s.updKeel k f).link j = s.link j := rfl
@[simp] theorem State.engine_updKeel (k : Nat) (f : KeelSt → KeelSt) (j : Nat) : (s.updKeel k f).engine j = s.engine j := rfl
@[simp] theorem State.port_updKeel (k : Nat) (f : KeelSt → KeelSt) (j : Nat) : (s.updKeel k f).port j = s.port j := rfl
@[simp] theorem State.bundle_updKeel (k : Nat) (f : KeelSt → KeelSt) (j : Nat) : (s.updKeel k f).bundle j = s.bundle j := rfl
@[simp] theorem State.stint_updKeel (k : Nat) (f : KeelSt → KeelSt) (j : Nat) : (s.updKeel k f).stint j = s.stint j := rfl
@[simp] theorem State.landRegs_updKeel (k : Nat) (f : KeelSt → KeelSt) (j : Nat) : (s.updKeel k f).landRegs j = s.landRegs j := rfl
@[simp] theorem State.load_updKeel (k : Nat) (f : KeelSt → KeelSt) (j : Nat) : (s.updKeel k f).load j = s.load j := rfl
@[simp] theorem State.fence_updKeel (k : Nat) (f : KeelSt → KeelSt) (j : Nat) : (s.updKeel k f).fence j = s.fence j := rfl
@[simp] theorem State.diePower_updKeel (k : Nat) (f : KeelSt → KeelSt) (j : Nat) : (s.updKeel k f).diePower j = s.diePower j := rfl
@[simp] theorem State.heat_updKeel (k : Nat) (f : KeelSt → KeelSt) (j : Nat) : (s.updKeel k f).heat j = s.heat j := rfl
@[simp] theorem State.quay_updKeel (k : Nat) (f : KeelSt → KeelSt) (j : Nat) : (s.updKeel k f).quay j = s.quay j := rfl
@[simp] theorem State.pol_updStack (k : Nat) (f : Stack → Stack) (j : Nat) : (s.updStack k f).pol j = s.pol j := rfl
@[simp] theorem State.hand_updStack (k : Nat) (f : Stack → Stack) (j : Nat) : (s.updStack k f).hand j = s.hand j := rfl
@[simp] theorem State.mill_updStack (k : Nat) (f : Stack → Stack) (j : Nat) : (s.updStack k f).mill j = s.mill j := rfl
@[simp] theorem State.keel_updStack (k : Nat) (f : Stack → Stack) (j : Nat) : (s.updStack k f).keel j = s.keel j := rfl
@[simp] theorem State.mark_updStack (k : Nat) (f : Stack → Stack) (j : Nat) : (s.updStack k f).mark j = s.mark j := rfl
@[simp] theorem State.link_updStack (k : Nat) (f : Stack → Stack) (j : Nat) : (s.updStack k f).link j = s.link j := rfl
@[simp] theorem State.engine_updStack (k : Nat) (f : Stack → Stack) (j : Nat) : (s.updStack k f).engine j = s.engine j := rfl
@[simp] theorem State.port_updStack (k : Nat) (f : Stack → Stack) (j : Nat) : (s.updStack k f).port j = s.port j := rfl
@[simp] theorem State.bundle_updStack (k : Nat) (f : Stack → Stack) (j : Nat) : (s.updStack k f).bundle j = s.bundle j := rfl
@[simp] theorem State.stint_updStack (k : Nat) (f : Stack → Stack) (j : Nat) : (s.updStack k f).stint j = s.stint j := rfl
@[simp] theorem State.landRegs_updStack (k : Nat) (f : Stack → Stack) (j : Nat) : (s.updStack k f).landRegs j = s.landRegs j := rfl
@[simp] theorem State.load_updStack (k : Nat) (f : Stack → Stack) (j : Nat) : (s.updStack k f).load j = s.load j := rfl
@[simp] theorem State.fence_updStack (k : Nat) (f : Stack → Stack) (j : Nat) : (s.updStack k f).fence j = s.fence j := rfl
@[simp] theorem State.diePower_updStack (k : Nat) (f : Stack → Stack) (j : Nat) : (s.updStack k f).diePower j = s.diePower j := rfl
@[simp] theorem State.heat_updStack (k : Nat) (f : Stack → Stack) (j : Nat) : (s.updStack k f).heat j = s.heat j := rfl
@[simp] theorem State.quay_updStack (k : Nat) (f : Stack → Stack) (j : Nat) : (s.updStack k f).quay j = s.quay j := rfl
@[simp] theorem State.pol_updMark (l : Nat) (f : Mark → Mark) (j : Nat) : (s.updMark l f).pol j = s.pol j := rfl
@[simp] theorem State.hand_updMark (l : Nat) (f : Mark → Mark) (j : Nat) : (s.updMark l f).hand j = s.hand j := rfl
@[simp] theorem State.mill_updMark (l : Nat) (f : Mark → Mark) (j : Nat) : (s.updMark l f).mill j = s.mill j := rfl
@[simp] theorem State.keel_updMark (l : Nat) (f : Mark → Mark) (j : Nat) : (s.updMark l f).keel j = s.keel j := rfl
@[simp] theorem State.stack_updMark (l : Nat) (f : Mark → Mark) (j : Nat) : (s.updMark l f).stack j = s.stack j := rfl
@[simp] theorem State.link_updMark (l : Nat) (f : Mark → Mark) (j : Nat) : (s.updMark l f).link j = s.link j := rfl
@[simp] theorem State.engine_updMark (l : Nat) (f : Mark → Mark) (j : Nat) : (s.updMark l f).engine j = s.engine j := rfl
@[simp] theorem State.port_updMark (l : Nat) (f : Mark → Mark) (j : Nat) : (s.updMark l f).port j = s.port j := rfl
@[simp] theorem State.bundle_updMark (l : Nat) (f : Mark → Mark) (j : Nat) : (s.updMark l f).bundle j = s.bundle j := rfl
@[simp] theorem State.stint_updMark (l : Nat) (f : Mark → Mark) (j : Nat) : (s.updMark l f).stint j = s.stint j := rfl
@[simp] theorem State.landRegs_updMark (l : Nat) (f : Mark → Mark) (j : Nat) : (s.updMark l f).landRegs j = s.landRegs j := rfl
@[simp] theorem State.load_updMark (l : Nat) (f : Mark → Mark) (j : Nat) : (s.updMark l f).load j = s.load j := rfl
@[simp] theorem State.fence_updMark (l : Nat) (f : Mark → Mark) (j : Nat) : (s.updMark l f).fence j = s.fence j := rfl
@[simp] theorem State.diePower_updMark (l : Nat) (f : Mark → Mark) (j : Nat) : (s.updMark l f).diePower j = s.diePower j := rfl
@[simp] theorem State.heat_updMark (l : Nat) (f : Mark → Mark) (j : Nat) : (s.updMark l f).heat j = s.heat j := rfl
@[simp] theorem State.quay_updMark (l : Nat) (f : Mark → Mark) (j : Nat) : (s.updMark l f).quay j = s.quay j := rfl
@[simp] theorem State.pol_updLink (n : Nat) (f : LinkPort → LinkPort) (j : Nat) : (s.updLink n f).pol j = s.pol j := rfl
@[simp] theorem State.hand_updLink (n : Nat) (f : LinkPort → LinkPort) (j : Nat) : (s.updLink n f).hand j = s.hand j := rfl
@[simp] theorem State.mill_updLink (n : Nat) (f : LinkPort → LinkPort) (j : Nat) : (s.updLink n f).mill j = s.mill j := rfl
@[simp] theorem State.keel_updLink (n : Nat) (f : LinkPort → LinkPort) (j : Nat) : (s.updLink n f).keel j = s.keel j := rfl
@[simp] theorem State.stack_updLink (n : Nat) (f : LinkPort → LinkPort) (j : Nat) : (s.updLink n f).stack j = s.stack j := rfl
@[simp] theorem State.mark_updLink (n : Nat) (f : LinkPort → LinkPort) (j : Nat) : (s.updLink n f).mark j = s.mark j := rfl
@[simp] theorem State.engine_updLink (n : Nat) (f : LinkPort → LinkPort) (j : Nat) : (s.updLink n f).engine j = s.engine j := rfl
@[simp] theorem State.port_updLink (n : Nat) (f : LinkPort → LinkPort) (j : Nat) : (s.updLink n f).port j = s.port j := rfl
@[simp] theorem State.bundle_updLink (n : Nat) (f : LinkPort → LinkPort) (j : Nat) : (s.updLink n f).bundle j = s.bundle j := rfl
@[simp] theorem State.stint_updLink (n : Nat) (f : LinkPort → LinkPort) (j : Nat) : (s.updLink n f).stint j = s.stint j := rfl
@[simp] theorem State.landRegs_updLink (n : Nat) (f : LinkPort → LinkPort) (j : Nat) : (s.updLink n f).landRegs j = s.landRegs j := rfl
@[simp] theorem State.load_updLink (n : Nat) (f : LinkPort → LinkPort) (j : Nat) : (s.updLink n f).load j = s.load j := rfl
@[simp] theorem State.fence_updLink (n : Nat) (f : LinkPort → LinkPort) (j : Nat) : (s.updLink n f).fence j = s.fence j := rfl
@[simp] theorem State.diePower_updLink (n : Nat) (f : LinkPort → LinkPort) (j : Nat) : (s.updLink n f).diePower j = s.diePower j := rfl
@[simp] theorem State.heat_updLink (n : Nat) (f : LinkPort → LinkPort) (j : Nat) : (s.updLink n f).heat j = s.heat j := rfl
@[simp] theorem State.quay_updLink (n : Nat) (f : LinkPort → LinkPort) (j : Nat) : (s.updLink n f).quay j = s.quay j := rfl
@[simp] theorem State.pol_updEngine (m : Nat) (f : OptEngine → OptEngine) (j : Nat) : (s.updEngine m f).pol j = s.pol j := rfl
@[simp] theorem State.hand_updEngine (m : Nat) (f : OptEngine → OptEngine) (j : Nat) : (s.updEngine m f).hand j = s.hand j := rfl
@[simp] theorem State.mill_updEngine (m : Nat) (f : OptEngine → OptEngine) (j : Nat) : (s.updEngine m f).mill j = s.mill j := rfl
@[simp] theorem State.keel_updEngine (m : Nat) (f : OptEngine → OptEngine) (j : Nat) : (s.updEngine m f).keel j = s.keel j := rfl
@[simp] theorem State.stack_updEngine (m : Nat) (f : OptEngine → OptEngine) (j : Nat) : (s.updEngine m f).stack j = s.stack j := rfl
@[simp] theorem State.mark_updEngine (m : Nat) (f : OptEngine → OptEngine) (j : Nat) : (s.updEngine m f).mark j = s.mark j := rfl
@[simp] theorem State.link_updEngine (m : Nat) (f : OptEngine → OptEngine) (j : Nat) : (s.updEngine m f).link j = s.link j := rfl
@[simp] theorem State.port_updEngine (m : Nat) (f : OptEngine → OptEngine) (j : Nat) : (s.updEngine m f).port j = s.port j := rfl
@[simp] theorem State.bundle_updEngine (m : Nat) (f : OptEngine → OptEngine) (j : Nat) : (s.updEngine m f).bundle j = s.bundle j := rfl
@[simp] theorem State.stint_updEngine (m : Nat) (f : OptEngine → OptEngine) (j : Nat) : (s.updEngine m f).stint j = s.stint j := rfl
@[simp] theorem State.landRegs_updEngine (m : Nat) (f : OptEngine → OptEngine) (j : Nat) : (s.updEngine m f).landRegs j = s.landRegs j := rfl
@[simp] theorem State.load_updEngine (m : Nat) (f : OptEngine → OptEngine) (j : Nat) : (s.updEngine m f).load j = s.load j := rfl
@[simp] theorem State.fence_updEngine (m : Nat) (f : OptEngine → OptEngine) (j : Nat) : (s.updEngine m f).fence j = s.fence j := rfl
@[simp] theorem State.diePower_updEngine (m : Nat) (f : OptEngine → OptEngine) (j : Nat) : (s.updEngine m f).diePower j = s.diePower j := rfl
@[simp] theorem State.heat_updEngine (m : Nat) (f : OptEngine → OptEngine) (j : Nat) : (s.updEngine m f).heat j = s.heat j := rfl
@[simp] theorem State.quay_updEngine (m : Nat) (f : OptEngine → OptEngine) (j : Nat) : (s.updEngine m f).quay j = s.quay j := rfl
@[simp] theorem State.pol_updPort (n : Nat) (f : HostPort → HostPort) (j : Nat) : (s.updPort n f).pol j = s.pol j := rfl
@[simp] theorem State.hand_updPort (n : Nat) (f : HostPort → HostPort) (j : Nat) : (s.updPort n f).hand j = s.hand j := rfl
@[simp] theorem State.mill_updPort (n : Nat) (f : HostPort → HostPort) (j : Nat) : (s.updPort n f).mill j = s.mill j := rfl
@[simp] theorem State.keel_updPort (n : Nat) (f : HostPort → HostPort) (j : Nat) : (s.updPort n f).keel j = s.keel j := rfl
@[simp] theorem State.stack_updPort (n : Nat) (f : HostPort → HostPort) (j : Nat) : (s.updPort n f).stack j = s.stack j := rfl
@[simp] theorem State.mark_updPort (n : Nat) (f : HostPort → HostPort) (j : Nat) : (s.updPort n f).mark j = s.mark j := rfl
@[simp] theorem State.link_updPort (n : Nat) (f : HostPort → HostPort) (j : Nat) : (s.updPort n f).link j = s.link j := rfl
@[simp] theorem State.engine_updPort (n : Nat) (f : HostPort → HostPort) (j : Nat) : (s.updPort n f).engine j = s.engine j := rfl
@[simp] theorem State.bundle_updPort (n : Nat) (f : HostPort → HostPort) (j : Nat) : (s.updPort n f).bundle j = s.bundle j := rfl
@[simp] theorem State.stint_updPort (n : Nat) (f : HostPort → HostPort) (j : Nat) : (s.updPort n f).stint j = s.stint j := rfl
@[simp] theorem State.landRegs_updPort (n : Nat) (f : HostPort → HostPort) (j : Nat) : (s.updPort n f).landRegs j = s.landRegs j := rfl
@[simp] theorem State.load_updPort (n : Nat) (f : HostPort → HostPort) (j : Nat) : (s.updPort n f).load j = s.load j := rfl
@[simp] theorem State.fence_updPort (n : Nat) (f : HostPort → HostPort) (j : Nat) : (s.updPort n f).fence j = s.fence j := rfl
@[simp] theorem State.diePower_updPort (n : Nat) (f : HostPort → HostPort) (j : Nat) : (s.updPort n f).diePower j = s.diePower j := rfl
@[simp] theorem State.heat_updPort (n : Nat) (f : HostPort → HostPort) (j : Nat) : (s.updPort n f).heat j = s.heat j := rfl
@[simp] theorem State.quay_updPort (n : Nat) (f : HostPort → HostPort) (j : Nat) : (s.updPort n f).quay j = s.quay j := rfl
@[simp] theorem State.pol_updBundle (b : Nat) (f : BundleSt → BundleSt) (j : Nat) : (s.updBundle b f).pol j = s.pol j := rfl
@[simp] theorem State.hand_updBundle (b : Nat) (f : BundleSt → BundleSt) (j : Nat) : (s.updBundle b f).hand j = s.hand j := rfl
@[simp] theorem State.mill_updBundle (b : Nat) (f : BundleSt → BundleSt) (j : Nat) : (s.updBundle b f).mill j = s.mill j := rfl
@[simp] theorem State.keel_updBundle (b : Nat) (f : BundleSt → BundleSt) (j : Nat) : (s.updBundle b f).keel j = s.keel j := rfl
@[simp] theorem State.stack_updBundle (b : Nat) (f : BundleSt → BundleSt) (j : Nat) : (s.updBundle b f).stack j = s.stack j := rfl
@[simp] theorem State.mark_updBundle (b : Nat) (f : BundleSt → BundleSt) (j : Nat) : (s.updBundle b f).mark j = s.mark j := rfl
@[simp] theorem State.link_updBundle (b : Nat) (f : BundleSt → BundleSt) (j : Nat) : (s.updBundle b f).link j = s.link j := rfl
@[simp] theorem State.engine_updBundle (b : Nat) (f : BundleSt → BundleSt) (j : Nat) : (s.updBundle b f).engine j = s.engine j := rfl
@[simp] theorem State.port_updBundle (b : Nat) (f : BundleSt → BundleSt) (j : Nat) : (s.updBundle b f).port j = s.port j := rfl
@[simp] theorem State.stint_updBundle (b : Nat) (f : BundleSt → BundleSt) (j : Nat) : (s.updBundle b f).stint j = s.stint j := rfl
@[simp] theorem State.landRegs_updBundle (b : Nat) (f : BundleSt → BundleSt) (j : Nat) : (s.updBundle b f).landRegs j = s.landRegs j := rfl
@[simp] theorem State.load_updBundle (b : Nat) (f : BundleSt → BundleSt) (j : Nat) : (s.updBundle b f).load j = s.load j := rfl
@[simp] theorem State.fence_updBundle (b : Nat) (f : BundleSt → BundleSt) (j : Nat) : (s.updBundle b f).fence j = s.fence j := rfl
@[simp] theorem State.diePower_updBundle (b : Nat) (f : BundleSt → BundleSt) (j : Nat) : (s.updBundle b f).diePower j = s.diePower j := rfl
@[simp] theorem State.heat_updBundle (b : Nat) (f : BundleSt → BundleSt) (j : Nat) : (s.updBundle b f).heat j = s.heat j := rfl
@[simp] theorem State.quay_updBundle (b : Nat) (f : BundleSt → BundleSt) (j : Nat) : (s.updBundle b f).quay j = s.quay j := rfl
@[simp] theorem State.pol_updStint (i : Nat) (f : StintSt → StintSt) (j : Nat) : (s.updStint i f).pol j = s.pol j := rfl
@[simp] theorem State.hand_updStint (i : Nat) (f : StintSt → StintSt) (j : Nat) : (s.updStint i f).hand j = s.hand j := rfl
@[simp] theorem State.mill_updStint (i : Nat) (f : StintSt → StintSt) (j : Nat) : (s.updStint i f).mill j = s.mill j := rfl
@[simp] theorem State.keel_updStint (i : Nat) (f : StintSt → StintSt) (j : Nat) : (s.updStint i f).keel j = s.keel j := rfl
@[simp] theorem State.stack_updStint (i : Nat) (f : StintSt → StintSt) (j : Nat) : (s.updStint i f).stack j = s.stack j := rfl
@[simp] theorem State.mark_updStint (i : Nat) (f : StintSt → StintSt) (j : Nat) : (s.updStint i f).mark j = s.mark j := rfl
@[simp] theorem State.link_updStint (i : Nat) (f : StintSt → StintSt) (j : Nat) : (s.updStint i f).link j = s.link j := rfl
@[simp] theorem State.engine_updStint (i : Nat) (f : StintSt → StintSt) (j : Nat) : (s.updStint i f).engine j = s.engine j := rfl
@[simp] theorem State.port_updStint (i : Nat) (f : StintSt → StintSt) (j : Nat) : (s.updStint i f).port j = s.port j := rfl
@[simp] theorem State.bundle_updStint (i : Nat) (f : StintSt → StintSt) (j : Nat) : (s.updStint i f).bundle j = s.bundle j := rfl
@[simp] theorem State.landRegs_updStint (i : Nat) (f : StintSt → StintSt) (j : Nat) : (s.updStint i f).landRegs j = s.landRegs j := rfl
@[simp] theorem State.load_updStint (i : Nat) (f : StintSt → StintSt) (j : Nat) : (s.updStint i f).load j = s.load j := rfl
@[simp] theorem State.fence_updStint (i : Nat) (f : StintSt → StintSt) (j : Nat) : (s.updStint i f).fence j = s.fence j := rfl
@[simp] theorem State.diePower_updStint (i : Nat) (f : StintSt → StintSt) (j : Nat) : (s.updStint i f).diePower j = s.diePower j := rfl
@[simp] theorem State.heat_updStint (i : Nat) (f : StintSt → StintSt) (j : Nat) : (s.updStint i f).heat j = s.heat j := rfl
@[simp] theorem State.quay_updStint (i : Nat) (f : StintSt → StintSt) (j : Nat) : (s.updStint i f).quay j = s.quay j := rfl
@[simp] theorem State.pol_updLandRegs (n : Nat) (f : LandRegs → LandRegs) (j : Nat) : (s.updLandRegs n f).pol j = s.pol j := rfl
@[simp] theorem State.hand_updLandRegs (n : Nat) (f : LandRegs → LandRegs) (j : Nat) : (s.updLandRegs n f).hand j = s.hand j := rfl
@[simp] theorem State.mill_updLandRegs (n : Nat) (f : LandRegs → LandRegs) (j : Nat) : (s.updLandRegs n f).mill j = s.mill j := rfl
@[simp] theorem State.keel_updLandRegs (n : Nat) (f : LandRegs → LandRegs) (j : Nat) : (s.updLandRegs n f).keel j = s.keel j := rfl
@[simp] theorem State.stack_updLandRegs (n : Nat) (f : LandRegs → LandRegs) (j : Nat) : (s.updLandRegs n f).stack j = s.stack j := rfl
@[simp] theorem State.mark_updLandRegs (n : Nat) (f : LandRegs → LandRegs) (j : Nat) : (s.updLandRegs n f).mark j = s.mark j := rfl
@[simp] theorem State.link_updLandRegs (n : Nat) (f : LandRegs → LandRegs) (j : Nat) : (s.updLandRegs n f).link j = s.link j := rfl
@[simp] theorem State.engine_updLandRegs (n : Nat) (f : LandRegs → LandRegs) (j : Nat) : (s.updLandRegs n f).engine j = s.engine j := rfl
@[simp] theorem State.port_updLandRegs (n : Nat) (f : LandRegs → LandRegs) (j : Nat) : (s.updLandRegs n f).port j = s.port j := rfl
@[simp] theorem State.bundle_updLandRegs (n : Nat) (f : LandRegs → LandRegs) (j : Nat) : (s.updLandRegs n f).bundle j = s.bundle j := rfl
@[simp] theorem State.stint_updLandRegs (n : Nat) (f : LandRegs → LandRegs) (j : Nat) : (s.updLandRegs n f).stint j = s.stint j := rfl
@[simp] theorem State.load_updLandRegs (n : Nat) (f : LandRegs → LandRegs) (j : Nat) : (s.updLandRegs n f).load j = s.load j := rfl
@[simp] theorem State.fence_updLandRegs (n : Nat) (f : LandRegs → LandRegs) (j : Nat) : (s.updLandRegs n f).fence j = s.fence j := rfl
@[simp] theorem State.diePower_updLandRegs (n : Nat) (f : LandRegs → LandRegs) (j : Nat) : (s.updLandRegs n f).diePower j = s.diePower j := rfl
@[simp] theorem State.heat_updLandRegs (n : Nat) (f : LandRegs → LandRegs) (j : Nat) : (s.updLandRegs n f).heat j = s.heat j := rfl
@[simp] theorem State.quay_updLandRegs (n : Nat) (f : LandRegs → LandRegs) (j : Nat) : (s.updLandRegs n f).quay j = s.quay j := rfl
@[simp] theorem State.pol_updLoad (n : Nat) (f : LoadCtl → LoadCtl) (j : Nat) : (s.updLoad n f).pol j = s.pol j := rfl
@[simp] theorem State.hand_updLoad (n : Nat) (f : LoadCtl → LoadCtl) (j : Nat) : (s.updLoad n f).hand j = s.hand j := rfl
@[simp] theorem State.mill_updLoad (n : Nat) (f : LoadCtl → LoadCtl) (j : Nat) : (s.updLoad n f).mill j = s.mill j := rfl
@[simp] theorem State.keel_updLoad (n : Nat) (f : LoadCtl → LoadCtl) (j : Nat) : (s.updLoad n f).keel j = s.keel j := rfl
@[simp] theorem State.stack_updLoad (n : Nat) (f : LoadCtl → LoadCtl) (j : Nat) : (s.updLoad n f).stack j = s.stack j := rfl
@[simp] theorem State.mark_updLoad (n : Nat) (f : LoadCtl → LoadCtl) (j : Nat) : (s.updLoad n f).mark j = s.mark j := rfl
@[simp] theorem State.link_updLoad (n : Nat) (f : LoadCtl → LoadCtl) (j : Nat) : (s.updLoad n f).link j = s.link j := rfl
@[simp] theorem State.engine_updLoad (n : Nat) (f : LoadCtl → LoadCtl) (j : Nat) : (s.updLoad n f).engine j = s.engine j := rfl
@[simp] theorem State.port_updLoad (n : Nat) (f : LoadCtl → LoadCtl) (j : Nat) : (s.updLoad n f).port j = s.port j := rfl
@[simp] theorem State.bundle_updLoad (n : Nat) (f : LoadCtl → LoadCtl) (j : Nat) : (s.updLoad n f).bundle j = s.bundle j := rfl
@[simp] theorem State.stint_updLoad (n : Nat) (f : LoadCtl → LoadCtl) (j : Nat) : (s.updLoad n f).stint j = s.stint j := rfl
@[simp] theorem State.landRegs_updLoad (n : Nat) (f : LoadCtl → LoadCtl) (j : Nat) : (s.updLoad n f).landRegs j = s.landRegs j := rfl
@[simp] theorem State.fence_updLoad (n : Nat) (f : LoadCtl → LoadCtl) (j : Nat) : (s.updLoad n f).fence j = s.fence j := rfl
@[simp] theorem State.diePower_updLoad (n : Nat) (f : LoadCtl → LoadCtl) (j : Nat) : (s.updLoad n f).diePower j = s.diePower j := rfl
@[simp] theorem State.heat_updLoad (n : Nat) (f : LoadCtl → LoadCtl) (j : Nat) : (s.updLoad n f).heat j = s.heat j := rfl
@[simp] theorem State.quay_updLoad (n : Nat) (f : LoadCtl → LoadCtl) (j : Nat) : (s.updLoad n f).quay j = s.quay j := rfl
@[simp] theorem State.pol_updFence (i : Nat) (f : FenceSt → FenceSt) (j : Nat) : (s.updFence i f).pol j = s.pol j := rfl
@[simp] theorem State.hand_updFence (i : Nat) (f : FenceSt → FenceSt) (j : Nat) : (s.updFence i f).hand j = s.hand j := rfl
@[simp] theorem State.mill_updFence (i : Nat) (f : FenceSt → FenceSt) (j : Nat) : (s.updFence i f).mill j = s.mill j := rfl
@[simp] theorem State.keel_updFence (i : Nat) (f : FenceSt → FenceSt) (j : Nat) : (s.updFence i f).keel j = s.keel j := rfl
@[simp] theorem State.stack_updFence (i : Nat) (f : FenceSt → FenceSt) (j : Nat) : (s.updFence i f).stack j = s.stack j := rfl
@[simp] theorem State.mark_updFence (i : Nat) (f : FenceSt → FenceSt) (j : Nat) : (s.updFence i f).mark j = s.mark j := rfl
@[simp] theorem State.link_updFence (i : Nat) (f : FenceSt → FenceSt) (j : Nat) : (s.updFence i f).link j = s.link j := rfl
@[simp] theorem State.engine_updFence (i : Nat) (f : FenceSt → FenceSt) (j : Nat) : (s.updFence i f).engine j = s.engine j := rfl
@[simp] theorem State.port_updFence (i : Nat) (f : FenceSt → FenceSt) (j : Nat) : (s.updFence i f).port j = s.port j := rfl
@[simp] theorem State.bundle_updFence (i : Nat) (f : FenceSt → FenceSt) (j : Nat) : (s.updFence i f).bundle j = s.bundle j := rfl
@[simp] theorem State.stint_updFence (i : Nat) (f : FenceSt → FenceSt) (j : Nat) : (s.updFence i f).stint j = s.stint j := rfl
@[simp] theorem State.landRegs_updFence (i : Nat) (f : FenceSt → FenceSt) (j : Nat) : (s.updFence i f).landRegs j = s.landRegs j := rfl
@[simp] theorem State.load_updFence (i : Nat) (f : FenceSt → FenceSt) (j : Nat) : (s.updFence i f).load j = s.load j := rfl
@[simp] theorem State.diePower_updFence (i : Nat) (f : FenceSt → FenceSt) (j : Nat) : (s.updFence i f).diePower j = s.diePower j := rfl
@[simp] theorem State.heat_updFence (i : Nat) (f : FenceSt → FenceSt) (j : Nat) : (s.updFence i f).heat j = s.heat j := rfl
@[simp] theorem State.quay_updFence (i : Nat) (f : FenceSt → FenceSt) (j : Nat) : (s.updFence i f).quay j = s.quay j := rfl
@[simp] theorem State.pol_updDiePower (d : Nat) (f : DiePower → DiePower) (j : Nat) : (s.updDiePower d f).pol j = s.pol j := rfl
@[simp] theorem State.hand_updDiePower (d : Nat) (f : DiePower → DiePower) (j : Nat) : (s.updDiePower d f).hand j = s.hand j := rfl
@[simp] theorem State.mill_updDiePower (d : Nat) (f : DiePower → DiePower) (j : Nat) : (s.updDiePower d f).mill j = s.mill j := rfl
@[simp] theorem State.keel_updDiePower (d : Nat) (f : DiePower → DiePower) (j : Nat) : (s.updDiePower d f).keel j = s.keel j := rfl
@[simp] theorem State.stack_updDiePower (d : Nat) (f : DiePower → DiePower) (j : Nat) : (s.updDiePower d f).stack j = s.stack j := rfl
@[simp] theorem State.mark_updDiePower (d : Nat) (f : DiePower → DiePower) (j : Nat) : (s.updDiePower d f).mark j = s.mark j := rfl
@[simp] theorem State.link_updDiePower (d : Nat) (f : DiePower → DiePower) (j : Nat) : (s.updDiePower d f).link j = s.link j := rfl
@[simp] theorem State.engine_updDiePower (d : Nat) (f : DiePower → DiePower) (j : Nat) : (s.updDiePower d f).engine j = s.engine j := rfl
@[simp] theorem State.port_updDiePower (d : Nat) (f : DiePower → DiePower) (j : Nat) : (s.updDiePower d f).port j = s.port j := rfl
@[simp] theorem State.bundle_updDiePower (d : Nat) (f : DiePower → DiePower) (j : Nat) : (s.updDiePower d f).bundle j = s.bundle j := rfl
@[simp] theorem State.stint_updDiePower (d : Nat) (f : DiePower → DiePower) (j : Nat) : (s.updDiePower d f).stint j = s.stint j := rfl
@[simp] theorem State.landRegs_updDiePower (d : Nat) (f : DiePower → DiePower) (j : Nat) : (s.updDiePower d f).landRegs j = s.landRegs j := rfl
@[simp] theorem State.load_updDiePower (d : Nat) (f : DiePower → DiePower) (j : Nat) : (s.updDiePower d f).load j = s.load j := rfl
@[simp] theorem State.fence_updDiePower (d : Nat) (f : DiePower → DiePower) (j : Nat) : (s.updDiePower d f).fence j = s.fence j := rfl
@[simp] theorem State.quay_updDiePower (d : Nat) (f : DiePower → DiePower) (j : Nat) : (s.updDiePower d f).quay j = s.quay j := rfl
@[simp] theorem State.pol_updHeat (i : Nat) (f : DieHeat → DieHeat) (j : Nat) : (s.updHeat i f).pol j = s.pol j := rfl
@[simp] theorem State.hand_updHeat (i : Nat) (f : DieHeat → DieHeat) (j : Nat) : (s.updHeat i f).hand j = s.hand j := rfl
@[simp] theorem State.mill_updHeat (i : Nat) (f : DieHeat → DieHeat) (j : Nat) : (s.updHeat i f).mill j = s.mill j := rfl
@[simp] theorem State.keel_updHeat (i : Nat) (f : DieHeat → DieHeat) (j : Nat) : (s.updHeat i f).keel j = s.keel j := rfl
@[simp] theorem State.stack_updHeat (i : Nat) (f : DieHeat → DieHeat) (j : Nat) : (s.updHeat i f).stack j = s.stack j := rfl
@[simp] theorem State.mark_updHeat (i : Nat) (f : DieHeat → DieHeat) (j : Nat) : (s.updHeat i f).mark j = s.mark j := rfl
@[simp] theorem State.link_updHeat (i : Nat) (f : DieHeat → DieHeat) (j : Nat) : (s.updHeat i f).link j = s.link j := rfl
@[simp] theorem State.engine_updHeat (i : Nat) (f : DieHeat → DieHeat) (j : Nat) : (s.updHeat i f).engine j = s.engine j := rfl
@[simp] theorem State.port_updHeat (i : Nat) (f : DieHeat → DieHeat) (j : Nat) : (s.updHeat i f).port j = s.port j := rfl
@[simp] theorem State.bundle_updHeat (i : Nat) (f : DieHeat → DieHeat) (j : Nat) : (s.updHeat i f).bundle j = s.bundle j := rfl
@[simp] theorem State.stint_updHeat (i : Nat) (f : DieHeat → DieHeat) (j : Nat) : (s.updHeat i f).stint j = s.stint j := rfl
@[simp] theorem State.landRegs_updHeat (i : Nat) (f : DieHeat → DieHeat) (j : Nat) : (s.updHeat i f).landRegs j = s.landRegs j := rfl
@[simp] theorem State.load_updHeat (i : Nat) (f : DieHeat → DieHeat) (j : Nat) : (s.updHeat i f).load j = s.load j := rfl
@[simp] theorem State.fence_updHeat (i : Nat) (f : DieHeat → DieHeat) (j : Nat) : (s.updHeat i f).fence j = s.fence j := rfl
@[simp] theorem State.quay_updHeat (i : Nat) (f : DieHeat → DieHeat) (j : Nat) : (s.updHeat i f).quay j = s.quay j := rfl
@[simp] theorem State.pol_updQuay (n : Nat) (f : QuaySt → QuaySt) (j : Nat) : (s.updQuay n f).pol j = s.pol j := rfl
@[simp] theorem State.hand_updQuay (n : Nat) (f : QuaySt → QuaySt) (j : Nat) : (s.updQuay n f).hand j = s.hand j := rfl
@[simp] theorem State.mill_updQuay (n : Nat) (f : QuaySt → QuaySt) (j : Nat) : (s.updQuay n f).mill j = s.mill j := rfl
@[simp] theorem State.keel_updQuay (n : Nat) (f : QuaySt → QuaySt) (j : Nat) : (s.updQuay n f).keel j = s.keel j := rfl
@[simp] theorem State.stack_updQuay (n : Nat) (f : QuaySt → QuaySt) (j : Nat) : (s.updQuay n f).stack j = s.stack j := rfl
@[simp] theorem State.mark_updQuay (n : Nat) (f : QuaySt → QuaySt) (j : Nat) : (s.updQuay n f).mark j = s.mark j := rfl
@[simp] theorem State.link_updQuay (n : Nat) (f : QuaySt → QuaySt) (j : Nat) : (s.updQuay n f).link j = s.link j := rfl
@[simp] theorem State.engine_updQuay (n : Nat) (f : QuaySt → QuaySt) (j : Nat) : (s.updQuay n f).engine j = s.engine j := rfl
@[simp] theorem State.port_updQuay (n : Nat) (f : QuaySt → QuaySt) (j : Nat) : (s.updQuay n f).port j = s.port j := rfl
@[simp] theorem State.bundle_updQuay (n : Nat) (f : QuaySt → QuaySt) (j : Nat) : (s.updQuay n f).bundle j = s.bundle j := rfl
@[simp] theorem State.stint_updQuay (n : Nat) (f : QuaySt → QuaySt) (j : Nat) : (s.updQuay n f).stint j = s.stint j := rfl
@[simp] theorem State.landRegs_updQuay (n : Nat) (f : QuaySt → QuaySt) (j : Nat) : (s.updQuay n f).landRegs j = s.landRegs j := rfl
@[simp] theorem State.load_updQuay (n : Nat) (f : QuaySt → QuaySt) (j : Nat) : (s.updQuay n f).load j = s.load j := rfl
@[simp] theorem State.fence_updQuay (n : Nat) (f : QuaySt → QuaySt) (j : Nat) : (s.updQuay n f).fence j = s.fence j := rfl
@[simp] theorem State.diePower_updQuay (n : Nat) (f : QuaySt → QuaySt) (j : Nat) : (s.updQuay n f).diePower j = s.diePower j := rfl
@[simp] theorem State.heat_updQuay (n : Nat) (f : QuaySt → QuaySt) (j : Nat) : (s.updQuay n f).heat j = s.heat j := rfl
@[simp] theorem State.pol_updLand (f : Land → Land) (j : Nat) : (s.updLand f).pol j = s.pol j := rfl
@[simp] theorem State.hand_updLand (f : Land → Land) (j : Nat) : (s.updLand f).hand j = s.hand j := rfl
@[simp] theorem State.mill_updLand (f : Land → Land) (j : Nat) : (s.updLand f).mill j = s.mill j := rfl
@[simp] theorem State.keel_updLand (f : Land → Land) (j : Nat) : (s.updLand f).keel j = s.keel j := rfl
@[simp] theorem State.stack_updLand (f : Land → Land) (j : Nat) : (s.updLand f).stack j = s.stack j := rfl
@[simp] theorem State.mark_updLand (f : Land → Land) (j : Nat) : (s.updLand f).mark j = s.mark j := rfl
@[simp] theorem State.link_updLand (f : Land → Land) (j : Nat) : (s.updLand f).link j = s.link j := rfl
@[simp] theorem State.engine_updLand (f : Land → Land) (j : Nat) : (s.updLand f).engine j = s.engine j := rfl
@[simp] theorem State.port_updLand (f : Land → Land) (j : Nat) : (s.updLand f).port j = s.port j := rfl
@[simp] theorem State.bundle_updLand (f : Land → Land) (j : Nat) : (s.updLand f).bundle j = s.bundle j := rfl
@[simp] theorem State.stint_updLand (f : Land → Land) (j : Nat) : (s.updLand f).stint j = s.stint j := rfl
@[simp] theorem State.load_updLand (f : Land → Land) (j : Nat) : (s.updLand f).load j = s.load j := rfl
@[simp] theorem State.fence_updLand (f : Land → Land) (j : Nat) : (s.updLand f).fence j = s.fence j := rfl
@[simp] theorem State.diePower_updLand (f : Land → Land) (j : Nat) : (s.updLand f).diePower j = s.diePower j := rfl
@[simp] theorem State.heat_updLand (f : Land → Land) (j : Nat) : (s.updLand f).heat j = s.heat j := rfl
@[simp] theorem State.quay_updLand (f : Land → Land) (j : Nat) : (s.updLand f).quay j = s.quay j := rfl
@[simp] theorem State.pol_updBook (p c : Nat) (f : Book → Book) (j : Nat) : (s.updBook p c f).pol j = s.pol j := rfl
@[simp] theorem State.hand_updBook (p c : Nat) (f : Book → Book) (j : Nat) : (s.updBook p c f).hand j = s.hand j := rfl
@[simp] theorem State.mill_updBook (p c : Nat) (f : Book → Book) (j : Nat) : (s.updBook p c f).mill j = s.mill j := rfl
@[simp] theorem State.keel_updBook (p c : Nat) (f : Book → Book) (j : Nat) : (s.updBook p c f).keel j = s.keel j := rfl
@[simp] theorem State.stack_updBook (p c : Nat) (f : Book → Book) (j : Nat) : (s.updBook p c f).stack j = s.stack j := rfl
@[simp] theorem State.mark_updBook (p c : Nat) (f : Book → Book) (j : Nat) : (s.updBook p c f).mark j = s.mark j := rfl
@[simp] theorem State.link_updBook (p c : Nat) (f : Book → Book) (j : Nat) : (s.updBook p c f).link j = s.link j := rfl
@[simp] theorem State.engine_updBook (p c : Nat) (f : Book → Book) (j : Nat) : (s.updBook p c f).engine j = s.engine j := rfl
@[simp] theorem State.port_updBook (p c : Nat) (f : Book → Book) (j : Nat) : (s.updBook p c f).port j = s.port j := rfl
@[simp] theorem State.bundle_updBook (p c : Nat) (f : Book → Book) (j : Nat) : (s.updBook p c f).bundle j = s.bundle j := rfl
@[simp] theorem State.stint_updBook (p c : Nat) (f : Book → Book) (j : Nat) : (s.updBook p c f).stint j = s.stint j := rfl
@[simp] theorem State.landRegs_updBook (p c : Nat) (f : Book → Book) (j : Nat) : (s.updBook p c f).landRegs j = s.landRegs j := rfl
@[simp] theorem State.load_updBook (p c : Nat) (f : Book → Book) (j : Nat) : (s.updBook p c f).load j = s.load j := rfl
@[simp] theorem State.fence_updBook (p c : Nat) (f : Book → Book) (j : Nat) : (s.updBook p c f).fence j = s.fence j := rfl
@[simp] theorem State.diePower_updBook (p c : Nat) (f : Book → Book) (j : Nat) : (s.updBook p c f).diePower j = s.diePower j := rfl
@[simp] theorem State.heat_updBook (p c : Nat) (f : Book → Book) (j : Nat) : (s.updBook p c f).heat j = s.heat j := rfl
@[simp] theorem State.quay_updBook (p c : Nat) (f : Book → Book) (j : Nat) : (s.updBook p c f).quay j = s.quay j := rfl
@[simp] theorem State.pol_updStation (d p : Nat) (f : StationSt → StationSt) (j : Nat) : (s.updStation d p f).pol j = s.pol j := rfl
@[simp] theorem State.hand_updStation (d p : Nat) (f : StationSt → StationSt) (j : Nat) : (s.updStation d p f).hand j = s.hand j := rfl
@[simp] theorem State.mill_updStation (d p : Nat) (f : StationSt → StationSt) (j : Nat) : (s.updStation d p f).mill j = s.mill j := rfl
@[simp] theorem State.keel_updStation (d p : Nat) (f : StationSt → StationSt) (j : Nat) : (s.updStation d p f).keel j = s.keel j := rfl
@[simp] theorem State.stack_updStation (d p : Nat) (f : StationSt → StationSt) (j : Nat) : (s.updStation d p f).stack j = s.stack j := rfl
@[simp] theorem State.mark_updStation (d p : Nat) (f : StationSt → StationSt) (j : Nat) : (s.updStation d p f).mark j = s.mark j := rfl
@[simp] theorem State.link_updStation (d p : Nat) (f : StationSt → StationSt) (j : Nat) : (s.updStation d p f).link j = s.link j := rfl
@[simp] theorem State.engine_updStation (d p : Nat) (f : StationSt → StationSt) (j : Nat) : (s.updStation d p f).engine j = s.engine j := rfl
@[simp] theorem State.port_updStation (d p : Nat) (f : StationSt → StationSt) (j : Nat) : (s.updStation d p f).port j = s.port j := rfl
@[simp] theorem State.bundle_updStation (d p : Nat) (f : StationSt → StationSt) (j : Nat) : (s.updStation d p f).bundle j = s.bundle j := rfl
@[simp] theorem State.stint_updStation (d p : Nat) (f : StationSt → StationSt) (j : Nat) : (s.updStation d p f).stint j = s.stint j := rfl
@[simp] theorem State.landRegs_updStation (d p : Nat) (f : StationSt → StationSt) (j : Nat) : (s.updStation d p f).landRegs j = s.landRegs j := rfl
@[simp] theorem State.load_updStation (d p : Nat) (f : StationSt → StationSt) (j : Nat) : (s.updStation d p f).load j = s.load j := rfl
@[simp] theorem State.fence_updStation (d p : Nat) (f : StationSt → StationSt) (j : Nat) : (s.updStation d p f).fence j = s.fence j := rfl
@[simp] theorem State.diePower_updStation (d p : Nat) (f : StationSt → StationSt) (j : Nat) : (s.updStation d p f).diePower j = s.diePower j := rfl
@[simp] theorem State.heat_updStation (d p : Nat) (f : StationSt → StationSt) (j : Nat) : (s.updStation d p f).heat j = s.heat j := rfl
@[simp] theorem State.quay_updStation (d p : Nat) (f : StationSt → StationSt) (j : Nat) : (s.updStation d p f).quay j = s.quay j := rfl
@[simp] theorem State.pol_raise (c : Code) (src b p : Nat) (d : List Byte) (j : Nat) : (s.raise c src b p d).pol j = s.pol j := rfl
@[simp] theorem State.hand_raise (c : Code) (src b p : Nat) (d : List Byte) (j : Nat) : (s.raise c src b p d).hand j = s.hand j := rfl
@[simp] theorem State.mill_raise (c : Code) (src b p : Nat) (d : List Byte) (j : Nat) : (s.raise c src b p d).mill j = s.mill j := rfl
@[simp] theorem State.keel_raise (c : Code) (src b p : Nat) (d : List Byte) (j : Nat) : (s.raise c src b p d).keel j = s.keel j := rfl
@[simp] theorem State.stack_raise (c : Code) (src b p : Nat) (d : List Byte) (j : Nat) : (s.raise c src b p d).stack j = s.stack j := rfl
@[simp] theorem State.mark_raise (c : Code) (src b p : Nat) (d : List Byte) (j : Nat) : (s.raise c src b p d).mark j = s.mark j := rfl
@[simp] theorem State.link_raise (c : Code) (src b p : Nat) (d : List Byte) (j : Nat) : (s.raise c src b p d).link j = s.link j := rfl
@[simp] theorem State.engine_raise (c : Code) (src b p : Nat) (d : List Byte) (j : Nat) : (s.raise c src b p d).engine j = s.engine j := rfl
@[simp] theorem State.port_raise (c : Code) (src b p : Nat) (d : List Byte) (j : Nat) : (s.raise c src b p d).port j = s.port j := rfl
@[simp] theorem State.bundle_raise (c : Code) (src b p : Nat) (d : List Byte) (j : Nat) : (s.raise c src b p d).bundle j = s.bundle j := rfl
@[simp] theorem State.stint_raise (c : Code) (src b p : Nat) (d : List Byte) (j : Nat) : (s.raise c src b p d).stint j = s.stint j := rfl
@[simp] theorem State.landRegs_raise (c : Code) (src b p : Nat) (d : List Byte) (j : Nat) : (s.raise c src b p d).landRegs j = s.landRegs j := rfl
@[simp] theorem State.load_raise (c : Code) (src b p : Nat) (d : List Byte) (j : Nat) : (s.raise c src b p d).load j = s.load j := rfl
@[simp] theorem State.fence_raise (c : Code) (src b p : Nat) (d : List Byte) (j : Nat) : (s.raise c src b p d).fence j = s.fence j := rfl
@[simp] theorem State.diePower_raise (c : Code) (src b p : Nat) (d : List Byte) (j : Nat) : (s.raise c src b p d).diePower j = s.diePower j := rfl
@[simp] theorem State.heat_raise (c : Code) (src b p : Nat) (d : List Byte) (j : Nat) : (s.raise c src b p d).heat j = s.heat j := rfl
@[simp] theorem State.quay_raise (c : Code) (src b p : Nat) (d : List Byte) (j : Nat) : (s.raise c src b p d).quay j = s.quay j := rfl
@[simp] theorem State.pol_setBin (k : Nat) (b : BinLine) (j : Nat) : (s.setBin k b).pol j = s.pol j := rfl
@[simp] theorem State.hand_setBin (k : Nat) (b : BinLine) (j : Nat) : (s.setBin k b).hand j = s.hand j := rfl
@[simp] theorem State.mill_setBin (k : Nat) (b : BinLine) (j : Nat) : (s.setBin k b).mill j = s.mill j := rfl
@[simp] theorem State.keel_setBin (k : Nat) (b : BinLine) (j : Nat) : (s.setBin k b).keel j = s.keel j := rfl
@[simp] theorem State.stack_setBin (k : Nat) (b : BinLine) (j : Nat) : (s.setBin k b).stack j = s.stack j := rfl
@[simp] theorem State.mark_setBin (k : Nat) (b : BinLine) (j : Nat) : (s.setBin k b).mark j = s.mark j := rfl
@[simp] theorem State.link_setBin (k : Nat) (b : BinLine) (j : Nat) : (s.setBin k b).link j = s.link j := rfl
@[simp] theorem State.engine_setBin (k : Nat) (b : BinLine) (j : Nat) : (s.setBin k b).engine j = s.engine j := rfl
@[simp] theorem State.port_setBin (k : Nat) (b : BinLine) (j : Nat) : (s.setBin k b).port j = s.port j := rfl
@[simp] theorem State.bundle_setBin (k : Nat) (b : BinLine) (j : Nat) : (s.setBin k b).bundle j = s.bundle j := rfl
@[simp] theorem State.stint_setBin (k : Nat) (b : BinLine) (j : Nat) : (s.setBin k b).stint j = s.stint j := rfl
@[simp] theorem State.landRegs_setBin (k : Nat) (b : BinLine) (j : Nat) : (s.setBin k b).landRegs j = s.landRegs j := rfl
@[simp] theorem State.load_setBin (k : Nat) (b : BinLine) (j : Nat) : (s.setBin k b).load j = s.load j := rfl
@[simp] theorem State.fence_setBin (k : Nat) (b : BinLine) (j : Nat) : (s.setBin k b).fence j = s.fence j := rfl
@[simp] theorem State.diePower_setBin (k : Nat) (b : BinLine) (j : Nat) : (s.setBin k b).diePower j = s.diePower j := rfl
@[simp] theorem State.heat_setBin (k : Nat) (b : BinLine) (j : Nat) : (s.setBin k b).heat j = s.heat j := rfl
@[simp] theorem State.quay_setBin (k : Nat) (b : BinLine) (j : Nat) : (s.setBin k b).quay j = s.quay j := rfl
@[simp] theorem State.pol_setGran (k : Nat) (g : GranLine) (j : Nat) : (s.setGran k g).pol j = s.pol j := rfl
@[simp] theorem State.hand_setGran (k : Nat) (g : GranLine) (j : Nat) : (s.setGran k g).hand j = s.hand j := rfl
@[simp] theorem State.mill_setGran (k : Nat) (g : GranLine) (j : Nat) : (s.setGran k g).mill j = s.mill j := rfl
@[simp] theorem State.keel_setGran (k : Nat) (g : GranLine) (j : Nat) : (s.setGran k g).keel j = s.keel j := rfl
@[simp] theorem State.stack_setGran (k : Nat) (g : GranLine) (j : Nat) : (s.setGran k g).stack j = s.stack j := rfl
@[simp] theorem State.mark_setGran (k : Nat) (g : GranLine) (j : Nat) : (s.setGran k g).mark j = s.mark j := rfl
@[simp] theorem State.link_setGran (k : Nat) (g : GranLine) (j : Nat) : (s.setGran k g).link j = s.link j := rfl
@[simp] theorem State.engine_setGran (k : Nat) (g : GranLine) (j : Nat) : (s.setGran k g).engine j = s.engine j := rfl
@[simp] theorem State.port_setGran (k : Nat) (g : GranLine) (j : Nat) : (s.setGran k g).port j = s.port j := rfl
@[simp] theorem State.bundle_setGran (k : Nat) (g : GranLine) (j : Nat) : (s.setGran k g).bundle j = s.bundle j := rfl
@[simp] theorem State.stint_setGran (k : Nat) (g : GranLine) (j : Nat) : (s.setGran k g).stint j = s.stint j := rfl
@[simp] theorem State.landRegs_setGran (k : Nat) (g : GranLine) (j : Nat) : (s.setGran k g).landRegs j = s.landRegs j := rfl
@[simp] theorem State.load_setGran (k : Nat) (g : GranLine) (j : Nat) : (s.setGran k g).load j = s.load j := rfl
@[simp] theorem State.fence_setGran (k : Nat) (g : GranLine) (j : Nat) : (s.setGran k g).fence j = s.fence j := rfl
@[simp] theorem State.diePower_setGran (k : Nat) (g : GranLine) (j : Nat) : (s.setGran k g).diePower j = s.diePower j := rfl
@[simp] theorem State.heat_setGran (k : Nat) (g : GranLine) (j : Nat) : (s.setGran k g).heat j = s.heat j := rfl
@[simp] theorem State.quay_setGran (k : Nat) (g : GranLine) (j : Nat) : (s.setGran k g).quay j = s.quay j := rfl
@[simp] theorem State.pol_updGran (k : Nat) (f : GranLine → GranLine) (j : Nat) : (s.updGran k f).pol j = s.pol j := rfl
@[simp] theorem State.hand_updGran (k : Nat) (f : GranLine → GranLine) (j : Nat) : (s.updGran k f).hand j = s.hand j := rfl
@[simp] theorem State.mill_updGran (k : Nat) (f : GranLine → GranLine) (j : Nat) : (s.updGran k f).mill j = s.mill j := rfl
@[simp] theorem State.keel_updGran (k : Nat) (f : GranLine → GranLine) (j : Nat) : (s.updGran k f).keel j = s.keel j := rfl
@[simp] theorem State.stack_updGran (k : Nat) (f : GranLine → GranLine) (j : Nat) : (s.updGran k f).stack j = s.stack j := rfl
@[simp] theorem State.mark_updGran (k : Nat) (f : GranLine → GranLine) (j : Nat) : (s.updGran k f).mark j = s.mark j := rfl
@[simp] theorem State.link_updGran (k : Nat) (f : GranLine → GranLine) (j : Nat) : (s.updGran k f).link j = s.link j := rfl
@[simp] theorem State.engine_updGran (k : Nat) (f : GranLine → GranLine) (j : Nat) : (s.updGran k f).engine j = s.engine j := rfl
@[simp] theorem State.port_updGran (k : Nat) (f : GranLine → GranLine) (j : Nat) : (s.updGran k f).port j = s.port j := rfl
@[simp] theorem State.bundle_updGran (k : Nat) (f : GranLine → GranLine) (j : Nat) : (s.updGran k f).bundle j = s.bundle j := rfl
@[simp] theorem State.stint_updGran (k : Nat) (f : GranLine → GranLine) (j : Nat) : (s.updGran k f).stint j = s.stint j := rfl
@[simp] theorem State.landRegs_updGran (k : Nat) (f : GranLine → GranLine) (j : Nat) : (s.updGran k f).landRegs j = s.landRegs j := rfl
@[simp] theorem State.load_updGran (k : Nat) (f : GranLine → GranLine) (j : Nat) : (s.updGran k f).load j = s.load j := rfl
@[simp] theorem State.fence_updGran (k : Nat) (f : GranLine → GranLine) (j : Nat) : (s.updGran k f).fence j = s.fence j := rfl
@[simp] theorem State.diePower_updGran (k : Nat) (f : GranLine → GranLine) (j : Nat) : (s.updGran k f).diePower j = s.diePower j := rfl
@[simp] theorem State.heat_updGran (k : Nat) (f : GranLine → GranLine) (j : Nat) : (s.updGran k f).heat j = s.heat j := rfl
@[simp] theorem State.quay_updGran (k : Nat) (f : GranLine → GranLine) (j : Nat) : (s.updGran k f).quay j = s.quay j := rfl
@[simp] theorem State.pol_setShadow (k : Nat) (e : Shadow) (j : Nat) : (s.setShadow k e).pol j = s.pol j := rfl
@[simp] theorem State.hand_setShadow (k : Nat) (e : Shadow) (j : Nat) : (s.setShadow k e).hand j = s.hand j := rfl
@[simp] theorem State.mill_setShadow (k : Nat) (e : Shadow) (j : Nat) : (s.setShadow k e).mill j = s.mill j := rfl
@[simp] theorem State.keel_setShadow (k : Nat) (e : Shadow) (j : Nat) : (s.setShadow k e).keel j = s.keel j := rfl
@[simp] theorem State.stack_setShadow (k : Nat) (e : Shadow) (j : Nat) : (s.setShadow k e).stack j = s.stack j := rfl
@[simp] theorem State.mark_setShadow (k : Nat) (e : Shadow) (j : Nat) : (s.setShadow k e).mark j = s.mark j := rfl
@[simp] theorem State.link_setShadow (k : Nat) (e : Shadow) (j : Nat) : (s.setShadow k e).link j = s.link j := rfl
@[simp] theorem State.engine_setShadow (k : Nat) (e : Shadow) (j : Nat) : (s.setShadow k e).engine j = s.engine j := rfl
@[simp] theorem State.port_setShadow (k : Nat) (e : Shadow) (j : Nat) : (s.setShadow k e).port j = s.port j := rfl
@[simp] theorem State.bundle_setShadow (k : Nat) (e : Shadow) (j : Nat) : (s.setShadow k e).bundle j = s.bundle j := rfl
@[simp] theorem State.stint_setShadow (k : Nat) (e : Shadow) (j : Nat) : (s.setShadow k e).stint j = s.stint j := rfl
@[simp] theorem State.landRegs_setShadow (k : Nat) (e : Shadow) (j : Nat) : (s.setShadow k e).landRegs j = s.landRegs j := rfl
@[simp] theorem State.load_setShadow (k : Nat) (e : Shadow) (j : Nat) : (s.setShadow k e).load j = s.load j := rfl
@[simp] theorem State.fence_setShadow (k : Nat) (e : Shadow) (j : Nat) : (s.setShadow k e).fence j = s.fence j := rfl
@[simp] theorem State.diePower_setShadow (k : Nat) (e : Shadow) (j : Nat) : (s.setShadow k e).diePower j = s.diePower j := rfl
@[simp] theorem State.heat_setShadow (k : Nat) (e : Shadow) (j : Nat) : (s.setShadow k e).heat j = s.heat j := rfl
@[simp] theorem State.quay_setShadow (k : Nat) (e : Shadow) (j : Nat) : (s.setShadow k e).quay j = s.quay j := rfl
@[simp] theorem State.pol_setTxn (l : Nat) (t : HomeTxn) (j : Nat) : (s.setTxn l t).pol j = s.pol j := rfl
@[simp] theorem State.hand_setTxn (l : Nat) (t : HomeTxn) (j : Nat) : (s.setTxn l t).hand j = s.hand j := rfl
@[simp] theorem State.mill_setTxn (l : Nat) (t : HomeTxn) (j : Nat) : (s.setTxn l t).mill j = s.mill j := rfl
@[simp] theorem State.keel_setTxn (l : Nat) (t : HomeTxn) (j : Nat) : (s.setTxn l t).keel j = s.keel j := rfl
@[simp] theorem State.stack_setTxn (l : Nat) (t : HomeTxn) (j : Nat) : (s.setTxn l t).stack j = s.stack j := rfl
@[simp] theorem State.mark_setTxn (l : Nat) (t : HomeTxn) (j : Nat) : (s.setTxn l t).mark j = s.mark j := rfl
@[simp] theorem State.link_setTxn (l : Nat) (t : HomeTxn) (j : Nat) : (s.setTxn l t).link j = s.link j := rfl
@[simp] theorem State.engine_setTxn (l : Nat) (t : HomeTxn) (j : Nat) : (s.setTxn l t).engine j = s.engine j := rfl
@[simp] theorem State.port_setTxn (l : Nat) (t : HomeTxn) (j : Nat) : (s.setTxn l t).port j = s.port j := rfl
@[simp] theorem State.bundle_setTxn (l : Nat) (t : HomeTxn) (j : Nat) : (s.setTxn l t).bundle j = s.bundle j := rfl
@[simp] theorem State.stint_setTxn (l : Nat) (t : HomeTxn) (j : Nat) : (s.setTxn l t).stint j = s.stint j := rfl
@[simp] theorem State.landRegs_setTxn (l : Nat) (t : HomeTxn) (j : Nat) : (s.setTxn l t).landRegs j = s.landRegs j := rfl
@[simp] theorem State.load_setTxn (l : Nat) (t : HomeTxn) (j : Nat) : (s.setTxn l t).load j = s.load j := rfl
@[simp] theorem State.fence_setTxn (l : Nat) (t : HomeTxn) (j : Nat) : (s.setTxn l t).fence j = s.fence j := rfl
@[simp] theorem State.diePower_setTxn (l : Nat) (t : HomeTxn) (j : Nat) : (s.setTxn l t).diePower j = s.diePower j := rfl
@[simp] theorem State.heat_setTxn (l : Nat) (t : HomeTxn) (j : Nat) : (s.setTxn l t).heat j = s.heat j := rfl
@[simp] theorem State.quay_setTxn (l : Nat) (t : HomeTxn) (j : Nat) : (s.setTxn l t).quay j = s.quay j := rfl

end Sys2Proof.Machine
end

