-- ==== Sys2Proof/Laws/Granary.lean ====
section
/-! SUPPORT. What the home's operations on memory do to it: each keeps the canonical form, and those that only read or mark
leave every byte alone. -/

namespace Sys2Proof.Machine

open Sys2Proof

variable (s : State)

/-- A patch of one line, with its mark. -/
def State.patchLine (line : Nat) (bs : Bytes) (f : Mark → Mark) : State :=
  { s with mem := memPatch s.mem (line * 1024) bs }.updMark line f

@[simp] theorem State.patchLine_mem (line : Nat) (bs : Bytes) (f : Mark → Mark) :
    (s.patchLine line bs f).mem = memPatch s.mem (line * 1024) bs := rfl

theorem State.patchLine_memCanonical (line : Nat) (bs : Bytes) (f : Mark → Mark) (h : s.memCanonical) :
    (s.patchLine line bs f).memCanonical := by
  unfold State.memCanonical
  rw [State.patchLine_mem]
  exact Memory.wf_memPatch _ _ _ h

/-- Undoing a run of dead stores leaves memory alone, or puts bytes back in sectors of the line. -/
theorem State.homeUndo_mem (line : Nat) (mask : BitVec 8) :
    (s.homeUndo line mask).mem = s.mem ∨
    ∃ (back : BitVec 8) (f : Nat → Byte), (s.homeUndo line mask).mem = memPatch s.mem (line * 1024) ((maskOffs back).map fun o => (o, f o)) := by
  unfold State.homeUndo
  simp only
  split
  · exact .inl rfl
  · refine .inr ⟨mask &&& (s.mark line).run, fun o => (s.mark line).before.get 0 o, ?_⟩
    split
    · simp only [State.setGran_mem, State.updMark_mem]
    · simp only [State.updMark_mem]

theorem State.homeUndo_memCanonical (line : Nat) (mask : BitVec 8) (h : s.memCanonical) :
    (s.homeUndo line mask).memCanonical := by
  unfold State.memCanonical at *
  rcases s.homeUndo_mem line mask with e | ⟨_, _, e⟩ <;> rw [e]
  · exact h
  · exact Memory.wf_memPatch _ _ _ h

theorem State.homeKeep_memCanonical (line : Nat) (bs : Bytes) (dead : Bool) (h : s.memCanonical) :
    (s.homeKeep line bs dead).memCanonical := by
  unfold State.homeKeep
  split
  · exact h
  · exact s.homeUndo_memCanonical _ _ h

theorem State.granFlush_memCanonical (key : Nat) (h : s.memCanonical) : (s.granFlush key).memCanonical := by
  unfold State.granFlush
  simp only
  split
  · exact h
  · unfold State.memCanonical
    simp only [State.updMark_mem]
    exact Memory.wf_memPatch _ _ _ (s.homeUndo_memCanonical _ _ h)

theorem State.granEvict_memCanonical (key : Nat) (h : s.memCanonical) : (s.granEvict key).memCanonical := by
  unfold State.granEvict
  split
  · exact s.granFlush_memCanonical _ h
  · exact h

theorem State.granAlloc_memCanonical (p line hint : Nat) (h : s.memCanonical) : (s.granAlloc p line hint).memCanonical := by
  unfold State.granAlloc
  dsimp only
  split
  · exact h
  split
  · exact h
  split
  · exact h
  split
  · exact h
  split
  · exact h
  · exact s.granEvict_memCanonical _ h

@[simp] theorem State.granFill_mem (line : Nat) (need : BitVec 8) : (s.granFill line need).mem = s.mem := by
  unfold State.granFill
  split <;> rfl

@[simp] theorem State.countDead_mem (p : Nat) (dead : Bool) : (s.countDead p dead).mem = s.mem := by
  unfold State.countDead
  split <;> rfl

@[simp] theorem State.homeDiscard_mem (line : Nat) (mask : BitVec 8) (granary : Bool) :
    (s.homeDiscard line mask granary).mem = s.mem := by
  unfold State.homeDiscard
  dsimp only
  split
  · split <;> rfl
  · rfl

@[simp] theorem State.homePoisonAll_mem (line : Nat) : (s.homePoisonAll line).mem = s.mem := by
  unfold State.homePoisonAll
  dsimp only
  split <;> rfl

theorem State.homeRead_memCanonical (p line : Nat) (need : BitVec 8) (hint : Nat) (h : s.memCanonical) :
    (s.homeRead p line need hint).2.memCanonical := by
  unfold State.homeRead
  dsimp only
  unfold State.memCanonical
  split
  · exact h
  · rw [State.granFill_mem]; exact s.granAlloc_memCanonical p line hint h

theorem State.homeWrite_memCanonical (p line : Nat) (bs : Bytes) (dead poison : Bool) (hint : Nat) (h : s.memCanonical) :
    (s.homeWrite p line bs dead poison hint).memCanonical := by
  have ha := State.homeKeep_memCanonical _ line bs dead (s.granAlloc_memCanonical p line hint h)
  unfold State.homeWrite
  split
  · exact h
  dsimp only
  split
  · exact State.patchLine_memCanonical _ _ _ _ ha
  · show Memory.wf (State.granFill _ line (touched bs)).mem = true
    rw [State.granFill_mem]; exact ha

theorem State.zero_memCanonical (f : Nat → Bool) (h : s.memCanonical) : (s.zero f).memCanonical :=
  Memory.wf_memClear _ _ h

theorem memByte_patchSectors (line : Nat) (mask : BitVec 8) (f : Nat → Byte) (m : List Host.Cell) (a : Nat) (h : a / 1024 ≠ line) :
    memByte (memPatch m (line * 1024) ((maskOffs mask).map fun o => (o, f o))) a = memByte m a := by
  apply memByte_memPatch_other
  intro e he ha
  obtain ⟨o, ho, rfl⟩ := List.mem_map.1 he
  have : o < 1024 := by
    simp only [maskOffs, List.mem_filter, List.mem_range] at ho
    exact ho.1
  apply h
  subst ha
  show (line * 1024 + o) / 1024 = line
  omega

/-- Bytes of other lines are left alone when a run of dead stores is undone. -/
theorem State.homeUndo_memByte (line : Nat) (mask : BitVec 8) (a : Nat) (h : a / 1024 ≠ line) :
    memByte (s.homeUndo line mask).mem a = memByte s.mem a := by
  rcases s.homeUndo_mem line mask with e | ⟨_, _, e⟩ <;> rw [e]
  exact memByte_patchSectors _ _ _ _ _ h

/-- A byte of another line is left alone when a Granary line goes to HBM. -/
theorem State.granFlush_memByte (key a : Nat) (h : a / 1024 ≠ (s.gran.get {} key).line)
    (h' : a / 1024 ≠ (((s.homeUndo (s.gran.get {} key).line
      ((s.gran.get {} key).dirty &&& (s.gran.get {} key).dead)).gran.get {} key).line)) :
    memByte (s.granFlush key).mem a = memByte s.mem a := by
  unfold State.granFlush
  simp only
  split
  · rfl
  · simp only [State.updMark_mem]
    exact (memByte_patchSectors _ _ _ _ a h').trans (s.homeUndo_memByte _ _ a h)

end Sys2Proof.Machine
end

