-- ==== Sys2Proof/Laws/Hands.lean ====
section
/-! SUPPORT. What the shared forms of a Hand's instructions do: register writes, and the lane operations. -/

namespace Sys2Proof.Machine

open Sys2Proof

/-! ## Registers -/

theorem Hand.rx_wx (c : Hand) (r r' l l' : Nat) (v : Lane) (p : Bool) (h : l < 16) (h' : l' < 16) :
    (c.wx r l v p).rx r' l' = if r' = r ∧ l' = l ∧ r' ≠ 0 then v else c.rx r' l' := by
  unfold Hand.wx Hand.rx
  by_cases hr : r = 0
  · have : ¬(r' = r ∧ l' = l ∧ r' ≠ 0) := fun x => x.2.2 (x.1.trans hr)
    simp only [if_neg this, if_pos hr]
  · by_cases hr' : r' = 0
    · simp [hr']
    · simp only [hr, hr', if_false]
      by_cases hk : r' = r ∧ l' = l
      · obtain ⟨rfl, rfl⟩ := hk
        simp [hr']
      · have : 16 * r' + l' ≠ 16 * r + l := by omega
        rw [SMap.get_set_other _ _ _ _ _ this, if_neg]
        tauto

theorem Hand.px_wx (c : Hand) (r r' l l' : Nat) (v : Lane) (p : Bool) (h : l < 16) (h' : l' < 16) :
    (c.wx r l v p).px r' l' = if r' = r ∧ l' = l ∧ r' ≠ 0 then p else c.px r' l' := by
  unfold Hand.wx Hand.px
  by_cases hr : r = 0
  · have : ¬(r' = r ∧ l' = l ∧ r' ≠ 0) := fun x => x.2.2 (x.1.trans hr)
    simp only [if_neg this, if_pos hr]
  · by_cases hr' : r' = 0
    · simp [hr']
    · simp only [hr, if_false]
      by_cases hk : r' = r ∧ l' = l
      · obtain ⟨rfl, rfl⟩ := hk
        simp [hr']
      · have : 16 * r' + l' ≠ 16 * r + l := by omega
        rw [SMap.get_set_other _ _ _ _ _ this, if_neg]
        tauto

/-- A register write changes nothing but lane registers and their poison. -/
theorem Hand.wx_frame (c : Hand) (r l : Nat) (v : Lane) (p : Bool) :
    c.wx r l v p = { c with x := (c.wx r l v p).x, xp := (c.wx r l v p).xp } := by
  unfold Hand.wx; split <;> rfl

theorem Hand.mem_select (c : Hand) (fsel : Nat) (finv : Bool) (l : Nat) (h : l ∈ c.select fsel finv) : l < 16 := by
  unfold Hand.select bitsOf at h
  simpa using (List.mem_filter.1 h).1

/-! ## Writes of selected lanes -/

/-- Lane writes of a list of lanes, one after the other, from a fixed source. -/
theorem Hand.foldl_wx (ls : List Nat) (hl : ∀ l ∈ ls, l < 16) (xd : Nat) (g : Nat → Lane) (p : Nat → Bool) (c : Hand) :
    let d := ls.foldl (fun c l => c.wx xd l (g l) (p l)) c
    d = { c with x := d.x, xp := d.xp } ∧
    ∀ l, l < 16 → ∀ r,
      (l ∈ ls ∧ r = xd ∧ r ≠ 0 → d.rx r l = g l ∧ d.px r l = p l)
        ∧ (¬(l ∈ ls ∧ r = xd ∧ r ≠ 0) → d.rx r l = c.rx r l ∧ d.px r l = c.px r l) := by
  induction ls generalizing c with
  | nil => simp
  | cons a ls ih =>
    have ha : a < 16 := hl a (by simp)
    obtain ⟨hf, hv⟩ := ih (fun l h => hl l (by simp [h])) (c.wx xd a (g a) (p a))
    simp only [List.foldl_cons]
    refine ⟨?_, fun l hl16 r => ?_⟩
    · rw [hf, Hand.wx_frame c]
    · obtain ⟨hin, hout⟩ := hv l hl16 r
      rw [Hand.rx_wx c xd r a l _ _ ha hl16, Hand.px_wx c xd r a l _ _ ha hl16] at hout
      by_cases hm : l ∈ ls ∧ r = xd ∧ r ≠ 0
      · refine ⟨fun _ => hin hm, fun hn => absurd ⟨by simp [hm.1], hm.2⟩ hn⟩
      · obtain ⟨h1, h2⟩ := hout hm
        rw [h1, h2]
        by_cases he : r = xd ∧ l = a ∧ r ≠ 0
        · obtain ⟨rfl, rfl, h0⟩ := he
          rw [if_pos ⟨rfl, rfl, h0⟩, if_pos ⟨rfl, rfl, h0⟩]
          exact ⟨fun _ => ⟨rfl, rfl⟩, fun hn => absurd ⟨by simp, rfl, h0⟩ hn⟩
        · rw [if_neg he, if_neg he]
          refine ⟨fun hx => ?_, fun _ => ⟨rfl, rfl⟩⟩
          exfalso
          rcases List.mem_cons.1 hx.1 with rfl | h
          · exact he ⟨hx.2.1, rfl, hx.2.2⟩
          · exact hm ⟨h, hx.2⟩

/-- Two changes of a Hand that give the same Hand are one. -/
theorem State.updHand_congr (s : State) (h : Nat) (f g : Hand → Hand) (e : f (s.hand h) = g (s.hand h)) :
    s.updHand h f = s.updHand h g := by
  unfold State.updHand SMap.upd
  unfold State.hand at e
  rw [e]

theorem Hand.ww_frame (c : Hand) (r : Nat) (v : Word) (p : Bool) :
    c.ww r v p = { c with w := (c.ww r v p).w, wp := (c.ww r v p).wp } := by
  unfold Hand.ww; split <;> rfl

theorem Hand.rw_ww (c : Hand) (r r' : Nat) (v : Word) (p : Bool) :
    (c.ww r v p).rw r' = if r' = r ∧ r' ≠ 0 then v else c.rw r' := by
  unfold Hand.ww Hand.rw
  by_cases hr : r = 0
  · have : ¬(r' = r ∧ r' ≠ 0) := fun x => x.2 (x.1.trans hr)
    simp only [if_neg this, if_pos hr]
  · by_cases h0 : r' = 0
    · simp [h0]
    · by_cases hk : r' = r
      · subst hk; simp [hr]
      · simp [hr, h0, hk, SMap.get_set_other]

theorem Hand.pw_ww (c : Hand) (r r' : Nat) (v : Word) (p : Bool) :
    (c.ww r v p).pw r' = if r' = r ∧ r' ≠ 0 then p else c.pw r' := by
  unfold Hand.ww Hand.pw
  by_cases hr : r = 0
  · have : ¬(r' = r ∧ r' ≠ 0) := fun x => x.2 (x.1.trans hr)
    simp only [if_neg this, if_pos hr]
  · by_cases h0 : r' = 0
    · simp [h0]
    · by_cases hk : r' = r
      · subst hk; simp [hr]
      · simp [hr, h0, hk, SMap.get_set_other]

/-- A command that changes one Hand. -/
theorem State.onlyHand_updHand (s : State) (h : Nat) (f : Hand → Hand) : s.onlyHand h (f (s.hand h)) (s.updHand h f) :=
  ⟨rfl, fun j hj => State.hand_updHand_other s h f j hj, State.hand_updHand s h f⟩

theorem State.ready_of (s : State) (h : Nat) (rs : List Nat) (hi : s.issues h = true) (hr : s.freeRegs h rs) :
    s.ready h rs = true := by
  unfold State.ready
  simp only [hi, Bool.true_and, Bool.not_eq_true']
  rw [List.any_eq_false]
  intro r hm
  simp [hr r hm]

/-- A crew register is written and the Hand moves on. -/
theorem State.crewResult_ww (s : State) (h wd : Nat) (v : Word) (bad : Bool) :
    crewResult h wd v bad s (s.updHand h fun c => (c.ww wd v bad).next) := by
  unfold crewResult
  simp only [State.hand_updHand]
  refine ⟨?_, fun r => ?_⟩
  · convert State.onlyHand_updHand s h _ using 1
    show _ = ((s.hand h).ww wd v bad).next
    unfold Hand.next
    rw [Hand.ww_frame]
  · show (r = wd ∧ r ≠ 0 → ((s.hand h).ww wd v bad).rw r = v ∧ ((s.hand h).ww wd v bad).pw r = bad) ∧
      (¬(r = wd ∧ r ≠ 0) → ((s.hand h).ww wd v bad).rw r = (s.hand h).rw r
        ∧ ((s.hand h).ww wd v bad).pw r = (s.hand h).pw r)
    rw [Hand.rw_ww, Hand.pw_ww]
    exact ⟨fun x => by rw [if_pos x, if_pos x]; exact ⟨rfl, rfl⟩, fun x => by rw [if_neg x, if_neg x]; exact ⟨rfl, rfl⟩⟩

/-- The write of the selected lanes, once for every instruction that makes it. -/
theorem State.lanes_wrote (s : State) (h fsel : Nat) (finv : Bool) (xd : Nat) (g : Hand → Nat → Lane × Bool) :
    laneWrote h fsel finv xd (g (s.hand h)) s (s.updHand h fun c => (c.lanes fsel finv xd (g c)).next) := by
  obtain ⟨hf, hv⟩ := Hand.foldl_wx ((s.hand h).select fsel finv) (fun l hl => Hand.mem_select _ _ _ _ hl) xd
    (fun l => (g (s.hand h) l).1) (fun l => (g (s.hand h) l).2 || (s.hand h).pf fsel) (s.hand h)
  unfold laneWrote
  simp only [State.hand_updHand]
  refine ⟨?_, fun l hl r => hv l hl r⟩
  convert State.onlyHand_updHand s h _ using 1
  unfold Hand.lanes Hand.next
  rw [hf]

/-- A lane operation that may issue writes XD of the selected lanes and nothing else. -/
theorem State.laneOp_result (s : State) (h fsel : Nat) (finv : Bool) (xd : Nat) (srcs : List Nat) (f : Hand → Nat → Lane)
    (hi : s.issues h = true) (hr : s.freeRegs h (xd :: srcs)) :
    laneResult h fsel finv xd srcs f s (s.laneOp h fsel finv xd srcs f) := by
  have hrd := State.ready_of s h _ hi hr
  unfold State.laneOp
  simp only [hrd, Bool.not_true, Bool.false_eq_true, if_false]
  exact State.lanes_wrote s h fsel finv xd fun c l => (f c l, srcs.any fun r => c.px r l)

end Sys2Proof.Machine
end

