-- ==== Sys2Proof/Tests/Slice0.lean ====
section
/-! SUPPORT. The model's own tests: what WellFormed refuses, and for each statement, clause by clause, a state and operands
that meet what it assumes, with the value that the manual gives there. -/

set_option Elab.async false

namespace Sys2Proof.Tests

open Sys2Proof Sys2Proof.Machine Sys2Proof.Fpu

/-- The state after a command that answers a next state. -/
def after (c : Instr) (s : State) : State :=
  match exec c s with
  | .next t => t
  | _ => s

/-- A command leaves the state as it is. -/
def stays (c : Instr) (s : State) : Bool :=
  match exec c s with
  | .next t => t = s
  | _ => false

/-- The codes of the events in the module band. -/
def codes (s : State) : List Code := s.crier.band.map Event.code

/-- A module at Stage 3. -/
def up : State := { boot := { powered := true, pwrGood := true, stage0 := true, stage := 3 } }

/-- At Stage 4, with a tide at 40,960, port A's PF reachable, and polder 2 OPEN behind VF 1 of port A. -/
def base : State := { up with
  boot := { up.boot with stage := 4 }
  alm := { now := 40960 }
  tide := { loaded := true, boundary := some 40960, open_ := true }
  ports := [(0, { rate := 5, fns := [(0, { mse := true })] })]
  pols := [(0, { state := 2, port := 0 }), (2, { state := 2, port := 0, vf := 1 })]
  img := some { charter := { pols := [{ port := 0 }, { port := 1 }, { port := 0, vf := 1 }] } } }

/-- A write of all 64 bits by port A's PF. -/
def wr (v : Nat) : RegAcc := { src := .pf 0, value := BitVec.ofNat 64 v }

/-- `base` with a schedule, and manifest 0 of polder 2 running it. -/
def running (c : Schedule) (r : Run) : State := { base with
  img := some { charter := base.charter, schedules := [c] }
  pols := [(0, { state := 2, port := 0 }), (2, { state := 2, port := 0, vf := 1, running := [(0, r)] })] }

/-- The granule at 2 MiB is polder 2's, read and written, at local address 2 MiB, in the caches of die 0. -/
def mapped (s : State) : State :=
  let e : TransEntry := { pol := 2, index := 1, value := BitVec.ofNat 64 (2 ^ 63 + 2 ^ 60 + 2 ^ 59 + 2 * 2 ^ 49 + 2 ^ 9) }
  { s with land := { s.land with entries := [(1, e.value)], caches := [(0, [e]), (64, [e]), (72, [e])] } }

/-! ## The machine -/

theorem wit_StepRunsTheFrontCommand :
    ({ pending := [.powerGoodFall 5] } : State).pending = .powerGoodFall 5 :: [] := by decide +kernel

/-- Log entry 2: a cycle of 4 ns. -/
theorem wit_EmptyQueueIsOneAclkCycle :
    up.pending = [] ∧ up.counts = true ∧ up.alm.slewLeft = 0 ∧ up.alm.rate = 0 ∧ up.tidesRun = false ∧ up.alm.step = none ∧ up.alm.pps = false ∧ (∀ p ∈ List.range 64, (up.pol p).busy = false)
      ∧ State.reset.pending = [] ∧ State.reset.counts = false ∧ State.reset.tidesRun = false := by decide +kernel

theorem wit_EveryStepKeepsMemoryCanonical :
    Memory.wf base.mem = true ∧ (after (.almCtlWrite (wr 3)) base).mem = base.mem := by decide +kernel

theorem wit_EveryStepKeepsPoldersLegal : ∀ p, (State.reset.pol p).gen < 256 ∧ (State.reset.pol p).state ≤ 4 :=
  fun _ => ⟨Nat.zero_lt_succ 255, Nat.zero_le 4⟩

theorem wit_CommandsLeaveTheQueueAlone : stays .stage1 State.reset = true := by decide +kernel

theorem wit_Startup_rise :
    let s : State := { pwr := { volts := 440 } }
    s.boot.pwrGood = false ∧ s.boot.inserted = true ∧ s.boot.powered = false ∧ (after (.powerGoodRise 5 10000000) s).boot.moduleId = 5
      ∧ (after (.powerGoodRise 5 9999999) s).boot.stage0 = false := by decide +kernel

theorem wit_Startup_fall :
    base.boot.pwrGood = true ∧ (after (.powerGoodFall 10000) base).pols = [] ∧ stays (.powerGoodFall 9999) base = true := by decide +kernel

theorem wit_Startup_insertion :
    let s : State := { boot := { inserted := false } }
    s.boot.inserted = false ∧ s.boot.pwrGood = false ∧ (after .moduleInsertion s).boot.inserted = true := by decide +kernel

theorem wit_Startup_stages :
    let s : State := { boot := { stage0 := true, powered := true } }
    let u : State := { s with boot := { s.boot with stage := 1 } }
    s.boot.stage0 = true ∧ s.boot.stage = 0 ∧ s.boot.failed = false
      ∧ u.boot.stage = 1 ∧ u.boot.failed = false ∧ u.boot.wharfFailed = false ∧ u.nv.fusedPcs = [] := by decide +kernel

theorem wit_Startup_keels : ∀ k, k < 4 → (up.keel k).fenced = false := fun _ _ => rfl

theorem wit_Image_go :
    let s : State := { base with boot := { base.boot with stage := 2 } }
    s.srcReaches (.pf 0) = true ∧ s.loadRefusal 0 = none ∧ (after (.consent 0) s).load 0 = { consent := true } := by decide +kernel

/-- R326: memory of zeros is no image: its magic number fails first, with REASON 1. -/
theorem test_image_zeros :
    let s : State := { base with boot := { base.boot with stage := 2 } }
    ((after (.imageLoadGo 0 false) s).load 0).reason = 1 := by decide +kernel

theorem wit_Image_stage3 :
    let s : State := { base with boot := { base.boot with stage := 2, loading := some 0, loadImage := some {} }, mem := [(7, 1)] }
    s.boot.loading = some 0 ∧ s.boot.loadImage = some {} ∧ s.boot.resetAfterLoad = none := by decide +kernel

theorem wit_Image_later :
    up.boot.stage = 3 ∧ (after .stage4 up).boot.stage = 4 ∧ up.boot.stage0 = true
      ∧ (after .wharfFailure up).boot.fail = 6 := by decide +kernel

/-! ## The Almanac and the tides -/

/-- A module whose Almanac follows PTM at port A. -/
def ptm (st w o m : Nat) : State := { up with
  ports := [(0, { rate := 5, ptmEnable := true })]
  alm := { source := 2, state := st, within := w, outside := o, missing := m } }

theorem wit_Discipline_within :
    (ptm 1 2 0 0).counts = true ∧ (ptm 1 2 0 0).ptmOn 0 = true ∧ (after (.referenceUpdate (-40)) (ptm 1 2 0 0)).alm.state = 2
      ∧ (after (.referenceUpdate 41) (ptm 1 2 0 0)).alm.state = 1 ∧ (after (.referenceUpdate 40) (ptm 1 1 0 0)).alm.within = 2 := by
  decide +kernel

theorem wit_Discipline_outside :
    (ptm 2 0 2 0).counts = true ∧ (ptm 2 0 2 0).ptmOn 0 = true ∧ (after (.referenceUpdate 41) (ptm 2 0 2 0)).alm.state = 1
      ∧ (after (.referenceUpdate 41) (ptm 2 0 1 0)).alm.state = 2 := by decide +kernel

theorem wit_Discipline_pps :
    let s : State := { up with alm := { source := 1, state := 2, ppsDelay := 1 } }
    s.counts = true ∧ s.alm.source = 1 ∧ s.alm.state = 2 ∧ stays (.referenceUpdate 1000) s = true := by decide +kernel

theorem wit_Discipline_missing :
    (ptm 2 0 0 2).counts = true ∧ (ptm 2 0 0 2).alm.source ≠ 0 ∧ (after .referenceMissing (ptm 2 0 0 2)).alm.state = 3
      ∧ codes (after .referenceMissing (ptm 2 0 0 2)) = [.almanacHoldover, .almanacHoldover]
      ∧ (after .referenceMissing (ptm 2 0 0 1)).alm.state = 2 := by decide +kernel

theorem wit_AlmRegs_ctl :
    base.almWrites (wr 3) offAlmCtl = true ∧ base.alm.lock = false ∧ (wr 3).value.toNat % 8 < 4
      ∧ (after (.almCtlWrite (wr 3)) base).alm.source = 3 ∧ (after (.almCtlWrite (wr 3)) base).alm.state = 1
      ∧ (wr (2 ^ 63)).bit 63 = true ∧ base.almWrites (wr (2 ^ 63)) offAlmCtl = true
      ∧ (after (.almLock (wr (2 ^ 63))) base).alm.lock = true
      ∧ base.almWrites (wr 9) offAlmStep = true ∧ (after (.almStep (wr 9)) base).alm.step = some 9 := by decide +kernel

theorem wit_AlmRegs_locked :
    let s : State := { base with alm := { lock := true } }
    s.almWrites (wr 3) offAlmCtl = true ∧ s.alm.lock = true ∧ stays (.almCtlWrite (wr 3)) s = true := by decide +kernel

theorem wit_AlmRegs_read :
    let s : State := { base with alm := { now := 2 ^ 32 + 7 } }
    s.srcReaches (.dev 0) = true ∧ s.offLive (.dev 0) offAlmNow = true ∧ s.srcReaches (.pf 0) = true
      ∧ ((after (.almNowRead (.dev 0) 8 0) s).port 0).devReply = some 0x100000007
      ∧ (after (.almNowRead (.pf 0) 4 0) s).alm.nowHi.get 0 0 = 1 := by decide +kernel

theorem wit_Tides_boundary :
    base.tidesRun = true ∧ base.alm.step = none ∧ (after .tideBoundary base).tide.boundary = some 45056 := by decide +kernel

theorem wit_Tides_step :
    let s : State := { up with alm := { now := 4097, step := some (-8192) } }
    s.counts = true ∧ s.tidesRun = false ∧ s.noManifests = true ∧ (after .almStepApply s).alm.now = 0 := by decide +kernel

theorem wit_Tides_stepRefused :
    let s : State := { running { pol := 2 } {} with alm := { now := 40960, step := some 5 } }
    s.counts = true ∧ s.tidesRun = true ∧ s.noManifests = false ∧ (after .almStepApply s).alm.stepRefused = true := by decide +kernel

theorem wit_Tides_pps :
    let s : State := { up with alm := { now := 1000000000 } }
    s.counts = true ∧ (after .ppsOutRise s).alm.pps = true ∧ stays .ppsOutRise { s with alm := { now := 1000000003 } } = true
      ∧ (after .ppsOutRise { s with alm := { now := 999999998 } }).alm.pps = true
      ∧ (after .ppsOutFall { s with clock := 100000, alm := { pps := true } }).alm.pps = false
      ∧ stays .ppsOutFall { s with clock := 99999, alm := { pps := true } } = true := by decide +kernel

theorem wit_Tides_ptm :
    let s : State := { ptm 1 0 0 0 with clock := 1000000 }
    s.boot.stage0 = true ∧ s.ptmOn 0 = true ∧ s.passed (s.port 0).ptmAt 1000000 = true
      ∧ ((after (.ptmRequest 0) s).port 0).ptmAt = 1000000 := by decide +kernel

/-- Polder 2's ring at 4 KiB, its slots all zero: PHASE 0, not yet written in the first lap. Its pickup cycle is 100. -/
def ringed : State := { base with
  img := some { charter := base.charter, schedules := [{ pol := 2 }]
                tide := [{ segment := 0x3C, pol := 2, cls := 2, start := 100, length := 4, period := 12, laneFirst := 0, laneCount := 1
                           owner := 2 }] }
  pols := [(0, { state := 2, port := 0 }), (2, { state := 2, port := 0, vf := 1, ringBase := 4096, enable := true })] }

theorem wit_Manifests_pickup :
    (ringed.pol 2).picks = true ∧ ringed.held srcSeq 2 = false ∧ (ringed.pol 2).pickedTide ≠ some 40960
      ∧ ringed.homeFenced ((4096 + 128) / 1024) = false ∧ ringed.peekPoison (4096 + 128) 128 = false
      ∧ (leAt (ringed.peek (4096 + 128) 128) 0 8).testBit 63 ≠ (ringed.pol 2).ringPhase
      ∧ ((after (.pickup 2) ringed).pol 2).pickedTide = some 40960 := by decide +kernel

/-- The image that `admitting` holds, and a soft manifest of polder 2: DEADLINE all ones. -/
def admitting : State := { running { pol := 2 } {} with pols := [(2, { state := 2, port := 0, vf := 1 })] }
def soft : List Byte :=
  leBytes 8 (2 * 2 ^ 42 + 2 ^ 63 + 5) ++ leBytes 8 0 ++ leBytes 8 (2 ^ 64 - 1) ++ leBytes 8 0 ++ leBytes 8 0xFFFFFFFF ++ List.replicate 88 0

theorem wit_Manifests_handle :
    field (leAt soft 0 8) 42 6 = 2 ∧ (parseManifest soft 0 0 40960).gen = 0
      ∧ (admitting.updPol 2 Polder.consume).slotOk 2 soft = true
      ∧ ((admitting.updPol 2 Polder.consume).updPol 2 fun q => { q with prev := some 0 }).admission 2
          { parseManifest soft 0 0 40960 with prev := none } 40960
        = .admitted { parseManifest soft 0 0 40960 with tb := 40960 } := by decide +kernel

/-- The soft manifest stands in slot 0 with the phase of the first lap. -/
theorem wit_Manifests_taken :
    let s := ringed.poke 2 4224 soft false
    pickupCycle s.table 2 = some 100 ∧ ((after (.pickup 2) s).pol 2).pending.length = 1 ∧ ((after (.pickup 2) s).pol 2).consumer = 1
      ∧ (after (.pickup 2) s).alm.now = 41060 ∧ stays (.pickup 2) { s with alm := { now := 41061 } } = true := by decide +kernel

theorem wit_Manifests_start :
    let s : State := { running { pol := 2 } {} with pols := [(2, { state := 2, port := 0, vf := 1, pending := [{ seq := 3 }] })] }
    (s.pol 2).pending = { seq := 3 } :: [] ∧ s.canStart 2 (40960 + 1024) = true ∧ s.usesFenced 0 = false
      ∧ ((after (.manifestStart 2) s).pol 2).isRunning 3 = true := by decide +kernel

/-- A stream of one tile from a Porter to the Mill, one of one tile to a Porter from Scale, format FP8. -/
def loadOne : StreamDecl := { fmt := 1, src := .porter, dst := .mill, length := 1, runahead := 2 }
def storeOne : StreamDecl := { fmt := 1, src := .scale, dst := .porter, length := 1, runahead := 2, store := true }
def oneTile : Schedule := { pol := 2, streams := [loadOne, storeOne] }

theorem wit_Streams_tile :
    let s := running oneTile { streams := [(0, { next := 1 })] }
    (s.pol 2).isRunning 0 = true ∧ ((s.pol 2).run 0).suspended = false ∧ s.schedule 0 = some oneTile
      ∧ tileDone loadOne (givesStream oneTile 0) (((s.pol 2).run 0).streams.get {} 0) = true
      ∧ (((after (.streamTileComplete 2 0 0 {}) s).pol 2).run 0).streams.get {} 0 = { next := 1, completed := 1, ended := true } := by
  decide +kernel

theorem wit_Streams_complete :
    let s := running { pol := 2 } {}
    (s.pol 2).isRunning 0 = true ∧ ((s.updLag 2 0).retryRecords 2).runDone 2 0 (((s.updLag 2 0).pol 2).run 0) { pol := 2 } = true
      ∧ ((after (.manifestComplete 2 0) s).pol 2).isRunning 0 = false := by decide +kernel

theorem wit_Streams_lag :
    let s := running { pol := 2 } { m := { hard := true, freeboard := 160 }, lag := 121 }
    let u := running { pol := 2 } { m := { hard := true, freeboard := 160 }, lag := 161, lowRaised := true }
    ((s.updLag 2 0).pol 2).run 0 = { m := { hard := true, freeboard := 160 }, lag := 121 }
      ∧ codes (after (.freeboardLow 2 0) s) = [.freeboardLow] ∧ codes (after (.deadlineMiss 2 0) u) = [.deadlineMiss] := by decide +kernel

theorem wit_Ring_base :
    base.ownerWrites 2 (wr 0x3003) (offMringBase 2) = true ∧ (base.pol 2).enable = false
      ∧ ((after (.mringBaseWrite 2 (wr 0x3003)) base).pol 2).ringBase = 0x3000
      ∧ ((after (.mringBaseWrite 2 (wr 0x3003)) base).pol 2).ringSize = 3
      ∧ ringed.ownerWrites 2 (wr 0x3003) (offMringBase 2) = true ∧ stays (.mringBaseWrite 2 (wr 0x3003)) ringed = true := by decide +kernel

theorem wit_Ring_enable :
    let s : State := { base with ports := [(0, { rate := 5, fns := [(0, { mse := true })], confirmed := 0xFFFF })] }
    s.ownerWrites 2 (wr 1) (offMringCtl 2) = true ∧ s.localMem (s.pol 2).ringBase = true ∧ s.mayRun 0 = true
      ∧ ((after (.mringEnable 2 (wr 1)) s).pol 2).enable = true ∧ ringed.ownerWrites 2 (wr 0) (offMringCtl 2) = true
      ∧ ((after (.mringDisable 2 (wr 0)) ringed).pol 2).stopping = true
      ∧ s.ownerWrites 2 (wr 0x21) (offFbCfg 2) = true ∧ ((after (.fbCfgWrite 2 (wr 0x21)) s).pol 2).warn = 2 := by decide +kernel

/-- Manifest 0 of polder 2 with a credit on each stream of `oneTile`. -/
def credited : State := mapped (running oneTile
  { m := { operands := [(0, 0x200000)] }, streams := [(0, { credits := 1 }), (1, { credits := 1, returning := 1 })] })
def credM : Manifest := { operands := [(0, 0x200000)] }

theorem wit_Credits_load :
    credited.streamOf 2 0 0 = some (loadOne, { credits := 1 }, credM) ∧ credited.held (srcPorter 0 0) 2 = false
      ∧ (credited.mill 0).fenced = false ∧ credited.caskRefused loadOne (streamBase loadOne credM) = false := by decide +kernel

/-- All 66 lines of an MX tile, its scale plane among them, translate, read or written. -/
theorem wit_Credits_lines :
    (credited.translateLines (porterRef loadOne 2 0 0) 2 1 0
      ((List.range (tileLines loadOne)).map fun i => tileVa loadOne (streamBase loadOne credM) 0 (1024 * i))).1.length = 66
      ∧ credited.entryAllows (credited.landEntry 1) 2 0 (0x200000 + 65 * 1024) = true
      ∧ credited.entryAllows (credited.landEntry 1) 2 1 (0x200000 + 65 * 1024) = true
      ∧ (credited.region (0x200000 + 65 * 1024)).isMem = true ∧ eCoding (credited.landEntry 1) ≠ 1 := by decide +kernel

theorem wit_Credits_staged :
    let s := running oneTile { streams := [(0, { next := 1, tiles := [(0, { bytes := [(0, 5)] })] })] }
    (s.streamOf 2 0 0).isSome = true
      ∧ (((((after (.porterTileStaged 2 0 0) s).pol 2).run 0).streams.get {} 0).tiles.get {} 0).staged = true := by decide +kernel

theorem wit_Credits_store :
    credited.streamOf 2 0 1 = some (storeOne, { credits := 1, returning := 1 }, credM) ∧ footprint 1 = 67584
      ∧ ((((after (.creditReturn 2 0 1) credited).pol 2).run 0).streams.get {} 1).credits = 2 := by decide +kernel

/-- An empty step over a whole second raises the pin, and one past 100 us drops it. -/
theorem test_pps_follows_time :
    ({ up with clock := 8, alm := { now := 999999997 } } : State).idle.alm.pps = true
      ∧ ({ up with clock := 100000, alm := { pps := true } } : State).idle.alm.pps = false := by decide +kernel

/-- The last boundary of the 64-bit count is 0, and a LOCKED follower that is 3 hops away acquires again. -/
theorem test_almanac_wraps :
    (after .tideBoundary { base with alm := { now := 2 ^ 64 - 4096 }, tide := { loaded := true, boundary := some (2 ^ 64 - 4096) } }).alm.now = 0
      ∧ (({ state := 2, hops := 1 } : Almanac).takeHops 2).state = 1 ∧ (({ state := 2 } : Almanac).takeHops 15).hops = 15 := by
  decide +kernel

/-! ## Ill-formed terms, one for each check, and a well-formed one beside them -/

def badAcc : RegAcc := { wr 0 with size := 4, half := 2 }

theorem test_wf_accesses :
    accWf (wr 0) = true ∧ accWf { wr 0 with size := 4, half := 1 } = true ∧ accWf badAcc = false
      ∧ accWf { wr 0 with half := 1 } = false ∧ accWf { wr 0 with size := 2 } = false := by decide

theorem test_wf_registers :
    [Instr.almCtlWrite badAcc, .almLock badAcc, .almStep badAcc, .almNowRead (.pf 0) 8 1, .mringBaseWrite 2 badAcc,
      .mringEnable 2 badAcc, .mringDisable 2 badAcc, .fbCfgWrite 2 badAcc, .rcFieldRead (.pf 0) (2 ^ 26) 8,
      .rcFieldRead (.pf 0) 0 2, .registerWrite (.pf 0) (2 ^ 26) 8 0, .registerWrite (.pf 0) 0 1 0, .landEdit badAcc,
      .landResume badAcc, .landAbort badAcc, .landHwinLock badAcc, .polOpen 2 badAcc, .polClose 2 badAcc, .polBump 2 badAcc,
      .polFreeze 2 badAcc, .polThaw 2 badAcc, .polSave 2 badAcc, .polRestore 2 badAcc, .polCmdRefused 2 badAcc,
      .oeShutdown 0 badAcc, .oeShutdownClear 0 badAcc, .retrain 0 badAcc, .zlPortOff 0 badAcc, .zlPortOn 0 badAcc,
      .zlPortLock 0 badAcc, .zlCommonsLock badAcc, .daybookEnable 2 0 badAcc, .daybookDisable 2 0 badAcc,
      .daybookConsWrite 2 0 badAcc, .millReset 0 badAcc true [], .capLimitWrite badAcc,
      .pwrCapLock badAcc].all (fun c => !c.wf) = true := by decide

theorem test_wf_ranges :
    [Instr.kernelStart 2 0 256, .kernelEnd 2 0 256, .barrierRelease 2 0 256 0, .bundleReplay 2088 2 true .other,
      .binRead 0 2 (2 ^ 38) 1 0, .binRead 0 2 0 1 4, .hbmRead 0 (2 ^ 38), .hbmWrite 0 (2 ^ 38), .stackTempRead 0 256,
      .holdExpiry 0 (2 ^ 38) 2, .msixUnmask 0 1 4, .msixEntryWrite 0 1 0x8000 8 0, .msixEntryWrite 0 1 0 2 0,
      .bundleDead 2088, .memoryUe 4 0 0 1, .memoryUe 0 0 (2 ^ 38) 1, .powerSample 0 0 [0], .dieTempRead 0 256,
      .oeTempRead 0 256, .pcieLinkUp 0 0 16 true, .pcieLinkUp 0 7 16 true,
      .flitReceive 0 [] 0 false].all (fun c => !c.wf) = true := by decide

/-- The fields of a coherence message, each out of its range. -/
theorem test_wf_messages :
    let m : CohMsg := { type := .gets, src := 0, dst := 8, line := 0 }
    cohWf m = true ∧ [{ m with src := 12 }, { m with dst := 12 }, { m with req := 12 }, { m with pol := 64 },
      { m with st := 8 }, { m with way := 16 }, { m with set := 2 ^ 13 }, { m with tag := 2 ^ 18 }, { m with line := 2 ^ 38 },
      { m with data := [(1024, 0)] }].all (fun m => !cohWf m) = true := by decide

theorem test_wf_message_commands :
    let m : CohMsg := { type := .gets, src := 12, dst := 8, line := 0 }
    [Instr.gets m, .getm m, .rdsec m, .pute m, .putm m, .puto m, .done m, .invAck m, .fwdAck m, .wbCross m, .recallAck m,
      .fwdGets m, .fwdGetm m, .inv m, .recall m, .grant m, .dataH m, .dataF m, .putAck m,
      .nackRd m].all (fun c => !c.wf) = true := by decide

/-- The fields of a transaction, each out of its range. -/
theorem test_wf_transactions :
    let t : Txn := { op := 1 }
    txnWf t = true ∧ [{ t with op := 0 }, { t with op := 5 }, { t with chunks := 33 }, { t with srcPol := 64 },
      { t with dstPol := 64 }, { t with tally := 4096 }, { t with data := List.replicate 1056 0 },
      { t with data := [0] }].all (fun t => !txnWf t) = true
      ∧ [Instr.zlWrite 0 { op := 0 }, .zlRead 0 { op := 0 }, .readData 0 { op := 0 }, .zlBarrier 0 { op := 0 }].all
        (fun c => !c.wf) = true := by decide +kernel

/-- A matrix without its elements, a format that does not exist, operands that differ in K, an output that no GEMM has, records of
the wrong length, and a block cut short. -/
theorem test_wf_operations :
    let x : Matrix := { fmt := 7, rows := 1, cols := 1, elems := [0] }
    let g : Gemm := { pol := 2, a := x, b := x }
    let bad : Matrix := { x with elems := [] }
    let v : VerifyOp := { pol := 2, dies := 1, tiles := 1, record := List.replicate 64 0, hidden := x, head := x, result := 0 }
    let a : Attention := { pol := 2, heads := [], record := List.replicate 32 0, scale := 0, tiles := 1 }
    let r : Sieve8 := { pol := 2, record := List.replicate 32 0, hop := 0, tile := 0, g := [] }
    matrixWf x = true ∧ gemmWf g = true ∧ verifyWf v = true ∧ attentionWf a = true ∧ sieve8Wf r = true
      ∧ [bad, { x with fmt := 0 }, { x with fmt := 10 }].all (fun x => !matrixWf x) = true
      ∧ [{ g with pol := 64 }, { g with a := bad }, { g with b := bad }, { g with out := 5 },
        { g with b := { x with rows := 2, elems := [0, 0] } }].all (fun g => !gemmWf g) = true
      ∧ [{ v with pol := 64 }, { v with record := [] }, { v with hidden := bad }, { v with head := bad }].all
        (fun v => !verifyWf v) = true
      ∧ [{ a with pol := 64 }, { a with record := [] }, { a with heads := [{ q := bad, k := x, v := x }] }].all
        (fun a => !attentionWf a) = true
      ∧ [{ r with pol := 64 }, { r with record := [] }, { r with g := [0] }].all (fun r => !sieve8Wf r) = true
      ∧ [Instr.gemmOutputStationary 0 0 { g with out := 5 }, .gemmWeightStationary 0 0 { g with out := 5 },
        .batchedGemv 0 0 { g with out := 5 }, .fusedAttentionPass 0 { a with pol := 64 }, .verifyGreedy 0 { v with pol := 64 },
        .verifySample 0 { v with pol := 64 }, .sieve8Encode 0 { r with pol := 64 }].all (fun c => !c.wf) = true := by decide +kernel

/-- A minor operation of seven bits. -/
theorem test_wf_instructions :
    [Instr.iop 0 { minor := 64 }, .iopi 0 { minor := 64 }, .icmp 0 { minor := 64 }, .fop 0 { minor := 64 },
      .fcmp 0 { minor := 64 }, .fspec 0 { minor := 64 }, .cvt 0 { minor := 64 }, .sel 0 { minor := 64 },
      .xlane 0 { minor := 64 }, .xu 0 { minor := 64 }, .uop 0 { minor := 64 }, .bra 0 { minor := 64 }, .divIf 0 { minor := 64 },
      .divElse 0 { minor := 64 }, .divEndif 0 { minor := 64 }, .divLoop 0 { minor := 64 }, .divBreak 0 { minor := 64 },
      .divEndloop 0 { minor := 64 }, .ld 0 { minor := 64 }, .lds 0 { minor := 64 }, .st 0 { minor := 64 },
      .stDead 0 { minor := 64 }, .ldl 0 { minor := 64 }, .stl 0 { minor := 64 }, .atom 0 { minor := 64 },
      .atoml 0 { minor := 64 }].all (fun c => !c.wf) = true ∧ (Instr.iop 0 { minor := 63 }).wf = true := by decide

/-! ## The Hands -/

/-- Kernel 7 on Hand 0 of die 0, two tasks. -/
def kern : KernelDecl := { kernel := 7, dies := 1, tasks := 2 }

/-- Hand 0 of die 0 runs task 0 of kernel 7 in manifest 0 of polder 2, all lanes active. -/
def crew (f : Hand → Hand) : State := { mapped (running { pol := 2, kernels := [kern] } { kernels := [(0, { started := true })] }) with
  hands := [(0, f { busy := true, running := true, pol := 2, kernel := 7, active := 0xFFFF, task := 1 })] }

/-- Lane 0 of x1 holds a, lane 0 of x2 b; w1 and w2 hold c and d. -/
def regs (a b : Nat) (c d : Nat) (h : Hand) : Hand := { h with
  x := [(16, BitVec.ofNat 32 a), (32, BitVec.ofNat 32 b)], w := [(1, BitVec.ofNat 64 c), (2, BitVec.ofNat 64 d)] }

def x3 (t : State) : Lane := (t.hand 0).rx 3 0
def w3 (t : State) : Word := (t.hand 0).rw 3
def op (n : Nat) : FmtL := { minor := n, xd := 3, xa := 1, xb := 2, xc := 4 }

theorem wit_freeRegs : (∀ rs, (crew id).freeRegs 0 rs) ∧ (crew id).issues 0 = true := ⟨fun _ _ _ => rfl, by decide +kernel⟩

/-- R126: the signed high product of -1 and -1 is 0; an unsigned minimum takes 1; a shift takes its amount modulo 32. -/
theorem wit_LaneOperations_integer :
    x3 (after (.iop 0 (op 13)) (crew (regs 0xFFFFFFFF 0xFFFFFFFF 0 0))) = 0
      ∧ x3 (after (.iop 0 (op 10)) (crew (regs 0xFFFFFFFF 1 0 0))) = 1
      ∧ x3 (after (.iopi 0 { minor := 5, xd := 3, xa := 1, imm := 33 }) (crew (regs 5 0 0 0))) = 10
      ∧ x3 (after (.iop 0 { op 0 with finv := true }) (crew (regs 5 6 0 0))) = 0 := by decide +kernel

/-- 1.5 + 2.25 is 3.75; RECIP of 2 is 0.5; 3.75 rounds to 4 as an integer. -/
theorem wit_LaneOperations_float :
    x3 (after (.fop 0 (op 0)) (crew (regs 0x3FC00000 0x40100000 0 0))) = 0x40700000
      ∧ (crew (regs 0x40700000 0 0 0)).issues 0 = true ∧ (after (.fspec 0 (op 0)) (crew (regs 0x40000000 0 0 0))).mem = []
      ∧ (((after (.cvt 0 (op 0)) (crew (regs 0x40700000 0 0 0))).hand 0).pc = 1) := by decide +kernel

theorem wit_Compares :
    ((after (.icmp 0 { op 2 with xd := 3 }) (crew (regs 0xFFFFFFFF 1 0 0))).hand 0).rf 3 = 0x0001
      ∧ ((after (.fcmp 0 { op 0 with xd := 3 }) (crew (regs 0x80000000 0 0 0))).hand 0).rf 3 = 0xFFFF := by decide +kernel

theorem wit_VotesAndLanes :
    x3 (after (.sel 0 { op 0 with xc := 1 }) (crew (regs 5 6 0 0))) = 6
      ∧ (((after (.xlane 0 (op 0)) (crew (regs 5 6 0 0))).hand 0).pc = 1)
      ∧ x3 (after (.xu 0 (op 3)) (crew (regs 0 0 0x700000005 0))) = 7 ∧ x3 (after (.xu 0 (op 2)) (crew (regs 0 0 0x700000005 0))) = 5
      ∧ w3 (after (.xu 0 (op 0)) (crew (regs 5 0 0 0))) = 5 ∧ ((crew id).hand 0).select 0 false = 0 :: (List.range 15).map (· + 1) := by
  decide +kernel

theorem wit_CrewInteger :
    w3 (after (.uop 0 { minor := 0, wd := 3, wa := 1, wb := 2 }) (crew (regs 0 0 (2 ^ 64 - 1) 2))) = 1
      ∧ ((crew (regs 0 0 1 63)).hand 0).rw 2 = 63 ∧ ((crew (regs 0 0 1 64)).hand 0).rw 2 = 64
      ∧ ((after (.uop 0 { minor := 5, wd := 3, wa := 1, wb := 2 }) (crew (regs 0 0 1 64)))).seed = 1 := by decide +kernel

theorem wit_Branch :
    ((after (.bra 0 { minor := 0, t2 := 0xFFFFF }) (crew fun h => { h with pc := 5 })).hand 0).pc = 4
      ∧ ((after (.bra 0 { minor := 1, wa := 1, t2 := 3 }) (crew (regs 0 0 0 0))).hand 0).pc = 3
      ∧ ((after (.bra 0 { minor := 2, wa := 1, t2 := 3 }) (crew (regs 0 0 0 0))).hand 0).pc = 1
      ∧ codes (after (.bra 0 { minor := 1, wa := 1, t2 := 3 }) (crew fun h => { h with wp := [(1, true)] })) = [.poisonConsumed] := by
  decide +kernel

/-- A crew whose flag 1 names lanes 0 to 7, with a stack. -/
def split (st : List MaskEntry) (h : Hand) : Hand := { h with f := [(1, 0x00FF)], stack := st }
def anIf : MaskEntry := { kind := .ifK, saved := 0xFFFF, pend := 0xFF00, t1 := 3, t2 := 9 }
def aLoop : MaskEntry := { kind := .loopK, saved := 0xFFFF, t1 := 1, t2 := 9 }

theorem wit_Divergence :
    ((after (.divIf 0 { ft := 1, t1 := 3, t2 := 9 }) (crew (split []))).hand 0).active = 0x00FF
      ∧ ((after (.divIf 0 { ft := 1, t1 := 3, t2 := 9 }) (crew (split []))).hand 0).stack = [anIf]
      ∧ ((after (.divElse 0 {}) (crew (split [anIf]))).hand 0).active = 0xFF00
      ∧ ((after (.divEndif 0 {}) (crew (split [anIf]))).hand 0).stack = []
      ∧ ((after (.divLoop 0 { t2 := 9 }) (crew (split []))).hand 0).stack = [aLoop]
      ∧ ((after (.divBreak 0 { ft := 1 }) (crew (split [aLoop]))).hand 0).active = 0xFF00
      ∧ ((after (.divEndloop 0 {}) (crew (split [aLoop]))).hand 0).pc = 1
      ∧ codes (after (.divIf 0 { ft := 1 }) (crew (split (List.replicate 32 anIf)))) = [.maskOverflow]
      ∧ codes (after (.divElse 0 {}) (crew (split []))) = [.illegalInstruction] := by decide +kernel

theorem wit_System :
    ((after (.nop 0 {}) (crew id)).hand 0).pc = 1 ∧ w3 (after (.rdalm 0 { wa := 3 }) (crew id)) = 40960
      ∧ (crew id).kernelDecl 2 0 7 = some (0, kern) ∧ w3 (after (.rdcyc 0 { wa := 3 }) { crew id with clock := 5 }) = 5
      ∧ ((after (.sysEnd 0 {}) (crew id)).hand 0).ended = 1
      ∧ codes (after (.sysTrap 0 {}) (crew id)) = [.handTrap] := by decide +kernel

/-- Lanes 0 to 7 exit inside a loop: the other lanes go on after it. -/
theorem wit_System_exit :
    let s := crew fun h => { split [aLoop] h with active := 0x00FF }
    aLoop.saved &&& ~~~((s.hand 0).active) &&& ~~~((s.hand 0).exited ||| (s.hand 0).active) ≠ 0
      ∧ ((after (.sysExit 0 {}) s).hand 0).active = 0xFF00 ∧ ((after (.sysExit 0 {}) s).hand 0).pc = 10 := by decide +kernel

theorem wit_Hmma_partial :
    mfmtOf 0 ≠ none ∧ codes (after (.hmma 0 { xd := 16, xa := 0, xb := 8, mfmt := 0 }) (crew fun h => { h with active := 0x7FFF }))
        = [.partialCrew]
      ∧ codes (after (.hmma 0 { xd := 16, xa := 0, xb := 8, mfmt := 6 }) (crew id)) = [.illegalInstruction] := by decide +kernel

theorem wit_Hmma_full :
    mfmtOf 0 = some ((mfmtOf 0).getD (0, 0)) ∧ hmmaGroups ((mfmtOf 0).getD (0, 0)).1 0 8 16 = true
      ∧ ((crew id).hand 0).active = 0xFFFF ∧ (∀ r ∈ List.range 64, ((crew id).hand 0).pendingX r = false) := by decide +kernel

theorem wit_Illegal :
    wordFault 0 = some 1 ∧ codes (after (.illegalInstruction 0 0) (crew id)) = [.illegalInstruction]
      ∧ wordFault (BitVec.ofNat 64 (0x0C * 2 ^ 58 + 2 ^ 48)) = some 2
      ∧ wordFault (BitVec.ofNat 64 (0x10 * 2 ^ 58 + 3 * 2 ^ 28 + 63 * 2 ^ 42)) = some 3
      ∧ wordFault (BitVec.ofNat 64 (0x1C * 2 ^ 58 + 6 * 2 ^ 26)) = some 5 := by decide +kernel

theorem wit_Kernels_start :
    let s := running { pol := 2, kernels := [kern] } {}
    s.kernelDecl 2 0 7 = some (0, kern) ∧ (kernelHands kern).all s.handFree = true
      ∧ ((after (.kernelStart 2 0 7) s).hand 0).busy = true := by decide +kernel

theorem wit_Kernels_task :
    let s := { crew fun h => { h with running := false } with clock := 64 }
    nextTask kern (s.hand 0) = some 0 ∧ ((after (.taskStart 0) s).hand 0).rw 3 = 2
      ∧ ((after (.taskStart 0) { s with clock := 63 }).hand 0).running = false := by decide +kernel

theorem wit_Kernels_end :
    let s := running { pol := 2, kernels := [kern] } { kernels := [(0, { started := true, tasksDone := 2 })] }
    s.kernelDecl 2 0 7 = some (0, kern) ∧ (∀ h ∈ kernelHands kern, (s.hand h).stores = [] ∧ (s.hand h).unwon = 0 ∧ (s.hand h).atoms = [])
      ∧ ((((after (.kernelEnd 2 0 7) s).pol 2).run 0).kernels.get {} 0).ended = true := by decide +kernel

/-- Lane 0 alone is active; w1 holds 2 MiB; x1 of the lane its offset. -/
def memCrew (off : Nat) (f : Hand → Hand) : State :=
  crew fun h => f { h with active := 1, w := [(1, 0x200000)], x := [(16, BitVec.ofNat 32 off)] }
def word : FmtM := { xs := 3, xo := 1, wb := 1, size := 2 }

theorem wit_Loads_miss :
    (memCrew 124 id).issues 0 = true ∧ memFault word (sizeRegs 2) = none ∧ ((memCrew 124 id).hand 0).badAddr word true = false
      ∧ ((memCrew 124 id).hand 0).memLanes word = [0] ∧ ((memCrew 124 id).hand 0).globalVa word 0 = 0x20007C
      ∧ ((memCrew 124 id).lanesAt 0 word 0).1.isSome = true
      ∧ ((after (.ld 0 word) (memCrew 124 id)).hand 0).misses.map MissEntry.sector = [0x200000 / 128]
      ∧ ((after (.lds 0 word) (memCrew 128 id)).hand 0).misses.map MissEntry.sector = [0x200000 / 128 + 1] := by decide +kernel

theorem wit_Loads_faults :
    codes (after (.ld 0 word) (memCrew 126 id)) = [.misaligned] ∧ codes (after (.stDead 0 word) (memCrew 126 id)) = [.misaligned]
      ∧ codes (after (.ld 0 word) (memCrew 124 fun h => { h with wp := [(1, true)] })) = [.poisonConsumed] := by decide +kernel

/-- The Bin of die 0 holds the line at 2 MiB, sectors as given. -/
def binned (st : BinSt) (valid : BitVec 8) (s : State) : State :=
  { s with bins := [(5, { st := st, line := 2048, pol := 2, valid := valid, data := [(124, 9), (127, 1)] })] }

theorem wit_Loads_fill :
    let s := binned .e 1 (memCrew 124 fun h => { h with
      misses := [{ sector := 0x4000, pol := 2, gen := 0, dests := [⟨0, 3, 124, 4, false, false⟩] }] })
    s.binFind 0 2 2048 = some (5, s.bins.get {} 5) ∧ s.isLate 2 0 false = false ∧ s.unwonAt 0 0x4000 = false
      ∧ s.homeFenced 2048 = false ∧ (s.region (dpaOffset (s.sectorDpa 0x4000))).isMem = true
      ∧ x3 (after (.handMissFill 0 0x4000) s) = 0x01000009 := by decide +kernel

theorem wit_Stores_queue :
    ((memCrew 124 id).lanesAt 0 word 1).1.isSome = true
      ∧ ((after (.st 0 word) (memCrew 124 fun h => { h with x := h.x ++ [(48, 0xAABBCCDD)] })).hand 0).stores
        = [{ line := 2048, bytes := [(124, 0xDD), (125, 0xCC), (126, 0xBB), (127, 0xAA)], va := 0x200000 }]
      ∧ (((after (.stDead 0 word) (memCrew 124 id)).hand 0).stores.map StoreEntry.dead) = [true] := by decide +kernel

theorem wit_Stores_bin :
    let s := binned .e 1 (memCrew 0 fun h => { h with stores := [{ line := 2048, bytes := [(0, 7)] }] })
    partSectors [(0, 7)] &&& ~~~(1 : BitVec 8) = 0 ∧ ((after (.binWrite 0) s).bins.get {} 5).st = .m
      ∧ ((after (.binWrite 0) s).bins.get {} 5).data.get 0 0 = 7 := by decide +kernel

/-- R137: LOCAL is 16 KiB: the last word is at 16,380. -/
theorem wit_Local :
    let s := memCrew 16380 fun h => { h with localStore := [(16380, 7)], x := h.x ++ [(48, 3)] }
    (s.hand 0).localVa word 0 = 16380 ∧ s.handLocal 0 = 16 ∧ x3 (after (.ldl 0 word) s) = 7
      ∧ ((after (.stl 0 word) s).hand 0).localStore = [(16380, 3)]
      ∧ ((after (.atoml 0 word) s).hand 0).localStore = [(16380, 10)] ∧ x3 (after (.atoml 0 word) s) = 7
      ∧ codes (after (.ldl 0 word) (memCrew 16384 id)) = [.localRange] := by decide +kernel

theorem wit_Atomics :
    atomOf 0 = some (.add, true) ∧ (after (.atom 0 word) (memCrew 124 id)).reqs.length = 1
      ∧ ((memCrew 124 id).lanesAt 0 word 2).1.isSome = true ∧ atomFault word = none := by decide +kernel

theorem wit_Fences :
    let s := crew fun h => { h with l1 := [{ sector := 1, data := [] }] }
    s.released 0 3 = true ∧ ((after (.fenceAcq 0 { imm := 1 }) s).hand 0).l1 = []
      ∧ ((after (.fenceAcq 0 {}) s).hand 0).l1 ≠ [] ∧ ((after (.fenceAcqrel 0 { imm := 3 }) s).hand 0).pc = 1
      ∧ stays (.fenceRel 0 { imm := 1 }) (crew fun h => { h with stores := [{ line := 0, bytes := [] }] }) = true := by decide +kernel

theorem wit_Tallies :
    let s := crew (regs 0 0 1 0)
    ((after (.tallyWait 0 { wa := 1, imm := 7 }) s).hand 0).wait = .tally 7 1
      ∧ ((after (.tallyWait 0 { wa := 2, imm := 7 }) s).hand 0).pc = 1
      ∧ ((after (.tallySatisfied 0) (crew fun h => { h with wait := .tally 7 0 })).hand 0).wait = .none
      ∧ w3 (after (.tallyRead 0 { wa := 3 }) s) = 0 := by decide +kernel

/-- Two streams of three tiles at Hand 0: one that the kernel takes, one that it puts. -/
def tileCrew (r0 r1 : StreamRun) (f : Hand → Hand) : State :=
  let d : StreamDecl := { fmt := 2, src := .porter, dst := .hands, length := 3, runahead := 2 }
  { running { pol := 2, kernels := [kern], streams := [d, { d with src := .hands, dst := .porter }] }
      { kernels := [(0, { started := true })], streams := [(0, r0), (1, r1)] } with hands := (crew f).hands }

theorem wit_Tiles_take :
    let s := tileCrew { tiles := [(1, { staged := true })] } {} id
    (s.streamOf 2 0 0).isSome = true ∧ ((after (.take 0 { n := 0, wa := 3 }) s).hand 0).taken = [(0, 1)]
      ∧ ((((after (.tileDone 0 { n := 0 }) (tileCrew {} {} fun h => { h with taken := [(0, 1)] })).pol 2).run 0).streams.get {} 0).returning
        = 1 := by decide +kernel

theorem wit_Tiles_put :
    let s := tileCrew {} {} fun h => { h with w := [(1, 2)], allocs := [(1, 0)] }
    s.released 0 1 = true ∧ ((((after (.put 0 { n := 1, imm := 1 }) s).pol 2).run 0).streams.get {} 1).put = [2]
      ∧ codes (after (.put 0 { n := 1, imm := 1 }) (tileCrew {} {} fun h => { h with w := [(1, 3)] })) = [.illegalInstruction]
      ∧ ((after (.alloc 0 { n := 1 }) (tileCrew {} { credits := 1 } id)).hand 0).allocs = [(1, 0)] := by decide +kernel

/-- R142: flag 1 names lanes 0 to 7; lane 7 has left the active mask. -/
theorem wit_CrewBarrier :
    ((after (.barCrew 0 { ft := 1 }) (crew (split []))).hand 0).pc = 1
      ∧ ((after (.barCrew 0 { ft := 1 }) (crew fun h => { split [] h with active := 0xFF7F })).hand 0).wait = .crewBar 0x00FF := by
  decide +kernel

theorem wit_SetBarrier :
    (crew id).crossBarrier 2 0 7 = none ∧ ((after (.barSet 0 { ft := 1 }) (crew (split []))).hand 0).wait = .setBar 1 0x00FF
      ∧ (kernelHands kern).Nodup
      ∧ ((after (.barrierRelease 2 0 7 0) (crew fun h => { h with wait := .setBar 1 0x00FF, setArrivals := 1 })).hand 0).wait = .none := by
  decide +kernel

/-- R144: WATCHDOG is 2^20 cycles. -/
theorem wit_Stranded :
    let s := crew fun h => { h with wait := .setBar 1 1 }
    s.waitMet 0 = false ∧ codes (after (.strandedBarrier 0) { s with clock := 1048576 }) = [.strandedBarrier]
      ∧ stays (.strandedBarrier 0) { s with clock := 1048575 } = true := by decide +kernel

theorem wit_Hands_more :
    let s := running { pol := 2, kernels := [kern] } {}
    s.mayBegin 2 0 (.kernel 0) = true ∧ (∀ h ∈ kernelHands kern, s.hostStalled h = false)
      ∧ ((memCrew 124 id).hand 0).hasRead = true
      ∧ ((memCrew 124 fun h => { h with misses := [{ sector := 1, pol := 2, gen := 0, dests := [⟨0, 3, 0, 4, false, false⟩] }] }).hand 0).hasRead = false
      ∧ (memCrew 124 id).earlier 0 0x4000 true = false := by decide +kernel

/-- Nothing maps the granule at 4 MiB: the walk begins. -/
theorem wit_Hands_waits :
    let s := crew fun h => { h with active := 1, w := [(1, 0x400000)] }
    (s.lanesAt 0 word 0).1.isSome = false ∧ (s.lanesAt 0 word 1).1.isSome = false := by decide +kernel

/-- The Bin has given the sector, though the line has left it since. -/
theorem wit_Loads_got :
    let s := memCrew 124 fun h => { h with
      misses := [{ sector := 0x4000, pol := 2, gen := 0, dests := [⟨0, 3, 124, 4, false, false⟩], got := some (List.replicate 128 2, false) }] }
    x3 (after (.handMissFill 0 0x4000) s) = 0x02020202 := by decide +kernel

/-- A store to slot 0 of stream 1, one to module 1, and one to a fenced home. -/
theorem wit_Stores_elsewhere :
    let e : StoreEntry := { line := 0, bytes := [(4, 7)], goal := .staged 1 0 0 }
    let far : StoreEntry := { line := 2 ^ 38, bytes := [(4, 7)] }
    let s := memCrew 0 fun h => { h with stores := [{ line := 2048, bytes := [(0, 7)] }] }
    (((((after (.binWrite 0) (tileCrew {} {} fun h => { h with stores := [e] })).pol 2).run 0).streams.get {} 1).tiles.get {} 0).bytes = [(4, 7)]
      ∧ dpaModule ((memCrew 0 id).sectorDpa (8 * 2 ^ 38)) ≠ 0
      ∧ ((after (.binWrite 0) (memCrew 0 fun h => { h with stores := [far] })).hand 0).stores = []
      ∧ codes (after (.binWrite 0) { s with keels := [(homeOf 2048, { fenced := true })] }) = [.fencedTarget] := by decide +kernel

/-! ## Mill and stations -/

/-- Die 0 works for polder 2: tiles 0, 1, 4 and 5 of its Mill, and a unit of each station. -/
def working (c : Schedule) (m : MillSt) : State := { mapped (running c {}) with
  mills := [(0, m)]
  img := some { schedules := [c], charter := { pols := [{ port := 0 }, { port := 1 },
    { port := 0, vf := 1, tiles := [0x0033], stations := [(1, 1, 1)] }] } } }

def use (op : Nat) : MillUse := { mode := .solo, die := 0, op := op, m := 8, n := 256, k := 64, nk := true, fmtV := 1 }
def allOps : Schedule := { pol := 2, stations := [0, 1, 2, 3], mills := (List.range 5).map use }
def free : MillSt := { held := false, weir := 64 }

/-- 1 x 2 times 2 x 1 in MXFP8: (1.0, 1.0) by (1.0, 2.0), every scale 2^0. -/
def gemm1 : Gemm := { pol := 2, a := ⟨1, 1, 2, [0x38, 0x38], [127]⟩, b := ⟨1, 1, 2, [0x38, 0x40], [127]⟩, nk := true }

theorem wit_Matrix_ready :
    let s := working allOps free
    (∀ op ∈ [0, 1], s.stationRun 2 0 0 (fun c => (useFor c op 0 1 1 1 1 2 true 0).isSome) = some (0, allOps)
        ∧ useFor allOps op 0 1 1 1 1 2 true 0 = some (use op) ∧ s.fed 2 0 (gemmDemands (use op) op 0 gemm1) [none, none] false = true)
      ∧ s.stationRun 2 0 0 (fun c => fits c useGemv 0 1 1 1 1 2 true (bitsOf 16 1)) = some (0, allOps)
      ∧ useFor allOps 2 0 1 1 1 1 2 true 0 = some (use 2) ∧ s.fed 2 0 (gemvDemands (use 2) gemm1 0 1) [none] false = true
      ∧ gemm1.ok = true ∧ s.formed 0 0 = true ∧ s.ownsTiles 2 0 (arrayTiles 0) = true
      ∧ s.tilesFree 0 (arrayTiles 0) false = true ∧ s.bookedLevel 2 0 ≤ min 64 64 ∧ s.regionReady 2 0 1 false = true := by decide +kernel

/-- The product is 3.0. -/
theorem wit_Matrix_result :
    ((after (.gemmOutputStationary 0 0 gemm1) (working allOps free)).mill 0).results.get [] 0 = [0x40400000]
      ∧ ((after (.gemmWeightStationary 0 0 gemm1) (working allOps free)).mill 0).results.get [] 0 = [0x40400000]
      ∧ ((after (.batchedGemv 0 1 gemm1) (working allOps free)).mill 0).results.get [] 22 = [0x40400000]
      ∧ (gemm1.result 32)[0]? = some (gemm1.blockSum 0 0 0).toNat := by decide +kernel

/-- A PAIR array of both dies of Keel 0: the result of one column lies on the lower die, and both are busy. -/
def pairOps : Schedule := { pol := 2, stations := [0], mills := [{ use 0 with mode := .pair }] }
def paired : State :=
  let m : MillSt := { free with ganged := true, paired := true }
  { working pairOps m with mills := [(0, m), (1, m)], img := some { schedules := [pairOps], charter := { pols := [{ port := 0 }, { port := 1 },
    { port := 0, vf := 1, tiles := [0xFFFF, 0xFFFF] }] } } }

theorem wit_Matrix_pair :
    let t := after (.gemmOutputStationary 0 21 gemm1) paired
    arrayDies 0 21 = [0, 1] ∧ paired.formed 0 21 = true ∧ paired.ownsTiles 2 1 (arrayTiles 21) = true
      ∧ ((t.mill 0).results.get [] 21, (t.mill 1).results.get [] 21) = ([0x40400000], [])
      ∧ (t.mill 1).runsTo.get 0 15 = (t.mill 0).cycles.get 0 21 ∧ (t.mill 0).ops.length = 1 ∧ (t.mill 1).ops = []
      ∧ pairColumns { gemm1 with b := ⟨1, 1025, 2, [], []⟩ } true (List.range 1025) = [1024] := by decide +kernel

def head1 : AttHead := { q := ⟨1, 1, 2, [0x38, 0x38], [127]⟩, k := ⟨1, 1, 2, [0x38, 0x38], [127]⟩, v := ⟨1, 1, 2, [0x38, 0x40], [127]⟩ }
def att1 : Attention := { pol := 2, heads := [head1], record := List.replicate 32 0, scale := one, tiles := 1 }

theorem wit_Attention :
    let s := working allOps free
    s.stationRun 2 0 0 (fun c => (attUse c 0 head1 1).isSome) = some (0, allOps) ∧ attUse allOps 0 head1 1 = some (use 3)
      ∧ attHeadOk head1 2 = true ∧ att1.record.length = 32 ∧ s.fed 2 0 (attDemands (use 3) [head1]) [none] false = true
      ∧ (s.readRecord (.station 1 0 2 0) 2 0 none att1.record).1 = .is false
      ∧ ((after (.fusedAttentionPass 0 att1) s).mill 0).results.get [] 22 = [0, 0] := by decide +kernel

/-- Verify in greedy mode of no draft token, or in sample mode, over a head of 256 rows. -/
def ver (mode : Nat) : VerifyOp := { pol := 2, dies := 1, tiles := 1, record := leBytes 2 (256 * mode) ++ List.replicate 62 0
                                     hidden := ⟨1, 1, 1, [0x38], [127]⟩, head := ⟨1, 256, 1, List.replicate 256 0x38, List.replicate 256 127⟩
                                     nk := true, result := 0x200000 }

theorem wit_Verify :
    let s := working allOps free
    bitsOf 8 (ver 0).dies.toNat = [0] ∧ (ver 0).samples = false ∧ (ver 1).samples = true ∧ (ver 1).gemm.ok = true
      ∧ (ver 1).gemm.n % 256 = 0 ∧ (ver 1).k 0 < (ver 1).hidden.rows ∧ (ver 1).q.length = 0
      ∧ s.stationRun 2 0 0 (fun c => [0].all fun e => fits c useVerify e 1 1 (c.kmax + 1) 256 1 true (bitsOf 16 1)) = some (0, allOps)
      ∧ verifyUse allOps (ver 0) 0 = some (use 4) ∧ s.regionReady 2 0 1 false = true ∧ s.fed 2 0 (verifyDemands allOps (ver 0) [0]) [] false = true
      ∧ s.stationOwes 1 0 2 = [] ∧ (s.readRecord (.station 1 0 2 0) 2 0 none (ver 0).record).1 = .is false
      ∧ (s.stationStore 1 0 2 0 0x200000 (List.replicate 64 0) false).1.isSome = true
      ∧ stays (.verifyGreedy 0 (ver 1)) s = true ∧ stays (.verifySample 0 (ver 0)) s = true := by
  decide +kernel

theorem wit_Arrays_quad :
    let t := after (.millModeChange 0 .quad 0) (working allOps free)
    (working allOps free).ownsTiles 2 0 (quadMask 0) = true ∧ (t.mill 0).quad = 1 ∧ (t.mill 0).changeTo = [(0, 64), (1, 64), (4, 64), (5, 64)] := by
  decide +kernel

/-- Both dies of a Keel belong to polder 2: they form a PAIR, and a die that leaves it leaves the other in GANG. -/
theorem wit_Arrays_pair :
    let s : State := { base with img := some { charter := { pols := [{ port := 0 }, { port := 1 }, { port := 0, vf := 1, tiles := [0xFFFF, 0xFFFF] }] } } }
    let t := after (.millModeChange 1 .pair 0) s
    t.formed 0 21 = true ∧ (after (.millModeChange 0 .solo 4) { t with clock := 64 }).formed 1 20 = true
      ∧ (after (.millModeChange 0 .gang 0) s).formed 0 20 = true ∧ (after (.millModeChange 0 .solo 2) s).formed 0 8 = true := by
  decide +kernel

/-- An operation of 3,072 tile-cycles at half rate from cycle 64 on, and its end when the level returns to 64. -/
theorem wit_Arrays_weir :
    let o : MillOp := { pol := 2, seq := 0, tiles := 1, array := 0, from_ := 0, work := 64 * 3072, eff := 32, fin := 256, drain := 512, booked := 64, tLast := 0 }
    let s : State := { working allOps { weir := 32, weirNext := 64, ops := [o], runsTo := [(0, o.ends)] } with clock := 64 }
    let t := after (.weirLevelChange 0) s
    o.ends = 6400 ∧ o.issuing 64 = true ∧ ((t.mill 0).ops.map MillOp.ends) = [64 + 3040 + 256] ∧ (t.mill 0).runsTo = [(0, 3360)]
      ∧ stays (.weirLevelChange 0) { s with clock := 65 } = true := by decide +kernel

theorem wit_Arrays_other :
    stays (.millModeChange 0 .solo 0) (working allOps { ganged := true, runsTo := [(15, 1)] }) = true
      ∧ ((after (.weirLevelChange 0) (working allOps { weirNext := 7 })).mill 0).weir = 7
      ∧ ((after (.ladderRung 0 3) { working allOps { rung := [(3, 8)] } with clock := 1024 }).mill 0).rung = []
      ∧ ((after (.ladderRung 0 3) { working allOps { rung := [(3, 7)] } with clock := 896 }).mill 0).rung = [(3, 8)] := by
  decide +kernel

theorem wit_Stations_scale :
    (working allOps free).stationWorks 2 0 1 = true ∧ scaleTakes .relu [0x80000001] = true
      ∧ ((after (.scaleOp 0 2 .relu [0xBF800000, one] true) (working allOps free)).station 0 2).scaleOut = [0, one]
      ∧ (running allOps {}).stationShare 2 0 1 = 0 ∧ stays (.scaleOp 0 2 .relu [one] true) (running allOps {}) = true := by
  decide +kernel

theorem wit_Stations_sieve :
    (working allOps free).stationWorks 2 0 2 = true ∧ sieveTakes (.add [one]) 1 = true
      ∧ ((after (.sieveOp 0 2 (.add [one]) [one] false) (working allOps free)).station 0 2).sieveOut = [0x40000000] := by decide +kernel

theorem wit_Stations_cooper :
    (working allOps free).stationWorks 2 0 3 = true
      ∧ ((after (.cooperReduction 0 2 false 7 [0x3F800000] [] false)
          (after (.cooperReduction 0 2 true 7 [0x3F800000] [] true) (working allOps free))).station 0 2)
        = { cooper := [0x40000000], cooperPoison := true } := by decide +kernel

/-- A block of 32 elements 1.0; the residual at 2 MiB, all zero. -/
def sieve1 : Sieve8 := { pol := 2, record := leBytes 8 0 ++ leBytes 8 0 ++ leBytes 8 0x200000 ++ leBytes 8 0, hop := 255, tile := 0
                         g := List.replicate 32 one }

theorem wit_Stations_sieve8 :
    let w := (working allOps free).residualLines (.station 2 0 2 0) 2 0 [0x200000]
    sieve1.record.length = 32 ∧ sieve1.g.length = 32 ∧ leAt sieve1.record 16 8 % 2 ^ 45 + 262144 * 0 = 0x200000
      ∧ w.1.map (fun e => w.2.2.hbmTarget e.2) = [some 0x200000] ∧ w.2.1.map (fun e => w.2.2.hbmTarget e.2) = [some 0x200000]
      ∧ (w.2.2.endWalks (.station 2 0 2 0)).peekPoison 0x200000 1024 = false
      ∧ ((after (.sieve8Encode 0 sieve1) (working allOps free)).station 0 2).sieveOut.length = 32
      ∧ fnan 0x7FC00000 = true := by decide +kernel

/-- A tile of format 1 on a Cask page, its groups at line 2,048 on; the tag of its first line. -/
def caskBuf (out : Nat) : TileBuf := { cask := true, outstanding := out, lines := (List.range 66).map fun i => some (2048 + i) }
def caskTile (store : Bool) (tag : BitVec 8) (b : TileBuf) : State :=
  let d : StreamDecl := if store then { storeOne with } else loadOne
  let s := mapped (running { pol := 2, streams := [d] } { m := credM, streams := [(0, { next := 1, tiles := [(0, b)] })] })
  { s with marks := [(2048, { tag := tag })] }

theorem wit_Cask_decode :
    ((caskTile false 0 (caskBuf 9)).streamOf 2 0 0).isSome = true ∧ tileGroup 1 0 = (1, 0, 8192)
      ∧ (caskBuf 9).groupLines 0 8 = some ((List.range 8).map (· + 2048)) ∧ ({ caskBuf 9 with lines := [] } : TileBuf).groupLines 0 8 = none
      ∧ (∀ l ∈ (List.range 8).map (· + 2048), (caskTile false 0 (caskBuf 9)).peekPoison (1024 * l) 1024 = false) := by decide +kernel

/-- R112: a tag of kind 2 on a group of kind 1, and a coded count of 0 lines, are malformed. -/
theorem wit_Cask_malformed :
    codes (after (.caskDecode 0 2 0 0 0) (caskTile false 0x21 (caskBuf 9))) = [.caskMalformed]
      ∧ codes (after (.caskDecode 0 2 0 0 0) (caskTile false 0x10 (caskBuf 9))) = [.caskMalformed] := by decide +kernel

/-- Poison in line 2,049 of a raw group, and in the one line of a coded one. -/
theorem wit_Cask_struck :
    let s := { caskTile false 0 (caskBuf 9) with marks := [(2049, { poison := 1 })] }
    let u := { caskTile false 0 (caskBuf 9) with marks := [(2048, { tag := 0x11, poison := 1 })] }
    codes (after (.caskDecode 0 2 0 0 0) s) = [.poisonRead] ∧ codes (after (.caskDecode 0 2 0 0 0) u) = [.poisonRead] := by decide +kernel

theorem wit_Cask_encode :
    let s := caskTile true 7 (caskBuf 9)
    (s.streamOf 2 0 0).isSome = true ∧ (((List.range 8).map (· + 2048)).all s.lineQuiet) = true
      ∧ ({ s with txns := [(2049, {})] }.lineQuiet 2049) = false ∧ Cask.encode 1 (s.caskTables 1) [0] = none := by decide +kernel

theorem wit_Quays :
    let e := List.replicate 16 (0 : Byte)
    let full : State := { base with quays := [(0, { entries := List.replicate 64 (.bytes e) })] }
    base.quayStopped (.hbmCmdOut 0) = false ∧ e.length = quayEntry (quayNo (.hbmCmdOut 0))
      ∧ ((after (.quayWrite (.hbmCmdOut 0) e) base).quay 0).entries = [.bytes e]
      ∧ ((after (.quayWrite (.hbmCmdOut 0) e) full).quay 0).waiting = [.bytes e]
      ∧ ((after (.quayRead (.hbmCmdOut 0)) full).quay 0).entries.length = 63
      ∧ stays (.quayRead (.hbmCmdOut 0)) base = true
      ∧ ((after (.quayWrite (.hbmCmdOut 0) e) { base with hbmStacks := [(0, { fenced := true })] }).quay 0).flushed = 1 := by
  decide +kernel

theorem wit_Quays_link :
    let s : State := { base with quays := [(496, { entries := [.bytes []] })] }
    (s.quay (quayNo (.linkRx 0))).entries = .bytes [] :: [] := by decide +kernel

/-- A stint of 4 slots every 16 cycles. -/
def stint : Stint := { segment := 0, pol := 2, cls := 0, start := 3, length := 4, period := 4, laneFirst := 0, laneCount := 1, owner := 0 }

/-- A load stint of the Wharf's link receive quay 0, by the first hop of its path; the quay holds an entry. -/
def linked : State := { base with
  img := some { tide := [{ stint with segment := 0x3C, port := 0x30, laneFirst := 0, start := 0 }] }, quays := [(562, { entries := [.bytes []] })] }

theorem wit_Quays_slot :
    inboundQuay 562 = true ∧ (linked.quaySlot 562).isSome = true ∧ stays (.quayRead (.hostIn 0)) base = true
      ∧ ((after (.quayRead (.hostIn 0)) linked).quay 562).entries = []
      ∧ ((after (.quayRead (.hostIn 0)) { linked with quays := [], stints := [(0, { queued := 5 })] }).pol 2).emptyLate = 1 := by
  decide +kernel

/-- A culvert stint of polder 2 and its next hop on the far spine. -/
def pathed : List Stint := [{ stint with segment := 0x20 }, { stint with segment := 0x39, port := 1, start := 11, hop := 1 }]

theorem wit_Stints_hop :
    let s : State := { base with img := some { tide := pathed } }
    nextHop pathed (pathed.headD stint) = some 1 ∧ s.stintIdle (pathed.headD stint) = false
      ∧ ((after (.stintOccurrence 0 3 100 0) s).stint 1).queued = 100 ∧ ((after (.stintOccurrence 0 3 100 0) s).stint 0).queued = 0 := by
  decide +kernel

theorem wit_Stints :
    let s : State := { base with img := some { tide := [stint] } }
    let u : State := { s with pols := [(2, { state := 4 })] }
    19 % 2 ^ stint.period = stint.start ∧ s.stintIdle stint = false ∧ u.stintIdle stint = true
      ∧ ((after (.stintOccurrence 0 19 1000000 1) s).pol 2).emptyLate = 1
      ∧ (after (.stintOccurrence 0 19 100 1) u).stint 0 = { queued := 100 } := by decide +kernel

theorem wit_Replays :
    let m : CohMsg := { type := .dataH, src := 8, dst := 0, line := 5, data := [(0, 1)] }
    let s : State := { base with bundles := [(2047, { state := 1, failRun := 14 })], net := [m] }
    (s.bundle 2047).state = 1 ∧ ((after (.bundleReplay 2047 2 true .other) s).bundle 2047).failRun = 0
      ∧ ((after (.bundleReplay 2047 2 false (.msg m)) s).net.map CohMsg.poison) = [1]
      ∧ codes (after (.bundleReplay 2047 2 false (.msg m)) s) = [.bondPoison] := by decide +kernel

/-- A replay on the culvert bundle of `pathed`, which a hard manifest's stint uses. -/
theorem wit_Replays_charged :
    let s : State := { running { pol := 2 } { m := { hard := true } } with
      img := some { schedules := [{ pol := 2 }], tide := [{ stint with segment := 0x20, cls := 1 }] }, bundles := [(2048, { state := 1 })] }
    let t := after (.bundleReplay 2048 2 true .other) s
    s.bundleStint 2048 2 = some 0 ∧ (t.stint 0).moved = 16 ∧ (t.pol 2).replays = 1
      ∧ ((t.pol 2).running.map fun e => e.2.uncharged.link) = [16] := by decide +kernel

/-- The scale group of the tile, coded in one line of zeros: table 0, every first scale and difference 0, each difference one bit. -/
theorem wit_Cask_coded :
    let tables : List CodeTable := [[1]]
    let s : State := { caskTile false 0 (caskBuf 9) with
      img := some { schedules := [{ pol := 2, streams := [loadOne] }], cask := [(6, tables)] }, marks := [(2112, { tag := 0x61 })] }
    s.caskTables 6 = tables ∧ (caskBuf 9).groupLines 65536 2 = some [2112, 2113]
      ∧ (Cask.decode 6 tables (List.replicate 1024 0)).isSome = true ∧ (Cask.encode 6 tables (List.replicate 8 0)).isSome = true := by
  decide +kernel

/-! ## Memory and coherence -/

/-- Request 9 of polder 2 at line 5, with its tracker. -/
def asks (op : HomeOp) (s : State) : State := { s with reqs := [{ id := 9, op := op, line := 5, pol := 2, gen := 0, tracked := true }] }
/-- Die 0's Bin is listed at the home of line 5 in slot 3. -/
def shadowed (st : EntSt) (s : State) : State := { s with shadow := [(shadowKey 0 0 3, ⟨st, 5, 2⟩)] }

theorem wit_Homes_read :
    let s := asks (.read 1) base
    s.busy 5 = false ∧ (s.entriesOf 5).filter isOwner = [] ∧ (after (.homeNoncachingRead 9) s).reqs = [] := by decide +kernel

theorem wit_Homes_write :
    let s := asks (.write [(1023, 7)] false false) base
    s.entriesOf 5 = [] ∧ s.homeFenced 5 = false ∧ s.stackFenced 5 = false ∧ s.granFind 5 = none ∧ s.granPart 0 2 = none
      ∧ (after (.homeNoncachingWrite 9) s).mem = [(6143, 7)] := by decide +kernel

theorem wit_Homes_recall :
    let s := shadowed .x (asks (.write [(0, 7)] false false) base)
    let t := after (.homeNoncachingWrite 9) s
    s.entriesOf 5 = [⟨shadowKey 0 0 3, 0, 2, .x⟩] ∧ t.mem = [] ∧ (t.txn 5).busy = .r ∧ (t.net.map CohMsg.type) = [.recall] := by
  decide +kernel

theorem wit_Homes_waits :
    let s := { asks (.write [(0, 7)] false false) base with txns := [(5, { busy := .a })] }
    s.busy 5 = true ∧ ((after (.homeNoncachingWrite 9) s).txn 5).queue.length = 1
      ∧ ((after (.homeNoncachingWrite 9) s).keel 0).maxq = 1 := by decide +kernel

/-- R173: of two dirty sectors, the dead one is not written back; set 5 is full and way 3 the oldest of it. -/
theorem wit_Homes_evict :
    let g : GranLine := { valid := true, line := 5, pol := 2, present := 3, dirty := 3, dead := 2, data := [(0, 7), (128, 8)] }
    let other := fun (i : Nat) => ((80 + i, { valid := true, line := 1000 + i, used := 1 }) : Nat × GranLine)
    let s : State := { base with marks := [(5, { run := 2 })], gran := (List.range 3).map other ++ [(83, g)] ++ (List.range 12).map fun i => other (i + 4) }
    s.granVictim 0 5 = some 83 ∧ s.granFind 5 = some (83, g) ∧ s.stackFenced 5 = false
      ∧ (after (.granaryEviction 0 5 3) s).mem = [(5120, 7)] ∧ stays (.granaryEviction 0 5 4) s = true := by decide +kernel

theorem wit_Homes_addLine :
    let c : Charter := { base.charter with resources := [{ type := 2, b1 := 2, b2 := 0, w4 := 0, b3 := 0 }] }
    let s : State := { working allOps free with img := some { required := 0x20, schedules := [allOps], charter := c } }
    atlFeature s.featureWord .fp32 = true ∧ (s.granPart 0 2).isSome = true ∧ s.held (srcStation 3 0) 2 = false
      ∧ ((after (.addToLine 0 2 0 0x200000 .fp32 [(255, one)]) s).reqs.map HomeReq.op) = [.addLine .fp32 [(255, one)] false] := by
  decide +kernel

theorem wit_Homes_tracker :
    let s : State := { base with reqs := [{ id := 9, op := .read 1, line := 5, pol := 2, gen := 0 }] }
    (s.reqs.find? fun r => !r.tracked && homeOf r.line = 0 && s.trackerFree 0 r.pol).isSome = true
      ∧ ((after (.trackerFreed 0) s).reqs.map HomeReq.tracked) = [true] := by decide +kernel

def toHome5 (t : MsgType) : CohMsg := { type := t, src := 0, dst := 8, pol := 2, line := 5, need := 1, way := 3, tag := 3 }

theorem wit_Answers_free :
    let s : State := { base with net := [toHome5 .gets] }
    let u : State := { base with net := [toHome5 .getm] }
    let v : State := { base with net := [toHome5 .rdsec] }
    { s with net := s.net.erase (toHome5 .gets) }.deaf (toHome5 .gets) = false ∧ s.isStock 5 = false
      ∧ (((after (.gets (toHome5 .gets)) s).net.filter fun m => m.type = .grant).map CohMsg.st) = [2]
      ∧ (((after (.getm (toHome5 .getm)) u).net.filter fun m => m.type = .grant).map CohMsg.st) = [3]
      ∧ ((after (.rdsec (toHome5 .rdsec)) v).net.map CohMsg.type) = [.nackRd] := by decide +kernel

theorem wit_Answers_puts :
    let put := fun (t : MsgType) => { toHome5 t with data := [] }
    let s := fun (t : MsgType) (e : EntSt) => { shadowed e base with net := [put t] }
    ((s .putm .x).entriesOf 5).find? (fun e => e.bin = 0 && e.pol = 2 && isOwner e) = some ⟨shadowKey 0 0 3, 0, 2, .x⟩
      ∧ (after (.pute (put .pute)) (s .pute .x)).shadow = [] ∧ (after (.putm (put .putm)) (s .putm .x)).shadow = []
      ∧ (after (.puto (put .puto)) (s .puto .o)).shadow = []
      ∧ ((after (.puto (put .puto)) (s .puto .o)).net.map CohMsg.type) = [.putAck] := by decide +kernel

theorem wit_Answers_done :
    let s : State := { base with net := [toHome5 .done], txns := [(5, { busy := .d, final := [(0, 0, 3, 2, .x)], dones := 1 })] }
    (s.txn 5).dones = 1 ∧ (after (.done (toHome5 .done)) s).shadow = [(3, ⟨.x, 5, 2⟩)]
      ∧ (after (.done (toHome5 .done)) s).busy 5 = false := by decide +kernel

theorem wit_Answers_counted :
    let s := fun (t : MsgType) => { base with net := [toHome5 t], txns := [(5, { busy := .a, await := [(0, 2), (1, 2)], sent := [(0, 2)] })] }
    (s .invAck).deaf (toHome5 .invAck) = false ∧ ((after (.invAck (toHome5 .invAck)) (s .invAck)).txn 5).await = [(1, 2)]
      ∧ ((after (.fwdAck (toHome5 .fwdAck)) (s .fwdAck)).txn 5).ownerNew = some 0
      ∧ ((after (.wbCross (toHome5 .wbCross)) (s .wbCross)).txn 5).awaitPut = [(0, 2)]
      ∧ ((after (.recallAck (toHome5 .recallAck)) (s .recallAck)).txn 5).await = [(1, 2)] := by decide +kernel

theorem wit_Answers_last :
    let g := { toHome5 .getm with src := 1, tag := 4 }
    let s : State := { base with net := [toHome5 .fwdAck], txns := [(5, { busy := .a, await := [(0, 2)], serving := .coh g })] }
    let r : HomeReq := { id := 9, op := .read 1, line := 5, pol := 2, gen := 0, tracked := true }
    let u : State := { base with net := [toHome5 .recallAck], txns := [(5, { busy := .r, await := [(0, 2)], serving := .req r })] }
    (s.keel 0).fencedBins.getLsbD 1 = false ∧ ((after (.fwdAck (toHome5 .fwdAck)) s).txn 5).final = [(1, 0, 3, 2, .x)]
      ∧ (after (.recallAck (toHome5 .recallAck)) u).busy 5 = false := by decide +kernel

/-- Way 5 of die 0's Bin holds line 5 for polder 2. -/
def way5 (b : BinLine) (net : List CohMsg) : State := { base with bins := [(5, { b with line := 5, pol := 2 })], net := net }
def toBin (t : MsgType) : CohMsg := { type := t, src := 8, dst := 0, req := 1, pol := 2, line := 5, need := 1, tag := 5 }

theorem wit_Bins_read :
    let s : State := { working allOps free with bins := [(5, { st := .s, line := 2048, pol := 2, valid := 1 })] }
    (s.region (2048 * 1024)).isMem = true ∧ s.binFind 0 2 2048 = some (5, { st := .s, line := 2048, pol := 2, valid := 1 })
      ∧ (after (.binRead 0 2 2048 1 0) { s with clock := 3 }).bins = [(5, { st := .s, line := 2048, pol := 2, valid := 1, used := 3 })] := by
  decide +kernel

/-- A polder with one set of the Bin, by its charter. -/
theorem wit_Bins_miss :
    let s : State := { base with img := some { charter := { base.charter with resources := [{ type := 3, b1 := 2, b2 := 0, b3 := 0 }] } } }
    s.binFind 0 2 2048 = none ∧ (s.binWay 0 2 2048).isSome = true ∧ s.trackerFree (homeOf 2048) 2 = true
      ∧ ((after (.binRead 0 2 2048 1 0) s).net.map CohMsg.type) = [.gets] := by decide +kernel

theorem wit_Bins_collect :
    (way5 { st := .isAD } [toBin .grant]).taggedBin (toBin .grant) = some (5, { st := .isAD, line := 5, pol := 2 })
      ∧ ((after (.grant { toBin .grant with st := 1 }) (way5 { st := .isAD } [{ toBin .grant with st := 1 }])).bins.get {} 5).st = .isD
      ∧ ((after (.dataH (toBin .dataH)) (way5 { st := .isD, grant := some (1, 0, 1) } [toBin .dataH])).bins.get {} 5).st = .s
      ∧ ((after (.dataF { toBin .dataF with cover := 1, mark := 1 })
          (way5 { st := .imD, grant := some (3, 1, 0) } [{ toBin .dataF with cover := 1, mark := 1 }])).bins.get {} 5).dirty = 1 := by
  decide +kernel

theorem wit_Bins_putAck :
    isPutWait .miA = true ∧ (after (.putAck (toBin .putAck)) (way5 { st := .miA } [toBin .putAck])).bins = []
      ∧ ((after (.nackRd { toBin .nackRd with tag := 5 + rdsecTag })
          (way5 { st := .i, rdsec := 1 } [{ toBin .nackRd with tag := 5 + rdsecTag }])).bins.get {} 5).st = .isAD := by
  decide +kernel

theorem wit_Bins_forward :
    let b : BinLine := { st := .m, valid := 3, dirty := 2, data := [(0, 1), (128, 2)] }
    (way5 b [toBin .fwdGets]).binFind 0 2 5 = some (5, { b with line := 5, pol := 2 })
      ∧ ((after (.fwdGets (toBin .fwdGets)) (way5 b [toBin .fwdGets])).bins.get {} 5).st = .o
      ∧ ((after (.fwdGets (toBin .fwdGets)) (way5 b [toBin .fwdGets])).net.map fun m => (m.type, m.cover))
          = [(.dataF, 3), (.fwdAck, ((after (.fwdGets (toBin .fwdGets)) (way5 b [toBin .fwdGets])).net.getD 1 (toBin .inv)).cover)]
      ∧ (after (.fwdGetm (toBin .fwdGetm)) (way5 b [toBin .fwdGetm])).bins = []
      ∧ ((after (.inv (toBin .inv)) (way5 { st := .s } [toBin .inv])).net.map CohMsg.type) = [.invAck]
      ∧ ((after (.recall (toBin .recall)) (way5 b [toBin .recall])).bins.get {} 5).st = .e := by decide +kernel

/-- R196: a line lost while an RDSEC is outstanding; the reply serves the read that waited and is dropped. -/
theorem test_rdsec_reply_of_a_lost_line :
    let reply := { toBin .dataH with tag := 5 + rdsecTag }
    let s := after (.inv (toBin .inv)) (way5 { st := .s, rdsec := 1, waits := [{ read := 1 }] } [toBin .inv, reply])
    (s.bins.get {} 5).st = .i ∧ (s.bins.get {} 5).waits.length = 1 ∧ (after (.dataH reply) s).bins = [] := by decide +kernel

theorem wit_Bins_held :
    let s := way5 { st := .m, holdUntil := 1 } [toBin .inv]
    ((after (.inv (toBin .inv)) s).bins.get {} 5).held = [toBin .inv] ∧ ((after (.inv (toBin .inv)) s).mill 0).holdWaits = 1
      ∧ stays (.holdExpiry 0 5 2) s = true
      ∧ ((after (.holdExpiry 0 5 2) { s with clock := 1 }).bins.get {} 5).held = [] := by decide +kernel

theorem wit_Homes_performs :
    let s := fun (op : HomeOp) => asks op { base with mem := [(5120, 5)] }
    (base.mark 5).run = 0 ∧ (after (.homeNoncachingWrite 9) (s (.atomic .add 0 4 2 0 false))).mem = [(5120, 7)]
      ∧ (after (.homeNoncachingWrite 9) (s (.addLine .int32 [(0, 2), (0, 3)] false))).mem = [(5120, 10)]
      ∧ ((after (.homeNoncachingWrite 9) (s (.range .discard false))).mark 5).dead = 0xFF := by decide +kernel

theorem wit_Homes_trackerBin :
    let s : State := { base with bins := [(5, { st := .s, line := 5, pol := 2, waits := [{ read := 2 }] })] }
    (s.reqs.find? fun r => !r.tracked && homeOf r.line = 0 && s.trackerFree 0 r.pol) = none
      ∧ (s.bins.find? fun e => homeOf e.2.line = 0 && !e.2.waits.isEmpty && (isStable e.2.st || e.2.st = .i)
          && s.trackerFree 0 e.2.pol).isSome = true := by decide +kernel

/-- Bin 1 asks for a line of which Bin 0 is the owner, or a sharer; a line that is busy takes it into its queue. -/
theorem wit_Answers_others :
    let m := fun (t : MsgType) => { toHome5 t with src := 1 }
    let s := fun (e : EntSt) (t : MsgType) => { shadowed e base with net := [m t] }
    ((s .x .gets).heard (m .gets) { s .x .gets with net := [] }) ∧ ((s .x .gets).entriesOf 5).find? isOwner = some ⟨shadowKey 0 0 3, 0, 2, .x⟩
      ∧ ((after (.gets (m .gets)) (s .x .gets)).net.map CohMsg.type) = [.fwdGets]
      ∧ sharersBut ((s .s .getm).entriesOf 5) (m .getm) = [⟨shadowKey 0 0 3, 0, 2, .s⟩]
      ∧ ((after (.getm (m .getm)) (s .s .getm)).net.map CohMsg.type) = [.inv]
      ∧ ((after (.getm (m .getm)) (s .o .getm)).net.map CohMsg.type) = [.fwdGetm]
      ∧ ((after (.getm (toHome5 .getm)) { shadowed .o base with net := [toHome5 .getm] }).net.filter fun x => x.type = .grant).length = 1
      ∧ ((after (.rdsec (toHome5 .rdsec)) { shadowed .s base with net := [toHome5 .rdsec] }).net.map CohMsg.type) = [.dataH]
      ∧ ((after (.gets (m .gets)) { s .x .gets with txns := [(5, { busy := .d })] }).txn 5).queue.length = 1 := by
  unfold State.heard; decide +kernel

/-- A put that no entry bears, one behind another transaction, and one that crosses a RECALL still awaited elsewhere. -/
theorem wit_Answers_crossing :
    let p := toHome5 .putm
    let s := fun (t : HomeTxn) => { shadowed .x base with net := [p], txns := [(5, t)] }
    (after (.putm p) { base with net := [p] }).net = [] ∧ ((after (.putm p) (s { busy := .d })).txn 5).queue.length = 1
      ∧ (after (.putm p) (s { busy := .r, await := [(1, 2)], sent := [(0, 2)], awaitPut := [(0, 2)] })).shadow = []
      ∧ ((after (.putm p) (s { busy := .r, await := [(1, 2)], sent := [(0, 2)], awaitPut := [(0, 2)] })).txn 5).awaitPut = [] := by
  decide +kernel

theorem wit_Answers_doneOfTwo :
    let s : State := { base with net := [toHome5 .done], txns := [(5, { busy := .d, final := [(0, 0, 3, 2, .s), (1, 0, 3, 2, .s)], dones := 2 })] }
    ((after (.done (toHome5 .done)) s).txn 5).dones = 1 := by decide +kernel

/-- A line on its way home answers with WB_CROSS; one that is gone is acknowledged; a sharer that wants M loses its copy. -/
theorem wit_Bins_others :
    ((after (.fwdGets (toBin .fwdGets)) (way5 { st := .miA } [toBin .fwdGets])).net.map CohMsg.type) = [.wbCross]
      ∧ ((after (.recall (toBin .recall)) (way5 { st := .oiA } [toBin .recall])).net.map CohMsg.type) = [.wbCross]
      ∧ ((after (.inv (toBin .inv)) { base with net := [toBin .inv] }).net.map CohMsg.type) = [.invAck]
      ∧ ((after (.recall (toBin .recall)) { base with net := [toBin .recall] }).net.map CohMsg.type) = [.recallAck]
      ∧ ((after (.inv (toBin .inv)) (way5 { st := .smAD } [toBin .inv])).bins.get {} 5).st = .imAD
      ∧ ((after (.fwdGetm (toBin .fwdGetm)) (way5 { st := .omA, dirty := 1, valid := 1 } [toBin .fwdGetm])).bins.get {} 5).st = .imAD
      ∧ ((after (.grant { toBin .grant with st := 1, need := 1 })
          (way5 { st := .isA, got := 1 } [{ toBin .grant with st := 1, need := 1 }])).net.map CohMsg.type) = [.done]
      ∧ ((after (.dataF { toBin .dataF with dst := 8 }) { base with net := [{ toBin .dataF with dst := 8 }] }).net.map CohMsg.dst) = [1] := by
  decide +kernel

/-! ## Registers, range steps, hbmStacks -/

theorem wit_Registers :
    let s : State := { up with mills := [(0, { wbCrosses := 1, nacks := 2, holdWaits := 3 })] }
    let t := after (.rcFieldRead (.dev 0) 0x2000018 8) s
    3 ≤ s.boot.stage ∧ (t.port 0).devReply = some 0x0001000200030004 ∧ (t.mill 0).nacks = 0
      ∧ ((after (.rcFieldRead (.dev 0) 0x2000018 4) s).mill 0).nacks = 2 := by decide +kernel

theorem wit_Registers_dead :
    let s : State := { base with boot := { base.boot with stage := 1 } }
    s.fnUp 0 0 = true ∧ accessOk 0x800000 8 = true ∧ s.srcReaches (.pf 0) = true ∧ s.offLive (.pf 0) 0x800000 = false
      ∧ stays (.registerWrite (.pf 0) 0x800000 8 8) s = true ∧ stays (.registerWrite (.pf 0) 0x20010 2 8) base = true := by decide +kernel

theorem wit_Registers_stack :
    let s : State := { base with hbmStacks := [(23, { hotSeen := true })] }
    s.srcReaches (.pf 0) = true ∧ (8 : Word).getLsbD 3 = true
      ∧ ((after (.registerWrite (.pf 0) (0x800000 + 16 * 23) 8 8) s).stack 23).hotSeen = false := by decide +kernel

def ranged (g : RangeRun) : State :=
  mapped (running { pol := 2, ranges := [{ limit := 1048576 }] } { ranges := [(0, g)] })

theorem wit_Ranges :
    let g : RangeRun := { started := true, base := 0x200000, length := 1024, op := 3, level := 1 }
    (ranged g).schedule 0 = some { pol := 2, ranges := [{ limit := 1048576 }] } ∧ (ranged g).held 0x2000 2 = false
      ∧ ((after (.discard 2 0 0) (ranged g)).reqs.map fun r => (r.op, r.line)) = [(.range .discard true, 2048)]
      ∧ ((after (.prefetch 2 0 0) (ranged { g with op := 0 })).reqs.map HomeReq.op) = [.range .prefetch true]
      ∧ ((((after (.flush 2 0 0) (ranged { g with op := 1, lines := 1 })).pol 2).run 0).ranges.get {} 0).done = true
      ∧ ((((after (.cleanInvalidate 2 0 0) (ranged { g with op := 2, lines := 1 })).pol 2).run 0).ranges.get {} 0).done = true := by
  decide +kernel

theorem wit_Ranges_record : rangeOk (leBytes 8 0x200000 ++ leBytes 8 1024 ++ leBytes 2 0x0103 ++ List.replicate 14 0) = true := by
  decide +kernel

/-- A granule without a permission is refused once, and its lines are passed. -/
theorem wit_Ranges_denied :
    let s := ranged { started := true, base := 0x400000, length := 1024, op := 1, level := 1 }
    (s.translate (.porter 0 0 2 0 256) 2 0x400000 3 0).1 = .wait ∧
      let s' := { ranged { started := true, base := 0x200000, length := 1024, op := 3, level := 1 } with
        land := { caches := [(64, [{ pol := 2, index := 1, value := BitVec.ofNat 64 (2 ^ 63 + 2 ^ 59 + 2 * 2 ^ 49 + 2 ^ 9) }])] } }
      (s'.translate (.porter 0 0 2 0 256) 2 0x200000 4 0).1 = .denied ∧ codes (after (.discard 2 0 0) s') = [.permission] := by
  decide +kernel

/-- PREFETCH at LEVEL 0 takes a line that the Bin holds, and waits for one that cannot be asked for yet. -/
theorem wit_Ranges_bin :
    let g : RangeRun := { started := true, base := 0x200000, length := 1024 }
    let c : Charter := { pols := [{ port := 0 }, { port := 1 }, { port := 0, vf := 1 }], resources := [{ type := 3, b1 := 2, b2 := 0, b3 := 0 }] }
    let s := { ranged g with img := some { schedules := [{ pol := 2, ranges := [{ limit := 1048576 }] }], charter := c } }
    let u := s.binRead 0 2 2048 0xFF 0
    (s.translate (.porter 0 0 2 0 256) 2 0x200000 3 0).1 = .ok (BitVec.ofNat 64 (2 ^ 63 + 2 ^ 60 + 2 ^ 59 + 2 * 2 ^ 49 + 2 ^ 9)) 0x200000 ∧ (u.binFind 0 2 2048).isSome = true
      ∧ (((after (.prefetch 2 0 0) s).pol 2).run 0).ranges.get {} 0 = { g with lines := 1 } := by decide +kernel

/-- The record at the step's operand: one line to discard at LEVEL 1; op 4 is malformed. -/
theorem wit_Ranges_begin :
    let r : Run := { m := { operands := [(0, 0x200000)] } }
    let raw := fun (op : Nat) => leBytes 8 0x200000 ++ leBytes 8 1024 ++ leBytes 1 op ++ leBytes 1 1
    let s := fun (op : Nat) => { mapped (running { pol := 2, ranges := [{ limit := 1048576 }] } r) with
      mem := memWrite [] 0x200000 (raw op) }
    (s 3).mayBegin 2 0 (.range 0) = true
      ∧ (((after (.discard 2 0 0) (s 3)).pol 2).run 0).ranges.get {} 0
        = { started := true, base := 0x200000, length := 1024, op := 3, level := 1, lines := 1, outstanding := 1 }
      ∧ codes (after (.discard 2 0 0) (s 4)) = [.manifestReject] := by decide +kernel

theorem wit_Ranges_discard :
    let r : HomeReq := { id := 9, op := .range .discard true, line := 5, pol := 2, gen := 0 }
    base.homeFenced 5 = false ∧ base.stackFenced 5 = false ∧ base.granFind 5 = none ∧ (base.perform r).mem = [] := by decide +kernel

/-- Stack 0 trained, at 20 degrees. -/
def stacked (f : Stack → Stack) : State := { base with hbmStacks := [(0, f { trained := true, temp := 20 })] }

theorem wit_Stacks_lines :
    let e : Byte → QEntry := fun b => .bytes (List.replicate 512 b)
    let s : State := { stacked id with quays := [(48, { entries := [e 7, e 8] })] }
    s.hbmLine 0 0 = some 0 ∧ ((after (.hbmRead 0 0) s).quay 240).entries.length = 2
      ∧ (s.quay 48).entries = e 7 :: e 8 :: [] := by decide +kernel

theorem wit_Stacks_refresh :
    (stacked id).stackUp 0 = true ∧ ((after (.hbmRefresh 0 63) (stacked fun x => { x with rate := 1 })).stack 0).pcRate = [(63, 1)] := by
  decide +kernel

/-- The second refresh of a pseudo-channel is charged; a stack that is not up reports its temperature only. -/
theorem wit_Stacks_charged :
    let s := fun (n : Nat) => stacked fun x => { x with pcRate := [(63, n)] }
    (s 1).stackUp 0 = true ∧ ((s 1).stack 0).pcRate.get 0 63 ≠ 0 ∧ ((s 0).stack 0).pcRate.get 0 63 = 0
      ∧ (stacked fun x => { x with fenced := true }).stackUp 0 = false
      ∧ ((after (.stackTempRead 0 110) (stacked fun x => { x with fenced := true })).stack 0).temp = 110 := by decide +kernel

/-- 85 degrees keeps the rate; 99 takes it to its third row and the ceiling to 40; 105 fences the stack. -/
theorem wit_Stacks_readings :
    ((after (.stackTempRead 0 85) (stacked id)).stack 0).ceiling = 64
      ∧ ((after (.stackTempRead 0 99) (stacked id)).stack 0).rate = 2 ∧ ((after (.stackTempRead 0 99) (stacked id)).stack 0).ceiling = 40
      ∧ codes (after (.stackTempRead 0 104) (stacked id)) = [.stackHot, .stackHot]
      ∧ ((after (.stackTempRead 0 105) (stacked id)).stack 0).fenced = true := by decide +kernel

theorem wit_Stacks_fallback :
    let cool := fun x : Stack => { x with rate := 2, coolSince := some 0, ceiling := 40 }
    ((after (.refreshRateFallback 0) { stacked cool with clock := 1000000 }).stack 0).rate = 1
      ∧ ((after (.refreshRateFallback 0) { stacked (fun x => { x with rate := 1, lowSince := some 0 }) with clock := 1000000 }).stack 0).rate = 0
      ∧ ((after (.stackCeilingRelease 0) { stacked cool with clock := 1000000 }).stack 0).ceiling = 64 := by decide +kernel

/-! ## Translation -/

/-- A walk of polder 2's Porter 0 for the granule at 2 MiB. -/
def walk (st : WalkSt) : Walk := { id := 9, engine := .porter 0 0 2 0 0, pol := 2, gen := 0, va := 0x200000, acc := 0, st := st }
def walking (entries : SMap Word) (st : WalkSt) : State := { base with land := { entries := entries, walks := [walk st] } }

theorem wit_Walks :
    let e := (mapped base).landEntry 1
    eValid e = true ∧ (walking [(1, e)] .walking).isLate 2 0 false = false
      ∧ ((after (.landWalk 9) (walking [(1, e)] .walking)).land.walks.map Walk.st) = [.ready]
      ∧ ((after (.landWalk 9) (walking [] .walking)).land.walks.map Walk.st) = [.missSent] := by decide +kernel

theorem wit_Misses :
    let s := walking [] .missSent
    let u : State := { s with land := { s.land with misses := [{ pol := 2, index := 1, serial := 77 }] } }
    s.supOf 2 = some 0 ∧ s.openMiss 2 1 = none ∧ s.missRoom 2 = true ∧ codes (after (.translationMiss 9) s) = [.translationMiss]
      ∧ u.openMiss 2 1 = some { pol := 2, index := 1, serial := 77 } ∧ codes (after (.translationMiss 9) u) = [.joined] := by decide +kernel

/-- R239: the table is full with 256 entries of a polder, of which two are its own. -/
def full : State := { base with land := { walks := [walk .missSent], misses := (List.range 256).map fun i => ⟨2, i + 5, i⟩ } }

theorem wit_Misses_room :
    full.missRoom 2 = false ∧ ((after (.translationMiss 9) full).land.walks.map Walk.st) = [.noEntry]
      ∧ (walking [] .noEntry).missRoom 2 = true ∧ (after .missEntryFreed (walking [] .noEntry)).land.misses.length = 1
      ∧ (walking [] .noWalker).walkerFree 0 2 = true
      ∧ ((after (.walkerFreed 0) (walking [] .noWalker)).land.walks.map Walk.st) = [.walking] := by decide +kernel

/-- Port A's PF edits entry 1 of its share, 1 to 511. -/
def editing (v : Word) (r : LandRegs) : State := { base with
  img := some { charter := { base.charter with shareA := (1, 512)
                                               resources := [{ type := 0, b1 := 2, b2 := 0, w4 := 0, w8 := 0xFFFFFFFF }] } }
  land := { regs := [(0, { r with idx := 1, val := v })] } }

theorem wit_Edits_refused :
    (editing 1 {}).pfWrites (wr 1) offLandCtl = some 0 ∧ (editing 1 {}).editStatus 0 1 1 = 2 ∧ (wr 1).bit 0 = true
      ∧ ((after (.landEdit (wr 1)) (editing 1 {})).landRegs 0).status = 2
      ∧ stays (.landEdit (wr 1)) (editing 1 { busy := true }) = true := by decide +kernel

/-- Clearing an entry is accepted and busy; it completes. -/
theorem wit_Edits_accepted :
    (editing 0 {}).editStatus 0 1 0 = 0 ∧ ((after (.landEdit (wr 1)) (editing 0 {})).landRegs 0).busy = true
      ∧ (editing 0 { busy := true }).editPending 0 0 = false
      ∧ ((after (.landEditComplete 0) (editing 0 { busy := true })).landRegs 0).busy = false := by decide +kernel

/-- An access to the old frame that waits at its home keeps the edit open. -/
theorem wit_Edits_pending :
    let old := (mapped base).landEntry 1
    let s : State := { base with land := { regs := [(0, { busy := true, old := old })] }
                                 reqs := [{ id := 9, op := .read 1, line := 2048, pol := 2, gen := 0 }] }
    s.editPending 0 old = true ∧ stays (.landEditComplete 0) s = true := by decide +kernel

theorem wit_Resumes :
    let s : State := { walking [] (.waiting 77) with land := { walks := [walk (.waiting 77)], misses := [{ pol := 2, index := 1, serial := 77 }] } }
    s.pfWrites (wr 77) offLandResume = some 0 ∧ (wr 77).hits 0 = true ∧ (wr 77).bit 16 = false ∧ (wr (77 + 65536)).bit 16 = true
      ∧ ((after (.landResume (wr 78)) s).landRegs 0).stray = 1 ∧ (after (.landResume (wr 77)) s).land.misses = []
      ∧ ((after (.landAbort (wr (77 + 65536))) s).land.walks.map Walk.st) = [.aborted] := by decide +kernel

theorem wit_Resumes_records : ∀ p, (State.pol { base with pols := [] } p).records = [] := fun _ => rfl

theorem wit_Hwin :
    base.pfWrites (wr 0x600001) offLandHwin = some 0 ∧ ((after (.landHwinLock (wr 0x600001)) base).landRegs 0).hwin = 0x600000
      ∧ ((after (.landHwinLock (wr 0x600001)) { base with land := { regs := [(0, { lock := true })] } }).landRegs 0).hwin = 0 := by
  decide +kernel

/-! ## Host interface and polders -/

/-- `mapped base` with port A's VF 1 enabled, MODULE_ID 0, and an OPEN ring nowhere. -/
def host : State := { mapped base with
  ports := [(0, { rate := 5, fns := [(0, { mse := true }), (1, { mse := true })], vfEnable := true, numVfs := 1, confirmed := 0xFFFF })] }
def vf1 : Src := .vf 0 1

theorem wit_Host_line : host.restingLine 2 0x800 := by unfold State.restingLine; decide +kernel

theorem wit_Host_read :
    host.fnPolder 0 1 = some 2 ∧ host.fnUp 0 1 = true ∧ host.fnReaches 0 1 = true ∧ host.held (srcBar2 0) 2 = false
      ∧ host.bar2Verdict 0 1 2 0 0x200000 8 = .ok [⟨0x200000, 8, 0⟩] ∧ ((host.port 0).bar2 = [])
      ∧ host.bar2Verdict 0 1 2 0 0x400000 8 = .refused ∧ host.bar2Verdict 0 1 2 0 (2 ^ 36) 8 = .undecoded
      ∧ ((after (.hostBar2Read vf1 0x200000 8) host).quay 560).entries = [.host (.completion 1 (List.replicate 8 0) 0 false)]
      ∧ codes (after (.hostBar2Read vf1 0x400000 8) host) = [.permission] := by decide +kernel

/-- The registers' part of local space is reserved; a fenced Keel refuses. -/
theorem wit_Host_stops :
    let s : State := { host with keels := [(0, { fenced := true }), (1, { fenced := true }), (2, { fenced := true }), (3, { fenced := true })] }
    host.bar2Verdict 0 0 0 0 (2 ^ 42 - 8) 8 = .reserved ∧ s.bar2Verdict 0 1 2 0 0x200000 8 = .fenced
      ∧ codes (after (.hostBar2Read (.pf 0) (2 ^ 42 - 8) 8) host) = [.permission]
      ∧ codes (after (.hostBar2Write vf1 0x200000 [7] false) s) = [.fencedTarget] := by decide +kernel

theorem wit_Host_write :
    (∀ q w, host.region 0x200000 ≠ .host q w) ∧ host.bar2Verdict 0 1 2 1 0x200000 1 = .ok [⟨0x200000, 1, 0⟩]
      ∧ host.bar2Verdict 0 1 2 1 0x400000 1 = .refused
      ∧ (after (.hostBar2Write vf1 0x200000 [7] false) host).mem = [(0x200000, 7)]
      ∧ codes (after (.hostBar2Write vf1 0x400000 [7] false) host) = [.permission] :=
  ⟨fun _ _ h => absurd (by decide +kernel : (match host.region 0x200000 with | .host _ _ => false | _ => true) = true)
    (by rw [h]; simp), by decide +kernel⟩

theorem wit_Host_window :
    (host.pol 2).port = 0 ∧ host.hostDown 0 = false ∧ ((host.port 0).reads = [])
      ∧ ((after (.hostWindowRead 0 2 1016 8 (.hand 0 0)) host).port 0).reads.map HostRead.addr = [1016]
      ∧ ((after (.hostWindowWrite 0 2 0 [7] false) host).quay 560).entries.length = 1
      ∧ codes (after (.hostWindowWrite 0 2 0 [7] false) { host with ports := [] }) = [.fencedTarget] := by decide +kernel

def hostRead (got : Nat) : HostRead := { tag := 3, fn := 1, pol := 2, gen := 0, addr := 0, len := 2, since := 0, who := .none
                                         got := List.replicate got (7, false) }
def readOut (got : Nat) : State := { host with ports := host.ports.map fun e => (e.1, { e.2 with reads := [hostRead got] }) }

theorem wit_Host_completion :
    ((after (.hostCompletion 0 3 [8] 0 false) (readOut 0)).port 0).reads.map HostRead.got = [[(8, false)]]
      ∧ ((after (.hostCompletion 0 3 [8] 0 false) (readOut 1)).port 0).reads = []
      ∧ ((((after (.hostCompletion 0 3 [8] 0 false) host).port 0).fn 0).aer.getLsbD 16) = true := by decide +kernel

theorem wit_Host_timeout :
    (hostRead 0).since + timeoutLeast (field ((readOut 0).devCtl2 0) 0 4) = 50000
      ∧ codes (after (.hostTimeout 0 3) { readOut 0 with clock := 50000 }) = [.hostTimeout]
      ∧ stays (.hostTimeout 0 3) { readOut 0 with clock := 49999 } = true := by decide +kernel

theorem wit_Resets_port :
    let s : State := { host with ports := host.ports.map fun e => (e.1, { e.2 with perst := true }) }
    s.boot.stage0 = true ∧ s.boot.loading ≠ some 0 ∧ (s.port 0).inReset = false ∧ (s.port 0).rate ≠ 0 ∧ s.fnUp 0 0 = true
      ∧ ((after (.portReset 0 .hotReset) s).pol 2).gen = 1 ∧ ((after (.portReset 0 .perst) s).port 0).perst = false
      ∧ ((after (.portReset 0 .dlDown) s).port 0).rate = 0 ∧ ((after (.refclkLoss 0) s).port 0).refclk = false
      ∧ ((after (.pfFlr 0) s).port 0).rate = 5 := by decide +kernel

theorem wit_Resets_absorbed :
    let s : State := { base with ports := [(0, { rate := 5, inReset := true, resetKind := some .dlDown })] }
    ((after (.portReset 0 .hotReset) s).port 0).resets = 1 ∧ (after (.resetComplete 0) s).port 0 = { rate := 5 } := by decide +kernel

theorem wit_Resets_vf :
    host.vfLive 0 1 = true ∧ (host.port 0).vfResets.contains 1 = false ∧ ((after (.vfFlr 0 1) host).pol 2).gen = 1
      ∧ ((after (.perstRelease 1) host).port 1).perst = true := by decide +kernel

theorem wit_Resets_vfComplete :
    let s : State := { host with ports := host.ports.map fun e => (e.1, { e.2 with vfResets := [1] }) }
    (s.port 0).inReset = false ∧ ((after (.resetComplete 0) s).port 0).vfResets = []
      ∧ codes (after (.resetComplete 0) s) = [.peerPortReset] := by decide +kernel

theorem wit_Link_up :
    let s : State := { base with ports := [(0, { perst := true })] }
    let u := after (.pcieLinkUp 0 6 8 true) s
    (u.port 0).rate = 6 ∧ (u.port 0).flit = true ∧ ((after (.l0pWidthChange 0 4) u).port 0).l0p = true := by decide +kernel

theorem wit_Config :
    host.fnUp 0 0 = true ∧ host.vfLive 0 2 = false
      ∧ ((after (.configRequest 0 2 true 0 0 0xF) host).quay 560).entries = [.host (.completion 2 [] 1 false)]
      ∧ host.cfgKnown 0 0 0 = (0xFFFFFFFF, 0x24001F7A) ∧ ((after (.configRequest 0 0 false 0 0 0xF) host).quay 560).entries.length = 1 := by decide +kernel

theorem wit_Functions :
    host.fnUp 0 1 = true ∧ (((after (.d3hotEntry 0 1) host).port 0).fn 1).d3 = true
      ∧ (((after (.d0Return 0 1) (after (.d3hotEntry 0 1) host)).port 0).fn 1).d3 = false
      ∧ stays (.barResize 0 false 42) host = true
      ∧ (after (.barResize 0 false 42) { base with ports := [(0, { rate := 5 })] }).bar2Size 0 0 = 2 ^ 42
      ∧ (after (.barResize 0 true 45) { base with ports := [(0, { rate := 5 })] }).bar2Size 0 1 = 2 ^ 45 := by decide +kernel

theorem wit_Functions_vfs :
    ((after (.vfEnable 0 31) base).port 0).numVfs = 31 ∧ ((after (.vfDisable 0) host).pol 2).state = 1 := by decide +kernel

theorem wit_Functions_msix :
    let f : Func := { mse := true, msixEnable := true, pba := 8 }
    let s : State := { base with ports := [(0, { rate := 5, fns := [(0, f)] })] }
    ((((after (.msixUnmask 0 1 1) host).port 0).fn 1).msix.get {} 1).mask = false
      ∧ (((after (.msixUnmask 0 0 3) s).port 0).fn 0).pba = 0 ∧ ((after (.msixUnmask 0 0 3) s).quay 560).entries.length = 1
      ∧ ((((after (.msixEntryWrite 0 1 0x70010 8 0xFEE00007) host).port 0).fn 1).msix.get {} 1).addr = 0xFEE00004 := by decide +kernel

theorem wit_Mailboxes :
    host.fnUp 0 0 = true ∧ ((after (.doeDiscovery 0 0) host).port 0).doe = [1, 0, 0, 1]
      ∧ ((after (.doeDiscovery 0 3) host).port 0).doe = [0x7A, 0x1F, 3, 0]
      ∧ leAt (leBytes 4 1 ++ List.replicate 36 0) 0 4 = 1 ∧ ((after (.attestReport 0 []) host).port 0).doe = []
      ∧ (host.port 0).accepted = false ∧ (0 : Word) &&& ~~~host.offer = 0
      ∧ ((after (.featureAccept 0 0) { host with ports := [(0, { rate := 5, accepted := true, confirmed := 5 })] }).port 0).confirmed = 5
      ∧ ((after (.doeAbort 0) host).port 0).doeReady = false := by decide +kernel

/-- R289: Discovery of index 2 by configuration writes; a type the table does not list has a response of zero length. -/
theorem test_doe_mailbox :
    let put := fun (off : Nat) (v : BitVec 32) (s : State) => after (.configRequest 0 0 true off v 15) s
    let ask := fun (type : BitVec 32) => put 0x308 0x80000000 (put 0x310 2 (put 0x310 3 (put 0x310 type host)))
    ((ask 1).port 0).doe = [0x7A, 0x1F, 2, 3] ∧ ((ask 1).port 0).doeReady = true ∧ ((ask 1).port 0).doeIn = []
      ∧ ((ask 0x00091F7A).port 0).doe = [] ∧ ((ask 0x00091F7A).port 0).doeReady = true := by decide +kernel

/-- Polder 2 in a state; the write of a command to POL_CTL_2. -/
def poldered (f : Polder → Polder) : State := { host with pols := [(0, { state := 2, port := 0 }), (2, f { state := 2, port := 0, vf := 1 })] }
def polCmd (c : Nat) : RegAcc := wr (4096 * c + 1)

theorem wit_Polders_goes :
    (host.ownerWrites 2 (polCmd 7) (offPolCtl 2) = true) ∧ (polCmd 7).bit 0 = true ∧ field (polCmd 7).value.toNat 12 4 = 7
      ∧ (host.pol 2).busy = false ∧ host.mayRun 0 = true ∧ (host.port 0).confirmed.getLsbD 3 = true := by decide +kernel

theorem wit_Polders_open :
    ((after (.polOpen 2 (polCmd 1)) (poldered fun q => { q with state := 1 })).pol 2).state = 2
      ∧ ((after (.polClose 2 (polCmd 2)) (poldered fun q => { q with gen := 255 })).pol 2).gen = 0
      ∧ ((after (.polBump 2 (polCmd 3)) (poldered id)).pol 2).gen = 1
      ∧ ((after (.polCmdRefused 2 (polCmd 8)) (poldered id)).pol 2).status = 1
      ∧ ((after (.polCmdRefused 2 (polCmd 0)) (poldered id)).pol 2).status = 1
      ∧ (poldered id).polCheck 2 1 = 1 ∧ ((after (.polOpen 2 (polCmd 1)) (poldered id)).pol 2).status = 1
      ∧ ((after (.polSave 2 (polCmd 6)) (poldered fun q => { q with state := 4, running := [(0, {})] })).pol 2).status = 2 := by decide +kernel

theorem wit_Polders_freeze :
    let s := poldered fun q => { q with state := 3, freezeAsked := true, busy := true, running := [(0, {})] }
    let t := after (.freezeEffect 2) s
    ((after (.polFreeze 2 (polCmd 4)) (poldered id)).pol 2).state = 3 ∧ s.tide.boundary = some s.alm.now
      ∧ ((t.pol 2).run 0).suspended = true ∧ t.frozenOut 2 = true ∧ ((after (.freezeComplete 2) t).pol 2).state = 4 := by decide +kernel

/-- A store on its way to its home holds the completion back. -/
theorem wit_Polders_inFlight :
    let s := poldered fun q => { q with state := 3, busy := true, frozenBit := true, mode := 1, running := [(0, {})] }
    s.frozenOut 2 = false ∧ stays (.freezeComplete 2) s = true := by decide +kernel

theorem wit_Polders_thaw :
    let s := poldered fun q => { q with state := 4, frozenBit := true, thawAsked := true, running := [(0, { suspended := true })] }
    ((after (.polThaw 2 (polCmd 5)) (poldered fun q => { q with state := 4 })).pol 2).thawAsked = true
      ∧ (((after (.thawEffect 2) s).pol 2).run 0).suspended = false := by decide +kernel

theorem wit_Polders_thaw_links : ∀ n, ((poldered id).link n).heldTxns = [] := fun _ => rfl

/-- A SAVE and a RESTORE are BUSY until the next cycle; a clear of VF Enable before it ends the SAVE with STATUS 5 (R313). -/
theorem wit_Polders_busy :
    let s := poldered fun q => { q with state := 4, saveBase := 0x200000 }
    let t := after (.polSave 2 (polCmd 6)) s
    let u := after (.polRestore 2 (polCmd 7)) (poldered fun q => { q with state := 1, saveBase := 0x200000 })
    (t.pol 2).busy = true ∧ (t.pol 2).state = 4 ∧ (u.pol 2).busy = true ∧ (t.idle.pol 2) = t.pol 2
      ∧ (∀ q ∈ (List.range 64), q ≠ 2 → (t.idle.pol q).busy = false)
      ∧ ((t.advanceGen 2 false).pol 2).status = 5 ∧ ((t.advanceGen 2 false).pol 2).busy = false
      ∧ t.pending = [] := by decide +kernel

theorem wit_Polders_save :
    (poldered id).recordPlace 0x200000 = true ∧ (poldered id).recordPlace (2 ^ 48) = false
      ∧ ((after (.polSave 2 (polCmd 6)) (poldered fun q => { q with state := 4, saveBase := 2 ^ 48 })).pol 2).status = 4
      ∧ ((after (.polRestore 2 (polCmd 7)) (poldered fun q => { q with state := 1, saveBase := 2 ^ 48 })).pol 2).status = 4 := by
  decide +kernel

/-! A record that RESTORE accepts: a body, then the digest of the body. -/

theorem leBytes_length (n v : Nat) : (leBytes n v).length = n := by
  induction n generalizing v with
  | zero => rfl
  | succ n ih => simp [leBytes, ih]

theorem shake256_length (m : List Byte) : (Crypto.shake256 m).length = 64 := by
  simp [Crypto.shake256, leBytes_length]

/-- VERSION 1 and zeros. -/
def bodyOf (n : Nat) : List Byte := 1 :: List.replicate n 0

theorem bodyOf_length (n : Nat) : (bodyOf n).length = n + 1 := by simp [bodyOf]

def recordBody : List Byte := bodyOf 0xFFBF

theorem recordBody_length : recordBody.length = 0xFFC0 := bodyOf_length _

/-- Polder 2 CLOSED, with a memory and its record at 2 MiB. -/
def saved (m : List Host.Cell) : State :=
  { poldered (fun q => { q with state := 1, saveBase := 0x200000 }) with mem := m }

theorem peek_saved (m : List Host.Cell) (n : Nat) : (saved m).peek 0x200000 n = memRead m 0x200000 n := by
  unfold State.peek memRead
  apply List.map_congr_left
  intro i _
  show (saved m).homeByte _ _ = _
  have : (saved m).granFind ((0x200000 + i) / 1024) = none := by
    unfold State.granFind; split <;> rfl
  unfold State.homeByte
  rw [this]
  show memByte m _ = _
  congr 1
  omega

def goodRecord : List Byte := recordBody ++ Crypto.shake256 recordBody

theorem goodRecord_length : goodRecord.length = 65536 := by
  rw [goodRecord, List.length_append, recordBody_length, shake256_length]

theorem slice_append_left (a b : List Byte) : slice (a ++ b) 0 a.length = a := by simp [slice]

theorem slice_append_right (a b : List Byte) : slice (a ++ b) a.length b.length = b := by simp [slice]

theorem slice_bodyOf (N off n : Nat) (d : List Byte) (h : off + n ≤ N + 1) (h0 : 1 ≤ off) :
    slice (bodyOf N ++ d) off n = List.replicate n 0 := by
  obtain ⟨k, rfl⟩ : ∃ k, off = k + 1 := ⟨off - 1, by omega⟩
  have h1 : (List.replicate N (0 : Byte)).drop k = List.replicate (N - k) 0 := by simp
  simp only [slice, bodyOf, List.cons_append, List.drop_succ_cons]
  rw [List.drop_append_of_le_length (by rw [List.length_replicate]; omega), h1,
    List.take_append_of_le_length (by rw [List.length_replicate]; omega), List.take_replicate,
    Nat.min_eq_left (show n ≤ N - k by omega), List.length_replicate, Nat.sub_self, List.replicate_zero, List.append_nil]

theorem slice_version (N : Nat) (d : List Byte) (h : 4 ≤ N) : slice (bodyOf N ++ d) 0 4 = [1, 0, 0, 0] := by
  obtain ⟨k, rfl⟩ : ∃ k, N = k + 3 := ⟨N - 3, by omega⟩
  rfl

theorem recordGood_of (m : List Host.Cell) (r b : List Byte) (h1 : slice r 0 0xFFC0 = b)
    (h2 : slice r 0xFFC0 64 = Crypto.shake256 b) (h3 : slice r 0x20 32 = List.replicate 32 0) (h4 : leAt r 0xE 1 = 0)
    (h5 : leAt r 0 4 = 1) : ((saved m).updPol 2 fun q => { q with cmd := 7, mode := 0 }).recordGood 2 r = true := by
  unfold State.recordGood
  rw [h1, h2, h3, h4, h5]
  simp only [decide_true, Bool.true_and]
  exact (by decide +kernel : (decide (List.replicate 32 0 = slice ((((saved []).updPol 2 fun q =>
      { q with cmd := 7, mode := 0 }).img.map Image.measure).getD []) 0 32)
    && decide (0 = (((saved []).updPol 2 fun q => { q with cmd := 7, mode := 0 }).pol 2).ringSize)
    && ((saved []).updPol 2 fun q => { q with cmd := 7, mode := 0 }).localMem
      (((saved []).updPol 2 fun q => { q with cmd := 7, mode := 0 }).pol 2).ringBase) = true)

theorem goodRecord_good (m : List Host.Cell) :
    ((saved m).updPol 2 fun q => { q with cmd := 7, mode := 0 }).recordGood 2 goodRecord = true := by
  have h1 : slice goodRecord 0 recordBody.length = recordBody := slice_append_left _ _
  have h2 : slice goodRecord recordBody.length (Crypto.shake256 recordBody).length = Crypto.shake256 recordBody :=
    slice_append_right _ _
  rw [recordBody_length] at h1 h2
  rw [shake256_length] at h2
  refine recordGood_of m goodRecord recordBody h1 h2 (slice_bodyOf _ _ _ _ (by omega) (by omega)) ?_ ?_
  · rw [leAt, show slice goodRecord 0xE 1 = List.replicate 1 0 from slice_bodyOf _ _ _ _ (by omega) (by omega)]; rfl
  · rw [leAt, show slice goodRecord 0 4 = [1, 0, 0, 0] from slice_version _ _ (by omega)]; rfl

theorem peek_goodRecord :
    (saved (memWrite [] 0x200000 goodRecord)).peek 0x200000 65536 = goodRecord := by
  have h := memRead_memWrite goodRecord 0x200000
  rw [goodRecord_length] at h
  exact (peek_saved _ _).trans h

theorem recordPlace_saved (m : List Host.Cell) (b : Nat) : (saved m).recordPlace b = (saved []).recordPlace b := rfl

theorem wit_Polders_restore_place (m : List Host.Cell) : (saved m).recordPlace 0x200000 = true := by
  rw [recordPlace_saved]; decide +kernel

theorem wit_Polders_restore_clean (m : List Host.Cell) : (saved m).peekPoison 0x200000 65536 = false :=
  (by decide +kernel : (saved []).peekPoison 0x200000 65536 = false)

/-- What RESTORE's last clause assumes holds of a memory. -/
theorem wit_Polders_restore :
    ∃ m : List Host.Cell, (saved m).recordPlace 0x200000 = true ∧ (saved m).peekPoison 0x200000 65536 = false
      ∧ ((saved m).updPol 2 fun q => { q with cmd := 7, mode := 0 }).recordGood 2 ((saved m).peek 0x200000 65536) = true :=
  ⟨_, wit_Polders_restore_place _, wit_Polders_restore_clean _,
    (congrArg (State.recordGood _ 2) peek_goodRecord).trans (goodRecord_good _)⟩

theorem wit_Polders_restore_mode (m : List Host.Cell) :
    (saved m).mayRun 0 = true ∧ ((saved m).port 0).confirmed.getLsbD 3 = true ∧ ((saved m).pol 2).state = 1 :=
  (by decide +kernel : (saved []).mayRun 0 = true ∧ ((saved []).port 0).confirmed.getLsbD 3 = true ∧ ((saved []).pol 2).state = 1)

/-- The same polder while its RESTORE runs, on a module whose Almanac does not count. -/
def restoring (m : List Host.Cell) : State :=
  { (saved m).updPol 2 (fun q => { q with cmd := 7, busy := true }) with boot := {}, alm := {}, clock := 0 }

/-- The cycle in which it ends takes 4 ns and nothing else. -/
theorem restoring_idle (m : List Host.Cell) : (restoring m).idle = { restoring m with clock := 4 } := by
  have hc : (restoring m).counts = false := rfl
  have hp : (restoring m).alm.pps = false := rfl
  have ht : (restoring m).tick = { restoring m with clock := 4 } := by
    unfold State.tick
    simp only [hc]
    unfold State.ppsPass
    simp only [State.counts]
    rfl
  unfold State.idle
  simp only [hc, Bool.false_and, ht]
  rfl

theorem wit_Polders_restoring :
    ∃ m, (restoring m).pending = [] ∧ ((restoring m).pol 2).busy = true ∧ ((restoring m).pol 2).cmd = 7
      ∧ (restoring m).idle.pol 2 = (restoring m).pol 2
      ∧ (restoring m).idle.peekPoison 0x200000 65536 = false
      ∧ (restoring m).idle.recordGood 2 ((restoring m).idle.peek 0x200000 65536) = true := by
  refine ⟨memWrite [] 0x200000 goodRecord, ?_⟩
  rw [restoring_idle]
  refine ⟨rfl, by decide +kernel, by decide +kernel, rfl, by decide +kernel, ?_⟩
  have h : ∀ m n, ({ restoring m with clock := 4 } : State).peek 0x200000 n = (saved m).peek 0x200000 n := fun _ _ => rfl
  rw [h, peek_goodRecord]
  exact goodRecord_good _

/-! ## Zelpel Link -/

/-- Port 3 as given, its engine lit; `up` otherwise. -/
def zl (f : LinkPort → LinkPort) : State := { base with links := [(3, f { state := 2, version := 2 })], engines := [(0, { lightOk := true, laserEn := true })] }

theorem wit_Optics_light :
    ((zl id).engine 0).lightOk = true ∧ ((after (.laserLost 0) (zl id)).link 3).state = 3
      ∧ ((after (.laserLost 0) (zl fun l => { l with state := 4 })).link 3).state = 4
      ∧ ((after (.lightRestored 0) (after (.laserLost 0) (zl id))).engine 0).lightOk = true := by decide +kernel

/-- The ports of engine 0 as given, all port A's. -/
def zlOwned (f : LinkPort → LinkPort) : State := { zl f with img := some { charter := { base.charter with zlA := 0xFF } } }

theorem wit_Optics_shutdown :
    (zlOwned id).pfWrites (wr 1) (offOe 0) = some 0 ∧ (zlOwned id).oeMay 0 0 true = true ∧ (zl id).oeMay 0 0 true = false
      ∧ ((after (.oeShutdown 0 (wr 1)) (zlOwned id)).link 3).state = 4 ∧ stays (.oeShutdown 0 (wr 1)) (zl id) = true
      ∧ ((after (.oeShutdownClear 0 (wr 0)) (after (.oeShutdown 0 (wr 1)) (zlOwned id))).link 3).state = 0 := by decide +kernel

theorem wit_Optics_temperature :
    ((after (.oeTempRead 0 94) (zl id)).engine 0).shutdown = false ∧ ((after (.oeTempRead 0 95) (zl id)).link 3).state = 4 := by
  decide +kernel

theorem wit_Ports_train :
    let s := zl fun l => { l with state := 3 }
    let t := after (.linkTraining 3) s
    s.mayTrain 3 = true ∧ (t.link 3).trainOffer = 2 ∧ ((after (.linkUp 3 { peer := 7 }) t).link 3).peer = 7 ∧ t.alm.source ≠ 4
      ∧ codes (after (.linkDown 3) (zl id)) = [.linkDown, .linkDown] := by decide +kernel

theorem wit_Ports_retrain :
    (zl fun l => { l with retrain := true }).mayTrain 3 = true
      ∧ ((after (.linkTraining 3) (zl fun l => { l with retrain := true })).link 3).state = 1 := by decide +kernel

theorem wit_Ports_downgrade :
    let s := zl fun l => { l with state := 1, trainOffer := 3 }
    ((after (.linkUp 3 { zl3Ok := false }) s).link 3).version = 2 ∧ ((after (.linkUp 3 {}) s).link 3).version = 3
      ∧ (codes (after (.linkUp 3 { zl3Ok := false }) s)).contains .linkDowngrade = true := by decide +kernel

theorem wit_Ports_written :
    (zlOwned id).pfWrites (wr 4) (offZlCtl 3) = some 0 ∧ (zlOwned id).zlMay 3 0 = true
      ∧ ((after (.retrain 3 (wr 4)) (zlOwned id)).link 3).retrain = true
      ∧ ((after (.zlPortOff 3 (wr 1)) (zlOwned id)).link 3).state = 4
      ∧ ((after (.zlPortOn 3 (wr 0)) (zlOwned fun l => { l with state := 4, off := true })).link 3).state = 0
      ∧ ((after (.zlPortLock 3 (wr 8)) (zlOwned id)).link 3).lock = true := by decide +kernel

theorem wit_Ports_limit :
    let s := { zl fun l => { l with unfitSince := some 0, exchMissing := 3 } with clock := 10000000 }
    s.fit 3 = false ∧ ((after (.portLimit 3) s).link 3).unfitSince = some 10000000 := by decide +kernel

/-- A good data flit of tide 12, slot 25: SEQ 0. -/
def flit : List Byte := flitBytes 1 2 0 0 none 12 25 (List.replicate 224 0)

theorem leNat_leBytes8 (v : Nat) (h : v < 2 ^ 64) : leNat (leBytes 8 v) = v := by
  simp only [leBytes, leNat, BitVec.toNat_ofNat]; omega
theorem slice_mid (h x b : List Byte) (n m : Nat) (hn : h.length = n) (hm : x.length = m) : slice (h ++ x ++ b) n m = x := by
  subst hn hm; simp [slice]
theorem slice_head (h x : List Byte) (n : Nat) (hn : h.length = n) : slice (h ++ x) 0 n = h := by
  subst hn; simp [slice]
theorem slice_tail (h b : List Byte) (n m : Nat) (hn : h.length = n) (hm : b.length = m) : slice (h ++ b) n m = b := by
  subst hn hm; simp [slice]
theorem flitCheck_of (h b : List Byte) (hh : h.length = 24) (hb : b.length = 224) :
    flitCheck (h ++ leBytes 8 (Crypto.crc64 (h ++ b)).toNat ++ b) = true := by
  unfold flitCheck leAt
  rw [slice_mid _ _ _ _ _ hh (leBytes_length 8 _), leNat_leBytes8 _ (BitVec.isLt _)]
  rw [slice_tail _ b 32 224 (by simp [hh, leBytes_length]) hb, List.append_assoc, slice_head _ _ _ hh]
  simp [hh, hb, leBytes_length]
theorem slice_length (b : List Byte) (o n : Nat) : (slice b o n).length = n := by
  simp only [slice, List.length_append, List.length_replicate, List.length_take]; omega
theorem wit_Flits_good : flitCheck flit = true := by
  unfold flit flitBytes
  exact flitCheck_of _ _ (by simp only [List.length_append, leBytes_length]) (slice_length _ _ _)

theorem wit_Flits_fields : flitFieldsOk flit = true ∧ flitKind flit = 1 ∧ flitSeq flit = 0 := by decide +kernel

/-- R257: slot 25 begins at cycle 32; PDMAX is 0, and 20 ns follow. -/
theorem wit_Flits_receive :
    (zl id).releaseAt 3 flit = 4096 * 12 + 32 + 20
      ∧ ((after (.flitReceive 3 flit 2 true) (zl id)).link 3).uncorrected = 1
      ∧ flitCheck (List.replicate 255 1) = false ∧ ((after (.flitReceive 3 (List.replicate 255 1) 0 false) (zl id)).link 3).crcFail = 1 := by decide +kernel

theorem wit_Flits_land :
    ((after (.nakRepeat 3) { zl (fun l => { l with lost := [(4, 0)] }) with clock := 1000 }).link 3).nakDue = [4]
      ∧ ((after (.flitRelease 3) (zl fun l => { l with landing := [⟨40960, [7]⟩] })).quay (linkRxNo 3)).entries = [.bytes [7]] := by
  decide +kernel

theorem wit_Flits_slot :
    let s := zl fun l => { l with slotTide := 10, band := [.take 1 2 3] }
    s.tideNumber = 10 ∧ s.nextSlot 3 = 0 ∧ s.counts = true ∧ ((after (.linkSlot 3) s).link 3).band = []
      ∧ ((after (.linkSlot 3) s).link 3).txSeq = 1 ∧ ((after (.linkSlot 3) s).link 3).slot = 2 := by decide +kernel

/-- Polder 2 of job 9, granted channel group 0 of Keel 0, modules 5 to 6; its state as given. -/
def zlPol (st : Nat) (f : LinkPort → LinkPort) : State := { zl f with
  pols := [(2, { state := st, port := 0, vf := 1, job := 9, lo := 5, hi := 6, rd := true, wr := true })]
  img := some { charter := { base.charter with pols := [{}, {}, { port := 0, vf := 1, groups := [1, 1, 1, 1] }] } } }
def txn (op : Nat) : Txn := { op := op, srcModule := 5, dstPol := 2, job := 9, tag := 1, data := List.replicate 32 7 }

theorem wit_Txns_requests :
    txnOk (txn 1) = true ∧ (zlPol 2 id).zlGranted (txn 1) true = true ∧ (zlPol 2 id).zlGranted (txn 2) false = true
      ∧ ((after (.zlWrite 3 (txn 1)) (zlPol 2 id)).reqs.map HomeReq.line) = [0]
      ∧ ((after (.zlRead 3 (txn 2)) (zlPol 2 id)).reqs.map HomeReq.op) = [.read 1]
      ∧ (zlPol 2 id).zlGranted { txn 1 with srcModule := 7 } true = false
      ∧ codes (after (.zlWrite 3 { txn 1 with srcModule := 7 }) (zlPol 2 id)) = [.permission] := by decide +kernel

/-- The second of two chunks is poisoned. -/
theorem wit_Txns_poison :
    (zlPol 2 id).groupPart 0 64 = false
      ∧ ((after (.zlWrite 3 { txn 1 with chunks := 2, poison := 2 }) (zlPol 2 id)).reqs.map fun r => match r.op with
          | .write bs _ bad => (bs.length, bs.headD (0, 0), bad)
          | _ => (0, (0, 0), false)) = [(32, (32, 0), true), (32, (0, 7), false)]
      ∧ (zlPol 2 id).zlGranted { txn 2 with srcModule := 7 } false = false
      ∧ codes (after (.zlRead 3 { txn 2 with srcModule := 7 }) (zlPol 2 id)) = [.permission] := by decide +kernel

theorem wit_Txns_counted :
    ((after (.zlWrite 3 { txn 1 with dstModule := 1 }) (zlPol 2 id)).link 3).misrouted = 1
      ∧ ((after (.zlRead 3 { txn 2 with job := 8 }) (zlPol 2 id)).link 3).stale = 1
      ∧ txnFlits (txn 4) ≤ 64 ∧ ((after (.zlBarrier 3 (txn 4)) (zlPol 4 id)).link 3).heldTxns = [txn 4] := by decide +kernel

theorem wit_Txns_readData :
    let r : RemoteRead := { tag := 1, pol := 2, gen := 0, chunks := 1, who := .none, va := 0 }
    ((after (.readData 3 (txn 3)) (zlPol 2 fun l => { l with reads := [r] })).link 3).reads = []
      ∧ ((after (.readData 3 { txn 3 with dstModule := 1 }) (zlPol 2 id)).link 3).misrouted = 1 := by decide +kernel

theorem wit_Txns_barrier :
    let b := fun c : Nat => ({ number := 1, kernel := 7, collector := c, parts := [0, 5] } : BarrierDecl)
    let s := fun c : Nat => { zlPol 2 id with img := some { schedules := [{ pol := 2, barriers := [b c] }] } }
    (s 0).barrierDecl 2 1 = some (b 0) ∧ ((after (.zlBarrier 3 (txn 4)) (s 5)).collector 2 1).releases = 1
      ∧ ((after (.zlBarrier 3 (txn 4)) (s 0)).collector 2 1).arrived = [64 * 5]
      ∧ (s 0).grantOk 2 5 true = true ∧ (s 0).grantOk 2 7 true = false
      ∧ codes (after (.zlBarrier 3 { txn 4 with srcModule := 7 }) (s 0)) = [.permission] := by decide +kernel

theorem wit_Band_exchange :
    let s := { zl (fun l => { l with peer := 1, t1 := 10, t2 := 15, t3 := 15 }) with alm := { now := 20, source := 1 } }
    s.sendsSync 3 = true ∧ ((after (.almSyncSend 3) { s with alm := { now := 0 } }).link 3).band.length = 1
      ∧ ((after (.almSync 3 1 (.almSync 10 2)) s).link 3).t1 = 10 ∧ ((after (.almReq 3 1 (.almReq 15 15)) s).link 3).offset = 0
      ∧ ((after (.almReq 3 1 (.almReq 25 25)) s).link 3).offset = 10 ∧ ((after (.almResp 3 1 (.almResp 10 20)) s).link 3).offset = 0
      ∧ ((after (.almExchangeMissing 3) s).link 3).exchMissing = 1 := by decide +kernel

theorem wit_Band_missing :
    ((after (.almExchangeMissing 3) (zl fun l => { l with exchMissing := 2 })).link 3).exchMissing = 3 := by decide +kernel

/-- A NOTICE to job 9 about schedule 0. -/
def noticed : State := { zl id with
  pols := [(2, { state := 2, port := 0, vf := 1, job := 9, running := [(0, { m := { hard := true } })] })]
  img := some { schedules := [{ pol := 2, colls := [{ tally := 1, bytes := 32, limit := 1 }] }] } }

theorem wit_Band_notice :
    codes (after (.notice 3 1 (.notice 9 0 1 2 0)) noticed) = [.peerNotice, .deadlineMiss]
      ∧ ((after (.notice 3 1 (.notice 9 0 2 2 0)) noticed).pol 2).isRunning 0 = false := by decide +kernel

/-- R269: LIMIT of one tide from cycle 1,024. -/
theorem wit_Band_collective :
    collMet (noticed.pol 2) { pol := 2, colls := [{ tally := 1, bytes := 32, limit := 1 }] } 0 = false
      ∧ (codes (after (.collectiveTimeout 2 0 0) { noticed with alm := { now := 5120 } })).contains .collectiveTimeout = true
      ∧ stays (.collectiveTimeout 2 0 0) { noticed with alm := { now := 5119 } } = true := by decide +kernel

/-- Commons 4 in epoch 0, with caps of 2,000 W. -/
def inCommons : State := { zl id with
  commons := { commons := 4, nextShift := 10 }
  pwr := { dflt := false }
  ports := [(0, { rate := 5, fns := [(0, { mse := true })], capLimit := 2000 }), (1, { capLimit := 2000 })] }

theorem wit_Band_commons :
    inCommons.commonsOn 4 = true ∧ inCommons.shiftOk 15 = true
      ∧ ((after (.powerReport 3 1 (.report 7 4)) inCommons).link 3).heard = some 7
      ∧ (after (.powerOffer 3 1 (.offer 5 0 4)) inCommons).commons.nextShift = 15
      ∧ (after (.powerTake 3 1 (.take 5 0 4)) { inCommons with links := [(3, { state := 2, offered := some 5 })] }).commons.nextShift = 5 := by
  decide +kernel

theorem wit_Band_epoch :
    let s := { inCommons with alm := { now := 1048576 }, tide := { loaded := true, boundary := some 1048576 } }
    s.tideNumber % 256 = 0 ∧ (after .powerEpoch s).commons.shift = 10 ∧ (after .powerEpoch s).commons.epoch = 1
      ∧ inCommons.pfWrites (wr 1) offCommons = some inCommons.timeOwner
      ∧ (after (.zlCommonsLock (wr 1)) inCommons).commons.lock = true := by decide +kernel

theorem wit_Band_epoch_off :
    let s := { zl id with commons := { nextShift := 7 }, alm := { now := 1048576 }, tide := { loaded := true, boundary := some 1048576 } }
    s.commonsOn s.commons.commons = false ∧ (after .powerEpoch s).commons.shift = 0 := by decide +kernel

theorem wit_Band_epoch_shifts : ∀ n, (State.link { base with links := [] } n).shift = 0 := fun _ => rfl

/-! ## Events, power, SMBus, security -/

/-- Polder 2's normal day book of 32 records at 2 MiB. -/
def booked (b : Book) (c : Crier) : State := { base with crier := { c with books := [(4, { b with base := 0x200000, enable := true })] } }

/-- R348: N is 32; PROD has wrapped. -/
theorem wit_Ring :
    let s := booked { prod := 5, cons := 2 ^ 32 - 27 } {}
    (s.book 2 0).full = true ∧ s.bookWriter 2 (wr (2 ^ 32 - 27)) (offDbRing 2 0) = true
      ∧ ((after (.daybookConsWrite 2 0 (wr 5)) s).book 2 0).cons = 5
      ∧ stays (.daybookConsWrite 2 0 (wr (2 ^ 32 - 28))) s = true := by decide +kernel

def ev (c : Code) : Event := { code := c, source := 5, book := 2, pol := 2 }
def pend (c : Code) : Pend := { code := c, cls := 0, book := 2, source := 5, pol := 2, gen := 0, time := 40960, detail := [] }

theorem wit_Events_edge :
    (booked {} {}).sourceFenced 5 = false ∧ (after .eventEdge { base with crier := { band := [ev .almanacLocked] } }).crier.stray = 1
      ∧ (after .eventEdge (booked {} { band := [ev .almanacLocked] })).crier.pend = [pend .almanacLocked]
      ∧ codeHold .almanacLocked = false ∧ ((after .eventEdge (booked {} { band := [ev .almanacLocked], pend := [pend .almanacLocked] })).book 2 0).merges = 1
      ∧ codeHold .admissionRefused = true ∧ codeClass .admissionRefused = 0
      ∧ (after .eventEdge (booked {} { band := [ev .admissionRefused], pend := [pend .almanacLocked] })).crier.sluice.length = 1 := by decide +kernel

/-- R350: a ring that has been found full. -/
theorem wit_Events_full :
    let s := fun c => booked { fullSince := some 0 } { band := [ev c] }
    ((after .eventEdge (s .almanacLocked)).book 2 0).overflow = true ∧ (after .eventEdge (s .admissionRefused)).crier.sluice.length = 1 := by
  decide +kernel

theorem wit_Events_sluice :
    (after (.sluiceRelease 0 2 5) (booked {} { sluice := [pend .admissionRefused] })).crier.pend = [{ pend .admissionRefused with held := true }] := by
  decide +kernel

theorem wit_Events_record :
    let s := booked { prod := 1, cons := 0 } { pend := [{ pend .almanacLocked with gen := 3 }] }
    let t := after (.daybookRecordWrite 0) s
    (s.book 2 0).full = false ∧ (s.book 2 0).filled ≠ 0 ∧ (t.book 2 0).prod = 2 ∧ memByte t.mem (0x200000 + 32 + 8) = 5 := by
  decide +kernel

theorem wit_Events_books :
    base.ownerWrites 2 (wr 0x200001) (offDbBase 2 0) = true ∧ base.bookPlace 2 0x200000 = true
      ∧ ((after (.daybookEnable 2 0 (wr 0x200001)) base).book 2 0).base = 0x200000
      ∧ ((after (.daybookDisable 2 0 (wr 0)) (booked {} { pend := [pend .almanacLocked] })).crier.stray) = 1 := by decide +kernel

/-- R349, R350: 2 us, then LIMIT of 10 ms. -/
theorem wit_Events_overflow :
    let s := { booked { fullSince := some 0 } {} with clock := 2000 }
    s.supOf 2 = some 0 ∧ codes (after (.daybookOverflow 2 0) s) = [.daybookOverflow]
      ∧ stays (.daybookOverflow 2 0) { s with clock := 1999 } = true
      ∧ codes (after (.polderFenced 2 0) { s with clock := 10000000 }) = [.polderFenced] := by decide +kernel

theorem wit_Fences_die :
    2 ≤ base.boot.stage ∧ (base.mill 7).fenced = false ∧ ((after (.millClockLoss 7) base).fence 12) = { fenced := true, cause := 1, fences := 1 }
      ∧ ((after (.uncorrectableError (.mill 7)) base).fence 12).cause = 3
      ∧ ((after (.bundleDead 2047) { base with bundles := [(2047, { state := 1 })] }).fence 12).cause = 2 := by decide +kernel

/-- A bundle of Keel 0's own path, and a culvert that nobody uses. -/
theorem wit_Fences_bundles :
    let s := fun b => { base with bundles := [(b, { state := 1 })] }
    ((after (.bundleDead 2080) (s 2080)).fence 1).cause = 2 ∧ ((after (.bundleDead 2048) (s 2048)).bundle 2048).state = 3 := by decide +kernel

theorem wit_Fences_keel :
    (joinsOf 0).contains 0 = true ∧ ((after (.forwardingPathLoss 0 0) base).fence 1).cause = 1
      ∧ ((after (.uncorrectableError (.keel 0)) base).fence 1).cause = 3 := by decide +kernel

theorem wit_Fences_memory :
    (base.region (5 * 1024)).isMem = true ∧ base.stockAt (5 * 1024) = none
      ∧ ((after (.memoryUe 2 0 5 0x81) base).mark 5).poison = 0x81
      ∧ ((after (.memoryUe 0 1 5 3) { base with bins := [(2 ^ 17, { st := .s, line := 5, valid := 1 })] }).bins.map fun e => e.2.poison) = [1] := by
  decide +kernel

/-- Line 5 in Common Stock, and in the Granary. -/
theorem wit_Fences_memoryElsewhere :
    let s := { base with img := some { charter := { base.charter with resources := [{ type := 4, w4 := 0, w8 := 1 }] } } }
    let g : GranLine := { valid := true, line := 5, present := 3 }
    let k := 2 ^ 20 * homeOf 5
    (s.stockAt (5 * 1024)).isSome = true ∧ codes (after (.memoryUe 0 1 5 3) s) = [.stockPoisoned, .memoryUe]
      ∧ ({ base with gran := [(k, g)] } : State).granFind 5 = some (k, g)
      ∧ ((after (.memoryUe 1 0 5 6) { base with gran := [(k, g)] }).gran.get {} k).poison = 2 := by decide +kernel

/-- A module without an image, in which no polder uses a die. -/
def unloaded : State := { up with ports := base.ports }

theorem wit_Fences_reset :
    let s : State := { base with mills := [(0, { fenced := true })] }
    s.pfWrites (wr 1) (offMillCtl 0) = some 0 ∧ ((after (.millReset 0 (wr 1) true []) s).mill 0).returning = some 0
      ∧ ((after (.millReset 0 (wr 1) false []) s).mill 0).status = 2
      ∧ ((after (.millReset 0 (wr 1) true []) { s with keels := [(0, { fenced := true })] }).mill 0).status = 2
      ∧ ((after (.millReset 0 (wr 1) true []) unloaded).fence 5).cause = 4
      ∧ ((after (.millReset 0 (wr 1) true [{ bundle := 255, lanes := 3 }]) unloaded).mill 0).status = 3
      ∧ ((after (.dieReturned 0) { base with mills := [(0, { fenced := true, returning := some 3 })] }).mill 0).fenced = false := by
  decide +kernel

theorem wit_Fences_reset_users : ∀ p, unloaded.polUsesDie p 0 = true → (unloaded.pol p).port = 0 := fun _ h => nomatch h

/-- An input of 50.0 V with caps of 2,000 W. -/
def fed (f : Power → Power) : State := { base with pwr := f { dflt := false, inForce := 2000, common := 32 }
                                                   ports := [(0, { rate := 5, fns := [(0, { mse := true })], capLimit := 2000 }), (1, { capLimit := 2000 })] }

theorem wit_Power_sample :
    ((fed id).setVolts 500).pwr.inForce = 2000 ∧ (after (.powerSample 500 400 []) (fed id)).pwr.common = 32
      ∧ (fed id).sealed = false ∧ (after (.powerSample 500 501 []) (fed id)).pwr.common < 32
      ∧ (after (.powerSample 500 380 []) { fed (fun p => { p with below95Since := some 0 }) with clock := 64000 }).pwr.common = 36
      ∧ (after (.powerSample 500 380 []) { fed (fun p => { p with raisedAt := some 0 }) with clock := 16000 }).pwr.common = 36 := by
  decide +kernel

theorem wit_Power_input :
    (fed id).pwr.rangeRaised = false ∧ codes (after (.inputRange 561) (fed id)) = [.inputRange, .inputRange]
      ∧ (after (.inputPowerLoss 701) base).boot.powered = false ∧ stays (.inputPowerLoss 400) base = true
      ∧ (after (.inputPowerLoss 700) base).boot.powered = false ∧ (after (.inputPowerLoss 399) base).img = none := by
  exact ⟨by decide +kernel, by decide +kernel, rfl, by decide +kernel, by decide +kernel, by decide +kernel⟩

theorem wit_Power_caps :
    base.pfWrites (wr 1000) offPwrCap = some 0 ∧ (after (.capLimitWrite (wr 1000)) base).pwr.dflt = false
      ∧ ((after (.pwrCapLock (wr 65536)) base).port 0).capLock = true
      ∧ stays (.capLimitWrite (wr 1000)) { base with ports := [(0, { rate := 5, fns := [(0, { mse := true })], capLock := true })] } = true := by
  decide +kernel

/-- R376: 105 degrees on a Keel, 100 on a Mill die; 120 trips. -/
theorem wit_Power_heat :
    hotAt 4 = 105 ∧ hotAt 5 = 100 ∧ ((after (.dieTempRead 5 99) base).heat 5).ceil = 64
      ∧ ((after (.dieTempRead 5 100) base).heat 5).ceil = 56 ∧ codes (after (.dieTempRead 5 119) base) = [.dieHot, .dieHot]
      ∧ (after (.dieTempRead 5 120) base).boot.tripLow = true := by decide +kernel

theorem wit_Power_ceiling :
    let s := fun h : DieHeat => { fed (fun p => { p with heats := [(5, h)] }) with clock := 100000 }
    ((after (.thermalCeilingStep 5) (s { hot := true, ceil := 10 })).heat 5).ceil = 8
      ∧ ((after (.thermalCeilingStep 5) (s { cool := true, ceil := 60 })).heat 5).ceil = 64 := by decide +kernel

theorem wit_Power_steps :
    let s := { fed (fun p => { p with common := 64, dies := [(0, { step := 6, lowSince := some 0 })] }) with clock := 1000000 }
    s.stepsFree 0 = true ∧ s.lowCond 0 = true ∧ s.heldMs (s.diePower 0).lowSince = true
      ∧ ((after (.stepDown 0) s).diePower 0).changing = some 7
      ∧ ((after (.voltageSettled 0) (after (.stepDown 0) s)).diePower 0).step = 7 := by decide +kernel

/-- A running phase that prefers MS-0. -/
theorem wit_Power_stepUp :
    let c : Schedule := { pol := 2, phases := [{ worst := [1], point := 0, dies := 1 }] }
    let r := running c { phase := 1 }
    let s := { r with pwr := { (fed id).pwr with common := 64, dies := [(0, { step := 1, highSince := some 0 })] }, clock := 1000000 }
    s.highCond 0 = true ∧ ((after (.stepUp 0) s).diePower 0).changing = some 0 := by decide +kernel

theorem wit_Power_phase :
    let c : Schedule := { pol := 2, phases := [{ worst := [1] }] }
    let s := running c {}
    s.phaseStart c 0xFFFFFFFF 0 + 1024 ≤ s.alm.now ∧ (((after (.phaseStart 2 0 0) s).pol 2).run 0).phase = 1 := by decide +kernel

theorem wit_Power_droop :
    ((after (.droop 0 31) base).mill 0).droopStop = 0x8000 ∧ codes (after (.droop 0 31) base) = [.droop, .droop]
      ∧ ((after (.droopResume 0 15) { after (.droop 0 31) base with clock := 32 }).mill 0).droopStop = 0 := by decide +kernel

theorem wit_Power_thermtrip :
    let s : State := { clock := 50000000, boot := { tripLow := true } }
    (after .thermtripRelease s).boot.tripLow = false ∧ stays .thermtripRelease { s with clock := 49999999 } = true := by decide +kernel

theorem wit_Smbus :
    State.reset.boot.stage0 = false ∧ base.boot.stage0 = true ∧ (after .mfrId base).pmbus.answer.length = 8
      ∧ (after .pmbusRevision base).pmbus.answer = [0x33] ∧ (after .mfrModel base).pmbus.answer.getD 0 0 = 13
      ∧ pmbusCodes.contains 0x04 = false ∧ (after (.unsupportedCommand 4) base).pmbus.cml = 0x80
      ∧ base.latchStatus.alertLow = false ∧ (after (.unsupportedCommand 4) base).latchStatus.alertLow = true := by decide +kernel

/-- The form of an owner record for slot 0, its key and signature all zeros. -/
def record : List Byte := ascii "ZELPELKY" ++ [1] ++ List.replicate 5284 0

theorem wit_Sec_form : keyRecordOk 1 5293 record = true ∧ base.keysWord = 0 := by decide +kernel

/-- A request of port A with a code and a text. -/
def secures (cmd : Nat) (r : List Byte) : State := { base with
  sec := { queue := [0] }
  ports := [(0, { rate := 5, fns := [(0, { mse := true })], mboxBusy := true, mboxCmd := cmd, mboxLen := r.length
                  mbox := (r.zipIdx.map fun e => (e.2, e.1)).filter fun e => e.2 ≠ 0 })] }

theorem wit_Sec_firmware :
    (secures 3 (leBytes 8 8 ++ [7])).secRuns 0 3 = true ∧ ((secures 3 (leBytes 8 8 ++ [7])).fwTaken 0) = false
      ∧ (after (.fwWrite 0) (secures 3 (leBytes 8 8 ++ [7]))).nv.fwBytes.get [] 1 = List.replicate 8 0 ++ [7]
      ∧ ((after (.fwWrite 0) (secures 3 (leBytes 8 4 ++ [7]))).port 0).mboxStatus = 1
      ∧ (secures 4 (leBytes 8 9)).secRuns 0 4 = true ∧ leAt (leBytes 8 9) 0 8 ≤ fwSlotSize
      ∧ (after (.fwCommit 0) (secures 4 (leBytes 8 9))).sec.owner = none := by decide +kernel

theorem wit_Sec_keys :
    (secures 1 [0]).secRuns 0 1 = true ∧ (secures 1 [0]).keyRefusal 1 1 [0] = 1 ∧ ((after (.enrol 0) (secures 1 [0])).port 0).mboxStatus = 1
      ∧ (secures 2 [0]).secRuns 0 2 = true ∧ ((after (.revoke 0) (secures 2 [0])).port 0).mboxStatus = 1 := by decide +kernel

/-- R364: what a hard manifest was to do from its booked start on stands in WEIR as DEFAULT ends. -/
theorem test_held_cycles_are_weir :
    let s : State := { running { pol := 2 } { m := { hard := true, freeboard := 160, tb := 36864 } } with clock := 50000 }
    s.pwr.dflt = true ∧ (((after (.capLimitWrite (wr 2000)) s).pol 2).run 0).uncharged.weir = 40960 - 36864 - 1024 := by decide +kernel

end Sys2Proof.Tests
end

section
/-! SUPPORT. The barrier of one crew. -/

namespace Sys2Proof.Machine

open Sys2Proof

/-- What BAR CREW does to a crew that issues, with the participation mask M read before the change. -/
theorem exec_barCrew_of_issues (s : State) (h : HandId) (i : FmtS) (hi : s.issues h = true) :
    exec (.barCrew h i) s = .next (s.updHand h fun c =>
      if (s.hand h).rf i.ft.val &&& ~~~c.active = 0 then c.next
      else c.stop (.crewBar ((s.hand h).rf i.ft.val)) s.clock) := by
  show execBarCrew h i s = _
  simp only [execBarCrew, hi, Bool.not_true, Bool.false_eq_true, if_false]

/-- Settles O31: the two descriptions agree on the Hand that the command changes, whether or not a lane of M is missing from
its active mask. -/
theorem crewBarrierNeedsItsLanes : Obligations.CrewBarrierNeedsItsLanes := by
  intro s h i hi
  rw [exec_barCrew_of_issues s h i hi]
  refine congrArg Host.Outcome.next (State.updHand_congr s h _ _ ?_)
  by_cases hm : (s.hand h).rf i.ft.val &&& ~~~(s.hand h).active = 0
  · simp only [if_pos hm, Hand.next]
  · simp only [if_neg hm, Hand.stop]

end Sys2Proof.Machine
end

section
/-! SUPPORT. CONS of a day book's ring (R348). -/

namespace Sys2Proof

theorem RegAcc.fld_lt (a : RegAcc) (lo len old : Nat) : a.fld lo len old < 2 ^ len :=
  Nat.mod_lt _ (Nat.two_pow_pos len)

namespace Machine

/-- PROD - CONS modulo 2^32, also where PROD has wrapped: the model adds 2^32 before it subtracts. -/
theorem Book.filled_eq_emod (b : Book) (hc : b.cons < 2 ^ 32) : (b.filled : Int) = ((b.prod : Int) - b.cons) % 2 ^ 32 := by
  unfold Book.filled
  omega

theorem Book.full_iff_of_enable (b : Book) (he : b.enable = true) : b.full = true ↔ b.filled = b.count := by
  simp [Book.full, he]

theorem State.book_updBook (s : State) (p c : Nat) (f : Book → Book) : (s.updBook p c f).book p c = f (s.book p c) :=
  SMap.get_upd_same ..

/-- The book as a write of CRIER_DB_RING_p_c would leave CONS. -/
def State.bookWritten (s : State) (p c : Nat) (a : RegAcc) : Book :=
  { s.book p c with cons := a.fld 0 32 (s.book p c).cons }

theorem State.filled_bookWritten (s : State) (p c : Nat) (a : RegAcc) :
    ((s.bookWritten p c a).filled : Int) = ((s.book p c).prod - (a.fld 0 32 (s.book p c).cons : Nat) : Int) % 2 ^ 32 :=
  (s.bookWritten p c a).filled_eq_emod (a.fld_lt 0 32 _)

theorem State.dbRingWrite_of_lt_filled (s : State) (p c : Nat) (a : RegAcc)
    (h : (s.book p c).count < (s.bookWritten p c a).filled) : s.dbRingWrite p c a = s :=
  if_pos h

/-- What the write may change besides CONS is the book's account of an overflow (R350). -/
theorem State.dbRingWrite_of_filled_le (s : State) (p c : Nat) (a : RegAcc)
    (h : (s.bookWritten p c a).filled ≤ (s.book p c).count) :
    ((s.dbRingWrite p c a).book p c).cons = a.fld 0 32 (s.book p c).cons
      ∧ ((s.dbRingWrite p c a).book p c).prod = (s.book p c).prod
      ∧ s.dbRingWrite p c a = { s with crier := (s.dbRingWrite p c a).crier } := by
  rw [show s.dbRingWrite p c a = _ from if_neg (Nat.not_lt.2 h), State.book_updBook]
  split <;> exact ⟨rfl, rfl, rfl⟩

theorem exec_daybookConsWrite_of_bookWriter (s : State) (p : Pol) (cls : Fin 2) (a : RegAcc)
    (hw : s.bookWriter p.val a (offDbRing p.val cls.val) = true) :
    exec (.daybookConsWrite p cls a) s = .next (s.dbRingWrite p.val cls.val a) :=
  congrArg Host.Outcome.next (if_pos hw)

/-- Settles O57: each clause is read on the count that the model compares with N, which is PROD - CONS modulo 2^32. -/
theorem ringConsMovesWithinN : Obligations.RingConsMovesWithinN := by
  refine ⟨fun b he _ hc => ?full, fun s p cls a hw hlt _ => ?ignored, fun s p cls a hw hle _ => ?moves⟩
  case full =>
    rw [b.full_iff_of_enable he, ← b.filled_eq_emod hc, Nat.cast_inj]
  case ignored =>
    rw [← s.filled_bookWritten, Nat.cast_lt] at hlt
    rw [exec_daybookConsWrite_of_bookWriter s p cls a hw, s.dbRingWrite_of_lt_filled _ _ a hlt]
  case moves =>
    rw [← s.filled_bookWritten, Nat.cast_le] at hle
    exact ⟨_, exec_daybookConsWrite_of_bookWriter s p cls a hw, s.dbRingWrite_of_filled_le _ _ a hle⟩

end Machine
end Sys2Proof
end

section
/-! SUPPORT. One step, the idle cycle, the reset state, and the polders that a tide boundary may touch. -/

namespace Sys2Proof.Machine

open Sys2Proof

/-- Settles O1: `step` by its second equation. -/
theorem stepRunsTheFrontCommand : Obligations.StepRunsTheFrontCommand := by
  intro s c r hs
  simp only [step, hs]

/-! ## The idle cycle (R57) -/

theorem Almanac.steered_of_steady (a : Almanac) (d : Nat) (hl : a.slewLeft = 0) (hr : a.rate = 0) : a.steered d = (0, a) := by
  simp only [Almanac.steered, Almanac.slewOver, ppmOf, if_pos hl, if_pos hr]
  rfl

theorem Almanac.tick_of_steady (a : Almanac) (hl : a.slewLeft = 0) (hr : a.rate = 0) (hn : a.now + 4 < 2 ^ 64) :
    a.tick = { a with now := a.now + 4 } := by
  have hnow : ((a.now : Int) + 4 + 0).toNat % 2 ^ 64 = a.now + 4 := by omega
  simp only [Almanac.tick, a.steered_of_steady 4 hl hr, hnow]

/-- The PPS output is low and no whole second was passed, or the Almanac does not count. -/
theorem State.ppsPass_of_low (s : State) (was : Nat) (hp : s.alm.pps = false)
    (h : s.counts = false ∨ was / 1000000000 = s.alm.now / 1000000000) : s.ppsPass was = s := by
  rcases h with h | h <;> simp [State.ppsPass, hp, h]

theorem State.polEnds_of_none_busy (s : State) (h : ∀ p, p < 64 → (s.pol p).busy = false) : s.polEnds = s := by
  have hnone : ((List.range 64).filter fun p => (s.pol p).busy) = [] :=
    List.filter_eq_nil_iff.mpr fun p hp => by simp [h p (List.mem_range.mp hp)]
  simp only [State.polEnds, hnone, List.foldl_nil]

/-- Where no tide runs and no step waits, an idle cycle is a tick. -/
theorem State.idle_of_no_tide (s : State) (ht : s.tidesRun = false) (hs : s.counts = false ∨ s.alm.step = none) :
    s.idle = s.tick := by
  rcases hs with hs | hs <;> simp [State.idle, ht, hs]

/-- Settles O2. -/
theorem emptyQueueIsOneAclkCycle : Obligations.EmptyQueueIsOneAclkCycle := by
  constructor
  · intro s hq hc hl hr ht hn hstep hp hsec hb
    have htick : s.tick = { s with clock := s.clock + 4, alm := { s.alm with now := s.alm.now + 4 } } := by
      simp only [State.tick, hc, if_true, s.alm.tick_of_steady hl hr hn]
      exact State.ppsPass_of_low _ _ hp (.inr (by simp only; omega))
    simp only [step, hq, s.idle_of_no_tide ht (.inr hstep), htick]
    exact congrArg Host.Outcome.next (State.polEnds_of_none_busy _ hb)
  · intro s hq hc hp hb
    have htick : s.tick = { s with clock := s.clock + 4 } := by
      simp only [State.tick, hc, Bool.false_eq_true, if_false]
      exact State.ppsPass_of_low _ _ hp (.inl hc)
    have ht : s.tidesRun = false := by simp [State.tidesRun, hc]
    simp only [step, hq, s.idle_of_no_tide ht (.inl hc), htick]
    exact congrArg Host.Outcome.next (State.polEnds_of_none_busy _ hb)

/-! ## Reset -/

/-- Settles O3: every map of the reset state is empty, so each element reads as its default. -/
theorem resetIsTheUnpoweredModule : Obligations.ResetIsTheUnpoweredModule := by
  refine ⟨rfl, rfl, rfl, rfl, rfl, rfl, rfl, rfl, rfl, rfl, rfl, rfl, fun _ => ⟨rfl, rfl, rfl, rfl⟩, fun _ => rfl, fun _ => rfl,
    fun _ => rfl, fun a => ?_⟩
  have hnone : State.reset.granFind (a / 1024) = none := ite_self none
  show State.reset.homeByte (a / 1024) (a % 1024) = 0
  simp only [State.homeByte, hnone]
  rfl

/-! ## A listed polder that a boundary uncovers (O6) -/

/-- Stage 3 with tides running. Polder 0 is listed twice: the first entry differs from the default in `takenNow` alone, so that a
boundary drops it, and the second, with generation 256, is then the one that `SMap.get` finds. -/
def shadowedPolder : State where
  pending := [.tideBoundary]
  boot := { powered := true, stage := 3 }
  tide := { loaded := true }
  pols := [(0, { takenNow := 1 }), (0, { gen := 256 })]

theorem shadowedPolder_legal (p : Nat) : (shadowedPolder.pol p).gen < 256 ∧ (shadowedPolder.pol p).state ≤ 4 := by
  by_cases hp : 0 = p
  · subst hp
    decide
  · simp [shadowedPolder, State.pol, SMap.get, hp]

/-- Refutes O6: `SMap.mapAll` at a tide boundary drops an entry that becomes the default, and an entry of the same key behind it
comes to light; the statement does not ask for maps in canonical form. -/
theorem not_everyStepKeepsPoldersLegal : ¬ Obligations.EveryStepKeepsPoldersLegal := by
  intro h
  have hgen := (h shadowedPolder _ shadowedPolder_legal rfl 0).1
  revert hgen
  decide

end Sys2Proof.Machine
end

section
/-! SUPPORT. The fields of a register write (R400, R401), and the ring registers (R41, R77). -/

namespace Sys2Proof

/-! ## Fields of an access -/

theorem RegAcc.merge_of_whole {a : RegAcc} (h : a.size = 8) (old : Nat) : a.merge old = a.value.toNat := by
  simp [RegAcc.merge, h]

theorem RegAcc.fld_of_whole {a : RegAcc} (h : a.size = 8) (lo len old : Nat) :
    a.fld lo len old = field a.value.toNat lo len := by
  simp [RegAcc.fld, a.merge_of_whole h]

theorem RegAcc.bit_of_whole {a : RegAcc} (h : a.size = 8) (lo : Nat) : a.bit lo = a.value.toNat.testBit lo := by
  simp [RegAcc.bit, RegAcc.data, h]

theorem RegAcc.flag_of_whole {a : RegAcc} (h : a.size = 8) (lo : Nat) (old : Bool) :
    a.flag lo old = a.value.toNat.testBit lo := by
  simp [RegAcc.flag, RegAcc.hits, h, a.bit_of_whole h]

/-- A field below bit 32 under a write of the upper half keeps its value, cut to its length. -/
theorem RegAcc.fld_of_upper {a : RegAcc} (hs : a.size = 4) (hh : a.half = 1) (lo len old : Nat) (hl : lo + len ≤ 32) :
    a.fld lo len old = old % 2 ^ len := by
  have hle : 2 ^ (lo + len) ∣ 2 ^ 32 := Nat.pow_dvd_pow 2 hl
  have hmerge : a.merge (old * 2 ^ lo) = old * 2 ^ lo % 2 ^ 32 + a.value.toNat % 2 ^ 32 * 2 ^ 32 := by
    simp [RegAcc.merge, hs, hh]
  have hmod : a.merge (old * 2 ^ lo) % 2 ^ (lo + len) = old * 2 ^ lo % 2 ^ (lo + len) := by
    rw [hmerge, Nat.add_mod, Nat.mod_mod_of_dvd _ hle, Nat.mod_eq_zero_of_dvd (Dvd.dvd.mul_left hle _), Nat.add_zero, Nat.mod_mod]
  calc a.fld lo len old = a.merge (old * 2 ^ lo) % 2 ^ (lo + len) / 2 ^ lo := by
        rw [RegAcc.fld, field, Nat.pow_add, Nat.mod_mul_right_div_self]
    _ = old * 2 ^ lo % 2 ^ (lo + len) / 2 ^ lo := by rw [hmod]
    _ = old % 2 ^ len := by
        rw [Nat.pow_add, Nat.mod_mul_right_div_self, Nat.mul_div_cancel _ (Nat.two_pow_pos lo)]

/-- A field below bit 32 takes what a write of the lower half gives. -/
theorem RegAcc.fld_of_lower {a : RegAcc} (hs : a.size = 4) (hh : a.half = 0) (lo len old : Nat) (hl : lo + len ≤ 32) :
    a.fld lo len old = field a.value.toNat lo len := by
  have hle : 2 ^ (lo + len) ∣ 2 ^ 32 := Nat.pow_dvd_pow 2 hl
  have hmerge : a.merge (old * 2 ^ lo) = old * 2 ^ lo / 2 ^ 32 * 2 ^ 32 + a.value.toNat % 2 ^ 32 := by
    simp [RegAcc.merge, hs, hh]
  have hmod : a.merge (old * 2 ^ lo) % 2 ^ (lo + len) = a.value.toNat % 2 ^ (lo + len) := by
    rw [hmerge, Nat.add_mod, Nat.mod_eq_zero_of_dvd (Dvd.dvd.mul_left hle _), Nat.zero_add, Nat.mod_mod, Nat.mod_mod_of_dvd _ hle]
  calc a.fld lo len old = a.merge (old * 2 ^ lo) % 2 ^ (lo + len) / 2 ^ lo := by
        rw [RegAcc.fld, field, Nat.pow_add, Nat.mod_mul_right_div_self]
    _ = a.value.toNat % 2 ^ (lo + len) / 2 ^ lo := by rw [hmod]
    _ = field a.value.toNat lo len := by rw [field, Nat.pow_add, Nat.mod_mul_right_div_self]

theorem RegAcc.bit_of_lower {a : RegAcc} (hs : a.size = 4) (hh : a.half = 0) (lo : Nat) (hl : lo < 32) :
    a.bit lo = a.value.toNat.testBit lo := by
  have hlow : (a.value.toNat % 2 ^ 32).testBit lo = a.value.toNat.testBit lo := by simp only [Nat.testBit_mod_two_pow, hl, decide_true, Bool.true_and]
  simpa [RegAcc.bit, RegAcc.data, hs, hh] using hlow

theorem RegAcc.flag_of_lower {a : RegAcc} (hs : a.size = 4) (hh : a.half = 0) (lo : Nat) (old : Bool) (hl : lo < 32) :
    a.flag lo old = a.value.toNat.testBit lo := by
  have hhit : a.hits lo = true := by simp [RegAcc.hits, hh, Nat.div_eq_of_lt hl]
  simp [RegAcc.flag, hhit, a.bit_of_lower hs hh lo hl]

theorem RegAcc.flag_of_upper {a : RegAcc} (hs : a.size = 4) (hh : a.half = 1) (lo : Nat) (old : Bool) (hl : lo < 32) :
    a.flag lo old = old := by
  have hhit : a.hits lo = false := by simp [RegAcc.hits, hs, hh, Nat.div_eq_of_lt hl]
  simp [RegAcc.flag, hhit]

/-- An access of a legal length covers every bit that it writes as 1. -/
theorem RegAcc.hits_of_bit {a : RegAcc} (hv : a.valid = true) (lo : Nat) (hl : lo < 32) (hb : a.bit lo = true) : a.hits lo = true := by
  simp only [RegAcc.valid, Bool.or_eq_true, Bool.and_eq_true, decide_eq_true_eq] at hv
  obtain ⟨h8, -⟩ | ⟨h4, hh⟩ := hv
  · simp [RegAcc.hits, h8]
  · have hzero : a.half = 0 := by
      by_contra hne
      have hone : a.half = 1 := by omega
      have hup : (a.value.toNat % 2 ^ 32 * 2 ^ 32).testBit lo = false := by
        rw [Nat.testBit_mul_two_pow, decide_eq_false (by omega), Bool.false_and]
      simp [RegAcc.bit, RegAcc.data, h4, hone] at hb hup
      simp [hup] at hb
    simp [RegAcc.hits, hzero, Nat.div_eq_of_lt hl]

namespace Machine

theorem State.valid_of_pfWrites {s : State} {a : RegAcc} {off port : Nat} (h : s.pfWrites a off = some port) : a.valid = true := by
  simp only [State.pfWrites] at h
  split at h
  · simp_all
  · cases h

theorem State.valid_of_ownerWrites {s : State} {p : Nat} {a : RegAcc} {off : Nat} (h : s.ownerWrites p a off = true) :
    a.valid = true := by
  simp only [State.ownerWrites] at h
  split at h
  · exact State.valid_of_pfWrites ‹_›
  · cases h

/-! ## One polder changes -/

/-- The module but for its polders, and of these all but polder p, are as before, and polder p is now `q`. -/
def State.onlyPol (s : State) (p : Nat) (q : Polder) (t : State) : Prop :=
  t = { s with pols := t.pols } ∧ (∀ j, j ≠ p → t.pol j = s.pol j) ∧ t.pol p = q

theorem State.onlyPol_updPol (s : State) (p : Nat) (f : Polder → Polder) (q : Polder) (h : f (s.pol p) = q) :
    s.onlyPol p q (s.updPol p f) :=
  ⟨rfl, fun j hj => s.pol_updPol_other p f j hj, (s.pol_updPol p f).trans h⟩

theorem State.onlyPol_self (s : State) (p : Nat) : s.onlyPol p (s.pol p) s := ⟨rfl, fun _ _ => rfl, rfl⟩

/-- Where polder p is as before, every polder is. -/
theorem State.onlyPol.pol_eq {s t : State} {p : Nat} (h : s.onlyPol p (s.pol p) t) (q : Nat) : t.pol q = s.pol q := by
  obtain ⟨-, hother, hp⟩ := h
  by_cases hq : q = p
  · rw [hq, hp]
  · exact hother q hq

/-! ## Ring registers -/

theorem completes_of_exec {c : Instr} {s t : State} {P : State → Prop} (h : exec c s = .next t) (hP : P t) : completes c s P :=
  ⟨t, h, hP⟩

theorem exec_mringBaseWrite (s : State) (p : Pol) (a : RegAcc) (h : s.ownerWrites p a (offMringBase p) = true) :
    exec (.mringBaseWrite p a) s = .next (s.mringBaseWrite p a) := by
  show execMringBaseWrite p a s = _
  simp only [execMringBaseWrite, h, if_true]

theorem exec_fbCfgWrite (s : State) (p : Pol) (a : RegAcc) (h : s.ownerWrites p a (offFbCfg p) = true) :
    exec (.fbCfgWrite p a) s = .next (s.fbCfgWrite p a) := by
  show execFbCfgWrite p a s = _
  simp only [execFbCfgWrite, h, if_true]

/-- The base and size that a write gives to a disabled ring. -/
theorem mringBaseWrite_of_disabled (s : State) (p : Pol) (a : RegAcc) (h : s.ownerWrites p a (offMringBase p) = true)
    (he : (s.pol p).enable = false) :
    completes (.mringBaseWrite p a) s (s.onlyPol p { s.pol p with
      ringBase := 4096 * a.fld 12 46 ((s.pol p).ringBase / 4096), ringSize := a.fld 0 4 (s.pol p).ringSize }) := by
  exact completes_of_exec (exec_mringBaseWrite s p a h) (s.onlyPol_updPol p _ _ (if_neg (Bool.eq_false_iff.mp he)))

/-- ENABLE of a disabled ring. -/
theorem mringEnable_of_disabled (s : State) (p : Pol) (a : RegAcc) (h : s.ownerWrites p a (offMringCtl p) = true)
    (hb : a.bit 0 = true) (he : (s.pol p).enable = false) :
    completes (.mringEnable p a) s (s.onlyPol p
      (if s.localMem (s.pol p).ringBase = true ∧ (s.pol p).ringSize ≤ 8 ∧ s.mayRun (s.pol p).port = true then
        { s.pol p with enable := true, stopping := false, consumer := 0, consumed := 0, ringPhase := true }
      else s.pol p)) := by
  have hit : a.hits 0 = true := RegAcc.hits_of_bit (State.valid_of_ownerWrites h) 0 (by decide) hb
  refine completes_of_exec (t := s.mringCtlWrite p a) ?_ ?_
  · show execMringEnable p a s = _
    simp only [execMringEnable, h, hb, Bool.and_self, if_true]
  · simp only [State.mringCtlWrite, hit, hb, Bool.not_true, Bool.false_eq_true, if_false, if_true]
    refine s.onlyPol_updPol p _ _ ((if_neg (Bool.eq_false_iff.mp he)).trans ?_)
    simp only [Bool.and_eq_true, decide_eq_true_eq, and_assoc]

/-- The clear of ENABLE. -/
theorem mringDisable_of_enabled (s : State) (p : Pol) (a : RegAcc) (h : s.ownerWrites p a (offMringCtl p) = true)
    (hit : a.hits 0 = true) (hb : a.bit 0 = false) (he : (s.pol p).enable = true) :
    completes (.mringDisable p a) s (s.onlyPol p { s.pol p with enable := false, stopping := true }) := by
  refine completes_of_exec (t := s.mringCtlWrite p a) ?_ ?_
  · show execMringDisable p a s = _
    simp only [execMringDisable, h, hb, Bool.not_false, Bool.and_self, if_true]
  · simp only [State.mringCtlWrite, hit, hb, Bool.not_true, Bool.false_eq_true, if_false]
    exact s.onlyPol_updPol p _ _ (if_pos he)

/-- WARN and REQUIRE_LOCK. -/
theorem fbCfgWrite_fields (s : State) (p : Pol) (a : RegAcc) (h : s.ownerWrites p a (offFbCfg p) = true) :
    completes (.fbCfgWrite p a) s (s.onlyPol p { s.pol p with
      warn := a.fld 4 4 (s.pol p).warn, requireLock := a.flag 0 (s.pol p).requireLock }) :=
  completes_of_exec (exec_fbCfgWrite s p a h) (s.onlyPol_updPol p _ _ rfl)

/-- Settles O15. -/
theorem ringRegistersAreWritten : Obligations.RingRegistersAreWritten := by
  refine ⟨?base, ?frozen, ?enable, ?disable, ?cfg⟩
  case base =>
    intro s p a h he
    obtain ⟨t, ht, hrest, hother, hp⟩ := mringBaseWrite_of_disabled s p a h he
    refine ⟨t, ht, ?_, ?_, fun h8 => ⟨?_, ?_⟩, fun h4 hh => ?_, ?_, hrest, hother⟩
    · simp [hp]
    · simpa [hp] using RegAcc.fld_lt a 0 4 (s.pol p).ringSize
    · simp [hp, RegAcc.fld_of_whole h8]
    · simp [hp, RegAcc.fld_of_whole h8]
    · simp [hp, RegAcc.fld_of_upper h4 hh 0 4 _ (by decide)]
    · simp [hp]
  case frozen =>
    intro s p a h he
    have hone : s.onlyPol p (s.pol p) (s.mringBaseWrite p a) := s.onlyPol_updPol p _ _ (if_pos he)
    exact completes_of_exec (exec_mringBaseWrite s p a h) ⟨hone.pol_eq, rfl⟩
  case enable =>
    intro s p a h hb he
    obtain ⟨t, ht, hrest, hother, hp⟩ := mringEnable_of_disabled s p a h hb he
    refine ⟨t, ht, hrest, hother, ?_⟩
    rw [hp]
    split <;> rfl
  case disable =>
    intro s p a h hit hb he
    exact mringDisable_of_enabled s p a h hit hb he
  case cfg =>
    intro s p a h
    have hv := State.valid_of_ownerWrites h
    simp only [RegAcc.valid, Bool.or_eq_true, Bool.and_eq_true, decide_eq_true_eq] at hv
    obtain ⟨t, ht, hrest, hother, hp⟩ := fbCfgWrite_fields s p a h
    refine ⟨t, ht, hrest, hother, by simp [hp], fun hlow => ?_, fun h4 hh => ?_⟩
    · obtain ⟨h8, -⟩ | ⟨h4, -⟩ := hv
      · simp [hp, RegAcc.fld_of_whole h8, RegAcc.flag_of_whole h8]
      · have hh : a.half = 0 := hlow.resolve_left (by omega)
        simp [hp, RegAcc.fld_of_lower h4 hh 4 4 _ (by decide), RegAcc.flag_of_lower h4 hh 0 _ (by decide)]
    · simp [hp, RegAcc.fld_of_upper h4 hh 4 4 _ (by decide), RegAcc.flag_of_upper h4 hh 0 _ (by decide)]

end Machine
end Sys2Proof
end

section
/-! SUPPORT. The Almanac: its discipline, its registers, and the tide boundary (R57 to R65). -/

namespace Sys2Proof.Machine

open Sys2Proof

/-! ## Passing time -/

/-- What the PPS output alone changes. -/
theorem State.ppsPass_eq (s : State) (was : Nat) :
    ∃ a b, s.ppsPass was = { s with alm := { s.alm with ppsAt := a, pps := b } } := by
  simp only [State.ppsPass]
  split
  · exact ⟨_, _, rfl⟩
  · exact ⟨s.alm.ppsAt, s.alm.pps, rfl⟩

/-- What the steering leaves alone. -/
theorem Almanac.slewOver_eq (a : Almanac) (d : Nat) :
    ∃ l r w, (a.slewOver d).2 = { a with slewLeft := l, slewRest := r, slew := w } := by
  simp only [Almanac.slewOver]
  split
  · exact ⟨a.slewLeft, a.slewRest, a.slew, rfl⟩
  · split <;> exact ⟨_, _, _, rfl⟩

theorem Almanac.steered_eq (a : Almanac) (d : Nat) :
    ∃ l r w m, (a.steered d).2 = { a with slewLeft := l, slewRest := r, slew := w, rateRest := m } := by
  obtain ⟨l, r, w, h⟩ := a.slewOver_eq d
  refine ⟨l, r, w, (ppmOf a.rate a.rateRest d).2, ?_⟩
  simp only [Almanac.steered, h]

/-- The moment of a later Almanac value differs in the clock, in the steering's remainders and in the PPS output alone. -/
theorem State.advanceTo_eq (s : State) (v : Nat) :
    ∃ c l r w m a b, s.advanceTo v = { s with
      clock := c
      alm := { s.alm with now := v % 2 ^ 64, slewLeft := l, slewRest := r, slew := w, rateRest := m, ppsAt := a, pps := b } } := by
  obtain ⟨l, r, w, m, h⟩ := s.alm.steered_eq (v - s.alm.now)
  simp only [State.advanceTo]
  generalize s.alm.steered (v - s.alm.now) = x at h ⊢
  obtain ⟨more, al⟩ := x
  subst h
  obtain ⟨a, b, hp⟩ := State.ppsPass_eq { s with
    clock := s.clock + (((v - s.alm.now : Nat) : Int) - more).toNat
    alm := { s.alm with now := v % 2 ^ 64, slewLeft := l, slewRest := r, slew := w, rateRest := m } } s.alm.now
  exact ⟨_, l, r, w, m, a, b, hp⟩

@[simp] theorem State.advanceTo_now (s : State) (v : Nat) : (s.advanceTo v).alm.now = v % 2 ^ 64 := by
  obtain ⟨c, l, r, w, m, a, b, h⟩ := s.advanceTo_eq v
  rw [h]

@[simp] theorem State.advanceTo_step (s : State) (v : Nat) : (s.advanceTo v).alm.step = s.alm.step := by
  obtain ⟨c, l, r, w, m, a, b, h⟩ := s.advanceTo_eq v
  rw [h]

@[simp] theorem State.advanceTo_stepRefused (s : State) (v : Nat) : (s.advanceTo v).alm.stepRefused = s.alm.stepRefused := by
  obtain ⟨c, l, r, w, m, a, b, h⟩ := s.advanceTo_eq v
  rw [h]

@[simp] theorem State.advanceTo_tide (s : State) (v : Nat) : (s.advanceTo v).tide = s.tide := by
  obtain ⟨c, l, r, w, m, a, b, h⟩ := s.advanceTo_eq v
  rw [h]

@[simp] theorem State.advanceTo_pols (s : State) (v : Nat) : (s.advanceTo v).pols = s.pols := by
  obtain ⟨c, l, r, w, m, a, b, h⟩ := s.advanceTo_eq v
  rw [h]

@[simp] theorem State.advanceTo_mem (s : State) (v : Nat) : (s.advanceTo v).mem = s.mem := by
  obtain ⟨c, l, r, w, m, a, b, h⟩ := s.advanceTo_eq v
  rw [h]

@[simp] theorem State.advanceTo_crier (s : State) (v : Nat) : (s.advanceTo v).crier = s.crier := by
  obtain ⟨c, l, r, w, m, a, b, h⟩ := s.advanceTo_eq v
  rw [h]

/-! ## Discipline (R63) -/

theorem clampInt_of_small (lim x : Int) (h : x.natAbs ≤ lim.toNat) (hl : 0 ≤ lim) : clampInt lim x = x := by
  unfold clampInt
  omega

/-- What a raise at both supervisors adds to the band. -/
theorem State.raiseBoth_band (s : State) (code : Code) (source : Nat) (detail : List Byte) :
    (s.raiseBoth code source detail).crier.band
      = s.crier.band ++ [⟨code, source, 0, 0, slice detail 0 16⟩, ⟨code, source, 1, 1, slice detail 0 16⟩] := by
  simp [State.raiseBoth, State.raise]

@[simp] theorem State.raiseBoth_alm (s : State) (code : Code) (source : Nat) (detail : List Byte) :
    (s.raiseBoth code source detail).alm = s.alm := rfl

/-- The measured offset of a source whose updates come. -/
theorem exec_referenceUpdate_of_ptm (s : State) (off : Int) (port : Nat) (hc : s.counts = true) (hs : 1 ≤ s.boot.stage)
    (hsrc : s.alm.source = 2 ∧ port = 0 ∨ s.alm.source = 3 ∧ port = 1) (hp : s.ptmOn port = true) :
    exec (.referenceUpdate off) s = .next (s.measured off) := by
  show execReferenceUpdate off s = _
  have hst : ¬ s.boot.stage < 1 := by omega
  obtain ⟨hsrc, rfl⟩ | ⟨hsrc, rfl⟩ := hsrc <;> simp [execReferenceUpdate, hc, hst, hsrc, hp]

/-- The offset that an update measured is within the accuracy of its source (R61). -/
def Almanac.accurate (a : Almanac) (off : Int) : Bool :=
  off.natAbs ≤ almAccuracy a.source a.hops && (a.source ≠ 4 || a.hops ≤ 2)

/-- An accurate update of an ACQUIRING Almanac: the third in a row makes it LOCKED, an earlier one is counted. -/
theorem State.measured_of_acquiring (s : State) (off : Int) (hst : s.alm.state = 1) (hok : s.alm.accurate off = true) :
    ∃ b : Almanac, b.now = s.alm.now ∧ b.offset = clampInt 0x7FFFFFFF off ∧ b.state = 1 ∧
      s.measured off = if s.alm.within + 1 < 3 then { s with seed := s.seed + 1, alm := { b with within := s.alm.within + 1 } }
        else ({ s with seed := s.seed + 1, alm := b.enter 2 }).raiseBoth .almanacLocked srcAlm [] := by
  unfold State.measured State.free
  dsimp -zeta only
  extract_lets a ok set steered b
  have hstate : a.state = 1 := hst
  have ha : ok = true := hok
  refine ⟨b, rfl, rfl, hst, ?_⟩
  simp only [hstate, ha, Bool.not_true, Bool.false_eq_true, if_false]
  rfl

/-- An update of a LOCKED Almanac outside the accuracy: the third in a row makes it ACQUIRING, an earlier one is counted. -/
theorem State.measured_of_locked (s : State) (off : Int) (hst : s.alm.state = 2) (hok : s.alm.accurate off = false) :
    ∃ b : Almanac, b.state = 2 ∧
      s.measured off = if s.alm.outside + 1 < 3 then { s with seed := s.seed + 1, alm := { b with outside := s.alm.outside + 1 } }
        else { s with seed := s.seed + 1, alm := b.enter 1 } := by
  unfold State.measured State.free
  dsimp -zeta only
  extract_lets a ok set steered b
  have hstate : a.state = 2 := hst
  have ha : ok = false := hok
  refine ⟨b, hst, ?_⟩
  simp only [hstate, ha, Bool.false_eq_true, if_false]
  rfl

/-- Settles O10. -/
theorem almanacDisciplineFollowsItsStates : Obligations.AlmanacDisciplineFollowsItsStates := by
  refine ⟨?acquiring, ?locked, ?edge, ?holdover, ?missing⟩
  case acquiring =>
    intro s off port hc hs hsrc hp hst hoff
    refine completes_of_exec (exec_referenceUpdate_of_ptm s off port hc hs hsrc hp) ?_
    have hacc : s.alm.accurate off = true := by
      obtain ⟨h, -⟩ | ⟨h, -⟩ := hsrc <;> simp [Almanac.accurate, h, almAccuracy, hoff]
    have hclamp : clampInt 0x7FFFFFFF off = off := clampInt_of_small _ _ (by omega) (by decide)
    obtain ⟨b, hnow, hoffset, hstate, hm⟩ := s.measured_of_acquiring off hst hacc
    rw [hclamp] at hoffset
    by_cases hw : s.alm.within + 1 < 3
    · have hlt : ¬ 2 ≤ s.alm.within := by omega
      rw [hm, if_pos hw]
      simp [hlt, hnow, hoffset, hstate]
    · have hle : 2 ≤ s.alm.within := by omega
      rw [hm, if_neg hw]
      simp [hle, Almanac.enter, hnow, hoffset, State.raiseBoth_band]
      omega
  case locked =>
    intro s off hc hs hsrc hp hst hoff
    refine completes_of_exec (exec_referenceUpdate_of_ptm s off 0 hc hs (.inl ⟨hsrc, rfl⟩) hp) ?_
    have hacc : s.alm.accurate off = false := by simp [Almanac.accurate, hsrc, almAccuracy, hoff]
    obtain ⟨b, hstate, hm⟩ := s.measured_of_locked off hst hacc
    by_cases hw : s.alm.outside + 1 < 3
    · have hlt : ¬ 2 ≤ s.alm.outside := by omega
      rw [hm, if_pos hw]
      simp [hlt, hstate]
    · have hle : 2 ≤ s.alm.outside := by omega
      rw [hm, if_neg hw]
      simp [Almanac.enter]
      omega
  case edge =>
    intro s off hc hs hsrc hst hoff
    show execReferenceUpdate off s = _
    have hst' : ¬ s.boot.stage < 1 := by omega
    simp [execReferenceUpdate, hc, hst', hsrc, hst, hoff]
  case holdover =>
    intro s hc hs hsrc hst hm
    refine completes_of_exec (t := s.refMissing) ?_ ?_
    · show execReferenceMissing s = _
      simp [execReferenceMissing, hc, hs]
    · have hthree : 3 ≤ s.alm.missing + 1 := by omega
      simp [State.refMissing, hsrc, hst, hthree, Almanac.enter, Almanac.learnedRate, State.raiseBoth_band]
  case missing =>
    intro s hc hs hsrc hm
    refine completes_of_exec (t := s.refMissing) ?_ ?_
    · show execReferenceMissing s = _
      simp [execReferenceMissing, hc, hs]
    · have hnot : (s.alm.state = 2 && 3 ≤ s.alm.missing + 1) = false := by
        simp only [Bool.and_eq_false_iff, decide_eq_false_iff_not]
        omega
      simp only [State.refMissing, if_neg hsrc, hnot, Bool.false_eq_true, if_false]
      by_cases h1 : s.alm.state = 1
      · simp [h1, Almanac.keepRate]
      · simp [h1]

/-! ## Registers (R63 to R65) -/

theorem State.almWrites_valid {s : State} {a : RegAcc} {off : Nat} (h : s.almWrites a off = true) : a.valid = true := by
  simp only [State.almWrites] at h
  split at h
  · exact State.valid_of_pfWrites ‹_›
  · cases h

/-- A locked ALM_CTL is not written. -/
theorem State.almCtlWrite_of_locked (s : State) (a : RegAcc) (h : s.alm.lock = true) : s.almCtlWrite a = s := by
  simp only [State.almCtlWrite, h, if_true]

/-- What every write of an unlocked ALM_CTL leaves. -/
theorem State.almCtlWrite_fields (s : State) (a : RegAcc) (h : s.alm.lock = false) :
    (s.almCtlWrite a).alm.lock = a.bit 63 ∧ (s.almCtlWrite a).alm.master = a.flag 4 s.alm.master
      ∧ (s.almCtlWrite a).alm.now = s.alm.now ∧ (s.almCtlWrite a).crier = s.crier := by
  unfold State.almCtlWrite
  extract_lets m want ignored src zp b changed
  rw [if_neg (Bool.eq_false_iff.mp h)]
  split
  · exact ⟨rfl, rfl, rfl, rfl⟩
  · split <;> exact ⟨rfl, rfl, rfl, rfl⟩

/-- SOURCE and the state after a whole write that asks for a source of 0 to 3. -/
theorem State.almCtlWrite_source (s : State) (a : RegAcc) (h : s.alm.lock = false) (h8 : a.size = 8) (hlt : a.value.toNat % 8 < 4) :
    (s.almCtlWrite a).alm.source = a.value.toNat % 8
      ∧ (s.almCtlWrite a).alm.state
        = if a.value.toNat % 8 = s.alm.source then s.alm.state else if a.value.toNat % 8 = 0 then 0 else 1 := by
  unfold State.almCtlWrite
  extract_lets m want ignored src zp b changed
  have hwant : want = a.value.toNat % 8 := by simp [want, RegAcc.fld_of_whole h8, field]
  have hignored : ignored = false := by
    simp only [ignored, Bool.or_eq_false_iff, Bool.and_eq_false_iff, decide_eq_false_iff_not]
    omega
  have hsrc : src = a.value.toNat % 8 := by simp only [src, hignored, Bool.false_eq_true, if_false, hwant]
  have hchanged : changed = decide (src ≠ s.alm.source) := by
    have hfour : ¬ src = 4 := by omega
    simp only [changed, decide_eq_false hfour, Bool.false_and, Bool.or_false, m]
  rw [if_neg (Bool.eq_false_iff.mp h), hchanged, ← hsrc]
  by_cases heq : src = s.alm.source
  · simp only [heq, ne_eq, not_true, decide_false, Bool.not_false, if_true]
    exact ⟨heq, rfl⟩
  · simp only [heq, ne_eq, not_false_iff, decide_true, Bool.not_true, Bool.false_eq_true, if_false]
    split <;> exact ⟨rfl, rfl⟩

theorem exec_almCtlWrite (s : State) (a : RegAcc) (h : s.almWrites a offAlmCtl = true) :
    exec (.almCtlWrite a) s = .next (s.almCtlWrite a) := by
  show execAlmCtlWrite a s = _
  simp only [execAlmCtlWrite, h, if_true]

/-- Once LOCK is written, no access writes ALM_CTL. -/
theorem exec_almCtlWrite_of_locked (s : State) (a : RegAcc) (h : s.alm.lock = true) : exec (.almCtlWrite a) s = .next s := by
  show execAlmCtlWrite a s = _
  simp only [execAlmCtlWrite, s.almCtlWrite_of_locked a h, ite_self]

theorem toSigned_eq_toInt (w : Word) : toSigned 64 w.toNat = w.toInt := by
  rw [BitVec.toInt_eq_toNat_cond, toSigned]
  split <;> rename_i h <;> split <;> omega

theorem State.reply_alm (s : State) (src : Src) (size v : Nat) : (s.reply src size v).alm = s.alm := by
  cases src <;> rfl

theorem State.reply_mem (s : State) (src : Src) (size v : Nat) : (s.reply src size v).mem = s.mem := by
  cases src <;> rfl

/-- Settles O11. -/
theorem almanacRegistersAreWritten : Obligations.AlmanacRegistersAreWritten := by
  refine ⟨?ctl, ?locked, ?lock, ?step, ?whole, ?half⟩
  case ctl =>
    intro s a h hl h8 hlt
    obtain ⟨hlock, hmaster, hnow, -⟩ := s.almCtlWrite_fields a hl
    obtain ⟨hsrc, hst⟩ := s.almCtlWrite_source a hl h8 hlt
    refine completes_of_exec (exec_almCtlWrite s a h) ⟨hsrc, ?_, ?_, hnow, fun hne => ?_, fun heq => ?_⟩
    · rw [hlock, RegAcc.bit_of_whole h8]
    · rw [hmaster, RegAcc.flag_of_whole h8]
    · rw [hst, if_neg (hsrc ▸ hne), hsrc]
    · rw [hst, if_pos (hsrc ▸ heq)]
  case locked =>
    intro s a _ hl
    exact exec_almCtlWrite_of_locked s a hl
  case lock =>
    intro s a h hl h8 hb
    obtain ⟨hlock, -, hnow, hcrier⟩ := s.almCtlWrite_fields a hl
    refine completes_of_exec (t := s.almCtlWrite a) ?_ ⟨hlock.trans hb, fun b => ?_, hnow, hcrier⟩
    · show execAlmLock a s = _
      simp only [execAlmLock, h, hb, Bool.and_self, if_true]
    · exact exec_almCtlWrite_of_locked _ b (hlock.trans hb)
  case step =>
    intro s a h h8
    show execAlmStep a s = _
    simp only [execAlmStep, h, if_true, State.almStepWrite, RegAcc.merge_of_whole h8, toSigned_eq_toInt]
  case whole =>
    intro s port hr hl
    show execAlmNowRead (.dev port) 8 0 s = _
    simp [execAlmNowRead, hr, hl, State.almNowRead, State.reply, halfOf]
  case half =>
    intro s src hr hl
    refine completes_of_exec (t := s.almNowRead src 4 0) ?_ ⟨?_, ?_, ?_⟩
    · show execAlmNowRead src 4 0 s = _
      simp [execAlmNowRead, hr, hl]
    · simp [State.almNowRead, State.reply_alm]
    · simp [State.almNowRead, State.reply_alm]
    · simp [State.almNowRead, State.reply_mem]

/-! ## Tides and steps (R59, R60, R64) -/

theorem State.applyStep_of_none (s : State) (h : s.alm.step = none) : s.applyStep = s := by
  simp only [State.applyStep, h]

theorem State.stepOk_of_none (s : State) (h : s.alm.step = none) : s.stepOk = false := by
  simp only [State.stepOk, h]

/-- A boundary at which no step waits begins a tide. -/
theorem State.boundaryHere_of_none (s : State) (h : s.alm.step = none) :
    s.boundaryHere = { s with
      tide := { s.tide with boundary := some s.alm.now, tides := s.tide.tides + 1, open_ := true }
      pols := s.pols.mapAll {} fun _ q => q.atBoundary } := by
  simp only [State.boundaryHere, s.stepOk_of_none h, s.applyStep_of_none h, Bool.false_eq_true, if_false]

theorem State.stepOk_iff (s : State) (d : Int) (h : s.alm.step = some d) :
    s.stepOk = true ↔ s.noManifests = true ∧ 0 ≤ (s.alm.now : Int) + d ∧ (s.alm.now : Int) + d < 2 ^ 64 := by
  simp [State.stepOk, h, and_assoc]

/-- A step that may be taken ends the tide. -/
theorem State.applyStep_of_ok (s : State) (d : Int) (h : s.alm.step = some d) (hok : s.stepOk = true) :
    s.applyStep = { s with
      alm := { s.alm with now := ((s.alm.now : Int) + d).toNat, step := none }
      tide := { s.tide with boundary := none, open_ := false } } := by
  simp only [State.applyStep, h, hok, if_true]

theorem State.applyStep_of_refused (s : State) (d : Int) (h : s.alm.step = some d) (hok : s.stepOk = false) :
    s.applyStep = { s with alm := { s.alm with step := none, stepRefused := true } } := by
  simp only [State.applyStep, h, hok, Bool.false_eq_true, if_false]

/-- Settles O12. -/
theorem tidesAndStepsComplete : Obligations.TidesAndStepsComplete := by
  refine ⟨?tide, ?taken, ?refused, ?rise, ?noRise, ?fall, ?noFall, ?ptm⟩
  case tide =>
    intro s ht hstep
    refine completes_of_exec (t := (s.advanceTo s.nextBoundary).boundaryHere) ?_ ?_
    · show execTideBoundary s = _
      simp only [execTideBoundary, ht, if_true]
    · rw [State.boundaryHere_of_none _ (by simpa using hstep)]
      simp
  case taken =>
    intro s d hc ht hstep hm hlt hlo hhi
    refine completes_of_exec (t := (s.advanceTo (ceilDiv s.alm.now 4096 * 4096)).applyStep) ?_ ?_
    · show execAlmStepApply s = _
      simp [execAlmStepApply, hc, ht, hstep]
    · have hnow : (s.advanceTo (ceilDiv s.alm.now 4096 * 4096)).alm.now = ceilDiv s.alm.now 4096 * 4096 := by
        rw [State.advanceTo_now, Nat.mod_eq_of_lt hlt]
      have hs : (s.advanceTo (ceilDiv s.alm.now 4096 * 4096)).alm.step = some d := by simpa using hstep
      have hok : (s.advanceTo (ceilDiv s.alm.now 4096 * 4096)).stepOk = true := by
        rw [State.stepOk_iff _ d hs, hnow]
        exact ⟨by simpa [State.noManifests] using hm, by exact_mod_cast hlo, by exact_mod_cast hhi⟩
      rw [State.applyStep_of_ok _ d hs hok]
      refine ⟨?_, rfl, rfl, by simp⟩
      show (((s.advanceTo (ceilDiv s.alm.now 4096 * 4096)).alm.now + d).toNat : Int) = _
      rw [hnow, Int.toNat_of_nonneg (by exact_mod_cast hlo)]
      push_cast
      rfl
  case refused =>
    intro s d hc ht hstep hm
    refine completes_of_exec (t := (s.advanceTo s.nextBoundary).applyStep) ?_ ?_
    · show execAlmStepApply s = _
      simp [execAlmStepApply, hc, ht, hstep]
    · have hs : (s.advanceTo s.nextBoundary).alm.step = some d := by simpa using hstep
      have hok : (s.advanceTo s.nextBoundary).stepOk = false := by
        rw [← Bool.not_eq_true, State.stepOk_iff _ d hs]
        rintro ⟨hn, -⟩
        simp only [State.noManifests, State.advanceTo_pols] at hn
        rw [State.noManifests] at hm
        rw [hm] at hn
        cases hn
      rw [State.applyStep_of_refused _ d hs hok]
      simp
  case rise =>
    intro s hc hs hp hn
    show execPpsOutRise s = _
    have hnear : nearSecond s.alm.now = true := by simpa [nearSecond] using hn
    simp [execPpsOutRise, hc, hs, hp, hnear]
  case noRise =>
    intro s hlo hhi
    show execPpsOutRise s = _
    have hfar : nearSecond s.alm.now = false := by simp [nearSecond]; omega
    simp [execPpsOutRise, hfar]
  case fall =>
    intro s hp hc
    show execPpsOutFall s = _
    simp [execPpsOutFall, hp, hc]
  case noFall =>
    intro s hc
    show execPpsOutFall s = _
    have hnot : ¬ s.alm.ppsAt + 100000 ≤ s.clock := by omega
    simp [execPpsOutFall, hnot]
  case ptm =>
    intro s port hs hp hpass
    show execPtmRequest port s = _
    simp [execPtmRequest, hs, hp, hpass]

end Sys2Proof.Machine
end

section
/-! SUPPORT. A listed Hand that the end of a manifest uncovers (O23). -/

namespace Sys2Proof.Machine

open Sys2Proof

theorem completes.of_exec {c : Instr} {s t : State} {P : State → Prop} (h : completes c s P) (ht : exec c s = .next t) : P t := by
  obtain ⟨u, hu, hP⟩ := h
  rw [ht] at hu
  cases hu
  exact hP

/-- Hand 0 is listed twice: the first entry issues for manifest 0 of polder 2, and the second is busy with another kernel. A fence
of the manifest gives the first Hand up, which leaves it default, so that the second entry is then the one that `SMap.get` finds. -/
def shadowedHand : State where
  pols := [(2, { state := 2, running := [(0, {})] })]
  hands := [(0, { busy := true, running := true, pol := 2 }), (0, { busy := true })]

/-- Refutes O23: `SMap.mapAll` drops the Hand that the fence releases, and an entry of the same key behind it is busy; the
statement does not ask for maps in canonical form. -/
theorem not_illegalWordsFenceTheKernel : ¬ Obligations.IllegalWordsFenceTheKernel := by
  intro h
  have hdone := h.1 shadowedHand 0 0 1 (by decide) (by decide)
  obtain ⟨-, hbusy, -⟩ := hdone.of_exec rfl
  revert hbusy
  decide

end Sys2Proof.Machine
end

section
/-! SUPPORT. The Hands' lane and crew instructions: arithmetic, compares, votes and lane moves (R124 to R127). -/

namespace Sys2Proof.Machine

open Sys2Proof

/-! ## Lane operations -/

theorem iop_of_issues (s : State) (h : HandId) (i : FmtL) (hi : s.issues h = true) (hm : i.minor < 17) :
    exec (.iop h i) s = .next (s.laneOp h i.fsel.val i.finv i.xd.val (iopSrcs i.minor i.xa.val i.xb.val) fun c l =>
      iopFn i.minor (c.rx i.xa.val l) (c.rx i.xb.val l)) := by
  show execIop h i s = _
  simp [execIop, hi, Nat.not_le.mpr hm]

theorem iopi_of_issues (s : State) (h : HandId) (i : FmtI) (hi : s.issues h = true) (hm : i.minor < 17) :
    exec (.iopi h i) s = .next (s.laneOp h i.fsel.val i.finv i.xd.val [i.xa.val] fun c l =>
      iopFn i.minor (c.rx i.xa.val l) i.imm) := by
  show execIopi h i s = _
  simp [execIopi, hi, Nat.not_le.mpr hm]

theorem fop_of_issues (s : State) (h : HandId) (i : FmtL) (hi : s.issues h = true) (hm : i.minor < 8) :
    exec (.fop h i) s = .next (s.laneOp h i.fsel.val i.finv i.xd.val (fopSrcs i.minor i.xa.val i.xb.val i.xc.val) fun c l =>
      fopFn i.minor (c.rx i.xa.val l) (c.rx i.xb.val l) (c.rx i.xc.val l)) := by
  show execFop h i s = _
  simp [execFop, hi, Nat.not_le.mpr hm]

theorem fspec_of_issues (s : State) (h : HandId) (i : FmtL) (hi : s.issues h = true) (hm : i.minor < 6) :
    exec (.fspec h i) s = .next (s.laneOp h i.fsel.val i.finv i.xd.val [i.xa.val] fun c l =>
      fspecFn i.minor (c.rx i.xa.val l)) := by
  show execFspec h i s = _
  simp [execFspec, hi, Nat.not_le.mpr hm]

theorem cvt_of_issues (s : State) (h : HandId) (i : FmtL) (hi : s.issues h = true) (hm : i.minor < 9) :
    exec (.cvt h i) s = .next (s.laneOp h i.fsel.val i.finv i.xd.val (cvtSrcs i.minor i.xa.val i.xb.val) fun c l =>
      cvtFn i.minor (c.rx i.xa.val l) (c.rx i.xb.val l)) := by
  show execCvt h i s = _
  simp [execCvt, hi, Nat.not_le.mpr hm]

theorem toInt_ite_slt (a b : Lane) : (if a.slt b then a else b).toInt = min a.toInt b.toInt := by
  rw [BitVec.slt_eq_decide]
  by_cases h : a.toInt < b.toInt <;> simp [h] <;> omega

theorem toInt_ite_slt' (a b : Lane) : (if a.slt b then b else a).toInt = max a.toInt b.toInt := by
  rw [BitVec.slt_eq_decide]
  by_cases h : a.toInt < b.toInt <;> simp [h] <;> omega

theorem toNat_ite_ult (a b : Lane) : (if a.ult b then a else b).toNat = min a.toNat b.toNat := by
  rw [BitVec.ult_eq_decide]
  by_cases h : a.toNat < b.toNat <;> simp [h] <;> omega

theorem toNat_ite_ult' (a b : Lane) : (if a.ult b then b else a).toNat = max a.toNat b.toNat := by
  rw [BitVec.ult_eq_decide]
  by_cases h : a.toNat < b.toNat <;> simp [h] <;> omega

/-- The upper half of an unsigned product is a lane. -/
theorem toNat_mulhu (a b : Lane) : (BitVec.ofNat 32 (a.toNat * b.toNat / 2 ^ 32)).toNat = a.toNat * b.toNat / 2 ^ 32 := by
  have hlt : a.toNat * b.toNat < 2 ^ 32 * 2 ^ 32 := Nat.mul_lt_mul'' a.isLt b.isLt
  rw [BitVec.toNat_ofNat, Nat.mod_eq_of_lt (Nat.div_lt_of_lt_mul hlt)]

/-- Settles O17: each command is a lane operation, whose result `State.laneOp_result` gives. -/
theorem laneOperationsWriteXd : Obligations.LaneOperationsWriteXd :=
  ⟨fun s h i hi hm hr => completes_of_exec (iop_of_issues s h i hi hm) (s.laneOp_result h _ _ _ _ _ hi hr),
    fun s h i hi hm hr => completes_of_exec (iopi_of_issues s h i hi hm) (s.laneOp_result h _ _ _ _ _ hi hr),
    fun s h i hi hm hr => completes_of_exec (fop_of_issues s h i hi hm) (s.laneOp_result h _ _ _ _ _ hi hr),
    fun s h i hi hm hr => completes_of_exec (fspec_of_issues s h i hi hm) (s.laneOp_result h _ _ _ _ _ hi hr),
    fun s h i hi hm hr => completes_of_exec (cvt_of_issues s h i hi hm) (s.laneOp_result h _ _ _ _ _ hi hr),
    fun a b => ⟨rfl, rfl, rfl, rfl, rfl, rfl, toInt_ite_slt a b, toInt_ite_slt' a b, toNat_ite_ult a b, toNat_ite_ult' a b,
      toNat_mulhu a b⟩⟩

/-! ## Flags -/

theorem Hand.wf_frame (c : Hand) (r : Nat) (v : BitVec 16) (p : Bool) :
    c.wf r v p = { c with f := (c.wf r v p).f, fp := (c.wf r v p).fp } := by
  unfold Hand.wf; split <;> rfl

theorem Hand.rf_wf_same (c : Hand) (r : Nat) (v : BitVec 16) (p : Bool) (hr : r ≠ 0) : (c.wf r v p).rf r = v := by
  simp [Hand.wf, Hand.rf, hr]

theorem Hand.pf_wf_same (c : Hand) (r : Nat) (v : BitVec 16) (p : Bool) (hr : r ≠ 0) : (c.wf r v p).pf r = p := by
  simp [Hand.wf, Hand.pf, hr]

theorem Hand.rf_wf_other (c : Hand) (r r' : Nat) (v : BitVec 16) (p : Bool) (h : ¬(r' = r ∧ r' ≠ 0)) :
    (c.wf r v p).rf r' = c.rf r' ∧ (c.wf r v p).pf r' = c.pf r' := by
  unfold Hand.wf Hand.rf Hand.pf
  by_cases hr : r = 0
  · simp [hr]
  · by_cases hr' : r' = 0
    · simp [hr']
    · have hne : r' ≠ r := fun e => h ⟨e, hr'⟩
      simp [hr, hr', SMap.get_set_other _ _ _ _ _ hne]

theorem getLsbD_setBit16 (m : BitVec 16) (l k : Nat) (v : Bool) (hl : l < 16) :
    (setBit16 m l v).getLsbD k = if k = l then v else m.getLsbD k := by
  have hbit : (BitVec.ofNat 16 (2 ^ l)).getLsbD k = decide (l = k) := by
    rw [BitVec.getLsbD_ofNat, Nat.testBit_two_pow]
    by_cases hk : l = k
    · simp only [← hk, hl, decide_true, Bool.and_self]
    · simp only [hk, decide_false, Bool.and_false]
  unfold setBit16
  generalize BitVec.ofNat 16 (2 ^ l) = b at hbit
  by_cases hk : l = k
  · subst hk
    cases v <;> simp [hbit, hl]
  · cases v <;> simp [hbit, hk, Ne.symm hk]
    exact BitVec.lt_of_getLsbD

/-- The bits of a list of lanes set one after the other. -/
theorem getLsbD_foldl_setBit16 (ls : List Nat) (hl : ∀ l ∈ ls, l < 16) (f : Nat → Bool) (m : BitVec 16) (k : Nat) :
    (ls.foldl (fun m l => setBit16 m l (f l)) m).getLsbD k = if k ∈ ls then f k else m.getLsbD k := by
  induction ls generalizing m with
  | nil => simp
  | cons a ls ih =>
    rw [List.foldl_cons, ih (fun l h => hl l (List.mem_cons_of_mem _ h)), getLsbD_setBit16 _ _ _ _ (hl a List.mem_cons_self)]
    by_cases hk : k = a
    · subst hk; simp
    · simp [hk]

/-- A compare that may issue writes its flag and nothing else. -/
theorem State.compare_result (s : State) (h fsel : Nat) (finv : Bool) (fd : Nat) (srcs : List Nat) (f : Hand → Nat → Bool) :
    let c := s.hand h
    let ls := c.select fsel finv
    flagResult h fsel finv fd (f c)
      (c.pf fsel || (ls.any fun l => srcs.any fun r => c.px r l) || (c.pf fd && decide (ls.length ≠ 16))) s
      (s.updHand h fun c => (c.compare fsel finv fd srcs (f c)).next) := by
  intro c ls
  have hlt : ∀ l ∈ ls, l < 16 := fun l hl => Hand.mem_select c fsel finv l hl
  unfold flagResult
  simp only [State.hand_updHand]
  refine ⟨?_, fun r hr => Hand.rf_wf_other c fd r _ _ hr, fun hfd => ⟨Hand.pf_wf_same c fd _ _ hfd, fun l _ => ?_⟩⟩
  · convert State.onlyHand_updHand s h _ using 1
    unfold Hand.next Hand.compare
    rw [Hand.wf_frame]
  · show ((c.compare fsel finv fd srcs (f c)).rf fd).getLsbD l = _
    rw [Hand.compare, Hand.rf_wf_same _ _ _ _ hfd, getLsbD_foldl_setBit16 ls hlt]

theorem compareOp_of_ready (s : State) (h : Nat) (i : FmtL) (minors : Nat) (f : Nat → Lane → Lane → Bool) (hi : s.issues h = true)
    (hm : i.minor < minors) (hr : s.freeRegs h [i.xa.val, i.xb.val]) :
    s.compareOp h i minors f = s.updHand h fun c =>
      (c.compare i.fsel.val i.finv (i.xd.val % 8) [i.xa.val, i.xb.val] fun l => f i.minor (c.rx i.xa.val l) (c.rx i.xb.val l)).next := by
  simp only [State.compareOp, hi, State.ready_of s h _ hi hr, Nat.not_le.mpr hm, Bool.not_true, Bool.false_eq_true, if_false]

theorem compareOp_result (s : State) (h : Nat) (i : FmtL) (minors : Nat) (f : Nat → Lane → Lane → Bool) (hi : s.issues h = true)
    (hm : i.minor < minors) (hr : s.freeRegs h [i.xa.val, i.xb.val]) :
    let c := s.hand h
    let ls := c.select i.fsel.val i.finv
    flagResult h i.fsel.val i.finv (i.xd.val % 8) (fun l => f i.minor (c.rx i.xa.val l) (c.rx i.xb.val l))
      (c.pf i.fsel.val || (ls.any fun l => c.px i.xa.val l || c.px i.xb.val l) || (c.pf (i.xd.val % 8) && ls.length ≠ 16)) s
      (s.compareOp h i minors f) := by
  intro c ls
  rw [compareOp_of_ready s h i minors f hi hm hr]
  have hres := s.compare_result h i.fsel.val i.finv (i.xd.val % 8) [i.xa.val, i.xb.val]
    fun c l => f i.minor (c.rx i.xa.val l) (c.rx i.xb.val l)
  simpa only [List.any_cons, List.any_nil, Bool.or_false] using hres

/-! ## Lane moves and votes -/

theorem sel_of_ready (s : State) (h : HandId) (i : FmtL) (hi : s.issues h = true) (hm : i.minor = 0)
    (hr : s.freeRegs h [i.xd.val, i.xa.val, i.xb.val]) :
    exec (.sel h i) s = .next (s.updHand h fun c => (c.lanes i.fsel.val i.finv i.xd.val fun l =>
      (c.rx (if (c.rf (i.xc.val % 8)).getLsbD l then i.xa.val else i.xb.val) l,
        c.px i.xa.val l || c.px i.xb.val l || c.pf (i.xc.val % 8))).next) := by
  show execSel h i s = _
  simp [execSel, hi, hm, State.ready_of s h _ hi hr]

theorem xlane_of_ready (s : State) (h : HandId) (i : FmtL) (hi : s.issues h = true) (hm : i.minor < 11)
    (hr : s.freeRegs h [i.xd.val, i.xa.val, i.xb.val]) :
    exec (.xlane h i) s = .next (s.updHand h fun c =>
      (c.lanes i.fsel.val i.finv i.xd.val (c.xlaneVal i.minor i.xa.val i.xb.val (c.select i.fsel.val i.finv))).next) := by
  show execXlane h i s = _
  simp [execXlane, hi, Nat.not_le.mpr hm, State.ready_of s h _ hi hr]

theorem xu_splat_of_ready (s : State) (h : HandId) (i : FmtL) (hi : s.issues h = true) (hm : i.minor = 2 ∨ i.minor = 3)
    (hr : s.freeRegs h [i.xd.val]) :
    exec (.xu h i) s = .next (s.updHand h fun c => (c.lanes i.fsel.val i.finv i.xd.val fun _ =>
      ((c.rw (i.xa.val % 32) >>> (if i.minor = 2 then 0 else 32)).setWidth 32, c.pw (i.xa.val % 32))).next) := by
  show execXu h i s = _
  rcases hm with hm | hm <;> simp [execXu, hi, hm, State.ready_of s h _ hi hr]

theorem xu_bcast_of_ready (s : State) (h : HandId) (i : FmtL) (hi : s.issues h = true) (hm : i.minor = 0)
    (hr : s.freeRegs h [i.xa.val]) :
    exec (.xu h i) s = .next (s.updHand h fun c =>
      match c.select i.fsel.val i.finv with
      | l :: _ => (c.ww (i.xd.val % 32) ((c.rx i.xa.val l).setWidth 64) (c.px i.xa.val l || c.pf i.fsel.val)).next
      | [] => c.next) := by
  show execXu h i s = _
  simp only [execXu, hi, hm, State.ready_of s h _ hi hr, Bool.not_true, Bool.false_eq_true, if_false]
  rfl

/-- What BALLOT collects: flag XA of each selected lane. -/
def Hand.ballot (c : Hand) (i : FmtL) : Word :=
  ((c.select i.fsel.val i.finv).foldl (fun m l => setBit16 m l ((c.rf (i.xa.val % 8)).getLsbD l)) (0 : BitVec 16)).setWidth 64

theorem Hand.getLsbD_ballot (c : Hand) (i : FmtL) (l : Nat) (hl : l < 64) :
    (c.ballot i).getLsbD l = (decide (l ∈ c.select i.fsel.val i.finv) && (c.rf (i.xa.val % 8)).getLsbD l) := by
  rw [Hand.ballot, BitVec.getLsbD_setWidth, getLsbD_foldl_setBit16 _ fun k hk => Hand.mem_select c _ _ k hk]
  by_cases hm : l ∈ c.select i.fsel.val i.finv <;> simp [hm, hl]

theorem xu_ballot_of_issues (s : State) (h : HandId) (i : FmtL) (hi : s.issues h = true) (hm : i.minor = 1) :
    exec (.xu h i) s = .next (s.updHand h fun c =>
      (c.ww (i.xd.val % 32) (c.ballot i) (c.pf (i.xa.val % 8) || c.pf i.fsel.val)).next) := by
  show execXu h i s = _
  simp [execXu, hi, hm, Hand.ballot]

/-- A crew register is written with what the Hand as it stands gives, and the Hand moves on. -/
theorem State.crewResult_of_hand (s : State) (h wd : Nat) (v : Hand → Word) (bad : Hand → Bool) :
    crewResult h wd (v (s.hand h)) (bad (s.hand h)) s (s.updHand h fun c => (c.ww wd (v c) (bad c)).next) := by
  have hsame := s.updHand_congr h (fun c => (c.ww wd (v c) (bad c)).next)
    (fun c => (c.ww wd (v (s.hand h)) (bad (s.hand h))).next) rfl
  rw [hsame]
  exact s.crewResult_ww h wd _ _

/-- Settles O18. -/
theorem comparesVotesAndLanesComplete : Obligations.ComparesVotesAndLanesComplete := by
  refine ⟨?icmp, ?fcmp, ?sel, ?xlane, ?splat, ?bcast, ?ballot⟩
  case icmp =>
    intro s h i hi hm hr c ls
    exact ⟨_, rfl, compareOp_result s h i 6 icmpFn hi hm hr⟩
  case fcmp =>
    intro s h i hi hm hr c ls
    exact ⟨_, rfl, compareOp_result s h i 5 fcmpFn hi hm hr⟩
  case sel =>
    intro s h i hi hm hr c
    refine completes_of_exec (sel_of_ready s h i hi hm hr) ?_
    have hw := s.lanes_wrote h i.fsel.val i.finv i.xd.val fun c l =>
      (c.rx (if (c.rf (i.xc.val % 8)).getLsbD l then i.xa.val else i.xb.val) l,
        c.px i.xa.val l || c.px i.xb.val l || c.pf (i.xc.val % 8))
    have hval : (fun l => (if (c.rf (i.xc.val % 8)).getLsbD l then c.rx i.xa.val l else c.rx i.xb.val l,
        c.px i.xa.val l || c.px i.xb.val l || c.pf (i.xc.val % 8)))
      = fun l => (c.rx (if (c.rf (i.xc.val % 8)).getLsbD l then i.xa.val else i.xb.val) l,
        c.px i.xa.val l || c.px i.xb.val l || c.pf (i.xc.val % 8)) := by
      funext l
      split <;> rfl
    rw [hval]
    exact hw
  case xlane =>
    intro s h i hi hm hr
    exact completes_of_exec (xlane_of_ready s h i hi hm hr)
      (s.lanes_wrote h i.fsel.val i.finv i.xd.val fun c => c.xlaneVal i.minor i.xa.val i.xb.val (c.select i.fsel.val i.finv))
  case splat =>
    intro s h i hi hm hr c
    exact completes_of_exec (xu_splat_of_ready s h i hi hm hr) (s.lanes_wrote h i.fsel.val i.finv i.xd.val fun c _ =>
      ((c.rw (i.xa.val % 32) >>> (if i.minor = 2 then 0 else 32)).setWidth 32, c.pw (i.xa.val % 32)))
  case bcast =>
    intro s h i hi hm hr
    constructor
    · intro l ls hsel
      refine completes_of_exec (xu_bcast_of_ready s h i hi hm hr) ?_
      rw [s.updHand_congr h _ (fun c => (c.ww (i.xd.val % 32) ((c.rx i.xa.val l).setWidth 64) (c.px i.xa.val l || c.pf i.fsel.val)).next)
        (by simp only [hsel])]
      exact s.crewResult_of_hand h _ (fun c => (c.rx i.xa.val l).setWidth 64) fun c => c.px i.xa.val l || c.pf i.fsel.val
    · intro hsel
      refine completes_of_exec (xu_bcast_of_ready s h i hi hm hr) ?_
      rw [s.updHand_congr h _ Hand.next (by simp only [hsel])]
      exact s.onlyHand_updHand h Hand.next
  case ballot =>
    intro s h i hi hm
    have hcrew := s.crewResult_of_hand h (i.xd.val % 32) (fun c => c.ballot i) fun c => c.pf (i.xa.val % 8) || c.pf i.fsel.val
    refine completes_of_exec (xu_ballot_of_issues s h i hi hm) ⟨?_, fun hne l hl => ?_⟩
    · obtain ⟨hone, hregs⟩ := hcrew
      refine ⟨hone, fun r => ⟨fun hr => ?_, (hregs r).2⟩⟩
      obtain ⟨hv, hp⟩ := (hregs r).1 hr
      obtain ⟨rfl, hne⟩ := hr
      exact ⟨by rw [if_neg hne], hp⟩
    · obtain ⟨hv, -⟩ := (hcrew.2 _).1 ⟨rfl, hne⟩
      rw [hv, Hand.getLsbD_ballot _ _ _ hl]

end Sys2Proof.Machine
end

section
/-! SUPPORT. What traffic that leaves the module does not touch: sends to links and hosts, event posts, and the barrier across
modules. -/

namespace Sys2Proof.Machine

open Sys2Proof

/-- The state without what outgoing traffic changes: links, ports, quays, collectors, the Crier, and the model's own counters. -/
def State.solid (s : State) : State :=
  { s with seed := 0, nextId := 0, quays := [], collectors := [], links := [], ports := [], crier := {} }

section
variable {s t : State} (h : t.solid = s.solid)
include h

theorem State.hands_of_solid : t.hands = s.hands :=
  (congrArg State.hands h : t.solid.hands = s.solid.hands)
theorem State.hand_of_solid (j : Nat) : t.hand j = s.hand j := by
  rw [State.hand, State.hand, State.hands_of_solid h]
theorem State.pols_of_solid : t.pols = s.pols :=
  (congrArg State.pols h : t.solid.pols = s.solid.pols)
theorem State.pol_of_solid (p : Nat) : t.pol p = s.pol p := by
  rw [State.pol, State.pol, State.pols_of_solid h]
theorem State.mem_of_solid : t.mem = s.mem :=
  (congrArg State.mem h : t.solid.mem = s.solid.mem)
theorem State.bins_of_solid : t.bins = s.bins :=
  (congrArg State.bins h : t.solid.bins = s.solid.bins)
theorem State.boot_of_solid : t.boot = s.boot :=
  (congrArg State.boot h : t.solid.boot = s.solid.boot)
theorem State.alm_of_solid : t.alm = s.alm :=
  (congrArg State.alm h : t.solid.alm = s.solid.alm)
theorem State.img_of_solid : t.img = s.img :=
  (congrArg State.img h : t.solid.img = s.solid.img)

end

@[simp] theorem State.updLink_solid (s : State) (n : Nat) (f : LinkPort → LinkPort) : (s.updLink n f).solid = s.solid := rfl
@[simp] theorem State.updPort_solid (s : State) (n : Nat) (f : HostPort → HostPort) : (s.updPort n f).solid = s.solid := rfl
@[simp] theorem State.updCollector_solid (s : State) (p n : Nat) (f : Collector → Collector) :
    (s.updCollector p n f).solid = s.solid := rfl
@[simp] theorem State.free_solid (s : State) (w : Nat) : (s.free w).2.solid = s.solid := rfl
@[simp] theorem State.freshId_solid (s : State) : s.freshId.2.solid = s.solid := rfl
@[simp] theorem State.raise_solid (s : State) (code : Code) (source book pol : Nat) (detail : List Byte) :
    (s.raise code source book pol detail).solid = s.solid := rfl
@[simp] theorem State.raiseOwn_solid (s : State) (code : Code) (source p : Nat) (detail : List Byte) :
    (s.raiseOwn code source p detail).solid = s.solid := rfl
@[simp] theorem State.raiseBoth_solid (s : State) (code : Code) (source : Nat) (detail : List Byte) :
    (s.raiseBoth code source detail).solid = s.solid := rfl
@[simp] theorem State.permission_solid (s : State) (source p addr engine : Nat) :
    (s.permission source p addr engine).solid = s.solid := rfl
@[simp] theorem State.toHost_solid (s : State) (port : Nat) (m : HostMsg) : (s.toHost port m).solid = s.solid := rfl

/-- A fold of steps that leave a projection of the state alone leaves it alone. -/
theorem foldl_keeps_proj {α β σ : Type} (g : σ → β) (f : σ → α → σ) (hf : ∀ s a, g (f s a) = g s) (l : List α) (s : σ) :
    g (l.foldl f s) = g s := by
  induction l generalizing s with
  | nil => rfl
  | cons a l ih => rw [List.foldl_cons, ih, hf]

@[simp] theorem State.sendTxn_solid (s : State) (n p cls : Nat) (t : Txn) : (s.sendTxn n p cls t).solid = s.solid := by
  unfold State.sendTxn
  split <;> rfl

@[simp] theorem State.sendBarrier_solid (s : State) (p number m dst : Nat) : (s.sendBarrier p number m dst).solid = s.solid := by
  unfold State.sendBarrier
  split <;> simp

@[simp] theorem State.barrierArrival_solid (s : State) (p : Nat) (b : BarrierDecl) (m pol : Nat) :
    (s.barrierArrival p b m pol).solid = s.solid := by
  unfold State.barrierArrival
  extract_lets c got
  split
  · exact (foldl_keeps_proj State.solid _ (fun s x => State.sendBarrier_solid s _ _ _ _) _ _).trans (State.updCollector_solid ..)
  · rw [State.updCollector_solid]

@[simp] theorem State.barrierLocal_solid (s : State) (p : Nat) (b : BarrierDecl) : (s.barrierLocal p b).solid = s.solid := by
  simp only [State.barrierLocal]
  split <;> simp

@[simp] theorem State.setReached_solid (s : State) (h n : Nat) : (s.setReached h n).solid = s.solid := by
  simp only [State.setReached]
  split
  · split
    · rw [State.barrierLocal_solid]
    · rfl
  · rfl

end Sys2Proof.Machine
end

section
/-! SUPPORT. The Hands' control instructions: crew integers, branches, divergence, and the system instructions (R126 to R130). -/

namespace Sys2Proof.Machine

open Sys2Proof

/-! ## Crew integers and branches -/

/-- A shift that names no result draws a free value (R126). -/
def uopDraws (s : State) (h : Nat) (i : FmtU) : Bool := (i.minor = 5 || i.minor = 6) && 64 ≤ ((s.hand h).rw i.wb.val).toNat

/-- Without a draw the free value is not used. -/
theorem uopFn_of_no_draw (s : State) (h : Nat) (i : FmtU) (hd : uopDraws s h i = false) (old a imm v w : Word) :
    uopFn i.minor old a ((s.hand h).rw i.wb.val) imm v = uopFn i.minor old a ((s.hand h).rw i.wb.val) imm w := by
  simp only [uopDraws, Bool.and_eq_false_iff, Bool.or_eq_false_iff, decide_eq_false_iff_not, Nat.not_le] at hd
  obtain ⟨h5, h6⟩ | hlt := hd
  · unfold uopFn
    split <;> simp_all
  · unfold uopFn
    split <;> simp [hlt]

theorem uop_of_issues (s : State) (h : HandId) (i : FmtU) (hi : s.issues h = true) (hm : i.minor < 14) :
    exec (.uop h i) s = .next ({ s with seed := if uopDraws s h i then s.seed + 1 else s.seed }.updHand h fun c =>
      (c.ww i.wd.val (uopFn i.minor (c.rw i.wd.val) (c.rw i.wa.val) ((s.hand h).rw i.wb.val) (i.imm.signExtend 64)
          (if uopDraws s h i then Config.freeBits 64 s.seed else 0))
        ((uopSrcs i.minor i.wd.val i.wa.val i.wb.val).any c.pw)).next) := by
  show execUop h i s = _
  simp only [execUop, hi, Nat.not_le.mpr hm, Bool.not_true, Bool.false_eq_true, if_false]
  by_cases hd : uopDraws s h i
  · simp only [hd, if_true]
    simp only [uopDraws] at hd
    simp only [hd, if_true, State.free]
  · simp only [hd, Bool.false_eq_true, if_false]
    simp only [uopDraws] at hd
    simp only [hd, Bool.false_eq_true, if_false]

theorem bra_of_issues (s : State) (h : HandId) (i : FmtB) (hi : s.issues h = true) (hm : i.minor < 3)
    (hp : i.minor ≠ 0 → (s.hand h).pw i.wa.val = false) :
    exec (.bra h i) s = .next (s.updHand h fun c =>
      if i.minor = 0 || (i.minor = 1 && (s.hand h).rw i.wa.val = 0) || (i.minor = 2 && (s.hand h).rw i.wa.val ≠ 0)
      then { c with pc := target c.pc i.t2 } else c.next) := by
  show execBra h i s = _
  have hcond : (decide (i.minor ≠ 0) && (s.hand h).pw i.wa.val) = false := by
    by_cases h0 : i.minor = 0 <;> simp [h0, hp]
  simp only [execBra, hi, Nat.not_le.mpr hm, hcond, Bool.not_true, Bool.false_eq_true, if_false]

/-- UOP 9 puts the immediate above the low half. -/
theorem toNat_uopFn_setHigh (old a b imm free : Word) :
    (uopFn 9 old a b imm free).toNat = 2 ^ 32 * (imm.toNat % 2 ^ 32) + old.toNat % 2 ^ 32 := by
  have hlow : (old &&& 0xFFFFFFFF).toNat = old.toNat % 2 ^ 32 := Nat.and_two_pow_sub_one_eq_mod old.toNat 32
  have hhigh : (imm <<< 32).toNat = 2 ^ 32 * (imm.toNat % 2 ^ 32) := by
    rw [BitVec.toNat_shiftLeft, Nat.shiftLeft_eq]
    omega
  show ((old &&& (0xFFFFFFFF : Word)) ||| (imm <<< 32)).toNat = _
  rw [BitVec.toNat_or, hlow, hhigh, Nat.lor_comm, Nat.two_pow_add_eq_or_of_lt (Nat.mod_lt _ (by decide))]

/-- Settles O19. -/
theorem crewIntegerAndBranchComplete : Obligations.CrewIntegerAndBranchComplete := by
  refine ⟨?uop, ?values, ?bra, ?poisoned⟩
  case uop =>
    intro s h i hi hm c open_
    refine completes_of_exec (uop_of_issues s h i hi hm) ⟨?_, ?_⟩
    · have hval : uopFn i.minor (c.rw i.wd.val) (c.rw i.wa.val) (c.rw i.wb.val) (i.imm.signExtend 64) (Config.freeBits 64 s.seed)
          = uopFn i.minor (c.rw i.wd.val) (c.rw i.wa.val) (c.rw i.wb.val) (i.imm.signExtend 64)
            (if uopDraws s h i then Config.freeBits 64 s.seed else 0) := by
        by_cases hd : uopDraws s h i
        · rw [if_pos hd]
        · exact uopFn_of_no_draw s h i (Bool.eq_false_iff.mpr hd) _ _ _ _ _
      rw [hval]
      exact State.crewResult_of_hand { s with seed := if uopDraws s h i then s.seed + 1 else s.seed } h i.wd.val
        (fun c => uopFn i.minor (c.rw i.wd.val) (c.rw i.wa.val) ((s.hand h).rw i.wb.val) (i.imm.signExtend 64)
          (if uopDraws s h i then Config.freeBits 64 s.seed else 0))
        fun c => (uopSrcs i.minor i.wd.val i.wa.val i.wb.val).any c.pw
    · simp only [State.updHand_seed]
      refine if_congr ?_ rfl rfl
      simp [uopDraws, open_, c]
  case values =>
    intro a b old imm free
    refine ⟨rfl, rfl, rfl, fun hb => ⟨if_pos hb, if_pos hb⟩, fun hb => ⟨if_neg (by omega), if_neg (by omega)⟩, ?_, ?_, ?_, ?_⟩
    · rw [toNat_uopFn_setHigh]
      omega
    · rw [toNat_uopFn_setHigh]
      omega
    · simp [uopFn, BitVec.slt_eq_decide]
    · simp [uopFn, BitVec.ult_eq_decide]
  case bra =>
    intro s h i hi hm hp
    refine completes_of_exec (bra_of_issues s h i hi hm hp) ?_
    convert s.onlyHand_updHand h _ using 1
    simp only [Bool.or_eq_true, Bool.and_eq_true, decide_eq_true_eq, or_assoc]
    split <;> rfl
  case poisoned =>
    intro s h i hi hm hp
    show execBra h i s = _
    rcases hm with hm | hm <;> simp [execBra, hi, hm, hp]

/-! ## Divergence (R128 to R130) -/

/-- The Hand as the end of its task leaves it, whatever barrier the task's end completes. -/
theorem State.hand_taskOver (s : State) (h : Nat) : (s.taskOver h).hand h = (s.hand h).endTask s.clock := by
  have hupd : (s.updHand h fun c => c.endTask s.clock).hand h = (s.hand h).endTask s.clock := s.hand_updHand h _
  simp only [State.taskOver]
  split
  · split
    · split
      · rw [State.hand_of_solid (State.setReached_solid ..)]
        exact hupd
      · exact hupd
    · exact hupd
  · exact hupd

theorem State.hand_taskOver_other (s : State) (h j : Nat) (hj : j ≠ h) : (s.taskOver h).hand j = s.hand j := by
  have hupd : (s.updHand h fun c => c.endTask s.clock).hand j = s.hand j := s.hand_updHand_other h _ j hj
  simp only [State.taskOver]
  split
  · split
    · split
      · rw [State.hand_of_solid (State.setReached_solid ..)]
        exact hupd
      · exact hupd
    · exact hupd
  · exact hupd

/-- `settle` follows R129: a mask that stays empty ends the task. -/
theorem State.settle_result (s : State) (h : Nat) (a : BitVec 16) (st : List MaskEntry) (pc : Int) :
    maskResult h (s.hand h) a st pc s (s.settle h a st pc) := by
  simp only [maskResult, State.settle]
  generalize (if a ≠ 0 then (st, a, pc) else unwind (s.hand h).exited pc st) = r
  obtain ⟨st', m, p⟩ := r
  show (m ≠ 0 → _) ∧ (m = 0 → _)
  constructor
  · intro hm
    simp only [if_neg hm]
    exact s.onlyHand_updHand h fun c => { c with active := m, stack := st', pc := p }
  · intro hm
    simp only [if_pos hm, State.hand_taskOver, State.hand_updHand]
    exact ⟨rfl, rfl, rfl⟩

/-- EXIT: as `settle_result`, of a Hand that other lanes have left first. -/
theorem State.settle_result_after (s : State) (h : Nat) (f : Hand → Hand) (a : BitVec 16) (st : List MaskEntry) (pc : Int) :
    maskResult h (f (s.hand h)) a st pc s ((s.updHand h f).settle h a st pc) := by
  have hres := (s.updHand h f).settle_result h a st pc
  rw [s.hand_updHand h f] at hres
  obtain ⟨hrun, hend⟩ := hres
  refine ⟨fun hm => ?_, hend⟩
  obtain ⟨heq, hother, hself⟩ := hrun hm
  exact ⟨heq, fun j hj => (hother j hj).trans (s.hand_updHand_other h f j hj), hself⟩

/-- Settles O20: each instruction is a `settle` of the mask, the stack and the counter that R128 and R129 name. -/
theorem divergenceFollowsTheMaskStack : Obligations.DivergenceFollowsTheMaskStack := by
  refine ⟨?divIf, ?divElse, ?divEndif, ?divLoop, ?divBreak, ?divEndloop, ?full, ?noLoop, ?wrongEntry, ?poisoned⟩
  case divIf =>
    intro s h i hi hp hlen c
    refine completes_of_exec ?_ (s.settle_result h _ _ _)
    show execDivIf h i s = _
    simp only [execDivIf, hi, hp, stackLimit, Nat.not_le.mpr hlen, Bool.not_true, Bool.false_eq_true, if_false]
    rfl
  case divElse =>
    intro s h i e r hi hs hk
    refine completes_of_exec ?_ (s.settle_result h _ _ _)
    show execDivElse h i s = _
    simp only [execDivElse, hi, hs, hk, Bool.not_true, Bool.false_eq_true, if_false]
  case divEndif =>
    intro s h i e r hi hs hk
    refine completes_of_exec ?_ (s.settle_result h _ _ _)
    show execDivEndif h i s = _
    simp only [execDivEndif, hi, hs, hk, Bool.not_true, Bool.false_eq_true, if_false]
  case divLoop =>
    intro s h i hi hlen
    refine completes_of_exec ?_ (s.onlyHand_updHand h fun c => { c with
      stack := { kind := .loopK, saved := (s.hand h).active, t1 := (s.hand h).pc + 1, t2 := (s.hand h).pc + i.t2.toInt } :: c.stack
      pc := c.pc + 1 })
    show execDivLoop h i s = _
    simp only [execDivLoop, hi, stackLimit, Nat.not_le.mpr hlen, Bool.not_true, Bool.false_eq_true, if_false]
    rfl
  case divBreak =>
    intro s h i hi hp hloop c
    refine completes_of_exec ?_ (s.settle_result h _ _ _)
    have hany : ((s.hand h).stack.any fun e => e.kind = .loopK) = true := by
      simpa only [List.any_eq_true, decide_eq_true_eq] using hloop
    show execDivBreak h i s = _
    simp only [execDivBreak, hi, hp, hany, Bool.not_true, Bool.false_eq_true, if_false]
    rfl
  case divEndloop =>
    intro s h i e hi he
    refine completes_of_exec ?_ (s.settle_result h _ _ _)
    show execDivEndloop h i s = _
    simp only [execDivEndloop, hi, he, Bool.not_true, Bool.false_eq_true, if_false]
  case full =>
    intro s h i hi hlen
    constructor
    · intro hp
      show execDivIf h i s = _
      simp only [execDivIf, hi, hp, stackLimit, hlen, Bool.not_true, Bool.false_eq_true, if_false, if_true]
    · show execDivLoop h i s = _
      simp only [execDivLoop, hi, stackLimit, hlen, Bool.not_true, Bool.false_eq_true, if_false, if_true]
  case noLoop =>
    intro s h i hi hno
    have hany : ((s.hand h).stack.any fun e => e.kind = .loopK) = false := by
      simpa only [List.any_eq_false, decide_eq_true_eq] using hno
    have hfind : ((s.hand h).stack.find? fun e => e.kind = .loopK) = none := by
      simpa only [List.find?_eq_none, decide_eq_true_eq] using hno
    refine ⟨?_, ?_, fun hs => ⟨?_, ?_⟩⟩
    · show execDivBreak h i s = _
      simp only [execDivBreak, hi, hany, Bool.not_true, Bool.not_false, Bool.false_eq_true, if_false, if_true]
    · show execDivEndloop h i s = _
      simp only [execDivEndloop, hi, hfind, Bool.not_true, Bool.false_eq_true, if_false]
    · show execDivElse h i s = _
      simp only [execDivElse, hi, hs, Bool.not_true, Bool.false_eq_true, if_false]
    · show execDivEndif h i s = _
      simp only [execDivEndif, hi, hs, Bool.not_true, Bool.false_eq_true, if_false]
  case wrongEntry =>
    intro s h i e r hi hs hk
    constructor
    · show execDivElse h i s = _
      simp only [execDivElse, hi, hs, hk, Bool.not_true, Bool.false_eq_true, if_false, if_true]
    · show execDivEndif h i s = _
      simp only [execDivEndif, hi, hs, hk, Bool.not_true, Bool.false_eq_true, if_false, if_true]
  case poisoned =>
    intro s h i hi hp
    constructor
    · show execDivIf h i s = _
      simp only [execDivIf, hi, hp, Bool.not_true, Bool.false_eq_true, if_false, if_true]
    · intro hloop
      have hany : ((s.hand h).stack.any fun e => e.kind = .loopK) = true := by
        simpa only [List.any_eq_true, decide_eq_true_eq] using hloop
      show execDivBreak h i s = _
      simp only [execDivBreak, hi, hp, hany, Bool.not_true, Bool.false_eq_true, if_false, if_true]

/-! ## Running manifests -/

theorem Polder.isRunning_of_kernelDecl {s : State} {p seq kernel : Nat} {x : Nat × KernelDecl}
    (hk : s.kernelDecl p seq kernel = some x) : (s.pol p).isRunning seq = true := by
  by_contra hn
  simp [State.kernelDecl, hn] at hk

theorem State.run_updRun (s : State) (p seq : Nat) (f : Run → Run) (hr : (s.pol p).isRunning seq = true) :
    ((s.updRun p seq f).pol p).run seq = f ((s.pol p).run seq) := by
  simp only [State.updRun, State.pol_updPol, hr, if_true]
  exact SMap.get_upd_same _ _ _ _

theorem State.run_updRun_other (s : State) (p seq seq' : Nat) (f : Run → Run) (h : seq' ≠ seq) :
    ((s.updRun p seq f).pol p).run seq' = (s.pol p).run seq' := by
  simp only [State.updRun, State.pol_updPol]
  split
  · exact SMap.get_upd_other _ _ _ _ _ h
  · rfl

theorem State.pol_updRun_other (s : State) (p seq q : Nat) (f : Run → Run) (h : q ≠ p) : (s.updRun p seq f).pol q = s.pol q :=
  s.pol_updPol_other p _ q h

theorem State.kernel_updKernel (s : State) (p seq j : Nat) (f : KernelRun → KernelRun) (hr : (s.pol p).isRunning seq = true) :
    (((s.updKernel p seq j f).pol p).run seq).kernels.get {} j = f (((s.pol p).run seq).kernels.get {} j) := by
  rw [State.updKernel, s.run_updRun p seq _ hr]
  exact SMap.get_upd_same _ _ _ _

/-! ## System instructions -/

/-- A task that ends is counted in its kernel. -/
theorem State.tasksDone_taskOver (s : State) (h j : Nat) (k : KernelDecl)
    (hk : s.kernelDecl (s.hand h).pol (s.hand h).runSeq (s.hand h).kernel = some (j, k)) :
    ((((s.taskOver h).pol (s.hand h).pol).run (s.hand h).runSeq).kernels.get {} j).tasksDone
      = (((s.pol (s.hand h).pol).run (s.hand h).runSeq).kernels.get {} j).tasksDone + 1 := by
  have hk' : (s.updHand h fun c => c.endTask s.clock).kernelDecl (s.hand h).pol (s.hand h).runSeq (s.hand h).kernel = some (j, k) := hk
  have hrun : ((s.updHand h fun c => c.endTask s.clock).pol (s.hand h).pol).isRunning (s.hand h).runSeq = true :=
    Polder.isRunning_of_kernelDecl hk'
  have hdone := State.kernel_updKernel (s.updHand h fun c => c.endTask s.clock) (s.hand h).pol (s.hand h).runSeq j
    (fun k => { k with tasksDone := k.tasksDone + 1 }) hrun
  simp only [State.taskOver, hk']
  split
  · split
    · rw [State.pol_of_solid (State.setReached_solid ..), hdone]
      rfl
    · rw [hdone]
      rfl
  · rw [hdone]
    rfl

theorem State.mem_taskOver (s : State) (h : Nat) : (s.taskOver h).mem = s.mem := by
  simp only [State.taskOver]
  split
  · split
    · split
      · rw [State.mem_of_solid (State.setReached_solid ..)]
        rfl
      · rfl
    · rfl
  · rfl

theorem State.bins_taskOver (s : State) (h : Nat) : (s.taskOver h).bins = s.bins := by
  simp only [State.taskOver]
  split
  · split
    · split
      · rw [State.bins_of_solid (State.setReached_solid ..)]
        rfl
      · rfl
    · rfl
  · rfl

theorem leBytes_length (n v : Nat) : (leBytes n v).length = n := by
  induction n generalizing v with
  | zero => rfl
  | succ n ih => simp [leBytes, ih]

/-- Settles O21. -/
theorem systemInstructionsComplete : Obligations.SystemInstructionsComplete := by
  refine ⟨?nop, ?rdalm, ?rdcyc, ?sysEnd, ?sysExit, ?sysTrap⟩
  case nop =>
    intro s h i hi
    refine completes_of_exec ?_ (s.onlyHand_updHand h Hand.next)
    show execNop h i s = _
    simp only [execNop, hi, if_true]
  case rdalm =>
    intro s h i hi
    refine completes_of_exec ?_ (s.crewResult_ww h i.wa.val _ false)
    show execRdalm h i s = _
    simp only [execRdalm, hi, Bool.not_true, Bool.false_eq_true, if_false]
  case rdcyc =>
    intro s h i j k hi hk
    refine completes_of_exec ?_ (s.crewResult_ww h i.wa.val _ false)
    show execRdcyc h i s = _
    simp only [execRdcyc, hi, hk, Bool.not_true, Bool.false_eq_true, if_false]
  case sysEnd =>
    intro s h i hi
    refine completes_of_exec (t := s.taskOver h) ?_ ⟨?_, ?_, ?_, s.mem_taskOver h, s.bins_taskOver h, s.hand_taskOver_other h,
      fun j k hk => s.tasksDone_taskOver h j k hk⟩
    · show execSysEnd h i s = _
      simp only [execSysEnd, hi, if_true]
    · rw [s.hand_taskOver h]
      rfl
    · rw [s.hand_taskOver h]
      rfl
    · rw [s.hand_taskOver h]
      rfl
  case sysExit =>
    intro s h i hi c d
    refine completes_of_exec ?_ (s.settle_result_after h (fun c => { c with
      exited := c.exited ||| (s.hand h).active
      stack := c.stack.map fun e => { e with
        saved := e.saved &&& ~~~(s.hand h).active, pend := e.pend &&& ~~~(s.hand h).active } }) 0 d.stack (c.pc + 1))
    show execSysExit h i s = _
    simp only [execSysExit, hi, Bool.not_true, Bool.false_eq_true, if_false, State.hand_updHand]
    rfl
  case sysTrap =>
    intro s h i hi
    refine completes_of_exec (t := (s.raiseOwn .handTrap (srcHand h) (s.hand h).pol
      (putAt ((s.hand h).detail h 0 (i.imm.toNat % 65536)) 4 (leBytes 8 ((s.hand h).rw i.wa.val).toNat))).updHand h Hand.next) ?_ ?_
    · show execSysTrap h i s = _
      simp only [execSysTrap, hi, Bool.not_true, Bool.false_eq_true, if_false]
    · refine ⟨by rw [State.hand_updHand]; rfl, by rw [State.hand_updHand]; rfl, rfl, fun j hj => State.hand_updHand_other _ _ _ _ hj,
        _, rfl, rfl, rfl, rfl, rfl, ?_, ?_⟩
      · simp [Hand.detail, putAt, slice, leBytes]
      · simp [Hand.detail, putAt, slice, leBytes]

end Sys2Proof.Machine
end

section
/-! SUPPORT. Fences, tallies and barriers of the Hands (R137, R142 to R144, R213, R222). -/

namespace Sys2Proof.Machine

open Sys2Proof

/-- A release at die scope or wider waits for stores and atomics. -/
theorem State.released_die_of_busy (s : State) (h : Nat) (hw : (s.hand h).stores ≠ [] ∨ (s.hand h).atoms ≠ []) :
    s.released h 1 = false := by
  have hbusy : ((s.hand h).stores.isEmpty && (s.hand h).atoms.isEmpty) = false := by
    rcases hw with hw | hw <;> simp [hw]
  simp [State.released, hbusy]

theorem Hand.acquireAt_eq (c : Hand) (scope : Nat) : (c.acquireAt scope).next = { c with
    l1 := if scope = 0 then c.l1 else [], pc := c.pc + 1 } := by
  unfold Hand.acquireAt Hand.next
  split <;> simp [Hand.acquire, *]

/-- Settles O29. -/
theorem fencesAndTalliesComplete : Obligations.FencesAndTalliesComplete := by
  refine ⟨?rel, ?relWaits, ?acqWaits, ?acq, ?acqCrew, ?acqrel, ?relStores, ?met, ?stops, ?satisfied, ?read⟩
  case rel =>
    intro s h i hi hr
    show execFenceRel h i s = _
    simp only [execFenceRel, hi, hr, Bool.and_self, if_true]
    rfl
  case relWaits =>
    intro s h i hi hr
    constructor
    · show execFenceRel h i s = _
      simp only [execFenceRel, hr, Bool.and_false, Bool.false_eq_true, if_false]
    · show execFenceAcqrel h i s = _
      simp only [execFenceAcqrel, hr, Bool.and_false, Bool.false_and, Bool.false_eq_true, if_false]
  case acqWaits =>
    intro s h i hi h0 hr
    have hno : (s.hand h).mayAcquire (fenceScope i) = false := by simp [Hand.mayAcquire, h0, hr]
    constructor
    · show execFenceAcq h i s = _
      simp only [execFenceAcq, hno, Bool.and_false, Bool.false_eq_true, if_false]
    · show execFenceAcqrel h i s = _
      simp only [execFenceAcqrel, hno, Bool.and_false, Bool.false_eq_true, if_false]
  case acq =>
    intro s h i hi h0 hr
    have hyes : (s.hand h).mayAcquire (fenceScope i) = true := by simp [Hand.mayAcquire, hr]
    show execFenceAcq h i s = _
    simp only [execFenceAcq, hi, hyes, Bool.and_self, if_true, Hand.acquireAt_eq, if_neg h0]
  case acqCrew =>
    intro s h i hi h0
    have hyes : (s.hand h).mayAcquire (fenceScope i) = true := by simp [Hand.mayAcquire, h0]
    show execFenceAcq h i s = _
    simp only [execFenceAcq, hi, hyes, Bool.and_self, if_true, Hand.acquireAt_eq, if_pos h0]
  case acqrel =>
    intro s h i hi hr ha
    have hyes : (s.hand h).mayAcquire (fenceScope i) = true := by
      by_cases h0 : fenceScope i = 0
      · simp [Hand.mayAcquire, h0]
      · simp [Hand.mayAcquire, ha h0]
    show execFenceAcqrel h i s = _
    simp only [execFenceAcqrel, hi, hr, hyes, Bool.and_self, if_true, Hand.acquireAt_eq]
  case relStores =>
    intro s h i h1 hw
    have hr : s.released h (fenceScope i) = false := by rw [h1]; exact s.released_die_of_busy h hw
    constructor
    · show execFenceRel h i s = _
      simp only [execFenceRel, hr, Bool.and_false, Bool.false_eq_true, if_false]
    · show execFenceAcqrel h i s = _
      simp only [execFenceAcqrel, hr, Bool.and_false, Bool.false_and, Bool.false_eq_true, if_false]
  case met =>
    intro s h i hi hp ht hr
    show execTallyWait h i s = _
    simp only [execTallyWait, hi, hp, ht, hr, Bool.not_true, Bool.false_eq_true, if_false, if_true]
    rfl
  case stops =>
    intro s h i hi hp ht
    show execTallyWait h i s = _
    simp only [execTallyWait, hi, hp, Nat.not_le.mpr ht, Bool.not_true, Bool.false_eq_true, if_false]
    refine congrArg Host.Outcome.next (s.updHand_congr h _ _ rfl)
  case satisfied =>
    intro s h n g hw ht hb hs hr
    have hmet : s.waitMet h = true := by simp [State.waitMet, hw, ht]
    show execTallySatisfied h s = _
    simp only [execTallySatisfied, hw, hmet, hr, hb, hs, Bool.not_false, Bool.and_self, if_true]
    rfl
  case read =>
    intro s h i hi
    refine completes_of_exec ?_ (s.crewResult_of_hand h i.wa.val
      (fun c => BitVec.ofNat 64 ((s.pol c.pol).tallies.get 0 (tallyNo i))) fun _ => false)
    show execTallyRead h i s = _
    simp only [execTallyRead, hi, Bool.not_true, Bool.false_eq_true, if_false]

/-! ## Lists of Hands changed one after the other -/

/-- A Hand that a list of changes does not name is as before. -/
theorem State.hand_foldl_updHand_other {α : Type} (l : List α) (key : α → Nat) (f : α → Hand → Hand) (s : State) (j : Nat)
    (hj : ∀ a ∈ l, key a ≠ j) : (l.foldl (fun s a => s.updHand (key a) (f a)) s).hand j = s.hand j := by
  induction l generalizing s with
  | nil => rfl
  | cons a l ih =>
    rw [List.foldl_cons, ih _ fun b hb => hj b (List.mem_cons_of_mem _ hb)]
    exact s.hand_updHand_other _ _ j (Ne.symm (hj a List.mem_cons_self))

/-- What holds of a Hand after each change of it holds of each Hand of the list in the end. -/
theorem State.hand_foldl_updHand_mem {α : Type} (P : Hand → Prop) (key : α → Nat) (f : α → Hand → Hand) (hf : ∀ a c, P (f a c))
    (l : List α) (s : State) (j : Nat) (hj : ∃ a ∈ l, key a = j) : P ((l.foldl (fun s a => s.updHand (key a) (f a)) s).hand j) := by
  induction l generalizing s with
  | nil => obtain ⟨a, ha, -⟩ := hj; cases ha
  | cons a l ih =>
    rw [List.foldl_cons]
    by_cases hl : ∃ b ∈ l, key b = j
    · exact ih _ hl
    · rw [State.hand_foldl_updHand_other l key f _ j fun b hb he => hl ⟨b, hb, he⟩]
      obtain ⟨b, hb, rfl⟩ := hj
      obtain rfl | hb := List.mem_cons.mp hb
      · rw [State.hand_updHand]
        exact hf b _
      · exact absurd ⟨b, hb, rfl⟩ hl

/-- A Hand that one change of the list names has been changed by it alone. -/
theorem State.hand_foldl_updHand_once {α : Type} (l : List α) (key : α → Nat) (f : α → Hand → Hand) (s : State)
    (hn : (l.map key).Nodup) (a : α) (ha : a ∈ l) :
    (l.foldl (fun s a => s.updHand (key a) (f a)) s).hand (key a) = f a (s.hand (key a)) := by
  induction l generalizing s with
  | nil => cases ha
  | cons b l ih =>
    rw [List.map_cons, List.nodup_cons] at hn
    obtain ⟨hb, hl⟩ := hn
    rw [List.foldl_cons]
    obtain rfl | ha := List.mem_cons.mp ha
    · rw [State.hand_foldl_updHand_other l key f _ _ fun c hc he => hb (List.mem_map.mpr ⟨c, hc, he⟩), State.hand_updHand]
    · rw [ih _ hl ha, State.hand_updHand_other]
      exact fun he => hb (List.mem_map.mpr ⟨a, ha, he⟩)

/-! ## SET barriers -/

/-- A Hand that waits at SET barrier n goes on. -/
def Hand.passSet (n : Nat) (c : Hand) : Hand := if c.waitsSet n then { c with wait := .none, pc := c.pc + 1 } else c

/-- Settles O32. -/
theorem setBarriersReleaseOrStrand : Obligations.SetBarriersReleaseOrStrand := by
  refine ⟨?alone, ?arrives, ?stuck, ?release, ?stranded⟩
  case alone =>
    intro s h i hi hm hc
    have hc' : ∀ t : State, t.img = s.img → (∀ p, t.pol p = s.pol p) →
        t.crossBarrier (s.hand h).pol (s.hand h).runSeq (s.hand h).kernel = none := by
      intro t himg hpol
      simpa only [State.crossBarrier, State.schedule, himg, hpol] using hc
    have hreach : ∀ (f : Hand → Hand) n, (f (s.hand h)).pol = (s.hand h).pol → (f (s.hand h)).runSeq = (s.hand h).runSeq →
        (f (s.hand h)).kernel = (s.hand h).kernel → (s.updHand h f).setReached h n = s.updHand h f := by
      intro f n hp hq hk
      simp only [State.setReached, State.hand_updHand, hp, hq, hk, hc' (s.updHand h f) rfl fun _ => rfl]
      split
      · rename_i heq
        cases heq
      · rfl
    show execBarSet h i s = _
    simp only [execBarSet, hi, hm, ne_eq, not_true, Bool.not_true, Bool.false_eq_true, if_false]
    rw [hreach _ _ rfl rfl rfl]
    exact congrArg Host.Outcome.next (s.updHand_congr h _ _ rfl)
  case arrives =>
    intro s h i hi hm
    refine completes_of_exec (t := (s.updHand h fun c => { c.stop (.setBar ((s.hand h).setArrivals + 1) ((s.hand h).rf i.ft.val))
      s.clock with setArrivals := (s.hand h).setArrivals + 1 }).setReached h ((s.hand h).setArrivals + 1)) ?_ ⟨?_, fun j hj => ?_, ?_⟩
    · show execBarSet h i s = _
      simp only [execBarSet, hi, hm, ne_eq, not_true, Bool.not_true, Bool.false_eq_true, if_false]
    · rw [State.hand_of_solid (State.setReached_solid ..), State.hand_updHand]
      rfl
    · rw [State.hand_of_solid (State.setReached_solid ..), State.hand_updHand_other _ _ _ _ hj]
    · rw [State.mem_of_solid (State.setReached_solid ..)]
      rfl
  case stuck =>
    intro s h i hi hm
    show execBarSet h i s = _
    simp only [execBarSet, hi, hm, ne_eq, not_false_iff, Bool.not_true, Bool.false_eq_true, if_false, if_true]
    exact congrArg Host.Outcome.next (s.updHand_congr h _ _ rfl)
  case release =>
    intro s₀ p seq kernel j k d h m hk hcross hst hen harr hmem hdie hnd hwait
    have hrun := Polder.isRunning_of_kernelDecl hk
    have hh : h ∈ (kernelHands k).filter fun h => h / 1024 = d.val := List.mem_filter.mpr ⟨hmem, by simpa using hdie⟩
    have hwaits : (s₀.hand h).waitsSet ((((s₀.pol p).run seq).kernels.get {} j).sets.get 0 d + 1) = true := by
      simp [Hand.waitsSet, hwait]
    have hdone : s₀.setDone p seq j k d = true := by
      simp only [State.setDone, hst, hen, Bool.and_eq_true, Bool.not_false, List.all_eq_true, List.mem_filter, decide_eq_true_eq,
        List.any_eq_true, true_and]
      refine ⟨⟨?_, fun x hx => harr x hx.1 hx.2⟩, h, List.mem_filter.mp hh |>.imp id (by simp), hwaits⟩
      split
      · exact decide_eq_true (hcross _ ‹_›)
      · rfl
    obtain ⟨t, ht⟩ : ∃ t, t = ((kernelHands k).filter fun h => h / 1024 = d.val).foldl (fun s x => s.updHand x
      (Hand.passSet ((((s₀.pol p).run seq).kernels.get {} j).sets.get 0 d + 1))) s₀ := ⟨_, rfl⟩
    have hpols : t.pols = s₀.pols := by
      rw [ht]
      exact foldl_keeps_proj State.pols (fun s x => s.updHand x _) (fun _ _ => rfl) _ _
    have hpol : t.pol p = s₀.pol p := by rw [State.pol, State.pol, hpols]
    have hhand : t.hand h = Hand.passSet ((((s₀.pol p).run seq).kernels.get {} j).sets.get 0 d + 1) (s₀.hand h) := by
      rw [ht]
      exact State.hand_foldl_updHand_once _ id _ s₀ (by simpa using hnd.filter _) h hh
    refine completes_of_exec (t := t.updKernel p seq j fun g => { g with
      sets := g.sets.set 0 d ((((s₀.pol p).run seq).kernels.get {} j).sets.get 0 d + 1) }) ?_ ⟨?_, ?_, ?_, fun x hx => ?_⟩
    · show execBarrierRelease p seq kernel d s₀ = _
      simp only [execBarrierRelease, hk, hdone, Bool.not_true, Bool.false_eq_true, if_false, ht]
      rfl
    · show (t.hand h).wait = _
      rw [hhand, Hand.passSet, if_pos hwaits]
    · show (t.hand h).pc = _
      rw [hhand, Hand.passSet, if_pos hwaits]
    · rw [State.kernel_updKernel _ _ _ _ _ (by rw [hpol]; exact hrun)]
      simp
    · show t.hand x = _
      rw [ht]
      exact State.hand_foldl_updHand_other _ id _ s₀ x fun a ha he => hx (by
        obtain rfl : a = x := he
        simpa using (List.mem_filter.mp ha).2)
  case stranded =>
    intro s h j k hk hb hw hs hwatch
    have hpass : s.passed (s.hand h).waitSince k.watchdog = true := by simpa [State.passed] using hwatch
    show execStrandedBarrier h s = _
    simp only [execStrandedBarrier, hk, hb, hw, hs, hpass, Bool.not_true, Bool.or_self, Bool.false_eq_true, if_false]

end Sys2Proof.Machine
end

section
/-! SUPPORT. Kernels, tasks, stream tiles and HMMA (R119 to R121, R131 to R133, R140, R141). -/

namespace Sys2Proof.Machine

open Sys2Proof

@[simp] theorem Hand.rx_next (c : Hand) (r l : Nat) : c.next.rx r l = c.rx r l := rfl
@[simp] theorem Hand.px_next (c : Hand) (r l : Nat) : c.next.px r l = c.px r l := rfl

/-! ## HMMA -/

/-- Writes of elements of distinct registers and lanes, one after the other, from fixed values: an element that is written
reads as its value, any other as before. -/
theorem Hand.foldl_wx_elements (es : List (Nat × Nat)) (hl : ∀ e ∈ es, e.2 < 16) (v : Nat × Nat → Lane) (p : Nat × Nat → Bool)
    (c : Hand) :
    let d := es.foldl (fun d e => d.wx e.1 e.2 (v e) (p e)) c
    d = { c with x := d.x, xp := d.xp } ∧
    (∀ r l, l < 16 → (r, l) ∉ es → d.rx r l = c.rx r l ∧ d.px r l = c.px r l) ∧
    ∀ r l, r ≠ 0 → (r, l) ∈ es → d.rx r l = v (r, l) ∧ d.px r l = p (r, l) := by
  induction es generalizing c with
  | nil => simp
  | cons e es ih =>
    have he : e.2 < 16 := hl e List.mem_cons_self
    obtain ⟨hframe, hother, hsame⟩ := ih (fun x hx => hl x (List.mem_cons_of_mem _ hx)) (c.wx e.1 e.2 (v e) (p e))
    simp only [List.foldl_cons]
    refine ⟨?_, fun r l hlt hno => ?_, fun r l hr hm => ?_⟩
    · rw [hframe, Hand.wx_frame c]
    · have ⟨hne, hno⟩ := not_or.mp (mt List.mem_cons.mpr hno)
      obtain ⟨hx, hp⟩ := hother r l hlt hno
      have hcond : ¬(r = e.1 ∧ l = e.2 ∧ r ≠ 0) := fun ⟨h1, h2, _⟩ => hne (Prod.ext h1 h2)
      rw [hx, hp, Hand.rx_wx _ _ _ _ _ _ _ he hlt, Hand.px_wx _ _ _ _ _ _ _ he hlt, if_neg hcond, if_neg hcond]
      exact ⟨rfl, rfl⟩
    · by_cases hmem : (r, l) ∈ es
      · exact hsame r l hr hmem
      · obtain rfl := (List.mem_cons.mp hm).resolve_right hmem
        obtain ⟨hx, hp⟩ := hother r l he hmem
        rw [hx, hp, Hand.rx_wx _ _ _ _ _ _ _ he he, Hand.px_wx _ _ _ _ _ _ _ he he, if_pos ⟨rfl, rfl, hr⟩, if_pos ⟨rfl, rfl, hr⟩]
        exact ⟨rfl, rfl⟩

/-- The elements of an accumulator from register xd: column b of row a in register xd + b of lane a. -/
def accElements (xd : Nat) : List (Nat × Nat) := (List.range 256).map fun e => (xd + e % 16, e / 16)

theorem mem_accElements (xd r l : Nat) : (r, l) ∈ accElements xd ↔ xd ≤ r ∧ r < xd + 16 ∧ l < 16 := by
  simp only [accElements, List.mem_map, List.mem_range, Prod.mk.injEq]
  constructor
  · rintro ⟨e, he, rfl, rfl⟩
    omega
  · rintro ⟨hlo, hhi, hl⟩
    exact ⟨16 * l + (r - xd), by omega, by omega, by omega⟩

/-- HMMA as writes of the elements of its accumulator. -/
theorem Hand.hmma_eq (c : Hand) (fa fb xa xb xd : Nat) :
    c.hmma fa fb xa xb xd = (accElements xd).foldl (fun d e => d.wx e.1 e.2 (c.hmmaAt fa fb xa xb xd e.2 (e.1 - xd))
      (c.pxs xa (hmmaRegs fa) e.2 || c.pxs xb (hmmaRegs fa) (e.1 - xd) || c.px e.1 e.2)) c := by
  simp [Hand.hmma, accElements, List.foldl_map,]

/-- An aligned group of registers lies inside x0 to x63. -/
theorem group_lt (x n k : Nat) (hx : x < 64) (hn : x % n = 0) (hdvd : n ∣ 64) (hk : k < n) : x + k < 64 := by
  obtain ⟨a, rfl⟩ := Nat.dvd_of_mod_eq_zero hn
  obtain ⟨b, hb⟩ := hdvd
  have hpos : 0 < n := by omega
  have hab : a < b := by
    rw [hb] at hx
    exact Nat.lt_of_mul_lt_mul_left hx
  calc n * a + k < n * a + n := by omega
    _ = n * (a + 1) := by ring
    _ ≤ n * b := Nat.mul_le_mul_left n hab
    _ = 64 := hb.symm

theorem hmmaRegs_dvd (fmt : Nat) : hmmaRegs fmt ∣ 64 := by
  unfold hmmaRegs
  split <;> decide

theorem mfmtOf_of_ge (m : Nat) (h : 6 ≤ m) : mfmtOf m = none := by
  unfold mfmtOf
  split <;> simp_all

/-- Settles O22. -/
theorem hmmaNeedsTheWholeCrew : Obligations.HmmaNeedsTheWholeCrew := by
  refine ⟨?full, ?partialMask, ?groups, ?format⟩
  case full =>
    intro s h i fa fb hi hf hg ha hp
    have hfree : s.freeRegs h ((List.range (hmmaRegs fa)).map (i.xa.val + ·) ++ (List.range (hmmaRegs fa)).map (i.xb.val + ·)
        ++ (List.range 16).map (i.xd.val + ·)) := by
      have hal := hg
      simp only [hmmaGroups, Bool.and_eq_true, decide_eq_true_eq] at hal
      obtain ⟨⟨⟨⟨⟨hxa, hxb⟩, hxd⟩, -⟩, -⟩, -⟩ := hal
      intro r hr
      refine hp r ?_
      simp only [List.mem_append, List.mem_map, List.mem_range] at hr
      obtain (⟨k, hk, rfl⟩ | ⟨k, hk, rfl⟩) | ⟨k, hk, rfl⟩ := hr
      · exact group_lt _ _ _ i.xa.isLt hxa (hmmaRegs_dvd fa) hk
      · exact group_lt _ _ _ i.xb.isLt hxb (hmmaRegs_dvd fa) hk
      · exact group_lt _ _ _ i.xd.isLt hxd (by decide) hk
    have hready := State.ready_of s h _ hi hfree
    obtain ⟨hframe, hother, hsame⟩ := Hand.foldl_wx_elements (accElements i.xd.val)
      (fun e he => ((mem_accElements _ _ _).mp he).2.2)
      (fun e => (s.hand h).hmmaAt fa fb i.xa.val i.xb.val i.xd.val e.2 (e.1 - i.xd.val))
      (fun e => (s.hand h).pxs i.xa.val (hmmaRegs fa) e.2 || (s.hand h).pxs i.xb.val (hmmaRegs fa) (e.1 - i.xd.val)
        || (s.hand h).px e.1 e.2) (s.hand h)
    rw [← Hand.hmma_eq] at hframe hother hsame
    refine completes_of_exec (t := s.updHand h fun c => (c.hmma fa fb i.xa.val i.xb.val i.xd.val).next) ?_ ⟨?_, fun a b ha hb h0 => ?_,
      fun r l hl hr => ?_⟩
    · show execHmma h i s = _
      simp only [execHmma, hi, hf, hg, ha, hready, ne_eq, not_true, Bool.not_true, Bool.false_eq_true, if_false]
    · convert s.onlyHand_updHand h _ using 1
      simp only [State.hand_updHand, Hand.next]
      rw [hframe]
    · rw [State.hand_updHand, Hand.rx_next, Hand.px_next]
      have hel := hsame (i.xd.val + b) a h0 ((mem_accElements _ _ _).mpr (by omega))
      simpa only [Nat.add_sub_cancel_left] using hel
    · rw [State.hand_updHand, Hand.rx_next, Hand.px_next]
      exact hother r l hl fun hm => by
        have := (mem_accElements _ _ _).mp hm
        omega
  case partialMask =>
    intro s h i fa fb hi hf hg ha
    show execHmma h i s = _
    simp only [execHmma, hi, hf, hg, ha, ne_eq, not_false_iff, Bool.not_true, Bool.false_eq_true, if_false, if_true]
  case groups =>
    intro s h i fa fb hi hf hg
    show execHmma h i s = _
    simp only [execHmma, hi, hf, hg, Bool.not_true, Bool.not_false, Bool.false_eq_true, if_false, if_true]
  case format =>
    intro s h i hi hm
    show execHmma h i s = _
    simp only [execHmma, hi, mfmtOf_of_ge _ hm, Bool.not_true, Bool.false_eq_true, if_false]

end Sys2Proof.Machine
end

section
/-! SUPPORT. Kernels and tasks (R119 to R121), and the stream tiles of a Hand (R140, R141). -/

namespace Sys2Proof.Machine

open Sys2Proof

/-! ## Kernels and tasks -/

/-- A kernel start names its Hands one after the other. -/
def State.enterHands (s : State) (p seq kernel : Nat) (ids : List Nat) : State :=
  (List.range ids.length).foldl (fun s n => s.updHand (ids.getD n 0) fun c => c.enter p seq kernel n) s

theorem State.enterHands_eq (s : State) (p seq kernel : Nat) (ids : List Nat) :
    s.enterHands p seq kernel ids = { s with hands := (s.enterHands p seq kernel ids).hands } := by
  unfold State.enterHands
  generalize List.range ids.length = l
  induction l generalizing s with
  | nil => rfl
  | cons a l ih =>
    rw [List.foldl_cons, ih]
    rfl

theorem State.hand_enterHands_mem (s : State) (p seq kernel : Nat) (ids : List Nat) (h : Nat) (hh : h ∈ ids) :
    ∃ c n, (s.enterHands p seq kernel ids).hand h = Hand.enter c p seq kernel n := by
  obtain ⟨n, hn, rfl⟩ := List.getElem_of_mem hh
  refine State.hand_foldl_updHand_mem (fun d => ∃ c n, d = Hand.enter c p seq kernel n) (ids.getD · 0) _
    (fun n c => ⟨c, n, rfl⟩) _ s _ ⟨n, List.mem_range.mpr hn, ?_⟩
  simp [hn]

theorem State.hand_enterHands_number (s : State) (p seq kernel : Nat) (ids : List Nat) (hnd : ids.Nodup) (n : Nat)
    (hn : n < ids.length) : ((s.enterHands p seq kernel ids).hand (ids.getD n 0)).number = n := by
  have hkeys : ((List.range ids.length).map (ids.getD · 0)).Nodup := by
    have hids : (List.range ids.length).map (ids.getD · 0) = ids := by
      refine List.ext_getElem (by simp) fun k h1 h2 => ?_
      simp [h2]
    rwa [hids]
  rw [State.enterHands, State.hand_foldl_updHand_once _ (ids.getD · 0) (fun n c => c.enter p seq kernel n) s hkeys n
    (List.mem_range.mpr hn)]
  rfl

theorem State.hand_enterHands_other (s : State) (p seq kernel : Nat) (ids : List Nat) (h : Nat) (hh : h ∉ ids) :
    (s.enterHands p seq kernel ids).hand h = s.hand h := by
  refine State.hand_foldl_updHand_other _ (ids.getD · 0) _ s h fun n hn he => hh ?_
  have hlt := List.mem_range.mp hn
  rw [← he, List.getD_eq_getElem _ _ hlt]
  exact List.getElem_mem hlt

/-- A barrier across modules that a kernel's SET barriers join begins anew (R267). -/
def State.resetReleases (s : State) (p : Nat) : Option BarrierDecl → State
  | some b => s.updCollector p b.number fun c => { c with releases := 0 }
  | none => s

theorem State.resetReleases_solid (s : State) (p : Nat) (b : Option BarrierDecl) : (s.resetReleases p b).solid = s.solid := by
  cases b <;> rfl

/-- A kernel that may start. -/
theorem exec_kernelStart (s : State) (p : Pol) (seq kernel j : Nat) (k : KernelDecl) (hk : s.kernelDecl p seq kernel = some (j, k))
    (hs : ((s.pol p).run seq).suspended = false) (hst : (((s.pol p).run seq).kernels.get {} j).started = false)
    (hfree : (kernelHands k).all s.handFree = true) (hbegin : s.mayBegin p seq (.kernel j) = true) :
    exec (.kernelStart p seq kernel) s = .next
      (((s.enterHands p seq kernel (kernelHands k)).resetReleases p (s.crossBarrier p seq kernel)).updKernel p seq j fun _ =>
        { started := true, startedAt := s.clock }) := by
  show execKernelStart p seq kernel s = _
  have hcross : (s.enterHands p seq kernel (kernelHands k)).crossBarrier p seq kernel = s.crossBarrier p seq kernel := by
    rw [s.enterHands_eq]
    rfl
  have hclock : (s.enterHands p seq kernel (kernelHands k)).clock = s.clock := by
    rw [s.enterHands_eq]
  have hfold : (List.range (kernelHands k).length).foldl (fun s n =>
      s.updHand ((kernelHands k).getD n 0) fun c => c.enter p.val seq kernel n) s = s.enterHands p seq kernel (kernelHands k) := rfl
  simp only [execKernelStart, hk, hs, hst, hfree, hbegin, hfold, hcross, Bool.not_true, Bool.or_self, Bool.false_eq_true, if_false]
  cases s.crossBarrier p seq kernel with
  | some b => simp only [State.resetReleases, State.updCollector, hclock]
  | none => simp only [State.resetReleases, hclock]

/-- The registers of R120 that a task starts with, as `Hand.startTask` lists them. -/
theorem Hand.rw_startTask (c : Hand) (h t tasks arg : Nat) :
    (c.startTask h t tasks arg).rw 1 = BitVec.ofNat 64 arg ∧ (c.startTask h t tasks arg).rw 2 = BitVec.ofNat 64 t
      ∧ (c.startTask h t tasks arg).rw 3 = BitVec.ofNat 64 tasks ∧ (c.startTask h t tasks arg).rw 4 = BitVec.ofNat 64 c.number
      ∧ (c.startTask h t tasks arg).rw 5 = BitVec.ofNat 64 (h / 1024) ∧ ∀ r, 5 < r → (c.startTask h t tasks arg).rw r = 0 := by
  refine ⟨?_, ?_, ?_, ?_, ?_, fun r hr => ?_⟩
  all_goals simp only [Hand.rw, Hand.startTask, List.zipIdx_cons, List.zipIdx_nil, List.foldl_cons, List.foldl_nil]
  · simp [SMap.get_set_other]
  · simp [SMap.get_set_other]
  · simp [SMap.get_set_other]
  · simp [SMap.get_set_other]
  · simp
  · have h0 : r ≠ 0 := by omega
    rw [if_neg h0, SMap.get_set_other _ _ _ _ _ (by omega), SMap.get_set_other _ _ _ _ _ (by omega),
      SMap.get_set_other _ _ _ _ _ (by omega), SMap.get_set_other _ _ _ _ _ (by omega), SMap.get_set_other _ _ _ _ _ (by omega)]
    rfl

/-- Settles O24. -/
theorem kernelsAndTasksRun : Obligations.KernelsAndTasksRun := by
  refine ⟨?start, ?task, ?finish⟩
  case start =>
    intro s p seq kernel j k hk hs hst hfree hbegin
    have hrun := Polder.isRunning_of_kernelDecl hk
    obtain ⟨t, ht⟩ : ∃ t, t = (s.enterHands p seq kernel (kernelHands k)).resetReleases p (s.crossBarrier p seq kernel) := ⟨_, rfl⟩
    have hsolid : t.solid = (s.enterHands p seq kernel (kernelHands k)).solid := ht ▸ State.resetReleases_solid ..
    have hhands := State.hand_of_solid hsolid
    have hpol : t.pol p = s.pol p := by
      rw [State.pol_of_solid hsolid, s.enterHands_eq]
      rfl
    have hmem : t.mem = s.mem := by rw [State.mem_of_solid hsolid, s.enterHands_eq]
    have hbins : t.bins = s.bins := by rw [State.bins_of_solid hsolid, s.enterHands_eq]
    refine completes_of_exec (t := t.updKernel p seq j fun _ => { started := true, startedAt := s.clock })
      (ht ▸ exec_kernelStart s p seq kernel j k hk hs hst hfree hbegin) ?_
    have hker := t.kernel_updKernel p seq j (fun _ => { started := true, startedAt := s.clock }) (by rw [hpol]; exact hrun)
    refine ⟨by rw [hker], by rw [hker], fun h hh => ?_, fun hnd n hn => ?_, hmem, hbins, fun h hh => ?_⟩
    · obtain ⟨c, n, hc⟩ := s.hand_enterHands_mem p seq kernel _ h hh
      have hh' : (t.updKernel p seq j fun _ => { started := true, startedAt := s.clock }).hand h = Hand.enter c p seq kernel n :=
        (hhands h).trans hc
      rw [hh']
      exact ⟨rfl, rfl, rfl, rfl, rfl, rfl, rfl, rfl⟩
    · exact (congrArg Hand.number (hhands _)).trans (s.hand_enterHands_number p seq kernel _ hnd n hn)
    · exact (hhands h).trans (s.hand_enterHands_other p seq kernel _ h hh)
  case task =>
    intro s h j n k hk hb hr hs hf hn hdue
    refine completes_of_exec (t := s.updHand h fun c => c.startTask h n k.tasks
      ((((s.pol (s.hand h).pol).run (s.hand h).runSeq).m.operands.getD k.arg (0, 0)).2)) ?_ ?_
    · show execTaskStart h s = _
      cases he : (s.hand h).endedAt with
      | some a =>
        have hpass : s.passed a 8 = true := by simpa [State.passed, he] using hdue
        simp only [execTaskStart, hk, hb, hr, hs, hf, hn, he, hpass, Bool.not_true, Bool.or_self, Bool.false_eq_true, if_false]
      | none =>
        have hpass : s.passed (((s.pol (s.hand h).pol).run (s.hand h).runSeq).kernels.get {} j).startedAt 64 = true := by
          simpa [State.passed, he] using hdue
        simp only [execTaskStart, hk, hb, hr, hs, hf, hn, he, hpass, Bool.not_true, Bool.or_self, Bool.false_eq_true, if_false]
    · have hone := s.onlyHand_updHand h fun c => c.startTask h n k.tasks
        ((((s.pol (s.hand h).pol).run (s.hand h).runSeq).m.operands.getD k.arg (0, 0)).2)
      rw [State.hand_updHand]
      obtain ⟨h1, h2, h3, h4, h5, hrest⟩ := (s.hand h).rw_startTask h n k.tasks
        ((((s.pol (s.hand h).pol).run (s.hand h).runSeq).m.operands.getD k.arg (0, 0)).2)
      refine ⟨hone, rfl, rfl, rfl, rfl, rfl, rfl, h1, h2, h3, h4, h5, hrest, fun r l => ⟨?_, ?_⟩, rfl, rfl⟩
      · simp [Hand.rx, Hand.startTask, SMap.get]
      · simp [Hand.px, Hand.startTask, SMap.get]
  case finish =>
    intro s p seq kernel j k hk hst hen hdone hquiet
    have hrun := Polder.isRunning_of_kernelDecl hk
    obtain ⟨t, ht⟩ : ∃ t, t = (kernelHands k).foldl (fun s h => s.updHand h Hand.release) s := ⟨_, rfl⟩
    have hpols : t.pols = s.pols := by
      rw [ht]
      exact foldl_keeps_proj State.pols (fun s h => s.updHand h Hand.release) (fun _ _ => rfl) _ _
    have hpol : t.pol p = s.pol p := by rw [State.pol, State.pol, hpols]
    have hker := t.kernel_updKernel p seq j (fun g => { g with ended := true }) (by rw [hpol]; exact hrun)
    have hq : ((kernelHands k).all fun h =>
        (s.hand h).stores.isEmpty && decide ((s.hand h).unwon = 0) && (s.hand h).atoms.isEmpty && !s.hostStalled h) = true := by
      simpa [List.all_eq_true, and_assoc] using hquiet
    refine completes_of_exec (t := t.updKernel p seq j fun g => { g with ended := true }) ?_ ⟨by rw [hker], fun h hh => ?_, fun h hh => ?_⟩
    · show execKernelEnd p seq kernel s = _
      simp only [execKernelEnd, hk, hst, hen, Nat.not_lt.mpr hdone, hq, ht, Bool.not_true, Bool.or_self, Bool.false_eq_true, if_false,
        decide_false]
    · show (t.hand h).busy = false ∧ (t.hand h).l1 = []
      rw [ht]
      exact State.hand_foldl_updHand_mem (fun c => c.busy = false ∧ c.l1 = []) id (fun _ => Hand.release) (fun _ _ => ⟨rfl, rfl⟩) _ s h
        ⟨h, hh, rfl⟩
    · show t.hand h = s.hand h
      rw [ht]
      exact State.hand_foldl_updHand_other _ id (fun _ => Hand.release) s h fun a ha he => hh (he ▸ ha)

end Sys2Proof.Machine
end

section
/-! SUPPORT. The stream tiles of a Hand (R140, R141). -/

namespace Sys2Proof.Machine

open Sys2Proof

theorem State.isRunning_of_streamOf {s : State} {p seq n : Nat} {x : StreamDecl × StreamRun × Manifest}
    (h : s.streamOf p seq n = some x) : (s.pol p).isRunning seq = true := by
  by_contra hn
  simp [State.streamOf, hn] at h

theorem State.stream_of_streamOf {s : State} {p seq n : Nat} {d : StreamDecl} {r : StreamRun} {m : Manifest}
    (h : s.streamOf p seq n = some (d, r, m)) : r = ((s.pol p).run seq).streams.get {} n := by
  simp only [State.streamOf] at h
  split at h
  · cases h
  · simp only [Option.map_eq_some_iff, Prod.mk.injEq] at h
    obtain ⟨d', -, -, h, -⟩ := h
    exact h.symm

theorem State.stream_updStream (s : State) (p seq n : Nat) (f : StreamRun → StreamRun) (hr : (s.pol p).isRunning seq = true) :
    (((s.updStream p seq n f).pol p).run seq).streams.get {} n = f (((s.pol p).run seq).streams.get {} n) := by
  rw [State.updStream, s.run_updRun p seq _ hr]
  exact SMap.get_upd_same _ _ _ _

@[simp] theorem State.hand_updStream (s : State) (p seq n : Nat) (f : StreamRun → StreamRun) (h : Nat) :
    (s.updStream p seq n f).hand h = s.hand h := rfl
@[simp] theorem State.hand_updTile (s : State) (p seq n t : Nat) (f : TileBuf → TileBuf) (h : Nat) :
    (s.updTile p seq n t f).hand h = s.hand h := rfl

/-- What a write of a crew register leaves of a Hand that moves on. -/
theorem Hand.ww_next_fields (c : Hand) (r : Nat) (v : Word) (p : Bool) :
    (c.ww r v p).next.pc = c.pc + 1 ∧ (c.ww r v p).next.takes = c.takes ∧ (c.ww r v p).next.taken = c.taken
      ∧ (c.ww r v p).next.allocs = c.allocs ∧ (c.ww r v p).next.x = c.x ∧ (r ≠ 0 → (c.ww r v p).next.rw r = v) := by
  refine ⟨?_, ?_, ?_, ?_, ?_, fun hr => ?_⟩
  case refine_6 =>
    show (c.ww r v p).rw r = v
    rw [Hand.rw_ww, if_pos ⟨rfl, hr⟩]
  all_goals
    rw [Hand.ww_frame]
    rfl

/-- Settles O30. -/
theorem streamTilesPassThroughHands : Obligations.StreamTilesPassThroughHands := by
  refine ⟨?take, ?tileDone, ?alloc, ?put, ?badIndex⟩
  case take =>
    intro s h i d r m j k hi hstr hk hdst hst htk
    have hrun := State.isRunning_of_streamOf hstr
    have hr := State.stream_of_streamOf hstr
    obtain ⟨u, hu⟩ : ∃ u, u = s.updTile (s.hand h).pol (s.hand h).runSeq i.n.toNat
      ((s.hand h).task + (s.hand h).takes.get 0 i.n.toNat * k.tasks) fun b => { b with taken := true } := ⟨_, rfl⟩
    obtain ⟨f, hf⟩ : ∃ f : Hand → Hand, f = fun c =>
      ({ c with
        takes := c.takes.upd 0 i.n.toNat (· + 1)
        taken := c.taken ++ [(i.n.toNat, (s.hand h).task + (s.hand h).takes.get 0 i.n.toNat * k.tasks)]
        l1 := c.l1.filter fun x =>
          !(stagedAddr (s.slotVa (s.hand h).pol (s.hand h).runSeq i.n.toNat
              (((s.hand h).task + (s.hand h).takes.get 0 i.n.toNat * k.tasks) % d.runahead) d) / 128 ≤ x.sector
            && 128 * x.sector < stagedAddr (s.slotVa (s.hand h).pol (s.hand h).runSeq i.n.toNat
              (((s.hand h).task + (s.hand h).takes.get 0 i.n.toNat * k.tasks) % d.runahead) d) + Fpu.footprint d.fmt) }.ww i.wa.val
        (BitVec.ofNat 64 (s.slotVa (s.hand h).pol (s.hand h).runSeq i.n.toNat
          (((s.hand h).task + (s.hand h).takes.get 0 i.n.toNat * k.tasks) % d.runahead) d)) false).next := ⟨_, rfl⟩
    have hself : (u.updHand h f).hand h = f (s.hand h) := by rw [State.hand_updHand, hu, State.hand_updTile]
    refine completes_of_exec (t := u.updHand h f) ?_ ?_
    · show execTake h i s = _
      simp only [execTake, hstr, hk, hi, hdst, hst, htk, ne_eq, not_true, decide_false, Bool.not_true, Bool.or_self, Bool.false_eq_true,
        if_false, hu, hf]
    · rw [hself, hf]
      obtain ⟨hpc, htakes, htaken, -, hx, hrw⟩ := Hand.ww_next_fields { s.hand h with
        takes := (s.hand h).takes.upd 0 i.n.toNat (· + 1)
        taken := (s.hand h).taken ++ [(i.n.toNat, (s.hand h).task + (s.hand h).takes.get 0 i.n.toNat * k.tasks)]
        l1 := (s.hand h).l1.filter fun x =>
          !(stagedAddr (s.slotVa (s.hand h).pol (s.hand h).runSeq i.n.toNat
              (((s.hand h).task + (s.hand h).takes.get 0 i.n.toNat * k.tasks) % d.runahead) d) / 128 ≤ x.sector
            && 128 * x.sector < stagedAddr (s.slotVa (s.hand h).pol (s.hand h).runSeq i.n.toNat
              (((s.hand h).task + (s.hand h).takes.get 0 i.n.toNat * k.tasks) % d.runahead) d) + Fpu.footprint d.fmt) } i.wa.val
        (BitVec.ofNat 64 (s.slotVa (s.hand h).pol (s.hand h).runSeq i.n.toNat
          (((s.hand h).task + (s.hand h).takes.get 0 i.n.toNat * k.tasks) % d.runahead) d)) false
      refine ⟨hpc, ?_, htaken, hx, by rw [hu]; rfl, ?_, hrw⟩
      · rw [htakes]
        exact SMap.get_upd_same 0 (s.hand h).takes i.n.toNat (· + 1)
      · show ((((u.pol _).run _).streams.get {} _).tiles.get {} _).taken = true
        rw [hu, State.updTile, s.stream_updStream _ _ _ _ hrun]
        simp
  case tileDone =>
    intro s h i n g hi hfind hrun
    refine completes_of_exec (t := (s.updStream (s.hand h).pol (s.hand h).runSeq n fun r => { r with
      tiles := r.tiles.set {} g {}, returning := r.returning + 1 }).updHand h fun c =>
        { c with taken := c.taken.erase (n, g), pc := c.pc + 1 }) ?_ ⟨?_, ?_, ?_⟩
    · show execTileDone h i s = _
      simp only [execTileDone, hi, hfind, Bool.not_true, Bool.false_eq_true, if_false]
    · rw [State.hand_updHand, State.hand_updStream]
    · rw [State.hand_updHand, State.hand_updStream]
    · rw [State.pol_updHand, s.stream_updStream _ _ _ _ hrun]
  case alloc =>
    intro s h i d r m slot hi hstr hsrc hslot hcr
    have hrun := State.isRunning_of_streamOf hstr
    have hr := State.stream_of_streamOf hstr
    obtain ⟨hpc, -, -, hal, -, hrw⟩ := Hand.ww_next_fields { s.hand h with allocs := (s.hand h).allocs ++ [(i.n.toNat, slot)] } i.wa.val
      (BitVec.ofNat 64 (s.slotVa (s.hand h).pol (s.hand h).runSeq i.n.toNat slot d)) false
    refine completes_of_exec (t := (s.updStream (s.hand h).pol (s.hand h).runSeq i.n.toNat fun r => { r with
      credits := r.credits - 1, tiles := r.tiles.set {} (slotKey slot) { taken := true } }).updHand h fun c =>
        ({ c with allocs := c.allocs ++ [(i.n.toNat, slot)] }.ww i.wa.val
          (BitVec.ofNat 64 (s.slotVa (s.hand h).pol (s.hand h).runSeq i.n.toNat slot d)) false).next) ?_ ?_
    · show execAlloc h i s = _
      simp only [execAlloc, hstr, hslot, hi, hsrc, hcr, ne_eq, not_true, decide_false, Bool.not_true, Bool.or_self, Bool.false_eq_true,
        if_false]
      rfl
    · rw [State.hand_updHand, State.hand_updStream, State.pol_updHand, s.stream_updStream _ _ _ _ hrun, ← hr]
      exact ⟨hrw, hpc, hal, rfl⟩
  case put =>
    intro s h i d r m slot hi hrel hstr hlt hput hfind
    have hrun := State.isRunning_of_streamOf hstr
    have hr := State.stream_of_streamOf hstr
    have hnot : (d.length ≤ ((s.hand h).rw (i.imm.toNat % 32)).toNat || r.put.contains ((s.hand h).rw (i.imm.toNat % 32)).toNat) = false := by
      simp [Nat.not_le.mpr hlt, hput]
    refine completes_of_exec (t := (s.updStream (s.hand h).pol (s.hand h).runSeq i.n.toNat fun x => { x with
      put := x.put ++ [((s.hand h).rw (i.imm.toNat % 32)).toNat]
      tiles := (x.tiles.set {} (slotKey slot) {}).set {} ((s.hand h).rw (i.imm.toNat % 32)).toNat
        { r.tiles.get {} (slotKey slot) with staged := true, taken := false, slot := some slot } }).updHand h fun c =>
          { c with allocs := c.allocs.erase (i.n.toNat, slot), pc := c.pc + 1 }) ?_ ?_
    · show execPut h i s = _
      simp only [execPut, hi, hrel, hstr, hnot, hfind, Bool.not_true, Bool.or_self, Bool.false_eq_true, if_false]
    · rw [State.hand_updHand, State.hand_updStream, State.pol_updHand, s.stream_updStream _ _ _ _ hrun, ← hr]
      refine ⟨rfl, rfl, rfl, ?_⟩
      simp
  case badIndex =>
    intro s h i d r m hi hrel hstr hbad
    have hyes : (d.length ≤ ((s.hand h).rw (i.imm.toNat % 32)).toNat || r.put.contains ((s.hand h).rw (i.imm.toNat % 32)).toNat) = true := by
      simpa using hbad
    show execPut h i s = _
    simp only [execPut, hi, hrel, hstr, hyes, Bool.not_true, Bool.or_self, Bool.false_eq_true, if_false, if_true]

end Sys2Proof.Machine
end

section
/-! SUPPORT. Memory instructions of a Hand: how they start, and what the lane registers hold after data returns (R124, R135, R136). -/

namespace Sys2Proof.Machine

open Sys2Proof

/-! ## Starting -/

theorem State.issuesAt_of_issues {s : State} {h : Nat} (hi : s.issues h = true) (vas : List Nat) : s.issuesAt h vas = true := by
  unfold State.issues State.issuesAt at *
  simp only [Bool.and_eq_true, List.all_eq_true, Bool.or_eq_true, List.contains_nil, Bool.false_eq_true, or_false] at *
  exact ⟨hi.1, fun w hw => .inl (hi.2 w hw)⟩

theorem State.freeRegs_any {s : State} {h : Nat} {rs : List Nat} (hr : s.freeRegs h rs) : rs.any (s.hand h).pendingX = false := by
  rw [List.any_eq_false]
  intro r hm
  simp [hr r hm]

section
variable {s : State} {h : Nat} {i : FmtM} {n : Nat} {global : Bool} {bad : Option Nat} (go : State → State)

/-- The address that a lane uses. -/
def Hand.laneVa (c : Hand) (i : FmtM) (global : Bool) (l : Nat) : Nat := if global then c.globalVa i l else c.localVa i l

theorem State.memStart_go (hi : s.issues h = true) (hb : bad = none) (hf : s.freeRegs h (memRegs i n))
    (ha : (s.hand h).badAddr i global = false)
    (hal : ∀ l ∈ (s.hand h).memLanes i, (s.hand h).laneVa i global l % sizeBytes i.size.val = 0) :
    s.memStart h i n global bad go = go s := by
  have hal' : (((s.hand h).memLanes i).any fun l => decide ((s.hand h).laneVa i global l % sizeBytes i.size.val ≠ 0)) = false := by
    rw [List.any_eq_false]
    intro l hl
    simp [hal l hl]
  unfold Hand.laneVa at hal'
  simp only [State.memStart, State.issuesAt_of_issues hi, hb, State.freeRegs_any hf, ha, hal', Bool.not_true, Bool.false_eq_true, if_false]

theorem State.memStart_misaligned (hi : s.issues h = true) (hb : bad = none) (hf : s.freeRegs h (memRegs i n))
    (ha : (s.hand h).badAddr i global = false) {l : Nat} (hl : l ∈ (s.hand h).memLanes i)
    (hal : (s.hand h).laneVa i global l % sizeBytes i.size.val ≠ 0) :
    s.memStart h i n global bad go = s.handFault h .misaligned 0 0 := by
  have hal' : (((s.hand h).memLanes i).any fun l => decide ((s.hand h).laneVa i global l % sizeBytes i.size.val ≠ 0)) = true :=
    List.any_eq_true.2 ⟨l, hl, decide_eq_true hal⟩
  unfold Hand.laneVa at hal'
  simp only [State.memStart, State.issuesAt_of_issues hi, hb, State.freeRegs_any hf, ha, hal', Bool.not_true, Bool.false_eq_true, if_false,
    if_true]

theorem State.memStart_poisoned (hi : s.issues h = true) (hb : bad = none) (hf : s.freeRegs h (memRegs i n))
    (ha : (s.hand h).badAddr i global = true) : s.memStart h i n global bad go = s.poisonConsumed h := by
  simp only [State.memStart, State.issuesAt_of_issues hi, hb, State.freeRegs_any hf, ha, Bool.not_true, Bool.false_eq_true, if_false, if_true]

end

theorem memFault_eq_none {i : FmtM} {n : Nat} (h : memFault i n = none) : i.size.val ≤ 4 ∧ i.xs.val + n ≤ 64 := by
  unfold memFault at h
  split at h
  · cases h
  · split at h
    · cases h
    · omega

/-! ## Folds -/

/-- A fold has a property once one of its steps gives it and every other keeps it. -/
theorem foldl_reaches {σ α : Type} (step : σ → α → σ) (Q P : σ → Prop) (a : α) (as : List α) (hQ : ∀ d, ∀ b ∈ as, Q d → Q (step d b))
    (hself : ∀ d, Q d → P (step d a)) (hkeep : ∀ d, ∀ b ∈ as, b ≠ a → Q d → P d → P (step d b)) (ha : a ∈ as) (c : σ) (hc : Q c) :
    P (as.foldl step c) := by
  classical
  have hrest : ∀ (bs : List α) (d : σ), (∀ b ∈ bs, b ∈ as) → Q d → P d → P (bs.foldl step d) := by
    intro bs
    induction bs with
    | nil => exact fun _ _ _ h => h
    | cons b bs ih =>
      intro d hb hq hp
      refine ih _ (fun x hx => hb x (List.mem_cons_of_mem _ hx)) (hQ _ _ (hb b List.mem_cons_self) hq) ?_
      by_cases e : b = a
      · exact e ▸ hself d hq
      · exact hkeep d b (hb b List.mem_cons_self) e hq hp
  have hrun : ∀ (bs : List α) (d : σ), (∀ b ∈ bs, b ∈ as) → Q d → Q (bs.foldl step d) := by
    intro bs
    induction bs with
    | nil => exact fun _ _ h => h
    | cons b bs ih => exact fun d hb hq => ih _ (fun x hx => hb x (List.mem_cons_of_mem _ hx)) (hQ _ _ (hb b List.mem_cons_self) hq)
  obtain ⟨pre, post, rfl⟩ := List.append_of_mem ha
  rw [List.foldl_append, List.foldl_cons]
  have hq := hrun pre c (fun x hx => List.mem_append_left _ hx) hc
  exact hrest post _ (fun x hx => List.mem_append_right _ (List.mem_cons_of_mem _ hx)) (hQ _ _ ha hq) (hself _ hq)

/-- A fold keeps what each of its steps keeps. -/
theorem foldl_keeps {σ α : Type} (step : σ → α → σ) (P : σ → Prop) (as : List α) (hP : ∀ d, ∀ b ∈ as, P d → P (step d b)) (c : σ) (hc : P c) :
    P (as.foldl step c) := by
  induction as generalizing c with
  | nil => exact hc
  | cons a as ih => exact ih (fun d b hb => hP d b (List.mem_cons_of_mem _ hb)) _ (hP c a List.mem_cons_self hc)

/-! ## Lane registers that data fills -/

/-- A Hand that differs from another in its lane registers and their poison alone. -/
def Hand.butLanes (c d : Hand) : Prop := d = { c with x := d.x, xp := d.xp }

theorem Hand.butLanes.trans {c d e : Hand} (h : c.butLanes d) (h' : d.butLanes e) : c.butLanes e := by
  unfold Hand.butLanes at *
  rw [h', h]

theorem Hand.butLanes.pf {c d : Hand} (h : c.butLanes d) (r : Nat) : d.pf r = c.pf r := by
  unfold Hand.butLanes at h
  rw [h]
  rfl

theorem Hand.setLanes_eq (c : Hand) (lane r size v : Nat) (p : Bool) : c.setLanes lane r size v p =
    (List.range (if size = 8 then 2 else 1)).foldl (fun c k => c.wx (r + k) lane (BitVec.ofNat 32 (v / 2 ^ (32 * k))) p) c := rfl

theorem Hand.butLanes_wx (c : Hand) (r l : Nat) (v : Lane) (p : Bool) : c.butLanes (c.wx r l v p) := Hand.wx_frame c r l v p

theorem Hand.butLanes_setLanes (c : Hand) (lane r size v : Nat) (p : Bool) : c.butLanes (c.setLanes lane r size v p) := by
  rw [Hand.setLanes_eq]
  exact foldl_keeps _ (c.butLanes ·) _ (fun d k _ h => h.trans (d.butLanes_wx ..)) c rfl

theorem Hand.butLanes_fillDest (c : Hand) (bytes : List Byte) (poison : Bool) (d : FillDest) : c.butLanes (c.fillDest bytes poison d) :=
  Hand.butLanes_setLanes ..

theorem Hand.butLanes_fillDests (c : Hand) (bytes : List Byte) (poison : Bool) (ds : List FillDest) :
    c.butLanes (ds.foldl (fun c d => c.fillDest bytes poison d) c) :=
  foldl_keeps _ (c.butLanes ·) _ (fun d _ _ h => h.trans (d.butLanes_fillDest ..)) c rfl

theorem Hand.butLanes_loadNow (c : Hand) (i : FmtM) (signed : Bool) (l : Nat) (bytes : List Byte) (poison : Bool) :
    c.butLanes (c.loadNow i signed l bytes poison) := Hand.butLanes_fillDests ..

section
variable (c : Hand) (lane r size v : Nat) (p : Bool)

theorem Hand.rx_setLanes_other (l r' : Nat) (h : lane < 16) (h' : l < 16) (hne : l ≠ lane) :
    (c.setLanes lane r size v p).rx r' l = c.rx r' l ∧ (c.setLanes lane r size v p).px r' l = c.px r' l := by
  rw [Hand.setLanes_eq]
  refine foldl_keeps _ (fun d : Hand => d.rx r' l = c.rx r' l ∧ d.px r' l = c.px r' l) _ (fun d k _ hd => ?_) c ⟨rfl, rfl⟩
  rw [Hand.rx_wx _ _ _ _ _ _ _ h h', Hand.px_wx _ _ _ _ _ _ _ h h', if_neg (fun x => hne x.2.1), if_neg (fun x => hne x.2.1)]
  exact hd

theorem Hand.rx_setLanes_same (k : Nat) (h : lane < 16) (hk : k < if size = 8 then 2 else 1) (h0 : r + k ≠ 0) :
    (c.setLanes lane r size v p).rx (r + k) lane = BitVec.ofNat 32 (v / 2 ^ (32 * k))
      ∧ (c.setLanes lane r size v p).px (r + k) lane = p := by
  rw [Hand.setLanes_eq]
  refine foldl_reaches _ (fun _ => True) (fun d : Hand => d.rx (r + k) lane = BitVec.ofNat 32 (v / 2 ^ (32 * k)) ∧ d.px (r + k) lane = p) k _
    (fun _ _ _ _ => trivial) (fun d _ => ?_) (fun d j _ hj _ hd => ?_) (List.mem_range.2 hk) c trivial
  · rw [Hand.rx_wx _ _ _ _ _ _ _ h h, Hand.px_wx _ _ _ _ _ _ _ h h, if_pos ⟨rfl, rfl, h0⟩, if_pos ⟨rfl, rfl, h0⟩]
    exact ⟨rfl, rfl⟩
  · have hne : ¬(r + k = r + j ∧ lane = lane ∧ r + k ≠ 0) := fun x => hj (by omega)
    rw [Hand.rx_wx _ _ _ _ _ _ _ h h, Hand.px_wx _ _ _ _ _ _ _ h h, if_neg hne, if_neg hne]
    exact hd

theorem Hand.rx_setLanes_outside (r' : Nat) (h : lane < 16) (hr : r' < r ∨ r + (if size = 8 then 2 else 1) ≤ r') :
    (c.setLanes lane r size v p).rx r' lane = c.rx r' lane ∧ (c.setLanes lane r size v p).px r' lane = c.px r' lane := by
  rw [Hand.setLanes_eq]
  refine foldl_keeps _ (fun d : Hand => d.rx r' lane = c.rx r' lane ∧ d.px r' lane = c.px r' lane) _ (fun d k hk hd => ?_) c ⟨rfl, rfl⟩
  have hk := List.mem_range.1 hk
  have hne : ¬(r' = r + k ∧ lane = lane ∧ r' ≠ 0) := fun x => by omega
  rw [Hand.rx_wx _ _ _ _ _ _ _ h h, Hand.px_wx _ _ _ _ _ _ _ h h, if_neg hne, if_neg hne]
  exact hd

end

/-! ## Bytes as numbers -/

theorem leNat_lt (bs : List Byte) : leNat bs < 2 ^ (8 * bs.length) := by
  induction bs with
  | nil => simp [leNat]
  | cons b bs ih =>
    have hb := b.isLt
    rw [leNat, List.length_cons, show 8 * (bs.length + 1) = 8 + 8 * bs.length by ring, pow_add]
    omega

theorem leNat_append (as bs : List Byte) : leNat (as ++ bs) = leNat as + 2 ^ (8 * as.length) * leNat bs := by
  induction as with
  | nil => simp [leNat]
  | cons a as ih =>
    rw [List.cons_append, leNat, ih, leNat, List.length_cons, show 8 * (as.length + 1) = 8 + 8 * as.length by ring, pow_add]
    ring

theorem length_slice (bs : List Byte) (off n : Nat) : (slice bs off n).length = n := by
  simp only [slice, List.length_append, List.length_replicate, List.length_take, List.length_drop]
  omega

theorem leAt_lt (bs : List Byte) (off n : Nat) : leAt bs off n < 2 ^ (8 * n) := by
  have h := leNat_lt (slice bs off n)
  rwa [length_slice] at h

theorem ofNat_ofSigned (w : Nat) (z : Int) : BitVec.ofNat w (ofSigned w z) = BitVec.ofInt w z := by
  have hp : (0 : Int) < 2 ^ w := by positivity
  have h0 := Int.emod_nonneg z hp.ne'
  have h1 := Int.emod_lt_of_pos z hp
  apply BitVec.eq_of_toNat_eq
  rw [BitVec.toNat_ofNat, BitVec.toNat_ofInt, ofSigned, Nat.mod_eq_of_lt]
  · norm_cast
  · zify
    rwa [Int.toNat_of_nonneg h0]

theorem toSigned_eq_toInt_ofNat (w n : Nat) (hw : 0 < w) (hn : n < 2 ^ w) : toSigned w n = (BitVec.ofNat w n).toInt := by
  obtain ⟨k, rfl⟩ : ∃ k, w = k + 1 := ⟨w - 1, by omega⟩
  have hp : 2 ^ (k + 1) = 2 * 2 ^ k := by ring
  rw [BitVec.toInt_eq_toNat_cond, BitVec.toNat_ofNat, Nat.mod_eq_of_lt hn, toSigned, Nat.add_sub_cancel]
  by_cases h : n < 2 ^ k
  · rw [if_pos h, if_pos (by omega)]
  · rw [if_neg h, if_neg (by omega)]
    norm_cast

end Sys2Proof.Machine
end

section
/-! SUPPORT. The Hands' local store: loads, stores and atomics (R127, R137, R139). -/

namespace Sys2Proof.Machine

open Sys2Proof

/-! ## What a load writes -/

theorem leNat_drop (bs : List Byte) (o : Nat) : leNat bs / 2 ^ (8 * o) = leNat (bs.drop o) := by
  by_cases h : o ≤ bs.length
  · have ht : (bs.take o).length = o := by simp [h]
    have hlt := leNat_lt (bs.take o)
    rw [ht] at hlt
    conv_lhs => rw [← List.take_append_drop o bs, leNat_append, ht]
    rw [Nat.add_mul_div_left _ _ (by positivity), Nat.div_eq_of_lt hlt, Nat.zero_add]
  · have hlt : leNat bs < 2 ^ (8 * o) := (leNat_lt bs).trans_le (Nat.pow_le_pow_right (by omega) (by omega))
    rw [Nat.div_eq_of_lt hlt, List.drop_of_length_le (by omega), leNat]

theorem leNat_take (bs : List Byte) (n : Nat) (h : n ≤ bs.length) : leNat bs % 2 ^ (8 * n) = leNat (bs.take n) := by
  have ht : (bs.take n).length = n := by simp [h]
  have hlt := leNat_lt (bs.take n)
  rw [ht] at hlt
  conv_lhs => rw [← List.take_append_drop n bs, leNat_append, ht]
  rw [Nat.add_mul_mod_self_left, Nat.mod_eq_of_lt hlt]

theorem slice_eq (bs : List Byte) (o n : Nat) (h : o + n ≤ bs.length) : slice bs o n = (bs.drop o).take n := by
  have : n - ((bs.drop o).take n).length = 0 := by
    simp only [List.length_take, List.length_drop]
    omega
  simp only [slice, this, List.replicate_zero, List.append_nil]

theorem Hand.localBytes_length (c : Hand) (a n : Nat) : (c.localBytes a n).length = n := by simp [Hand.localBytes]

theorem Hand.slice_localBytes (c : Hand) (a n o m : Nat) (h : o + m ≤ n) : slice (c.localBytes a n) o m = c.localBytes (a + o) m := by
  rw [slice_eq _ _ _ (by rw [Hand.localBytes_length]; exact h)]
  apply List.ext_getElem
  · simp only [Hand.localBytes, List.length_take, List.length_drop, List.length_map, List.length_range]
    omega
  · intro k h1 h2
    simp [Hand.localBytes, Nat.add_assoc]

/-- A register of the two that an 8-byte load fills. -/
theorem ofNat_half_of_leAt (bs : List Byte) (k : Nat) (hb : bs.length = 8) (hk : k < 2) :
    BitVec.ofNat 32 (leAt bs 0 8 / 2 ^ (32 * k)) = BitVec.ofNat 32 (leNat (slice bs (4 * k) 4)) := by
  have h0 : leAt bs 0 8 = leNat bs := by
    rw [leAt, slice_eq _ _ _ (by omega), List.drop_zero, List.take_of_length_le (by omega)]
  have hl : 4 ≤ (bs.drop (4 * k)).length := by
    rw [List.length_drop]
    omega
  apply BitVec.eq_of_toNat_eq
  rw [BitVec.toNat_ofNat, BitVec.toNat_ofNat, h0, show 32 * k = 8 * (4 * k) by ring, leNat_drop, slice_eq _ _ _ (by omega), ← leNat_take _ _ hl]
  exact (Nat.mod_mod _ _).symm

section
variable (c : Hand) (i : FmtM) (signed : Bool) (l : Nat) (bytes : List Byte) (poison : Bool)

theorem Hand.rx_loadNow_other (l' r : Nat) (h : l < 16) (h' : l' < 16) (hne : l' ≠ l) :
    (c.loadNow i signed l bytes poison).rx r l' = c.rx r l' ∧ (c.loadNow i signed l bytes poison).px r l' = c.px r l' := by
  refine foldl_keeps _ (fun d : Hand => d.rx r l' = c.rx r l' ∧ d.px r l' = c.px r l') _ (fun d b hb hd => ?_) c ⟨rfl, rfl⟩
  have hlane : b.lane = l := by
    unfold loadDests at hb
    split at hb
    · obtain ⟨k, -, rfl⟩ := List.mem_map.1 hb
      rfl
    · rw [List.mem_singleton.1 hb]
  obtain ⟨hx, hp⟩ := d.rx_setLanes_other b.lane b.reg b.size _ (poison || b.bad) l' r (hlane ▸ h) h' (hlane ▸ hne)
  exact ⟨hx.trans hd.1, hp.trans hd.2⟩

theorem Hand.loadNow_of_ne_four (h4 : i.size.val ≠ 4) : c.loadNow i signed l bytes poison =
    c.fillDest bytes poison { lane := l, reg := i.xs.val, off := 0, size := sizeBytes i.size.val, signed := signed, bad := c.pf i.fsel.val } := by
  simp [Hand.loadNow, loadDests, h4]

/-- A load of up to 4 bytes writes one register, sign-extended where it is asked to. -/
theorem Hand.rx_loadNow_small (hl : l < 16) (hx : i.xs.val ≠ 0) (hs : i.size.val ≤ 2) (hb : bytes.length = sizeBytes i.size.val) :
    (c.loadNow i signed l bytes poison).rx i.xs.val l
        = (if signed then BitVec.ofInt 32 (toSigned (8 * sizeBytes i.size.val) (leNat bytes)) else BitVec.ofNat 32 (leNat bytes))
      ∧ (c.loadNow i signed l bytes poison).px i.xs.val l = (poison || c.pf i.fsel.val) := by
  have hat : leAt bytes 0 (sizeBytes i.size.val) = leNat bytes := by
    rw [leAt, slice_eq _ _ _ (by omega), List.drop_zero, List.take_of_length_le (by omega)]
  have h8 : sizeBytes i.size.val ≤ 4 := Nat.pow_le_pow_right (n := 2) (by omega) hs
  rw [c.loadNow_of_ne_four i signed l bytes poison (by omega)]
  unfold Hand.fillDest
  extract_lets v w
  obtain ⟨hrx, hpx⟩ := c.rx_setLanes_same l i.xs.val (sizeBytes i.size.val) w (poison || c.pf i.fsel.val) 0 hl (by split <;> omega) (by omega)
  refine ⟨hrx.trans ?_, hpx⟩
  have hv : v = leNat bytes := hat
  simp only [Nat.mul_zero, pow_zero, Nat.div_one, w, hv]
  have hlt := leNat_lt bytes
  rw [hb] at hlt
  cases signed with
  | false => simp
  | true =>
    by_cases h4 : sizeBytes i.size.val < 4
    · simp only [h4, decide_true, Bool.and_self, if_true, ofNat_ofSigned]
    · have e4 : sizeBytes i.size.val = 4 := by omega
      simp only [e4, Nat.lt_irrefl, decide_false, Bool.and_false, Bool.false_eq_true, if_false, if_true]
      rw [e4] at hlt
      rw [toSigned_eq_toInt_ofNat _ _ (by omega) hlt, BitVec.ofInt_toInt]

/-- A load of 8 or 16 bytes writes two registers or four. -/
theorem Hand.rx_loadNow_large (k : Nat) (hl : l < 16) (hs : 3 ≤ i.size.val) (hs4 : i.size.val ≤ 4) (hk : k < sizeRegs i.size.val)
    (hx : i.xs.val + k ≠ 0) (hb : bytes.length = sizeBytes i.size.val) :
    (c.loadNow i signed l bytes poison).rx (i.xs.val + k) l = BitVec.ofNat 32 (leNat (slice bytes (4 * k) 4)) := by
  by_cases h4 : i.size.val = 4
  · have hk4 : k < 4 := by simpa [sizeRegs, h4] using hk
    unfold Hand.loadNow loadDests
    rw [if_pos h4, List.foldl_map]
    refine foldl_reaches _ (fun _ => True) (fun d : Hand => d.rx (i.xs.val + k) l = BitVec.ofNat 32 (leNat (slice bytes (4 * k) 4))) k _
      (fun _ _ _ _ => trivial) (fun d _ => ?_) (fun d j _ hj _ hd => ?_) (List.mem_range.2 hk4) c trivial
    · obtain ⟨hrx, -⟩ := d.rx_setLanes_same l (i.xs.val + k) 4 (leAt bytes (0 + 4 * k) 4) (poison || c.pf i.fsel.val) 0 hl (by simp) (by omega)
      simpa [Hand.fillDest, leAt] using hrx
    · refine Eq.trans ?_ hd
      have ho : i.xs.val + k < i.xs.val + j ∨ i.xs.val + j + (if 4 = 8 then 2 else 1) ≤ i.xs.val + k := by
        rw [if_neg (by decide)]
        omega
      exact (d.rx_setLanes_outside l (i.xs.val + j) 4 _ _ (i.xs.val + k) hl ho).1
  · have h3 : i.size.val = 3 := by omega
    have hk2 : k < 2 := by simpa [sizeRegs, h3] using hk
    have hb8 : bytes.length = 8 := by simpa [sizeBytes, h3] using hb
    rw [c.loadNow_of_ne_four i signed l bytes poison h4, ← ofNat_half_of_leAt bytes k hb8 hk2, h3]
    have h8 : sizeBytes 3 = 8 := rfl
    obtain ⟨hrx, -⟩ := c.rx_setLanes_same l i.xs.val 8 (leAt bytes 0 8) (poison || c.pf i.fsel.val) k hl (by simpa using hk2) hx
    simpa [Hand.fillDest, h8] using hrx

end

/-! ## Local accesses -/

theorem State.localAccess_of_ready {s : State} {h : Nat} {i : FmtM} {n : Nat} {bad : Option Nat} (hr : localReady s h i n bad)
    (raise : Hand → State → State) (f : Hand → Hand) :
    s.localAccess h i n bad raise f = (raise (s.hand h) s).updHand h fun c => (f c).next := by
  obtain ⟨hi, hb, hf, ha, hl⟩ := hr
  have hin : (((s.hand h).memLanes i).any fun l => decide (1024 * s.handLocal h ≤ (s.hand h).localVa i l)) = false := by
    rw [List.any_eq_false]
    intro l hm
    simpa using (hl l hm).2
  rw [State.localAccess, State.memStart_go _ hi hb hf ha (fun l hm => (hl l hm).1)]
  simp only [hin, Bool.false_eq_true, if_false]

theorem State.localAccess_beyond {s : State} {h : Nat} {i : FmtM} {n : Nat} {bad : Option Nat} (hi : s.issues h = true) (hb : bad = none)
    (hf : s.freeRegs h (memRegs i n)) (ha : (s.hand h).badAddr i false = false)
    (hal : ∀ l ∈ (s.hand h).memLanes i, (s.hand h).localVa i l % sizeBytes i.size.val = 0) {l : Nat} (hl : l ∈ (s.hand h).memLanes i)
    (hout : 1024 * s.handLocal h ≤ (s.hand h).localVa i l) (raise : Hand → State → State) (f : Hand → Hand) :
    s.localAccess h i n bad raise f = s.handFault h .localRange 0 0 := by
  have hin : (((s.hand h).memLanes i).any fun l => decide (1024 * s.handLocal h ≤ (s.hand h).localVa i l)) = true :=
    List.any_eq_true.2 ⟨l, hl, decide_eq_true hout⟩
  rw [State.localAccess, State.memStart_go _ hi hb hf ha hal]
  simp only [hin, if_true]

theorem Hand.mem_memLanes {c : Hand} {i : FmtM} {l : Nat} (h : l ∈ c.memLanes i) : l < 16 := Hand.mem_select _ _ _ _ h

/-! ### Loads -/

/-- What one lane of a local load writes. -/
def Hand.localLane (c : Hand) (i : FmtM) (d : Hand) (l : Nat) : Hand :=
  d.loadNow i (i.minor = 1) l (c.localBytes (c.localVa i l) (sizeBytes i.size.val)) (c.localBad (c.localVa i l) (sizeBytes i.size.val))

/-- What the selected lanes of a local load write. -/
def Hand.localLoad (c : Hand) (i : FmtM) : Hand := (c.memLanes i).foldl (c.localLane i) c

theorem Hand.butLanes_localLane {c d : Hand} (i : FmtM) (l : Nat) (h : c.butLanes d) : c.butLanes (c.localLane i d l) :=
  h.trans (d.butLanes_loadNow ..)

theorem Hand.butLanes_localLoad (c : Hand) (i : FmtM) : c.butLanes (c.localLoad i) :=
  foldl_keeps _ (c.butLanes ·) _ (fun _ _ _ h => Hand.butLanes_localLane i _ h) c rfl

/-- A lane of a local load holds what its own load wrote. -/
theorem Hand.localLoad_lane (c : Hand) (i : FmtM) (l r : Nat) (hl : l ∈ c.memLanes i) (P : Lane → Bool → Prop)
    (h : ∀ d : Hand, c.butLanes d → P ((c.localLane i d l).rx r l) ((c.localLane i d l).px r l)) :
    P ((c.localLoad i).rx r l) ((c.localLoad i).px r l) := by
  refine foldl_reaches (c.localLane i) (c.butLanes ·) (fun d : Hand => P (d.rx r l) (d.px r l)) l _ (fun _ _ _ h => Hand.butLanes_localLane i _ h)
    h (fun d b hb hne _ hd => ?_) hl c rfl
  obtain ⟨hx, hp⟩ := d.rx_loadNow_other i (i.minor = 1) b (c.localBytes (c.localVa i b) (sizeBytes i.size.val))
    (c.localBad (c.localVa i b) (sizeBytes i.size.val)) l r (Hand.mem_memLanes hb) (Hand.mem_memLanes hl) hne.symm
  rw [Hand.localLane, hx, hp]
  exact hd

/-- The event that a local load of poisoned data raises, once. -/
def State.localPoisonRead (s : State) (h : Nat) (i : FmtM) (c : Hand) : State :=
  match ((c.memLanes i).map (c.localVa i)).find? fun a => c.localBad a (sizeBytes i.size.val) with
  | some a => s.raiseOwn .poisonRead (srcHand h) c.pol (addrDetail a 1)
  | none => s

theorem State.localPoisonRead_clean (s : State) (h : Nat) (i : FmtM) (c : Hand)
    (hc : ∀ l ∈ c.memLanes i, c.localBad (c.localVa i l) (sizeBytes i.size.val) = false) : s.localPoisonRead h i c = s := by
  have hf : (((c.memLanes i).map (c.localVa i)).find? fun a => c.localBad a (sizeBytes i.size.val)) = none := by
    simpa using hc
  rw [State.localPoisonRead, hf]

theorem State.localPoisonRead_bad (s : State) (h : Nat) (i : FmtM) (c : Hand)
    (hc : ∃ l ∈ c.memLanes i, c.localBad (c.localVa i l) (sizeBytes i.size.val) = true) :
    ∃ a, s.localPoisonRead h i c = s.raiseOwn .poisonRead (srcHand h) c.pol (addrDetail a 1) := by
  cases hf : ((c.memLanes i).map (c.localVa i)).find? fun a => c.localBad a (sizeBytes i.size.val) with
  | some a => exact ⟨a, by rw [State.localPoisonRead, hf]⟩
  | none =>
    obtain ⟨l, hl, hb⟩ := hc
    have h0 := List.find?_eq_none.1 hf (c.localVa i l) (List.mem_map.2 ⟨l, hl, rfl⟩)
    exact absurd hb h0

theorem State.updHand_localPoisonRead (s : State) (h h' : Nat) (i : FmtM) (c : Hand) (f : Hand → Hand) :
    { (s.localPoisonRead h i c).updHand h' f with crier := s.crier } = s.updHand h' f := by
  unfold State.localPoisonRead
  split <;> rfl

theorem State.hand_localPoisonRead (s : State) (h j : Nat) (i : FmtM) (c : Hand) : (s.localPoisonRead h i c).hand j = s.hand j := by
  unfold State.localPoisonRead
  split <;> rfl

theorem State.ldl_of_ready {s : State} {h : HandId} {i : FmtM} (hm : i.minor < 2)
    (hr : localReady s h i (sizeRegs i.size.val) (memFault i (sizeRegs i.size.val))) :
    exec (.ldl h i) s = .next ((s.localPoisonRead h i (s.hand h)).updHand h fun c => (c.localLoad i).next) := by
  show execLdl h i s = _
  have hm' : ¬2 ≤ i.minor := by omega
  simp only [execLdl, hm', if_false, State.localAccess_of_ready hr]
  rfl

/-! ### Stores -/

theorem mem_bytesAt {a : Nat} {bs : List Byte} {e : Nat × Byte} (h : e ∈ bytesAt a bs) :
    ∃ j, j < bs.length ∧ e = (a + j, bs.getD j 0) := by
  obtain ⟨j, hj, rfl⟩ := List.mem_map.1 h
  exact ⟨j, List.mem_range.1 hj, rfl⟩

theorem get_patch_bytesAt_inside (m : SMap Byte) (a : Nat) (bs : List Byte) (j : Nat) (h : j < bs.length) :
    (patch m (bytesAt a bs)).get 0 (a + j) = bs.getD j 0 := by
  refine foldl_reaches _ (fun _ => True) (fun d : SMap Byte => d.get 0 (a + j) = bs.getD j 0) (a + j, bs.getD j 0) _
    (fun _ _ _ _ => trivial) (fun d _ => SMap.get_set_same ..) (fun d b hb hne _ hd => ?_)
    (List.mem_map.2 ⟨j, List.mem_range.2 h, rfl⟩) m trivial
  obtain ⟨k, -, rfl⟩ := mem_bytesAt hb
  have hk : a + j ≠ a + k := fun e => hne (by rw [show j = k by omega])
  exact (SMap.get_set_other _ _ _ _ _ hk).trans hd

theorem get_patch_bytesAt_outside (m : SMap Byte) (a : Nat) (bs : List Byte) (k : Nat) (h : k < a ∨ a + bs.length ≤ k) :
    (patch m (bytesAt a bs)).get 0 k = m.get 0 k := by
  refine foldl_keeps _ (fun d : SMap Byte => d.get 0 k = m.get 0 k) _ (fun d b hb hd => ?_) m rfl
  obtain ⟨j, hj, rfl⟩ := mem_bytesAt hb
  have hk : k ≠ a + j := by omega
  exact (SMap.get_set_other _ _ _ _ _ hk).trans hd

section
variable (c : Hand) (a : Nat) (bs : List Byte) (bad : Bool)

theorem Hand.localWrite_inside (j : Nat) (h : j < bs.length) :
    (c.localWrite a bs bad).localStore.get 0 (a + j) = bs.getD j 0 ∧ (c.localWrite a bs bad).localPoison.get false (a + j) = bad := by
  refine ⟨get_patch_bytesAt_inside _ _ _ _ h, ?_⟩
  refine foldl_reaches _ (fun _ => True) (fun d : SMap Bool => d.get false (a + j) = bad) j _ (fun _ _ _ _ => trivial)
    (fun d _ => SMap.get_set_same ..) (fun d k _ hne _ hd => ?_) (List.mem_range.2 h) _ trivial
  have hk : a + j ≠ a + k := by omega
  exact (SMap.get_set_other _ _ _ _ _ hk).trans hd

theorem Hand.localWrite_outside (k : Nat) (h : k < a ∨ a + bs.length ≤ k) :
    (c.localWrite a bs bad).localStore.get 0 k = c.localStore.get 0 k
      ∧ (c.localWrite a bs bad).localPoison.get false k = c.localPoison.get false k := by
  refine ⟨get_patch_bytesAt_outside _ _ _ _ h, ?_⟩
  refine foldl_keeps _ (fun d : SMap Bool => d.get false k = c.localPoison.get false k) _ (fun d j hj hd => ?_) _ rfl
  have hj := List.mem_range.1 hj
  have hk : k ≠ a + j := by omega
  exact (SMap.get_set_other _ _ _ _ _ hk).trans hd

end

theorem leBytes_getD (n v j : Nat) (h : j < n) : (leBytes n v).getD j 0 = BitVec.ofNat 8 (v / 2 ^ (8 * j)) := by
  induction n generalizing v j with
  | zero => omega
  | succ n ih =>
    cases j with
    | zero => simp [leBytes]
    | succ j =>
      rw [leBytes, List.getD_cons_succ, ih _ _ (by omega), Nat.div_div_eq_div_mul, show 8 * (j + 1) = 8 + 8 * j by ring, pow_add]
      rfl

theorem bitsOf_sorted (n mask : Nat) : (bitsOf n mask).Pairwise (· < ·) := List.pairwise_lt_range.filter _

/-- What the selected lanes of a local store write. -/
def Hand.localSave (c : Hand) (i : FmtM) : Hand :=
  (c.memLanes i).foldl (fun d l => d.localWrite (c.localVa i l) (leBytes (sizeBytes i.size.val) (c.source i l).1) (c.source i l).2) c

/-- A Hand that differs from another in its local store and its poison alone. -/
def Hand.butLocal (c d : Hand) : Prop := d = { c with localStore := d.localStore, localPoison := d.localPoison }

theorem Hand.butLocal.trans {c d e : Hand} (h : c.butLocal d) (h' : d.butLocal e) : c.butLocal e := by
  unfold Hand.butLocal at *
  rw [h', h]

theorem Hand.butLocal_localWrite (c : Hand) (a : Nat) (bs : List Byte) (bad : Bool) : c.butLocal (c.localWrite a bs bad) := rfl

theorem Hand.butLocal_localSave (c : Hand) (i : FmtM) : c.butLocal (c.localSave i) :=
  foldl_keeps _ (c.butLocal ·) _ (fun d _ _ h => h.trans (d.butLocal_localWrite ..)) c rfl

theorem Hand.localSave_outside (c : Hand) (i : FmtM) (a : Nat)
    (h : ∀ l ∈ c.memLanes i, a < c.localVa i l ∨ c.localVa i l + sizeBytes i.size.val ≤ a) :
    (c.localSave i).localStore.get 0 a = c.localStore.get 0 a ∧ (c.localSave i).localPoison.get false a = c.localPoison.get false a := by
  refine foldl_keeps _ (fun d : Hand => d.localStore.get 0 a = c.localStore.get 0 a ∧ d.localPoison.get false a = c.localPoison.get false a) _
    (fun d l hl hd => ?_) c ⟨rfl, rfl⟩
  obtain ⟨hs, hp⟩ := d.localWrite_outside (c.localVa i l) (leBytes (sizeBytes i.size.val) (c.source i l).1) (c.source i l).2 a
    (by rw [leBytes_length]; exact h l hl)
  exact ⟨hs.trans hd.1, hp.trans hd.2⟩

/-- The highest lane's store stands. -/
theorem Hand.localSave_inside (c : Hand) (i : FmtM) (l j : Nat) (hl : l ∈ c.memLanes i) (hj : j < sizeBytes i.size.val)
    (h : ∀ m ∈ c.memLanes i, l < m → c.localVa i l + j < c.localVa i m ∨ c.localVa i m + sizeBytes i.size.val ≤ c.localVa i l + j) :
    (c.localSave i).localStore.get 0 (c.localVa i l + j) = BitVec.ofNat 8 ((c.source i l).1 / 2 ^ (8 * j))
      ∧ (c.localSave i).localPoison.get false (c.localVa i l + j) = (c.source i l).2 := by
  unfold Hand.localSave
  have hsort : (c.memLanes i).Pairwise (· < ·) := bitsOf_sorted _ _
  obtain ⟨pre, post, he⟩ := List.append_of_mem hl
  rw [he] at h hsort ⊢
  obtain ⟨-, hpost, -⟩ := List.pairwise_append.1 hsort
  rw [List.foldl_append, List.foldl_cons]
  refine foldl_keeps _ (fun d : Hand => d.localStore.get 0 (c.localVa i l + j) = BitVec.ofNat 8 ((c.source i l).1 / 2 ^ (8 * j))
    ∧ d.localPoison.get false (c.localVa i l + j) = (c.source i l).2) post (fun d m hm hd => ?_) _ ?_
  · obtain ⟨hs, hp⟩ := d.localWrite_outside (c.localVa i m) (leBytes (sizeBytes i.size.val) (c.source i m).1) (c.source i m).2
      (c.localVa i l + j)
      (by rw [leBytes_length]; exact h m (by simp [hm]) ((List.pairwise_cons.1 hpost).1 m hm))
    exact ⟨hs.trans hd.1, hp.trans hd.2⟩
  · refine ⟨(Hand.localWrite_inside _ _ _ _ j (by rw [leBytes_length]; exact hj)).1.trans (leBytes_getD _ _ _ hj),
      (Hand.localWrite_inside _ _ _ _ j (by rw [leBytes_length]; exact hj)).2⟩

/-! ### Atomics -/

/-- A Hand that differs from another in its lane registers and its local store alone. -/
def Hand.butLanesLocal (c d : Hand) : Prop :=
  d = { c with x := d.x, xp := d.xp, localStore := d.localStore, localPoison := d.localPoison }

theorem Hand.butLanesLocal.trans {c d e : Hand} (h : c.butLanesLocal d) (h' : d.butLanesLocal e) : c.butLanesLocal e := by
  unfold Hand.butLanesLocal at *
  rw [h', h]

/-- The registers that an atomic's answer fills. -/
def Hand.atomFill (c : Hand) (a : AtomWait) (old : Nat) (poison : Bool) : Hand :=
  a.dests.foldl (fun h d =>
    let (lane, reg, kind, amount) := d
    let v := match kind with
      | 0 => old
      | 1 => (old + amount.toNat) % 2 ^ (8 * a.size)
      | _ => amount.toNat
    h.setLanes lane reg a.size v (poison || a.bad)) c

theorem Hand.butLanes_atomFill (c : Hand) (a : AtomWait) (old : Nat) (poison : Bool) : c.butLanes (c.atomFill a old poison) :=
  foldl_keeps _ (c.butLanes ·) _ (fun d _ _ h => h.trans (d.butLanes_setLanes ..)) c rfl

theorem Hand.butLanes.local {c d : Hand} (h : c.butLanes d) : d.localStore = c.localStore ∧ d.atoms = c.atoms := by
  unfold Hand.butLanes at h
  rw [h]
  exact ⟨rfl, rfl⟩

/-- The answer that an atomic of the local store gets. -/
def localWait (c : Hand) (i : FmtM) (r : AtomReq) : AtomWait :=
  { slot := 0, gen := 0, size := sizeBytes i.size.val, dests := r.dests, bad := c.pf i.fsel.val || r.bad }

theorem Hand.atomLocal_eq (c : Hand) (i : FmtM) (op : AtomOp) (r : AtomReq) :
    c.atomLocal i op r = { (c.localWrite r.at_ (leBytes (sizeBytes i.size.val)
        (atomNew op (sizeBytes i.size.val) (leNat (c.localBytes r.at_ (sizeBytes i.size.val))) r.value r.expect))
        (c.localBad r.at_ (sizeBytes i.size.val) || r.bad)).atomFill (localWait c i r)
          (leNat (c.localBytes r.at_ (sizeBytes i.size.val))) (c.localBad r.at_ (sizeBytes i.size.val)) with atoms := c.atoms } := rfl

theorem Hand.butLanesLocal_atomLocal (c : Hand) (i : FmtM) (op : AtomOp) (r : AtomReq) : c.butLanesLocal (c.atomLocal i op r) := by
  rw [Hand.atomLocal_eq]
  unfold Hand.butLanesLocal
  generalize hd : (c.localWrite _ _ _) = d
  have h : c.butLocal d := by
    rw [← hd]
    rfl
  have h' := d.butLanes_atomFill (localWait c i r) (leNat (c.localBytes r.at_ (sizeBytes i.size.val))) (c.localBad r.at_ (sizeBytes i.size.val))
  unfold Hand.butLocal at h
  unfold Hand.butLanes at h'
  rw [h', h]

theorem Hand.atomLocal_dests_nil (c : Hand) (i : FmtM) (op : AtomOp) (r : AtomReq) (h : r.dests = []) :
    (c.atomLocal i op r).x = c.x ∧ (c.atomLocal i op r).xp = c.xp := by
  rw [Hand.atomLocal_eq, Hand.atomFill, localWait, h]
  exact ⟨rfl, rfl⟩

theorem atomReqs_dests_nil (c : Hand) (i : FmtM) (op : AtomOp) (ls : List (Nat × Nat)) (r : AtomReq) (h : r ∈ atomReqs c i op false ls) :
    r.dests = [] := by
  unfold atomReqs at h
  extract_lets at h
  split at h
  · obtain ⟨e, -, rfl⟩ := List.mem_map.1 h
    rfl
  · obtain ⟨e, -, rfl⟩ := List.mem_map.1 h
    rfl

theorem Hand.localBytes_localWrite (c : Hand) (a n v : Nat) (bad : Bool) : (c.localWrite a (leBytes n v) bad).localBytes a n = leBytes n v := by
  apply List.ext_getElem
  · rw [Hand.localBytes_length, leBytes_length]
  · intro j h1 h2
    have hj : j < n := by rwa [Hand.localBytes_length] at h1
    have h := (c.localWrite_inside a (leBytes n v) bad j h2).1
    rw [List.getD_eq_getElem _ _ h2] at h
    simpa [Hand.localBytes] using h

theorem Hand.localBytes_atomLocal (c : Hand) (i : FmtM) (op : AtomOp) (r : AtomReq) :
    (c.atomLocal i op r).localBytes r.at_ (sizeBytes i.size.val) = leBytes (sizeBytes i.size.val)
      (atomNew op (sizeBytes i.size.val) (leNat (c.localBytes r.at_ (sizeBytes i.size.val))) r.value r.expect) := by
  rw [Hand.atomLocal_eq]
  generalize hd : (c.localWrite _ _ _) = d
  have h := (d.butLanes_atomFill (localWait c i r) (leNat (c.localBytes r.at_ (sizeBytes i.size.val)))
    (c.localBad r.at_ (sizeBytes i.size.val))).local.1
  rw [← Hand.localBytes_localWrite c _ _ _ (c.localBad r.at_ (sizeBytes i.size.val) || r.bad), hd]
  show ((d.atomFill _ _ _).localBytes r.at_ _) = d.localBytes r.at_ _
  unfold Hand.localBytes at h ⊢
  rw [h]

/-- The one request of a lane alone. -/
theorem atomReqs_single (c : Hand) (i : FmtM) (op : AtomOp) (ret : Bool) (l a : Nat) :
    ∃ r, atomReqs c i op ret [(l, a)] = [r] ∧ r.at_ = a
      ∧ r.value = combine op (sizeBytes i.size.val) [c.rxs i.xs.val (sizeRegs i.size.val) l % 2 ^ (8 * sizeBytes i.size.val)]
      ∧ r.expect = (if op = .cas then c.rxs (i.xs.val + sizeRegs i.size.val) (sizeRegs i.size.val) l % 2 ^ (8 * sizeBytes i.size.val) else 0)
      ∧ (ret = true → ∃ kind, r.dests = [(l, i.xs.val, kind, 0)] ∧ kind ≤ 1) := by
  by_cases h : op = .cas
  · subst h
    exact ⟨_, rfl, rfl, rfl, rfl, fun h => ⟨0, by simp [h], by omega⟩⟩
  · refine ⟨_, by rw [atomReqs, if_neg h]; rfl, rfl, ?_, (if_neg h).symm, fun hr => ?_⟩
    · simp
    · cases op with
      | add => exact ⟨1, by simp [hr, combinedDests], by omega⟩
      | cas => exact absurd rfl h
      | _ => exact ⟨0, by simp [hr, combinedDests], by omega⟩

theorem Hand.rx_atomLocal (c : Hand) (i : FmtM) (op : AtomOp) (r : AtomReq) (l kind : Nat) (hl : l < 16) (hx : i.xs.val ≠ 0)
    (hd : r.dests = [(l, i.xs.val, kind, 0)]) (hk : kind ≤ 1) :
    (c.atomLocal i op r).rx i.xs.val l = BitVec.ofNat 32 (leNat (c.localBytes r.at_ (sizeBytes i.size.val))) := by
  rw [Hand.atomLocal_eq]
  generalize (c.localWrite _ _ _) = d
  generalize hold : leNat (c.localBytes r.at_ (sizeBytes i.size.val)) = old
  have hlt : old < 2 ^ (8 * sizeBytes i.size.val) := by
    have h := leNat_lt (c.localBytes r.at_ (sizeBytes i.size.val))
    rwa [Hand.localBytes_length, hold] at h
  have hfill : d.atomFill (localWait c i r) old (c.localBad r.at_ (sizeBytes i.size.val)) = d.setLanes l i.xs.val (sizeBytes i.size.val) old
      (c.localBad r.at_ (sizeBytes i.size.val) || (c.pf i.fsel.val || r.bad)) := by
    rw [Hand.atomFill, localWait, hd]
    obtain rfl | rfl : kind = 0 ∨ kind = 1 := by omega
    · rfl
    · simp [Nat.mod_eq_of_lt hlt]
  rw [hfill]
  obtain ⟨hrx, -⟩ := d.rx_setLanes_same l i.xs.val (sizeBytes i.size.val) old
    (c.localBad r.at_ (sizeBytes i.size.val) || (c.pf i.fsel.val || r.bad)) 0 hl (by split <;> omega) (by omega)
  show (d.setLanes l i.xs.val _ old _).rx i.xs.val l = _
  simpa using hrx

/-- What the selected lanes of a local atomic leave. -/
def Hand.localAtoms (c : Hand) (i : FmtM) (op : AtomOp) (ret : Bool) : Hand :=
  (atomReqs c i op ret ((c.memLanes i).map fun l => (l, c.localVa i l))).foldl (fun c r => c.atomLocal i op r) c

/-- Settles O27. -/
theorem localStoreAccesses : Obligations.LocalStoreAccesses := by
  refine ⟨?load, ?store, ?atomic, ?beyond⟩
  case load =>
    intro s h i hm hr c bad
    have hx := State.ldl_of_ready hm hr
    obtain ⟨-, hmf, -⟩ := hr
    obtain ⟨hs4, -⟩ := memFault_eq_none hmf
    have hb := c.butLanes_localLoad i
    have hlen : ∀ l, (c.localBytes (c.localVa i l) (sizeBytes i.size.val)).length = sizeBytes i.size.val := fun l => c.localBytes_length ..
    refine completes_of_exec hx ?_
    rw [State.hand_updHand]
    rw [State.hand_localPoisonRead, State.updHand_localPoisonRead]
    refine ⟨?_, fun l hl h0 hs => ?_, fun l hl hs k hk h0 => ?_, fun hclean => ?_, fun hbad => ?_⟩
    · convert State.onlyHand_updHand s h _ using 1
      unfold Hand.butLanes at hb
      show _ = { c.localLoad i with pc := (c.localLoad i).pc + 1 }
      rw [hb]
      rfl
    · refine c.localLoad_lane i l i.xs.val hl (fun x p => x = _ ∧ p = _) fun d hd => ?_
      obtain ⟨hx, hp⟩ := d.rx_loadNow_small i (i.minor = 1) l _ (bad l) (Hand.mem_memLanes hl) h0 hs (hlen l)
      rw [hd.pf] at hp
      exact ⟨hx.trans (by simp), hp⟩
    · refine c.localLoad_lane i l (i.xs.val + k) hl (fun x _ => x = _) fun d hd => ?_
      have hx := d.rx_loadNow_large i (i.minor = 1) l _ (bad l) k (Hand.mem_memLanes hl) hs hs4 hk h0 (hlen l)
      have hin : 4 * k + 4 ≤ sizeBytes i.size.val := by
        obtain h3 | h4 : i.size.val = 3 ∨ i.size.val = 4 := by omega
        · simp [sizeRegs, sizeBytes, h3] at hk ⊢
          omega
        · simp [sizeRegs, sizeBytes, h4] at hk ⊢
          omega
      rwa [c.slice_localBytes _ _ _ _ hin] at hx
    · rw [s.localPoisonRead_clean h i _ hclean]
      rfl
    · obtain ⟨a, ha⟩ := s.localPoisonRead_bad h i _ hbad
      rw [ha]
      exact ⟨_, rfl, rfl, rfl, rfl⟩
  case store =>
    intro s h i hm hr c
    refine completes_of_exec (t := s.updHand h fun c => (c.localSave i).next) ?_ ?_
    · show execStl h i s = _
      have hm' : ¬1 ≤ i.minor := by omega
      simp only [execStl, hm', if_false, State.localAccess_of_ready hr]
      rfl
    · rw [State.hand_updHand]
      refine ⟨?_, fun l hl j hj hov => c.localSave_inside i l j hl hj hov, fun a ha => c.localSave_outside i a ha⟩
      convert State.onlyHand_updHand s h _ using 1
      have hb := c.butLocal_localSave i
      unfold Hand.butLocal at hb
      show _ = { c.localSave i with pc := (c.localSave i).pc + 1 }
      rw [hb]
      rfl
  case atomic =>
    intro s h i op ret hop hr c
    refine completes_of_exec (t := s.updHand h fun c => (c.localAtoms i op ret).next) ?_ ?_
    · show execAtoml h i s = _
      simp only [execAtoml, hop, State.localAccess_of_ready hr]
      rfl
    · rw [State.hand_updHand]
      have hb : c.butLanesLocal (c.localAtoms i op ret) :=
        foldl_keeps _ (c.butLanesLocal ·) _ (fun d _ _ h => h.trans (d.butLanesLocal_atomLocal ..)) c rfl
      refine ⟨?_, fun hret => ?_, fun l hl => ?_⟩
      · convert State.onlyHand_updHand s h _ using 1
        unfold Hand.butLanesLocal at hb
        show _ = { c.localAtoms i op ret with pc := (c.localAtoms i op ret).pc + 1 }
        rw [hb]
        rfl
      · subst hret
        refine foldl_keeps _ (fun d : Hand => d.x = c.x ∧ d.xp = c.xp) _ (fun d r hr hd => ?_) c ⟨rfl, rfl⟩
        obtain ⟨hx, hp⟩ := d.atomLocal_dests_nil i op r (atomReqs_dests_nil _ _ _ _ _ hr)
        exact ⟨hx.trans hd.1, hp.trans hd.2⟩
      · obtain ⟨r, hreq, hat, hv, he, hd⟩ := atomReqs_single c i op ret l (c.localVa i l)
        have hone : c.localAtoms i op ret = c.atomLocal i op r := by
          rw [Hand.localAtoms, hl, List.map_singleton, hreq]
          rfl
        refine ⟨?_, fun hret hx => ?_⟩
        · show (c.localAtoms i op ret).localBytes (c.localVa i l) (sizeBytes i.size.val) = _
          rw [hone, ← hat, Hand.localBytes_atomLocal, hv, he]
        · obtain ⟨kind, hdests, hk⟩ := hd hret
          show (c.localAtoms i op ret).rx i.xs.val l = _
          rw [hone, Hand.rx_atomLocal c i op r l kind (Hand.mem_memLanes (by rw [hl]; exact List.mem_singleton_self l)) hx hdests hk, hat]
  case beyond =>
    intro s h i l hi hm hs hf hx ha hal hl hout
    have hs' : i.size.val = 2 := by rw [hs]; rfl
    have hregs : sizeRegs i.size.val = 1 := by rw [hs']; rfl
    have hat : atomRegs .add i.size.val = 1 := by rw [hs']; rfl
    have hmf : memFault i 1 = none := by
      rw [memFault, if_neg (by omega), if_neg (by omega)]
    have hfree : s.freeRegs h (memRegs i 1) := by simpa [memRegs] using hf
    have hal' : ∀ l ∈ (s.hand h).memLanes i, (s.hand h).localVa i l % sizeBytes i.size.val = 0 := by
      rw [hs']
      exact hal
    have hbeyond := State.localAccess_beyond hi hmf hfree ha hal' hl hout
    refine ⟨?_, ?_, ?_⟩
    · show execLdl h i s = _
      have hm' : ¬2 ≤ i.minor := by omega
      simp only [execLdl, hm', if_false, hregs, hbeyond]
    · show execStl h i s = _
      have hm' : ¬1 ≤ i.minor := by omega
      simp only [execStl, hm', if_false, hregs, hbeyond]
    · have hop : atomOf i.minor = some (.add, true) := by rw [hm]; rfl
      have haf : atomFault i = memFault i 1 := by
        simp only [atomFault, hop, hat, atomSizeOk, hs']
        rfl
      show execAtoml h i s = _
      simp only [execAtoml, hop, hat, haf, hbeyond]

end Sys2Proof.Machine
end

section
/-! SUPPORT. Global atomics of a Hand (R138, R139). -/

namespace Sys2Proof.Machine

open Sys2Proof

/-! ## Global accesses -/

theorem State.memStart_of_globalReady {s : State} {h : Nat} {i : FmtM} {n : Nat} {bad : Option Nat} (hr : globalReady s h i n bad)
    (go : State → State) : s.memStart h i n true bad go = go s := by
  obtain ⟨hi, hb, hf, ha, hl⟩ := hr
  exact State.memStart_go go hi hb hf ha hl

/-- The checks of an access change walks and events alone. -/
theorem State.checked_eq (s : State) (h : Nat) (ls : List (Nat × Nat × LaneAt)) :
    s.checked h ls = { s with land := (s.checked h ls).land, crier := (s.checked h ls).crier } := by
  unfold State.checked
  split <;> split <;> rfl

/-- Free data for a lane changes its registers and the model's counter alone. -/
theorem State.loadFree_eq (s : State) (h : Nat) (i : FmtM) (signed : Bool) (l : Nat) :
    ∃ bs, s.loadFree h i signed l = { s with seed := (s.loadFree h i signed l).seed }.updHand h fun c => c.loadNow i signed l bs true :=
  ⟨_, rfl⟩

/-- The state but for lane registers of one Hand, walks, events and the model's counter. -/
def State.butLanes (s : State) (h : Nat) (t : State) : Prop :=
  t = { s with seed := t.seed, hands := t.hands, land := t.land, crier := t.crier }
    ∧ (∀ j, j ≠ h → t.hand j = s.hand j) ∧ (s.hand h).butLanes (t.hand h)

theorem State.butLanes.trans {s t u : State} {h : Nat} (e : s.butLanes h t) (f : t.butLanes h u) : s.butLanes h u := by
  obtain ⟨e1, e2, e3⟩ := e
  obtain ⟨f1, f2, f3⟩ := f
  exact ⟨by rw [f1, e1], fun j hj => (f2 j hj).trans (e2 j hj), e3.trans f3⟩

theorem State.butLanes_refl (s : State) (h : Nat) : s.butLanes h s := ⟨rfl, fun _ _ => rfl, rfl⟩

theorem State.butLanes_checked (s : State) (h : Nat) (ls : List (Nat × Nat × LaneAt)) : s.butLanes h (s.checked h ls) := by
  rw [State.checked_eq]
  exact ⟨rfl, fun _ _ => rfl, rfl⟩

theorem State.butLanes_updHand (s : State) (h : Nat) (f : Hand → Hand) (hf : (s.hand h).butLanes (f (s.hand h))) : s.butLanes h (s.updHand h f) :=
  ⟨rfl, fun j hj => s.hand_updHand_other h f j hj, by rw [State.hand_updHand]; exact hf⟩

theorem State.butLanes_loadFree (s : State) (h : Nat) (i : FmtM) (signed : Bool) (l : Nat) : s.butLanes h (s.loadFree h i signed l) := by
  obtain ⟨bs, e⟩ := s.loadFree_eq h i signed l
  rw [e]
  exact (show s.butLanes h { s with seed := (s.loadFree h i signed l).seed } from ⟨rfl, fun _ _ => rfl, rfl⟩).trans
    (State.butLanes_updHand _ _ _ (Hand.butLanes_loadNow ..))

/-! ## Atomics -/

theorem State.newReq_eq (s : State) (op : HomeOp) (line p : Nat) (who : Requester) (va hint : Nat) :
    ∃ r : HomeReq, r.op = op ∧ r.line = line ∧ r.pol = p ∧ r.who = who ∧ s.newReq op line p who va hint =
      { s with nextId := s.nextId + 1, keels := (s.newReq op line p who va hint).keels, reqs := s.reqs ++ [r] } := by
  simp only [State.newReq]
  split
  · exact ⟨_, rfl, rfl, rfl, rfl, rfl⟩
  · exact ⟨_, rfl, rfl, rfl, rfl, rfl⟩

/-- What the request of an atomic waits with. -/
def State.atomWait (s : State) (h : Nat) (i : FmtM) (r : AtomReq) : AtomWait :=
  { slot := s.nextId, sector := s.sectorKey r.at_, gen := (s.pol (s.hand h).pol).gen, size := sizeBytes i.size.val, dests := r.dests
    bad := (s.hand h).pf i.fsel.val || r.bad }

theorem State.sendAtom_eq (s : State) (h : Nat) (i : FmtM) (op : AtomOp) (va : Nat) (r : AtomReq) :
    ∃ q : HomeReq, q.op = .atomic op (dpaOffset r.at_ % 1024) (sizeBytes i.size.val) (BitVec.ofNat 64 r.value) (BitVec.ofNat 64 r.expect) r.bad
      ∧ q.line = dpaOffset r.at_ / 1024
      ∧ s.sendAtom h i op va r = { s.updHand h fun c => { c with
            atoms := c.atoms ++ [s.atomWait h i r], l1 := c.l1.filter fun x => x.sector ≠ s.sectorKey r.at_ } with
          nextId := (s.sendAtom h i op va r).nextId, keels := (s.sendAtom h i op va r).keels, reqs := s.reqs ++ [q] } := by
  have hrun : s.sendAtom h i op va r = ({ s with nextId := s.nextId + 1 }.updHand h fun c =>
      { c with atoms := c.atoms ++ [s.atomWait h i r], l1 := c.l1.filter fun x => x.sector ≠ s.sectorKey r.at_ }).newReq
        (.atomic op (dpaOffset r.at_ % 1024) (sizeBytes i.size.val) (BitVec.ofNat 64 r.value) (BitVec.ofNat 64 r.expect) r.bad)
        (dpaOffset r.at_ / 1024) (s.hand h).pol (.hand h s.nextId) va r.hint := rfl
  obtain ⟨q, hop, hline, -, -, e⟩ := State.newReq_eq ({ s with nextId := s.nextId + 1 }.updHand h fun c =>
      { c with atoms := c.atoms ++ [s.atomWait h i r], l1 := c.l1.filter fun x => x.sector ≠ s.sectorKey r.at_ })
    (.atomic op (dpaOffset r.at_ % 1024) (sizeBytes i.size.val) (BitVec.ofNat 64 r.value) (BitVec.ofNat 64 r.expect) r.bad)
    (dpaOffset r.at_ / 1024) (s.hand h).pol (.hand h s.nextId) va r.hint
  refine ⟨q, hop, hline, ?_⟩
  rw [hrun, e]
  rfl

/-- What the requests of an atomic instruction leave. -/
structure AtomsSent (s t : State) (h : Nat) (i : FmtM) (op : AtomOp) (rs : List AtomReq) : Prop where
  boot : t.boot = s.boot
  mem : t.mem = s.mem
  bins : t.bins = s.bins
  pc : (t.hand h).pc = (s.hand h).pc
  w : (t.hand h).w = (s.hand h).w
  ops : t.reqs.map HomeReq.op = s.reqs.map HomeReq.op ++ rs.map fun r =>
    HomeOp.atomic op (dpaOffset r.at_ % 1024) (sizeBytes i.size.val) (BitVec.ofNat 64 r.value) (BitVec.ofNat 64 r.expect) r.bad
  lines : t.reqs.map HomeReq.line = s.reqs.map HomeReq.line ++ rs.map fun r => dpaOffset r.at_ / 1024
  dests : (t.hand h).atoms.map AtomWait.dests = (s.hand h).atoms.map AtomWait.dests ++ rs.map AtomReq.dests
  l1 : ∀ l ∈ (t.hand h).l1, l ∈ (s.hand h).l1 ∧ ∀ r ∈ rs, l.sector ≠ s.sectorKey r.at_

theorem State.sectorKey_of_boot {s t : State} (h : t.boot = s.boot) (dpa : Nat) : t.sectorKey dpa = s.sectorKey dpa := by
  unfold State.sectorKey State.keyAddr
  rw [h]

theorem State.sendAtom_sent (s : State) (h : Nat) (i : FmtM) (op : AtomOp) (va : Nat) (r : AtomReq) :
    AtomsSent s (s.sendAtom h i op va r) h i op [r] := by
  obtain ⟨q, hop, hline, e⟩ := s.sendAtom_eq h i op va r
  have hh : (s.sendAtom h i op va r).hand h = { s.hand h with
      atoms := (s.hand h).atoms ++ [s.atomWait h i r], l1 := (s.hand h).l1.filter fun x => x.sector ≠ s.sectorKey r.at_ } := by
    rw [e]
    exact s.hand_updHand h fun c => { c with atoms := c.atoms ++ [s.atomWait h i r], l1 := c.l1.filter fun x => x.sector ≠ s.sectorKey r.at_ }
  refine ⟨by rw [e]; rfl, by rw [e]; rfl, by rw [e]; rfl, by rw [hh], by rw [hh], ?_, ?_, ?_, fun l hl => ?_⟩
  · rw [e]
    simp [hop]
  · rw [e]
    simp [hline]
  · rw [hh]
    simp [State.atomWait]
  · rw [hh] at hl
    obtain ⟨hl, hne⟩ := List.mem_filter.1 hl
    exact ⟨hl, fun r' hr' => by rw [List.mem_singleton.1 hr']; simpa using hne⟩

theorem AtomsSent.append {s t u : State} {h : Nat} {i : FmtM} {op : AtomOp} {rs qs : List AtomReq} (e : AtomsSent s t h i op rs)
    (f : AtomsSent t u h i op qs) : AtomsSent s u h i op (rs ++ qs) := by
  refine ⟨f.boot.trans e.boot, f.mem.trans e.mem, f.bins.trans e.bins, f.pc.trans e.pc, f.w.trans e.w, ?_, ?_, ?_, fun l hl => ?_⟩
  · rw [f.ops, e.ops, List.map_append, List.append_assoc]
  · rw [f.lines, e.lines, List.map_append, List.append_assoc]
  · rw [f.dests, e.dests, List.map_append, List.append_assoc]
  · obtain ⟨ht, hq⟩ := f.l1 l hl
    obtain ⟨hs, hr⟩ := e.l1 l ht
    refine ⟨hs, fun r hm => ?_⟩
    rcases List.mem_append.1 hm with hm | hm
    · exact hr r hm
    · rw [← State.sectorKey_of_boot e.boot]
      exact hq r hm

theorem State.sendAtoms_sent (s : State) (h : Nat) (i : FmtM) (op : AtomOp) (va hint : AtomReq → Nat) (rs : List AtomReq) :
    AtomsSent s (rs.foldl (fun s r => s.sendAtom h i op (va r) { r with hint := hint r }) s) h i op rs := by
  induction rs generalizing s with
  | nil => exact ⟨rfl, rfl, rfl, rfl, rfl, by simp, by simp, by simp, fun l hl => ⟨hl, fun _ hr => by simp at hr⟩⟩
  | cons r rs ih =>
    have h1 := s.sendAtom_sent h i op (va r) { r with hint := hint r }
    have h1' : AtomsSent s (s.sendAtom h i op (va r) { r with hint := hint r }) h i op [r] :=
      ⟨h1.boot, h1.mem, h1.bins, h1.pc, h1.w, h1.ops, h1.lines, h1.dests, fun l hl => ⟨(h1.l1 l hl).1, fun r' hr' => by
        rw [List.mem_singleton.1 hr']
        exact (h1.l1 l hl).2 { r with hint := hint r } List.mem_cons_self⟩⟩
    exact h1'.append (ih _)

/-- Every address that lanes name has a request. -/
theorem mem_atomReqs_at (c : Hand) (i : FmtM) (op : AtomOp) (ret : Bool) (ls : List (Nat × Nat)) (e : Nat × Nat) (h : e ∈ ls) :
    ∃ r ∈ atomReqs c i op ret ls, r.at_ = e.2 := by
  unfold atomReqs
  extract_lets k size src bad
  split
  · exact ⟨_, List.mem_map.2 ⟨e, h, rfl⟩, rfl⟩
  · exact ⟨_, List.mem_map.2 ⟨e.2, List.mem_eraseDups.2 (List.mem_map.2 ⟨e, h, rfl⟩), rfl⟩, rfl⟩

/-- The device virtual address that a request to an address is for. -/
def atomVa (i : List (Nat × Nat × Word × Nat)) (r : AtomReq) : Nat := ((i.find? fun e => e.2.2.2 = r.at_).map fun e => e.2.1).getD 0

/-- The hint of a request to an address. -/
def atomHint (i : FmtM) (ls : List (Nat × Nat × Word × Nat)) (r : AtomReq) : Nat :=
  if i.hint = 0 then ((ls.find? fun e => e.2.2.2 = r.at_).map fun e => eHint e.2.2.1).getD 0 else i.hint.val

/-- The lanes whose access is refused take free data. -/
def State.freeLanes (s : State) (h : Nat) (i : FmtM) (ret : Bool) (ls : List (Nat × Nat × LaneAt)) : State :=
  ls.foldl (fun s e => match e.2.2 with
    | .far (.memory _ _) => s
    | _ => if ret then s.loadFree h i false e.1 else s) s

theorem State.butLanes_freeLanes (s : State) (h : Nat) (i : FmtM) (ret : Bool) (ls : List (Nat × Nat × LaneAt)) :
    s.butLanes h (s.freeLanes h i ret ls) := by
  refine foldl_keeps _ (s.butLanes h ·) _ (fun d e _ hd => ?_) _ (s.butLanes_refl h)
  split
  · exact hd
  · split
    · exact hd.trans (d.butLanes_loadFree ..)
    · exact hd

/-- Settles O28. -/
theorem globalAtomicsAreSent : Obligations.GlobalAtomicsAreSent := by
  refine ⟨?sent, ?casLength, ?addresses, ?sum⟩
  case sent =>
    intro s u h i op ret ls hop hr hls keys reqs hkeys hroom
    have hwait : (keys.any fun k => u.earlier h k true || u.unwonAt h k) = false := by
      rw [List.any_eq_false]
      intro k hk
      simp [hkeys k hk]
    have hroom' : ¬missEntries (u.handLocal h) < (u.hand h).entriesUsed + keys.length := by omega
    refine completes_of_exec (t := (reqs.foldl (fun s r => s.sendAtom h i op (atomVa (reached ls) r) { r with hint := atomHint i (reached ls) r })
      ((u.checked h ls).freeLanes h i ret ls)).updHand h Hand.next) ?_ ?_
    · show execAtom h i s = _
      simp only [execAtom, hop, State.memStart_of_globalReady hr, hls]
      rw [if_neg (by rw [hwait]; exact Bool.false_ne_true), if_neg hroom']
      rfl
    · have hlanes : u.butLanes h ((u.checked h ls).freeLanes h i ret ls) :=
        (u.butLanes_checked h ls).trans (State.butLanes_freeLanes ..)
      generalize (u.checked h ls).freeLanes h i ret ls = v at hlanes ⊢
      obtain ⟨hfr, -, hhand⟩ := hlanes
      unfold Hand.butLanes at hhand
      have hs := v.sendAtoms_sent h i op (atomVa (reached ls)) (atomHint i (reached ls)) reqs
      generalize (reqs.foldl _ v) = t at hs
      have hboot : v.boot = u.boot := by rw [hfr]
      have hreqs : v.reqs = u.reqs := by rw [hfr]
      rw [State.hand_updHand]
      refine ⟨?_, ?_, ?_, ?_, ?_, ?_, ?_, fun l hl hm => ?_⟩
      · show (t.hand h).pc + 1 = _
        rw [hs.pc, hhand]
      · exact hs.mem.trans (by rw [hfr])
      · exact hs.bins.trans (by rw [hfr])
      · exact hs.w.trans (by rw [hhand])
      · exact hs.ops.trans (by rw [hreqs])
      · exact hs.lines.trans (by rw [hreqs])
      · exact hs.dests.trans (by rw [hhand])
      · obtain ⟨-, hne⟩ := hs.l1 l hl
        obtain ⟨e, he, hk⟩ := List.mem_map.1 (List.mem_eraseDups.1 hm)
        obtain ⟨r, hr, hat⟩ := mem_atomReqs_at (u.hand h) i op ret ((reached ls).map fun e => (e.1, e.2.2.2)) _
          (List.mem_map.2 ⟨e, he, rfl⟩)
        refine hne r hr ?_
        rw [hat, State.sectorKey_of_boot hboot]
        exact hk.symm
  case casLength =>
    intro c i ret ls
    exact List.length_map ..
  case addresses =>
    intro c i op ret ls hop
    simp [atomReqs, hop, Function.comp_def]
  case sum =>
    intro c i a l m hs
    have hs' : i.size.val = 2 := by rw [hs]; rfl
    have hdup : [a, a].eraseDups = [a] := by simp [List.eraseDups_cons]
    simp [atomReqs, hs', combine, sizeBytes, sizeRegs, Hand.rxs, hdup]

end Sys2Proof.Machine
end

section
/-! SUPPORT. What the Bins' own work leaves of the rest of the module (R196 to R200). -/

namespace Sys2Proof.Machine

open Sys2Proof

/-! ## What a Bin changes -/

/-- A Hand but for what its outstanding loads have received and its stores that a Bin has yet to perform. -/
def Hand.binKeeps (c d : Hand) : Prop :=
  d = { c with misses := d.misses, unwon := d.unwon } ∧ d.misses.map MissEntry.sector = c.misses.map MissEntry.sector

theorem Hand.binKeeps_refl (c : Hand) : c.binKeeps c := ⟨rfl, rfl⟩

theorem Hand.binKeeps.trans {c d e : Hand} (h : c.binKeeps d) (h' : d.binKeeps e) : c.binKeeps e := by
  obtain ⟨h1, h2⟩ := h
  obtain ⟨h3, h4⟩ := h'
  exact ⟨by rw [h3, h1], h4.trans h2⟩

/-- The module but for its Bins, its coherence messages, trackers and their counts, and what Hands receive of a Bin. -/
structure State.binStep (s t : State) : Prop where
  frame : t = { s with bins := t.bins, net := t.net, keels := t.keels, pols := t.pols, mills := t.mills, hands := t.hands }
  hand : ∀ j, (s.hand j).binKeeps (t.hand j)

theorem State.binStep_refl (s : State) : s.binStep s := ⟨rfl, fun _ => Hand.binKeeps_refl _⟩

theorem State.binStep.trans {s t u : State} (h : s.binStep t) (h' : t.binStep u) : s.binStep u := by
  refine ⟨?_, fun j => (h.hand j).trans (h'.hand j)⟩
  rw [h'.frame, h.frame]

theorem State.binStep.mem {s t : State} (h : s.binStep t) : t.mem = s.mem := by rw [h.frame]
theorem State.binStep.boot {s t : State} (h : s.binStep t) : t.boot = s.boot := by rw [h.frame]

/-- The same, and of the Bins one way alone. -/
structure State.wayStep (s t : State) (key : Nat) : Prop extends s.binStep t where
  bins : ∀ k, k ≠ key → t.bins.get {} k = s.bins.get {} k

theorem State.wayStep_refl (s : State) (key : Nat) : s.wayStep s key := ⟨s.binStep_refl, fun _ _ => rfl⟩

theorem State.wayStep.trans {s t u : State} {key : Nat} (h : s.wayStep t key) (h' : t.wayStep u key) : s.wayStep u key :=
  ⟨h.tobinStep.trans h'.tobinStep, fun k hk => (h'.bins k hk).trans (h.bins k hk)⟩

theorem State.wayStep_setBin (s : State) (key : Nat) (b : BinLine) : s.wayStep (s.setBin key b) key :=
  ⟨⟨rfl, fun _ => Hand.binKeeps_refl _⟩, fun _ hk => SMap.get_set_other _ _ _ _ _ hk⟩

theorem State.wayStep_send (s : State) (m : CohMsg) (key : Nat) : s.wayStep (s.send m) key := ⟨⟨rfl, fun _ => Hand.binKeeps_refl _⟩, fun _ _ => rfl⟩

theorem State.wayStep_updKeel (s : State) (k : Nat) (f : KeelSt → KeelSt) (key : Nat) : s.wayStep (s.updKeel k f) key :=
  ⟨⟨rfl, fun _ => Hand.binKeeps_refl _⟩, fun _ _ => rfl⟩

theorem State.wayStep_updMill (s : State) (d : Nat) (f : MillSt → MillSt) (key : Nat) : s.wayStep (s.updMill d f) key :=
  ⟨⟨rfl, fun _ => Hand.binKeeps_refl _⟩, fun _ _ => rfl⟩

theorem State.wayStep_updPol (s : State) (p : Nat) (f : Polder → Polder) (key : Nat) : s.wayStep (s.updPol p f) key :=
  ⟨⟨rfl, fun _ => Hand.binKeeps_refl _⟩, fun _ _ => rfl⟩

theorem State.wayStep_takeTracker (s : State) (k p who key : Nat) : s.wayStep (s.takeTracker k p who) key := s.wayStep_updKeel ..

theorem State.wayStep_updHand (s : State) (h key : Nat) (f : Hand → Hand) (hf : ∀ c : Hand, c.binKeeps (f c)) : s.wayStep (s.updHand h f) key := by
  refine ⟨⟨rfl, fun j => ?_⟩, fun _ _ => rfl⟩
  by_cases hj : j = h
  · subst hj
    rw [State.hand_updHand]
    exact hf _
  · rw [State.hand_updHand_other _ _ _ _ hj]
    exact Hand.binKeeps_refl _

theorem State.wayStep_countDead (s : State) (p : Nat) (dead : Bool) (key : Nat) : s.wayStep (s.countDead p dead) key := by
  unfold State.countDead
  split
  · exact s.wayStep_updPol ..
  · exact s.wayStep_refl key

/-! ## Asking and serving -/

section
variable (s : State) (key : Nat)

theorem State.wayStep_askRdsec (b : BinLine) (need : BitVec 8) : s.wayStep (s.askRdsec key b need) key := by
  unfold State.askRdsec
  extract_lets ask
  split
  · exact s.wayStep_refl key
  · exact ((s.wayStep_takeTracker ..).trans (State.wayStep_send ..)).trans (State.wayStep_setBin ..)

theorem State.wayStep_askGets (b : BinLine) (need : BitVec 8) : s.wayStep (s.askGets key b need) key :=
  (s.wayStep_send ..).trans (State.wayStep_setBin ..)

theorem State.wayStep_askGetm (b : BinLine) (parts : BitVec 8) : s.wayStep (s.askGetm key b parts) key :=
  (s.wayStep_send ..).trans (State.wayStep_setBin ..)

theorem State.wayStep_askNext : s.wayStep (s.askNext key) key := by
  unfold State.askNext
  extract_lets b tracked
  have htracked : ∀ f : State → State, (∀ s : State, s.wayStep (f s) key) → s.wayStep (tracked f) key := by
    intro f hf
    simp only [tracked]
    split
    · exact (s.wayStep_takeTracker ..).trans (hf _)
    · exact s.wayStep_refl key
  split
  · split
    · exact s.wayStep_setBin ..
    · exact s.wayStep_refl key
  next w ws _ =>
    split
    · split
      · exact s.wayStep_refl key
      · refine htracked (fun s => if w.write.isEmpty then s.askGets key b w.read else s.askGetm key b (partSectors w.write)) fun s => ?_
        split
        · exact s.wayStep_askGets ..
        · exact s.wayStep_askGetm ..
    · split
      · exact s.wayStep_refl key
      · split
        · exact s.wayStep_askRdsec ..
        · split
          · exact s.wayStep_askRdsec ..
          · exact htracked _ fun s => s.wayStep_askGetm ..

theorem Hand.binKeeps_got (c : Hand) (waits : MissEntry → Bool) (v : Option (List Byte × Bool)) :
    c.binKeeps { c with misses := c.misses.map fun x => if waits x then { x with got := v } else x } := by
  refine ⟨rfl, ?_⟩
  rw [List.map_map]
  refine List.map_congr_left fun x _ => ?_
  simp only [Function.comp]
  split <;> rfl

theorem State.wayStep_capture (b : BinLine) (secs : BitVec 8) : s.wayStep (s.capture key b secs) key := by
  unfold State.capture
  refine foldl_keeps _ (s.wayStep · key) _ (fun d o _ hd => hd.trans ?_) s (s.wayStep_refl key)
  extract_lets sector waits data hs
  refine foldl_keeps _ (d.wayStep · key) _ (fun u e _ hu => hu.trans ?_) d (d.wayStep_refl key)
  exact (u.wayStep_updHand e.1 key _ fun c => c.binKeeps_got waits _).trans (State.wayStep_countDead ..)

theorem State.wayStep_serveHits (fuel : Nat) : s.wayStep (s.serveHits key fuel) key := by
  induction fuel generalizing s with
  | zero => exact s.wayStep_refl key
  | succ fuel ih =>
    unfold State.serveHits
    extract_lets b
    split
    · exact s.wayStep_refl key
    · split
      · exact s.wayStep_refl key
      · split
        · exact ((s.wayStep_setBin ..).trans (State.wayStep_capture ..)).trans (ih _)
        · exact ((s.wayStep_setBin ..).trans (State.wayStep_updHand _ _ _ (fun h => { h with unwon := h.unwon - 1 }) fun c => ⟨rfl, rfl⟩)).trans (ih _)

theorem State.wayStep_serveWaits : s.wayStep (s.serveWaits key) key := (s.wayStep_serveHits ..).trans (State.wayStep_askNext ..)

theorem State.wayStep_giveUp : s.wayStep (s.giveUp key) key := (s.wayStep_setBin ..).trans (State.wayStep_askNext ..)

theorem State.wayStep_supply (m : CohMsg) (b : BinLine) (ack : Nat) : s.wayStep (s.supply m key b ack) key :=
  (s.wayStep_send ..).trans (State.wayStep_send ..)

theorem State.wayStep_wbCross (m : CohMsg) (b : BinLine) : s.wayStep (s.wbCross m key b) key :=
  (s.wayStep_send ..).trans (State.wayStep_updMill ..)

end

/-! ## Messages and victims -/

theorem State.binStep_ackFor (s : State) (m : CohMsg) (type : MsgType) : s.binStep (s.ackFor m type) := (s.wayStep_send _ 0).tobinStep

theorem State.binStep_answerMsg (s : State) (m : CohMsg) : s.binStep (s.answerMsg m) := by
  unfold State.answerMsg
  split
  · split
    · exact s.binStep_ackFor ..
    · exact s.binStep_ackFor ..
    · exact s.binStep_refl
  next key b0 _ =>
    have hset : ∀ (u : State) (b : BinLine), u.binStep (u.setBin key b) := fun u b => (u.wayStep_setBin key b).tobinStep
    have hup : ∀ (u : State), u.binStep (u.giveUp key) := fun u => (u.wayStep_giveUp key).tobinStep
    have hsup : ∀ (b : BinLine) (n : Nat), s.binStep (s.supply m key b n) := fun b n => (s.wayStep_supply key m b n).tobinStep
    have hsend : ∀ (x : CohMsg), s.binStep (s.send x) := fun x => (s.wayStep_send x key).tobinStep
    split
    · split
      · exact s.binStep_refl
      · exact (s.wayStep_wbCross key m b0).tobinStep
    · extract_lets b u ack v clean
      have hu : s.binStep u := hsend _
      have hv : s.binStep v := hsend _
      have hu1 := hu.trans (hup u)
      have hu2 := fun b => hu.trans (hset u b)
      have hv1 := hv.trans (hup v)
      have hv2 := fun b => hv.trans (hset v b)
      have hs1 := fun n => (hsup b n).trans (hup _)
      have hs2 := fun n b' => (hsup b n).trans (hset _ b')
      have hif : ∀ x y : State, s.binStep x → s.binStep y → s.binStep (if m.st = 0 then x else y) := fun x y hx hy => by
        split
        · exact hx
        · exact hy
      split
      · split
        exacts [hs2 .., hs2 .., hs2 .., hs2 .., hs2 .., hs2 .., s.binStep_refl]
      · split
        exacts [hs1 _, hs1 _, hs1 _, hs2 .., hs2 .., hs2 .., s.binStep_refl]
      · split
        exacts [hu1, hu2 _, hu2 _, hu2 _, hu]
      · split
        exacts [hif _ _ hv hv1, hif _ _ hv hv1, hif _ _ (hv2 _) hv1, hif _ _ (hv2 _) hv1, hif _ _ hv (hv2 _), hif _ _ hv (hv2 _),
          hif _ _ hv (hv2 _), hif _ _ (hv2 _) (hv2 _), hif _ _ (hv2 _) (hv2 _), hif _ _ (hv2 _) (hv2 _), hv]
      · exact s.binStep_refl

theorem State.binStep_evict (s : State) (key : Nat) (b : BinLine) : s.binStep (s.evict key b) := by
  unfold State.evict
  extract_lets put u
  have hput : ∀ m st, s.binStep (put m st) := fun m st =>
    ((s.wayStep_takeTracker _ _ _ key).trans ((State.wayStep_send ..).trans (State.wayStep_setBin ..))).tobinStep
  have hu : s.binStep u := by
    simp only [u]
    split
    · exact (s.wayStep_setBin ..).tobinStep
    · exact hput ..
    · exact hput ..
    · exact hput ..
    · exact s.binStep_refl
  exact foldl_keeps _ (s.binStep ·) _ (fun d m _ hd => hd.trans (d.binStep_answerMsg m)) u hu

theorem State.binStep_binMiss (s u : State) (d p line : Nat) (w : BinWait) (h : s.binMiss d p line w = some u) : s.binStep u := by
  unfold State.binMiss at h
  split at h
  · cases h
  next key _ =>
    extract_lets old at h
    split at h
    · split at h
      · cases h
        exact s.binStep_evict ..
      · cases h
    · split at h
      · cases h
      · cases h
        exact (s.binStep_evict ..).trans ((State.wayStep_setBin ..).trans (State.wayStep_askNext ..)).tobinStep

theorem State.binStep_binRead (s : State) (d p line : Nat) (need : BitVec 8) (hint : Nat) : s.binStep (s.binRead d p line need hint) := by
  unfold State.binRead
  split
  · exact s.binStep_refl
  · extract_lets w
    split
    · split
      · exact s.binStep_refl
      · exact ((s.wayStep_setBin ..).trans (State.wayStep_serveWaits ..)).tobinStep
    · cases h : s.binMiss d p line w with
      | none => exact s.binStep_refl
      | some u => exact s.binStep_binMiss u d p line w h

end Sys2Proof.Machine
end

section
/-! SUPPORT. Global stores of a Hand, and the store queue (R135, R136, R196). -/

namespace Sys2Proof.Machine

open Sys2Proof

/-! ## Stores enter the queue -/

theorem State.hand_checked (s : State) (h : Nat) (ls : List (Nat × Nat × LaneAt)) (j : Nat) : (s.checked h ls).hand j = s.hand j := by
  rw [State.checked_eq]
  rfl

/-- Where every lane reaches memory, the checks raise nothing. -/
theorem State.crier_checked (s : State) (h : Nat) (ls : List (Nat × Nat × LaneAt)) (hall : ∀ e ∈ ls, ∃ w dpa, e.2.2 = .far (.memory w dpa)) :
    (s.checked h ls).crier = s.crier := by
  have hd : (ls.find? fun e => e.2.2 = .far .denied) = none := by
    rw [List.find?_eq_none]
    intro e he
    obtain ⟨w, dpa, hw⟩ := hall e he
    simp [hw]
  have hf : (ls.find? fun e => e.2.2 = .far .fenced) = none := by
    rw [List.find?_eq_none]
    intro e he
    obtain ⟨w, dpa, hw⟩ := hall e he
    simp [hw]
  simp only [State.checked, hd, hf]
  rfl

/-- What a store that is performed leaves. -/
theorem State.store_of_ready {s u : State} {h : Nat} {i : FmtM} {ls : List (Nat × Nat × LaneAt)} (dead : Bool)
    (hr : globalReady s h i (sizeRegs i.size.val) (memFault i (sizeRegs i.size.val))) (hls : s.lanesAt h i 1 = (some ls, u))
    (hbs : ∀ b ∈ storeBytes (u.hand h) i (u.storeLanes i ls),
      (∀ m ∈ (u.hand h).misses, m.sector ≠ b.at_ / 128) ∧ ∀ a ∈ (u.hand h).atoms, a.sector ≠ b.at_ / 128)
    (hq : queueSectors (u.hand h).stores
      + queueSectors (storeEntries (storeBytes (u.hand h) i (u.storeLanes i ls)) dead (u.pol (u.hand h).pol).gen) ≤ 32) :
    s.store h i dead = (u.checked h ls).updHand h fun c => { c.next with
      stores := (u.hand h).stores ++ storeEntries (storeBytes (u.hand h) i (u.storeLanes i ls)) dead (u.pol (u.hand h).pol).gen
      l1 := (u.hand h).l1.map fun x => x.store (storeBytes (u.hand h) i (u.storeLanes i ls)) } := by
  have hfree : ((storeBytes (u.hand h) i (u.storeLanes i ls)).any fun b =>
      ((u.hand h).misses.any fun m => m.sector = b.at_ / 128) || ((u.hand h).atoms.any fun a => a.sector = b.at_ / 128)) = false := by
    rw [List.any_eq_false]
    intro b hb
    obtain ⟨hm, ha⟩ := hbs b hb
    simp only [Bool.or_eq_true, List.any_eq_true, decide_eq_true_eq, not_or, not_exists, not_and]
    exact ⟨hm, ha⟩
  rw [State.store, State.memStart_of_globalReady hr]
  simp only [hls, hfree, Bool.false_eq_true, if_false, if_neg (Nat.not_lt.2 hq)]
  apply State.updHand_congr
  simp only [State.hand_checked]

theorem exec_store_of_ready {s u : State} {h : HandId} {i : FmtM} (dead : Bool) (hu : s.store h i dead = u) :
    exec (if dead then .stDead h i else .st h i) s = .next u := by
  cases dead with
  | true =>
    show Host.Outcome.next (s.store h i true) = _
    rw [hu]
  | false =>
    show Host.Outcome.next (s.store h i false) = _
    rw [hu]

theorem State.store_waits {s u : State} {h : Nat} {i : FmtM} (dead : Bool)
    (hr : globalReady s h i (sizeRegs i.size.val) (memFault i (sizeRegs i.size.val))) (hls : s.lanesAt h i 1 = (none, u)) :
    s.store h i dead = u := by
  rw [State.store, State.memStart_of_globalReady hr]
  simp only [hls]

theorem mem_storeBytes_last (c : Hand) (i : FmtM) (ls : List StoreLane) (e : StoreLane) (j : Nat) (hj : j < sizeBytes i.size.val) :
    ∃ b ∈ storeBytes c i (ls ++ [e]), b.at_ = e.at_ + j ∧ b.v = BitVec.ofNat 8 ((c.source i e.lane).1 / 2 ^ (8 * j))
      ∧ b.bad = (c.source i e.lane).2 := by
  unfold storeBytes
  rw [List.foldl_append, List.foldl_cons, List.foldl_nil]
  exact ⟨_, List.mem_append_right _ (List.mem_map.2 ⟨j, List.mem_range.2 hj, rfl⟩), rfl, rfl, rfl⟩

/-! ## The oldest store leaves the queue -/

/-- A store as it waits at a Bin. -/
def StoreEntry.wait (e : StoreEntry) (h : Nat) : BinWait :=
  { write := e.bytes, dead := e.dead, poison := e.poison, hint := e.hint, gen := e.gen, hand := h }

theorem BinLine.settle_clean (b : BinLine) (mask : BitVec 8) (hd : b.dead = 0) :
    (b.settle mask).data = b.data ∧ (b.settle mask).valid = b.valid ∧ (b.settle mask).dirty = b.dirty ∧ (b.settle mask).dead = 0
      ∧ (b.settle mask).st = b.st := by
  have hin : (b.before.filter fun e => inMask (0#8) e.1) = [] := by
    rw [List.filter_eq_nil_iff]
    intro e _
    simp [inMask]
  have hones : ∀ x : BitVec 8, x &&& 255#8 = x := fun x => BitVec.and_allOnes
  refine ⟨?_, ?_, ?_, ?_, rfl⟩
  · simp [BinLine.settle, hd, hin, patch]
  · simp [BinLine.settle, hd, hones]
  · simp [BinLine.settle, hd, hones]
  · simp [BinLine.settle, hd]

theorem BinLine.before_clean (b : BinLine) (w : BinWait) (hd : b.dead = 0) :
    (b.before_ w).data = b.data ∧ (b.before_ w).valid = b.valid ∧ (b.before_ w).dirty = b.dirty ∧ (b.before_ w).dead = 0 := by
  unfold BinLine.before_
  split
  · exact ⟨rfl, rfl, rfl, hd⟩
  · obtain ⟨h1, h2, h3, h4, -⟩ := b.settle_clean (partSectors w.write) hd
    exact ⟨h1, h2, h3, h4⟩

theorem hitHint_fields (s : State) (hint : Nat) (b : BinLine) :
    (hitHint s hint b).st = b.st ∧ (hitHint s hint b).data = b.data ∧ (hitHint s hint b).dirty = b.dirty ∧ (hitHint s hint b).dead = b.dead := by
  unfold hitHint
  split <;> exact ⟨rfl, rfl, rfl, rfl⟩

section
variable {s : State} {key : Nat} {b : BinLine} {w : BinWait}

/-- A line held E or M performs a store that waits alone. -/
theorem State.serveHits_store (hb : s.bins.get {} key = { b with waits := [w] }) (hw : w.write ≠ []) (hh : ({ b with waits := [w] } : BinLine).hits w = true) :
    s.serveHits key 1 = (s.setBin key { hitHint s w.hint ((({ b with waits := [w] } : BinLine).before_ w).store w) with waits := [] }).updHand w.hand
      fun c => { c with unwon := c.unwon - 1 } := by
  have he : w.write.isEmpty = false := by simpa using hw
  simp only [State.serveHits, hb, hh, he, Bool.not_true, Bool.false_eq_true, if_false]

theorem State.serveHits_waits (fuel : Nat) (hb : s.bins.get {} key = { b with waits := [w] }) (hh : ({ b with waits := [w] } : BinLine).hits w = false) :
    s.serveHits key fuel = s := by
  cases fuel with
  | zero => rfl
  | succ n => simp only [State.serveHits, hb, hh, Bool.not_false, if_true]

theorem State.askNext_idle (hw : (s.bins.get {} key).waits = []) (hst : (s.bins.get {} key).st ≠ .i) : s.askNext key = s := by
  simp only [State.askNext, hw, hst, decide_false, Bool.false_and, Bool.false_eq_true, if_false]

/-- A line held S or O keeps a store that it asks permission for. -/
theorem State.askNext_store (hb : s.bins.get {} key = { b with waits := [w] }) (hw : w.write ≠ []) (hst : b.st = .s ∨ b.st = .o) :
    ((s.askNext key).bins.get {} key).data = b.data ∧ ((s.askNext key).bins.get {} key).waits.length = 1
      ∧ (s.askNext key).hands = s.hands := by
  have he : w.write.isEmpty = false := by simpa using hw
  have hi : b.st ≠ .i := by rcases hst with h | h <;> simp [h]
  have hem : (b.st = .e || b.st = .m) = false := by rcases hst with h | h <;> simp [h]
  have hstable : isStable b.st = true := by rcases hst with h | h <;> simp [h, isStable]
  have hh : ({ b with waits := [w] } : BinLine).hits w = false := by
    simp only [BinLine.hits, he, Bool.false_eq_true, if_false, hem, Bool.false_and]
  simp only [State.askNext, hb, hi, hh, he, hem, hstable, if_false, Bool.not_true, Bool.or_self, Bool.false_eq_true]
  split
  · simp [State.askGetm, State.setBin, State.send]
    rfl
  · rw [hb]
    exact ⟨rfl, rfl, rfl⟩

end

/-- BIN_WRITE of a store that finds its line in the Bin. -/
theorem State.binWrite_of_found {s : State} {h : HandId} {e : StoreEntry} {r : List StoreEntry} {key : Nat} {b : BinLine}
    (hst : (s.hand h).stores = e :: r) (hg : e.goal = .line) (hm : dpaModule (s.sectorDpa (8 * e.line)) = s.boot.moduleId)
    (hmem : (s.region (dpaOffset (s.sectorDpa (8 * e.line)))).isMem = true) (hf : (s.mill (h / 1024)).fenced = false)
    (hh : s.homeFenced e.line = false) (hsf : s.stackFenced e.line = false)
    (hb : s.binFind (h / 1024) (s.hand h).pol e.line = some (key, b)) (hp : isPutWait b.st = false) (hw : b.waits = []) :
    exec (.binWrite h) s = .next (((s.updHand h fun c => { c with stores := r, unwon := c.unwon + 1 }).setBin key
      { b with waits := [e.wait h] }).serveWaits key) := by
  show execBinWrite h s = _
  simp only [execBinWrite, hst, hg, hm, hmem, hf, hh, hsf, hb, hp, hw, ne_eq, not_true, decide_false, Bool.not_true, Bool.or_self,
    Bool.false_and, Bool.false_eq_true, if_false, List.nil_append]
  rfl

/-! ### Stores of another module's memory -/

@[simp] theorem State.freeBytes_solid (s : State) (n : Nat) : (s.freeBytes n).2.solid = s.solid := rfl

@[simp] theorem State.sendWrite_solid (s : State) (n p cls dpa : Nat) (bs : List Byte) (poison : Bool) (hint : Nat) :
    (s.sendWrite n p cls dpa bs poison hint).solid = s.solid := by
  simp only [State.sendWrite, State.sendTxn_solid, State.free_solid, State.freeBytes_solid]

theorem State.remoteWrite_solid {s t : State} {p cls dpa : Nat} {bs : List Byte} {poison : Bool} {hint : Nat}
    (h : s.remoteWrite p cls dpa bs poison hint = some t) : t.solid = s.solid := by
  unfold State.remoteWrite at h
  split at h
  · cases h
    exact foldl_keeps_proj State.solid _ (fun s e => s.sendWrite_solid ..) _ s
  · cases h

/-- A fold of steps that may refuse keeps what each step that does not refuse keeps. -/
theorem foldl_bind_keeps_proj {α β σ : Type} (g : σ → β) (f : σ → α → Option σ) (hf : ∀ s a t, f s a = some t → g t = g s) (l : List α)
    (x : Option σ) (s t : σ) (hx : ∀ u, x = some u → g u = g s) (h : l.foldl (fun x a => x.bind fun s => f s a) x = some t) : g t = g s := by
  induction l generalizing x with
  | nil => exact hx t h
  | cons a l ih =>
    refine ih _ (fun u hu => ?_) h
    obtain ⟨v, hv, hu⟩ := Option.bind_eq_some_iff.1 hu
    exact (hf v a u hu).trans (hx v hv)

theorem State.noteRemote_keeps (s : State) (h m : Nat) : (s.noteRemote h m).mem = s.mem ∧ (s.noteRemote h m).bins = s.bins
    ∧ ((s.noteRemote h m).hand h).stores = (s.hand h).stores := by
  unfold State.noteRemote
  extract_lets p
  split
  · exact ⟨rfl, rfl, rfl⟩
  · split
    · exact ⟨rfl, rfl, rfl⟩
    · refine ⟨rfl, rfl, ?_⟩
      rw [State.hand_updHand]

theorem State.storeAway_remote (s : State) (h : Nat) (e : StoreEntry) (hm : dpaModule (s.sectorDpa (8 * e.line)) ≠ s.boot.moduleId) :
    ((s.storeAway h e).hand h).stores = (s.hand h).stores ∧ (s.storeAway h e).mem = s.mem ∧ (s.storeAway h e).bins = s.bins := by
  have hsolid : ∀ (bs : Bytes) (u : State), u.solid = s.solid →
      (((byteRuns bs).foldl (fun x r => x.bind fun s' => s'.remoteWrite (s.hand h).pol 1 (s.sectorDpa (8 * e.line) + r.1) r.2 e.poison e.hint)
        (some u)).getD (u.permission (srcHand h) (s.hand h).pol e.va 1)).solid = s.solid := by
    intro bs u hu
    cases hx : (byteRuns bs).foldl (fun x r => x.bind fun s' => s'.remoteWrite (s.hand h).pol 1 (s.sectorDpa (8 * e.line) + r.1) r.2 e.poison e.hint)
        (some u) with
    | none => exact hu
    | some t =>
      exact foldl_bind_keeps_proj State.solid _ (fun _ _ _ h => State.remoteWrite_solid h) _ (some u) s t
        (fun v hv => by cases hv; exact hu) hx
  have hs := hsolid (s.chunked e.bytes).1 (s.chunked e.bytes).2 rfl
  simp only [State.storeAway, hm, ne_eq, not_false_eq_true, if_true]
  obtain ⟨h1, h2, h3⟩ := State.noteRemote_keeps (((byteRuns (s.chunked e.bytes).1).foldl (fun x r => x.bind fun s' =>
    s'.remoteWrite (s.hand h).pol 1 (s.sectorDpa (8 * e.line) + r.1) r.2 e.poison e.hint) (some (s.chunked e.bytes).2)).getD
      ((s.chunked e.bytes).2.permission (srcHand h) (s.hand h).pol e.va 1)) h (dpaModule (s.sectorDpa (8 * e.line)))
  exact ⟨h3.trans (by rw [State.hand_of_solid hs]), h1.trans (State.mem_of_solid hs), h2.trans (State.bins_of_solid hs)⟩

/-- Settles O26. -/
theorem globalStoresReachTheBin : Obligations.GlobalStoresReachTheBin := by
  refine ⟨?enters, ?waits, fun c i ls e j hj => mem_storeBytes_last c i ls e j hj, ?bin, ?staged, ?remote, ?fenced⟩
  case enters =>
    intro s u h i ls dead hr hls bs es hbs hq
    refine completes_of_exec (exec_store_of_ready dead (State.store_of_ready dead hr hls hbs hq)) ?_
    rw [State.hand_updHand, State.hand_checked]
    refine ⟨?_, ?_, ?_, rfl, rfl, rfl, rfl, fun hall => u.crier_checked h ls hall⟩
    all_goals
      rw [State.checked_eq]
      rfl
  case waits =>
    intro s u h i hr hls
    exact ⟨congrArg Host.Outcome.next (State.store_waits false hr hls), congrArg Host.Outcome.next (State.store_waits true hr hls)⟩
  case bin =>
    intro s h e r key b hst hg hm hmem hf hh hsf hb hp hw hne hpart hdead
    refine completes_of_exec (State.binWrite_of_found hst hg hm hmem hf hh hsf hb hp hw) ?_
    obtain ⟨v, hv⟩ : ∃ v, v = (s.updHand h fun c => { c with stores := r, unwon := c.unwon + 1 }).setBin key { b with waits := [e.wait h] } := ⟨_, rfl⟩
    have hkey : v.bins.get {} key = { b with waits := [e.wait h] } := by
      rw [hv]
      exact SMap.get_set_same ..
    have hself : v.hand h = { s.hand h with stores := r, unwon := (s.hand h).unwon + 1 } := by
      rw [hv]
      exact s.hand_updHand h fun c => { c with stores := r, unwon := c.unwon + 1 }
    have hother : ∀ k, k ≠ key → v.bins.get {} k = s.bins.get {} k := fun k hk => by
      rw [hv]
      exact SMap.get_set_other _ _ _ _ _ hk
    have hvmem : v.mem = s.mem := by rw [hv]; rfl
    have hvnet : v.net = s.net := by rw [hv]; rfl
    rw [← hv]
    have hstep := v.wayStep_serveWaits key
    have hhand := (hstep.hand h).1
    refine ⟨?_, hstep.mem.trans hvmem, fun k hk => (hstep.bins k hk).trans (hother k hk), fun hem => ?_, fun hso => ?_⟩
    · rw [hhand, hself]
    · obtain ⟨b1, hb1⟩ : ∃ b1 : BinLine, b1 = { b with waits := [e.wait h] } := ⟨_, rfl⟩
      obtain ⟨hdata, hvalid, hdirty, hdead'⟩ := b1.before_clean (e.wait h) (by rw [hb1]; exact hdead)
      have hhits : b1.hits (e.wait h) = true := by
        have he : (e.wait h).write.isEmpty = false := by simpa [StoreEntry.wait] using hne
        have hst' : (b1.st = .e || b1.st = .m) = true := by
          rw [hb1]
          simpa using hem
        rw [BinLine.hits, he, hst', hvalid, hb1]
        exact (Bool.true_and _).trans (decide_eq_true hpart)
      rw [hb1] at hhits
      have hserve := State.serveHits_store hkey hne hhits
      rw [← hb1] at hserve
      obtain ⟨hst2, hdata2, hdirty2, hdead2⟩ := hitHint_fields v e.hint ((b1.before_ (e.wait h)).store (e.wait h))
      have hrun : v.serveWaits key = (v.setBin key
          { hitHint v e.hint ((b1.before_ (e.wait h)).store (e.wait h)) with waits := [] }).updHand h fun c => { c with unwon := c.unwon - 1 } := by
        rw [State.serveWaits, hkey]
        show (v.serveHits key 1).askNext key = _
        rw [hserve]
        refine State.askNext_idle ?_ ?_
        · exact congrArg BinLine.waits (SMap.get_set_same ..)
        · refine ne_of_eq_of_ne ((congrArg BinLine.st (SMap.get_set_same ..)).trans hst2) ?_
          exact BinSt.noConfusion
      rw [hrun]
      have hget : ((v.setBin key { hitHint v e.hint ((b1.before_ (e.wait h)).store (e.wait h)) with waits := [] }).updHand h
          fun c => { c with unwon := c.unwon - 1 }).bins.get {} key
          = { hitHint v e.hint ((b1.before_ (e.wait h)).store (e.wait h)) with waits := [] } := SMap.get_set_same ..
      refine ⟨?_, hvnet, ?_, ?_, ?_, ?_⟩
      · rw [State.hand_updHand]
        show (v.hand h).unwon - 1 = _
        rw [hself]
        exact Nat.add_sub_cancel ..
      · rw [hget]
        exact hst2
      · rw [hget]
        refine hdata2.trans ?_
        show patch (b1.before_ (e.wait h)).data e.bytes = _
        rw [hdata, hb1]
      · rw [hget]
        refine hdirty2.trans ?_
        show (b1.before_ (e.wait h)).dirty ||| touched e.bytes = _
        rw [hdirty, hb1]
      · rw [hget]
        refine hdead2.trans ?_
        show deadAfter (b1.before_ (e.wait h)).dead e.bytes e.dead = _
        rw [hdead', hdead]
    · have hhits : ({ b with waits := [e.wait h] } : BinLine).hits (e.wait h) = false := by
        have he : (e.wait h).write.isEmpty = false := by simpa [StoreEntry.wait] using hne
        have hem : (b.st = .e || b.st = .m) = false := by rcases hso with h | h <;> simp [h]
        simp only [BinLine.hits, he, Bool.false_eq_true, if_false, hem, Bool.false_and]
      have hrun : v.serveWaits key = v.askNext key := by
        rw [State.serveWaits, State.serveHits_waits _ hkey hhits]
      obtain ⟨hdata, hlen, hhands⟩ := State.askNext_store hkey hne hso
      rw [hrun]
      refine ⟨?_, hdata, hlen⟩
      rw [State.hand, hhands]
      show (v.hand h).unwon = _
      rw [hself]
  case staged =>
    intro s h e r n key base hst hg hrun hne
    refine completes_of_exec (t := (s.updHand h fun c => { c with stores := r }).updTile (s.hand h).pol (s.hand h).runSeq n key fun b => { b with
      bytes := b.bytes ++ e.bytes.map fun x => (1024 * e.line + x.1 - base, x.2)
      poison := if e.poison then b.poison ++ (e.bytes.map fun x => (1024 * e.line + x.1 - base) / 128).eraseDups else b.poison }) ?_ ⟨?_, rfl, rfl, ?_⟩
    · show execBinWrite h s = _
      simp only [execBinWrite, hst, hg]
    · rw [State.hand_updTile, State.hand_updHand]
    · have hrun' : ((s.updHand h fun c => { c with stores := r }).pol (s.hand h).pol).isRunning (s.hand h).runSeq = true := hrun
      rw [State.updTile, State.stream_updStream _ _ _ _ _ hrun', SMap.get_upd_same]
      rfl
  case remote =>
    intro s h e r hst hg hm
    have haway := (s.updHand h fun c => { c with stores := r }).storeAway_remote h e hm
    refine completes_of_exec (t := (s.updHand h fun c => { c with stores := r }).storeAway h e) ?_ ⟨haway.1.trans ?_, haway.2.1, haway.2.2⟩
    · show execBinWrite h s = _
      simp only [execBinWrite, hst, hg, hm, ne_eq, not_false_eq_true, decide_true, Bool.true_or, if_true]
    · rw [State.hand_updHand]
  case fenced =>
    intro s h e r hst hg hm hmem hh
    refine completes_of_exec (t := (s.updHand h fun c => { c with stores := r }).raiseOwn .fencedTarget (srcHand h) (s.hand h).pol (addrDetail e.va 1))
      ?_ ⟨?_, rfl, rfl, _, rfl, rfl, rfl, rfl⟩
    · show execBinWrite h s = _
      simp only [execBinWrite, hst, hg, hm, hmem, hh, ne_eq, not_true, decide_false, Bool.not_true, Bool.or_self, Bool.or_true, Bool.true_or,
        Bool.false_eq_true, if_false, if_true]
    · exact congrArg Hand.stores (s.hand_updHand h fun c => { c with stores := r })

end Sys2Proof.Machine
end

section
/-! SUPPORT. Global loads of a Hand (R135, R136, R214). -/

namespace Sys2Proof.Machine

open Sys2Proof

/-! ## Lists of a map's elements -/

theorem SMap.mem_of_get {α : Type} (d : α) (m : SMap α) (i : Nat) (h : m.get d i ≠ d) : (i, m.get d i) ∈ m := by
  induction m with
  | nil => exact absurd rfl h
  | cons e m ih =>
    obtain ⟨k, v⟩ := e
    unfold SMap.get at h ⊢
    split
    next hk =>
      subst hk
      exact List.mem_cons_self
    next hk =>
      rw [if_neg hk] at h
      exact List.mem_cons_of_mem _ (ih h)

theorem SMap.mem_set {α : Type} [DecidableEq α] {d : α} {m : SMap α} {i : Nat} {v : α} {e : Nat × α} (h : e ∈ m.set d i v) :
    e = (i, v) ∨ e ∈ m := by
  unfold SMap.set at h
  extract_lets rest at h
  split at h
  · exact .inr (List.mem_filter.1 h).1
  · rcases (SMap.mem_put _ _ _ _).1 h with h | h
    · exact .inl h
    · exact .inr (List.mem_filter.1 h).1

/-! ## The parts of a load that are answered at once -/

/-- A Hand but for its lane registers and its L1. -/
def Hand.butL1 (c d : Hand) : Prop := d = { c with x := d.x, xp := d.xp, l1 := d.l1 }

theorem Hand.butL1.trans {c d e : Hand} (h : c.butL1 d) (h' : d.butL1 e) : c.butL1 e := by
  unfold Hand.butL1 at *
  rw [h', h]

theorem Hand.butLanes.butL1 {c d : Hand} (h : c.butLanes d) : c.butL1 d := by
  unfold Hand.butLanes at h
  rw [h]
  rfl

theorem Hand.butL1_l1Put (c : Hand) (sets : Nat) (new : L1Line) : c.butL1 (c.l1Put sets new) := rfl

/-- The module but for lane registers and the L1 of one Hand, walks, events and the model's counter. -/
def State.loadStep (s : State) (h : Nat) (t : State) : Prop :=
  t = { s with seed := t.seed, hands := t.hands, land := t.land, crier := t.crier }
    ∧ (∀ j, j ≠ h → t.hand j = s.hand j) ∧ (s.hand h).butL1 (t.hand h)

theorem State.loadStep.trans {s t u : State} {h : Nat} (e : s.loadStep h t) (f : t.loadStep h u) : s.loadStep h u := by
  obtain ⟨e1, e2, e3⟩ := e
  obtain ⟨f1, f2, f3⟩ := f
  exact ⟨by rw [f1, e1], fun j hj => (f2 j hj).trans (e2 j hj), e3.trans f3⟩

theorem State.butLanes.loadStep {s t : State} {h : Nat} (e : s.butLanes h t) : s.loadStep h t := ⟨e.1, e.2.1, e.2.2.butL1⟩

theorem State.loadStep_refl (s : State) (h : Nat) : s.loadStep h s := (s.butLanes_refl h).loadStep

theorem State.loadStep_updHand (s : State) (h : Nat) (f : Hand → Hand) (hf : ∀ c : Hand, c.butL1 (f c)) : s.loadStep h (s.updHand h f) :=
  ⟨rfl, fun j hj => s.hand_updHand_other h f j hj, by rw [State.hand_updHand]; exact hf _⟩

theorem State.loadStep_raiseOwn (s : State) (h : Nat) (code : Code) (source p : Nat) (detail : List Byte) :
    s.loadStep h (s.raiseOwn code source p detail) := ⟨rfl, fun _ _ => rfl, rfl⟩

theorem State.loadStep_loadSector (s : State) (h : Nat) (i : FmtM) (signed : Bool) (l va off : Nat) (line : L1Line) :
    s.loadStep h (s.loadSector h i signed l va off line) := by
  unfold State.loadSector
  extract_lets c u
  have hu : s.loadStep h u := by
    simp only [u]
    split
    · exact s.loadStep_raiseOwn ..
    · exact s.loadStep_refl h
  refine hu.trans (u.loadStep_updHand h _ fun c => ?_)
  refine (c.butLanes_fillDests line.data line.poison (loadDests i signed (c.pf i.fsel.val) l off)).butL1.trans ?_
  rfl

theorem State.loadStep_loadStaged (s : State) (h : Nat) (i : FmtM) (signed : Bool) (l va n key off : Nat) :
    s.loadStep h (s.loadStaged h i signed l va n key off) := by
  simp only [State.loadStaged]
  split
  · exact s.loadStep_loadSector ..
  · have h1 : s.loadStep h (s.stagedSector h n key (stagedAddr va - off) (stagedAddr va / 128)).2 := ⟨rfl, fun _ _ => rfl, rfl⟩
    split
    · exact (h1.trans (State.loadStep_loadSector ..)).trans (State.loadStep_updHand _ _ _ fun c => c.butL1_l1Put ..)
    · exact h1.trans (State.loadStep_loadSector ..)

theorem State.gateOff_of_loadStep {s t : State} {h : Nat} (e : s.loadStep h t) (dpa : Nat) : t.gateOff dpa = s.gateOff dpa := by
  rw [e.1]
  rfl

theorem State.loadStep_loadLane (s : State) (h : Nat) (i : FmtM) (signed : Bool) (e : Nat × Nat × LaneAt)
    (hg : ∀ w dpa, e.2.2 = .far (.memory w dpa) → s.gateOff dpa = none) : s.loadStep h (s.loadLane h i signed e) := by
  simp only [State.loadLane]
  split
  · exact (s.butLanes_loadFree ..).loadStep
  · exact (s.butLanes_loadFree ..).loadStep
  · exact (s.butLanes_loadFree ..).loadStep
  · exact s.loadStep_loadStaged ..
  next w dpa he =>
    rw [hg w dpa he]
    simp only
    split
    · exact s.loadStep_loadSector ..
    · exact s.loadStep_refl h

theorem mem_reached {ls : List (Nat × Nat × LaneAt)} {e : Nat × Nat × LaneAt} {w : Word} {dpa : Nat} (he : e ∈ ls)
    (hw : e.2.2 = .far (.memory w dpa)) : (e.1, e.2.1, w, dpa) ∈ reached ls :=
  List.mem_filterMap.2 ⟨e, he, by rw [hw]⟩

/-! ## The sectors that a load misses -/

/-- What asking for a sector leaves: memory, and all of a Hand but what its Bin gives it. -/
structure State.askStep (s t : State) : Prop where
  mem : t.mem = s.mem
  boot : t.boot = s.boot
  hand : ∀ j, (s.hand j).binKeeps (t.hand j)

theorem State.askStep_of_solid {s t : State} (h : t.solid = s.solid) : s.askStep t :=
  ⟨State.mem_of_solid h, State.boot_of_solid h, fun j => by rw [State.hand_of_solid h]; exact Hand.binKeeps_refl _⟩

theorem State.binStep.askStep {s t : State} (h : s.binStep t) : s.askStep t := ⟨h.mem, h.boot, h.hand⟩

theorem State.remoteRead_solid {s t : State} {p cls dpa len : Nat} {who : Requester} {va : Nat}
    (h : s.remoteRead p cls dpa len who va = some t) : t.solid = s.solid := by
  unfold State.remoteRead at h
  split at h
  · simp only [Option.some.injEq] at h
    rw [← h, State.sendTxn_solid, State.updLink_solid, State.free_solid, State.freshId_solid]
  · cases h

theorem State.sendHostRead_solid (s : State) (port : Nat) (r : HostRead) : (s.sendHostRead port r).solid = s.solid := by
  unfold State.sendHostRead
  extract_lets q b
  split
  · rw [State.toHost_solid, State.updPort_solid]
  · rw [State.updPort_solid]

theorem State.hostRead_solid {s : State} {x : Nat × State} {port p w len : Nat} {who : Requester} {va : Nat}
    (h : s.hostRead port p w len who va = some x) : x.2.solid = s.solid := by
  unfold State.hostRead at h
  obtain ⟨a, -, h⟩ := Option.map_eq_some_iff.1 h
  rw [← h]
  exact foldl_keeps_proj State.solid _ (fun s e => s.sendHostRead_solid ..) _ s

theorem State.askStep_askSector (s : State) (h key va hint : Nat) : s.askStep (s.askSector h key va hint) := by
  unfold State.askSector
  extract_lets p dpa
  split
  · cases hr : s.remoteRead p 1 dpa 128 (.hand h (missSlot key)) va with
    | none => exact State.askStep_of_solid rfl
    | some t => exact State.askStep_of_solid (State.remoteRead_solid hr)
  · split
    next q w _ =>
      cases hr : s.hostRead q p w 128 (.hand h (missSlot key)) va with
      | none => exact State.askStep_of_solid rfl
      | some t => exact State.askStep_of_solid (State.hostRead_solid hr)
    · exact (s.binStep_binRead ..).askStep

/-- What a load's misses leave. -/
structure Missed (s t : State) (h : Nat) (keys : List Nat) : Prop where
  mem : t.mem = s.mem
  boot : t.boot = s.boot
  hand : t.hand h = { s.hand h with misses := (t.hand h).misses, unwon := (t.hand h).unwon }
  misses : (t.hand h).misses.map MissEntry.sector = (s.hand h).misses.map MissEntry.sector ++ keys

theorem State.missSector_missed (s : State) (h : Nat) (i : FmtM) (signed : Bool) (ls : List (Nat × Nat × Word × Nat)) (key : Nat)
    (hk : ∃ e ∈ ls, s.sectorKey e.2.2.2 = key) : Missed s (s.missSector h i signed ls key) h [key] := by
  unfold State.missSector
  extract_lets c
  split
  next hnil =>
    obtain ⟨e, he, hk⟩ := hk
    have hm : e ∈ ls.filter fun e => s.sectorKey e.2.2.2 = key := List.mem_filter.2 ⟨he, decide_eq_true hk⟩
    rw [hnil] at hm
    cases hm
  next l va w dpa rest _ =>
    extract_lets hint m
    have hstep := State.askStep_askSector (s.updHand h fun c => { c with misses := c.misses ++ [m] }) h key va hint
    obtain ⟨hh, hm⟩ := hstep.hand h
    rw [State.hand_updHand] at hh hm
    refine ⟨hstep.mem, hstep.boot, hh, hm.trans ?_⟩
    rw [List.map_append, List.map_singleton]

theorem Missed.append {s t u : State} {h : Nat} {ks js : List Nat} (e : Missed s t h ks) (f : Missed t u h js) : Missed s u h (ks ++ js) :=
  ⟨f.mem.trans e.mem, f.boot.trans e.boot, by rw [f.hand, e.hand], by rw [f.misses, e.misses, List.append_assoc]⟩

theorem State.missSectors_missed (s : State) (h : Nat) (i : FmtM) (signed : Bool) (ls : List (Nat × Nat × Word × Nat)) (keys : List Nat)
    (hk : ∀ k ∈ keys, ∃ e ∈ ls, s.sectorKey e.2.2.2 = k) :
    Missed s (keys.foldl (fun s k => s.missSector h i signed ls k) s) h keys := by
  induction keys generalizing s with
  | nil => exact ⟨rfl, rfl, rfl, by simp⟩
  | cons k keys ih =>
    have h1 := s.missSector_missed h i signed ls k (hk k List.mem_cons_self)
    refine h1.append (ih _ fun j hj => ?_)
    obtain ⟨e, he, hs⟩ := hk j (List.mem_cons_of_mem _ hj)
    exact ⟨e, he, (State.sectorKey_of_boot h1.boot _).trans hs⟩

/-! ## Loads issue -/

theorem exec_load (s : State) (h : HandId) (i : FmtM) (signed : Bool) :
    exec (if signed then .lds h i else .ld h i) s = .next (s.loadGlobal h i signed) := by
  cases signed <;> rfl

theorem State.loadGlobal_waits {s u : State} {h : Nat} {i : FmtM} (signed : Bool)
    (hr : globalReady s h i (sizeRegs i.size.val) (memFault i (sizeRegs i.size.val))) (hls : s.lanesAt h i 0 = (none, u)) :
    s.loadGlobal h i signed = u := by
  rw [State.loadGlobal, State.memStart_of_globalReady hr]
  simp only [hls]

/-- The lanes of a load that ask beyond the L1. -/
def State.farLanes (s : State) (h : Nat) (i : FmtM) (ls : List (Nat × Nat × LaneAt)) : List (Nat × Nat × Word × Nat) :=
  (reached ls).filter fun e => (s.gateOff e.2.2.2).isNone && (s.l1Hit h i (s.sectorKey e.2.2.2)).isNone

/-- The lanes that are answered at once, and those of staging slots after them. -/
def State.loadLanes (s : State) (h : Nat) (i : FmtM) (signed : Bool) (ls : List (Nat × Nat × LaneAt)) : State :=
  (ls.filter fun e => e.2.2.isStaged).foldl (fun s e => s.loadLane h i signed e)
    ((ls.filter fun e => !e.2.2.isStaged).foldl (fun s e => s.loadLane h i signed e) (s.checked h ls))

theorem State.loadStep_loadLanes (s : State) (h : Nat) (i : FmtM) (signed : Bool) (ls : List (Nat × Nat × LaneAt))
    (hg : ∀ e ∈ reached ls, s.gateOff e.2.2.2 = none) : s.loadStep h (s.loadLanes h i signed ls) := by
  have hstep : ∀ (d : State) (e : Nat × Nat × LaneAt), e ∈ ls → s.loadStep h d → s.loadStep h (d.loadLane h i signed e) := fun d e he hd =>
    hd.trans (d.loadStep_loadLane h i signed e fun w dpa hw => (State.gateOff_of_loadStep hd dpa).trans (hg _ (mem_reached he hw)))
  refine foldl_keeps _ (s.loadStep h ·) _ (fun d e he hd => hstep d e (List.mem_filter.1 he).1 hd) _ ?_
  exact foldl_keeps _ (s.loadStep h ·) _ (fun d e he hd => hstep d e (List.mem_filter.1 he).1 hd) _ (s.butLanes_checked h ls).loadStep

theorem State.loadGlobal_of_ready {s u : State} {h : Nat} {i : FmtM} {ls : List (Nat × Nat × LaneAt)} (signed : Bool)
    (hr : globalReady s h i (sizeRegs i.size.val) (memFault i (sizeRegs i.size.val))) (hls : s.lanesAt h i 0 = (some ls, u))
    (hk : ∀ k ∈ ((u.farLanes h i ls).map fun e => u.sectorKey e.2.2.2).eraseDups ++ stagedKeys ls, u.earlier h k true = false)
    (hroom : (u.hand h).entriesUsed + ((u.farLanes h i ls).map fun e => u.sectorKey e.2.2.2).eraseDups.length ≤ missEntries (u.handLocal h)) :
    s.loadGlobal h i signed = (((u.farLanes h i ls).map fun e => u.sectorKey e.2.2.2).eraseDups.foldl
      (fun s k => s.missSector h i signed (u.farLanes h i ls) k) (u.loadLanes h i signed ls)).updHand h Hand.next := by
  have hwait : ((((u.farLanes h i ls).map fun e => u.sectorKey e.2.2.2).eraseDups ++ stagedKeys ls).any fun k => u.earlier h k true) = false := by
    rw [List.any_eq_false]
    intro k hm
    simp [hk k hm]
  rw [State.loadGlobal, State.memStart_of_globalReady hr]
  simp only [hls]
  refine (if_neg (ne_true_of_eq_false hwait)).trans ?_
  exact if_neg (Nat.not_lt.2 hroom)

/-! ## A miss is filled -/

theorem fillDest_lanes (c d : Hand) (bytes : List Byte) (poison : Bool) (e : FillDest) (hx : c.x = d.x) (hp : c.xp = d.xp) :
    (c.fillDest bytes poison e).x = (d.fillDest bytes poison e).x ∧ (c.fillDest bytes poison e).xp = (d.fillDest bytes poison e).xp := by
  have hwx : ∀ (a b : Hand) (r l : Nat) (v : Lane) (p : Bool), a.x = b.x → a.xp = b.xp →
      (a.wx r l v p).x = (b.wx r l v p).x ∧ (a.wx r l v p).xp = (b.wx r l v p).xp := by
    intro a b r l v p hx hp
    unfold Hand.wx
    split
    · exact ⟨hx, hp⟩
    · exact ⟨by rw [hx], by rw [hp]⟩
  have hfold : ∀ (ks : List Nat) (v : Nat) (a b : Hand), a.x = b.x → a.xp = b.xp →
      let f := fun (c : Hand) k => c.wx (e.reg + k) e.lane (BitVec.ofNat 32 (v / 2 ^ (32 * k))) (poison || e.bad)
      (ks.foldl f a).x = (ks.foldl f b).x ∧ (ks.foldl f a).xp = (ks.foldl f b).xp := by
    intro ks v
    induction ks with
    | nil => exact fun a b hx hp => ⟨hx, hp⟩
    | cons k ks ih =>
      intro a b hx hp
      obtain ⟨h1, h2⟩ := hwx a b (e.reg + k) e.lane (BitVec.ofNat 32 (v / 2 ^ (32 * k))) (poison || e.bad) hx hp
      exact ih _ _ h1 h2
  exact hfold _ _ c d hx hp

theorem fillDests_lanes (c d : Hand) (bytes : List Byte) (poison : Bool) (es : List FillDest) (hx : c.x = d.x) (hp : c.xp = d.xp) :
    (es.foldl (fun c e => c.fillDest bytes poison e) c).x = (es.foldl (fun c e => c.fillDest bytes poison e) d).x
      ∧ (es.foldl (fun c e => c.fillDest bytes poison e) c).xp = (es.foldl (fun c e => c.fillDest bytes poison e) d).xp := by
  induction es generalizing c d with
  | nil => exact ⟨hx, hp⟩
  | cons e es ih =>
    obtain ⟨h1, h2⟩ := fillDest_lanes c d bytes poison e hx hp
    exact ih _ _ h1 h2

/-- A miss's data fills what waits for it. -/
theorem State.fillMiss_single (s : State) (h : Nat) (m : MissEntry) (bytes : List Byte) (poison : Bool) (hm : (s.hand h).misses = [m])
    (hl : s.isLate m.pol m.gen m.orphan = false) :
    let t := s.fillMiss h m.sector bytes poison
    (t.hand h).misses = [] ∧ (t.hand h).pc = (s.hand h).pc ∧ (t.hand h).w = (s.hand h).w
      ∧ (t.hand h).x = (m.dests.foldl (fun c d => c.fillDest bytes poison d) (s.hand h)).x
      ∧ (t.hand h).xp = (m.dests.foldl (fun c d => c.fillDest bytes poison d) (s.hand h)).xp
      ∧ (poison = true → ∃ e ∈ t.crier.band, e.code = .poisonRead ∧ e.source = h ∧ e.book = m.pol)
      ∧ (m.fillL1 = true → ∃ l ∈ (t.hand h).l1, l.sector = m.sector ∧ l.data = bytes ∧ l.poison = poison) := by
  intro t
  obtain ⟨c, hc⟩ : ∃ c : Hand, c = { s.hand h with misses := [] } := ⟨_, rfl⟩
  obtain ⟨new, hnew⟩ : ∃ new : L1Line, new = { sector := m.sector, data := bytes, poison := poison, used := s.clock } := ⟨_, rfl⟩
  obtain ⟨kib, hkib⟩ : ∃ kib, kib = ((s.kernelOf h).map KernelDecl.localKib).getD 48 := ⟨_, rfl⟩
  obtain ⟨u, hu⟩ : ∃ u : State, u = (if poison then (s.updHand h fun c => { c with misses := [] }).raiseOwn .poisonRead (srcHand h) m.pol
    (addrDetail m.va 1) else s.updHand h fun c => { c with misses := [] }) := ⟨_, rfl⟩
  have hlate : (s.updHand h fun c => { c with misses := [] }).isLate m.pol m.gen m.orphan = false := hl
  have ht : t = u.updHand h fun c =>
      if m.fillL1 then (m.dests.foldl (fun c d => c.fillDest bytes poison d) c).l1Put (l1Sets kib) new
      else m.dests.foldl (fun c d => c.fillDest bytes poison d) c := by
    have hrun : s.updHand h (fun c => { c with misses := c.misses.filter fun x => x.sector ≠ m.sector })
        = s.updHand h fun c => { c with misses := [] } := by
      apply State.updHand_congr
      simp [hm]
    simp only [t, State.fillMiss, hm, List.find?_cons_of_pos, decide_true, hrun, hlate, Bool.false_eq_true, if_false, hu, hnew, hkib]
    cases poison <;> rfl
  have huh : u.hand h = c := by
    rw [hu, hc]
    split
    · exact s.hand_updHand h fun c => { c with misses := [] }
    · exact s.hand_updHand h fun c => { c with misses := [] }
  obtain ⟨d, hd⟩ : ∃ d : Hand, d = m.dests.foldl (fun c d => c.fillDest bytes poison d) c := ⟨_, rfl⟩
  have hdf : d = { c with x := d.x, xp := d.xp } := by
    rw [hd]
    exact c.butLanes_fillDests bytes poison m.dests
  obtain ⟨hx, hp⟩ := fillDests_lanes c (s.hand h) bytes poison m.dests (by rw [hc]) (by rw [hc])
  have hth : t.hand h = { d with l1 := (t.hand h).l1 } := by
    rw [ht, State.hand_updHand, huh, ← hd]
    split <;> rfl
  refine ⟨?_, ?_, ?_, ?_, ?_, fun hpo => ?_, fun hfill => ?_⟩
  · rw [hth, hdf, hc]
  · rw [hth, hdf, hc]
  · rw [hth, hdf, hc]
  · rw [hth, ← hx, ← hd]
  · rw [hth, ← hp, ← hd]
  · rw [ht, hu, if_pos hpo]
    exact ⟨_, List.mem_append_right _ List.mem_cons_self, rfl, rfl, rfl⟩
  · rw [ht, State.hand_updHand, if_pos hfill]
    refine ⟨new, List.mem_append_right _ List.mem_cons_self, ?_⟩
    rw [hnew]
    exact ⟨rfl, rfl, rfl⟩

theorem State.bins_countDead (s : State) (p : Nat) (dead : Bool) : (s.countDead p dead).bins = s.bins := by
  unfold State.countDead
  split <;> rfl

theorem State.gen_countDead (s : State) (p : Nat) (dead : Bool) (q : Nat) : ((s.countDead p dead).pol q).gen = (s.pol q).gen := by
  unfold State.countDead
  split
  · by_cases hq : q = p
    · subst hq
      rw [State.pol_updPol]
    · rw [State.pol_updPol_other _ _ _ _ hq]
  · rfl

theorem State.hand_countDead (s : State) (p : Nat) (dead : Bool) (j : Nat) : (s.countDead p dead).hand j = s.hand j := by
  unfold State.countDead
  split <;> rfl

theorem State.bins_capture (s : State) (key : Nat) (b : BinLine) (secs : BitVec 8) : (s.capture key b secs).bins = s.bins :=
  foldl_keeps_proj State.bins _ (fun d _ => foldl_keeps_proj State.bins _ (fun u _ => (u.updHand _ _).bins_countDead ..) _ d) _ s

theorem State.gen_capture (s : State) (key : Nat) (b : BinLine) (secs : BitVec 8) (q : Nat) : ((s.capture key b secs).pol q).gen = (s.pol q).gen :=
  foldl_keeps_proj (fun s : State => (s.pol q).gen) _
    (fun d _ => foldl_keeps_proj (fun s : State => (s.pol q).gen) _ (fun u _ => (u.updHand _ _).gen_countDead ..) _ d) _ s

/-- The mask of one sector. -/
def sectorBit (o : Nat) : BitVec 8 := 1 <<< o

theorem bitsOf_sectorBit (o : Nat) (h : o < 8) : bitsOf 8 (sectorBit o).toNat = [o] := by
  interval_cases o <;> decide

theorem getLsbD_sectorBit (o j : Fin 8) : (sectorBit o).getLsbD j = decide (j = o) := by
  revert o j
  decide

/-- The data of a line's sector reaches the one load of a Hand that waits for it. -/
theorem State.capture_single (s : State) (key h : Nat) (b : BinLine) (m : MissEntry) (hm : (s.hand h).misses = [m])
    (hline : b.line = m.sector / 8) (hpol : b.pol = m.pol) (hgot : m.got = none) (hkey : key / 2 ^ 17 = h / 1024)
    (hu : s.unwonAt h m.sector = false) :
    (s.capture key b (sectorBit (m.sector % 8))).hand h = { s.hand h with misses := [{ m with
      got := some ((List.range 128).map fun j => b.data.get 0 (128 * (m.sector % 8) + j), b.poison.getLsbD (m.sector % 8)) }] } := by
  have hsec : 8 * b.line + m.sector % 8 = m.sector := by omega
  rw [State.capture, bitsOf_sectorBit _ (Nat.mod_lt _ (by omega)), List.foldl_cons, List.foldl_nil]
  extract_lets sector waits data hs
  have hwaits : waits m = true := by simp [waits, sector, hsec, hpol, hgot]
  obtain ⟨c', hc'⟩ : ∃ c' : Hand, c' = { s.hand h with misses := [{ m with got := some (data, b.poison.getLsbD (m.sector % 8)) }] } := ⟨_, rfl⟩
  have hmem : (h, s.hand h) ∈ hs := by
    have hne : s.hand h ≠ {} := fun e => by
      rw [e] at hm
      cases hm
    refine List.mem_filter.2 ⟨SMap.mem_of_get ({} : Hand) s.hands h hne, ?_⟩
    · have hkey' : h / 1024 = key / 131072 := hkey.symm
      simp [hkey', hm, hwaits, sector, hsec, hu]
  have hother : ∀ (d : State) (e : Nat × Hand) (f : Hand → Hand), e.1 ≠ h → (d.updHand e.1 f).hand h = d.hand h := fun d e f hne =>
    State.hand_updHand_other _ _ _ _ (Ne.symm hne)
  have hset : ∀ c : Hand, c = s.hand h ∨ c = c' →
      ({ c with misses := c.misses.map fun x => if waits x then { x with got := some (data, b.poison.getLsbD (m.sector % 8)) } else x } : Hand) = c' := by
    rintro c (rfl | rfl)
    · simp [hm, hwaits, hc']
    · simp [hc', waits]
  rw [← hc']
  refine foldl_reaches _ (fun d : State => d.hand h = s.hand h ∨ d.hand h = c') (fun d : State => d.hand h = c') (h, s.hand h) hs
    (fun d e _ hd => ?_) (fun d hd => ?_) (fun d e _ hne hd hp => ?_) hmem s (.inl rfl)
  · rw [State.hand_countDead]
    by_cases he : e.1 = h
    · rw [he, State.hand_updHand]
      exact .inr (hset _ hd)
    · rwa [hother _ _ _ he]
  · rw [State.hand_countDead, State.hand_updHand]
    exact hset _ hd
  · rw [State.hand_countDead]
    by_cases he : e.1 = h
    · rw [he, State.hand_updHand]
      exact hset _ hd
    · rwa [hother _ _ _ he]

/-- A load of a sector that the Bin holds is performed. -/
theorem State.binRead_hit {s : State} {h : Nat} {m : MissEntry} {key : Nat} {b : BinLine} (hm : (s.hand h).misses = [m])
    (hreg : (s.region (m.sector / 8 * 1024)).isMem = true) (hmill : (s.mill (h / 1024)).fenced = false)
    (hhome : s.homeFenced (m.sector / 8) = false) (hgot : m.got = none)
    (hfind : s.binFind (h / 1024) m.pol (m.sector / 8) = some (key, b)) (hst : isStable b.st = true) (hw : b.waits = [])
    (hv : b.valid.getLsbD (m.sector % 8) = true) (hu : s.unwonAt h m.sector = false) (hkey : key / 2 ^ 17 = h / 1024) :
    let t := s.binRead (h / 1024) m.pol (m.sector / 8) (sectorBit (m.sector % 8)) m.hint
    t.hand h = { s.hand h with misses := [{ m with
        got := some ((List.range 128).map fun j => b.data.get 0 (128 * (m.sector % 8) + j), b.poison.getLsbD (m.sector % 8)) }] }
      ∧ ∀ q, (t.pol q).gen = (s.pol q).gen := by
  intro t
  obtain ⟨w, hwd⟩ : ∃ w : BinWait, w = { read := sectorBit (m.sector % 8), hint := m.hint, gen := (s.pol m.pol).gen } := ⟨_, rfl⟩
  obtain ⟨b1, hb1⟩ : ∃ b1 : BinLine, b1 = { b with waits := [w] } := ⟨_, rfl⟩
  have hbf := List.find?_some hfind
  simp only [Bool.and_eq_true, decide_eq_true_eq] at hbf
  obtain ⟨⟨⟨-, -⟩, hline⟩, hpol⟩ := hbf
  have hput : isPutWait b.st = false := by
    cases hs : b.st <;> simp [hs, isStable, isPutWait] at hst ⊢
  have hni : b.st ≠ .i := by
    intro e
    simp [e, isStable] at hst
  have hwrite : w.write.isEmpty = true := by rw [hwd]; rfl
  have hread : w.read = sectorBit (m.sector % 8) := by rw [hwd]
  have hlack : sectorBit (m.sector % 8) &&& ~~~b.valid = 0 := by
    have h8 : m.sector % 8 < 8 := Nat.mod_lt _ (by omega)
    generalize m.sector % 8 = o at hv h8 ⊢
    ext j hj
    have hbit : (sectorBit o).getLsbD j = decide (j = o) := by simpa using getLsbD_sectorBit ⟨o, h8⟩ ⟨j, hj⟩
    rw [← BitVec.getLsbD_eq_getElem, ← BitVec.getLsbD_eq_getElem, BitVec.getLsbD_and, hbit]
    by_cases hjo : j = o
    · subst hjo
      simp [hv]
    · simp [hjo]
  have hhits : b1.hits w = true := by
    simp only [BinLine.hits, hwrite, hb1, hst, hread, hlack, if_true, decide_true, Bool.and_self]
  have hget : (s.setBin key b1).bins.get {} key = b1 := SMap.get_set_same ..
  obtain ⟨b2, hb2⟩ : ∃ b2 : BinLine, b2 = { hitHint (s.setBin key b1) w.hint b1 with waits := [] } := ⟨_, rfl⟩
  have hb2st : b2.st = b.st := by
    rw [hb2]
    exact (hitHint_fields ..).1.trans (by rw [hb1])
  have hu2 : ((s.setBin key b1).setBin key b2).unwonAt h m.sector = false := by
    unfold State.unwonAt at hu ⊢
    rw [List.any_eq_false] at hu ⊢
    intro e he
    rcases SMap.mem_set he with rfl | he
    · simp [hb2]
    · rcases SMap.mem_set he with rfl | he
      · simp [hb1, hwd, touched]
      · exact hu e he
  have hserve : (s.setBin key b1).serveHits key 1 = ((s.setBin key b1).setBin key b2).capture key b1 w.read := by
    have hw1 : b1.waits = [w] := by rw [hb1]
    simp only [State.serveHits, hget, hw1, hhits, hwrite, Bool.not_true, Bool.false_eq_true, if_false, if_true, ← hb2]
  have hidle : (((s.setBin key b1).setBin key b2).capture key b1 w.read).askNext key = ((s.setBin key b1).setBin key b2).capture key b1 w.read := by
    have hgk : (((s.setBin key b1).setBin key b2).capture key b1 w.read).bins.get {} key = b2 := by
      rw [State.bins_capture]
      exact SMap.get_set_same ..
    refine State.askNext_idle ?_ ?_
    · rw [hgk, hb2]
    · rw [hgk, hb2st]
      exact hni
  have ht : t = ((s.setBin key b1).setBin key b2).capture key b1 w.read := by
    have hlen : b1.waits.length = 1 := by rw [hb1]; rfl
    simp only [t, State.binRead, hmill, hhome, hreg, Bool.not_true, Bool.or_self, Bool.false_eq_true, if_false, hfind, hput, hw, List.nil_append]
    rw [← hwd, ← hb1, State.serveWaits, hget, hlen, hserve, hidle]
  rw [ht, hread]
  refine ⟨?_, fun q => State.gen_capture ..⟩
  have hcap := State.capture_single ((s.setBin key b1).setBin key b2) key h b1 m hm (by rw [hb1]; exact hline) (by rw [hb1]; exact hpol)
    hgot hkey hu2
  rw [hcap, hb1]
  rfl

/-- A global load or store that never gets to its access. -/
theorem State.access_of_start {s t : State} {h : Nat} {i : FmtM}
    (hstart : ∀ go, s.memStart h i (sizeRegs i.size.val) true (memFault i (sizeRegs i.size.val)) go = t) :
    (∀ signed, s.loadGlobal h i signed = t) ∧ ∀ dead, s.store h i dead = t :=
  ⟨fun _ => by rw [State.loadGlobal]; exact hstart _, fun _ => by rw [State.store]; exact hstart _⟩

/-- Settles O25. -/
theorem globalLoadsComplete : Obligations.GlobalLoadsComplete := by
  refine ⟨?issue, ?waits, ?fill, ?dest, ?misaligned, ?poisoned⟩
  case issue =>
    intro s u h i ls signed hr hls keys hk hroom hg
    have hstep := u.loadStep_loadLanes h i signed ls hg
    obtain ⟨hframe, -, hhand⟩ := hstep
    have hboot : (u.loadLanes h i signed ls).boot = u.boot := by rw [hframe]
    have hm := (u.loadLanes h i signed ls).missSectors_missed h i signed (u.farLanes h i ls) keys fun k hk => by
      obtain ⟨e, he, hs⟩ := List.mem_map.1 (List.mem_eraseDups.1 hk)
      exact ⟨e, he, (State.sectorKey_of_boot hboot _).trans hs⟩
    refine completes_of_exec ((exec_load s h i signed).trans (congrArg Host.Outcome.next (State.loadGlobal_of_ready signed hr hls hk hroom))) ?_
    rw [State.hand_updHand]
    unfold Hand.butL1 at hhand
    refine ⟨?_, ?_, ?_, hm.mem.trans (by rw [hframe]), ?_, ?_⟩
    · exact (congrArg (fun c : Hand => c.pc + 1) hm.hand).trans (by rw [hhand])
    · exact (congrArg (fun c : Hand => c.stores) hm.hand).trans (by rw [hhand])
    · refine hm.misses.trans ?_
      rw [hhand]
    · exact (congrArg (fun c : Hand => c.w) hm.hand).trans (by rw [hhand])
    · exact (congrArg (fun c : Hand => c.localStore) hm.hand).trans (by rw [hhand])
  case waits =>
    intro s u h i hr hls
    exact ⟨congrArg Host.Outcome.next (State.loadGlobal_waits false hr hls), congrArg Host.Outcome.next (State.loadGlobal_waits true hr hls)⟩
  case fill =>
    intro s h m bytes poison hm hmod hmem hreg hmill hhome hlate hdata
    have hfindm : ((s.hand h).misses.find? fun x => x.sector = m.sector) = some m := by simp [hm]
    rcases hdata with hgot | ⟨hgot, key, b, hfind, hst, hw, hv, hu, hkey, hpo, hby⟩
    · refine completes_of_exec (t := s.fillMiss h m.sector bytes poison) ?_ (s.fillMiss_single h m bytes poison hm hlate)
      show execHandMissFill h m.sector s = _
      simp only [execHandMissFill, hfindm, hmod, hmem, hmill, hhome, hgot, ne_eq, not_true, decide_false, Bool.not_true, Bool.or_self,
        Bool.false_eq_true, if_false, Option.isSome_some, if_true, Option.bind_some]
    · obtain ⟨hh, hgen⟩ := State.binRead_hit hm hreg hmill hhome hgot hfind hst hw hv hu hkey
      obtain ⟨v, hvd⟩ : ∃ v, v = s.binRead (h / 1024) m.pol (m.sector / 8) (sectorBit (m.sector % 8)) m.hint := ⟨_, rfl⟩
      rw [← hvd] at hh hgen
      have hlate' : v.isLate m.pol m.gen m.orphan = false := by
        unfold State.isLate at hlate ⊢
        rw [hgen]
        exact hlate
      have hfill := v.fillMiss_single h { m with got := some (bytes, poison) } bytes poison (by rw [hh, hpo, hby]) hlate'
      obtain ⟨h1, h2, h3, h4, h5, h6, h7⟩ := hfill
      refine completes_of_exec (t := v.fillMiss h m.sector bytes poison) ?_ ⟨h1, h2.trans (by rw [hh]), h3.trans (by rw [hh]), h4.trans ?_, h5.trans ?_, h6, h7⟩
      · have hfv : (((v.hand h).misses.find? fun x => x.sector = m.sector).bind MissEntry.got) = some (bytes, poison) := by
          rw [hh, ← hpo, ← hby]
          simp
        have hany : (b.waits.any fun w => w.write.isEmpty && w.read.getLsbD (m.sector % 8)) = false := by rw [hw]; rfl
        show execHandMissFill h m.sector s = _
        simp only [execHandMissFill, hfindm, hmod, hmem, hmill, hhome, hgot, ne_eq, not_true, decide_false, Bool.not_true, Bool.or_self,
          Bool.false_eq_true, if_false, Option.isSome_none, hfind, hany]
        show Host.Outcome.next (match (((s.binRead (h / 1024) m.pol (m.sector / 8) (sectorBit (m.sector % 8)) m.hint).hand h).misses.find?
          fun x => x.sector = m.sector).bind MissEntry.got with
          | some (bs, po) => State.fillMiss _ h m.sector bs po
          | none => _) = _
        rw [← hvd, hfv]
        exact congrArg (fun u : State => Host.Outcome.next (u.fillMiss h m.sector bytes poison)) hvd.symm
      · exact (fillDests_lanes _ _ _ _ _ (by rw [hh]) (by rw [hh])).1
      · exact (fillDests_lanes _ _ _ _ _ (by rw [hh]) (by rw [hh])).2
  case dest =>
    intro c bytes poison d hr hl
    have hcell := c.rx_setLanes_same d.lane d.reg d.size
      (if d.signed && d.size < 4 then ofSigned 32 (toSigned (8 * d.size) (leAt bytes d.off d.size)) else leAt bytes d.off d.size)
      (poison || d.bad) 0 hl (by split <;> omega) hr
    obtain ⟨hx, hp⟩ := hcell
    rw [Nat.add_zero, Nat.mul_zero, pow_zero, Nat.div_one] at hx
    have hlt := leAt_lt bytes d.off d.size
    refine ⟨fun h4 => hx.trans ?_, fun h2 hs => hx.trans ?_, fun h2 hs => hx.trans ?_, fun h1 hs => hx.trans ?_, hp⟩
    · simp [h4]
    · simp [hs]
    · rw [h2] at hlt ⊢
      simp only [hs, Bool.true_and, if_true, Nat.reduceLT, decide_true]
      rw [ofNat_ofSigned, toSigned_eq_toInt_ofNat _ _ (by omega) hlt, BitVec.signExtend]
    · rw [h1] at hlt ⊢
      simp only [hs, Bool.true_and, if_true, Nat.reduceLT, decide_true]
      rw [ofNat_ofSigned, toSigned_eq_toInt_ofNat _ _ (by omega) hlt, BitVec.signExtend]
  case misaligned =>
    intro s h i l hi hf hm ha hl hal
    have hstart : ∀ go, s.memStart h i (sizeRegs i.size.val) true (memFault i (sizeRegs i.size.val)) go = s.handFault h .misaligned 0 0 := fun go =>
      State.memStart_misaligned go hi hm hf ha hl hal
    obtain ⟨hl, hs⟩ := State.access_of_start hstart
    exact ⟨congrArg Host.Outcome.next (hl false), congrArg Host.Outcome.next (hl true), congrArg Host.Outcome.next (hs false),
      congrArg Host.Outcome.next (hs true)⟩
  case poisoned =>
    intro s h i hi hf hm ha
    have hstart : ∀ go, s.memStart h i (sizeRegs i.size.val) true (memFault i (sizeRegs i.size.val)) go = s.poisonConsumed h := fun go =>
      State.memStart_poisoned go hi hm hf ha
    obtain ⟨hl, hs⟩ := State.access_of_start hstart
    exact ⟨congrArg Host.Outcome.next (hl false), congrArg Host.Outcome.next (hl true), congrArg Host.Outcome.next (hs false),
      congrArg Host.Outcome.next (hs true)⟩

end Sys2Proof.Machine
end

section
/-! SUPPORT. A listed manifest that equals an unlisted one: the Weir's charge, which leaves it as it is, takes it off the running list
(O33, O34). -/

namespace Sys2Proof.Machine

open Sys2Proof

/-- An image whose only schedule, of polder 0, gives the results of one operation of die 0's Mill to stream 0. -/
def oneUseImage (u : MillUse) : Image where
  charter := { pols := [{ tiles := [0xFFFF] }] }
  schedules := [{ pol := 0, stations := [0], mills := [u] }]

/-- Manifest 0 of polder 0 is listed as running and is the default one. -/
def blankRun (u : MillUse) : State where
  img := some (oneUseImage u)
  pols := [(0, { running := [(0, {})] })]
  mills := [(0, { held := false })]

/-- A product of one element of BF16. -/
def oneByOne : Gemm where
  pol := 0
  a := { fmt := 6, rows := 1, cols := 1, elems := [0] }
  b := { fmt := 6, rows := 1, cols := 1, elems := [0] }

/-- The use that the schedule declares for it. -/
def oneByOneUse : MillUse where
  mode := .solo
  die := 0
  fmtA := 6
  fmtB := 6
  out := some 0

theorem blankRun_gemmReady : gemmReady (blankRun oneByOneUse) 0 0 useGemmOs oneByOne 0 ((oneUseImage oneByOneUse).schedules.headD { pol := 0 }) oneByOneUse := by
  refine ⟨by decide, by decide, by decide, by decide, ?_, by decide⟩
  decide

/-- Refutes O33: the charge of the Weir's cycles writes the default run back, which `SMap.set` does not list, so the results go to
no stream; the statement does not ask for maps in canonical form. -/
theorem not_matrixOperationsRun : ¬ Obligations.MatrixOperationsRun := by
  intro h
  have hdone := h.1 (blankRun oneByOneUse) 0 0 0 oneByOne _ _ blankRun_gemmReady
  obtain ⟨-, -, hflow⟩ := hdone.of_exec rfl
  have hmade := congrArg StreamRun.made (hflow 0)
  revert hmade
  decide

/-- A pass of one head over no key. -/
def oneHead : AttHead where
  q := { fmt := 6, rows := 1, cols := 1, elems := [0] }
  k := { fmt := 6, rows := 1, cols := 1, elems := [0] }
  v := { fmt := 4, rows := 1, cols := 1, elems := [0], scales := [0] }

def oneHeadPass : Attention where
  pol := 0
  tiles := 1
  heads := [oneHead]
  record := List.replicate 32 0
  scale := 0
  out := 7

/-- The use that the schedule declares for it. -/
def oneHeadUse : MillUse where
  mode := .solo
  die := 0
  op := 3
  fmtA := 6
  fmtB := 6
  fmtV := 4
  out := some 0

/-- Refutes O34, as O33: the pass's rows go to no stream once the Weir's charge has written the default run back. -/
theorem not_attentionPassRuns : ¬ Obligations.AttentionPassRuns := by
  intro h
  have hdone := h.1 (blankRun oneHeadUse) (blankRun oneHeadUse) 0 0 oneHeadPass ((oneUseImage oneHeadUse).schedules.headD { pol := 0 }) oneHead [] oneHeadUse false
    rfl (by decide) (by decide) (fun _ hx => nomatch hx) (by decide) (by decide) (by decide) (by decide) (by decide) (by decide) (by decide) rfl (by decide)
  obtain ⟨-, -, hflow⟩ := hdone.of_exec rfl
  have hmade := congrArg StreamRun.made (hflow 0)
  revert hmade
  decide

end Sys2Proof.Machine
end

section
/-! SUPPORT. The Land Register: walks that go on, misses that close, edits and resumes (O46, O47). -/

namespace Sys2Proof.Machine

open Sys2Proof

/-! ## What stands outside the Land Register -/

/-- The state without the Land Register. -/
def State.sansLand (s : State) : State := { s with land := {} }

theorem State.eq_of_sansLand {s t : State} (h : t.sansLand = s.sansLand) : t = { s with land := t.land } :=
  congrArg (fun u : State => { u with land := t.land }) h

@[simp] theorem State.updLand_sansLand (s : State) (f : Land → Land) : (s.updLand f).sansLand = s.sansLand := rfl
@[simp] theorem State.updLandRegs_sansLand (s : State) (n : Nat) (f : LandRegs → LandRegs) :
    (s.updLandRegs n f).sansLand = s.sansLand := rfl
@[simp] theorem State.setWalk_sansLand (s : State) (id : Nat) (f : Walk → Walk) : (s.setWalk id f).sansLand = s.sansLand := rfl
@[simp] theorem State.queueWalk_sansLand (s : State) (w : Walk) (st : WalkSt) : (s.queueWalk w st).sansLand = s.sansLand := rfl

/-! ## Walks by their numbers -/

theorem State.mem_setWalk_of_mem {s : State} {id : Nat} (f : Walk → Walk) {w : Walk} (h : w ∈ s.land.walks) (hid : w.id = id) :
    f w ∈ (s.setWalk id f).land.walks := by
  refine List.mem_map.2 ⟨w, h, ?_⟩
  rw [if_pos hid]

theorem State.mem_setWalk_of_other {s : State} {id : Nat} (f : Walk → Walk) {w : Walk} (h : w ∈ s.land.walks) (hid : w.id ≠ id) :
    w ∈ (s.setWalk id f).land.walks := by
  refine List.mem_map.2 ⟨w, h, ?_⟩
  rw [if_neg hid]

/-- A walk begins again: under a walker, or in the queue for one. -/
theorem State.walkAgain_eq (s : State) (w : Walk) :
    s.walkAgain w = s.setWalk w.id (fun w => { w with st := .walking }) ∨ s.walkAgain w = s.queueWalk w .noWalker := by
  unfold State.walkAgain
  split
  · exact .inl rfl
  · exact .inr rfl

@[simp] theorem State.walkAgain_sansLand (s : State) (w : Walk) : (s.walkAgain w).sansLand = s.sansLand := by
  rcases s.walkAgain_eq w with h | h <;> rw [h] <;> rfl

@[simp] theorem State.walkAgain_misses (s : State) (w : Walk) : (s.walkAgain w).land.misses = s.land.misses := by
  rcases s.walkAgain_eq w with h | h <;> rw [h] <;> rfl

@[simp] theorem State.walkAgain_regs (s : State) (w : Walk) : (s.walkAgain w).land.regs = s.land.regs := by
  rcases s.walkAgain_eq w with h | h <;> rw [h] <;> rfl

@[simp] theorem State.walkAgain_crier (s : State) (w : Walk) : (s.walkAgain w).crier = s.crier := by
  rcases s.walkAgain_eq w with h | h <;> rw [h] <;> rfl

theorem State.mem_walkAgain_of_other {s : State} {w x : Walk} (h : x ∈ s.land.walks) (hid : x.id ≠ w.id) :
    x ∈ (s.walkAgain w).land.walks := by
  rcases s.walkAgain_eq w with hw | hw <;> rw [hw]
  · exact State.mem_setWalk_of_other _ h hid
  · exact List.mem_append_left _ (List.mem_filter.2 ⟨h, decide_eq_true hid⟩)

/-- A walk of a number goes on: it has a walker or waits for one. -/
def State.walkGoesOn (s : State) (id : Nat) : Prop := ∃ x ∈ s.land.walks, x.id = id ∧ (x.st = .walking ∨ x.st = .noWalker)

/-- A walk bears the number. -/
def State.hasWalk (s : State) (id : Nat) : Prop := ∃ x ∈ s.land.walks, x.id = id

theorem State.walkGoesOn_walkAgain {s : State} {w : Walk} (h : s.hasWalk w.id) : (s.walkAgain w).walkGoesOn w.id := by
  obtain ⟨x, hx, hid⟩ := h
  rcases s.walkAgain_eq w with hw | hw <;> rw [hw]
  · exact ⟨_, State.mem_setWalk_of_mem _ hx hid, hid, .inl rfl⟩
  · exact ⟨_, List.mem_append_right _ List.mem_cons_self, rfl, .inr rfl⟩

/-! ## Closing a miss -/

/-- What closing a miss does with one walk. -/
def closeStep (m : Miss) (f : State → Walk → State) (s : State) (w : Walk) : State :=
  if w.st = .waiting m.serial then f s w
  else if (w.st = .missSent || w.st = .noEntry) && w.pol = m.pol && w.va / 2 ^ 21 = m.index then s.walkAgain w
  else s

theorem State.closeMiss_eq (s : State) (m : Miss) (f : State → Walk → State) :
    s.closeMiss m f = s.land.walks.foldl (closeStep m f)
      (s.updLand fun g => { g with misses := g.misses.filter fun x => x.serial ≠ m.serial }) := rfl

/-- A step of closing a miss takes its walk on by `f`, begins it again, or leaves all as it is. -/
theorem closeStep_cases (m : Miss) (f : State → Walk → State) (s : State) (w : Walk) :
    (w.st = .waiting m.serial ∧ closeStep m f s w = f s w) ∨ closeStep m f s w = s.walkAgain w
      ∨ w.st ≠ .waiting m.serial ∧ closeStep m f s w = s := by
  unfold closeStep
  split
  · next h => exact .inl ⟨h, rfl⟩
  · next h =>
    split
    · exact .inr (.inl rfl)
    · exact .inr (.inr ⟨h, rfl⟩)

/-- A projection that taking a walk on leaves alone, closing a miss leaves alone but for what dropping the miss does. -/
theorem State.closeMiss_keeps_proj {β : Type} (g : State → β) (s : State) (m : Miss) (f : State → Walk → State)
    (hf : ∀ s w, g (f s w) = g s) (hagain : ∀ s w, g (State.walkAgain s w) = g s) :
    g (s.closeMiss m f) = g (s.updLand fun g => { g with misses := g.misses.filter fun x => x.serial ≠ m.serial }) := by
  rw [State.closeMiss_eq]
  refine foldl_keeps_proj g _ (fun s w => ?_) _ _
  rcases closeStep_cases m f s w with ⟨-, h⟩ | h | ⟨-, h⟩ <;> rw [h]
  · exact hf s w
  · exact hagain s w

theorem State.walkGoesOn_closeMiss {s : State} {m : Miss} {w : Walk} (hw : w ∈ s.land.walks) (hst : w.st = .waiting m.serial) :
    (s.closeMiss m fun s w => s.walkAgain w).walkGoesOn w.id := by
  have hstep : ∀ (t : State) (x : Walk), closeStep m (fun s w => s.walkAgain w) t x = t.walkAgain x
      ∨ x.st ≠ .waiting m.serial ∧ closeStep m (fun s w => s.walkAgain w) t x = t := by
    intro t x
    rcases closeStep_cases m (fun s w => s.walkAgain w) t x with ⟨-, h⟩ | h | ⟨hn, h⟩
    · exact .inl h
    · exact .inl h
    · exact .inr ⟨hn, h⟩
  rw [State.closeMiss_eq]
  refine foldl_reaches _ (fun t : State => t.hasWalk w.id) (fun t : State => t.walkGoesOn w.id) w _ ?_ ?_ ?_ hw _ ⟨w, hw, rfl⟩
  · intro t x _ ht
    rcases hstep t x with h | ⟨-, h⟩
    · rw [h]
      by_cases hid : x.id = w.id
      · obtain ⟨y, hy, hyid, -⟩ := State.walkGoesOn_walkAgain (hid ▸ ht : t.hasWalk x.id)
        exact ⟨y, hy, hyid.trans hid⟩
      · obtain ⟨y, hy, hyid⟩ := ht
        exact ⟨y, State.mem_walkAgain_of_other hy (fun h => hid (h ▸ hyid)), hyid⟩
    · rw [h]; exact ht
  · intro t ht
    rcases hstep t w with h | ⟨hn, -⟩
    · rw [h]; exact State.walkGoesOn_walkAgain ht
    · exact absurd hst hn
  · intro t x _ _ ht hgo
    rcases hstep t x with h | ⟨-, h⟩
    · rw [h]
      by_cases hid : x.id = w.id
      · exact hid ▸ State.walkGoesOn_walkAgain (hid ▸ ht : t.hasWalk x.id)
      · obtain ⟨y, hy, hyid, hyst⟩ := hgo
        exact ⟨y, State.mem_walkAgain_of_other hy (fun h => hid (h ▸ hyid)), hyid, hyst⟩
    · rw [h]; exact hgo

/-- A waiting walk is aborted, and PERMISSION is raised for it. -/
def State.walkAborted (s : State) (w : Walk) : Prop :=
  { w with st := .aborted } ∈ s.land.walks
    ∧ ∃ e ∈ s.crier.band, e.code = .permission ∧ e.book = w.pol ∧ e.detail = slice (addrDetail w.va (engineBytes w.engine).1) 0 16

theorem State.walkAborted_abortWalk {s : State} {w : Walk} (h : w ∈ s.land.walks ∨ s.walkAborted w) : (s.abortWalk w).walkAborted w := by
  refine ⟨?_, ⟨_, List.mem_append_right _ List.mem_cons_self, rfl, rfl, rfl⟩⟩
  rcases h with h | ⟨h, -⟩
  · exact State.mem_setWalk_of_mem (fun w => { w with st := .aborted }) h rfl
  · exact State.mem_setWalk_of_mem (w := { w with st := .aborted }) (fun w => { w with st := .aborted }) h rfl

theorem State.mem_abortWalk_of_other {s : State} {w x : Walk} (h : x ∈ s.land.walks) (hid : x.id ≠ w.id) :
    x ∈ (s.abortWalk w).land.walks := State.mem_setWalk_of_other _ h hid

theorem State.mem_band_abortWalk {s : State} {e : Event} (w : Walk) (h : e ∈ s.crier.band) : e ∈ (s.abortWalk w).crier.band :=
  List.mem_append_left _ h

/-- A step of an abort leaves the walks of other numbers, and every event. -/
theorem closeStep_abortWalk_keeps (m : Miss) (s : State) (w : Walk) :
    (∀ x ∈ s.land.walks, x.id ≠ w.id → x ∈ (closeStep m State.abortWalk s w).land.walks)
      ∧ ∀ e ∈ s.crier.band, e ∈ (closeStep m State.abortWalk s w).crier.band := by
  rcases closeStep_cases m State.abortWalk s w with ⟨-, h⟩ | h | ⟨-, h⟩ <;> rw [h]
  · exact ⟨fun x hx hid => State.mem_abortWalk_of_other hx hid, fun e he => State.mem_band_abortWalk w he⟩
  · exact ⟨fun x hx hid => State.mem_walkAgain_of_other hx hid, fun e he => by rw [State.walkAgain_crier]; exact he⟩
  · exact ⟨fun x hx _ => hx, fun e he => he⟩

theorem State.walkAborted_closeMiss {s : State} {m : Miss} {w : Walk} (hw : w ∈ s.land.walks) (hst : w.st = .waiting m.serial)
    (huniq : ∀ x ∈ s.land.walks, x.id = w.id → x = w) : (s.closeMiss m State.abortWalk).walkAborted w := by
  have hself : ∀ t : State, closeStep m State.abortWalk t w = t.abortWalk w := fun t => if_pos hst
  have hother : ∀ (t : State) (x : Walk), x ∈ s.land.walks → x ≠ w → t.walkAborted w →
      (closeStep m State.abortWalk t x).walkAborted w := by
    rintro t x hx hxw ⟨hmem, e, he, hev⟩
    obtain ⟨hwalks, hband⟩ := closeStep_abortWalk_keeps m t x
    exact ⟨hwalks _ hmem fun h => hxw (huniq x hx h.symm), e, hband e he, hev⟩
  rw [State.closeMiss_eq]
  refine foldl_reaches _ (fun t : State => w ∈ t.land.walks ∨ t.walkAborted w) (fun t : State => t.walkAborted w) w _ ?_ ?_ ?_ hw _ (.inl hw)
  · intro t x hx ht
    by_cases hxw : x = w
    · subst hxw
      rw [hself]
      exact .inr (State.walkAborted_abortWalk ht)
    · rcases ht with ht | ht
      · exact .inl ((closeStep_abortWalk_keeps m t x).1 w ht fun h => hxw (huniq x hx h.symm))
      · exact .inr (hother t x hx hxw ht)
  · intro t ht
    rw [hself]
    exact State.walkAborted_abortWalk ht
  · intro t x hx hxw _ ht
    exact hother t x hx hxw ht

/-! ## Caches and entries -/

theorem State.landEntry_setEntry (s : State) (i : Nat) (v : Word) (j : Nat) :
    (s.setEntry i v).landEntry j = if j = i then v else s.landEntry j := by
  show (s.land.entries.set 0 i v).get 0 j = _
  split
  · next h => rw [h, SMap.get_set_same]
  · next h => exact SMap.get_set_other _ _ _ _ _ h

theorem SMap.mem_mapAll {α : Type} [DecidableEq α] {d : α} {f : Nat → α → α} {m : SMap α} {e : Nat × α} (h : e ∈ m.mapAll d f) :
    ∃ v, (e.1, v) ∈ m ∧ e.2 = f e.1 v := by
  obtain ⟨x, hx, rfl⟩ := List.mem_map.1 (List.mem_filter.1 h).1
  exact ⟨x.2, hx, rfl⟩

/-- The translations that an edit drops. -/
def dropsAt (i : Nat) (wide : Bool) (e : TransEntry) : Bool := if wide then spanBase e.index = spanBase i else e.index = i

theorem dropsAt_self {i : Nat} {wide : Bool} {e : TransEntry} (h : e.index = i) : dropsAt i wide e = true := by
  unfold dropsAt
  cases wide <;> simp [h]

theorem State.setEntry_caches (s : State) (i : Nat) (v : Word) : (s.setEntry i v).land.caches = s.land.caches.mapAll [] fun _ l =>
    l.filter fun e => !dropsAt i ((eValid (s.landEntry i) && eSpan (s.landEntry i)) || eSpan v) e := rfl

theorem State.not_cached_setEntry (s : State) (i : Nat) (v : Word) (c : Nat) (e : TransEntry)
    (h : e ∈ (s.setEntry i v).land.caches.get [] c) : e.index ≠ i := by
  rw [State.setEntry_caches] at h
  obtain ⟨l, -, hl⟩ := SMap.mem_mapAll (SMap.mem_of_get [] _ c (List.ne_nil_of_mem h))
  rw [show SMap.get _ _ c = _ from hl] at h
  intro hi
  have hdrop := (List.mem_filter.1 h).2
  rw [dropsAt_self hi] at hdrop
  exact absurd hdrop (by decide)

/-! ## Edits -/

theorem State.landGo_of_refused (s : State) (port : Nat) (hb : (s.landRegs port).busy = false)
    (h : s.editStatus port (s.landRegs port).idx (s.landRegs port).val ≠ 0) :
    s.landGo port = s.updLandRegs port fun r => { r with status := s.editStatus port (s.landRegs port).idx (s.landRegs port).val } := by
  simp only [State.landGo, hb, Bool.false_eq_true, if_false, h, ne_eq, not_false_eq_true, if_true]

theorem State.landGo_of_accepted (s : State) (port : Nat) (hb : (s.landRegs port).busy = false)
    (h : s.editStatus port (s.landRegs port).idx (s.landRegs port).val = 0) :
    s.landGo port = (s.setEntry (s.landRegs port).idx (s.landRegs port).val).updLandRegs port fun r =>
      { r with busy := true, old := s.landEntry (s.landRegs port).idx } := by
  simp only [State.landGo, hb, Bool.false_eq_true, if_false, h, ne_eq, not_true_eq_false]

theorem exec_landEdit (s : State) (a : RegAcc) (port : Nat) (h : s.pfWrites a offLandCtl = some port) :
    exec (.landEdit a) s = .next (s.landCtlWrite port a) := by
  show execLandEdit a s = _
  simp only [execLandEdit, h]

theorem State.editStatus_of_outside (s : State) (port i : Nat) (v : Word)
    (h : i < (s.share port).1 ∨ (s.share port).2 ≤ i ∨ i = 0) : s.editStatus port i v = 1 := by
  have : (i = 0 || i < (s.share port).1 || (s.share port).2 ≤ i || s.spanned i || (eSpan v && i % 512 ≠ 0)) = true := by
    rcases h with h | h | h <;> simp [h]
  simp only [State.editStatus, this, if_true]

theorem State.of_editStatus_zero (s : State) (port i : Nat) (v : Word) (h : s.editStatus port i v = 0) (hv : v ≠ 0) :
    (s.pol (ePol v)).port = port ∧ eCoding v < 2 := by
  rcases hs : s.share port with ⟨first, limit⟩
  unfold State.editStatus at h
  simp only [hs] at h
  split at h
  · exact absurd h (by decide)
  split at h
  · exact absurd h (by decide)
  split at h
  · exact absurd h (by decide)
  next hcoding =>
  split at h
  · exact absurd h (by decide)
  next hport =>
  simp only [Bool.or_eq_true, decide_eq_true_eq, not_or, ne_eq, Decidable.not_not] at hcoding hport
  exact ⟨hport.1, by omega⟩

/-! ## The port's registers -/

theorem State.landResumeWrite_of_hits (s : State) (port : Nat) (a : RegAcc) (h : a.hits 0 = true) :
    s.landResumeWrite port a = s.resume port (field a.data 0 16) (a.bit 16) := if_pos h

theorem State.resume_of_none (s : State) (port serial : Nat) (abort : Bool)
    (h : s.land.misses.find? (fun m => m.serial = serial && (s.pol m.pol).port = port) = none) :
    s.resume port serial abort = s.updLandRegs port fun r => { r with stray := satAdd 0xFFFF r.stray 1 } := by
  simp only [State.resume, h]

theorem State.resume_of_some (s : State) (port serial : Nat) (m : Miss)
    (h : s.land.misses.find? (fun m => m.serial = serial && (s.pol m.pol).port = port) = some m) :
    s.resume port serial false = s.closeMiss m fun s w => s.walkAgain w := by
  simp only [State.resume, h, Bool.false_eq_true, if_false]

theorem State.abort_of_some (s : State) (port serial : Nat) (m : Miss)
    (h : s.land.misses.find? (fun m => m.serial = serial && (s.pol m.pol).port = port) = some m) :
    s.resume port serial true = (s.closeMiss m State.abortWalk).updLandRegs port fun r => { r with aborts := satAdd 0xFFFF r.aborts 1 } := by
  simp only [State.resume, h, if_true]

theorem exec_landResume (s : State) (a : RegAcc) (port : Nat) (h : s.pfWrites a offLandResume = some port) :
    exec (.landResume a) s = .next (if a.bit 16 then s else s.landResumeWrite port a) := by
  show execLandResume a s = _
  simp only [execLandResume, h]

theorem exec_landAbort (s : State) (a : RegAcc) (port : Nat) (h : s.pfWrites a offLandResume = some port) :
    exec (.landAbort a) s = .next (if a.bit 16 then (List.range 64).foldl (fun s p => s.retryRecords p) (s.landResumeWrite port a) else s) := by
  show execLandAbort a s = _
  simp only [execLandAbort, h]

theorem exec_landHwinLock (s : State) (a : RegAcc) (port : Nat) (h : s.pfWrites a offLandHwin = some port) (hb : a.bit 0 = true) :
    exec (.landHwinLock a) s = .next (s.landHwinWrite port a) := by
  show execLandHwinLock a s = _
  simp only [execLandHwinLock, h, hb, if_true]

theorem RegAcc.fld_whole (a : RegAcc) (lo len old : Nat) (h : a.size = 8) : a.fld lo len old = field a.value.toNat lo len := by
  simp only [RegAcc.fld, RegAcc.merge, h, if_true]

/-! ## Walks and misses -/

theorem State.walk_of_late (s : State) (w : Walk) (h : s.land.walks.find? (fun x => x.id = w.id && x.st = .walking) = some w)
    (hl : s.isLate w.pol w.gen w.orphan = true) : s.walk w.id = (s.dropWalk w.id).late w.pol w.orphan := by
  simp only [State.walk, h, hl, if_true]

@[simp] theorem State.late_land (s : State) (p : Nat) (orphan : Bool) : (s.late p orphan).land = s.land := by
  unfold State.late
  extract_lets s' q
  split <;> rfl

theorem State.walk_of_fenced (s : State) (w : Walk) (h : s.land.walks.find? (fun x => x.id = w.id && x.st = .walking) = some w)
    (hl : s.isLate w.pol w.gen w.orphan = false) (hk : (s.keel (entryKeel (w.va / 2 ^ 21))).fenced = true) :
    s.walk w.id = s.setWalk w.id fun w => { w with st := .fencedKeel } := by
  simp only [State.walk, h, hl, hk, Bool.false_eq_true, if_false, if_true]

/-- The translation that a walk finds in the two entries that it reads (R233). -/
def State.walkFinds (s : State) (w : Walk) : Option TransEntry :=
  let i := w.va / 2 ^ 21
  if eValid (s.landEntry (spanBase i)) && eSpan (s.landEntry (spanBase i)) then
    some { pol := w.pol, index := spanBase i, span := true, value := s.landEntry (spanBase i) }
  else if eValid (s.landEntry i) then some { pol := w.pol, index := i, value := s.landEntry i } else none

theorem State.walk_of_entries (s : State) (w : Walk) (h : s.land.walks.find? (fun x => x.id = w.id && x.st = .walking) = some w)
    (hl : s.isLate w.pol w.gen w.orphan = false) (hk : (s.keel (entryKeel (w.va / 2 ^ 21))).fenced = false) :
    s.walk w.id = match s.walkFinds w with
      | some e => ((cachesOf w.engine).foldl (fun s c => s.fillCache c e) s).setWalk w.id fun w => { w with st := .ready }
      | none => s.setWalk w.id fun w => { w with st := .missSent } := by
  simp only [State.walk, h, hl, hk, Bool.false_eq_true, if_false]
  rfl

theorem TransEntry.serves_of_walkFinds {s : State} {w : Walk} {e : TransEntry} (h : s.walkFinds w = some e) (n : Nat) :
    ({ e with used := n } : TransEntry).serves w.pol (w.va / 2 ^ 21) = true := by
  unfold State.walkFinds at h
  extract_lets i at h
  split at h
  · cases h; simp [TransEntry.serves, i]
  · split at h
    · cases h; simp [TransEntry.serves, i]
    · exact absurd h (by simp)

/-! ### The caches that a walk fills -/

/-- A cache holds a translation. -/
def State.cacheHas (s : State) (c : Nat) (e : TransEntry) : Prop := e ∈ s.land.caches.get [] c

theorem State.cacheHas_fillCache (s : State) (c : Nat) (e : TransEntry) : (s.fillCache c e).cacheHas c { e with used := s.clock } := by
  unfold State.cacheHas State.fillCache
  extract_lets l sets mine l'
  show _ ∈ (s.land.caches.set [] c (l' ++ [{ e with used := s.clock }])).get [] c
  rw [SMap.get_set_same]
  exact List.mem_append_right _ List.mem_cons_self

theorem State.cacheHas_fillCache_other {s : State} {c c' : Nat} {x : TransEntry} (e : TransEntry) (hc : c' ≠ c) (h : s.cacheHas c' x) :
    (s.fillCache c e).cacheHas c' x := by
  unfold State.cacheHas State.fillCache
  extract_lets l sets mine l'
  show _ ∈ (s.land.caches.set [] c (l' ++ [{ e with used := s.clock }])).get [] c'
  rw [SMap.get_set_other _ _ _ _ _ hc]
  exact h

@[simp] theorem State.fillCache_sansLand (s : State) (c : Nat) (e : TransEntry) : (s.fillCache c e).sansLand = s.sansLand := rfl
@[simp] theorem State.fillCache_walks (s : State) (c : Nat) (e : TransEntry) : (s.fillCache c e).land.walks = s.land.walks := rfl
@[simp] theorem State.fillCache_entries (s : State) (c : Nat) (e : TransEntry) : (s.fillCache c e).land.entries = s.land.entries := rfl
@[simp] theorem State.fillCache_misses (s : State) (c : Nat) (e : TransEntry) : (s.fillCache c e).land.misses = s.land.misses := rfl
@[simp] theorem State.fillCache_clock (s : State) (c : Nat) (e : TransEntry) : (s.fillCache c e).clock = s.clock := rfl

/-- What a cache holds after a fill was there, or is the fill. -/
theorem State.cacheHas_of_fillCache {s : State} {c c' : Nat} {e x : TransEntry} (h : (s.fillCache c e).cacheHas c' x) :
    s.cacheHas c' x ∨ x = { e with used := s.clock } := by
  unfold State.cacheHas State.fillCache at h
  extract_lets l sets mine l' at h
  change _ ∈ (s.land.caches.set [] c (l' ++ [{ e with used := s.clock }])).get [] c' at h
  by_cases hc : c' = c
  · subst hc
    rw [SMap.get_set_same] at h
    rcases List.mem_append.1 h with h | h
    · left
      have hl : x ∈ l := by
        simp only [l'] at h
        split at h
        · exact h
        · split at h
          · exact List.mem_of_mem_erase h
          · exact h
      exact (List.mem_filter.1 hl).1
    · exact .inr (List.mem_singleton.1 h)
  · rw [SMap.get_set_other _ _ _ _ _ hc] at h
    exact .inl h

/-- A translation goes into each of an engine's caches. -/
def State.fillCaches (s : State) (cs : List Nat) (e : TransEntry) : State := cs.foldl (fun s c => s.fillCache c e) s

theorem State.fillCaches_keeps {β : Type} (g : State → β) (hg : ∀ s c e, g (State.fillCache s c e) = g s) (s : State) (cs : List Nat)
    (e : TransEntry) : g (s.fillCaches cs e) = g s := foldl_keeps_proj g _ (fun s c => hg s c e) cs s

theorem State.cacheHas_fillCaches (s : State) (cs : List Nat) (e : TransEntry) (c : Nat) (hc : c ∈ cs) :
    (s.fillCaches cs e).cacheHas c { e with used := s.clock } := by
  refine foldl_reaches (fun s c => State.fillCache s c e) (fun t => t.clock = s.clock) (fun t => t.cacheHas c { e with used := s.clock })
    c cs (fun t b _ ht => ht) (fun t ht => ?_) (fun t b _ hb _ hP => State.cacheHas_fillCache_other e (Ne.symm hb) hP) hc s rfl
  have := State.cacheHas_fillCache t c e
  rwa [ht] at this

theorem State.cacheHas_of_fillCaches {s : State} {cs : List Nat} {e x : TransEntry} {c : Nat} (h0 : s.land.caches = [])
    (h : (s.fillCaches cs e).cacheHas c x) : x = { e with used := s.clock } := by
  have hall : (s.fillCaches cs e).clock = s.clock ∧ ∀ c x, (s.fillCaches cs e).cacheHas c x → x = { e with used := s.clock } := by
    refine foldl_keeps (fun s c => State.fillCache s c e) (fun t => t.clock = s.clock ∧ ∀ c x, t.cacheHas c x → x = { e with used := s.clock })
      cs ?_ s ⟨rfl, fun c x hx => ?_⟩
    · rintro t b - ⟨hclk, hx⟩
      refine ⟨hclk, fun c x h => ?_⟩
      rcases State.cacheHas_of_fillCache h with h | h
      · exact hx c x h
      · rwa [hclk] at h
    · rw [State.cacheHas, h0] at hx
      exact absurd hx List.not_mem_nil
  exact hall.2 c x h

/-- Where one of an engine's caches holds a translation that serves, the engine finds one that serves in one of its caches. -/
theorem State.exists_cached {s : State} {eng : EngineRef} {p i c : Nat} {x : TransEntry} (hc : c ∈ cachesOf eng) (hx : s.cacheHas c x)
    (hs : x.serves p i = true) : ∃ e, s.cached eng p i = some e ∧ e.serves p i = true ∧ ∃ c', s.cacheHas c' e := by
  cases h : s.cached eng p i with
  | none =>
    have hnone := List.findSome?_eq_none_iff.1 h c hc
    exact absurd hs (List.find?_eq_none.1 hnone x hx)
  | some e =>
    obtain ⟨c', -, hfind⟩ := List.exists_of_findSome?_eq_some h
    exact ⟨e, rfl, List.find?_some (p := fun e : TransEntry => e.serves p i) hfind, c', List.mem_of_find?_eq_some hfind⟩

theorem exists_cachesOf (eng : EngineRef) : ∃ c, c ∈ cachesOf eng := by
  cases eng <;> exact ⟨_, List.mem_cons_self⟩

/-! ### Misses at the Wharf -/

theorem missDetail_length (w : Walk) (n : Nat) : (missDetail w n).length = 16 := by simp [missDetail, leBytes_length]

theorem slice_missDetail (w : Walk) (n : Nat) : slice (missDetail w n) 0 16 = missDetail w n := by
  rw [slice_eq _ _ _ (by rw [missDetail_length])]
  exact List.take_of_length_le (missDetail_length w n).le

theorem State.raiseSup_of_supOf {s : State} {p port : Nat} (h : s.supOf p = some port) (code : Code) (source : Nat) (detail : List Byte) :
    s.raiseSup code source p detail = s.raise code source port p detail := by
  simp only [State.raiseSup, h]

@[simp] theorem State.raiseSup_land (s : State) (code : Code) (source p : Nat) (detail : List Byte) :
    (s.raiseSup code source p detail).land = s.land := by
  unfold State.raiseSup
  split <;> rfl

@[simp] theorem State.raiseSup_mem (s : State) (code : Code) (source p : Nat) (detail : List Byte) :
    (s.raiseSup code source p detail).mem = s.mem := by
  unfold State.raiseSup
  split <;> rfl

/-- A miss opens an entry of the table, with a serial of its own. -/
def State.openEntry (s : State) (w : Walk) (n : Nat) : State :=
  (s.updLand fun g => { g with
    serial := (n + 1) % 65536
    misses := g.misses ++ [{ pol := w.pol, index := w.va / 2 ^ 21, serial := n }] }).setWalk w.id fun w => { w with st := .waiting n }

theorem State.missArrives_opens (s : State) (w : Walk) (h : s.openMiss w.pol (w.va / 2 ^ 21) = none) :
    s.missArrives w true = (s.openEntry w (newSerial s.land.misses 257 s.land.serial)).raiseSup .translationMiss srcMiss w.pol
      (missDetail w (newSerial s.land.misses 257 s.land.serial)) := by
  simp only [State.missArrives, h, if_true]
  rfl

theorem State.missArrives_waits (s : State) (w : Walk) (h : s.openMiss w.pol (w.va / 2 ^ 21) = none) :
    s.missArrives w false = s.queueWalk w .noEntry := by
  simp only [State.missArrives, h, Bool.false_eq_true, if_false]

/-- A walk joins an open miss. -/
def State.joinMiss (s : State) (w : Walk) (n : Nat) : State :=
  let s := s.setWalk w.id fun w => { w with st := .waiting n }
  match s.supOf w.pol with
  | some port => s.updLandRegs port fun r => { r with joins := satAdd 0xFFFF r.joins 1 }
  | none => s

theorem State.missArrives_joins (s : State) (w : Walk) (room : Bool) (m : Miss) (h : s.openMiss w.pol (w.va / 2 ^ 21) = some m) :
    s.missArrives w room = (s.joinMiss w m.serial).raiseSup .joined srcMiss w.pol (missDetail w m.serial) := by
  simp only [State.missArrives, h]
  rfl

theorem State.joinMiss_of_supOf {s : State} {w : Walk} {port : Nat} (n : Nat) (h : s.supOf w.pol = some port) :
    s.joinMiss w n = (s.setWalk w.id fun w => { w with st := .waiting n }).updLandRegs port fun r => { r with joins := satAdd 0xFFFF r.joins 1 } := by
  have h' : (s.setWalk w.id fun w => { w with st := .waiting n }).supOf w.pol = some port := h
  simp only [State.joinMiss, h']

theorem State.joinMiss_misses (s : State) (w : Walk) (n : Nat) : (s.joinMiss w n).land.misses = s.land.misses := by
  unfold State.joinMiss
  extract_lets s'
  split <;> rfl

theorem State.joinMiss_walks (s : State) (w : Walk) (n : Nat) :
    (s.joinMiss w n).land.walks = (s.setWalk w.id fun w => { w with st := .waiting n }).land.walks := by
  unfold State.joinMiss
  extract_lets s'
  split <;> rfl

theorem exec_translationMiss (s : State) (w : Walk) (h : s.land.walks.find? (fun x => x.id = w.id && x.st = .missSent) = some w)
    (hheld : s.held srcMiss w.pol = false) : exec (.translationMiss w.id) s = .next (s.missArrives w (s.missNow w.pol)) := by
  show execTranslationMiss w.id s = _
  simp only [execTranslationMiss, h, hheld, Bool.false_eq_true, if_false]

theorem entryTarget_eq (e : Word) (va : Nat) :
    entryTarget e va = field e.toNat 9 37 * 2 ^ 21 + va % (if eSpan e then 2 ^ 30 else 2 ^ 21) := rfl

/-- Settles O46: a walk by what its two entries say, and a miss by what the table holds. -/
theorem walksAndMissesProceed : Obligations.WalksAndMissesProceed := by
  unfold Obligations.WalksAndMissesProceed
  refine ⟨?_, ?_, ?_, ?_, ?_⟩
  · intro s w hw i u after found
    have hmem : w ∈ s.land.walks := List.mem_of_find?_eq_some hw
    have hfound : ∀ e, s.walkFinds w = some e → u = (s.fillCaches (cachesOf w.engine) e).setWalk w.id (fun w => { w with st := .ready }) →
        after u .ready ∧ ∃ e', u.cached w.engine w.pol i = some e' ∧ e'.serves w.pol i = true
          ∧ (s.land.caches = [] → e'.span = e.span ∧ e'.value = e.value) := by
      intro e he hu
      have hwalks : w ∈ (s.fillCaches (cachesOf w.engine) e).land.walks := by
        rw [State.fillCaches_keeps (fun s => s.land.walks) (fun s c e => s.fillCache_walks c e)]
        exact hmem
      obtain ⟨c, hc⟩ := exists_cachesOf w.engine
      have hserves : ({ e with used := s.clock } : TransEntry).serves w.pol i = true := TransEntry.serves_of_walkFinds he _
      obtain ⟨e', hcached, hs', c', hhas⟩ := State.exists_cached hc (State.cacheHas_fillCaches s _ e c hc) hserves
      refine ⟨⟨?_, ?_, ?_, ?_⟩, e', ?_, hs', fun h0 => ?_⟩
      · rw [hu]; exact State.mem_setWalk_of_mem _ hwalks rfl
      · refine State.eq_of_sansLand ?_
        rw [hu, State.setWalk_sansLand, State.fillCaches_keeps State.sansLand State.fillCache_sansLand]
      · rw [hu]; exact State.fillCaches_keeps (fun s => s.land.entries) (fun s c e => s.fillCache_entries c e) ..
      · rw [hu]; exact State.fillCaches_keeps (fun s => s.land.misses) (fun s c e => s.fillCache_misses c e) ..
      · rw [hu]; exact hcached
      · rw [State.cacheHas_of_fillCaches h0 hhas]
        exact ⟨rfl, rfl⟩
    refine ⟨fun y hy => ?_, fun hl => ?_, fun hl hk => ?_, fun hl hk => ⟨fun hv hs => ?_, fun hn hv => ?_, fun hn hv => ?_⟩⟩
    · show execLandWalk w.id s = _
      simp only [execLandWalk, hy, Option.map_some, Option.bind_some]
      rfl
    · rw [show u = _ from State.walk_of_late s w hw hl, State.late_land]
      exact ⟨fun x hx => of_decide_eq_true (List.mem_filter.1 hx).2, rfl⟩
    · rw [show u = _ from State.walk_of_fenced s w hw hl hk]
      exact ⟨State.mem_setWalk_of_mem _ hmem rfl, rfl, rfl, rfl⟩
    · have hf : s.walkFinds w = some { pol := w.pol, index := spanBase i, span := true, value := s.landEntry (spanBase i) } := by
        simp only [State.walkFinds]
        rw [if_pos (by rw [hv, hs]; rfl)]
      have hu := State.walk_of_entries s w hw hl hk
      rw [hf] at hu
      exact hfound _ hf hu
    · have hf : s.walkFinds w = some { pol := w.pol, index := i, value := s.landEntry i } := by
        simp only [State.walkFinds]
        rw [if_neg (by rwa [Bool.and_eq_true]), if_pos hv]
      have hu := State.walk_of_entries s w hw hl hk
      rw [hf] at hu
      exact hfound _ hf hu
    · have hf : s.walkFinds w = none := by
        simp only [State.walkFinds]
        rw [if_neg (by rwa [Bool.and_eq_true]), if_neg (by rw [hv]; decide)]
      have hu := State.walk_of_entries s w hw hl hk
      rw [hf] at hu
      rw [show u = _ from hu]
      exact ⟨State.mem_setWalk_of_mem _ hmem rfl, rfl, rfl, rfl⟩
  · intro s w port hw hheld hsup
    have hmem : w ∈ s.land.walks := List.mem_of_find?_eq_some hw
    have hexec := exec_translationMiss s w hw hheld
    refine ⟨fun hopen hnow => ?_, fun m hopen => ?_, fun hopen hnow => ?_⟩
    · have hsup' : ∀ n, (s.openEntry w n).supOf w.pol = some port := fun _ => hsup
      rw [hnow, State.missArrives_opens s w hopen, State.raiseSup_of_supOf (hsup' _)] at hexec
      exact completes_of_exec hexec ⟨_, _, rfl, State.mem_setWalk_of_mem _ hmem rfl, rfl, rfl, rfl, slice_missDetail ..⟩
    · have hsup' : ∀ f, ((s.setWalk w.id f).updLandRegs port fun r => { r with joins := satAdd 0xFFFF r.joins 1 }).supOf w.pol = some port :=
        fun _ => hsup
      rw [State.missArrives_joins s w _ m hopen, State.joinMiss_of_supOf _ hsup, State.raiseSup_of_supOf (hsup' _)] at hexec
      exact completes_of_exec hexec ⟨rfl, State.mem_setWalk_of_mem _ hmem rfl,
        congrArg LandRegs.joins (State.landRegs_updLandRegs ..), _, rfl, rfl, rfl⟩
    · rw [hnow, State.missArrives_waits s w hopen] at hexec
      exact completes_of_exec hexec ⟨rfl, rfl, rfl⟩
  · intro s w hw
    have hmem : w ∈ s.land.walks := List.mem_of_find?_eq_some hw
    have hexec : exec .missEntryFreed s = .next (s.missArrives w true) := by
      show execMissEntryFreed s = _
      simp only [execMissEntryFreed, hw]
    refine ⟨fun hopen => ?_, fun m hopen => ?_⟩
    · rw [State.missArrives_opens s w hopen] at hexec
      refine completes_of_exec hexec ⟨newSerial s.land.misses 257 s.land.serial, ?_, ?_, State.raiseSup_mem ..⟩
      · rw [State.raiseSup_land]; rfl
      · rw [State.raiseSup_land]; exact State.mem_setWalk_of_mem _ hmem rfl
    · rw [State.missArrives_joins s w true m hopen] at hexec
      refine completes_of_exec hexec ⟨?_, ?_⟩
      · rw [State.raiseSup_land, State.joinMiss_misses]
      · rw [State.raiseSup_land, State.joinMiss_walks]; exact State.mem_setWalk_of_mem _ hmem rfl
  · intro s k w hw
    have hexec : exec (.walkerFreed k) s = .next (s.setWalk w.id fun w => { w with st := .walking }) := by
      show execWalkerFreed k s = _
      simp only [execWalkerFreed, hw]
    exact completes_of_exec hexec ⟨State.mem_setWalk_of_mem _ (List.mem_of_find?_eq_some hw) rfl, rfl, List.length_map ..⟩
  · intro e va
    exact ⟨fun h => by rw [entryTarget_eq, if_neg (by rw [h]; decide)], fun h => by rw [entryTarget_eq, if_pos h]⟩

/-- Settles O47: an edit is its checks and one entry; a resume or an abort closes a miss, walk by walk. -/
theorem editsAndResumesAct : Obligations.EditsAndResumesAct := by
  unfold Obligations.EditsAndResumesAct
  refine ⟨?_, ?_, ?_, ?_, ?_, ?_, ?_, ?_, ?_⟩
  · intro s a port h hbit hb
    have hexec := exec_landEdit s a port h
    rw [State.landCtlWrite, if_pos hbit] at hexec
    refine ⟨fun hst => ?_, fun hst => ?_⟩
    · rw [State.landGo_of_refused s port hb hst] at hexec
      exact completes_of_exec hexec ⟨rfl, rfl, rfl, State.landRegs_updLandRegs ..⟩
    · rw [State.landGo_of_accepted s port hb hst] at hexec
      refine completes_of_exec hexec ⟨?_, fun i hi => ?_, ?_, rfl, rfl, fun c e he => State.not_cached_setEntry _ _ _ c e he⟩
      · exact (State.landEntry_setEntry ..).trans (if_pos rfl)
      · exact (State.landEntry_setEntry ..).trans (if_neg hi)
      · rw [State.landRegs_updLandRegs]
  · intro s a port h hb
    rw [exec_landEdit s a port h, State.landCtlWrite, State.landGo]
    simp only [hb, if_true, ite_self]
  · exact fun s port i v => ⟨State.editStatus_of_outside s port i v, State.of_editStatus_zero s port i v⟩
  · intro s port hb hp
    refine completes_of_exec (t := s.editDone port.val) ?_ ⟨?_, ?_, rfl, rfl⟩
    · show execLandEditComplete port s = _
      simp only [execLandEditComplete, hb, hp, Bool.not_false, Bool.and_self, if_true]
    · rw [State.editDone, State.landRegs_updLandRegs]
    · rw [State.editDone, State.landRegs_updLandRegs]
  · intro s port h
    show execLandEditComplete port s = _
    rcases h with h | h <;> simp [execLandEditComplete, h]
  · intro s a port h hhits hnone hbit
    have hexec := exec_landResume s a port h
    rw [hbit, if_neg Bool.false_ne_true, State.landResumeWrite_of_hits _ _ _ hhits, State.resume_of_none _ _ _ _ hnone] at hexec
    refine completes_of_exec hexec ⟨?_, rfl, rfl, rfl⟩
    rw [State.landRegs_updLandRegs]
  · intro s a port m h hhits hsome
    refine ⟨fun hbit => ?_, fun hbit => ?_⟩
    · have hexec := exec_landResume s a port h
      rw [hbit, if_neg Bool.false_ne_true, State.landResumeWrite_of_hits _ _ _ hhits, hbit, State.resume_of_some _ _ _ _ hsome] at hexec
      refine completes_of_exec hexec ⟨?_, State.eq_of_sansLand ?_, fun w hw hst => State.walkGoesOn_closeMiss hw hst⟩
      · exact State.closeMiss_keeps_proj (fun s => s.land.misses) s m _ (fun s w => s.walkAgain_misses w) (fun s w => s.walkAgain_misses w)
      · exact State.closeMiss_keeps_proj State.sansLand s m _ (fun s w => s.walkAgain_sansLand w) (fun s w => s.walkAgain_sansLand w)
    · have hu : s.landResumeWrite port a = (s.closeMiss m State.abortWalk).updLandRegs port fun r => { r with aborts := satAdd 0xFFFF r.aborts 1 } := by
        rw [State.landResumeWrite_of_hits _ _ _ hhits, hbit, State.abort_of_some _ _ _ _ hsome]
      refine ⟨by rw [exec_landAbort s a port h, if_pos hbit], ?_, ?_, fun w hw hst huniq => ?_⟩
      · rw [hu]
        exact State.closeMiss_keeps_proj (fun s => s.land.misses) s m State.abortWalk (fun s w => rfl) (fun s w => s.walkAgain_misses w)
      · rw [hu, State.landRegs_updLandRegs]
        exact congrArg (fun r : SMap LandRegs => satAdd 0xFFFF (r.get {} port).aborts 1)
          (State.closeMiss_keeps_proj (fun s => s.land.regs) s m State.abortWalk (fun s w => rfl) (fun s w => s.walkAgain_regs w))
      · rw [hu]
        exact State.walkAborted_closeMiss hw hst huniq
  · intro s a port h
    exact ⟨fun hb => by rw [exec_landResume s a port h, if_pos hb], fun hb => by rw [exec_landAbort s a port h, hb]; rfl⟩
  · intro s a port h hb
    have hexec := exec_landHwinLock s a port h hb
    have hregs : (s.landHwinWrite port a).landRegs port = if (s.landRegs port).lock then s.landRegs port else
        { s.landRegs port with hwin := 2 ^ 21 * a.fld 21 43 ((s.landRegs port).hwin / 2 ^ 21), lock := a.bit 0 } :=
      State.landRegs_updLandRegs ..
    refine ⟨fun hl => completes_of_exec hexec ⟨?_, rfl⟩, fun hl => completes_of_exec hexec ?_⟩
    · rw [hregs, if_pos hl]
    · rw [hregs, hl, hb]
      exact ⟨rfl, rfl, fun h8 _ => congrArg (2 ^ 21 * ·) (RegAcc.fld_whole a _ _ _ h8), rfl⟩

end Sys2Proof.Machine
end

section
/-! SUPPORT. What an answer on its way to whoever waits for it does not touch, and what the meanings of a stack do (O45). -/

namespace Sys2Proof.Machine

open Sys2Proof

/-! ## Answers -/

/-- The state without what an answer changes at whoever waits for it: that of `State.solid`, and the polders, the Hands, the trackers
and the requests on their way. -/
def State.still (s : State) : State := { s.solid with pols := [], hands := [], keels := [], reqs := [] }

theorem State.still_of_solid {s t : State} (h : t.solid = s.solid) : t.still = s.still :=
  congrArg (fun u : State => { u with pols := [], hands := [], keels := [], reqs := [] }) h

section
variable {s t : State} (h : t.still = s.still)
include h

theorem State.mem_of_still : t.mem = s.mem := (congrArg State.mem h : t.still.mem = s.still.mem)
theorem State.marks_of_still : t.marks = s.marks := (congrArg State.marks h : t.still.marks = s.still.marks)
theorem State.gran_of_still : t.gran = s.gran := (congrArg State.gran h : t.still.gran = s.still.gran)
theorem State.bins_of_still : t.bins = s.bins := (congrArg State.bins h : t.still.bins = s.still.bins)
theorem State.net_of_still : t.net = s.net := (congrArg State.net h : t.still.net = s.still.net)
theorem State.txns_of_still : t.txns = s.txns := (congrArg State.txns h : t.still.txns = s.still.txns)
theorem State.shadow_of_still : t.shadow = s.shadow := (congrArg State.shadow h : t.still.shadow = s.still.shadow)
theorem State.hbmStacks_of_still : t.hbmStacks = s.hbmStacks := (congrArg State.hbmStacks h : t.still.hbmStacks = s.still.hbmStacks)

end

@[simp] theorem State.updPol_still (s : State) (p : Nat) (f : Polder → Polder) : (s.updPol p f).still = s.still := rfl
@[simp] theorem State.updRun_still (s : State) (p seq : Nat) (f : Run → Run) : (s.updRun p seq f).still = s.still := rfl
@[simp] theorem State.updHand_still (s : State) (h : Nat) (f : Hand → Hand) : (s.updHand h f).still = s.still := rfl
@[simp] theorem State.updKeel_still (s : State) (k : Nat) (f : KeelSt → KeelSt) : (s.updKeel k f).still = s.still := rfl
@[simp] theorem State.freeTracker_still (s : State) (k p who : Nat) : (s.freeTracker k p who).still = s.still := rfl
@[simp] theorem State.takeTracker_still (s : State) (k p who : Nat) : (s.takeTracker k p who).still = s.still := rfl
@[simp] theorem State.raiseOwn_still (s : State) (code : Code) (source p : Nat) (detail : List Byte) :
    (s.raiseOwn code source p detail).still = s.still := rfl
@[simp] theorem State.updPort_still (s : State) (n : Nat) (f : HostPort → HostPort) : (s.updPort n f).still = s.still := rfl

@[simp] theorem State.countDead_still (s : State) (p : Nat) (dead : Bool) : (s.countDead p dead).still = s.still := by
  unfold State.countDead
  split <;> rfl

@[simp] theorem State.sendTxn_still (s : State) (n p cls : Nat) (t : Txn) : (s.sendTxn n p cls t).still = s.still :=
  State.still_of_solid (s.sendTxn_solid n p cls t)

@[simp] theorem State.late_still (s : State) (p : Nat) (orphan : Bool) : (s.late p orphan).still = s.still := by
  unfold State.late
  extract_lets s' q
  have h' : s'.still = s.still := State.updPol_still ..
  split
  · rw [State.updPol_still, State.raiseOwn_still, h']
  · exact h'

@[simp] theorem State.complete_solid (s : State) (port fn addr : Nat) (data : List Byte) (ep : Bool) :
    (s.complete port fn addr data ep).solid = s.solid := by
  unfold State.complete
  exact foldl_keeps_proj State.solid _ (fun s d => s.toHost_solid port (.completion fn d 0 ep)) _ _

@[simp] theorem State.hostGot_still (s : State) (port id p : Nat) (bs : Bytes) (bad dead : Bool) :
    (s.hostGot port id p bs bad dead).still = s.still := by
  unfold State.hostGot
  split
  · rfl
  extract_lets a' s1 s2
  split
  · rfl
  rw [State.still_of_solid (State.complete_solid ..), State.countDead_still]
  simp only [s2]
  split <;> rfl

@[simp] theorem State.hostAnswer_still (s : State) (port id : Nat) (r : HomeReq) (bs : Bytes) (poison : BitVec 8) :
    (s.hostAnswer port id r bs poison).still = s.still := State.hostGot_still ..

@[simp] theorem State.deliver_still (s : State) (r : HomeReq) (bs : Bytes) (poison : BitVec 8) : (s.deliver r bs poison).still = s.still := by
  have hfree : (if r.tracked then s.freeTracker (homeOf r.line) r.pol otherAgent else s).still = s.still := by split <;> rfl
  unfold State.deliver
  extract_lets s' isRead
  change s'.still = s.still at hfree
  rw [← hfree]
  split
  · split <;> simp
  · split <;> simp
  · split
    · exact State.sendTxn_still ..
    · split <;> rfl
  · rfl
  · rfl
  · exact State.hostAnswer_still ..
  · rfl

@[simp] theorem State.answer_still (s : State) (r : HomeReq) (bs : Bytes) (poison : BitVec 8) : (s.answer r bs poison).still = s.still := by
  simp only [State.answer]
  rw [State.deliver_still]
  split <;> split <;> rfl

@[simp] theorem State.freeLine_still (s : State) : s.freeLine.2.still = s.still := rfl

@[simp] theorem State.answerFenced_still (s : State) (r : HomeReq) : (s.answerFenced r).still = s.still := by
  simp only [State.answerFenced]
  rw [State.deliver_still]
  rfl

@[simp] theorem State.answerFencedStack_still (s : State) (r : HomeReq) : (s.answerFencedStack r).still = s.still := by
  unfold State.answerFencedStack
  split
  · exact (State.answer_still ..).trans s.freeLine_still
  · exact State.answer_still ..
  · exact State.answerFenced_still ..

/-! ## New levels -/

/-- The state without what new levels change: the dies, the power and the status registers. -/
def State.sansPower (s : State) : State := { s with mills := [], pwr := {}, pmbus := {} }

@[simp] theorem State.updMill_sansPower (s : State) (d : Nat) (f : MillSt → MillSt) : (s.updMill d f).sansPower = s.sansPower := rfl
@[simp] theorem State.updDiePower_sansPower (s : State) (d : Nat) (f : DiePower → DiePower) :
    (s.updDiePower d f).sansPower = s.sansPower := rfl
@[simp] theorem State.latchStatus_sansPower (s : State) : s.latchStatus.sansPower = s.sansPower := rfl

@[simp] theorem State.watchSteps_sansPower (s : State) : s.watchSteps.sansPower = s.sansPower := by
  unfold State.watchSteps
  exact foldl_keeps_proj State.sansPower _ (fun s d => State.updDiePower_sansPower s d _) _ _

@[simp] theorem State.reweir_sansPower (s : State) : s.reweir.sansPower = s.sansPower := by
  unfold State.reweir
  rw [State.latchStatus_sansPower, State.watchSteps_sansPower]
  exact foldl_keeps_proj State.sansPower _ (fun t d => State.updMill_sansPower t d _) _ _

section
variable {s t : State} (h : t.sansPower = s.sansPower)
include h

theorem State.hbmStacks_of_sansPower : t.hbmStacks = s.hbmStacks := (congrArg State.hbmStacks h : t.sansPower.hbmStacks = s.sansPower.hbmStacks)
theorem State.crier_of_sansPower : t.crier = s.crier := (congrArg State.crier h : t.sansPower.crier = s.sansPower.crier)
theorem State.mem_of_sansPower : t.mem = s.mem := (congrArg State.mem h : t.sansPower.mem = s.sansPower.mem)

end

@[simp] theorem State.stack_reweir (s : State) (i : Nat) : s.reweir.stack i = s.stack i := by
  rw [State.stack, State.stack, State.hbmStacks_of_sansPower s.reweir_sansPower]

@[simp] theorem State.crier_reweir (s : State) : s.reweir.crier = s.crier := State.crier_of_sansPower s.reweir_sansPower
@[simp] theorem State.mem_reweir (s : State) : s.reweir.mem = s.mem := State.mem_of_sansPower s.reweir_sansPower

/-! ## Lines, refreshes and readings of a stack -/

theorem exec_hbmRead (s : State) (k : Keel) (line q n : Nat) (h : s.hbmLine k.val line = some q) (hn : n = 240 + 48 * k.val + q) :
    exec (.hbmRead k line) s = .next (
      if quayDepth n < (s.quay n).entries.length + 2 || !(s.quay n).waiting.isEmpty then s
      else (s.pushQuay n (.bytes (memRead s.mem (line * 1024) 512))).pushQuay n (.bytes (memRead s.mem (line * 1024 + 512) 512))) := by
  subst hn
  show execHbmRead k line s = _
  simp only [execHbmRead, h]

theorem State.quay_pushQuay (s : State) (n : Nat) (e : QEntry) : (s.pushQuay n e).quay n = QuaySt.push (quayDepth n) e (s.quay n) :=
  SMap.get_upd_same _ _ _ _

theorem State.quay_pushQuay_other (s : State) (n j : Nat) (e : QEntry) (h : j ≠ n) : (s.pushQuay n e).quay j = s.quay j :=
  SMap.get_upd_other _ _ _ _ _ h

theorem State.updStack_eq_of {s u : State} (i : Nat) (f : Stack → Stack) (h : u = { s with pols := u.pols }) :
    u.updStack i f = { s with hbmStacks := (u.updStack i f).hbmStacks, pols := (u.updStack i f).pols } :=
  congrArg (fun x : State => { x with hbmStacks := (u.updStack i f).hbmStacks }) h

theorem QuaySt.push_of_room (depth : Nat) (e : QEntry) (q : QuaySt) (hl : q.entries.length < depth) (hw : q.waiting = []) :
    q.push depth e = { q with entries := q.entries ++ [e] } := by
  simp only [QuaySt.push, hl, hw, decide_true, List.isEmpty_nil, Bool.and_self, if_true]

theorem exec_hbmWrite (s : State) (k : Keel) (line q n : Nat) (a b : List Byte) (r : List QEntry) (h : s.hbmLine k.val line = some q)
    (hn : n = 48 + 48 * k.val + q) (he : (s.quay n).entries = .bytes a :: .bytes b :: r) :
    exec (.hbmWrite k line) s = .next (
      { (s.updQuay n QuaySt.pop).updQuay n QuaySt.pop with
        mem := memWrite s.mem (line * 1024) (slice a 0 512 ++ slice b 0 512) }.updMark line fun m => { m with dead := 0, poison := 0 }) := by
  subst hn
  show execHbmWrite k line s = _
  simp only [execHbmWrite, h, he]
  rfl

/-- Two entries enter a quay that has room for both. -/
theorem State.quay_push_push (s : State) (n : Nat) (a b : QEntry) (hroom : (s.quay n).entries.length + 2 ≤ quayDepth n)
    (hw : (s.quay n).waiting = []) : (((s.pushQuay n a).pushQuay n b).quay n).entries = (s.quay n).entries ++ [a, b] := by
  have h1 : (s.pushQuay n a).quay n = { s.quay n with entries := (s.quay n).entries ++ [a] } := by
    rw [State.quay_pushQuay, QuaySt.push_of_room _ _ _ (by omega) hw]
  have hl : ((s.pushQuay n a).quay n).entries.length < quayDepth n := by
    rw [h1, List.length_append, List.length_singleton]; omega
  have hw1 : ((s.pushQuay n a).quay n).waiting = [] := by rw [h1]; exact hw
  rw [State.quay_pushQuay, QuaySt.push_of_room _ _ _ hl hw1, h1, List.append_assoc]
  rfl

/-- Two entries leave a quay in which no writer is stalled. -/
theorem State.quay_pop_pop {s : State} {n : Nat} {a b : QEntry} {r : List QEntry} (he : (s.quay n).entries = a :: b :: r)
    (hw : (s.quay n).waiting = []) : (((s.updQuay n QuaySt.pop).updQuay n QuaySt.pop).quay n).entries = r := by
  rw [State.quay_updQuay, State.quay_updQuay]
  simp only [QuaySt.pop, he, hw]

theorem memByte_memWrite_inside (bs : List Byte) (m : List Host.Cell) (a i : Nat) (h : i < bs.length) :
    memByte (memWrite m a bs) (a + i) = bs.getD i 0 := by
  rw [memByte_memWrite, if_pos (Nat.le_add_right a i), Nat.add_sub_cancel_left]
  simp only [List.getD_eq_getElem _ _ h]

theorem memByte_memWrite_outside (bs : List Byte) (m : List Host.Cell) (a x : Nat) (h : x < a ∨ a + bs.length ≤ x) :
    memByte (memWrite m a bs) x = memByte m x := by
  rw [memByte_memWrite]
  split
  · exact List.getD_eq_default _ _ (by omega)
  · rfl

theorem slice_whole (bs : List Byte) (n : Nat) (h : bs.length = n) : slice bs 0 n = bs := by
  rw [slice_eq bs 0 n (by omega), List.drop_zero, List.take_of_length_le (by omega)]

/-- The manifests that a refresh of a channel group delays. -/
def State.refreshHits (s : State) (group : Nat) (r : Run) : Bool :=
  match s.schedule r.m.schedule with
  | some c => c.groups.contains group
  | none => false

/-- A refresh above the normal rate delays the running manifests of every polder that holds the group. -/
def State.refreshDelays (s : State) (k q : Nat) : State :=
  (List.range 64).foldl (fun t p => if t.holdsGroup p k q then t.delayRuns p (s.refreshHits (48 * k + q)) 80 .refresh else t) s

theorem exec_hbmRefresh (s : State) (i : StackId) (pc : Fin 64) (hup : s.stackUp i.val = true)
    (hout : (s.stack i.val).out.getLsbD pc.val = false) :
    exec (.hbmRefresh i pc) s = .next ((if (s.stack i.val).pcRate.get 0 pc.val = 0 then s
      else s.refreshDelays (i.val / 6) (8 * (i.val % 6) + pc.val / 8)).updStack i.val fun t =>
        { t with refreshes := t.refreshes + 1, pcRate := t.pcRate.set 0 pc.val t.rate }) := by
  show execHbmRefresh i pc s = _
  simp only [execHbmRefresh, hup, hout, Bool.not_true, Bool.or_self, Bool.false_eq_true, if_false]
  rfl

/-- A fold over different elements, of which one brings `Q` to `P` and the others keep both. -/
theorem foldl_nodup_reaches {σ α : Type} (step : σ → α → σ) (Q P : σ → Prop) (a : α) (as : List α) (hnd : as.Nodup) (ha : a ∈ as)
    (hQ : ∀ d, ∀ b, b ≠ a → Q d → Q (step d b)) (hself : ∀ d, Q d → P (step d a)) (hP : ∀ d, ∀ b, b ≠ a → P d → P (step d b))
    (c : σ) (hc : Q c) : P (as.foldl step c) := by
  obtain ⟨l, r, rfl⟩ := List.append_of_mem ha
  have hl : ∀ b ∈ l, b ≠ a := by
    rintro b hb rfl
    exact (List.nodup_append.1 hnd).2.2 b hb b List.mem_cons_self rfl
  have hr : ∀ b ∈ r, b ≠ a := by
    rintro b hb rfl
    exact (List.nodup_cons.1 (List.nodup_append.1 hnd).2.1).1 hb
  rw [List.foldl_append, List.foldl_cons]
  exact foldl_keeps step P r (fun d b hb => hP d b (hr b hb)) _
    (hself _ (foldl_keeps step Q l (fun d b hb => hQ d b (hl b hb)) c hc))

theorem State.pol_delayRuns_other (s : State) (p q : Nat) (f : Run → Bool) (n : Nat) (k : Cause) (h : q ≠ p) :
    (s.delayRuns p f n k).pol q = s.pol q := State.pol_updPol_other _ _ _ _ h

theorem State.delayRuns_eq (s : State) (p : Nat) (f : Run → Bool) (n : Nat) (k : Cause) :
    s.delayRuns p f n k = { s with pols := (s.delayRuns p f n k).pols } := rfl

theorem State.mem_delayRuns {s : State} {p seq : Nat} {r : Run} (f : Run → Bool) (n : Nat) (k : Cause) (h : (seq, r) ∈ (s.pol p).running)
    (hhard : r.m.hard = true) (hf : f r = true) : (seq, r.delayed s.clock n k) ∈ ((s.delayRuns p f n k).pol p).running := by
  rw [State.delayRuns, State.pol_updPol]
  refine List.mem_map.2 ⟨_, h, ?_⟩
  rw [hhard, hf]
  rfl

theorem State.refreshDelays_eq (s : State) (k q : Nat) : s.refreshDelays k q = { s with pols := (s.refreshDelays k q).pols } := by
  refine foldl_keeps _ (fun t => t = { s with pols := t.pols }) _ (fun t p _ ht => ?_) s rfl
  split
  · rw [ht]; rfl
  · exact ht

theorem State.mem_refreshDelays (s : State) (k q p seq : Nat) (r : Run) (hp : p < 64) (hr : (seq, r) ∈ (s.pol p).running)
    (hhard : r.m.hard = true) (hg : s.holdsGroup p k q = true) (hhit : s.refreshHits (48 * k + q) r = true) :
    (seq, r.delayed s.clock 80 .refresh) ∈ ((s.refreshDelays k q).pol p).running := by
  refine foldl_nodup_reaches _ (fun t => t = { s with pols := t.pols } ∧ (seq, r) ∈ (t.pol p).running)
    (fun t => (seq, r.delayed s.clock 80 .refresh) ∈ (t.pol p).running) p _ List.nodup_range (List.mem_range.2 hp) ?_ ?_ ?_ s ⟨rfl, hr⟩
  · rintro t b hb ⟨ht, hrun⟩
    split
    · exact ⟨by rw [ht]; rfl, by rwa [State.pol_delayRuns_other _ _ _ _ _ _ (Ne.symm hb)]⟩
    · exact ⟨ht, hrun⟩
  · rintro t ⟨ht, hrun⟩
    have hg' : t.holdsGroup p k q = true := by rw [ht]; exact hg
    have hclk : t.clock = s.clock := by rw [ht]
    rw [if_pos hg', ← hclk]
    exact State.mem_delayRuns _ _ _ hrun hhard hhit
  · intro t b hb hrun
    split
    · rwa [State.pol_delayRuns_other _ _ _ _ _ _ (Ne.symm hb)]
    · exact hrun

/-! ### Readings -/

/-- A stack at a reading, row by row (R184, R379). -/
def State.stackRead (s : State) (t : Stack) (c : Nat) : Stack :=
  let since := fun (lim : Nat) (old : Option Nat) => if lim < c then none else if old.isSome then old else some s.clock
  let entering := t.rate < 2 && 95 < c
  { t with
    temp := c, peak := max t.peak c, rate := max t.rate (refreshRow c), hotSeen := t.hotSeen || entering
    ceiling := if entering || t.ceiling < 64 then stackCeiling c else 64
    lowSince := since 82 t.lowSince, coolSince := since 92 t.coolSince }

/-- The state after a reading, before it fences the stack. -/
def State.readingTaken (s : State) (i c : Nat) : State :=
  let u := s.updStack i fun t => s.stackRead t c
  (if (s.stack i).rate < 2 && 95 < c then u.raiseBoth .stackHot (srcStack i) (leBytes 1 i ++ leBytes 1 c) else u).reweir

theorem State.stackReading_eq (s : State) (i c : Nat) :
    s.stackReading i c = if 105 ≤ c then (s.readingTaken i c).fenceStack i else s.readingTaken i c := by
  have hu : (s.updStack i fun t => s.stackRead t c) = s.updStack i fun t => { t with
      temp := c, peak := max t.peak c, rate := max t.rate (refreshRow c), hotSeen := t.hotSeen || ((s.stack i).rate < 2 && 95 < c)
      ceiling := if ((s.stack i).rate < 2 && 95 < c) || (s.stack i).ceiling < 64 then stackCeiling c else 64
      lowSince := if 82 < c then none else if t.lowSince.isSome then t.lowSince else some s.clock
      coolSince := if 92 < c then none else if t.coolSince.isSome then t.coolSince else some s.clock } := rfl
  simp only [State.stackReading, State.readingTaken, hu]

theorem State.stack_readingTaken (s : State) (i c j : Nat) : (s.readingTaken i c).stack j = (s.updStack i fun t => s.stackRead t c).stack j := by
  simp only [State.readingTaken]
  rw [State.stack_reweir]
  split <;> rfl

theorem State.mem_readingTaken (s : State) (i c : Nat) : (s.readingTaken i c).mem = s.mem := by
  simp only [State.readingTaken]
  rw [State.mem_reweir]
  split <;> rfl

theorem State.crier_readingTaken (s : State) (i c : Nat) : (s.readingTaken i c).crier =
    if (s.stack i).rate < 2 && 95 < c then (s.raiseBoth .stackHot (srcStack i) (leBytes 1 i ++ leBytes 1 c)).crier else s.crier := by
  simp only [State.readingTaken]
  rw [State.crier_reweir]
  split <;> rfl

theorem exec_stackTempRead_of_up (s : State) (i : StackId) (c : Nat) (h : s.stackUp i.val = true) :
    exec (.stackTempRead i c) s = .next (s.stackReading i.val (min 255 c)) := by
  show execStackTempRead i c s = _
  simp only [execStackTempRead, h, if_true]

/-! ### A stack that is fenced -/

theorem State.stack_of_still {s t : State} (h : t.still = s.still) (i : Nat) : t.stack i = s.stack i := by
  rw [State.stack, State.stack, State.hbmStacks_of_still h]

theorem State.flushQuays_still (s : State) (ns : List Nat) : (ns.foldl (fun s n => s.updQuay n QuaySt.flush) s).still = s.still :=
  foldl_keeps_proj State.still (fun s n => s.updQuay n QuaySt.flush) (fun _ _ => rfl) ns s

theorem State.answerAllFenced_still (s : State) (rs : List HomeReq) : (rs.foldl State.answerFenced s).still = s.still :=
  foldl_keeps_proj State.still State.answerFenced (fun s r => s.answerFenced_still r) rs s

theorem State.flushStack_still (s : State) (i : Nat) : (s.flushStack i).still = s.still := by
  simp only [State.flushStack]
  rw [State.flushQuays_still, State.answerAllFenced_still]
  rfl

theorem State.flushStack_stack (s : State) (i j : Nat) : (s.flushStack i).stack j = s.stack j :=
  State.stack_of_still (s.flushStack_still i) j

@[simp] theorem State.raiseWide_solid (s : State) (code : Code) (source : Nat) (users : List Nat) (detail : List Byte) :
    (s.raiseWide code source users detail).solid = s.solid :=
  foldl_keeps_proj State.solid _ (fun s p => s.raiseOwn_solid code source p detail) _ _

@[simp] theorem State.updLag_still (s : State) (p seq : Nat) : (s.updLag p seq).still = s.still := by
  unfold State.updLag
  split <;> rfl

@[simp] theorem State.missDeadline_still (s : State) (p seq : Nat) : (s.missDeadline p seq).still = s.still := by
  unfold State.missDeadline
  extract_lets r
  split <;> rfl

@[simp] theorem State.sendNotices_still (s : State) (p seq reason : Nat) : (s.sendNotices p seq reason).still = s.still := by
  unfold State.sendNotices
  extract_lets r
  split
  · rfl
  split
  · rfl
  refine foldl_keeps_proj State.still _ (fun s m => ?_) _ _
  split <;> rfl

theorem State.fenced_fenceStack (s : State) (i : Nat) : ((s.fenceStack i).stack i).fenced = true := by
  unfold State.fenceStack
  split
  · assumption
  extract_lets u users v
  have hv : v.stack i = { s.stack i with fenced := true, rate := 3 } := by
    refine (State.stack_of_still (State.still_of_solid (State.raiseWide_solid ..)) i).trans ?_
    refine (State.flushStack_stack ..).trans ?_
    rw [State.stack_updStack]
    rfl
  refine Eq.trans (congrArg Stack.fenced (State.stack_of_still ?_ i)) (congrArg Stack.fenced hv)
  refine foldl_keeps_proj State.still _ (fun s p => foldl_keeps_proj State.still _ (fun s e => ?_) _ _) _ _
  split
  · split
    · rw [State.sendNotices_still, State.missDeadline_still, State.updLag_still]
    · rfl
  · rfl

/-- Settles O45: the meanings of a stack, each by the equation of its command. -/
theorem stacksServeAndRefresh : Obligations.StacksServeAndRefresh := by
  unfold Obligations.StacksServeAndRefresh
  refine ⟨?_, ?_, ?_, ?_, ?_, ?_, ?_, ?_, ?_⟩
  · intro s k line q h n hroom hwait
    have hexec := exec_hbmRead s k line q n h rfl
    clear_value n
    rw [if_neg (by simp only [hwait, List.isEmpty_nil, Bool.not_true, Bool.or_false, decide_eq_true_eq]; omega)] at hexec
    refine completes_of_exec hexec ⟨rfl, fun j hj => ?_, ?_⟩
    · rw [State.quay_pushQuay_other _ _ _ _ hj, State.quay_pushQuay_other _ _ _ _ hj]
    · exact State.quay_push_push s n _ _ hroom hwait
  · intro s k line q h hfull
    rw [exec_hbmRead s k line q _ h rfl, if_pos (by simp only [hfull, decide_true, Bool.true_or])]
  · intro s k line q a b r h n he ha hb hwait
    have hexec := exec_hbmWrite s k line q n a b r h rfl he
    clear_value n
    have hlen : (a ++ b).length = 1024 := by rw [List.length_append, ha, hb]
    rw [slice_whole a 512 ha, slice_whole b 512 hb] at hexec
    refine completes_of_exec hexec ⟨State.quay_pop_pop he hwait, ?_, ?_, fun i hi => ?_, fun x hx => ?_, rfl⟩
    · rw [State.mark_updMark]
    · rw [State.mark_updMark]
    · exact memByte_memWrite_inside _ _ _ _ (by omega)
    · exact memByte_memWrite_outside _ _ _ _ (by omega)
  · intro s i pc hup hout
    obtain ⟨u, hu⟩ : ∃ u, u = if (s.stack i.val).pcRate.get 0 pc.val = 0 then s
      else s.refreshDelays (i.val / 6) (8 * (i.val % 6) + pc.val / 8) := ⟨_, rfl⟩
    have hexec := exec_hbmRefresh s i pc hup hout
    rw [← hu] at hexec
    have hsame : u = { s with pols := u.pols } := by
      rw [hu]
      split
      · rfl
      · exact State.refreshDelays_eq ..
    have hstack : ∀ j, u.stack j = s.stack j := fun j => by rw [hsame]; rfl
    refine completes_of_exec hexec ⟨?_, ?_, fun j hj => ?_, ?_, fun h0 => ?_, fun h1 p seq r c hp hr hhard hg hc hmem => ?_⟩
    · rw [State.stack_updStack, hstack]
    · rw [State.stack_updStack, hstack]
      exact SMap.get_set_same ..
    · rw [State.stack_updStack_other _ _ _ _ hj, hstack]
    · exact State.updStack_eq_of _ _ hsame
    · rw [State.updStack_pols, hu, if_pos h0]
    · rw [State.pol_updStack, hu, if_neg h1]
      refine State.mem_refreshDelays s _ _ p seq r hp hr hhard hg ?_
      simp only [State.refreshHits, hc, List.contains_iff_mem]
      exact hmem
  · intro s i c hup hc x entering
    have hexec := exec_stackTempRead_of_up s i c hup
    rw [State.stackReading_eq, if_neg (by omega), Nat.min_eq_right (by omega)] at hexec
    have hstack : (s.readingTaken i.val c).stack i.val = s.stackRead x c := by rw [State.stack_readingTaken, State.stack_updStack]
    refine completes_of_exec hexec ⟨?_, ?_, ?_, ?_, ?_, ?_, ?_, fun j hj => ?_, fun hn => ?_, fun he => ?_⟩
    · rw [hstack]; rfl
    · rw [hstack]; rfl
    · rw [hstack]; rfl
    · rw [hstack, Bool.decide_and]; rfl
    · rw [hstack]; rfl
    · exact State.mem_readingTaken ..
    · rw [hstack]
      simp only [State.stackRead, stackCeiling, entering, Bool.or_eq_true, Bool.and_eq_true, decide_eq_true_eq]
    · rw [State.stack_readingTaken, State.stack_updStack_other _ _ _ _ hj]
    · rw [State.crier_readingTaken, if_neg (by rwa [Bool.and_eq_true, decide_eq_true_eq, decide_eq_true_eq])]
    · rw [State.crier_readingTaken, if_pos (by rwa [Bool.and_eq_true, decide_eq_true_eq, decide_eq_true_eq])]
      exact ⟨_, _, State.raiseBoth_band .., rfl, rfl, rfl, rfl⟩
  · intro s i c hup hc
    have hexec := exec_stackTempRead_of_up s i c hup
    rw [State.stackReading_eq, if_pos (by omega)] at hexec
    exact completes_of_exec hexec (State.fenced_fenceStack ..)
  · intro s i c hup ht
    refine completes_of_exec (t := s.updStack i.val fun t => { t with temp := min 255 c, peak := max t.peak (min 255 c) }) ?_
      ⟨rfl, State.stack_updStack ..⟩
    show execStackTempRead i c s = _
    simp only [execStackTempRead, hup, ht, Bool.false_eq_true, if_false, if_true]
  · intro s i a hup
    refine ⟨fun hr hs hle => ?_, fun hr hs hle => ?_⟩
    · refine completes_of_exec (t := s.updStack i.val fun t => { t with rate := 1 }) ?_ ⟨State.stack_updStack .., rfl⟩
      show execRefreshRateFallback i s = _
      simp [execRefreshRateFallback, hup, hr, hs, State.heldFor, State.passed, hle]
    · refine completes_of_exec (t := s.updStack i.val fun t => { t with rate := 0 }) ?_ ⟨State.stack_updStack .., rfl⟩
      show execRefreshRateFallback i s = _
      simp [execRefreshRateFallback, hup, hr, hs, State.heldFor, State.passed, hle]
  · intro s i a hc hs hle
    refine completes_of_exec (t := (s.updStack i.val fun t => { t with ceiling := 64 }).reweir) ?_ ⟨?_, fun j hj => ?_, State.mem_reweir ..⟩
    · show execStackCeilingRelease i s = _
      simp [execStackCeilingRelease, hc, hs, State.heldFor, State.passed, hle]
    · rw [State.stack_reweir, State.stack_updStack]
    · rw [State.stack_reweir, State.stack_updStack_other _ _ _ _ hj]

end Sys2Proof.Machine
end

section
/-! SUPPORT. Gatehouse registers: what a read clears, and what an access that reaches nothing leaves (O43). -/

namespace Sys2Proof.Machine

open Sys2Proof

/-! ## What the fields that a read clears leave alone -/

/-- Clearing a field touches neither memory nor the band of the Crier, nor the queue. -/
def RcField.tame (f : RcField) : Prop :=
  ∀ t : State, (f.clear t).mem = t.mem ∧ (f.clear t).crier.band = t.crier.band ∧ (f.clear t).pending = t.pending

def RegView.tame (v : RegView) : Prop := ∀ f ∈ v.rc, f.tame

theorem RegView.tame_ite {c : Prop} {_ : Decidable c} {a b : RegView} (ha : a.tame) (hb : b.tame) : (if c then a else b).tame := by
  split <;> assumption

theorem State.updBook_band (s : State) (p c : Nat) (f : Book → Book) : (s.updBook p c f).crier.band = s.crier.band := rfl

theorem State.regGh_tame (s : State) (src : Src) (off : Nat) : (s.regGh src off).tame := by
  simp only [State.regGh]
  repeat' apply RegView.tame_ite
  all_goals simp [RegView.tame, RcField.tame, State.updBook_band]

theorem State.regBoot_tame (s : State) (src : Src) (off : Nat) : (s.regBoot src off).tame := by
  simp only [State.regBoot]
  repeat' apply RegView.tame_ite
  any_goals split
  all_goals repeat' apply RegView.tame_ite
  all_goals simp [RegView.tame, RcField.tame, State.updBook_band]

theorem State.regAlm_tame (s : State) (src : Src) (off : Nat) : (s.regAlm src off).tame := by
  simp only [State.regAlm]
  repeat' apply RegView.tame_ite
  all_goals simp [RegView.tame, RcField.tame, State.updBook_band]

theorem State.regCrier_tame (s : State) (src : Src) (off : Nat) : (s.regCrier src off).tame := by
  simp only [State.regCrier]
  repeat' apply RegView.tame_ite
  any_goals split
  all_goals repeat' apply RegView.tame_ite
  all_goals simp [RegView.tame, RcField.tame, State.updBook_band]

theorem State.regPwr_tame (s : State) (src : Src) (off : Nat) : (s.regPwr src off).tame := by
  simp only [State.regPwr]
  repeat' apply RegView.tame_ite
  all_goals simp [RegView.tame, RcField.tame, State.updBook_band]

theorem State.regPol_tame (s : State) (off : Nat) : (s.regPol off).tame := by
  simp only [State.regPol]
  repeat' apply RegView.tame_ite
  any_goals split
  all_goals simp [RegView.tame, RcField.tame, State.updBook_band]

/-! The three blocks below match on an offset less their base: the base is named first, so that the kernel does not count
down to it. -/

theorem State.regLand_tame (s : State) (src : Src) (off : Nat) : (s.regLand src off).tame := by
  obtain ⟨base, hbase⟩ : ∃ n, n = 0x200000 := ⟨_, rfl⟩
  obtain ⟨mib, hmib⟩ : ∃ n, n = 2 ^ 21 := ⟨_, rfl⟩
  have h : @State.regLand = @State.regLand := rfl
  conv at h => rhs; delta State.regLand
  rw [← hbase, ← hmib] at h
  rw [h]; clear h; beta_reduce
  extract_lets
  split
  all_goals simp +zetaDelta [RegView.tame, RcField.tame]

theorem State.regCsw_tame (s : State) (src : Src) (off : Nat) : (s.regCsw src off).tame := by
  simp only [State.regCsw]
  repeat' apply RegView.tame_ite
  any_goals split
  all_goals repeat' apply RegView.tame_ite
  all_goals simp [RegView.tame, RcField.tame, State.updBook_band]

theorem State.regHbm_tame (s : State) (src : Src) (off : Nat) : (s.regHbm src off).tame := by
  simp only [State.regHbm]
  repeat' apply RegView.tame_ite
  all_goals simp [RegView.tame, RcField.tame, State.updBook_band]

theorem State.regZl_tame (s : State) (off : Nat) : (s.regZl off).tame := by
  obtain ⟨base, hbase⟩ : ∃ n, n = 0x1000000 := ⟨_, rfl⟩
  have h : @State.regZl = @State.regZl := rfl
  conv at h => rhs; delta State.regZl
  rw [← hbase] at h
  rw [h]; clear h; beta_reduce
  extract_lets
  repeat' apply RegView.tame_ite
  all_goals extract_lets
  any_goals split
  all_goals simp +zetaDelta [RegView.tame, RcField.tame]

theorem State.regMill_tame (s : State) (off : Nat) : (s.regMill off).tame := by
  obtain ⟨size, hsize⟩ : ∃ n, n = 0x200000 := ⟨_, rfl⟩
  obtain ⟨base, hbase⟩ : ∃ n, n = 0x2000000 := ⟨_, rfl⟩
  have h : @State.regMill = @State.regMill := rfl
  conv at h => rhs; delta State.regMill
  simp only [← hbase, ← hsize] at h
  rw [h]; clear h; beta_reduce
  split
  all_goals simp +zetaDelta [RegView.tame, RcField.tame]

theorem State.regSec_tame (s : State) (src : Src) (off : Nat) : (s.regSec src off).tame := by
  obtain ⟨base, hbase⟩ : ∃ n, n = 0x3000000 := ⟨_, rfl⟩
  have h : @State.regSec = @State.regSec := rfl
  conv at h => rhs; delta State.regSec
  rw [← hbase] at h
  rw [h]; clear h; beta_reduce
  have hnil : ∀ v, RegView.tame { value := v } := fun v f hf => absurd hf List.not_mem_nil
  extract_lets
  refine RegView.tame_ite (hnil _) ?_
  refine RegView.tame_ite (hnil _) ?_
  refine RegView.tame_ite (RegView.tame_ite (hnil _) (hnil _)) ?_
  refine RegView.tame_ite (hnil _) ?_
  exact RegView.tame_ite (hnil _) (hnil _)

theorem State.regView_tame (s : State) (src : Src) (off : Nat) : (s.regView src off).tame := by
  have hnil : ({} : RegView).tame := fun f hf => absurd hf List.not_mem_nil
  have h : @State.regView = @State.regView := rfl
  conv at h => rhs; delta State.regView
  rw [h]; clear h; beta_reduce
  refine RegView.tame_ite hnil ?_
  refine RegView.tame_ite (s.regGh_tame src off) ?_
  refine RegView.tame_ite (s.regBoot_tame src off) ?_
  refine RegView.tame_ite (s.regAlm_tame src off) ?_
  refine RegView.tame_ite (s.regCrier_tame src off) ?_
  refine RegView.tame_ite (s.regPwr_tame src off) ?_
  refine RegView.tame_ite hnil ?_
  refine RegView.tame_ite (s.regPol_tame off) ?_
  refine RegView.tame_ite (s.regLand_tame src off) ?_
  refine RegView.tame_ite (s.regCsw_tame src off) ?_
  refine RegView.tame_ite (s.regHbm_tame src off) ?_
  refine RegView.tame_ite (s.regZl_tame off) ?_
  exact RegView.tame_ite (s.regMill_tame off) (s.regSec_tame src off)

/-! ## Reads -/

/-- The fields of a list that a read covers, cleared one after another. -/
def State.clearCovered (s : State) (a : RegAcc) (fs : List RcField) : State :=
  fs.foldl (fun s f => if a.covers f.lo f.len then f.clear s else s) s

theorem State.clearCovered_tame (a : RegAcc) (fs : List RcField) (h : ∀ f ∈ fs, f.tame) (s : State) :
    (s.clearCovered a fs).mem = s.mem ∧ (s.clearCovered a fs).crier.band = s.crier.band ∧ (s.clearCovered a fs).pending = s.pending := by
  induction fs generalizing s with
  | nil => exact ⟨rfl, rfl, rfl⟩
  | cons f fs ih =>
    obtain ⟨hm, hb, hp⟩ := ih (fun g hg => h g (List.mem_cons_of_mem _ hg)) (if a.covers f.lo f.len then f.clear s else s)
    have hf := h f List.mem_cons_self s
    simp only [State.clearCovered, List.foldl_cons] at hm hb hp ⊢
    rw [hm, hb, hp]
    split
    · exact hf
    · exact ⟨rfl, rfl, rfl⟩

theorem State.readReg_fst (s : State) (src : Src) (off size half : Nat) :
    (s.readReg src off size half).1 = halfOf size half (s.regView src off).value := rfl

theorem State.readReg_snd (s : State) (src : Src) (off size half : Nat) (h : off ≠ offAlmNow) :
    (s.readReg src off size half).2 = s.clearCovered { src := src, size := size, half := half } (s.regView src off).rc := by
  simp only [State.readReg, State.clearCovered, h, false_and, decide_false, Bool.false_and, Bool.false_eq_true, if_false]

theorem State.readReg_tame (s : State) (src : Src) (off size half : Nat) :
    (s.readReg src off size half).2.mem = s.mem ∧ (s.readReg src off size half).2.crier.band = s.crier.band
      ∧ (s.readReg src off size half).2.pending = s.pending := by
  have h := State.clearCovered_tame { src := src, size := size, half := half } _ (s.regView_tame src off) s
  unfold State.readReg
  dsimp only
  split <;> exact h

/-- A function that is up, or the module's own view, reads a register of an access that R400 allows. -/
theorem exec_rcFieldRead (s : State) (src : Src) (off size : Nat)
    (hup : src = .dev 0 ∨ src = .dev 1 ∨ s.fnUp src.portOf src.fnOf = true) (hr : s.srcReaches src = true)
    (ha : accessOk off size = true) :
    exec (.rcFieldRead src off size) s = .next ((s.readReg src (off / 8 * 8) size (off / 4 % 2)).2.reply src size
      (halfOf size (off / 4 % 2) (s.regView src (off / 8 * 8)).value)) := by
  show execRcFieldRead src off size s = _
  rw [← State.readReg_fst]
  cases src with
  | dev p => simp only [execRcFieldRead, ha, hr, Bool.not_true, Bool.or_self, Bool.false_eq_true, if_false]
  | pf p =>
    have hu : s.fnUp (Src.pf p).portOf (Src.pf p).fnOf = true := by simpa using hup
    simp only [execRcFieldRead, ha, hr, hu, Bool.not_true, Bool.or_self, Bool.false_eq_true, if_false]
  | vf p n =>
    have hu : s.fnUp (Src.vf p n).portOf (Src.vf p n).fnOf = true := by simpa using hup
    simp only [execRcFieldRead, ha, hr, hu, Bool.not_true, Bool.or_self, Bool.false_eq_true, if_false]

theorem State.regView_of_dead {s : State} {src : Src} {off : Nat} (h : s.offLive src off = false) : s.regView src off = {} := by
  have hd : @State.regView = @State.regView := rfl
  conv at hd => rhs; delta State.regView
  rw [hd]; clear hd; beta_reduce
  exact if_pos (by simp [h])

/-- A register that is not there reads as zeros, and the read changes nothing. -/
theorem exec_rcFieldRead_dead (s : State) (src : Src) (off size : Nat) (hup : s.fnUp src.portOf src.fnOf = true)
    (h0 : src ≠ .dev 0) (h1 : src ≠ .dev 1) (ha : accessOk off size = true) (hr : s.srcReaches src = true)
    (hl : s.offLive src (off / 8 * 8) = false) :
    exec (.rcFieldRead src off size) s = .next (s.toHost src.portOf (.completion src.fnOf (leBytes size 0) 0 false)) := by
  have hread : (s.readReg src (off / 8 * 8) size (off / 4 % 2)).2 = s := by
    unfold State.readReg
    simp [State.regView_of_dead hl, hl]
  have hzero : halfOf size (off / 4 % 2) (s.regView src (off / 8 * 8)).value = 0 := by
    rw [State.regView_of_dead hl]
    simp [halfOf, field]
  rw [exec_rcFieldRead s src off size (.inr (.inr hup)) hr ha, hread, hzero]
  cases src with
  | dev p =>
    obtain rfl | rfl : p = 0 ∨ p = 1 := by
      rcases p with ⟨p, hp⟩
      interval_cases p <;> simp
    · exact absurd rfl h0
    · exact absurd rfl h1
  | pf p => rfl
  | vf p n => rfl

/-! ## Writes -/

theorem exec_registerWrite (s : State) (src : Src) (off size : Nat) (v : Word) (hr : s.srcReaches src = true)
    (ha : accessOk off size = true) :
    exec (.registerWrite src off size v) s = .next (s.writeReg (off / 8 * 8)
      { src := src, size := size, half := if size = 4 then off / 4 % 2 else 0, value := v }) := by
  show execRegisterWrite src off size v s = _
  simp only [execRegisterWrite, ha, hr, Bool.and_self, if_true]

theorem exec_registerWrite_misshaped (s : State) (src : Src) (off size : Nat) (v : Word) (h : (size ≠ 4 ∧ size ≠ 8) ∨ off % size ≠ 0) :
    exec (.registerWrite src off size v) s = .next s := by
  show execRegisterWrite src off size v s = _
  have ha : accessOk off size = false := by
    rcases h with ⟨h4, h8⟩ | h
    · simp [accessOk, h4, h8]
    · simp [accessOk, h]
  simp only [execRegisterWrite, ha, Bool.false_and, Bool.false_eq_true, if_false]

theorem State.writeReg_dead (s : State) (off : Nat) (a : RegAcc) (h : s.offLive a.src off = false) : s.writeReg off a = s := by
  simp only [State.writeReg, h, Bool.not_false, if_true]

/-! ## The two registers named -/

theorem State.offLive_mill {s : State} (src : Src) (d : Die) (h3 : 3 ≤ s.boot.stage) (h0 : s.boot.stage0 = true) :
    s.offLive src (0x2000018 + 0x200000 * d.val) = true := by
  have hd := d.isLt
  have e1 : ¬ (0x2000018 + 0x200000 * d.val < 0x11000) := by omega
  have e2 : ¬ (0x2000018 + 0x200000 * d.val < 0x20000) := by omega
  have e3 : ¬ (0x2000018 + 0x200000 * d.val < 0x40000) := by omega
  have e4 : ¬ (0x2000018 + 0x200000 * d.val < 0x70000) := by omega
  have e5 : ¬ (0x2000018 + 0x200000 * d.val < 0x80000) := by omega
  have e6 : ¬ (0x2000018 + 0x200000 * d.val < 0x100000) := by omega
  have e7 : ¬ (0x2000018 + 0x200000 * d.val < 0x800000) := by omega
  have e8 : ¬ (0x2000018 + 0x200000 * d.val < 0x1000000) := by omega
  have e9 : ¬ (0x2000018 + 0x200000 * d.val < 0x1001000) := by omega
  have e10 : ¬ (0x2000018 + 0x200000 * d.val < 0x1001040) := by omega
  unfold State.offLive
  simp only [h0, Bool.true_and, if_neg e1, if_neg e2, if_neg e3, if_neg e4, if_neg e5, if_neg e6, if_neg e7, if_neg e8,
    if_neg e9, if_neg e10]
  split <;> simp <;> omega

theorem State.regMill_bins (s : State) (off d : Nat) (hd : off = 0x2000018 + 0x200000 * d) :
    s.regMill off =
      { value := word [(48, (s.mill d).wbCrosses), (32, (s.mill d).nacks), (16, (s.mill d).holdWaits), (0, (s.mill d).hold)]
        rc := [⟨48, 16, fun s => s.updMill d fun c => { c with wbCrosses := 0 }⟩,
          ⟨32, 16, fun s => s.updMill d fun c => { c with nacks := 0 }⟩,
          ⟨16, 16, fun s => s.updMill d fun c => { c with holdWaits := 0 }⟩] } := by
  obtain ⟨size, hsize⟩ : ∃ n, n = 0x200000 := ⟨_, rfl⟩
  obtain ⟨base, hbase⟩ : ∃ n, n = 0x2000000 := ⟨_, rfl⟩
  have hq : (off - base) / size = d := by subst hd hsize hbase; omega
  have hm : (off - base) % size = 0x18 := by subst hd hsize hbase; omega
  have h : @State.regMill = @State.regMill := rfl
  conv at h => rhs; delta State.regMill
  simp only [← hbase, ← hsize] at h
  rw [h]; clear h; beta_reduce
  rw [hm, hq]
  rfl

/-- The Bins' counters of a compute die, as the register reads. -/
theorem State.regView_mill {s : State} {src : Src} (d : Die) {off : Nat} (hoff : off = 0x2000018 + 0x200000 * d.val)
    (hpf : src.isPf = true) (h3 : 3 ≤ s.boot.stage) (h0 : s.boot.stage0 = true) : s.regView src off = s.regMill off := by
  have hd := d.isLt
  have hl := s.offLive_mill src d h3 h0
  rw [← hoff] at hl
  have e1 : ¬ (off < 0x10000) := by omega
  have e2 : ¬ (off < 0x20000) := by omega
  have e3 : ¬ (off < 0x40000) := by omega
  have e4 : ¬ (off < 0x80000) := by omega
  have e5 : ¬ (off < 0x100000) := by omega
  have e6 : ¬ (off < 0x200000) := by omega
  have e7 : ¬ (off < 0x400000) := by omega
  have e8 : ¬ (off < 0x800000) := by omega
  have e9 : ¬ (off < 0x1000000) := by omega
  have e10 : ¬ (off < 0x2000000) := by omega
  have e11 : off < 0x3000000 := by omega
  have h : @State.regView = @State.regView := rfl
  conv at h => rhs; delta State.regView
  rw [h]; clear h; beta_reduce
  rw [if_neg (by simp [hl]), if_neg e1, if_neg e2, if_neg e3, if_neg e4, if_neg e5, if_neg (by simp [hpf]), if_neg e6,
    if_neg e7, if_neg e8, if_neg e9, if_neg e10, if_pos e11]

/-- The counters of a die's Bins, cleared one after another. -/
def State.clearBins (s : State) (d : Nat) : State :=
  ((s.updMill d fun c => { c with wbCrosses := 0 }).updMill d fun c => { c with nacks := 0 }).updMill d
    fun c => { c with holdWaits := 0 }

theorem State.clearBins_eq (s : State) (d : Nat) : ∃ m, s.clearBins d = { s with mills := m } := ⟨_, rfl⟩

/-- A whole read of the Bins' counters clears them, a read of the low half the hold waits alone. -/
theorem State.readReg_mill {s : State} {src : Src} (d : Die) {off : Nat} (hoff : off = 0x2000018 + 0x200000 * d.val)
    (hpf : src.isPf = true) (h3 : 3 ≤ s.boot.stage) (h0 : s.boot.stage0 = true) :
    (s.readReg src off 8 0).2 = s.clearBins d.val ∧
    (s.readReg src off 4 0).2 = s.updMill d.val (fun c => { c with holdWaits := 0 }) := by
  have hne : off ≠ offAlmNow := by unfold offAlmNow; omega
  rw [State.readReg_snd _ _ _ _ _ hne, State.readReg_snd _ _ _ _ _ hne, State.regView_mill d hoff hpf h3 h0,
    State.regMill_bins s off d hoff]
  refine ⟨?_, ?_⟩
  · simp [State.clearCovered, RegAcc.covers, RegAcc.hits, State.clearBins]
  · simp [State.clearCovered, RegAcc.covers, RegAcc.hits]

theorem accessOk_mill (d : Die) {off : Nat} (hoff : off = 0x2000018 + 0x200000 * d.val) :
    off / 8 * 8 = off ∧ off / 4 % 2 = 0 ∧ accessOk off 8 = true ∧ accessOk off 4 = true := by
  refine ⟨by omega, by omega, ?_, ?_⟩
  · simp [accessOk]; omega
  · simp [accessOk]; omega

/-- Clearing HOT_SEEN of a stack. -/
theorem State.writeReg_hot {s : State} (a : RegAcc) (p : Port) (hsrc : a.src = .pf p) (i : StackId) {off : Nat}
    (hoff : off = 0x800000 + 16 * i.val) (h2 : 2 ≤ s.boot.stage) (h0 : s.boot.stage0 = true) :
    s.writeReg off a = s.updStack i.val fun t => { t with hotSeen := t.hotSeen && !a.bit 3 } := by
  have hi := i.isLt
  have e1 : ¬ (off < 0x11000) := by omega
  have e2 : ¬ (off < 0x20000) := by omega
  have e3 : ¬ (off < 0x40000) := by omega
  have e4 : ¬ (off < 0x70000) := by omega
  have e5 : ¬ (off < 0x80000) := by omega
  have e6 : ¬ (off < 0x100000) := by omega
  have e7 : ¬ (off < 0x800000) := by omega
  have e8 : off < 0x1000000 := by omega
  have hl : s.offLive (.pf p) off = true := by
    unfold State.offLive
    simp only [h0, Bool.true_and, if_neg e1, if_neg e2, if_neg e3, if_neg e4, if_neg e5, if_neg e6, if_neg e7, if_pos e8]
    simpa using h2
  have f1 : ¬ (off < 0x41000) := by omega
  have f2 : ¬ (off < 0x78000) := by omega
  have f3 : off ≠ 0x10010 := by omega
  have f4 : off ≠ 0x80000 := by omega
  have f5 : off ≠ 0x80010 := by omega
  have f6 : ¬ (off < 0x200000) := by omega
  have f7 : ¬ (off < 0x400000) := by omega
  have f8 : off < 0x800180 := by omega
  have f9 : 0x800000 ≤ off := by omega
  have f10 : off % 16 = 0 := by omega
  have f11 : (off - 0x800000) / 16 = i.val := by omega
  unfold State.writeReg
  simp only [hsrc, hl, Bool.not_true, Bool.false_eq_true, if_false, f1, f2, e3, f3, f4, f5, f6, f7, e7, f8, f9, f10, f11,
    decide_true, decide_false, Bool.and_false, Bool.and_self, if_true]

theorem State.readReg_almNow {s : State} (src : Src) (h1 : 1 ≤ s.boot.stage) (h0 : s.boot.stage0 = true) :
    (s.readReg src offAlmNow 4 0).2 =
      { s with alm := { s.alm with nowHi := s.alm.nowHi.set 0 (32 * src.portOf + src.fnOf) (s.alm.now / 2 ^ 32) } } := by
  have hl : s.offLive src offAlmNow = true := by simp [State.offLive, offAlmNow, h0, h1]
  have hrc : (s.regView src offAlmNow).rc = [] := by
    simp [State.regView, hl]
    simp [offAlmNow, State.regAlm]
  unfold State.readReg
  simp [hrc, hl]

/-- Settles O43. -/
theorem registersAreReadAndWritten : Obligations.RegistersAreReadAndWritten := by
  unfold Obligations.RegistersAreReadAndWritten
  refine ⟨?_, ?_, exec_rcFieldRead_dead, ?_, exec_registerWrite, exec_registerWrite_misshaped, ?_, ?_⟩
  · intro s p d h3 h0 off
    have hp : Src.dev p = .dev 0 ∨ Src.dev p = .dev 1 ∨ s.fnUp (Src.dev p).portOf (Src.dev p).fnOf = true := by
      rcases p with ⟨p, hp⟩
      interval_cases p <;> simp
    have hr : s.srcReaches (.dev p) = true := by simpa [State.srcReaches] using h3
    obtain ⟨o, ho⟩ : ∃ o, o = off := ⟨_, rfl⟩
    obtain ⟨e8, e4, a8, a4⟩ := accessOk_mill d ho
    obtain ⟨r8, r4⟩ := State.readReg_mill (src := .dev p) d ho rfl h3 h0
    rw [← ho]
    refine ⟨completes_of_exec (exec_rcFieldRead s _ o 8 hp hr a8) ?_, completes_of_exec (exec_rcFieldRead s _ o 4 hp hr a4) ?_⟩
    · rw [e8, e4, r8, State.regView_mill d ho rfl h3 h0, State.regMill_bins s o d ho]
      refine ⟨?_, ?_, ?_, ?_⟩
      · simp [State.reply, halfOf]
      · simp [State.reply, State.clearBins]
      · intro e he
        simp [State.reply, State.clearBins, State.mill_updMill_other _ _ _ _ he]
      · obtain ⟨m, hm⟩ := s.clearBins_eq d.val
        rw [hm]
        rfl
    · rw [e8, e4, r4]
      simp [State.reply]
  · intro s src off size hup hr ha
    refine completes_of_exec (exec_rcFieldRead s src off size hup hr ha) ⟨_, rfl, rfl, ?_, ?_, ?_⟩
    · exact (s.readReg_tame _ _ _ _).1
    · exact (s.readReg_tame _ _ _ _).2.1
    · intro hrc hne
      rw [State.readReg_snd _ _ _ _ _ hne, hrc]
      rfl
  · intro s src off size v hr ha hl
    rw [exec_registerWrite s src off size v hr ha, State.writeReg_dead _ _ _ hl]
  · intro s p v h2 h0 hr hv i
    have hoff : (0x800000 + 16 * i.val) / 8 * 8 = 0x800000 + 16 * i.val := by omega
    have ha : accessOk (0x800000 + 16 * i.val) 8 = true := by simp [accessOk]; omega
    refine completes_of_exec (exec_registerWrite s (.pf p) _ 8 v hr ha) ?_
    rw [hoff, State.writeReg_hot _ p rfl i rfl h2 h0]
    have hb : RegAcc.bit ({ src := .pf p, size := 8, half := if 8 = 4 then (0x800000 + 16 * i.val) / 4 % 2 else 0, value := v } : RegAcc) 3
        = true := by
      simp only [RegAcc.bit, RegAcc.data, if_true]
      exact hv
    rw [hb]
    refine ⟨?_, ?_, rfl⟩
    · simp
    · intro j hj
      exact State.stack_updStack_other _ _ _ _ hj
  · intro s p h1 h0 hup hr
    have hoff : offAlmNow / 8 * 8 = offAlmNow ∧ offAlmNow / 4 % 2 = 0 ∧ accessOk offAlmNow 4 = true := by decide
    obtain ⟨e8, e4, ha⟩ := hoff
    refine completes_of_exec (exec_rcFieldRead s (.pf p) _ 4 (.inr (.inr hup)) hr ha) ?_
    rw [e8, e4, State.readReg_almNow _ h1 h0]
    simp [State.reply, State.toHost, State.pushQuay, State.updQuay, Src.portOf, Src.fnOf]

end Sys2Proof.Machine
end

section
/-! SUPPORT. The mailboxes of Data Object Exchange: what stands in a mailbox once a request is answered (O51). -/

namespace Sys2Proof.Machine

open Sys2Proof

/-- A function that is up has its answer in the mailbox, and nothing else changes. -/
theorem State.doeAnswer_port {s : State} {port : Nat} (bytes : List Byte) (h : s.fnUp port 0 = true) :
    (s.doeAnswer port bytes).port port = { s.port port with doe := bytes, doeReady := true } := by
  rw [State.doeAnswer, if_pos h, State.port_updPort]

theorem State.doeAnswer_eq {s : State} (port : Nat) (bytes : List Byte) :
    s.doeAnswer port bytes = { s with ports := (s.doeAnswer port bytes).ports } := by
  unfold State.doeAnswer
  split <;> rfl

theorem State.doeFrom1_of_stage {s : State} {port : Nat} {bytes : List Byte} (h : 1 ≤ s.boot.stage) :
    s.doeFrom1 port bytes = s.doeAnswer port bytes := by
  rw [State.doeFrom1, if_pos h]

theorem slice_append_head (x b : List Byte) (n : Nat) (hx : x.length = n) : slice (x ++ b) 0 n = x := by
  subst hx
  simp [slice]

theorem slice_append_mid (h x b : List Byte) (n m : Nat) (hn : h.length = n) (hm : x.length = m) :
    slice (h ++ (x ++ b)) n m = x := by
  subst hn hm
  simp [slice]

theorem slice_len (b : List Byte) (o n : Nat) : (slice b o n).length = n := by
  simp only [slice, List.length_append, List.length_replicate, List.length_take]
  omega

theorem leNat_leBytes (n v : Nat) (hv : v < 2 ^ (8 * n)) : leNat (leBytes n v) = v := by
  induction n generalizing v with
  | zero => simp only [leBytes, leNat]; simp at hv; omega
  | succ n ih =>
    have hq : v / 256 < 2 ^ (8 * n) := by
      rw [Nat.div_lt_iff_lt_mul (by norm_num), show 2 ^ (8 * n) * 256 = 2 ^ (8 * (n + 1)) by rw [Nat.mul_add, Nat.pow_add]]
      exact hv
    rw [leBytes, leNat, ih _ hq, BitVec.toNat_ofNat]
    omega

theorem leAt_head (n v : Nat) (b : List Byte) (hv : v < 2 ^ (8 * n)) : leAt (leBytes n v ++ b) 0 n = v := by
  rw [leAt, slice_append_head _ _ _ (leBytes_length n v), leNat_leBytes n v hv]

theorem leAt_mid (h b : List Byte) (k n v : Nat) (hk : h.length = k) (hv : v < 2 ^ (8 * n)) :
    leAt (h ++ (leBytes n v ++ b)) k n = v := by
  rw [leAt, slice_append_mid _ _ _ _ _ hk (leBytes_length n v), leNat_leBytes n v hv]

/-- The head of a report: its serial number and the request's nonce stand where the manual puts them. -/
theorem State.report_head (s : State) (port : Nat) (r : List Byte) :
    leAt (s.report port r) 8 8 = s.nv.serial.toNat ∧ slice (s.report port r) 16 32 = slice r 8 32 := by
  simp only [State.report, List.append_assoc]
  constructor
  · rw [← List.append_assoc (leBytes 4 1)]
    exact leAt_mid _ _ 8 8 _ (by simp [leBytes_length]) s.nv.serial.isLt
  · rw [← List.append_assoc (leBytes 4 1), ← List.append_assoc (leBytes 4 1 ++ _)]
    exact slice_append_mid _ _ _ _ _ (by simp [leBytes_length]) (slice_len _ _ _)

theorem State.featureAnswer_eq {s : State} {port : Nat} (st : Nat) (h1 : 1 ≤ s.boot.stage) :
    s.featureAnswer port st = s.doeAnswer port (leBytes 8 st ++ leBytes 8 s.offer.toNat ++ leBytes 8 (s.port port).confirmed.toNat
      ++ leBytes 8 s.boot.package.toNat) := by
  rw [State.featureAnswer, State.doeFrom1_of_stage h1]

/-- ACCEPT of a subset of OFFER, once. -/
theorem State.accept_takes {s : State} {port : Nat} {w : Word} (h1 : 1 ≤ s.boot.stage) (hup : s.fnUp port 0 = true)
    (ha : (s.port port).accepted = false) (hw : w &&& ~~~s.offer = 0) :
    s.accept port w = (s.updPort port fun q => { q with confirmed := w, accepted := true }).featureAnswer port 0 := by
  simp only [State.accept, show ¬ s.boot.stage < 1 by omega, hup, ha, hw, decide_false, Bool.not_true, Bool.or_self, Bool.false_eq_true,
    if_false, ne_eq, not_true_eq_false]

/-- A second ACCEPT is refused. -/
theorem State.accept_again {s : State} {port : Nat} {w : Word} (h1 : 1 ≤ s.boot.stage) (hup : s.fnUp port 0 = true)
    (ha : (s.port port).accepted = true) : s.accept port w = s.featureAnswer port 2 := by
  simp only [State.accept, show ¬ s.boot.stage < 1 by omega, hup, ha, decide_false, Bool.not_true, Bool.or_self, Bool.false_eq_true,
    if_false, if_true]

/-- Settles O51. -/
theorem mailboxesAnswer : Obligations.MailboxesAnswer := by
  unfold Obligations.MailboxesAnswer
  intro s port hup
  have hport := fun bytes => State.doeAnswer_port (s := s) (port := port.val) bytes hup
  have heq := fun bytes => State.doeAnswer_eq (s := s) port.val bytes
  refine ⟨completes_of_exec (t := s.discovery port 0) rfl ?_, completes_of_exec (t := s.discovery port 3) rfl ?_, ?_, ?_, ?_, ?_, ?_, ?_,
    completes_of_exec (t := s.tellCharter port) rfl ?_, ?_⟩
  · rw [State.discovery, hport]
    exact ⟨rfl, rfl⟩
  · rw [State.discovery, hport]
    rfl
  · intro r h1 hr h0
    refine completes_of_exec (t := s.attest port r) rfl ?_
    rw [State.attest, if_pos (by simp [hr, h0]), State.doeFrom1_of_stage h1, hport]
    exact ⟨rfl, (s.report_head port r).2, (s.report_head port r).1, heq _⟩
  · intro r hr
    refine completes_of_exec (t := s.attest port r) rfl ?_
    rw [State.attest, if_neg (by simp [hr]), State.doeFrom1, ite_self, hport]
  · intro h1
    refine completes_of_exec (t := s.certificate port) rfl ?_
    rw [State.certificate, State.doeFrom1_of_stage h1, hport]
    refine ⟨by simp [leBytes_length, slice_len], ?_, heq _⟩
    simp only [List.append_assoc]
    exact leAt_head 8 _ _ s.nv.serial.isLt
  · intro h1
    refine completes_of_exec (t := s.featureAnswer port 0) rfl ?_
    rw [State.featureAnswer_eq 0 h1, hport]
    exact ⟨rfl, heq _⟩
  · intro w h1 ha hw
    refine completes_of_exec (t := s.accept port w) rfl ?_
    obtain ⟨u, hu⟩ : ∃ u, u = s.updPort port.val fun q => { q with confirmed := w, accepted := true } := ⟨_, rfl⟩
    have hup' : u.fnUp port.val 0 = true := by
      rw [← hup, hu]
      simp [State.fnUp]
    have hc : (u.port port.val).confirmed = w := by rw [hu, State.port_updPort]
    have ha' : (u.port port.val).accepted = true := by rw [hu, State.port_updPort]
    have hb : u.boot = s.boot := by rw [hu]; rfl
    rw [State.accept_takes h1 hup ha hw, ← hu, State.featureAnswer_eq 0 (by rw [hb]; exact h1), State.doeAnswer_port _ hup']
    simp only [List.append_assoc]
    refine ⟨hc, ha', leAt_head 8 0 _ (by norm_num), ?_, ?_⟩
    · rw [← List.append_assoc, hc]
      exact leAt_mid _ _ 16 8 _ (by simp [leBytes_length]) w.isLt
    · rw [State.doeAnswer_eq, hu]
      rfl
  · intro w h1 ha
    refine completes_of_exec (t := s.accept port w) rfl ?_
    rw [State.accept_again h1 hup ha, State.featureAnswer_eq 2 h1, hport]
    refine ⟨rfl, ?_⟩
    simp only [List.append_assoc]
    exact leAt_head 8 2 _ (by norm_num)
  · rw [State.tellCharter, hport]
    exact ⟨rfl, rfl, heq _⟩
  · refine completes_of_exec (t := s.doeStop port) ?_ ?_
    · show execDoeAbort port s = _
      rw [execDoeAbort, if_pos hup]
    · rw [State.doeStop, State.port_updPort]
      exact ⟨rfl, rfl, rfl⟩

end Sys2Proof.Machine
end

section
/-! SUPPORT. Flits: reception, repeated NAKs, release, and what a slot sends (O54). -/

namespace Sys2Proof.Machine

open Sys2Proof

/-! ## What a slot leaves alone -/

/-- Memory, the Crier and the Hands. -/
def State.calm (s : State) : List Host.Cell × Crier × SMap Hand := (s.mem, s.crier, s.hands)

theorem State.updLink_calm (s : State) (n : Nat) (f : LinkPort → LinkPort) : (s.updLink n f).calm = s.calm := rfl

theorem State.chargePort_calm (s : State) (n cycles : Nat) (k : Cause) : (s.chargePort n cycles k).calm = s.calm :=
  foldl_keeps_proj State.calm (fun s p => s.delayRuns p (fun r => s.runUsesPort p r.m.schedule n) cycles k) (fun _ _ => rfl) _ _

theorem State.emitFlit_calm (s : State) (n kind seq tide slot : Nat) (body : List Byte) :
    (s.emitFlit n kind seq tide slot body).calm = s.calm := rfl

theorem State.pushQuay_calm (s : State) (n : Nat) (e : QEntry) : (s.pushQuay n e).calm = s.calm := rfl

theorem State.emitNew_calm (s : State) (n kind slot : Nat) (body : List Byte) : (s.emitNew n kind slot body).calm = s.calm := by
  rw [State.emitNew, State.pushQuay_calm, State.updLink_calm, State.emitFlit_calm]

theorem State.slotFlit_calm (s : State) (n slot width : Nat) : (s.slotFlit n slot width).calm = s.calm := by
  unfold State.slotFlit State.chargeUnfit State.chargeLink
  dsimp only
  split
  · rw [State.emitFlit_calm]
  split
  · rw [State.emitFlit_calm]
  split
  · split
    · split
      · rw [State.emitFlit_calm]
      · rw [State.updLink_calm, State.emitNew_calm]
    · rw [State.emitFlit_calm]
  split
  · split
    · split
      · rw [State.chargePort_calm, State.emitFlit_calm]
      · split
        · rw [State.chargePort_calm, State.emitFlit_calm]
        · rw [State.updLink_calm, State.emitNew_calm]
    · rw [State.emitFlit_calm]
  · split
    · rw [State.updLink_calm, State.emitFlit_calm]
    · rw [State.emitFlit_calm]

/-! ## Reception -/

/-- What every good codeword of a port that is UP leaves: the count of its corrected symbols. -/
theorem exec_flitReceive_up {s : State} (n : ZPort) (f : List Byte) (c : Nat) (bad : Bool) (h : (s.link n).state = 2) :
    exec (.flitReceive n f c bad) s = .next (
      let u := s.updLink n fun l => { l with corrected := l.corrected + BitVec.ofNat 64 c }
      if bad then u.updLink n fun l => { l with uncorrected := satAdd 0xFFFF l.uncorrected 1 }
      else if !flitCheck f then u.updLink n fun l => { l with crcFail := satAdd 0xFFFF l.crcFail 1 }
      else if !flitFieldsOk f then u
      else
        let u := u.updLink n fun l => l.heed f
        let k := flitKind f
        let q := flitSeq f
        let l := u.link n
        if k = 0 || k = 4 || 2048 ≤ seqPast q l.rxNext || l.rxGot.contains q || (k ≠ 2 && 1024 ≤ l.landing.length) then u else
        let u := u.updLink n fun l => l.gotSeq q u.clock
        if k = 2 then
          let u := match parseBand (flitChunks f |>.headD []) with
            | some m => u.updLink n fun l => { l with inbox := l.inbox ++ [m] }
            | none => u
          u.addFlit n q []
        else u.landFlit n f) := by
  show execFlitReceive n f c bad s = _
  unfold execFlitReceive
  rw [if_neg (by simp [h])] <;> rfl

theorem LinkPort.heed_frame (l : LinkPort) (f : List Byte) :
    (l.heed f).rxNext = l.rxNext ∧ (l.heed f).rxGot = l.rxGot ∧ (l.heed f).lost = l.lost ∧ (l.heed f).landing = l.landing :=
  ⟨rfl, rfl, rfl, rfl⟩

theorem advanceRx_one (fuel x : Nat) (h : 2 ≤ fuel) : advanceRx fuel x [x] = ((x + 1) % 4096, []) := by
  obtain ⟨k, rfl⟩ := Nat.exists_eq_add_of_le' h
  simp [advanceRx]

/-- A SEQ that is the next one: the receiver goes one on. -/
theorem LinkPort.gotSeq_next {l : LinkPort} {q : Nat} (now : Nat) (hq : q = l.rxNext) (hg : l.rxGot = []) :
    (l.gotSeq q now).rxNext = (l.rxNext + 1) % 4096 ∧ (l.gotSeq q now).landing = l.landing := by
  subst hq
  simp only [LinkPort.gotSeq, hg]
  rw [advanceRx_one _ _ (by norm_num)]
  simp

theorem seqPast_self (a : Nat) : seqPast a a = 0 := by
  simp [seqPast]

/-- A data flit in order that lands before its release. -/
theorem exec_flitReceive_data {s : State} (n : ZPort) (f : List Byte) (c : Nat) (h : (s.link n).state = 2)
    (hcheck : flitCheck f = true) (hfields : flitFieldsOk f = true) (hkind : flitKind f = 1) (hseq : flitSeq f = (s.link n).rxNext)
    (hgot : (s.link n).rxGot = []) (hland : (s.link n).landing = []) (hrel : s.alm.now < s.releaseAt n f) :
    ∃ t, exec (.flitReceive n f c false) s = .next t ∧ (t.link n).rxNext = ((s.link n).rxNext + 1) % 4096 ∧
      (t.link n).landing = [⟨s.releaseAt n f, f⟩] ∧ t = { s with links := t.links } := by
  obtain ⟨u, hu⟩ : ∃ u, u = (s.updLink n fun l => { l with corrected := l.corrected + BitVec.ofNat 64 c }).updLink n fun l => l.heed f :=
    ⟨_, rfl⟩
  have hnext : (u.link n).rxNext = (s.link n).rxNext := by rw [hu]; simp [(LinkPort.heed_frame _ _).1]
  have hgot' : (u.link n).rxGot = [] := by rw [hu]; simpa [(LinkPort.heed_frame _ _).2.1] using hgot
  have hland' : (u.link n).landing = [] := by rw [hu]; simpa [(LinkPort.heed_frame _ _).2.2.2] using hland
  obtain ⟨hrx, hl⟩ := LinkPort.gotSeq_next (l := u.link n) u.clock (hseq.trans hnext.symm) hgot'
  have hframe : u = { s with links := u.links } := by rw [hu]; rfl
  have hrel' : (u.updLink n fun l => l.gotSeq (flitSeq f) u.clock).releaseAt n f = s.releaseAt n f := by
    rw [hframe]
    rfl
  have halm : (u.updLink n fun l => l.gotSeq (flitSeq f) u.clock).alm.now = s.alm.now := by
    rw [hframe]
    rfl
  refine ⟨(u.updLink n fun l => l.gotSeq (flitSeq f) u.clock).landFlit n f, ?_, ?_⟩
  · rw [exec_flitReceive_up n f c false h]
    have htake : ¬ (decide (flitKind f = 0) || decide (flitKind f = 4) || decide (2048 ≤ seqPast (flitSeq f) (u.link n).rxNext)
        || (u.link n).rxGot.contains (flitSeq f) || (decide (flitKind f ≠ 2) && decide (1024 ≤ (u.link n).landing.length))) = true := by
      rw [hkind, hgot', hland', hnext, hseq, seqPast_self]
      simp
    have hk2 : ¬ flitKind f = 2 := by
      rw [hkind]
      decide
    dsimp only
    rw [if_neg Bool.false_ne_true, if_neg (by simp [hcheck]), if_neg (by simp [hfields]), ← hu, if_neg htake, if_neg hk2]
  · simp only [State.landFlit, hrel', halm, if_pos hrel]
    refine ⟨?_, ?_, ?_⟩
    · rw [State.link_updLink, State.link_updLink]
      exact hrx.trans (by rw [hnext])
    · rw [State.link_updLink, State.link_updLink]
      show ((u.link n).gotSeq (flitSeq f) u.clock).landing ++ _ = _
      rw [hl, hland']
      rfl
    · rw [hframe]
      rfl

/-! ## A link-band flit -/

/-- The first message of the band leaves in a slot of the link band. -/
theorem State.slotFlit_band {s : State} {n slot width : Nat} {b : BandMsg} {r : List BandMsg} (hslot : slot < 8)
    (hb : s.tide.boundary ≠ none) (hfull : s.txFull n = false) (hband : (s.link n).band = b :: r) (hsent : (s.link n).bandSent < 8)
    (hreplay : (s.link n).replay = []) :
    s.slotFlit n slot width = (s.emitNew n 2 slot (bandBytes s.boot.moduleId b)).updLink n fun l =>
      { l with band := r, bandSent := l.bandSent + 1 } := by
  have h1 : ¬ (s.tide.boundary.isNone || decide (3192 ≤ slot)) = true := by
    have : ¬ 3192 ≤ slot := by omega
    cases hbd : s.tide.boundary with
    | none => exact absurd hbd hb
    | some x => simp [this]
  have h2 : ¬ ((decide (slot < 8) || (s.slotOwner n slot).isSome) && s.fit n && s.txFull n) = true := by simp [hfull]
  have h3 : ¬ (decide (8 ≤ (s.link n).bandSent) || decide (1024 ≤ (s.link n).replay.length)) = true := by
    simp [hreplay]
    omega
  simp only [State.slotFlit]
  rw [if_neg h1, if_neg h2, if_pos hslot, hband]
  exact if_neg h3

theorem State.link_emitNew (s : State) (n kind slot : Nat) (body : List Byte) :
    ((s.emitNew n kind slot body).link n).txSeq = ((s.link n).txSeq + 1) % 4096 ∧
    ((s.emitNew n kind slot body).link n).sent = flitBytes kind (s.link n).version (s.link n).txSeq (((s.link n).rxNext + 4095) % 4096)
      (s.link n).nakDue.head? s.tideNumber slot body ∧
    ((s.emitNew n kind slot body).link n).replay = (s.link n).replay ++
      [{ seq := (s.link n).txSeq, bytes := ((s.emitNew n kind slot body).link n).sent }] := by
  have hq : ∀ (u : State) (e : QEntry), (u.pushQuay (linkTxNo n) e).link n = u.link n := fun _ _ => rfl
  simp only [State.emitNew, State.emitFlit, hq, State.link_updLink, and_self]

/-! ## The five commands -/

/-- A slot of a port that is UP, whose time has come. -/
theorem exec_linkSlot {s : State} (n : ZPort) (h : (s.link n).state = 2) (hc : s.counts = true) (hslot : s.nextSlot n < 3200)
    (htime : s.nextSlot n * 32 ≤ s.alm.now % 4096 * 25) : ∃ u, exec (.linkSlot n) s = .next
      ((u.slotFlit n (s.nextSlot n) (if (s.link n).version = 2 then 2 else 1)).updLink n fun l =>
        { l with slot := s.nextSlot n + (if (s.link n).version = 2 then 2 else 1), slotTide := u.tideNumber }) ∧
      u = { s with links := u.links } ∧
      ((s.link n).slotTide = s.tideNumber → s.nextSlot n < 3192 → u = s) := by
  have hgo : ¬ (!s.counts || decide (3200 ≤ s.nextSlot n) || decide (s.alm.now % 4096 * 25 < s.nextSlot n * 32)) = true := by
    simp [hc, hslot, htime]
  obtain ⟨u, hu⟩ : ∃ u, u = if (s.link n).slotTide = s.tideNumber then s else s.updLink n fun l => { l with bandSent := 0 } := ⟨_, rfl⟩
  obtain ⟨v, hv⟩ : ∃ v, v = if s.nextSlot n < 3192 then u else u.updLink n fun l => { l with
      bandFull := if s.nextSlot n = 3192 then satAdd 0xFFFF l.bandFull (l.replay.filter fun r => r.resend).length else l.bandFull } :=
    ⟨_, rfl⟩
  have hframe : u = { s with links := u.links } := by
    rw [hu]
    split <;> rfl
  have hvframe : v = { u with links := v.links } := by
    rw [hv]
    split <;> rfl
  refine ⟨v, ?_, ?_, ?_⟩
  · show execLinkSlot n s = _
    unfold execLinkSlot
    dsimp only
    rw [if_neg hgo, if_neg (by simp [h]), ← hu, ← hv]
  · rw [hvframe, hframe]
  · intro ht hs
    rw [hv, if_pos hs, hu, if_pos ht]

/-- Settles O54. -/
theorem flitsAreReceivedAndSent : Obligations.FlitsAreReceivedAndSent := by
  unfold Obligations.FlitsAreReceivedAndSent
  refine ⟨?_, ?_, ?_, ?_, ?_⟩
  · intro s n f c h
    refine ⟨completes_of_exec (exec_flitReceive_up n f c true h) ?_, ?_, ?_⟩
    · dsimp only
      rw [if_pos rfl, State.link_updLink, State.link_updLink]
      exact ⟨rfl, rfl, rfl, rfl⟩
    · intro hcheck
      refine completes_of_exec (exec_flitReceive_up n f c false h) ?_
      dsimp only
      rw [if_neg Bool.false_ne_true, if_pos (by simp [hcheck]), State.link_updLink, State.link_updLink]
      exact ⟨rfl, rfl, rfl⟩
    · intro hcheck hfields hkind hseq hgot _ hland hrel
      obtain ⟨t, ht, hrest⟩ := exec_flitReceive_data n f c h hcheck hfields hkind hseq hgot hland hrel
      exact completes_of_exec ht hrest
  · intro s n x a hlost hnak ha
    refine completes_of_exec (t := s.updLink n fun l => { l with
      nakDue := l.nakDue ++ [x].filter fun x => !l.nakDue.contains x
      lost := l.lost.map fun e => if [x].contains e.1 then (e.1, s.clock) else e }) ?_ ?_
    · show execNakRepeat n s = _
      have hdue : ((s.link n).lost.filter fun e => s.passed e.2 1000).map Prod.fst = [x] := by
        simp [hlost, State.passed, ha]
      simp only [execNakRepeat, hdue]
    · rw [State.link_updLink]
      refine ⟨?_, ?_, rfl⟩
      · simp [hnak]
      · simp [hlost]
  · intro s n f r hland hrel hw hlen
    refine completes_of_exec (t := (s.updLink n fun l => { l with landing := l.landing.erase f }).pushQuay (linkRxNo n) (.bytes f.bytes)) ?_ ?_
    · show execFlitRelease n s = _
      have hfull : s.rxFull n = false := by
        simp [State.rxFull, hw]
        omega
      simp only [execFlitRelease, hfull, Bool.false_eq_true, if_false, hland, List.find?_cons, decide_eq_true hrel]
    · refine ⟨?_, ?_, rfl⟩
      · show ((s.updLink n fun l => { l with landing := l.landing.erase f }).link n).landing = r
        rw [State.link_updLink]
        simp [hland]
      · rw [State.quay_pushQuay]
        show ((s.quay (linkRxNo n)).push _ _).entries = _
        rw [QuaySt.push_of_room _ _ _ hlen hw]
  · intro s n h hc hslot htime
    obtain ⟨u, hexec, hu, _⟩ := exec_linkSlot n h hc hslot htime
    refine completes_of_exec hexec ?_
    have hcalm : ((u.slotFlit n (s.nextSlot n) (if (s.link n).version = 2 then 2 else 1)).updLink n fun l =>
        { l with slot := s.nextSlot n + (if (s.link n).version = 2 then 2 else 1), slotTide := u.tideNumber }).calm = s.calm := by
      rw [State.updLink_calm, State.slotFlit_calm, hu]
      rfl
    rw [State.link_updLink]
    refine ⟨rfl, ?_, congrArg Prod.fst hcalm, congrArg (fun x => x.2.1) hcalm, congrArg (fun x => x.2.2) hcalm⟩
    rw [hu]
    rfl
  · intro s n b r h hc htide hslot htime hband hsent hreplay hnak hb hfull
    have hnext : s.nextSlot n = (s.link n).slot := by rw [State.nextSlot, if_pos htide]
    obtain ⟨u, hexec, _, hu⟩ := exec_linkSlot n h hc (by omega) (by rw [hnext]; exact htime)
    rw [hu htide (by omega)] at hexec
    refine completes_of_exec hexec ?_
    obtain ⟨hseq, hs, hre⟩ := s.link_emitNew n 2 (s.link n).slot (bandBytes s.boot.moduleId b)
    rw [hnext, State.slotFlit_band hslot hb hfull hband hsent hreplay, State.link_updLink, State.link_updLink]
    refine ⟨rfl, hseq, ?_, ?_⟩
    · rw [hs, hnak]
      rfl
    · rw [hre, hreplay]
      rfl

end Sys2Proof.Machine
end

section
/-! SUPPORT. What the way of a completion record, and the end of a manifest, leave alone: every control register, the polders but
for their lists, and the settings of dies, Keels and ports. -/

namespace Sys2Proof.Machine

open Sys2Proof

/-! ## The control state -/

/-- A polder without the records on their way. -/
def Polder.core (q : Polder) : Polder := { q with records := [] }
/-- A die's settings. -/
def MillSt.core (c : MillSt) : MillSt := { c with ops := [], runsTo := [], lastIssue := [] }
/-- A Keel's settings. -/
def KeelSt.core (c : KeelSt) : KeelSt := { c with trackers := [] }

/-- The module without its traffic: what no access to memory changes. -/
structure Ctl where
  rest : State
  pol : Nat → Polder
  mill : Nat → MillSt
  keel : Nat → KeelSt

/-- The fields that no traffic changes; of the Crier, all but the band. -/
def State.plain (s : State) : State :=
  { s with
    seed := 0, nextId := 0, pols := [], mem := [], marks := [], gran := [], bins := [], shadow := [], txns := [], net := []
    reqs := [], land := {}, keels := [], mills := [], hands := [], quays := [], links := []
    crier := { s.crier with band := [] } }

def State.ctl (s : State) : Ctl :=
  ⟨s.plain, fun p => (s.pol p).core, fun d => (s.mill d).core, fun k => (s.keel k).core⟩

theorem State.ctl_eq {s t : State} (hr : t.plain = s.plain) (hp : ∀ p, (t.pol p).core = (s.pol p).core)
    (hm : ∀ d, (t.mill d).core = (s.mill d).core) (hk : ∀ k, (t.keel k).core = (s.keel k).core) : t.ctl = s.ctl := by
  unfold State.ctl
  rw [hr, funext hp, funext hm, funext hk]

@[simp] theorem State.ctl_ite (c : Prop) [Decidable c] (s t : State) : (if c then s else t).ctl = if c then s.ctl else t.ctl :=
  apply_ite ..

/-! ## Base operations -/

section
variable (s : State)

@[simp] theorem State.updLand_ctl (f : Land → Land) : (s.updLand f).ctl = s.ctl := rfl
@[simp] theorem State.updLink_ctl (n : Nat) (f : LinkPort → LinkPort) : (s.updLink n f).ctl = s.ctl := rfl
@[simp] theorem State.updHand_ctl (n : Nat) (f : Hand → Hand) : (s.updHand n f).ctl = s.ctl := rfl
@[simp] theorem State.pushQuay_ctl (n : Nat) (e : QEntry) : (s.pushQuay n e).ctl = s.ctl := rfl
@[simp] theorem State.toHost_ctl (n : Nat) (m : HostMsg) : (s.toHost n m).ctl = s.ctl := rfl
@[simp] theorem State.updMark_ctl (n : Nat) (f : Mark → Mark) : (s.updMark n f).ctl = s.ctl := rfl
@[simp] theorem State.setGran_ctl (n : Nat) (g : GranLine) : (s.setGran n g).ctl = s.ctl := rfl
@[simp] theorem State.updGran_ctl (n : Nat) (f : GranLine → GranLine) : (s.updGran n f).ctl = s.ctl := rfl
@[simp] theorem State.setShadow_ctl (n : Nat) (e : Shadow) : (s.setShadow n e).ctl = s.ctl := rfl
@[simp] theorem State.send_ctl (m : CohMsg) : (s.send m).ctl = s.ctl := rfl
@[simp] theorem State.free_ctl (w : Nat) : (s.free w).2.ctl = s.ctl := rfl
@[simp] theorem State.freeBytes_ctl (w : Nat) : (s.freeBytes w).2.ctl = s.ctl := rfl
@[simp] theorem State.freshId_ctl : s.freshId.2.ctl = s.ctl := rfl
@[simp] theorem State.raise_ctl (code : Code) (source book pol : Nat) (detail : List Byte) :
    (s.raise code source book pol detail).ctl = s.ctl := rfl
@[simp] theorem State.raiseOwn_ctl (code : Code) (source p : Nat) (detail : List Byte) :
    (s.raiseOwn code source p detail).ctl = s.ctl := rfl
@[simp] theorem State.raiseBoth_ctl (code : Code) (source : Nat) (detail : List Byte) :
    (s.raiseBoth code source detail).ctl = s.ctl := rfl
@[simp] theorem State.permission_ctl (source p addr engine : Nat) : (s.permission source p addr engine).ctl = s.ctl := rfl
@[simp] theorem State.mem_ctl (m : List Host.Cell) : ({ s with mem := m } : State).ctl = s.ctl := rfl
@[simp] theorem State.bins_ctl (b : SMap BinLine) : ({ s with bins := b } : State).ctl = s.ctl := rfl
@[simp] theorem State.hands_ctl (b : SMap Hand) : ({ s with hands := b } : State).ctl = s.ctl := rfl

@[simp] theorem State.raiseSup_ctl (code : Code) (source p : Nat) (detail : List Byte) :
    (s.raiseSup code source p detail).ctl = s.ctl := by
  unfold State.raiseSup
  split <;> rfl

theorem State.updPol_ctl (p : Nat) (f : Polder → Polder) (hf : (f (s.pol p)).core = (s.pol p).core) :
    (s.updPol p f).ctl = s.ctl := by
  refine State.ctl_eq rfl (fun q => ?_) (fun _ => rfl) fun _ => rfl
  by_cases h : q = p
  · rw [h, State.pol_updPol, hf]
  · rw [State.pol_updPol_other _ _ _ _ h]

theorem State.updMill_ctl (d : Nat) (f : MillSt → MillSt) (hf : (f (s.mill d)).core = (s.mill d).core) :
    (s.updMill d f).ctl = s.ctl := by
  refine State.ctl_eq rfl (fun _ => rfl) (fun q => ?_) fun _ => rfl
  by_cases h : q = d
  · rw [h, State.mill_updMill, hf]
  · rw [State.mill_updMill_other _ _ _ _ h]

theorem State.updKeel_ctl (k : Nat) (f : KeelSt → KeelSt) (hf : (f (s.keel k)).core = (s.keel k).core) :
    (s.updKeel k f).ctl = s.ctl := by
  refine State.ctl_eq rfl (fun _ => rfl) (fun _ => rfl) fun q => ?_
  by_cases h : q = k
  · rw [h, State.keel_updKeel, hf]
  · rw [State.keel_updKeel_other _ _ _ _ h]

end

theorem foldl_ctl {α : Type} (f : State → α → State) (h : ∀ s a, (f s a).ctl = s.ctl) (l : List α) (s : State) :
    (l.foldl f s).ctl = s.ctl := foldl_keeps_proj State.ctl f h l s

/-! ## The home's copy -/

@[simp] theorem State.takeTracker_ctl (s : State) (k p who : Nat) : (s.takeTracker k p who).ctl = s.ctl :=
  State.updKeel_ctl _ _ _ rfl

@[simp] theorem State.freeTracker_ctl (s : State) (k p who : Nat) : (s.freeTracker k p who).ctl = s.ctl :=
  State.updKeel_ctl _ _ _ rfl

@[simp] theorem State.reqs_ctl (s : State) (r : List HomeReq) : ({ s with reqs := r } : State).ctl = s.ctl := rfl

@[simp] theorem State.newReq_ctl (s : State) (op : HomeOp) (line p : Nat) (who : Requester) (va hint : Nat) :
    (s.newReq op line p who va hint).ctl = s.ctl := by
  simp only [State.newReq]
  split <;> simp

@[simp] theorem State.homeUndo_ctl (s : State) (line : Nat) (mask : BitVec 8) : (s.homeUndo line mask).ctl = s.ctl := by
  unfold State.homeUndo
  dsimp only
  split
  · rfl
  · split <;> simp

@[simp] theorem State.granFlush_ctl (s : State) (key : Nat) : (s.granFlush key).ctl = s.ctl := by
  unfold State.granFlush
  dsimp only
  split <;> simp

@[simp] theorem State.granEvict_ctl (s : State) (key : Nat) : (s.granEvict key).ctl = s.ctl := by
  unfold State.granEvict
  split <;> simp

@[simp] theorem State.granAlloc_ctl (s : State) (p line hint : Nat) : (s.granAlloc p line hint).ctl = s.ctl := by
  unfold State.granAlloc
  dsimp only
  split
  · rfl
  split
  · simp
  split
  · rfl
  split
  · rfl
  split <;> simp

@[simp] theorem State.granFill_ctl (s : State) (line : Nat) (need : BitVec 8) : (s.granFill line need).ctl = s.ctl := by
  unfold State.granFill
  split <;> simp

@[simp] theorem State.homeKeep_ctl (s : State) (line : Nat) (bs : Bytes) (dead : Bool) : (s.homeKeep line bs dead).ctl = s.ctl := by
  unfold State.homeKeep
  split <;> simp

@[simp] theorem State.homeWrite_ctl (s : State) (p line : Nat) (bs : Bytes) (dead poison : Bool) (hint : Nat) :
    (s.homeWrite p line bs dead poison hint).ctl = s.ctl := by
  unfold State.homeWrite
  split
  · rfl
  · dsimp only
    split <;> simp

@[simp] theorem State.landMsg_ctl (s : State) (m : CohMsg) : (s.land_ m).ctl = s.ctl := by
  unfold State.land_
  dsimp only
  split
  · rfl
  split
  · simp
  split <;> simp

@[simp] theorem State.recallOne_ctl (s : State) (key : Nat) (b : BinLine) : (s.recallOne key b).ctl = s.ctl := by
  unfold State.recallOne
  dsimp only
  rw [State.bins_ctl]
  split <;> simp

@[simp] theorem State.pokeLine_ctl (s : State) (p line : Nat) (bs : Bytes) (poison : Bool) : (s.pokeLine p line bs poison).ctl = s.ctl := by
  unfold State.pokeLine
  dsimp only
  split
  · rfl
  split
  · simp
  · rw [State.homeWrite_ctl, foldl_ctl _ (fun _ _ => by simp), foldl_ctl _ (fun _ _ => by simp)]

@[simp] theorem State.untag_ctl (s : State) (o len : Nat) : (s.untag o len).ctl = s.ctl :=
  foldl_ctl _ (fun _ _ => by simp) _ _

@[simp] theorem State.poke_ctl (s : State) (p a : Nat) (bs : List Byte) (poison : Bool) : (s.poke p a bs poison).ctl = s.ctl := by
  unfold State.poke
  dsimp only
  split
  · rfl
  · rw [foldl_ctl _ (fun _ _ => by simp), State.untag_ctl]

/-! ## Writes that leave the module -/

@[simp] theorem State.sendTxn_ctl (s : State) (n p cls : Nat) (t : Txn) : (s.sendTxn n p cls t).ctl = s.ctl := by
  unfold State.sendTxn
  split <;> simp

@[simp] theorem State.sendWrite_ctl (s : State) (n p cls dpa : Nat) (bs : List Byte) (poison : Bool) (hint : Nat) :
    (s.sendWrite n p cls dpa bs poison hint).ctl = s.ctl := by
  simp [State.sendWrite]

theorem State.remoteWrite_ctl {s t : State} {p cls dpa : Nat} {bs : List Byte} {poison : Bool} {hint : Nat}
    (h : s.remoteWrite p cls dpa bs poison hint = some t) : t.ctl = s.ctl := by
  unfold State.remoteWrite at h
  split at h
  · obtain rfl := Option.some.inj h
    exact foldl_ctl _ (fun _ _ => by simp) _ _
  · exact absurd h (by simp)

@[simp] theorem State.hostPost_ctl (s : State) (port fn addr : Nat) (data : List Byte) (ep : Bool) (maker : Nat × Nat × Nat × Nat) :
    (s.hostPost port fn addr data ep maker).ctl = s.ctl := foldl_ctl _ (fun _ _ => by simp) _ _

theorem State.hostWrite_ctl {s t : State} {port p w : Nat} {bs : List Byte} {poison : Bool} {src va eng : Nat}
    (h : s.hostWrite port p w bs poison src va eng = some t) : t.ctl = s.ctl := by
  unfold State.hostWrite at h
  obtain ⟨a, _, rfl⟩ := Option.map_eq_some_iff.1 h
  simp

@[simp] theorem State.writeDpa_ctl (s : State) (p va dpa : Nat) (bs : List Byte) (poison : Bool) :
    (s.writeDpa p va dpa bs poison).2.ctl = s.ctl := by
  unfold State.writeDpa
  split
  · split
    · next h => exact State.remoteWrite_ctl h
    · rfl
  · split
    · split
      · rfl
      · split
        · next h => exact State.hostWrite_ctl h
        · rfl
    · dsimp only
      split
      · rfl
      split
      · rfl
      split
      · rfl
      · simp
    · dsimp only
      split
      · rfl
      split
      · rfl
      split
      · rfl
      · simp
    · rfl

/-! ## Completion records -/

@[simp] theorem State.startWalk_ctl (s : State) (eng : EngineRef) (p va acc tag : Nat) : (s.startWalk eng p va acc tag).ctl = s.ctl := by
  simp [State.startWalk]

@[simp] theorem State.translate_ctl (s : State) (eng : EngineRef) (p va acc tag : Nat) : (s.translate eng p va acc tag).2.ctl = s.ctl := by
  unfold State.translate
  split <;> simp

theorem State.endWalks_sequencer (s : State) (p seq : Nat) : (s.endWalks (.sequencer p seq)).ctl = s.ctl := rfl

@[simp] theorem State.recordOver_ctl (s : State) (p : Nat) (r : RecordWait) : (s.recordOver p r).ctl = s.ctl := by
  have h : ((s.updPol p fun q => { q with records := q.records.filter fun x => x.seq ≠ r.seq }).endWalks (.sequencer p r.seq)).ctl = s.ctl := by
    rw [State.endWalks_sequencer, State.updPol_ctl _ _ _ rfl]
  unfold State.recordOver
  dsimp only
  split
  · rw [State.raiseOwn_ctl, h]
  · exact h

@[simp] theorem State.settleRecord_ctl (s : State) (p : Nat) (r : RecordWait) : (s.settleRecord p r).ctl = s.ctl := by
  have ht := s.translate_ctl (.sequencer p r.seq) p r.va 1 r.tag
  unfold State.settleRecord
  split
  · simp
  split
  · next e d u hu =>
    rw [hu] at ht
    split
    · simpa using ht
    have hw := u.writeDpa_ctl p r.va d r.bytes false
    split
    all_goals
      next v hv =>
      rw [hv] at hw
      simpa using hw.trans ht
  all_goals
    next u hu =>
    rw [hu] at ht
    simpa using ht

@[simp] theorem State.postRecord_ctl (s : State) (p : Nat) (r : RecordWait) : (s.postRecord p r).ctl = s.ctl := by
  rw [State.postRecord, State.settleRecord_ctl, State.updPol_ctl _ _ _ rfl]

@[simp] theorem State.retryRecords_ctl (s : State) (p : Nat) : (s.retryRecords p).ctl = s.ctl :=
  foldl_ctl _ (fun _ _ => by simp) _ _

@[simp] theorem State.manifestRecord_ctl (s : State) (p : Nat) (m : Manifest) (status end_ left : Nat) :
    (s.manifestRecord p m status end_ left).ctl = s.ctl := by
  rw [State.manifestRecord, State.postRecord_ctl]

/-! ## Events that have been posted stay posted -/

/-- The module band holds, after what was there, only new events. -/
def State.told (b : List Event) (s : State) : Prop := b <+: s.crier.band

section
variable {b : List Event} {s t : State}

theorem State.told_of_crier (h : s.told b) (hc : t.crier = s.crier) : t.told b := by
  rw [State.told, hc]
  exact h

theorem State.told_self (s : State) : s.told s.crier.band := List.prefix_refl _

theorem State.told_raise (h : s.told b) (code : Code) (source book pol : Nat) (detail : List Byte) :
    (s.raise code source book pol detail).told b := h.trans (List.prefix_append _ _)

theorem State.told_raiseOwn (h : s.told b) (code : Code) (source p : Nat) (detail : List Byte) :
    (s.raiseOwn code source p detail).told b := State.told_raise h _ _ _ _ _

theorem State.told_permission (h : s.told b) (source p addr engine : Nat) : (s.permission source p addr engine).told b :=
  State.told_raise h _ _ _ _ _

theorem State.told_raiseBoth (h : s.told b) (code : Code) (source : Nat) (detail : List Byte) :
    (s.raiseBoth code source detail).told b := State.told_raise (State.told_raise h _ _ _ _ _) _ _ _ _ _

theorem State.told_foldl {α : Type} {f : State → α → State} (hf : ∀ s a, s.told b → (f s a).told b) (l : List α) (h : s.told b) :
    (l.foldl f s).told b := foldl_keeps f (State.told b) l (fun d a _ hd => hf d a hd) s h

end

theorem State.exists_band {s t : State} (h : t.told s.crier.band) : ∃ l, t.crier.band = s.crier.band ++ l := by
  obtain ⟨l, hl⟩ := h
  exact ⟨l, hl.symm⟩

section
variable (s : State)

@[simp] theorem State.newReq_crier (op : HomeOp) (line p : Nat) (who : Requester) (va hint : Nat) :
    (s.newReq op line p who va hint).crier = s.crier := by
  simp only [State.newReq]
  split <;> rfl

@[simp] theorem State.homeUndo_crier (line : Nat) (mask : BitVec 8) : (s.homeUndo line mask).crier = s.crier := by
  unfold State.homeUndo
  dsimp only
  split
  · rfl
  · split
    · rw [State.setGran_crier, State.updMark_crier]
    · rw [State.updMark_crier]

@[simp] theorem State.granFlush_crier (key : Nat) : (s.granFlush key).crier = s.crier := by
  unfold State.granFlush
  dsimp only
  split <;> simp

@[simp] theorem State.granEvict_crier (key : Nat) : (s.granEvict key).crier = s.crier := by
  unfold State.granEvict
  split <;> simp

@[simp] theorem State.granAlloc_crier (p line hint : Nat) : (s.granAlloc p line hint).crier = s.crier := by
  unfold State.granAlloc
  dsimp only
  split
  · rfl
  split
  · simp
  split
  · rfl
  split
  · rfl
  split <;> simp

@[simp] theorem State.granFill_crier (line : Nat) (need : BitVec 8) : (s.granFill line need).crier = s.crier := by
  unfold State.granFill
  split <;> simp

@[simp] theorem State.homeKeep_crier (line : Nat) (bs : Bytes) (dead : Bool) : (s.homeKeep line bs dead).crier = s.crier := by
  unfold State.homeKeep
  split <;> simp

@[simp] theorem State.homeWrite_crier (p line : Nat) (bs : Bytes) (dead poison : Bool) (hint : Nat) :
    (s.homeWrite p line bs dead poison hint).crier = s.crier := by
  unfold State.homeWrite
  split
  · rfl
  · dsimp only
    split <;> simp

end

section
variable {b : List Event} {s : State} (h : s.told b)
include h

theorem State.told_land (m : CohMsg) : (s.land_ m).told b := by
  unfold State.land_
  dsimp only
  split
  · exact State.told_raiseOwn h _ _ _ _
  have hw : ((if (m.data.filter fun e => inMask m.poison e.1).isEmpty
        then (if (m.data.filter fun e => !inMask m.poison e.1).isEmpty then s
          else s.homeWrite m.pol m.line (m.data.filter fun e => !inMask m.poison e.1) false false m.hint)
        else (if (m.data.filter fun e => !inMask m.poison e.1).isEmpty then s
          else s.homeWrite m.pol m.line (m.data.filter fun e => !inMask m.poison e.1) false false m.hint).homeWrite m.pol m.line
            (m.data.filter fun e => inMask m.poison e.1) false true m.hint)).crier = s.crier := by
    split <;> split <;> simp only [State.homeWrite_crier]
  split
  · exact State.told_of_crier h hw
  refine State.told_of_crier h ?_
  split
  · rw [State.updMark_crier, State.setGran_crier, State.homeUndo_crier, hw]
  · rw [State.updMark_crier, State.homeUndo_crier, hw]

theorem State.told_setBins (m : SMap BinLine) : ({ s with bins := m } : State).told b := h

theorem State.told_recallOne (key : Nat) (c : BinLine) : (s.recallOne key c).told b := by
  unfold State.recallOne
  dsimp only
  split
  · exact State.told_setBins (State.told_land h _) _
  · exact State.told_setBins h _

theorem State.told_pokeLine (p line : Nat) (bs : Bytes) (poison : Bool) : (s.pokeLine p line bs poison).told b := by
  unfold State.pokeLine
  dsimp only
  split
  · exact h
  split
  · exact State.told_of_crier h (by simp)
  · refine State.told_of_crier (s := List.foldl _ _ _) ?_ (State.homeWrite_crier _ _ _ _ _ _ _)
    refine State.told_foldl (f := fun s (e : Entry) => s.setShadow e.key {}) (fun _ _ hd => hd) _ ?_
    exact State.told_foldl (f := fun s (e : Nat × BinLine) => s.recallOne e.1 e.2) (fun _ _ hd => State.told_recallOne hd _ _) _ h

theorem State.told_poke (p a : Nat) (bs : List Byte) (poison : Bool) : (s.poke p a bs poison).told b := by
  unfold State.poke
  dsimp only
  split
  · exact State.told_permission h _ _ _ _
  · refine State.told_foldl (fun _ _ hd => State.told_pokeLine hd _ _ _ _) _ (s := s.untag a bs.length) ?_
    exact State.told_foldl (f := fun s (g : Nat × Nat) => s.updMark g.1 fun m => { m with tag := 0 }) (fun _ _ hd => hd) _ h

theorem State.told_sendTxn (n p cls : Nat) (t : Txn) : (s.sendTxn n p cls t).told b := by
  unfold State.sendTxn
  split <;> exact h

theorem State.told_remoteWrite {t : State} {p cls dpa : Nat} {bs : List Byte} {poison : Bool} {hint : Nat}
    (ht : s.remoteWrite p cls dpa bs poison hint = some t) : t.told b := by
  unfold State.remoteWrite at ht
  split at ht
  · obtain rfl := Option.some.inj ht
    refine State.told_foldl (f := fun s (e : Nat × List Byte) => s.sendWrite _ p cls e.1 e.2 poison hint) (fun u e hd => ?_) _ h
    simp only [State.sendWrite]
    refine State.told_sendTxn ?_ _ _ _ _
    exact State.told_of_crier hd rfl
  · exact absurd ht (by simp)

theorem State.told_hostWrite {t : State} {port p w : Nat} {bs : List Byte} {poison : Bool} {src va eng : Nat}
    (ht : s.hostWrite port p w bs poison src va eng = some t) : t.told b := by
  unfold State.hostWrite at ht
  obtain ⟨a, _, rfl⟩ := Option.map_eq_some_iff.1 ht
  exact State.told_foldl (f := fun u (e : Nat × List Byte) => u.toHost port (.memWrite (s.requester p) e.1 e.2 poison (p, src, va, eng)))
    (fun _ _ hd => hd) _ h

theorem State.told_writeDpa (p va dpa : Nat) (bs : List Byte) (poison : Bool) : (s.writeDpa p va dpa bs poison).2.told b := by
  unfold State.writeDpa
  split
  · split
    · next ht => exact State.told_remoteWrite h ht
    · exact h
  · split
    · split
      · exact h
      · split
        · next ht => exact State.told_hostWrite h ht
        · exact h
    · dsimp only
      split
      · exact h
      split
      · exact h
      split
      · exact h
      · exact State.told_poke h _ _ _ _
    · dsimp only
      split
      · exact h
      split
      · exact h
      split
      · exact h
      · exact State.told_poke h _ _ _ _
    · exact h

theorem State.told_translate (eng : EngineRef) (p va acc tag : Nat) : (s.translate eng p va acc tag).2.told b := by
  unfold State.translate
  split <;> exact h

theorem State.told_recordOver (p : Nat) (r : RecordWait) : (s.recordOver p r).told b := by
  unfold State.recordOver
  dsimp only
  split
  · exact State.told_raiseOwn (State.told_of_crier h rfl) _ _ _ _
  · exact State.told_of_crier h rfl

theorem State.told_settleRecord (p : Nat) (r : RecordWait) : (s.settleRecord p r).told b := by
  have ht := State.told_translate h (.sequencer p r.seq) p r.va 1 r.tag
  unfold State.settleRecord
  split
  · exact State.told_recordOver h _ _
  split
  · next e d u hu =>
    rw [hu] at ht
    split
    · exact State.told_recordOver (State.told_permission ht _ _ _ _) _ _
    have hw := State.told_writeDpa ht p r.va d r.bytes false
    split
    · next hv =>
      rw [hv] at hw
      exact State.told_recordOver hw _ _
    · next hv =>
      rw [hv] at hw
      exact State.told_recordOver (State.told_permission hw _ _ _ _) _ _
    · next hv =>
      rw [hv] at hw
      exact State.told_recordOver (State.told_raiseOwn hw _ _ _ _) _ _
    · next hv =>
      rw [hv] at hw
      exact hw
  · next hu =>
    rw [hu] at ht
    exact State.told_recordOver (State.told_permission ht _ _ _ _) _ _
  · next hu =>
    rw [hu] at ht
    exact State.told_recordOver (State.told_raiseOwn ht _ _ _ _) _ _
  · next hu =>
    rw [hu] at ht
    exact State.told_recordOver ht _ _
  · next hu =>
    rw [hu] at ht
    exact ht

theorem State.told_postRecord (p : Nat) (r : RecordWait) : (s.postRecord p r).told b :=
  State.told_settleRecord (s := s.updPol p _) h p r

theorem State.told_retryRecords (p : Nat) : (s.retryRecords p).told b :=
  State.told_foldl (fun _ _ hd => State.told_settleRecord hd _ _) _ h

theorem State.told_manifestRecord (p : Nat) (m : Manifest) (status end_ left : Nat) : (s.manifestRecord p m status end_ left).told b :=
  State.told_postRecord h _ _

end

end Sys2Proof.Machine
end

section
/-! SUPPORT. The end of a manifest: what it leaves alone, and that the manifest runs no more. -/

namespace Sys2Proof.Machine

open Sys2Proof

/-- The control state without the lists of running manifests. -/
def State.bare (s : State) : Ctl := { s.ctl with pol := fun p => { (s.pol p).core with running := [] } }

theorem State.bare_of_ctl {s t : State} (h : t.ctl = s.ctl) : t.bare = s.bare := by
  have hp : (fun p => (t.pol p).core) = fun p => (s.pol p).core := congrArg Ctl.pol h
  have hp' : (fun p => { (t.pol p).core with running := [] }) = fun p => { (s.pol p).core with running := [] } :=
    funext fun p => congrArg (fun q : Polder => { q with running := [] }) (congrFun hp p)
  unfold State.bare
  rw [h, hp']

section
variable {s t : State} (h : t.ctl = s.ctl)
include h

theorem State.running_of_ctl (p : Nat) : (t.pol p).running = (s.pol p).running :=
  congrArg (fun c : Ctl => (c.pol p).running) h

theorem State.isRunning_of_ctl (p seq : Nat) : (t.pol p).isRunning seq = (s.pol p).isRunning seq := by
  rw [Polder.isRunning, Polder.isRunning, State.running_of_ctl h]

theorem State.pending_of_ctl (p : Nat) : (t.pol p).pending = (s.pol p).pending :=
  congrArg (fun c : Ctl => (c.pol p).pending) h

end

theorem State.updPol_ctl_congr {s t : State} (h : t.ctl = s.ctl) (p : Nat) {f : Polder → Polder}
    (hf : ∀ q, (f q).core = f q.core) : (t.updPol p f).ctl = (s.updPol p f).ctl := by
  have hr : t.plain = s.plain := congrArg Ctl.rest h
  have hp : ∀ q, (t.pol q).core = (s.pol q).core := fun q => congrFun (congrArg Ctl.pol h) q
  refine State.ctl_eq hr (fun q => ?_) (fun d => congrFun (congrArg Ctl.mill h) d) fun k => congrFun (congrArg Ctl.keel h) k
  by_cases hq : q = p
  · rw [hq, State.pol_updPol, State.pol_updPol, hf, hf, hp]
  · rw [State.pol_updPol_other _ _ _ _ hq, State.pol_updPol_other _ _ _ _ hq, hp]

/-- A change of the running list alone. -/
theorem State.updPol_bare (s : State) (p : Nat) (f : Polder → Polder)
    (hf : ∀ q, { (f q).core with running := [] } = { q.core with running := [] }) : (s.updPol p f).bare = s.bare := by
  have hp : (fun q => { ((s.updPol p f).pol q).core with running := [] }) = fun q => { (s.pol q).core with running := [] } := by
    funext q
    by_cases h : q = p
    · rw [h, State.pol_updPol, hf]
    · rw [State.pol_updPol_other _ _ _ _ h]
  unfold State.bare
  rw [hp]
  rfl

@[simp] theorem State.updRun_bare (s : State) (p seq : Nat) (f : Run → Run) : (s.updRun p seq f).bare = s.bare := by
  refine State.updPol_bare _ _ _ fun q => ?_
  split <;> rfl

theorem foldl_bare {α : Type} (f : State → α → State) (h : ∀ s a, (f s a).bare = s.bare) (l : List α) (s : State) :
    (l.foldl f s).bare = s.bare := foldl_keeps_proj State.bare f h l s

/-! ## The parts of an end -/

@[simp] theorem State.sendNotices_ctl (s : State) (p seq reason : Nat) : (s.sendNotices p seq reason).ctl = s.ctl := by
  unfold State.sendNotices
  dsimp only
  split
  · rfl
  split
  · rfl
  · refine foldl_ctl _ (fun u m => ?_) _ _
    split
    · rw [State.updLink_ctl]
      exact State.free_ctl u 6
    · rfl

@[simp] theorem State.walkAgain_ctl (s : State) (w : Walk) : (s.walkAgain w).ctl = s.ctl := by
  unfold State.walkAgain
  split <;> rfl

theorem State.closeMiss_ctl (s : State) (m : Miss) (f : State → Walk → State) (hf : ∀ s w, (f s w).ctl = s.ctl) :
    (s.closeMiss m f).ctl = s.ctl := by
  unfold State.closeMiss
  dsimp only
  rw [foldl_ctl, State.updLand_ctl]
  intro u w
  split
  · exact hf u w
  split
  · simp
  · rfl

@[simp] theorem State.endWalksOf_ctl (s : State) (f : EngineRef → Bool) : (s.endWalksOf f).ctl = s.ctl := by
  unfold State.endWalksOf
  dsimp only
  rw [foldl_ctl _ (fun u m => State.closeMiss_ctl u m _ fun _ _ => rfl), State.updLand_ctl]

@[simp] theorem State.markTiles_ctl (s : State) (d : Nat) (tiles : BitVec 16) (runs last : Nat) :
    (s.markTiles d tiles runs last).ctl = s.ctl := State.updMill_ctl _ _ _ rfl

@[simp] theorem State.endOps_ctl (s : State) (f : MillOp → Bool) : (s.endOps f).ctl = s.ctl := by
  unfold State.endOps
  refine foldl_ctl _ (fun u d => ?_) _ _
  have hm : ∀ l : List MillOp, (l.foldl (fun s o => (o.dies d).foldl (fun s e => s.markTiles e o.tiles s.clock (s.clock + 1)) s) u).ctl
      = u.ctl := fun l => foldl_ctl _ (fun v o => foldl_ctl _ (fun _ _ => by simp) _ _) _ _
  dsimp only
  split
  · exact hm _
  · rw [State.updMill_ctl _ _ _ rfl]
    exact hm _

/-- A manifest that ends leaves the running list; a polder's other manifests stay. -/
theorem State.endRun_ctl (s : State) (p seq status end_ left : Nat) (h : (s.pol p).isRunning seq = true) :
    (s.endRun p seq status end_ left).ctl = (s.updPol p fun q => { q with running := q.running.filter fun e => e.1 ≠ seq }).ctl := by
  unfold State.endRun
  rw [if_neg (by simp [h])]
  dsimp only
  rw [State.manifestRecord_ctl]
  refine State.updPol_ctl_congr ?_ p fun _ => rfl
  rw [State.hands_ctl, State.endOps_ctl, State.endWalksOf_ctl]
  split
  · exact State.sendNotices_ctl s p seq 2
  · rfl

theorem State.endRun_idle (s : State) (p seq status end_ left : Nat) (h : (s.pol p).isRunning seq = false) :
    s.endRun p seq status end_ left = s := by
  unfold State.endRun
  rw [if_pos (by simp [h])]

@[simp] theorem State.endRun_bare (s : State) (p seq status end_ left : Nat) : (s.endRun p seq status end_ left).bare = s.bare := by
  cases h : (s.pol p).isRunning seq with
  | true => exact (State.bare_of_ctl (s.endRun_ctl p seq status end_ left h)).trans (State.updPol_bare _ _ _ fun _ => rfl)
  | false => rw [State.endRun_idle _ _ _ _ _ _ h]

@[simp] theorem State.updLag_bare (s : State) (p seq : Nat) : (s.updLag p seq).bare = s.bare := by
  unfold State.updLag
  split <;> simp

@[simp] theorem State.fenceRun_bare (s : State) (p seq : Nat) : (s.fenceRun p seq).bare = s.bare := by
  simp [State.fenceRun]

@[simp] theorem State.fenceRuns_bare (s : State) (p : Nat) : (s.fenceRuns p).bare = s.bare :=
  foldl_bare _ (fun _ _ => by simp) _ _

/-! ## What runs after an end -/

theorem Polder.isRunning_filter (q : Polder) (seq j : Nat) :
    Polder.isRunning { q with running := q.running.filter fun e => e.1 ≠ seq } j = (q.isRunning j && j ≠ seq) := by
  simp only [Polder.isRunning, List.any_filter]
  induction q.running with
  | nil => rfl
  | cons e l ih =>
    simp only [List.any_cons, ih]
    by_cases he : e.1 = j <;> by_cases hj : j = seq <;> simp [he, hj]

theorem State.endRun_isRunning (s : State) (p seq status end_ left j : Nat) :
    ((s.endRun p seq status end_ left).pol p).isRunning j = ((s.pol p).isRunning j && j ≠ seq) := by
  cases h : (s.pol p).isRunning seq with
  | true => rw [State.isRunning_of_ctl (s.endRun_ctl p seq status end_ left h), State.pol_updPol, Polder.isRunning_filter]
  | false =>
    rw [State.endRun_idle _ _ _ _ _ _ h]
    by_cases hj : j = seq <;> simp [hj, h]

theorem State.endRun_pol_other (s : State) (p seq status end_ left q : Nat) (hq : q ≠ p) :
    ((s.endRun p seq status end_ left).pol q).running = (s.pol q).running := by
  cases h : (s.pol p).isRunning seq with
  | true => rw [State.running_of_ctl (s.endRun_ctl p seq status end_ left h), State.pol_updPol_other _ _ _ _ hq]
  | false => rw [State.endRun_idle _ _ _ _ _ _ h]

/-- A change of a running manifest starts none. -/
theorem State.updRun_isRunning (s : State) (p seq q j : Nat) (f : Run → Run) (h : (s.pol q).isRunning j = false) :
    ((s.updRun p seq f).pol q).isRunning j = false := by
  by_cases hq : q = p
  · subst hq
    rw [State.updRun, State.pol_updPol]
    split
    · next hseq =>
      rw [Polder.isRunning, List.any_eq_false] at h ⊢
      intro e he
      rcases SMap.mem_set he with hk | hm
      · intro hj
        have hj' : seq = j := by simpa [hk] using hj
        rw [← hj'] at h
        rw [Polder.isRunning, List.any_eq_true] at hseq
        obtain ⟨x, hx, hxs⟩ := hseq
        exact h x hx hxs
      · exact h e hm
    · exact h
  · rw [State.updRun, State.pol_updPol_other _ _ _ _ hq]
    exact h

theorem State.updLag_isRunning (s : State) (p seq q j : Nat) (h : (s.pol q).isRunning j = false) :
    ((s.updLag p seq).pol q).isRunning j = false := by
  unfold State.updLag
  split
  · exact State.updRun_isRunning _ _ _ _ _ _ h
  · exact h

theorem State.fenceRun_ends (s : State) (p seq : Nat) : ((s.fenceRun p seq).pol p).isRunning seq = false := by
  rw [State.fenceRun, State.endRun_isRunning]
  simp

/-- What has ended stays ended. -/
theorem State.fenceRun_isRunning (s : State) (p seq q j : Nat) (h : (s.pol q).isRunning j = false) :
    ((s.fenceRun p seq).pol q).isRunning j = false := by
  rw [State.fenceRun]
  have hl := State.updLag_isRunning s p seq q j h
  by_cases hq : q = p
  · subst hq
    rw [State.endRun_isRunning, hl, Bool.false_and]
  · rw [Polder.isRunning, State.endRun_pol_other _ _ _ _ _ _ _ hq]
    exact hl

/-- A fold of fences ends every manifest that it names. -/
theorem State.fold_fenceRun_ends {α : Type} (p : Nat) (seqOf : α → Nat) (test : State → α → Bool) (l : List α) (s : State) (a : α)
    (ha : a ∈ l) (ht : ∀ u, u.bare = s.bare → test u a = true) :
    ((l.foldl (fun s a => if test s a then s.fenceRun p (seqOf a) else s) s).pol p).isRunning (seqOf a) = false := by
  refine foldl_reaches _ (fun u => u.bare = s.bare) (fun u : State => (u.pol p).isRunning (seqOf a) = false) a l ?_ ?_ ?_ ha s rfl
  · intro u b _ hu
    split
    · rw [State.fenceRun_bare, hu]
    · exact hu
  · intro u hu
    rw [if_pos (ht u hu)]
    exact State.fenceRun_ends u p _
  · intro u b _ _ _ hu
    split
    · exact State.fenceRun_isRunning _ _ _ _ _ hu
    · exact hu

/-! ## Events -/

section
variable {b : List Event} {s : State} (h : s.told b)
include h

theorem State.told_sendNotices (p seq reason : Nat) : (s.sendNotices p seq reason).told b := by
  unfold State.sendNotices
  dsimp only
  split
  · exact h
  split
  · exact h
  · refine State.told_foldl (fun u m hu => ?_) _ h
    split <;> exact hu

theorem State.told_closeMiss (m : Miss) (f : State → Walk → State) (hf : ∀ s w, s.told b → (f s w).told b) : (s.closeMiss m f).told b := by
  unfold State.closeMiss
  refine State.told_foldl (fun u w hu => ?_) _ ?_
  · split
    · exact hf u w hu
    split
    · exact State.told_of_crier hu (State.walkAgain_crier u w)
    · exact hu
  · exact h

theorem State.told_endWalksOf (f : EngineRef → Bool) : (s.endWalksOf f).told b := by
  unfold State.endWalksOf
  exact State.told_foldl (fun u m hu => State.told_closeMiss hu m _ fun _ _ hd => hd) _ h

theorem State.told_endOps (f : MillOp → Bool) : (s.endOps f).told b := by
  unfold State.endOps
  refine State.told_foldl (fun u d hu => ?_) _ h
  have hm : ∀ l : List MillOp,
      (l.foldl (fun s o => (o.dies d).foldl (fun s e => s.markTiles e o.tiles s.clock (s.clock + 1)) s) u).told b :=
    fun l => State.told_foldl (fun v o hv =>
      State.told_foldl (f := fun s e => s.markTiles e o.tiles s.clock (s.clock + 1)) (fun _ _ hd => hd) _ hv) _ hu
  dsimp only
  split
  · exact hm _
  · exact hm _

theorem State.told_updPol (p : Nat) (f : Polder → Polder) : (s.updPol p f).told b := h
theorem State.told_setHands (m : SMap Hand) : ({ s with hands := m } : State).told b := h

theorem State.told_endRun (p seq status end_ left : Nat) : (s.endRun p seq status end_ left).told b := by
  have hn : (if status = stFenced then s.sendNotices p seq 2 else s).told b := by
    split
    · exact State.told_sendNotices h _ _ _
    · exact h
  unfold State.endRun
  split
  · exact h
  · exact State.told_manifestRecord
      (State.told_updPol (State.told_setHands (State.told_endOps (State.told_endWalksOf hn _) _) _) _ _) _ _ _ _ _

theorem State.told_updLag (p seq : Nat) : (s.updLag p seq).told b := by
  unfold State.updLag
  split <;> exact h

theorem State.told_fenceRun (p seq : Nat) : (s.fenceRun p seq).told b := State.told_endRun (State.told_updLag h _ _) _ _ _ _ _

theorem State.told_fenceRuns (p : Nat) : (s.fenceRuns p).told b := State.told_foldl (fun _ _ hd => State.told_fenceRun hd _ _) _ h

end

end Sys2Proof.Machine
end

section
/-! SUPPORT. The messages of the link band (chapter 12: R258, R265, R266, R269 to R271). -/

namespace Sys2Proof.Machine

open Sys2Proof

/-! ## Messages of the band -/

theorem State.bandTake_up (s : State) (n src : Nat) (b : BandMsg) (f : State → State) (h : (s.link n).state = 2) :
    s.bandTake n src b f = f (s.updLink n fun l => { l with inbox := l.inbox.erase (src, b) }) := by
  unfold State.bandTake
  rw [if_neg (by simp [h])]

/-- The state is the old one with other link ports. -/
def LinksOnly (s t : State) : Prop := t = { s with links := t.links }

theorem LinksOnly.updLink {s t : State} (h : LinksOnly s t) (n : Nat) (f : LinkPort → LinkPort) : LinksOnly s (t.updLink n f) := by
  unfold LinksOnly State.updLink at *
  rw [h]

theorem LinksOnly.self (s : State) : LinksOnly s s := rfl

theorem LinksOnly.alm {s t : State} (h : LinksOnly s t) : t.alm = s.alm := by rw [h]

theorem LinksOnly.commons {s t : State} (h : LinksOnly s t) : t.commons = s.commons := by rw [h]
theorem LinksOnly.mem {s t : State} (h : LinksOnly s t) : t.mem = s.mem := by rw [h]

theorem LinksOnly.pwr {s t : State} (h : LinksOnly s t) : t.pwr = s.pwr := by rw [h]
theorem LinksOnly.commonsOn {s t : State} (h : LinksOnly s t) : t.commonsOn = s.commonsOn := by rw [h]; rfl
theorem LinksOnly.shiftOk {s t : State} (h : LinksOnly s t) : t.shiftOk = s.shiftOk := by rw [h]; rfl

theorem State.refit_linksOnly {s t : State} (h : LinksOnly s t) (n : Nat) : LinksOnly s (t.refit n) := h.updLink n _

/-- The unfitness of a port is all that a new look at it changes. -/
theorem State.refit_link (s : State) (n : Nat) : ∃ u, (s.refit n).link n = { s.link n with unfitSince := u } :=
  ⟨_, State.link_updLink _ _ _⟩

/-- The Almanac's discipline leaves the link ports alone. -/
theorem State.measured_links (s : State) (off : Int) : (s.measured off).links = s.links := by
  unfold State.measured State.free
  dsimp only
  split
  · split
    · rfl
    · split <;> rfl
  · split
    · rfl
    · split <;> rfl
  · rfl
  · rfl

theorem State.refMissing_links (s : State) : s.refMissing.links = s.links := by
  unfold State.refMissing
  dsimp only
  split
  · rfl
  · split <;> rfl

theorem State.linkOffset_link (s : State) (n : Nat) (off : Int) :
    ∃ u, (s.linkOffset n off).link n = { s.link n with offset := clampInt 2047 off, exchMissing := 0, unfitSince := u } := by
  obtain ⟨u, hu⟩ := State.refit_link (s.updLink n fun l => { l with offset := clampInt 2047 off, exchMissing := 0 }) n
  rw [State.link_updLink] at hu
  refine ⟨u, ?_⟩
  unfold State.linkOffset
  dsimp only
  split
  · rw [State.link, State.measured_links]
    exact hu
  · exact hu

/-- A port that does not steer the Almanac leaves it alone. -/
theorem State.linkOffset_alm (s : State) (n : Nat) (off : Int) (h : s.alm.source ≠ 4 ∨ s.alm.zlPort ≠ n) :
    (s.linkOffset n off).alm = s.alm := by
  unfold State.linkOffset
  dsimp only
  rw [if_neg]
  · exact (State.refit_linksOnly ((LinksOnly.self s).updLink n _) n).alm
  · have ha : ((s.updLink n fun l => { l with offset := clampInt 2047 off, exchMissing := 0 }).refit n).alm = s.alm := rfl
    rw [ha]
    rcases h with h | h <;> simp [h]

/-- The discipline leaves the count alone. -/
theorem State.measured_now (s : State) (off : Int) : (s.measured off).alm.now = s.alm.now := by
  unfold State.measured State.free
  dsimp only
  split
  · split
    · rfl
    · split <;> rfl
  · split
    · rfl
    · split <;> rfl
  · rfl
  · rfl

theorem State.linkOffset_now (s : State) (n : Nat) (off : Int) : (s.linkOffset n off).alm.now = s.alm.now := by
  unfold State.linkOffset
  dsimp only
  split
  · exact State.measured_now _ _
  · rfl

theorem State.fit_of_missing (s : State) (n : Nat) (h : (s.link n).exchMissing = 3) : s.fit n = false := by
  simp [State.fit, h]

theorem Almanac.takeHops_now (a : Almanac) (carried : Nat) : (a.takeHops carried).now = a.now := by
  unfold Almanac.takeHops
  dsimp only
  split <;> rfl

theorem Almanac.takeHops_hops (a : Almanac) (carried : Nat) : (a.takeHops carried).hops = min 15 (carried + 1) := by
  unfold Almanac.takeHops
  dsimp only
  split <;> rfl

theorem Almanac.takeHops_state (a : Almanac) (carried : Nat) :
    (a.takeHops carried).state = if a.state = 2 ∧ 2 ≤ carried then 1 else a.state := by
  unfold Almanac.takeHops
  dsimp only
  have hh : (3 ≤ min 15 (carried + 1)) ↔ 2 ≤ carried := by omega
  by_cases h : a.state = 2 ∧ 2 ≤ carried
  · rw [if_pos (by simp [h.1, hh, h.2]), if_pos h]
  · rw [if_neg (by simpa [hh] using h), if_neg h]

/-- What an answered ALM_SYNC leaves at the port and in the Almanac. -/
theorem State.sync_answer (v : State) (n : ZPort) (t1 hops : Nat) (s : State) (h1 : (v.link n).t1 = t1) (h2 : (v.link n).t2 = s.alm.now)
    (h3 : (v.link n).band = (s.link n).band)
    (hst : s.alm.source = 4 ∧ s.alm.zlPort = n.val → v.alm = s.alm.takeHops hops)
    (hne : ¬(s.alm.source = 4 ∧ s.alm.zlPort = n.val) → v.alm = s.alm) :
    ((v.sendBand n (.almReq v.alm.now v.alm.now)).link n).t1 = t1 ∧ ((v.sendBand n (.almReq v.alm.now v.alm.now)).link n).t2 = s.alm.now
      ∧ ((v.sendBand n (.almReq v.alm.now v.alm.now)).link n).band = (s.link n).band ++ [.almReq s.alm.now s.alm.now]
      ∧ v.alm.now = s.alm.now
      ∧ (s.alm.source = 4 ∧ s.alm.zlPort = n.val → v.alm.hops = min 15 (hops + 1)
          ∧ v.alm.state = if s.alm.state = 2 ∧ 2 ≤ hops then 1 else s.alm.state)
      ∧ (¬(s.alm.source = 4 ∧ s.alm.zlPort = n.val) → v.alm = s.alm) := by
  have hnow : v.alm.now = s.alm.now := by
    by_cases h : s.alm.source = 4 ∧ s.alm.zlPort = n.val
    · rw [hst h, Almanac.takeHops_now]
    · rw [hne h]
  rw [hnow, State.sendBand, State.link_updLink]
  refine ⟨h1, h2, by rw [h3], rfl, fun h => ?_, hne⟩
  rw [hst h]
  exact ⟨s.alm.takeHops_hops hops, s.alm.takeHops_state hops⟩

/-! ## NOTICE (R270) -/

theorem SMap.any_key_set {α : Type} [DecidableEq α] (d : α) (m : SMap α) (i : Nat) (v : α) (hv : v ≠ d) :
    ((m.set d i v).any fun e => e.1 = i) = true := by
  have hm := SMap.mem_of_get d (m.set d i v) i (by rw [SMap.get_set_same]; exact hv)
  exact List.any_eq_true.2 ⟨_, hm, by simp⟩

/-- A running manifest that is not all defaults runs on after a change that leaves it so. -/
theorem State.updRun_still_runs (s : State) (p seq : Nat) (f : Run → Run) (hr : (s.pol p).isRunning seq = true)
    (hf : f ((s.pol p).run seq) ≠ {}) : ((s.updRun p seq f).pol p).isRunning seq = true := by
  rw [State.updRun, State.pol_updPol, if_pos hr]
  exact SMap.any_key_set _ _ _ _ hf

theorem State.chargeHeld_keeps (s : State) (r : Run) : (s.chargeHeld r).m = r.m ∧ (s.chargeHeld r).missRaised = r.missRaised := by
  unfold State.chargeHeld
  dsimp only
  split <;> exact ⟨rfl, rfl⟩

theorem Run.lagTo_keeps (r : Run) (l : Nat) : (r.lagTo l).m = r.m ∧ (r.lagTo l).missRaised = r.missRaised := by
  unfold Run.lagTo
  split <;> exact ⟨rfl, rfl⟩

/-- A hard manifest that is brought up to now runs on, its DEADLINE_MISS as before. -/
theorem State.updLag_run (s : State) (p seq : Nat) (hr : (s.pol p).isRunning seq = true) (hh : ((s.pol p).run seq).m.hard = true) :
    ((s.updLag p seq).pol p).isRunning seq = true ∧ (((s.updLag p seq).pol p).run seq).m = ((s.pol p).run seq).m
      ∧ (((s.updLag p seq).pol p).run seq).missRaised = ((s.pol p).run seq).missRaised := by
  have hm := (Run.lagTo_keeps (s.chargeHeld ((s.pol p).run seq)) (s.lagNow ((s.pol p).run seq)))
  have hc := s.chargeHeld_keeps ((s.pol p).run seq)
  unfold State.updLag
  rw [if_pos (by simp [hr, hh]), State.run_updRun _ _ _ _ hr]
  refine ⟨State.updRun_still_runs _ _ _ _ hr fun h0 => ?_, hm.1.trans hc.1, hm.2.trans hc.2⟩
  have hz := hm.1.trans hc.1
  rw [h0] at hz
  rw [← hz] at hh
  cases hh

theorem State.updLag_crier (s : State) (p seq : Nat) : (s.updLag p seq).crier = s.crier := by
  unfold State.updLag
  split <;> rfl

theorem Polder.run_of_single {q : Polder} {seq : Nat} {r : Run} (h : q.running = [(seq, r)]) :
    q.run seq = r ∧ q.isRunning seq = true := by
  rw [Polder.run, Polder.isRunning, h]
  simp [SMap.get]

/-! ## The power commons (R271) -/

/-- Every listed link port has a property. -/
def State.eachLink (P : LinkPort → Prop) (s : State) : Prop := ∀ e ∈ s.links, P e.2

theorem LinkPort.shift_zeroed (l : LinkPort) : ({ l with shift := 0 } : LinkPort).shift = 0 := rfl

theorem State.link_of_eachLink {P : LinkPort → Prop} {s : State} (h : s.eachLink P) (hd : P {}) (n : Nat) : P (s.link n) := by
  by_cases hn : s.link n = {}
  · rw [hn]
    exact hd
  · exact h _ (SMap.mem_of_get _ _ _ hn)

theorem SMap.of_mem_mapAll {α : Type} [DecidableEq α] {P : α → Prop} {d : α} {m : SMap α} {f : Nat → α → α} {e : Nat × α}
    (he : e ∈ m.mapAll d f) (hf : ∀ x ∈ m, P (f x.1 x.2)) : P e.2 := by
  obtain ⟨v, hv, hev⟩ := SMap.mem_mapAll he
  rw [hev]
  exact hf _ hv

theorem State.eachLink_updLink {P : LinkPort → Prop} {s : State} (h : s.eachLink P) (n : Nat) (f : LinkPort → LinkPort)
    (hf : P (f (s.link n))) : (s.updLink n f).eachLink P := by
  intro e he
  rcases SMap.mem_set he with hk | hm
  · rw [hk]
    exact hf
  · exact h e hm

theorem State.lapseShifts_of_none (s : State) (h : ∀ n, (s.link n).shift = 0) : s.lapseShifts = s := by
  unfold State.lapseShifts
  generalize List.range 64 = l
  induction l with
  | nil => rfl
  | cons n l ih =>
    rw [List.foldl_cons]
    dsimp only
    rw [if_pos (h n)]
    exact ih

/-- What the end of an epoch leaves alone: all but the link ports, the commons, the events and the power. -/
def State.epochCalm (s : State) : State := { s with links := [], commons := {}, crier := {}, pwr := {}, mills := [], pmbus := {} }

theorem State.epochCalm_updLink (s : State) (n : Nat) (f : LinkPort → LinkPort) : (s.updLink n f).epochCalm = s.epochCalm := rfl
theorem State.epochCalm_commons (s : State) (c : Commons) : ({ s with commons := c } : State).epochCalm = s.epochCalm := rfl

section
variable {s t : State} (h : t.epochCalm = s.epochCalm)
include h

theorem State.sealed_of_epochCalm : t.sealed = s.sealed := (congrArg State.sealed h : t.epochCalm.sealed = s.epochCalm.sealed)
theorem State.mem_of_epochCalm : t.mem = s.mem := (congrArg State.mem h : t.epochCalm.mem = s.epochCalm.mem)
theorem State.alm_of_epochCalm : t.alm = s.alm := (congrArg State.alm h : t.epochCalm.alm = s.epochCalm.alm)

end

theorem State.lapseShifts_commons (s : State) :
    s.lapseShifts.commons.commons = s.commons.commons ∧ s.lapseShifts.epochCalm = s.epochCalm := by
  unfold State.lapseShifts
  refine foldl_keeps _ (fun t : State => t.commons.commons = s.commons.commons ∧ t.epochCalm = s.epochCalm) _ ?_ s ⟨rfl, rfl⟩
  rintro t n - ⟨hc, hs⟩
  dsimp only
  split
  · exact ⟨hc, hs⟩
  split
  · exact ⟨hc, (State.epochCalm_updLink _ _ _).trans hs⟩
  split
  · exact ⟨hc, ((State.epochCalm_updLink _ _ _).trans (State.epochCalm_commons _ _)).trans hs⟩
  · exact ⟨hc, (State.epochCalm_updLink _ _ _).trans hs⟩

/-- What a message of the band changes: the link ports alone. -/
theorem State.sendBand_links (s : State) (n : Nat) (b : BandMsg) : LinksOnly s (s.sendBand n b) := (LinksOnly.self s).updLink n _

theorem LinksOnly.trans {s t u : State} (h : LinksOnly s t) (h' : LinksOnly t u) : LinksOnly s u := by
  unfold LinksOnly at *
  rw [h', h]

theorem State.makeOffer_links (s : State) (late : List (Nat × Nat)) (heard : List Nat) : LinksOnly s (s.makeOffer late heard) := by
  unfold State.makeOffer
  split
  · exact LinksOnly.self s
  · extract_lets worst own watts
    split
    · exact LinksOnly.self s
    · exact ((LinksOnly.self s).updLink _ _).updLink _ _

theorem State.foldl_linksOnly {α : Type} {f : State → α → State} (hf : ∀ s a, LinksOnly s (f s a)) (l : List α) (s : State) :
    LinksOnly s (l.foldl f s) :=
  foldl_keeps f (LinksOnly s) l (fun d a _ hd => LinksOnly.trans hd (hf d a)) s (LinksOnly.self s)

theorem State.links_of_sansPower {s t : State} (h : t.sansPower = s.sansPower) : t.links = s.links :=
  (congrArg State.links h : t.sansPower.links = s.sansPower.links)

theorem State.commons_of_sansPower {s t : State} (h : t.sansPower = s.sansPower) : t.commons = s.commons :=
  (congrArg State.commons h : t.sansPower.commons = s.sansPower.commons)

/-- A new cap in force and new levels leave the rest alone. -/
theorem State.recap_reweir_keeps (s : State) : s.recap.reweir.links = s.links ∧ s.recap.reweir.commons = s.commons ∧ s.recap.reweir.mem = s.mem := by
  have hr : ∀ t : State, t.reweir.links = t.links ∧ t.reweir.commons = t.commons ∧ t.reweir.mem = t.mem := fun t =>
    ⟨State.links_of_sansPower t.reweir_sansPower, State.commons_of_sansPower t.reweir_sansPower, t.mem_reweir⟩
  obtain ⟨h1, h2, h3⟩ := hr s.recap
  have hc : ∀ t : State, t.checkSeal.links = t.links ∧ t.checkSeal.commons = t.commons ∧ t.checkSeal.mem = t.mem := by
    intro t
    unfold State.checkSeal
    dsimp only
    split <;> exact ⟨rfl, rfl, rfl⟩
  have hs : s.recap.links = s.links ∧ s.recap.commons = s.commons ∧ s.recap.mem = s.mem := by
    unfold State.recap
    dsimp only
    obtain ⟨c1, c2, c3⟩ := hc (if s.capNow = s.pwr.inForce then s else
      ({ s with pwr := { s.pwr with inForce := s.capNow, forced := s.pwr.forced || s.capNow < s.pwr.inForce } }).raiseBoth .capChanged
        srcPower (leBytes 2 s.capNow))
    rw [c1, c2, c3]
    split <;> exact ⟨rfl, rfl, rfl⟩
  exact ⟨h1.trans hs.1, h2.trans hs.2.1, h3.trans hs.2.2⟩


/-! ## The obligation -/

theorem State.recap_reweir_link (s : State) (n : Nat) : (s.recap.reweir).link n = s.link n := by
  rw [State.link, s.recap_reweir_keeps.1]
  rfl

/-- The turn of an epoch: the shifts of the commons, the ports' lateness, and what it leaves alone. -/
theorem exec_powerEpoch (s : State) (hs : 3 ≤ s.boot.stage) (hb : s.tide.boundary = some s.alm.now) (ht : s.tideNumber % 256 = 0) :
    completes .powerEpoch s fun t =>
      t.commons.shift = (if s.commonsOn s.commons.commons then s.lapseShifts.commons.nextShift else 0)
        ∧ (s.commonsOn s.commons.commons = false → t.commons.nextShift = 0)
        ∧ t.commons.epoch = s.tideNumber / 256 % 2 ^ 16 ∧ t.commons.taken = false ∧ t.mem = s.mem
        ∧ (∀ n, (t.link n).heard = none ∧ (t.link n).lateness = 0)
        ∧ (s.commonsOn s.commons.commons = false → ∀ n, (t.link n).shift = 0) := by
  obtain ⟨hc, hcalm⟩ := s.lapseShifts_commons
  have hg : ¬ (s.boot.stage < 3 || s.tide.boundary ≠ some s.alm.now || s.tideNumber % 256 ≠ 0) = true := by
    simp [hb, ht]
    omega
  have hon : s.lapseShifts.commonsOn s.lapseShifts.commons.commons = s.commonsOn s.commons.commons := by
    simp only [State.commonsOn, hc, State.sealed_of_epochCalm hcalm]
  show ∃ t, execPowerEpoch s = .next t ∧ _
  unfold execPowerEpoch
  rw [if_neg hg]
  obtain ⟨u, hu⟩ : ∃ u, u = s.lapseShifts := ⟨_, rfl⟩
  rw [← hu] at hc hcalm hon ⊢
  clear hu
  lift_lets
  extract_lets s1 on c2 s3 c3 s4 ports late heard s5 s6 s7
  have hs3 : (on = true → s3.commons.nextShift = u.commons.nextShift)
      ∧ (on = false → s3.commons.nextShift = 0 ∧ s3.eachLink fun l => l.shift = 0) ∧ s3.alm = s.alm ∧ s3.mem = s.mem := by
    have hm := State.mem_of_epochCalm hcalm
    have ha := State.alm_of_epochCalm hcalm
    by_cases ho : on = true
    · have h3 : s3 = u := if_pos ho
      rw [h3]
      exact ⟨fun _ => rfl, fun hn => absurd (hn.symm.trans ho) Bool.false_ne_true, ha, hm⟩
    · have h3 : s3 = { u with commons := { u.commons with nextShift := 0 }, links := u.links.mapAll {} fun _ l => { l with shift := 0 } } :=
        if_neg ho
      rw [h3]
      exact ⟨fun hn => absurd hn ho, fun _ => ⟨rfl, by
        intro e he
        dsimp only at he
        exact SMap.of_mem_mapAll (P := fun l => l.shift = 0) he fun x _ => LinkPort.shift_zeroed x.2⟩, ha, hm⟩
  obtain ⟨hshift, hoff, halm, hmem⟩ := hs3
  clear_value s3
  have hs6 : LinksOnly s5 s6 := by
    simp only [s6]
    split
    · exact LinksOnly.trans (State.foldl_linksOnly (fun u n => u.sendBand_links n _) _ _) (State.makeOffer_links _ _ _)
    · exact LinksOnly.self s5
  have hoff6 : on = false → s6.eachLink fun l => l.shift = 0 := by
    intro ho
    simp only [s6, ho, Bool.false_eq_true, if_false]
    obtain ⟨-, hz⟩ := hoff ho
    intro e he
    dsimp only [s5] at he
    exact SMap.of_mem_mapAll (P := fun l => l.shift = 0) he fun x hx => hz x hx
  have hc6 : s6.commons = s4.commons := hs6.commons
  have hm6 : s6.mem = s4.mem := hs6.mem
  clear_value s6
  obtain ⟨hl, hcm, hme⟩ := s7.recap_reweir_keeps
  have hc7 : s7.commons = s4.commons := hc6
  have hm7 : s7.mem = s4.mem := hm6
  have htn : s3.tideNumber = s.tideNumber := by rw [State.tideNumber, halm, State.tideNumber]
  have hon' : on = s.commonsOn s.commons.commons := hon
  have hshift' : s3.commons.nextShift = if s.commonsOn s.commons.commons then u.commons.nextShift else 0 := by
    rw [← hon']
    cases ho : on with
    | true => exact hshift ho
    | false => exact (hoff ho).1
  refine ⟨_, rfl, ?_, fun ho => ?_, ?_, ?_, ?_, fun n => ?_, fun ho n => ?_⟩
  · rw [hcm, hc7]
    exact hshift'
  · rw [hcm, hc7]
    exact (hoff (hon'.trans ho)).1
  · rw [hcm, hc7, ← htn]
  · rw [hcm, hc7]
  · rw [hme, hm7]
    exact hmem
  · rw [State.recap_reweir_link]
    refine State.link_of_eachLink (P := fun l => l.heard = none ∧ l.lateness = 0) (fun e he => ?_) ⟨rfl, rfl⟩ n
    dsimp only [s7] at he
    exact SMap.of_mem_mapAll (P := fun l => l.heard = none ∧ l.lateness = 0) he (by intro x hx; dsimp only; exact ⟨rfl, rfl⟩)
  · rw [State.recap_reweir_link]
    refine State.link_of_eachLink (P := fun l => l.shift = 0) (fun e he => ?_) rfl n
    dsimp only [s7] at he
    exact SMap.of_mem_mapAll (P := fun l => l.shift = 0) he (by intro x hx; exact hoff6 (hon'.trans ho) x hx)

/-- Settles O56. -/
theorem linkBandMessagesAct : Obligations.LinkBandMessagesAct := by
  refine ⟨?syncSend, ?sync, ?req, ?resp, ?missing, ?notice, ?collective, ?report, ?offer, ?epoch, ?epochOff, ?lock⟩
  case syncSend =>
    intro s n hup ht hsend
    have hops : (s.updLink n fun l => { l with t1 := s.alm.now }).hopsOut n = s.hopsOut n := rfl
    refine completes_of_exec (t := (s.updLink n fun l => { l with t1 := s.alm.now }).sendBand n (.almSync s.alm.now (s.hopsOut n))) ?_
      ⟨?_, ?_, rfl, ?_⟩
    · show execAlmSyncSend n s = _
      unfold execAlmSyncSend
      dsimp only
      rw [if_neg (by simp [hup, ht, hsend])]
    · simp [State.sendBand]
    · simp [State.sendBand]
    · exact LinksOnly.trans ((LinksOnly.self s).updLink _ _) (State.sendBand_links _ _ _)
  case sync =>
    intro s n src t1 hops hup
    refine completes_of_exec rfl ?_
    dsimp only
    rw [State.bandTake_up _ _ _ _ _ hup]
    obtain ⟨u, hu⟩ : ∃ u, u = s.updLink n fun l => { l with inbox := l.inbox.erase (src, .almSync t1 hops) } := ⟨_, rfl⟩
    have hul : LinksOnly s u := hu ▸ (LinksOnly.self s).updLink n _
    have hub : (u.link n).band = (s.link n).band := by rw [hu, State.link_updLink]
    rw [← hu]
    obtain ⟨v, hv⟩ : ∃ v, v = u.updLink n fun l => { l with t1 := t1, t2 := u.alm.now, t3 := u.alm.now } := ⟨_, rfl⟩
    have halm : v.alm = s.alm := LinksOnly.alm (hv ▸ hul.updLink n _)
    have hvl : (v.link n).t1 = t1 ∧ (v.link n).t2 = s.alm.now ∧ (v.link n).band = (s.link n).band := by
      rw [hv, State.link_updLink]
      exact ⟨rfl, by rw [hul.alm], hub⟩
    rw [← hv]
    obtain ⟨h1, h2, h3⟩ := hvl
    by_cases hst : s.alm.source = 4 ∧ s.alm.zlPort = n.val
    · have hif : (decide (v.alm.source = 4) && decide (v.alm.zlPort = n.val)) = true := by rw [halm]; simp [hst]
      rw [if_pos hif, halm]
      exact State.sync_answer { v with alm := s.alm.takeHops hops } n t1 hops s h1 h2 h3 (fun _ => rfl) fun hn => absurd hst hn
    · have hif : ¬ (decide (v.alm.source = 4) && decide (v.alm.zlPort = n.val)) = true := by rw [halm]; simpa using hst
      rw [if_neg hif]
      exact State.sync_answer v n t1 hops s h1 h2 h3 (fun hn => absurd hn hst) fun _ => halm
  case req =>
    intro s n src t2 t3 hup
    refine completes_of_exec rfl ?_
    dsimp only
    rw [State.bandTake_up _ _ _ _ _ hup]
    have hl := ((LinksOnly.self s).updLink n fun l => { l with inbox := l.inbox.erase (src, .almReq t2 t3) }).updLink n
      fun l => { l with t2 := t2, t3 := t3 }
    obtain ⟨v, hv⟩ : ∃ v, v = (s.updLink n fun l => { l with inbox := l.inbox.erase (src, .almReq t2 t3) }).updLink n
      fun l => { l with t2 := t2, t3 := t3 } := ⟨_, rfl⟩
    have hvl : (v.link n).band = (s.link n).band := by rw [hv, State.link_updLink, State.link_updLink]
    rw [← hv] at hl ⊢
    rw [State.link_updLink]
    have halm := LinksOnly.alm hl
    obtain ⟨u, hu⟩ := State.linkOffset_link v n (exchangeOffset (s.link n).t1 t2 t3 v.alm.now)
    have hkeep := State.linkOffset_alm v n (exchangeOffset (s.link n).t1 t2 t3 v.alm.now)
    have hnow := State.linkOffset_now v n (exchangeOffset (s.link n).t1 t2 t3 v.alm.now)
    rw [halm] at hu hkeep hnow ⊢
    generalize v.linkOffset n (exchangeOffset (s.link n).t1 t2 t3 s.alm.now) = w at hu hkeep hnow
    dsimp only at hu ⊢
    refine ⟨?_, ?_, ?_, fun hne => hkeep hne⟩
    · rw [State.sendBand, State.link_updLink, hu]
    · rw [State.sendBand, State.link_updLink, hu]
    · rw [State.sendBand, State.link_updLink, hu, hvl]
  case resp =>
    intro s n src t1 t4 hup
    refine completes_of_exec rfl ?_
    dsimp only
    rw [State.bandTake_up _ _ _ _ _ hup]
    obtain ⟨v, hv⟩ : ∃ v, v = s.updLink n fun l => { l with inbox := l.inbox.erase (src, .almResp t1 t4) } := ⟨_, rfl⟩
    have hl : LinksOnly s v := hv ▸ (LinksOnly.self s).updLink n _
    have hvl : (v.link n).t2 = (s.link n).t2 ∧ (v.link n).t3 = (s.link n).t3 := by
      rw [hv, State.link_updLink]
      exact ⟨rfl, rfl⟩
    rw [← hv, hvl.1, hvl.2]
    have halm := LinksOnly.alm hl
    obtain ⟨u, hu⟩ := State.linkOffset_link v n (-(exchangeOffset t1 (s.link n).t2 (s.link n).t3 t4))
    rw [hu]
    refine ⟨rfl, rfl, fun hne => ?_⟩
    rw [State.linkOffset_alm v n _ (by rw [halm]; exact hne), halm]
  case missing =>
    intro s n hup
    have hl := (State.refit_linksOnly ((LinksOnly.self s).updLink n fun l => { l with exchMissing := min 3 (l.exchMissing + 1) }) n)
    obtain ⟨u, hu⟩ := State.refit_link (s.updLink n fun l => { l with exchMissing := min 3 (l.exchMissing + 1) }) n
    rw [State.link_updLink] at hu
    show ∃ t, execAlmExchangeMissing n s = .next t ∧ _
    unfold execAlmExchangeMissing
    dsimp only
    rw [if_neg (by simp [hup])]
    refine ⟨_, rfl, ?_⟩
    generalize hv : (s.updLink n fun l => { l with exchMissing := min 3 (l.exchMissing + 1) }).refit n = v at hl hu
    have halm : v.alm = s.alm := LinksOnly.alm hl
    have hlink : (if (v.alm.source = 4 && v.alm.zlPort = n) = true then v.refMissing else v).link n = v.link n := by
      split
      · rw [State.link, State.refMissing_links]
        rfl
      · rfl
    have hx : (v.link n).exchMissing = min 3 ((s.link n).exchMissing + 1) := by rw [hu]
    refine ⟨by rw [hlink, hx], fun h2 => State.fit_of_missing _ _ (by rw [hlink, hx]; omega), fun hne => ?_⟩
    rw [if_neg (by rw [halm]; rcases hne with h | h <;> simp [h])]
    exact hl
  case notice =>
    intro s n src job sched reason p tide seq r hup hj0 hjob hrun hsched hhard hraised
    obtain ⟨hr, hruns⟩ := Polder.run_of_single hrun
    have hex : exec (.notice n src (.notice job sched reason p tide)) s = .next (s.bandTake n src (.notice job sched reason p tide) fun s =>
        let q := s.pol p
        if q.job ≠ job || job = 0 || !(reason = 1 || reason = 2) then s else
        (q.running.filter fun e => e.2.m.schedule = sched).foldl (fun s e =>
          let s := s.raiseOwn .peerNotice (srcLink n) p
            (leBytes 2 job ++ leBytes 1 reason ++ leBytes 1 0 ++ leBytes 2 src)
          if reason = 1 then (s.updLag p e.1).missDeadline p e.1 else s.fenceRun p e.1) s) := rfl
    rw [State.bandTake_up _ _ _ _ _ hup] at hex
    dsimp only at hex
    rw [State.pol_updLink, hrun] at hex
    have hf : List.filter (fun e : Nat × Run => decide (e.2.m.schedule = sched)) [(seq, r)] = [(seq, r)] := by simp [hsched]
    rw [hf, List.foldl_cons, List.foldl_nil] at hex
    generalize hv : (s.updLink n fun l => { l with inbox := l.inbox.erase (src, .notice job sched reason p tide) }).raiseOwn .peerNotice
      (srcLink n) p (leBytes 2 job ++ leBytes 1 reason ++ leBytes 1 0 ++ leBytes 2 src) = v at hex
    have hpol : v.pol p = s.pol p := by rw [← hv]; rfl
    have hband : v.crier.band = s.crier.band ++ [⟨.peerNotice, srcLink n, p, p,
        slice (leBytes 2 job ++ leBytes 1 reason ++ leBytes 1 0 ++ leBytes 2 src) 0 16⟩] := by rw [← hv]; rfl
    constructor
    · intro hre
      subst hre
      rw [if_neg (by simp [hjob, hj0]), if_pos rfl] at hex
      refine completes_of_exec hex ?_
      obtain ⟨hl1, hl2, hl3⟩ := v.updLag_run p seq (by rw [hpol]; exact hruns) (by rw [hpol, hr]; exact hhard)
      rw [hpol, hr] at hl2 hl3
      have hcr := v.updLag_crier p seq
      generalize v.updLag p seq = w at hl1 hl2 hl3 hcr
      have hd : w.missDeadline p seq = (w.raiseOwn .deadlineMiss srcSeq p (lagDetail ((w.pol p).run seq))).updRun p seq
          fun r => { r with missRaised := true } := by
        unfold State.missDeadline
        dsimp only
        rw [if_neg (by simp [hl1, hl2, hl3, hhard, hraised])]
      rw [hd]
      have hruns' : ((w.raiseOwn .deadlineMiss srcSeq p (lagDetail ((w.pol p).run seq))).pol p).isRunning seq = true := hl1
      refine ⟨by rw [State.run_updRun _ _ _ _ hruns'], ⟨.peerNotice, srcLink n, p, p,
          slice (leBytes 2 job ++ leBytes 1 1 ++ leBytes 1 0 ++ leBytes 2 src) 0 16⟩,
        ⟨.deadlineMiss, srcSeq, p, p, slice (lagDetail ((w.pol p).run seq)) 0 16⟩, ?_, rfl, rfl, rfl⟩
      · show w.crier.band ++ [_] = _
        rw [hcr, hband, List.append_assoc]
        rfl
    · intro hre
      subst hre
      rw [if_neg (by simp [hjob, hj0]), if_neg (by decide)] at hex
      exact completes_of_exec hex (State.fenceRun_ends _ _ _)
  case collective =>
    intro s p seq i c x hruns hsusp hc hx hmet due
    have hbind : ((s.schedule ((s.pol p).run seq).m.schedule).bind fun c => c.colls[i]?.map fun x => (c, x)) = some (c, x) := by
      rw [hc, Option.bind_some, hx]
      rfl
    constructor
    · intro hdue
      refine completes_of_exec (t := (s.raiseOwn .collectiveTimeout srcSeq p.val []).fenceRun p.val seq) ?_ ⟨State.fenceRun_ends _ _ _, ?_⟩
      · show execCollectiveTimeout p seq i s = _
        unfold execCollectiveTimeout
        dsimp only
        rw [hbind]
        dsimp only
        have hn : ¬ s.alm.now < due := by omega
        rw [if_neg (by simp only [hruns, hsusp, hmet, Bool.not_true, Bool.false_or, decide_eq_true_eq]; exact hn)]
      · obtain ⟨l, hl⟩ := State.exists_band (s := s.raiseOwn .collectiveTimeout srcSeq p.val [])
          (State.told_fenceRun (State.told_self _) p.val seq)
        refine ⟨l, ⟨.collectiveTimeout, srcSeq, p.val, p.val, slice [] 0 16⟩, ?_, rfl, rfl⟩
        rw [hl]
        show (s.crier.band ++ [_]) ++ l = _
        rw [List.append_assoc]
        rfl
    · intro hdue
      show execCollectiveTimeout p seq i s = _
      unfold execCollectiveTimeout
      dsimp only
      rw [hbind]
      dsimp only
      rw [if_pos (by simp only [Bool.or_eq_true, decide_eq_true_eq]; exact .inr hdue)]
  case report =>
    intro s n src x commons hup hon
    have hon' : (s.updLink n fun l => { l with inbox := l.inbox.erase (src, .report x commons) }).commonsOn commons = true := hon
    refine completes_of_exec rfl ?_
    dsimp only
    rw [State.bandTake_up _ _ _ _ _ hup]
    rw [if_pos hon']
    exact ⟨by rw [State.link_updLink], ((LinksOnly.self s).updLink _ _).updLink _ _⟩
  case offer =>
    intro s n src watts commons hup hon
    refine ⟨fun htaken hok => ?_, fun hoff => ?_⟩
    · refine completes_of_exec rfl ?_
      dsimp only
      rw [State.bandTake_up _ _ _ _ _ hup]
      obtain ⟨v, hv⟩ : ∃ v, v = s.updLink n fun l => { l with inbox := l.inbox.erase (src, .offer watts s.commons.epoch commons) } := ⟨_, rfl⟩
      have hl : LinksOnly s v := hv ▸ (LinksOnly.self s).updLink n _
      have hb : (v.link n).band = (s.link n).band := by rw [hv, State.link_updLink]
      rw [← hv]
      have hg : (!v.commonsOn commons || v.commons.taken || decide (s.commons.epoch ≠ v.commons.epoch)
          || !v.shiftOk (v.commons.nextShift + watts)) = false := by
        rw [hl.commonsOn, hl.shiftOk, hl.commons, hon, htaken, hok]
        simp
      rw [if_neg (by rw [hg]; decide), ← hl.commons, ← hl.pwr]
      refine ⟨rfl, rfl, rfl, ?_⟩
      rw [State.sendBand, State.link_updLink, State.link_updLink, ← hb]
      rfl
    · refine completes_of_exec rfl ?_
      dsimp only
      rw [State.bandTake_up _ _ _ _ _ hup]
      obtain ⟨v, hv⟩ : ∃ v, v = s.updLink n fun l => { l with inbox := l.inbox.erase (src, .take watts s.commons.epoch commons) } := ⟨_, rfl⟩
      have hl : LinksOnly s v := hv ▸ (LinksOnly.self s).updLink n _
      have hb : (v.link n).offered = some watts := by rw [hv, State.link_updLink]; exact hoff
      rw [← hv]
      have hg : (!v.commonsOn commons || decide ((v.link n).offered ≠ some watts) || decide (s.commons.epoch ≠ v.commons.epoch)) = false := by
        rw [hl.commonsOn, hl.commons, hon, hb]
        simp
      rw [if_neg (by rw [hg]; decide), ← hl.commons, ← hl.pwr]
      refine ⟨rfl, ?_, rfl⟩
      rw [State.link_updLink]
  case epoch =>
    intro s hs hb ht hon hshift
    obtain ⟨t, hex, hsh, -, hep, htk, hmem, hlinks, -⟩ := exec_powerEpoch s hs hb ht
    rw [hon, if_pos rfl, State.lapseShifts_of_none s hshift] at hsh
    exact ⟨t, hex, hsh, hep, htk, hmem, hlinks⟩
  case epochOff =>
    intro s hs hb ht hon
    obtain ⟨t, hex, hsh, hnext, hep, -, hmem, -, hzero⟩ := exec_powerEpoch s hs hb ht
    rw [hon, if_neg Bool.false_ne_true] at hsh
    exact ⟨t, hex, hsh, hnext hon, hep, hmem, hzero hon⟩
  case lock =>
    intro s a hw hb
    refine completes_of_exec (t := s.commonsWrite a) ?_ ⟨?_, rfl, fun hl => ?_⟩
    · show execZlCommonsLock a s = _
      unfold execZlCommonsLock
      rw [hw]
      simp [hb]
    · simp [State.commonsWrite, hb]
    · simp [State.commonsWrite, hl]

end Sys2Proof.Machine
end

section
/-! SUPPORT. Transactions of a peer (chapter 12: R260 to R264, R267; R307). -/

namespace Sys2Proof.Machine

open Sys2Proof

/-! ## Sparse maps set twice -/

theorem SMap.filter_put {α : Type} (m : SMap α) (i : Nat) (v : α) :
    (SMap.put m i v).filter (fun e => e.1 ≠ i) = m.filter fun e => e.1 ≠ i := by
  induction m with
  | nil => simp [SMap.put]
  | cons e m ih =>
    unfold SMap.put
    split
    · simp
    · rw [List.filter_cons, List.filter_cons, ih]

theorem SMap.set_set {α : Type} [DecidableEq α] (d : α) (m : SMap α) (i : Nat) (v w : α) :
    (m.set d i v).set d i w = m.set d i w := by
  have hf : (m.set d i v).filter (fun e => e.1 ≠ i) = m.filter fun e => e.1 ≠ i := by
    unfold SMap.set
    dsimp only
    split
    · rw [List.filter_filter]
      simp
    · rw [SMap.filter_put, List.filter_filter]
      simp
  rw [SMap.set, hf]
  rfl

theorem SMap.upd_upd {α : Type} [DecidableEq α] (d : α) (m : SMap α) (i : Nat) (f g : α → α) :
    (m.upd d i f).upd d i g = m.upd d i fun x => g (f x) := by
  rw [SMap.upd, SMap.get_upd_same, SMap.upd, SMap.set_set, SMap.upd]

theorem State.updLink_updLink (s : State) (n : Nat) (f g : LinkPort → LinkPort) :
    (s.updLink n f).updLink n g = s.updLink n fun l => g (f l) := by
  unfold State.updLink
  dsimp only
  rw [SMap.upd_upd]

/-! ## What arrives -/

/-- A transaction leaves the list of those that came in flits. -/
def State.arrivedLess (s : State) (n : Nat) (t : Txn) : State := s.updLink n fun l => { l with arrived := l.arrived.erase t }

theorem State.zlTake_up (s : State) (n : Nat) (t : Txn) (op : Nat) (f : State → State) (h : (s.link n).state = 2) (hop : t.op = op) :
    s.zlTake n t op f = f (s.arrivedLess n t) := by
  unfold State.zlTake
  rw [if_neg (by simp [h, hop])]
  rfl

theorem State.arrivedLess_linksOnly (s : State) (n : Nat) (t : Txn) : LinksOnly s (s.arrivedLess n t) := (LinksOnly.self s).updLink n _

theorem State.link_arrivedLess (s : State) (n : Nat) (t : Txn) :
    (s.arrivedLess n t).link n = { s.link n with arrived := (s.link n).arrived.erase t } := State.link_updLink _ _ _

/-- The instruction that takes a transaction in. -/
def Txn.takes (n : ZPort) (x : Txn) (c : Instr) : Prop :=
  x.op = 1 ∧ c = .zlWrite n x ∨ x.op = 2 ∧ c = .zlRead n x ∨ x.op = 4 ∧ c = .zlBarrier n x

/-- A transaction of OP 1, 2 or 4 goes through the rows of R263. -/
theorem exec_zlPerform (s : State) (n : ZPort) (x : Txn) (c : Instr) (hc : Txn.takes n x c) (hup : (s.link n).state = 2) :
    exec c s = .next ((s.arrivedLess n x).zlPerform n x) := by
  rcases hc with ⟨hop, rfl⟩ | ⟨hop, rfl⟩ | ⟨hop, rfl⟩
  · show execZlWrite n x s = _
    rw [execZlWrite, State.zlTake_up _ _ _ _ _ hup hop]
  · show execZlRead n x s = _
    rw [execZlRead, State.zlTake_up _ _ _ _ _ hup hop]
  · show execZlBarrier n x s = _
    rw [execZlBarrier, State.zlTake_up _ _ _ _ _ hup hop]

/-! ## The rows before the grant -/

section
variable (s : State) (n : Nat) (t : Txn) (f : State → State)

theorem State.zlRows_misrouted (h : t.dstModule ≠ s.boot.moduleId) :
    s.zlRows n t f = s.updLink n fun l => { l with misrouted := satAdd 0xFFFF l.misrouted 1 } := by
  unfold State.zlRows
  dsimp only
  rw [if_pos h]

theorem State.zlRows_stale (h : t.dstModule = s.boot.moduleId) (hj : t.job ≠ (s.pol t.dstPol).job) :
    s.zlRows n t f = s.updLink n fun l => { l with stale := satAdd 0xFFFF l.stale 1 } := by
  unfold State.zlRows
  dsimp only
  rw [if_neg (by simp [h]), if_pos (by simp [hj])]

theorem State.zlRows_held (h : t.dstModule = s.boot.moduleId) (hj : t.job = (s.pol t.dstPol).job) (h0 : t.job ≠ 0)
    (hst : (s.pol t.dstPol).state = 4) (hheld : (s.link n).heldTxns = []) (hfl : txnFlits t ≤ 64) :
    s.zlRows n t f = s.updLink n fun l => { l with heldTxns := l.heldTxns ++ [t] } := by
  unfold State.zlRows
  dsimp only
  rw [if_neg (by simp [h]), if_neg (by simp [← hj, h0]), if_pos hst, hheld, if_neg (by simp; omega)]

theorem State.zlRows_pass (h : t.dstModule = s.boot.moduleId) (hj : (s.pol t.dstPol).job = t.job) (h0 : t.job ≠ 0)
    (hst : (s.pol t.dstPol).state ≠ 4) : s.zlRows n t f = f s := by
  unfold State.zlRows
  dsimp only
  rw [if_neg (by simp [h]), if_neg (by simp [hj, h0]), if_neg hst]

end

/-! ## Lateness -/

/-- What the bookkeeping of a landing changes: link ports, and the running manifests of polders. -/
structure OnlyRuns (s t : State) : Prop where
  rest : ∃ P L, t = { s with pols := P, links := L }
  pol : ∀ p, { t.pol p with running := [] } = { s.pol p with running := [] }

theorem OnlyRuns.self (s : State) : OnlyRuns s s := ⟨⟨_, _, rfl⟩, fun _ => rfl⟩

theorem State.delayRuns_onlyRuns (s : State) (p : Nat) (f : Run → Bool) (n : Nat) (k : Cause) : OnlyRuns s (s.delayRuns p f n k) := by
  refine ⟨⟨_, _, rfl⟩, fun q => ?_⟩
  unfold State.delayRuns
  by_cases h : q = p
  · rw [h, State.pol_updPol]
  · rw [State.pol_updPol_other _ _ _ _ h]

theorem OnlyRuns.updLink {s t : State} (h : OnlyRuns s t) (n : Nat) (f : LinkPort → LinkPort) : OnlyRuns s (t.updLink n f) := by
  obtain ⟨⟨P, L, rfl⟩, hp⟩ := h
  exact ⟨⟨_, _, rfl⟩, hp⟩

theorem State.noteLateness_onlyRuns (s : State) (n : Nat) (t : Txn) : OnlyRuns s (s.noteLateness n t) := by
  unfold State.noteLateness
  dsimp only
  split
  · exact OnlyRuns.self s
  · refine OnlyRuns.updLink ?_ _ _
    split
    · exact OnlyRuns.self s
    · exact State.delayRuns_onlyRuns _ _ _ _ _

theorem State.groupMask_congr {s t : State} (hs : t.hbmStacks = s.hbmStacks) : t.groupMask = s.groupMask := by
  funext k q
  simp only [State.groupMask, State.stack, hs]

theorem State.nq_congr {s t : State} (hs : t.hbmStacks = s.hbmStacks) : t.nq = s.nq := by
  funext k q
  rw [State.nq, State.nq, State.groupMask_congr hs]

/-- The map of device addresses goes by the stacks and the Keels. -/
theorem State.region_congr {s t : State} (hs : t.hbmStacks = s.hbmStacks) (hk : t.keels = s.keels) : t.region = s.region := by
  have hg : t.keelGiB = s.keelGiB := by
    funext k
    rw [State.keelGiB, State.keelGiB, State.nq_congr hs]
  have ht : t.keel = s.keel := by
    funext k
    rw [State.keel, State.keel, hk]
  delta State.region
  simp only [hg, ht]

theorem State.locate_congr {s t : State} (hs : t.hbmStacks = s.hbmStacks) : t.locate = s.locate := by
  have hq := State.nq_congr hs
  have hl : t.locateGroup = s.locateGroup := by
    funext k fuel
    induction fuel with
    | zero => rfl
    | succ fuel ih =>
      funext q o
      rw [State.locateGroup, State.locateGroup, hq, ih]
  delta State.locate
  rw [hl, hq, State.groupMask_congr hs]

theorem State.charter_congr {s t : State} (hi : t.img = s.img) : t.charter = s.charter := by
  rw [State.charter, State.charter, hi]

/-- A grant goes by the polder's registers, the charter and the map. -/
theorem State.zlGranted_congr {s t : State} (x : Txn) (w : Bool) (hi : t.img = s.img) (hs : t.hbmStacks = s.hbmStacks)
    (hk : t.keels = s.keels) (hlo : (t.pol x.dstPol).lo = (s.pol x.dstPol).lo) (hhi : (t.pol x.dstPol).hi = (s.pol x.dstPol).hi)
    (hwr : (t.pol x.dstPol).wr = (s.pol x.dstPol).wr) (hrd : (t.pol x.dstPol).rd = (s.pol x.dstPol).rd) :
    t.zlGranted x w = s.zlGranted x w := by
  have hg : t.holdsGroup = s.holdsGroup := by
    funext p k q
    simp only [State.holdsGroup, State.polRec, State.charter_congr hi]
  have ht : t.holdsTier = s.holdsTier := by
    funext p k q
    simp only [State.holdsTier, State.charter_congr hi]
  simp only [State.zlGranted, hlo, hhi, hwr, hrd, State.region_congr hs hk, State.locate_congr hs, hg, ht]

section
variable {s t : State} (h : OnlyRuns s t)
include h

theorem OnlyRuns.mem : t.mem = s.mem := by obtain ⟨⟨_, _, rfl⟩, _⟩ := h; rfl
theorem OnlyRuns.reqs : t.reqs = s.reqs := by obtain ⟨⟨_, _, rfl⟩, _⟩ := h; rfl
theorem OnlyRuns.crier : t.crier = s.crier := by obtain ⟨⟨_, _, rfl⟩, _⟩ := h; rfl
theorem OnlyRuns.boot : t.boot = s.boot := by obtain ⟨⟨_, _, rfl⟩, _⟩ := h; rfl
theorem OnlyRuns.groupPart : t.groupPart = s.groupPart := by obtain ⟨⟨_, _, rfl⟩, _⟩ := h; rfl

theorem OnlyRuns.zlGranted (x : Txn) (w : Bool) : t.zlGranted x w = s.zlGranted x w := by
  have hp := h.pol x.dstPol
  obtain ⟨⟨P, L, rfl⟩, -⟩ := h
  exact State.zlGranted_congr x w rfl rfl rfl (congrArg Polder.lo hp :) (congrArg Polder.hi hp :) (congrArg Polder.wr hp :) (congrArg Polder.rd hp :)

end

theorem State.zlGranted_arrivedLess (s : State) (n : Nat) (t x : Txn) (w : Bool) : (s.arrivedLess n t).zlGranted x w = s.zlGranted x w :=
  State.zlGranted_congr x w rfl rfl rfl rfl rfl rfl rfl

theorem State.groupPart_arrivedLess (s : State) (n : Nat) (t : Txn) (o len : Nat) : (s.arrivedLess n t).groupPart o len = s.groupPart o len := rfl

/-! ## WRITE and READ past the rows -/

/-- The bytes of a WRITE whose chunks are poisoned, or are not. -/
def Txn.part (x : Txn) (bad : Bool) : List (Nat × Byte) :=
  (List.range (32 * x.chunks)).filterMap fun i =>
    if x.poison.getLsbD (i / 32) = bad then some (x.offset % 1024 + i, (slice x.data 0 (32 * x.chunks)).getD i 0) else none

theorem State.countTally_keeps (s : State) (t : Txn) :
    (s.countTally t).reqs = s.reqs ∧ (s.countTally t).mem = s.mem ∧ (s.countTally t).crier = s.crier := by
  unfold State.countTally
  split <;> exact ⟨rfl, rfl, rfl⟩

/-- What one more request of a home leaves alone. -/
theorem State.newReq_keeps (s : State) (op : HomeOp) (line p : Nat) (who : Requester) (va hint : Nat) :
    (∃ r : HomeReq, r.op = op ∧ r.line = line ∧ r.pol = p ∧ r.who = who ∧ (s.newReq op line p who va hint).reqs = s.reqs ++ [r])
      ∧ (s.newReq op line p who va hint).mem = s.mem ∧ (s.newReq op line p who va hint).crier = s.crier := by
  obtain ⟨r, h1, h2, h3, h4, e⟩ := State.newReq_eq s op line p who va hint
  rw [e]
  exact ⟨⟨r, h1, h2, h3, h4, rfl⟩, rfl, rfl⟩

/-- A granted WRITE asks the home for its good chunks and for its poisoned ones. -/
theorem State.zlWrite_granted (s : State) (n : Nat) (x : Txn) (hg : s.zlGranted x true = true)
    (hp : s.groupPart x.offset (32 * x.chunks) = false) :
    (∃ l, (s.zlWrite n x).reqs = s.reqs ++ l
        ∧ (∀ r ∈ l, r.line = x.offset / 1024 ∧ r.pol = x.dstPol ∧ ∃ bad, Txn.part x bad ≠ [] ∧ r.op = .write (Txn.part x bad) false bad)
        ∧ ∀ bad, Txn.part x bad ≠ [] → ∃ r ∈ l, r.op = .write (Txn.part x bad) false bad)
      ∧ (s.zlWrite n x).mem = s.mem ∧ (s.zlWrite n x).crier = s.crier := by
  have hr := s.noteLateness_onlyRuns n x
  have hw : s.zlWrite n x =
      let v := s.noteLateness n x
      let va := 2 ^ 48 * v.boot.moduleId + x.offset
      let u := if (Txn.part x true).isEmpty then v else
        v.newReq (.write (Txn.part x true) false true) (x.offset / 1024) x.dstPol
          (.link n (if (Txn.part x false).isEmpty then x else { x with counted := false })) va x.hint
      if (Txn.part x false).isEmpty then u else u.newReq (.write (Txn.part x false) false false) (x.offset / 1024) x.dstPol (.link n x) va x.hint := by
    unfold State.zlWrite
    dsimp only
    rw [if_neg (by rw [hr.zlGranted, hr.groupPart, hg, hp]; decide)]
    rfl
  rw [hw, ← hr.reqs, ← hr.mem, ← hr.crier]
  generalize s.noteLateness n x = v
  dsimp only
  obtain ⟨⟨r1, ho1, hl1, hp1, -, hq1⟩, hm1, hc1⟩ := State.newReq_keeps v (.write (Txn.part x true) false true) (x.offset / 1024) x.dstPol
    (.link n (if (Txn.part x false).isEmpty then x else { x with counted := false })) (2 ^ 48 * v.boot.moduleId + x.offset) x.hint
  generalize v.newReq (.write (Txn.part x true) false true) (x.offset / 1024) x.dstPol
    (.link n (if (Txn.part x false).isEmpty then x else { x with counted := false })) (2 ^ 48 * v.boot.moduleId + x.offset) x.hint = w at hq1 hm1 hc1
  have hu : ∃ l, (if (Txn.part x true).isEmpty then v else w).reqs = v.reqs ++ l
      ∧ (∀ r ∈ l, r.line = x.offset / 1024 ∧ r.pol = x.dstPol ∧ Txn.part x true ≠ [] ∧ r.op = .write (Txn.part x true) false true)
      ∧ (Txn.part x true ≠ [] → ∃ r ∈ l, r.op = .write (Txn.part x true) false true) := by
    split
    · next h => exact ⟨[], by simp, by simp, fun hne => absurd (List.isEmpty_iff.1 h) hne⟩
    · next h =>
      have hne : Txn.part x true ≠ [] := fun h0 => h (by rw [h0]; rfl)
      refine ⟨[r1], hq1, fun r hr => ?_, fun _ => ⟨r1, by simp, ho1⟩⟩
      rw [List.mem_singleton.1 hr]
      exact ⟨hl1, hp1, hne, ho1⟩
  have huk : (if (Txn.part x true).isEmpty then v else w).mem = v.mem ∧ (if (Txn.part x true).isEmpty then v else w).crier = v.crier := by
    split
    · exact ⟨rfl, rfl⟩
    · exact ⟨hm1, hc1⟩
  obtain ⟨l, hl, hin, hall⟩ := hu
  generalize (if (Txn.part x true).isEmpty then v else w) = u at hl huk
  split
  · next h =>
    refine ⟨⟨l, hl, fun r hr => ?_, fun bad hne => ?_⟩, huk.1, huk.2⟩
    · obtain ⟨h1, h2, h3, h4⟩ := hin r hr
      exact ⟨h1, h2, true, h3, h4⟩
    · cases bad with
      | true => exact hall hne
      | false => exact absurd (List.isEmpty_iff.1 h) hne
  · next h =>
    have hne' : Txn.part x false ≠ [] := fun h0 => h (by rw [h0]; rfl)
    obtain ⟨⟨r2, ho2, hl2, hp2, -, hq2⟩, hm2, hc2⟩ := State.newReq_keeps u (.write (Txn.part x false) false false) (x.offset / 1024) x.dstPol
      (.link n x) (2 ^ 48 * v.boot.moduleId + x.offset) x.hint
    refine ⟨⟨l ++ [r2], by rw [hq2, hl, List.append_assoc], fun r hr => ?_, fun bad hne => ?_⟩, hm2.trans huk.1, hc2.trans huk.2⟩
    · rcases List.mem_append.1 hr with hr | hr
      · obtain ⟨h1, h2, h3, h4⟩ := hin r hr
        exact ⟨h1, h2, true, h3, h4⟩
      · rw [List.mem_singleton.1 hr]
        exact ⟨hl2, hp2, false, hne', ho2⟩
    · cases bad with
      | true =>
        obtain ⟨r, hr, ho⟩ := hall hne
        exact ⟨r, List.mem_append_left _ hr, ho⟩
      | false => exact ⟨r2, by simp, ho2⟩

/-- A refused WRITE raises PERMISSION and writes nothing. -/
theorem State.zlWrite_refused (s : State) (n : Nat) (x : Txn) (h : s.zlGranted x true = false ∨ s.groupPart x.offset (32 * x.chunks) = true) :
    (s.zlWrite n x).reqs = s.reqs ∧ (s.zlWrite n x).mem = s.mem
      ∧ ∃ e, (s.zlWrite n x).crier.band = s.crier.band ++ [e] ∧ e.code = .permission ∧ e.book = x.dstPol := by
  have hr := s.noteLateness_onlyRuns n x
  have hw : s.zlWrite n x = ((s.noteLateness n x).zlPermission x).countTally x := by
    unfold State.zlWrite
    dsimp only
    rw [if_pos]
    rw [hr.zlGranted, hr.groupPart]
    rcases h with h | h <;> simp [h]
  obtain ⟨h1, h2, h3⟩ := ((s.noteLateness n x).zlPermission x).countTally_keeps x
  rw [hw, h1, h2, h3, ← hr.reqs, ← hr.mem, ← hr.crier]
  exact ⟨rfl, rfl, _, rfl, rfl, rfl⟩

theorem State.sendTxn_keeps (s : State) (n p cls : Nat) (t : Txn) :
    (s.sendTxn n p cls t).reqs = s.reqs ∧ (s.sendTxn n p cls t).mem = s.mem ∧ (s.sendTxn n p cls t).crier = s.crier := by
  unfold State.sendTxn
  split <;> exact ⟨rfl, rfl, rfl⟩

theorem State.zlRead_refused (s : State) (n : Nat) (x : Txn) (h : s.zlGranted x false = false) :
    (s.zlRead n x).reqs = s.reqs ∧ (s.zlRead n x).mem = s.mem
      ∧ ∃ e, (s.zlRead n x).crier.band = s.crier.band ++ [e] ∧ e.code = .permission ∧ e.book = x.dstPol := by
  unfold State.zlRead
  rw [h, if_neg Bool.false_ne_true]
  dsimp only
  obtain ⟨h1, h2, h3⟩ := State.sendTxn_keeps ((s.zlPermission x).freeBytes (32 * x.chunks)).2 n x.dstPol 1 { x with
      op := 3, srcModule := x.dstModule, dstModule := x.srcModule, srcPol := x.dstPol, dstPol := x.srcPol
      data := ((s.zlPermission x).freeBytes (32 * x.chunks)).1, poison := BitVec.ofNat 32 (2 ^ x.chunks - 1), counted := false, tally := 0 }
  rw [h1, h2, h3]
  exact ⟨rfl, rfl, _, rfl, rfl, rfl⟩

/-! ## READ_DATA -/

theorem State.late_links (s : State) (p : Nat) (orphan : Bool) : (s.late p orphan).links = s.links := by
  unfold State.late
  extract_lets s' q
  split <;> rfl

theorem State.complete_links (s : State) (port fn addr : Nat) (data : List Byte) (ep : Bool) : (s.complete port fn addr data ep).links = s.links := by
  unfold State.complete
  exact foldl_keeps_proj State.links (fun (s : State) d => s.toHost port (.completion fn d 0 ep)) (fun _ _ => rfl) _ _

theorem State.countDead_links (s : State) (p : Nat) (dead : Bool) : (s.countDead p dead).links = s.links := by
  unfold State.countDead
  split <;> rfl

theorem State.hostGot_links (s : State) (port id p : Nat) (bs : Bytes) (bad dead : Bool) : (s.hostGot port id p bs bad dead).links = s.links := by
  unfold State.hostGot
  split
  · rfl
  extract_lets a' s1 s2
  split
  · rfl
  rw [State.complete_links, State.countDead_links]
  simp only [s2]
  split <;> rfl

theorem State.fillMiss_links (s : State) (h key : Nat) (bytes : List Byte) (poison : Bool) : (s.fillMiss h key bytes poison).links = s.links := by
  unfold State.fillMiss
  split
  · rfl
  extract_lets kib s1 s2
  split
  · rw [State.late_links]
    rfl
  · show s2.links = s.links
    simp only [s2]
    split <;> rfl

theorem State.deliverRead_links (s : State) (who : Requester) (pol gen : Nat) (orphan : Bool) (va off : Nat) (got : List (Byte × Bool)) :
    (s.deliverRead who pol gen orphan va off got).links = s.links := by
  unfold State.deliverRead
  dsimp only
  split
  · split
    · exact State.late_links _ _ _
    · split <;> rfl
  · exact State.fillMiss_links _ _ _ _ _
  · rw [State.hostGot_links]
    split
    · exact State.late_links _ _ _
    · rfl
  · rfl

/-! ## BARRIER -/

theorem State.grantOk_arrivedLess (s : State) (n : Nat) (t : Txn) (p m : Nat) (w : Bool) :
    (s.arrivedLess n t).grantOk p m w = s.grantOk p m w := rfl

theorem State.zlBarrier_refused (s : State) (x : Txn) (h : s.grantOk x.dstPol x.srcModule true = false) :
    s.zlBarrier x = s.zlPermission x := by
  unfold State.zlBarrier
  rw [h]
  rfl

theorem State.zlBarrier_declared (s : State) (x : Txn) (b : BarrierDecl) (h : s.grantOk x.dstPol x.srcModule true = true)
    (hb : s.barrierDecl x.dstPol x.tag = some b) :
    s.zlBarrier x = if b.collector = s.boot.moduleId then
        (if b.parts.contains x.srcModule then s.barrierArrival x.dstPol b x.srcModule x.srcPol else s)
      else if x.srcModule = b.collector then s.updCollector x.dstPol x.tag fun c => { c with releases := c.releases + 1 }
      else s := by
  unfold State.zlBarrier
  rw [h, hb]
  rfl

theorem State.collector_updCollector (s : State) (p n : Nat) (f : Collector → Collector) :
    (s.updCollector p n f).collector p n = f (s.collector p n) := SMap.get_upd_same _ _ _ _

/-- The first arrival of several waits at the collector. -/
theorem State.barrierArrival_first (s : State) (p : Nat) (b : BarrierDecl) (m pol : Nat) (h0 : (s.collector p b.number).arrived = [])
    (hpol : pol < 64) (ho : ∃ x ∈ b.parts, x ≠ m) :
    s.barrierArrival p b m pol = s.updCollector p b.number fun c => { c with arrived := [64 * m + pol] } := by
  have hdiv : (64 * m + pol) / 64 = m := by omega
  have hall : (b.parts.all fun x => [64 * m + pol].any fun y => decide (y / 64 = x)) = false := by
    obtain ⟨x, hx, hne⟩ := ho
    rw [List.all_eq_false]
    exact ⟨x, hx, by simp [hdiv, Ne.symm hne]⟩
  unfold State.barrierArrival
  dsimp only
  rw [h0]
  dsimp only [List.any_nil]
  simp only [Bool.false_eq_true, if_false, List.nil_append, hall]

/-- Settles O55. -/
theorem transactionsAreHandled : Obligations.TransactionsAreHandled := by
  refine ⟨?requests, ?rows, ?answers, ?refused, ?barriers⟩
  case requests =>
    intro s n x hup hdst hj0 hj hst hok part
    have hpart : part = Txn.part x := rfl
    have hperf : ∀ c, Txn.takes n x c → x.op ≠ 4 → exec c s = .next (if x.op = 1 then (s.arrivedLess n x).zlWrite n x
        else if x.op = 2 then (s.arrivedLess n x).zlRead n x else s.arrivedLess n x) := by
      intro c hc h4
      rw [exec_zlPerform s n x c hc hup, State.zlPerform, State.zlRows_pass (s.arrivedLess n x) _ _ _ hdst hj hj0 hst, if_neg h4, if_neg (by simp [hok])]
    refine ⟨fun hop hg hp => ?_, fun hop hg => ?_, fun hop hg => ?_, fun hop hg => ?_⟩
    · refine completes_of_exec ((hperf _ (.inl ⟨hop, rfl⟩) (by omega)).trans (by rw [if_pos hop])) ?_
      rw [hpart]
      obtain ⟨⟨l, h1, h2, h3⟩, h4, h5⟩ := State.zlWrite_granted (s.arrivedLess n x) n x
        ((s.zlGranted_arrivedLess n x x true).trans hg) hp
      exact ⟨⟨l, h1, h2, h3⟩, h4, h5⟩
    · refine completes_of_exec ((hperf _ (.inl ⟨hop, rfl⟩) (by omega)).trans (by rw [if_pos hop])) ?_
      exact State.zlWrite_refused (s.arrivedLess n x) n x (by rw [State.zlGranted_arrivedLess, State.groupPart_arrivedLess]; exact hg)
    · refine completes_of_exec ((hperf _ (.inr (.inl ⟨hop, rfl⟩)) (by omega)).trans (by rw [if_neg (by omega), if_pos hop])) ?_
      unfold State.zlRead
      rw [State.zlGranted_arrivedLess, hg, if_pos rfl]
      obtain ⟨⟨r, h1, h2, h3, h4, h5⟩, h6, h7⟩ := State.newReq_keeps (s.arrivedLess n x) (.read (readSectors x)) (x.offset / 1024) x.dstPol
        (.link n x) (2 ^ 48 * (s.arrivedLess n x).boot.moduleId + x.offset) x.hint
      exact ⟨⟨r, h5, h1, h2, h3, h4⟩, h6, h7⟩
    · refine completes_of_exec ((hperf _ (.inr (.inl ⟨hop, rfl⟩)) (by omega)).trans (by rw [if_neg (by omega), if_pos hop])) ?_
      exact State.zlRead_refused (s.arrivedLess n x) n x ((s.zlGranted_arrivedLess n x x false).trans hg)
  case rows =>
    intro s n x c hc hup
    have hex := exec_zlPerform s n x c hc hup
    have hl := s.arrivedLess_linksOnly n x
    have hlink := s.link_arrivedLess n x
    have hboot : (s.arrivedLess n x).boot = s.boot := rfl
    have hpol : ∀ p, (s.arrivedLess n x).pol p = s.pol p := fun _ => rfl
    generalize s.arrivedLess n x = u at hex hl hlink hboot hpol
    refine ⟨fun hm => ?_, fun hm hj => ?_, fun hm hj h0 hst hheld hfl => ?_⟩
    · refine completes_of_exec hex ?_
      rw [State.zlPerform, State.zlRows_misrouted _ _ _ _ (by rw [hboot]; exact hm)]
      exact ⟨by rw [State.link_updLink, hlink], hl.updLink _ _⟩
    · refine completes_of_exec hex ?_
      rw [State.zlPerform, State.zlRows_stale _ _ _ _ (by rw [hboot]; exact hm) (by rw [hpol]; exact hj)]
      exact ⟨by rw [State.link_updLink, hlink], hl.updLink _ _⟩
    · refine completes_of_exec hex ?_
      have hh : (u.link n).heldTxns = [] := by rw [hlink]; exact hheld
      rw [State.zlPerform, State.zlRows_held _ _ _ _ (by rw [hboot]; exact hm) (by rw [hpol]; exact hj) h0 (by rw [hpol]; exact hst) hh hfl]
      refine ⟨?_, hl.updLink _ _⟩
      rw [State.link_updLink]
      dsimp only
      rw [hh]
      rfl
  case answers =>
    intro s n x hup hop
    have hl := s.arrivedLess_linksOnly n x
    have hlink := s.link_arrivedLess n x
    refine ⟨fun hm => ?_, fun r hm hr htag hch => ?_⟩
    · refine completes_of_exec (t := (s.arrivedLess n x).updLink n fun l => { l with misrouted := satAdd 0xFFFF l.misrouted 1 }) ?_
        ⟨by rw [State.link_updLink, hlink], hl.updLink _ _⟩
      show execReadData n x s = _
      rw [execReadData, State.zlTake_up _ _ _ _ _ hup hop]
      dsimp only
      exact congrArg _ (if_pos hm)
    · refine ⟨_, rfl, ?_⟩
      have hreads : ((s.arrivedLess n x).link n).reads = [r] := by rw [hlink]; exact hr
      have hu : ((s.arrivedLess n x).updLink n fun l => { l with reads := l.reads.filter fun x => x.tag ≠ r.tag })
          = s.updLink n fun l => { l with arrived := l.arrived.erase x, reads := [] } := by
        rw [State.arrivedLess, State.updLink_updLink]
        unfold State.updLink SMap.upd
        have hget : s.links.get {} n = s.link n := rfl
        dsimp only
        rw [hget, hr]
        simp
      refine completes_of_exec (t := (s.updLink n fun l => { l with arrived := l.arrived.erase x, reads := [] }).deliverRead
        r.who r.pol x.srcGen r.orphan r.va 0 ((slice x.data 0 (32 * x.chunks)).zipIdx.map fun e => (e.1, x.poison.getLsbD (e.2 / 32)))) ?_ ⟨?_, rfl⟩
      · show execReadData n x s = _
        rw [execReadData, State.zlTake_up _ _ _ _ _ hup hop]
        dsimp only
        rw [if_neg (by simp only [ne_eq, not_not]; exact hm), hreads, List.find?_cons_of_pos (by simp [htag, hch])]
        dsimp only
        rw [hu]
      · rw [State.link, State.deliverRead_links]
        exact congrArg LinkPort.reads (State.link_updLink s n _)
  case refused =>
    intro s n x hup hop hm h0 hj hst hg
    refine completes_of_exec (t := (s.arrivedLess n x).zlPermission x) ?_ ⟨rfl, _, rfl, rfl, rfl⟩
    rw [exec_zlPerform s n x _ (.inr (.inr ⟨hop, rfl⟩)) hup, State.zlPerform, State.zlRows_pass (s.arrivedLess n x) _ _ _ hm hj h0 hst, if_pos hop,
      State.zlBarrier_refused (s.arrivedLess n x) _ hg]
  case barriers =>
    intro s n x b hup hop hm h0 hj hst hg hb
    have hex : exec (.zlBarrier n x) s = .next ((s.arrivedLess n x).zlBarrier x) := by
      rw [exec_zlPerform s n x _ (.inr (.inr ⟨hop, rfl⟩)) hup, State.zlPerform, State.zlRows_pass (s.arrivedLess n x) _ _ _ hm hj h0 hst, if_pos hop]
    rw [State.zlBarrier_declared (s.arrivedLess n x) x b hg hb] at hex
    have hboot : (s.arrivedLess n x).boot.moduleId = s.boot.moduleId := rfl
    rw [hboot] at hex
    refine ⟨fun hne hsrc => ?_, fun heq hmem hnum harr hpol ho => ?_⟩
    · rw [if_neg hne, if_pos hsrc] at hex
      refine completes_of_exec hex ⟨?_, rfl⟩
      rw [State.collector_updCollector]
      rfl
    · rw [if_pos heq, if_pos (by simpa using hmem), State.barrierArrival_first _ _ _ _ _ (by rw [hnum]; exact harr) hpol ho, hnum] at hex
      refine completes_of_exec hex ⟨?_, ?_, rfl⟩
      · rw [State.collector_updCollector]
      · rw [State.collector_updCollector]
        rfl

end Sys2Proof.Machine
end

section
/-! SUPPORT. An advance of a polder's generation (R298): what it sets, and what it leaves alone. -/

namespace Sys2Proof.Machine

open Sys2Proof

/-! ## What no traffic and no advance changes -/

/-- A polder without its lists and the counts of its late answers. -/
def Polder.still (q : Polder) : Polder :=
  { q with
    running := [], records := [], pending := [], stale := 0, lastGen := 0, lateCount := 0, orphans := 0, orphanGen := 0, discarded := 0 }

/-- A host port without its reads and its accesses in progress. -/
def HostPort.face (q : HostPort) : HostPort := { q with reads := [], waitingReads := [], bar2 := [] }

/-- The module's registers: all but traffic, polders and host ports. -/
def State.fixed (s : State) : State := { s.plain with ports := [] }

/-- What polders are, and everything but the traffic. -/
structure Stance where
  rest : State
  pol : Nat → Polder

def State.stance (s : State) : Stance := ⟨s.fixed, fun p => (s.pol p).still⟩

theorem State.stance_eq {s t : State} (hr : t.fixed = s.fixed) (hp : ∀ p, (t.pol p).still = (s.pol p).still) : t.stance = s.stance := by
  unfold State.stance
  rw [hr, funext hp]

theorem State.fixed_of_plain {s t : State} (h : t.plain = s.plain) : t.fixed = s.fixed := by
  unfold State.fixed
  rw [h]

theorem State.stance_of_bare {s t : State} (h : t.bare = s.bare) : t.stance = s.stance := by
  have hr : t.plain = s.plain := congrArg Ctl.rest h
  refine State.stance_eq (State.fixed_of_plain hr) fun p => ?_
  have hp : { (t.pol p).core with running := [] } = { (s.pol p).core with running := [] } := congrFun (congrArg Ctl.pol h) p
  exact (congrArg Polder.still hp :)

theorem State.ports_of_bare {s t : State} (h : t.bare = s.bare) : t.ports = s.ports := by
  have hr : t.plain = s.plain := congrArg Ctl.rest h
  exact (congrArg State.ports hr : t.plain.ports = s.plain.ports)

theorem State.stance_of_ctl {s t : State} (h : t.ctl = s.ctl) : t.stance = s.stance := State.stance_of_bare (State.bare_of_ctl h)
theorem State.ports_of_ctl {s t : State} (h : t.ctl = s.ctl) : t.ports = s.ports := State.ports_of_bare (State.bare_of_ctl h)

section
variable {s t : State} (h : t.stance = s.stance)
include h

theorem State.fixed_of_stance : t.fixed = s.fixed := congrArg Stance.rest h
theorem State.still_of_stance (p : Nat) : (t.pol p).still = (s.pol p).still := congrFun (congrArg Stance.pol h) p

end

section
variable {s t : State} (h : t.fixed = s.fixed)
include h

theorem State.boot_of_fixed : t.boot = s.boot := (congrArg State.boot h : t.fixed.boot = s.fixed.boot)
theorem State.img_of_fixed : t.img = s.img := (congrArg State.img h : t.fixed.img = s.fixed.img)
theorem State.nv_of_fixed : t.nv = s.nv := (congrArg State.nv h : t.fixed.nv = s.fixed.nv)
theorem State.alm_of_fixed : t.alm = s.alm := (congrArg State.alm h : t.fixed.alm = s.fixed.alm)

end

/-! ## Steps of an advance -/

section
variable (s : State)

theorem State.updPol_stance (p : Nat) (f : Polder → Polder) (hf : ∀ q, (f q).still = q.still) : (s.updPol p f).stance = s.stance := by
  refine State.stance_eq rfl fun q => ?_
  by_cases h : q = p
  · rw [h, State.pol_updPol, hf]
  · rw [State.pol_updPol_other _ _ _ _ h]

theorem State.emptyPending_stance (p status : Nat) : (s.emptyPending p status).stance = s.stance := by
  unfold State.emptyPending
  dsimp only
  rw [State.stance_of_ctl (foldl_ctl _ (fun u m => u.manifestRecord_ctl p m status m.tb 0) _ _)]
  exact State.updPol_stance _ _ _ fun _ => rfl

theorem State.emptyPending_ports (p status : Nat) : (s.emptyPending p status).ports = s.ports := by
  unfold State.emptyPending
  dsimp only
  rw [State.ports_of_ctl (foldl_ctl _ (fun u m => u.manifestRecord_ctl p m status m.tb 0) _ _)]
  rfl

theorem State.emptyPending_pending (p status : Nat) : ((s.emptyPending p status).pol p).pending = [] := by
  unfold State.emptyPending
  dsimp only
  rw [State.pending_of_ctl (foldl_ctl _ (fun u m => u.manifestRecord_ctl p m status m.tb 0) _ _), State.pol_updPol]

theorem State.orphanAll_stance (p : Nat) : (s.orphanAll p).stance = s.stance := rfl

/-- An element that is mapped to something listed stands at its place. -/
theorem SMap.get_mapAll {α : Type} [DecidableEq α] {d : α} {f : Nat → α → α} {m : SMap α} {i : Nat} (hd : m.get d i ≠ d)
    (hf : f i (m.get d i) ≠ d) : (m.mapAll d f).get d i = f i (m.get d i) := by
  unfold SMap.mapAll
  induction m with
  | nil => exact absurd rfl hd
  | cons e m ih =>
    obtain ⟨k, v⟩ := e
    rw [List.map_cons]
    by_cases hk : k = i
    · have hget : SMap.get d ((k, v) :: m) i = v := by rw [SMap.get, if_pos hk]
      rw [hget] at hf ⊢
      rw [hk, List.filter_cons_of_pos (by simpa using hf)]
      rw [SMap.get, if_pos rfl]
    · have hget : SMap.get d ((k, v) :: m) i = SMap.get d m i := by rw [SMap.get, if_neg hk]
      rw [hget] at hd hf ⊢
      by_cases hv : f k v = d
      · rw [List.filter_cons_of_neg (by simp [hv])]
        exact ih hd hf
      · rw [List.filter_cons_of_pos (by simp [hv]), SMap.get, if_neg hk]
        exact ih hd hf

theorem State.orphanAll_face (p n : Nat) (h : (s.port n).face ≠ ({} : HostPort).face) : ((s.orphanAll p).port n).face = (s.port n).face := by
  have hne : s.port n ≠ {} := fun h0 => h (by rw [h0])
  have ho : (s.port n).orphaned p ≠ {} := fun h0 => h (by rw [← h0]; rfl)
  have hp : (s.orphanAll p).port n = (s.port n).orphaned p :=
    SMap.get_mapAll (d := ({} : HostPort)) (f := fun _ q => q.orphaned p) (m := s.ports) hne ho
  rw [hp]
  rfl

end

/-! ## The advance -/

/-- What an advance sets in the polder itself. -/
def Polder.advanced (q : Polder) (own : Bool) : Polder :=
  { q with
    gen := (q.gen + 1) % 256, tallies := [], tallyUsed := [], job := 0, hi := 0, lo := 0, rd := false, wr := false
    enable := false, stopping := false, freezeAsked := false, thawAsked := false
    status := if q.busy && !own then 5 else q.status, busy := if own then q.busy else false }

/-- The state just before the advance sets the polder. -/
def State.beforeAdvance (s : State) (p : Nat) : State := (((s.emptyPending p stStale).fenceRuns p).orphanAll p)

theorem State.beforeAdvance_stance (s : State) (p : Nat) : (s.beforeAdvance p).stance = s.stance := by
  rw [State.beforeAdvance, State.orphanAll_stance, State.stance_of_bare (State.fenceRuns_bare _ _), State.emptyPending_stance]

theorem State.beforeAdvance_face (s : State) (p n : Nat) (h : (s.port n).face ≠ ({} : HostPort).face) :
    ((s.beforeAdvance p).port n).face = (s.port n).face := by
  have hp : ((s.emptyPending p stStale).fenceRuns p).port n = s.port n := by
    rw [State.port, State.ports_of_bare (State.fenceRuns_bare _ _), State.emptyPending_ports]
    rfl
  rw [State.beforeAdvance, State.orphanAll_face _ _ _ (by rw [hp]; exact h), hp]

theorem State.advanceGen_eq (s : State) (p : Nat) (own : Bool) :
    ∃ n, s.advanceGen p own = ((s.beforeAdvance p).updPol p fun q => { q with
      gen := ((s.pol p).gen + 1) % 256
      tallies := [], tallyUsed := []
      job := 0, hi := 0, lo := 0, rd := false, wr := false
      enable := false, stopping := false
      freezeAsked := false, thawAsked := false
      status := if q.busy && !own then 5 else q.status
      busy := if own then q.busy else false
      orphans := n, orphanGen := (s.pol p).gen, discarded := if q.orphans = 0 then 0 else q.discarded }).retryRecords p := ⟨_, rfl⟩

theorem State.advanceGen_fixed (s : State) (p : Nat) (own : Bool) : (s.advanceGen p own).fixed = s.fixed := by
  obtain ⟨n, h⟩ := s.advanceGen_eq p own
  rw [h, State.fixed_of_stance (State.stance_of_ctl (State.retryRecords_ctl _ _))]
  exact (State.fixed_of_stance (s.beforeAdvance_stance p) :)

theorem State.advanceGen_face (s : State) (p : Nat) (own : Bool) (n : Nat) (h : (s.port n).face ≠ ({} : HostPort).face) :
    ((s.advanceGen p own).port n).face = (s.port n).face := by
  obtain ⟨k, hk⟩ := s.advanceGen_eq p own
  rw [hk, State.port, State.ports_of_ctl (State.retryRecords_ctl _ _)]
  exact s.beforeAdvance_face p n h

/-- The polder whose generation advances. -/
theorem State.advanceGen_self (s : State) (p : Nat) (own : Bool) :
    ((s.advanceGen p own).pol p).still = (s.pol p).still.advanced own := by
  obtain ⟨n, h⟩ := s.advanceGen_eq p own
  have hb := State.still_of_stance (s.beforeAdvance_stance p) p
  rw [h, State.still_of_stance (State.stance_of_ctl (State.retryRecords_ctl _ _)), State.pol_updPol, ← hb]
  have hg : (s.pol p).gen = ((s.beforeAdvance p).pol p).gen := (congrArg Polder.gen hb :).symm
  rw [hg]
  rfl

theorem State.advanceGen_other (s : State) (p : Nat) (own : Bool) (q : Nat) (hq : q ≠ p) :
    ((s.advanceGen p own).pol q).still = (s.pol q).still := by
  obtain ⟨n, h⟩ := s.advanceGen_eq p own
  rw [h, State.still_of_stance (State.stance_of_ctl (State.retryRecords_ctl _ _)), State.pol_updPol_other _ _ _ _ hq]
  exact State.still_of_stance (s.beforeAdvance_stance p) q

/-! ## A polder that closes -/

/-- What a CLOSED polder has forgotten. -/
def Polder.shut (q : Polder) : Polder := { q with state := 1, frozenBit := false, freezeAsked := false, thawAsked := false }

theorem State.closed_self (s : State) (p : Nat) : (s.closed p).pol p = (s.pol p).shut :=
  State.pol_updPol s p Polder.shut
theorem State.closed_other (s : State) (p q : Nat) (hq : q ≠ p) : (s.closed p).pol q = s.pol q :=
  State.pol_updPol_other s p Polder.shut q hq
theorem State.closed_fixed (s : State) (p : Nat) : (s.closed p).fixed = s.fixed := rfl

theorem State.closePol_self (s : State) (p : Nat) (own : Bool) :
    ((s.closePol p own).pol p).still = ((s.pol p).still.advanced own).shut := by
  rw [State.closePol, State.closed_self, ← State.advanceGen_self]
  rfl

theorem State.closePol_other (s : State) (p : Nat) (own : Bool) (q : Nat) (hq : q ≠ p) :
    ((s.closePol p own).pol q).still = (s.pol q).still := by
  rw [State.closePol, State.closed_other _ _ _ hq, State.advanceGen_other _ _ _ _ hq]

theorem State.closePol_fixed (s : State) (p : Nat) (own : Bool) : (s.closePol p own).fixed = s.fixed :=
  (State.closed_fixed _ _).trans (State.advanceGen_fixed _ _ _)

end Sys2Proof.Machine
end

section
/-! SUPPORT. The commands of a polder (chapter 14: R295, R296, R305, R308, R309, R311, R313). -/

namespace Sys2Proof.Machine

open Sys2Proof

/-! ## POL_CTL -/

/-- The polder with the command and the mode that a write of POL_CTL names. -/
def State.polAsked (s : State) (p : Nat) (a : RegAcc) : State :=
  s.updPol p fun q => { q with cmd := field a.value.toNat 12 4, mode := field a.value.toNat 2 1 }

theorem State.pol_polAsked (s : State) (p : Nat) (a : RegAcc) :
    (s.polAsked p a).pol p = { s.pol p with cmd := field a.value.toNat 12 4, mode := field a.value.toNat 2 1 } := State.pol_updPol _ _ _

/-- A write that gives a command runs it. -/
theorem State.polCommand_go {s : State} {p : Pol} {a : RegAcc} {cmd : Nat} (h : polGoes s p a cmd) (f : Nat → Bool) (hf : f cmd = true) :
    s.polCommand p a f = (s.polAsked p a).polGo p cmd := by
  obtain ⟨how, h8, hbit, hcmd, hbusy⟩ := h
  have hfld : ∀ old, a.fld 12 4 old = cmd := fun old => (RegAcc.fld_of_whole h8 12 4 old).trans hcmd
  unfold State.polCommand
  rw [if_pos (by rw [how, hbit, hfld, hf]; rfl)]
  unfold State.polCtlWrite
  dsimp only
  rw [if_neg (by simp [hbusy]), if_pos hbit]
  simp only [hfld, RegAcc.fld_of_whole h8]
  rw [State.polAsked, hcmd]

theorem State.polCheck_polAsked (s : State) (p : Nat) (a : RegAcc) (cmd : Nat) : (s.polAsked p a).polCheck p cmd = s.polCheck p cmd := by
  unfold State.polCheck
  rw [State.pol_polAsked]
  rfl

theorem State.polGo_refused (s : State) (p cmd : Nat) (h : s.polCheck p cmd ≠ 0) : s.polGo p cmd = s.polDone p (s.polCheck p cmd) := by
  unfold State.polGo
  dsimp only
  rw [if_pos h]

theorem State.pol_polDone (s : State) (p st : Nat) : (s.polDone p st).pol p = { s.pol p with busy := false, status := st } := State.pol_updPol _ _ _

/-- The instruction of a command. -/
def polInstr (p : Pol) (a : RegAcc) : List (Nat × Instr) :=
  [(1, .polOpen p a), (2, .polClose p a), (3, .polBump p a), (4, .polFreeze p a), (5, .polThaw p a), (6, .polSave p a), (7, .polRestore p a)]

theorem exec_polInstr {s : State} {p : Pol} {a : RegAcc} {cmd : Nat} {c : Instr} (h : polGoes s p a cmd) (hc : (cmd, c) ∈ polInstr p a) :
    exec c s = .next ((s.polAsked p a).polGo p cmd) := by
  have hgo : ∀ k, cmd = k → s.polCommand p a (· == k) = (s.polAsked p a).polGo p cmd := fun k hk =>
    State.polCommand_go h _ (by simp [hk])
  simp only [polInstr, List.mem_cons, Prod.mk.injEq, List.not_mem_nil, or_false] at hc
  rcases hc with ⟨hk, rfl⟩ | ⟨hk, rfl⟩ | ⟨hk, rfl⟩ | ⟨hk, rfl⟩ | ⟨hk, rfl⟩ | ⟨hk, rfl⟩ | ⟨hk, rfl⟩
  · exact congrArg Host.Outcome.next (hgo 1 hk)
  · exact congrArg Host.Outcome.next (hgo 2 hk)
  · exact congrArg Host.Outcome.next (hgo 3 hk)
  · exact congrArg Host.Outcome.next (hgo 4 hk)
  · exact congrArg Host.Outcome.next (hgo 5 hk)
  · exact congrArg Host.Outcome.next (hgo 6 hk)
  · exact congrArg Host.Outcome.next (hgo 7 hk)

/-- A command that passes its checks. -/
theorem State.polGo_passes (s : State) (p : Nat) (a : RegAcc) (cmd : Nat) (h : s.polCheck p cmd = 0) :
    ¬ (s.polAsked p a).polCheck p cmd ≠ 0 := by
  rw [State.polCheck_polAsked, h]
  simp

/-! ## Freezing and thawing -/

/-- The state is the old one with other dies. -/
def MillsOnly (s t : State) : Prop := t = { s with mills := t.mills }

theorem MillsOnly.self (s : State) : MillsOnly s s := rfl

theorem MillsOnly.updMill {s t : State} (h : MillsOnly s t) (d : Nat) (f : MillSt → MillSt) : MillsOnly s (t.updMill d f) := by
  unfold MillsOnly State.updMill at *
  rw [h]

theorem MillsOnly.foldl {α : Type} {s : State} {f : State → α → State} (hf : ∀ t a, MillsOnly s t → MillsOnly s (f t a)) (l : List α)
    {t : State} (h : MillsOnly s t) : MillsOnly s (l.foldl f t) :=
  foldl_keeps f (MillsOnly s) l (fun d a _ hd => hf d a hd) t h

theorem State.holdOps_millsOnly (s : State) (p : Nat) : MillsOnly s (s.holdOps p) :=
  MillsOnly.foldl (fun _ d ht => ht.updMill d _) _ (MillsOnly.self s)

theorem State.resumeOps_millsOnly (s : State) (p : Nat) : MillsOnly s (s.resumeOps p) := by
  unfold State.resumeOps
  refine MillsOnly.foldl (fun t d ht => ?_) _ (MillsOnly.self s)
  refine MillsOnly.foldl (fun u o hu => ?_) _ ht
  split
  · exact hu
  · extract_lets climbs cost r new v
    have hv : MillsOnly s v := MillsOnly.foldl (fun w e hw => hw.updMill e _) _ (hu.updMill d _)
    split
    · exact hu
    split
    · exact hv
    · exact MillsOnly.foldl (fun w e hw => hw.updMill e _) _ hv

section
variable {s t : State} (h : MillsOnly s t)
include h

theorem MillsOnly.pols : t.pols = s.pols := by rw [h]
theorem MillsOnly.mem : t.mem = s.mem := by rw [h]
theorem MillsOnly.links : t.links = s.links := by rw [h]
theorem MillsOnly.pol (p : Nat) : t.pol p = s.pol p := by rw [State.pol, h.pols, State.pol]

end

/-- A thaw that finds no transaction held hands none over. -/
theorem State.releaseHeld_of_none (s : State) (p : Nat) (h : ∀ n, (s.link n).heldTxns = []) : s.releaseHeld p = s := by
  unfold State.releaseHeld
  generalize List.range 64 = l
  induction l with
  | nil => rfl
  | cons n l ih =>
    rw [List.foldl_cons]
    dsimp only
    rw [h n]
    exact ih

/-! ## SAVE and RESTORE -/

/-- With one polder's command BUSY, one cycle ends it. -/
theorem step_polEnds (s : State) (p : Pol) (hq : s.pending = []) (hb : (s.idle.pol p).busy = true)
    (ho : ∀ q, q < 64 → q ≠ p.val → (s.idle.pol q).busy = false) :
    step s = .next (if (s.idle.pol p).cmd = 6 then s.idle.saveEnd p else if (s.idle.pol p).cmd = 7 then s.idle.restoreEnd p else s.idle) := by
  have hl : ((List.range 64).filter fun q => (s.idle.pol q).busy) = [p.val] := by
    have hf : ((List.range 64).filter fun q => (s.idle.pol q).busy) = (List.range 64).filter fun q => decide (q = p.val) := by
      refine List.filter_congr fun q hq => ?_
      by_cases h : q = p.val
      · rw [h, hb]
        simp
      · rw [ho q (List.mem_range.1 hq) h]
        simp [h]
    rw [hf]
    have hp : p.val < 64 := p.isLt
    generalize p.val = n at hp
    revert n
    decide
  have hs : step s = .next s.idle.polEnds := by
    unfold step
    rw [hq]
  rw [hs, State.polEnds, hl]
  rfl

/-- A field of the polder that an advance keeps or sets. -/
theorem State.gen_advanceGen (s : State) (p : Nat) (own : Bool) : ((s.advanceGen p own).pol p).gen = ((s.pol p).gen + 1) % 256 :=
  (congrArg Polder.gen (s.advanceGen_self p own) :)
theorem State.state_advanceGen (s : State) (p : Nat) (own : Bool) : ((s.advanceGen p own).pol p).state = (s.pol p).state :=
  (congrArg Polder.state (s.advanceGen_self p own) :)
theorem State.enable_advanceGen (s : State) (p : Nat) (own : Bool) : ((s.advanceGen p own).pol p).enable = false :=
  (congrArg Polder.enable (s.advanceGen_self p own) :)
theorem State.tallies_advanceGen (s : State) (p : Nat) (own : Bool) : ((s.advanceGen p own).pol p).tallies = [] :=
  (congrArg Polder.tallies (s.advanceGen_self p own) :)
theorem State.busy_advanceGen (s : State) (p : Nat) (own : Bool) :
    ((s.advanceGen p own).pol p).busy = if own then (s.pol p).busy else false := (congrArg Polder.busy (s.advanceGen_self p own) :)
theorem State.status_advanceGen (s : State) (p : Nat) (own : Bool) :
    ((s.advanceGen p own).pol p).status = if (s.pol p).busy && !own then 5 else (s.pol p).status :=
  (congrArg Polder.status (s.advanceGen_self p own) :)

/-- What an effect that may end the freeze leaves. -/
theorem State.freezeOver_pol (s : State) (p : Nat) :
    (s.freezeOver p).pol p = (if (s.pol p).state = 3 && (s.pol p).busy && (s.pol p).frozenBit && s.frozenOut p then
      { s.pol p with state := 4, busy := false, status := 0 } else s.pol p) ∧ s.freezeOver p = { s with pols := (s.freezeOver p).pols } := by
  unfold State.freezeOver
  dsimp only
  split
  · exact ⟨State.pol_updPol _ _ _, rfl⟩
  · exact ⟨rfl, rfl⟩

theorem State.frozenOut_congr {s t : State} (p : Nat) (hf : t.inFlight p = s.inFlight p) (hm : (t.pol p).mode = (s.pol p).mode)
    (hr : (t.pol p).running.isEmpty = (s.pol p).running.isEmpty) (hc : (t.pol p).records = (s.pol p).records) :
    t.frozenOut p = s.frozenOut p := by
  unfold State.frozenOut
  dsimp only
  rw [hf, hm, hr, hc]

/-- What an accepted record sets: the polder, FROZEN, at the record's generation. -/
theorem State.applyRecord_eq (s : State) (p : Nat) (r : List Byte) :
    ∃ f : Polder → Polder, s.applyRecord p r = s.updPol p f ∧ (∀ q, (f q).state = 4) ∧ ∀ q, (f q).gen = leAt r 4 1 :=
  ⟨_, rfl, fun _ => rfl, fun _ => rfl⟩

/-- Settles O52. -/
theorem polderCommandsAct : Obligations.PolderCommandsAct := by
  refine ⟨?openPol, ?close, ?bump, ?freeze, ?effect, ?complete, ?thaw, ?thawed, ?save, ?restore, ?ends, ?aborted, ?refused, ?unknown⟩
  case openPol =>
    intro s p a hgo hst hp hvf hmay
    have hok : s.polCheck p 1 = 0 := by simp [State.polCheck, hst, hp, hvf, hmay]
    refine completes_of_exec (t := ((s.polAsked p a).updPol p fun q => { q with state := 2 }).polDone p 0) ?_ ⟨?_, ?_, ?_, fun q hq => ?_, rfl⟩
    · rw [exec_polInstr hgo (by simp [polInstr]), State.polGo, if_neg (s.polGo_passes p a 1 hok)]
    · rw [State.pol_polDone, State.pol_updPol]
    · rw [State.pol_polDone]
    · rw [State.pol_polDone, State.pol_updPol, State.pol_polAsked]
    · rw [State.polDone, State.pol_updPol_other _ _ _ _ hq, State.pol_updPol_other _ _ _ _ hq, State.polAsked, State.pol_updPol_other _ _ _ _ hq]
  case close =>
    intro s p a hgo hlo hhi hp
    have hst : (s.pol p).state = 2 ∨ (s.pol p).state = 3 ∨ (s.pol p).state = 4 := by omega
    have hok : s.polCheck p 2 = 0 := by
      rcases hst with h | h | h <;> simp [State.polCheck, h, hp]
    refine completes_of_exec (t := ((s.polAsked p a).closePol p true).polDone p 0) ?_ ?_
    · rw [exec_polInstr hgo (by simp [polInstr]), State.polGo, if_neg (s.polGo_passes p a 2 hok)]
    · have hgen := State.gen_advanceGen (s.polAsked p a) p true
      have hen := State.enable_advanceGen (s.polAsked p a) p true
      have hta := State.tallies_advanceGen (s.polAsked p a) p true
      rw [State.pol_polAsked] at hgen
      rw [State.pol_polDone, State.closePol, State.closed_self]
      generalize (s.polAsked p a).advanceGen p true = w at hgen hen hta
      exact ⟨rfl, rfl, hgen, hen, hta⟩
  case bump =>
    intro s p a hgo hst
    have hok : s.polCheck p 3 = 0 := by simp [State.polCheck, hst]
    refine completes_of_exec (t := ((s.polAsked p a).advanceGen p true).polDone p 0) ?_ ?_
    · rw [exec_polInstr hgo (by simp [polInstr]), State.polGo, if_neg (s.polGo_passes p a 3 hok)]
    · have hgen := State.gen_advanceGen (s.polAsked p a) p true
      have hen := State.enable_advanceGen (s.polAsked p a) p true
      have hs := State.state_advanceGen (s.polAsked p a) p true
      rw [State.pol_polAsked] at hgen hs
      rw [State.pol_polDone]
      generalize (s.polAsked p a).advanceGen p true = w at hgen hen hs
      exact ⟨hs.trans hst, rfl, hgen, hen⟩
  case freeze =>
    intro s p a hgo hst hp hmay hbit
    have hok : s.polCheck p 4 = 0 := by simp [State.polCheck, hst, hp, hmay, hbit]
    refine completes_of_exec (t := (s.polAsked p a).updPol p fun q => { q with state := 3, busy := true, freezeAsked := true }) ?_ ?_
    · rw [exec_polInstr hgo (by simp [polInstr]), State.polGo, if_neg (s.polGo_passes p a 4 hok)]
    · rw [State.pol_updPol, State.pol_polAsked]
      exact ⟨rfl, rfl, rfl, rfl, rfl⟩
  case effect =>
    intro s p hst hask hb
    have hg : ((s.pol p).state = 3 && (s.pol p).freezeAsked && s.tide.boundary = some s.alm.now) = true := by simp [hst, hask, hb]
    obtain ⟨w, hw, hmills⟩ : ∃ w, w = (if (s.pol p).mode = 0 then s.holdOps p else s) ∧ MillsOnly s w := by
      refine ⟨_, rfl, ?_⟩
      split
      · exact s.holdOps_millsOnly p
      · exact MillsOnly.self s
    obtain ⟨v, hv⟩ : ∃ v, v = w.updPol p fun q => { q with
        frozenBit := true, frozenAt := s.alm.now, freezeAsked := false
        running := if q.mode = 0 then q.running.map fun e => (e.1, { e.2 with suspended := true }) else q.running } := ⟨_, rfl⟩
    have hex : exec (.freezeEffect p) s = .next (v.freezeOver p) := by
      show execFreezeEffect p s = _
      unfold execFreezeEffect
      dsimp only
      rw [if_pos hg, hv, hw]
    have hpol : v.pol p = { s.pol p with
        frozenBit := true, frozenAt := s.alm.now, freezeAsked := false
        running := if (s.pol p).mode = 0 then (s.pol p).running.map fun e => (e.1, { e.2 with suspended := true }) else (s.pol p).running } := by
      rw [hv, State.pol_updPol, hmills.pol]
    have hrest : v = { s with pols := v.pols, mills := v.mills } := by
      have hwe : w = { s with mills := w.mills } := hmills
      rw [hv, hwe]
      rfl
    have hout : v.frozenOut p = s.frozenOut p := by
      refine State.frozenOut_congr p ?_ ?_ ?_ ?_
      · rw [hrest]
        rfl
      · rw [hpol]
      · rw [hpol]
        dsimp only
        split
        · rw [List.isEmpty_map]
        · rfl
      · rw [hpol]
    obtain ⟨ht, hr⟩ := v.freezeOver_pol p
    refine completes_of_exec hex ?_
    rw [ht, hout]
    have hrest' : v.freezeOver p = { s with pols := (v.freezeOver p).pols, mills := (v.freezeOver p).mills } := by
      have hm : (v.freezeOver p).mills = v.mills := by rw [hr]
      rw [hm]
      exact hr.trans (congrArg (fun u : State => { u with pols := (v.freezeOver p).pols }) hrest)
    rw [hpol]
    dsimp only
    rw [hst]
    refine ⟨?_, ?_, ?_, fun hm => ?_, fun hbusy => ?_, hrest'⟩
    · split <;> rfl
    · split <;> rfl
    · split <;> rfl
    · rw [if_pos hm]
      split
      · intro e he
        obtain ⟨x, -, rfl⟩ := List.mem_map.1 he
        rfl
      · intro e he
        obtain ⟨x, -, rfl⟩ := List.mem_map.1 he
        rfl
    · rw [hbusy]
      cases s.frozenOut p with
      | true => rfl
      | false => rfl
  case complete =>
    intro s p hst hbusy hbit
    refine ⟨fun hout => ?_, fun hout => ?_⟩
    · refine completes_of_exec (t := s.updPol p fun q => { q with state := 4, busy := false, status := 0 }) ?_ ⟨State.pol_updPol _ _ _, rfl⟩
      show execFreezeComplete p s = _
      unfold execFreezeComplete State.freezeOver
      dsimp only
      rw [if_pos (by simp [hst, hbusy, hbit, hout])]
    · show execFreezeComplete p s = _
      unfold execFreezeComplete State.freezeOver
      dsimp only
      rw [if_neg (by simp [hout])]
  case thaw =>
    intro s p a hgo hst
    have hok : s.polCheck p 5 = 0 := by simp [State.polCheck, hst]
    refine completes_of_exec (t := (s.polAsked p a).updPol p fun q => { q with busy := true, thawAsked := true }) ?_ ?_
    · rw [exec_polInstr hgo (by simp [polInstr]), State.polGo, if_neg (s.polGo_passes p a 5 hok)]
    · rw [State.pol_updPol, State.pol_polAsked]
      exact ⟨hst, rfl, rfl, rfl⟩
  case thawed =>
    intro s p hst hask hb hheld
    obtain ⟨H, v, hv⟩ : ∃ H v, v = ({ s with hands := H } : State).updPol p (fun q => { q with
        state := 2, frozenBit := false, thawAsked := false, running := q.running.map fun e => (e.1, { e.2 with suspended := false }) })
        ∧ s.resumePol p = (v.resumeOps p).releaseHeld p := ⟨_, _, rfl, rfl⟩
    obtain ⟨hv, hres⟩ := hv
    have hm := v.resumeOps_millsOnly p
    have hrel : s.resumePol p = v.resumeOps p := by
      rw [hres]
      refine State.releaseHeld_of_none _ _ fun n => ?_
      have hl : (v.resumeOps p).links = s.links := by
        rw [hm.links, hv]
        rfl
      rw [State.link, hl]
      exact hheld n
    have hmem : (v.resumeOps p).mem = s.mem := hm.mem.trans (by rw [hv]; rfl)
    have hpol := (hm.pol p).trans (by rw [hv, State.pol_updPol])
    have hex : exec (.thawEffect p) s = .next ((v.resumeOps p).polDone p 0) := by
      show execThawEffect p s = _
      unfold execThawEffect
      dsimp only
      rw [if_pos (by simp [hst, hask, hb]), hrel]
    generalize v.resumeOps p = w at hmem hpol hex
    refine completes_of_exec hex ?_
    rw [State.pol_polDone, hpol]
    refine ⟨rfl, rfl, rfl, hmem, fun e he => ?_⟩
    obtain ⟨x, -, rfl⟩ := List.mem_map.1 he
    rfl
  case save =>
    intro s p a hgo hst hrun hmay hbit
    have hok : s.polCheck p 6 = 0 := by simp [State.polCheck, hst, hmay, hbit, hrun]
    have hex : exec (.polSave p a) s = .next ((s.polAsked p a).save p) := by
      rw [exec_polInstr hgo (by simp [polInstr]), State.polGo, if_neg (s.polGo_passes p a 6 hok)]
    have hbase : ((s.polAsked p a).pol p).saveBase = (s.pol p).saveBase := by rw [State.pol_polAsked]
    have hplace : (s.polAsked p a).recordPlace (s.pol p).saveBase = s.recordPlace (s.pol p).saveBase := by
      unfold State.recordPlace
      rw [State.region_congr (s := s) (t := s.polAsked p a) rfl rfl]
      rfl
    refine ⟨fun hpl => ?_, fun hpl => ?_⟩
    · refine completes_of_exec (hex.trans (by rw [State.save, hbase, hplace, hpl]; rfl)) (t := (s.polAsked p a).polDone p 4) ?_
      rw [State.pol_polDone]
      exact ⟨rfl, rfl⟩
    · obtain ⟨-, -, -, hcmd, -⟩ := hgo
      have hu : s.polAsked p a = s.updPol p fun q => { q with cmd := 6, mode := field a.value.toNat 2 1 } := by rw [State.polAsked, hcmd]
      have hsave : (s.polAsked p a).save p
          = ((s.polAsked p a).poke p (dpaOffset (s.pol p).saveBase) (leBytes 4 0) false).updPol p fun q => { q with busy := true } := by
        rw [State.save, hbase, hplace, hpl]
        rfl
      have hc := State.still_of_stance (State.stance_of_ctl ((s.polAsked p a).poke_ctl p (dpaOffset (s.pol p).saveBase) (leBytes 4 0) false)) p
      have hst' : ((s.polAsked p a).pol p).state = 4 := by rw [State.pol_polAsked]; exact hst
      refine completes_of_exec (hex.trans (congrArg _ hsave)) ?_
      rw [State.pol_updPol, ← hu]
      obtain ⟨w, hw⟩ : ∃ w, w = (s.polAsked p a).poke p (dpaOffset (s.pol p).saveBase) (leBytes 4 0) false := ⟨_, rfl⟩
      rw [← hw] at hc ⊢
      have hs : (w.pol p).state = ((s.polAsked p a).pol p).state := (congrArg Polder.state hc :)
      exact ⟨rfl, hs.trans hst', _, rfl, by rw [hw]⟩
  case restore =>
    intro s p a hgo hst hmay hbit
    have hok : s.polCheck p 7 = 0 := by simp [State.polCheck, hst, hmay, hbit]
    have hex : exec (.polRestore p a) s = .next ((s.polAsked p a).restore p) := by
      rw [exec_polInstr hgo (by simp [polInstr])]
      unfold State.polGo
      exact congrArg _ (if_neg (s.polGo_passes p a 7 hok))
    have hbase : ((s.polAsked p a).pol p).saveBase = (s.pol p).saveBase := by rw [State.pol_polAsked]
    have hplace : (s.polAsked p a).recordPlace (s.pol p).saveBase = s.recordPlace (s.pol p).saveBase := by
      unfold State.recordPlace
      rw [State.region_congr (s := s) (t := s.polAsked p a) rfl rfl]
      rfl
    refine ⟨fun hpl => ?_, fun hpl => ?_⟩
    · refine completes_of_exec (hex.trans (by rw [State.restore, hbase, hplace, hpl]; rfl)) (t := (s.polAsked p a).polDone p 4) ?_
      rw [State.pol_polDone, State.pol_polAsked]
      exact ⟨rfl, hst⟩
    · refine completes_of_exec (hex.trans (by rw [State.restore, hbase, hplace, hpl]; rfl))
        (t := (s.polAsked p a).updPol p fun q => { q with busy := true }) ?_
      rw [State.pol_updPol, State.pol_polAsked]
      exact ⟨rfl, hst, rfl⟩
  case ends =>
    intro s p hq hbusy ho hp
    have hstep := step_polEnds s p hq (by rw [hp]; exact hbusy) ho
    rw [hp] at hstep
    have hre : ∀ u : State, u.restoreEnd p = (if u.peekPoison (dpaOffset (u.pol p).saveBase) 65536
        || !u.recordGood p (u.peek (dpaOffset (u.pol p).saveBase) 65536) then u.polDone p 4
        else (u.applyRecord p (u.peek (dpaOffset (u.pol p).saveBase) 65536)).polDone p 0) := fun _ => rfl
    intro u base r
    have hbase : dpaOffset (s.idle.pol p).saveBase = base := by rw [hp]
    refine ⟨fun hc => ?_, fun hc hpo hgood => ?_, fun hc hbad => ?_⟩
    · rw [hstep, if_pos hc, State.saveEnd, hbase]
    · refine ⟨(u.applyRecord p r).polDone p 0, ?_, ?_⟩
      · rw [hstep, if_neg (by omega), if_pos hc, hre, hbase, if_neg]
        rw [hpo, hgood]
        decide
      · obtain ⟨f, hf, hst, hgen⟩ := u.applyRecord_eq p r
        rw [State.pol_polDone, hf, State.pol_updPol]
        exact ⟨hst _, rfl, rfl, hgen _, rfl⟩
    · rw [hstep, if_neg (by omega), if_pos hc, hre, hbase, if_pos]
      rcases hbad with h | h
      · rw [h]
        rfl
      · rw [h]
        simp
  case aborted =>
    intro s p hbusy
    refine ⟨?_, ?_⟩
    · rw [State.busy_advanceGen]
      rfl
    · rw [State.status_advanceGen, hbusy]
      rfl
  case refused =>
    intro s p a cmd c hgo hcheck hc
    refine completes_of_exec (t := (s.polAsked p a).polDone p (s.polCheck p cmd)) ?_ ?_
    · rw [exec_polInstr hgo hc, State.polGo_refused _ _ _ (by rw [State.polCheck_polAsked]; exact hcheck), State.polCheck_polAsked]
    · rw [State.pol_polDone, State.pol_polAsked]
      exact ⟨rfl, rfl, rfl, rfl⟩
  case unknown =>
    intro s p a cmd hgo hcmd
    have hone : s.polCheck p cmd = 1 := by
      unfold State.polCheck
      rcases hcmd with rfl | h
      · rfl
      · obtain ⟨k, rfl⟩ : ∃ k, cmd = k + 8 := ⟨cmd - 8, by omega⟩
        rfl
    refine completes_of_exec (t := (s.polAsked p a).polDone p 1) ?_ ?_
    · show execPolCmdRefused p a s = _
      rw [execPolCmdRefused, State.polCommand_go hgo _ (by rcases hcmd with rfl | h <;> simp [*]),
        State.polGo_refused _ _ _ (by rw [State.polCheck_polAsked, hone]; decide), State.polCheck_polAsked, hone]
    · rw [State.pol_polDone, State.pol_polAsked]
      exact ⟨rfl, rfl, rfl⟩

end Sys2Proof.Machine
end

section
/-! SUPPORT. Functions, their configuration and their vectors (chapter 13: R275 to R281, R287, R296; R412). -/

namespace Sys2Proof.Machine

open Sys2Proof

/-! ## Functions of a port -/

theorem State.updPort_updPort (s : State) (n : Nat) (f g : HostPort → HostPort) :
    (s.updPort n f).updPort n g = s.updPort n fun q => g (f q) := by
  unfold State.updPort
  dsimp only
  rw [SMap.upd_upd]

theorem State.port_updFn (s : State) (port fn : Nat) (f : Func → Func) : (s.updFn port fn f).port port = (s.port port).updFn fn f :=
  State.port_updPort _ _ _

theorem HostPort.fn_updFn (q : HostPort) (fn : Nat) (f : Func → Func) : (q.updFn fn f).fn fn = f (q.fn fn) := SMap.get_upd_same _ _ _ _

theorem State.fn_updFn (s : State) (port fn : Nat) (f : Func → Func) : ((s.updFn port fn f).port port).fn fn = f ((s.port port).fn fn) := by
  rw [State.port_updFn, HostPort.fn_updFn]

/-- One vector's turn in the sending of what is pending. -/
def State.sendTurn (port fn : Nat) (s : State) (v : Nat) : State :=
  let f := (s.port port).fn fn
  if f.pba.getLsbD v && f.msixEnable && !f.msixMask && !f.d3 && !(f.msix.get {} v).mask then
    (s.updFn port fn fun f => { f with pba := f.pba &&& ~~~(BitVec.ofNat 4 (2 ^ v)) }).msixSend port fn v
  else s

theorem State.sendPending_eq (s : State) (port fn : Nat) : s.sendPending port fn = (List.range 4).foldl (State.sendTurn port fn) s := rfl

theorem State.sendTurn_of_clear (s : State) (port fn v : Nat) (h : ((s.port port).fn fn).pba.getLsbD v = false) : s.sendTurn port fn v = s := by
  unfold State.sendTurn
  dsimp only
  rw [h]
  rfl

/-- With nothing pending, nothing is sent. -/
theorem State.foldl_sendTurn_of_clear (s : State) (port fn : Nat) (l : List Nat) (h : ((s.port port).fn fn).pba = 0) :
    l.foldl (State.sendTurn port fn) s = s := by
  induction l with
  | nil => rfl
  | cons v l ih => rw [List.foldl_cons, State.sendTurn_of_clear _ _ _ _ (by rw [h]; simp), ih]

theorem State.sendPending_of_clear (s : State) (port fn : Nat) (h : ((s.port port).fn fn).pba = 0) : s.sendPending port fn = s := by
  rw [State.sendPending_eq, State.foldl_sendTurn_of_clear _ _ _ _ h]

/-- One pending vector that may be sent is sent, and no other. -/
theorem State.sendPending_single (s : State) (port v : Nat) (hv : v < 4) (hpba : ((s.port port).fn 0).pba = BitVec.ofNat 4 (2 ^ v))
    (hen : ((s.port port).fn 0).msixEnable = true) (hm : ((s.port port).fn 0).msixMask = false) (hd : ((s.port port).fn 0).d3 = false)
    (hmask : (((s.port port).fn 0).msix.get {} v).mask = false) :
    s.sendPending port 0 = (s.updFn port 0 fun f => { f with pba := 0 }).toHost port
      (.msix 0 v (((s.port port).fn 0).msix.get {} v).addr (((s.port port).fn 0).msix.get {} v).data) := by
  have hand : ∀ n < 4, BitVec.ofNat 4 (2 ^ n) &&& ~~~(BitVec.ofNat 4 (2 ^ n)) = 0 := by decide
  have hturn : s.sendTurn port 0 v = (s.updFn port 0 fun f => { f with pba := 0 }).toHost port
      (.msix 0 v (((s.port port).fn 0).msix.get {} v).addr (((s.port port).fn 0).msix.get {} v).data) := by
    have hself : ∀ n < 4, (BitVec.ofNat 4 (2 ^ n)).getLsbD n = true := by decide
    unfold State.sendTurn
    dsimp only
    rw [if_pos (by rw [hpba, hself v hv, hen, hm, hd, hmask]; rfl)]
    have hup : (s.updFn port 0 fun f => { f with pba := f.pba &&& ~~~(BitVec.ofNat 4 (2 ^ v)) })
        = s.updFn port 0 fun f => { f with pba := 0 } := by
      unfold State.updFn State.updPort SMap.upd HostPort.updFn SMap.upd
      have hq : SMap.get {} s.ports port = s.port port := rfl
      have hf : SMap.get {} (s.port port).fns 0 = (s.port port).fn 0 := rfl
      dsimp only
      rw [hq, hf, hpba, hand v hv]
    rw [hup]
    unfold State.msixSend
    dsimp only
    rw [State.fn_updFn]
    dsimp only
    rw [hen, hm, hd, hmask]
    rfl
  have hother : ∀ w, w < 4 → w ≠ v → ((s.port port).fn 0).pba.getLsbD w = false := by
    have hbits : ∀ n < 4, ∀ w < 4, w ≠ n → (BitVec.ofNat 4 (2 ^ n)).getLsbD w = false := by decide
    intro w hw hne
    rw [hpba]
    exact hbits v hv w hw hne
  have hclear : ((((s.updFn port 0 fun f => { f with pba := 0 }).toHost port
      (.msix 0 v (((s.port port).fn 0).msix.get {} v).addr (((s.port port).fn 0).msix.get {} v).data)).port port).fn 0).pba = 0 := by
    exact congrArg Func.pba (State.fn_updFn s port 0 _)
  have hskip : ∀ l : List Nat, (∀ w ∈ l, w < 4 ∧ w ≠ v) → l.foldl (State.sendTurn port 0) s = s := by
    intro l hl
    induction l with
    | nil => rfl
    | cons w l ih =>
      rw [List.foldl_cons, State.sendTurn_of_clear _ _ _ _ (hother w (hl w (by simp)).1 (hl w (by simp)).2)]
      exact ih fun x hx => hl x (List.mem_cons_of_mem _ hx)
  have hsplit : List.range 4 = List.range v ++ v :: (List.range (3 - v)).map fun i => v + 1 + i := by
    have hall : ∀ n < 4, List.range 4 = List.range n ++ n :: (List.range (3 - n)).map fun i => n + 1 + i := by decide
    exact hall v hv
  rw [State.sendPending_eq, hsplit, List.foldl_append, hskip (List.range v) fun w hw => ⟨by have := List.mem_range.1 hw; omega, by
    have := List.mem_range.1 hw; omega⟩, List.foldl_cons, hturn, State.foldl_sendTurn_of_clear _ _ _ _ hclear]

/-! ## VFs -/

theorem Polder.state_of_still {q r : Polder} (h : q.still = r) : q.state = r.state := (congrArg Polder.state h :)

/-- A polder of a port whose VFs go is CLOSED. -/
theorem State.closeTenants_state (s : State) (port p : Nat) (hp : 2 ≤ p) (hlt : p < 64) (hport : (s.pol p).port = port) :
    ((s.closeTenants port).pol p).state = 1 := by
  unfold State.closeTenants
  refine foldl_reaches _ (fun _ => True) (fun t : State => (t.pol p).state = 1) p (s.polsOf port) (fun _ _ _ _ => trivial) ?_ ?_ ?_ s trivial
  · intro t _
    split
    · exact Polder.state_of_still (t.closePol_self p false)
    · next h => simpa [hp] using h
  · intro t q _ hne _ ht
    split
    · have h := t.closePol_other q false p (fun h => hne h.symm)
      exact (Polder.state_of_still h).trans ht
    · exact ht
  · simp [State.polsOf, hlt, hport]

/-! ## MSI-X entries (R412) -/

theorem msixOf_low (e : MsixEntry) (x : Word) : msixOf (putAt e.bytes 0 (leBytes 8 x.toNat)) =
    { addr := x.toNat / 4 * 4, data := e.data, mask := e.mask } := by
  have hb : putAt e.bytes 0 (leBytes 8 x.toNat) = leBytes 8 x.toNat ++ (leBytes 4 e.data.toNat ++ leBytes 4 (b2n e.mask)) := by
    simp [putAt, MsixEntry.bytes, leBytes_length, slice]
  have h0 : leAt (leBytes 8 x.toNat ++ (leBytes 4 e.data.toNat ++ leBytes 4 (b2n e.mask))) 0 8 = x.toNat := leAt_head 8 _ _ x.isLt
  have h8 : leAt (leBytes 8 x.toNat ++ (leBytes 4 e.data.toNat ++ leBytes 4 (b2n e.mask))) 8 4 = e.data.toNat :=
    leAt_mid _ _ 8 4 _ (leBytes_length 8 _) e.data.isLt
  have h12 : leAt (leBytes 8 x.toNat ++ (leBytes 4 e.data.toNat ++ leBytes 4 (b2n e.mask))) 12 4 = b2n e.mask := by
    rw [← List.append_assoc, ← List.append_nil (leBytes 4 (b2n e.mask))]
    exact leAt_mid _ _ 12 4 _ (by simp [leBytes_length]) (by cases e.mask <;> decide)
  rw [hb, msixOf, h0, h8, h12]
  cases e.mask <;> simp [b2n]

/-- Every byte of a dword is enabled. -/
theorem beMask_all : beMask 0xF = BitVec.allOnes 32 := by decide

/-- The identity of a PF (R278). -/
theorem State.configRead_identity (s : State) (port : Nat) : s.configRead port 0 0 = 0x24001F7A := by
  have h : s.cfgKnown port 0 0 = (0xFFFFFFFF, 0x24001F7A) := rfl
  unfold State.configRead
  rw [h]
  have hz : ~~~(BitVec.ofNat 32 0xFFFFFFFF) = 0#32 := by decide
  dsimp only
  rw [hz, BitVec.and_zero, BitVec.zero_or]
  rfl

/-! ## Configuration requests -/

/-- An answer that finds room in the host-out quay. -/
theorem State.cfgAnswer_quay (s : State) (port : Port) (fn : Nat) (data : List Byte) (status : Nat) (h1 : 1 ≤ s.boot.stage)
    (hw : (s.quay (hostOutNo port)).waiting = []) (hl : (s.quay (hostOutNo port)).entries.length < 128) :
    ((s.cfgAnswer port fn data status).quay (hostOutNo port)).entries
      = (s.quay (hostOutNo port)).entries ++ [.host (.completion fn data status false)] := by
  have hd : quayDepth (hostOutNo port) = 128 := by
    have : ∀ p : Port, quayDepth (hostOutNo p) = 128 := by decide
    exact this port
  unfold State.cfgAnswer
  rw [if_neg (by omega), State.quay_pushQuay, QuaySt.push_of_room _ _ _ (by rw [hd]; exact hl) hw]

theorem State.cfgAnswer_toHost (s : State) (port : Nat) (fn : Nat) (data : List Byte) (status : Nat) (h1 : 1 ≤ s.boot.stage) :
    s.cfgAnswer port fn data status = s.toHost port (.completion fn data status false) := by
  unfold State.cfgAnswer
  rw [if_neg (by omega)]
  rfl

theorem configRequests (s : State) (port : Port) (fn : Fin 32) (off : Nat) (v : BitVec 32) (be : BitVec 4) (hup : s.fnUp port 0 = true)
    (hr : (s.port port).vfResets.contains fn.val = false) (h4 : off % 4 = 0) (hlt : off < 4096) (h1 : 1 ≤ s.boot.stage)
    (hw : (s.quay (hostOutNo port)).waiting = []) (hl : (s.quay (hostOutNo port)).entries.length < 128) :
    (fn ≠ 0 → s.vfLive port fn = false → ∀ w, completes (.configRequest port fn w off v be) s fun t =>
        (t.quay (hostOutNo port)).entries = (s.quay (hostOutNo port)).entries ++ [.host (.completion fn [] 1 false)]
          ∧ t = { s with quays := t.quays }) ∧
    (fn = 0 ∨ s.vfLive port fn = true → completes (.configRequest port fn false off v be) s fun t =>
        (t.quay (hostOutNo port)).entries
            = (s.quay (hostOutNo port)).entries ++ [.host (.completion fn (leBytes 4 (s.configRead port fn off).toNat) 0 false)]
          ∧ t = { s with quays := t.quays }) ∧
    (fn = 0 ∨ s.vfLive port fn = true → exec (.configRequest port fn true off v be) s = .next
        ((s.toHost port (.completion fn [] 0 false)).configWrite port fn off
          ((s.configRead port fn off &&& ~~~(beMask be)) ||| (v &&& beMask be)) (v &&& beMask be))) ∧
    (fn = 0 → off = 4 → be = 0xF → completes (.configRequest port fn true off v be) s fun t =>
        ((t.port port).fn 0).bme = v.getLsbD 2 ∧ ((t.port port).fn 0).mse = v.getLsbD 1
          ∧ t = { s with quays := t.quays, ports := t.ports }) := by
  have hg : (!s.fnUp port 0 || (s.port port).vfResets.contains fn.val || decide (off % 4 ≠ 0) || decide (4096 ≤ off)) = false := by
    rw [hup, hr]
    simp [h4]
    omega
  have hlive : fn = 0 ∨ s.vfLive port fn = true → (decide (fn ≠ 0) && !s.vfLive port fn) = false := by
    rintro (h | h) <;> simp [h]
  have hwrite : fn = 0 ∨ s.vfLive port fn = true → exec (.configRequest port fn true off v be) s = .next
        ((s.toHost port (.completion fn [] 0 false)).configWrite port fn off
          ((s.configRead port fn off &&& ~~~(beMask be)) ||| (v &&& beMask be)) (v &&& beMask be)) := by
    intro h
    show execConfigRequest port fn true off v be s = _
    unfold execConfigRequest
    rw [hg, if_neg Bool.false_ne_true, hlive h, if_neg Bool.false_ne_true, if_pos rfl]
    dsimp only
    rw [State.cfgAnswer_toHost _ _ _ _ _ h1]
  refine ⟨fun hne hdead w => ?_, fun h => ?_, hwrite, fun h0 hoff hbe => ?_⟩
  · refine completes_of_exec (t := s.cfgAnswer port fn [] 1) ?_ ⟨State.cfgAnswer_quay s port fn [] 1 h1 hw hl, rfl⟩
    show execConfigRequest port fn w off v be s = _
    unfold execConfigRequest
    rw [hg, if_neg Bool.false_ne_true, if_pos (by simp [hne, hdead])]
  · refine completes_of_exec (t := s.cfgAnswer port fn (leBytes 4 (s.configRead port fn off).toNat) 0) ?_
      ⟨State.cfgAnswer_quay s port fn _ 0 h1 hw hl, rfl⟩
    show execConfigRequest port fn false off v be s = _
    unfold execConfigRequest
    rw [hg, if_neg Bool.false_ne_true, hlive h, if_neg Bool.false_ne_true, if_neg Bool.false_ne_true]
  · subst h0 hoff hbe
    have hbits : (s.configRead port (0 : Fin 32) 4 &&& ~~~(beMask 0xF)) ||| (v &&& beMask 0xF) = v := by
      rw [beMask_all, BitVec.not_allOnes, BitVec.and_zero, BitVec.zero_or, BitVec.and_allOnes]
    have hex := hwrite (.inl rfl)
    rw [hbits] at hex
    refine completes_of_exec (t := (s.toHost port (.completion 0 [] 0 false)).updFn port 0 fun f =>
      { f with bme := v.getLsbD 2, mse := v.getLsbD 1 }) (hex.trans rfl) ?_
    rw [State.fn_updFn]
    exact ⟨rfl, rfl, rfl⟩

/-- Settles O50. -/
theorem functionsAreConfigured : Obligations.FunctionsAreConfigured := by
  refine ⟨?config, ?identity, ?d3, ?resize, ?enable, ?disable, ?unmask, ?unmaskSent, ?entry⟩
  case config =>
    intro s port fn off v be hup hr h4 hlt h1 n hw hl
    exact configRequests s port fn off v be hup hr h4 hlt h1 hw hl
  case identity => exact fun s port => s.configRead_identity port
  case d3 =>
    intro s port fn hup
    constructor
    · refine completes_of_exec (t := s.enterD3 port fn) ?_ ⟨State.fn_updFn _ _ _ _, rfl⟩
      show execD3hotEntry port fn s = _
      rw [execD3hotEntry, if_pos hup]
    · intro hpba
      have hret : s.returnD0 port fn = s.updFn port fn fun f => { f with d3 := false } :=
        State.sendPending_of_clear _ _ _ (by rw [State.fn_updFn]; exact hpba)
      refine completes_of_exec (t := s.updFn port fn fun f => { f with d3 := false }) ?_ ⟨State.fn_updFn _ _ _ _, rfl⟩
      show execD0Return port fn s = _
      rw [execD0Return, if_pos hup, hret]
  case resize =>
    intro s port log hup
    have hex : ∀ vf, exec (.barResize port vf log) s = .next (s.resizeBar port vf log) := by
      intro vf
      show execBarResize port vf log s = _
      rw [execBarResize, if_pos hup]
    refine ⟨fun hlo hhi hm => ?_, fun hlo hhi hm => ?_, fun hm => ?_⟩
    · refine completes_of_exec ((hex false).trans (by simp [State.resizeBar, hlo, hhi, hm]))
        (t := s.updFn port 0 fun f => { f with bar2Log := log }) ⟨?_, rfl⟩
      have hlog : (((s.updFn port 0 fun f => { f with bar2Log := log }).port port).fn 0).bar2Log = log := by rw [State.fn_updFn]
      unfold State.bar2Size
      dsimp only
      rw [hlog, if_pos rfl, if_neg (by omega)]
    · refine completes_of_exec ((hex true).trans (by simp [State.resizeBar, hlo, hhi, hm]))
        (t := s.updPort port fun q => { q with vfBarLog := log }) ⟨?_, rfl⟩
      unfold State.bar2Size
      dsimp only
      rw [State.port_updPort, if_neg (by decide), if_neg (by dsimp only; omega)]
    · rw [hex false]
      simp [State.resizeBar, hm]
  case enable =>
    intro s port n hup h3 hn hen
    refine completes_of_exec (t := s.setVfs port n) ?_ ?_
    · show execVfEnable port n s = _
      rw [execVfEnable, if_pos (by simp [hup, h3, hn, hen])]
    · rw [State.setVfs, State.port_updPort]
      exact ⟨rfl, rfl, rfl⟩
  case disable =>
    intro s port hup hen
    refine completes_of_exec (t := s.clearVfs port) ?_ ⟨?_, fun p hp hlt hport => s.closeTenants_state port p hp hlt hport⟩
    · show execVfDisable port s = _
      rw [execVfDisable, if_pos (by simp [hup, hen])]
    · rw [State.clearVfs, State.port_updPort]
  case unmask =>
    intro s port fn v hup hv hpba
    have hpend := State.sendPending_of_clear (s.updFn port fn fun f => { f with msix := f.msix.upd {} v fun e => { e with mask := false } }) port fn
      (by rw [State.fn_updFn]; exact hpba)
    refine completes_of_exec (t := s.updFn port fn fun f => { f with msix := f.msix.upd {} v fun e => { e with mask := false } }) ?_ ⟨?_, rfl⟩
    · show execMsixUnmask port fn v s = _
      rw [execMsixUnmask, if_pos (by simp [hup, hv]), hpend]
    · rw [State.fn_updFn]
      dsimp only
      rw [SMap.get_upd_same]
  case unmaskSent =>
    intro s port v e hup hv he hpba hen hm hd hw hl
    obtain ⟨u, hu⟩ : ∃ u, u = s.updFn port 0 fun f => { f with msix := f.msix.upd {} v fun e => { e with mask := false } } := ⟨_, rfl⟩
    have huf : (u.port port).fn 0 = { (s.port port).fn 0 with msix := ((s.port port).fn 0).msix.upd {} v fun e => { e with mask := false } } := by
      rw [hu, State.fn_updFn]
    have hent : ((u.port port).fn 0).msix.get {} v = { e with mask := false } := by
      rw [huf]
      dsimp only
      rw [SMap.get_upd_same, he]
    have hsend := State.sendPending_single u port v hv (by rw [huf]; exact hpba) (by rw [huf]; exact hen) (by rw [huf]; exact hm)
      (by rw [huf]; exact hd) (by rw [hent])
    rw [hent] at hsend
    have hd128 : quayDepth (hostOutNo port) = 128 := by
      have : ∀ p : Port, quayDepth (hostOutNo p) = 128 := by decide
      exact this port
    have hq : (u.updFn port 0 fun f => { f with pba := 0 }).quay (hostOutNo port) = s.quay (hostOutNo port) := by rw [hu]; rfl
    refine completes_of_exec (t := (u.updFn port 0 fun f => { f with pba := 0 }).toHost port (.msix 0 v e.addr e.data)) ?_ ⟨?_, ?_⟩
    · show execMsixUnmask port 0 v s = _
      have hfin : ((0 : Fin 32) : Nat) = 0 := rfl
      rw [execMsixUnmask, hfin, if_pos (by rw [hup]; simpa [msixCount] using hv), ← hu, hsend]
    · exact congrArg Func.pba (State.fn_updFn u port 0 _)
    · rw [State.toHost, State.quay_pushQuay, hq, QuaySt.push_of_room _ _ _ (by rw [hd128]; exact hl) hw]
  case entry =>
    intro s port fn v x hup hv hpba
    have hv4 : v < 4 := by
      unfold msixCount at hv
      split at hv <;> omega
    have hoff : 0x70000 + 16 * v - offMsix = 16 * v := by
      unfold offMsix
      omega
    have hdiv : 16 * v / 16 = v := by omega
    have hmod : 16 * v % 16 = 0 := by omega
    obtain ⟨u, hu⟩ : ∃ u, u = s.updFn port fn fun f => { f with msix := f.msix.upd {} v fun e => msixOf (putAt e.bytes 0 (leBytes 8 x.toNat)) } := ⟨_, rfl⟩
    have huf : (u.port port).fn fn = { (s.port port).fn fn with
        msix := ((s.port port).fn fn).msix.upd {} v fun e => msixOf (putAt e.bytes 0 (leBytes 8 x.toNat)) } := by rw [hu, State.fn_updFn]
    have hpend := State.sendPending_of_clear u port fn (by rw [huf]; exact hpba)
    refine completes_of_exec (t := u) ?_ ⟨?_, ?_, ?_⟩
    · show execMsixEntryWrite port fn (0x70000 + 16 * v) 8 x s = _
      have hcond : (s.fnReaches port fn && (decide (8 = 4) || decide (8 = 8)) && decide ((0x70000 + 16 * v) % 8 = 0)
          && decide (offMsix ≤ 0x70000 + 16 * v) && decide (0x70000 + 16 * v < offMsix + 0x8000)) = true := by
        unfold offMsix
        simp [hup]
        omega
      rw [execMsixEntryWrite, if_pos hcond, hoff, State.msixWrite, hdiv, hmod, if_neg (by omega), ← hu, hpend]
    · rw [huf]
      dsimp only
      rw [SMap.get_upd_same, msixOf_low]
    · rw [huf]
      dsimp only
      rw [SMap.get_upd_same, msixOf_low]
    · rw [hu]
      rfl

end Sys2Proof.Machine
end

section
/-! SUPPORT. Resets of ports and functions, and the link (chapter 13: R274, R275, R290 to R293). -/

namespace Sys2Proof.Machine

open Sys2Proof

/-! ## What a failed read leaves alone -/

theorem State.raiseOwn_stance (s : State) (code : Code) (source p : Nat) (detail : List Byte) :
    (s.raiseOwn code source p detail).stance = s.stance := rfl

theorem State.late_stance (s : State) (p : Nat) (orphan : Bool) : (s.late p orphan).stance = s.stance := by
  unfold State.late
  extract_lets u q
  have hu : u.stance = s.stance := State.updPol_stance _ _ _ fun _ => rfl
  split
  · refine Eq.trans (State.updPol_stance _ _ _ fun _ => rfl) ?_
    rw [State.raiseOwn_stance, hu]
  · exact hu

theorem State.late_ports (s : State) (p : Nat) (orphan : Bool) : (s.late p orphan).ports = s.ports := by
  unfold State.late
  extract_lets u q
  split <;> rfl

theorem State.updRun_stance (s : State) (p seq : Nat) (f : Run → Run) : (s.updRun p seq f).stance = s.stance :=
  State.stance_of_bare (State.updRun_bare s p seq f)

theorem State.fillMiss_stance (s : State) (h key : Nat) (bytes : List Byte) (poison : Bool) : (s.fillMiss h key bytes poison).stance = s.stance := by
  unfold State.fillMiss
  split
  · rfl
  extract_lets kib s1 s2
  split
  · exact State.late_stance _ _ _
  · show s2.stance = s.stance
    simp only [s2]
    split <;> rfl

theorem State.fillMiss_ports (s : State) (h key : Nat) (bytes : List Byte) (poison : Bool) : (s.fillMiss h key bytes poison).ports = s.ports := by
  unfold State.fillMiss
  split
  · rfl
  extract_lets kib s1 s2
  split
  · exact State.late_ports _ _ _
  · show s2.ports = s.ports
    simp only [s2]
    split <;> rfl

/-- A change of a host port's traffic alone. -/
theorem State.updPort_face (s : State) (n : Nat) (f : HostPort → HostPort) (hf : ∀ q, (f q).face = q.face) (j : Nat) :
    ((s.updPort n f).port j).face = (s.port j).face := by
  by_cases h : j = n
  · rw [h, State.port_updPort, hf]
  · rw [State.port_updPort_other _ _ _ _ h]

theorem State.updPort_stance (s : State) (n : Nat) (f : HostPort → HostPort) : (s.updPort n f).stance = s.stance := rfl

theorem State.toHost_stance (s : State) (n : Nat) (m : HostMsg) : (s.toHost n m).stance = s.stance := rfl

theorem State.complete_stance (s : State) (port fn addr : Nat) (data : List Byte) (ep : Bool) : (s.complete port fn addr data ep).stance = s.stance :=
  foldl_keeps_proj State.stance (fun (s : State) d => s.toHost port (.completion fn d 0 ep)) (fun _ _ => rfl) _ _

theorem State.complete_ports (s : State) (port fn addr : Nat) (data : List Byte) (ep : Bool) : (s.complete port fn addr data ep).ports = s.ports :=
  foldl_keeps_proj State.ports (fun (s : State) d => s.toHost port (.completion fn d 0 ep)) (fun _ _ => rfl) _ _

/-- What is traffic of host ports and late answers: no polder's register, no other register, no face of a port. -/
structure Faced (s t : State) : Prop where
  pol : ∀ p, (t.pol p).enable = (s.pol p).enable ∧ (t.pol p).gen = (s.pol p).gen
  fixed : t.fixed = s.fixed
  face : ∀ n, (t.port n).face = (s.port n).face

theorem Polder.enable_of_still {q r : Polder} (h : q.still = r.still) : q.enable = r.enable := (congrArg Polder.enable h :)
theorem Polder.gen_of_still {q r : Polder} (h : q.still = r.still) : q.gen = r.gen := (congrArg Polder.gen h :)

theorem Faced.self (s : State) : Faced s s := ⟨fun _ => ⟨rfl, rfl⟩, rfl, fun _ => rfl⟩

theorem Faced.of_stance {s t : State} (h : t.stance = s.stance) (hp : t.ports = s.ports) : Faced s t := by
  refine ⟨fun p => ?_, State.fixed_of_stance h, fun n => ?_⟩
  · have hs := State.still_of_stance h p
    exact ⟨Polder.enable_of_still hs, Polder.gen_of_still hs⟩
  · rw [State.port, hp, State.port]

theorem Faced.trans {s t u : State} (h : Faced s t) (h' : Faced t u) : Faced s u :=
  ⟨fun p => ⟨(h'.pol p).1.trans (h.pol p).1, (h'.pol p).2.trans (h.pol p).2⟩, h'.fixed.trans h.fixed, fun n => (h'.face n).trans (h.face n)⟩

theorem Faced.foldl {α : Type} {f : State → α → State} (hf : ∀ s a, Faced s (f s a)) (l : List α) (s : State) : Faced s (l.foldl f s) :=
  foldl_keeps f (Faced s) l (fun d a _ hd => Faced.trans hd (hf d a)) s (Faced.self s)

theorem State.updPort_faced (s : State) (n : Nat) (f : HostPort → HostPort) (hf : ∀ q, (f q).face = q.face) : Faced s (s.updPort n f) :=
  ⟨fun _ => ⟨rfl, rfl⟩, rfl, s.updPort_face n f hf⟩

theorem State.countDead_faced (s : State) (p : Nat) (dead : Bool) : Faced s (s.countDead p dead) := by
  unfold State.countDead
  split
  · refine ⟨fun q => ?_, rfl, fun _ => rfl⟩
    by_cases h : q = p
    · rw [h, State.pol_updPol]
      exact ⟨rfl, rfl⟩
    · rw [State.pol_updPol_other _ _ _ _ h]
      exact ⟨rfl, rfl⟩
  · exact Faced.self s

theorem State.hostGot_faced (s : State) (port id p : Nat) (bs : Bytes) (bad dead : Bool) : Faced s (s.hostGot port id p bs bad dead) := by
  unfold State.hostGot
  split
  · exact Faced.self s
  extract_lets a' s1 s2
  have h1 : Faced s s1 := State.updPort_faced _ _ _ fun q => by split <;> rfl
  split
  · exact h1
  have h2 : Faced s s2 := by
    refine Faced.trans h1 ?_
    simp only [s2]
    split
    · exact Faced.of_stance rfl rfl
    · exact Faced.self s1
  exact Faced.trans (Faced.trans h2 (State.countDead_faced _ _ _)) (Faced.of_stance (State.complete_stance _ _ _ _ _ _) (State.complete_ports _ _ _ _ _ _))

theorem State.deliverRead_faced (s : State) (who : Requester) (pol gen : Nat) (orphan : Bool) (va off : Nat) (got : List (Byte × Bool)) :
    Faced s (s.deliverRead who pol gen orphan va off got) := by
  have hlate : Faced s (s.late pol orphan) := Faced.of_stance (State.late_stance _ _ _) (State.late_ports _ _ _)
  unfold State.deliverRead
  dsimp only
  split
  · split
    · exact hlate
    · refine Faced.trans ?_ (Faced.of_stance (State.updRun_stance _ _ _ _) rfl)
      split
      · exact Faced.of_stance rfl rfl
      · exact Faced.self s
  · exact Faced.of_stance (State.fillMiss_stance _ _ _ _ _) (State.fillMiss_ports _ _ _ _ _)
  · refine Faced.trans ?_ (State.hostGot_faced _ _ _ _ _ _ _)
    split
    · exact hlate
    · exact Faced.self s
  · exact Faced.self s

theorem State.poisonHostRead_faced (s : State) (r : HostRead) : Faced s (s.poisonHostRead r) := by
  have hp : Faced s (s.poisonBytes r.len).2 := Faced.of_stance rfl rfl
  exact Faced.trans hp (State.deliverRead_faced _ _ _ _ _ _ _ _)

/-- A request that a flushed quay held fails. -/
theorem State.failRead_faced (s : State) (r : HostRead) : Faced s
    ((s.raiseOwn .fencedTarget (s.whoSource r.who).1 r.pol (addrDetail r.va (s.whoSource r.who).2)).poisonHostRead r) :=
  Faced.trans (t := s.raiseOwn .fencedTarget (s.whoSource r.who).1 r.pol (addrDetail r.va (s.whoSource r.who).2)) (Faced.of_stance rfl rfl)
    (State.poisonHostRead_faced _ _)

theorem State.dropRead_faced (s : State) (port tag : Nat) : Faced s (s.dropRead port tag) :=
  State.updPort_faced s port (fun q => { q with reads := q.reads.filter fun r => r.tag ≠ tag }) fun _ => rfl

theorem State.flushHost_faced (s : State) (port : Nat) : Faced s (s.flushHost port) := by
  unfold State.flushHost
  extract_lets q msgs waiting s1 s2 fail s3
  have h1 : Faced s s1 := Faced.of_stance rfl rfl
  have h2 : Faced s s2 := Faced.trans h1 (State.updPort_faced s1 port (fun q => { q with waitingReads := [] }) fun _ => rfl)
  have hfail : ∀ (u : State) r, Faced u (fail u r) := fun u r => State.failRead_faced u r
  clear_value fail
  have h3 : Faced s s3 := by
    refine Faced.trans h2 (Faced.foldl (fun u m => ?_) _ _)
    split
    · exact Faced.of_stance (State.raiseOwn_stance _ _ _ _ _) rfl
    · split
      · exact Faced.trans (State.dropRead_faced _ _ _) (hfail _ _)
      · exact Faced.self u
    · exact Faced.self u
  exact Faced.trans h3 (Faced.foldl hfail _ _)

/-! ## The polders of a port in reset -/

/-- What a reset's turn of one polder leaves. -/
def State.resetTurn (s : State) (p : Nat) : State :=
  let t := (s.pol p).state
  let s := s.advanceGen p false
  if p < 2 then s.updPol p fun q => { q with frozenBit := false }
  else if t = 2 || t = 3 || t = 4 then s.closed p else s

theorem State.resetPols_eq (s : State) (port : Nat) : s.resetPols port = (s.polsOf port).foldl State.resetTurn s := rfl

theorem State.resetTurn_self (s : State) (p : Nat) :
    ((s.resetTurn p).pol p).gen = ((s.pol p).gen + 1) % 256 ∧ ((s.resetTurn p).pol p).enable = false := by
  have hg := s.gen_advanceGen p false
  have he := s.enable_advanceGen p false
  unfold State.resetTurn
  dsimp only
  generalize s.advanceGen p false = u at hg he
  split
  · rw [State.pol_updPol]
    exact ⟨hg, he⟩
  split
  · rw [State.closed_self]
    exact ⟨hg, he⟩
  · exact ⟨hg, he⟩

theorem State.resetTurn_other (s : State) (p q : Nat) (hq : q ≠ p) :
    ((s.resetTurn p).pol q).gen = (s.pol q).gen ∧ ((s.resetTurn p).pol q).enable = (s.pol q).enable := by
  have h := s.advanceGen_other p false q hq
  have hg := Polder.gen_of_still h
  have he := Polder.enable_of_still h
  unfold State.resetTurn
  dsimp only
  generalize s.advanceGen p false = u at hg he
  split
  · rw [State.pol_updPol_other _ _ _ _ hq]
    exact ⟨hg, he⟩
  split
  · rw [State.closed_other _ _ _ hq]
    exact ⟨hg, he⟩
  · exact ⟨hg, he⟩

theorem State.resetTurn_fixed (s : State) (p : Nat) : (s.resetTurn p).fixed = s.fixed := by
  have h := s.advanceGen_fixed p false
  unfold State.resetTurn
  dsimp only
  generalize s.advanceGen p false = u at h
  split
  · exact h
  split
  · exact h
  · exact h

theorem State.resetTurn_face (s : State) (p n : Nat) (h : (s.port n).face ≠ ({} : HostPort).face) :
    ((s.resetTurn p).port n).face = (s.port n).face := by
  have h := s.advanceGen_face p false n h
  unfold State.resetTurn
  dsimp only
  generalize s.advanceGen p false = u at h
  split
  · exact h
  split
  · exact h
  · exact h

theorem State.resetPols_fixed (s : State) (port : Nat) : (s.resetPols port).fixed = s.fixed :=
  foldl_keeps_proj State.fixed State.resetTurn (fun u p => u.resetTurn_fixed p) _ _

theorem State.resetPols_face (s : State) (port n : Nat) (h : (s.port n).face ≠ ({} : HostPort).face) :
    ((s.resetPols port).port n).face = (s.port n).face := by
  rw [State.resetPols_eq]
  refine foldl_keeps State.resetTurn (fun t : State => (t.port n).face = (s.port n).face) _ (fun t p _ ht => ?_) s rfl
  rw [State.resetTurn_face _ _ _ (by rw [ht]; exact h), ht]

theorem State.resetPols_mine (s : State) (port p : Nat) (hlt : p < 64) (hport : (s.pol p).port = port) :
    ((s.resetPols port).pol p).gen = ((s.pol p).gen + 1) % 256 ∧ ((s.resetPols port).pol p).enable = false := by
  rw [State.resetPols_eq]
  refine foldl_nodup_reaches State.resetTurn (fun t => (t.pol p).gen = (s.pol p).gen)
    (fun t => (t.pol p).gen = ((s.pol p).gen + 1) % 256 ∧ (t.pol p).enable = false) p (s.polsOf port)
    (List.Nodup.filter _ List.nodup_range) ?_ ?_ ?_ ?_ s rfl
  · simp [State.polsOf, hlt, hport]
  · intro t q hq ht
    rw [(t.resetTurn_other q p (Ne.symm hq)).1, ht]
  · intro t ht
    rw [← ht]
    exact t.resetTurn_self p
  · intro t q hq ht
    rw [(t.resetTurn_other q p (Ne.symm hq)).1, (t.resetTurn_other q p (Ne.symm hq)).2]
    exact ht

theorem State.resetPols_others (s : State) (port p : Nat) (hport : (s.pol p).port ≠ port) : ((s.resetPols port).pol p).gen = (s.pol p).gen := by
  rw [State.resetPols_eq]
  refine foldl_keeps State.resetTurn (fun t : State => (t.pol p).gen = (s.pol p).gen) _ (fun t q hq ht => ?_) s rfl
  have hne : p ≠ q := by
    rintro rfl
    exact hport (by simpa [State.polsOf] using (List.mem_filter.1 hq).2)
  rw [(t.resetTurn_other q p hne).1, ht]

/-! ## The steps of a reset -/

theorem State.zeroShare_eq (s : State) (port : Nat) : ∃ g, s.zeroShare port = { s with land := g } := ⟨_, rfl⟩

theorem State.land_fixed (s : State) (g : Land) : ({ s with land := g } : State).fixed = s.fixed := rfl

/-- What the steps of a reset leave, but for the last. -/
theorem State.resetSteps_eq (s : State) (port : Nat) : ∃ u : State, s.resetSteps port = u.resetPortRegs port ∧ u.fixed = s.fixed
    ∧ (∀ n, (s.port n).face ≠ ({} : HostPort).face → (u.port n).face = (s.port n).face)
    ∧ ∀ p, (u.pol p).gen = ((s.resetPols port).pol p).gen ∧ (u.pol p).enable = ((s.resetPols port).pol p).enable := by
  have hf := (s.resetPols port).flushHost_faced port
  have hfix := s.resetPols_fixed port
  have hface := s.resetPols_face port
  unfold State.resetSteps
  extract_lets v w x
  have hx : x.fixed = w.fixed ∧ x.ports = w.ports ∧ x.pols = w.pols := by
    simp only [x]
    split <;> exact ⟨rfl, rfl, rfl⟩
  obtain ⟨hx1, hx2, hx3⟩ := hx
  obtain ⟨g, hz⟩ := x.zeroShare_eq port
  refine ⟨x.zeroShare port, rfl, ?_, fun n hn => ?_, fun p => ?_⟩
  · rw [hz, State.land_fixed, hx1, hf.fixed, hfix]
  · have hp : (x.zeroShare port).port n = w.port n := by
      rw [hz, State.port, State.port, ← hx2]
    rw [hp, hf.face n, hface n hn]
  · have hp : (x.zeroShare port).pol p = w.pol p := by
      rw [hz, State.pol, State.pol, ← hx3]
    rw [hp]
    exact ⟨(hf.pol p).2, (hf.pol p).1⟩

/-- The registers of a port after a reset. -/
def HostPort.afterReset (q : HostPort) : HostPort :=
  { q with
    fns := [], bar2 := [], vfEnable := false, numVfs := 0, vfBarLog := 0, ptmEnable := false
    doeIn := [], doe := [], doeReady := false, capLock := false
    mbox := [], mboxLen := 0, mboxCmd := 0, mboxStatus := 0, mboxBusy := false, devReply := none }

theorem State.resetPortRegs_ports (s : State) (port : Nat) : (s.resetPortRegs port).ports = (s.updPort port HostPort.afterReset).ports := rfl

theorem State.resetPortRegs_port (s : State) (port : Nat) : (s.resetPortRegs port).port port = (s.port port).afterReset := by
  rw [State.port, State.resetPortRegs_ports]
  exact State.port_updPort s port HostPort.afterReset

theorem State.resetPortRegs_consent (s : State) (port : Nat) : ((s.resetPortRegs port).load port).consent = false := by
  have hl : (s.resetPortRegs port).load port
      = (fun c : LoadCtl => if c.busy || c.status = 4 then { c with consent := false } else {}) (s.load port) :=
    SMap.get_upd_same ({} : LoadCtl) s.boot.loads port fun c => if c.busy || c.status = 4 then { c with consent := false } else {}
  rw [hl]
  dsimp only
  split <;> rfl

theorem State.resetPortRegs_rest (s : State) (port : Nat) : (s.resetPortRegs port).boot.stage = s.boot.stage
    ∧ (s.resetPortRegs port).img = s.img ∧ (s.resetPortRegs port).nv = s.nv ∧ (s.resetPortRegs port).pols = s.pols := by
  unfold State.resetPortRegs
  simp only [State.updLoad_img, State.updLoad_nv, State.updLoad_pols, State.updLandRegs_img, State.updLandRegs_nv, State.updLandRegs_pols,
    State.updPort_img, State.updPort_nv, State.updPort_pols, and_self, and_true]
  rfl

/-- A port whose reset begins. -/
def HostPort.beginReset (kind : ResetKind) (q : HostPort) : HostPort :=
  { q with inReset := true, resetKind := some kind, vfResets := [], confirmed := 0, accepted := false }

/-- What the event itself does to the link. -/
def HostPort.atEvent (kind : ResetKind) (q : HostPort) : HostPort := if kind = .pfFlr then q else q.linkDown

def HostPort.counted (q : HostPort) : HostPort := { q with resets := satAdd 0xFFFF q.resets 1 }

/-- The state in which the steps of a reset begin. -/
def State.resetBegun (s : State) (port : Nat) (kind : ResetKind) : State :=
  ((((s.updPort port HostPort.counted).updPort port (HostPort.atEvent kind)).updPort port (HostPort.beginReset kind)).updLoad port fun c =>
    { c with consent := false })

theorem State.resetBegun_port (s : State) (port : Nat) (kind : ResetKind) :
    (s.resetBegun port kind).port port = (((s.port port).counted).atEvent kind).beginReset kind := by
  unfold State.resetBegun
  rw [State.port_updLoad, State.port_updPort, State.port_updPort, State.port_updPort]

theorem State.resetBegun_rest (s : State) (port : Nat) (kind : ResetKind) : (s.resetBegun port kind).boot.stage = s.boot.stage
    ∧ (s.resetBegun port kind).img = s.img ∧ (s.resetBegun port kind).nv = s.nv ∧ (s.resetBegun port kind).pols = s.pols := by
  unfold State.resetBegun
  have hw : ∀ w : State, w = { s with ports := w.ports } → (w.updLoad port fun c => { c with consent := false }).boot.stage = s.boot.stage
      ∧ (w.updLoad port fun c => { c with consent := false }).img = s.img ∧ (w.updLoad port fun c => { c with consent := false }).nv = s.nv
      ∧ (w.updLoad port fun c => { c with consent := false }).pols = s.pols := by
    intro w hw
    rw [hw]
    exact ⟨rfl, rfl, rfl, rfl⟩
  exact hw _ rfl

theorem State.updPort_id (s : State) (n : Nat) (f g : HostPort → HostPort) (h : ∀ q, g q = q) :
    (s.updPort n f).updPort n g = s.updPort n f := by
  rw [State.updPort_updPort]
  congr 1
  funext q
  exact h _

/-- A reset that no other is in the way of. -/
theorem State.resetPort_begins (s : State) (port : Port) (kind : ResetKind) (hl : s.boot.loading ≠ some port)
    (hin : (s.port port).inReset = false) : s.resetPort port kind = (s.resetBegun port kind).resetSteps port := by
  have hnl : ¬ s.boot.loading.map Fin.val = some port.val := by
    intro h
    apply hl
    cases hb : s.boot.loading with
    | none => rw [hb] at h; cases h
    | some x =>
      rw [hb] at h
      exact congrArg some (Fin.ext (Option.some.inj h))
  have hrun : ((s.updPort port HostPort.counted).port port).inReset = false := by
    rw [State.port_updPort]
    exact hin
  have hev : (if kind ≠ .pfFlr then (s.updPort port HostPort.counted).updPort port HostPort.linkDown else s.updPort port HostPort.counted)
      = (s.updPort port HostPort.counted).updPort port (HostPort.atEvent kind) := by
    by_cases hk : kind = .pfFlr
    · rw [if_neg (by simp [hk]), State.updPort_id _ _ _ (HostPort.atEvent kind) fun q => if_pos hk]
    · rw [if_pos hk]
      have hf : HostPort.atEvent kind = HostPort.linkDown := funext fun q => if_neg hk
      rw [hf]
  have hcount : s.countReset port = s.updPort port HostPort.counted := rfl
  unfold State.resetPort
  rw [hcount]
  dsimp only
  rw [hrun, Bool.false_and, if_neg Bool.false_ne_true]
  rw [hev]
  exact if_neg hnl

/-- A reset that begins. -/
theorem State.resetPort_isReset (s : State) (port : Port) (kind : ResetKind) (hl : s.boot.loading ≠ some port)
    (hin : (s.port port).inReset = false) :
    portIsReset s (s.resetPort port kind) port kind
      ∧ ((s.resetPort port kind).port port).rate = (if kind = .pfFlr then (s.port port).rate else 0)
      ∧ ((s.resetPort port kind).port port).perst = (s.port port).perst ∧ ((s.resetPort port kind).port port).refclk = (s.port port).refclk := by
  have hu := s.resetPort_begins port kind hl hin
  have hport0 := s.resetBegun_port port kind
  obtain ⟨hst, himg, hnv, hau⟩ := s.resetBegun_rest port kind
  generalize s.resetBegun port kind = u at hu hport0 hst himg hnv hau
  obtain ⟨q, hq, hres0, hperst0, href0, hrate0⟩ : ∃ q : HostPort, u.port port = q.beginReset kind ∧ q.resets = satAdd 0xFFFF (s.port port).resets 1
      ∧ q.perst = (s.port port).perst ∧ q.refclk = (s.port port).refclk ∧ q.rate = if kind = .pfFlr then (s.port port).rate else 0 := by
    refine ⟨_, hport0, ?_, ?_, ?_, ?_⟩ <;> (unfold HostPort.atEvent; split <;> rfl)
  have hpol : ∀ p, u.pol p = s.pol p := fun p => by rw [State.pol, hau, State.pol]
  obtain ⟨v, hv, hvf, hvface, hvpol⟩ := u.resetSteps_eq port
  obtain ⟨hstage, hi, hn, hpols⟩ := v.resetPortRegs_rest port
  have hcons := v.resetPortRegs_consent port
  have hport := v.resetPortRegs_port port
  have hne : (u.port port).face ≠ ({} : HostPort).face := by
    intro h0
    rw [hq] at h0
    have hr : (HostPort.beginReset kind q).face.inReset = ({} : HostPort).face.inReset := congrArg HostPort.inReset h0
    cases hr
  have hface : (v.port port).face = (u.port port).face := hvface port hne
  have hpolv : ∀ p, (v.resetPortRegs port).pol p = v.pol p := fun p => by rw [State.pol, hpols, State.pol]
  rw [hu, hv, hport]
  have hin' : (v.port port).inReset = (u.port port).inReset := (congrArg HostPort.inReset hface :)
  have hkind : (v.port port).resetKind = (u.port port).resetKind := (congrArg HostPort.resetKind hface :)
  have hres : (v.port port).resets = (u.port port).resets := (congrArg HostPort.resets hface :)
  have hcon : (v.port port).confirmed = (u.port port).confirmed := (congrArg HostPort.confirmed hface :)
  have hacc : (v.port port).accepted = (u.port port).accepted := (congrArg HostPort.accepted hface :)
  have hrate : (v.port port).rate = (u.port port).rate := (congrArg HostPort.rate hface :)
  have hperst : (v.port port).perst = (u.port port).perst := (congrArg HostPort.perst hface :)
  have href : (v.port port).refclk = (u.port port).refclk := (congrArg HostPort.refclk hface :)
  rw [hq] at hin' hkind hres hcon hacc hrate hperst href
  unfold portIsReset
  rw [hport]
  refine ⟨⟨hin', hkind, hres.trans hres0, hcon, hacc, rfl, rfl, hcons, ?_, ?_, ?_, fun p hlt hp => ?_, fun p hlt hp => ?_⟩,
    hrate.trans hrate0, hperst.trans hperst0, href.trans href0⟩
  · rw [hstage, State.boot_of_fixed hvf, hst]
  · rw [hi, State.img_of_fixed hvf, himg]
  · rw [hn, State.nv_of_fixed hvf, hnv]
  · rw [hpolv, (hvpol p).1, (hvpol p).2, ← hpol]
    exact u.resetPols_mine port p hlt (by rw [hpol]; exact hp)
  · rw [hpolv, (hvpol p).1, ← hpol]
    exact u.resetPols_others port p (by rw [hpol]; exact hp)

/-! ## Links, and the ends of resets -/

theorem portIsReset_of_port {s v t : State} {port : Nat} {kind : ResetKind} (h : portIsReset v t port kind)
    (hv : v = { s with ports := v.ports }) (hr : (v.port port).resets = (s.port port).resets) : portIsReset s t port kind := by
  have hp : ∀ p, v.pol p = s.pol p := fun p => by rw [hv]; rfl
  have hb : v.boot = s.boot := by rw [hv]
  have hi : v.img = s.img := by rw [hv]
  have hn : v.nv = s.nv := by rw [hv]
  unfold portIsReset at *
  rw [hr, hb, hi, hn] at h
  simp only [hp] at h
  exact h

theorem HostPort.fns_updFn (q : HostPort) (fn : Nat) (f : Func → Func) : (q.updFn fn f).vfResets = q.vfResets := rfl

/-- The FLR of a VF that nothing else resets (R290). -/
theorem vfFlrs (s : State) (port : Port) (n : Fin 32) (p : Nat) (hs0 : s.boot.stage0 = true) (hrate : (s.port port).rate ≠ 0) (hn : n ≠ 0)
    (hlive : s.vfLive port n = true) (hin : (s.port port).inReset = false) (hv : (s.port port).vfResets.contains n.val = false)
    (hp : s.fnPolder port n = some p) :
    completes (.vfFlr port n) s fun t =>
      (t.port port).vfResets = (s.port port).vfResets ++ [n.val] ∧ (t.pol p).gen = ((s.pol p).gen + 1) % 256
        ∧ (t.port port).resets = satAdd 0xFFFF (s.port port).resets 1
        ∧ (t.pol p).state = (if (s.pol p).state = 3 then 4 else (s.pol p).state) ∧ (t.pol p).enable = false := by
  obtain ⟨u, hu, hup, hupol⟩ : ∃ u : State, exec (.vfFlr port n) s = .next ((u.advanceKept p).updFn port n Func.vfReset)
      ∧ u.port port = { (s.port port).counted with
        vfResets := (s.port port).vfResets ++ [n.val], bar2 := (s.port port).bar2.filter fun a => a.fn ≠ n.val } ∧ ∀ j, u.pol j = s.pol j := by
    have hc : (s.countReset port).port port = (s.port port).counted := State.port_updPort s port HostPort.counted
    refine ⟨(s.countReset port).updPort port fun q => { q with vfResets := q.vfResets ++ [n.val], bar2 := q.bar2.filter fun a => a.fn ≠ n.val },
      ?_, ?_, fun _ => rfl⟩
    · show Host.Outcome.next (s.flrVf port n) = _
      unfold State.flrVf
      have hn0 : n.val ≠ 0 := fun h => hn (Fin.ext h)
      rw [if_neg (by simp [hn0, hlive, hrate, hs0])]
      dsimp only
      rw [hc, if_neg (by
        show ¬ ((s.port port).inReset || (s.port port).vfResets.contains n.val) = true
        rw [hin, hv]
        decide)]
      have hfn : ((s.countReset port).updPort port fun q => { q with vfResets := q.vfResets ++ [n.val], bar2 := q.bar2.filter fun a => a.fn ≠ n.val }).fnPolder
          port n = some p := hp
      rw [hfn]
    · rw [State.port_updPort, hc]
      rfl
  have hne : (u.port port).face ≠ ({} : HostPort).face := by
    intro h0
    rw [hup] at h0
    have hr : (s.port port).rate = 0 := (congrArg HostPort.rate h0 :)
    exact hrate hr
  have hface := u.advanceGen_face p false port hne
  have hself := u.advanceGen_self p false
  have hgen : ((u.advanceGen p false).pol p).gen = ((s.pol p).gen + 1) % 256 := by rw [State.gen_advanceGen, hupol]
  have hen := u.enable_advanceGen p false
  have hst : ((u.advanceGen p false).pol p).state = (s.pol p).state := by rw [State.state_advanceGen, hupol]
  refine completes_of_exec hu ?_
  have hk : u.advanceKept p = if (s.pol p).state = 3 then (u.advanceGen p false).updPol p fun q => { q with
      state := 4, frozenBit := true, frozenAt := if q.frozenBit then q.frozenAt else (u.advanceGen p false).alm.now } else u.advanceGen p false := by
    rw [← hupol]
    rfl
  generalize u.advanceGen p false = w at hk hface hgen hen hst
  have hres : (w.port port).vfResets = (u.port port).vfResets := (congrArg HostPort.vfResets hface :)
  have hcnt : (w.port port).resets = (u.port port).resets := (congrArg HostPort.resets hface :)
  rw [hup] at hres hcnt
  rw [hk]
  split
  · next h3 =>
    have hpol : ∀ v : State, (v.updFn port n Func.vfReset).pol p = v.pol p := fun _ => rfl
    rw [State.port_updFn, hpol, State.pol_updPol]
    exact ⟨hres, hgen, hcnt, rfl, hen⟩
  · rw [State.port_updFn]
    exact ⟨hres, hgen, hcnt, hst, hen⟩

/-- Settles O49. -/
theorem portsResetAndTrain : Obligations.PortsResetAndTrain := by
  refine ⟨?begin, ?absorbed, ?vfFlr, ?complete, ?completeVf, ?release, ?linkUp, ?width⟩
  case begin =>
    intro s port hs0 hl hin
    have hgo := fun kind => s.resetPort_isReset port kind hl hin
    refine ⟨fun hrate => ?_, fun hrate => ?_, fun hperst => ?_, fun hperst => ?_, fun hup => ?_⟩
    · refine completes_of_exec (t := s.resetPort port .hotReset) ?_ ⟨(hgo .hotReset).1, (hgo .hotReset).2.1.trans (if_neg (by decide))⟩
      show execPortReset port .hotReset s = _
      unfold execPortReset
      exact congrArg _ (if_pos (by simp [hs0, hrate]))
    · refine completes_of_exec (t := s.resetPort port .dlDown) ?_ ⟨(hgo .dlDown).1, (hgo .dlDown).2.1.trans (if_neg (by decide))⟩
      show execPortReset port .dlDown s = _
      unfold execPortReset
      exact congrArg _ (if_pos (by simp [hs0, hrate]))
    · obtain ⟨v, hv⟩ : ∃ v, v = s.updPort port fun q => { q with perst := false } := ⟨_, rfl⟩
      have hvp : v.port port = { s.port port with perst := false } := by rw [hv, State.port_updPort]
      have hvs : v = { s with ports := v.ports } := by rw [hv]; rfl
      have hvb : v.boot = s.boot := by rw [hvs]
      obtain ⟨h1, h2, h3, -⟩ := v.resetPort_isReset port .perst (by rw [hvb]; exact hl) (by rw [hvp]; exact hin)
      refine completes_of_exec (t := v.resetPort port .perst) ?_
        ⟨portIsReset_of_port h1 hvs (by rw [hvp]), h2.trans (if_neg (by decide)), h3.trans (by rw [hvp])⟩
      show execPortReset port .perst s = _
      unfold execPortReset
      dsimp only
      rw [← hv, hvb, if_pos (by simp [hs0, hperst])]
    · obtain ⟨v, hv⟩ : ∃ v, v = s.updPort port fun q => { q with refclk := false } := ⟨_, rfl⟩
      have hvp : v.port port = { s.port port with refclk := false } := by rw [hv, State.port_updPort]
      have hvs : v = { s with ports := v.ports } := by rw [hv]; rfl
      have hvb : v.boot = s.boot := by rw [hvs]
      obtain ⟨h1, -, -, h4⟩ := v.resetPort_isReset port .dlDown (by rw [hvb]; exact hl) (by rw [hvp]; exact hin)
      refine completes_of_exec (t := v.resetPort port .dlDown) ?_
        ⟨portIsReset_of_port h1 hvs (by rw [hvp]), h4.trans (by rw [hvp])⟩
      show execRefclkLoss port s = _
      unfold execRefclkLoss
      dsimp only
      rw [← hv, hvb, hvp, if_pos (by simp [hs0, hperst])]
    · refine completes_of_exec (t := s.resetPort port .pfFlr) ?_ ⟨(hgo .pfFlr).1, (hgo .pfFlr).2.1.trans (if_pos rfl)⟩
      show execPfFlr port s = _
      rw [execPfFlr, State.flrPf, if_pos hup]
  case absorbed =>
    intro s port hs0 hrate hin hkind
    have hrun : (((s.countReset port).port port).inReset && !(((s.countReset port).port port).resetKind = some .pfFlr
        && decide (ResetKind.hotReset ≠ .pfFlr))) = true := by
      have hc : (s.countReset port).port port = (s.port port).counted := State.port_updPort s port HostPort.counted
      have h1 : (s.port port).counted.inReset = true := hin
      have h2 : (s.port port).counted.resetKind ≠ some .pfFlr := hkind
      rw [hc, h1]
      simp [h2]
    refine completes_of_exec (t := (s.countReset port).updPort port HostPort.linkDown) ?_ ⟨?_, rfl⟩
    · show execPortReset port .hotReset s = _
      unfold execPortReset
      dsimp only
      rw [if_pos (by simp [hs0, hrate])]
      unfold State.resetPort
      dsimp only
      rw [hrun, if_pos rfl]
      rfl
    · rw [State.port_updPort]
      exact congrArg HostPort.resets (State.port_updPort s port HostPort.counted)
  case vfFlr =>
    intro s port n p hs0 hrate hn hlive hin hv hp
    exact vfFlrs s port n p hs0 hrate hn hlive hin hv hp
  case complete =>
    intro s port k hin hk hl
    refine completes_of_exec (t := (s.updPort port fun q => { q with inReset := false, resetKind := none }).peerReset port (supervisorOf port) k)
      ?_ ⟨?_, rfl, rfl, _, rfl, rfl, rfl⟩
    · show execResetComplete port s = _
      unfold execResetComplete
      dsimp only
      rw [if_pos hin, if_neg hl, hk]
      rfl
    · exact congrArg HostPort.inReset (State.port_updPort s port fun q => { q with inReset := false, resetKind := none })
  case completeVf =>
    intro s port n l hin hv
    refine completes_of_exec (t := (s.updPort port fun q => { q with vfResets := l }).peerReset port
      ((s.fnPolder port n).getD (supervisorOf port)) .vfFlr) ?_ ⟨?_, rfl, rfl, _, rfl, rfl, rfl⟩
    · show execResetComplete port s = _
      unfold execResetComplete
      dsimp only
      rw [hin, if_neg Bool.false_ne_true, hv]
    · exact congrArg HostPort.vfResets (State.port_updPort s port fun q => { q with vfResets := l })
  case release =>
    intro s port
    exact completes_of_exec (t := s.updPort port fun q => { q with perst := true }) rfl ⟨State.port_updPort _ _ _, rfl⟩
  case linkUp =>
    intro s port rate width flit hs0 hperst hin hrate h1 h6 hw hf
    refine completes_of_exec (t := s.updPort port fun q => { q with
        rate := rate, width := width, fullWidth := width, flit := flit, l0p := false, refclk := true }) ?_ ?_
    · show execPcieLinkUp port rate width flit s = _
      unfold execPcieLinkUp
      dsimp only
      rw [if_pos]
      have hw' : [1, 2, 4, 8].contains width = true := by simpa using hw
      rw [hs0, hperst, hin, hrate, hw']
      rcases hf with rfl | hf
      · simp [h1, h6]
      · simp [h1, h6, hf]
    · rw [State.port_updPort]
      exact ⟨rfl, rfl, rfl, rfl⟩
  case width =>
    intro s port width hrate hflit hw hle
    refine completes_of_exec (t := s.updPort port fun q => { q with width := width, l0p := decide (width < (s.port port).fullWidth) }) ?_ ?_
    · show execL0pWidthChange port width s = _
      unfold execL0pWidthChange
      dsimp only
      have hw' : [1, 2, 4, 8].contains width = true := by simpa using hw
      rw [if_pos (by rw [hflit, hw']; simp [hrate, hle])]
      unfold State.updPort SMap.upd
      rfl
    · rw [State.port_updPort]
      exact ⟨rfl, by simp, rfl⟩

end Sys2Proof.Machine
end

section
/-! SUPPORT. What the homes' work does not touch: the module's registers, its dies' and Keels' settings, its fences. -/

namespace Sys2Proof.Machine

open Sys2Proof

/-- A Keel's settings, without what its home counts. -/
def KeelSt.post (c : KeelSt) : KeelSt := { c with trackers := [], maxq := 0, fencedBins := 0, poisoned := 0 }

/-- The state without what homes and answers change. -/
def State.walls (s : State) : State :=
  { s.still with mem := [], marks := [], gran := [], bins := [], shadow := [], txns := [], net := [], land := {}, mills := [] }

/-- The module without what its homes change. -/
structure Works where
  rest : State
  mill : Nat → MillSt
  keel : Nat → KeelSt

def State.works (s : State) : Works := ⟨s.walls, fun d => (s.mill d).core, fun k => (s.keel k).post⟩

theorem State.works_eq {s t : State} (hr : t.walls = s.walls) (hm : ∀ d, (t.mill d).core = (s.mill d).core)
    (hk : ∀ k, (t.keel k).post = (s.keel k).post) : t.works = s.works := by
  unfold State.works
  rw [hr, funext hm, funext hk]

theorem State.works_of_bare {s t : State} (h : t.bare = s.bare) : t.works = s.works := by
  have hr : t.plain = s.plain := congrArg Ctl.rest h
  refine State.works_eq (congrArg State.walls hr :) (fun d => congrFun (congrArg Ctl.mill h) d) fun k => ?_
  have hk : (t.keel k).core = (s.keel k).core := congrFun (congrArg Ctl.keel h) k
  exact (congrArg KeelSt.post hk :)

theorem State.works_of_ctl {s t : State} (h : t.ctl = s.ctl) : t.works = s.works := State.works_of_bare (State.bare_of_ctl h)

section
variable {s t : State} (h : t.works = s.works)
include h

theorem State.walls_of_works : t.walls = s.walls := congrArg Works.rest h
theorem State.fences_of_works : t.fences = s.fences :=
  (congrArg (fun w : Works => w.rest.fences) h : t.works.rest.fences = s.works.rest.fences)
theorem State.bundles_of_works : t.bundles = s.bundles :=
  (congrArg (fun w : Works => w.rest.bundles) h : t.works.rest.bundles = s.works.rest.bundles)
theorem State.boot_of_works : t.boot = s.boot := (congrArg (fun w : Works => w.rest.boot) h : t.works.rest.boot = s.works.rest.boot)
theorem State.img_of_works : t.img = s.img := (congrArg (fun w : Works => w.rest.img) h : t.works.rest.img = s.works.rest.img)
theorem State.fence_of_works (i : Nat) : t.fence i = s.fence i := by rw [State.fence, State.fences_of_works h, State.fence]
theorem State.bundle_of_works (i : Nat) : t.bundle i = s.bundle i := by rw [State.bundle, State.bundles_of_works h, State.bundle]
theorem State.mill_of_works (d : Nat) : (t.mill d).core = (s.mill d).core := congrFun (congrArg Works.mill h) d
theorem State.keel_of_works (k : Nat) : (t.keel k).post = (s.keel k).post := congrFun (congrArg Works.keel h) k
theorem State.millFenced_of_works (d : Nat) : (t.mill d).fenced = (s.mill d).fenced := (congrArg MillSt.fenced (State.mill_of_works h d) :)
theorem State.keelFenced_of_works (k : Nat) : (t.keel k).fenced = (s.keel k).fenced := (congrArg KeelSt.fenced (State.keel_of_works h k) :)

end

theorem foldl_works {α : Type} (f : State → α → State) (h : ∀ s a, (f s a).works = s.works) (l : List α) (s : State) :
    (l.foldl f s).works = s.works := foldl_keeps_proj State.works f h l s

/-! ## Single operations -/

section
variable (s : State)

@[simp] theorem State.updPol_works (p : Nat) (f : Polder → Polder) : (s.updPol p f).works = s.works := rfl
@[simp] theorem State.updRun_works (p seq : Nat) (f : Run → Run) : (s.updRun p seq f).works = s.works := rfl
@[simp] theorem State.updHand_works (h : Nat) (f : Hand → Hand) : (s.updHand h f).works = s.works := rfl
@[simp] theorem State.updPort_works (n : Nat) (f : HostPort → HostPort) : (s.updPort n f).works = s.works := rfl
@[simp] theorem State.updLand_works (f : Land → Land) : (s.updLand f).works = s.works := rfl
@[simp] theorem State.updLink_works (n : Nat) (f : LinkPort → LinkPort) : (s.updLink n f).works = s.works := rfl
@[simp] theorem State.updQuay_works (n : Nat) (f : QuaySt → QuaySt) : (s.updQuay n f).works = s.works := rfl
@[simp] theorem State.updMark_works (n : Nat) (f : Mark → Mark) : (s.updMark n f).works = s.works := rfl
@[simp] theorem State.setGran_works (n : Nat) (g : GranLine) : (s.setGran n g).works = s.works := rfl
@[simp] theorem State.updGran_works (n : Nat) (f : GranLine → GranLine) : (s.updGran n f).works = s.works := rfl
@[simp] theorem State.setShadow_works (n : Nat) (e : Shadow) : (s.setShadow n e).works = s.works := rfl
@[simp] theorem State.setTxn_works (n : Nat) (t : HomeTxn) : (s.setTxn n t).works = s.works := rfl
@[simp] theorem State.send_works (m : CohMsg) : (s.send m).works = s.works := rfl
@[simp] theorem State.mem_works (m : List Host.Cell) : ({ s with mem := m } : State).works = s.works := rfl
@[simp] theorem State.reqs_works (r : List HomeReq) : ({ s with reqs := r } : State).works = s.works := rfl
@[simp] theorem State.txns_works (r : SMap HomeTxn) : ({ s with txns := r } : State).works = s.works := rfl
@[simp] theorem State.raise_works (code : Code) (source book pol : Nat) (detail : List Byte) :
    (s.raise code source book pol detail).works = s.works := rfl
@[simp] theorem State.raiseOwn_works (code : Code) (source p : Nat) (detail : List Byte) :
    (s.raiseOwn code source p detail).works = s.works := rfl
@[simp] theorem State.raiseBoth_works (code : Code) (source : Nat) (detail : List Byte) :
    (s.raiseBoth code source detail).works = s.works := rfl
@[simp] theorem State.freeBytes_works (n : Nat) : (s.freeBytes n).2.works = s.works := rfl
@[simp] theorem State.freeLine_works : s.freeLine.2.works = s.works := rfl

theorem State.updKeel_works (k : Nat) (f : KeelSt → KeelSt) (hf : ∀ c, (f c).post = c.post) : (s.updKeel k f).works = s.works := by
  refine State.works_eq rfl (fun _ => rfl) fun q => ?_
  by_cases h : q = k
  · rw [h, State.keel_updKeel, hf]
  · rw [State.keel_updKeel_other _ _ _ _ h]

@[simp] theorem State.takeTracker_works (k p who : Nat) : (s.takeTracker k p who).works = s.works := State.updKeel_works s k _ fun _ => rfl
@[simp] theorem State.freeTracker_works (k p who : Nat) : (s.freeTracker k p who).works = s.works := State.updKeel_works s k _ fun _ => rfl

@[simp] theorem State.countDead_works (p : Nat) (dead : Bool) : (s.countDead p dead).works = s.works := by
  unfold State.countDead
  split <;> rfl

@[simp] theorem State.complete_works (port fn addr : Nat) (data : List Byte) (ep : Bool) :
    (s.complete port fn addr data ep).works = s.works :=
  foldl_works (fun (s : State) d => s.toHost port (.completion fn d 0 ep)) (fun _ _ => rfl) _ _

@[simp] theorem State.sendTxn_works (n p cls : Nat) (t : Txn) : (s.sendTxn n p cls t).works = s.works := State.works_of_ctl (by simp)

end

/-! ## Answers -/

section
variable (s : State)

@[simp] theorem State.late_works (p : Nat) (orphan : Bool) : (s.late p orphan).works = s.works := by
  unfold State.late
  extract_lets s' q
  have h' : s'.works = s.works := rfl
  split
  · rw [State.updPol_works, State.raiseOwn_works, h']
  · exact h'

@[simp] theorem State.hostGot_works (port id p : Nat) (bs : Bytes) (bad dead : Bool) : (s.hostGot port id p bs bad dead).works = s.works := by
  unfold State.hostGot
  split
  · rfl
  extract_lets a' s1 s2
  have h2 : s2.works = s.works := by
    simp only [s2]
    split <;> rfl
  split
  · rfl
  · rw [State.complete_works, State.countDead_works, h2]

@[simp] theorem State.hostAnswer_works (port id : Nat) (r : HomeReq) (bs : Bytes) (poison : BitVec 8) :
    (s.hostAnswer port id r bs poison).works = s.works := State.hostGot_works ..

@[simp] theorem State.deliver_works (r : HomeReq) (bs : Bytes) (poison : BitVec 8) : (s.deliver r bs poison).works = s.works := by
  unfold State.deliver
  extract_lets s' isRead
  have h' : s'.works = s.works := by
    simp only [s']
    split
    · simp
    · rfl
  rw [← h']
  split
  · split <;> simp
  · split <;> simp
  · split
    · simp
    · split <;> rfl
  · rfl
  · rfl
  · simp
  · rfl

@[simp] theorem State.answer_works (r : HomeReq) (bs : Bytes) (poison : BitVec 8) : (s.answer r bs poison).works = s.works := by
  simp only [State.answer, State.deliver_works]
  split <;> split <;> rfl

@[simp] theorem State.answerFenced_works (r : HomeReq) : (s.answerFenced r).works = s.works := by
  simp [State.answerFenced]

@[simp] theorem State.answerFencedStack_works (r : HomeReq) : (s.answerFencedStack r).works = s.works := by
  unfold State.answerFencedStack
  split <;> simp

/-! ## The home's copy -/

@[simp] theorem State.granFlush_works (key : Nat) : (s.granFlush key).works = s.works := State.works_of_ctl (by simp)
@[simp] theorem State.granEvict_works (key : Nat) : (s.granEvict key).works = s.works := State.works_of_ctl (by simp)
@[simp] theorem State.granAlloc_works (p line hint : Nat) : (s.granAlloc p line hint).works = s.works := State.works_of_ctl (by simp)
@[simp] theorem State.granFill_works (line : Nat) (need : BitVec 8) : (s.granFill line need).works = s.works := State.works_of_ctl (by simp)
@[simp] theorem State.homeUndo_works (line : Nat) (mask : BitVec 8) : (s.homeUndo line mask).works = s.works := State.works_of_ctl (by simp)
@[simp] theorem State.homeWrite_works (p line : Nat) (bs : Bytes) (dead poison : Bool) (hint : Nat) :
    (s.homeWrite p line bs dead poison hint).works = s.works := State.works_of_ctl (by simp)
@[simp] theorem State.landMsg_works (m : CohMsg) : (s.land_ m).works = s.works := State.works_of_ctl (by simp)

@[simp] theorem State.homeRead_works (p line : Nat) (need : BitVec 8) (hint : Nat) : (s.homeRead p line need hint).2.works = s.works := by
  unfold State.homeRead
  dsimp only
  split <;> simp

@[simp] theorem State.homeDiscard_works (line : Nat) (mask : BitVec 8) (granary : Bool) : (s.homeDiscard line mask granary).works = s.works := by
  unfold State.homeDiscard
  dsimp only
  rw [State.updMark_works]
  split
  · split <;> rfl
  · rfl

@[simp] theorem State.homePoisonAll_works (line : Nat) : (s.homePoisonAll line).works = s.works := by
  unfold State.homePoisonAll
  dsimp only
  rw [State.updKeel_works]
  · split <;> rfl
  · exact fun _ => rfl

/-! ## The homes -/

@[simp] theorem State.perform_works (r : HomeReq) : (s.perform r).works = s.works := by
  unfold State.perform
  split
  · simp
  split
  · simp
  split
  · next need hop =>
    extract_lets s1
    have h1 : s1.works = s.works := by
      simp only [s1]
      split <;> simp
    simp [h1]
  · simp
  · simp
  · next ty addends poison hop =>
    simp only [State.answer_works]
    rw [foldl_works _ (fun _ _ => by simp)]
    simp
  · next op gran hop =>
    simp only [State.answer_works]
    split
    · split <;> simp
    · split <;> simp
    · split <;> simp
    · simp

@[simp] theorem State.sendData_works (m : CohMsg) (need : BitVec 8) : (s.sendData m need).works = s.works := by
  unfold State.sendData
  split
  · rfl
  · simp

@[simp] theorem State.sendGrant_works (m : CohMsg) (st : Nat) (cover need : BitVec 8) : (s.sendGrant m st cover need).works = s.works := rfl

@[simp] theorem State.grantNow_works (m : CohMsg) (es : List Entry) (st : Nat) (ent : EntSt) : (s.grantNow m es st ent).works = s.works := by
  simp [State.grantNow]

@[simp] theorem State.invalidate_works (m : CohMsg) (es : List Entry) : (s.invalidate m es).works = s.works :=
  foldl_works (fun (s : State) (e : Entry) => s.send { fromHome .inv m.line e.bin e.pol with tag := m.tag }) (fun _ _ => rfl) _ _

@[simp] theorem State.forward_works (m : CohMsg) (o : Entry) (type : MsgType) (need : BitVec 8) : (s.forward m o type need).works = s.works := rfl

@[simp] theorem State.beginCoh_works (m : CohMsg) : (s.beginCoh m).works = s.works := by
  unfold State.beginCoh
  dsimp only
  split
  · split
    · split <;> simp
    · simp
    · simp
    · rfl
  · split
    · split <;> simp
    · split
      · split <;> simp
      · simp
  · split <;> simp
  · rfl

@[simp] theorem State.takePut_works (m : CohMsg) : (s.takePut m).works = s.works := by
  unfold State.takePut
  dsimp only
  split <;> simp

@[simp] theorem State.beginReq_works (r : HomeReq) : (s.beginReq r).works = s.works := by
  unfold State.beginReq
  dsimp only
  split
  · simp
  · rw [State.setTxn_works]
    exact foldl_works _ (by intros; rfl) _ _

@[simp] theorem State.recallSharers_works (line : Nat) : (s.recallSharers line).works = s.works := by
  unfold State.recallSharers
  dsimp only
  split
  · rfl
  · rw [State.setTxn_works]
    exact foldl_works _ (by intros; rfl) _ _

@[simp] theorem State.begin_works (line : Nat) (x : Serving) : (s.begin line x).works = s.works := by
  unfold State.begin
  split
  · split <;> simp
  · simp
  · dsimp only
    rw [State.setTxn_works]
    exact foldl_works _ (fun _ _ => by simp) _ _
  · simp

@[simp] theorem State.takeCrossing_works (line : Nat) : (s.takeCrossing line).works = s.works := by
  unfold State.takeCrossing
  dsimp only
  rw [foldl_works _ (fun _ _ => by simp), State.setTxn_works]

end

theorem State.drain_works (line fuel : Nat) (s : State) (q : List Serving) : (s.drain line fuel q).works = s.works := by
  induction fuel generalizing s q with
  | zero => rfl
  | succ n ih =>
    cases q with
    | nil => rfl
    | cons x q =>
      have turn : ∀ first rest, (if (s.begin line first).busy line then
          ((s.begin line first).setTxn line { (s.begin line first).txn line with queue := rest }).takeCrossing line
          else (s.begin line first).drain line n rest).works = s.works := by
        intro first rest
        split
        · simp
        · rw [ih, State.begin_works]
      unfold State.drain
      dsimp only
      split <;> exact turn _ _

section
variable (s : State)

@[simp] theorem State.finish_works (line : Nat) : (s.finish line).works = s.works := by
  unfold State.finish
  dsimp only
  rw [State.drain_works]
  rfl

@[simp] theorem State.writeOthers_works (line : Nat) (es : List (Nat × Shadow)) : (s.writeOthers line es).works = s.works :=
  foldl_works _ (fun u e => by split <;> rfl) _ _

@[simp] theorem State.closeTxn_works (line : Nat) : (s.closeTxn line).works = s.works := by
  simp [State.closeTxn]

theorem foldl_clearShadow_works (es : List Entry) : (es.foldl (fun s e => s.setShadow e.key {}) s).works = s.works :=
  foldl_works _ (by intros; rfl) _ _

@[simp] theorem State.lastAnswer_works (line : Nat) : (s.lastAnswer line).works = s.works := by
  unfold State.lastAnswer
  dsimp only
  split
  · rfl
  split
  · simp only [apply_ite State.works, State.closeTxn_works, State.setTxn_works, State.homePoisonAll_works, State.sendGrant_works,
      State.sendData_works, ite_self]
  · rw [State.finish_works, State.perform_works]
    split
    · rw [foldl_clearShadow_works]
      exact foldl_works _ (fun u e => by split <;> rfl) _ _
    · exact foldl_works _ (fun u e => by split <;> rfl) _ _
  · rw [State.finish_works]
    exact foldl_clearShadow_works _ _
  · rfl

end

end Sys2Proof.Machine
end

section
/-! SUPPORT. What a fence of a die or of a Keel touches (R353 to R359, R205, R206). -/

namespace Sys2Proof.Machine

open Sys2Proof

/-! ## The sweep -/

section
variable (s : State)

@[simp] theorem State.discardReqs_works (rs : List HomeReq) : (s.discardReqs rs).works = s.works :=
  foldl_works _ (fun u r => by split <;> simp) _ _

@[simp] theorem State.loseMessages_works (d : Nat) : (s.loseMessages d).works = s.works := rfl

theorem sweepLine_works (d n line : Nat) : (sweepLine d (n, s) line).2.works = s.works := by
  have hclear : ((((s.entriesOf line).filter fun e => e.bin = d).foldl (fun s e => s.setShadow e.key {}) s)).works = s.works :=
    foldl_clearShadow_works _ _
  unfold sweepLine
  dsimp -zeta only
  extract_lets es mine owner shared s1 s2 n2 t far gone becoming t2 s3
  have h2 : s2.works = s.works := by
    simp only [s2]
    split
    · rw [State.homePoisonAll_works]
      exact hclear
    · exact hclear
  have h3 : s3.works = s.works := by
    simp only [s3]
    rw [foldl_works _ (by intros; rfl), State.setTxn_works, State.discardReqs_works, h2]
  clear_value s3 s2 far gone becoming t2
  split
  · split
    · simp [h2]
    · exact h2
  split
  · dsimp only
    split
    · rw [State.closeTxn_works, apply_ite State.works]
      simp [h3]
    · rw [apply_ite State.works]
      simp [h3]
  · simp [h3]

@[simp] theorem State.fillMiss_works (h key : Nat) (bytes : List Byte) (poison : Bool) : (s.fillMiss h key bytes poison).works = s.works := by
  unfold State.fillMiss
  split
  · rfl
  extract_lets kib s1 s2
  split
  · exact State.late_works _ _ _
  · show s2.works = s.works
    simp only [s2]
    split <;> rfl

@[simp] theorem State.failMisses_works (d : Nat) : (s.failMisses d).works = s.works := by
  unfold State.failMisses
  refine foldl_works _ (fun u e => foldl_works _ (fun v m => ?_) _ _) _ _
  dsimp only
  split <;> simp

theorem sweepAll_works (d : Nat) (lines : List Nat) (x : Nat × State) : (lines.foldl (sweepLine d) x).2.works = x.2.works := by
  induction lines generalizing x with
  | nil => rfl
  | cons l ls ih =>
    obtain ⟨n, u⟩ := x
    rw [List.foldl_cons, ih]
    exact sweepLine_works u d n l

/-- What every home notes of a fenced Bin. -/
def KeelSt.binGone (d : Nat) (c : KeelSt) : KeelSt :=
  { c with fencedBins := c.fencedBins ||| BitVec.ofNat 8 (2 ^ d), trackers := c.trackers.filter fun e => e.2 ≠ d }

theorem State.keels_works {s : State} {m : SMap KeelSt} (h : ∀ k, (m.get {} k).post = (s.keel k).post) :
    ({ s with keels := m } : State).works = s.works := State.works_eq rfl (fun _ => rfl) h

theorem SMap.post_upd (m : SMap KeelSt) (k : Nat) (f : KeelSt → KeelSt) (hf : ∀ c, (f c).post = c.post) (j : Nat) :
    ((m.upd {} k f).get {} j).post = (m.get {} j).post := by
  by_cases h : j = k
  · rw [h, SMap.get_upd_same, hf]
  · rw [SMap.get_upd_other _ _ _ _ _ h]

@[simp] theorem State.sweep_works (d : Nat) : (s.sweep d).2.works = s.works := by
  unfold State.sweep
  extract_lets s1 gone s2 s3 lines
  have h1 : s1.works = s.works := by
    refine State.keels_works fun j => ?_
    refine congrFun (foldl_keeps_proj (fun (m : SMap KeelSt) j => (m.get {} j).post) _ (fun m k => ?_) (List.range 4) s.keels) j
    exact funext fun j => SMap.post_upd m k (KeelSt.binGone d) (fun _ => rfl) j
  have h2 : s2.works = s.works := by
    simp only [s2]
    rw [State.discardReqs_works, State.loseMessages_works, h1]
  have h3 : s3.works = s2.works := rfl
  rw [State.failMisses_works, sweepAll_works, h3, h2]

end

/-! ## Generations and events -/

section
variable (s : State)

@[simp] theorem State.emptyPending_works (p status : Nat) : (s.emptyPending p status).works = s.works := by
  unfold State.emptyPending
  dsimp only
  rw [State.works_of_ctl (foldl_ctl _ (fun u m => u.manifestRecord_ctl p m status m.tb 0) _ _), State.updPol_works]

@[simp] theorem State.advanceGen_works (p : Nat) (own : Bool) : (s.advanceGen p own).works = s.works := by
  obtain ⟨n, h⟩ := s.advanceGen_eq p own
  have ho : ∀ u : State, (u.orphanAll p).works = u.works := fun _ => rfl
  rw [h, State.works_of_ctl (State.retryRecords_ctl _ _), State.updPol_works, State.beforeAdvance, ho,
    State.works_of_bare (State.fenceRuns_bare _ _), State.emptyPending_works]

@[simp] theorem State.advanceKept_works (p : Nat) : (s.advanceKept p).works = s.works := by
  unfold State.advanceKept
  dsimp only
  split <;> simp

@[simp] theorem State.advanceAll_works (ps : List Nat) : (s.advanceAll ps).works = s.works := foldl_works _ (fun _ _ => by simp) _ _

@[simp] theorem State.raiseWide_works (code : Code) (source : Nat) (users : List Nat) (detail : List Byte) :
    (s.raiseWide code source users detail).works = s.works := by
  unfold State.raiseWide
  rw [foldl_works _ (fun _ _ => by simp), State.raiseBoth_works]

@[simp] theorem State.fenceRun_works (p seq : Nat) : (s.fenceRun p seq).works = s.works := State.works_of_bare (by simp)

end

/-! ## A die -/

theorem State.updFence_works {s t : State} (h : t.works = s.works) (i : Nat) (f : FenceSt → FenceSt) :
    (t.updFence i f).works = (s.updFence i f).works := by
  have hw : (t.updFence i f).walls = { t.walls with fences := t.fences.upd {} i f } := rfl
  refine State.works_eq ?_ (State.mill_of_works h :) (State.keel_of_works h :)
  rw [hw, State.walls_of_works h, State.fences_of_works h]
  rfl

theorem State.noteFence_works {s t : State} (h : t.works = s.works) (i cause : Nat) :
    (t.noteFence i cause).works = (s.noteFence i cause).works := State.updFence_works h _ _

theorem State.bundle_noteFence (s : State) (i cause b : Nat) : (s.noteFence i cause).bundle b = s.bundle b := rfl

theorem State.fence_noteFence (s : State) (i cause : Nat) :
    (s.noteFence i cause).fence i = { s.fence i with fenced := true, cause := cause, fences := satAdd 0xFFFF (s.fence i).fences 1 } :=
  State.fence_updFence ..

theorem State.bundle_untest (s : State) (f : Nat → Bool) (b : Nat) (h : (s.bundle b).state = 3) : ((s.untest f).bundle b).state = 3 := by
  have hd : s.bundles.get {} b ≠ {} := fun h0 => by
    rw [State.bundle, h0] at h
    exact absurd h (by decide)
  have hf : (if f b && (s.bundles.get {} b).state = 1 then { s.bundles.get {} b with state := 4 } else s.bundles.get {} b) = s.bundles.get {} b :=
    if_neg (by
      rw [State.bundle] at h
      simp [h])
  have hg : (s.untest f).bundle b = s.bundle b := by
    have hm := SMap.get_mapAll (d := ({} : BundleSt)) (f := fun b c => if f b && c.state = 1 then { c with state := 4 } else c)
      (m := s.bundles) (i := b) hd (by
        rw [hf]
        exact hd)
    rw [hf] at hm
    exact hm
  rw [hg, h]

/-- A die as its fence leaves it. -/
def MillSt.cut (c : MillSt) : MillSt := { c with fenced := true, returning := none }

theorem State.cutDie_works (s : State) (d cause : Nat) :
    (s.cutDie d cause).2.works = (((s.updMill d MillSt.cut).untest fun b => b / 256 = d).noteFence (5 + d) cause).works := by
  unfold State.cutDie
  exact State.noteFence_works (by rw [State.updLand_works, State.sweep_works]; rfl) _ _

theorem State.fenceDie_works (s : State) (d cause : Nat) (h : (s.mill d).fenced = false) :
    (s.fenceDie d cause).works = (((s.updMill d MillSt.cut).untest fun b => b / 256 = d).noteFence (5 + d) cause).works := by
  unfold State.fenceDie
  rw [if_neg (by simp [h])]
  dsimp only
  rw [State.raiseWide_works, State.advanceAll_works, State.cutDie_works]

/-- What the fence of a die in service leaves. -/
theorem State.fenceDie_fences (s : State) (d cause : Nat) (h : (s.mill d).fenced = false) :
    ((s.fenceDie d cause).mill d).fenced = true ∧ ((s.fenceDie d cause).fence (5 + d)).cause = cause
      ∧ ((s.fenceDie d cause).fence (5 + d)).fences = satAdd 0xFFFF (s.fence (5 + d)).fences 1 := by
  have hw := s.fenceDie_works d cause h
  have hm := State.millFenced_of_works hw d
  have hf := State.fence_of_works hw (5 + d)
  rw [State.fence_noteFence] at hf
  refine ⟨?_, ?_, ?_⟩
  · have hc : (((s.updMill d MillSt.cut).untest fun b => b / 256 = d).noteFence (5 + d) cause).mill d = (s.mill d).cut :=
      State.mill_updMill ..
    rw [hm, hc]
    rfl
  · rw [hf]
  · rw [hf]
    rfl

theorem State.fenceDie_bundle (s : State) (d cause b : Nat) (h : (s.mill d).fenced = false) (hb : (s.bundle b).state = 3) :
    ((s.fenceDie d cause).bundle b).state = 3 := by
  rw [State.bundle_of_works (s.fenceDie_works d cause h), State.bundle_noteFence]
  exact State.bundle_untest (s.updMill d MillSt.cut) _ b hb

/-! ## A Keel -/

section
variable (s : State)

@[simp] theorem State.deliverRead_works (who : Requester) (pol gen : Nat) (orphan : Bool) (va off : Nat) (got : List (Byte × Bool)) :
    (s.deliverRead who pol gen orphan va off got).works = s.works := by
  unfold State.deliverRead
  dsimp only
  split
  · split
    · simp
    · rw [State.updRun_works]
      split <;> rfl
  · simp
  · rw [State.hostGot_works]
    split
    · simp
    · rfl
  · rfl

@[simp] theorem State.poisonBytes_works (n : Nat) : (s.poisonBytes n).2.works = s.works := rfl

@[simp] theorem State.failReads_works (n : Nat) : (s.failReads n).works = s.works := by
  unfold State.failReads
  dsimp only
  rw [foldl_works, State.updLink_works]
  intro u r
  rw [State.deliverRead_works]
  split <;> rfl

@[simp] theorem State.refit_works (n : Nat) : (s.refit n).works = s.works := rfl

@[simp] theorem State.portDown_works (n : Nat) : (s.portDown n).works = s.works := by
  unfold State.portDown State.portStops
  split
  · rfl
  · extract_lets l ran s1 s2 s3
    have h2 : s2.works = s.works := (State.updLink_works _ _ _).trans (State.updQuay_works _ _ _)
    have h3 : s3.works = s.works := by
      simp only [s3]
      clear_value s2
      split
      · exact (State.raiseBoth_works _ _ _ _).trans h2
      · exact h2
    rw [State.refit_works, State.failReads_works, h3]

@[simp] theorem State.dropHomed_works (k : Nat) : (s.dropHomed k).works = s.works := by
  unfold State.dropHomed
  refine foldl_works _ (fun u e => foldl_works _ (fun v w => ?_) _ _) _ _
  split <;> rfl

@[simp] theorem State.failHome_works (k : Nat) : (s.failHome k).works = s.works :=
  foldl_works State.answerFenced (fun _ _ => by simp) _ _

@[simp] theorem State.dropCached_works (f : TransEntry → Bool) : (s.dropCached f).works = s.works := rfl
@[simp] theorem State.failWalks_works (k : Nat) : (s.failWalks k).works = s.works := rfl

@[simp] theorem State.flushStack_works (i : Nat) : (s.flushStack i).works = s.works := by
  unfold State.flushStack
  dsimp only
  rw [foldl_works _ (fun _ _ => by simp), foldl_works State.answerFenced (fun _ _ => by simp)]
  rfl

end

/-- Which Keels are fenced, and the boot registers. -/
def State.seals (s : State) : (Nat → Bool) × Boot := (fun k => (s.keel k).fenced, s.boot)

theorem State.seals_of_works {s t : State} (h : t.works = s.works) : t.seals = s.seals :=
  Prod.ext (funext (State.keelFenced_of_works h)) (State.boot_of_works h)

theorem State.cutDie_seals (s : State) (d cause : Nat) : (s.cutDie d cause).2.seals = s.seals :=
  (State.seals_of_works (s.cutDie_works d cause) :)

theorem State.updKeel_seals (s : State) (k : Nat) (f : KeelSt → KeelSt) (hf : (f (s.keel k)).fenced = (s.keel k).fenced) :
    (s.updKeel k f).seals = s.seals := by
  refine Prod.ext (funext fun j => ?_) rfl
  by_cases h : j = k
  · rw [h]
    show ((s.updKeel k f).keel k).fenced = _
    rw [State.keel_updKeel, hf]
    rfl
  · show ((s.updKeel k f).keel j).fenced = _
    rw [State.keel_updKeel_other _ _ _ _ h]
    rfl

/-- Dies that fall with their Keel. -/
theorem foldl_cutDie_seals (dies : List Nat) (x : List Nat × State) :
    (dies.foldl (fun (x : List Nat × State) d => (x.1 ++ [(x.2.cutDie d 5).1], (x.2.cutDie d 5).2)) x).2.seals = x.2.seals := by
  induction dies generalizing x with
  | nil => rfl
  | cons d ds ih => rw [List.foldl_cons, ih, State.cutDie_seals]

theorem foldl_cutDie_bundle (b : Nat) (dies : List Nat) (x : List Nat × State) (h : (x.2.bundle b).state = 3) :
    ((dies.foldl (fun (x : List Nat × State) d => (x.1 ++ [(x.2.cutDie d 5).1], (x.2.cutDie d 5).2)) x).2.bundle b).state = 3 := by
  induction dies generalizing x with
  | nil => exact h
  | cons d ds ih =>
    rw [List.foldl_cons]
    refine ih _ ?_
    dsimp only
    rw [State.bundle_of_works (x.2.cutDie_works d 5), State.bundle_noteFence]
    exact State.bundle_untest (x.2.updMill d MillSt.cut) _ b h

/-- What the fence of a Keel in service leaves. -/
theorem State.fenceKeel_fences (s : State) (k cause : Nat) (h : (s.keel k).fenced = false) :
    ((s.fenceKeel k cause).keel k).fenced = true ∧ ((s.fenceKeel k cause).fence (1 + k)).cause = cause
      ∧ (s.fenceKeel k cause).boot = s.boot ∧ ∀ b, (s.bundle b).state = 3 → ((s.fenceKeel k cause).bundle b).state = 3 := by
  unfold State.fenceKeel
  rw [if_neg (by simp [h])]
  extract_lets users s1 dies counts s2
  have hb1 : ∀ b, (s.bundle b).state = 3 → (s2.bundle b).state = 3 := fun b hb => by
    have h12 : s2.bundles = s1.bundles := rfl
    rw [State.bundle, h12]
    exact State.bundle_untest s _ b hb
  have h2 : (s2.keel k).fenced = true := by
    have hk : (s1.updKeel k fun c => { c with fenced := true }).keel k = { s1.keel k with fenced := true } := State.keel_updKeel s1 k _
    exact congrArg KeelSt.fenced hk
  have hb2 : s2.boot = s.boot := rfl
  clear_value s2 dies counts users
  clear s1
  obtain ⟨x, hx⟩ : ∃ x, x = dies.foldl (fun (x : List Nat × State) d => (x.1 ++ [(x.2.cutDie d 5).1], (x.2.cutDie d 5).2)) ([], s2) := ⟨_, rfl⟩
  have hx1 : x.2.seals = s2.seals := by rw [hx, foldl_cutDie_seals]
  have hx2 : ∀ b, (s.bundle b).state = 3 → (x.2.bundle b).state = 3 := by
    intro b hb
    rw [hx]
    exact foldl_cutDie_bundle b _ ([], s2) (hb1 b hb)
  rw [← hx]
  obtain ⟨ns, u⟩ := x
  dsimp -zeta only at hx1 hx2 ⊢
  clear hx
  extract_lets s3 s4 s5 s6 s7 s8 s9 s10
  have h3 : s3.seals = u.seals ∧ s3.bundles = u.bundles := by
    refine ⟨foldl_keeps_proj State.seals _ (fun v i => ?_) _ _, foldl_keeps_proj State.bundles _ (fun v i => ?_) _ _⟩
    · rw [State.seals_of_works (State.flushStack_works _ _)]
      rfl
    · rw [State.bundles_of_works (State.flushStack_works _ _)]
      rfl
  have h6 : s6.works = s3.works := by
    have h5 : s5.works = s4.works := foldl_works _ (fun _ _ => by simp) _ _
    have h4 : s4.works = s3.works := (State.failHome_works _ _).trans (State.dropHomed_works _ _)
    exact (State.failWalks_works _ _).trans ((State.dropCached_works _ _).trans (h5.trans h4))
  clear_value s6
  have h7 : s7.seals = s6.seals ∧ s7.bundles = s6.bundles := ⟨State.updKeel_seals _ _ _ rfl, State.updKeel_bundles _ _ _⟩
  have h10 : s10.works = (s7.noteFence (1 + k) cause).works := by
    have h8 : s8.works = (s7.noteFence (1 + k) cause).works := State.advanceAll_works _ _
    have h9 : s9.works = s8.works := foldl_works _ (fun v p => foldl_works _ (fun w e => by
      split
      · exact State.fenceRun_works _ _ _
      · rfl) _ _) _ _
    exact (State.raiseWide_works _ _ _ _ _).trans (h9.trans h8)
  have hend : ∀ t : State, t.works = (s7.noteFence (1 + k) cause).works → (t.keel k).fenced = true ∧ (t.fence (1 + k)).cause = cause
      ∧ t.boot = s.boot ∧ ∀ b, (s.bundle b).state = 3 → (t.bundle b).state = 3 := by
    intro t ht
    have hs : t.seals = s2.seals := by
      rw [State.seals_of_works ht, ← hx1, ← h3.1, ← State.seals_of_works h6, ← h7.1]
      rfl
    refine ⟨?_, ?_, ?_, fun b hb => ?_⟩
    · have hk : (t.keel k).fenced = (s2.keel k).fenced := congrFun (congrArg Prod.fst hs) k
      rw [hk, h2]
    · rw [State.fence_of_works ht, State.fence_noteFence]
    · have hk : t.boot = s2.boot := congrArg Prod.snd hs
      rw [hk, hb2]
    · have hbs : (s7.noteFence (1 + k) cause).bundles = u.bundles := by
        show s7.bundles = _
        rw [h7.2, State.bundles_of_works h6, h3.2]
      rw [State.bundle_of_works ht, State.bundle, hbs]
      exact hx2 b hb
  refine hend _ ?_
  rw [foldl_works _ (fun _ _ => by simp), h10]

end Sys2Proof.Machine
end

section
/-! SUPPORT. Day books, their writer, and the fences that events tell of (chapter 16: R340 to R347, R349 to R359). -/

namespace Sys2Proof.Machine

open Sys2Proof

/-! ## Edges (R340, R341, R344) -/

theorem exec_eventEdge (s : State) (ev : Event) (rest : List Event) (h : s.crier.band = ev :: rest) :
    exec .eventEdge s = .next (({ s with crier := { s.crier with band := rest } } : State).edge ev) := by
  show execEventEdge s = _
  unfold execEventEdge
  rw [h]
  rfl

/-- The pending bit that an event sets. -/
def State.edgePend (s : State) (ev : Event) : Pend :=
  ⟨ev.code, codeClass ev.code, ev.book, ev.source, ev.pol, (s.pol ev.pol).gen, s.alm.now, ev.detail, false, false⟩

section
variable (s : State) (ev : Event)

theorem State.edge_stray (h : (s.book ev.book (codeClass ev.code)).enable = false ∨ s.sourceFenced ev.source = true) :
    s.edge ev = { s with crier := { s.crier with stray := satAdd 0xFFFFFFFF s.crier.stray 1 } } := by
  unfold State.edge
  dsimp only
  rw [if_pos (by rcases h with h | h <;> simp [h])]
  rfl

section
variable (he : (s.book ev.book (codeClass ev.code)).enable = true) (hf : s.sourceFenced ev.source = false)
include he hf

theorem State.edge_live : s.edge ev =
    if codeHold ev.code then
      if s.crier.pend.any (fun x => x.sameBit (s.edgePend ev)) || (s.book ev.book (codeClass ev.code)).fullSince.isSome
          || (s.crier.sluice.any fun x => x.sameBit (s.edgePend ev)) then
        s.updCrier fun c => { c with sluice := c.sluice ++ [s.edgePend ev] }
      else s.latch (s.edgePend ev)
    else if s.crier.pend.any (fun x => x.sameBit (s.edgePend ev)) then
      (s.updCrier fun c => { c with pend := c.pend.map fun x => if x.sameBit (s.edgePend ev) then { x with merged := true } else x }).updBook
        ev.book (codeClass ev.code) fun b => { b with merges := satAdd 0xFFFF b.merges 1 }
    else s.latch (s.edgePend ev) := by
  unfold State.edge
  dsimp only
  rw [if_neg (by simp [he, hf])]
  rfl

/-- A clear bit of a ring with room. -/
theorem State.edge_latched (hfull : (s.book ev.book (codeClass ev.code)).fullSince = none)
    (hset : s.crier.pend.any (fun x => x.sameBit (s.edgePend ev)) = false)
    (hslu : codeHold ev.code = true → s.crier.sluice.any (fun x => x.sameBit (s.edgePend ev)) = false) :
    s.edge ev = { s with crier := { s.crier with pend := s.crier.pend ++ [s.edgePend ev] } } := by
  have hl : s.latch (s.edgePend ev) = { s with crier := { s.crier with pend := s.crier.pend ++ [s.edgePend ev] } } := by
    unfold State.latch
    exact if_neg (by
      show ¬(s.book ev.book (codeClass ev.code)).fullSince.isSome = true
      simp [hfull])
  rw [State.edge_live s ev he hf, hl]
  split
  · next hc => rw [if_neg (by simp [hset, hfull, hslu hc])]
  · rw [if_neg (by simp [hset])]

/-- A code that holds, while its bit is set or its ring is full. -/
theorem State.edge_held (hcode : codeHold ev.code = true)
    (h : s.crier.pend.any (fun x => x.sameBit (s.edgePend ev)) = true ∨ (s.book ev.book (codeClass ev.code)).fullSince ≠ none) :
    s.edge ev = { s with crier := { s.crier with sluice := s.crier.sluice ++ [s.edgePend ev] } } := by
  rw [State.edge_live s ev he hf, if_pos hcode, if_pos]
  · rfl
  · rcases h with h | h
    · simp [h]
    · simp [Option.isSome_iff_ne_none.2 h]

/-- A full ring takes the edge, and its OVERFLOW. -/
theorem State.edge_overflows (hcode : codeHold ev.code = false) (hset : s.crier.pend.any (fun x => x.sameBit (s.edgePend ev)) = false)
    (hfull : (s.book ev.book (codeClass ev.code)).fullSince ≠ none) :
    s.edge ev = (s.updCrier fun c => { c with pend := c.pend ++ [s.edgePend ev] }).updBook ev.book (codeClass ev.code)
      fun b => { b with overflow := true } := by
  rw [State.edge_live s ev he hf, if_neg (by simp [hcode]), if_neg (by simp [hset])]
  unfold State.latch
  exact if_pos (Option.isSome_iff_ne_none.2 hfull)

theorem State.edge_merges (hcode : codeHold ev.code = false) (hset : s.crier.pend.any (fun x => x.sameBit (s.edgePend ev)) = true) :
    s.edge ev =
      (s.updCrier fun c => { c with pend := c.pend.map fun x => if x.sameBit (s.edgePend ev) then { x with merged := true } else x }).updBook
        ev.book (codeClass ev.code) fun b => { b with merges := satAdd 0xFFFF b.merges 1 } := by
  rw [State.edge_live s ev he hf, if_neg (by simp [hcode]), if_pos hset]

end

end

theorem sluiceRelease_latches (s : State) (cls : Fin 2) (p : Pol) (source : Nat) (e : Pend)
    (hfind : s.crier.sluice.find? (fun e => e.cls = cls.val && e.pol = p.val && e.source = source) = some e)
    (hset : s.crier.pend.any (fun x => x.sameBit e) = false) (hfull : (s.book e.book e.cls).fullSince = none) :
    exec (.sluiceRelease cls p source) s =
      .next { s with crier := { s.crier with sluice := s.crier.sluice.erase e, pend := s.crier.pend ++ [{ e with held := true }] } } := by
  have hl : (s.updCrier fun c => { c with sluice := c.sluice.erase e }).latch { e with held := true }
      = { s with crier := { s.crier with sluice := s.crier.sluice.erase e, pend := s.crier.pend ++ [{ e with held := true }] } } := by
    unfold State.latch
    exact if_neg (by
      show ¬(s.book e.book e.cls).fullSince.isSome = true
      simp [hfull])
  show execSluiceRelease cls p source s = _
  unfold execSluiceRelease
  rw [hfind]
  dsimp only
  rw [if_neg (by simp [hset, hfull]), hl]

/-! ## The record writer (R342, R347) -/

section
variable (s : State) (c : Crier)

/-! What a home writes does not depend on the Crier. -/

/-- The state with another Crier. -/
def State.tell (s : State) (c : Crier) : State := { s with crier := c }

theorem State.tell_mark (line : Nat) : (s.tell c).mark line = s.mark line := rfl
theorem State.tell_mem : (s.tell c).mem = s.mem := rfl
theorem State.tell_gran : (s.tell c).gran = s.gran := rfl
theorem State.tell_clock : (s.tell c).clock = s.clock := rfl
theorem State.tell_updMark (line : Nat) (f : Mark → Mark) : (s.tell c).updMark line f = (s.updMark line f).tell c := rfl
theorem State.tell_setGran (line : Nat) (g : GranLine) : (s.tell c).setGran line g = (s.setGran line g).tell c := rfl
theorem State.tell_updGran (line : Nat) (f : GranLine → GranLine) : (s.tell c).updGran line f = (s.updGran line f).tell c := rfl
theorem State.tell_setMem (m : List Host.Cell) : { s.tell c with mem := m } = ({ s with mem := m } : State).tell c := rfl
theorem State.tell_granPart (k p : Nat) : (s.tell c).granPart k p = s.granPart k p := rfl

theorem State.tell_granFind (line : Nat) : (s.tell c).granFind line = s.granFind line := by
  unfold State.granFind
  rw [State.tell_gran]

theorem State.tell_stackFenced (line : Nat) : (s.tell c).stackFenced line = s.stackFenced line := by
  have hl : (s.tell c).locate = s.locate := State.locate_congr rfl
  have hs : (s.tell c).stack = s.stack := rfl
  unfold State.stackFenced State.stackOf
  rw [hl, hs]

theorem State.tell_homePoison (line : Nat) : (s.tell c).homePoison line = s.homePoison line := by
  unfold State.homePoison
  rw [State.tell_stackFenced, State.tell_granFind, State.tell_mark]

theorem State.tell_homeByte (line o : Nat) : (s.tell c).homeByte line o = s.homeByte line o := by
  unfold State.homeByte
  rw [State.tell_granFind, State.tell_mem]

theorem State.tell_homeUndo (line : Nat) (mask : BitVec 8) : (s.tell c).homeUndo line mask = (s.homeUndo line mask).tell c := by
  unfold State.homeUndo
  dsimp only [State.tell_mark, State.tell_mem, State.tell_setMem, State.tell_updMark]
  rw [State.tell_granFind]
  split
  · rfl
  · split <;> rfl

theorem State.tell_granFlush (key : Nat) : (s.tell c).granFlush key = (s.granFlush key).tell c := by
  unfold State.granFlush
  dsimp only [State.tell_gran]
  refine (ite_congr (by rw [State.tell_stackFenced]) (fun _ => rfl) fun _ => ?_).trans (apply_ite (fun u : State => u.tell c) _ _ _).symm
  rw [State.tell_homeUndo]
  generalize s.homeUndo _ _ = u
  dsimp only [State.tell_gran, State.tell_mem]
  generalize memPatch _ _ _ = m
  rfl

theorem State.tell_granEvict (key : Nat) : (s.tell c).granEvict key = (s.granEvict key).tell c := by
  unfold State.granEvict
  refine (ite_congr rfl (fun _ => ?_) fun _ => rfl).trans (apply_ite (fun u : State => u.tell c) _ _ _).symm
  rw [State.tell_granFlush, State.tell_setGran]

theorem State.tell_granAlloc (p line hint : Nat) : (s.tell c).granAlloc p line hint = (s.granAlloc p line hint).tell c := by
  unfold State.granAlloc
  dsimp only [State.tell_gran, State.tell_clock]
  rw [State.tell_granFind, State.tell_granPart]
  simp only [State.tell_granEvict]
  split
  · rfl
  split
  · rfl
  split
  · rfl
  split
  · rfl
  split <;> rfl

theorem State.tell_granFill (line : Nat) (need : BitVec 8) : (s.tell c).granFill line need = (s.granFill line need).tell c := by
  unfold State.granFill
  rw [State.tell_granFind, State.tell_homePoison]
  split <;> rfl

theorem State.tell_homeKeep (line : Nat) (bs : Bytes) (dead : Bool) : (s.tell c).homeKeep line bs dead = (s.homeKeep line bs dead).tell c := by
  unfold State.homeKeep
  simp only [State.tell_homeUndo, State.tell_homePoison, State.tell_homeByte]
  split <;> rfl

theorem State.tell_homeWrite (p line : Nat) (bs : Bytes) (dead poison : Bool) (hint : Nat) :
    (s.tell c).homeWrite p line bs dead poison hint = (s.homeWrite p line bs dead poison hint).tell c := by
  unfold State.homeWrite
  rw [State.tell_stackFenced, State.tell_granFind, State.tell_granAlloc, State.tell_homeKeep]
  dsimp only
  rw [State.tell_granFind, State.tell_granFill]
  split
  · rfl
  · split <;> rfl

/-! Events of a home's write change the Crier alone. -/

/-- The two states write alike: they differ in the Crier alone. -/
def State.alike (s t : State) : Prop := ∃ c, t = s.tell c

theorem State.alike.mem {s t : State} (h : s.alike t) : t.mem = s.mem := by
  obtain ⟨c, rfl⟩ := h
  rfl

theorem State.alike_foldl {α : Type} (f : State → α → State) (hf : ∀ s t a, s.alike t → (f s a).alike (f t a)) (l : List α) {s t : State}
    (h : s.alike t) : (l.foldl f s).alike (l.foldl f t) := by
  induction l generalizing s t with
  | nil => exact h
  | cons a l ih => exact ih (hf s t a h)

theorem State.alike_land {s t : State} (h : s.alike t) (m : CohMsg) : (s.land_ m).alike (t.land_ m) := by
  obtain ⟨c, rfl⟩ := h
  unfold State.land_
  simp only [State.tell_stackFenced, State.tell_granFind, ← apply_ite (fun s : State => s.tell c), State.tell_homeWrite, State.tell_homeUndo,
    State.tell_setGran, State.tell_updMark]
  split
  · exact ⟨_, rfl⟩
  split
  · exact ⟨c, rfl⟩
  · split <;> exact ⟨c, rfl⟩

theorem State.alike_recallOne {s t : State} (h : s.alike t) (key : Nat) (b : BinLine) : (s.recallOne key b).alike (t.recallOne key b) := by
  have hl := State.alike_land h { carryDirty (fromHome .recallAck b.line 0 b.pol) b with hint := b.hint }
  unfold State.recallOne
  dsimp only
  generalize hu : (if isOwning b.st then s.land_ _ else s) = u
  generalize hv : (if isOwning b.st then t.land_ _ else t) = v
  have huv : u.alike v := by
    rw [← hu, ← hv]
    split
    · exact hl
    · exact h
  obtain ⟨c, rfl⟩ := huv
  exact ⟨c, rfl⟩

theorem State.alike_pokeLine {s t : State} (h : s.alike t) (p line : Nat) (bs : Bytes) (poison : Bool) :
    (s.pokeLine p line bs poison).alike (t.pokeLine p line bs poison) := by
  have hq : t.homeFenced line = s.homeFenced line ∧ t.lineQuiet line = s.lineQuiet line ∧ t.copiesOf line = s.copiesOf line
      ∧ t.newReq (.write bs false poison) line p .none 0 0 = (s.newReq (.write bs false poison) line p .none 0 0).tell t.crier := by
    obtain ⟨c, rfl⟩ := h
    refine ⟨rfl, rfl, rfl, ?_⟩
    have ht : (s.tell c).freshId.2.trackerFree (homeOf line) p = s.freshId.2.trackerFree (homeOf line) p := rfl
    simp only [State.newReq]
    rw [ht]
    split <;> rfl
  obtain ⟨h1, h2, h3, h4⟩ := hq
  unfold State.pokeLine
  rw [h1, h2, h3, h4]
  dsimp only
  split
  · exact h
  split
  · exact ⟨_, rfl⟩
  · have hr := State.alike_foldl (fun (s : State) (e : Nat × BinLine) => s.recallOne e.1 e.2) (fun _ _ a h => State.alike_recallOne h a.1 a.2) (s.copiesOf line) h
    generalize (s.copiesOf line).foldl _ s = u at hr ⊢
    generalize (s.copiesOf line).foldl _ t = v at hr ⊢
    have he : v.entriesOf line = u.entriesOf line := by
      obtain ⟨c, rfl⟩ := hr
      rfl
    rw [he]
    have hs := State.alike_foldl (fun (s : State) (e : Entry) => s.setShadow e.key {}) (fun _ _ a ⟨c, hc⟩ => ⟨c, by rw [hc]; rfl⟩) (u.entriesOf line) hr
    obtain ⟨c, hc⟩ := hs
    rw [hc, State.tell_homeWrite]
    exact ⟨c, rfl⟩

theorem State.alike_poke {s t : State} (h : s.alike t) (p a : Nat) (bs : List Byte) (poison : Bool) :
    (s.poke p a bs poison).alike (t.poke p a bs poison) := by
  have hg : t.groupPart a bs.length = s.groupPart a bs.length ∧ (t.untag a bs.length) = (s.untag a bs.length).tell t.crier
      ∧ (t.permission srcSeq p a 3) = (s.permission srcSeq p a 3).tell (t.permission srcSeq p a 3).crier := by
    obtain ⟨c, rfl⟩ := h
    refine ⟨rfl, ?_, rfl⟩
    have hf : ∀ (l : List (Nat × Nat)) (u : State), l.foldl (fun s g => s.updMark g.1 fun m => { m with tag := 0 }) (u.tell c)
        = (l.foldl (fun s g => s.updMark g.1 fun m => { m with tag := 0 }) u).tell c := by
      intro l
      induction l with
      | nil => exact fun _ => rfl
      | cons x l ih => exact fun u => ih (u.updMark x.1 fun m => { m with tag := 0 })
    exact hf _ s
  obtain ⟨h1, h2, h3⟩ := hg
  unfold State.poke
  rw [h1, h2, h3]
  dsimp only
  split
  · exact ⟨(t.permission srcSeq p a 3).crier, rfl⟩
  · refine State.alike_foldl _ (fun u v l huv => ?_) _ ⟨t.crier, rfl⟩
    exact State.alike_pokeLine huv p l _ poison

theorem State.hostWrite_mem {s t : State} {port p w : Nat} {bs : List Byte} {poison : Bool} {src va eng : Nat}
    (h : s.hostWrite port p w bs poison src va eng = some t) : t.mem = s.mem := by
  unfold State.hostWrite at h
  obtain ⟨a, _, rfl⟩ := Option.map_eq_some_iff.1 h
  exact foldl_keeps_proj State.mem _ (by intros; rfl) _ _

theorem State.placeRecord_mem (s : State) (c : Crier) (p base : Nat) (r : List Byte) :
    ((s.tell c).placeRecord p base r).mem = (s.placeRecord p base r).mem := by
  have hhost : ∀ (u : State) port w (l : List (Nat × Nat)),
      (l.foldl (fun s e => (s.hostWrite port p (w + e.1) (slice r e.1 e.2) false srcSeq (base + e.1) 3).getD s) u).mem = u.mem :=
    fun u port w l => foldl_keeps_proj State.mem
      (fun (s : State) (e : Nat × Nat) => (s.hostWrite port p (w + e.1) (slice r e.1 e.2) false srcSeq (base + e.1) 3).getD s) (fun v e => by
        cases hw : v.hostWrite port p (w + e.1) (slice r e.1 e.2) false srcSeq (base + e.1) 3 with
        | none => rfl
        | some x => exact State.hostWrite_mem hw) l u
  unfold State.placeRecord
  extract_lets o
  have hr : (s.tell c).region o = s.region o := rfl
  rw [hr]
  split
  · next port w _ =>
    have hd : (s.tell c).hostDown port = s.hostDown port := rfl
    rw [hd]
    split
    · rfl
    · exact (hhost (s.tell c) port w _).trans (hhost s port w _).symm
  · exact State.alike.mem (State.alike_poke ⟨c, rfl⟩ p o r false)

theorem State.placeRecord_ctl (s : State) (p base : Nat) (r : List Byte) : (s.placeRecord p base r).ctl = s.ctl := by
  unfold State.placeRecord
  extract_lets o
  split
  · next port w _ =>
    split
    · rfl
    · exact foldl_ctl (fun (s : State) (e : Nat × Nat) => (s.hostWrite port p (w + e.1) (slice r e.1 e.2) false srcSeq (base + e.1) 3).getD s)
        (fun v e => by
          cases hw : v.hostWrite port p (w + e.1) (slice r e.1 e.2) false srcSeq (base + e.1) 3 with
          | none => rfl
          | some x => exact State.hostWrite_ctl hw) _ s
  · exact State.poke_ctl _ _ _ _ _

end

end Sys2Proof.Machine
end

section
/-! Day books, events and fences (chapter 16). -/

namespace Sys2Proof.Machine

open Sys2Proof

/-! ## The record writer (R342, R347) -/

theorem eventEdge_acts (s : State) (ev : Event) (rest : List Event) (hb : s.crier.band = ev :: rest) :
    let cls := codeClass ev.code
    let e : Pend := ⟨ev.code, cls, ev.book, ev.source, ev.pol, (s.pol ev.pol).gen, s.alm.now, ev.detail, false, false⟩
    ((s.book ev.book cls).enable = false ∨ s.sourceFenced ev.source = true → exec .eventEdge s =
        .next { s with crier := { s.crier with band := rest, stray := satAdd 0xFFFFFFFF s.crier.stray 1 } }) ∧
      ((s.book ev.book cls).enable = true → s.sourceFenced ev.source = false → (s.book ev.book cls).fullSince = none →
        s.crier.pend.any (fun x => x.sameBit e) = false →
        (codeHold ev.code = true → s.crier.sluice.any (fun x => x.sameBit e) = false) → exec .eventEdge s =
          .next { s with crier := { s.crier with band := rest, pend := s.crier.pend ++ [e] } }) ∧
      ((s.book ev.book cls).enable = true → s.sourceFenced ev.source = false → (s.book ev.book cls).fullSince ≠ none →
        s.crier.pend.any (fun x => x.sameBit e) = false →
        (codeHold ev.code = true → exec .eventEdge s =
          .next { s with crier := { s.crier with band := rest, sluice := s.crier.sluice ++ [e] } }) ∧
        (codeHold ev.code = false → completes .eventEdge s fun t =>
          (t.book ev.book cls).overflow = true ∧ t.crier.band = rest ∧ t.crier.pend = s.crier.pend ++ [e]
            ∧ t = { s with crier := t.crier })) ∧
      ((s.book ev.book cls).enable = true → s.sourceFenced ev.source = false →
        s.crier.pend.any (fun x => x.sameBit e) = true →
        (codeHold ev.code = true → exec .eventEdge s =
          .next { s with crier := { s.crier with band := rest, sluice := s.crier.sluice ++ [e] } }) ∧
        (codeHold ev.code = false → completes .eventEdge s fun t =>
          (t.book ev.book cls).merges = satAdd 0xFFFF (s.book ev.book cls).merges 1 ∧ t.crier.band = rest
            ∧ t.crier.pend.length = s.crier.pend.length ∧ t = { s with crier := t.crier })) := by
  intro cls e
  have hx := exec_eventEdge s ev rest hb
  obtain ⟨u, hu⟩ : ∃ u : State, u = { s with crier := { s.crier with band := rest } } := ⟨_, rfl⟩
  have hbook : u.book ev.book cls = s.book ev.book cls := by
    rw [hu]
    rfl
  have hpend : u.crier.pend = s.crier.pend := by rw [hu]
  have hslu : u.crier.sluice = s.crier.sluice := by rw [hu]
  have he : u.edgePend ev = e := by
    rw [hu]
    rfl
  have hsrc : u.sourceFenced ev.source = s.sourceFenced ev.source := by
    rw [hu]
    rfl
  rw [← hu] at hx
  rw [← hbook, ← hpend, ← hsrc, ← he]
  refine ⟨fun h => ?_, fun h1 h2 h3 h4 h5 => ?_, fun h1 h2 h3 h4 => ⟨fun h5 => ?_, fun h5 => ?_⟩, fun h1 h2 h3 => ⟨fun h5 => ?_, fun h5 => ?_⟩⟩
  · rw [hx, State.edge_stray u ev h, hu]
  · rw [hx, State.edge_latched u ev h1 h2 h3 h4 (by rwa [← hslu] at h5), hu]
  · rw [hx, State.edge_held u ev h1 h2 h5 (.inr h3), hu]
  · refine completes_of_exec (t := u.edge ev) hx ?_
    rw [State.edge_overflows u ev h1 h2 h5 h4 h3]
    refine ⟨?_, ?_, rfl, ?_⟩
    · rw [State.book_updBook]
    · rw [hu]
      rfl
    · rw [hu]
      rfl
  · rw [hx, State.edge_held u ev h1 h2 h5 (.inl h3), hu]
  · refine completes_of_exec (t := u.edge ev) hx ?_
    rw [State.edge_merges u ev h1 h2 h5 h3]
    refine ⟨?_, ?_, ?_, ?_⟩
    · rw [State.book_updBook]
      rfl
    · rw [hu]
      rfl
    · exact List.length_map _
    · rw [hu]
      rfl

theorem State.findFull_room (s : State) (e : Pend) (h : (s.book e.book e.cls).full = false) : s.findFull e = s := by
  unfold State.findFull
  exact if_neg (by simp [h])

theorem foldl_findFull_room (s : State) (l : List Pend) (h : ∀ x ∈ l, (s.book x.book x.cls).full = false) :
    l.foldl (fun s e => s.findFull e) s = s :=
  foldl_keeps (fun s e => s.findFull e) (· = s) l (fun d x hx hd => by rw [hd, State.findFull_room s x (h x hx)]) s rfl

/-- A vector changes the function's pending bits, or goes to the host. -/
theorem State.bookVector_keeps (s : State) (p c : Nat) : (s.bookVector p c).crier = s.crier ∧ (s.bookVector p c).mem = s.mem := by
  unfold State.bookVector State.msixSend
  dsimp only
  split
  · split
    · exact ⟨rfl, rfl⟩
    · split <;> exact ⟨rfl, rfl⟩
  · exact ⟨rfl, rfl⟩

theorem State.crier_of_ctl {s t : State} (h : t.ctl = s.ctl) : ({ t.crier with band := [] } : Crier) = { s.crier with band := [] } :=
  (congrArg (fun c : Ctl => c.rest.crier) h : t.ctl.rest.crier = s.ctl.rest.crier)

theorem daybookRecordWrite_writes (s : State) (cls : Fin 2) (e : Pend)
    (hroom : ∀ x ∈ s.crier.pend, x.cls = cls.val → (s.book x.book x.cls).full = false)
    (hnext : nextPend (s.crier.last.get 0 cls.val) (s.crier.pend.filter fun x => x.cls = cls.val) = some e) :
    let b := s.book e.book e.cls
    completes (.daybookRecordWrite cls) s fun t =>
      t.crier.pend = s.crier.pend.erase e ∧ (t.book e.book e.cls).prod = (b.prod + 1) % 2 ^ 32 ∧ (t.book e.book e.cls).cons = b.cons
        ∧ t.mem = (s.placeRecord e.book (b.base + 32 * (b.prod % b.count)) (pendRecord e b)).mem := by
  intro b
  have hmine : ∀ x ∈ s.crier.pend.filter (fun e => e.cls = cls.val), (s.book x.book x.cls).full = false := fun x hx => by
    obtain ⟨hx, hc⟩ := List.mem_filter.1 hx
    exact hroom x hx (by simpa using hc)
  show ∃ t, execDaybookRecordWrite cls s = .next t ∧ _
  unfold execDaybookRecordWrite
  extract_lets mine s1
  have h1 : s1 = s := foldl_findFull_room s mine hmine
  clear_value s1
  subst h1
  have hf : (mine.filter fun e => !(s1.book e.book e.cls).full) = mine := List.filter_eq_self.2 fun x hx => by rw [hmine x hx]; rfl
  rw [hf, hnext]
  dsimp -zeta only
  extract_lets s2 s3 s4
  have h3 : s3.ctl = s2.ctl := State.placeRecord_ctl _ _ _ _
  have hc := State.crier_of_ctl h3
  have hpend : s3.crier.pend = s1.crier.pend.erase e := (congrArg Crier.pend hc :)
  have hbooks : s3.crier.books = s1.crier.books := (congrArg Crier.books hc :)
  have hmem : s3.mem = (s1.placeRecord e.book (b.base + 32 * (b.prod % b.count)) (pendRecord e b)).mem := State.placeRecord_mem s1 s2.crier _ _ _
  have hb3 : s3.book e.book e.cls = b := by rw [State.book, hbooks]; rfl
  clear_value s3 s2
  have hall : ∀ t : State, t.crier = s4.crier → t.mem = s4.mem → t.crier.pend = s1.crier.pend.erase e
      ∧ (t.book e.book e.cls).prod = (b.prod + 1) % 2 ^ 32 ∧ (t.book e.book e.cls).cons = b.cons
      ∧ t.mem = (s1.placeRecord e.book (b.base + 32 * (b.prod % b.count)) (pendRecord e b)).mem := by
    intro t ht hm
    have hbt : t.book e.book e.cls = { b with prod := (b.prod + 1) % 2 ^ 32, afterOverflow := false } := by
      have h4 : s4.book e.book e.cls = { s3.book e.book e.cls with prod := ((s3.book e.book e.cls).prod + 1) % 2 ^ 32, afterOverflow := false } :=
        State.book_updBook ..
      rw [State.book, ht]
      exact h4.trans (by rw [hb3])
    refine ⟨?_, ?_, ?_, ?_⟩
    · rw [ht]
      exact hpend
    · rw [hbt]
    · rw [hbt]
    · rw [hm]
      exact hmem
  refine ⟨_, rfl, ?_⟩
  split
  · exact hall _ (s4.bookVector_keeps _ _).1 (s4.bookVector_keeps _ _).2
  · exact hall _ rfl rfl

/-! ## Rings (R344, R345, R350) -/

theorem daybookEnable_enables (s : State) (p : Pol) (cls : Fin 2) (a : RegAcc)
    (ho : s.ownerWrites p.val a (offDbBase p.val cls.val) = true) :
    let b := s.book p.val cls.val
    (a.bit 0 = true → b.enable = false → s.bookPlace p.val (4096 * a.fld 12 46 (b.base / 4096)) = true → a.fld 8 4 b.size ≤ 10 →
        completes (.daybookEnable p cls a) s fun t =>
          (t.book p.val cls.val).enable = true ∧ (t.book p.val cls.val).prod = 0 ∧ (t.book p.val cls.val).cons = 0
            ∧ (t.book p.val cls.val).base = 4096 * a.fld 12 46 (b.base / 4096) ∧ t = { s with crier := t.crier }) ∧
      (a.bit 0 = false → a.hits 0 = true → b.enable = true → completes (.daybookDisable p cls a) s fun t =>
        (t.book p.val cls.val).enable = false ∧ (∀ x ∈ t.crier.pend, ¬(x.book = p.val ∧ x.cls = cls.val)) ∧ t.mem = s.mem) := by
  intro b
  refine ⟨fun h0 hen hplace hsize => ?_, fun h0 hhit hen => ?_⟩
  · refine completes_of_exec (t := s.dbBaseWrite p.val cls.val a) ?_ ?_
    · show execDaybookEnable p cls a s = _
      unfold execDaybookEnable
      rw [if_pos (by simp [ho, h0])]
    unfold State.dbBaseWrite
    extract_lets base size on
    have hon : on = true := by
      simp only [on, base, size, Bool.and_eq_true, decide_eq_true_eq]
      exact ⟨⟨h0, hplace⟩, hsize⟩
    rw [if_neg (by simpa using hen)]
    simp only [hon, if_true]
    refine ⟨?_, ?_, ?_, ?_, rfl⟩ <;> rw [State.book_updBook]
  · refine completes_of_exec (t := s.bookOff p.val cls.val) ?_ ?_
    · show execDaybookDisable p cls a s = _
      unfold execDaybookDisable State.dbBaseWrite
      dsimp only
      rw [if_pos (by simp [ho, h0]), if_pos hen, if_pos (by simp [hhit, h0])]
    unfold State.bookOff
    refine ⟨?_, fun x hx => ?_, rfl⟩
    · rw [State.book_updBook]
    · have hm : (!(decide (x.book = p.val) && decide (x.cls = cls.val))) = true :=
        (List.mem_filter.1 (show x ∈ s.crier.pend.filter fun e => !(e.book = p.val && e.cls = cls.val) from hx)).2
      rintro ⟨h1, h2⟩
      rw [decide_eq_true h1, decide_eq_true h2] at hm
      exact absurd hm (by decide)

theorem State.raiseSup_eq (s : State) (code : Code) (source p sup : Nat) (detail : List Byte) (h : s.supOf p = some sup) :
    s.raiseSup code source p detail = s.raise code source sup p detail := by
  unfold State.raiseSup
  rw [h]

theorem daybookOverflow_reports (s : State) (p : Pol) (cls : Fin 2) (sup : Nat) (hsup : s.supOf p.val = some sup) (hp : 2 ≤ p.val)
    (hr : (s.book p.val cls.val).reported = false) (hh : s.heldFor (s.book p.val cls.val).fullSince 2000 = true) :
    completes (.daybookOverflow p cls) s fun t =>
      (t.book p.val cls.val).reported = true ∧ ∃ e, t.crier.band = s.crier.band ++ [e] ∧ e.code = .daybookOverflow ∧ e.book = sup := by
  refine completes_of_exec (t := (s.updBook p.val cls.val fun b => { b with reported := true }).raiseSup .daybookOverflow (srcPolder p.val) p.val
    (leBytes 1 p.val ++ leBytes 1 cls.val)) ?_ ?_
  · show execDaybookOverflow p cls s = _
    unfold execDaybookOverflow
    dsimp only
    rw [if_pos (by simp [hp, hr, hh])]
  rw [State.raiseSup_eq (s.updBook p.val cls.val fun b => { b with reported := true }) _ _ _ sup _ hsup]
  refine ⟨?_, _, rfl, rfl, rfl⟩
  have hb := State.book_updBook s p.val cls.val fun b => { b with reported := true }
  exact (congrArg Book.reported hb :)

theorem polderFenced_fences (s : State) (p : Pol) (cls : Fin 2) (sup : Nat) (hsup : s.supOf p.val = some sup) (hp : 2 ≤ p.val)
    (hf : (s.book p.val cls.val).fenced = false)
    (hh : s.heldFor (s.book p.val cls.val).fullSince (1000000 * max 1 (s.book p.val cls.val).limit) = true) :
    completes (.polderFenced p cls) s fun t =>
      (t.pol p.val).enable = false ∧ (t.pol p.val).pending = [] ∧ (∀ x ∈ t.crier.sluice, x.book ≠ p.val)
        ∧ ∃ l e, t.crier.band = l ++ [e] ∧ e.code = .polderFenced := by
  show ∃ t, execPolderFenced p cls s = .next t ∧ _
  unfold execPolderFenced
  extract_lets b s1 s2 s3 s4
  rw [if_pos (by simp [b, hp, hf, hh])]
  have hbare : s2.bare = (s1.emptyPending p.val stFenced).bare := State.fenceRuns_bare _ _
  have hpend : (s2.pol p.val).pending = [] := by
    have hc : { (s2.pol p.val).core with running := [] } = { ((s1.emptyPending p.val stFenced).pol p.val).core with running := [] } :=
      congrFun (congrArg Ctl.pol hbare) p.val
    have hq : (s2.pol p.val).pending = ((s1.emptyPending p.val stFenced).pol p.val).pending := (congrArg Polder.pending hc :)
    rw [hq, State.emptyPending_pending]
  have hport : (s2.pol p.val).port = (s.pol p.val).port := by
    have hst : s2.stance = s1.stance := (State.stance_of_bare hbare).trans (State.emptyPending_stance _ _ _)
    exact (congrArg Polder.port (State.still_of_stance hst p.val) :)
  clear_value s2
  have h4 : s4.pol p.val = { s2.pol p.val with enable := false, stopping := false } :=
    State.pol_updPol s2 p.val fun q => { q with enable := false, stopping := false }
  have hs4 : s4.supOf p.val = some sup := by
    unfold State.supOf at hsup ⊢
    rw [h4]
    dsimp only
    rw [hport]
    exact hsup
  have h4s : ∀ x ∈ s4.crier.sluice, x.book ≠ p.val := fun x hx => by simpa using (List.mem_filter.1 hx).2
  rw [State.raiseSup_eq s4 _ _ _ sup _ hs4]
  refine ⟨_, rfl, ?_, ?_, h4s, s4.crier.band, _, rfl, rfl⟩
  · show (s4.pol p.val).enable = false
    rw [h4]
  · show (s4.pol p.val).pending = []
    rw [h4]
    exact hpend

end Sys2Proof.Machine
end

section
/-! Fences of dies, Keels and bundles, bad memory, and the return of a die (chapter 16: R204, R353 to R359). -/

namespace Sys2Proof.Machine

open Sys2Proof

/-! ## Dies and Keels -/

theorem millClockLoss_fences (s : State) (d : Die) (hs : 2 ≤ s.boot.stage) (h : (s.mill d.val).fenced = false) :
    completes (.millClockLoss d) s fun t =>
      (t.mill d.val).fenced = true ∧ (t.fence (5 + d.val)).cause = 1
        ∧ (t.fence (5 + d.val)).fences = satAdd 0xFFFF (s.fence (5 + d.val)).fences 1 := by
  refine completes_of_exec (t := s.fenceDie d.val 1) ?_ (s.fenceDie_fences d.val 1 h)
  show execMillClockLoss d s = _
  unfold execMillClockLoss
  rw [if_pos hs]

theorem uncorrectableError_fences_die (s : State) (d : Die) (hs : 2 ≤ s.boot.stage) (h : (s.mill d.val).fenced = false) :
    completes (.uncorrectableError (.mill d)) s fun t => (t.mill d.val).fenced = true ∧ (t.fence (5 + d.val)).cause = 3 := by
  obtain ⟨h1, h2, -⟩ := s.fenceDie_fences d.val 3 h
  refine completes_of_exec (t := s.fenceDie d.val 3) ?_ ⟨h1, h2⟩
  show execUncorrectableError (.mill d) s = _
  unfold execUncorrectableError
  rw [if_neg (by omega)]

theorem uncorrectableError_fences_keel (s : State) (k : Keel) (hs : 2 ≤ s.boot.stage) (h : (s.keel k.val).fenced = false) :
    completes (.uncorrectableError (.keel k)) s fun t => (t.keel k.val).fenced = true ∧ (t.fence (1 + k.val)).cause = 3 := by
  obtain ⟨h1, h2, -⟩ := s.fenceKeel_fences k.val 3 h
  refine completes_of_exec (t := s.fenceKeel k.val 3) ?_ ⟨h1, h2⟩
  show execUncorrectableError (.keel k) s = _
  unfold execUncorrectableError
  rw [if_neg (by omega)]

theorem forwardingPathLoss_fences (s : State) (k : Keel) (join : Fin 8) (hs : 2 ≤ s.boot.stage) (h : (s.keel k.val).fenced = false)
    (hj : (joinsOf k.val).contains join.val = true) :
    completes (.forwardingPathLoss k join) s fun t => (t.keel k.val).fenced = true ∧ (t.fence (1 + k.val)).cause = 1
      ∧ t.boot.paths = s.boot.paths &&& ~~~(BitVec.ofNat 16 (3 * 4 ^ join.val)) := by
  obtain ⟨u, hu⟩ : ∃ u : State, u = { s with boot := { s.boot with paths := s.boot.paths &&& ~~~(BitVec.ofNat 16 (3 * 4 ^ join.val)) } } :=
    ⟨_, rfl⟩
  have huk : (u.keel k.val).fenced = false := by
    rw [hu]
    exact h
  obtain ⟨h1, h2, h3, -⟩ := u.fenceKeel_fences k.val 1 huk
  refine completes_of_exec (t := u.fenceKeel k.val 1) ?_ ⟨h1, h2, by rw [h3, hu]⟩
  show execForwardingPathLoss k join s = _
  unfold execForwardingPathLoss
  rw [if_neg (by rw [hj]; simp [Nat.not_lt.2 hs])]
  dsimp only
  rw [hu]

/-! ## Bundles (R354) -/

/-- A bundle that is dead, and reported. -/
def State.deadBundle (s : State) (b : Nat) : State :=
  (s.updBundle b fun c => { c with state := 3, failRun := 0 }).raiseBoth .bundleDead (srcDie (bundleDie b)) (bundleDetail b)

theorem State.bundle_deadBundle (s : State) (b : Nat) : ((s.deadBundle b).bundle b).state = 3 := by
  have h : (s.updBundle b fun c => { c with state := 3, failRun := 0 }).bundle b = { s.bundle b with state := 3, failRun := 0 } :=
    State.bundle_updBundle ..
  exact (congrArg BundleSt.state h :)

theorem exec_bundleDead (s : State) (b : Nat) (hb : b < 2088) (h : (s.bundle b).state = 1) :
    exec (.bundleDead b) s = .next (
      if b < 2048 then (s.deadBundle b).fenceDie (b / 256) 2
      else if 2080 ≤ b then (s.deadBundle b).fenceKeel ((b - 2080) / 2) 2
      else (List.range 64).foldl (fun s p => (s.pol p).running.foldl (fun s e =>
        if s.schedStint e.2.m.schedule fun t => stintOnBundle t b then s.fenceRun p e.1 else s) s) (s.deadBundle b)) := by
  show execBundleDead b s = _
  unfold execBundleDead State.bundleFails
  rw [if_neg (by simp [h, Nat.not_le.2 hb])]
  rfl

theorem bundleDead_fences_die (s : State) (d : Die) (h : (s.mill d.val).fenced = false) (b : Nat) (hb : b / 256 = d.val)
    (hst : (s.bundle b).state = 1) :
    completes (.bundleDead b) s fun t => (t.bundle b).state = 3 ∧ (t.mill d.val).fenced = true ∧ (t.fence (5 + d.val)).cause = 2 := by
  have hd := d.isLt
  obtain ⟨h1, h2, -⟩ := (s.deadBundle b).fenceDie_fences d.val 2 h
  refine completes_of_exec (t := (s.deadBundle b).fenceDie d.val 2) ?_ ⟨(s.deadBundle b).fenceDie_bundle d.val 2 b h (s.bundle_deadBundle b), h1, h2⟩
  rw [exec_bundleDead s b (by omega) hst, if_pos (by omega), hb]

theorem bundleDead_fences_keel (s : State) (b : Nat) (hb : 2080 ≤ b) (hb' : b < 2088) (hst : (s.bundle b).state = 1)
    (h : (s.keel ((b - 2080) / 2)).fenced = false) :
    completes (.bundleDead b) s fun t =>
      (t.bundle b).state = 3 ∧ (t.keel ((b - 2080) / 2)).fenced = true ∧ (t.fence (1 + (b - 2080) / 2)).cause = 2 := by
  obtain ⟨h1, h2, -, h4⟩ := (s.deadBundle b).fenceKeel_fences ((b - 2080) / 2) 2 h
  refine completes_of_exec (t := (s.deadBundle b).fenceKeel ((b - 2080) / 2) 2) ?_ ⟨h4 b (s.bundle_deadBundle b), h1, h2⟩
  rw [exec_bundleDead s b hb' hst, if_neg (by omega), if_pos hb]

/-! Every manifest whose stints a set of bundles carries ends. -/

theorem State.schedStint_congr {s t : State} (h : t.bare = s.bare) : t.schedStint = s.schedStint := by
  have hi : t.img = s.img := (congrArg (fun c : Ctl => c.rest.img) h : t.bare.rest.img = s.bare.rest.img)
  unfold State.schedStint State.table State.schedule
  rw [hi]

/-- One polder's turn. -/
def State.fenceStints (f : Stint → Bool) (s : State) (p : Nat) : State :=
  (s.pol p).running.foldl (fun s e => if s.schedStint e.2.m.schedule f then s.fenceRun p e.1 else s) s

theorem State.fenceStints_bare (f : Stint → Bool) (s : State) (p : Nat) : (s.fenceStints f p).bare = s.bare :=
  foldl_bare _ (fun u e => by split <;> simp) _ _

theorem State.fenceRun_running_other (s : State) (p seq q : Nat) (hq : q ≠ p) : ((s.fenceRun p seq).pol q).running = (s.pol q).running := by
  have hl : ((s.updLag p seq).pol q) = s.pol q := by
    unfold State.updLag
    split
    · exact State.pol_updRun_other _ _ _ _ _ hq
    · rfl
  rw [State.fenceRun, State.endRun_pol_other _ _ _ _ _ _ _ hq, hl]

theorem State.fenceStints_running_other (f : Stint → Bool) (s : State) (p q : Nat) (hq : q ≠ p) :
    ((s.fenceStints f p).pol q).running = (s.pol q).running :=
  foldl_keeps_proj (fun s : State => (s.pol q).running) _ (fun u e => by
    split
    · exact State.fenceRun_running_other _ _ _ _ hq
    · rfl) _ _

theorem State.fenceStints_ends (f : Stint → Bool) (s : State) (p : Nat) (e : Nat × Run) (he : e ∈ (s.pol p).running)
    (hf : s.schedStint e.2.m.schedule f = true) : ((s.fenceStints f p).pol p).isRunning e.1 = false :=
  State.fold_fenceRun_ends p Prod.fst (fun u (e : Nat × Run) => u.schedStint e.2.m.schedule f) _ s e he fun u hu => by
    rw [State.schedStint_congr hu]
    exact hf

theorem foldl_fenceStints_ends (f : Stint → Bool) (s : State) (p : Nat) (hp : p < 64) (e : Nat × Run) (he : e ∈ (s.pol p).running)
    (hf : s.schedStint e.2.m.schedule f = true) :
    (((List.range 64).foldl (State.fenceStints f) s).pol p).isRunning e.1 = false := by
  refine foldl_nodup_reaches _ (fun u => u.bare = s.bare ∧ (u.pol p).running = (s.pol p).running)
    (fun u : State => (u.pol p).isRunning e.1 = false) p _ List.nodup_range (List.mem_range.2 hp) ?_ ?_ ?_ s ⟨rfl, rfl⟩
  · rintro u q hq ⟨hb, hr⟩
    exact ⟨(State.fenceStints_bare f u q).trans hb, (State.fenceStints_running_other f u q p (Ne.symm hq)).trans hr⟩
  · rintro u ⟨hb, hr⟩
    exact State.fenceStints_ends f u p e (by rw [hr]; exact he) (by rw [State.schedStint_congr hb]; exact hf)
  · intro u q hq hu
    rw [Polder.isRunning, State.fenceStints_running_other f u q p (Ne.symm hq)]
    exact hu

theorem bundleDead_fences_stints (s : State) (b : Nat) (hb : 2048 ≤ b) (hb' : b < 2080) (hst : (s.bundle b).state = 1) :
    completes (.bundleDead b) s fun t => (t.bundle b).state = 3
      ∧ ∀ p, p < 64 → ∀ e ∈ (s.pol p).running, (s.schedStint e.2.m.schedule fun x => stintOnBundle x b) = true →
          (t.pol p).isRunning e.1 = false := by
  refine completes_of_exec (t := (List.range 64).foldl (State.fenceStints fun x => stintOnBundle x b) (s.deadBundle b)) ?_ ⟨?_, ?_⟩
  · rw [exec_bundleDead s b (by omega) hst, if_neg (by omega), if_neg (by omega)]
    rfl
  · have hbare : ((List.range 64).foldl (State.fenceStints fun x => stintOnBundle x b) (s.deadBundle b)).bare = (s.deadBundle b).bare :=
      foldl_bare _ (fun u p => State.fenceStints_bare _ u p) _ _
    rw [State.bundle_of_works (State.works_of_bare hbare)]
    exact s.bundle_deadBundle b
  · intro p hp e he hf
    exact foldl_fenceStints_ends (fun x => stintOnBundle x b) (s.deadBundle b) p hp e he hf

/-! ## Bad memory (R204) -/

/-- The event of a struck sector of Common Stock. -/
def State.tellStock (s : State) (stock : Option (Nat × Nat)) (src dpa : Nat) : State :=
  match stock with
  | some (_, port) => s.raise .stockPoisoned src (supervisorOf port) (supervisorOf port) (leBytes 8 dpa)
  | none => s

theorem State.tellStock_tells (s : State) (stock : Option (Nat × Nat)) (src dpa : Nat) :
    (∃ c, s.tellStock stock src dpa = { s with crier := c })
      ∧ (stock ≠ none → ∃ x ∈ (s.tellStock stock src dpa).crier.band, x.code = .stockPoisoned) := by
  cases stock with
  | none => exact ⟨⟨s.crier, rfl⟩, fun h => absurd rfl h⟩
  | some x => exact ⟨⟨_, rfl⟩, fun _ => ⟨_, List.mem_append_right _ (List.mem_singleton_self _), rfl⟩⟩

/-- What an error in a line's data strikes, and what it tells. -/
theorem exec_memoryUe (s : State) (level : Nat) (d : Die) (line : Nat) (sectors : BitVec 8) (hl : level ≤ 2) (hs : sectors ≠ 0)
    (hr : (s.region (line * 1024)).isMem = true) :
    ∃ t, exec (.memoryUe level d line sectors) s = .next t
      ∧ (∃ c, t = { s.strike (if (s.stockAt (line * 1024)).isSome then 2 else level) d.val line sectors with crier := c })
      ∧ (∃ l e, t.crier.band = l ++ [e] ∧ e.code = .memoryUe ∧ e.source = srcKeel (homeOf line)
        ∧ (s.stockAt (line * 1024) ≠ none → ∃ x ∈ l, x.code = .stockPoisoned)) := by
  show ∃ t, execMemoryUe level d line sectors s = .next t ∧ _
  unfold execMemoryUe
  have hs' : ¬sectors = 0#8 := hs
  rw [if_neg (by simp [hs', hr, hl])]
  extract_lets stock s1 src dpa s2 detail
  have h2 : (∃ c, s2 = { s1 with crier := c }) ∧ (stock ≠ none → ∃ x ∈ s2.crier.band, x.code = .stockPoisoned) :=
    s1.tellStock_tells stock src dpa
  obtain ⟨⟨c, hc⟩, htold⟩ := h2
  clear_value s2
  refine ⟨_, rfl, ?_, ?_⟩
  · split
    · exact ⟨_, by rw [hc]; rfl⟩
    · exact ⟨_, by rw [hc]; rfl⟩
  · split
    · exact ⟨s2.crier.band, _, rfl, rfl, rfl, htold⟩
    · refine ⟨_, _, rfl, rfl, rfl, fun h => ?_⟩
      obtain ⟨x, hx, hxc⟩ := htold h
      exact ⟨x, List.mem_append_left _ hx, hxc⟩

theorem State.strike_mem (s : State) (level d line : Nat) (sectors : BitVec 8) : (s.strike level d line sectors).mem = s.mem := by
  unfold State.strike
  split
  · rfl
  · split <;> rfl
  · rfl

/-- The home's copy in HBM or the tier region. -/
theorem State.strike_home (s : State) (level d line : Nat) (sectors : BitVec 8) (h : level = 2 ∨ (level = 1 ∧ s.granFind line = none)) :
    s.strike level d line sectors = s.updMark line fun m => { m with poison := m.poison ||| sectors } := by
  rcases h with rfl | ⟨rfl, hg⟩
  · rfl
  · unfold State.strike
    rw [hg]
    rfl

theorem memoryUe_poisons (s : State) (level : Nat) (d : Die) (line : Nat) (sectors : BitVec 8) (hl : level ≤ 2) (hs : sectors ≠ 0)
    (hr : (s.region (line * 1024)).isMem = true) : completes (.memoryUe level d line sectors) s fun t =>
      t.mem = s.mem ∧ (∃ l e, t.crier.band = l ++ [e] ∧ e.code = .memoryUe ∧ e.source = srcKeel (homeOf line))
        ∧ (level = 2 ∨ s.stockAt (line * 1024) ≠ none ∨ (level = 1 ∧ s.granFind line = none) →
          (t.mark line).poison = (s.mark line).poison ||| sectors ∧ t.gran = s.gran ∧ t.bins = s.bins)
        ∧ (s.stockAt (line * 1024) ≠ none → ∃ e ∈ t.crier.band, e.code = .stockPoisoned)
        ∧ (s.stockAt (line * 1024) = none →
          (∀ key g, level = 1 → s.granFind line = some (key, g) → t.bins = s.bins ∧ t.marks = s.marks
            ∧ t.gran.get {} key = { g with poison := g.poison ||| (sectors &&& g.present) })
          ∧ (level = 0 → t.gran = s.gran ∧ t.marks = s.marks ∧ t.bins = s.bins.map fun e =>
            if e.1 / 2 ^ 17 = d.val ∧ e.2.st ≠ .i ∧ e.2.line = line then
              (e.1, { e.2 with poison := e.2.poison ||| (sectors &&& e.2.valid) }) else e)) := by
  obtain ⟨t, hx, ⟨c, ht⟩, l, e, hband, hcode, hsrc, hstock⟩ := exec_memoryUe s level d line sectors hl hs hr
  refine completes_of_exec hx ⟨?_, ⟨l, e, hband, hcode, hsrc⟩, fun h => ?_, fun h => ?_, fun h => ⟨?_, ?_⟩⟩
  · rw [ht]
    exact State.strike_mem _ _ _ _ _
  · rw [State.strike_home s _ d.val line sectors ?_] at ht
    · have hm := State.mark_updMark s line fun m => { m with poison := m.poison ||| sectors }
      rw [ht]
      exact ⟨congrArg Mark.poison hm, rfl, rfl⟩
    · cases hk : (s.stockAt (line * 1024)) with
      | some x => exact .inl rfl
      | none => simpa [hk] using h
  · obtain ⟨x, hx, hxc⟩ := hstock h
    rw [hband]
    exact ⟨x, List.mem_append_left _ hx, hxc⟩
  · rintro key g rfl hg
    have hst : s.strike 1 d.val line sectors = s.setGran key { g with poison := g.poison ||| (sectors &&& g.present) } := by
      unfold State.strike
      rw [hg]
      rfl
    rw [h] at ht
    rw [ht]
    dsimp only [Option.isSome]
    rw [if_neg (by decide), hst]
    exact ⟨rfl, rfl, SMap.get_set_same _ _ _ _⟩
  · rintro rfl
    rw [h] at ht
    rw [ht]
    refine ⟨rfl, rfl, List.map_congr_left fun x _ => ?_⟩
    simp only [Bool.and_eq_true, decide_eq_true_eq, and_assoc]

/-! ## The return of a die (R357) -/

theorem State.nv_of_works {s t : State} (h : t.works = s.works) : t.nv = s.nv :=
  (congrArg (fun w : Works => w.rest.nv) h : t.works.rest.nv = s.works.rest.nv)

theorem State.fenceDie_after (s : State) (d cause : Nat) :
    ((s.fenceDie d cause).mill d).fenced = true ∧ (∀ k, ((s.fenceDie d cause).keel k).fenced = (s.keel k).fenced)
      ∧ (s.fenceDie d cause).nv = s.nv := by
  cases h : (s.mill d).fenced with
  | true =>
    have he : s.fenceDie d cause = s.stayFenced d := by
      unfold State.fenceDie
      rw [if_pos h]
    have hm : (s.stayFenced d).mill d = { s.mill d with returning := none, resetBusy := false } := State.mill_updMill ..
    rw [he]
    refine ⟨?_, fun _ => rfl, rfl⟩
    rw [hm]
    exact h
  | false =>
    have hw := s.fenceDie_works d cause h
    exact ⟨(s.fenceDie_fences d cause h).1, fun k => (State.keelFenced_of_works hw k :), (State.nv_of_works hw :)⟩

theorem State.steer_congr {s t : State} (h : t.nv = s.nv) : t.steer = s.steer := by
  funext f
  rw [State.steer, State.steer, h]

/-- Bundles as the test of a die leaves them: nothing else is touched. -/
theorem foldl_updBundle_keeps {α : Type} (f : State → α → State) (hf : ∀ s a, (f s a) = { s with bundles := (f s a).bundles }) (l : List α)
    (s : State) : l.foldl f s = { s with bundles := (l.foldl f s).bundles } := by
  induction l generalizing s with
  | nil => rfl
  | cons a l ih =>
    rw [List.foldl_cons, ih (f s a)]
    rw [hf s a]

theorem exec_millReset (s : State) (d : Die) (a : RegAcc) (port : Nat) (clockOk : Bool) (faults : List LaneFault)
    (hw : s.pfWrites a (offMillCtl d.val) = some port) (h0 : a.bit 0 = true) :
    exec (.millReset d a clockOk faults) s = .next (s.millReset d.val port clockOk faults) := by
  show execMillReset d a clockOk faults s = _
  unfold execMillReset
  rw [hw]
  dsimp only
  rw [if_pos h0]

section
variable (s : State) (d port : Nat) (hr : (s.mill d).resetBusy = false) (hp : ∀ p, s.polUsesDie p d = true → (s.pol p).port = port)
include hr hp

theorem State.millReset_owned : ¬((s.mill d).resetBusy || !(((List.range 64).filter fun p => s.polUsesDie p d).all fun p => (s.pol p).port = port)) = true := by
  have hall : (((List.range 64).filter fun p => s.polUsesDie p d).all fun p => (s.pol p).port = port) = true :=
    List.all_eq_true.2 fun p hpm => decide_eq_true (hp p (List.mem_filter.1 hpm).2)
  rw [hr, hall]
  decide

theorem State.millReset_noClock (clockOk : Bool) (faults : List LaneFault) (h : clockOk = false ∨ (s.keel (d / 2)).fenced = true) :
    s.millReset d port clockOk faults = (s.fenceDie d 4).updMill d fun c => { c with status := 2 } := by
  have hk := (s.fenceDie_after d 4).2.1 (d / 2)
  unfold State.millReset
  extract_lets users s1 mine
  rw [if_neg (s.millReset_owned d port hr hp), if_pos]
  rcases h with h | h
  · simp [h]
  · simp [s1, hk, h]

/-- The bundles of a die as its test leaves them. -/
def State.testBundles (s : State) (d : Nat) (mine : List LaneFault) : State :=
  (List.range 256).foldl (fun s k =>
    if mine.any fun f => f.bundle = 256 * d + k then s
    else s.updBundle (256 * d + k) fun c => { c with chosen := 0, state := 1, failRun := 0 })
    (mine.foldl (fun s f => s.updBundle f.bundle fun c => { c with chosen := (s.steer f).getD 0, state := if (s.steer f).isSome then 1 else 2 }) s)

omit hr hp in
theorem State.testBundles_keeps (mine : List LaneFault) : (s.testBundles d mine).mills = s.mills ∧ (s.testBundles d mine).fences = s.fences
    ∧ (s.testBundles d mine).nv = s.nv := by
  have hk : ∀ {β : Type} (proj : State → β), (∀ (u : State) b f, proj (u.updBundle b f) = proj u) → proj (s.testBundles d mine) = proj s := by
    intro β proj hproj
    unfold State.testBundles
    rw [foldl_keeps_proj proj _ (fun u k => by
      split
      · rfl
      · exact hproj _ _ _), foldl_keeps_proj proj _ (fun u f => hproj _ _ _)]
  exact ⟨hk _ fun _ _ _ => rfl, hk _ fun _ _ _ => rfl, hk _ fun _ _ _ => rfl⟩

/-- A bundle that cannot be steered keeps its die out of service. -/
theorem State.millReset_unusable (faults : List LaneFault) (hk : (s.keel (d / 2)).fenced = false) (f : LaneFault) (hf : f ∈ faults)
    (hb : f.bundle < 2048) (hbd : f.bundle / 256 = d) (hst : s.steer f = none) :
    ((s.millReset d port true faults).mill d).status = 3 ∧ ((s.millReset d port true faults).mill d).fenced = true := by
  obtain ⟨hm, hk', hnv⟩ := s.fenceDie_after d 4
  unfold State.millReset
  extract_lets users s1 mine s2 s3
  obtain ⟨h3m, -, h3n⟩ := s1.testBundles_keeps d mine
  have h3 : s3 = s1.testBundles d mine := rfl
  clear_value s3
  have hany : (mine.any fun f => (s3.steer f).isNone) = true := by
    refine List.any_eq_true.2 ⟨f, List.mem_filter.2 ⟨hf, by simp [hb, hbd]⟩, ?_⟩
    rw [State.steer_congr (s := s) (by rw [h3, h3n, hnv]), hst]
    rfl
  rw [if_neg (s.millReset_owned d port hr hp), if_neg (by simp [s1, hk', hk]), if_pos hany, State.mill_updMill]
  refine ⟨rfl, ?_⟩
  rw [State.mill, h3, h3m]
  exact hm

/-- A die whose bundles are good waits for the next tide boundary. -/
theorem State.millReset_returns (hk : (s.keel (d / 2)).fenced = false) :
    ∃ u : State, u.mill d = (s.fenceDie d 4).mill d ∧ u.fences = (s.fenceDie d 4).fences ∧ ∃ f : MillSt → MillSt,
      s.millReset d port true [] = u.updMill d f ∧ ∀ c, (f c).resetBusy = true ∧ (f c).fenced = c.fenced ∧ (f c).returning = some 0 := by
  obtain ⟨hm, hk', hnv⟩ := s.fenceDie_after d 4
  unfold State.millReset
  extract_lets users s1 mine s2 s3 chosen set s4
  obtain ⟨h3m, h3f, -⟩ := s1.testBundles_keeps d mine
  have h3 : s3 = s1.testBundles d mine := rfl
  rw [← h3] at h3m h3f
  clear_value s3
  have h4 : s4.mills = s3.mills ∧ s4.fences = s3.fences := ⟨rfl, rfl⟩
  rw [if_neg (s.millReset_owned d port hr hp), if_neg (by simp [s1, hk', hk]), if_neg (by simp [mine])]
  refine ⟨s4, ?_, h4.2.trans h3f, _, rfl, fun c => ⟨rfl, rfl, rfl⟩⟩
  rw [State.mill, h4.1, h3m]
  rfl

end

theorem millReset_resets (s : State) (d : Die) (a : RegAcc) (port : Nat) (hw : s.pfWrites a (offMillCtl d.val) = some port) (h0 : a.bit 0 = true)
    (hr : (s.mill d.val).resetBusy = false) (hp : ∀ p, s.polUsesDie p d.val = true → (s.pol p).port = port) :
    ((s.keel (d.val / 2)).fenced = false → completes (.millReset d a true []) s fun t =>
        (t.mill d.val).resetBusy = true ∧ (t.mill d.val).fenced = true ∧ (t.mill d.val).returning = some 0
          ∧ ((s.mill d.val).fenced = false → (t.fence (5 + d.val)).cause = 4)) ∧
      ∀ faults,
        (∀ clockOk, clockOk = false ∨ (s.keel (d.val / 2)).fenced = true → completes (.millReset d a clockOk faults) s fun t =>
          (t.mill d.val).status = 2 ∧ (t.mill d.val).fenced = true) ∧
        (∀ f ∈ faults, (s.keel (d.val / 2)).fenced = false → f.bundle < 2048 → f.bundle / 256 = d.val → s.steer f = none →
          completes (.millReset d a true faults) s fun t => (t.mill d.val).status = 3 ∧ (t.mill d.val).fenced = true) := by
  have hafter := (s.fenceDie_after d.val 4).1
  refine ⟨fun hk => ?_, fun faults => ⟨fun clockOk h => ?_, fun f hf hk hb hbd hst => ?_⟩⟩
  · obtain ⟨u, hum, huf, f, hx, hfc⟩ := s.millReset_returns d.val port hr hp hk
    obtain ⟨h1, h2, h3⟩ := hfc (u.mill d.val)
    refine completes_of_exec (exec_millReset s d a port true [] hw h0) ?_
    rw [hx, State.mill_updMill]
    refine ⟨h1, ?_, h3, fun hm => ?_⟩
    · rw [h2, hum, hafter]
    · show (SMap.get {} u.fences _).cause = 4
      rw [huf]
      exact (s.fenceDie_fences d.val 4 hm).2.1
  · refine completes_of_exec (exec_millReset s d a port clockOk faults hw h0) ?_
    rw [s.millReset_noClock d.val port hr hp clockOk faults h, State.mill_updMill]
    exact ⟨rfl, hafter⟩
  · exact completes_of_exec (exec_millReset s d a port true faults hw h0)
      (s.millReset_unusable d.val port hr hp faults hk f hf hb hbd hst)

theorem dieReturned_returns (s : State) (d : Die) (n : Nat) (h : (s.mill d.val).returning = some n) (hb : s.tide.boundary = some s.alm.now) :
    completes (.dieReturned d) s fun t =>
      (t.mill d.val).fenced = false ∧ (t.mill d.val).resetBusy = false ∧ (t.fence (5 + d.val)).fenced = false
        ∧ ∃ x y, t.crier.band = s.crier.band ++ [x, y] ∧ x.code = .dieReturned ∧ y.code = .dieReturned ∧ t.mem = s.mem := by
  show ∃ t, execDieReturned d s = .next t ∧ _
  unfold execDieReturned
  rw [h]
  dsimp -zeta only
  rw [if_neg (by simp [hb])]
  extract_lets s1 s2 s3
  have hm : s1.mill d.val = { s.mill d.val with fenced := false, resetBusy := false, returning := none, status := 0 } :=
    State.mill_updMill s d.val fun c => { c with fenced := false, resetBusy := false, returning := none, status := 0 }
  have hf : s2.fence (5 + d.val) = { s1.fence (5 + d.val) with fenced := false } :=
    State.fence_updFence s1 (5 + d.val) fun f => { f with fenced := false }
  have hc : s3.crier = s.crier := rfl
  have hmem : s3.mem = s.mem := rfl
  have hm3 : s3.mill d.val = s1.mill d.val := rfl
  have hf3 : s3.fence (5 + d.val) = s2.fence (5 + d.val) := rfl
  rw [← hm3] at hm
  rw [← hf3] at hf
  clear_value s3
  have hband := State.raiseBoth_band s3 .dieReturned (srcDie (5 + d.val)) (leBytes 1 (5 + d.val) ++ leBytes 1 (min 255 n))
  rw [hc] at hband
  refine ⟨_, rfl, ?_, ?_, ?_, _, _, hband, rfl, rfl, hmem⟩
  · exact (congrArg MillSt.fenced hm :)
  · exact (congrArg MillSt.resetBusy hm :)
  · exact (congrArg FenceSt.fenced hf :)

/-! ## All of them -/

/-- Settles O58: each event and each fence does what its rule says. -/
theorem eventsReachBooksAndFencesHold : Obligations.EventsReachBooksAndFencesHold := by
  unfold Obligations.EventsReachBooksAndFencesHold
  refine ⟨fun s ev rest hb => eventEdge_acts s ev rest hb, sluiceRelease_latches, daybookRecordWrite_writes, daybookEnable_enables,
    fun s p cls sup hsup hp => ⟨daybookOverflow_reports s p cls sup hsup hp, polderFenced_fences s p cls sup hsup hp⟩,
    fun s d hs h => ⟨millClockLoss_fences s d hs h, uncorrectableError_fences_die s d hs h, bundleDead_fences_die s d h⟩,
    fun s b hb hst => ⟨fun hb' => bundleDead_fences_stints s b hb hb' hst, fun hb' hb'' h => bundleDead_fences_keel s b hb' hb'' hst h⟩,
    fun s k join hs h hj => ⟨forwardingPathLoss_fences s k join hs h hj, uncorrectableError_fences_keel s k hs h⟩,
    memoryUe_poisons, fun s d a port hw h0 hr hp => millReset_resets s d a port hw h0 hr hp, dieReturned_returns⟩

end Sys2Proof.Machine
end

section
/-! Power and heat (chapter 17): the caps, the common level, thermal ceilings, voltage steps, droop. -/

namespace Sys2Proof.Machine

open Sys2Proof

/-! ## What new levels leave of the power registers -/

/-- A die's power without the ages of R372's conditions. -/
def DiePower.steady (p : DiePower) : DiePower := { p with lowSince := none, highSince := none }

/-- The power registers, and each die's. -/
def State.volt (s : State) : Power × (Nat → DiePower) := ({ s.pwr with dies := [] }, fun d => (s.diePower d).steady)

theorem State.updDiePower_volt (s : State) (d : Nat) (f : DiePower → DiePower) (hf : (f (s.diePower d)).steady = (s.diePower d).steady) :
    (s.updDiePower d f).volt = s.volt := by
  refine Prod.ext rfl (funext fun j => ?_)
  by_cases h : j = d
  · show ((s.updDiePower d f).diePower j).steady = (s.diePower j).steady
    rw [h, State.diePower_updDiePower, hf]
  · show ((s.updDiePower d f).diePower j).steady = (s.diePower j).steady
    rw [State.diePower_updDiePower_other _ _ _ _ h]

theorem State.watchSteps_volt (s : State) : s.watchSteps.volt = s.volt :=
  foldl_keeps_proj State.volt _ (fun u d => State.updDiePower_volt u d _ rfl) _ _

theorem State.reweir_volt (s : State) : s.reweir.volt = s.volt := by
  have hm : ∀ u : State, ((List.range 8).foldl (fun s d => s.updMill d fun c => { c with weirNext := s.wantLevel d }) u).volt = u.volt := fun u =>
    foldl_keeps_proj State.volt (fun (s : State) d => s.updMill d fun c => { c with weirNext := s.wantLevel d }) (fun _ _ => rfl) _ _
  have hl : ∀ u : State, u.latchStatus.volt = u.volt := fun _ => rfl
  unfold State.reweir
  rw [hl, State.watchSteps_volt, hm]

section
variable {s t : State} (h : t.volt = s.volt)
include h

theorem State.pwr_of_volt : { t.pwr with dies := [] } = { s.pwr with dies := [] } := congrArg Prod.fst h
theorem State.steady_of_volt (d : Nat) : (t.diePower d).steady = (s.diePower d).steady := congrFun (congrArg Prod.snd h) d
theorem State.common_of_volt : t.pwr.common = s.pwr.common := (congrArg Power.common (State.pwr_of_volt h) :)
theorem State.heats_of_volt : t.pwr.heats = s.pwr.heats := (congrArg Power.heats (State.pwr_of_volt h) :)
theorem State.heat_of_volt (i : Nat) : t.heat i = s.heat i := by rw [State.heat, State.heats_of_volt h, State.heat]
theorem State.changing_of_volt (d : Nat) : (t.diePower d).changing = (s.diePower d).changing :=
  (congrArg DiePower.changing (State.steady_of_volt h d) :)
theorem State.step_of_volt (d : Nat) : (t.diePower d).step = (s.diePower d).step :=
  (congrArg DiePower.step (State.steady_of_volt h d) :)

end

theorem State.boot_of_sansPower {s t : State} (h : t.sansPower = s.sansPower) : t.boot = s.boot :=
  (congrArg State.boot h : t.sansPower.boot = s.sansPower.boot)

theorem State.ports_of_sansPower {s t : State} (h : t.sansPower = s.sansPower) : t.ports = s.ports :=
  (congrArg State.ports h : t.sansPower.ports = s.sansPower.ports)

theorem State.pols_of_sansPower {s t : State} (h : t.sansPower = s.sansPower) : t.pols = s.pols :=
  (congrArg State.pols h : t.sansPower.pols = s.sansPower.pols)

/-! ## The cap (R362, R363) -/

theorem State.checkSeal_form (s : State) : ∃ b l c, s.checkSeal = { s with pwr := { s.pwr with belowShares := b, lapsed := l }, crier := c } := by
  unfold State.checkSeal
  dsimp only
  split
  · exact ⟨s.pwr.belowShares, s.pwr.lapsed, s.crier, rfl⟩
  · exact ⟨_, true, _, rfl⟩

theorem State.recap_form (s : State) :
    ∃ n f b l c, s.recap = { s with pwr := { s.pwr with inForce := n, forced := f, belowShares := b, lapsed := l }, crier := c } := by
  unfold State.recap
  extract_lets c pw u
  have hu : ∃ n f e, u = { s with pwr := { s.pwr with inForce := n, forced := f }, crier := e } := by
    simp only [u]
    split
    · exact ⟨s.pwr.inForce, s.pwr.forced, s.crier, rfl⟩
    · exact ⟨_, _, _, rfl⟩
  obtain ⟨n, f, e, hu⟩ := hu
  obtain ⟨b, l, k, hk⟩ := u.checkSeal_form
  refine ⟨n, f, b, l, k, ?_⟩
  rw [hk, hu]

theorem State.setVolts_form (s : State) (volts : Nat) :
    ∃ i a n f b l c m, s.setVolts volts =
      { s with
        pwr := { s.pwr with
          volts := volts, inSince := i, rangeRaised := s.pwr.rangeRaised && a, inForce := n, forced := f, belowShares := b, lapsed := l }
        crier := c, pmbus := m } := by
  unfold State.setVolts
  extract_lets inside since armed pw u
  split
  · obtain ⟨n, f, b, l, c, hr⟩ := u.recap_form
    refine ⟨since, !armed, n, f, b, l, c, u.recap.latchStatus.pmbus, ?_⟩
    generalize hm : u.recap.latchStatus.pmbus = m
    have hl : u.recap.latchStatus = { u.recap with pmbus := u.recap.latchStatus.pmbus } := rfl
    rw [hl, hm, hr]
  · exact ⟨since, !armed, s.pwr.inForce, s.pwr.forced, s.pwr.belowShares, s.pwr.lapsed, s.crier, s.pmbus, rfl⟩

/-! ## Samples (R370) -/

/-- The state that a sample leaves before L moves. -/
def State.sampled (s : State) (volts amps : Nat) : State :=
  let u := s.setVolts volts
  let w := volts * amps / 100
  let low := 100 * w ≤ 95 * u.pwr.inForce
  let above := u.pwr.inForce < w
  ({ u with pwr := { u.pwr with
      amps := amps, watts := w, aboveCap := above
      aboveSince := sinceWhen above u.clock u.pwr.aboveSince
      below95Since := sinceWhen low u.clock u.pwr.below95Since
      raisedAt := if low then u.pwr.raisedAt else none, forced := u.pwr.forced && above } } : State).latchStatus

/-- What a sample reads, whatever it does to L. -/
def State.reads (s t : State) (volts amps : Nat) : Prop :=
  t.pwr.volts = volts ∧ t.pwr.amps = amps ∧ t.pwr.watts = volts * amps / 100 ∧ t.pwr.inForce = (s.setVolts volts).pwr.inForce ∧ t.mem = s.mem

theorem State.sampled_reads (s : State) (volts amps : Nat) :
    s.reads (s.sampled volts amps) volts amps ∧ (s.sampled volts amps).pwr.common = s.pwr.common
      ∧ (s.sampled volts amps).mills = s.mills ∧ (s.sampled volts amps).img = s.img ∧ (s.sampled volts amps).clock = s.clock := by
  obtain ⟨i, a, n, f, b, l, c, m, hu⟩ := s.setVolts_form volts
  unfold State.sampled State.reads
  rw [hu]
  exact ⟨⟨rfl, rfl, rfl, rfl, rfl⟩, rfl, rfl, rfl, rfl⟩

theorem State.reads_of_volt {s t u : State} {volts amps : Nat} (h : s.reads t volts amps) (hv : u.volt = t.volt) (hm : u.mem = t.mem) :
    s.reads u volts amps := by
  obtain ⟨h1, h2, h3, h4, h5⟩ := h
  have hp := State.pwr_of_volt hv
  exact ⟨(congrArg Power.volts hp :).trans h1, (congrArg Power.amps hp :).trans h2, (congrArg Power.watts hp :).trans h3,
    (congrArg Power.inForce hp :).trans h4, hm.trans h5⟩

theorem State.lowerL_reads {s t : State} {volts amps : Nat} (h : s.reads t volts amps) (others : Nat) : s.reads (t.lowerL others) volts amps :=
  State.reads_of_volt (t := { t with pwr := { t.pwr with common := _, forced := true } }) h (State.reweir_volt _) (State.mem_reweir _)

theorem State.raiseL_reads {s t : State} {volts amps : Nat} (h : s.reads t volts amps) : s.reads t.raiseL volts amps :=
  State.reads_of_volt (t := { t with pwr := { t.pwr with common := min 64 (t.pwr.common + 4), raisedAt := some t.clock } }) h
    (State.reweir_volt _) (State.mem_reweir _)

theorem State.raiseL_common (t : State) : t.raiseL.pwr.common = min 64 (t.pwr.common + 4) :=
  State.common_of_volt (State.reweir_volt ({ t with pwr := { t.pwr with common := min 64 (t.pwr.common + 4), raisedAt := some t.clock } } : State))

theorem State.lowerL_common (t : State) (others : Nat) (h : 1 < t.pwr.common) :
    1 ≤ (t.lowerL others).pwr.common ∧ (t.lowerL others).pwr.common < t.pwr.common := by
  obtain ⟨fit, hfit⟩ : ∃ fit, fit = (List.range t.pwr.common).reverse.find? fun l => l ≠ 0 && t.drawAt others l ≤ 1000 * t.pwr.inForce :=
    ⟨_, rfl⟩
  have hc : (t.lowerL others).pwr.common = fit.getD 1 := by
    unfold State.lowerL
    rw [State.common_of_volt (State.reweir_volt _), hfit]
  rw [hc]
  cases fit with
  | none => exact ⟨le_refl 1, h⟩
  | some l =>
    have hm := List.mem_of_find?_eq_some hfit.symm
    have hl := List.find?_some hfit.symm
    simp only [List.mem_reverse, List.mem_range] at hm
    simp only [ne_eq, Bool.and_eq_true, decide_eq_true_eq, decide_not, Bool.not_eq_true', decide_eq_false_iff_not] at hl
    exact ⟨Nat.one_le_iff_ne_zero.2 hl.1, hm⟩

/-- L is lowered by a sample (R370). -/
def State.mustLower (t : State) (w cap : Nat) : Bool :=
  let over800 := match t.pwr.aboveSince with
    | some a => t.passed a 800000
    | none => false
  decide (cap < w) && (!t.sealed || cap < t.sharesTotal) && 1 < t.pwr.common && (t.pwr.forced || 5 * cap < 4 * w || 6000 < w || over800)

/-- L is raised by a sample (R370). -/
def State.mayRaise (t : State) (w cap : Nat) : Bool :=
  let due := match t.pwr.raisedAt, t.pwr.below95Since with
    | some a, _ => t.passed a 16000
    | none, some a => t.passed a 64000
    | none, none => false
  decide (100 * w ≤ 95 * cap) && due && t.pwr.common < 64

/-- What a sample does with L. -/
def State.regulated (t : State) (w cap : Nat) (mills : List Nat) : State :=
  if t.mustLower w cap then t.lowerL (1000 * w - mills.sum) else if t.mayRaise w cap then t.raiseL else t

theorem exec_powerSample (s : State) (volts amps : Nat) (mills : List Nat) (hp : s.boot.powered = true) :
    exec (.powerSample volts amps mills) s =
      .next ((s.sampled volts amps).regulated (volts * amps / 100) (s.setVolts volts).pwr.inForce mills) := by
  show execPowerSample volts amps mills s = _
  unfold execPowerSample
  rw [if_neg (by simp [hp])]
  rfl

theorem powerSample_reads (s : State) (volts amps : Nat) (mills : List Nat) (hp : s.boot.powered = true) :
    completes (.powerSample volts amps mills) s fun t =>
      t.pwr.volts = volts ∧ t.pwr.amps = amps ∧ t.pwr.watts = volts * amps / 100 ∧ t.pwr.inForce = (s.setVolts volts).pwr.inForce ∧ t.mem = s.mem := by
  have hr := (s.sampled_reads volts amps).1
  refine completes_of_exec (exec_powerSample s volts amps mills hp) ?_
  unfold State.regulated
  split
  · exact State.lowerL_reads hr _
  split
  · exact State.raiseL_reads hr
  · exact hr

theorem powerSample_steady (s : State) (volts amps : Nat) (mills : List Nat) (hp : s.boot.powered = true)
    (h1 : volts * amps / 100 ≤ (s.setVolts volts).pwr.inForce) (h2 : 95 * (s.setVolts volts).pwr.inForce < 100 * (volts * amps / 100)) :
    completes (.powerSample volts amps mills) s fun t => t.pwr.common = s.pwr.common ∧ t.mills = s.mills := by
  obtain ⟨-, hc, hm, -⟩ := s.sampled_reads volts amps
  refine completes_of_exec (exec_powerSample s volts amps mills hp) ?_
  rw [State.regulated, if_neg (by simp [State.mustLower, Nat.not_lt.2 h1]), if_neg (by simp [State.mayRaise, Nat.not_le.2 h2])]
  exact ⟨hc, hm⟩

theorem powerSample_lowers (s : State) (volts amps : Nat) (mills : List Nat) (hp : s.boot.powered = true)
    (h1 : (s.setVolts volts).pwr.inForce < volts * amps / 100) (h2 : 5 * (s.setVolts volts).pwr.inForce < 4 * (volts * amps / 100))
    (hs : s.sealed = false) (hl : 1 < s.pwr.common) :
    completes (.powerSample volts amps mills) s fun t => 1 ≤ t.pwr.common ∧ t.pwr.common < s.pwr.common := by
  obtain ⟨-, hc, -, hi, -⟩ := s.sampled_reads volts amps
  have hsl : (s.sampled volts amps).sealed = false := by
    rw [State.sealed, State.charter_congr hi]
    exact hs
  refine completes_of_exec (exec_powerSample s volts amps mills hp) ?_
  rw [State.regulated, if_pos (by simp [State.mustLower, h1, h2, hsl, hc, hl]), ← hc]
  exact State.lowerL_common _ _ (by rw [hc]; exact hl)

/-- A raise that is due. -/
theorem powerSample_raises (s : State) (volts amps : Nat) (mills : List Nat) (hp : s.boot.powered = true)
    (h : 100 * (volts * amps / 100) ≤ 95 * (s.setVolts volts).pwr.inForce) (hl : s.pwr.common < 64)
    (hdue : (∃ a, s.pwr.raisedAt = some a ∧ s.passed a 16000 = true)
      ∨ (s.pwr.raisedAt = none ∧ ∃ a, s.pwr.below95Since = some a ∧ s.passed a 64000 = true)) :
    completes (.powerSample volts amps mills) s fun t => t.pwr.common = min 64 (s.pwr.common + 4) := by
  obtain ⟨-, hc, -, -, hclk⟩ := s.sampled_reads volts amps
  have hpass : ∀ a n, (s.sampled volts amps).passed a n = s.passed a n := fun a n => by rw [State.passed, hclk, State.passed]
  have hraised : (s.sampled volts amps).pwr.raisedAt = s.pwr.raisedAt := by
    obtain ⟨i, a, n, f, b, l, c, m, hu⟩ := s.setVolts_form volts
    unfold State.sampled
    rw [hu] at h ⊢
    exact if_pos h
  have hbelow : ∀ a, s.pwr.below95Since = some a → (s.sampled volts amps).pwr.below95Since = some a := by
    intro x hx
    obtain ⟨i, a, n, f, b, l, c, m, hu⟩ := s.setVolts_form volts
    unfold State.sampled
    rw [hu] at h ⊢
    show sinceWhen (decide _) _ s.pwr.below95Since = some x
    rw [decide_eq_true h, hx]
    rfl
  refine completes_of_exec (exec_powerSample s volts amps mills hp) ?_
  have hle : ¬(s.setVolts volts).pwr.inForce < volts * amps / 100 := by omega
  rw [State.regulated, if_neg (by simp [State.mustLower, hle]), if_pos, State.raiseL_common, hc]
  unfold State.mayRaise
  rw [hraised, hc]
  rcases hdue with ⟨a, ha, hpa⟩ | ⟨hn, a, ha, hpa⟩
  · simp [ha, hpass, hpa, h, hl]
  · simp [hn, hbelow a ha, hpass, hpa, h, hl]

/-! ## The input (R362) -/

theorem take_slice_head (l m : List Byte) (n : Nat) (h : l.length = n) (hn : n ≤ 16) : (slice (l ++ m) 0 16).take n = l := by
  unfold slice
  dsimp only
  have h16 : (l ++ m).take 16 = l ++ m.take (16 - l.length) := by rw [List.take_append, List.take_of_length_le (by omega)]
  rw [List.drop_zero, h16, List.append_assoc, List.take_left' h]

theorem inputRange_raises (s : State) (volts : Nat) (hp : s.boot.powered = true) (hr : s.pwr.rangeRaised = false)
    (hv : ¬(440 ≤ volts ∧ volts ≤ 560)) :
    completes (.inputRange volts) s fun t =>
      t.pwr.volts = volts ∧ t.pwr.rangeRaised = true ∧ ∃ l x y, t.crier.band = l ++ [x, y] ∧ x.code = .inputRange ∧ x.book = 0
        ∧ y.code = .inputRange ∧ y.book = 1 ∧ x.detail.take 2 = leBytes 2 volts := by
  show ∃ t, execInputRange volts s = .next t ∧ _
  unfold execInputRange
  extract_lets s1 s2 pw
  have h1 : s1.boot = s.boot ∧ s1.pwr.rangeRaised = false := by
    obtain ⟨i, a, n, f, b, l, c, m, hu⟩ := s.setVolts_form s.pwr.volts
    simp only [s1]
    rw [hu]
    refine ⟨rfl, ?_⟩
    simp [hr]
  have h2 : s2.boot = s.boot ∧ s2.pwr.rangeRaised = false ∧ s2.pwr.volts = volts := by
    obtain ⟨i, a, n, f, b, l, c, m, hu⟩ := s1.setVolts_form volts
    simp only [s2]
    rw [hu]
    refine ⟨h1.1, ?_, rfl⟩
    simp [h1.2]
  obtain ⟨hb, hrr, hvolts⟩ := h2
  rw [if_neg (by
    simp only [hb, hp, hrr, Bool.not_true, Bool.false_or, Bool.or_false, Bool.and_eq_true, decide_eq_true_eq]
    exact hv)]
  refine ⟨_, rfl, hvolts, rfl, s2.crier.band, _, _, State.raiseBoth_band _ _ _ _, rfl, rfl, rfl, rfl, ?_⟩
  have h := take_slice_head (leBytes 2 volts) [] 2 (leBytes_length 2 volts) (by omega)
  rwa [List.append_nil] at h

theorem inputPowerLoss_acts (s : State) (volts : Nat) :
    (400 ≤ volts → volts ≤ 600 → exec (.inputPowerLoss volts) s = .next s) ∧
      (volts < 400 ∨ 600 < volts → s.boot.powered = true → completes (.inputPowerLoss volts) s fun t =>
        t.boot.powered = false ∧ t.boot.stage0 = false ∧ t.mem = [] ∧ t.img = none ∧ t.nv = s.nv ∧ t.pwr.volts = volts) := by
  refine ⟨fun h1 h2 => ?_, fun h hp => ?_⟩
  · show execInputPowerLoss volts s = _
    unfold execInputPowerLoss
    rw [if_pos (by simp [h1, h2])]
  · refine completes_of_exec (t := ({ s with pwr := { s.pwr with volts := volts } } : State).powerOff) ?_ ⟨rfl, rfl, rfl, rfl, rfl, rfl⟩
    show execInputPowerLoss volts s = _
    unfold execInputPowerLoss
    rw [if_neg (by simp; omega)]
    exact congrArg Host.Outcome.next (if_pos hp)

/-! ## PWR_CAP (R363, R405) -/

theorem State.pwrCapWrite_locked (s : State) (port : Nat) (a : RegAcc) (h : (s.port port).capLock = true) : s.pwrCapWrite port a = s := by
  unfold State.pwrCapWrite
  exact if_pos h

/-- A write of LIMIT and LOCK. -/
def HostPort.capped (a : RegAcc) (limit : Nat) (q : HostPort) : HostPort := { q with capLimit := limit, capLock := a.bit 16 }

theorem State.recap_reweir_cap (s : State) : s.recap.reweir.ports = s.ports ∧ s.recap.reweir.pwr.dflt = s.pwr.dflt
    ∧ s.recap.reweir.mem = s.mem := by
  have hw := State.pwr_of_volt s.recap.reweir_volt
  have hd : s.recap.reweir.pwr.dflt = s.recap.pwr.dflt := (congrArg Power.dflt hw :)
  have hp : s.recap.reweir.ports = s.recap.ports := State.ports_of_sansPower s.recap.reweir_sansPower
  have hm : s.recap.reweir.mem = s.recap.mem := State.mem_reweir _
  rw [hd, hp, hm]
  obtain ⟨n, f, b, l, c, hr⟩ := s.recap_form
  rw [hr]
  exact ⟨rfl, rfl, rfl⟩

theorem State.pwrCapWrite_open (s : State) (port : Nat) (a : RegAcc) (h : (s.port port).capLock = false) :
    (s.pwrCapWrite port a).port port = (s.port port).capped a (a.fld 0 13 (s.port port).capLimit)
      ∧ (a.fld 0 13 (s.port port).capLimit ≠ 0 → a.hits 0 = true → (s.pwrCapWrite port a).pwr.dflt = false)
      ∧ (s.pwrCapWrite port a).mem = s.mem := by
  unfold State.pwrCapWrite
  extract_lets q limit s1 pw s2
  rw [if_neg (by simp [q, h])]
  obtain ⟨hp, hd, hm⟩ := s2.recap_reweir_cap
  have h1 : s1.port port = (s.port port).capped a limit := State.port_updPort s port (HostPort.capped a limit)
  have h2 : s2.ports = s1.ports ∧ s2.mem = s.mem := by
    simp only [s2]
    split <;> exact ⟨rfl, rfl⟩
  have h2d : limit ≠ 0 → a.hits 0 = true → s2.pwr.dflt = false := by
    intro hl hh
    cases hdf : s1.pwr.dflt with
    | true =>
      have hs2 : s2 = { s1 with
          pwr := { s1.pwr with dflt := false }
          pols := s1.pols.mapAll {} fun _ q => { q with running := q.running.map fun e => (e.1, s1.chargeHeld e.2) }
          mills := (List.range 8).foldl (fun m d => m.upd {} d fun c => { c with held := false }) s1.mills } :=
        if_pos (by simp [hl, hdf, hh])
      rw [hs2]
    | false =>
      have hs2 : s2 = s1 := if_neg (by simp [hdf])
      rw [hs2, hdf]
  refine ⟨?_, fun hl hh => ?_, hm.trans h2.2⟩
  · rw [State.port, hp, h2.1]
    exact h1
  · rw [hd, h2d hl hh]

theorem capWrites_act (s : State) (a : RegAcc) (port : Nat) (hw : s.pfWrites a offPwrCap = some port) :
    ((s.port port).capLock = true → exec (.capLimitWrite a) s = .next s ∧ exec (.pwrCapLock a) s = .next s) ∧
      ((s.port port).capLock = false → completes (.capLimitWrite a) s fun t =>
        (t.port port).capLimit = a.fld 0 13 (s.port port).capLimit ∧ (t.port port).capLock = a.bit 16
          ∧ (a.fld 0 13 (s.port port).capLimit ≠ 0 → a.hits 0 = true → t.pwr.dflt = false) ∧ t.mem = s.mem) ∧
      ((s.port port).capLock = false → a.bit 16 = true → completes (.pwrCapLock a) s fun t => (t.port port).capLock = true) := by
  have hx1 : exec (.capLimitWrite a) s = .next (s.pwrCapWrite port a) := by
    show execCapLimitWrite a s = _
    unfold execCapLimitWrite
    rw [hw]
  have hx2 : exec (.pwrCapLock a) s = .next (if a.bit 16 then s.pwrCapWrite port a else s) := by
    show execPwrCapLock a s = _
    unfold execPwrCapLock
    rw [hw]
  refine ⟨fun h => ⟨?_, ?_⟩, fun h => ?_, fun h hb => ?_⟩
  · rw [hx1, s.pwrCapWrite_locked port a h]
  · rw [hx2, s.pwrCapWrite_locked port a h, ite_self]
  · obtain ⟨h1, h2, h3⟩ := s.pwrCapWrite_open port a h
    refine completes_of_exec hx1 ⟨?_, ?_, h2, h3⟩ <;> rw [h1] <;> rfl
  · obtain ⟨h1, -⟩ := s.pwrCapWrite_open port a h
    refine completes_of_exec (hx2.trans (congrArg _ (if_pos hb))) ?_
    rw [h1]
    exact hb

/-! ## Heat (R375 to R377) -/

theorem State.ceilFalls_keeps (s : State) (i : Nat) :
    (s.ceilFalls i).heat i = { s.heat i with ceil := max 8 ((s.heat i).ceil - 8), stepAt := s.clock }
      ∧ (s.ceilFalls i).boot = s.boot ∧ (s.ceilFalls i).crier = s.crier := by
  unfold State.ceilFalls
  refine ⟨?_, ?_, ?_⟩
  · rw [State.heat_of_volt (State.reweir_volt _)]
    exact State.heat_updHeat s i fun h => { h with ceil := max 8 (h.ceil - 8), stepAt := s.clock }
  · rw [State.boot_of_sansPower (State.reweir_sansPower _)]
    rfl
  · rw [State.crier_reweir]
    rfl

/-- A reading below the trip point. -/
def DieHeat.read (i c : Nat) (h : DieHeat) : DieHeat :=
  { h with temp := c, peak := max h.peak c, hot := hotAt i ≤ c, cool := c ≤ coolAt i }

theorem exec_dieTempRead (s : State) (i : Fin 13) (c : Nat) (hs : s.boot.stage0 = true) (hc : c < 120) :
    exec (.dieTempRead i c) s = .next (
      if decide (hotAt i.val ≤ c) && !(s.heat i.val).hot then (s.updHeat i.val (DieHeat.read i.val c)).heatBegins i.val
      else s.updHeat i.val (DieHeat.read i.val c)) := by
  show execDieTempRead i c s = _
  unfold execDieTempRead
  rw [if_neg (by simp [hs]), if_neg (by omega)]
  rfl

theorem dieTempRead_trips (s : State) (i : Fin 13) (c : Nat) (hs : s.boot.stage0 = true) (hc : 120 ≤ c) :
    completes (.dieTempRead i c) s fun t =>
      t.boot.tripLow = true ∧ t.boot.powered = false ∧ t.boot.stage0 = false ∧ t.nv = s.nv := by
  refine completes_of_exec (t := s.trip) ?_ ⟨rfl, rfl, rfl, rfl⟩
  show execDieTempRead i c s = _
  unfold execDieTempRead
  rw [if_neg (by simp [hs]), if_pos hc]

theorem dieTempRead_reads (s : State) (i : Fin 13) (c : Nat) (hs : s.boot.stage0 = true) (hc : c < 120) :
    completes (.dieTempRead i c) s fun t =>
      (t.heat i.val).temp = c ∧ (t.heat i.val).peak = max (s.heat i.val).peak c ∧ t.boot = s.boot
        ∧ (c < hotAt i.val ∨ (s.heat i.val).hot = true → (t.heat i.val).ceil = (s.heat i.val).ceil ∧ t.crier = s.crier)
        ∧ (hotAt i.val ≤ c → (s.heat i.val).hot = false → (t.heat i.val).ceil = max 8 ((s.heat i.val).ceil - 8)
          ∧ ∃ x y, t.crier.band = s.crier.band ++ [x, y] ∧ x.code = .dieHot ∧ y.code = .dieHot) := by
  obtain ⟨u, hu⟩ : ∃ u, u = s.updHeat i.val (DieHeat.read i.val c) := ⟨_, rfl⟩
  have hh : u.heat i.val = (s.heat i.val).read i.val c := by
    rw [hu]
    exact State.heat_updHeat s i.val (DieHeat.read i.val c)
  have hx := exec_dieTempRead s i c hs hc
  have hb : u.boot = s.boot := by rw [hu]; rfl
  have hcr : u.crier = s.crier := by rw [hu]; rfl
  rw [← hu] at hx
  by_cases hcond : hotAt i.val ≤ c ∧ (s.heat i.val).hot = false
  · obtain ⟨h1, h2⟩ := hcond
    obtain ⟨k1, k2, k3⟩ := u.ceilFalls_keeps i.val
    rw [hh] at k1
    refine completes_of_exec (hx.trans (congrArg _ (if_pos (by simp [h1, h2])))) ?_
    have hkeep : ∀ (v : State) code src detail, (v.raiseBoth code src detail).heat i.val = v.heat i.val
        ∧ (v.raiseBoth code src detail).boot = v.boot := fun _ _ _ _ => ⟨rfl, rfl⟩
    have hheat : (u.heatBegins i.val).heat i.val = (u.ceilFalls i.val).heat i.val := (hkeep _ _ _ _).1
    have hband : (u.heatBegins i.val).crier.band = s.crier.band ++ _ :=
      (State.raiseBoth_band (u.ceilFalls i.val) .dieHot srcPower _).trans (by rw [k3, hcr])
    rw [hheat, k1]
    refine ⟨rfl, rfl, ?_, fun h => ?_, fun _ _ => ⟨rfl, _, _, hband, rfl, rfl⟩⟩
    · exact (hkeep _ _ _ _).2.trans (k2.trans hb)
    · rcases h with h | h
      · omega
      · rw [h2] at h
        exact absurd h (by decide)
  · refine completes_of_exec (hx.trans (congrArg _ (if_neg (by simpa using hcond)))) ?_
    rw [hh]
    exact ⟨rfl, rfl, hb, fun _ => ⟨rfl, hcr⟩, fun h1 h2 => absurd ⟨h1, h2⟩ hcond⟩

theorem thermalCeilingStep_steps (s : State) (i : Fin 13) (hs : s.boot.stage0 = true) (hp : s.passed (s.heat i.val).stepAt 100000 = true) :
    ((s.heat i.val).hot = true → 8 < (s.heat i.val).ceil → completes (.thermalCeilingStep i) s fun t =>
          (t.heat i.val).ceil = max 8 ((s.heat i.val).ceil - 8) ∧ (t.heat i.val).stepAt = s.clock ∧ t.crier = s.crier) ∧
      ((s.heat i.val).hot = false → (s.heat i.val).cool = true → (s.heat i.val).ceil < 64 →
          completes (.thermalCeilingStep i) s fun t =>
            (t.heat i.val).ceil = min 64 ((s.heat i.val).ceil + 8) ∧ t.crier = s.crier) := by
  refine ⟨fun hh hc => ?_, fun hh hcool hc => ?_⟩
  · obtain ⟨k1, -, k3⟩ := s.ceilFalls_keeps i.val
    refine completes_of_exec (t := s.ceilFalls i.val) ?_ ?_
    · show execThermalCeilingStep i s = _
      unfold execThermalCeilingStep
      dsimp only
      rw [if_neg (by simp [hs, hp]), if_pos (by simp [hh, hc])]
    · rw [k1]
      exact ⟨rfl, rfl, k3⟩
  · refine completes_of_exec (t := (s.updHeat i.val fun h => { h with ceil := min 64 (h.ceil + 8), stepAt := s.clock }).reweir) ?_ ?_
    · show execThermalCeilingStep i s = _
      unfold execThermalCeilingStep
      dsimp only
      rw [if_neg (by simp [hs, hp]), if_neg (by simp [hh]), if_pos (by simp [hh, hcool, hc])]
    · rw [State.heat_of_volt (State.reweir_volt _), State.crier_reweir]
      have hu := State.heat_updHeat s i.val fun h => { h with ceil := min 64 (h.ceil + 8), stepAt := s.clock }
      exact ⟨(congrArg DieHeat.ceil hu :), rfl⟩

/-! ## Steps (R368, R372, R373) -/

theorem State.beginStep_acts (s : State) (d new : Nat) (h : new ≠ (s.diePower d).step) (hc : (s.diePower d).changing = none) :
    ((s.beginStep d new).diePower d).changing = some new ∧ ((s.beginStep d new).diePower d).step = max (s.diePower d).step new
      ∧ (s.beginStep d new).mem = s.mem := by
  unfold State.beginStep
  extract_lets p
  rw [if_neg (by simp [p, h, hc]), State.changing_of_volt (State.reweir_volt _), State.step_of_volt (State.reweir_volt _), State.mem_reweir]
  have hu := State.diePower_updDiePower s d fun p => { p with changing := some new, step := max p.step new }
  exact ⟨(congrArg DiePower.changing hu :), (congrArg DiePower.step hu :), rfl⟩

theorem State.changing_of_stepsFree {s : State} {d : Nat} (h : s.stepsFree d = true) : (s.diePower d).changing = none := by
  simp only [State.stepsFree, Bool.and_eq_true, Option.isNone_iff_eq_none] at h
  exact h.2

theorem steps_begin (s : State) (d : Die) (hf : s.stepsFree d.val = true) :
    (s.lowCond d.val = true → s.heldMs (s.diePower d.val).lowSince = true → completes (.stepDown d) s fun t =>
        (t.diePower d.val).changing = some ((s.diePower d.val).step + 1) ∧ (t.diePower d.val).step = (s.diePower d.val).step + 1
          ∧ t.mem = s.mem) ∧
      (s.highCond d.val = true → s.heldMs (s.diePower d.val).highSince = true → completes (.stepUp d) s fun t =>
        (t.diePower d.val).changing = some ((s.diePower d.val).step - 1) ∧ (t.diePower d.val).step = (s.diePower d.val).step
          ∧ t.mem = s.mem) := by
  have hc := State.changing_of_stepsFree hf
  refine ⟨fun hl hm => ?_, fun hh hm => ?_⟩
  · obtain ⟨h1, h2, h3⟩ := s.beginStep_acts d.val ((s.diePower d.val).step + 1) (by omega) hc
    refine completes_of_exec (t := s.beginStep d.val ((s.diePower d.val).step + 1)) ?_ ⟨h1, h2.trans (by omega), h3⟩
    show execStepDown d s = _
    unfold execStepDown
    dsimp only
    rw [if_neg (by simp [hf]), if_pos (by simp [hl, hm])]
  · have hpos : 0 < (s.diePower d.val).step := by
      simp only [State.highCond, Bool.and_eq_true] at hh
      obtain ⟨-, hp⟩ := hh
      cases hr : s.runningPref d.val with
      | none => simp [hr] at hp
      | some m =>
        have hm' : m < (s.diePower d.val).step := by simpa [hr] using hp
        omega
    obtain ⟨h1, h2, h3⟩ := s.beginStep_acts d.val ((s.diePower d.val).step - 1) (by omega) hc
    refine completes_of_exec (t := s.beginStep d.val ((s.diePower d.val).step - 1)) ?_ ⟨h1, h2.trans (by omega), h3⟩
    show execStepUp d s = _
    unfold execStepUp
    dsimp only
    rw [if_pos (by simp [hf, hh, hm])]

theorem voltageSettled_settles (s : State) (d : Die) (n : Nat) (h : (s.diePower d.val).changing = some n)
    (hm : (s.diePower d.val).moveDue = false) :
    completes (.voltageSettled d) s fun t =>
      (t.diePower d.val).step = n ∧ (t.diePower d.val).changing = none ∧ t.crier = s.crier := by
  refine completes_of_exec (t := (s.updDiePower d.val fun p => { p with step := n, changing := none }).reweir) ?_ ?_
  · show execVoltageSettled d s = _
    unfold execVoltageSettled
    rw [h]
    dsimp only
    rw [if_neg (by simp [hm])]
  · rw [State.changing_of_volt (State.reweir_volt _), State.step_of_volt (State.reweir_volt _), State.crier_reweir]
    have hu := State.diePower_updDiePower s d.val fun p => { p with step := n, changing := none }
    exact ⟨(congrArg DiePower.step hu :), (congrArg DiePower.changing hu :), rfl⟩

@[simp] theorem State.beginStep_sansPower (s : State) (d new : Nat) : (s.beginStep d new).sansPower = s.sansPower := by
  unfold State.beginStep
  dsimp only
  split
  · rfl
  · rw [State.reweir_sansPower, State.updDiePower_sansPower]

@[simp] theorem State.moveStep_sansPower (s : State) (d : Nat) : (s.moveStep d).sansPower = s.sansPower := by
  unfold State.moveStep
  extract_lets p s1
  have h1 : s1.sansPower = s.sansPower := rfl
  clear_value s1
  split
  · rfl
  split
  · rfl
  split
  · exact h1
  split
  · rw [State.beginStep_sansPower, h1]
  split
  · rw [State.beginStep_sansPower, h1]
  · exact h1

theorem phaseStart_starts (s : State) (p : Pol) (seq : Nat) (phase : Fin 8) (c : Schedule) (hr : (s.pol p.val).isRunning seq = true) :
    let r := (s.pol p.val).run seq
    s.schedule r.m.schedule = some c → r.suspended = false → r.phase = phase.val → phase.val < c.phases.length →
    r.m.tb + 4096 * r.m.startTide + 1024 + s.phaseStart c r.m.opp phase.val ≤ s.alm.now →
    completes (.phaseStart p seq phase) s fun t => ((t.pol p.val).run seq).phase = phase.val + 1 ∧ t.mem = s.mem := by
  intro r hc hsus hph hlen hnow
  show ∃ t, execPhaseStart p seq phase s = .next t ∧ _
  unfold execPhaseStart
  extract_lets before s1 s2
  rw [hc]
  dsimp -zeta only
  extract_lets at_
  rw [if_neg (by
    simp only [hr, hsus, hph, Bool.not_true, Bool.false_or, ne_eq, not_true_eq_false, decide_false, Bool.or_eq_true, decide_eq_true_eq, at_]
    omega)]
  have h1 : (s1.pol p.val).run seq = { r with phase := phase.val + 1 } :=
    State.run_updRun s p.val seq (fun r => { r with phase := phase.val + 1 }) hr
  have h2 : s2.watchSteps.sansPower = s1.sansPower := by
    rw [State.watchSteps_sansPower]
    refine foldl_keeps_proj State.sansPower _ (fun u d => ?_) _ _
    split
    · dsimp only
      split
      · rw [State.moveStep_sansPower, State.updDiePower_sansPower]
      · rw [State.updDiePower_sansPower]
    · rfl
  have h1m : s1.mem = s.mem := rfl
  clear_value s2 s1
  refine ⟨_, rfl, ?_, ?_⟩
  · rw [State.pol, State.pols_of_sansPower h2]
    exact (congrArg Run.phase h1 :)
  · rw [State.mem_of_sansPower h2, h1m]

/-! ## Droop (R378) -/

theorem State.setOp_works (s : State) (d : Nat) (o new : MillOp) : (s.setOp d o new).works = s.works := by
  unfold State.setOp
  extract_lets s1
  have h1 : s1.works = s.works := State.works_of_ctl (State.updMill_ctl s d _ rfl)
  rw [foldl_works _ (fun u e => State.works_of_ctl (State.markTiles_ctl u e _ _ _)), h1]

theorem State.chargeWeir_works (s : State) (p seq n : Nat) : (s.chargeWeir p seq n).works = s.works := rfl

/-- What a stop of a tile leaves alone. -/
theorem State.stopTile_keeps (s : State) (d t n : Nat) : (s.stopTile d t n).works = s.works ∧ (s.stopTile d t n).mem = s.mem
    ∧ (s.stopTile d t n).crier = s.crier := by
  have hk : ∀ {β : Type} (proj : State → β), (∀ (u : State) k o new, proj (u.setOp k o new) = proj u)
      → (∀ (u : State) p seq n, proj (u.chargeWeir p seq n) = proj u) → proj (s.stopTile d t n) = proj s := by
    intro β proj h1 h2
    refine foldl_keeps_proj proj _ (fun u e => ?_) _ _
    dsimp only
    split
    · rfl
    · rw [h2, h1]
  have hset : ∀ {β : Type} (proj : State → β), (∀ (u : State) m, proj { u with mills := m } = proj u) →
      ∀ (u : State) k o new, proj (u.setOp k o new) = proj u := by
    intro β proj h u k o new
    unfold State.setOp
    extract_lets s1
    refine (foldl_keeps_proj proj _ (fun v e => ?_) _ _).trans (h u s1.mills)
    exact h v (v.markTiles e _ _ _).mills
  exact ⟨hk _ State.setOp_works State.chargeWeir_works, hk _ (hset State.mem fun _ _ => rfl) fun _ _ _ _ => rfl,
    hk _ (hset State.crier fun _ _ => rfl) fun _ _ _ _ => rfl⟩

theorem droop_stops (s : State) (d : Die) (detector : Fin 32) (hp : s.boot.powered = true) (hf : (s.mill d.val).fenced = false) :
    completes (.droop d detector) s fun t =>
      (t.mill d.val).droopStop = (s.mill d.val).droopStop ||| ((1 : BitVec 16) <<< (detector.val / 2))
        ∧ (t.mill d.val).droopAt.get 0 (detector.val / 2) = s.clock
        ∧ (t.diePower d.val).droops = satAdd 0xFF (s.diePower d.val).droops 1 ∧ t.mem = s.mem
        ∧ ∃ x y, t.crier.band = s.crier.band ++ [x, y] ∧ x.code = .droop ∧ y.code = .droop := by
  show ∃ t, execDroop d detector s = .next t ∧ _
  unfold execDroop
  extract_lets t s1 s2 s3
  rw [if_neg (by simp [hp, hf])]
  obtain ⟨hw, hm, hc⟩ := s2.stopTile_keeps d.val t 32
  have h1 : s1.mill d.val = { s.mill d.val with
      droopStop := (s.mill d.val).droopStop ||| ((1 : BitVec 16) <<< t), droopAt := (s.mill d.val).droopAt.set 0 t s.clock } :=
    State.mill_updMill s d.val fun c => { c with
      droopStop := c.droopStop ||| ((1 : BitVec 16) <<< t), droopAt := c.droopAt.set 0 t s.clock }
  have h2 : s2.diePower d.val = { s1.diePower d.val with droops := satAdd 0xFF (s1.diePower d.val).droops 1 } :=
    State.diePower_updDiePower s1 d.val fun p => { p with droops := satAdd 0xFF p.droops 1 }
  have h3 : s3.pwr = s2.pwr := (congrArg (fun w : Works => w.rest.pwr) hw : s3.works.rest.pwr = s2.works.rest.pwr)
  have h3m : (s3.mill d.val).core = (s1.mill d.val).core := State.mill_of_works hw d.val
  have hsm : s2.mem = s.mem := rfl
  have hsc : s2.crier = s.crier := rfl
  have hband := State.raiseBoth_band s3 .droop srcPower (leBytes 1 (5 + d.val) ++ leBytes 1 detector.val)
  rw [hc, hsc] at hband
  have hmem : s3.mem = s.mem := hm.trans hsm
  clear_value s3
  refine ⟨_, rfl, ?_, ?_, ?_, hmem, _, _, hband, rfl, rfl⟩
  · have h : (s3.mill d.val).droopStop = (s1.mill d.val).droopStop := (congrArg MillSt.droopStop h3m :)
    rw [h1] at h
    exact h
  · have h : (s3.mill d.val).droopAt = (s1.mill d.val).droopAt := (congrArg MillSt.droopAt h3m :)
    rw [h1] at h
    show (s3.mill d.val).droopAt.get 0 t = s.clock
    rw [h]
    exact SMap.get_set_same _ _ _ _
  · show (s3.diePower d.val).droops = _
    rw [State.diePower, h3]
    exact (congrArg DiePower.droops h2 :)

theorem droopResume_resumes (s : State) (d : Die) (tile : Fin 16) (h : (s.mill d.val).droopStop.getLsbD tile.val = true)
    (hp : s.passed ((s.mill d.val).droopAt.get 0 tile.val) 32 = true) :
    completes (.droopResume d tile) s fun t =>
      (t.mill d.val).droopStop = (s.mill d.val).droopStop &&& ~~~((1 : BitVec 16) <<< tile.val) ∧ t = { s with mills := t.mills } := by
  refine completes_of_exec (t := s.updMill d.val fun c => { c with droopStop := c.droopStop &&& ~~~((1 : BitVec 16) <<< tile.val) }) ?_ ⟨?_, rfl⟩
  · show execDroopResume d tile s = _
    unfold execDroopResume
    dsimp only
    rw [if_pos (by simp [h, hp])]
  · have hu := State.mill_updMill s d.val fun c => { c with droopStop := c.droopStop &&& ~~~((1 : BitVec 16) <<< tile.val) }
    exact (congrArg MillSt.droopStop hu :)

/-! ## All of them -/

theorem thermtripRelease_acts (s : State) (h : s.boot.tripLow = true) :
    (s.passed s.boot.tripAt 50000000 = true →
      exec .thermtripRelease s = .next { s with boot := { s.boot with tripLow := false } }) ∧
    (s.passed s.boot.tripAt 50000000 = false → exec .thermtripRelease s = .next s) := by
  refine ⟨fun hp => ?_, fun hp => ?_⟩
  · show execThermtripRelease s = _
    unfold execThermtripRelease
    simp [h, hp]
  · show execThermtripRelease s = _
    unfold execThermtripRelease
    simp [h, hp]

/-- Settles O59: caps, samples, input, heat, steps and droop follow their rules. -/
theorem powerAndHeatFollow : Obligations.PowerAndHeatFollow := by
  unfold Obligations.PowerAndHeatFollow
  refine ⟨fun s volts amps mills hp => ⟨powerSample_reads s volts amps mills hp, powerSample_steady s volts amps mills hp,
      powerSample_lowers s volts amps mills hp, fun a h h1 h2 h3 h4 => powerSample_raises s volts amps mills hp h h4 (.inr ⟨h1, a, h2, h3⟩),
      fun a h h1 h2 h3 => powerSample_raises s volts amps mills hp h h3 (.inl ⟨a, h1, h2⟩)⟩,
    inputRange_raises, inputPowerLoss_acts, capWrites_act, fun s i c hs => ⟨dieTempRead_trips s i c hs, dieTempRead_reads s i c hs,
      thermalCeilingStep_steps s i hs⟩, steps_begin, voltageSettled_settles, phaseStart_starts, droop_stops, droopResume_resumes,
    thermtripRelease_acts⟩

end Sys2Proof.Machine
end

section
/-! The SMBus target and the security mailbox (chapters 15 and 18: R327 to R331, R335, R387, R389). -/

namespace Sys2Proof.Machine

open Sys2Proof

/-! ## The target (R387, R389) -/

theorem State.smbus_dark (s : State) (f : State → State × Option (List Byte)) (h : s.boot.stage0 = false) :
    s.smbus f = { s with pmbus := { s.pmbus with answer := [], acked := false } } := by
  unfold State.smbus
  rw [h]
  rfl

theorem State.smbus_lit (s : State) (f : State → State × Option (List Byte)) (h : s.boot.stage0 = true) :
    s.smbus f = { (f s.latchStatus).1 with
      pmbus := { (f s.latchStatus).1.pmbus with answer := (f s.latchStatus).2.getD [], acked := (f s.latchStatus).2.isSome } } := by
  unfold State.smbus
  rw [h]
  rfl

theorem State.smbusRead_lit (s : State) (f : State → List Byte) (h : s.boot.stage0 = true) :
    s.smbusRead f = smbusAnswers s (f s.latchStatus) true := State.smbus_lit s _ h

theorem target_dark (s : State) (h : s.boot.stage0 = false) :
    ∀ c ∈ ([.clearFaults, .statusWord, .statusInput, .statusTemperature, .statusCml, .statusMfrSpecific, .readVin, .readIin, .readPin,
      .readTemperature1, .pmbusRevision, .mfrId, .mfrModel, .alertResponse] : List Instr),
      exec c s = .next { s with pmbus := { s.pmbus with answer := [], acked := false } } := by
  have hx : ∀ c f, exec c s = .next (s.smbus f) → exec c s = .next { s with pmbus := { s.pmbus with answer := [], acked := false } } :=
    fun c f hc => by rw [hc, State.smbus_dark s f h]
  simp only [List.forall_mem_cons, List.not_mem_nil, false_imp_iff, implies_true, and_true]
  exact ⟨hx _ _ rfl, hx _ _ rfl, hx _ _ rfl, hx _ _ rfl, hx _ _ rfl, hx _ _ rfl, hx _ _ rfl, hx _ _ rfl, hx _ _ rfl, hx _ _ rfl,
    hx _ _ rfl, hx _ _ rfl, hx _ _ rfl, hx _ _ rfl⟩

theorem target_answers (s : State) (h : s.boot.stage0 = true) :
    exec .statusWord s = .next (smbusAnswers s (leBytes 2 s.latchStatus.statusWord) true)
      ∧ exec .statusInput s = .next (smbusAnswers s [s.pmbus.input ||| s.statusInputNow] true)
      ∧ exec .statusTemperature s = .next (smbusAnswers s [s.pmbus.temperature ||| s.statusTempNow] true)
      ∧ exec .statusCml s = .next (smbusAnswers s [s.pmbus.cml] true)
      ∧ exec .statusMfrSpecific s = .next (smbusAnswers s [s.pmbus.mfr ||| s.statusMfrNow] true)
      ∧ exec .readVin s = .next (smbusAnswers s (linear11 0x88 s.pwr.volts) true)
      ∧ exec .readIin s = .next (smbusAnswers s (linear11 0x89 s.pwr.amps) true)
      ∧ exec .readPin s = .next (smbusAnswers s (linear11 0x97 (10 * s.pwr.watts)) true)
      ∧ exec .readTemperature1 s = .next (smbusAnswers s (linear11 0x8D (10 * s.hottest)) true)
      ∧ exec .pmbusRevision s = .next (smbusAnswers s [0x33] true)
      ∧ exec .mfrId s = .next (smbusAnswers s (7 :: ascii "TCHIGAL") true)
      ∧ exec .mfrModel s = .next (smbusAnswers s (13 :: (ascii "ZP-2400-F" ++ [BitVec.ofNat 8 (48 + s.nv.fibre)] ++ ascii "-C"
          ++ [BitVec.ofNat 8 (48 + s.nv.coldPlate)])) true)
      ∧ exec .clearFaults s = .next { s with pmbus := { s.pmbus with
          input := s.statusInputNow, temperature := s.statusTempNow, cml := 0, mfr := s.statusMfrNow, answer := [], acked := true } } := by
  have hx : ∀ c f, exec c s = .next (s.smbusRead f) → exec c s = .next (smbusAnswers s (f s.latchStatus) true) :=
    fun c f hc => by rw [hc, State.smbusRead_lit s f h]
  have hmodel : exec .mfrModel s = .next (s.smbusRead fun u => 13 :: (ascii "ZP-2400-F" ++ [BitVec.ofNat 8 (48 + u.nv.fibre)] ++ ascii "-C"
      ++ [BitVec.ofNat 8 (48 + u.nv.coldPlate)])) := rfl
  have hhot : s.latchStatus.hottest = s.hottest := by
    have hh : s.latchStatus.heat = s.heat := rfl
    have hs : s.latchStatus.stack = s.stack := rfl
    rw [State.hottest, State.hottest, hh, hs]
  have htemp : exec .readTemperature1 s = .next (smbusAnswers s (linear11 0x8D (10 * s.hottest)) true) := by
    rw [← hhot]
    exact hx _ (fun u => linear11 0x8D (10 * u.hottest)) rfl
  refine ⟨hx _ (fun u => leBytes 2 u.statusWord) rfl, hx _ (fun u => [u.pmbus.input]) rfl, hx _ (fun u => [u.pmbus.temperature]) rfl,
    hx _ (fun u => [u.pmbus.cml]) rfl, hx _ (fun u => [u.pmbus.mfr]) rfl, hx _ (fun u => linear11 0x88 u.pwr.volts) rfl,
    hx _ (fun u => linear11 0x89 u.pwr.amps) rfl, hx _ (fun u => linear11 0x97 (10 * u.pwr.watts)) rfl, htemp, hx _ (fun _ => [0x33]) rfl,
    hx _ (fun _ => 7 :: ascii "TCHIGAL") rfl, hx _ _ hmodel, ?_⟩
  show execClearFaults s = _
  rw [execClearFaults, State.smbus_lit s _ h]
  rfl

theorem unsupportedCommand_refused (s : State) (code : BitVec 8) (h : s.boot.stage0 = true) (hc : pmbusCodes.contains code.toNat = false) :
    completes (.unsupportedCommand code) s fun t =>
      t.pmbus.cml = s.pmbus.cml ||| 0x80 ∧ t.pmbus.answer = [] ∧ t.pmbus.acked = false ∧ t = { s with pmbus := t.pmbus } := by
  refine completes_of_exec (t := s.smbus fun s => ({ s with pmbus := { s.pmbus with cml := s.pmbus.cml ||| 0x80 } }, none)) ?_ ?_
  · show execUnsupportedCommand code s = _
    unfold execUnsupportedCommand
    rw [if_neg (by rw [hc]; decide)]
  · rw [State.smbus_lit s _ h]
    exact ⟨rfl, rfl, rfl, rfl⟩

theorem alertResponse_answers (s : State) (h : s.boot.stage0 = true) :
    (s.latchStatus.alertLow = true → completes .alertResponse s fun t =>
        (t.pmbus.answer = [0xB0] ∨ t.pmbus.answer = [0xB1]) ∧ t.pmbus.acked = true
          ∧ t = { s with seed := t.seed, pmbus := t.pmbus }) ∧
      (s.latchStatus.alertLow = false → exec .alertResponse s = .next (smbusAnswers s [] false)) := by
  have hx : exec .alertResponse s = .next (s.smbus fun s => if s.alertLow then ((s.free 1).2, some [0xB0 ||| (s.free 1).1.setWidth 8]) else (s, none)) := rfl
  have hbit : ∀ b : BitVec 1, [0xB0 ||| b.setWidth 8] = [(0xB0 : Byte)] ∨ [0xB0 ||| b.setWidth 8] = [(0xB1 : Byte)] := fun b =>
    (BitVec.eq_zero_or_eq_one b).imp (fun hb => by rw [hb]; rfl) fun hb => by rw [hb]; rfl
  rw [hx, State.smbus_lit s _ h]
  refine ⟨fun ha => completes_of_exec (hx.trans (congrArg _ (State.smbus_lit s _ h))) ?_, fun ha => ?_⟩
  · rw [if_pos ha]
    exact ⟨hbit _, rfl, rfl⟩
  · rw [if_neg (by rw [ha]; decide)]
    rfl

/-! ## Keys (R409) -/

theorem State.port_secDone (s : State) (port status : Nat) :
    (s.secDone port status).port port = { s.port port with mboxStatus := status, mboxBusy := false } :=
  State.port_updPort s port fun q => { q with mboxStatus := status, mboxBusy := false }

theorem keyRequest_acts (s : State) (port : Port) (cmd : Nat) (hcmd : cmd = 1 ∨ cmd = 2) (hrun : s.secRuns port.val cmd = true) :
    let r := (s.port port.val).request (s.port port.val).mboxLen
    let status := s.keyRefusal cmd (s.port port.val).mboxLen r
    completes (if cmd = 1 then .enrol port else .revoke port) s fun t =>
      (t.port port.val).mboxStatus = status ∧ (t.port port.val).mboxBusy = false ∧ t.mem = s.mem
        ∧ (status = 0 → t.keySlot (leAt r 9 1) = keyOf cmd r
          ∧ ∃ x y, t.crier.band = s.crier.band ++ [x, y] ∧ x.code = .keyChanged ∧ y.code = .keyChanged)
        ∧ (status ≠ 0 → t.nv = s.nv ∧ t.crier = s.crier) := by
  intro r status
  have hx : exec (if cmd = 1 then .enrol port else .revoke port) s = .next (s.keyRequest port.val cmd) := by
    rcases hcmd with rfl | rfl
    · show execEnrol port s = _
      rw [execEnrol, if_pos hrun]
    · show execRevoke port s = _
      rw [execRevoke, if_pos hrun]
  obtain ⟨u, hu⟩ : ∃ u, u = if status ≠ 0 then s else
    (s.setKey (leAt r 9 1) (keyOf cmd r)).raiseBoth .keyChanged 0x2205 [BitVec.ofNat 8 (leAt r 9 1)] := ⟨_, rfl⟩
  have hreq : s.keyRequest port.val cmd = u.secDone port.val status := by
    rw [hu]
    rfl
  rw [hreq] at hx
  have hport := State.port_secDone u port.val status
  have hkeep : (u.secDone port.val status).mem = u.mem ∧ (u.secDone port.val status).nv = u.nv
      ∧ (u.secDone port.val status).crier = u.crier := ⟨rfl, rfl, rfl⟩
  obtain ⟨hm, hn, hc⟩ := hkeep
  refine completes_of_exec hx ?_
  rw [hport, hm, hn, hc, State.keySlot, hn]
  by_cases h0 : status = 0
  · rw [if_neg (by simp [h0])] at hu
    have hband := State.raiseBoth_band (s.setKey (leAt r 9 1) (keyOf cmd r)) .keyChanged 0x2205 [BitVec.ofNat 8 (leAt r 9 1)]
    refine ⟨rfl, rfl, ?_, fun _ => ⟨?_, ?_⟩, fun h => absurd h0 h⟩
    · rw [hu]
      rfl
    · rw [hu]
      exact SMap.get_set_same _ _ _ _
    · rw [hu, hband]
      exact ⟨_, _, rfl, rfl, rfl⟩
  · rw [if_pos h0] at hu
    rw [hu]
    exact ⟨rfl, rfl, rfl, fun h => absurd h h0, fun _ => ⟨rfl, rfl⟩⟩

theorem keyRefusal_first (s : State) (len : Nat) (r : List Byte) (hk : keyRecordOk 1 len r = true) (hw : s.keysWord = 0) :
    s.keyRefusal 1 len r = 0 := by
  unfold State.keyRefusal
  dsimp only
  rw [if_neg (by simp [hk]), if_pos (by simp [hw])]

/-! ## Firmware (R320, R410) -/

section
variable (s : State) (port : Port)

/-- The offset of a write of firmware, and the bytes it takes. -/
theorem exec_fwWrite (h : s.secRuns port.val 3 = true) :
    let r := (s.port port.val).request (s.port port.val).mboxLen
    exec (.fwWrite port) s = .next (
      if leAt r 0 8 % 8 ≠ 0 || fwSlotSize < leAt r 0 8 + ((s.port port.val).mboxLen - 8) || fwSlotSize ≤ leAt r 0 8 then s.secDone port.val 1
      else if s.fwTaken port then s.secDone port.val 6
      else ({ s with
        nv := { s.nv with fwBytes := s.nv.fwBytes.set [] s.inactiveSlot (putAt (s.nv.fwBytes.get [] s.inactiveSlot) (leAt r 0 8) (r.drop 8)) }
        sec := { s.sec with owner := some port } } : State).secDone port.val 0) := by
  show execFwWrite port s = _
  unfold execFwWrite
  rw [if_neg (by simp [h])]

theorem fwWrite_acts (h : s.secRuns port.val 3 = true) :
    let r := (s.port port.val).request (s.port port.val).mboxLen
    (leAt r 0 8 % 8 = 0 → leAt r 0 8 < fwSlotSize → leAt r 0 8 + ((s.port port.val).mboxLen - 8) ≤ fwSlotSize →
        s.fwTaken port = false → completes (.fwWrite port) s fun t =>
          t.nv.fwBytes.get [] s.inactiveSlot = putAt (s.nv.fwBytes.get [] s.inactiveSlot) (leAt r 0 8) (r.drop 8)
            ∧ t.sec.owner = some port ∧ (t.port port.val).mboxStatus = 0 ∧ t.nv.fwSlot = s.nv.fwSlot ∧ t.crier = s.crier) ∧
      (leAt r 0 8 % 8 = 0 → leAt r 0 8 < fwSlotSize → leAt r 0 8 + ((s.port port.val).mboxLen - 8) ≤ fwSlotSize →
        s.fwTaken port = true → completes (.fwWrite port) s fun t =>
          (t.port port.val).mboxStatus = 6 ∧ t.nv = s.nv ∧ t.sec.owner = s.sec.owner) ∧
      (leAt r 0 8 % 8 ≠ 0 → completes (.fwWrite port) s fun t => (t.port port.val).mboxStatus = 1 ∧ t.nv = s.nv) := by
  intro r
  have hx := exec_fwWrite s port h
  have hfits : leAt r 0 8 % 8 = 0 → leAt r 0 8 < fwSlotSize → leAt r 0 8 + ((s.port port.val).mboxLen - 8) ≤ fwSlotSize →
      ¬(leAt r 0 8 % 8 ≠ 0 || fwSlotSize < leAt r 0 8 + ((s.port port.val).mboxLen - 8) || fwSlotSize ≤ leAt r 0 8) = true := by
    intro h1 h2 h3
    rw [decide_eq_false (not_not.2 h1), decide_eq_false (Nat.not_lt.2 h3), decide_eq_false (Nat.not_le.2 h2)]
    decide
  refine ⟨fun h1 h2 h3 h4 => ?_, fun h1 h2 h3 h4 => ?_, fun h1 => ?_⟩
  · refine completes_of_exec (hx.trans (congrArg _ ((if_neg (hfits h1 h2 h3)).trans (if_neg (by rw [h4]; decide))))) ?_
    rw [State.port_secDone]
    exact ⟨SMap.get_set_same _ _ _ _, rfl, rfl, rfl, rfl⟩
  · refine completes_of_exec (hx.trans (congrArg _ ((if_neg (hfits h1 h2 h3)).trans (if_pos h4)))) ?_
    rw [State.port_secDone]
    exact ⟨rfl, rfl, rfl⟩
  · refine completes_of_exec (hx.trans (congrArg _ (if_pos (by rw [decide_eq_true h1]; rfl)))) ?_
    rw [State.port_secDone]
    exact ⟨rfl, rfl⟩

theorem fwCommit_acts (h : s.secRuns port.val 4 = true) :
    let r := (s.port port.val).request (s.port port.val).mboxLen
    leAt r 0 8 ≤ fwSlotSize → s.fwTaken port = false →
      let fw := slice (s.nv.fwBytes.get [] s.inactiveSlot) 0 (leAt r 0 8)
      completes (.fwCommit port) s fun t =>
        (t.port port.val).mboxStatus = (if Config.firmwareVerifies fw then if Config.firmwareSvn fw < s.nv.fwFloor then 3 else 0 else 2)
          ∧ t.nv.fwPending = (Config.firmwareVerifies fw && s.nv.fwFloor ≤ Config.firmwareSvn fw) ∧ t.sec.owner = none
          ∧ t.nv.fwSlot = s.nv.fwSlot := by
  intro r hlen hown fw
  show ∃ t, execFwCommit port s = .next t ∧ _
  unfold execFwCommit
  rw [if_neg (by simp [h])]
  extract_lets n fw' status nv sec s1
  rw [if_neg (Nat.not_lt.2 hlen), if_neg (by rw [hown]; decide)]
  have hport := State.port_secDone s1 port.val status
  refine ⟨_, rfl, ?_, ?_, rfl, rfl⟩
  · rw [hport]
    show status = _
    simp only [status]
    show (if !Config.firmwareVerifies fw then 2 else if Config.firmwareSvn fw < s.nv.fwFloor then 3 else 0) = _
    cases Config.firmwareVerifies fw <;> rfl
  · show decide (status = 0) = _
    show decide ((if !Config.firmwareVerifies fw then 2 else if Config.firmwareSvn fw < s.nv.fwFloor then 3 else 0) = 0) = _
    by_cases hv : Config.firmwareVerifies fw = true
    · by_cases hf : Config.firmwareSvn fw < s.nv.fwFloor
      · simp [hv, hf, Nat.not_le.2 hf]
      · simp [hv, hf, Nat.not_lt.1 hf]
    · simp [hv]

end

/-- Settles O60: what the SMBus target and the security mailbox answer. -/
theorem targetAndSecurityAnswer : Obligations.TargetAndSecurityAnswer := by
  unfold Obligations.TargetAndSecurityAnswer
  refine ⟨target_dark, target_answers, unsupportedCommand_refused, alertResponse_answers, fun s port => ?_⟩
  exact ⟨fun cmd hc hr => keyRequest_acts s port cmd hc hr, ⟨fun _ => rfl, keyRefusal_first s _ _⟩, fwWrite_acts s port, fwCommit_acts s port⟩

end Sys2Proof.Machine
end

section
/-! SUPPORT. How the lag of a running manifest is brought up to now, its events, and its end. -/

namespace Sys2Proof.Machine

open Sys2Proof

section
variable (s : State)

@[simp] theorem State.hands_ite (c : Prop) [Decidable c] (s t : State) : (if c then s else t).hands = if c then s.hands else t.hands :=
  apply_ite ..
@[simp] theorem State.toHost_hands (n : Nat) (m : HostMsg) : (s.toHost n m).hands = s.hands := rfl
@[simp] theorem State.free_hands (w : Nat) : (s.free w).2.hands = s.hands := rfl
@[simp] theorem State.freeBytes_hands (w : Nat) : (s.freeBytes w).2.hands = s.hands := rfl
@[simp] theorem State.freshId_hands : s.freshId.2.hands = s.hands := rfl
@[simp] theorem State.raiseOwn_hands (code : Code) (source p : Nat) (detail : List Byte) :
    (s.raiseOwn code source p detail).hands = s.hands := rfl
@[simp] theorem State.permission_hands (source p addr engine : Nat) : (s.permission source p addr engine).hands = s.hands := rfl
@[simp] theorem State.bins_hands (b : SMap BinLine) : ({ s with bins := b } : State).hands = s.hands := rfl
@[simp] theorem State.endWalks_hands (p seq : Nat) : (s.endWalks (.sequencer p seq)).hands = s.hands := rfl

end

theorem foldl_hands {α : Type} (f : State → α → State) (h : ∀ s a, (f s a).hands = s.hands) (l : List α) (s : State) :
    (l.foldl f s).hands = s.hands := foldl_keeps_proj State.hands f h l s

/-! ## The home's copy -/

@[simp] theorem State.takeTracker_hands (s : State) (k p who : Nat) : (s.takeTracker k p who).hands = s.hands :=
  rfl

@[simp] theorem State.freeTracker_hands (s : State) (k p who : Nat) : (s.freeTracker k p who).hands = s.hands :=
  rfl

@[simp] theorem State.newReq_hands (s : State) (op : HomeOp) (line p : Nat) (who : Requester) (va hint : Nat) :
    (s.newReq op line p who va hint).hands = s.hands := by
  simp only [State.newReq]
  split <;> simp

@[simp] theorem State.homeUndo_hands (s : State) (line : Nat) (mask : BitVec 8) : (s.homeUndo line mask).hands = s.hands := by
  unfold State.homeUndo
  dsimp only
  split
  · rfl
  · split <;> simp

@[simp] theorem State.granFlush_hands (s : State) (key : Nat) : (s.granFlush key).hands = s.hands := by
  unfold State.granFlush
  dsimp only
  split <;> simp

@[simp] theorem State.granEvict_hands (s : State) (key : Nat) : (s.granEvict key).hands = s.hands := by
  unfold State.granEvict
  split <;> simp

@[simp] theorem State.granAlloc_hands (s : State) (p line hint : Nat) : (s.granAlloc p line hint).hands = s.hands := by
  unfold State.granAlloc
  dsimp only
  split
  · rfl
  split
  · simp
  split
  · rfl
  split
  · rfl
  split <;> simp

@[simp] theorem State.granFill_hands (s : State) (line : Nat) (need : BitVec 8) : (s.granFill line need).hands = s.hands := by
  unfold State.granFill
  split <;> simp

@[simp] theorem State.homeKeep_hands (s : State) (line : Nat) (bs : Bytes) (dead : Bool) : (s.homeKeep line bs dead).hands = s.hands := by
  unfold State.homeKeep
  split <;> simp

@[simp] theorem State.homeWrite_hands (s : State) (p line : Nat) (bs : Bytes) (dead poison : Bool) (hint : Nat) :
    (s.homeWrite p line bs dead poison hint).hands = s.hands := by
  unfold State.homeWrite
  split
  · rfl
  · dsimp only
    split <;> simp

@[simp] theorem State.landMsg_hands (s : State) (m : CohMsg) : (s.land_ m).hands = s.hands := by
  unfold State.land_
  dsimp only
  split
  · rfl
  split
  · simp
  split <;> simp

@[simp] theorem State.recallOne_hands (s : State) (key : Nat) (b : BinLine) : (s.recallOne key b).hands = s.hands := by
  unfold State.recallOne
  dsimp only
  rw [State.bins_hands]
  split <;> simp

@[simp] theorem State.pokeLine_hands (s : State) (p line : Nat) (bs : Bytes) (poison : Bool) : (s.pokeLine p line bs poison).hands = s.hands := by
  unfold State.pokeLine
  dsimp only
  split
  · rfl
  split
  · simp
  · rw [State.homeWrite_hands, foldl_hands _ (fun _ _ => by simp), foldl_hands _ (fun _ _ => by simp)]

@[simp] theorem State.untag_hands (s : State) (o len : Nat) : (s.untag o len).hands = s.hands :=
  foldl_hands _ (fun _ _ => by simp) _ _

@[simp] theorem State.poke_hands (s : State) (p a : Nat) (bs : List Byte) (poison : Bool) : (s.poke p a bs poison).hands = s.hands := by
  unfold State.poke
  dsimp only
  split
  · rfl
  · rw [foldl_hands _ (fun _ _ => by simp), State.untag_hands]

/-! ## Writes that leave the module -/

@[simp] theorem State.sendTxn_hands (s : State) (n p cls : Nat) (t : Txn) : (s.sendTxn n p cls t).hands = s.hands := by
  unfold State.sendTxn
  split <;> simp

@[simp] theorem State.sendWrite_hands (s : State) (n p cls dpa : Nat) (bs : List Byte) (poison : Bool) (hint : Nat) :
    (s.sendWrite n p cls dpa bs poison hint).hands = s.hands := by
  simp [State.sendWrite]

theorem State.remoteWrite_hands {s t : State} {p cls dpa : Nat} {bs : List Byte} {poison : Bool} {hint : Nat}
    (h : s.remoteWrite p cls dpa bs poison hint = some t) : t.hands = s.hands := by
  unfold State.remoteWrite at h
  split at h
  · obtain rfl := Option.some.inj h
    exact foldl_hands _ (fun _ _ => by simp) _ _
  · exact absurd h (by simp)

@[simp] theorem State.hostPost_hands (s : State) (port fn addr : Nat) (data : List Byte) (ep : Bool) (maker : Nat × Nat × Nat × Nat) :
    (s.hostPost port fn addr data ep maker).hands = s.hands := foldl_hands _ (fun _ _ => by simp) _ _

theorem State.hostWrite_hands {s t : State} {port p w : Nat} {bs : List Byte} {poison : Bool} {src va eng : Nat}
    (h : s.hostWrite port p w bs poison src va eng = some t) : t.hands = s.hands := by
  unfold State.hostWrite at h
  obtain ⟨a, _, rfl⟩ := Option.map_eq_some_iff.1 h
  simp

@[simp] theorem State.writeDpa_hands (s : State) (p va dpa : Nat) (bs : List Byte) (poison : Bool) :
    (s.writeDpa p va dpa bs poison).2.hands = s.hands := by
  unfold State.writeDpa
  split
  · split
    · next h => exact State.remoteWrite_hands h
    · rfl
  · split
    · split
      · rfl
      · split
        · next h => exact State.hostWrite_hands h
        · rfl
    · dsimp only
      split
      · rfl
      split
      · rfl
      split
      · rfl
      · simp
    · dsimp only
      split
      · rfl
      split
      · rfl
      split
      · rfl
      · simp
    · rfl

/-! ## Completion records -/

@[simp] theorem State.startWalk_hands (s : State) (eng : EngineRef) (p va acc tag : Nat) : (s.startWalk eng p va acc tag).hands = s.hands := by
  simp [State.startWalk]

@[simp] theorem State.translate_hands (s : State) (eng : EngineRef) (p va acc tag : Nat) : (s.translate eng p va acc tag).2.hands = s.hands := by
  unfold State.translate
  split <;> simp

@[simp] theorem State.recordOver_hands (s : State) (p : Nat) (r : RecordWait) : (s.recordOver p r).hands = s.hands := by
  have h : ((s.updPol p fun q => { q with records := q.records.filter fun x => x.seq ≠ r.seq }).endWalks (.sequencer p r.seq)).hands = s.hands := by
    rw [State.endWalks_hands, State.updPol_hands]
  unfold State.recordOver
  dsimp only
  split
  · rw [State.raiseOwn_hands, h]
  · exact h

@[simp] theorem State.settleRecord_hands (s : State) (p : Nat) (r : RecordWait) : (s.settleRecord p r).hands = s.hands := by
  have ht := s.translate_hands (.sequencer p r.seq) p r.va 1 r.tag
  unfold State.settleRecord
  split
  · simp
  split
  · next e d u hu =>
    rw [hu] at ht
    split
    · simpa using ht
    have hw := u.writeDpa_hands p r.va d r.bytes false
    split
    all_goals
      next v hv =>
      rw [hv] at hw
      simpa using hw.trans ht
  all_goals
    next u hu =>
    rw [hu] at ht
    simpa using ht

@[simp] theorem State.postRecord_hands (s : State) (p : Nat) (r : RecordWait) : (s.postRecord p r).hands = s.hands := by
  rw [State.postRecord, State.settleRecord_hands, State.updPol_hands]

@[simp] theorem State.retryRecords_hands (s : State) (p : Nat) : (s.retryRecords p).hands = s.hands :=
  foldl_hands _ (fun _ _ => by simp) _ _

@[simp] theorem State.manifestRecord_hands (s : State) (p : Nat) (m : Manifest) (status end_ left : Nat) :
    (s.manifestRecord p m status end_ left).hands = s.hands := by
  rw [State.manifestRecord, State.postRecord_hands]


/-! ## The lag of a running manifest -/

/-- A run without its lag and how the lag is charged. -/
def Run.timeless (r : Run) : Run := { r with lag := 0, charged := {}, uncharged := {}, covered := {} }

theorem Run.lagTo_timeless (r : Run) (l : Nat) : (r.lagTo l).timeless = r.timeless := by
  unfold Run.lagTo
  split <;> rfl

theorem Run.lagTo_lag (r : Run) (l : Nat) : (r.lagTo l).lag = max r.lag l := by
  unfold Run.lagTo
  split
  · next h =>
    show r.lag + (l - r.lag) = _
    omega
  · next h => omega

theorem State.chargeHeld_timeless (s : State) (r : Run) : (s.chargeHeld r).timeless = r.timeless := by
  unfold State.chargeHeld
  dsimp only
  split <;> rfl

theorem State.chargeHeld_lag (s : State) (r : Run) : (s.chargeHeld r).lag = r.lag := by
  unfold State.chargeHeld
  dsimp only
  split <;> rfl

/-- The charge of a tile's delays. -/
def Run.charge (r : Run) (clock : Nat) (delays : Causes) : Run :=
  allCauses.foldl (fun r k => if delays.get k = 0 then r else r.delayed clock (delays.get k) k) r

theorem Run.charge_timeless (r : Run) (clock : Nat) (delays : Causes) : (r.charge clock delays).timeless = r.timeless :=
  foldl_keeps_proj Run.timeless _ (fun r k => by split <;> rfl) _ _

theorem Run.charge_lag (r : Run) (clock : Nat) (delays : Causes) : (r.charge clock delays).lag = r.lag :=
  foldl_keeps_proj Run.lag _ (fun r k => by split <;> rfl) _ _

/-! ## One manifest's account changes -/

/-- Only the account of one running manifest, which runs on, and the events of the module band change. -/
structure OnRun (p seq : Nat) (s t : State) : Prop where
  mem : t.mem = s.mem
  alm : t.alm = s.alm
  hands : t.hands = s.hands
  pols : ∀ q, q ≠ p → t.pol q = s.pol q
  runs : (t.pol p).isRunning seq = true
  hard : ((t.pol p).run seq).m = ((s.pol p).run seq).m

theorem OnRun.trans {p seq : Nat} {s t u : State} (h : OnRun p seq s t) (k : OnRun p seq t u) : OnRun p seq s u where
  mem := k.mem.trans h.mem
  alm := k.alm.trans h.alm
  hands := k.hands.trans h.hands
  pols q hq := (k.pols q hq).trans (h.pols q hq)
  runs := k.runs
  hard := k.hard.trans h.hard

theorem OnRun.refl {p seq : Nat} {s : State} (h : (s.pol p).isRunning seq = true) : OnRun p seq s s := ⟨rfl, rfl, rfl, fun _ _ => rfl, h, rfl⟩

theorem Run.ne_default_of_hard {r : Run} (h : r.m.hard = true) : r ≠ {} := by
  rintro rfl
  cases h

theorem OnRun.updRun {p seq : Nat} {s : State} (f : Run → Run) (hr : (s.pol p).isRunning seq = true)
    (hh : ((s.pol p).run seq).m.hard = true) (hm : (f ((s.pol p).run seq)).m = ((s.pol p).run seq).m) : OnRun p seq s (s.updRun p seq f) where
  mem := rfl
  alm := rfl
  hands := rfl
  pols q hq := s.pol_updRun_other p seq q f hq
  runs := s.updRun_still_runs p seq f hr (Run.ne_default_of_hard (by rw [hm]; exact hh))
  hard := by rw [s.run_updRun p seq f hr, hm]

theorem OnRun.raiseUpd {p seq : Nat} {s : State} (code : Code) (detail : List Byte) (f : Run → Run) (hr : (s.pol p).isRunning seq = true)
    (hh : ((s.pol p).run seq).m.hard = true) (hm : (f ((s.pol p).run seq)).m = ((s.pol p).run seq).m) :
    OnRun p seq s ((s.raiseOwn code srcSeq p detail).updRun p seq f) :=
  let h := OnRun.updRun (s := s.raiseOwn code srcSeq p detail) f hr hh hm
  ⟨h.mem, h.alm, h.hands, h.pols, h.runs, h.hard⟩

/-- What `updLag` makes of a hard running manifest. -/
def State.lagged (s : State) (r : Run) : Run := (s.chargeHeld r).lagTo (s.lagNow r)

theorem State.lagged_timeless (s : State) (r : Run) : (s.lagged r).timeless = r.timeless :=
  (Run.lagTo_timeless _ _).trans (s.chargeHeld_timeless r)

theorem State.lagged_lag (s : State) (r : Run) : (s.lagged r).lag = max r.lag (s.lagNow r) := by
  rw [State.lagged, Run.lagTo_lag, State.chargeHeld_lag]

section
variable {s : State} {p seq : Nat} (hr : (s.pol p).isRunning seq = true) (hh : ((s.pol p).run seq).m.hard = true)
include hr hh

theorem State.updLag_hard : s.updLag p seq = s.updRun p seq s.lagged := by
  unfold State.updLag
  rw [if_pos (by simp [hr, hh])]
  rfl

theorem State.updLag_account : ((s.updLag p seq).pol p).run seq = s.lagged ((s.pol p).run seq) := by
  rw [State.updLag_hard hr hh, State.run_updRun _ _ _ _ hr]

theorem State.updLag_onRun : OnRun p seq s (s.updLag p seq) := by
  rw [State.updLag_hard hr hh]
  exact OnRun.updRun _ hr hh (congrArg Run.m (s.lagged_timeless _) :)

/-- FREEBOARD_LOW where it is due: not raised yet, and the freeboard left below WARN sixteenths. -/
theorem State.checkLow_due (hl : ((s.pol p).run seq).lowRaised = false) (hw : ((s.pol p).run seq).m.warn ≠ 0)
    (hf : 16 * ((((s.pol p).run seq).m.freeboard : Int) - ((s.pol p).run seq).lag) < ((s.pol p).run seq).m.warn * ((s.pol p).run seq).m.freeboard) :
    s.checkLow p seq = (s.raiseOwn .freeboardLow srcSeq p (lagDetail ((s.pol p).run seq))).updRun p seq fun r => { r with lowRaised := true } := by
  unfold State.checkLow
  dsimp only
  rw [if_pos (by simp [hr, hh, hl, hw, hf])]

omit hr hh in
theorem State.checkLow_not (h : ((s.pol p).run seq).lowRaised = true ∨ ((s.pol p).run seq).m.warn = 0
      ∨ ((s.pol p).run seq).m.warn * (((s.pol p).run seq).m.freeboard : Int)
        ≤ 16 * ((((s.pol p).run seq).m.freeboard : Int) - ((s.pol p).run seq).lag)) : s.checkLow p seq = s := by
  unfold State.checkLow
  dsimp only
  rw [if_neg]
  rcases h with h | h | h
  · simp [h]
  · simp [h]
  · simp only [Bool.and_eq_true, decide_eq_true_eq, not_and]
    exact fun _ => by omega

theorem State.checkLow_onRun : OnRun p seq s (s.checkLow p seq) := by
  unfold State.checkLow
  dsimp only
  split
  · exact OnRun.raiseUpd _ _ _ hr hh rfl
  · exact OnRun.refl hr

omit hh in
theorem State.checkLow_account :
    ((s.checkLow p seq).pol p).run seq = { (s.pol p).run seq with lowRaised := (((s.checkLow p seq).pol p).run seq).lowRaised } := by
  unfold State.checkLow
  dsimp only
  split
  · rw [State.run_updRun (s.raiseOwn _ _ _ _) _ _ _ hr]
    rfl
  · rfl

theorem State.missDeadline_due (hm : ((s.pol p).run seq).missRaised = false) :
    s.missDeadline p seq
      = (s.raiseOwn .deadlineMiss srcSeq p (lagDetail ((s.pol p).run seq))).updRun p seq fun r => { r with missRaised := true } := by
  unfold State.missDeadline
  dsimp only
  rw [if_neg (by simp [hr, hh, hm])]

omit hr hh in
theorem State.missDeadline_raised (hm : ((s.pol p).run seq).missRaised = true) : s.missDeadline p seq = s := by
  unfold State.missDeadline
  dsimp only
  rw [if_pos (by simp [hm])]

theorem State.missDeadline_onRun : OnRun p seq s (s.missDeadline p seq) := by
  unfold State.missDeadline
  dsimp only
  split
  · exact OnRun.refl hr
  · exact OnRun.raiseUpd _ _ _ hr hh rfl

theorem State.missDeadline_account : ((s.missDeadline p seq).pol p).run seq = { (s.pol p).run seq with missRaised := true } := by
  cases hm : ((s.pol p).run seq).missRaised with
  | true =>
    rw [State.missDeadline_raised hm, ← hm]
  | false =>
    rw [State.missDeadline_due hr hh hm, State.run_updRun (s.raiseOwn _ _ _ _) _ _ _ hr]
    rfl

theorem State.checkMiss_onRun : OnRun p seq s (s.checkMiss p seq) := by
  unfold State.checkMiss
  split
  · exact State.missDeadline_onRun hr hh
  · exact OnRun.refl hr

theorem State.checkMiss_account : ((s.checkMiss p seq).pol p).run seq = { (s.pol p).run seq with
    missRaised := ((s.pol p).run seq).missRaised || decide (((s.pol p).run seq).m.freeboard < ((s.pol p).run seq).lag) } := by
  unfold State.checkMiss
  split
  · next h => rw [State.missDeadline_account hr hh, decide_eq_true h, Bool.or_true]
  · next h => rw [decide_eq_false h, Bool.or_false]

end

theorem lagDetail_length (r : Run) : (lagDetail r).length = 16 := by
  simp [lagDetail, leBytes_length]

theorem State.raiseLag_band (s : State) (code : Code) (p : Nat) (r : Run) :
    (s.raiseOwn code srcSeq p (lagDetail r)).crier.band = s.crier.band ++ [⟨code, srcSeq, p, p, lagDetail r⟩] := by
  show s.crier.band ++ [⟨code, srcSeq, p, p, slice (lagDetail r) 0 16⟩] = _
  rw [slice_whole _ _ (lagDetail_length r)]

/-- The causes that an event of the lag reports are those of the account, whatever it has raised. -/
theorem lagDetail_congr {r r' : Run} (hm : r'.m = r.m) (hc : r'.charged = r.charged) : lagDetail r' = lagDetail r := by
  rw [lagDetail, lagDetail, hm, hc]

/-! ## The events of the lag (R73) -/

section
variable {s : State} {p : Pol} {seq : Nat} (hr : (s.pol p).isRunning seq = true) (hh : ((s.pol p).run seq).m.hard = true)
include hr hh

theorem State.updLag_due :
    ∃ u, s.updLag p seq = u ∧ OnRun p seq s u ∧ u.crier = s.crier ∧ ((u.pol p).run seq).timeless = ((s.pol p).run seq).timeless
      ∧ ((u.pol p).run seq).lag = max ((s.pol p).run seq).lag (s.lagNow ((s.pol p).run seq)) := by
  refine ⟨_, rfl, State.updLag_onRun hr hh, s.updLag_crier p seq, ?_, ?_⟩
  · rw [State.updLag_account hr hh, State.lagged_timeless]
  · rw [State.updLag_account hr hh, State.lagged_lag]

theorem freeboardLow_raised :
    let r := (s.pol p).run seq
    let lag := max r.lag (s.lagNow r)
    r.lowRaised = false → r.m.warn ≠ 0 → 16 * ((r.m.freeboard : Int) - lag) < r.m.warn * r.m.freeboard →
    completes (.freeboardLow p seq) s fun t =>
      ((t.pol p).run seq).lowRaised = true ∧ ((t.pol p).run seq).lag = lag ∧ ((t.pol p).run seq).missRaised = r.missRaised
        ∧ t.mem = s.mem ∧ (∀ q, q ≠ p.val → t.pol q = s.pol q)
        ∧ t.crier.band = s.crier.band ++ [⟨.freeboardLow, srcSeq, p, p, lagDetail ((t.pol p).run seq)⟩] := by
  intro r lag hl hw hf
  obtain ⟨u, hu, hon, hcr, htl, hlag⟩ := State.updLag_due hr hh
  have hm : ((u.pol p).run seq).m = r.m := hon.hard
  have hru := hon.runs
  have hhu : ((u.pol p).run seq).m.hard = true := by rw [hm]; exact hh
  have hlow := State.checkLow_due hru hhu ((congrArg Run.lowRaised htl :).trans hl) (by rw [hm]; exact hw) (by rw [hm, hlag]; exact hf)
  have hacc := (u.raiseOwn .freeboardLow srcSeq p (lagDetail ((u.pol p).run seq))).run_updRun p seq (fun r => { r with lowRaised := true }) hru
  have hon2 := hon.trans (State.checkLow_onRun hru hhu)
  rw [hlow] at hon2
  refine completes_of_exec (t := u.checkLow p seq) (by rw [← hu]; rfl) ?_
  rw [hlow, hacc]
  refine ⟨rfl, hlag, (congrArg Run.missRaised htl :), hon2.mem, hon2.pols, ?_⟩
  rw [← hcr]
  exact u.raiseLag_band _ _ _

theorem freeboardLow_quiet :
    let r := (s.pol p).run seq
    let lag := max r.lag (s.lagNow r)
    (r.lowRaised = true ∨ r.m.warn = 0 ∨ r.m.warn * (r.m.freeboard : Int) ≤ 16 * ((r.m.freeboard : Int) - lag)) →
    completes (.freeboardLow p seq) s fun t => ((t.pol p).run seq).lag = lag ∧ t.crier = s.crier ∧ t.mem = s.mem := by
  intro r lag hn
  obtain ⟨u, hu, hon, hcr, htl, hlag⟩ := State.updLag_due hr hh
  have hm : ((u.pol p).run seq).m = r.m := hon.hard
  have hl : ((u.pol p).run seq).lowRaised = r.lowRaised := (congrArg Run.lowRaised htl :)
  refine completes_of_exec (t := u.checkLow p seq) (by rw [← hu]; rfl) ?_
  rw [State.checkLow_not (by rw [hm, hl, hlag]; exact hn)]
  exact ⟨hlag, hcr, hon.mem⟩

theorem deadlineMiss_raised :
    let r := (s.pol p).run seq
    let lag := max r.lag (s.lagNow r)
    r.missRaised = false → r.m.freeboard < lag →
    completes (.deadlineMiss p seq) s fun t =>
      let u := (t.pol p).run seq
      u.missRaised = true ∧ u.lag = lag ∧ t.mem = s.mem ∧ (∀ q, q ≠ p.val → t.pol q = s.pol q)
        ∧ t.crier.band = s.crier.band
          ++ (if r.lowRaised = false ∧ r.m.warn ≠ 0 then [⟨.freeboardLow, srcSeq, p, p, lagDetail u⟩] else [])
          ++ [⟨.deadlineMiss, srcSeq, p, p, lagDetail u⟩] := by
  intro r lag hmiss hF
  obtain ⟨u, hu, hon, hcr, htl, hlag⟩ := State.updLag_due hr hh
  have hm : ((u.pol p).run seq).m = r.m := hon.hard
  have hl : ((u.pol p).run seq).lowRaised = r.lowRaised := (congrArg Run.lowRaised htl :)
  have hhu : ((u.pol p).run seq).m.hard = true := by rw [hm]; exact hh
  have honv := State.checkLow_onRun hon.runs hhu
  have haccv := State.checkLow_account (seq := seq) hon.runs
  have hband : (u.checkLow p seq).crier.band = s.crier.band
      ++ if r.lowRaised = false ∧ r.m.warn ≠ 0 then [⟨.freeboardLow, srcSeq, p, p, lagDetail ((u.pol p).run seq)⟩] else [] := by
    split
    · next hd =>
      rw [State.checkLow_due hon.runs hhu (hl.trans hd.1) (by rw [hm]; exact hd.2) (by
        rw [hm, hlag]
        have h0 : (0 : Int) ≤ r.m.warn * r.m.freeboard := by positivity
        have hF' : (r.m.freeboard : Int) < lag := by exact_mod_cast hF
        show 16 * ((r.m.freeboard : Int) - (lag : Nat)) < _
        omega), ← hcr]
      exact u.raiseLag_band _ _ _
    · next hd =>
      rw [State.checkLow_not (by
        rw [hl, hm]
        cases hlow : r.lowRaised with
        | true => exact .inl rfl
        | false => exact .inr (.inl (by_contra fun hw => hd ⟨hlow, hw⟩))), hcr, List.append_nil]
  obtain ⟨v, hv⟩ : ∃ v, v = u.checkLow p seq := ⟨_, rfl⟩
  rw [← hv] at honv haccv hband
  have hmv : ((v.pol p).run seq).m = r.m := honv.hard.trans hm
  have hhv : ((v.pol p).run seq).m.hard = true := by rw [hmv]; exact hh
  have hlagv : ((v.pol p).run seq).lag = lag := by rw [haccv]; exact hlag
  have hmissv : ((v.pol p).run seq).missRaised = false := by
    rw [haccv]
    exact (congrArg Run.missRaised htl :).trans hmiss
  have hdet : lagDetail ((v.pol p).run seq) = lagDetail ((u.pol p).run seq) := by
    rw [haccv]
    exact lagDetail_congr rfl rfl
  have hacc := State.missDeadline_account honv.runs hhv
  have honw := (hon.trans honv).trans (State.missDeadline_onRun honv.runs hhv)
  have hdue := State.missDeadline_due honv.runs hhv hmissv
  have hdet2 : lagDetail (((v.missDeadline p seq).pol p).run seq) = lagDetail ((v.pol p).run seq) := by
    rw [hacc]
    exact lagDetail_congr rfl rfl
  refine completes_of_exec (t := v.missDeadline p seq) ?_ ?_
  · show Host.Outcome.next (((s.updLag p seq).checkLow p seq).checkMiss p seq) = _
    rw [hu, ← hv, State.checkMiss, if_pos (by rw [hmv, hlagv]; exact hF)]
  · refine ⟨by rw [hacc], by rw [hacc]; exact hlagv, honw.mem, honw.pols, ?_⟩
    rw [hdet2, hdet, hdue, ← hdet]
    refine (v.raiseLag_band _ _ _).trans ?_
    rw [hband, hdet]

end

theorem State.updLag_idle {s : State} {p seq : Nat} (h : ¬((s.pol p).isRunning seq = true ∧ ((s.pol p).run seq).m.hard = true)) :
    s.updLag p seq = s := by
  unfold State.updLag
  rw [if_neg (by simpa using h)]

theorem State.checkLow_idle {s : State} {p seq : Nat} (h : ¬((s.pol p).isRunning seq = true ∧ ((s.pol p).run seq).m.hard = true)) :
    s.checkLow p seq = s := by
  unfold State.checkLow
  dsimp only
  rw [if_neg (by
    simp only [Bool.and_eq_true, not_and] at h ⊢
    exact fun h1 => absurd h1.1.1.2 (h h1.1.1.1))]

theorem State.missDeadline_idle {s : State} {p seq : Nat} (h : ¬((s.pol p).isRunning seq = true ∧ ((s.pol p).run seq).m.hard = true)) :
    s.missDeadline p seq = s := by
  unfold State.missDeadline
  dsimp only
  rw [if_pos]
  by_cases hr : (s.pol p).isRunning seq = true
  · have hh : ((s.pol p).run seq).m.hard = false := by simpa [hr] using h
    simp [hh]
  · simp [hr]

theorem deadlineMiss_in_time (s : State) (p : Pol) (seq : Nat)
    (hF : (((s.updLag p seq).pol p).run seq).lag ≤ ((s.pol p).run seq).m.freeboard) :
    exec (.deadlineMiss p seq) s = exec (.freeboardLow p seq) s := by
  show Host.Outcome.next (((s.updLag p seq).checkLow p seq).checkMiss p seq) = .next ((s.updLag p seq).checkLow p seq)
  have hacc : (((s.updLag p seq).checkLow p seq).pol p).run seq = { ((s.updLag p seq).pol p).run seq with
      lowRaised := ((((s.updLag p seq).checkLow p seq).pol p).run seq).lowRaised } ∧
      (((s.updLag p seq).pol p).run seq).m = ((s.pol p).run seq).m := by
    by_cases h : (s.pol p).isRunning seq = true ∧ ((s.pol p).run seq).m.hard = true
    · have hon := State.updLag_onRun h.1 h.2
      exact ⟨State.checkLow_account hon.runs, hon.hard⟩
    · rw [State.updLag_idle h, State.checkLow_idle h]
      exact ⟨rfl, rfl⟩
  rw [State.checkMiss, if_neg]
  rw [hacc.1]
  simp only [not_lt]
  rw [hacc.2]
  exact hF

end Sys2Proof.Machine
end

section
/-! OBLIGATIONS. Tiles and manifests complete. -/

namespace Sys2Proof.Machine

open Sys2Proof

/-! ## A tile completes (R71) -/

/-- The account of a manifest of which a tile of a stream completes. -/
def Run.tileOver (r : Run) (stream : Nat) (d : StreamDecl) (now : Nat) : Run :=
  { r with
    streams := r.streams.set {} stream { r.streams.get {} stream with
      completed := (r.streams.get {} stream).completed + 1, ended := decide ((r.streams.get {} stream).completed + 1 = d.length) }
    lastEnd := if (r.streams.get {} stream).completed + 1 = d.length && (d.hard || !r.m.hard) then now else r.lastEnd }

/-- What a completed tile leaves of the streams. -/
theorem Run.tileOver_streams {r u : Run} {stream : Nat} {d : StreamDecl} {now : Nat} (h : u.streams = (r.tileOver stream d now).streams) :
    (u.streams.get {} stream).completed = (r.streams.get {} stream).completed + 1
      ∧ (u.streams.get {} stream).ended = decide ((r.streams.get {} stream).completed + 1 = d.length)
      ∧ ∀ j, j ≠ stream → u.streams.get {} j = r.streams.get {} j := by
  have hs : u.streams.get {} stream = { r.streams.get {} stream with
      completed := (r.streams.get {} stream).completed + 1, ended := decide ((r.streams.get {} stream).completed + 1 = d.length) } := by
    rw [h]
    exact SMap.get_set_same _ _ _ _
  refine ⟨by rw [hs], by rw [hs], fun j hj => ?_⟩
  rw [h]
  exact SMap.get_set_other _ _ _ _ _ hj

section
variable {s : State} {p : Pol} {seq stream : Nat} {delays : Causes} {c : Schedule} {d : StreamDecl}
  (hr : (s.pol p).isRunning seq = true) (hs : ((s.pol p).run seq).suspended = false)
  (hc : s.schedule ((s.pol p).run seq).m.schedule = some c) (hd : c.streams[stream]? = some d)
  (ht : tileDone d (givesStream c stream) (((s.pol p).run seq).streams.get {} stream) = true)
include hr hs hc hd ht

theorem exec_streamTileComplete {v : State}
    (hv : v = s.updRun p seq fun r => { r with
      streams := r.streams.set {} stream { ((s.pol p).run seq).streams.get {} stream with
        completed := (((s.pol p).run seq).streams.get {} stream).completed + 1
        ended := decide ((((s.pol p).run seq).streams.get {} stream).completed + 1 = d.length) }
      lastEnd := if (((s.pol p).run seq).streams.get {} stream).completed + 1 = d.length && (d.hard || !r.m.hard) then s.alm.now
        else r.lastEnd }) :
    exec (.streamTileComplete p seq stream delays) s = .next (
      if !((s.pol p).run seq).m.hard then v
      else if d.hard then
        ((v.updRun p seq fun r => (v.chargeHeld (r.charge v.clock delays)).lagTo
          (v.alm.now - v.bookedAt ((s.pol p).run seq) c d (((s.pol p).run seq).streams.get {} stream).completed)).checkLow p seq).checkMiss p seq
      else if (((s.pol p).run seq).streams.get {} stream).completed + 1 = d.length && ((s.pol p).run seq).m.deadline < v.alm.now then
        v.raiseOwn .firmLate srcSeq p (leBytes 4 ((s.pol p).run seq).m.tag)
      else v) := by
  subst hv
  show execStreamTileComplete p seq stream delays s = _
  unfold execStreamTileComplete
  simp only [hr, hs, hc, hd, ht, Bool.not_false, Bool.and_self, Bool.not_true, Bool.false_eq_true, if_false]
  rfl

theorem streamTileComplete_completes :
    let r := (s.pol p).run seq
    let x := r.streams.get {} stream
    completes (.streamTileComplete p seq stream delays) s fun t =>
      let u := (t.pol p).run seq
      (u.streams.get {} stream).completed = x.completed + 1 ∧ (u.streams.get {} stream).ended = decide (x.completed + 1 = d.length)
        ∧ (∀ j, j ≠ stream → u.streams.get {} j = r.streams.get {} j) ∧ t.mem = s.mem ∧ (∀ q, q ≠ p.val → t.pol q = s.pol q)
        ∧ (r.m.hard = false → t.crier = s.crier ∧ u.lag = r.lag)
        ∧ (r.m.hard = true → d.hard = true →
          u.lag = max r.lag (s.alm.now - s.bookedAt r c d x.completed) ∧ (r.m.freeboard < u.lag → u.missRaised = true))
        ∧ (r.m.hard = true → d.hard = false → u.lag = r.lag ∧
          t.crier.band.map Event.code = s.crier.band.map Event.code
            ++ if x.completed + 1 = d.length ∧ r.m.deadline < s.alm.now then [Code.firmLate] else []) := by
  intro r x
  obtain ⟨v, hv⟩ : ∃ v, v = s.updRun p seq fun r => { r with
      streams := r.streams.set {} stream { ((s.pol p).run seq).streams.get {} stream with
        completed := (((s.pol p).run seq).streams.get {} stream).completed + 1
        ended := decide ((((s.pol p).run seq).streams.get {} stream).completed + 1 = d.length) }
      lastEnd := if (((s.pol p).run seq).streams.get {} stream).completed + 1 = d.length && (d.hard || !r.m.hard) then s.alm.now
        else r.lastEnd } := ⟨_, rfl⟩
  have hx := exec_streamTileComplete (delays := delays) hr hs hc hd ht hv
  have hacc : (v.pol p).run seq = r.tileOver stream d s.alm.now := by
    rw [hv, State.run_updRun _ _ _ _ hr]
    rfl
  have hpols : ∀ q, q ≠ p.val → v.pol q = s.pol q := fun q hq => by
    rw [hv, State.pol_updRun_other _ _ _ _ _ hq]
  have hmem : v.mem = s.mem := by rw [hv]; rfl
  have hcr : v.crier = s.crier := by rw [hv]; rfl
  have halm : v.alm = s.alm := by rw [hv]; rfl
  have hbook : v.bookedAt r c d x.completed = s.bookedAt r c d x.completed := by rw [hv]; rfl
  obtain ⟨h1, h2, h3⟩ := Run.tileOver_streams (u := (v.pol p).run seq) (r := r) (stream := stream) (d := d) (now := s.alm.now) (by rw [hacc])
  have hlag : ((v.pol p).run seq).lag = r.lag := by rw [hacc]; rfl
  cases hhard : r.m.hard with
  | false =>
    refine completes_of_exec (t := v) (hx.trans (by rw [if_pos (by rw [hhard]; rfl)])) ?_
    exact ⟨h1, h2, h3, hmem, hpols, fun _ => ⟨hcr, hlag⟩, nofun, nofun⟩
  | true =>
    have hne : ¬((!r.m.hard) = true) := by rw [hhard]; decide
    cases hdh : d.hard with
    | false =>
      obtain ⟨w, hw⟩ : ∃ w, w = if (x.completed + 1 = d.length && r.m.deadline < v.alm.now) = true then
          v.raiseOwn .firmLate srcSeq p (leBytes 4 r.m.tag) else v := ⟨_, rfl⟩
      have hwp : w.pols = v.pols := by rw [hw]; split <;> rfl
      have hwpol : ∀ q, w.pol q = v.pol q := fun q => by rw [State.pol, State.pol, hwp]
      refine completes_of_exec (t := w) (hx.trans (by rw [if_neg hne, if_neg (by rw [hdh]; decide), hw])) ?_
      dsimp only
      rw [hwpol]
      refine ⟨h1, h2, h3, ?_, fun q hq => (hwpol q).trans (hpols q hq), nofun, fun _ => nofun, fun _ _ => ⟨hlag, ?_⟩⟩
      · rw [hw]
        split <;> exact hmem
      · rw [hw, ← hcr, ← halm]
        by_cases hl : x.completed + 1 = d.length ∧ r.m.deadline < v.alm.now
        · rw [if_pos (by simpa using hl), if_pos hl]
          exact List.map_append
        · rw [if_neg (by simpa using hl), if_neg hl, List.append_nil]
    | true =>
      have hon : OnRun p.val seq s v := by
        rw [hv]
        exact OnRun.updRun _ hr hhard rfl
      have hhv : ((v.pol p).run seq).m.hard = true := by rw [hon.hard]; exact hhard
      have hrv := hon.runs
      obtain ⟨w, hw⟩ : ∃ w, w = v.updRun p seq fun r' => (v.chargeHeld (r'.charge v.clock delays)).lagTo
          (v.alm.now - v.bookedAt r c d x.completed) := ⟨_, rfl⟩
      have htl : ((w.pol p).run seq).timeless = ((v.pol p).run seq).timeless := by
        rw [hw, State.run_updRun _ _ _ _ hrv, Run.lagTo_timeless, State.chargeHeld_timeless, Run.charge_timeless]
      have hlagw : ((w.pol p).run seq).lag = max r.lag (s.alm.now - s.bookedAt r c d x.completed) := by
        rw [hw, State.run_updRun _ _ _ _ hrv, Run.lagTo_lag, State.chargeHeld_lag, Run.charge_lag, hlag, hbook, halm]
      have honw : OnRun p.val seq v w := by
        rw [hw]
        refine OnRun.updRun _ hrv hhv ?_
        exact (congrArg Run.m ((Run.lagTo_timeless _ _).trans ((State.chargeHeld_timeless _ _).trans (Run.charge_timeless _ _ _))) :)
      have hhw : ((w.pol p).run seq).m.hard = true := by rw [honw.hard]; exact hhv
      have hony := State.checkLow_onRun honw.runs hhw
      have hhy : (((w.checkLow p seq).pol p).run seq).m.hard = true := by rw [hony.hard]; exact hhw
      have honz := State.checkMiss_onRun hony.runs hhy
      have haccz := State.checkMiss_account hony.runs hhy
      rw [State.checkLow_account honw.runs] at haccz
      have hall := hon.trans (honw.trans (hony.trans honz))
      have hst : ((((w.checkLow p seq).checkMiss p seq).pol p).run seq).streams = (r.tileOver stream d s.alm.now).streams := by
        rw [haccz, ← hacc]
        exact (congrArg Run.streams htl :)
      obtain ⟨k1, k2, k3⟩ := Run.tileOver_streams hst
      refine completes_of_exec (t := (w.checkLow p seq).checkMiss p seq)
        (hx.trans (by rw [if_neg hne, if_pos hdh, hw])) ?_
      refine ⟨k1, k2, k3, hall.mem, hall.pols, nofun, fun _ _ => ⟨?_, fun hF => ?_⟩, fun _ => nofun⟩
      · rw [haccz]
        exact hlagw
      · rw [haccz] at hF ⊢
        have hmw : ((w.pol p).run seq).m = r.m := honw.hard.trans hon.hard
        have hF' : ((w.pol p).run seq).m.freeboard < ((w.pol p).run seq).lag := by rw [hmw]; exact hF
        exact (congrArg (_ || ·) (decide_eq_true hF')).trans (Bool.or_true _)

end

/-! ## A manifest ends (R50) -/

/-- The Hands of a manifest that has ended run it no more. -/
theorem State.endRun_frees (s : State) (p seq status end_ left : Nat) (hr : (s.pol p).isRunning seq = true) (h : Nat) :
    ((s.endRun p seq status end_ left).hand h).runs p seq = false := by
  have hall : ∀ (m : SMap Hand) (e : Nat × Hand), e ∈ m.mapAll {} (fun _ h => if h.runs p seq then h.release else h) →
      e.2.runs p seq = false := fun m e he =>
    SMap.of_mem_mapAll he (P := fun h : Hand => h.runs p seq = false) fun x _ => by
      split
      · rfl
      · next hn => exact Bool.not_eq_true _ ▸ hn
  rw [State.endRun, if_neg (by simp [hr])]
  dsimp only
  rw [State.hand, State.manifestRecord_hands, State.updPol_hands]
  dsimp only
  generalize (State.endOps _ _).hands = m
  by_cases hz : (m.mapAll {} fun _ h => if h.runs p seq then h.release else h).get {} h = {}
  · rw [hz]
    rfl
  · exact hall m _ (SMap.mem_of_get _ _ _ hz)

theorem recordBytes_halves (end_ tag status gen left : Nat) :
    slice (recordBytes end_ tag status gen left) 8 8 ++ slice (recordBytes end_ tag status gen left) 0 8
      = leBytes 4 tag ++ [BitVec.ofNat 8 status, BitVec.ofNat 8 gen] ++ leBytes 2 (min left 0xFFFF) ++ leBytes 8 end_ := by
  have hr : recordBytes end_ tag status gen left
      = leBytes 8 end_ ++ ((leBytes 4 tag ++ [BitVec.ofNat 8 status, BitVec.ofNat 8 gen] ++ leBytes 2 (min left 0xFFFF)) ++ []) := by
    simp [recordBytes, leBytes]
  rw [hr, slice_append_head _ _ _ (leBytes_length 8 end_),
    slice_append_mid _ _ _ _ _ (leBytes_length 8 end_) (by simp [leBytes_length])]

/-- A record that goes nowhere is settled at once, and MANIFEST_DONE is the last event. -/
theorem State.manifestRecord_done (s : State) (p : Nat) (m : Manifest) (status end_ left : Nat) (hn : m.notify = true)
    (hc : m.completion = 0) (hs : status ≠ stStale) :
    ∃ e, (s.manifestRecord p m status end_ left).crier.band.getLast? = some e ∧ e.code = .manifestDone ∧ e.book = p
      ∧ e.detail = leBytes 4 m.tag ++ [BitVec.ofNat 8 status, BitVec.ofNat 8 m.gen] ++ leBytes 2 (min left 0xFFFF) ++ leBytes 8 end_ := by
  obtain ⟨r, hr⟩ : ∃ r : RecordWait, r = { seq := m.seq, va := m.completion, tag := m.tag, bytes := recordBytes end_ m.tag status m.gen left
                                           stale := status = stStale, notify := m.notify && status ≠ stStale } := ⟨_, rfl⟩
  have hva : r.va = 0 := by rw [hr]; exact hc
  have hno : r.notify = true := by rw [hr]; simp [hn, hs]
  have hb : r.bytes = recordBytes end_ m.tag status m.gen left := by rw [hr]
  rw [State.manifestRecord, ← hr, State.postRecord, State.settleRecord, if_pos (by simp [hva]), State.recordOver, if_pos hno, hb, recordBytes_halves]
  refine ⟨_, List.getLast?_concat, rfl, rfl, ?_⟩
  exact slice_whole _ _ (by simp [leBytes_length])

theorem State.endRun_done (s : State) (p seq status end_ left : Nat) (hr : (s.pol p).isRunning seq = true)
    (hn : ((s.pol p).run seq).m.notify = true) (hc : ((s.pol p).run seq).m.completion = 0) (hs : status ≠ stStale) :
    ∃ e, (s.endRun p seq status end_ left).crier.band.getLast? = some e ∧ e.code = .manifestDone ∧ e.book = p
      ∧ e.detail = leBytes 4 ((s.pol p).run seq).m.tag ++ [BitVec.ofNat 8 status, BitVec.ofNat 8 ((s.pol p).run seq).m.gen]
        ++ leBytes 2 (min left 0xFFFF) ++ leBytes 8 end_ := by
  rw [State.endRun, if_neg (by simp [hr])]
  exact State.manifestRecord_done _ p _ _ _ _ hn hc hs

/-- The events of the lag leave of a running manifest's account all but what has been raised, which its status already shows. -/
theorem State.lagEvents_account {s : State} {p seq : Nat} (hr : (s.pol p).isRunning seq = true) {t : State}
    (ht : t = (s.checkLow p seq).checkMiss p seq) :
    (t.pol p).isRunning seq = true ∧ t.alm = s.alm ∧ ((t.pol p).run seq).m = ((s.pol p).run seq).m
      ∧ ((t.pol p).run seq).lastEnd = ((s.pol p).run seq).lastEnd
      ∧ freeboardLeft ((t.pol p).run seq) = freeboardLeft ((s.pol p).run seq)
      ∧ ∀ e, finalStatus ((t.pol p).run seq) e = finalStatus ((s.pol p).run seq) e := by
  subst ht
  by_cases hh : ((s.pol p).run seq).m.hard = true
  · have hon := State.checkLow_onRun hr hh
    have hh2 : (((s.checkLow p seq).pol p).run seq).m.hard = true := by rw [hon.hard]; exact hh
    have hon2 := State.checkMiss_onRun hon.runs hh2
    have hacc := State.checkMiss_account hon.runs hh2
    rw [State.checkLow_account hr] at hacc
    refine ⟨hon2.runs, (hon.trans hon2).alm, (hon.trans hon2).hard, ?_, ?_, fun e => ?_⟩
    · rw [hacc]
    · rw [hacc]
      rfl
    · rw [hacc]
      simp only [finalStatus, hh, Bool.or_assoc, Bool.or_self]
  · have hidle : ¬((s.pol p).isRunning seq = true ∧ ((s.pol p).run seq).m.hard = true) := fun h => hh h.2
    have hmiss : s.checkMiss p seq = s := by
      rw [State.checkMiss, State.missDeadline_idle hidle, ite_self]
    rw [State.checkLow_idle hidle, hmiss]
    exact ⟨hr, rfl, rfl, rfl, rfl, fun _ => rfl⟩

theorem finalStatus_ne_stale (r : Run) (e : Nat) : finalStatus r e ≠ stStale := by
  unfold finalStatus
  split <;> split <;> decide

theorem State.updLag_runs {s : State} {p seq : Nat} (hr : (s.pol p).isRunning seq = true) :
    ((s.updLag p seq).pol p).isRunning seq = true ∧ (((s.updLag p seq).pol p).run seq).m = ((s.pol p).run seq).m := by
  by_cases h : (s.pol p).isRunning seq = true ∧ ((s.pol p).run seq).m.hard = true
  · have hon := State.updLag_onRun h.1 h.2
    exact ⟨hon.runs, hon.hard⟩
  · rw [State.updLag_idle h]
    exact ⟨hr, rfl⟩

/-- The bytes that a schedule's collective steps used up are counted. -/
def State.tallied (s : State) (p : Nat) (c : Schedule) : State :=
  s.updPol p fun q => { q with tallyUsed := c.colls.foldl (fun u x => u.upd 0 x.tally (· + x.bytes)) q.tallyUsed }

theorem State.tallied_running (s : State) (p : Nat) (c : Schedule) : ((s.tallied p c).pol p).running = (s.pol p).running := by
  rw [State.tallied, State.pol_updPol]

theorem manifestComplete_completes (s : State) (p : Pol) (seq : Nat) (c : Schedule) (hr : (s.pol p).isRunning seq = true)
    (hc : s.schedule ((s.pol p).run seq).m.schedule = some c) :
    let r := ((s.updLag p seq).pol p).run seq
    let end_ := if r.lastEnd = 0 then s.alm.now else r.lastEnd
    ((s.updLag p seq).retryRecords p).runDone p seq r c = true →
    completes (.manifestComplete p seq) s fun t =>
      (t.pol p).isRunning seq = false ∧ (∀ h, ((t.hand h).runs p seq) = false)
        ∧ (r.m.notify = true → r.m.completion = 0 → ∃ e, t.crier.band.getLast? = some e ∧ e.code = .manifestDone ∧ e.book = p.val
          ∧ e.detail = leBytes 4 r.m.tag ++ [BitVec.ofNat 8 (finalStatus r end_), BitVec.ofNat 8 r.m.gen]
            ++ leBytes 2 (min (freeboardLeft r) 0xFFFF) ++ leBytes 8 end_) := by
  intro r end_ hdone
  have hlag := State.updLag_runs hr
  have hsch : (s.updLag p seq).schedule r.m.schedule = some c := by
    rw [← hc, hlag.2]
    unfold State.updLag
    split <;> rfl
  have hnow : (s.updLag p seq).alm = s.alm := by
    unfold State.updLag
    split <;> rfl
  have hctl := State.retryRecords_ctl (s.updLag p seq) p
  have hrun : (((s.updLag p seq).retryRecords p).pol p).run seq = r := by
    rw [Polder.run, State.running_of_ctl hctl]
    rfl
  have hrr : (((s.updLag p seq).retryRecords p).pol p).isRunning seq = true := by
    rw [State.isRunning_of_ctl hctl]
    exact hlag.1
  have halm : ((s.updLag p seq).retryRecords p).alm = (s.updLag p seq).alm := (congrArg (fun c : Ctl => c.rest.alm) hctl :)
  obtain ⟨v, hv⟩ : ∃ v, v = (((s.updLag p seq).retryRecords p).checkLow p seq).checkMiss p seq := ⟨_, rfl⟩
  obtain ⟨k1, k2, k3, k4, k5, k6⟩ := State.lagEvents_account hrr hv
  rw [hrun] at k3 k4 k5 k6
  have hend : (if ((v.pol p).run seq).lastEnd = 0 then v.alm.now else ((v.pol p).run seq).lastEnd) = end_ := by
    rw [k4, k2, halm, hnow]
  obtain ⟨w, hw⟩ : ∃ w, w = (let x := v.tallied p.val c
      if finalStatus r end_ = stDoneLate then x.raiseOwn .firmLate srcSeq p.val (leBytes 4 r.m.tag) else x) := ⟨_, rfl⟩
  have hwr : (w.pol p).running = (v.pol p).running := by
    rw [hw]
    dsimp only
    split
    · exact State.tallied_running v p c
    · exact State.tallied_running v p c
  have hwi : (w.pol p).isRunning seq = true := by
    rw [Polder.isRunning, hwr]
    exact k1
  have hwm : ((w.pol p).run seq).m = r.m := by
    rw [Polder.run, hwr]
    exact k3
  refine completes_of_exec (t := w.endRun p.val seq (finalStatus r end_) end_ (freeboardLeft r)) ?_ ⟨?_, ?_, fun hn h0 => ?_⟩
  · show execManifestComplete p seq s = _
    unfold execManifestComplete
    dsimp only
    rw [hlag.1, hsch]
    dsimp only
    rw [if_neg (by rw [hdone]; decide), ← hv, hend, k6, k5, k3, hw]
    rfl
  · rw [State.endRun_isRunning]
    simp
  · exact State.endRun_frees w p seq _ _ _ hwi
  · obtain ⟨e, he⟩ := State.endRun_done w p seq (finalStatus r end_) end_ (freeboardLeft r) hwi (by rw [hwm]; exact hn) (by rw [hwm]; exact h0)
      (finalStatus_ne_stale _ _)
    rw [hwm] at he
    exact ⟨e, he⟩

theorem lagCommands_idle (s : State) (p : Pol) (seq : Nat) (hr : (s.pol p).isRunning seq = false) :
    exec (.freeboardLow p seq) s = .next s ∧ exec (.manifestComplete p seq) s = .next s := by
  have hidle : ¬((s.pol p).isRunning seq = true ∧ ((s.pol p).run seq).m.hard = true) := by simp [hr]
  refine ⟨?_, ?_⟩
  · show Host.Outcome.next ((s.updLag p seq).checkLow p seq) = _
    rw [State.updLag_idle hidle, State.checkLow_idle hidle]
  · show execManifestComplete p seq s = _
    unfold execManifestComplete
    dsimp only
    rw [State.updLag_idle hidle, hr]

/-- Settles O14: each command brings one account up to date and raises what is due by it. -/
theorem streamsAndManifestsComplete : Obligations.StreamsAndManifestsComplete := by
  unfold Obligations.StreamsAndManifestsComplete
  exact ⟨fun _ _ _ _ _ _ _ hr hs hc hd ht => streamTileComplete_completes hr hs hc hd ht, manifestComplete_completes,
    fun _ _ _ hr hh => freeboardLow_raised hr hh, fun _ _ _ hr hh => freeboardLow_quiet hr hh,
    fun _ _ _ hr hh => deadlineMiss_raised hr hh, deadlineMiss_in_time, lagCommands_idle⟩

end Sys2Proof.Machine
end

section
/-! OBLIGATIONS. A pickup takes what is ready in the ring, and a start runs the first pending manifest. -/

namespace Sys2Proof.Machine

open Sys2Proof

/-! ## What a completion record leaves alone -/

section
variable {s t : State} (h : t.ctl = s.ctl)
include h

theorem State.alm_of_ctl : t.alm = s.alm := (congrArg (fun c : Ctl => c.rest.alm) h :)
theorem State.polCore_of_ctl (p : Nat) : (t.pol p).core = (s.pol p).core := (congrArg (fun c : Ctl => c.pol p) h :)
theorem State.takenNow_of_ctl (p : Nat) : (t.pol p).takenNow = (s.pol p).takenNow :=
  (congrArg Polder.takenNow (State.polCore_of_ctl h p) :)

end

theorem State.alm_of_bare {s t : State} (h : t.bare = s.bare) : t.alm = s.alm := (congrArg (fun c : Ctl => c.rest.alm) h :)
theorem State.pending_of_bare {s t : State} (h : t.bare = s.bare) (p : Nat) : (t.pol p).pending = (s.pol p).pending :=
  (congrArg (fun c : Ctl => (c.pol p).pending) h :)

theorem State.refuse_ctl (s : State) (p : Nat) (m : Manifest) (reason bound tb : Nat) : (s.refuse p m reason bound tb).ctl = s.ctl := by
  rw [State.refuse, State.manifestRecord_ctl, State.raiseOwn_ctl]

/-- A refused manifest is reported in its polder's day book. -/
theorem State.refuse_reports (s : State) (p : Nat) (m : Manifest) (reason bound tb : Nat) :
    ∃ e l, (s.refuse p m reason bound tb).crier.band = s.crier.band ++ e :: l ∧ e.code = .admissionRefused ∧ e.book = p := by
  obtain ⟨v, hv⟩ : ∃ v, v = s.raiseOwn .admissionRefused srcSeq p
    (leBytes 1 reason ++ leBytes 3 0 ++ leBytes 4 m.tag ++ leBytes 8 bound) := ⟨_, rfl⟩
  obtain ⟨l, hl⟩ := State.exists_band (State.told_manifestRecord v.told_self p m stRefused tb 0)
  refine ⟨⟨.admissionRefused, srcSeq, p, p, slice (leBytes 1 reason ++ leBytes 3 0 ++ leBytes 4 m.tag ++ leBytes 8 bound) 0 16⟩, l, ?_, rfl, rfl⟩
  rw [State.refuse, ← hv, hl, hv]
  exact List.append_assoc _ _ _

/-! ## One slot (R44) -/

/-- What the state of a polder's ring shows of a slot that has been handled. -/
structure Handled (p : Nat) (s t : State) : Prop where
  taken : (t.pol p).takenNow = (s.pol p).takenNow + 1
  consumer : (t.pol p).consumer = ((s.pol p).consumer + 1) % (s.pol p).slots
  seq : (t.pol p).seqNext = (s.pol p).seqNext + 1

theorem handled_of_core {p : Nat} {s t : State} (f : Polder → Polder) (h : (t.pol p).core = (f (s.pol p).consume).core)
    (hf : ∀ q, (f q).takenNow = q.takenNow ∧ (f q).consumer = q.consumer ∧ (f q).seqNext = q.seqNext) : Handled p s t where
  taken := (congrArg Polder.takenNow h :).trans (hf _).1
  consumer := (congrArg Polder.consumer h :).trans (hf _).2.1
  seq := (congrArg Polder.seqNext h :).trans (hf _).2.2

/-- The slot is turned away: it is counted, reported and recorded. -/
def State.rejectSlot (s : State) (p : Nat) (m : Manifest) (tb : Nat) : State :=
  ((s.updPol p fun q => { q with rejects := satAdd 0xFFFF q.rejects 1 }).raiseOwn .manifestReject srcSeq p
    (leBytes 4 m.tag ++ leBytes 4 m.slot)).manifestRecord p m stRejected tb 0

/-- The slot is of an earlier generation. -/
def State.staleSlot (s : State) (p : Nat) (m : Manifest) (tb : Nat) : State :=
  (s.updPol p fun q => { q with stale := satAdd 0xFFFF q.stale 1 }).manifestRecord p m stStale tb 0

theorem State.handleSlot_eq (s : State) (p tb : Nat) (raw : List Byte) :
    s.handleSlot p tb raw =
      let m := parseManifest raw (s.pol p).seqNext (s.pol p).consumer tb
      let u := s.updPol p Polder.consume
      if field (leAt raw 0 8) 42 6 ≠ p then u.rejectSlot p m tb
      else if m.gen ≠ (s.pol p).gen then u.staleSlot p m tb
      else if !u.slotOk p raw then u.rejectSlot p m tb
      else u.takeManifest p m tb := rfl

theorem State.rejectSlot_core (s : State) (p : Nat) (m : Manifest) (tb : Nat) :
    ((s.rejectSlot p m tb).pol p).core = { (s.pol p).core with rejects := satAdd 0xFFFF (s.pol p).rejects 1 } := by
  have hc := State.polCore_of_ctl (s := s.updPol p fun q => { q with rejects := satAdd 0xFFFF q.rejects 1 }) (t := s.rejectSlot p m tb)
    (by rw [State.rejectSlot, State.manifestRecord_ctl, State.raiseOwn_ctl]) p
  rw [hc, State.pol_updPol]
  rfl

theorem State.staleSlot_core (s : State) (p : Nat) (m : Manifest) (tb : Nat) :
    ((s.staleSlot p m tb).pol p).core = { (s.pol p).core with stale := satAdd 0xFFFF (s.pol p).stale 1 } := by
  have hc := State.polCore_of_ctl (s := s.updPol p fun q => { q with stale := satAdd 0xFFFF q.stale 1 }) (t := s.staleSlot p m tb)
    (by rw [State.staleSlot, State.manifestRecord_ctl]) p
  rw [hc, State.pol_updPol]
  rfl

/-- The state in which a manifest is tried for admission. -/
def State.trying (s : State) (p : Nat) (m : Manifest) : State := s.updPol p fun q => { q with prev := some m.seq }

theorem State.takeManifest_admitted {s : State} {p tb : Nat} {m x : Manifest}
    (h : (s.trying p m).admission p { m with prev := (s.pol p).prev } tb = .admitted x) :
    s.takeManifest p m tb = (s.trying p m).updPol p fun q => { q with pending := q.pending ++ [x] } := by
  unfold State.takeManifest
  dsimp only
  unfold State.trying at h ⊢
  rw [h]

theorem State.takeManifest_refused {s : State} {p tb reason bound : Nat} {m : Manifest}
    (h : (s.trying p m).admission p { m with prev := (s.pol p).prev } tb = .refused reason bound) :
    s.takeManifest p m tb = (s.trying p m).refuse p { m with prev := (s.pol p).prev } reason bound tb := by
  unfold State.takeManifest
  dsimp only
  unfold State.trying at h ⊢
  rw [h]

theorem State.trying_core (s : State) (p : Nat) (m : Manifest) :
    ((s.trying p m).pol p).core = { (s.pol p).core with prev := some m.seq } := by
  rw [State.trying, State.pol_updPol]
  rfl

theorem State.takeManifest_core (s : State) (p : Nat) (m : Manifest) (tb : Nat) :
    ∃ l, ((s.takeManifest p m tb).pol p).core = { (s.pol p).core with prev := some m.seq, pending := l } := by
  cases h : (s.trying p m).admission p { m with prev := (s.pol p).prev } tb with
  | admitted x =>
    refine ⟨(s.pol p).pending ++ [x], ?_⟩
    rw [State.takeManifest_admitted h, State.pol_updPol, State.trying, State.pol_updPol]
    rfl
  | refused reason bound =>
    refine ⟨(s.pol p).pending, ?_⟩
    rw [State.takeManifest_refused h, State.polCore_of_ctl (State.refuse_ctl _ _ _ _ _ _) p, State.trying_core]
    rfl

theorem State.handleSlot_handled (s : State) (p tb : Nat) (raw : List Byte) : Handled p s (s.handleSlot p tb raw) := by
  have hu : (s.updPol p Polder.consume).pol p = (s.pol p).consume := s.pol_updPol p _
  rw [State.handleSlot_eq]
  extract_lets m u
  have hrej := (s.updPol p Polder.consume).rejectSlot_core p (parseManifest raw (s.pol p).seqNext (s.pol p).consumer tb) tb
  have hst := (s.updPol p Polder.consume).staleSlot_core p (parseManifest raw (s.pol p).seqNext (s.pol p).consumer tb) tb
  obtain ⟨l, htk⟩ := (s.updPol p Polder.consume).takeManifest_core p (parseManifest raw (s.pol p).seqNext (s.pol p).consumer tb) tb
  rw [hu] at hrej hst htk
  split
  · exact handled_of_core (fun q => { q with rejects := satAdd 0xFFFF (s.pol p).consume.rejects 1 }) hrej fun _ => ⟨rfl, rfl, rfl⟩
  split
  · exact handled_of_core (fun q => { q with stale := satAdd 0xFFFF (s.pol p).consume.stale 1 }) hst fun _ => ⟨rfl, rfl, rfl⟩
  split
  · exact handled_of_core (fun q => { q with rejects := satAdd 0xFFFF (s.pol p).consume.rejects 1 }) hrej fun _ => ⟨rfl, rfl, rfl⟩
  · exact handled_of_core (fun q => { q with prev := some (parseManifest raw (s.pol p).seqNext (s.pol p).consumer tb).seq, pending := l })
      htk fun _ => ⟨rfl, rfl, rfl⟩

theorem handleSlot_acts (s : State) (p : Pol) (tb : Nat) (raw : List Byte) :
    let q := s.pol p
    let m := parseManifest raw q.seqNext q.consumer tb
    let u := s.handleSlot p tb raw
    let v := (s.updPol p Polder.consume).updPol p fun q => { q with prev := some (s.pol p).seqNext }
    (u.pol p).takenNow = q.takenNow + 1 ∧ (u.pol p).consumer = (q.consumer + 1) % q.slots ∧ (u.pol p).seqNext = q.seqNext + 1 ∧
    (field (leAt raw 0 8) 42 6 ≠ p → (u.pol p).rejects = satAdd 0xFFFF q.rejects 1 ∧ (u.pol p).pending = q.pending) ∧
    (field (leAt raw 0 8) 42 6 = p → m.gen ≠ q.gen →
      (u.pol p).stale = satAdd 0xFFFF q.stale 1 ∧ (u.pol p).rejects = q.rejects ∧ (u.pol p).pending = q.pending) ∧
    (field (leAt raw 0 8) 42 6 = p → m.gen = q.gen → (s.updPol p Polder.consume).slotOk p raw = false →
      (u.pol p).rejects = satAdd 0xFFFF q.rejects 1 ∧ (u.pol p).pending = q.pending) ∧
    (field (leAt raw 0 8) 42 6 = p → m.gen = q.gen → (s.updPol p Polder.consume).slotOk p raw = true →
      (∀ x, v.admission p { m with prev := q.prev } tb = .admitted x → (u.pol p).pending = q.pending ++ [x] ∧ u.mem = s.mem) ∧
      (∀ reason bound, v.admission p { m with prev := q.prev } tb = .refused reason bound →
        (u.pol p).pending = q.pending ∧ ∃ e l, u.crier.band = s.crier.band ++ e :: l ∧ e.code = .admissionRefused ∧ e.book = p.val)) := by
  intro q m u v
  have hh := s.handleSlot_handled p tb raw
  have hw : (s.updPol p Polder.consume).pol p = q.consume := s.pol_updPol p _
  have hu := s.handleSlot_eq p tb raw
  have hrej : u = (s.updPol p Polder.consume).rejectSlot p m tb → (u.pol p).rejects = satAdd 0xFFFF q.rejects 1 ∧ (u.pol p).pending = q.pending := by
    intro he
    have hc := (s.updPol p Polder.consume).rejectSlot_core p m tb
    rw [hw, ← he] at hc
    exact ⟨(congrArg Polder.rejects hc :), (congrArg Polder.pending hc :)⟩
  have hprev : ((s.updPol p Polder.consume).pol p).prev = q.prev := by rw [hw]; rfl
  refine ⟨hh.taken, hh.consumer, hh.seq, fun h => hrej ?_, fun h hg => ?_, fun h hg hk => hrej ?_, fun h hg hk => ?_⟩
  · exact hu.trans (if_pos h)
  · have he : u = (s.updPol p Polder.consume).staleSlot p m tb := hu.trans (by rw [if_neg (by simpa using h), if_pos hg])
    have hc := (s.updPol p Polder.consume).staleSlot_core p m tb
    rw [hw, ← he] at hc
    exact ⟨(congrArg Polder.stale hc :), (congrArg Polder.rejects hc :), (congrArg Polder.pending hc :)⟩
  · exact hu.trans (by rw [if_neg (by simpa using h), if_neg (by simpa using hg), if_pos (by rw [hk]; rfl)])
  · have he : u = (s.updPol p Polder.consume).takeManifest p m tb :=
      hu.trans (by rw [if_neg (by simpa using h), if_neg (by simpa using hg), if_neg (by rw [hk]; decide)])
    refine ⟨fun x hx => ?_, fun reason bound hx => ?_⟩
    · have ht := State.takeManifest_admitted (s := s.updPol p Polder.consume) (m := m) (by rw [hprev]; exact hx)
      rw [he, ht]
      refine ⟨?_, rfl⟩
      rw [State.pol_updPol, State.trying, State.pol_updPol, hw]
      rfl
    · have ht := State.takeManifest_refused (s := s.updPol p Polder.consume) (m := m) (by rw [hprev]; exact hx)
      rw [he, ht]
      refine ⟨?_, State.refuse_reports _ p _ _ _ _⟩
      rw [State.pending_of_ctl (State.refuse_ctl _ _ _ _ _ _), State.trying, State.pol_updPol, hw]
      rfl

/-! ## A pickup (R45) -/

/-- What a fuel of slots takes: at most so many, and never one back. -/
theorem State.takeSlots_taken (s : State) (p tb fuel : Nat) :
    (s.pol p).takenNow ≤ ((s.takeSlots p tb fuel).pol p).takenNow
      ∧ ((s.takeSlots p tb fuel).pol p).takenNow ≤ (s.pol p).takenNow + fuel := by
  induction fuel generalizing s with
  | zero => exact ⟨le_refl _, le_refl _⟩
  | succ n ih =>
    unfold State.takeSlots
    dsimp only
    split
    · exact ⟨le_refl _, Nat.le_add_right _ _⟩
    split
    · exact ⟨le_refl _, Nat.le_add_right _ _⟩
    split
    · exact ⟨le_refl _, Nat.le_add_right _ _⟩
    split
    · exact ⟨le_refl _, Nat.le_add_right _ _⟩
    · obtain ⟨h1, h2⟩ := ih (s.handleSlot p tb (s.peek (dpaOffset (s.pol p).ringBase + 128 * ((s.pol p).consumer + 1)) 128))
      have ht := (s.handleSlot_handled p tb (s.peek (dpaOffset (s.pol p).ringBase + 128 * ((s.pol p).consumer + 1)) 128)).taken
      omega

/-- Trying restored manifests again takes none from the ring and no time. -/
theorem State.readmit_keeps (s : State) (p tb : Nat) :
    (s.readmit p tb).alm = s.alm ∧ ((s.readmit p tb).pol p).takenNow = (s.pol p).takenNow := by
  have h := foldl_keeps_proj (fun u : State => (u.alm, (u.pol p).takenNow)) (fun s m =>
    if !m.readmit then s else
    match s.admission p m tb with
    | .admitted m' => s.updPol p fun q => { q with pending := q.pending.map fun x => if x.seq = m.seq then m' else x }
    | .refused reason bound =>
      (s.updPol p fun q => { q with pending := q.pending.filter fun x => x.seq ≠ m.seq }).refuse p m reason bound tb) (fun u m => ?_)
    (s.pol p).pending s
  · exact ⟨(congrArg Prod.fst h :), (congrArg Prod.snd h :)⟩
  · split
    · rfl
    split
    · rw [State.pol_updPol]
      rfl
    · have hc := State.refuse_ctl (u.updPol p fun q => { q with pending := q.pending.filter fun x => x.seq ≠ m.seq }) p m
      rw [State.alm_of_ctl (hc _ _ _), State.takenNow_of_ctl (hc _ _ _), State.pol_updPol]
      rfl

theorem pickup_takes (s : State) (p : Pol) (tb cycle : Nat) (hb : s.tide.boundary = some tb) (hc : pickupCycle s.table p = some cycle)
    (hst : s.boot.stage = 4) (ho : s.tide.open_ = true) (hcy : s.alm.now - tb ≤ cycle) (hp : (s.pol p).picks = true)
    (hh : s.held srcSeq p = false) (hpt : (s.pol p).pickedTide ≠ some tb) :
    let v := (((s.advanceTo (tb + cycle)).updPol p fun q => { q with pickedTide := some tb, takenNow := 0 }).readmit p tb).retryRecords p
    let slot := dpaOffset (v.pol p).ringBase + 128 * ((v.pol p).consumer + 1)
    let raw := v.peek slot 128
    v.alm.now = (tb + cycle) % 2 ^ 64 ∧
    (16 ≤ (v.pol p).pending.length → exec (.pickup p) s = .next v) ∧
    ((v.pol p).pending.length < 16 → v.homeFenced (slot / 1024) = true →
      exec (.pickup p) s = .next (v.raiseOwn .fencedTarget srcSeq p (addrDetail slot 3))) ∧
    ((v.pol p).pending.length < 16 → v.homeFenced (slot / 1024) = false → v.peekPoison slot 128 = true →
      exec (.pickup p) s = .next (v.raiseOwn .poisonRead srcSeq p (addrDetail slot 3))) ∧
    ((v.pol p).pending.length < 16 → v.homeFenced (slot / 1024) = false → v.peekPoison slot 128 = false →
      ((leAt raw 0 8).testBit 63 ≠ (v.pol p).ringPhase → exec (.pickup p) s = .next v) ∧
      ((leAt raw 0 8).testBit 63 = (v.pol p).ringPhase →
        completes (.pickup p) s fun t =>
          t = ((v.handleSlot p tb raw).takeSlots p tb 3).writeHeader p tb
            ∧ 1 ≤ (((v.handleSlot p tb raw).takeSlots p tb 3).pol p).takenNow
            ∧ (((v.handleSlot p tb raw).takeSlots p tb 3).pol p).takenNow ≤ 4)) := by
  intro v slot raw
  have hnow : v.alm.now = (tb + cycle) % 2 ^ 64 := by
    rw [State.alm_of_ctl (State.retryRecords_ctl _ _), (State.readmit_keeps _ _ _).1]
    exact State.advanceTo_now s _
  have h0 : (v.pol p).takenNow = 0 := by
    rw [State.takenNow_of_ctl (State.retryRecords_ctl _ _), (State.readmit_keeps _ _ _).2, State.pol_updPol]
  have hx : exec (.pickup p) s = .next (if ((v.takeSlots p tb 4).pol p).takenNow = 0 then v.takeSlots p tb 4
      else (v.takeSlots p tb 4).writeHeader p tb) := by
    show execPickup p s = _
    unfold execPickup
    rw [hb, hc]
    dsimp only
    rw [if_neg (by simp [hst, ho, hp, hh, hpt]; omega)]
  have hstop : ∀ u : State, v.takeSlots p tb 4 = u → (u.pol p).takenNow = 0 → exec (.pickup p) s = .next u := fun u hu hz => by
    rw [hx, hu, if_pos hz]
  clear_value v
  have hts : v.takeSlots p tb 4 =
      if 16 ≤ (v.pol p).pending.length then v
      else if v.homeFenced (slot / 1024) = true then v.raiseOwn .fencedTarget srcSeq p (addrDetail slot 3)
      else if v.peekPoison slot 128 = true then v.raiseOwn .poisonRead srcSeq p (addrDetail slot 3)
      else if (leAt raw 0 8).testBit 63 ≠ (v.pol p).ringPhase then v else (v.handleSlot p tb raw).takeSlots p tb 3 := rfl
  refine ⟨hnow, fun hf => ?_, fun hf hfe => ?_, fun hf hfe hpo => ?_, fun hf hfe hpo => ⟨fun hph => ?_, fun hph => ?_⟩⟩
  · exact hstop _ (hts.trans (if_pos hf)) h0
  · exact hstop _ (hts.trans (by rw [if_neg (by omega), if_pos hfe])) h0
  · exact hstop _ (hts.trans (by rw [if_neg (by omega), if_neg (by rw [hfe]; decide), if_pos hpo])) h0
  · exact hstop _ (hts.trans (by rw [if_neg (by omega), if_neg (by rw [hfe]; decide), if_neg (by rw [hpo]; decide), if_pos hph])) h0
  · have hgo : v.takeSlots p tb 4 = (v.handleSlot p tb raw).takeSlots p tb 3 :=
      hts.trans (by rw [if_neg (by omega), if_neg (by rw [hfe]; decide), if_neg (by rw [hpo]; decide), if_neg (by simpa using hph)])
    have htaken := (v.handleSlot_handled p tb raw).taken
    have hbound := (v.handleSlot p tb raw).takeSlots_taken p tb 3
    refine completes_of_exec (t := ((v.handleSlot p tb raw).takeSlots p tb 3).writeHeader p tb) ?_ ⟨rfl, by omega, by omega⟩
    rw [hx, hgo, if_neg (by omega)]

theorem pickup_waits (s : State) (p : Pol) (tb cycle : Nat) (hb : s.tide.boundary = some tb) (hc : pickupCycle s.table p = some cycle)
    (h : cycle < s.alm.now - tb ∨ (s.pol p).pickedTide = some tb ∨ (s.pol p).picks = false) : exec (.pickup p) s = .next s := by
  show execPickup p s = _
  unfold execPickup
  rw [hb, hc]
  dsimp only
  rw [if_pos]
  rcases h with h | h | h
  · simp [h]
  · simp [h]
  · simp [h]

/-! ## A start (R47) -/

theorem foldl_set_get {α : Type} [DecidableEq α] (d : α) (f : Nat → α) (n : Nat) (m : SMap α) (j : Nat) (hj : j < n) :
    ((List.range n).foldl (fun t i => t.set d i (f i)) m).get d j = f j := by
  induction n with
  | zero => omega
  | succ n ih =>
    rw [List.range_succ, List.foldl_append]
    by_cases h : j = n
    · subst h
      exact SMap.get_set_same _ _ _ _
    · exact (SMap.get_set_other _ _ _ _ _ h).trans (ih (by omega))

/-- Every stream of a manifest that starts has its run-ahead in credits (R52). -/
theorem State.newRun_credits (s : State) (m : Manifest) (at_ : Nat) (c : Schedule) (hc : s.schedule m.schedule = some c) (j : Nat)
    (hj : j < c.streams.length) (d : StreamDecl) (hd : c.streams[j]? = some d) :
    ((s.newRun m at_).streams.get {} j).credits = d.runahead := by
  unfold State.newRun
  dsimp only
  rw [hc]
  dsimp only [Option.getD_some]
  rw [foldl_set_get _ _ _ _ _ hj]
  dsimp only
  rw [List.getD_eq_getElem?_getD, hd]
  rfl

/-- The time until a start passes, and the first pending manifest runs. -/
def State.started (s : State) (p at_ : Nat) (m : Manifest) (r : List Manifest) : State :=
  (s.advanceTo at_).updPol p fun q => { q with pending := r, running := q.running.set {} m.seq ((s.advanceTo at_).newRun m at_) }

theorem State.advanceTo_usesFenced (s : State) (v i : Nat) : (s.advanceTo v).usesFenced i = s.usesFenced i := by
  obtain ⟨c, l, r, w, m, a, b, h⟩ := s.advanceTo_eq v
  rw [h]
  rfl

theorem State.advanceTo_schedule (s : State) (v i : Nat) : (s.advanceTo v).schedule i = s.schedule i := by
  obtain ⟨c, l, r, w, m, a, b, h⟩ := s.advanceTo_eq v
  rw [h]
  rfl

theorem State.pol_started (s : State) (p at_ : Nat) (m : Manifest) (r : List Manifest) :
    (s.started p at_ m r).pol p = { s.pol p with
      pending := r, running := (s.pol p).running.set {} m.seq ((s.advanceTo at_).newRun m at_) } := by
  have hp : (s.advanceTo at_).pol p = s.pol p := by rw [State.pol, State.advanceTo_pols, State.pol]
  rw [State.started, State.pol_updPol, hp]

theorem State.newRun_ne_default (s : State) (m : Manifest) (at_ : Nat) (h : at_ ≠ 0) : s.newRun m at_ ≠ {} := fun hd =>
  h (congrArg Run.startedAt hd)

theorem manifestStart_starts (s : State) (p : Pol) (tb : Nat) (m : Manifest) (r : List Manifest) (hb : s.tide.boundary = some tb)
    (hp : (s.pol p).pending = m :: r) (hst : s.boot.stage = 4) (ho : s.tide.open_ = true) (hcy : s.alm.now - tb ≤ 1024)
    (hcan : s.canStart p (tb + 1024) = true) :
    completes (.manifestStart p) s fun t =>
      t.alm.now = (tb + 1024) % 2 ^ 64 ∧ (t.pol p).pending = r ∧ (t.pol p).isRunning m.seq = !(s.usesFenced m.schedule)
        ∧ (s.usesFenced m.schedule = false → ((t.pol p).run m.seq).m = m ∧ ((t.pol p).run m.seq).startedAt = tb + 1024
          ∧ (∀ c, s.schedule m.schedule = some c → ∀ j, j < c.streams.length → ∀ d, c.streams[j]? = some d →
              (((t.pol p).run m.seq).streams.get {} j).credits = d.runahead)
          ∧ t.mem = s.mem ∧ t.crier = s.crier ∧ ∀ q, q ≠ p.val → t.pol q = s.pol q) := by
  have hpol := s.pol_started p (tb + 1024) m r
  have hfen : (s.started p (tb + 1024) m r).usesFenced m.schedule = s.usesFenced m.schedule := s.advanceTo_usesFenced _ _
  have hx : exec (.manifestStart p) s = .next (if (s.started p (tb + 1024) m r).usesFenced m.schedule = true
      then (s.started p (tb + 1024) m r).fenceRun p m.seq else s.started p (tb + 1024) m r) := by
    show execManifestStart p s = _
    unfold execManifestStart
    rw [hb, hp]
    dsimp only
    rw [if_neg (by simp [hst, ho, hcan]; omega)]
    rfl
  have hnow : (s.started p (tb + 1024) m r).alm.now = (tb + 1024) % 2 ^ 64 := State.advanceTo_now s _
  have hpend : ((s.started p (tb + 1024) m r).pol p).pending = r := by rw [hpol]
  rw [hfen] at hx
  have hpos : tb + 1024 ≠ 0 := by omega
  clear hcan hcy hfen
  generalize tb + 1024 = at_ at *
  cases hf : s.usesFenced m.schedule with
  | true =>
    have hbare := (s.started p at_ m r).fenceRun_bare p m.seq
    refine completes_of_exec (t := (s.started p at_ m r).fenceRun p m.seq) (hx.trans (by rw [if_pos hf])) ⟨?_, ?_, ?_, nofun⟩
    · rw [State.alm_of_bare hbare]
      exact hnow
    · rw [State.pending_of_bare hbare]
      exact hpend
    · exact State.fenceRun_ends _ _ _
  | false =>
    have hne := (s.advanceTo at_).newRun_ne_default m at_ hpos
    have hrun : ((s.started p at_ m r).pol p).run m.seq = (s.advanceTo at_).newRun m at_ := by
      rw [hpol]
      exact SMap.get_set_same _ _ _ _
    refine completes_of_exec (t := s.started p at_ m r) (hx.trans (by rw [if_neg (by rw [hf]; decide)])) ⟨hnow, hpend, ?_, fun _ => ?_⟩
    · rw [hpol]
      exact SMap.any_key_set _ _ _ _ hne
    · rw [hrun]
      refine ⟨rfl, rfl, fun c hc j hj d hd => ?_, s.advanceTo_mem _, s.advanceTo_crier _, fun q hq => ?_⟩
      · exact State.newRun_credits _ m _ c (by rw [State.advanceTo_schedule]; exact hc) j hj d hd
      · rw [State.started, State.pol_updPol_other _ _ _ _ hq, State.pol, State.advanceTo_pols, State.pol]

theorem manifestStart_waits (s : State) (p : Pol) (tb : Nat) (hb : s.tide.boundary = some tb) (hcan : s.canStart p (tb + 1024) = false) :
    exec (.manifestStart p) s = .next s := by
  show execManifestStart p s = _
  unfold execManifestStart
  rw [hb]
  cases hp : (s.pol p).pending with
  | nil => rfl
  | cons m r =>
    dsimp only
    rw [if_pos (by simp [hcan])]

/-- Settles O13: a slot's outcome is read off the ring's registers, and a start makes the account of the first pending manifest. -/
theorem manifestsArePickedUpAndStarted : Obligations.ManifestsArePickedUpAndStarted := by
  unfold Obligations.ManifestsArePickedUpAndStarted
  exact ⟨pickup_takes, pickup_waits, handleSlot_acts, manifestStart_starts, manifestStart_waits⟩

end Sys2Proof.Machine
end

section
/-! SUPPORT. What a Bin's serving and asking make of its lines, and how its messages come about (R196 to R200). -/

namespace Sys2Proof.Machine

open Sys2Proof

/-! ## Messages received -/

theorem State.receive_frame {s u : State} {m : CohMsg} (h : s.receive m = some u) : u = { s with net := u.net } := by
  unfold State.receive at h
  dsimp only at h
  split at h
  · cases h
    rfl
  · cases h

theorem State.bins_of_receive {s u : State} {m : CohMsg} (h : s.receive m = some u) : u.bins = s.bins := by
  rw [State.receive_frame h]

theorem State.mem_of_receive {s u : State} {m : CohMsg} (h : s.receive m = some u) : u.mem = s.mem := by
  rw [State.receive_frame h]

/-- A Bin that hears a message acts on it. -/
theorem State.atBin_of_hears {s u : State} {m : CohMsg} {ty : MsgType} (f : State → State) (h : s.binHears m u) (ht : m.type = ty) :
    s.atBin ty m f = f u := by
  obtain ⟨hr, hd, hf⟩ := h
  unfold State.atBin
  rw [hr]
  dsimp only
  rw [if_neg (by simp [ht]; omega)]
  have hfen : (s.mill m.dst).fenced = false := by
    rw [State.receive_frame hr] at hf
    exact hf
  rw [hfen, if_neg (by decide)]

theorem State.atHome_of_heard {s u : State} {m : CohMsg} {ty : MsgType} (f : State → State) (h : s.heard m u) (ht : m.type = ty) :
    s.atHome ty m f = f u := by
  obtain ⟨hr, hd⟩ := h
  unfold State.atHome
  rw [hr]
  dsimp only
  rw [if_neg (by simp [ht]), hd, if_neg (by decide)]

@[simp] theorem State.get_setBin (s : State) (key : Nat) (b : BinLine) : (s.setBin key b).bins.get {} key = b :=
  SMap.get_set_same _ _ _ _

theorem State.get_setBin_other (s : State) (key k : Nat) (b : BinLine) (h : k ≠ key) :
    (s.setBin key b).bins.get {} k = s.bins.get {} k := SMap.get_set_other _ _ _ _ _ h

/-! ## Serving -/

theorem State.capture_frame (s : State) (key : Nat) (b : BinLine) (secs : BitVec 8) :
    s.capture key b secs = { s with hands := (s.capture key b secs).hands, pols := (s.capture key b secs).pols } := by
  have hstep : ∀ u : State, u = { s with hands := u.hands, pols := u.pols } → ∀ (h p : Nat) (f : Hand → Hand) (dead : Bool),
      (u.updHand h f).countDead p dead = { s with
        hands := ((u.updHand h f).countDead p dead).hands, pols := ((u.updHand h f).countDead p dead).pols } := by
    intro u hu h p f dead
    unfold State.countDead
    split <;> rw [hu] <;> rfl
  unfold State.capture
  refine foldl_keeps _ (fun u : State => u = { s with hands := u.hands, pols := u.pols }) _ (fun d o _ hd => ?_) s rfl
  extract_lets sector waits data hs
  exact foldl_keeps _ (fun u : State => u = { s with hands := u.hands, pols := u.pols }) _ (fun u e _ hu => hstep u hu _ _ _ _) d hd

/-- What the serving of its accesses leaves of a line in a stable state. -/
structure BinLine.serves (b c : BinLine) : Prop where
  line : c.line = b.line
  pol : c.pol = b.pol
  grant : c.grant = b.grant
  stable : isStable b.st = true → isStable c.st = true

theorem BinLine.serves_refl (b : BinLine) : b.serves b := ⟨rfl, rfl, rfl, id⟩

theorem BinLine.serves.trans {b c d : BinLine} (h : b.serves c) (k : c.serves d) : b.serves d :=
  ⟨k.line.trans h.line, k.pol.trans h.pol, k.grant.trans h.grant, k.stable ∘ h.stable⟩

theorem hitHint_serves (s : State) (hint : Nat) (b : BinLine) (ws : List BinWait) : b.serves { hitHint s hint b with waits := ws } := by
  unfold hitHint
  split <;> exact ⟨rfl, rfl, rfl, id⟩

theorem BinLine.before_serves (b : BinLine) (w : BinWait) : b.serves (b.before_ w) := by
  unfold BinLine.before_
  split <;> exact ⟨rfl, rfl, rfl, id⟩

theorem BinLine.store_serves (b : BinLine) (w : BinWait) : b.serves (b.store w) := ⟨rfl, rfl, rfl, fun _ => rfl⟩

/-- Serving sends nothing and touches one line, the Hands and the counts of polders. -/
theorem State.serveHits_serves (s : State) (key fuel : Nat) :
    (s.serveHits key fuel) = { s with
      bins := (s.serveHits key fuel).bins, hands := (s.serveHits key fuel).hands, pols := (s.serveHits key fuel).pols }
    ∧ (s.bins.get {} key).serves ((s.serveHits key fuel).bins.get {} key) := by
  induction fuel generalizing s with
  | zero => exact ⟨rfl, BinLine.serves_refl _⟩
  | succ fuel ih =>
    unfold State.serveHits
    dsimp only
    split
    · exact ⟨rfl, BinLine.serves_refl _⟩
    · next w ws hws =>
      split
      · exact ⟨rfl, BinLine.serves_refl _⟩
      split
      · obtain ⟨v, hv⟩ : ∃ v, v = (s.setBin key { hitHint s w.hint (s.bins.get {} key) with waits := ws }).capture key (s.bins.get {} key) w.read :=
          ⟨_, rfl⟩
        have hcap := (s.setBin key { hitHint s w.hint (s.bins.get {} key) with waits := ws }).capture_frame key (s.bins.get {} key) w.read
        rw [← hv] at hcap ⊢
        obtain ⟨h1, h2⟩ := ih v
        have hb : v.bins.get {} key = { hitHint s w.hint (s.bins.get {} key) with waits := ws } := by
          rw [hcap]
          exact SMap.get_set_same _ _ _ _
        rw [hb] at h2
        refine ⟨?_, (hitHint_serves s w.hint _ ws).trans h2⟩
        rw [h1, hcap]
        rfl
      · obtain ⟨v, hv⟩ : ∃ v, v = (s.setBin key { hitHint s w.hint (((s.bins.get {} key).before_ w).store w) with waits := ws }).updHand w.hand
          fun h => { h with unwon := h.unwon - 1 } := ⟨_, rfl⟩
        rw [← hv]
        obtain ⟨h1, h2⟩ := ih v
        have hb : v.bins.get {} key = { hitHint s w.hint (((s.bins.get {} key).before_ w).store w) with waits := ws } := by
          rw [hv]
          exact SMap.get_set_same _ _ _ _
        rw [hb] at h2
        refine ⟨?_, (((BinLine.before_serves _ w).trans (BinLine.store_serves _ w)).trans (hitHint_serves s w.hint _ ws)).trans h2⟩
        rw [h1, hv]
        rfl

theorem isStable_ne_i {st : BinSt} (h : isStable st = true) : st ≠ .i := by
  rintro rfl
  cases h

/-! ## Asking -/

/-- What asking for what its accesses need leaves of a line that stands. -/
theorem State.askNext_keeps (s : State) (key : Nat) (hst : (s.bins.get {} key).st ≠ .i) :
    ((s.askNext key).bins.get {} key).grant = (s.bins.get {} key).grant
      ∧ ((s.askNext key).bins.get {} key).holdUntil = (s.bins.get {} key).holdUntil ∧ s.net <+: (s.askNext key).net := by
  have hrd : ∀ (b : BinLine) (need : BitVec 8), b.grant = (s.bins.get {} key).grant → b.holdUntil = (s.bins.get {} key).holdUntil →
      ((s.askRdsec key b need).bins.get {} key).grant = (s.bins.get {} key).grant
      ∧ ((s.askRdsec key b need).bins.get {} key).holdUntil = (s.bins.get {} key).holdUntil ∧ s.net <+: (s.askRdsec key b need).net := by
    intro b need hg hh
    unfold State.askRdsec
    dsimp only
    split
    · exact ⟨rfl, rfl, List.prefix_refl _⟩
    · refine ⟨?_, ?_, List.prefix_append _ _⟩
      · exact (congrArg BinLine.grant (SMap.get_set_same _ _ _ _)).trans hg
      · exact (congrArg BinLine.holdUntil (SMap.get_set_same _ _ _ _)).trans hh
  unfold State.askNext
  extract_lets b tracked
  split
  · rw [if_neg (by
      simp only [Bool.and_eq_true, decide_eq_true_eq, not_and]
      exact fun h => absurd h hst)]
    exact ⟨rfl, rfl, List.prefix_refl _⟩
  · next w ws hw =>
    rw [if_neg hst]
    split
    · exact ⟨rfl, rfl, List.prefix_refl _⟩
    split
    · exact hrd b _ rfl rfl
    split
    · refine hrd _ _ ?_ ?_
      · exact (BinLine.before_serves _ w).grant
      · unfold BinLine.before_
        split <;> rfl
    · simp only [tracked]
      split
      · unfold State.askGetm
        dsimp only
        rw [State.get_setBin]
        exact ⟨rfl, rfl, List.prefix_append _ _⟩
      · exact ⟨rfl, rfl, List.prefix_refl _⟩

/-! ## A transaction of a Bin completes -/

/-- The line with what a GRANT and its data bring it. -/
def BinLine.installed (b : BinLine) (st : Nat) (cover need : BitVec 8) : BinLine :=
  let inst := (cover ||| need) &&& ~~~(b.dirty)
  let dirtyF := if st = 3 then cover &&& b.mark else 0
  { b with
    st := if st = 1 then .s else if st = 2 then .e else .m
    valid := b.valid ||| inst
    dirty := b.dirty ||| (dirtyF &&& inst)
    poison := (b.poison &&& ~~~inst) ||| (b.bufPoison &&& inst)
    data := patch b.data ((b.buf.filter fun e => inMask inst e.1))
    need := 0, grant := none, got := 0, gotF := 0, bufPoison := 0, mark := 0, buf := [] }

theorem BinLine.installed_stable (b : BinLine) (st : Nat) (cover need : BitVec 8) : isStable (b.installed st cover need).st = true := by
  unfold BinLine.installed
  dsimp only
  split
  · rfl
  split <;> rfl

section
variable {s : State} {key : Nat} {b : BinLine} (hb : s.bins.get {} key = b)
include hb

theorem State.tryComplete_waits (h : b.grant = none ∨ ∃ st cover need, b.grant = some (st, cover, need)
    ∧ (cover &&& ~~~b.gotF ≠ 0 ∨ need &&& ~~~b.got ≠ 0)) : s.tryComplete key = s := by
  unfold State.tryComplete
  rw [hb]
  dsimp only
  rcases h with h | ⟨st, cover, need, h, hc⟩
  · rw [h]
  · rw [h]
    dsimp only
    rw [if_pos (by simpa using hc)]

/-- The state in which the waiting accesses of a completed line have been served. -/
def State.servedWith (s : State) (key : Nat) (b : BinLine) (st : Nat) (cover need : BitVec 8) : State :=
  (s.setBin key (b.installed st cover need)).serveHits key b.waits.length

theorem State.tryComplete_done {st : Nat} {cover need : BitVec 8} (hg : b.grant = some (st, cover, need))
    (hc : cover &&& ~~~b.gotF = 0) (hn : need &&& ~~~b.got = 0) :
    s.tryComplete key =
      let v := s.servedWith key b st cover need
      let c := v.bins.get {} key
      ((v.send (fromBin .done key c (slotTag key))).setBin key { c with holdUntil := v.clock + 16 * (v.mill (key / 2 ^ 17)).hold }).askNext key := by
  unfold State.tryComplete
  rw [hb]
  dsimp only
  rw [hg]
  dsimp only
  rw [if_neg (by simp [hc, hn])]
  rfl

/-- A completed line is held, and DONE has gone out. -/
theorem State.tryComplete_holds {st : Nat} {cover need : BitVec 8} (hg : b.grant = some (st, cover, need))
    (hc : cover &&& ~~~b.gotF = 0) (hn : need &&& ~~~b.got = 0) :
    ((s.tryComplete key).bins.get {} key).holdUntil = s.clock + 16 * (s.mill (key / 2 ^ 17)).hold
      ∧ ((s.tryComplete key).bins.get {} key).grant = none
      ∧ ∃ x ∈ (s.tryComplete key).net, x.type = .done ∧ x.line = b.line ∧ x.pol = b.pol ∧ x.src = key / 2 ^ 17 ∧ x.tag = slotTag key := by
  rw [State.tryComplete_done hb hg hc hn]
  obtain ⟨hf, hs⟩ := (s.setBin key (b.installed st cover need)).serveHits_serves key b.waits.length
  have hset : (s.setBin key (b.installed st cover need)).bins.get {} key = b.installed st cover need := SMap.get_set_same _ _ _ _
  rw [hset] at hs
  obtain ⟨v, hv⟩ : ∃ v, v = s.servedWith key b st cover need := ⟨_, rfl⟩
  rw [← State.servedWith, ← hv] at hf hs
  rw [← hv]
  dsimp only
  obtain ⟨w, hw⟩ : ∃ w, w = (v.send (fromBin .done key (v.bins.get {} key) (slotTag key))).setBin key
    { v.bins.get {} key with holdUntil := v.clock + 16 * (v.mill (key / 2 ^ 17)).hold } := ⟨_, rfl⟩
  have hwb : w.bins.get {} key = { v.bins.get {} key with holdUntil := v.clock + 16 * (v.mill (key / 2 ^ 17)).hold } := by
    rw [hw]
    exact SMap.get_set_same _ _ _ _
  have hstable := hs.stable (b.installed_stable st cover need)
  obtain ⟨k1, k2, k3⟩ := w.askNext_keeps key (by rw [hwb]; exact isStable_ne_i hstable)
  rw [← hw, k1, k2, hwb]
  refine ⟨?_, hs.grant, fromBin .done key (v.bins.get {} key) (slotTag key), k3.subset ?_, rfl, hs.line, hs.pol, rfl, rfl⟩
  · rw [hf]
    rfl
  · rw [hw]
    exact List.mem_append_right _ (List.mem_singleton.2 rfl)

/-- With no access waiting, the completed line is what the GRANT and its data make of it. -/
theorem State.tryComplete_alone {st : Nat} {cover need : BitVec 8} (hg : b.grant = some (st, cover, need))
    (hc : cover &&& ~~~b.gotF = 0) (hn : need &&& ~~~b.got = 0) (hw : b.waits = []) :
    s.tryComplete key = (((s.setBin key (b.installed st cover need)).send (fromBin .done key (b.installed st cover need) (slotTag key))).setBin key
      { b.installed st cover need with holdUntil := s.clock + 16 * (s.mill (key / 2 ^ 17)).hold }) := by
  have hset : (s.setBin key (b.installed st cover need)).bins.get {} key = b.installed st cover need := SMap.get_set_same _ _ _ _
  have hserve : s.servedWith key b st cover need = s.setBin key (b.installed st cover need) := by
    rw [State.servedWith, hw]
    rfl
  rw [State.tryComplete_done hb hg hc hn, hserve]
  dsimp only
  rw [hset]
  refine State.askNext_idle ?_ ?_
  · rw [State.get_setBin]
    exact hw
  · rw [State.get_setBin]
    exact isStable_ne_i (b.installed_stable st cover need)

end

/-! ## A copy is given up -/

/-- A line that no access and no reply waits for goes without a message. -/
theorem State.giveUp_gone {s : State} {key : Nat} (hw : (s.bins.get {} key).waits = []) (hr : (s.bins.get {} key).rdsec = 0) :
    ∃ x, s.giveUp key = (s.setBin key x).setBin key {} := by
  obtain ⟨x, hx⟩ : ∃ x : BinLine, x = { s.freshLine key (s.bins.get {} key).pol (s.bins.get {} key).line
    (((s.bins.get {} key).waits.head?.map BinWait.hint).getD 0) (s.bins.get {} key).waits with rdsec := (s.bins.get {} key).rdsec } := ⟨_, rfl⟩
  have hxw : x.waits = [] := by rw [hx]; exact hw
  have hxr : x.rdsec = 0 := by rw [hx]; exact hr
  have hxi : x.st = .i := by rw [hx]; rfl
  refine ⟨x, ?_⟩
  unfold State.giveUp
  dsimp only
  rw [← hx]
  unfold State.askNext
  dsimp only
  rw [State.get_setBin, hxw]
  dsimp only
  rw [if_pos (by rw [hxi, hxr]; rfl)]

end Sys2Proof.Machine
end

section
/-! OBLIGATIONS. Bins ask, collect, hold and answer (R189, R196 to R200). -/

namespace Sys2Proof.Machine

open Sys2Proof

/-! ## Reads (R174, R196) -/

section
variable {s : State} {d : Die} {p : Pol} {line : Nat} (need : BitVec 8) (hint : Nat) (hf : (s.mill d.val).fenced = false)
  (hh : s.homeFenced line = false) (hm : (s.region (line * 1024)).isMem = true)
include hf hh hm

/-- The read that waits at a Bin. -/
def State.readWait (s : State) (p : Pol) (need : BitVec 8) (hint : Nat) : BinWait := { read := need, hint := hint, gen := (s.pol p.val).gen }

theorem exec_binRead_found {key : Nat} {b : BinLine} (hb : s.binFind d.val p.val line = some (key, b)) :
    exec (.binRead d p line need hint) s = .next (if isPutWait b.st then s
      else (s.setBin key { b with waits := b.waits ++ [s.readWait p need hint] }).serveWaits key) := by
  show Host.Outcome.next (s.binRead d.val p.val line need hint) = _
  unfold State.binRead
  rw [if_neg (by simp [hf, hh, hm])]
  dsimp only
  rw [hb]
  rfl

theorem exec_binRead_missed {key : Nat} (hb : s.binFind d.val p.val line = none) (hw : s.binWay d.val p.val line = some key) :
    exec (.binRead d p line need hint) s = .next ((
      if (s.bins.get {} key).st = .e || (s.bins.get {} key).st = .m || (s.bins.get {} key).st = .o then
        if s.trackerFree (homeOf (s.bins.get {} key).line) (s.bins.get {} key).pol then some (s.evict key (s.bins.get {} key)) else none
      else if !s.trackerFree (homeOf line) p.val then none
      else some (((s.evict key (s.bins.get {} key)).setBin key
        ((s.evict key (s.bins.get {} key)).freshLine key p.val line hint [s.readWait p need hint])).askNext key)).getD s) := by
  show Host.Outcome.next (s.binRead d.val p.val line need hint) = _
  unfold State.binRead
  rw [if_neg (by simp [hf, hh, hm])]
  dsimp only
  rw [hb]
  dsimp only
  unfold State.binMiss
  rw [hw]
  rfl

end

theorem hitHint_waited (s : State) (hint : Nat) (b : BinLine) (ws : List BinWait) (hw : b.waits = []) :
    { hitHint s hint { b with waits := ws } with waits := [] } = hitHint s hint b := by
  unfold hitHint
  cases b
  dsimp only at hw
  subst hw
  split <;> rfl

/-- A read of sectors that the line has is performed at once. -/
theorem State.serveWaits_hit {s : State} {key : Nat} {b : BinLine} {w : BinWait} (hw : w.write = []) (hb : b.waits = [])
    (hst : isStable b.st = true) (hv : w.read &&& ~~~b.valid = 0) :
    let t := (s.setBin key { b with waits := [w] }).serveWaits key
    t = { s with bins := t.bins, hands := t.hands, pols := t.pols } ∧ t.bins.get {} key = hitHint s w.hint b
      ∧ ∀ k, k ≠ key → t.bins.get {} k = s.bins.get {} k := by
  intro t
  have hhits : ({ b with waits := [w] } : BinLine).hits w = true := by
    simp only [BinLine.hits, hw, List.isEmpty_nil, if_true, hst, hv, decide_true, Bool.and_self]
  obtain ⟨v, hvd⟩ : ∃ v, v = ((s.setBin key { b with waits := [w] }).setBin key (hitHint s w.hint b)).capture key { b with waits := [w] } w.read :=
    ⟨_, rfl⟩
  have hserve : (s.setBin key { b with waits := [w] }).serveHits key 1 = v := by
    simp only [State.serveHits, State.get_setBin, hhits, hw, Bool.not_true, Bool.false_eq_true, if_false, List.isEmpty_nil, if_true]
    rw [hvd, ← hitHint_waited s w.hint b [w] hb]
    rfl
  have hcap := ((s.setBin key { b with waits := [w] }).setBin key (hitHint s w.hint b)).capture_frame key { b with waits := [w] } w.read
  rw [← hvd] at hcap
  have hbins : v.bins = ((s.setBin key { b with waits := [w] }).setBin key (hitHint s w.hint b)).bins := by rw [hcap]
  have hget : v.bins.get {} key = hitHint s w.hint b := by rw [hbins, State.get_setBin]
  have ht : t = v := by
    show ((s.setBin key { b with waits := [w] }).serveHits key _).askNext key = v
    rw [State.get_setBin]
    show ((s.setBin key { b with waits := [w] }).serveHits key 1).askNext key = v
    rw [hserve]
    refine State.askNext_idle ?_ ?_
    · rw [hget]
      unfold hitHint
      split <;> exact hb
    · rw [hget, (hitHint_fields s w.hint b).1]
      exact isStable_ne_i hst
  rw [ht]
  refine ⟨?_, hget, fun k hk => ?_⟩
  · rw [hcap]
    rfl
  · rw [hbins, State.get_setBin_other _ _ _ _ hk, State.get_setBin_other _ _ _ _ hk]

/-- A read of sectors that a stable line lacks asks for them. -/
theorem State.serveWaits_rdsec {s : State} {key : Nat} {b : BinLine} {w : BinWait} (hw : w.write = []) (hst : isStable b.st = true)
    (hv : w.read &&& ~~~b.valid &&& ~~~b.rdsec ≠ 0) (hfree : s.trackerFree (homeOf b.line) b.pol = true) :
    (s.setBin key { b with waits := [w] }).serveWaits key
      = (((s.setBin key { b with waits := [w] }).takeTracker (homeOf b.line) b.pol (key / 2 ^ 17)).send
        { fromBin .rdsec key { b with waits := [w] } (rdsecTag + slotTag key) with need := w.read &&& ~~~b.valid &&& ~~~b.rdsec }).setBin key
          { b with waits := [w], rdsec := b.rdsec ||| (w.read &&& ~~~b.valid &&& ~~~b.rdsec) } := by
  have hne : w.read &&& ~~~b.valid ≠ 0 := fun h => hv (by rw [h]; exact BitVec.zero_and)
  have hhits : ({ b with waits := [w] } : BinLine).hits w = false := by
    simp only [BinLine.hits, hw, List.isEmpty_nil, if_true, decide_eq_false hne, Bool.and_false]
  have hserve : (s.setBin key { b with waits := [w] }).serveHits key 1 = s.setBin key { b with waits := [w] } :=
    State.serveHits_waits (b := b) (w := w) 1 (State.get_setBin _ _ _) hhits
  show ((s.setBin key { b with waits := [w] }).serveHits key _).askNext key = _
  rw [State.get_setBin]
  show ((s.setBin key { b with waits := [w] }).serveHits key 1).askNext key = _
  rw [hserve]
  have hi := isStable_ne_i hst
  simp only [State.askNext, State.get_setBin, hi, if_false, hst, hhits, Bool.not_true, Bool.or_self, Bool.false_eq_true, hw,
    List.isEmpty_nil, if_true]
  unfold State.askRdsec
  dsimp only
  rw [if_neg]
  rw [Bool.or_eq_true, not_or]
  refine ⟨by simpa using hv, ?_⟩
  have ht : (s.setBin key { b with waits := [w] }).trackerFree (homeOf b.line) b.pol = true := hfree
  rw [ht]
  decide

/-- In a transient state an access waits. -/
theorem State.serveWaits_collecting {s : State} {key : Nat} {b : BinLine} {w : BinWait} {ws : List BinWait} (hst : isCollecting b.st = true)
    (hw : b.waits = w :: ws) : (s.setBin key b).serveWaits key = s.setBin key b := by
  have hns : isStable b.st = false := by
    simp only [isCollecting, Bool.and_eq_true, Bool.not_eq_true'] at hst
    exact hst.1.1
  have hni : b.st ≠ .i := by
    simp only [isCollecting, Bool.and_eq_true, decide_eq_true_eq] at hst
    exact hst.2
  have hem : (b.st = .e || b.st = .m) = false := by
    cases h : b.st <;> simp_all [isStable]
  have hhits : b.hits w = false := by
    unfold BinLine.hits
    split
    · rw [hns, Bool.false_and]
    · rw [hem, Bool.false_and]
  have hserve : (s.setBin key b).serveHits key (ws.length + 1) = s.setBin key b := by
    simp only [State.serveHits, State.get_setBin, hw, hhits, Bool.not_false, if_true]
  show ((s.setBin key b).serveHits key _).askNext key = _
  rw [State.get_setBin, hw, List.length_cons, hserve]
  simp only [State.askNext, State.get_setBin, hw, hni, if_false, hns, Bool.not_false, Bool.true_or, if_true]

theorem binRead_found (s : State) (d : Die) (p : Pol) (line : Nat) (need : BitVec 8) (hint : Nat) (hf : (s.mill d.val).fenced = false)
    (hh : s.homeFenced line = false) (hm : (s.region (line * 1024)).isMem = true) :
    let w : BinWait := { read := need, hint := hint, gen := (s.pol p.val).gen }
    ∀ key b, s.binFind d.val p.val line = some (key, b) →
      (isStable b.st = true → b.waits = [] → need &&& ~~~b.valid = 0 → completes (.binRead d p line need hint) s fun t =>
        t = { s with bins := t.bins, hands := t.hands, pols := t.pols } ∧ t.bins.get {} key = hitHint s hint b
          ∧ ∀ k, k ≠ key → t.bins.get {} k = s.bins.get {} k) ∧
      (isStable b.st = true → b.waits = [] → need &&& ~~~b.valid &&& ~~~b.rdsec ≠ 0 → s.trackerFree (homeOf b.line) b.pol = true →
        completes (.binRead d p line need hint) s fun t =>
          t.bins.get {} key = { b with waits := [w], rdsec := b.rdsec ||| (need &&& ~~~b.valid &&& ~~~b.rdsec) }
            ∧ ∃ m, t.net = s.net ++ [m] ∧ m.type = .rdsec ∧ m.line = b.line ∧ m.pol = b.pol ∧ m.need = need &&& ~~~b.valid &&& ~~~b.rdsec) ∧
      (isCollecting b.st = true → completes (.binRead d p line need hint) s fun t =>
        t = { s with bins := t.bins } ∧ t.bins.get {} key = { b with waits := b.waits ++ [w] }) ∧
      (isPutWait b.st = true → exec (.binRead d p line need hint) s = .next s) := by
  intro w key b hb
  have hx := exec_binRead_found need hint hf hh hm hb
  have hgo : isPutWait b.st = false → exec (.binRead d p line need hint) s = .next ((s.setBin key { b with waits := b.waits ++ [w] }).serveWaits key) :=
    fun hp => hx.trans (by rw [hp]; rfl)
  have hstable : isStable b.st = true → isPutWait b.st = false := fun h => by
    cases hs : b.st <;> simp_all [isStable, isPutWait]
  refine ⟨fun hst hw hv => ?_, fun hst hw hv hfree => ?_, fun hst => ?_, fun hp => hx.trans (by rw [if_pos hp])⟩
  · have h1 := hgo (hstable hst)
    rw [hw] at h1
    exact completes_of_exec h1 (State.serveWaits_hit (w := w) rfl hw hst hv)
  · have h1 := hgo (hstable hst)
    rw [hw] at h1
    refine completes_of_exec (h1.trans (congrArg _ (State.serveWaits_rdsec (w := w) rfl hst hv hfree))) ⟨State.get_setBin _ _ _, _, rfl, rfl, rfl, rfl, rfl⟩
  · have hp : isPutWait b.st = false := by
      simp only [isCollecting, Bool.and_eq_true, Bool.not_eq_true'] at hst
      exact hst.1.2
    obtain ⟨x, xs, hxs⟩ : ∃ x xs, b.waits ++ [w] = x :: xs := by
      cases h : b.waits with
      | nil => exact ⟨_, _, rfl⟩
      | cons x xs => exact ⟨_, _, rfl⟩
    refine completes_of_exec ((hgo hp).trans (congrArg _ (State.serveWaits_collecting (b := { b with waits := b.waits ++ [w] }) hst hxs)))
      ⟨rfl, State.get_setBin _ _ _⟩

theorem carryDirty_data (m : CohMsg) (b : BinLine) :
    (carryDirty m b).data = (maskOffs (b.settle 0xFF).dirty).map fun o => (o, (b.settle 0xFF).data.get 0 o) := by
  simp only [carryDirty]

section
variable {s : State} {key : Nat} {b : BinLine}

theorem State.evict_of_e (h : b.st = .e) (hh : b.held = []) : s.evict key b
    = ((s.takeTracker (homeOf b.line) b.pol (key / 2 ^ 17)).send (fromBin .pute key b (slotTag key))).setBin key { b with st := .eiA } := by
  unfold State.evict
  rw [hh, h]
  rfl

theorem State.evict_of_m (h : b.st = .m) (hh : b.held = []) : s.evict key b
    = ((s.takeTracker (homeOf b.line) b.pol (key / 2 ^ 17)).send (carryDirty (fromBin .putm key b (slotTag key)) b)).setBin key
      { b with st := .miA } := by
  unfold State.evict
  rw [hh, h]
  rfl

theorem State.evict_of_o (h : b.st = .o) (hh : b.held = []) : s.evict key b
    = ((s.takeTracker (homeOf b.line) b.pol (key / 2 ^ 17)).send (carryDirty (fromBin .puto key b (slotTag key)) b)).setBin key
      { b with st := .oiA } := by
  unfold State.evict
  rw [hh, h]
  rfl

end

theorem binRead_missed (s : State) (d : Die) (p : Pol) (line : Nat) (need : BitVec 8) (hint : Nat) (hf : (s.mill d.val).fenced = false)
    (hh : s.homeFenced line = false) (hm : (s.region (line * 1024)).isMem = true) :
    let w : BinWait := { read := need, hint := hint, gen := (s.pol p.val).gen }
    ∀ key, s.binFind d.val p.val line = none → s.binWay d.val p.val line = some key →
      let old := s.bins.get {} key
      old.held = [] →
      (old.st = .i ∨ old.st = .s → s.trackerFree (homeOf line) p.val = true → completes (.binRead d p line need hint) s fun t =>
        (t.bins.get {} key).st = .isAD ∧ (t.bins.get {} key).line = line ∧ (t.bins.get {} key).pol = p.val
          ∧ (t.bins.get {} key).need = need ∧ (t.bins.get {} key).waits = [w] ∧ t.mem = s.mem
          ∧ (∀ k, k ≠ key → t.bins.get {} k = s.bins.get {} k)
          ∧ ∃ m, t.net = s.net ++ [m] ∧ m.type = .gets ∧ m.line = line ∧ m.pol = p.val ∧ m.need = need ∧ m.dst = 8 + homeOf line
            ∧ 16 * m.set + m.way = slotTag key) ∧
      (old.st = .e ∨ old.st = .m ∨ old.st = .o → s.trackerFree (homeOf old.line) old.pol = true →
        completes (.binRead d p line need hint) s fun t =>
          (t.bins.get {} key) = { old with st := (if old.st = .e then .eiA else if old.st = .m then .miA else .oiA) } ∧ t.mem = s.mem
            ∧ ∃ m, t.net = s.net ++ [m] ∧ m.type = (if old.st = .e then .pute else if old.st = .m then .putm else .puto)
              ∧ m.line = old.line ∧ m.pol = old.pol ∧ (old.st = .e → m.data = [])
              ∧ (old.st ≠ .e → m.mark = old.dead ∧ m.data = (maskOffs (old.settle 0xFF).dirty).map fun o => (o, (old.settle 0xFF).data.get 0 o))) := by
  intro w key hb hw old hheld
  have hx := exec_binRead_missed need hint hf hh hm hb hw
  refine ⟨fun hst hfree => ?_, fun hst hfree => ?_⟩
  · have hne : (old.st = .e || old.st = .m || old.st = .o) = false := by rcases hst with h | h <;> rw [h] <;> rfl
    obtain ⟨v, hv⟩ : ∃ v, s.evict key old = v := ⟨_, rfl⟩
    have hvf : v = { s with bins := v.bins } ∧ ∀ k, k ≠ key → v.bins.get {} k = s.bins.get {} k := by
      rw [← hv]
      unfold State.evict
      rw [hheld]
      rcases hst with h | h <;> rw [h]
      · exact ⟨rfl, fun _ _ => rfl⟩
      · exact ⟨rfl, fun k hk => State.get_setBin_other _ _ _ _ hk⟩
    rw [if_neg (by rw [hne]; decide), if_neg (by rw [hfree]; decide), hv] at hx
    obtain ⟨f, hfd⟩ : ∃ f, f = v.freshLine key p.val line hint [w] := ⟨_, rfl⟩
    have hfw : f.waits = [w] := by rw [hfd]; rfl
    have hfi : f.st = .i := by rw [hfd]; rfl
    have hfr : f.rdsec = 0 := by rw [hfd]; rfl
    have hfl : f.line = line := by rw [hfd]; rfl
    have hfp : f.pol = p.val := by rw [hfd]; rfl
    have htr : (v.setBin key f).trackerFree (homeOf line) p.val = true := by
      rw [hvf.1]
      exact hfree
    have hask : (v.setBin key f).askNext key
        = ((v.setBin key f).takeTracker (homeOf line) p.val (key / 2 ^ 17)).askGets key f need := by
      simp only [State.askNext, State.get_setBin, hfw, hfi, hfr, hfl, hfp, htr, if_true, ne_eq, not_true, if_false]
      rfl
    have hgo : exec (.binRead d p line need hint) s
        = .next (((v.setBin key f).takeTracker (homeOf line) p.val (key / 2 ^ 17)).askGets key f need) := by
      rw [hx, ← hask, hfd]
      rfl
    refine completes_of_exec hgo ?_
    have hget : (((v.setBin key f).takeTracker (homeOf line) p.val (key / 2 ^ 17)).askGets key f need).bins.get {} key
        = { f with st := .isAD, need := need } := State.get_setBin _ _ _
    rw [hget]
    refine ⟨rfl, hfl, hfp, rfl, hfw, ?_, fun k hk => ?_, { fillMsg .gets key f with need := need }, ?_, rfl, hfl, hfp, rfl, ?_, ?_⟩
    · rw [hvf.1]
      rfl
    · refine (State.get_setBin_other _ _ _ _ hk).trans ?_
      exact (State.get_setBin_other v key k f hk).trans (hvf.2 k hk)
    · rw [hvf.1]
      rfl
    · show 8 + homeOf f.line = _
      rw [hfl]
    · show 16 * (slotTag key / 16) + key % 16 = slotTag key
      unfold slotTag
      omega
  · have hyes : (old.st = .e || old.st = .m || old.st = .o) = true := by rcases hst with h | h | h <;> rw [h] <;> rfl
    rw [if_pos hyes, if_pos hfree] at hx
    refine completes_of_exec (t := s.evict key old) hx ?_
    clear_value old
    rcases hst with h | h | h
    · rw [State.evict_of_e h hheld, h]
      exact ⟨State.get_setBin _ _ _, rfl, _, rfl, rfl, rfl, rfl, fun _ => rfl, fun hn => absurd rfl hn⟩
    · rw [State.evict_of_m h hheld, h]
      exact ⟨State.get_setBin _ _ _, rfl, _, rfl, rfl, rfl, rfl, nofun, fun _ => ⟨rfl, carryDirty_data _ _⟩⟩
    · rw [State.evict_of_o h hheld, h]
      exact ⟨State.get_setBin _ _ _, rfl, _, rfl, rfl, rfl, rfl, nofun, fun _ => ⟨rfl, carryDirty_data _ _⟩⟩

end Sys2Proof.Machine
end

section
/-! OBLIGATIONS. Bins collect, hold and answer (R189, R197 to R200). -/

namespace Sys2Proof.Machine

open Sys2Proof

/-! ## GRANT and data (R197) -/

theorem State.mem_tryComplete (v : State) (k : Nat) : (v.tryComplete k).mem = v.mem := by
  unfold State.tryComplete
  dsimp only
  split
  · rfl
  split
  · rfl
  · exact (State.wayStep_askNext _ _).mem.trans (State.wayStep_serveHits _ _ _).mem

/-- The fields of a completed line. -/
theorem BinLine.installed_fields (b : BinLine) (st : Nat) (cover need : BitVec 8) :
    (b.installed st cover need).valid = b.valid ||| ((cover ||| need) &&& ~~~b.dirty)
      ∧ (b.installed st cover need).dirty = b.dirty ||| ((if st = 3 then cover &&& b.mark else 0) &&& ((cover ||| need) &&& ~~~b.dirty))
      ∧ (b.installed st cover need).data = patch b.data (b.buf.filter fun e => inMask ((cover ||| need) &&& ~~~b.dirty) e.1)
      ∧ (b.installed st cover need).st = (if st = 1 then .s else if st = 2 then .e else .m)
      ∧ (b.installed st cover need).grant = none ∧ (b.installed st cover need).line = b.line ∧ (b.installed st cover need).pol = b.pol :=
  ⟨rfl, rfl, rfl, rfl, rfl, rfl, rfl⟩

section
variable {s u : State} {m : CohMsg} {key : Nat} {b : BinLine} (hm : s.binHears m u) (ht : u.taggedBin m = some (key, b))
include ht

theorem State.key_of_tagged : key = binKey m.dst (m.tag % rdsecTag) ∧ u.bins.get {} key = b ∧ b.taken = true ∧ b.line = m.line := by
  unfold State.taggedBin at ht
  dsimp only at ht
  split at ht
  · next h =>
    cases ht
    simp only [Bool.and_eq_true, decide_eq_true_eq] at h
    exact ⟨rfl, rfl, h.1, h.2⟩
  · cases ht

include hm

theorem exec_grant (hty : m.type = .grant) (hc : isCollecting b.st = true) :
    exec (.grant m) s = .next ((u.setBin key { b with grant := some (m.st, m.cover, m.need), st := afterGrant b.st }).tryComplete key) := by
  show Host.Outcome.next (s.atBin .grant m _) = _
  rw [State.atBin_of_hears _ hm hty, ht]
  dsimp only
  rw [if_pos hc]

theorem grant_waits (hty : m.type = .grant) (hc : isCollecting b.st = true) (hn : m.cover &&& ~~~b.gotF ≠ 0 ∨ m.need &&& ~~~b.got ≠ 0) :
    completes (.grant m) s fun t =>
      t.bins.get {} key = { b with grant := some (m.st, m.cover, m.need), st := afterGrant b.st } ∧ t.net = u.net := by
  have hget := u.get_setBin key { b with grant := some (m.st, m.cover, m.need), st := afterGrant b.st }
  refine completes_of_exec ((exec_grant hm ht hty hc).trans (congrArg _ (State.tryComplete_waits hget (.inr ⟨_, _, _, rfl, hn⟩)))) ⟨hget, rfl⟩

theorem grant_completes (hty : m.type = .grant) (hc : isCollecting b.st = true) (hg : m.cover &&& ~~~b.gotF = 0) (hn : m.need &&& ~~~b.got = 0) :
    completes (.grant m) s fun t =>
      (t.bins.get {} key).holdUntil = u.clock + 16 * (u.mill (key / 2 ^ 17)).hold ∧ (t.bins.get {} key).grant = none ∧ t.mem = s.mem
        ∧ ∃ x ∈ t.net, x.type = .done ∧ x.line = b.line ∧ x.pol = b.pol ∧ x.src = key / 2 ^ 17 ∧ x.tag = slotTag key := by
  have hget := u.get_setBin key { b with grant := some (m.st, m.cover, m.need), st := afterGrant b.st }
  obtain ⟨h1, h2, h3⟩ := State.tryComplete_holds hget rfl hg hn
  refine completes_of_exec (exec_grant hm ht hty hc) ⟨h1, h2, ?_, h3⟩
  rw [State.mem_tryComplete]
  show u.mem = s.mem
  exact State.mem_of_receive hm.1

/-- What data that a collecting line receives makes of it. -/
def BinLine.buffered (b : BinLine) (m : CohMsg) (secs : BitVec 8) (fromOwner : Bool) : BinLine :=
  { b with
    st := afterData b.st
    got := if fromOwner then b.got else b.got ||| secs
    gotF := if fromOwner then b.gotF ||| secs else b.gotF
    bufPoison := (b.bufPoison &&& ~~~secs) ||| (m.poison &&& secs)
    mark := if fromOwner then b.mark ||| (m.mark &&& secs) else b.mark
    buf := patch b.buf m.data }

theorem exec_dataH (hty : m.type = .dataH) (htag : m.tag < rdsecTag) (hc : isCollecting b.st = true) :
    exec (.dataH m) s = .next ((u.setBin key (b.buffered m m.need false)).tryComplete key) := by
  show Host.Outcome.next (s.atBin .dataH m _) = _
  rw [State.atBin_of_hears _ hm hty]
  unfold State.binData
  rw [ht]
  dsimp only
  rw [if_pos (by simp [hc, htag])]
  rfl

theorem exec_dataF (hty : m.type = .dataF) (htag : m.tag < rdsecTag) (hc : isCollecting b.st = true) :
    exec (.dataF m) s = .next ((u.setBin key (b.buffered m m.cover true)).tryComplete key) := by
  show Host.Outcome.next (if 8 ≤ m.dst then _ else s.atBin .dataF m _) = _
  rw [if_neg (by have := hm.2.1; omega), State.atBin_of_hears _ hm hty]
  unfold State.binData
  rw [ht]
  dsimp only
  rw [if_pos (by simp [hc, htag])]
  rfl

theorem dataH_buffered (hty : m.type = .dataH) (htag : m.tag < rdsecTag) (hc : isCollecting b.st = true) (hg : b.grant = none) :
    completes (.dataH m) s fun t =>
      (t.bins.get {} key).got = b.got ||| m.need ∧ (t.bins.get {} key).st = afterData b.st
        ∧ (t.bins.get {} key).buf = patch b.buf m.data ∧ t.net = u.net := by
  have hget := u.get_setBin key (b.buffered m m.need false)
  refine completes_of_exec ((exec_dataH hm ht hty htag hc).trans (congrArg _ (State.tryComplete_waits hget (.inl hg)))) ?_
  rw [hget]
  exact ⟨rfl, rfl, rfl, rfl⟩

theorem dataH_completes (hty : m.type = .dataH) (htag : m.tag < rdsecTag) (hst : b.st = .isD) (hg : b.grant = some (1, 0, m.need))
    (hw : b.waits = []) (hd : b.dirty = 0) :
    completes (.dataH m) s fun t =>
      (t.bins.get {} key).st = .s ∧ (t.bins.get {} key).valid = b.valid ||| m.need ∧ (t.bins.get {} key).grant = none
        ∧ (t.bins.get {} key).data = patch b.data ((patch b.buf m.data).filter fun e => inMask m.need e.1)
        ∧ (t.bins.get {} key).holdUntil = u.clock + 16 * (u.mill (key / 2 ^ 17)).hold ∧ t.mem = s.mem
        ∧ ∃ x, t.net = u.net ++ [x] ∧ x.type = .done ∧ x.line = b.line ∧ x.pol = b.pol ∧ x.src = key / 2 ^ 17 ∧ x.tag = slotTag key := by
  have hget := u.get_setBin key (b.buffered m m.need false)
  have hgot : m.need &&& ~~~(b.got ||| m.need) = 0 := by
    ext i hi
    simp
    tauto
  have hinst : ((0 : BitVec 8) ||| m.need) &&& ~~~b.dirty = m.need := by
    rw [hd]
    exact (congrArg (· &&& ~~~(0 : BitVec 8)) BitVec.zero_or).trans BitVec.and_allOnes
  obtain ⟨c, hc⟩ : ∃ c, c = b.buffered m m.need false := ⟨_, rfl⟩
  have hx := State.tryComplete_alone hget (st := 1) (cover := 0) (need := m.need) hg BitVec.zero_and hgot hw
  obtain ⟨f1, -, f3, f4, f5, f6, f7⟩ := c.installed_fields 1 0 m.need
  have hcv : c.valid = b.valid := by rw [hc]; rfl
  have hcd : c.dirty = b.dirty := by rw [hc]; rfl
  have hcb : c.buf = patch b.buf m.data := by rw [hc]; rfl
  have hcda : c.data = b.data := by rw [hc]; rfl
  have hcl : c.line = b.line ∧ c.pol = b.pol := by rw [hc]; exact ⟨rfl, rfl⟩
  have hexec := exec_dataH hm ht hty htag (by rw [hst]; rfl)
  rw [hx, ← hc] at hexec
  refine completes_of_exec hexec ?_
  rw [State.get_setBin]
  refine ⟨f4, ?_, f5, ?_, rfl, ?_, _, rfl, rfl, f6.trans hcl.1, f7.trans hcl.2, rfl, rfl⟩
  · rw [f1, hcv, hcd, hinst]
  · rw [f3, hcda, hcb, hcd, hinst]
  · simp only [State.setBin_mem, State.send]
    exact State.mem_of_receive hm.1

theorem dataF_completes (hty : m.type = .dataF) (htag : m.tag < rdsecTag) (hst : b.st = .imD) (hg : b.grant = some (3, m.cover, 0))
    (hw : b.waits = []) (hd : b.dirty = 0) :
    completes (.dataF m) s fun t =>
      (t.bins.get {} key).st = .m ∧ (t.bins.get {} key).valid = b.valid ||| m.cover
        ∧ (t.bins.get {} key).dirty = m.cover &&& (b.mark ||| (m.mark &&& m.cover))
        ∧ ∃ x, t.net = u.net ++ [x] ∧ x.type = .done ∧ x.line = b.line ∧ x.pol = b.pol ∧ x.src = key / 2 ^ 17 ∧ x.tag = slotTag key := by
  have hget := u.get_setBin key (b.buffered m m.cover true)
  have hgot : m.cover &&& ~~~(b.gotF ||| m.cover) = 0 := by
    ext i hi
    simp
    tauto
  have hinst : (m.cover ||| (0 : BitVec 8)) &&& ~~~b.dirty = m.cover := by
    rw [hd]
    exact (congrArg (· &&& ~~~(0 : BitVec 8)) BitVec.or_zero).trans BitVec.and_allOnes
  have hdirty : b.dirty ||| ((m.cover &&& (b.mark ||| (m.mark &&& m.cover))) &&& m.cover) = m.cover &&& (b.mark ||| (m.mark &&& m.cover)) := by
    rw [hd]
    ext i hi
    simp
    tauto
  obtain ⟨c, hc⟩ : ∃ c, c = b.buffered m m.cover true := ⟨_, rfl⟩
  have hx := State.tryComplete_alone hget (st := 3) (cover := m.cover) (need := 0) hg hgot BitVec.zero_and hw
  obtain ⟨f1, f2, -, f4, -, f6, f7⟩ := c.installed_fields 3 m.cover 0
  have hcv : c.valid = b.valid := by rw [hc]; rfl
  have hcd : c.dirty = b.dirty := by rw [hc]; rfl
  have hcm : c.mark = b.mark ||| (m.mark &&& m.cover) := by rw [hc]; rfl
  have hcl : c.line = b.line ∧ c.pol = b.pol := by rw [hc]; exact ⟨rfl, rfl⟩
  have hexec := exec_dataF hm ht hty htag (by rw [hst]; rfl)
  rw [hx, ← hc] at hexec
  refine completes_of_exec hexec ?_
  rw [State.get_setBin]
  refine ⟨f4, ?_, ?_, _, rfl, rfl, f6.trans hcl.1, f7.trans hcl.2, rfl, rfl⟩
  · rw [f1, hcv, hcd, hinst]
  · rw [f2, if_pos rfl, hcm, hcd, hinst, hdirty]

theorem putAck_frees (hty : m.type = .putAck) (hp : isPutWait b.st = true) (hh : b.held = []) :
    completes (.putAck m) s fun t =>
      t.bins.get {} key = {} ∧ t.net = u.net ∧ (∀ k, k ≠ key → t.bins.get {} k = s.bins.get {} k)
        ∧ (t.keel (homeOf m.line)).trackers = (u.keel (homeOf m.line)).trackers.erase (b.pol, m.dst) := by
  refine completes_of_exec (t := (u.setBin key {}).freeTracker (homeOf m.line) b.pol m.dst) ?_
    ⟨u.get_setBin key {}, rfl, fun k hk => ?_, ?_⟩
  · show Host.Outcome.next (s.atBin .putAck m _) = _
    rw [State.atBin_of_hears _ hm hty, ht]
    dsimp only
    rw [if_pos hp, hh]
    rfl
  · refine (u.get_setBin_other key k {} hk).trans ?_
    rw [State.bins_of_receive hm.1]
  · rw [State.freeTracker, State.keel_updKeel]
    rfl

theorem nackRd_asks (hty : m.type = .nackRd) (hst : b.st = .i) (hr : b.rdsec ≠ 0) :
    completes (.nackRd m) s fun t =>
      (t.bins.get {} key).st = .isAD ∧ (t.bins.get {} key).valid = 0
        ∧ (t.mill m.dst).nacks = satAdd 0xFFFF (u.mill m.dst).nacks 1
        ∧ ∃ x, t.net = u.net ++ [x] ∧ x.type = .gets ∧ x.need = b.rdsec := by
  obtain ⟨hkey, hb, -, hl⟩ := State.key_of_tagged ht
  refine completes_of_exec (t := (u.updMill m.dst fun c => { c with nacks := satAdd 0xFFFF c.nacks 1 }).askGets key
    { b with rdsec := 0, valid := 0 } b.rdsec) ?_ ?_
  · show Host.Outcome.next (s.atBin .nackRd m _) = _
    rw [State.atBin_of_hears _ hm hty]
    dsimp only
    rw [← hkey, State.updMill_bins, hb, if_pos (by simp only [hl, hst, decide_true, Bool.true_and, ne_eq, decide_eq_true_eq]; exact hr)]
  · unfold State.askGets
    rw [State.get_setBin]
    refine ⟨rfl, rfl, ?_, _, rfl, rfl, rfl⟩
    exact congrArg MillSt.nacks (State.mill_updMill u m.dst fun c => { c with nacks := satAdd 0xFFFF c.nacks 1 })

end

end Sys2Proof.Machine
end

section
/-! OBLIGATIONS. Bins hold and answer (R197, R199, R200). -/

namespace Sys2Proof.Machine

open Sys2Proof

/-! ## What a Bin sends -/

/-- The owner's two messages: the sectors on their way to the requester, and the home's answer. -/
theorem State.supply_sends (s : State) (m : CohMsg) (key : Nat) (b : BinLine) (ack : Nat) :
    (s.supply m key b ack).mem = s.mem ∧ (s.supply m key b ack).bins = s.bins ∧
    ∃ x y, (s.supply m key b ack).net = s.net ++ [x, y] ∧ x.type = .dataF ∧ x.req = m.req
      ∧ x.cover = ((m.need &&& b.valid) ||| b.dirty) ∧ x.mark = b.dirty ∧ x.data = (maskOffs x.cover).map (fun o => (o, b.data.get 0 o))
      ∧ y.type = .fwdAck ∧ y.st = ack ∧ y.cover = x.cover := by
  refine ⟨rfl, rfl, { fromBin .dataF key b m.tag with
    req := m.req, cover := (m.need &&& b.valid) ||| b.dirty, mark := b.dirty
    poison := b.poison &&& ((m.need &&& b.valid) ||| b.dirty)
    data := (maskOffs ((m.need &&& b.valid) ||| b.dirty)).map fun o => (o, b.data.get 0 o) },
    { fromBin .fwdAck key b m.tag with req := m.req, st := ack, cover := (m.need &&& b.valid) ||| b.dirty }, ?_, rfl, rfl, rfl, rfl, ?_, rfl, rfl, rfl⟩
  · simp only [State.supply, State.send, List.append_assoc, List.cons_append, List.nil_append]
  · dsimp only

/-! ## Messages to a line that is not held -/

section
variable {u : State} {m : CohMsg} {key : Nat} {b0 : BinLine} (hb : u.binFind m.dst m.pol m.line = some (key, b0))
include hb

theorem State.forwarded_now (hh : b0.holdUntil ≤ u.clock ∨ (m.type = .recall ∧ m.st = 0)) : u.forwarded m = u.answerMsg m := by
  unfold State.forwarded
  rw [hb]
  dsimp only
  rw [if_neg]
  rcases hh with h | ⟨h1, h2⟩
  · simp [h]
  · simp [h1, h2]

theorem State.forwarded_held (hh : u.clock < b0.holdUntil) (hm : ¬(m.type = .recall ∧ m.st = 0)) :
    u.forwarded m = (u.setBin key { b0 with held := b0.held ++ [m] }).updMill m.dst fun c =>
      { c with holdWaits := satAdd 0xFFFF c.holdWaits 1 } := by
  unfold State.forwarded
  rw [hb]
  dsimp only
  rw [if_pos]
  simp only [hh, decide_true, Bool.true_and, Bool.not_eq_true', Bool.and_eq_false_iff, decide_eq_false_iff_not]
  tauto

theorem State.answerMsg_putWait (hp : isPutWait b0.st = true) (hm : m.type ≠ .inv) : u.answerMsg m = u.wbCross m key b0 := by
  unfold State.answerMsg
  rw [hb]
  dsimp only
  rw [if_pos hp, if_neg hm]

variable (hp : isPutWait b0.st = false) {b : BinLine} (hbd : b = b0.settle 0xFF)
include hp hbd

theorem State.answerMsg_fwdGets (hm : m.type = .fwdGets) :
    u.answerMsg m = match b.st with
      | .e => (u.supply m key b 1).setBin key { b with st := .s }
      | .m => (u.supply m key b 4).setBin key { b with st := .o }
      | .o | .omAD | .omA | .omD => (u.supply m key b 4).setBin key b
      | _ => u := by
  subst hbd
  unfold State.answerMsg
  rw [hb]
  dsimp only
  rw [if_neg (by rw [hp]; decide), hm] <;> rfl

theorem State.answerMsg_fwdGetm (hm : m.type = .fwdGetm) :
    u.answerMsg m = match b.st with
      | .e | .m | .o => (u.supply m key b 0).giveUp key
      | .omAD | .omA | .omD => (u.supply m key b 0).setBin key (lostCopy b)
      | _ => u := by
  subst hbd
  unfold State.answerMsg
  rw [hb]
  dsimp only
  rw [if_neg (by rw [hp]; decide), hm] <;> rfl

theorem State.answerMsg_inv (hm : m.type = .inv) :
    u.answerMsg m = match b.st with
      | .s => (u.send (fromBin .invAck key b m.tag)).giveUp key
      | .smAD | .smA | .smD => (u.send (fromBin .invAck key b m.tag)).setBin key (lostCopy b)
      | _ => u.send (fromBin .invAck key b m.tag) := by
  subst hbd
  unfold State.answerMsg
  rw [hb]
  dsimp only
  rw [if_neg (by rw [hp]; decide), hm] <;> rfl

/-- The answer to a RECALL. -/
def State.recalled (u : State) (m : CohMsg) (key : Nat) (b0 b : BinLine) : State :=
  u.send (if isOwning b.st && m.st ≠ 2 then carryDirty (fromBin .recallAck key b m.tag) b0 else fromBin .recallAck key b m.tag)

theorem State.answerMsg_recall (hm : m.type = .recall) :
    u.answerMsg m = match b.st with
      | .s | .e => if m.st = 0 then u.recalled m key b0 b else (u.recalled m key b0 b).giveUp key
      | .m => if m.st = 0 then (u.recalled m key b0 b).setBin key { b with dirty := 0, st := .e } else (u.recalled m key b0 b).giveUp key
      | .o => if m.st = 0 then (u.recalled m key b0 b).setBin key { b with dirty := 0, st := .s } else (u.recalled m key b0 b).giveUp key
      | .smAD | .smA | .smD => if m.st = 0 then u.recalled m key b0 b else (u.recalled m key b0 b).setBin key (lostCopy b)
      | .omAD | .omA | .omD => if m.st = 0 then (u.recalled m key b0 b).setBin key { b with dirty := 0, st := .smAD }
        else (u.recalled m key b0 b).setBin key (lostCopy b)
      | _ => u.recalled m key b0 b := by
  subst hbd
  unfold State.answerMsg
  rw [hb]
  dsimp only
  rw [if_neg (by rw [hp]; decide), hm] <;> rfl

end

/-! ## The states that follow -/

section
variable {s u v : State} {key : Nat} (hu : u.bins = s.bins) (hv : v.bins = u.bins)
include hu hv

/-- One line has become another, and no other line changes. -/
theorem becomes_setBin (x : BinLine) : (v.setBin key x).bins.get {} key = x ∧ ∀ k, k ≠ key → (v.setBin key x).bins.get {} k = s.bins.get {} k :=
  ⟨v.get_setBin key x, fun k hk => by rw [State.get_setBin_other _ _ _ _ hk, hv, hu]⟩

/-- A line is gone, without a message, and no other line changes. -/
theorem gone_giveUp {b0 : BinLine} (hb : u.bins.get {} key = b0) (hw : b0.waits = []) (hr : b0.rdsec = 0) :
    ((v.giveUp key).bins.get {} key = {} ∧ ∀ k, k ≠ key → (v.giveUp key).bins.get {} k = s.bins.get {} k)
      ∧ (v.giveUp key).mem = v.mem ∧ (v.giveUp key).net = v.net := by
  have hget : v.bins.get {} key = b0 := by rw [hv, hb]
  obtain ⟨x, hx⟩ := State.giveUp_gone (s := v) (key := key) (by rw [hget, hw]) (by rw [hget, hr])
  rw [hx]
  refine ⟨⟨State.get_setBin _ _ _, fun k hk => ?_⟩, rfl, rfl⟩
  rw [State.get_setBin_other _ _ _ _ hk, State.get_setBin_other _ _ _ _ hk, hv, hu]

end

section
variable {s u : State} {m : CohMsg} {key : Nat} {b0 : BinLine} (hm : s.binHears m u)
  (hb : u.binFind m.dst m.pol m.line = some (key, b0)) (hget : u.bins.get {} key = b0)
  (hh : b0.holdUntil ≤ u.clock ∨ (m.type = .recall ∧ m.st = 0)) (hw : b0.waits = []) (hr : b0.rdsec = 0)
include hm hb hget hh hw hr

/-- What the owner of a line, and its Bin's line, are after a forward. -/
def Supplied (s u : State) (m : CohMsg) (b : BinLine) (t : State) (ack : Nat) : Prop :=
  t.mem = s.mem ∧ ∃ x y, t.net = u.net ++ [x, y] ∧ x.type = .dataF ∧ x.req = m.req
    ∧ x.cover = ((m.need &&& b.valid) ||| b.dirty) ∧ x.mark = b.dirty ∧ x.data = (maskOffs x.cover).map (fun o => (o, b.data.get 0 o))
    ∧ y.type = .fwdAck ∧ y.st = ack ∧ y.cover = x.cover

omit hb hget hh hw hr in
theorem supplied_setBin (b x : BinLine) (ack : Nat) : Supplied s u m b ((u.supply m key b ack).setBin key x) ack := by
  obtain ⟨h1, -, h3⟩ := u.supply_sends m key b ack
  exact ⟨h1.trans (State.mem_of_receive hm.1), h3⟩

omit hb hh in
theorem supplied_giveUp (b : BinLine) (ack : Nat) : Supplied s u m b ((u.supply m key b ack).giveUp key) ack := by
  obtain ⟨h1, h2, x, y, h3, h4⟩ := u.supply_sends m key b ack
  obtain ⟨-, k2, k3⟩ := gone_giveUp (State.bins_of_receive hm.1) h2 hget hw hr
  exact ⟨(k2.trans h1).trans (State.mem_of_receive hm.1), x, y, k3.trans h3, h4⟩

omit hget hw hr in
theorem fwdGets_answered (b : BinLine) (hbd : b = b0.settle 0xFF) (hp : isPutWait b0.st = false) (hty : m.type = .fwdGets) :
    let inOM := b.st = .omAD ∨ b.st = .omA ∨ b.st = .omD
    let becomes := fun (t : State) (x : BinLine) => t.bins.get {} key = x ∧ ∀ k, k ≠ key → t.bins.get {} k = s.bins.get {} k
    (b.st = .e → completes (.fwdGets m) s fun t => becomes t { b with st := .s } ∧ Supplied s u m b t 1)
      ∧ (b.st = .m → completes (.fwdGets m) s fun t => becomes t { b with st := .o } ∧ Supplied s u m b t 4)
      ∧ (b.st = .o ∨ inOM → completes (.fwdGets m) s fun t => becomes t b ∧ Supplied s u m b t 4) := by
  intro inOM becomes
  have hx : exec (.fwdGets m) s = .next (u.answerMsg m) := by
    show Host.Outcome.next (s.atBin .fwdGets m _) = _
    rw [State.atBin_of_hears _ hm hty, State.forwarded_now hb hh]
  have ha := State.answerMsg_fwdGets hb hp hbd hty
  have hbins := State.bins_of_receive hm.1
  have hsup : ∀ ack, (u.supply m key b ack).bins = u.bins := fun ack => (u.supply_sends m key b ack).2.1
  refine ⟨fun h => ?_, fun h => ?_, fun h => ?_⟩
  · rw [h] at ha
    exact completes_of_exec (hx.trans (congrArg _ ha)) ⟨becomes_setBin hbins (hsup 1) _, supplied_setBin hm b _ 1⟩
  · rw [h] at ha
    exact completes_of_exec (hx.trans (congrArg _ ha)) ⟨becomes_setBin hbins (hsup 4) _, supplied_setBin hm b _ 4⟩
  · have hg : u.answerMsg m = (u.supply m key b 4).setBin key b := by
      rcases h with h | h | h | h <;> rw [h] at ha <;> exact ha
    exact completes_of_exec (hx.trans (congrArg _ hg)) ⟨becomes_setBin hbins (hsup 4) _, supplied_setBin hm b _ 4⟩

theorem fwdGetm_answered (b : BinLine) (hbd : b = b0.settle 0xFF) (hp : isPutWait b0.st = false) (hty : m.type = .fwdGetm) :
    let inOM := b.st = .omAD ∨ b.st = .omA ∨ b.st = .omD
    let gone := fun (t : State) => t.bins.get {} key = {} ∧ ∀ k, k ≠ key → t.bins.get {} k = s.bins.get {} k
    let becomes := fun (t : State) (x : BinLine) => t.bins.get {} key = x ∧ ∀ k, k ≠ key → t.bins.get {} k = s.bins.get {} k
    (b.st = .e ∨ b.st = .m ∨ b.st = .o → completes (.fwdGetm m) s fun t => gone t ∧ Supplied s u m b t 0)
      ∧ (inOM → completes (.fwdGetm m) s fun t => becomes t (lostCopy b) ∧ Supplied s u m b t 0) := by
  intro inOM gone becomes
  have hx : exec (.fwdGetm m) s = .next (u.answerMsg m) := by
    show Host.Outcome.next (s.atBin .fwdGetm m _) = _
    rw [State.atBin_of_hears _ hm hty, State.forwarded_now hb hh]
  have ha := State.answerMsg_fwdGetm hb hp hbd hty
  have hbins := State.bins_of_receive hm.1
  have hsup := (u.supply_sends m key b 0).2.1
  refine ⟨fun h => ?_, fun h => ?_⟩
  · have hg : u.answerMsg m = (u.supply m key b 0).giveUp key := by
      rcases h with h | h | h <;> rw [h] at ha <;> exact ha
    exact completes_of_exec (hx.trans (congrArg _ hg)) ⟨(gone_giveUp hbins hsup hget hw hr).1, supplied_giveUp hm hget hw hr b 0⟩
  · have hg : u.answerMsg m = (u.supply m key b 0).setBin key (lostCopy b) := by
      rcases h with h | h | h <;> rw [h] at ha <;> exact ha
    exact completes_of_exec (hx.trans (congrArg _ hg)) ⟨becomes_setBin hbins hsup _, supplied_setBin hm b _ 0⟩

theorem inv_answered (b : BinLine) (hbd : b = b0.settle 0xFF) (hp : isPutWait b0.st = false) (hty : m.type = .inv) :
    let inSM := b.st = .smAD ∨ b.st = .smA ∨ b.st = .smD
    let gone := fun (t : State) => t.bins.get {} key = {} ∧ ∀ k, k ≠ key → t.bins.get {} k = s.bins.get {} k
    let becomes := fun (t : State) (x : BinLine) => t.bins.get {} key = x ∧ ∀ k, k ≠ key → t.bins.get {} k = s.bins.get {} k
    completes (.inv m) s fun t => t.mem = s.mem
      ∧ (∃ x, t.net = u.net ++ [x] ∧ x.type = .invAck ∧ x.dst = 8 + homeOf b.line)
      ∧ (b.st = .s → gone t) ∧ (inSM → becomes t (lostCopy b)) ∧ (b.st ≠ .s → ¬inSM → t.bins = s.bins) := by
  intro inSM gone becomes
  have hx : exec (.inv m) s = .next (u.answerMsg m) := by
    show Host.Outcome.next (s.atBin .inv m _) = _
    rw [State.atBin_of_hears _ hm hty, State.forwarded_now hb hh]
  have ha := State.answerMsg_inv hb hp hbd hty
  have hbins := State.bins_of_receive hm.1
  have hmem := State.mem_of_receive hm.1
  have hsend : (u.send (fromBin .invAck key b m.tag)).bins = u.bins := rfl
  by_cases h1 : b.st = .s
  · rw [h1] at ha
    obtain ⟨g1, g2, g3⟩ := gone_giveUp hbins hsend hget hw hr
    refine completes_of_exec (hx.trans (congrArg _ ha)) ⟨g2.trans hmem, ⟨_, g3, rfl, rfl⟩, fun _ => g1, fun h => ?_, fun h => absurd h1 h⟩
    rcases h with h | h | h <;> rw [h1] at h <;> cases h
  by_cases h2 : inSM
  · have hg : u.answerMsg m = (u.send (fromBin .invAck key b m.tag)).setBin key (lostCopy b) := by
      rcases h2 with h | h | h <;> rw [h] at ha <;> exact ha
    exact completes_of_exec (hx.trans (congrArg _ hg)) ⟨hmem, ⟨_, rfl, rfl, rfl⟩, fun h => absurd h h1, fun _ => becomes_setBin hbins hsend _,
      fun _ h => absurd h2 h⟩
  · have hg : u.answerMsg m = u.send (fromBin .invAck key b m.tag) := by
      rw [ha]
      split
      · next h => exact absurd h h1
      · next h => exact absurd (.inl h) h2
      · next h => exact absurd (.inr (.inl h)) h2
      · next h => exact absurd (.inr (.inr h)) h2
      · rfl
    exact completes_of_exec (hx.trans (congrArg _ hg)) ⟨hmem, ⟨_, rfl, rfl, rfl⟩, fun h => absurd h h1, fun h => absurd h h2, fun _ _ => hbins⟩

omit hget hh hw hr hb in
/-- What the answer to a RECALL carries, and what it leaves. -/
theorem recalled_sends (b : BinLine) (hbd : b = b0.settle 0xFF) :
    (u.recalled m key b0 b).mem = s.mem ∧ (u.recalled m key b0 b).bins = u.bins ∧
    ∃ x, (u.recalled m key b0 b).net = u.net ++ [x] ∧ x.type = .recallAck ∧ x.data = if isOwning b.st = true ∧ m.st ≠ 2
      then (maskOffs b.dirty).map (fun o => (o, b.data.get 0 o)) else [] := by
  refine ⟨(rfl : _ = u.mem).trans (State.mem_of_receive hm.1), rfl, _, rfl, ?_, ?_⟩
  · split <;> rfl
  · by_cases h : isOwning b.st = true ∧ m.st ≠ 2
    · rw [if_pos (by simpa using h), if_pos h, carryDirty_data, hbd]
    · rw [if_neg (by simpa using h), if_neg h]
      rfl

theorem recall_answered (b : BinLine) (hbd : b = b0.settle 0xFF) (hp : isPutWait b0.st = false) (hty : m.type = .recall) :
    let inOM := b.st = .omAD ∨ b.st = .omA ∨ b.st = .omD
    let inSM := b.st = .smAD ∨ b.st = .smA ∨ b.st = .smD
    let gone := fun (t : State) => t.bins.get {} key = {} ∧ ∀ k, k ≠ key → t.bins.get {} k = s.bins.get {} k
    let becomes := fun (t : State) (x : BinLine) => t.bins.get {} key = x ∧ ∀ k, k ≠ key → t.bins.get {} k = s.bins.get {} k
    completes (.recall m) s fun t => t.mem = s.mem
      ∧ (∃ x, t.net = u.net ++ [x] ∧ x.type = .recallAck ∧ x.data = if isOwning b.st = true ∧ m.st ≠ 2
          then (maskOffs b.dirty).map (fun o => (o, b.data.get 0 o)) else [])
      ∧ (m.st = 0 → (b.st = .m → becomes t { b with st := .e, dirty := 0 }) ∧ (b.st = .o → becomes t { b with st := .s, dirty := 0 })
          ∧ (inOM → becomes t { b with st := .smAD, dirty := 0 }) ∧ (b.st = .s ∨ b.st = .e ∨ inSM → t.bins = s.bins))
      ∧ (m.st ≠ 0 → (isStable b.st = true → gone t) ∧ (inSM ∨ inOM → becomes t (lostCopy b))) := by
  intro inOM inSM gone becomes
  have hx : exec (.recall m) s = .next (u.answerMsg m) := by
    show Host.Outcome.next (s.atBin .recall m _) = _
    rw [State.atBin_of_hears _ hm hty, State.forwarded_now hb hh]
  have ha := State.answerMsg_recall hb hp hbd hty
  have hbins := State.bins_of_receive hm.1
  obtain ⟨k1, k2, k3⟩ := recalled_sends (key := key) hm b hbd
  obtain ⟨v, hv⟩ : ∃ v, v = u.recalled m key b0 b := ⟨_, rfl⟩
  rw [← hv] at ha k1 k2 k3
  have hset := fun x => becomes_setBin (key := key) hbins k2 x
  obtain ⟨g1, g2, g3⟩ := gone_giveUp hbins k2 hget hw hr
  have hvb : v.bins = s.bins := k2.trans hbins
  have hboth : (u.answerMsg m).mem = s.mem ∧ ∃ x, (u.answerMsg m).net = u.net ++ [x] ∧ x.type = .recallAck
      ∧ x.data = if isOwning b.st = true ∧ m.st ≠ 2 then (maskOffs b.dirty).map (fun o => (o, b.data.get 0 o)) else [] := by
    have hgone : (v.giveUp key).mem = s.mem ∧ ∃ x, (v.giveUp key).net = u.net ++ [x] ∧ x.type = .recallAck
        ∧ x.data = if isOwning b.st = true ∧ m.st ≠ 2 then (maskOffs b.dirty).map (fun o => (o, b.data.get 0 o)) else [] := by
      rw [g2, g3]
      exact ⟨k1, k3⟩
    rw [ha]
    split
    iterate 4
      split
      · exact ⟨k1, k3⟩
      · exact hgone
    iterate 6
      split <;> exact ⟨k1, k3⟩
    exact ⟨k1, k3⟩
  refine completes_of_exec hx ⟨hboth.1, hboth.2, fun h0 => ⟨fun h => ?_, fun h => ?_, fun h => ?_, fun h => ?_⟩, fun h0 => ⟨fun h => ?_, fun h => ?_⟩⟩
  · rw [h] at ha
    rw [ha]
    dsimp only
    rw [if_pos h0]
    exact hset _
  · rw [h] at ha
    rw [ha]
    dsimp only
    rw [if_pos h0]
    exact hset _
  · have hg : u.answerMsg m = v.setBin key { b with dirty := 0, st := .smAD } := by
      rcases h with h | h | h <;> rw [h] at ha <;> exact ha.trans (if_pos h0)
    rw [hg]
    exact hset _
  · have hg : u.answerMsg m = v := by
      rcases h with h | h | h | h | h <;> rw [h] at ha <;> exact ha.trans (if_pos h0)
    rw [hg]
    exact hvb
  · have hg : u.answerMsg m = v.giveUp key := by
      simp only [isStable, Bool.or_eq_true, decide_eq_true_eq] at h
      rcases h with ((h | h) | h) | h <;> rw [h] at ha <;> exact ha.trans (if_neg h0)
    rw [hg]
    exact g1
  · have hg : u.answerMsg m = v.setBin key (lostCopy b) := by
      rcases h with (h | h | h) | h | h | h <;> rw [h] at ha <;> exact ha.trans (if_neg h0)
    rw [hg]
    exact hset _

omit hget hw hr in
theorem forward_crosses (b : BinLine) (hbd : b = b0.settle 0xFF) (hp : isPutWait b.st = true) (c : Instr)
    (hc : m.type = .fwdGets ∧ c = .fwdGets m ∨ m.type = .fwdGetm ∧ c = .fwdGetm m ∨ m.type = .recall ∧ c = .recall m) :
    completes c s fun t => t.bins = s.bins ∧ (∃ x, t.net = u.net ++ [x] ∧ x.type = .wbCross ∧ x.dst = 8 + homeOf b.line)
      ∧ (t.mill m.dst).wbCrosses = satAdd 0xFFFF (u.mill m.dst).wbCrosses 1 := by
  have hst : b.st = b0.st := by rw [hbd]; rfl
  have hl : b.line = b0.line := by rw [hbd]; rfl
  have hinv : m.type ≠ .inv := by rcases hc with ⟨h, -⟩ | ⟨h, -⟩ | ⟨h, -⟩ <;> rw [h] <;> decide
  have hx : exec c s = .next (u.wbCross m key b0) := by
    rw [← State.answerMsg_putWait hb (hst ▸ hp) hinv, ← State.forwarded_now hb hh]
    rcases hc with ⟨h, rfl⟩ | ⟨h, rfl⟩ | ⟨h, rfl⟩
    · exact congrArg _ (State.atBin_of_hears _ hm h)
    · exact congrArg _ (State.atBin_of_hears _ hm h)
    · exact congrArg _ (State.atBin_of_hears _ hm h)
  refine completes_of_exec hx ⟨(rfl : _ = u.bins).trans (State.bins_of_receive hm.1), ⟨_, rfl, rfl, ?_⟩, ?_⟩
  · rw [hl]
    rfl
  · exact congrArg MillSt.wbCrosses (State.mill_updMill _ m.dst fun c => { c with wbCrosses := satAdd 0xFFFF c.wbCrosses 1 })

end

/-! ## Other lines -/

section
variable {s u : State} {m : CohMsg} (hm : s.binHears m u)
include hm

theorem unknown_line_answered (hb : u.binFind m.dst m.pol m.line = none) :
    (m.type = .inv → completes (.inv m) s fun t => t.bins = s.bins ∧ ∃ x, t.net = u.net ++ [x] ∧ x.type = .invAck ∧ x.dst = m.src) ∧
    (m.type = .recall → completes (.recall m) s fun t => t.bins = s.bins ∧ ∃ x, t.net = u.net ++ [x] ∧ x.type = .recallAck ∧ x.dst = m.src) := by
  have hf : u.forwarded m = u.answerMsg m := by
    unfold State.forwarded
    rw [hb]
  have hbins := State.bins_of_receive hm.1
  refine ⟨fun h => completes_of_exec (t := u.ackFor m .invAck) ?_ ⟨hbins, _, rfl, rfl, rfl⟩,
    fun h => completes_of_exec (t := u.ackFor m .recallAck) ?_ ⟨hbins, _, rfl, rfl, rfl⟩⟩
  · refine congrArg _ ((State.atBin_of_hears _ hm h).trans (hf.trans ?_))
    unfold State.answerMsg
    rw [hb, h]
  · refine congrArg _ ((State.atBin_of_hears _ hm h).trans (hf.trans ?_))
    unfold State.answerMsg
    rw [hb, h]

theorem held_line_keeps (key : Nat) (b : BinLine) (hb : u.binFind m.dst m.pol m.line = some (key, b)) (hh : u.clock < b.holdUntil) (c : Instr)
    (hc : m.type = .fwdGets ∧ c = .fwdGets m ∨ m.type = .fwdGetm ∧ c = .fwdGetm m ∨ m.type = .inv ∧ c = .inv m
      ∨ m.type = .recall ∧ m.st ≠ 0 ∧ c = .recall m) :
    completes c s fun t => t.bins.get {} key = { b with held := b.held ++ [m] } ∧ t.net = u.net
      ∧ (t.mill m.dst).holdWaits = satAdd 0xFFFF (u.mill m.dst).holdWaits 1 := by
  have hne : ¬(m.type = .recall ∧ m.st = 0) := by
    rintro ⟨h1, h2⟩
    rcases hc with ⟨h, -⟩ | ⟨h, -⟩ | ⟨h, -⟩ | ⟨-, h, -⟩
    · rw [h1] at h; cases h
    · rw [h1] at h; cases h
    · rw [h1] at h; cases h
    · exact h h2
  have hx : exec c s = .next (u.forwarded m) := by
    rcases hc with ⟨h, rfl⟩ | ⟨h, rfl⟩ | ⟨h, rfl⟩ | ⟨h, -, rfl⟩ <;> exact congrArg _ (State.atBin_of_hears _ hm h)
  refine completes_of_exec (hx.trans (congrArg _ (State.forwarded_held hb hh hne))) ⟨u.get_setBin key _, rfl, ?_⟩
  exact congrArg MillSt.holdWaits (State.mill_updMill _ m.dst fun c => { c with holdWaits := satAdd 0xFFFF c.holdWaits 1 })

end

theorem dataF_goes_down (s u : State) (m : CohMsg) (hm : s.heard m u) (hty : m.type = .dataF) (hd : 8 ≤ m.dst) :
    exec (.dataF m) s = .next (u.send { m with dst := m.req }) := by
  show Host.Outcome.next (if 8 ≤ m.dst then _ else _) = _
  rw [if_pos hd, State.atHome_of_heard _ hm hty]

theorem holdExpiry_answers (s : State) (d : Die) (p : Pol) (line key : Nat) (b : BinLine) (hb : s.binFind d.val p.val line = some (key, b)) :
    (s.clock < b.holdUntil → exec (.holdExpiry d line p) s = .next s) ∧
    (b.holdUntil ≤ s.clock → b.held = [] → completes (.holdExpiry d line p) s fun t =>
      t.bins.get {} key = { b with held := [] } ∧ t.net = s.net ∧ t.mem = s.mem) ∧
    (b.holdUntil ≤ s.clock → exec (.holdExpiry d line p) s = .next (b.held.foldl State.answerMsg (s.setBin key { b with held := [] }))) := by
  have hx : exec (.holdExpiry d line p) s = .next (if s.clock < b.holdUntil then s
      else b.held.foldl State.answerMsg (s.setBin key { b with held := [] })) := by
    show execHoldExpiry d line p s = _
    unfold execHoldExpiry
    rw [hb]
  have hgo : b.holdUntil ≤ s.clock → exec (.holdExpiry d line p) s = .next (b.held.foldl State.answerMsg (s.setBin key { b with held := [] })) :=
    fun h => hx.trans (by rw [if_neg (by omega)])
  refine ⟨fun h => hx.trans (by rw [if_pos h]), fun h hh => ?_, hgo⟩
  have h1 := hgo h
  rw [hh] at h1
  exact completes_of_exec h1 ⟨State.get_setBin _ _ _, rfl, rfl⟩

/-- Settles O42: each message at a Bin, by the state of the line it finds. -/
theorem binsCollectAndAnswer : Obligations.BinsCollectAndAnswer := by
  unfold Obligations.BinsCollectAndAnswer
  refine ⟨fun s d p line need hint hf hh hm => ⟨binRead_found s d p line need hint hf hh hm, binRead_missed s d p line need hint hf hh hm⟩,
    fun s u m key b hm ht => ⟨fun h hc hn => grant_waits hm ht h hc hn, fun h hc hg hn => grant_completes hm ht h hc hg hn,
      fun h htag hc hg => dataH_buffered hm ht h htag hc hg, fun h htag hst hg hw hd => dataH_completes hm ht h htag hst hg hw hd,
      fun h htag hst hg hw hd => dataF_completes hm ht h htag hst hg hw hd, fun h hp hh => putAck_frees hm ht h hp hh,
      fun h hst hr => nackRd_asks hm ht h hst hr⟩,
    dataF_goes_down, fun s u m key b0 hm hb hget hh hw hr => ?_, fun s u m hm hb => unknown_line_answered hm hb,
    fun s u m key b hm hb hh c hc => held_line_keeps hm key b hb hh c hc, holdExpiry_answers⟩
  have hst : (b0.settle 0xFF).st = b0.st := rfl
  have hno : ∀ l : List BinSt, (b0.settle 0xFF).st ∈ l → l.all (fun x => !isPutWait x) = true → isPutWait b0.st = false := fun l hl ha => by
    have := List.all_eq_true.1 ha _ hl
    rw [hst] at this
    simpa using this
  refine ⟨fun h => ?_, fun h => ?_, fun h hp => inv_answered hm hb hget hh hw hr _ rfl hp h,
    fun h hp => recall_answered hm hb hget hh hw hr _ rfl hp h, fun hp c hc => forward_crosses hm hb hh _ rfl hp c hc⟩
  · refine ⟨fun he => ?_, fun he => ?_, fun he => ?_⟩
    · exact (fwdGets_answered hm hb hh _ rfl (hno [.e] (List.mem_singleton.2 he) rfl) h).1 he
    · exact (fwdGets_answered hm hb hh _ rfl (hno [.m] (List.mem_singleton.2 he) rfl) h).2.1 he
    · exact (fwdGets_answered hm hb hh _ rfl (hno [.o, .omAD, .omA, .omD] (by simpa using he) rfl) h).2.2 he
  · refine ⟨fun he => ?_, fun he => ?_⟩
    · exact (fwdGetm_answered hm hb hget hh hw hr _ rfl (hno [.e, .m, .o] (by simpa using he) rfl) h).1 he
    · exact (fwdGetm_answered hm hb hget hh hw hr _ rfl (hno [.omAD, .omA, .omD] (by simpa using he) rfl) h).2 he

end Sys2Proof.Machine
end

section
/-! SUPPORT. What the home's copy of a line, and the answers of a home, leave of the directory (R187, R194). -/

namespace Sys2Proof.Machine

open Sys2Proof

/-! ## The home's copy -/

/-- All but the home's copies and the Crier. -/
def State.apart (s : State) : State := { s with mem := [], marks := [], gran := [], crier := {} }

section
variable {s t : State} (h : t.apart = s.apart)
include h

theorem State.net_of_apart : t.net = s.net := (congrArg State.net h : t.apart.net = s.apart.net)
theorem State.txns_of_apart : t.txns = s.txns := (congrArg State.txns h : t.apart.txns = s.apart.txns)
theorem State.bins_of_apart : t.bins = s.bins := (congrArg State.bins h : t.apart.bins = s.apart.bins)
theorem State.shadow_of_apart : t.shadow = s.shadow := (congrArg State.shadow h : t.apart.shadow = s.apart.shadow)
theorem State.handMap_of_apart : t.hands = s.hands := (congrArg State.hands h : t.apart.hands = s.apart.hands)
theorem State.keels_of_apart : t.keels = s.keels := (congrArg State.keels h : t.apart.keels = s.apart.keels)
theorem State.keel_of_apart (k : Nat) : t.keel k = s.keel k := by rw [State.keel, State.keel, State.keels_of_apart h]

end

section
variable (s : State)

@[simp] theorem State.updMark_apart (n : Nat) (f : Mark → Mark) : (s.updMark n f).apart = s.apart := rfl
@[simp] theorem State.setGran_apart (n : Nat) (g : GranLine) : (s.setGran n g).apart = s.apart := rfl
@[simp] theorem State.updGran_apart (n : Nat) (f : GranLine → GranLine) : (s.updGran n f).apart = s.apart := rfl
@[simp] theorem State.mem_apart (m : List Host.Cell) : ({ s with mem := m } : State).apart = s.apart := rfl
@[simp] theorem State.raiseOwn_apart (code : Code) (source p : Nat) (detail : List Byte) :
    (s.raiseOwn code source p detail).apart = s.apart := rfl

@[simp] theorem State.homeUndo_apart (line : Nat) (mask : BitVec 8) : (s.homeUndo line mask).apart = s.apart := by
  unfold State.homeUndo
  dsimp only
  split
  · rfl
  · split <;> simp

@[simp] theorem State.granFlush_apart (key : Nat) : (s.granFlush key).apart = s.apart := by
  unfold State.granFlush
  dsimp only
  split
  · rfl
  · have h := s.homeUndo_apart (s.gran.get {} key).line ((s.gran.get {} key).dirty &&& (s.gran.get {} key).dead)
    generalize s.homeUndo _ _ = v at h ⊢
    rw [State.updMark_apart]
    exact (State.mem_apart v _).trans h

@[simp] theorem State.granEvict_apart (key : Nat) : (s.granEvict key).apart = s.apart := by
  unfold State.granEvict
  split <;> simp

@[simp] theorem State.granAlloc_apart (p line hint : Nat) : (s.granAlloc p line hint).apart = s.apart := by
  unfold State.granAlloc
  dsimp only
  split
  · rfl
  split
  · simp
  split
  · rfl
  split
  · rfl
  split <;> simp

@[simp] theorem State.granFill_apart (line : Nat) (need : BitVec 8) : (s.granFill line need).apart = s.apart := by
  unfold State.granFill
  split <;> simp

@[simp] theorem State.homeKeep_apart (line : Nat) (bs : Bytes) (dead : Bool) : (s.homeKeep line bs dead).apart = s.apart := by
  unfold State.homeKeep
  split <;> simp

@[simp] theorem State.homeWrite_apart (p line : Nat) (bs : Bytes) (dead poison : Bool) (hint : Nat) :
    (s.homeWrite p line bs dead poison hint).apart = s.apart := by
  unfold State.homeWrite
  split
  · rfl
  · dsimp only
    split
    · exact (State.homeKeep_apart _ line bs dead).trans (s.granAlloc_apart p line hint)
    · simp

@[simp] theorem State.homeRead_apart (p line : Nat) (need : BitVec 8) (hint : Nat) : (s.homeRead p line need hint).2.apart = s.apart := by
  unfold State.homeRead
  dsimp only
  split <;> simp

@[simp] theorem State.homeDiscard_apart (line : Nat) (mask : BitVec 8) (granary : Bool) :
    (s.homeDiscard line mask granary).apart = s.apart := by
  unfold State.homeDiscard
  dsimp only
  rw [State.updMark_apart]
  split
  · split <;> rfl
  · rfl

@[simp] theorem State.land_apart (m : CohMsg) : (s.land_ m).apart = s.apart := by
  unfold State.land_
  dsimp only
  have hw : ∀ (c : Bool) (bs : Bytes) (poison : Bool) (u : State), u.apart = s.apart →
      (if c then u else u.homeWrite m.pol m.line bs false poison m.hint).apart = s.apart := fun c bs poison u hu => by
    split
    · exact hu
    · rw [State.homeWrite_apart, hu]
  split
  · rfl
  split
  · exact hw _ _ _ _ (hw _ _ _ _ rfl)
  split
  · rw [State.updMark_apart, State.setGran_apart, State.homeUndo_apart]
    exact hw _ _ _ _ (hw _ _ _ _ rfl)
  · rw [State.updMark_apart, State.homeUndo_apart]
    exact hw _ _ _ _ (hw _ _ _ _ rfl)

end

/-! ## The directory and the messages -/

/-- The directory, its transactions, the Bins, and the messages between them. -/
structure Dir where
  net : List CohMsg
  txns : SMap HomeTxn
  shadow : SMap Shadow
  bins : SMap BinLine

def State.dir (s : State) : Dir := ⟨s.net, s.txns, s.shadow, s.bins⟩

theorem State.dir_of_apart {s t : State} (h : t.apart = s.apart) : t.dir = s.dir := by
  rw [State.dir, State.net_of_apart h, State.txns_of_apart h, State.shadow_of_apart h, State.bins_of_apart h, State.dir]

section
variable {s t : State} (h : t.dir = s.dir)
include h

theorem State.net_of_dir : t.net = s.net := (congrArg Dir.net h :)
theorem State.txns_of_dir : t.txns = s.txns := (congrArg Dir.txns h :)
theorem State.shadow_of_dir : t.shadow = s.shadow := (congrArg Dir.shadow h :)
theorem State.bins_of_dir : t.bins = s.bins := (congrArg Dir.bins h :)
theorem State.txn_of_dir (line : Nat) : t.txn line = s.txn line := by rw [State.txn, State.txns_of_dir h, State.txn]
theorem State.busy_of_dir (line : Nat) : t.busy line = s.busy line := by rw [State.busy, State.txns_of_dir h, State.busy]
theorem State.entriesOf_of_dir (line : Nat) : t.entriesOf line = s.entriesOf line := by
  rw [State.entriesOf, State.shadow_of_dir h, State.entriesOf]

end

theorem foldl_dir {α : Type} (f : State → α → State) (h : ∀ s a, (f s a).dir = s.dir) (l : List α) (s : State) :
    (l.foldl f s).dir = s.dir := foldl_keeps_proj State.dir f h l s

section
variable (s : State)

@[simp] theorem State.updPol_dir (p : Nat) (f : Polder → Polder) : (s.updPol p f).dir = s.dir := rfl
@[simp] theorem State.updRun_dir (p seq : Nat) (f : Run → Run) : (s.updRun p seq f).dir = s.dir := rfl
@[simp] theorem State.updHand_dir (h : Nat) (f : Hand → Hand) : (s.updHand h f).dir = s.dir := rfl
@[simp] theorem State.updPort_dir (n : Nat) (f : HostPort → HostPort) : (s.updPort n f).dir = s.dir := rfl
@[simp] theorem State.updLink_dir (n : Nat) (f : LinkPort → LinkPort) : (s.updLink n f).dir = s.dir := rfl
@[simp] theorem State.updKeel_dir (n : Nat) (f : KeelSt → KeelSt) : (s.updKeel n f).dir = s.dir := rfl
@[simp] theorem State.freeTracker_dir (k p who : Nat) : (s.freeTracker k p who).dir = s.dir := rfl
@[simp] theorem State.raiseOwn_dir (code : Code) (source p : Nat) (detail : List Byte) : (s.raiseOwn code source p detail).dir = s.dir := rfl
@[simp] theorem State.freeLine_dir : s.freeLine.2.dir = s.dir := rfl

@[simp] theorem State.countDead_dir (p : Nat) (dead : Bool) : (s.countDead p dead).dir = s.dir := by
  unfold State.countDead
  split <;> rfl

@[simp] theorem State.complete_dir (port fn addr : Nat) (data : List Byte) (ep : Bool) : (s.complete port fn addr data ep).dir = s.dir :=
  foldl_dir (fun (s : State) d => s.toHost port (.completion fn d 0 ep)) (fun _ _ => rfl) _ _

@[simp] theorem State.sendTxn_dir (n p cls : Nat) (t : Txn) : (s.sendTxn n p cls t).dir = s.dir := by
  unfold State.sendTxn
  split <;> rfl

@[simp] theorem State.late_dir (p : Nat) (orphan : Bool) : (s.late p orphan).dir = s.dir := by
  unfold State.late
  extract_lets s' q
  have h' : s'.dir = s.dir := rfl
  split
  · rw [State.updPol_dir, State.raiseOwn_dir, h']
  · exact h'

@[simp] theorem State.hostGot_dir (port id p : Nat) (bs : Bytes) (bad dead : Bool) : (s.hostGot port id p bs bad dead).dir = s.dir := by
  unfold State.hostGot
  split
  · rfl
  extract_lets a' s1 s2
  have h2 : s2.dir = s.dir := by
    simp only [s2]
    split <;> rfl
  split
  · rfl
  · rw [State.complete_dir, State.countDead_dir, h2]

@[simp] theorem State.hostAnswer_dir (port id : Nat) (r : HomeReq) (bs : Bytes) (poison : BitVec 8) :
    (s.hostAnswer port id r bs poison).dir = s.dir := State.hostGot_dir ..

@[simp] theorem State.deliver_dir (r : HomeReq) (bs : Bytes) (poison : BitVec 8) : (s.deliver r bs poison).dir = s.dir := by
  unfold State.deliver
  extract_lets s' isRead
  have h' : s'.dir = s.dir := by
    simp only [s']
    split <;> rfl
  rw [← h']
  split
  · split <;> simp
  · split <;> simp
  · split
    · simp
    · split <;> rfl
  · rfl
  · rfl
  · simp
  · rfl

@[simp] theorem State.answer_dir (r : HomeReq) (bs : Bytes) (poison : BitVec 8) : (s.answer r bs poison).dir = s.dir := by
  simp only [State.answer, State.deliver_dir]
  split <;> split <;> rfl

@[simp] theorem State.answerFenced_dir (r : HomeReq) : (s.answerFenced r).dir = s.dir := by
  simp [State.answerFenced]

@[simp] theorem State.answerFencedStack_dir (r : HomeReq) : (s.answerFencedStack r).dir = s.dir := by
  unfold State.answerFencedStack
  split <;> simp

@[simp] theorem State.granEvict_dir (key : Nat) : (s.granEvict key).dir = s.dir := State.dir_of_apart (by simp)
@[simp] theorem State.homeRead_dir (p line : Nat) (need : BitVec 8) (hint : Nat) : (s.homeRead p line need hint).2.dir = s.dir :=
  State.dir_of_apart (by simp)
@[simp] theorem State.homeUndo_dir (line : Nat) (mask : BitVec 8) : (s.homeUndo line mask).dir = s.dir := State.dir_of_apart (by simp)
@[simp] theorem State.homeWrite_dir (p line : Nat) (bs : Bytes) (dead poison : Bool) (hint : Nat) :
    (s.homeWrite p line bs dead poison hint).dir = s.dir := State.dir_of_apart (by simp)
@[simp] theorem State.land_dir (m : CohMsg) : (s.land_ m).dir = s.dir := State.dir_of_apart (by simp)

@[simp] theorem State.perform_dir (r : HomeReq) : (s.perform r).dir = s.dir := by
  unfold State.perform
  split
  · simp
  split
  · simp
  split
  · next need hop =>
    extract_lets s1
    have h1 : s1.dir = s.dir := by
      simp only [s1]
      split <;> simp
    simp [h1]
  · simp
  · simp
  · next ty addends poison hop =>
    simp only [State.answer_dir]
    rw [foldl_dir _ (fun _ _ => by simp)]
    simp
  · next op gran hop =>
    simp only [State.answer_dir]
    refine State.dir_of_apart ?_
    split
    · split <;> simp
    · split <;> simp
    · split <;> simp
    · simp

end

/-! ## Data of the home -/

/-- What a home sends of its copy: its message and the polder's count of dead reads change, and the home's copy. -/
theorem State.sendData_frame (s : State) (m : CohMsg) (need : BitVec 8) :
    (s.sendData m need).txns = s.txns ∧ (s.sendData m need).bins = s.bins ∧ (s.sendData m need).hands = s.hands
      ∧ (s.sendData m need).keels = s.keels ∧ (s.sendData m need).shadow = s.shadow ∧ s.net <+: (s.sendData m need).net
      ∧ (need ≠ 0 → ∃ x, (s.sendData m need).net = s.net ++ [x] ∧ x.type = .dataH ∧ x.dst = m.src ∧ x.need = need ∧ x.tag = m.tag
        ∧ x.data = (maskOffs need).map fun o => (o, (s.sendData m need).homeByte m.line o)) := by
  unfold State.sendData
  split
  · next h => exact ⟨rfl, rfl, rfl, rfl, rfl, List.prefix_refl _, fun hn => absurd h hn⟩
  · dsimp only
    obtain ⟨v, hv⟩ : ∃ v, v = ((s.countDead m.pol (m.type ≠ .getm && s.meetsDead m.line need)).homeUndo m.line need).homeRead m.pol m.line need m.hint :=
      ⟨_, rfl⟩
    have hbytes : v.1.1 = (maskOffs need).map fun o => (o, v.2.homeByte m.line o) := by
      rw [hv]
      simp only [State.homeRead]
    have hap : v.2.apart = (s.countDead m.pol (m.type ≠ .getm && s.meetsDead m.line need)).apart := by
      rw [hv, State.homeRead_apart, State.homeUndo_apart]
    have hcd : ∀ dead, (s.countDead m.pol dead).hands = s.hands ∧ (s.countDead m.pol dead).keels = s.keels := fun dead => by
      unfold State.countDead
      split <;> exact ⟨rfl, rfl⟩
    have hdir : v.2.dir = s.dir := (State.dir_of_apart hap).trans (State.countDead_dir _ _ _)
    rw [← hv]
    have hnet := State.net_of_dir hdir
    have htx := State.txns_of_dir hdir
    have hbi := State.bins_of_dir hdir
    have hha := (State.handMap_of_apart hap).trans (hcd _).1
    have hke := (State.keels_of_apart hap).trans (hcd _).2
    have hsh := State.shadow_of_dir hdir
    refine ⟨htx, hbi, hha, hke, hsh, ?_, fun _ => ⟨_, congrArg (· ++ [_]) hnet, rfl, rfl, rfl, rfl, ?_⟩⟩
    · rw [← hnet]
      exact List.prefix_append _ _
    · exact hbytes

end Sys2Proof.Machine
end

section
/-! OBLIGATIONS. Homes answer the messages of Bins (R187, R191 to R195, R200). -/

namespace Sys2Proof.Machine

open Sys2Proof

theorem State.txn_setTxn (s : State) (line : Nat) (t : HomeTxn) : (s.setTxn line t).txn line = t := SMap.get_set_same _ _ _ _

/-! ## Requests of Bins (R194) -/

/-- A grant from the home's copy: the line waits for its DONE, GRANT and the sectors are on their way. -/
theorem State.grantNow_grants (v : State) (m : CohMsg) (es : List Entry) (st : Nat) (ent : EntSt) :
    let t := v.grantNow m es st ent
    (t.txn m.line).busy = .d ∧ (t.txn m.line).final = [(m.src, m.set, m.way, m.pol, ent)] ∧ (t.txn m.line).dones = 1
      ∧ t.bins = v.bins ∧ t.hands = v.hands
      ∧ { fromHome .grant m.line m.src m.pol with st := st, need := wanted es m, tag := m.tag } ∈ t.net
      ∧ (wanted es m ≠ 0 → ∃ x ∈ t.net, x.type = .dataH ∧ x.dst = m.src ∧ x.need = wanted es m ∧ x.tag = m.tag
          ∧ x.data = (maskOffs (wanted es m)).map fun o => (o, t.homeByte m.line o)) := by
  intro t
  obtain ⟨h1, h2, h3, h4, h5, h6, h7⟩ := v.sendData_frame m (wanted es m)
  have htx : t.txn m.line = { busy := .d, serving := .coh m, dones := 1, final := [(m.src, m.set, m.way, m.pol, ent)] } :=
    State.txn_setTxn _ _ _
  have hbyte : (fun o => (o, t.homeByte m.line o)) = fun o => (o, (v.sendData m (wanted es m)).homeByte m.line o) := rfl
  refine ⟨by rw [htx], by rw [htx], by rw [htx], h2, h3, List.mem_append_right _ (List.mem_singleton.2 rfl), fun hn => ?_⟩
  obtain ⟨x, hx, k1, k2, k3, k4, k5⟩ := h7 hn
  refine ⟨x, List.mem_append_left _ (hx ▸ List.mem_append_right _ (List.mem_singleton.2 rfl)), k1, k2, k3, k4, ?_⟩
  rw [hbyte]
  exact k5

theorem dirOf_owned {es : List Entry} {o : Entry} (h : es.find? isOwner = some o) : dirOf es = .dx ∨ dirOf es = .do_ := by
  have ho := List.find?_some h
  have hmem := List.mem_of_find?_eq_some h
  simp only [isOwner, Bool.or_eq_true, decide_eq_true_eq] at ho
  unfold dirOf
  split
  · exact .inr rfl
  · next hno =>
    rw [if_pos]
    · exact .inl rfl
    · rcases ho with ho | ho
      · exact List.any_eq_true.2 ⟨o, hmem, by simpa using ho⟩
      · exact absurd (List.any_eq_true.2 ⟨o, hmem, by simpa using ho⟩) hno

theorem dirOf_unowned {es : List Entry} (h : es.find? isOwner = none) : dirOf es = if es = [] then .di else .ds := by
  have hn := List.find?_eq_none.1 h
  have hany : ∀ st : EntSt, (st = .x ∨ st = .o) → (es.any fun e => e.st = st) = false := fun st hst => by
    rw [List.any_eq_false]
    intro e he hes
    refine hn e he ?_
    simp only [decide_eq_true_eq] at hes
    rcases hst with rfl | rfl <;> simp [isOwner, hes]
  unfold dirOf
  rw [hany .o (.inr rfl), hany .x (.inl rfl)]
  cases es <;> rfl

theorem foldl_sends {α : Type} (f : α → CohMsg) (l : List α) (s : State) :
    (l.foldl (fun s a => s.send (f a)) s) = { s with net := s.net ++ l.map f } := by
  induction l generalizing s with
  | nil => simp
  | cons a l ih => rw [List.foldl_cons, ih]; simp [State.send]

theorem State.invalidate_eq (s : State) (m : CohMsg) (es : List Entry) :
    s.invalidate m es = { s with net := s.net ++ es.map fun e => { fromHome .inv m.line e.bin e.pol with tag := m.tag } } :=
  foldl_sends (fun e : Entry => { fromHome .inv m.line e.bin e.pol with tag := m.tag }) es s

/-- The command of a Bin's request. -/
def askCommand (m : CohMsg) : Instr := if m.type = .gets then Instr.gets m else if m.type = .getm then .getm m else .rdsec m

theorem exec_ask {s u : State} {m : CohMsg} (hm : s.heard m u) (ht : m.type = .gets ∨ m.type = .getm ∨ m.type = .rdsec) :
    exec (askCommand m) s = .next (if u.busy m.line then
        (u.setTxn m.line { u.txn m.line with queue := (u.txn m.line).queue ++ [.coh m] }).updKeel (homeOf m.line) fun k =>
          { k with maxq := max k.maxq (min 0xFFFF ((u.txn m.line).queue.length + 1)) }
      else u.beginCoh m) := by
  have hreq : exec (askCommand m) s = .next (u.request m.line (.coh m)) := by
    unfold askCommand
    rcases ht with h | h | h
    · rw [if_pos h]
      exact congrArg _ (State.atHome_of_heard _ hm h)
    · rw [if_neg (by rw [h]; decide), if_pos h]
      exact congrArg _ (State.atHome_of_heard _ hm h)
    · rw [if_neg (by rw [h]; decide), if_neg (by rw [h]; decide)]
      exact congrArg _ (State.atHome_of_heard _ hm h)
  have hput : isPut m.type = false := by rcases ht with h | h | h <;> rw [h] <;> rfl
  rw [hreq, State.request]
  have hb : u.begin m.line (.coh m) = u.beginCoh m := by
    unfold State.begin
    dsimp only
    rw [if_neg (by rw [hput]; decide)]
  rw [hb]

/-- A request on a busy line waits in its queue. -/
theorem queued_waits (u : State) (line : Nat) (x : Serving) (t : State)
    (ht : t = (u.setTxn line { u.txn line with queue := (u.txn line).queue ++ [x] }).updKeel (homeOf line) fun k =>
      { k with maxq := max k.maxq (min 0xFFFF ((u.txn line).queue.length + 1)) }) :
    (t.txn line).queue = (u.txn line).queue ++ [x] ∧ t = { u with txns := t.txns, keels := t.keels } := by
  subst ht
  exact ⟨congrArg HomeTxn.queue (u.txn_setTxn line _), rfl⟩

section
variable (u : State) {m : CohMsg}

theorem State.beginCoh_gets_unowned (ht : m.type = .gets) (ho : (u.entriesOf m.line).find? isOwner = none) :
    let alone := u.entriesOf m.line = [] ∧ u.isStock m.line = false
    u.beginCoh m = u.grantNow m (u.entriesOf m.line) (if alone then 2 else 1) (if alone then .x else .s) := by
  intro alone
  unfold State.beginCoh
  dsimp only
  rw [ht, dirOf_unowned ho, ho]
  by_cases he : u.entriesOf m.line = []
  · rw [if_pos he]
    dsimp only
    by_cases hs : u.isStock m.line = true
    · have hn : ¬alone := fun h => absurd (hs.symm.trans h.2) (by decide)
      rw [if_pos hs, if_neg hn, if_neg hn]
    · have hy : alone := ⟨he, Bool.not_eq_true _ ▸ hs⟩
      rw [if_neg hs, if_pos hy, if_pos hy]
  · rw [if_neg he]
    simp only [alone, he, false_and, if_false]

theorem State.beginCoh_gets_owned (ht : m.type = .gets) {o : Entry} (ho : (u.entriesOf m.line).find? isOwner = some o) :
    u.beginCoh m = (u.forward m o .fwdGets m.need).setTxn m.line
      { busy := .a, serving := .coh m, want := m.need, await := [(o.bin, o.pol)], sent := [(o.bin, o.pol)], ownerBin := some (o.bin, o.pol) } := by
  unfold State.beginCoh
  dsimp only
  rw [ht, ho]
  rcases dirOf_owned ho with h | h <;> rw [h]

theorem State.beginCoh_getm_mine (ht : m.type = .getm)
    (ho : ∀ o, (u.entriesOf m.line).find? isOwner = some o → o.bin = m.src ∧ o.pol = m.pol) :
    u.beginCoh m = if sharersBut (u.entriesOf m.line) m = [] then u.grantNow m (u.entriesOf m.line) 3 .x
      else (u.invalidate m (sharersBut (u.entriesOf m.line) m)).setTxn m.line
        { busy := .a, serving := .coh m, want := wanted (u.entriesOf m.line) m, await := names (sharersBut (u.entriesOf m.line) m) } := by
  unfold State.beginCoh
  dsimp only
  rw [ht]
  cases hf : (u.entriesOf m.line).find? isOwner with
  | none => simp only [List.isEmpty_iff]
  | some o => simp only [(ho o hf).1, (ho o hf).2, decide_true, Bool.and_self, if_true, List.isEmpty_iff]

theorem State.beginCoh_getm_other (ht : m.type = .getm) {o : Entry} (ho : (u.entriesOf m.line).find? isOwner = some o)
    (hn : ¬(o.bin = m.src ∧ o.pol = m.pol)) :
    u.beginCoh m = ((u.forward m o .fwdGetm (wanted (u.entriesOf m.line) m)).invalidate m (sharersBut (u.entriesOf m.line) m)).setTxn m.line
      { busy := .a, serving := .coh m, want := wanted (u.entriesOf m.line) m
        await := (o.bin, o.pol) :: names (sharersBut (u.entriesOf m.line) m), sent := [(o.bin, o.pol)], ownerBin := some (o.bin, o.pol) } := by
  unfold State.beginCoh
  dsimp only
  rw [ht, ho]
  dsimp only
  rw [if_neg (by simpa using hn)]

theorem State.beginCoh_rdsec_refused (ht : m.type = .rdsec) (hn : ∀ e ∈ u.entriesOf m.line, ¬(e.bin = m.src ∧ e.pol = m.pol)) :
    u.beginCoh m = u.send { fromHome .nackRd m.line m.src m.pol with tag := m.tag } := by
  unfold State.beginCoh
  dsimp only
  rw [ht]
  dsimp only
  rw [if_neg]
  rw [Bool.not_eq_true, List.any_eq_false]
  intro e he
  simpa using hn e he

theorem State.beginCoh_rdsec_sent (ht : m.type = .rdsec) (hy : ∃ e ∈ u.entriesOf m.line, e.bin = m.src ∧ e.pol = m.pol) :
    u.beginCoh m = u.sendData m m.need := by
  unfold State.beginCoh
  dsimp only
  rw [ht]
  dsimp only
  rw [if_pos]
  obtain ⟨e, he, h1, h2⟩ := hy
  exact List.any_eq_true.2 ⟨e, he, by simp [h1, h2]⟩

end

theorem ask_answered (s u : State) (m : CohMsg) (hm : s.heard m u) (hty : m.type = .gets ∨ m.type = .getm ∨ m.type = .rdsec) :
    let c := if m.type = .gets then Instr.gets m else if m.type = .getm then .getm m else .rdsec m
    let es := u.entriesOf m.line
    let others := sharersBut es m
    let mine := fun (e : Entry) => e.bin = m.src ∧ e.pol = m.pol
    let granted := fun (t : State) (need : BitVec 8) (st : Nat) (e : EntSt) =>
      (t.txn m.line).busy = .d ∧ (t.txn m.line).final = [(m.src, m.set, m.way, m.pol, e)] ∧ (t.txn m.line).dones = 1
        ∧ t.bins = s.bins ∧ t.hands = s.hands
        ∧ { fromHome .grant m.line m.src m.pol with st := st, need := need, tag := m.tag } ∈ t.net
        ∧ (need ≠ 0 → ∃ x ∈ t.net, x.type = .dataH ∧ x.dst = m.src ∧ x.need = need ∧ x.tag = m.tag
            ∧ x.data = (maskOffs need).map fun o => (o, t.homeByte m.line o))
    let waits := fun (t : State) (want : BitVec 8) (ns : List (Nat × Nat)) => (t.txn m.line).busy = .a
      ∧ (t.txn m.line).serving = .coh m ∧ (t.txn m.line).want = want ∧ (t.txn m.line).await = ns ∧ t = { u with net := t.net, txns := t.txns }
    let invs := others.map fun e => { fromHome .inv m.line e.bin e.pol with tag := m.tag }
    (u.busy m.line = true → completes c s fun t => (t.txn m.line).queue = (u.txn m.line).queue ++ [.coh m]
      ∧ t = { u with txns := t.txns, keels := t.keels }) ∧
    (u.busy m.line = false →
      (m.type = .gets → es.find? isOwner = none → completes c s fun t =>
        let alone := es = [] ∧ u.isStock m.line = false
        granted t m.need (if alone then 2 else 1) (if alone then .x else .s)) ∧
      (m.type = .gets → ∀ o, es.find? isOwner = some o → completes c s fun t => waits t m.need [(o.bin, o.pol)]
        ∧ (t.txn m.line).sent = [(o.bin, o.pol)]
        ∧ t.net = u.net ++ [{ fromHome .fwdGets m.line o.bin o.pol with req := m.src, need := m.need, tag := m.tag }]) ∧
      (m.type = .getm → others = [] → (∀ o, es.find? isOwner = some o → mine o) → completes c s fun t => granted t (wanted es m) 3 .x) ∧
      (m.type = .getm → others ≠ [] → (∀ o, es.find? isOwner = some o → mine o) → completes c s fun t =>
        waits t (wanted es m) (names others) ∧ t.net = u.net ++ invs) ∧
      (m.type = .getm → ∀ o, es.find? isOwner = some o → ¬mine o → completes c s fun t =>
        waits t (wanted es m) ((o.bin, o.pol) :: names others) ∧ (t.txn m.line).sent = [(o.bin, o.pol)]
        ∧ t.net = u.net ++ { fromHome .fwdGetm m.line o.bin o.pol with req := m.src, need := wanted es m, tag := m.tag } :: invs) ∧
      (m.type = .rdsec → (∀ e ∈ es, ¬mine e) → completes c s fun t =>
        t = { u with net := u.net ++ [{ fromHome .nackRd m.line m.src m.pol with tag := m.tag }] }) ∧
      (m.type = .rdsec → m.need ≠ 0 → (∃ e ∈ es, mine e) → completes c s fun t => ∃ x, t.net = u.net ++ [x] ∧ x.type = .dataH
        ∧ x.dst = m.src ∧ x.need = m.need ∧ x.tag = m.tag ∧ x.data = (maskOffs m.need).map fun o => (o, t.homeByte m.line o))) := by
  intro c es others mine granted waits invs
  have hx : exec c s = _ := exec_ask hm hty
  have hbins := State.bins_of_receive hm.1
  have hhands : u.hands = s.hands := by rw [State.receive_frame hm.1]
  have hgrant : ∀ st ent, granted (u.grantNow m es st ent) (wanted es m) st ent := fun st ent => by
    obtain ⟨h1, h2, h3, h4, h5, h6, h7⟩ := u.grantNow_grants m es st ent
    exact ⟨h1, h2, h3, h4.trans hbins, h5.trans hhands, h6, h7⟩
  have hwaits : ∀ (v : State) (x : HomeTxn), v = { u with net := v.net } → x.busy = .a → x.serving = .coh m →
      waits (v.setTxn m.line x) x.want x.await ∧ ((v.setTxn m.line x).txn m.line).sent = x.sent := fun v x hv h1 h2 => by
    have htx := v.txn_setTxn m.line x
    refine ⟨⟨?_, ?_, ?_, ?_, ?_⟩, ?_⟩
    · rw [htx, h1]
    · rw [htx, h2]
    · rw [htx]
    · rw [htx]
    · rw [hv]
      rfl
    · rw [htx]
  clear_value c
  refine ⟨fun hb => ?_, fun hb => ?_⟩
  · rw [if_pos hb] at hx
    exact completes_of_exec hx (queued_waits u m.line (.coh m) _ rfl)
  rw [if_neg (by rw [hb]; decide)] at hx
  have hthis : ∀ t, u.beginCoh m = t → exec c s = .next t := fun t ht => hx.trans (congrArg _ ht)
  refine ⟨fun hg ho => ?_, fun hg o ho => ?_, fun hg h0 ho => ?_, fun hg h0 ho => ?_, fun hg o ho hmine => ?_, fun hg hno => ?_, fun hg hn hyes => ?_⟩
  · have hw : m.need = wanted es m := by rw [wanted, if_pos (by simp [hg])]
    rw [hw]
    exact completes_of_exec (hthis _ (State.beginCoh_gets_unowned u hg ho)) (hgrant _ _)
  · obtain ⟨h1, h2⟩ := hwaits (u.forward m o .fwdGets m.need)
      { busy := .a, serving := .coh m, want := m.need, await := [(o.bin, o.pol)], sent := [(o.bin, o.pol)], ownerBin := some (o.bin, o.pol) } rfl rfl rfl
    exact completes_of_exec (hthis _ (State.beginCoh_gets_owned u hg ho)) ⟨h1, h2, rfl⟩
  · exact completes_of_exec (hthis _ ((State.beginCoh_getm_mine u hg ho).trans (if_pos h0))) (hgrant _ _)
  · have hinv := u.invalidate_eq m others
    obtain ⟨h1, -⟩ := hwaits (u.invalidate m others) { busy := .a, serving := .coh m, want := wanted es m, await := names others }
      (by rw [hinv]) rfl rfl
    exact completes_of_exec (hthis _ ((State.beginCoh_getm_mine u hg ho).trans (if_neg h0))) ⟨h1, congrArg State.net hinv⟩
  · have hinv := (u.forward m o .fwdGetm (wanted es m)).invalidate_eq m others
    obtain ⟨h1, h2⟩ := hwaits ((u.forward m o .fwdGetm (wanted es m)).invalidate m others)
      { busy := .a, serving := .coh m, want := wanted es m, await := (o.bin, o.pol) :: names others
        sent := [(o.bin, o.pol)], ownerBin := some (o.bin, o.pol) } (by rw [hinv]; rfl) rfl rfl
    refine completes_of_exec (hthis _ (State.beginCoh_getm_other u hg ho hmine)) ⟨h1, h2, ?_⟩
    exact (congrArg State.net hinv).trans (List.append_assoc _ _ _)
  · exact completes_of_exec (hthis _ (State.beginCoh_rdsec_refused u hg hno)) rfl
  · obtain ⟨-, -, -, -, -, -, h7⟩ := u.sendData_frame m m.need
    exact completes_of_exec (hthis _ (State.beginCoh_rdsec_sent u hg hyes)) (h7 hn)

end Sys2Proof.Machine
end

section
/-! OBLIGATIONS. Homes take puts, answers and DONE (R187, R191 to R195, R200). -/

namespace Sys2Proof.Machine

open Sys2Proof

theorem State.get_setShadow (s : State) (key : Nat) (e : Shadow) : (s.setShadow key e).shadow.get {} key = e :=
  SMap.get_set_same _ _ _ _

theorem State.get_setShadow_other (s : State) (key k : Nat) (e : Shadow) (h : k ≠ key) :
    (s.setShadow key e).shadow.get {} k = s.shadow.get {} k := SMap.get_set_other _ _ _ _ _ h

/-! ## Puts (R193, R194, R200) -/

theorem State.takePut_taken {s : State} {m : CohMsg} {e : Entry}
    (he : (s.entriesOf m.line).find? (fun e => e.bin = m.src && e.pol = m.pol && isOwner e) = some e) :
    s.takePut m = ((s.land_ m).setShadow e.key {}).send { fromHome .putAck m.line m.src m.pol with tag := m.tag } := by
  unfold State.takePut
  dsimp only
  rw [he]

theorem State.takePut_none {s : State} {m : CohMsg}
    (he : (s.entriesOf m.line).find? (fun e => e.bin = m.src && e.pol = m.pol && isOwner e) = none) : s.takePut m = s := by
  unfold State.takePut
  dsimp only
  rw [he]

/-- A put that lands is acknowledged, and its entry is dropped. -/
theorem State.takePut_lands {s : State} {m : CohMsg} {e : Entry}
    (he : (s.entriesOf m.line).find? (fun e => e.bin = m.src && e.pol = m.pol && isOwner e) = some e) :
    (s.takePut m).shadow.get {} e.key = {} ∧ (s.takePut m).bins = s.bins ∧ (s.takePut m).txns = s.txns
      ∧ (s.takePut m).net = s.net ++ [{ fromHome .putAck m.line m.src m.pol with tag := m.tag }] := by
  have hdir := s.land_dir m
  have hbi := State.bins_of_dir hdir
  have htx := State.txns_of_dir hdir
  have hnet := State.net_of_dir hdir
  have hset : ((s.land_ m).setShadow e.key {}).shadow.get {} e.key = {} := State.get_setShadow _ _ _
  rw [State.takePut_taken he]
  exact ⟨hset, hbi, htx, congrArg (· ++ [_]) hnet⟩

/-- The command of a put. -/
def putCommand (m : CohMsg) : Instr := if m.type = .pute then Instr.pute m else if m.type = .putm then .putm m else .puto m

theorem exec_put {s u : State} {m : CohMsg} (hm : s.heard m u) (ht : isPut m.type = true) : exec (putCommand m) s = .next (u.put m) := by
  unfold putCommand
  simp only [isPut, Bool.or_eq_true, decide_eq_true_eq] at ht
  rcases ht with (h | h) | h
  · rw [if_pos h]
    exact congrArg _ (State.atHome_of_heard _ hm h)
  · rw [if_neg (by rw [h]; decide), if_pos h]
    exact congrArg _ (State.atHome_of_heard _ hm h)
  · rw [if_neg (by rw [h]; decide), if_neg (by rw [h]; decide)]
    exact congrArg _ (State.atHome_of_heard _ hm h)

theorem put_answered (s u : State) (m : CohMsg) (hm : s.heard m u) (ht : isPut m.type = true) :
    let c := if m.type = .pute then Instr.pute m else if m.type = .putm then .putm m else .puto m
    let mine := fun (e : Entry) => e.bin = m.src && e.pol = m.pol && isOwner e
    let crossing := ((u.txn m.line).busy = .a ∨ (u.txn m.line).busy = .r) ∧ (m.src, m.pol) ∈ (u.txn m.line).sent
    (u.busy m.line = false → ∀ e, (u.entriesOf m.line).find? mine = some e → completes c s fun t =>
      t.shadow.get {} e.key = {} ∧ t.bins = s.bins ∧ t.txns = s.txns
        ∧ t.net = u.net ++ [{ fromHome .putAck m.line m.src m.pol with tag := m.tag }]) ∧
    (u.busy m.line = false → (u.entriesOf m.line).find? mine = none → exec c s = .next u) ∧
    (u.busy m.line = true → ¬crossing → completes c s fun t => (t.txn m.line).queue = (u.txn m.line).queue ++ [.coh m]
      ∧ t = { u with txns := t.txns, keels := t.keels }) ∧
    (u.busy m.line = true → crossing → (u.txn m.line).await ≠ [] → ∀ e, (u.entriesOf m.line).find? mine = some e → completes c s fun t =>
      t.shadow.get {} e.key = {} ∧ (t.txn m.line).await = (u.txn m.line).await
        ∧ (t.txn m.line).awaitPut = (u.txn m.line).awaitPut.erase (m.src, m.pol)
        ∧ t.net = u.net ++ [{ fromHome .putAck m.line m.src m.pol with tag := m.tag }]) := by
  intro c mine crossing
  have hx : exec c s = .next (u.put m) := exec_put hm ht
  clear_value c
  have htxns : u.txns = s.txns := by rw [State.receive_frame hm.1]
  have hput : u.put m = if u.busy m.line && ((u.txn m.line).busy = .a || (u.txn m.line).busy = .r) && (u.txn m.line).sent.contains (m.src, m.pol) then
      ((u.takePut m).setTxn m.line { u.txn m.line with
        sent := (u.txn m.line).sent.erase (m.src, m.pol), awaitPut := (u.txn m.line).awaitPut.erase (m.src, m.pol) }).lastAnswer m.line
      else u.request m.line (.coh m) := rfl
  have hcross : (((u.txn m.line).busy = .a || (u.txn m.line).busy = .r) && (u.txn m.line).sent.contains (m.src, m.pol)) = true ↔ crossing := by
    simp [crossing]
  have hfree : u.busy m.line = false → exec c s = .next (u.takePut m) := fun hb => by
    rw [hx, hput, if_neg (by rw [hb]; simp), State.request, if_neg (by rw [hb]; decide), State.begin, if_pos ht]
  refine ⟨fun hb e he => ?_, fun hb he => ?_, fun hb hc => ?_, fun hb hc ha e he => ?_⟩
  · obtain ⟨h1, h2, h3, h4⟩ := State.takePut_lands he
    exact completes_of_exec (hfree hb) ⟨h1, h2.trans (State.bins_of_receive hm.1), h3.trans htxns, h4⟩
  · rw [hfree hb, State.takePut_none he]
  · refine completes_of_exec (hx.trans (congrArg _ (hput.trans ?_))) (queued_waits u m.line (.coh m) _ rfl)
    rw [if_neg (by rw [hb, Bool.true_and]; exact fun h => hc (hcross.1 h)), State.request, if_pos hb]
  · obtain ⟨h1, h2, h3, h4⟩ := State.takePut_lands he
    obtain ⟨v, hv⟩ : ∃ v, v = (u.takePut m).setTxn m.line { u.txn m.line with
        sent := (u.txn m.line).sent.erase (m.src, m.pol), awaitPut := (u.txn m.line).awaitPut.erase (m.src, m.pol) } := ⟨_, rfl⟩
    have htx : v.txn m.line = { u.txn m.line with
        sent := (u.txn m.line).sent.erase (m.src, m.pol), awaitPut := (u.txn m.line).awaitPut.erase (m.src, m.pol) } := by
      rw [hv, State.txn_setTxn]
    have hlast : v.lastAnswer m.line = v := by
      unfold State.lastAnswer
      dsimp only
      rw [htx, if_pos (by simp [ha])]
    refine completes_of_exec (t := v) (hx.trans (congrArg _ (hput.trans ?_))) ⟨?_, by rw [htx], by rw [htx], ?_⟩
    · rw [if_pos (by rw [hb, Bool.true_and]; exact hcross.2 hc), ← hv, hlast]
    · rw [hv]
      exact h1
    · rw [hv]
      exact h4

/-! ## Answers of Bins (R195) -/

theorem State.answered_waits {s : State} {m : CohMsg} (f : HomeTxn → HomeTxn) (hc : (m.src, m.pol) ∈ (s.txn m.line).await)
    (hf : ∀ t, (f t).await = t.await) (hr : (s.txn m.line).await.erase (m.src, m.pol) ≠ []) :
    s.answered m f = s.setTxn m.line (f { s.txn m.line with await := (s.txn m.line).await.erase (m.src, m.pol) }) := by
  unfold State.answered
  dsimp only
  rw [if_pos (by simpa using hc)]
  unfold State.lastAnswer
  dsimp only
  rw [State.txn_setTxn, if_pos]
  rw [hf]
  simp [hr]

theorem State.land_empty {s : State} {m : CohMsg} (hd : m.data = []) (hk : m.mark = 0) : s.land_ m = s := by
  unfold State.land_
  rw [hd, hk]
  rfl

/-- The owner's answer to a forward, noted in the transaction. -/
def HomeTxn.heardOwner (m : CohMsg) (t : HomeTxn) : HomeTxn :=
  { t with ownerNew := some m.st, cover := m.cover, sent := t.sent.erase (m.src, m.pol) }

/-- An owner that has left, noted in the transaction. -/
def HomeTxn.heardCross (m : CohMsg) (t : HomeTxn) : HomeTxn :=
  { t with
    cover := 0
    awaitPut := if t.sent.contains (m.src, m.pol) then t.awaitPut ++ [(m.src, m.pol)] else t.awaitPut }

/-- A RECALL answered, noted in the transaction. -/
def HomeTxn.heardRecall (m : CohMsg) (t : HomeTxn) : HomeTxn := { t with sent := t.sent.erase (m.src, m.pol) }

section
variable {s u : State} {m : CohMsg} (hm : s.heard m u)
include hm

theorem exec_invAck (h : m.type = .invAck) : exec (.invAck m) s = .next (u.answered m id) :=
  congrArg Host.Outcome.next (State.atHome_of_heard _ hm h)
theorem exec_fwdAck (h : m.type = .fwdAck) : exec (.fwdAck m) s = .next (u.answered m (HomeTxn.heardOwner m)) :=
  congrArg Host.Outcome.next (State.atHome_of_heard _ hm h)
theorem exec_wbCross (h : m.type = .wbCross) : exec (.wbCross m) s = .next (u.answered m (HomeTxn.heardCross m)) :=
  congrArg Host.Outcome.next (State.atHome_of_heard _ hm h)

theorem exec_recallAck (h : m.type = .recallAck) (hc : (m.src, m.pol) ∈ (u.txn m.line).await) :
    exec (.recallAck m) s = .next ((u.land_ m).answered m (HomeTxn.heardRecall m)) :=
  congrArg Host.Outcome.next ((State.atHome_of_heard _ hm h).trans (if_pos (by simpa using hc)))

end

theorem answers_counted (s u : State) (m : CohMsg) (hm : s.heard m u) (hc : (m.src, m.pol) ∈ (u.txn m.line).await) :
    let rest := (u.txn m.line).await.erase (m.src, m.pol)
    rest ≠ [] →
    (m.type = .invAck → completes (.invAck m) s fun t =>
      (t.txn m.line).await = rest ∧ t.net = u.net ∧ t.mem = s.mem) ∧
    (m.type = .fwdAck → completes (.fwdAck m) s fun t =>
      (t.txn m.line).await = rest ∧ (t.txn m.line).cover = m.cover ∧ (t.txn m.line).ownerNew = some m.st
        ∧ (t.txn m.line).sent = (u.txn m.line).sent.erase (m.src, m.pol) ∧ t.net = u.net ∧ t.mem = s.mem) ∧
    (m.type = .wbCross → completes (.wbCross m) s fun t =>
      (t.txn m.line).await = rest ∧ (t.txn m.line).cover = 0 ∧ t.net = u.net ∧ t.mem = s.mem
        ∧ ((m.src, m.pol) ∈ (u.txn m.line).sent → (m.src, m.pol) ∈ (t.txn m.line).awaitPut)) ∧
    (m.type = .recallAck → completes (.recallAck m) s fun t =>
      (t.txn m.line).await = rest ∧ t.net = u.net ∧ (m.data = [] → m.mark = 0 → t.mem = s.mem)) := by
  intro rest hr
  have hmem := State.mem_of_receive hm.1
  refine ⟨fun h => ?_, fun h => ?_, fun h => ?_, fun h => ?_⟩
  · refine completes_of_exec ((exec_invAck hm h).trans (congrArg _ (State.answered_waits id hc (fun _ => rfl) hr))) ?_
    rw [State.txn_setTxn]
    exact ⟨rfl, rfl, hmem⟩
  · refine completes_of_exec ((exec_fwdAck hm h).trans (congrArg _ (State.answered_waits _ hc (fun _ => rfl) hr))) ?_
    rw [State.txn_setTxn]
    exact ⟨rfl, rfl, rfl, rfl, rfl, hmem⟩
  · refine completes_of_exec ((exec_wbCross hm h).trans (congrArg _ (State.answered_waits _ hc (fun _ => rfl) hr))) ?_
    rw [State.txn_setTxn]
    refine ⟨rfl, rfl, rfl, hmem, fun hs => ?_⟩
    show (m.src, m.pol) ∈ if (u.txn m.line).sent.contains (m.src, m.pol) then _ else _
    rw [if_pos (by simpa using hs)]
    exact List.mem_append_right _ (List.mem_singleton.2 rfl)
  · have hdir := u.land_dir m
    have htx := State.txn_of_dir hdir m.line
    have hnet := State.net_of_dir hdir
    refine completes_of_exec ((exec_recallAck hm h hc).trans (congrArg _ (State.answered_waits _ (by rw [htx]; exact hc) (fun _ => rfl)
      (by rw [htx]; exact hr)))) ?_
    rw [State.txn_setTxn, htx]
    refine ⟨rfl, hnet, fun hd hk => ?_⟩
    rw [State.land_empty hd hk]
    exact hmem

/-! ## DONE (R195) -/

/-- The tags that DONE leaves before the transaction closes. -/
def State.doneTags (u : State) (m : CohMsg) (bin set way : Nat) (st : EntSt) : State :=
  ((u.entriesOf m.line).foldl (fun s e => if e.bin = bin && e.pol = m.pol then s.setShadow e.key {} else s) u).setShadow
    (shadowKey (homeOf m.line) bin (16 * set + way)) ⟨st, m.line, m.pol⟩

theorem State.doneTags_frame (u : State) (m : CohMsg) (bin set way : Nat) (st : EntSt) :
    u.doneTags m bin set way st = { u with shadow := (u.doneTags m bin set way st).shadow } := by
  have hf : ∀ es : List Entry, ∀ v : State, v = { u with shadow := v.shadow } →
      es.foldl (fun (s : State) e => if e.bin = bin && e.pol = m.pol then s.setShadow e.key {} else s) v = { u with
        shadow := (es.foldl (fun (s : State) e => if e.bin = bin && e.pol = m.pol then s.setShadow e.key {} else s) v).shadow } := by
    intro es v hv
    refine foldl_keeps _ (fun w : State => w = { u with shadow := w.shadow }) es (fun w e _ hw => ?_) v hv
    split
    · rw [hw]
      rfl
    · exact hw
  unfold State.doneTags
  rw [hf _ u rfl]
  rfl

/-- DONE as the home takes it. -/
def State.doneNoted (u : State) (m : CohMsg) (bin set way : Nat) (st : EntSt) : State :=
  ((u.doneTags m bin set way st).freeTracker (homeOf m.line) m.pol bin).setTxn m.line { u.txn m.line with
    dones := (u.txn m.line).dones - 1, final := (u.txn m.line).final.filter fun f => f ≠ (bin, set, way, m.pol, st) }

theorem exec_done {s u : State} {m : CohMsg} {bin set way : Nat} {st : EntSt} (hm : s.heard m u) (ht : m.type = .done)
    (hb : (u.txn m.line).busy = .d)
    (hf : (u.txn m.line).final.find? (fun f => f.1 = m.src && f.2.2.2.1 = m.pol) = some (bin, set, way, m.pol, st)) :
    exec (.done m) s = .next (if (u.txn m.line).dones = 1 then (u.doneNoted m bin set way st).closeTxn m.line else u.doneNoted m bin set way st) := by
  refine congrArg Host.Outcome.next ((State.atHome_of_heard _ hm ht).trans ?_)
  unfold State.doneAt
  dsimp only
  split
  case h_1 hb' hf' =>
    cases hf.symm.trans hf'
    rfl
  case h_2 hn => exact absurd hf (hn _ _ _ _ _ hb)

theorem State.doneNoted_facts (u : State) (m : CohMsg) (bin set way : Nat) (st : EntSt) :
    let v := u.doneNoted m bin set way st
    v.shadow.get {} (shadowKey (homeOf m.line) bin (16 * set + way)) = ⟨st, m.line, m.pol⟩ ∧ v.net = u.net ∧ v.mem = u.mem
      ∧ (v.keel (homeOf m.line)).trackers = (u.keel (homeOf m.line)).trackers.erase (m.pol, bin)
      ∧ v.txn m.line = { u.txn m.line with
        dones := (u.txn m.line).dones - 1, final := (u.txn m.line).final.filter fun f => f ≠ (bin, set, way, m.pol, st) } := by
  intro v
  have hfr := u.doneTags_frame m bin set way st
  have hsh : (u.doneTags m bin set way st).shadow.get {} (shadowKey (homeOf m.line) bin (16 * set + way)) = ⟨st, m.line, m.pol⟩ :=
    State.get_setShadow _ _ _
  obtain ⟨w, hw⟩ : ∃ w, w = u.doneTags m bin set way st := ⟨_, rfl⟩
  have hv : v = (w.freeTracker (homeOf m.line) m.pol bin).setTxn m.line { u.txn m.line with
    dones := (u.txn m.line).dones - 1, final := (u.txn m.line).final.filter fun f => f ≠ (bin, set, way, m.pol, st) } := by rw [hw]; rfl
  rw [← hw] at hfr hsh
  have hk : w.keel (homeOf m.line) = u.keel (homeOf m.line) := by rw [hfr]; rfl
  clear_value v
  subst hv
  refine ⟨hsh, ?_, ?_, ?_, State.txn_setTxn _ _ _⟩
  · rw [hfr]
    rfl
  · rw [hfr]
    rfl
  · have hkf : ((w.freeTracker (homeOf m.line) m.pol bin).keel (homeOf m.line)).trackers
        = (w.keel (homeOf m.line)).trackers.erase (m.pol, bin) :=
      congrArg KeelSt.trackers (State.keel_updKeel w (homeOf m.line) fun c => { c with trackers := c.trackers.erase (m.pol, bin) })
    rw [← hk]
    exact hkf

/-- A transaction that nothing waits behind is over. -/
theorem State.finish_free (s : State) (line : Nat) (hq : (s.txn line).queue = []) (hs : (s.txn line).sweep = false) :
    s.finish line = { s with txns := s.txns.set {} line {} } := by
  unfold State.finish
  dsimp only
  rw [hq, hs, if_neg (by decide)]
  rfl

theorem State.busy_freed (s : State) (line : Nat) : ({ s with txns := s.txns.set {} line {} } : State).busy line = false := by
  show ((s.txns.set {} line {}).any fun e => e.1 = line) = false
  rw [SMap.set, if_pos rfl, List.any_eq_false]
  intro e he
  simpa using (List.mem_filter.1 he).2

theorem State.writeOthers_keeps (s : State) (line : Nat) (es : List (Nat × Shadow)) (key : Nat) (h : ∀ e ∈ es, e.1 ≠ key) :
    (s.writeOthers line es) = { s with shadow := (s.writeOthers line es).shadow }
      ∧ (s.writeOthers line es).shadow.get {} key = s.shadow.get {} key := by
  refine foldl_keeps _ (fun w : State => w = { s with shadow := w.shadow } ∧ w.shadow.get {} key = s.shadow.get {} key) es
    (fun w e he hw => ?_) s ⟨rfl, rfl⟩
  split
  · refine ⟨?_, ?_⟩
    · rw [hw.1]
      rfl
    · rw [State.get_setShadow_other _ _ _ _ (h e he).symm]
      exact hw.2
  · exact hw

theorem done_closes (s u : State) (m : CohMsg) (bin set way : Nat) (st : EntSt) (hm : s.heard m u) (ht : m.type = .done)
    (hb : (u.txn m.line).busy = .d)
    (hf : (u.txn m.line).final.find? (fun f => f.1 = m.src && f.2.2.2.1 = m.pol) = some (bin, set, way, m.pol, st)) :
    let key := shadowKey (homeOf m.line) bin (16 * set + way)
    ((u.txn m.line).dones = 1 → (u.txn m.line).queue = [] → (u.txn m.line).sweep = false → (∀ e ∈ (u.txn m.line).others, e.1 ≠ key) →
      completes (.done m) s fun t =>
        t.busy m.line = false ∧ t.shadow.get {} key = ⟨st, m.line, m.pol⟩ ∧ t.net = u.net ∧ t.mem = s.mem
          ∧ (t.keel (homeOf m.line)).trackers = (u.keel (homeOf m.line)).trackers.erase (m.pol, bin)) ∧
    (1 < (u.txn m.line).dones → completes (.done m) s fun t =>
      (t.txn m.line).busy = .d ∧ (t.txn m.line).dones = (u.txn m.line).dones - 1 ∧ t.shadow.get {} key = ⟨st, m.line, m.pol⟩
        ∧ t.net = u.net ∧ t.mem = s.mem) := by
  intro key
  have hx := exec_done hm ht hb hf
  have hmem := State.mem_of_receive hm.1
  obtain ⟨h1, h2, h3, h4, h5⟩ := u.doneNoted_facts m bin set way st
  obtain ⟨v, hv⟩ : ∃ v, v = u.doneNoted m bin set way st := ⟨_, rfl⟩
  rw [← hv] at hx h1 h2 h3 h4 h5
  refine ⟨fun hd hq hs ho => ?_, fun hd => ?_⟩
  · have hot : (v.txn m.line).others = (u.txn m.line).others := by rw [h5]
    obtain ⟨w1, w2⟩ := v.writeOthers_keeps m.line (v.txn m.line).others key (by rw [hot]; exact ho)
    obtain ⟨w, hw⟩ : ∃ w, w = v.writeOthers m.line (v.txn m.line).others := ⟨_, rfl⟩
    rw [← hw] at w1 w2
    have hwt : w.txn m.line = v.txn m.line := by rw [w1]; rfl
    have hclose : v.closeTxn m.line = { w with txns := w.txns.set {} m.line {} } := by
      rw [State.closeTxn, ← hw]
      exact w.finish_free m.line (by rw [hwt, h5]; exact hq) (by rw [hwt, h5]; exact hs)
    rw [if_pos hd, hclose] at hx
    refine completes_of_exec hx ⟨w.busy_freed m.line, w2.trans h1, ?_, ?_, ?_⟩
    · rw [w1]
      exact h2
    · rw [w1]
      exact h3.trans hmem
    · rw [w1]
      exact h4
  · rw [if_neg (by omega)] at hx
    refine completes_of_exec hx ⟨?_, ?_, h1, h2, h3.trans hmem⟩
    · rw [h5]
      exact hb
    · rw [h5]

/-! ## The last answer (R195) -/

theorem State.answered_last {s : State} {m : CohMsg} (f : HomeTxn → HomeTxn) (hc : (s.txn m.line).await = [(m.src, m.pol)]) :
    s.answered m f = (s.setTxn m.line (f { s.txn m.line with await := [] })).lastAnswer m.line := by
  unfold State.answered
  dsimp only
  rw [if_pos (by simp [hc]), hc]
  simp

theorem fwdAck_grants (s u : State) (m g : CohMsg) (hm : s.heard m u) (ht : m.type = .fwdAck) (ha : (u.txn m.line).await = [(m.src, m.pol)])
    (hp : (u.txn m.line).awaitPut = []) (hb : (u.txn m.line).busy = .a) (hs : (u.txn m.line).serving = .coh g)
    (_ : g.type = .getm ∨ g.type = .gets) (_ : g.line = m.line)
    (hf : (u.keel (homeOf m.line)).fencedBins.getLsbD g.src = false) :
    completes (.fwdAck m) s fun t =>
      let others := u.othersAfter g { u.txn m.line with ownerNew := some m.st }
      let st := if g.type = .getm then 3 else if (others.all fun e => e.2.st = .none) && !u.isStock m.line then 2 else 1
      (t.txn m.line).busy = .d ∧ (t.txn m.line).dones = 1 ∧ (t.txn m.line).others = others
        ∧ (t.txn m.line).final = [(g.src, g.set, g.way, g.pol, if st = 1 then .s else .x)]
        ∧ ∃ x ∈ t.net, x.type = .grant ∧ x.dst = g.src ∧ x.st = st ∧ x.cover = m.cover ∧ x.tag = g.tag
          ∧ x.need = (u.txn m.line).want &&& ~~~m.cover := by
  obtain ⟨x, hx⟩ : ∃ x, x = HomeTxn.heardOwner m { u.txn m.line with await := [] } := ⟨_, rfl⟩
  obtain ⟨v, hv⟩ : ∃ v, v = u.setTxn m.line x := ⟨_, rfl⟩
  have htx : v.txn m.line = x := by rw [hv, State.txn_setTxn]
  have hexec : exec (.fwdAck m) s = .next (v.lastAnswer m.line) := by
    rw [exec_fwdAck hm ht, State.answered_last _ ha, ← hx, ← hv]
  obtain ⟨others, hothers⟩ : ∃ o, o = u.othersAfter g { u.txn m.line with ownerNew := some m.st } := ⟨_, rfl⟩
  have hov : v.othersAfter g x = others := by
    rw [hothers, hv, hx]
    rfl
  obtain ⟨st, hst⟩ : ∃ n, n = if g.type = .getm then 3 else if (others.all fun e => e.2.st = .none) && !u.isStock m.line then 2 else 1 :=
    ⟨_, rfl⟩
  have hstock : v.isStock m.line = u.isStock m.line := by rw [hv]; rfl
  obtain ⟨-, -, -, k4, -, -, -⟩ := v.sendData_frame g (x.want &&& ~~~x.cover)
  obtain ⟨w, hw⟩ : ∃ w, w = (v.sendData g (x.want &&& ~~~x.cover)).sendGrant g st x.cover (x.want &&& ~~~x.cover) := ⟨_, rfl⟩
  have hwk : (w.keel (homeOf m.line)).fencedBins.getLsbD g.src = false := by
    have hkk : w.keel (homeOf m.line) = u.keel (homeOf m.line) := by
      have hwv : w.keels = v.keels := by rw [hw]; exact k4
      rw [State.keel, hwv, hv]
      rfl
    rw [hkk]
    exact hf
  have hlast : v.lastAnswer m.line = w.setTxn m.line { x with
      busy := .d, dones := 1, others := others, final := [(g.src, g.set, g.way, g.pol, if st = 1 then .s else .x)] } := by
    have hxa : x.await = [] := by rw [hx]; rfl
    have hxp : x.awaitPut = [] := by rw [hx]; exact hp
    have hxb : x.busy = .a := by rw [hx]; exact hb
    have hxs : x.serving = .coh g := by rw [hx]; exact hs
    unfold State.lastAnswer
    dsimp only
    rw [htx, hxa, hxp, hxb, hxs]
    dsimp only
    rw [if_neg (by decide), hov, hstock, ← hst, ← hw, hwk, if_neg (by decide)]
  rw [hlast] at hexec
  refine completes_of_exec hexec ?_
  rw [State.txn_setTxn]
  dsimp only
  rw [← hothers, ← hst]
  have hwant : x.want = (u.txn m.line).want := by rw [hx]; rfl
  have hcover : x.cover = m.cover := by rw [hx]; rfl
  refine ⟨rfl, rfl, rfl, rfl, { fromHome .grant g.line g.src g.pol with st := st, cover := x.cover, need := x.want &&& ~~~x.cover, tag := g.tag }, ?_,
    rfl, rfl, rfl, hcover, rfl, ?_⟩
  · rw [hw]
    exact List.mem_append_right _ (List.mem_singleton.2 rfl)
  · show x.want &&& ~~~x.cover = _
    rw [hwant, hcover]

theorem foldl_setShadow_frame {α : Type} (f : State → α → State) (hf : ∀ v a, f v a = { v with shadow := (f v a).shadow }) (l : List α)
    (v : State) : l.foldl f v = { v with shadow := (l.foldl f v).shadow } := by
  refine foldl_keeps f (fun w : State => w = { v with shadow := w.shadow }) l (fun w a _ hw => ?_) v rfl
  rw [hf w a, hw]

theorem recallAck_frees (s u : State) (m : CohMsg) (r : HomeReq) (hm : s.heard m u) (ht : m.type = .recallAck)
    (ha : (u.txn m.line).await = [(m.src, m.pol)]) (hp : (u.txn m.line).awaitPut = []) (hb : (u.txn m.line).busy = .r)
    (hs : (u.txn m.line).serving = .req r) (hq : (u.txn m.line).queue = []) (hw : (u.txn m.line).sweep = false) (_ : r.line = m.line) :
    completes (.recallAck m) s fun t => t.busy m.line = false ∧ t.net = u.net := by
  have hdir := u.land_dir m
  have htl := State.txn_of_dir hdir m.line
  have hnl := State.net_of_dir hdir
  obtain ⟨x, hx⟩ : ∃ x, x = HomeTxn.heardRecall m { u.txn m.line with await := [] } := ⟨_, rfl⟩
  obtain ⟨v, hv⟩ : ∃ v, v = (u.land_ m).setTxn m.line x := ⟨_, rfl⟩
  have htx : v.txn m.line = x := by rw [hv, State.txn_setTxn]
  have hvn : v.net = u.net := by rw [hv]; exact hnl
  have hexec : exec (.recallAck m) s = .next (v.lastAnswer m.line) := by
    rw [exec_recallAck hm ht (by rw [ha]; exact List.mem_singleton.2 rfl), State.answered_last _ (by rw [htl]; exact ha), htl, ← hx, ← hv]
  have hlast : ∃ w : State, w = { v with shadow := w.shadow } ∧ v.lastAnswer m.line = (w.perform r).finish m.line := by
    have hxa : x.await = [] := by rw [hx]; rfl
    have hxp : x.awaitPut = [] := by rw [hx]; exact hp
    have hxb : x.busy = .r := by rw [hx]; exact hb
    have hxs : x.serving = .req r := by rw [hx]; exact hs
    unfold State.lastAnswer
    dsimp only
    rw [htx, hxa, hxp, hxb, hxs]
    dsimp only
    rw [if_neg (by decide)]
    refine ⟨_, ?_, rfl⟩
    obtain ⟨w1, hw1⟩ : ∃ w1, w1 = (recallFor r.op (v.entriesOf m.line)).2.foldl (fun s e =>
      if (recallFor r.op (v.entriesOf m.line)).1 = 0 then s.setShadow e.key ⟨if e.st = .o then .s else .x, m.line, e.pol⟩
      else s.setShadow e.key {}) v := ⟨_, rfl⟩
    have h1 : w1 = { v with shadow := w1.shadow } := by
      rw [hw1]
      exact foldl_setShadow_frame _ (fun _ _ => by split <;> rfl) _ v
    rw [← hw1]
    split
    · rw [foldl_setShadow_frame (fun (s : State) (e : Entry) => s.setShadow e.key {}) (fun _ _ => rfl) _ w1, h1]
    · exact h1
  obtain ⟨w, hwv, hwl⟩ := hlast
  have hpd := w.perform_dir r
  have hwt : (w.perform r).txn m.line = x := by
    rw [State.txn_of_dir hpd, hwv]
    exact htx
  rw [hwl, State.finish_free _ _ (by rw [hwt, hx]; exact hq) (by rw [hwt, hx]; exact hw)] at hexec
  refine completes_of_exec hexec ⟨State.busy_freed _ _, ?_⟩
  refine (State.net_of_dir hpd).trans ?_
  rw [hwv]
  exact hvn

/-- Settles O41: each message at a home, by the state of the line's directory and transaction. -/
theorem homesAnswerBins : Obligations.HomesAnswerBins := by
  unfold Obligations.HomesAnswerBins
  exact ⟨ask_answered, put_answered, fun s u m bin set way st hm ht hb hf => done_closes s u m bin set way st hm ht hb hf,
    answers_counted, fwdAck_grants, recallAck_frees⟩

end Sys2Proof.Machine
end

section
/-! SUPPORT. A line at its home: the bytes that a patch of sectors leaves, the home of a line that the Granary takes no part in, and a line of
the Granary that goes to HBM (R163, R173, R175). -/

namespace Sys2Proof.Machine

open Sys2Proof

/-! ## Patches of sectors -/

theorem mem_maskOffs {mask : BitVec 8} {o : Nat} : o ∈ maskOffs mask ↔ o < 1024 ∧ inMask mask o = true := by
  simp [maskOffs]

theorem inMask_lt {mask : BitVec 8} {o : Nat} (h : inMask mask o = true) : o < 1024 := by
  by_contra hn
  rw [inMask, BitVec.getLsbD_of_ge _ _ (by omega)] at h
  exact absurd h (by decide)

theorem inMask_and (a b : BitVec 8) (o : Nat) : inMask (a &&& b) o = (inMask a o && inMask b o) := BitVec.getLsbD_and

/-- A map written at the offsets that a list names, each with its own value. -/
theorem get_patch_of_mem (f : Nat → Byte) (l : List Nat) (d : SMap Byte) (j : Nat) :
    (patch d (l.map fun o => (o, f o))).get 0 j = if j ∈ l then f j else d.get 0 j := by
  unfold patch
  induction l generalizing d with
  | nil => simp
  | cons o l ih =>
    rw [List.map_cons, List.foldl_cons, ih]
    by_cases hl : j ∈ l
    · simp [hl]
    · by_cases ho : j = o
      · subst ho
        simp
      · simp [hl, ho, SMap.get_set_other _ _ _ _ _ ho]

theorem memByte_memPatch_of_mem (f : Nat → Byte) (l : List Nat) (m : List Host.Cell) (base c : Nat) :
    memByte (memPatch m base (l.map fun o => (o, f o))) c = if ∃ o ∈ l, c = base + o then f (c - base) else memByte m c := by
  unfold memPatch
  induction l generalizing m with
  | nil => simp
  | cons o l ih =>
    rw [List.map_cons, List.foldl_cons, ih]
    by_cases hl : ∃ o ∈ l, c = base + o
    · rw [if_pos hl, if_pos (hl.imp fun _ h => ⟨List.mem_cons_of_mem _ h.1, h.2⟩)]
    · rw [if_neg hl]
      by_cases ho : c = base + o
      · subst ho
        rw [if_pos ⟨o, List.mem_cons_self, rfl⟩, memByte_memSet]
        simp
      · rw [memByte_memSet_other _ _ _ _ ho, if_neg]
        rintro ⟨x, hx, hc⟩
        rcases List.mem_cons.1 hx with rfl | hx
        · exact ho hc
        · exact hl ⟨x, hx, hc⟩

/-- Sectors of a line after a patch of them. -/
theorem memByte_patchMask (mask : BitVec 8) (f : Nat → Byte) (m : List Host.Cell) (line a : Nat) :
    memByte (memPatch m (line * 1024) ((maskOffs mask).map fun o => (o, f o))) a
      = if a / 1024 = line ∧ inMask mask (a % 1024) = true then f (a % 1024) else memByte m a := by
  rw [memByte_memPatch_of_mem]
  by_cases h : a / 1024 = line ∧ inMask mask (a % 1024) = true
  · have ha : a = line * 1024 + a % 1024 := by rw [← h.1]; omega
    rw [if_pos h, if_pos ⟨a % 1024, mem_maskOffs.2 ⟨Nat.mod_lt _ (by decide), h.2⟩, ha⟩]
    congr 1
    omega
  · rw [if_neg h, if_neg]
    rintro ⟨o, ho, rfl⟩
    obtain ⟨ho, hi⟩ := mem_maskOffs.1 ho
    refine h ⟨by omega, ?_⟩
    rwa [show (line * 1024 + o) % 1024 = o by omega]

/-! ## The bytes of an element -/

theorem inMask_touched {bs : Bytes} {o : Nat} (h : ∃ e ∈ bs, e.1 / 128 = o / 128) (ho : o < 1024) : inMask (touched bs) o = true := by
  obtain ⟨e, he, heq⟩ := h
  have hany : ∀ i : Nat, i = o / 128 → (bs.any fun e => e.1 / 128 = i) = true := fun i hi =>
    List.any_eq_true.2 ⟨e, he, by simp [heq, hi]⟩
  have key : ∀ (p : Nat → Bool) (i : Fin 8), p i = true →
      (BitVec.ofNat 8 ((List.range 8).foldl (fun a i => if p i then a + 2 ^ i else a) 0)).getLsbD i = true := by
    intro p i hp
    have hall : ∀ (b0 b1 b2 b3 b4 b5 b6 b7 : Bool) (i : Fin 8), [b0, b1, b2, b3, b4, b5, b6, b7].getD i false = true →
        (BitVec.ofNat 8 ([(0, b0), (1, b1), (2, b2), (3, b3), (4, b4), (5, b5), (6, b6), (7, b7)].foldl
          (fun a x => if x.2 then a + 2 ^ x.1 else a) 0)).getLsbD i = true := by decide +kernel
    have h8 := hall (p 0) (p 1) (p 2) (p 3) (p 4) (p 5) (p 6) (p 7) i (by
      have : [p 0, p 1, p 2, p 3, p 4, p 5, p 6, p 7].getD i false = p i := by
        match i with
        | 0 | 1 | 2 | 3 | 4 | 5 | 6 | 7 => rfl
      rw [this]
      exact hp)
    exact h8
  exact key _ ⟨o / 128, by omega⟩ (hany _ rfl)

/-- An element's bytes among the sectors that it touches. -/
theorem filter_maskOffs_element (off size : Nat) (l : List Byte) (hl : l.length = size) (h : off + size ≤ 1024) :
    ((maskOffs (touched (bytesAt off l))).filter fun o => off ≤ o && o < off + size) = (List.range size).map fun i => off + i := by
  have hin : ∀ o, off ≤ o → o < off + size → inMask (touched (bytesAt off l)) o = true := fun o h1 h2 =>
    inMask_touched ⟨(o, l.getD (o - off) 0), List.mem_map.2 ⟨o - off, List.mem_range.2 (by omega), by rw [Nat.add_sub_cancel' h1]⟩, rfl⟩ (by omega)
  have hf : ((maskOffs (touched (bytesAt off l))).filter fun o => off ≤ o && o < off + size)
      = (List.range 1024).filter fun o => off ≤ o && o < off + size := by
    rw [maskOffs, List.filter_filter]
    refine List.filter_congr fun o _ => ?_
    by_cases ho : off ≤ o ∧ o < off + size
    · rw [hin o ho.1 ho.2, Bool.and_true]
    · have hb : (decide (off ≤ o) && decide (o < off + size)) = false := by simpa using ho
      rw [hb, Bool.false_and]
  rw [hf]
  have hs : (List.range 1024) = (List.range off) ++ ((List.range size).map fun i => off + i)
      ++ (List.range (1024 - off - size)).map fun i => off + size + i := by
    conv_lhs => rw [show 1024 = off + size + (1024 - off - size) by omega, List.range_add, List.range_add]
  rw [hs, List.filter_append, List.filter_append]
  have h1 : ((List.range off).filter fun o => off ≤ o && o < off + size) = [] := by
    rw [List.filter_eq_nil_iff]
    intro o ho
    have := List.mem_range.1 ho
    simp; omega
  have h2 : (((List.range size).map fun i => off + i).filter fun o => off ≤ o && o < off + size) = (List.range size).map fun i => off + i := by
    rw [List.filter_eq_self]
    intro o ho
    obtain ⟨i, hi, rfl⟩ := List.mem_map.1 ho
    have := List.mem_range.1 hi
    simp; omega
  have h3 : (((List.range (1024 - off - size)).map fun i => off + size + i).filter fun o => off ≤ o && o < off + size) = [] := by
    rw [List.filter_eq_nil_iff]
    intro o ho
    obtain ⟨i, hi, rfl⟩ := List.mem_map.1 ho
    simp
  rw [h1, h2, h3, List.nil_append, List.append_nil]

/-! ## A home of which the Granary takes no part -/

/-- The home of a line is in service, the Granary takes no part in it for a polder, and no run of dead stores is open. -/
structure State.Plain (s : State) (line p : Nat) : Prop where
  home : s.homeFenced line = false
  stack : s.stackFenced line = false
  find : s.granFind line = none
  part : s.granPart (homeOf line) p = none
  run : (s.mark line).run = 0

namespace State.Plain
variable {s : State} {line p : Nat} (h : s.Plain line p)
include h

theorem granAlloc (hint : Nat) : s.granAlloc p line hint = s := by
  unfold State.granAlloc
  dsimp only
  split
  · rfl
  rw [h.find]
  dsimp only
  split
  · rfl
  rw [h.part]

theorem granFill (need : BitVec 8) : s.granFill line need = s := by
  unfold State.granFill
  rw [h.find]

theorem homeByte (o : Nat) : s.homeByte line o = memByte s.mem (line * 1024 + o) := by
  unfold State.homeByte
  rw [h.find]

theorem homeRead (need : BitVec 8) (hint : Nat) :
    s.homeRead p line need hint = (((maskOffs need).map fun o => (o, memByte s.mem (line * 1024 + o)), s.homePoison line &&& need), s) := by
  unfold State.homeRead
  dsimp only
  rw [if_neg (by rw [h.stack]; decide), h.granAlloc, h.granFill]
  simp only [h.homeByte]

theorem homeUndo (mask : BitVec 8) : s.homeUndo line mask = s := by
  unfold State.homeUndo
  dsimp only
  rw [h.run, if_pos (by simp)]

/-- A write goes to memory, and to the line's mark. -/
theorem homeWrite (bs : Bytes) (dead poison : Bool) (hint : Nat) :
    let t := s.homeWrite p line bs dead poison hint
    t = { s with mem := memPatch s.mem (line * 1024) bs, marks := t.marks }
      ∧ (t.mark line).dead = deadAfter (s.mark line).dead bs dead ∧ (t.mark line).poison = poisonAfter (s.mark line).poison bs poison
      ∧ (dead = false → (t.mark line).run = 0) := by
  intro t
  obtain ⟨f, hk, hd, hp, hr⟩ : ∃ f : Mark → Mark, s.homeKeep line bs dead = s.updMark line f ∧ (f (s.mark line)).dead = (s.mark line).dead
      ∧ (f (s.mark line)).poison = (s.mark line).poison ∧ (dead = false → (f (s.mark line)).run = 0) := by
    unfold State.homeKeep
    rw [h.homeUndo]
    cases dead with
    | true => exact ⟨_, rfl, rfl, rfl, nofun⟩
    | false => exact ⟨_, rfl, rfl, rfl, fun _ => by simp [h.run]⟩
  have hf : (s.updMark line f).granFind line = none := h.find
  have ht : t = { s.updMark line f with mem := memPatch s.mem (line * 1024) bs }.updMark line fun m =>
      { m with poison := poisonAfter m.poison bs poison, dead := deadAfter m.dead bs dead } := by
    show s.homeWrite p line bs dead poison hint = _
    unfold State.homeWrite
    dsimp only
    rw [h.stack, Bool.false_and, if_neg Bool.false_ne_true, h.granAlloc, hk, hf]
    rfl
  have hmark : t.mark line = { f (s.mark line) with
      poison := poisonAfter (f (s.mark line)).poison bs poison, dead := deadAfter (f (s.mark line)).dead bs dead } := by
    rw [ht]
    refine (State.mark_updMark _ _ _).trans ?_
    have hm : ({ s.updMark line f with mem := memPatch s.mem (line * 1024) bs } : State).mark line = f (s.mark line) := s.mark_updMark line f
    rw [hm]
  refine ⟨by rw [ht]; rfl, ?_, ?_, ?_⟩
  · rw [hmark, ← hd]
  · rw [hmark, ← hp]
  · rw [hmark]
    exact hr

end State.Plain

/-- A home stays plain where only memory, marks, polders and ports change, and the line's run does not begin. -/
theorem State.Plain.of_eq {s t : State} {line p : Nat} (h : s.Plain line p) (m : List Host.Cell) (k : SMap Mark) (q : SMap Polder) (g : SMap HostPort)
    (ht : t = { s with mem := m, marks := k, pols := q, ports := g }) (hr : (t.mark line).run = 0) : t.Plain line p := by
  have h1 : t.homeFenced line = s.homeFenced line := by rw [ht]; rfl
  have h2 : t.stackFenced line = s.stackFenced line := by
    have hl : t.locate = s.locate := State.locate_congr (by rw [ht])
    have hs : t.stack = s.stack := by rw [ht]; rfl
    unfold State.stackFenced State.stackOf
    rw [hl, hs]
  have h3 : t.granFind line = s.granFind line := by rw [ht]; rfl
  have h4 : t.granPart (homeOf line) p = s.granPart (homeOf line) p := by rw [ht]; rfl
  exact ⟨h1.trans h.home, h2.trans h.stack, h3.trans h.find, h4.trans h.part, hr⟩

theorem State.countDead_eq (s : State) (p : Nat) (dead : Bool) : s.countDead p dead = { s with pols := (s.countDead p dead).pols } := by
  unfold State.countDead
  split <;> rfl

theorem State.Plain.countDead {s : State} {line p : Nat} (h : s.Plain line p) (q : Nat) (dead : Bool) : (s.countDead q dead).Plain line p := by
  refine h.of_eq s.mem s.marks _ s.ports (s.countDead_eq q dead) ?_
  rw [s.countDead_eq q dead]
  exact h.run

end Sys2Proof.Machine
end

section
/-! SUPPORT. What a home performs where the Granary takes no part, and what a Granary line leaves behind (R163, R173, R175, R194). -/

namespace Sys2Proof.Machine

open Sys2Proof

/-! ## Operations on a plain home -/

/-- One addition of an add-to-line, as its home performs it. -/
def State.addOne (r : HomeReq) (ty : AtlType) (poison : Bool) (s : State) (a : Nat × Lane) : State :=
  let sec := touched (bytesAt (atlSize ty * a.1) (leBytes (atlSize ty) 0))
  let x := s.homeRead r.pol r.line sec (updateHint r.hint)
  let old := leNat ((x.1.1.filter fun e => atlSize ty * a.1 ≤ e.1 && e.1 < atlSize ty * a.1 + atlSize ty).map Prod.snd)
  x.2.homeWrite r.pol r.line (bytesAt (atlSize ty * a.1) (leBytes (atlSize ty) (atlAdd ty old a.2))) false
    (poison || x.1.2 ≠ 0) (updateHint r.hint)

/-- One addition of an add-to-line, as memory shows it. -/
def memAdd (line : Nat) (ty : AtlType) (m : List Host.Cell) (a : Nat × Lane) : List Host.Cell :=
  let old := leNat ((List.range (atlSize ty)).map fun i => memByte m (line * 1024 + atlSize ty * a.1 + i))
  memPatch m (line * 1024) (bytesAt (atlSize ty * a.1) (leBytes (atlSize ty) (atlAdd ty old a.2)))

/-- What a read of an element's sectors gives of the element. -/
theorem element_of_sectors (m : List Host.Cell) (base off size : Nat) (h : off + size ≤ 1024) :
    ((((maskOffs (touched (bytesAt off (leBytes size 0)))).map fun o => (o, memByte m (base + o))).filter
        fun e => off ≤ e.1 && e.1 < off + size).map Prod.snd) = (List.range size).map fun i => memByte m (base + off + i) := by
  rw [List.filter_map]
  have hf := filter_maskOffs_element off size (leBytes size 0) (leBytes_length _ _) h
  have hc : ((fun e : Nat × Byte => decide (off ≤ e.1) && decide (e.1 < off + size)) ∘ fun o => (o, memByte m (base + o)))
      = fun o => decide (off ≤ o) && decide (o < off + size) := rfl
  rw [hc, hf, List.map_map, List.map_map]
  refine List.map_congr_left fun i _ => ?_
  show memByte m (base + (off + i)) = _
  rw [Nat.add_assoc]

section
variable {s : State} {r : HomeReq} (h : s.Plain r.line r.pol)
include h

/-- A read leaves memory as it is. -/
theorem State.Plain.perform_read {need : BitVec 8} (hop : r.op = .read need) : (s.perform r).mem = s.mem := by
  unfold State.perform
  rw [h.home, if_neg Bool.false_ne_true, h.stack, Bool.false_and, if_neg Bool.false_ne_true, hop]
  dsimp only
  rw [State.mem_of_still (State.answer_still ..)]
  split
  · next port id _ =>
    have hp : (s.updPort port fun q => { q with
        bar2 := q.bar2.map fun (a : HostAcc) => if a.id = id then { a with dead := a.dead || s.meetsDead r.line need } else a }).Plain
        r.line r.pol := h.of_eq s.mem s.marks s.pols _ rfl h.run
    rw [hp.homeRead]
    rfl
  · rw [(h.countDead _ _).homeRead]
    exact s.countDead_mem _ _

/-- What a write of bytes leaves. -/
theorem State.Plain.perform_write {bs : Bytes} {dead poison : Bool} (hop : r.op = .write bs dead poison) :
    let t := s.perform r
    t.mem = memPatch s.mem (r.line * 1024) bs ∧ (t.mark r.line).dead = deadAfter (s.mark r.line).dead bs dead
      ∧ (t.mark r.line).poison = poisonAfter (s.mark r.line).poison bs poison ∧ t.gran = s.gran ∧ t.bins = s.bins := by
  intro t
  have ht : t = (s.homeWrite r.pol r.line bs dead poison r.hint).answer r [] 0 := by
    show s.perform r = _
    unfold State.perform
    rw [h.home, if_neg Bool.false_ne_true, h.stack, Bool.false_and, if_neg Bool.false_ne_true, hop]
  have hs : t.still = (s.homeWrite r.pol r.line bs dead poison r.hint).still := by rw [ht, State.answer_still]
  obtain ⟨hw, hd, hp, -⟩ := h.homeWrite bs dead poison r.hint
  obtain ⟨v, hv⟩ : ∃ v, v = s.homeWrite r.pol r.line bs dead poison r.hint := ⟨_, rfl⟩
  rw [← hv] at hs hw hd hp
  have hm : t.mark r.line = v.mark r.line := by rw [State.mark, State.marks_of_still hs, State.mark]
  refine ⟨(State.mem_of_still hs).trans ?_, by rw [hm]; exact hd, by rw [hm]; exact hp, (State.gran_of_still hs).trans ?_,
    (State.bins_of_still hs).trans ?_⟩ <;> rw [hw]

theorem State.Plain.perform_discard {g : Bool} (hop : r.op = .range .discard g) :
    (s.perform r).mem = s.mem ∧ ((s.perform r).mark r.line).dead = 0xFF := by
  have ht : s.perform r = (s.homeDiscard r.line 0xFF g).answer r [] 0 := by
    unfold State.perform
    rw [h.home, if_neg Bool.false_ne_true, h.stack, Bool.false_and, if_neg Bool.false_ne_true, hop]
  have hs : (s.perform r).still = (s.homeDiscard r.line 0xFF g).still := by rw [ht, State.answer_still]
  have hd : s.homeDiscard r.line 0xFF g = s.updMark r.line fun m => { m with dead := m.dead ||| 0xFF } := by
    unfold State.homeDiscard
    rw [h.find]
  have hall : ∀ x : BitVec 8, x ||| 0xFF = 0xFF := fun x => BitVec.or_allOnes
  refine ⟨(State.mem_of_still hs).trans (s.homeDiscard_mem _ _ _), ?_⟩
  rw [State.mark, State.marks_of_still hs, hd]
  exact (congrArg Mark.dead (s.mark_updMark r.line _)).trans (hall _)

/-- What an atomic leaves. -/
theorem State.Plain.perform_atomic {op : AtomOp} {off size : Nat} {v expect : BitVec 64} {poison : Bool}
    (hop : r.op = .atomic op off size v expect poison) (hsz : off + size ≤ 1024) :
    let t := s.perform r
    let old := leNat ((List.range size).map fun i => memByte s.mem (r.line * 1024 + off + i))
    t.mem = memPatch s.mem (r.line * 1024) (bytesAt off (leBytes size (atomNew op size old v.toNat expect.toNat)))
      ∧ t.gran = s.gran ∧ t.bins = s.bins := by
  intro t old
  obtain ⟨u, hu⟩ : ∃ u, u = s.countDead r.pol (s.meetsDead r.line (touched (bytesAt off (leBytes size 0)))) := ⟨_, rfl⟩
  have hup : u.Plain r.line r.pol := hu ▸ h.countDead _ _
  have hum : u.mem = s.mem := by rw [hu, State.countDead_mem]
  obtain ⟨bad, got, po, ht⟩ : ∃ (bad : Bool) (got : Bytes) (po : BitVec 8), t = (u.homeWrite r.pol r.line (bytesAt off (leBytes size (atomNew op size
      (leNat (((((maskOffs (touched (bytesAt off (leBytes size 0)))).map fun o => (o, memByte u.mem (r.line * 1024 + o))).filter
        fun e => off ≤ e.1 && e.1 < off + size)).map Prod.snd)) v.toNat expect.toNat))) false bad (updateHint r.hint)).answer r got po := by
    simp only [t]
    unfold State.perform
    rw [h.home, if_neg Bool.false_ne_true, h.stack, Bool.false_and, if_neg Bool.false_ne_true, hop]
    dsimp only
    rw [← hu, hup.homeRead]
    dsimp only
    exact ⟨_, _, _, rfl⟩
  rw [element_of_sectors _ _ _ _ hsz, hum] at ht
  obtain ⟨hw, -, -, -⟩ := hup.homeWrite (bytesAt off (leBytes size (atomNew op size old v.toNat expect.toNat))) false bad (updateHint r.hint)
  obtain ⟨w, hwd⟩ : ∃ w, w = u.homeWrite r.pol r.line (bytesAt off (leBytes size (atomNew op size old v.toNat expect.toNat))) false bad
    (updateHint r.hint) := ⟨_, rfl⟩
  rw [← hwd] at hw
  have hs : t.still = w.still := by rw [ht, hwd]; exact State.answer_still ..
  have hug : u.gran = s.gran ∧ u.bins = s.bins := by rw [hu, State.countDead_eq]; exact ⟨rfl, rfl⟩
  refine ⟨(State.mem_of_still hs).trans ?_, (State.gran_of_still hs).trans ?_, (State.bins_of_still hs).trans ?_⟩
  · rw [hw, hum]
  · rw [hw]
    exact hug.1
  · rw [hw]
    exact hug.2

theorem State.Plain.addOne (ty : AtlType) (poison : Bool) {a : Nat × Lane} (ha : a.1 < 1024 / atlSize ty) :
    (s.addOne r ty poison a).Plain r.line r.pol ∧ ∃ marks, s.addOne r ty poison a = { s with mem := memAdd r.line ty s.mem a, marks := marks } := by
  have hsz : atlSize ty * a.1 + atlSize ty ≤ 1024 := by
    have hpos : atlSize ty = 2 ∨ atlSize ty = 4 := by cases ty <;> simp [atlSize]
    rcases hpos with hp | hp <;> rw [hp] at ha ⊢ <;> omega
  obtain ⟨bad, ht⟩ : ∃ bad, s.addOne r ty poison a = s.homeWrite r.pol r.line (bytesAt (atlSize ty * a.1) (leBytes (atlSize ty) (atlAdd ty
      (leNat (((((maskOffs (touched (bytesAt (atlSize ty * a.1) (leBytes (atlSize ty) 0)))).map fun o => (o, memByte s.mem (r.line * 1024 + o))).filter
        fun e => atlSize ty * a.1 ≤ e.1 && e.1 < atlSize ty * a.1 + atlSize ty)).map Prod.snd)) a.2))) false bad (updateHint r.hint) := by
    unfold State.addOne
    dsimp only
    rw [h.homeRead]
    dsimp only
    exact ⟨_, rfl⟩
  rw [element_of_sectors _ _ _ _ hsz] at ht
  obtain ⟨hw, -, -, hr⟩ := h.homeWrite (bytesAt (atlSize ty * a.1) (leBytes (atlSize ty) (atlAdd ty
    (leNat ((List.range (atlSize ty)).map fun i => memByte s.mem (r.line * 1024 + atlSize ty * a.1 + i))) a.2))) false bad (updateHint r.hint)
  rw [← ht] at hw hr
  exact ⟨h.of_eq _ _ s.pols s.ports hw (hr rfl), _, hw⟩

theorem State.Plain.addAll (ty : AtlType) (poison : Bool) (l : List (Nat × Lane)) (hl : ∀ a ∈ l, a.1 < 1024 / atlSize ty) :
    ∃ marks, l.foldl (State.addOne r ty poison) s = { s with mem := l.foldl (memAdd r.line ty) s.mem, marks := marks } := by
  induction l generalizing s with
  | nil => exact ⟨s.marks, rfl⟩
  | cons a l ih =>
    obtain ⟨hp, k, hk⟩ := h.addOne ty poison (hl a List.mem_cons_self)
    obtain ⟨k', hk'⟩ := ih hp fun b hb => hl b (List.mem_cons_of_mem _ hb)
    refine ⟨k', ?_⟩
    rw [List.foldl_cons, hk', hk]
    rfl

theorem State.Plain.perform_addLine {ty : AtlType} {addends : List (Nat × Lane)} {poison : Bool} (hop : r.op = .addLine ty addends poison)
    (ha : ∀ a ∈ addends, a.1 < 1024 / atlSize ty) :
    (s.perform r).mem = addends.foldl (memAdd r.line ty) s.mem ∧ (s.perform r).gran = s.gran ∧ (s.perform r).bins = s.bins := by
  obtain ⟨u, hu⟩ : ∃ u, u = s.countDead r.pol (s.meetsDead r.line
    (touched (addends.flatMap fun a => bytesAt (atlSize ty * a.1) (leBytes (atlSize ty) 0)))) := ⟨_, rfl⟩
  have hup : u.Plain r.line r.pol := hu ▸ h.countDead _ _
  obtain ⟨k, hk⟩ := hup.addAll ty poison addends ha
  have ht : s.perform r = (addends.foldl (State.addOne r ty poison) u).answer r [] 0 := by
    unfold State.perform
    rw [h.home, if_neg Bool.false_ne_true, h.stack, Bool.false_and, if_neg Bool.false_ne_true, hop, hu]
    dsimp only
    unfold State.addOne
    rfl
  have hs : (s.perform r).still = (addends.foldl (State.addOne r ty poison) u).still := by rw [ht, State.answer_still]
  have hug : u.mem = s.mem ∧ u.gran = s.gran ∧ u.bins = s.bins := by rw [hu, State.countDead_eq]; exact ⟨rfl, rfl, rfl⟩
  refine ⟨(State.mem_of_still hs).trans ?_, (State.gran_of_still hs).trans ?_, (State.bins_of_still hs).trans ?_⟩
  · rw [hk, hug.1]
  · rw [hk]
    exact hug.2.1
  · rw [hk]
    exact hug.2.2

end

/-! ## Evictions from the Granary -/

/-- A byte of a Granary line's data once the dead stores in a mask are undone. -/
def GranLine.dropped (g : GranLine) (m : Mark) (back : BitVec 8) (o : Nat) : Byte :=
  if inMask back o && inMask g.present o then m.before.get 0 o else g.data.get 0 o

theorem State.setGran_get (s : State) (key : Nat) (g : GranLine) : (s.setGran key g).gran.get {} key = g := SMap.get_set_same ..
theorem State.setGran_get_other (s : State) (key j : Nat) (g : GranLine) (hj : j ≠ key) :
    (s.setGran key g).gran.get {} j = s.gran.get {} j := SMap.get_set_other _ _ _ _ _ hj

theorem State.granFind_of_gran {s t : State} (h : t.gran = s.gran) (line : Nat) : t.granFind line = s.granFind line := by
  rw [State.granFind, h, State.granFind]

theorem State.granFind_patched (s : State) (m : List Host.Cell) (l : Nat) (f : Mark → Mark) (line : Nat) :
    (({ s with mem := m } : State).updMark l f).granFind line = s.granFind line := State.granFind_of_gran rfl line

/-- Undoing a run of dead stores where the Granary holds the line. -/
theorem State.homeUndo_held {s : State} {line key : Nat} {g : GranLine} (hf : s.granFind line = some (key, g)) (hg : s.gran.get {} key = g)
    (mask : BitVec 8) :
    let t := s.homeUndo line mask
    let back := mask &&& (s.mark line).run
    (∀ a, memByte t.mem a = if a / 1024 = line ∧ inMask back (a % 1024) = true then (s.mark line).before.get 0 (a % 1024) else memByte s.mem a)
      ∧ (∀ j, j ≠ key → t.gran.get {} j = s.gran.get {} j)
      ∧ (t.gran.get {} key).line = g.line ∧ (t.gran.get {} key).dirty = g.dirty
      ∧ ∀ o, (t.gran.get {} key).data.get 0 o = g.dropped (s.mark line) back o := by
  intro t back
  by_cases hb : back = 0
  · have ht : t = s := if_pos hb
    have hz : ∀ o, inMask back o = false := fun o => by rw [hb]; exact BitVec.getLsbD_zero
    rw [ht, hg]
    refine ⟨fun a => ?_, fun _ _ => rfl, rfl, rfl, fun o => ?_⟩
    · rw [if_neg]
      rw [hz]
      exact fun h => absurd h.2 (by decide)
    · rw [GranLine.dropped, hz, Bool.false_and, if_neg Bool.false_ne_true]
  · obtain ⟨f, po, ht⟩ : ∃ f : Mark → Mark, ∃ po, t = (State.updMark
        { s with mem := memPatch s.mem (line * 1024) ((maskOffs back).map fun o => (o, (s.mark line).before.get 0 o)) } line f).setGran key { g with
          data := patch g.data (((maskOffs back).map fun o => (o, (s.mark line).before.get 0 o)).filter fun e => inMask g.present e.1)
          poison := po } := by
      simp only [t]
      unfold State.homeUndo
      dsimp only
      rw [if_neg hb, State.granFind_patched, hf]
      dsimp only
      exact ⟨_, _, rfl⟩
    obtain ⟨m, hm⟩ : ∃ m, m = memPatch s.mem (line * 1024) ((maskOffs back).map fun o => (o, (s.mark line).before.get 0 o)) := ⟨_, rfl⟩
    obtain ⟨l, hl⟩ : ∃ l, l = ((maskOffs back).map fun o => (o, (s.mark line).before.get 0 o)).filter fun e => inMask g.present e.1 := ⟨_, rfl⟩
    rw [← hm, ← hl] at ht
    rw [ht, State.setGran_get]
    refine ⟨fun a => ?_, fun j hj => State.setGran_get_other _ _ _ _ hj, rfl, rfl, fun o => ?_⟩
    · show memByte m a = _
      rw [hm]
      exact memByte_patchMask back _ s.mem line a
    show SMap.get 0 (patch g.data l) o = _
    rw [hl]
    rw [List.filter_map]
    rw [get_patch_of_mem, GranLine.dropped]
    congr 1
    simp only [List.mem_filter, Function.comp_apply, Bool.and_eq_true, eq_iff_iff]
    constructor
    · exact fun h => ⟨(mem_maskOffs.1 h.1).2, h.2⟩
    · exact fun h => ⟨mem_maskOffs.2 ⟨inMask_lt h.1, h.1⟩, h.2⟩

end Sys2Proof.Machine
end

section
/-! OBLIGATIONS. Homes serve requests, and the Granary evicts (R163, R173, R175, R176, R180, R194, R195). -/

namespace Sys2Proof.Machine

open Sys2Proof

/-! ## Evictions -/

theorem victim_mem {ways : List (Nat × Bool × Bool × Nat)} {k : Nat} (h : victim ways = some k) : ∃ w ∈ ways, w.1 = k := by
  unfold victim at h
  split at h
  case h_1 w hw =>
    cases h
    exact ⟨w, List.mem_of_find?_eq_some hw, rfl⟩
  case h_2 =>
    obtain ⟨⟨k', u⟩, hk, rfl⟩ := Option.map_eq_some_iff.1 h
    refine foldl_keeps _ (fun b : Option (Nat × Nat) => ∀ x, b = some x → ∃ w ∈ ways, w.1 = x.1) _ (fun b w hw hb => ?_) none nofun _ hk
    have hmem := (List.mem_filter.1 hw).1
    rcases b with _ | ⟨k, u⟩
    · rintro x ⟨⟩
      exact ⟨w, hmem, rfl⟩
    · dsimp only
      split
      · rintro x ⟨⟩
        exact ⟨w, hmem, rfl⟩
      · exact hb

theorem State.granVictim_valid {s : State} {k set key : Nat} (h : s.granVictim k set = some key) : (s.gran.get {} key).valid = true := by
  unfold State.granVictim at h
  dsimp only at h
  split at h
  case isTrue hall =>
    obtain ⟨w, hw, rfl⟩ := victim_mem h
    obtain ⟨i, hi, rfl⟩ := List.mem_map.1 hw
    exact List.all_eq_true.1 hall i hi
  case isFalse => cases h

theorem State.granFlush_fenced {s : State} {key : Nat} (h : s.stackFenced (s.gran.get {} key).line = true) : s.granFlush key = s := if_pos h

/-- A Granary line's dirty sectors go to HBM, without what its dead stores wrote. -/
theorem State.granFlush_held {s : State} {key : Nat} {g : GranLine} (hg : s.gran.get {} key = g) (hs : s.stackFenced g.line = false)
    (hf : s.granFind g.line = some (key, g)) :
    (∀ j, j ≠ key → (s.granFlush key).gran.get {} j = s.gran.get {} j) ∧ ∀ a, memByte (s.granFlush key).mem a =
      if a / 1024 = g.line ∧ inMask g.dirty (a % 1024) = true then g.dropped (s.mark g.line) (g.dirty &&& g.dead &&& (s.mark g.line).run) (a % 1024)
      else memByte s.mem a := by
  obtain ⟨hm, ho, hl, hd, hb⟩ := State.homeUndo_held hf hg (g.dirty &&& g.dead)
  obtain ⟨u, hu⟩ : ∃ u, u = s.homeUndo g.line (g.dirty &&& g.dead) := ⟨_, rfl⟩
  rw [← hu] at hm ho hl hd hb
  obtain ⟨f, ht⟩ : ∃ f : Mark → Mark, s.granFlush key = State.updMark
      { u with mem := memPatch u.mem (g.line * 1024) ((maskOffs g.dirty).map fun o => (o, (u.gran.get {} key).data.get 0 o)) } g.line f := by
    unfold State.granFlush
    dsimp only
    rw [hg, hs, if_neg Bool.false_ne_true, ← hu, hl, hd]
    exact ⟨_, rfl⟩
  obtain ⟨m, hmd⟩ : ∃ m, m = memPatch u.mem (g.line * 1024) ((maskOffs g.dirty).map fun o => (o, (u.gran.get {} key).data.get 0 o)) := ⟨_, rfl⟩
  rw [← hmd] at ht
  rw [ht]
  refine ⟨ho, fun a => ?_⟩
  show memByte m a = _
  rw [hmd, memByte_patchMask]
  by_cases hd : a / 1024 = g.line ∧ inMask g.dirty (a % 1024) = true
  · rw [if_pos hd, if_pos hd, hb]
  · rw [if_neg hd, if_neg hd, hm, if_neg]
    rintro ⟨h1, h2⟩
    rw [inMask_and, inMask_and, Bool.and_assoc] at h2
    exact hd ⟨h1, (Bool.and_eq_true_iff.1 h2).1⟩

theorem granaryEviction_evicts (s : State) (k : Keel) (set way : Nat) (g : GranLine) :
    let key := 2 ^ 20 * k.val + 16 * set + way
    (s.keel k.val).fenced = false → s.granVictim k.val set = some key → s.gran.get {} key = g →
    completes (.granaryEviction k set way) s fun t =>
      (t.gran.get {} key).valid = false ∧ (∀ j, j ≠ key → s.granFind g.line = some (key, g) → t.gran.get {} j = s.gran.get {} j)
        ∧ t = { s with mem := t.mem, marks := t.marks, gran := t.gran }
        ∧ (s.stackFenced g.line = true → t.mem = s.mem)
        ∧ (s.stackFenced g.line = false → s.granFind g.line = some (key, g) → ∀ a, memByte t.mem a =
          if a / 1024 = g.line ∧ inMask g.dirty (a % 1024) = true then
            if inMask (g.dirty &&& g.dead &&& g.present &&& (s.mark g.line).run) (a % 1024) = true
              then (s.mark g.line).before.get 0 (a % 1024) else g.data.get 0 (a % 1024)
          else memByte s.mem a) := by
  intro key hk hv hg
  have hx : exec (.granaryEviction k set way) s = .next ((s.granFlush key).setGran key {}) := by
    show execGranaryEviction k set way s = _
    unfold execGranaryEviction
    dsimp only
    rw [if_neg (by rw [hk, Bool.false_or]; exact fun h => of_decide_eq_true h hv), State.granEvict, if_pos (State.granVictim_valid hv)]
  have hap : (s.granFlush key).apart = s.apart := s.granFlush_apart key
  have hcr : (s.granFlush key).crier = s.crier := s.granFlush_crier key
  obtain ⟨v, hvd⟩ : ∃ v, v = s.granFlush key := ⟨_, rfl⟩
  have hframe : v.setGran key {} = { s with mem := v.mem, marks := v.marks, gran := (v.setGran key {}).gran } := by
    rw [← hvd] at hap hcr
    rw [← hcr]
    exact congrArg (fun u : State => { u with mem := v.mem, marks := v.marks, gran := (v.setGran key {}).gran, crier := v.crier }) hap
  rw [← hvd] at hx
  refine completes_of_exec hx ⟨?_, fun j hj hf => ?_, hframe, fun hs => ?_, fun hs hf a => ?_⟩
  · rw [State.setGran_get]
  · rw [State.setGran_get_other _ _ _ _ hj, hvd]
    by_cases hs : s.stackFenced g.line = true
    · rw [State.granFlush_fenced (by rw [hg]; exact hs)]
    · exact (State.granFlush_held hg (Bool.eq_false_iff.2 hs) hf).1 j hj
  · show v.mem = s.mem
    rw [hvd, State.granFlush_fenced (by rw [hg]; exact hs)]
  · show memByte v.mem a = _
    rw [hvd, (State.granFlush_held hg hs hf).2 a]
    congr 1
    rw [GranLine.dropped]
    congr 1
    simp only [inMask_and, Bool.and_eq_true, eq_iff_iff]
    tauto

/-! ## Requests -/

theorem State.txn_setTxn_other (s : State) (line l : Nat) (t : HomeTxn) (hl : l ≠ line) : (s.setTxn line t).txn l = s.txn l :=
  SMap.get_set_other _ _ _ _ _ hl

theorem homeCommand_serves {s : State} {r : HomeReq} (h : s.arrives r.id (fun o => readsHome o = readsHome r.op) r) :
    exec (homeCommand r) s = .next (s.serve r) := by
  have hr : readsHome r.op = true ∨ readsHome r.op = false := by cases readsHome r.op <;> simp
  unfold State.arrives at h
  unfold homeCommand
  rcases hr with hr | hr
  · rw [if_pos hr]
    have hf : s.reqs.find? (fun x => x.id = r.id && readsHome x.op && s.mayServe x) = some r := by
      rw [hr] at h
      simpa using h
    show Host.Outcome.next (s.serveReq r.id readsHome) = _
    rw [State.serveReq, hf]
  · rw [if_neg (by rw [hr]; decide)]
    have hf : s.reqs.find? (fun x => x.id = r.id && !readsHome x.op && s.mayServe x) = some r := by
      rw [hr] at h
      simpa using h
    show Host.Outcome.next (s.serveReq r.id fun o => !readsHome o) = _
    rw [State.serveReq, hf]

theorem request_served (s : State) (r : HomeReq) (h : s.arrives r.id (fun o => readsHome o = readsHome r.op) r) :
    let u := { s with reqs := s.reqs.filter fun x => x.id ≠ r.id }
    let far := recallFor r.op (s.entriesOf r.line)
    (s.busy r.line = false → far.2 = [] → exec (homeCommand r) s = .next (u.perform r)) ∧
    (s.busy r.line = false → far.2 ≠ [] → completes (homeCommand r) s fun t =>
      t = { u with net := t.net, txns := t.txns } ∧ (t.txn r.line).busy = .r ∧ (t.txn r.line).serving = .req r
        ∧ (t.txn r.line).await = names far.2 ∧ (∀ l, l ≠ r.line → t.txn l = s.txn l)
        ∧ t.net = s.net ++ far.2.map fun e => { fromHome .recall r.line e.bin e.pol with st := far.1, tag := r.id % 2 ^ 32 }) ∧
    (s.busy r.line = true → completes (homeCommand r) s fun t =>
      t = { u with txns := t.txns, keels := t.keels } ∧ (t.txn r.line).queue = (s.txn r.line).queue ++ [.req r]
        ∧ (t.keel (homeOf r.line)).maxq
          = max (s.keel (homeOf r.line)).maxq (min 0xFFFF ((s.txn r.line).queue.length + 1))) := by
  intro u far
  have hx := homeCommand_serves h
  have hreq : s.serve r = u.request r.line (.req r) := rfl
  rw [hreq] at hx
  have hbusy : u.busy r.line = s.busy r.line := rfl
  have hes : u.entriesOf r.line = s.entriesOf r.line := rfl
  have htx : ∀ l, u.txn l = s.txn l := fun l => rfl
  have hidle : s.busy r.line = false → u.request r.line (.req r) = u.beginReq r := fun hb =>
    if_neg (by rw [hbusy, hb]; decide)
  refine ⟨fun hb hfar => ?_, fun hb hfar => ?_, fun hb => ?_⟩
  · have hc : far.2.isEmpty = true := by rw [hfar]; rfl
    rw [hx, hidle hb, State.beginReq, hes]
    exact congrArg Host.Outcome.next (if_pos hc)
  · have hbegin : u.beginReq r = ({ u with net := u.net ++ far.2.map fun e =>
        { fromHome .recall r.line e.bin e.pol with st := far.1, tag := r.id % 2 ^ 32 } } : State).setTxn r.line
          { busy := .r, serving := .req r, await := names far.2, sent := names far.2 } := by
      rw [State.beginReq, hes]
      have hs := foldl_sends (fun e : Entry => { fromHome .recall r.line e.bin e.pol with st := far.1, tag := r.id % 2 ^ 32 }) far.2 u
      rw [← hs]
      exact if_neg (by rw [List.isEmpty_iff]; exact hfar)
    rw [hidle hb, hbegin] at hx
    have ht := State.txn_setTxn ({ u with net := u.net ++ far.2.map fun e =>
        { fromHome .recall r.line e.bin e.pol with st := far.1, tag := r.id % 2 ^ 32 } } : State) r.line
          { busy := .r, serving := .req r, await := names far.2, sent := names far.2 }
    refine completes_of_exec hx ⟨rfl, ?_, ?_, ?_, fun l hl => (State.txn_setTxn_other _ _ l _ hl).trans (htx l), rfl⟩ <;> rw [ht]
  · have hq : u.request r.line (.req r) = (u.setTxn r.line { u.txn r.line with queue := (u.txn r.line).queue ++ [.req r] }).updKeel
        (homeOf r.line) fun k => { k with maxq := max k.maxq (min 0xFFFF ((u.txn r.line).queue.length + 1)) } :=
      if_pos (by rw [hbusy, hb])
    rw [hq] at hx
    obtain ⟨h1, h2⟩ := queued_waits u r.line (.req r) _ rfl
    refine completes_of_exec hx ⟨h2, h1, ?_⟩
    exact congrArg KeelSt.maxq (State.keel_updKeel _ _ _)

theorem perform_leaves (s : State) (r : HomeReq) (hh : s.homeFenced r.line = false) (hs : s.stackFenced r.line = false)
    (hf : s.granFind r.line = none) (hp : s.granPart (homeOf r.line) r.pol = none) (hr : (s.mark r.line).run = 0) :
    let t := s.perform r
    (∀ need, r.op = .read need → t.mem = s.mem) ∧
    (∀ bs dead poison, r.op = .write bs dead poison → (∀ e ∈ bs, e.1 < 1024) →
      t.mem = memPatch s.mem (r.line * 1024) bs ∧ (∀ a, a / 1024 ≠ r.line → memByte t.mem a = memByte s.mem a)
        ∧ (t.mark r.line).dead = deadAfter (s.mark r.line).dead bs dead
        ∧ (t.mark r.line).poison = poisonAfter (s.mark r.line).poison bs poison ∧ t.gran = s.gran ∧ t.bins = s.bins) ∧
    (∀ op off size v expect poison, r.op = .atomic op off size v expect poison → off + size ≤ 1024 →
      let old := leNat ((List.range size).map fun i => memByte s.mem (r.line * 1024 + off + i))
      t.mem = memPatch s.mem (r.line * 1024) (bytesAt off (leBytes size (atomNew op size old v.toNat expect.toNat)))
        ∧ t.gran = s.gran ∧ t.bins = s.bins) ∧
    (∀ ty addends poison, r.op = .addLine ty addends poison → (∀ a ∈ addends, a.1 < 1024 / atlSize ty) →
      t.mem = addends.foldl (fun m a =>
        let n := atlSize ty
        let old := leNat ((List.range n).map fun i => memByte m (r.line * 1024 + n * a.1 + i))
        memPatch m (r.line * 1024) (bytesAt (n * a.1) (leBytes n (atlAdd ty old a.2)))) s.mem
        ∧ t.gran = s.gran ∧ t.bins = s.bins) ∧
    (∀ g, r.op = .range .discard g → t.mem = s.mem ∧ (t.mark r.line).dead = 0xFF) := by
  have h : s.Plain r.line r.pol := ⟨hh, hs, hf, hp, hr⟩
  refine ⟨fun _ hop => h.perform_read hop, fun bs dead poison hop hb => ?_, fun _ _ _ _ _ _ hop hsz => h.perform_atomic hop hsz,
    fun _ _ _ hop ha => h.perform_addLine hop ha, fun _ hop => h.perform_discard hop⟩
  obtain ⟨h1, h2, h3, h4, h5⟩ := h.perform_write hop
  refine ⟨h1, fun a ha => ?_, h2, h3, h4, h5⟩
  rw [h1]
  refine memByte_memPatch_other _ _ _ _ fun e he hae => ha ?_
  have := hb e he
  omega

/-! ## Add-to-line and trackers -/

theorem addLine_sent (s : State) (d : Die) (p : Pol) (seq va dpa : Nat) (ty : AtlType) (w : Word) (u : State) (addends : List (Nat × Lane))
    (hva : va % 1024 = 0) (ha : ∀ a ∈ addends, a.1 < 1024 / atlSize ty) (hft : atlFeature s.featureWord ty = true)
    (hd : (s.mill d.val).fenced = false) (hr : (s.pol p.val).isRunning seq = true) (hsu : ((s.pol p.val).run seq).suspended = false)
    (hh : s.held (srcStation 3 d.val) p.val = false)
    (htr : s.translate (.station 3 d.val p.val seq) p.val va 2 ((s.pol p.val).run seq).m.tag = (.ok w dpa, u)) :
    let v := u.endWalks (.station 3 d.val p.val seq)
    let line := dpaOffset dpa / 1024
    let kept := isHbmLine line = true → (v.granPart (homeOf line) p.val).isSome = true
    (v.localMem dpa = true → kept → completes (.addToLine d p seq va ty addends) s fun t =>
        t = (v.updRun p.val seq fun r => { r with stores := r.stores + 1 }).newReq
          (.addLine ty addends (v.station d.val p.val).cooperPoison) line p.val (.station 3 d.val p.val seq) va (eHint w) ∧ t.mem = u.mem) ∧
    (v.localMem dpa = false ∨ ¬kept → completes (.addToLine d p seq va ty addends) s fun t =>
        t = { v with crier := t.crier } ∧ ∃ e, t.crier.band = v.crier.band ++ [e] ∧ e.code = .permission ∧ e.book = p.val) := by
  intro v line kept
  have hall : (addends.all fun a => a.1 < 1024 / atlSize ty) = true := List.all_eq_true.2 fun a h => decide_eq_true (ha a h)
  have hx : exec (.addToLine d p seq va ty addends) s = .next (
      if !v.localMem dpa || (isHbmLine line && (v.granPart (homeOf line) p.val).isNone) then v.permission (srcStation 3 d.val) p.val va 2
      else (v.updRun p.val seq fun r => { r with stores := r.stores + 1 }).newReq
        (.addLine ty addends (v.station d.val p.val).cooperPoison) line p.val (.station 3 d.val p.val seq) va (eHint w)) := by
    show execAddToLine d p seq va ty addends s = _
    unfold execAddToLine
    dsimp only
    rw [if_neg (by simp only [hva, hall, hft, hd, hr, hsu, hh]; decide), htr]
  refine ⟨fun hl hk => ?_, fun hn => ?_⟩
  · rw [if_neg] at hx
    · refine completes_of_exec hx ⟨rfl, ?_⟩
      show (State.newReq _ _ _ _ _ _ _).mem = _
      unfold State.newReq
      dsimp only
      split <;> rfl
    · rw [hl, Bool.not_true, Bool.false_or, Bool.and_eq_true]
      rintro ⟨h1, h2⟩
      rw [Option.isNone_iff_eq_none] at h2
      have := hk h1
      rw [h2] at this
      cases this
  · rw [if_pos] at hx
    · exact completes_of_exec hx ⟨rfl, _, rfl, rfl, rfl⟩
    · rcases hn with hn | hn
      · rw [hn]
        rfl
      · obtain ⟨h1, h2⟩ := Classical.not_imp.1 hn
        rw [h1, Option.not_isSome_iff_eq_none.1 h2]
        simp

theorem trackerFreed_goes (s : State) (k : Keel) :
    (∀ r, s.reqs.find? (fun r => !r.tracked && homeOf r.line = k.val && s.trackerFree k.val r.pol) = some r →
      completes (.trackerFreed k) s fun t =>
        (t.keel k.val).trackers = (s.keel k.val).trackers ++ [(r.pol, otherAgent)] ∧ t.mem = s.mem
          ∧ t.reqs.map HomeReq.id = s.reqs.map HomeReq.id ∧ ∃ x ∈ t.reqs, x.id = r.id ∧ x.tracked = true) ∧
    (∀ e, s.reqs.find? (fun r => !r.tracked && homeOf r.line = k.val && s.trackerFree k.val r.pol) = none →
      s.bins.find? (fun e => homeOf e.2.line = k.val && !e.2.waits.isEmpty && (isStable e.2.st || e.2.st = .i)
        && s.trackerFree k.val e.2.pol) = some e → exec (.trackerFreed k) s = .next (s.serveWaits e.1)) := by
  refine ⟨fun r hf => ?_, fun e hn hf => ?_⟩
  · have hx : exec (.trackerFreed k) s = .next ((s.trackReq r.id).takeTracker k.val r.pol otherAgent) := by
      show execTrackerFreed k s = _
      unfold execTrackerFreed
      rw [hf]
    refine completes_of_exec hx ⟨congrArg KeelSt.trackers (State.keel_updKeel _ _ _), rfl, ?_, ?_⟩
    · show (s.reqs.map fun (x : HomeReq) => if x.id = r.id then { x with tracked := true } else x).map HomeReq.id = _
      rw [List.map_map]
      refine List.map_congr_left fun x _ => ?_
      simp only [Function.comp_apply]
      split <;> rfl
    · exact ⟨_, List.mem_map.2 ⟨r, List.mem_of_find?_eq_some hf, if_pos rfl⟩, rfl, rfl⟩
  · show execTrackerFreed k s = _
    unfold execTrackerFreed
    rw [hn, hf]

/-- Settles O40. -/
theorem homesServeRequests : Obligations.HomesServeRequests := by
  unfold Obligations.HomesServeRequests
  refine ⟨request_served, perform_leaves, granaryEviction_evicts, fun s k set way hn => ?_, addLine_sent, trackerFreed_goes⟩
  show execGranaryEviction k set way s = _
  exact congrArg Host.Outcome.next (if_pos (by rw [Bool.or_eq_true]; exact .inr (decide_eq_true hn)))

end Sys2Proof.Machine
end

section
/-! OBLIGATIONS. Quays, stints and replays (R28, R29, R31, R150, R153, R158). -/

namespace Sys2Proof.Machine

open Sys2Proof

/-! ## Quays -/

theorem QuaySt.pop_order {x : QuaySt} {e : QEntry} {r : List QEntry} (h : x.entries = e :: r) :
    x.pop.entries ++ x.pop.waiting = r ++ x.waiting := by
  unfold QuaySt.pop
  rw [h]
  dsimp only
  cases hw : x.waiting with
  | nil => simp
  | cons w ws => simp

theorem QuaySt.pop_empty {x : QuaySt} (h : x.entries = []) : x.pop = x := by
  unfold QuaySt.pop
  rw [h]

/-- What reading a quay does, as its reader sees the quay and its slot. -/
theorem execQuayRead_shut {s : State} {q : Quay} (hi : inboundQuay (quayNo q) = true) (hn : s.quaySlot (quayNo q) = none) :
    exec (.quayRead q) s = .next s := by
  show execQuayRead q s = _
  unfold execQuayRead
  dsimp only
  rw [hi, hn]

theorem execQuayRead_entry {s : State} {q : Quay} {e : QEntry} {r : List QEntry} (ho : inboundQuay (quayNo q) = true → s.quaySlot (quayNo q) ≠ none)
    (he : (s.quay (quayNo q)).entries = e :: r) :
    (∀ n, q ≠ .linkRx n) → exec (.quayRead q) s = .next (s.updQuay (quayNo q) QuaySt.pop) := by
  intro hl
  show execQuayRead q s = _
  unfold execQuayRead
  dsimp only
  split
  case h_1 hi hn => exact absurd hn (ho hi)
  case h_2 =>
    rw [he]
    cases q <;> simp_all

theorem execQuayRead_flit {s : State} {n : ZPort} {b : List Byte} {r : List QEntry} (hs : s.quaySlot (quayNo (.linkRx n)) ≠ none)
    (he : (s.quay (quayNo (.linkRx n))).entries = .bytes b :: r) :
    exec (.quayRead (.linkRx n)) s = .next ((s.updQuay (quayNo (.linkRx n)) QuaySt.pop).takeFlit n.val b) := by
  show execQuayRead (.linkRx n) s = _
  unfold execQuayRead
  dsimp only
  split
  case h_1 hi hn => exact absurd hn hs
  case h_2 => rw [he]

theorem execQuayRead_empty {s : State} {q : Quay} (he : (s.quay (quayNo q)).entries = []) :
    (∃ i, inboundQuay (quayNo q) = true ∧ s.quaySlot (quayNo q) = some i
        ∧ exec (.quayRead q) s = .next (s.emptySlot i))
      ∨ (inboundQuay (quayNo q) = true ∧ s.quaySlot (quayNo q) = none ∧ exec (.quayRead q) s = .next s)
      ∨ (inboundQuay (quayNo q) = false ∧ exec (.quayRead q) s = .next (s.updQuay (quayNo q) QuaySt.pop)) := by
  have hx : exec (.quayRead q) s = execQuayRead q s := rfl
  unfold execQuayRead at hx
  dsimp only at hx
  rw [he] at hx
  cases hi : inboundQuay (quayNo q) with
  | false =>
    rw [hi] at hx
    refine .inr (.inr ⟨rfl, hx.trans ?_⟩)
    cases q <;> rfl
  | true =>
    cases hs : s.quaySlot (quayNo q) with
    | none =>
      rw [hi, hs] at hx
      exact .inr (.inl ⟨rfl, rfl, hx⟩)
    | some i =>
      rw [hi, hs] at hx
      refine .inl ⟨i, rfl, rfl, hx.trans ?_⟩
      cases q <;> rfl

theorem quayWrite_enters (s : State) (q : Quay) (e : List Byte) (h0 : s.boot.stage0 = true) (he : e.length = quayEntry (quayNo q))
    (hs : s.quayStopped q = false) :
    completes (.quayWrite q e) s fun t =>
      t = { s with quays := t.quays } ∧ (∀ n, n ≠ quayNo q → t.quay n = s.quay n)
        ∧ ((s.quay (quayNo q)).entries.length < quayDepth (quayNo q) → (s.quay (quayNo q)).waiting = [] →
            t.quay (quayNo q) = { s.quay (quayNo q) with entries := (s.quay (quayNo q)).entries ++ [.bytes e] })
        ∧ (quayDepth (quayNo q) ≤ (s.quay (quayNo q)).entries.length →
            t.quay (quayNo q) = { s.quay (quayNo q) with waiting := (s.quay (quayNo q)).waiting ++ [.bytes e] }) := by
  have hx : exec (.quayWrite q e) s = .next (s.pushQuay (quayNo q) (.bytes e)) := by
    show execQuayWrite q e s = _
    unfold execQuayWrite
    dsimp only
    rw [if_neg (by rw [h0, he]; simp), if_neg (by rw [hs]; exact Bool.false_ne_true)]
  have hq : (s.pushQuay (quayNo q) (.bytes e)).quay (quayNo q) = (s.quay (quayNo q)).push (quayDepth (quayNo q)) (.bytes e) :=
    s.quay_updQuay _ _
  refine completes_of_exec hx ⟨rfl, fun n hn => s.quay_updQuay_other _ _ n hn, fun hl hw => ?_, fun hl => ?_⟩
  · rw [hq, QuaySt.push, if_pos (by rw [hw]; simpa using hl)]
  · rw [hq, QuaySt.push, if_neg (by rw [Bool.and_eq_true, decide_eq_true_eq]; omega)]

theorem quayWrite_stopped (s : State) (q : Quay) (e : List Byte) (h0 : s.boot.stage0 = true) (he : e.length = quayEntry (quayNo q))
    (hs : s.quayStopped q = true) :
    completes (.quayWrite q e) s fun t =>
      t.quay (quayNo q) = { s.quay (quayNo q) with flushed := (s.quay (quayNo q)).flushed + 1 } := by
  refine completes_of_exec (t := s.updQuay (quayNo q) fun x => { x with flushed := x.flushed + 1 }) ?_ (s.quay_updQuay _ _)
  show execQuayWrite q e s = _
  unfold execQuayWrite
  dsimp only
  rw [if_neg (by rw [h0, he]; simp), if_pos hs]

theorem quayRead_oldest (s : State) (q : Quay) (e : QEntry) (r : List QEntry) (hl : ∀ n, q ≠ .linkRx n)
    (ho : inboundQuay (quayNo q) = true → s.quaySlot (quayNo q) ≠ none) (he : (s.quay (quayNo q)).entries = e :: r) :
    completes (.quayRead q) s fun t =>
      t = { s with quays := t.quays } ∧ (t.quay (quayNo q)).entries ++ (t.quay (quayNo q)).waiting = r ++ (s.quay (quayNo q)).waiting
        ∧ ∀ n, n ≠ quayNo q → t.quay n = s.quay n := by
  have hx : exec (.quayRead q) s = .next (s.updQuay (quayNo q) QuaySt.pop) := execQuayRead_entry ho he hl
  refine completes_of_exec hx ⟨rfl, ?_, fun n hn => s.quay_updQuay_other _ _ n hn⟩
  rw [State.quay_updQuay]
  exact QuaySt.pop_order he

theorem State.updQuay_pop_empty {s : State} {n : Nat} (h : (s.quay n).entries = []) (k : Nat) : (s.updQuay n QuaySt.pop).quay k = s.quay k := by
  by_cases hk : k = n
  · subst hk
    rw [State.quay_updQuay, QuaySt.pop_empty h]
  · exact s.quay_updQuay_other _ _ _ hk

/-- A slot that passes empty counts once for the polder whose stint still has something to bring. -/
theorem State.emptySlot_counts (s : State) (i : Nat) :
    s.emptySlot i = { s with pols := (s.emptySlot i).pols }
      ∧ ∀ x, s.table[i]? = some x → (s.stint i).queued ≠ 0 → ((s.emptySlot i).pol x.pol).emptyLate = satAdd 0xFFFF (s.pol x.pol).emptyLate 1 := by
  unfold State.emptySlot
  split
  case h_1 h => exact ⟨rfl, fun x hx => by rw [h] at hx; cases hx⟩
  case h_2 y h =>
    split
    case isTrue hq => exact ⟨rfl, fun _ _ hn => absurd hq hn⟩
    case isFalse hq =>
      refine ⟨rfl, fun x hx _ => ?_⟩
      cases h.symm.trans hx
      show (State.pol (State.updPol _ _ _) y.pol).emptyLate = _
      rw [State.pol_updPol, State.pol_updPol]

theorem quayRead_empty (s : State) (q : Quay) (he : (s.quay (quayNo q)).entries = []) :
    completes (.quayRead q) s fun t => t = { s with quays := t.quays, pols := t.pols } ∧ (∀ n, t.quay n = s.quay n)
      ∧ ∀ i x, inboundQuay (quayNo q) = true → s.quaySlot (quayNo q) = some i → s.table[i]? = some x → (s.stint i).queued ≠ 0 →
          (t.pol x.pol).emptyLate = satAdd 0xFFFF (s.pol x.pol).emptyLate 1 := by
  have hpop := State.updQuay_pop_empty he
  rcases execQuayRead_empty he with ⟨i, hi, hsl, hx⟩ | ⟨hi, hsl, hx⟩ | ⟨hi, hx⟩
  · obtain ⟨h1, h2⟩ := s.emptySlot_counts i
    refine completes_of_exec hx ⟨?_, fun n => ?_, fun j x _ hj hx hq => ?_⟩
    · rw [h1]
    · rw [h1]
      rfl
    · cases hsl.symm.trans hj
      exact h2 x hx hq
  · exact completes_of_exec hx ⟨rfl, fun _ => rfl, fun i x _ hi => by rw [hsl] at hi; cases hi⟩
  · exact completes_of_exec hx ⟨rfl, hpop, fun i x h => by rw [hi] at h; cases h⟩

/-! ## Stints -/

theorem nextHop_hop {tide : List Stint} {x : Stint} {j : Nat} (h : nextHop tide x = some j) : ∃ y, tide[j]? = some y ∧ x.hop + 1 = y.hop := by
  unfold nextHop at h
  split at h
  · cases h
  obtain ⟨⟨y, k⟩, hf, rfl⟩ := Option.map_eq_some_iff.1 h
  have hmem := List.mem_of_find?_eq_some hf
  have hp := List.find?_some hf
  refine ⟨y, (List.mk_mem_zipIdx_iff_getElem?.1 hmem), ?_⟩
  simp only [follows, nextInPath, Bool.and_eq_true, decide_eq_true_eq] at hp
  obtain ⟨⟨-, hh⟩, -⟩ := hp
  exact hh

theorem nextHop_other {s : State} {i j : Nat} {x : Stint} (hx : s.table[i]? = some x) (h : nextHop s.table x = some j) : j ≠ i := by
  rintro rfl
  obtain ⟨y, hy, hh⟩ := nextHop_hop h
  cases hx.symm.trans hy
  omega

/-- An occurrence of a stint that passes empty. -/
theorem stintOccurrence_idle (s : State) (i cycle ready late : Nat) (x : Stint) (hx : s.table[i]? = some x)
    (hl : s.tide.loaded = true) (hc : cycle % 2 ^ x.period = x.start) (hlt : cycle < 4096) (hi : s.stintIdle x = true) :
    completes (.stintOccurrence i cycle ready late) s fun t =>
      (t.stint i).queued = (s.stint i).queued + ready ∧ t = { s with stints := t.stints } := by
  refine completes_of_exec (t := s.updStint i fun y => { y with queued := y.queued + ready }) ?_
    ⟨congrArg StintSt.queued (s.stint_updStint i _), rfl⟩
  show execStintOccurrence i cycle ready late s = _
  unfold execStintOccurrence
  dsimp only
  rw [hx]
  dsimp only
  rw [if_neg (by rw [hl, hc]; simp; omega), if_pos hi]

/-- What the hop after a stint holds once the stint has sent. -/
def State.passOn (s : State) (next : Option Nat) (sent : Nat) : State :=
  match next with
  | some j => s.updStint j fun x => { x with queued := x.queued + sent }
  | none => s

theorem State.passOn_eq (s : State) (next : Option Nat) (sent : Nat) : s.passOn next sent = { s with stints := (s.passOn next sent).stints } := by
  cases next <;> rfl

theorem State.passOn_other (s : State) (next : Option Nat) (sent j : Nat) (h : next ≠ some j) : (s.passOn next sent).stint j = s.stint j := by
  cases next with
  | none => rfl
  | some k => exact s.stint_updStint_other k _ j fun e => h (by rw [e])

theorem State.updPol_twice (s : State) (p : Nat) (f g : Polder → Polder) : (s.updPol p f).updPol p g = s.updPol p fun q => g (f q) := by
  show ({ s with pols := (s.pols.upd {} p f).upd {} p g } : State) = { s with pols := s.pols.upd {} p fun q => g (f q) }
  rw [SMap.upd_upd]

theorem stintOccurrence_carries (s : State) (i cycle ready late : Nat) (x : Stint) (hx : s.table[i]? = some x)
    (hl : s.tide.loaded = true) (hc : cycle % 2 ^ x.period = x.start) (hlt : cycle < 4096) (hi : s.stintIdle x = false) :
    let slots := occurrenceSlots x cycle - (s.stint i).moved * x.laneCount
    let next := nextHop s.table x
    let sent := if next.any (fun j => s.slipFull j (s.table.getD j x)) then 0
      else min ((s.stint i).queued + ready) (32 * (slots - min late slots))
    completes (.stintOccurrence i cycle ready late) s fun t =>
      (t.stint i).queued = (s.stint i).queued + ready - sent ∧ (t.stint i).moved = 0
        ∧ (t.stint i).slipped ≤ 256 - s.slippedElsewhere i (enteredBy s.table x)
        ∧ (∀ j ∈ next, (t.stint j).queued = (s.stint j).queued + sent)
        ∧ (t.pol x.pol).emptyLate = satAdd 0xFFFF (s.pol x.pol).emptyLate (min late slots)
        ∧ (∀ j, j ≠ i → next ≠ some j → t.stint j = s.stint j) ∧ t = { s with stints := t.stints, pols := t.pols } := by
  intro slots next sent
  have hni : next ≠ some i := fun h => nextHop_other hx h rfl
  let moved : StintSt → StintSt := fun y => { y with
    queued := (s.stint i).queued + ready - sent, moved := 0
    slipped := if (enteredBy s.table x).isNone then 0
      else min (ceilDiv ((s.stint i).queued + ready - sent) 1024) (256 - s.slippedElsewhere i (enteredBy s.table x)) }
  obtain ⟨u, hu⟩ : ∃ u, u = (s.updStint i moved).passOn next sent := ⟨_, rfl⟩
  have hueq : u = { s with stints := u.stints } := by
    rw [hu]
    exact (State.passOn_eq _ _ _).trans rfl
  have hui : u.stint i = moved (s.stint i) := by
    rw [hu, State.passOn_other _ _ _ _ hni, State.stint_updStint]
  have hun : ∀ j, next = some j → (u.stint j).queued = (s.stint j).queued + sent := fun j hj => by
    have hji : j ≠ i := fun e => hni (e ▸ hj)
    rw [hu, hj, State.passOn, State.stint_updStint, State.stint_updStint_other _ _ _ _ hji]
  have huo : ∀ j, j ≠ i → next ≠ some j → u.stint j = s.stint j := fun j hji hj => by
    rw [hu, State.passOn_other _ _ _ _ hj, State.stint_updStint_other _ _ _ _ hji]
  have hpol : u.pol x.pol = s.pol x.pol := by
    rw [hueq]
    rfl
  obtain ⟨t, f, hexec, ht, hf⟩ : ∃ (t : State) (f : Polder → Polder), exec (.stintOccurrence i cycle ready late) s = .next t
      ∧ t = u.updPol x.pol f ∧ ∀ q, (f q).emptyLate = satAdd 0xFFFF q.emptyLate (min late slots) := by
    have hexec : exec (.stintOccurrence i cycle ready late) s = .next (
        let rest := (s.stint i).queued + ready - sent
        let held := next.any (fun j => s.slipFull j (s.table.getD j x))
          || ((enteredBy u.table x).isSome && 256 - s.slippedElsewhere i (enteredBy s.table x) < ceilDiv rest 1024)
        let v := u.updPol x.pol fun q => { q with
          emptyLate := satAdd 0xFFFF q.emptyLate (min late slots)
          slips := if rest = 0 then q.slips else satAdd 0xFFFF q.slips 1
          slipHeld := if rest ≠ 0 && held then satAdd 0xFFFF q.slipHeld (2 ^ x.period) else q.slipHeld }
        if rest = 0 || min late slots = 0 then v else v.delayRuns x.pol (v.strikes x) (2 ^ x.period) .wait) := by
      show execStintOccurrence i cycle ready late s = _
      unfold execStintOccurrence
      dsimp only
      rw [hx]
      dsimp only
      rw [if_neg (by rw [hl, hc]; simp; omega), if_neg (by rw [hi]; exact Bool.false_ne_true), hu]
      rfl
    dsimp only at hexec
    split at hexec
    · exact ⟨_, _, hexec, rfl, fun _ => rfl⟩
    · exact ⟨_, _, hexec, State.updPol_twice .., fun _ => rfl⟩
  have htst : ∀ j, t.stint j = u.stint j := fun j => by rw [ht]; rfl
  refine completes_of_exec hexec ⟨by rw [htst, hui], by rw [htst, hui], ?_, fun j hj => by rw [htst]; exact hun j hj, ?_,
    fun j hj hn => by rw [htst]; exact huo j hj hn, ?_⟩
  · rw [htst, hui]
    show (if _ then _ else _) ≤ _
    split
    · exact Nat.zero_le _
    · exact Nat.min_le_right _ _
  · rw [ht, State.pol_updPol, hf, hpol]
  · rw [ht]
    exact congrArg (fun w : State => { w with pols := (u.updPol x.pol f).pols }) hueq

/-! ## Replays -/

/-- A link retry costs a manifest its cycles. -/
theorem Run.delayed_link (r : Run) (now n : Nat) :
    (r.delayed now n .link).uncharged.link = r.uncharged.link + n ∧ (r.delayed now n .link).lag = r.lag := by
  refine ⟨?_, rfl⟩
  show (r.uncharged.link + (max now r.covered.link + n - max now r.covered.link)) = _
  omega

theorem State.delayRuns_link {s : State} {p n seq : Nat} {f : Run → Bool} {r : Run} (h : (seq, r) ∈ (s.pol p).running) (hh : r.m.hard = true)
    (hf : f r = true) :
    ∃ r', (seq, r') ∈ ((s.delayRuns p f n .link).pol p).running ∧ r'.uncharged.link = r.uncharged.link + n ∧ r'.lag = r.lag := by
  refine ⟨r.delayed s.clock n .link, ?_, r.delayed_link s.clock n⟩
  rw [State.delayRuns, State.pol_updPol]
  exact List.mem_map.2 ⟨(seq, r), h, if_pos (by rw [hh, hf]; rfl)⟩

/-- What a replay charges to the polder and its stint. -/
theorem State.replayed_charges (s : State) (b p cost : Nat) :
    let t := s.replayed b p cost
    (t.pol p).replays = satAdd 0xFFFF (s.pol p).replays 1 ∧ t = { s with pols := t.pols, stints := t.stints }
      ∧ (∀ i, s.bundleStint b p = some i → (t.stint i).moved = (s.stint i).moved + cost)
      ∧ (∀ j, s.bundleStint b p ≠ some j → t.stint j = s.stint j)
      ∧ ∀ seq r, (seq, r) ∈ (s.pol p).running → r.m.hard = true →
          (∀ i x, s.bundleStint b p = some i → s.table[i]? = some x → s.strikes x r = true) →
          ∃ r', (seq, r') ∈ (t.pol p).running ∧ r'.uncharged.link = r.uncharged.link + cost ∧ r'.lag = r.lag := by
  intro t
  obtain ⟨u, hu⟩ : ∃ u, u = s.updPol p fun q => { q with replays := satAdd 0xFFFF q.replays 1 } := ⟨_, rfl⟩
  have hup : u.pol p = { s.pol p with replays := satAdd 0xFFFF (s.pol p).replays 1 } := by rw [hu, State.pol_updPol]
  have hus : ∀ j, u.stint j = s.stint j := fun j => by rw [hu]; rfl
  have hueq : u = { s with pols := u.pols } := by rw [hu]; rfl
  have hrep : (t.pol p).replays = (u.pol p).replays ∧ t = { u with pols := t.pols, stints := t.stints } ∧
      (∀ i, s.bundleStint b p = some i → (t.stint i).moved = (u.stint i).moved + cost) ∧
      (∀ j, s.bundleStint b p ≠ some j → t.stint j = u.stint j) ∧
      ∀ seq r, (seq, r) ∈ (u.pol p).running → r.m.hard = true →
          (∀ i x, s.bundleStint b p = some i → s.table[i]? = some x → s.strikes x r = true) →
          ∃ r', (seq, r') ∈ (t.pol p).running ∧ r'.uncharged.link = r.uncharged.link + cost ∧ r'.lag = r.lag := by
    cases hb : s.bundleStint b p with
    | none =>
      have ht : t = u.delayRuns p (fun _ => true) cost .link := by
        show s.replayed b p cost = _
        have hb' : (s.updPol p fun q => { q with replays := satAdd 0xFFFF q.replays 1 }).bundleStint b p = none := hb
        unfold State.replayed
        dsimp only
        rw [hb', hu]
      rw [ht]
      refine ⟨?_, rfl, nofun, fun _ _ => rfl, fun seq r hr hh _ => State.delayRuns_link hr hh rfl⟩
      rw [State.delayRuns, State.pol_updPol]
    | some i =>
      have ht : t = (u.updStint i fun x => { x with moved := x.moved + cost }).delayRuns p (fun r => (s.table[i]?).all fun x => s.strikes x r)
          cost .link := by
        show s.replayed b p cost = _
        have hb' : (s.updPol p fun q => { q with replays := satAdd 0xFFFF q.replays 1 }).bundleStint b p = some i := hb
        unfold State.replayed
        dsimp only
        rw [hb', hu]
        rfl
      rw [ht]
      refine ⟨?_, rfl, ?_, fun j hj => ?_, fun seq r hr hh hst => ?_⟩
      · rw [State.delayRuns, State.pol_updPol]
        rfl
      · rintro _ ⟨⟩
        exact congrArg StintSt.moved (u.stint_updStint i fun x => { x with moved := x.moved + cost })
      · exact u.stint_updStint_other i (fun x => { x with moved := x.moved + cost }) j fun e => hj (by rw [e])
      · refine State.delayRuns_link hr hh ?_
        rw [Option.all_eq_true]
        exact fun x hx => hst i x rfl hx
  obtain ⟨h1, h2, h3, h4, h5⟩ := hrep
  refine ⟨h1.trans (by rw [hup]), ?_, fun i hi => by rw [h3 i hi, hus], fun j hj => by rw [h4 j hj, hus], fun seq r hr => h5 seq r (by rw [hup]; exact hr)⟩
  rw [h2]
  conv_lhs => rw [hueq]

theorem bundleReplay_ok (s : State) (b : Nat) (p : Pol) (hit : Transfer) (hb : b < 2088) (hs : (s.bundle b).state = 1) :
    let cost := if b < 2048 then 8 else 16
    completes (.bundleReplay b p true hit) s fun t =>
      t.bundle b = { s.bundle b with replays := satAdd 0xFFFF (s.bundle b).replays 1, failRun := 0 }
        ∧ (∀ j, j ≠ b → t.bundle j = s.bundle j) ∧ (t.pol p).replays = satAdd 0xFFFF (s.pol p).replays 1
        ∧ t = { s with bundles := t.bundles, pols := t.pols, stints := t.stints }
        ∧ (∀ i, s.bundleStint b p = some i → (t.stint i).moved = (s.stint i).moved + cost)
        ∧ (∀ j, s.bundleStint b p ≠ some j → t.stint j = s.stint j)
        ∧ ∀ seq r, (seq, r) ∈ (s.pol p).running → r.m.hard = true →
            (∀ i x, s.bundleStint b p = some i → s.table[i]? = some x → s.strikes x r = true) →
            ∃ r', (seq, r') ∈ (t.pol p).running ∧ r'.uncharged.link = r.uncharged.link + cost ∧ r'.lag = r.lag := by
  intro cost
  obtain ⟨u, hu⟩ : ∃ u, u = s.updBundle b fun c => { c with replays := satAdd 0xFFFF c.replays 1, failRun := 0 } := ⟨_, rfl⟩
  have hx : exec (.bundleReplay b p true hit) s = .next (u.replayed b p.val cost) := by
    show execBundleReplay b p true hit s = _
    unfold execBundleReplay
    dsimp only
    rw [if_neg (by rw [hs]; simp; omega), if_pos rfl, hu]
    rfl
  obtain ⟨h1, h2, h3, h4, h5⟩ := u.replayed_charges b p.val cost
  have hbst : u.bundleStint b p.val = s.bundleStint b p.val := by rw [hu]; rfl
  have hpol : u.pol p.val = s.pol p.val := by rw [hu]; rfl
  have hstn : ∀ j, u.stint j = s.stint j := fun j => by rw [hu]; rfl
  have htab : u.table = s.table := by rw [hu]; rfl
  have hstr : ∀ x r, u.strikes x r = s.strikes x r := fun x r => by rw [hu]; rfl
  obtain ⟨v, hv⟩ : ∃ v, v = u.replayed b p.val cost := ⟨_, rfl⟩
  rw [← hv] at hx h1 h2 h3 h4 h5
  rw [hbst] at h3 h4 h5
  rw [hpol] at h1 h5
  refine completes_of_exec hx ⟨?_, fun j hj => ?_, h1, ?_, fun i hi => (h3 i hi).trans (by rw [hstn]), fun j hj => (h4 j hj).trans (hstn j),
    fun seq r hr hh hs => h5 seq r hr hh fun i x hi hx => ?_⟩
  · rw [h2, hu]
    exact s.bundle_updBundle b fun c => { c with replays := satAdd 0xFFFF c.replays 1, failRun := 0 }
  · rw [h2, hu]
    exact s.bundle_updBundle_other b (fun c => { c with replays := satAdd 0xFFFF c.replays 1, failRun := 0 }) j hj
  · rw [h2, hu]
    rfl
  · rw [hstr]
    rw [htab] at hx
    exact hs i x hi hx

theorem bundleReplay_poisons (s : State) (b : Nat) (p : Pol) (m : CohMsg) (hb : b < 2088) (hs : (s.bundle b).state = 1)
    (hr : (s.bundle b).failRun < 15) (hm : m ∈ s.net) (hd : m.data ≠ []) :
    completes (.bundleReplay b p false (.msg m)) s fun t =>
      { m with poison := m.poison ||| touched m.data } ∈ t.net ∧ (t.bundle b).failRun = (s.bundle b).failRun + 1
        ∧ (t.bundle b).state = 1 ∧ t.mem = s.mem ∧ ∃ e, t.crier.band = s.crier.band ++ [e] ∧ e.code = .bondPoison := by
  let cost := if b < 2048 then 8 else 16
  obtain ⟨u, hu⟩ : ∃ u, u = s.updBundle b fun c => { c with replays := satAdd 0xFFFF c.replays 1, failRun := c.failRun + 1 } := ⟨_, rfl⟩
  obtain ⟨-, h2, -⟩ := u.replayed_charges b p.val cost
  obtain ⟨v, hv⟩ : ∃ v, v = u.replayed b p.val cost := ⟨_, rfl⟩
  rw [← hv] at h2
  have hvb : v.bundle b = { s.bundle b with replays := satAdd 0xFFFF (s.bundle b).replays 1, failRun := (s.bundle b).failRun + 1 } := by
    rw [h2, hu]
    exact s.bundle_updBundle b fun c => { c with replays := satAdd 0xFFFF c.replays 1, failRun := c.failRun + 1 }
  have hvn : v.net = s.net ∧ v.mem = s.mem ∧ v.crier = s.crier := by
    rw [h2, hu]
    exact ⟨rfl, rfl, rfl⟩
  obtain ⟨w, hw⟩ : ∃ w, w = (v.poisonTransfer p.val (.msg m)).raiseOwn .bondPoison (srcDie (bundleDie b)) p.val (bundleDetail b) := ⟨_, rfl⟩
  have hwb : w.bundle b = v.bundle b := by rw [hw]; rfl
  have hx : exec (.bundleReplay b p false (.msg m)) s = .next w := by
    show execBundleReplay b p false (.msg m) s = _
    unfold execBundleReplay
    dsimp only
    rw [if_neg (by rw [hs]; simp; omega), if_neg (by decide)]
    have hif : (if 16 ≤ (w.bundle b).failRun then w.bundleFails b else w) = w := if_neg (by rw [hwb, hvb]; dsimp only; omega)
    rw [hw, hv, hu] at hif
    rw [hw, hv, hu]
    exact congrArg Host.Outcome.next hif
  refine completes_of_exec hx ⟨?_, by rw [hwb, hvb], by rw [hwb, hvb]; exact hs, ?_, ?_⟩
  · rw [hw]
    refine List.mem_map.2 ⟨m, by rw [hvn.1]; exact hm, if_pos ?_⟩
    rw [decide_eq_true rfl, Bool.true_and, Bool.not_eq_true', List.isEmpty_eq_false_iff]
    exact hd
  · rw [hw]
    exact hvn.2.1
  · rw [hw]
    refine ⟨_, congrArg (fun c : Crier => c.band ++ _) hvn.2.2, rfl⟩

/-- Settles O39. -/
theorem causewayAndQuaysMoveTraffic : Obligations.CausewayAndQuaysMoveTraffic := by
  unfold Obligations.CausewayAndQuaysMoveTraffic
  exact ⟨quayWrite_enters, quayWrite_stopped, quayRead_oldest, fun _ _ => execQuayRead_shut, quayRead_empty,
    fun _ _ _ _ he hs => execQuayRead_flit hs he,
    stintOccurrence_carries, stintOccurrence_idle, bundleReplay_ok, bundleReplay_poisons⟩

end Sys2Proof.Machine
end

section
/-! OBLIGATIONS. Cask groups are coded and read (R32, R111, R112). -/

namespace Sys2Proof.Machine

open Sys2Proof

/-! ## A running stream -/

theorem State.streamOf_eq_some {s : State} {p seq n : Nat} {d : StreamDecl} {c : StreamRun} {m : Manifest} :
    s.streamOf p seq n = some (d, c, m) ↔ (s.pol p).isRunning seq = true ∧ ((s.pol p).run seq).suspended = false
      ∧ ((s.schedule ((s.pol p).run seq).m.schedule).bind fun x => x.streams[n]?) = some d
      ∧ ((s.pol p).run seq).streams.get {} n = c ∧ ((s.pol p).run seq).m = m := by
  unfold State.streamOf
  dsimp only
  by_cases hr : (s.pol p).isRunning seq = true ∧ ((s.pol p).run seq).suspended = false
  · rw [if_neg (by rw [hr.1, hr.2]; decide), Option.map_eq_some_iff]
    simp only [Prod.mk.injEq, hr.1, hr.2, true_and]
    exact ⟨fun ⟨_, hd, he, h⟩ => ⟨he ▸ hd, h⟩, fun ⟨hd, h⟩ => ⟨d, hd, rfl, h⟩⟩
  · rw [if_pos (by simp only [Bool.or_eq_true, Bool.not_eq_true']; grind)]
    exact ⟨nofun, fun h => absurd ⟨h.1, h.2.1⟩ hr⟩

theorem Run.ne_default_of_stream {r : Run} {n : Nat} (h : r.streams.get {} n ≠ {}) : r ≠ {} := by
  rintro rfl
  exact h rfl

/-- A change of a stream, where the stream does not become the one that is not listed. -/
theorem State.streamOf_updStream {s : State} {p seq n : Nat} {d : StreamDecl} {c : StreamRun} {m : Manifest}
    (h : s.streamOf p seq n = some (d, c, m)) (f : StreamRun → StreamRun) (hf : f c ≠ {}) :
    (s.updStream p seq n f).streamOf p seq n = some (d, f c, m) := by
  obtain ⟨hr, hs, hd, hc, hm⟩ := State.streamOf_eq_some.1 h
  have hrun : ((s.updStream p seq n f).pol p).run seq = { (s.pol p).run seq with streams := ((s.pol p).run seq).streams.upd {} n f } :=
    s.run_updRun p seq _ hr
  have hget : (((s.pol p).run seq).streams.upd {} n f).get {} n = f c := by rw [SMap.get_upd_same, hc]
  refine State.streamOf_eq_some.2 ⟨s.updRun_still_runs p seq _ hr (Run.ne_default_of_stream (n := n) (by rw [hget]; exact hf)), ?_, ?_, ?_, ?_⟩
    <;> rw [hrun]
  · exact hs
  · exact hd
  · exact hget
  · exact hm

theorem State.streamOf_updStream_other {s : State} {p seq n j : Nat} {d : StreamDecl} {c : StreamRun} {m : Manifest}
    (h : s.streamOf p seq n = some (d, c, m)) (hc0 : c ≠ {}) (hj : n ≠ j) (f : StreamRun → StreamRun) :
    (s.updStream p seq j f).streamOf p seq n = some (d, c, m) := by
  obtain ⟨hr, hs, hd, hc, hm⟩ := State.streamOf_eq_some.1 h
  have hrun : ((s.updStream p seq j f).pol p).run seq = { (s.pol p).run seq with streams := ((s.pol p).run seq).streams.upd {} j f } :=
    s.run_updRun p seq _ hr
  have hget : (((s.pol p).run seq).streams.upd {} j f).get {} n = c := by rw [SMap.get_upd_other _ _ _ _ _ hj, hc]
  refine State.streamOf_eq_some.2 ⟨s.updRun_still_runs p seq _ hr (Run.ne_default_of_stream (n := n) (by rw [hget]; exact hc0)), ?_, ?_, ?_, ?_⟩
    <;> rw [hrun]
  · exact hs
  · exact hd
  · exact hget
  · exact hm

theorem State.streamOf_congr {s t : State} {p : Nat} (hr : (t.pol p).running = (s.pol p).running) (hi : t.img = s.img) (seq n : Nat) :
    t.streamOf p seq n = s.streamOf p seq n := by
  unfold State.streamOf Polder.run Polder.isRunning State.schedule
  dsimp only
  rw [hr, hi]

theorem StreamRun.ne_default_of_tile {c : StreamRun} {t : Nat} (h : c.tiles.get {} t ≠ {}) : c ≠ {} := by
  rintro rfl
  exact h rfl

/-! ## Decoding -/

/-- A group of a tile arrives. -/
def State.groupGot (s : State) (p seq stream group off n : Nat) (bytes : List Byte) (bad : Bool) : State :=
  s.updTile p seq stream (group / 9) fun b => { b with
    bytes := bytesAt off bytes ++ b.bytes, groups := b.groups ++ [group % 9], outstanding := b.outstanding - 1
    poison := if bad then b.poison ++ (List.range (8 * n)).map (off / 128 + ·) else b.poison }

section
variable {s : State} {p seq stream group : Nat} {sd : StreamDecl} {c : StreamRun} {m : Manifest}
  (h : s.streamOf p seq stream = some (sd, c, m))
include h

theorem State.groupGot_arrives (off n : Nat) (bytes : List Byte) (bad : Bool) :
    ∃ c', (s.groupGot p seq stream group off n bytes bad).streamOf p seq stream = some (sd, c', m)
      ∧ c'.tiles.get {} (group / 9) = { c.tiles.get {} (group / 9) with
          bytes := bytesAt off bytes ++ (c.tiles.get {} (group / 9)).bytes, groups := (c.tiles.get {} (group / 9)).groups ++ [group % 9]
          outstanding := (c.tiles.get {} (group / 9)).outstanding - 1
          poison := (c.tiles.get {} (group / 9)).poison ++ if bad then (List.range (8 * n)).map (off / 128 + ·) else [] } := by
  have hg := SMap.get_upd_same {} c.tiles (group / 9) fun (b : TileBuf) => { b with
    bytes := bytesAt off bytes ++ b.bytes, groups := b.groups ++ [group % 9], outstanding := b.outstanding - 1
    poison := if bad then b.poison ++ (List.range (8 * n)).map (off / 128 + ·) else b.poison }
  refine ⟨_, State.streamOf_updStream h _ (StreamRun.ne_default_of_tile (t := group / 9) ?_), hg.trans ?_⟩
  · dsimp only
    rw [hg]
    intro he
    exact absurd (congrArg TileBuf.groups he) (by simp)
  · cases bad <;> simp

/-- What a group arrives as, on its way through sectors that are poisoned. -/
theorem State.groupGot_struck (off n : Nat) (bytes : List Byte) (bad : List Nat) :
    ∃ c', ((s.groupGot p seq stream group off n bytes false).updTile p seq stream (group / 9) fun b =>
        { b with poison := b.poison ++ bad }).streamOf p seq stream = some (sd, c', m)
      ∧ c'.tiles.get {} (group / 9) = { c.tiles.get {} (group / 9) with
          bytes := bytesAt off bytes ++ (c.tiles.get {} (group / 9)).bytes, groups := (c.tiles.get {} (group / 9)).groups ++ [group % 9]
          outstanding := (c.tiles.get {} (group / 9)).outstanding - 1, poison := (c.tiles.get {} (group / 9)).poison ++ bad } := by
  obtain ⟨c1, h1, h2⟩ := State.groupGot_arrives (group := group) h off n bytes false
  have hg := SMap.get_upd_same {} c1.tiles (group / 9) fun (b : TileBuf) => { b with poison := b.poison ++ bad }
  rw [h2] at hg
  refine ⟨_, State.streamOf_updStream h1 _ (StreamRun.ne_default_of_tile (t := group / 9) ?_), hg.trans ?_⟩
  · dsimp only
    rw [hg]
    intro he
    exact absurd (congrArg TileBuf.groups he) (by simp)
  · simp

end

/-- A group without a value arrives as free bytes, poisoned. -/
def State.groupLost (s : State) (p seq stream group off n len : Nat) : State :=
  (s.freeBytes len).2.groupGot p seq stream group off n (s.freeBytes len).1 true

theorem State.groupLost_arrives {s u : State} {p seq stream group : Nat} {sd : StreamDecl} {c : StreamRun} {m : Manifest}
    (h : s.streamOf p seq stream = some (sd, c, m)) (hp : u.pols = s.pols) (hi : u.img = s.img) (off n len : Nat) :
    ∃ bytes c', (u.groupLost p seq stream group off n len).streamOf p seq stream = some (sd, c', m)
      ∧ c'.tiles.get {} (group / 9) = { c.tiles.get {} (group / 9) with
          bytes := bytes ++ (c.tiles.get {} (group / 9)).bytes, groups := (c.tiles.get {} (group / 9)).groups ++ [group % 9]
          outstanding := (c.tiles.get {} (group / 9)).outstanding - 1
          poison := (c.tiles.get {} (group / 9)).poison ++ (List.range (8 * n)).map (off / 128 + ·) } := by
  have hu : (u.freeBytes len).2.streamOf p seq stream = some (sd, c, m) :=
    (State.streamOf_congr (t := (u.freeBytes len).2) (s := s) (by rw [State.pol, State.pol, ← hp]; rfl) hi seq stream).trans h
  exact ⟨_, State.groupGot_arrives (group := group) hu off n _ true⟩

/-- What CASK_DECODE does with a group whose lines are known. -/
theorem exec_caskDecode {s : State} {d : Die} {p : Pol} {seq stream group : Nat} {sd : StreamDecl} {c : StreamRun} {m : Manifest}
    (h : s.streamOf p.val seq stream = some (sd, c, m)) (hd : sd.die = d.val) (hsrc : sd.src = .porter) (hst : sd.store = false)
    (hk : (c.tiles.get {} (group / 9)).cask = true) (hg : (group % 9) ∉ (c.tiles.get {} (group / 9)).groups) :
    let b := c.tiles.get {} (group / 9)
    let g := tileGroup sd.fmt (group % 9)
    let n := g.2.2 / 1024
    let got := fun (s : State) (bytes : List Byte) => s.groupGot p.val seq stream group g.2.1 n bytes false
    let lost := fun (s : State) => s.groupLost p.val seq stream group g.2.1 n g.2.2
    let poisonRead := s.raiseOwn .poisonRead (srcPorter sd.die sd.porter) p.val (addrDetail (tileVa sd (streamBase sd m) (group / 9) g.2.1) 0)
    let malformed := s.raiseOwn .caskMalformed (srcStation 2 d) p.val []
    (b.groupLines g.2.1 n = none → exec (.caskDecode d p seq stream group) s = .next (lost s)) ∧
    ∀ lines, b.groupLines g.2.1 n = some lines →
      let tag := (s.mark (lines.headD 0)).tag.toNat
      let read := fun (k : Nat) => ((lines.take k).map fun l => s.peek (1024 * l) 1024).flatten
      let struck := fun (k : Nat) => (lines.take k).any fun l => s.peekPoison (1024 * l) 1024
      let secs := ((List.range (8 * n)).filter fun i => s.peekPoison (1024 * lines.getD (i / 8) 0 + 128 * (i % 8)) 128).map (g.2.1 / 128 + ·)
      exec (.caskDecode d p seq stream group) s = .next (
        if tag / 16 = 0 then
          if struck n then (got poisonRead (read n)).updTile p.val seq stream (group / 9) fun b => { b with poison := b.poison ++ secs }
          else got s (read n)
        else if tag / 16 ≠ g.1 || tag % 16 = 0 || n ≤ tag % 16 then lost malformed
        else if struck (tag % 16) then lost poisonRead
        else ((Cask.decode g.1 (s.caskTables g.1) (read (tag % 16))).map (got s)).getD (lost malformed)) := by
  intro b g n got lost poisonRead malformed
  have hguard : ¬(decide (sd.die ≠ d.val) || decide (sd.src ≠ .porter) || sd.store || !b.cask || b.groups.contains (group % 9)) = true := by
    rw [hd, hsrc, hst, hk]
    simpa using hg
  have hx : exec (.caskDecode d p seq stream group) s = execCaskDecode d p seq stream group s := rfl
  unfold execCaskDecode at hx
  rw [h] at hx
  dsimp only at hx
  rw [if_neg hguard] at hx
  refine ⟨fun hl => ?_, fun lines hl => ?_⟩
  · rw [show (c.tiles.get {} (group / 9)).groupLines (tileGroup sd.fmt (group % 9)).2.1 ((tileGroup sd.fmt (group % 9)).2.2 / 1024) = none
      from hl] at hx
    exact hx
  · intro tag read struck secs
    rw [show (c.tiles.get {} (group / 9)).groupLines (tileGroup sd.fmt (group % 9)).2.1 ((tileGroup sd.fmt (group % 9)).2.2 / 1024) = some lines
      from hl] at hx
    refine hx.trans (congrArg Host.Outcome.next ?_)
    dsimp only
    cases hdec : Cask.decode g.1 (s.caskTables g.1) (read (tag % 16)) with
    | none => rfl
    | some bytes => rfl

end Sys2Proof.Machine
end

section
/-! OBLIGATIONS. Cask groups are decoded and encoded (R32, R111, R112). -/

namespace Sys2Proof.Machine

open Sys2Proof

/-! ## Decoding -/

theorem caskDecode_arrives (s : State) (d : Die) (p : Pol) (seq stream group : Nat) (sd : StreamDecl) (c : StreamRun) (m : Manifest) :
    let b := c.tiles.get {} (group / 9)
    let g := tileGroup sd.fmt (group % 9)
    let n := g.2.2 / 1024
    let arrives := fun (t : State) (bytes : Bytes) (bad : List Nat) => ∃ c', t.streamOf p.val seq stream = some (sd, c', m)
      ∧ c'.tiles.get {} (group / 9) = { b with
          bytes := bytes ++ b.bytes, groups := b.groups ++ [group % 9], outstanding := b.outstanding - 1, poison := b.poison ++ bad }
    let part := (List.range (8 * n)).map (g.2.1 / 128 + ·)
    s.streamOf p.val seq stream = some (sd, c, m) → sd.die = d.val → sd.src = .porter → sd.store = false → b.cask = true →
    (group % 9) ∉ b.groups →
    (b.groupLines g.2.1 n = none → completes (.caskDecode d p seq stream group) s fun t =>
      t = { s with pols := t.pols, seed := t.seed } ∧ ∃ bytes, arrives t bytes part) ∧
    ∀ lines, b.groupLines g.2.1 n = some lines →
      let tag := (s.mark (lines.headD 0)).tag.toNat
      let read := fun (k : Nat) => ((lines.take k).map fun l => s.peek (1024 * l) 1024).flatten
      let struck := fun (k : Nat) => (lines.take k).any fun l => s.peekPoison (1024 * l) 1024
      (tag < 16 → struck n = false → completes (.caskDecode d p seq stream group) s fun t =>
          arrives t (bytesAt g.2.1 (read n)) [] ∧ t = { s with pols := t.pols }) ∧
      (tag < 16 → struck n = true → completes (.caskDecode d p seq stream group) s fun t =>
          arrives t (bytesAt g.2.1 (read n)) (((List.range (8 * n)).filter fun i =>
            s.peekPoison (1024 * lines.getD (i / 8) 0 + 128 * (i % 8)) 128).map (g.2.1 / 128 + ·))
          ∧ t = { s with pols := t.pols, crier := t.crier } ∧ ∃ e, t.crier.band = s.crier.band ++ [e] ∧ e.code = .poisonRead) ∧
      (16 ≤ tag → (tag / 16 ≠ g.1 ∨ tag % 16 = 0 ∨ n ≤ tag % 16
            ∨ (struck (tag % 16) = false ∧ Cask.decode g.1 (s.caskTables g.1) (read (tag % 16)) = none)) →
          completes (.caskDecode d p seq stream group) s fun t => (∃ bytes, arrives t bytes part)
            ∧ t = { s with pols := t.pols, seed := t.seed, crier := t.crier }
            ∧ ∃ e, t.crier.band = s.crier.band ++ [e] ∧ e.code = .caskMalformed) ∧
      (16 ≤ tag → tag / 16 = g.1 → 0 < tag % 16 → tag % 16 < n → struck (tag % 16) = true →
          completes (.caskDecode d p seq stream group) s fun t => (∃ bytes, arrives t bytes part)
            ∧ t = { s with pols := t.pols, seed := t.seed, crier := t.crier }
            ∧ ∃ e, t.crier.band = s.crier.band ++ [e] ∧ e.code = .poisonRead) ∧
      (∀ bytes, 16 ≤ tag → tag / 16 = g.1 → 0 < tag % 16 → tag % 16 < n → struck (tag % 16) = false →
          Cask.decode g.1 (s.caskTables g.1) (read (tag % 16)) = some bytes →
          completes (.caskDecode d p seq stream group) s fun t => arrives t (bytesAt g.2.1 bytes) [] ∧ t = { s with pols := t.pols }) := by
  intro b g n arrives part h hd hsrc hst hk hg
  obtain ⟨hnone, hsome⟩ := exec_caskDecode h hd hsrc hst hk hg
  refine ⟨fun hl => ?_, fun lines hl => ?_⟩
  · exact completes_of_exec (hnone hl) ⟨rfl, State.groupLost_arrives h rfl rfl _ _ _⟩
  intro tag read struck
  have hx := hsome lines hl
  dsimp only at hx
  have hraw : tag < 16 → tag / 16 = 0 := fun h => Nat.div_eq_of_lt h
  have hcoded : 16 ≤ tag → ¬tag / 16 = 0 := fun h => by omega
  have hok : tag / 16 = g.1 → 0 < tag % 16 → tag % 16 < n →
      ¬(decide (tag / 16 ≠ g.1) || decide (tag % 16 = 0) || decide (n ≤ tag % 16)) = true := fun h1 h2 h3 => by
    simp only [Bool.or_eq_true, decide_eq_true_eq]
    omega
  refine ⟨fun ht hs => ?_, fun ht hs => ?_, fun ht hm => ?_, fun ht h1 h2 h3 hs => ?_, fun bytes ht h1 h2 h3 hs hdec => ?_⟩
  · rw [if_pos (hraw ht), if_neg (ne_true_of_eq_false hs)] at hx
    exact completes_of_exec hx ⟨State.groupGot_arrives h _ _ _ false, rfl⟩
  · rw [if_pos (hraw ht), if_pos hs] at hx
    refine completes_of_exec hx ⟨?_, rfl, _, rfl, rfl⟩
    exact State.groupGot_struck (s := s.raiseOwn .poisonRead (srcPorter sd.die sd.porter) p.val
      (addrDetail (tileVa sd (streamBase sd m) (group / 9) g.2.1) 0)) h _ _ _ _
  · rw [if_neg (hcoded ht)] at hx
    have hlost : exec (.caskDecode d p seq stream group) s = .next ((s.raiseOwn .caskMalformed (srcStation 2 d) p.val []).groupLost
        p.val seq stream group g.2.1 n g.2.2) := by
      by_cases hbad : (decide (tag / 16 ≠ g.1) || decide (tag % 16 = 0) || decide (n ≤ tag % 16)) = true
      · rw [if_pos hbad] at hx
        exact hx
      · rw [if_neg hbad] at hx
        simp only [Bool.or_eq_true, decide_eq_true_eq, not_or] at hbad
        obtain ⟨⟨k1, k2⟩, k3⟩ := hbad
        rcases hm with hm | hm | hm | ⟨hs, hdec⟩
        · exact absurd hm k1
        · exact absurd hm k2
        · exact absurd hm k3
        · rw [if_neg (ne_true_of_eq_false hs), show Cask.decode _ _ _ = none from hdec] at hx
          exact hx
    exact completes_of_exec hlost ⟨State.groupLost_arrives h rfl rfl _ _ _, rfl, _, rfl, rfl⟩
  · rw [if_neg (hcoded ht), if_neg (hok h1 h2 h3), if_pos hs] at hx
    exact completes_of_exec hx ⟨State.groupLost_arrives h rfl rfl _ _ _, rfl, _, rfl, rfl⟩
  · rw [if_neg (hcoded ht), if_neg (hok h1 h2 h3), if_neg (ne_true_of_eq_false hs),
      show Cask.decode _ _ _ = some bytes from hdec] at hx
    exact completes_of_exec hx ⟨State.groupGot_arrives h _ _ _ false, rfl⟩

/-! ## Encoding -/

/-- A group of an emitted tile is done, as its stream shows it. -/
theorem State.groupDone_settles {s : State} {p seq stream : Nat} {sd : StreamDecl} {c : StreamRun} {m : Manifest}
    (h : s.streamOf p seq stream = some (sd, c, m)) (t j : Nat) :
    (s.updStream p seq stream fun c => c.groupDone t j).streamOf p seq stream = some (sd, c.groupDone t j, m) := by
  refine State.streamOf_updStream h _ ?_
  unfold StreamRun.groupDone
  dsimp only
  split
  · intro he
    exact absurd (congrArg StreamRun.returning he) (Nat.succ_ne_zero _)
  · refine StreamRun.ne_default_of_tile (t := t) ?_
    dsimp only
    rw [SMap.get_set_same]
    intro he
    exact absurd (congrArg TileBuf.groups he) (by simp)

/-- A line that a Porter writes reaches tiles of that Porter's streams only. -/
theorem State.overwrite_keeps {s : State} {p seq n : Nat} {sd : StreamDecl} {c : StreamRun} {m : Manifest}
    (h : s.streamOf p seq n = some (sd, c, m)) (hc : c ≠ {}) (hsrc : sd.src ≠ .porter) (die porter va : Nat) (bs : Bytes) (bad : Bool) :
    (s.overwrite p seq die porter va bs bad).streamOf p seq n = some (sd, c, m)
      ∧ s.overwrite p seq die porter va bs bad = { s with pols := (s.overwrite p seq die porter va bs bad).pols } := by
  obtain ⟨-, -, hd, -, -⟩ := State.streamOf_eq_some.1 h
  unfold State.overwrite
  dsimp only
  split
  · exact ⟨h, rfl⟩
  next x hx =>
    have hn : x.streams[n]? = some sd := by
      rw [hx] at hd
      exact hd
    refine foldl_keeps _ (fun u : State => u.streamOf p seq n = some (sd, c, m) ∧ u = { s with pols := u.pols }) _ (fun u e he hu => ?_) s ⟨h, rfl⟩
    obtain ⟨d, j⟩ := e
    dsimp only
    split
    · exact hu
    · next hp =>
      have hj : n ≠ j := by
        rintro rfl
        have := List.mk_mem_zipIdx_iff_getElem?.1 he
        rw [hn] at this
        cases this
        simp [hsrc] at hp
      refine ⟨State.streamOf_updStream_other hu.1 hc hj _, ?_⟩
      conv_lhs => rw [hu.2]
      rfl

theorem State.groupEdges_keeps (s : State) (sd : StreamDecl) (t off kind : Nat) (lines : List Nat) (bytes : List Byte) :
    (s.groupEdges sd t off kind lines bytes).2.2 = { s with seed := (s.groupEdges sd t off kind lines bytes).2.2.seed } := by
  have hb : (s.groupBytes kind lines).2.2 = { s with seed := (s.groupBytes kind lines).2.2.seed } := by
    unfold State.groupBytes
    dsimp only
    split
    · rfl
    split
    · rfl
    split <;> rfl
  unfold State.groupEdges
  dsimp only
  split
  · rfl
  · exact hb

theorem State.pokeGroup_ctl (s : State) (p : Nat) (lines : List Nat) (bad : Nat → Bool) (out : List Byte) :
    (s.pokeGroup p lines bad out).ctl = s.ctl :=
  foldl_ctl _ (fun _ _ => foldl_ctl _ (fun _ _ => State.pokeLine_ctl ..) _ _) _ _

/-- The lines of an encoded group, as the tiles of the same Porter see them written. -/
def State.showGroup (s : State) (p seq : Nat) (sd : StreamDecl) (m : Manifest) (t off len : Nat) (bad : Nat → Bool) (bytes : List Byte) : State :=
  (List.range (len / 1024)).foldl (fun s i =>
    (byPoison (fun k => bad (8 * i + k)) (bytesAt 0 (slice bytes (1024 * i) 1024))).foldl (fun s g =>
      s.overwrite p seq sd.die sd.porter (tileVa sd (streamBase sd m) t (off + 1024 * i)) g.1 g.2) s) s

theorem State.showGroup_keeps {s : State} {p seq n : Nat} {sd : StreamDecl} {c : StreamRun} {m : Manifest}
    (h : s.streamOf p seq n = some (sd, c, m)) (hc : c ≠ {}) (hsrc : sd.src ≠ .porter) (t off len : Nat) (bad : Nat → Bool) (bytes : List Byte) :
    (s.showGroup p seq sd m t off len bad bytes).streamOf p seq n = some (sd, c, m)
      ∧ s.showGroup p seq sd m t off len bad bytes = { s with pols := (s.showGroup p seq sd m t off len bad bytes).pols } := by
  refine foldl_keeps _ (fun u : State => u.streamOf p seq n = some (sd, c, m) ∧ u = { s with pols := u.pols }) _ (fun u i _ hu => ?_) s ⟨h, rfl⟩
  refine foldl_keeps _ (fun u : State => u.streamOf p seq n = some (sd, c, m) ∧ u = { s with pols := u.pols }) _ (fun v g _ hv => ?_) u hu
  obtain ⟨h1, h2⟩ := State.overwrite_keeps hv.1 hc hsrc sd.die sd.porter (tileVa sd (streamBase sd m) t (off + 1024 * i)) g.1 g.2
  refine ⟨h1, ?_⟩
  exact h2.trans (congrArg (fun u : State =>
    { u with pols := (v.overwrite p seq sd.die sd.porter (tileVa sd (streamBase sd m) t (off + 1024 * i)) g.1 g.2).pols }) hv.2)

theorem caskEncode_settles (s : State) (d : Die) (p : Pol) (seq stream group : Nat) (bytes : List Byte) (sd : StreamDecl) (c : StreamRun)
    (m : Manifest) :
    let b := c.tiles.get {} (group / 9)
    let g := tileGroup sd.fmt (group % 9)
    let settled := fun (t : State) => ∃ c', t.streamOf p.val seq stream = some (sd, c', m)
      ∧ c'.tiles.get {} (group / 9) = (c.groupDone (group / 9) (group % 9)).tiles.get {} (group / 9)
      ∧ c'.returning = (c.groupDone (group / 9) (group % 9)).returning
    s.streamOf p.val seq stream = some (sd, c, m) → sd.die = d.val → sd.src ≠ .porter → sd.dst = .porter → b.cask = true →
    (group % 9) ∉ b.groups → bytes = b.groupBytes g.2.1 g.2.2 →
    (b.groupLines g.2.1 (g.2.2 / 1024) = none → completes (.caskEncode d p seq stream group bytes) s fun t =>
      settled t ∧ t = { s with pols := t.pols }) ∧
    ∀ lines, b.groupLines g.2.1 (g.2.2 / 1024) = some lines →
      (lines.all s.lineQuiet = false → exec (.caskEncode d p seq stream group bytes) s = .next s) ∧
      (lines.all s.lineQuiet = true →
        let e := s.groupEdges sd (group / 9) g.2.1 g.1 lines bytes
        let bad := fun (i : Nat) => e.2.1 || b.poison.contains (g.2.1 / 128 + i)
        let f := e.2.2.caskForm g.1 e.1 (!(List.range (g.2.2 / 128)).any bad)
        completes (.caskEncode d p seq stream group bytes) s fun t =>
          settled t ∧ (t.mark (lines.headD 0)).tag = BitVec.ofNat 8 f.2 ∧ t.mem = (e.2.2.pokeGroup p.val lines bad f.1).mem) := by
  intro b g settled h hd hsrc hdst hk hg hbytes
  have hguard : ¬(decide (sd.die ≠ d.val) || decide (sd.dst ≠ .porter) || !b.cask || b.groups.contains (group % 9)
      || decide (bytes ≠ b.groupBytes g.2.1 g.2.2)) = true := by
    rw [hd, hdst, hk, hbytes]
    simpa using hg
  have hc : c ≠ {} := StreamRun.ne_default_of_tile (t := group / 9) fun he => by
    have hk' : (c.tiles.get {} (group / 9)).cask = true := hk
    rw [he] at hk'
    cases hk'
  have hx : exec (.caskEncode d p seq stream group bytes) s = execCaskEncode d p seq stream group bytes s := rfl
  unfold execCaskEncode at hx
  rw [h] at hx
  dsimp only at hx
  rw [if_neg hguard] at hx
  refine ⟨fun hl => ?_, fun lines hl => ?_⟩
  · rw [show TileBuf.groupLines _ _ _ = none from hl] at hx
    exact completes_of_exec hx ⟨⟨_, State.groupDone_settles h _ _, rfl, rfl⟩, rfl⟩
  rw [show TileBuf.groupLines _ _ _ = some lines from hl] at hx
  dsimp only at hx
  refine ⟨fun hq => ?_, fun hq => ?_⟩
  · rw [if_pos (by rw [hq]; rfl)] at hx
    exact hx
  intro e bad f
  rw [if_neg (by rw [hq]; decide)] at hx
  obtain ⟨v, hv⟩ : ∃ v, v = e.2.2.pokeGroup p.val lines bad f.1 := ⟨_, rfl⟩
  obtain ⟨w, hw⟩ : ∃ w, w = v.showGroup p.val seq sd m (group / 9) g.2.1 g.2.2 bad e.1 := ⟨_, rfl⟩
  have hx' : exec (.caskEncode d p seq stream group bytes) s = .next ((w.updMark (lines.headD 0) fun k => { k with
      tag := BitVec.ofNat 8 f.2 }).updStream p.val seq stream fun c => c.groupDone (group / 9) (group % 9)) := by
    rw [hw, hv]
    exact hx
  have he : e.2.2.streamOf p.val seq stream = some (sd, c, m) := by
    have := s.groupEdges_keeps sd (group / 9) g.2.1 g.1 lines bytes
    exact (State.streamOf_congr (by rw [this]; rfl) (by rw [this]) seq stream).trans h
  have hctl : v.ctl = e.2.2.ctl := by rw [hv, State.pokeGroup_ctl]
  have hvs : v.streamOf p.val seq stream = some (sd, c, m) :=
    (State.streamOf_congr (State.running_of_ctl hctl p.val) (congrArg (fun c : Ctl => c.rest.img) hctl :) seq stream).trans he
  obtain ⟨hws, hwe⟩ := State.showGroup_keeps hvs hc hsrc (group / 9) g.2.1 g.2.2 bad e.1
  rw [← hw] at hws hwe
  have hms : (w.updMark (lines.headD 0) fun k => { k with tag := BitVec.ofNat 8 f.2 }).streamOf p.val seq stream = some (sd, c, m) :=
    (State.streamOf_congr rfl rfl seq stream).trans hws
  refine completes_of_exec hx' ⟨⟨_, State.groupDone_settles hms _ _, rfl, rfl⟩, ?_, ?_⟩
  · exact congrArg Mark.tag (w.mark_updMark (lines.headD 0) fun k => { k with tag := BitVec.ofNat 8 f.2 })
  · show w.mem = _
    rw [hwe, ← hv]

/-! ## The coded form -/

theorem Cask.codedWith_length {kind n : Nat} {t : CodeTable} {bs cs : List Byte} (h : Cask.codedWith kind n t bs = some cs) : 1 ≤ cs.length := by
  obtain ⟨x, -, rfl⟩ := Option.map_eq_some_iff.1 h
  simp

/-- What the search over the tables has found among the first of them. -/
def Cask.Best (kind : Nat) (tables : List CodeTable) (bs : List Byte) (k : Nat) (best : Option (List Byte)) : Prop :=
  (∀ cs, best = some cs → ∃ n, n < k ∧ Cask.codedWith kind n (tables.getD n []) bs = some cs)
    ∧ ∀ n, n < k → ∀ ds, Cask.codedWith kind n (tables.getD n []) bs = some ds → ∃ cs, best = some cs ∧ cs.length ≤ ds.length

theorem Cask.encode_best (kind : Nat) (tables : List CodeTable) (bs : List Byte) (k : Nat) :
    Cask.Best kind tables bs k ((List.range k).foldl (fun (best : Option (List Byte)) n =>
      match Cask.codedWith kind n (tables.getD n []) bs, best with
      | some c, some b => if c.length < b.length then some c else best
      | some c, none => some c
      | none, _ => best) none) := by
  induction k with
  | zero => exact ⟨nofun, fun n hn => absurd hn (Nat.not_lt_zero n)⟩
  | succ k ih =>
    rw [List.range_succ, List.foldl_append]
    obtain ⟨x, hx⟩ : ∃ x, x = (List.range k).foldl (fun (best : Option (List Byte)) n =>
      match Cask.codedWith kind n (tables.getD n []) bs, best with
      | some c, some b => if c.length < b.length then some c else best
      | some c, none => some c
      | none, _ => best) none := ⟨_, rfl⟩
    rw [← hx] at ih ⊢
    obtain ⟨h1, h2⟩ := ih
    rw [List.foldl_cons, List.foldl_nil]
    have hold : ∀ cs, x = some cs → ∃ n, n < k + 1 ∧ Cask.codedWith kind n (tables.getD n []) bs = some cs := fun cs hc =>
      let ⟨n, hn, hcs⟩ := h1 cs hc
      ⟨n, by omega, hcs⟩
    have hsplit : ∀ n, n < k + 1 → n < k ∨ n = k := fun n hn => by omega
    cases hc : Cask.codedWith kind k (tables.getD k []) bs with
    | none =>
      refine ⟨hold, fun n hn ds hds => ?_⟩
      rcases hsplit n hn with hn | rfl
      · exact h2 n hn ds hds
      · rw [hc] at hds
        cases hds
    | some c =>
      have hnew : ∃ n, n < k + 1 ∧ Cask.codedWith kind n (tables.getD n []) bs = some c := ⟨k, by omega, hc⟩
      cases hb : x with
      | none =>
        refine ⟨fun cs h => by cases h; exact hnew, fun n hn ds hds => ?_⟩
        rcases hsplit n hn with hn | rfl
        · obtain ⟨cs, hcs, -⟩ := h2 n hn ds hds
          rw [hb] at hcs
          cases hcs
        · rw [hc] at hds
          cases hds
          exact ⟨c, rfl, le_rfl⟩
      | some b =>
        dsimp only
        split
        case isTrue hlt =>
          refine ⟨fun cs h => by cases h; exact hnew, fun n hn ds hds => ?_⟩
          rcases hsplit n hn with hn | rfl
          · obtain ⟨cs, hcs, hle⟩ := h2 n hn ds hds
            rw [hb] at hcs
            cases hcs
            exact ⟨c, rfl, by omega⟩
          · rw [hc] at hds
            cases hds
            exact ⟨c, rfl, le_rfl⟩
        case isFalse hge =>
          refine ⟨fun cs h => hold cs (by rw [hb]; exact h), fun n hn ds hds => ?_⟩
          rcases hsplit n hn with hn | rfl
          · obtain ⟨cs, hcs, hle⟩ := h2 n hn ds hds
            rw [hb] at hcs
            exact ⟨cs, hcs, hle⟩
          · rw [hc] at hds
            cases hds
            exact ⟨b, rfl, by omega⟩

theorem encode_shortest (kind : Nat) (tables : List CodeTable) (bs cs : List Byte) (h : Cask.encode kind tables bs = some cs) :
    (∃ n, n < tables.length ∧ Cask.codedWith kind n (tables.getD n []) bs = some cs)
      ∧ ∀ n, n < tables.length → ∀ ds, Cask.codedWith kind n (tables.getD n []) bs = some ds → cs.length ≤ ds.length := by
  obtain ⟨h1, h2⟩ := Cask.encode_best kind tables bs tables.length
  unfold Cask.encode at h
  refine ⟨h1 cs h, fun n hn ds hds => ?_⟩
  obtain ⟨x, hx, hle⟩ := h2 n hn ds hds
  cases h.symm.trans hx
  exact hle

theorem caskForm_stored (s : State) (kind : Nat) (bytes out : List Byte) (tag : Nat) (hl : bytes.length ≤ 16384)
    (h : s.caskForm kind bytes true = (out, tag)) :
    (tag = 0 → out = bytes) ∧ (tag ≠ 0 → tag / 16 = kind ∧ tag % 16 < bytes.length / 1024
      ∧ ∃ x, Cask.encode kind (s.caskTables kind) bytes = some x ∧ out.length = 1024 * (tag % 16) ∧ ∀ i, i < x.length → out[i]? = x[i]?) := by
  unfold State.caskForm at h
  cases hx : Cask.encode kind (s.caskTables kind) bytes with
  | none =>
    rw [hx] at h
    cases h
    exact ⟨fun _ => rfl, fun h => absurd rfl h⟩
  | some x =>
    rw [hx] at h
    dsimp only at h
    split at h
    case isFalse =>
      cases h
      exact ⟨fun _ => rfl, fun h => absurd rfl h⟩
    case isTrue hn =>
      rw [Bool.and_true, decide_eq_true_eq] at hn
      obtain ⟨k, -, hk⟩ := (encode_shortest _ _ _ _ hx).1
      have hpos := Cask.codedWith_length hk
      obtain ⟨n, hnd⟩ : ∃ n, n = ceilDiv x.length 1024 := ⟨_, rfl⟩
      have hn1 : 1 ≤ n ∧ x.length ≤ 1024 * n := by rw [hnd, ceilDiv]; omega
      rw [← hnd] at hn h
      cases h
      have hmod : (16 * kind + n) % 16 = n ∧ (16 * kind + n) / 16 = kind := by omega
      refine ⟨fun h0 => by omega, fun _ => ⟨hmod.2, by rw [hmod.1]; exact hn, x, rfl, by rw [hmod.1]; exact slice_len _ _ _, fun i hi => ?_⟩⟩
      rw [slice, List.drop_zero, List.take_of_length_le hn1.2, List.getElem?_append_left hi]

/-- Settles O38. -/
theorem caskGroupsAreCodedAndRead : Obligations.CaskGroupsAreCodedAndRead := by
  unfold Obligations.CaskGroupsAreCodedAndRead
  exact ⟨caskDecode_arrives, caskEncode_settles, caskForm_stored, encode_shortest⟩

end Sys2Proof.Machine
end

section
/-! SUPPORT. What the Bins do leaves every running manifest as it is (R196 to R200). -/

namespace Sys2Proof.Machine

open Sys2Proof

/-- The running manifests of each polder. -/
def State.runs (s : State) (p : Nat) : SMap Run := (s.pol p).running

@[simp] theorem State.runs_ite (c : Prop) [Decidable c] (s t : State) : (if c then s else t).runs = if c then s.runs else t.runs := apply_ite ..

theorem foldl_runs {α : Type} (f : State → α → State) (h : ∀ s a, (f s a).runs = s.runs) (l : List α) (s : State) :
    (l.foldl f s).runs = s.runs := foldl_keeps_proj State.runs f h l s

section
variable (s : State)

@[simp] theorem State.send_runs (m : CohMsg) : (s.send m).runs = s.runs := rfl
@[simp] theorem State.setBin_runs (key : Nat) (b : BinLine) : (s.setBin key b).runs = s.runs := rfl
@[simp] theorem State.takeTracker_runs (k p who : Nat) : (s.takeTracker k p who).runs = s.runs := rfl
@[simp] theorem State.updMill_runs (d : Nat) (f : MillSt → MillSt) : (s.updMill d f).runs = s.runs := rfl
@[simp] theorem State.updHand_runs (h : Nat) (f : Hand → Hand) : (s.updHand h f).runs = s.runs := rfl

theorem State.updPol_runs (p : Nat) (f : Polder → Polder) (hf : ∀ q, (f q).running = q.running) : (s.updPol p f).runs = s.runs := by
  funext j
  by_cases h : j = p
  · rw [h]
    exact (congrArg Polder.running (s.pol_updPol p f)).trans (hf _)
  · exact congrArg Polder.running (s.pol_updPol_other p f j h)

@[simp] theorem State.countDead_runs (p : Nat) (dead : Bool) : (s.countDead p dead).runs = s.runs := by
  unfold State.countDead
  split
  · exact s.updPol_runs _ _ fun _ => rfl
  · rfl

@[simp] theorem State.capture_runs (key : Nat) (b : BinLine) (secs : BitVec 8) : (s.capture key b secs).runs = s.runs := by
  unfold State.capture
  refine foldl_runs _ (fun s o => ?_) _ _
  exact foldl_runs _ (fun s e => by rw [State.countDead_runs, State.updHand_runs]) _ _

@[simp] theorem State.serveHits_runs (key fuel : Nat) : (s.serveHits key fuel).runs = s.runs := by
  induction fuel generalizing s with
  | zero => rfl
  | succ fuel ih =>
    unfold State.serveHits
    dsimp only
    split
    · rfl
    split
    · rfl
    split
    · rw [ih, State.capture_runs, State.setBin_runs]
    · rw [ih, State.updHand_runs, State.setBin_runs]

@[simp] theorem State.askRdsec_runs (key : Nat) (b : BinLine) (need : BitVec 8) : (s.askRdsec key b need).runs = s.runs := by
  unfold State.askRdsec
  dsimp only
  split <;> rfl

@[simp] theorem State.askGets_runs (key : Nat) (b : BinLine) (need : BitVec 8) : (s.askGets key b need).runs = s.runs := rfl
@[simp] theorem State.askGetm_runs (key : Nat) (b : BinLine) (need : BitVec 8) : (s.askGetm key b need).runs = s.runs := rfl

@[simp] theorem State.askNext_runs (key : Nat) : (s.askNext key).runs = s.runs := by
  unfold State.askNext
  extract_lets b tracked
  have htracked : ∀ f : State → State, (∀ s : State, (f s).runs = s.runs) → (tracked f).runs = s.runs := fun f hf => by
    simp only [tracked]
    split
    · rw [hf, State.takeTracker_runs]
    · rfl
  split
  · split <;> rfl
  next w ws _ =>
    split
    · split
      · rfl
      · exact htracked (fun s => if w.write.isEmpty then s.askGets key b w.read else s.askGetm key b (partSectors w.write))
          fun s => by split <;> rfl
    · split
      · rfl
      split
      · exact s.askRdsec_runs ..
      split
      · exact s.askRdsec_runs ..
      · exact htracked (fun s => s.askGetm key b (partSectors w.write)) fun _ => rfl

@[simp] theorem State.serveWaits_runs (key : Nat) : (s.serveWaits key).runs = s.runs := by
  rw [State.serveWaits, State.askNext_runs, State.serveHits_runs]

@[simp] theorem State.giveUp_runs (key : Nat) : (s.giveUp key).runs = s.runs := by
  rw [State.giveUp, State.askNext_runs, State.setBin_runs]

@[simp] theorem State.supply_runs (m : CohMsg) (key : Nat) (b : BinLine) (ack : Nat) : (s.supply m key b ack).runs = s.runs := rfl
@[simp] theorem State.wbCross_runs (m : CohMsg) (key : Nat) (b : BinLine) : (s.wbCross m key b).runs = s.runs := rfl
@[simp] theorem State.ackFor_runs (m : CohMsg) (type : MsgType) : (s.ackFor m type).runs = s.runs := rfl

@[simp] theorem State.answerMsg_runs (m : CohMsg) : (s.answerMsg m).runs = s.runs := by
  unfold State.answerMsg
  split
  · split <;> rfl
  · split
    · split <;> rfl
    dsimp only
    split
    · split <;> rfl
    · split <;> simp
    · split <;> simp
    · split <;> simp
    · rfl

@[simp] theorem State.evict_runs (key : Nat) (b : BinLine) : (s.evict key b).runs = s.runs := by
  unfold State.evict
  dsimp only
  rw [foldl_runs _ fun s m => s.answerMsg_runs m]
  split <;> rfl

theorem State.binMiss_runs {s u : State} {d p line : Nat} {w : BinWait} (h : s.binMiss d p line w = some u) : u.runs = s.runs := by
  unfold State.binMiss at h
  split at h
  · cases h
  dsimp only at h
  split at h
  · split at h
    · cases h
      simp
    · cases h
  split at h
  · cases h
  · cases h
    simp

@[simp] theorem State.binRead_runs (d p line : Nat) (need : BitVec 8) (hint : Nat) : (s.binRead d p line need hint).runs = s.runs := by
  unfold State.binRead
  split
  · rfl
  dsimp only
  split
  · split
    · rfl
    · rw [State.serveWaits_runs, State.setBin_runs]
  · cases h : s.binMiss d p line { read := need, hint := hint, gen := (s.pol p).gen } with
    | none => rfl
    | some u => exact State.binMiss_runs h

end

end Sys2Proof.Machine
end

section
/-! SUPPORT. Range steps: their account in a manifest, and what each piece of a step leaves alone (R177 to R179). -/

namespace Sys2Proof.Machine

open Sys2Proof

/-! ## The account of a range step -/

def State.rangeRun (s : State) (p seq i : Nat) : RangeRun := ((s.pol p).run seq).ranges.get {} i

section
variable {s : State} {p seq i : Nat} (hr : (s.pol p).isRunning seq = true)
include hr

theorem State.rangeRun_updRange (f : RangeRun → RangeRun) : (s.updRange p seq i f).rangeRun p seq i = f (s.rangeRun p seq i) := by
  unfold State.rangeRun State.updRange
  rw [s.run_updRun p seq _ hr]
  exact SMap.get_upd_same _ _ _ _

theorem State.updRange_runs (f : RangeRun → RangeRun) (hf : f (s.rangeRun p seq i) ≠ {}) : ((s.updRange p seq i f).pol p).isRunning seq = true := by
  refine s.updRun_still_runs p seq _ hr fun he => hf ?_
  have := congrArg (fun r : Run => r.ranges.get {} i) he
  exact (SMap.get_upd_same _ _ _ _).symm.trans this

end

theorem RangeRun.ne_default_of_started {g : RangeRun} (h : g.started = true) : g ≠ {} := by
  rintro rfl
  cases h

/-- A running range step goes on: it and its manifest run, its record stays as it was read, and no event is lost. -/
structure RangeKeeps (p seq i : Nat) (s t : State) : Prop where
  runs : (t.pol p).isRunning seq = true
  record : { t.rangeRun p seq i with lines := 0, outstanding := 0, done := false, refused := none }
    = { s.rangeRun p seq i with lines := 0, outstanding := 0, done := false, refused := none }
  band : s.crier.band <+: t.crier.band

section
variable {p seq i : Nat} {s t u : State}

theorem RangeKeeps.trans (h : RangeKeeps p seq i s t) (k : RangeKeeps p seq i t u) : RangeKeeps p seq i s u :=
  ⟨k.runs, k.record.trans h.record, h.band.trans k.band⟩

theorem RangeKeeps.refl (hr : (s.pol p).isRunning seq = true) : RangeKeeps p seq i s s := ⟨hr, rfl, List.prefix_rfl⟩

theorem RangeKeeps.started (h : RangeKeeps p seq i s t) : (t.rangeRun p seq i).started = (s.rangeRun p seq i).started :=
  (congrArg RangeRun.started h.record :)

/-- A state that keeps the manifests and loses no event. -/
theorem RangeKeeps.of_runs (hr : (s.pol p).isRunning seq = true) (hp : t.runs = s.runs) (hb : s.crier.band <+: t.crier.band) : RangeKeeps p seq i s t := by
  have hp' : (t.pol p).running = (s.pol p).running := congrFun hp p
  refine ⟨by rw [Polder.isRunning, hp']; exact hr, ?_, hb⟩
  rw [State.rangeRun, Polder.run, hp', State.rangeRun, Polder.run]

theorem RangeKeeps.updRange (hr : (s.pol p).isRunning seq = true) (hs : (s.rangeRun p seq i).started = true) (f : RangeRun → RangeRun)
    (hf : ∀ g, { f g with lines := 0, outstanding := 0, done := false, refused := none }
      = { g with lines := 0, outstanding := 0, done := false, refused := none }) : RangeKeeps p seq i s (s.updRange p seq i f) := by
  have hst : (f (s.rangeRun p seq i)).started = true := ((congrArg RangeRun.started (hf _) :)).trans hs
  refine ⟨State.updRange_runs hr f (RangeRun.ne_default_of_started hst), ?_, List.prefix_rfl⟩
  rw [State.rangeRun_updRange hr, hf]

end

/-! ## Translations and their end -/

theorem State.translate_eq (s : State) (eng : EngineRef) (p va acc tag : Nat) :
    (s.translate eng p va acc tag).2 = { s with
      land := (s.translate eng p va acc tag).2.land, nextId := (s.translate eng p va acc tag).2.nextId } := by
  unfold State.translate
  split <;> rfl

theorem Run.delayed_ranges (r : Run) (now n : Nat) (k : Cause) : (r.delayed now n k).ranges = r.ranges := rfl

theorem State.endWalks_porter (s : State) (d q p seq n : Nat) :
    ∃ u, (u = s ∨ ∃ f : Run → Run, (∀ r, (f r).ranges = r.ranges) ∧ u = s.updRun p seq f)
      ∧ s.endWalks (.porter d q p seq n) = { u with land := (s.endWalks (.porter d q p seq n)).land } := by
  refine ⟨s.chargeWalks (.porter d q p seq n), ?_, rfl⟩
  unfold State.chargeWalks
  split
  case h_1 he _ =>
    cases he
    dsimp only
    split
    · refine .inr ⟨_, ?_, rfl⟩
      exact fun r => Run.delayed_ranges r _ _ _
    · exact .inl rfl
  case h_2 => exact .inl rfl

/-- The end of a step's walks leaves the step's account, the requests, the Bins and memory alone. -/
theorem State.endWalks_keeps {s : State} {p seq : Nat} (hr : (s.pol p).isRunning seq = true) (d q n i : Nat) :
    (s.endWalks (.porter d q p seq n)).rangeRun p seq i = s.rangeRun p seq i
      ∧ s.endWalks (.porter d q p seq n) = { s with
        land := (s.endWalks (.porter d q p seq n)).land, pols := (s.endWalks (.porter d q p seq n)).pols } := by
  obtain ⟨u, hu, he⟩ := s.endWalks_porter d q p seq n
  obtain ⟨v, hv⟩ : ∃ v, v = s.endWalks (.porter d q p seq n) := ⟨_, rfl⟩
  rw [← hv] at he ⊢
  rcases hu with rfl | ⟨f, hf, rfl⟩
  · exact ⟨by rw [he]; rfl, by rw [he]⟩
  · refine ⟨?_, by rw [he]; rfl⟩
    have hrun : (v.pol p).run seq = f ((s.pol p).run seq) := by
      rw [he]
      exact s.run_updRun p seq f hr
    rw [State.rangeRun, hrun, hf, State.rangeRun]

theorem State.endWalks_running {s : State} {p seq i : Nat} (hr : (s.pol p).isRunning seq = true) (hs : (s.rangeRun p seq i).started = true)
    (d q n : Nat) : ((s.endWalks (.porter d q p seq n)).pol p).isRunning seq = true := by
  obtain ⟨u, hu, he⟩ := s.endWalks_porter d q p seq n
  have hpol : (s.endWalks (.porter d q p seq n)).pol p = u.pol p := by rw [he]; rfl
  rw [hpol]
  rcases hu with rfl | ⟨f, hf, rfl⟩
  · exact hr
  · refine s.updRun_still_runs p seq f hr fun h0 => ?_
    have hrg : ((s.pol p).run seq).ranges = [] := (hf _).symm.trans (congrArg Run.ranges h0)
    rw [State.rangeRun, hrg] at hs
    cases hs

/-! ## A line of a range step -/

/-- A request of a home, with the hint that it carries. -/
theorem State.newReq_hinted (s : State) (op : HomeOp) (line p : Nat) (who : Requester) (va hint : Nat) :
    ∃ r : HomeReq, r.op = op ∧ r.line = line ∧ r.pol = p ∧ r.who = who ∧ r.hint = hint ∧ s.newReq op line p who va hint =
      { s with nextId := s.nextId + 1, keels := (s.newReq op line p who va hint).keels, reqs := s.reqs ++ [r] } := by
  unfold State.newReq
  dsimp only
  split <;> exact ⟨_, rfl, rfl, rfl, rfl, rfl, rfl⟩

/-- The operation of a record by its code. -/
def rangeOp (op : Nat) : RangeOp := [RangeOp.prefetch, .flush, .cleanInvalidate, .discard].getD op .flush

section
variable {s : State} {p seq i : Nat} {d : RangeDecl} {g : RangeRun} {line va hint : Nat}

/-- Every operation but a PREFETCH into a Bin is a request of the line's home. -/
theorem State.rangeLine_asks (hop : g.op < 4) (hl : g.op ≠ 0 ∨ g.level = 1) :
    s.rangeLine p seq i d g line va hint = some ((s.updRange p seq i fun g => { g with outstanding := g.outstanding + 1 }).newReq
      (.range (rangeOp g.op) (g.level = 1)) line p (.step p seq i) va (if g.hint = 0 then hint else g.hint)) := by
  have hcases : g.op = 0 ∨ g.op = 1 ∨ g.op = 2 ∨ g.op = 3 := by omega
  unfold State.rangeLine
  dsimp only
  rcases hcases with h | h | h | h <;> rw [h]
  · rw [if_pos (hl.resolve_left fun hn => hn h)]
    rfl
  · rfl
  · rfl
  · rfl

/-- PREFETCH at LEVEL 0 reads the Bin of the die. -/
theorem State.rangeLine_reads (hop : g.op = 0) (hl : g.level ≠ 1) :
    s.rangeLine p seq i d g line va hint =
      let u := s.binRead d.die p line 0xFF (if g.hint = 0 then hint else g.hint)
      if (u.binFind d.die p line).isSome || (u.mill d.die).fenced || u.homeFenced line then some u else none := by
  unfold State.rangeLine
  dsimp only
  rw [hop]
  exact if_neg hl

theorem RangeKeeps.rangeLine {u : State} (hr : (s.pol p).isRunning seq = true) (hs : (s.rangeRun p seq i).started = true)
    (h : s.rangeLine p seq i d g line va hint = some u) : RangeKeeps p seq i s u := by
  have hsend : ∀ (op : RangeOp) (x : State), some ((s.updRange p seq i fun g => { g with outstanding := g.outstanding + 1 }).newReq
      (.range op (g.level = 1)) line p (.step p seq i) va (if g.hint = 0 then hint else g.hint)) = some x → RangeKeeps p seq i s x := by
    rintro op x ⟨⟩
    have h1 := RangeKeeps.updRange (i := i) hr hs (fun g => { g with outstanding := g.outstanding + 1 }) fun _ => rfl
    refine h1.trans ?_
    obtain ⟨r, -, -, -, -, -, he⟩ := State.newReq_hinted (s.updRange p seq i fun g => { g with outstanding := g.outstanding + 1 })
      (.range op (g.level = 1)) line p (.step p seq i) va (if g.hint = 0 then hint else g.hint)
    rw [he]
    exact RangeKeeps.of_runs h1.runs rfl List.prefix_rfl
  unfold State.rangeLine at h
  dsimp only at h
  generalize (if g.hint = 0 then hint else g.hint) = hh at h hsend
  split at h
  · split at h
    · exact hsend _ _ h
    · split at h
      · cases h
        refine RangeKeeps.of_runs hr (State.binRead_runs ..) ?_
        rw [(s.binStep_binRead d.die p line 0xFF _).frame]
      · cases h
  · exact hsend _ _ h
  · exact hsend _ _ h
  · exact hsend _ _ h

end

/-! ## The lines of a range step -/

section
variable {p seq i : Nat} {d : RangeDecl}

/-- A line of a step is behind it. -/
def State.rangeNext (s : State) (p seq i : Nat) : State := s.updRange p seq i fun g => { g with lines := g.lines + 1 }

/-- A granule is refused. -/
def State.rangeRefuse (s : State) (p seq i granule : Nat) : State := s.updRange p seq i fun g => { g with refused := some granule }

theorem RangeKeeps.next {s : State} (hr : (s.pol p).isRunning seq = true) (hs : (s.rangeRun p seq i).started = true) :
    RangeKeeps p seq i s (s.rangeNext p seq i) := RangeKeeps.updRange hr hs _ fun _ => rfl

theorem RangeKeeps.refuse {s : State} (hr : (s.pol p).isRunning seq = true) (hs : (s.rangeRun p seq i).started = true) (n : Nat) :
    RangeKeeps p seq i s (s.rangeRefuse p seq i n) := RangeKeeps.updRange hr hs _ fun _ => rfl

theorem RangeKeeps.rangeLines (fuel : Nat) {s : State} (hr : (s.pol p).isRunning seq = true) (hs : (s.rangeRun p seq i).started = true) :
    RangeKeeps p seq i s (s.rangeLines p seq i d fuel) := by
  induction fuel generalizing s with
  | zero => exact RangeKeeps.refl hr
  | succ fuel ih =>
    have hnext : ∀ u : State, RangeKeeps p seq i s u → RangeKeeps p seq i s ((u.rangeNext p seq i).rangeLines p seq i d fuel) := fun u hu => by
      have hn := hu.trans (RangeKeeps.next hu.runs (hu.started.trans hs))
      exact hn.trans (ih hn.runs (hn.started.trans hs))
    have hskip : ∀ (u v : State) (n : Nat) (first : Prop) [Decidable first], RangeKeeps p seq i s u → RangeKeeps p seq i u v →
        RangeKeeps p seq i s ((((if first then v else u).rangeRefuse p seq i n).rangeNext p seq i).rangeLines p seq i d fuel) :=
      fun u v n first _ hu hv => by
        have hw : RangeKeeps p seq i s (if first then v else u) := by
          split
          · exact hu.trans hv
          · exact hu
        exact hnext _ (hw.trans (RangeKeeps.refuse hw.runs (hw.started.trans hs) n))
    have htr : ∀ (eng : EngineRef) (va acc tag : Nat), RangeKeeps p seq i s (s.translate eng p va acc tag).2 := fun eng va acc tag => by
      rw [State.translate_eq]
      exact RangeKeeps.of_runs hr rfl List.prefix_rfl
    have hraise : ∀ (u : State) (code : Code) (src : Nat) (detail : List Byte), RangeKeeps p seq i s u →
        RangeKeeps p seq i u (u.raiseOwn code src p detail) := fun u code src detail hu =>
      RangeKeeps.of_runs hu.runs rfl (List.prefix_append _ _)
    unfold State.rangeLines
    dsimp only
    split
    · exact RangeKeeps.refl hr
    have hk := htr (.porter d.die d.porter p seq (256 + i)) ((((s.pol p).run seq).ranges.get {} i).base + 1024 * (((s.pol p).run seq).ranges.get {} i).lines)
      (if (((s.pol p).run seq).ranges.get {} i).op = 3 then 4 else 3) ((s.pol p).run seq).m.tag
    split
    case h_1 u hu =>
      rw [hu] at hk
      exact hskip u _ _ _ hk (hraise u _ _ _ hk)
    case h_2 u hu =>
      rw [hu] at hk
      exact hskip u _ _ _ hk (hraise u _ _ _ hk)
    case h_3 u hu =>
      rw [hu] at hk
      exact hskip u _ _ _ hk (RangeKeeps.refl hk.runs)
    case h_4 w dpa u hu =>
      rw [hu] at hk
      split
      · exact hskip u _ _ _ hk (hraise u _ _ _ hk)
      split
      · exact hnext u hk
      split
      case h_1 v hv => exact hnext v (hk.trans (RangeKeeps.rangeLine hk.runs (hk.started.trans hs) hv))
      case h_2 => exact hk
    case h_5 u _ _ _ _ hu =>
      rw [hu] at hk
      exact hk

end

end Sys2Proof.Machine
end

section
/-! OBLIGATIONS. Range steps run (R177 to R179). -/

namespace Sys2Proof.Machine

open Sys2Proof

/-! ## The step, once its record is read -/

/-- A step whose record is read takes its lines, and ends once they are settled. -/
def State.rangeGo (s : State) (p seq i op : Nat) (d : RangeDecl) : State :=
  let g := s.rangeRun p seq i
  if !(s.pol p).isRunning seq || !g.started || g.op ≠ op || g.done then s else
  let u := s.rangeLines p seq i d (g.length / 1024 - g.lines + 1)
  if u.rangeSettled p seq i d then
    (u.updRange p seq i fun g => { g with done := true }).endWalks (.porter d.die d.porter p seq (256 + i)) else u

theorem exec_range (s : State) (p : Pol) (seq i : Nat) {op : Nat} (hop : op < 4) :
    exec (rangeCommand p seq i op) s = .next (s.rangeStep p.val seq i op) := by
  have hcases : op = 0 ∨ op = 1 ∨ op = 2 ∨ op = 3 := by omega
  rcases hcases with rfl | rfl | rfl | rfl <;> rfl

section
variable {s : State} {p seq i op : Nat} {c : Schedule} {d : RangeDecl} (hr : (s.pol p).isRunning seq = true)
  (hsu : ((s.pol p).run seq).suspended = false) (hc : s.schedule ((s.pol p).run seq).m.schedule = some c) (hd : c.ranges[i]? = some d)
  (hh : s.held (srcPorter d.die d.porter) p = false)
include hr hsu hc hd hh

theorem State.rangeStep_started (hs : (s.rangeRun p seq i).started = true) : s.rangeStep p seq i op = s.rangeGo p seq i op d := by
  unfold State.rangeStep
  dsimp only
  have hcond : ((s.pol p).isRunning seq && !((s.pol p).run seq).suspended) = true := by rw [hr, hsu]; rfl
  rw [hcond, hc, show ((some c).bind fun c => c.ranges[i]?) = some d from hd]
  dsimp only
  rw [if_neg (ne_true_of_eq_false hh)]
  exact if_pos hs

theorem State.rangeStep_idle (hs : (s.rangeRun p seq i).started = false) (hb : s.mayBegin p seq (.range i) = false) :
    s.rangeStep p seq i op = s := by
  unfold State.rangeStep
  dsimp only
  have hcond : ((s.pol p).isRunning seq && !((s.pol p).run seq).suspended) = true := by rw [hr, hsu]; rfl
  rw [hcond, hc, show ((some c).bind fun c => c.ranges[i]?) = some d from hd]
  dsimp only
  rw [if_neg (ne_true_of_eq_false hh), if_neg (ne_true_of_eq_false (show (((s.pol p).run seq).ranges.get {} i).started = false from hs)), if_pos (by rw [hb]; rfl)]

theorem State.rangeStep_read (hs : (s.rangeRun p seq i).started = false) (hb : s.mayBegin p seq (.range i) = true) {w : Word} {dpa : Nat}
    {u : State} (hl : s.translate (.porter d.die d.porter p seq (256 + i)) p (((s.pol p).run seq).m.operands.getD d.operand (0, 0)).2 0
      ((s.pol p).run seq).m.tag = (.ok w dpa, u)) (hm : u.localMem dpa = true) :
    s.rangeStep p seq i op = if leAt (u.peek (dpaOffset dpa) 32) 16 1 ≠ op && rangeOk (u.peek (dpaOffset dpa) 32) then u
      else (u.rangeBegin p seq i d (u.peek (dpaOffset dpa) 32)).rangeGo p seq i op d := by
  unfold State.rangeStep
  dsimp only
  have hcond : ((s.pol p).isRunning seq && !((s.pol p).run seq).suspended) = true := by rw [hr, hsu]; rfl
  rw [hcond, hc, show ((some c).bind fun c => c.ranges[i]?) = some d from hd]
  dsimp only
  rw [if_neg (ne_true_of_eq_false hh), if_neg (ne_true_of_eq_false (show (((s.pol p).run seq).ranges.get {} i).started = false from hs)), if_neg (by rw [hb]; decide), hl]
  dsimp only
  rw [if_neg (by rw [hm]; decide)]
  rfl

end

theorem State.rangeGo_lines {s : State} {p seq i op : Nat} {d : RangeDecl} {g : RangeRun} (hr : (s.pol p).isRunning seq = true)
    (hg : s.rangeRun p seq i = g) (hs : g.started = true) (ho : g.op = op) (hdn : g.done = false) :
    s.rangeGo p seq i op d =
      let u := s.rangeLines p seq i d (g.length / 1024 - g.lines + 1)
      if u.rangeSettled p seq i d then
        (u.updRange p seq i fun g => { g with done := true }).endWalks (.porter d.die d.porter p seq (256 + i)) else u := by
  unfold State.rangeGo
  dsimp only
  rw [hg, if_neg (by rw [hr, hs, ho, hdn]; simp)]

/-! ## One line -/

section
variable {s : State} {p seq i fuel : Nat} {d : RangeDecl} {g : RangeRun} (hg : s.rangeRun p seq i = g)
include hg

theorem State.rangeLines_done (hl : g.length ≤ 1024 * g.lines) : s.rangeLines p seq i d fuel = s := by
  cases fuel with
  | zero => rfl
  | succ fuel =>
    have hl' : (((s.pol p).run seq).ranges.get {} i).length ≤ 1024 * (((s.pol p).run seq).ranges.get {} i).lines := by
      rw [show ((s.pol p).run seq).ranges.get {} i = g from hg]
      exact hl
    unfold State.rangeLines
    exact if_pos hl'

section
variable (hl : 1024 * g.lines < g.length) {tag : Nat} (ht : ((s.pol p).run seq).m.tag = tag)
include hl ht

section
variable {u : State} {l : Look} (hlook : s.translate (.porter d.die d.porter p seq (256 + i)) p (g.base + 1024 * g.lines)
  (if g.op = 3 then 4 else 3) tag = (l, u))
include hlook

theorem State.rangeLines_wait (hw : l = .wait) : s.rangeLines p seq i d (fuel + 1) = u := by
  have hg' : ((s.pol p).run seq).ranges.get {} i = g := hg
  unfold State.rangeLines
  dsimp only
  rw [hg', ht, if_neg (by omega), hlook, hw]

theorem State.rangeLines_denied (hw : l = .denied) (hf : g.refused = none) : s.rangeLines p seq i d (fuel + 1) =
    (((u.permission (srcPorter d.die d.porter) p (g.base + 1024 * g.lines) 0).rangeRefuse p seq i ((g.base + 1024 * g.lines) / 2 ^ 21)).rangeNext
      p seq i).rangeLines p seq i d fuel := by
  have hg' : ((s.pol p).run seq).ranges.get {} i = g := hg
  conv_lhs => unfold State.rangeLines
  dsimp only
  rw [hg', ht, if_neg (by omega), hlook, hw]
  dsimp only
  rw [if_pos (by rw [hf]; nofun)]
  rfl

variable {w : Word} {dpa : Nat} (hok : l = .ok w dpa) (hm : u.localMem dpa = true)
include hok hm

theorem State.rangeLines_taken {v : State} (hv : u.rangeLine p seq i d g (dpaOffset dpa / 1024) (g.base + 1024 * g.lines) (eHint w) = some v) :
    s.rangeLines p seq i d (fuel + 1) = (v.rangeNext p seq i).rangeLines p seq i d fuel := by
  have hg' : ((s.pol p).run seq).ranges.get {} i = g := hg
  have hmod : dpaModule dpa = u.boot.moduleId := of_decide_eq_true (Bool.and_eq_true_iff.1 hm).1
  conv_lhs => unfold State.rangeLines
  dsimp only
  rw [hg', ht, if_neg (by omega), hlook, hok]
  dsimp only
  rw [if_neg (by rw [hmod]; simp), if_neg (by rw [hm]; decide), hv]
  rfl

theorem State.rangeLines_stuck (hv : u.rangeLine p seq i d g (dpaOffset dpa / 1024) (g.base + 1024 * g.lines) (eHint w) = none) :
    s.rangeLines p seq i d (fuel + 1) = u := by
  have hg' : ((s.pol p).run seq).ranges.get {} i = g := hg
  have hmod : dpaModule dpa = u.boot.moduleId := of_decide_eq_true (Bool.and_eq_true_iff.1 hm).1
  unfold State.rangeLines
  dsimp only
  rw [hg', ht, if_neg (by omega), hlook, hok]
  dsimp only
  rw [if_neg (by rw [hmod]; simp), if_neg (by rw [hm]; decide), hv]

end
end
end

/-! ## A step that has one line left, and one that has none -/

theorem State.rangeSettled_not {s : State} {p seq i : Nat} {d : RangeDecl} {g : RangeRun} (hg : s.rangeRun p seq i = g)
    (h : 1024 * g.lines < g.length ∨ g.outstanding ≠ 0) : s.rangeSettled p seq i d = false := by
  have hg' : ((s.pol p).run seq).ranges.get {} i = g := hg
  unfold State.rangeSettled
  dsimp only
  rw [hg']
  rcases h with h | h
  · rw [decide_eq_false (by omega : ¬g.length ≤ 1024 * g.lines), Bool.and_false, Bool.false_and, Bool.false_and]
  · rw [decide_eq_false h, Bool.and_false, Bool.false_and]

theorem State.rangeSettled_of {s : State} {p seq i : Nat} {d : RangeDecl} {g : RangeRun} (hg : s.rangeRun p seq i = g) (hs : g.started = true)
    (hl : g.length ≤ 1024 * g.lines) (ho : g.outstanding = 0) (hop : g.level = 1 ∨ g.op ≠ 0) : s.rangeSettled p seq i d = true := by
  have hg' : ((s.pol p).run seq).ranges.get {} i = g := hg
  unfold State.rangeSettled
  dsimp only
  rw [hg', hs, decide_eq_true hl, decide_eq_true ho]
  rcases hop with h | h <;> simp [h]

/-- Where a step's lines are behind it, it may end: what it has done is kept. -/
theorem State.rangeEnd_keeps {u : State} {p seq i : Nat} (hr : (u.pol p).isRunning seq = true) (hs : (u.rangeRun p seq i).started = true) (d q n : Nat) :
    let t := (u.updRange p seq i fun g => { g with done := true }).endWalks (.porter d q p seq n)
    t.rangeRun p seq i = { u.rangeRun p seq i with done := true } ∧ t = { u with land := t.land, pols := t.pols } := by
  intro t
  have hk := RangeKeeps.updRange (i := i) hr hs (fun g => { g with done := true }) fun _ => rfl
  obtain ⟨h1, h2⟩ := State.endWalks_keeps hk.runs d q n i
  refine ⟨h1.trans (State.rangeRun_updRange hr _), ?_⟩
  obtain ⟨v, hv⟩ : ∃ v, v = t := ⟨_, rfl⟩
  have h2' : t = { u.updRange p seq i fun g => { g with done := true } with land := t.land, pols := t.pols } := h2
  rw [← hv] at h2' ⊢
  rw [h2']
  rfl

/-- A translation on its way changes no account. -/
theorem translate_rangeRun {s : State} {p seq i : Nat} {g : RangeRun} (hr : (s.pol p).isRunning seq = true)
    (hg : ((s.pol p).run seq).ranges.get {} i = g) (eng : EngineRef) (va acc tag : Nat) :
    let u := (s.translate eng p va acc tag).2
    (u.pol p).isRunning seq = true ∧ u.rangeRun p seq i = g ∧ u.mem = s.mem ∧ u.reqs = s.reqs ∧ u.crier = s.crier ∧ u.gran = s.gran
      ∧ u.bins = s.bins ∧ u.pols = s.pols := by
  intro u
  have hu : u = { s with land := u.land, nextId := u.nextId } := s.translate_eq _ _ _ _ _
  obtain ⟨v, hv⟩ : ∃ v, v = u := ⟨_, rfl⟩
  rw [← hv] at hu ⊢
  rw [hu]
  exact ⟨hr, hg, rfl, rfl, rfl, rfl, rfl, rfl⟩

section
variable {s : State} {p : Pol} {seq i op : Nat} {c : Schedule} {d : RangeDecl} {g : RangeRun} (hop : op < 4)
  (hr : (s.pol p).isRunning seq = true) (hsu : ((s.pol p).run seq).suspended = false)
  (hc : s.schedule ((s.pol p).run seq).m.schedule = some c) (hd : c.ranges[i]? = some d) (hh : s.held (srcPorter d.die d.porter) p = false)
  (hg : ((s.pol p).run seq).ranges.get {} i = g) (hs : g.started = true) (ho : g.op = op) (hdn : g.done = false)
include hop hr hsu hc hd hh hg hs ho hdn

/-- A step that runs takes its lines. -/
theorem exec_range_running : exec (rangeCommand p seq i op) s = .next (
    let u := s.rangeLines p seq i d (g.length / 1024 - g.lines + 1)
    if u.rangeSettled p seq i d then
      (u.updRange p seq i fun g => { g with done := true }).endWalks (.porter d.die d.porter p seq (256 + i)) else u) := by
  have hg' : s.rangeRun p seq i = g := hg
  rw [exec_range s p seq i hop, State.rangeStep_started hr hsu hc hd hh (by rw [hg']; exact hs), State.rangeGo_lines hr hg' hs ho hdn]

theorem range_waits :
    let va := g.base + 1024 * g.lines
    let look := s.translate (.porter d.die d.porter p seq (256 + i)) p va (if op = 3 then 4 else 3) ((s.pol p).run seq).m.tag
    g.lines * 1024 < g.length → look.1 = .wait → exec (rangeCommand p seq i op) s = .next look.2 := by
  intro va look hl hw
  have hg' : s.rangeRun p seq i = g := hg
  obtain ⟨-, hrg, -⟩ := translate_rangeRun hr hg (.porter d.die d.porter p seq (256 + i)) va (if op = 3 then 4 else 3) ((s.pol p).run seq).m.tag
  have hlook : s.translate (.porter d.die d.porter p seq (256 + i)) p (g.base + 1024 * g.lines) (if g.op = 3 then 4 else 3)
      ((s.pol p).run seq).m.tag = (look.1, look.2) := by rw [ho]
  have hlines := State.rangeLines_wait (fuel := g.length / 1024 - g.lines) hg' (by omega) rfl hlook hw
  rw [exec_range_running hop hr hsu hc hd hh hg hs ho hdn]
  dsimp only
  rw [hlines, if_neg (ne_true_of_eq_false (State.rangeSettled_not hrg (.inl (by omega))))]

theorem range_ends (hlv : g.level = 1 ∨ op ≠ 0) (hl : g.length ≤ 1024 * g.lines) (hout : g.outstanding = 0) :
    completes (rangeCommand p seq i op) s fun t =>
      ((t.pol p).run seq).ranges.get {} i = { g with done := true } ∧ t.mem = s.mem ∧ t.reqs = s.reqs := by
  have hg' : s.rangeRun p seq i = g := hg
  have hx := exec_range_running hop hr hsu hc hd hh hg hs ho hdn
  dsimp only at hx
  rw [State.rangeLines_done hg' hl, if_pos (State.rangeSettled_of hg' hs hl hout (by rw [ho]; exact hlv))] at hx
  obtain ⟨h1, h2⟩ := State.rangeEnd_keeps (i := i) hr (by rw [hg']; exact hs) d.die d.porter (256 + i)
  rw [hg'] at h1
  exact completes_of_exec hx ⟨h1, by rw [h2], by rw [h2]⟩

/-- The last line of a step becomes a request of its home. -/
theorem range_asks (hlen : g.length = 1024 * (g.lines + 1)) :
    let look := s.translate (.porter d.die d.porter p seq (256 + i)) p (g.base + 1024 * g.lines) (if op = 3 then 4 else 3) ((s.pol p).run seq).m.tag
    ∀ w dpa, look.1 = .ok w dpa → look.2.localMem dpa = true → op ≠ 0 ∨ g.level = 1 →
      completes (rangeCommand p seq i op) s fun t =>
        (∃ r, t.reqs = s.reqs ++ [r] ∧ r.op = .range ([RangeOp.prefetch, .flush, .cleanInvalidate, .discard].getD op .flush) (g.level = 1)
          ∧ r.line = dpaOffset dpa / 1024 ∧ r.pol = p.val ∧ r.who = .step p.val seq i
          ∧ r.hint = if g.hint = 0 then eHint w else g.hint) ∧
        ((t.pol p).run seq).ranges.get {} i = { g with lines := g.lines + 1, outstanding := g.outstanding + 1 }
          ∧ t.mem = s.mem ∧ t.gran = s.gran ∧ t.bins = s.bins ∧ ∀ q, q ≠ p.val → t.pol q = s.pol q := by
  intro look w dpa hok hm hlv
  have hg' : s.rangeRun p seq i = g := hg
  obtain ⟨hur, hrg, k1, k2, -, k4, k5, k6⟩ := translate_rangeRun hr hg (.porter d.die d.porter p seq (256 + i)) (g.base + 1024 * g.lines)
    (if op = 3 then 4 else 3) ((s.pol p).run seq).m.tag
  obtain ⟨u, hu⟩ : ∃ u, u = look.2 := ⟨_, rfl⟩
  have hlook : s.translate (.porter d.die d.porter p seq (256 + i)) p (g.base + 1024 * g.lines) (if g.op = 3 then 4 else 3)
      ((s.pol p).run seq).m.tag = (look.1, u) := by rw [ho, hu]
  change (look.2.pol p).isRunning seq = true at hur
  change look.2.rangeRun p seq i = g at hrg
  rw [← hu] at hur hrg hm
  have hk : u.mem = s.mem ∧ u.reqs = s.reqs ∧ u.gran = s.gran ∧ u.bins = s.bins ∧ u.pols = s.pols := by
    rw [hu]
    exact ⟨k1, k2, k4, k5, k6⟩
  obtain ⟨k1, k2, k4, k5, k6⟩ := hk
  obtain ⟨a, ha⟩ : ∃ a, a = u.updRange p seq i fun g => { g with outstanding := g.outstanding + 1 } := ⟨_, rfl⟩
  have hka := RangeKeeps.updRange (i := i) hur (by rw [hrg]; exact hs) (fun g => { g with outstanding := g.outstanding + 1 }) fun _ => rfl
  have hga : a.rangeRun p seq i = { g with outstanding := g.outstanding + 1 } := by rw [ha, State.rangeRun_updRange hur, hrg]
  rw [← ha] at hka
  obtain ⟨r, r1, r2, r3, r4, r5, r6⟩ := a.newReq_hinted (.range (rangeOp g.op) (g.level = 1)) (dpaOffset dpa / 1024) p (.step p seq i)
    (g.base + 1024 * g.lines) (if g.hint = 0 then eHint w else g.hint)
  obtain ⟨v, hv⟩ : ∃ v, v = a.newReq (.range (rangeOp g.op) (g.level = 1)) (dpaOffset dpa / 1024) p (.step p seq i)
    (g.base + 1024 * g.lines) (if g.hint = 0 then eHint w else g.hint) := ⟨_, rfl⟩
  rw [← hv] at r6
  have hvr : (v.pol p).isRunning seq = true := by
    rw [r6]
    exact hka.runs
  have hgv : v.rangeRun p seq i = { g with outstanding := g.outstanding + 1 } := by
    rw [r6]
    exact hga
  have hline := State.rangeLine_asks (s := u) (p := p) (seq := seq) (i := i) (d := d) (line := dpaOffset dpa / 1024)
    (va := g.base + 1024 * g.lines) (hint := eHint w) (by omega : g.op < 4) (by rw [ho]; exact hlv)
  rw [← ha, ← hv] at hline
  have hgn : (v.rangeNext p seq i).rangeRun p seq i = { g with lines := g.lines + 1, outstanding := g.outstanding + 1 } := by
    rw [State.rangeNext, State.rangeRun_updRange hvr, hgv]
  have hx := exec_range_running hop hr hsu hc hd hh hg hs ho hdn
  dsimp only at hx
  rw [State.rangeLines_taken hg' (by omega) rfl hlook hok hm hline, State.rangeLines_done hgn (by dsimp only; omega),
    if_neg (ne_true_of_eq_false (State.rangeSettled_not hgn (.inr (by dsimp only; omega))))] at hx
  have hfr : v.mem = s.mem ∧ v.reqs = s.reqs ++ [r] ∧ v.gran = s.gran ∧ v.bins = s.bins ∧ ∀ q, q ≠ p.val → v.pol q = s.pol q := by
    rw [r6, ← k1, ← k2, ← k4, ← k5, ha]
    refine ⟨rfl, rfl, rfl, rfl, fun q hq => ?_⟩
    have : u.pol q = s.pol q := by rw [State.pol, k6, State.pol]
    exact (State.pol_updRun_other u p seq q _ hq).trans this
  obtain ⟨f1, f2, f3, f4, f5⟩ := hfr
  refine completes_of_exec hx ⟨⟨r, f2, ?_, r2, r3, r4, r5⟩, hgn, f1, f3, f4, fun q hq => ?_⟩
  · rw [r1, ho]
    rfl
  · exact (State.pol_updRun_other v p seq q _ hq).trans (f5 q hq)

/-- The last line of a PREFETCH at LEVEL 0 reads the Bin, or waits where the Bin has no way for it. -/
theorem range_reads (hlen : g.length = 1024 * (g.lines + 1)) :
    let look := s.translate (.porter d.die d.porter p seq (256 + i)) p (g.base + 1024 * g.lines) (if op = 3 then 4 else 3) ((s.pol p).run seq).m.tag
    ∀ w dpa, look.1 = .ok w dpa → look.2.localMem dpa = true → op = 0 → g.level ≠ 1 →
      let line := dpaOffset dpa / 1024
      let u := look.2.binRead d.die p line 0xFF (if g.hint = 0 then eHint w else g.hint)
      ((u.binFind d.die p line).isNone = true → (u.mill d.die).fenced = false → u.homeFenced line = false →
        exec (rangeCommand p seq i op) s = .next look.2) ∧
      ((u.binFind d.die p line).isSome = true → completes (rangeCommand p seq i op) s fun t =>
        (((t.pol p).run seq).ranges.get {} i).lines = g.lines + 1 ∧ t.bins = u.bins ∧ t.net = u.net ∧ t.reqs = u.reqs) := by
  intro look w dpa hok hm h0 hlv line u
  have hg' : s.rangeRun p seq i = g := hg
  obtain ⟨hur, hrg, -⟩ := translate_rangeRun hr hg (.porter d.die d.porter p seq (256 + i)) (g.base + 1024 * g.lines)
    (if op = 3 then 4 else 3) ((s.pol p).run seq).m.tag
  change (look.2.pol p).isRunning seq = true at hur
  change look.2.rangeRun p seq i = g at hrg
  have hlook : s.translate (.porter d.die d.porter p seq (256 + i)) p (g.base + 1024 * g.lines) (if g.op = 3 then 4 else 3)
      ((s.pol p).run seq).m.tag = (look.1, look.2) := by rw [ho]
  have hline := State.rangeLine_reads (s := look.2) (p := p) (seq := seq) (i := i) (d := d) (line := line) (va := g.base + 1024 * g.lines)
    (hint := eHint w) (ho.trans h0) hlv
  have hx := exec_range_running hop hr hsu hc hd hh hg hs ho hdn
  dsimp only at hx hline
  refine ⟨fun h1 h2 h3 => ?_, fun h1 => ?_⟩
  · rw [if_neg] at hline
    · rw [State.rangeLines_stuck hg' (by omega) rfl hlook hok hm hline,
        if_neg (ne_true_of_eq_false (State.rangeSettled_not hrg (.inl (by omega))))] at hx
      exact hx
    · have h1' : (u.binFind d.die p line).isSome = false := by
        rw [Option.isNone_iff_eq_none.1 h1]
        rfl
      show ¬((u.binFind d.die p line).isSome || (u.mill d.die).fenced || u.homeFenced line) = true
      rw [h1', h2, h3]
      decide
  · rw [if_pos (by rw [show Option.isSome _ = true from h1]; rfl)] at hline
    have hku := RangeKeeps.rangeLine hur (by rw [hrg]; exact hs) hline
    have hgu : u.rangeRun p seq i = g := by
      have : (u.pol p).running = (look.2.pol p).running := congrFun (State.binRead_runs ..) p.val
      rw [State.rangeRun, Polder.run, this]
      exact hrg
    have hkn := RangeKeeps.next (i := i) hku.runs (by rw [hgu]; exact hs)
    have hgn : (u.rangeNext p seq i).rangeRun p seq i = { g with lines := g.lines + 1 } := by
      rw [State.rangeNext, State.rangeRun_updRange hku.runs]
      exact congrArg (fun g : RangeRun => { g with lines := g.lines + 1 }) hgu
    rw [State.rangeLines_taken hg' (by omega) rfl hlook hok hm hline, State.rangeLines_done hgn (by dsimp only; omega)] at hx
    obtain ⟨v, hv⟩ : ∃ v, v = u.rangeNext p seq i := ⟨_, rfl⟩
    have hvf : v.bins = u.bins ∧ v.net = u.net ∧ v.reqs = u.reqs := by
      rw [hv]
      exact ⟨rfl, rfl, rfl⟩
    have hvr : (v.pol p).isRunning seq = true := by rw [hv]; exact hkn.runs
    rw [← hv] at hgn
    have hx' : exec (rangeCommand p seq i op) s = .next (if v.rangeSettled p seq i d then
      (v.updRange p seq i fun g => { g with done := true }).endWalks (.porter d.die d.porter p seq (256 + i)) else v) := by
      rw [hv]
      exact hx
    split at hx'
    · obtain ⟨e1, e2⟩ := State.rangeEnd_keeps (i := i) hvr (by rw [hgn]; exact hs) d.die d.porter (256 + i)
      rw [hgn] at e1
      exact completes_of_exec hx' ⟨(congrArg RangeRun.lines e1 :), by rw [e2]; exact hvf.1, by rw [e2]; exact hvf.2.1, by rw [e2]; exact hvf.2.2⟩
    · exact completes_of_exec hx' ⟨(congrArg RangeRun.lines hgn :), hvf⟩

/-- A granule without the permission is passed over, with PERMISSION. -/
theorem range_denied (hlen : g.length = 1024 * (g.lines + 1)) :
    let look := s.translate (.porter d.die d.porter p seq (256 + i)) p (g.base + 1024 * g.lines) (if op = 3 then 4 else 3) ((s.pol p).run seq).m.tag
    look.1 = .denied → g.refused = none → completes (rangeCommand p seq i op) s fun t =>
      (((t.pol p).run seq).ranges.get {} i).lines = g.lines + 1 ∧ t.reqs = s.reqs ∧ t.mem = s.mem
        ∧ ∃ e ∈ t.crier.band, e.code = .permission ∧ e.book = p.val ∧ e.source = srcPorter d.die d.porter := by
  intro look hw hrf
  have hg' : s.rangeRun p seq i = g := hg
  obtain ⟨hur, hrg, k1, k2, -⟩ := translate_rangeRun hr hg (.porter d.die d.porter p seq (256 + i)) (g.base + 1024 * g.lines)
    (if op = 3 then 4 else 3) ((s.pol p).run seq).m.tag
  change (look.2.pol p).isRunning seq = true at hur
  change look.2.rangeRun p seq i = g at hrg
  change look.2.mem = s.mem at k1
  change look.2.reqs = s.reqs at k2
  have hlook : s.translate (.porter d.die d.porter p seq (256 + i)) p (g.base + 1024 * g.lines) (if g.op = 3 then 4 else 3)
      ((s.pol p).run seq).m.tag = (look.1, look.2) := by rw [ho]
  obtain ⟨a, ha⟩ : ∃ a, a = look.2.permission (srcPorter d.die d.porter) p (g.base + 1024 * g.lines) 0 := ⟨_, rfl⟩
  have hax : a.mem = s.mem ∧ a.reqs = s.reqs ∧ (a.pol p).isRunning seq = true ∧ a.rangeRun p seq i = g
      ∧ ∃ e ∈ a.crier.band, e.code = .permission ∧ e.book = p.val ∧ e.source = srcPorter d.die d.porter := by
    rw [ha]
    exact ⟨k1, k2, hur, hrg, _, List.mem_append_right _ (List.mem_singleton.2 rfl), rfl, rfl, rfl⟩
  obtain ⟨a1, a2, a3, a4, a5⟩ := hax
  obtain ⟨b, hb⟩ : ∃ b, b = a.rangeRefuse p seq i ((g.base + 1024 * g.lines) / 2 ^ 21) := ⟨_, rfl⟩
  have hkb := RangeKeeps.refuse (i := i) a3 (by rw [a4]; exact hs) ((g.base + 1024 * g.lines) / 2 ^ 21)
  rw [← hb] at hkb
  have hgb : b.rangeRun p seq i = { g with refused := some ((g.base + 1024 * g.lines) / 2 ^ 21) } := by
    rw [hb, State.rangeRefuse, State.rangeRun_updRange a3, a4]
  obtain ⟨v, hv⟩ : ∃ v, v = b.rangeNext p seq i := ⟨_, rfl⟩
  have hkv := RangeKeeps.next (i := i) hkb.runs (by rw [hgb]; exact hs)
  rw [← hv] at hkv
  have hgv : v.rangeRun p seq i = { g with refused := some ((g.base + 1024 * g.lines) / 2 ^ 21), lines := g.lines + 1 } := by
    rw [hv, State.rangeNext, State.rangeRun_updRange hkb.runs, hgb]
  have hvf : v.mem = s.mem ∧ v.reqs = s.reqs ∧ v.crier = a.crier := by
    rw [hv, hb]
    exact ⟨a1, a2, rfl⟩
  have hx := exec_range_running hop hr hsu hc hd hh hg hs ho hdn
  dsimp only at hx
  rw [State.rangeLines_denied hg' (by omega) rfl hlook hw hrf, ← ha, ← hb, ← hv, State.rangeLines_done hgv (by dsimp only; omega)] at hx
  split at hx
  · obtain ⟨e1, e2⟩ := State.rangeEnd_keeps (i := i) hkv.runs (by rw [hgv]; exact hs) d.die d.porter (256 + i)
    rw [hgv] at e1
    refine completes_of_exec hx ⟨(congrArg RangeRun.lines e1 :), by rw [e2]; exact hvf.2.1, by rw [e2]; exact hvf.1, ?_⟩
    rw [e2]
    show ∃ e ∈ v.crier.band, _
    rw [hvf.2.2]
    exact a5
  · refine completes_of_exec hx ⟨(congrArg RangeRun.lines hgv :), hvf.2.1, hvf.1, ?_⟩
    rw [hvf.2.2]
    exact a5

end

end Sys2Proof.Machine
end

section
/-! OBLIGATIONS. Range steps begin and end at their level (R177 to R179). -/

namespace Sys2Proof.Machine

open Sys2Proof

/-- A record that R177 does not allow ends its manifest. -/
theorem State.rangeBegin_bad {s : State} {p seq i : Nat} {d : RangeDecl} {raw : List Byte} (h : rangeOk raw = false) :
    s.rangeBegin p seq i d raw = s.rejectRun p seq := if_pos (by rw [h]; rfl)

/-- The account of a step as its record begins it. -/
def rangeRecord (d : RangeDecl) (raw : List Byte) : RangeRun := {
  started := true, base := leAt raw 0 8
  length := if d.limit < leAt raw 8 8 then d.limit / 1024 * 1024 else leAt raw 8 8
  op := leAt raw 16 1, level := leAt raw 17 1, hint := leAt raw 18 1 }

theorem State.rangeBegin_good {s : State} {p seq i : Nat} {d : RangeDecl} {raw : List Byte} (hr : (s.pol p).isRunning seq = true)
    (h : rangeOk raw = true) :
    ((s.rangeBegin p seq i d raw).pol p).isRunning seq = true ∧ (s.rangeBegin p seq i d raw).rangeRun p seq i = rangeRecord d raw
      ∧ (d.limit < leAt raw 8 8 → ∃ e ∈ (s.rangeBegin p seq i d raw).crier.band, e.code = .rangeClipped ∧ e.book = p) := by
  obtain ⟨v, hv⟩ : ∃ v, v = if d.limit < leAt raw 8 8 then
    s.raiseOwn .rangeClipped (srcPorter d.die d.porter) p (leBytes 4 ((s.pol p).run seq).m.tag) else s := ⟨_, rfl⟩
  have hb : s.rangeBegin p seq i d raw = v.updRange p seq i fun _ => rangeRecord d raw := by
    rw [hv]
    unfold State.rangeBegin
    rw [if_neg (by rw [h]; decide)]
    by_cases hc : d.limit < leAt raw 8 8
    · simp only [hc, decide_true, if_true]
      simp only [rangeRecord, hc, if_true]
    · simp only [hc, decide_false, if_false, Bool.false_eq_true]
      simp only [rangeRecord, hc, if_false]
  have hvr : (v.pol p).isRunning seq = true := by
    rw [hv]
    split <;> exact hr
  rw [hb]
  refine ⟨State.updRange_runs hvr _ (RangeRun.ne_default_of_started rfl), State.rangeRun_updRange hvr _, fun hc => ?_⟩
  rw [hv, if_pos hc]
  exact ⟨_, List.mem_append_right _ (List.mem_singleton.2 rfl), rfl, rfl⟩

/-- A step that goes on keeps its manifest, its record and every event. -/
theorem RangeKeeps.rangeGo {s : State} {p seq i op : Nat} {d : RangeDecl} (hr : (s.pol p).isRunning seq = true)
    (hs : (s.rangeRun p seq i).started = true) : RangeKeeps p seq i s (s.rangeGo p seq i op d) := by
  unfold State.rangeGo
  dsimp only
  split
  · exact RangeKeeps.refl hr
  have hk := RangeKeeps.rangeLines (d := d) ((s.rangeRun p seq i).length / 1024 - (s.rangeRun p seq i).lines + 1) hr hs
  obtain ⟨u, hu⟩ : ∃ u, u = s.rangeLines p seq i d ((s.rangeRun p seq i).length / 1024 - (s.rangeRun p seq i).lines + 1) := ⟨_, rfl⟩
  rw [← hu] at hk ⊢
  split
  · have hd := RangeKeeps.updRange (i := i) hk.runs (hk.started.trans hs) (fun g => { g with done := true }) fun _ => rfl
    obtain ⟨e1, e2⟩ := State.endWalks_keeps hd.runs d.die d.porter (256 + i) i
    have hend := State.endWalks_running hd.runs (hd.started.trans (hk.started.trans hs)) d.die d.porter (256 + i)
    refine hk.trans (hd.trans ⟨hend, by rw [e1], ?_⟩)
    rw [e2]
  · exact hk

/-- A step has begun as its record says. -/
def BegunAs (p seq i op : Nat) (d : RangeDecl) (raw : List Byte) (t : State) : Prop :=
  let g := ((t.pol p).run seq).ranges.get {} i
  g.started = true ∧ g.op = op ∧ g.level = leAt raw 17 1 ∧ g.hint = leAt raw 18 1 ∧ g.base = leAt raw 0 8
    ∧ g.length = (if d.limit < leAt raw 8 8 then d.limit / 1024 * 1024 else leAt raw 8 8)
    ∧ (d.limit < leAt raw 8 8 → ∃ e ∈ t.crier.band, e.code = .rangeClipped ∧ e.book = p)

theorem range_begun {u : State} {p seq i op : Nat} {d : RangeDecl} {raw : List Byte} (hur : (u.pol p).isRunning seq = true)
    (hgood : rangeOk raw = true) (hop : leAt raw 16 1 = op) : BegunAs p seq i op d raw ((u.rangeBegin p seq i d raw).rangeGo p seq i op d) := by
  obtain ⟨h1, h2, h3⟩ := State.rangeBegin_good (i := i) (d := d) hur hgood
  have hk := RangeKeeps.rangeGo (op := op) (d := d) h1 (by rw [h2]; rfl)
  obtain ⟨v, hv⟩ : ∃ v, v = (u.rangeBegin p seq i d raw).rangeGo p seq i op d := ⟨_, rfl⟩
  have hrec := hk.record
  rw [h2, ← hv] at hrec
  rw [← hv] at hk ⊢
  exact ⟨(congrArg RangeRun.started hrec :), ((congrArg RangeRun.op hrec :)).trans hop, (congrArg RangeRun.level hrec :),
    (congrArg RangeRun.hint hrec :), (congrArg RangeRun.base hrec :), (congrArg RangeRun.length hrec :), fun hcl =>
      let ⟨e, he, hcode⟩ := h3 hcl
      ⟨e, hk.band.subset he, hcode⟩⟩

theorem range_begins (s : State) (p : Pol) (seq i op : Nat) (c : Schedule) (d : RangeDecl) (hop : op < 4)
    (hr : (s.pol p).isRunning seq = true) (hsu : ((s.pol p).run seq).suspended = false)
    (hc : s.schedule ((s.pol p).run seq).m.schedule = some c) (hd : c.ranges[i]? = some d) (hh : s.held (srcPorter d.die d.porter) p = false)
    (hs : (((s.pol p).run seq).ranges.get {} i).started = false) :
    let va := (((s.pol p).run seq).m.operands.getD d.operand (0, 0)).2
    let look := s.translate (.porter d.die d.porter p seq (256 + i)) p va 0 ((s.pol p).run seq).m.tag
    (s.mayBegin p seq (.range i) = false → exec (rangeCommand p seq i op) s = .next s) ∧
    (s.mayBegin p seq (.range i) = true → ∀ w dpa, look.1 = .ok w dpa → look.2.localMem dpa = true →
      let raw := look.2.peek (dpaOffset dpa) 32
      (rangeOk raw = false → exec (rangeCommand p seq i op) s = .next (look.2.rejectRun p seq)) ∧
      (rangeOk raw = true → leAt raw 16 1 = op → completes (rangeCommand p seq i op) s fun t =>
        let g := ((t.pol p).run seq).ranges.get {} i
        g.started = true ∧ g.op = op ∧ g.level = leAt raw 17 1 ∧ g.hint = leAt raw 18 1 ∧ g.base = leAt raw 0 8
          ∧ g.length = (if d.limit < leAt raw 8 8 then d.limit / 1024 * 1024 else leAt raw 8 8)
          ∧ (d.limit < leAt raw 8 8 → ∃ e ∈ t.crier.band, e.code = .rangeClipped ∧ e.book = p.val))) := by
  intro va look
  have hx := exec_range s p seq i hop
  refine ⟨fun hb => ?_, fun hb w dpa hok hm => ?_⟩
  · rw [hx, State.rangeStep_idle hr hsu hc hd hh hs hb]
  intro raw
  have hlook : s.translate (.porter d.die d.porter p seq (256 + i)) p va 0 ((s.pol p).run seq).m.tag = (.ok w dpa, look.2) :=
    Prod.ext hok rfl
  rw [State.rangeStep_read hr hsu hc hd hh hs hb hlook hm] at hx
  obtain ⟨hur, -⟩ := translate_rangeRun (i := i) hr rfl (.porter d.die d.porter p seq (256 + i)) va 0 ((s.pol p).run seq).m.tag
  refine ⟨fun hbad => ?_, fun hgood hopr => ?_⟩
  · have hend : ((look.2.rejectRun p seq).pol p).isRunning seq = false := State.fenceRun_ends _ _ _
    rw [if_neg (by rw [show rangeOk _ = false from hbad, Bool.and_false]; decide), State.rangeBegin_bad hbad] at hx
    rw [hx]
    exact congrArg Host.Outcome.next (if_pos (by rw [hend]; rfl))
  · rw [if_neg (by rw [show leAt _ 16 1 = op from hopr]; simp)] at hx
    obtain ⟨raw', hraw⟩ : ∃ raw', raw' = raw := ⟨_, rfl⟩
    change exec (rangeCommand p seq i op) s = .next ((look.2.rangeBegin p seq i d raw).rangeGo p seq i op d) at hx
    show completes _ _ (BegunAs p seq i op d raw)
    rw [← hraw] at hx hgood hopr ⊢
    exact completes_of_exec hx (range_begun hur hgood hopr)

/-- DISCARD marks its own line alone, and changes no byte. -/
theorem discard_marks (s : State) (r : HomeReq) (g : Bool) (hh : s.homeFenced r.line = false) (hs : s.stackFenced r.line = false)
    (hop : r.op = .range .discard g) : (s.perform r).mem = s.mem ∧ ∀ l, l ≠ r.line → (s.perform r).mark l = s.mark l := by
  have ht : s.perform r = (s.homeDiscard r.line 0xFF g).answer r [] 0 := by
    unfold State.perform
    rw [hh, if_neg Bool.false_ne_true, hs, Bool.false_and, if_neg Bool.false_ne_true, hop]
  have hst : (s.perform r).still = (s.homeDiscard r.line 0xFF g).still := by rw [ht, State.answer_still]
  refine ⟨(State.mem_of_still hst).trans (s.homeDiscard_mem _ _ _), fun l hl => ?_⟩
  rw [State.mark, State.marks_of_still hst]
  refine (State.mark_updMark_other _ _ _ l hl).trans ?_
  split
  · split <;> rfl
  · rfl

theorem rangeOk_fields (raw : List Byte) (h : rangeOk raw = true) :
    leAt raw 0 8 % 1024 = 0 ∧ leAt raw 8 8 % 1024 = 0 ∧ 1024 ≤ leAt raw 8 8 ∧ leAt raw 16 1 < 4 ∧ leAt raw 17 1 < 2 := by
  simp only [rangeOk, Bool.and_eq_true, decide_eq_true_eq] at h
  obtain ⟨⟨⟨⟨⟨⟨⟨h1, -⟩, h2⟩, h3⟩, h4⟩, h5⟩, -⟩, -⟩ := h
  exact ⟨h1, h2, h3, h4, h5⟩

/-- Settles O44. -/
theorem rangeStepsRun : Obligations.RangeStepsRun := by
  unfold Obligations.RangeStepsRun
  refine ⟨fun s p seq i op c d g hop hr hsu hc hd hh hg hs ho hdn => ?_, range_begins, discard_marks, rangeOk_fields⟩
  exact ⟨range_waits hop hr hsu hc hd hh hg hs ho hdn, fun hlen => ⟨range_asks hop hr hsu hc hd hh hg hs ho hdn hlen,
    range_reads hop hr hsu hc hd hh hg hs ho hdn hlen, range_denied hop hr hsu hc hd hh hg hs ho hdn hlen⟩,
    fun hlv hl hout => range_ends hop hr hsu hc hd hh hg hs ho hdn (hlv.symm.imp id id).symm hl hout⟩

end Sys2Proof.Machine
end

section
/-! SUPPORT. The stages that the module reports, and what the tests of Stage 2 find (chapter 15). -/

namespace Sys2Proof.Machine

open Sys2Proof

/-! ## A stage is reported -/

theorem State.msixSend_form (s : State) (port fn v : Nat) : ∃ p q, s.msixSend port fn v = { s with ports := p, quays := q } := by
  unfold State.msixSend
  dsimp only
  split
  · exact ⟨s.ports, s.quays, rfl⟩
  · split
    · exact ⟨_, s.quays, rfl⟩
    · exact ⟨s.ports, _, rfl⟩

theorem State.stageVector_form (s : State) : ∃ p q, s.stageVector = { s with ports := p, quays := q } := by
  obtain ⟨p, q, h⟩ := s.msixSend_form 0 0 2
  obtain ⟨p', q', h'⟩ := (s.msixSend 0 0 2).msixSend_form 1 0 2
  refine ⟨p', q', ?_⟩
  rw [State.stageVector, h', h]

theorem State.enterStage_form (s : State) (n : Nat) :
    ∃ ms p q, s.enterStage n = { s with boot := { s.boot with stage := n, atMs := ms }, ports := p, quays := q } := by
  obtain ⟨p, q, h⟩ := ({ s with boot := { s.boot with
      stage := n, atMs := min 0xFFFFFFFF ((s.clock - s.boot.goodAt) / 1000000) } } : State).stageVector_form
  exact ⟨_, p, q, h⟩

/-! ## Folds over numbers -/

/-- A fold that visits each number once brings the element of each to what its own step gives. -/
theorem foldl_range_get {σ α : Type} (get : σ → Nat → α) (step : σ → Nat → σ) (f : Nat → α → α) (hself : ∀ s i, get (step s i) i = f i (get s i))
    (hother : ∀ s i j, j ≠ i → get (step s i) j = get s j) (s : σ) (n j : Nat) (hj : j < n) :
    get ((List.range n).foldl step s) j = f j (get s j) :=
  foldl_nodup_reaches step (fun t => get t j = get s j) (fun t => get t j = f j (get s j)) j _ List.nodup_range (List.mem_range.2 hj)
    (fun t i hi ht => (hother t i j hi.symm).trans ht) (fun t ht => by rw [hself, ht]) (fun t i hi ht => (hother t i j hi.symm).trans ht) s rfl

/-! ## Stage 1 -/

theorem State.setMeas_form (s : State) (i : Nat) (d : List Byte) : ∃ l, s.setMeas i d = { s with boot := { s.boot with meas := l } } := ⟨_, rfl⟩

/-- The optical engines' lasers go on, as far as their engines do not stand shut down. -/
def State.lightLasers (s : State) : State :=
  (List.range 8).foldl (fun s m => s.updEngine m fun x => { x with laserEn := !x.shutdown }) s

theorem State.boot_lightLasers (s : State) : s.lightLasers.boot = s.boot :=
  foldl_keeps_proj State.boot (fun (s : State) m => s.updEngine m fun x => { x with laserEn := !x.shutdown }) (fun _ _ => rfl) _ _

theorem State.nv_lightLasers (s : State) : s.lightLasers.nv = s.nv :=
  foldl_keeps_proj State.nv (fun (s : State) m => s.updEngine m fun x => { x with laserEn := !x.shutdown }) (fun _ _ => rfl) _ _

theorem State.engine_lightLasers (s : State) (m : Nat) (hm : m < 8) : (s.lightLasers.engine m).laserEn = !(s.engine m).shutdown := by
  unfold State.lightLasers
  rw [foldl_range_get State.engine _ (fun _ (x : OptEngine) => { x with laserEn := !x.shutdown }) (fun t i => State.engine_updEngine t i _)
    (fun t i j hj => State.engine_updEngine_other t i _ j hj) s 8 m hm]

theorem State.stage1_eq (s : State) : ∃ a b, s.stage1 = ((s.setMeas 1 a).setMeas 2 b).lightLasers.enterStage 1 := ⟨_, _, rfl⟩

theorem State.stage1_acts (s : State) : s.stage1.boot.stage = 1 ∧ s.stage1.nv = s.nv ∧ s.stage1.boot.failed = s.boot.failed
    ∧ s.stage1.boot.fail = s.boot.fail ∧ ∀ m, m < 8 → (s.stage1.engine m).laserEn = !(s.engine m).shutdown := by
  obtain ⟨a, b, h⟩ := s.stage1_eq
  obtain ⟨u, hu⟩ : ∃ u, u = (s.setMeas 1 a).setMeas 2 b := ⟨_, rfl⟩
  have hn : u.nv = s.nv := hu ▸ rfl
  have hb : u.boot.failed = s.boot.failed ∧ u.boot.fail = s.boot.fail := hu ▸ ⟨rfl, rfl⟩
  have hg : u.engines = s.engines := hu ▸ rfl
  have hw : ∀ m, m < 8 → (u.lightLasers.engine m).laserEn = !(s.engine m).shutdown := fun m hm => by
    rw [State.engine_lightLasers u m hm, State.engine, hg, State.engine]
  rw [← State.nv_lightLasers] at hn
  rw [← State.boot_lightLasers] at hb
  rw [h, ← hu]
  clear hg hu h
  generalize u.lightLasers = v at hn hb hw ⊢
  obtain ⟨ms, p, q, he⟩ := v.enterStage_form 1
  rw [he]
  exact ⟨rfl, hn, hb.1, hb.2, hw⟩

/-! ## Stage 2 -/

theorem State.fenceKeel_boot (s : State) (k cause : Nat) : (s.fenceKeel k cause).boot = s.boot := by
  by_cases h : (s.keel k).fenced = true
  · rw [State.fenceKeel, if_pos h]
  · exact (s.fenceKeel_fences k cause (Bool.eq_false_of_not_eq_true h)).2.2.1

theorem State.fenceDie_boot (s : State) (d cause : Nat) : (s.fenceDie d cause).boot = s.boot := by
  by_cases h : (s.mill d).fenced = true
  · rw [State.fenceDie, if_pos h]
    rfl
  · rw [State.boot_of_works (s.fenceDie_works d cause (Bool.eq_false_of_not_eq_true h))]
    rfl

theorem State.trainStacks_boot (s : State) (f : Stage2Find) : (s.trainStacks f).boot = s.boot := by
  unfold State.trainStacks
  dsimp only
  rw [foldl_keeps_proj State.boot _ (fun _ _ => State.updKeel_boot _ _ _), foldl_keeps_proj State.boot _ (fun _ _ => State.updStack_boot _ _ _)]

/-- The bundles as their tests leave them. -/
def State.bundleTests (s : State) (f : Stage2Find) : SMap BundleSt := (List.range 2088).map fun b => (b, s.tested f b)

/-- What the tests of Stage 2 found is taken. -/
def State.takeFind (s : State) (f : Stage2Find) : State :=
  { s with
    bundles := s.bundleTests f
    boot := { s.boot with paths := f.paths, granaryOk := f.granaryOk } }

theorem State.bundles_takeFind (s : State) (f : Stage2Find) : (s.takeFind f).bundles = s.bundleTests f := by
  simp only [State.takeFind]

theorem State.keel_takeFind (s : State) (f : Stage2Find) (k : Nat) : (s.takeFind f).keel k = s.keel k := by
  simp only [State.keel, State.takeFind]

theorem State.boot_takeFind (s : State) (f : Stage2Find) : (s.takeFind f).boot = { s.boot with paths := f.paths, granaryOk := f.granaryOk } := by
  simp only [State.takeFind]

theorem State.nv_takeFind (s : State) (f : Stage2Find) : (s.takeFind f).nv = s.nv := by
  simp only [State.takeFind]

/-- A Keel that lost its paths or bundles is fenced. -/
def State.fenceCut (s : State) (k : Nat) : State :=
  match s.keelCause k with
  | some cause => s.fenceKeel k cause
  | none => s

/-- A die that lost a bundle is fenced. -/
def State.fenceBroken (s : State) (d : Nat) : State :=
  if s.bundles.any fun e => e.1 / 256 = d && e.2.state = 2 then s.fenceDie d 2 else s

/-- Keels and dies that lost their paths or bundles are fenced. -/
def State.fenceFound (s : State) : State := (List.range 8).foldl State.fenceBroken ((List.range 4).foldl State.fenceCut s)

theorem State.fenceFound_boot (s : State) : s.fenceFound.boot = s.boot := by
  unfold State.fenceFound
  refine (foldl_keeps_proj State.boot _ (fun t d => ?_) _ _).trans (foldl_keeps_proj State.boot _ (fun t k => ?_) _ _)
  · unfold State.fenceBroken
    split
    · exact t.fenceDie_boot d 2
    · rfl
  · unfold State.fenceCut
    split
    · exact t.fenceKeel_boot k _
    · rfl

/-- The hold group's measurement. -/
def State.holdRecord (s : State) (base : Nat) : List Nat :=
  ((s.bundles.filter fun e => e.2.chosen ≠ 0).flatMap fun e => [e.1, e.2.chosen])
    ++ (List.range 24).map (fun i => (s.stack i).out.toNat) ++ [base]

/-- Stage 2 is reached with a hold group at `base`. -/
def State.holdAt (s : State) (base : Nat) : State :=
  let s := s.zero fun a => base ≤ a && a < base + 2 * halfHold
  let s := { s with boot := { s.boot with holdBase := some base } }
  (s.setMeas 6 (Crypto.shake256 (Config.measuredBytes 6 (s.holdRecord base)))).enterStage 2

theorem State.holdAt_eq (s : State) (base : Nat) : ∃ m k d, s.holdAt base =
    (({ s with mem := m, marks := k, boot := { s.boot with holdBase := some base } } : State).setMeas 6 d).enterStage 2 := ⟨_, _, _, rfl⟩

theorem State.holdAt_form (s : State) (base : Nat) : ∃ m k ms l p q, s.holdAt base =
    { s with mem := m, marks := k, boot := { s.boot with stage := 2, atMs := ms, holdBase := some base, meas := l }, ports := p, quays := q } := by
  obtain ⟨m, k, d, h⟩ := s.holdAt_eq base
  obtain ⟨l, hl⟩ := ({ s with mem := m, marks := k, boot := { s.boot with holdBase := some base } } : State).setMeas_form 6 d
  rw [h, hl]
  obtain ⟨ms, p, q, he⟩ := State.enterStage_form { s with mem := m, marks := k, boot := { s.boot with holdBase := some base, meas := l } } 2
  exact ⟨m, k, ms, l, p, q, he⟩

theorem exec_stage2 (s : State) (f : Stage2Find) (h1 : s.boot.stage = 1) (h2 : s.boot.failed = false) (h3 : s.boot.wharfFailed = false) :
    exec (.stage2 f) s = .next (if (List.range 4).all (s.takeFind f).wharfCut then (s.takeFind f).failStage 3 else
      let u := (s.takeFind f).fenceFound.trainStacks f
      if !u.boot.granaryOk then (u.free 16).2.failStage (u.free 16).1.toNat else
      match u.findHold with
      | none => u.failStage 4
      | some base => u.holdAt base) := by
  show execStage2 f s = _
  unfold execStage2
  rw [if_neg (by simp [h1, h2, h3])]
  refine congrArg Host.Outcome.next ?_
  extract_lets old b s1 s2 s3 u v
  have h1 : s1 = s.takeFind f := rfl
  have h3 : s3 = s1.fenceFound := rfl
  have hu : u = v := by rw [show u = s3.trainStacks f from rfl, h3, h1]
  clear_value s1 u v
  rw [h1, hu]
  refine congrArg (ite _ _) (congrArg (ite _ _) ?_)
  cases v.findHold with
  | none => rfl
  | some base => rfl

end Sys2Proof.Machine
end

section
/-! OBLIGATIONS. Power-good, insertion and Stages 1 and 2 (chapter 15). -/

namespace Sys2Proof.Machine

open Sys2Proof

/-! ## Power-good and Stage 1 -/

theorem State.stage0_acts (s : State) (straps : BitVec 10) :
    (s.stage0 straps).boot.stage0 = true ∧ (s.stage0 straps).boot.stage = 0 ∧ (s.stage0 straps).boot.powered = true
      ∧ (s.stage0 straps).boot.pwrGood = true ∧ (s.stage0 straps).boot.moduleId = straps.toNat ∧ (s.stage0 straps).boot.package = s.packageSet
      ∧ (s.stage0 straps).alm = {} ∧ (s.stage0 straps).mem = s.mem ∧ (s.stage0 straps).nv.fwPending = false
      ∧ (s.stage0 straps).nv.fwSlot = if s.nv.fwPending then 1 - s.nv.fwSlot else s.nv.fwSlot := by
  unfold State.stage0
  extract_lets pend n b u
  obtain ⟨v, hv⟩ : ∃ v, v = u.setMeas 0 (Crypto.shake256 (Config.measuredBytes 0 [])) := ⟨_, rfl⟩
  obtain ⟨l, hl⟩ := u.setMeas_form 0 (Crypto.shake256 (Config.measuredBytes 0 []))
  obtain ⟨ms, p, q, h⟩ := v.enterStage_form 0
  rw [← hv, h, hv, hl]
  exact ⟨rfl, rfl, rfl, rfl, rfl, rfl, rfl, rfl, rfl, rfl⟩

theorem powerGood_starts (s : State) (straps : BitVec 10) (low : Nat) (hg : s.boot.pwrGood = false) (hi : s.boot.inserted = true)
    (hp : s.boot.powered = false) (hl : 10000000 ≤ low) (h1 : 440 ≤ s.pwr.volts) (h2 : s.pwr.volts ≤ 560) :
    exec (.powerGoodRise straps low) s = .next (s.stage0 straps) := by
  show execPowerGoodRise straps low s = _
  unfold execPowerGoodRise
  rw [if_neg (by simp [hg, hi]), if_pos (by simp [hp, hl, h1, h2])]

theorem powerGoodFall_stops (s : State) (low : Nat) (hg : s.boot.pwrGood = true) (hl : 10000 ≤ low) :
    completes (.powerGoodFall low) s fun t =>
      t.boot.powered = false ∧ t.boot.stage0 = false ∧ t.boot.pwrGood = false ∧ t.mem = [] ∧ t.img = none
        ∧ t.pols = [] ∧ t.hands = [] ∧ s.sameFuses t := by
  refine completes_of_exec (t := { s.powerOff with boot := { s.powerOff.boot with
    pwrGood := false, tripLow := s.boot.tripLow, tripAt := s.boot.tripAt } }) ?_
    ⟨rfl, rfl, rfl, rfl, rfl, rfl, rfl, rfl, rfl, rfl, rfl, rfl, rfl⟩
  show execPowerGoodFall low s = _
  unfold execPowerGoodFall
  rw [if_neg (by simp [hg, hl])]

theorem insertion_stops (s : State) (hi : s.boot.inserted = false) (hg : s.boot.pwrGood = true) :
    completes .moduleInsertion s fun t =>
      t.boot.inserted = true ∧ t.boot.powered = false ∧ t.boot.pwrGood = true ∧ t.mem = [] ∧ t.img = none := by
  refine completes_of_exec (t := { s.powerOff with boot := { s.powerOff.boot with inserted := true } }) ?_ ⟨rfl, rfl, hg, rfl, rfl⟩
  show execModuleInsertion s = _
  unfold execModuleInsertion
  rw [if_neg (by simp [hi]), if_pos hg]

theorem exec_stage1 (s : State) (h0 : s.boot.stage0 = true) (h1 : s.boot.stage = 0) (h2 : s.boot.failed = false) :
    exec .stage1 s = .next (if s.firmwareOk s.nv.fwSlot then s.stage1
      else if s.firmwareOk (1 - s.nv.fwSlot) then
        (({ s with nv := { s.nv with fwSlot := 1 - s.nv.fwSlot }, boot := { s.boot with fail := 1 } } : State).raiseBoth
          .firmwareFallback 0x2205 []).stage1
      else s.failStage 2) := by
  show execStage1 s = _
  unfold execStage1
  rw [if_neg (by simp [h0, h1, h2])]

theorem stage1_completes (s : State) (h0 : s.boot.stage0 = true) (h1 : s.boot.stage = 0) (h2 : s.boot.failed = false) :
    completes .stage1 s fun t =>
      if s.firmwareOk s.nv.fwSlot then
        t.boot.stage = 1 ∧ t.nv.fwSlot = s.nv.fwSlot ∧ t.boot.failed = false ∧
          ∀ m, m < 8 → (t.engine m).laserEn = !(s.engine m).shutdown
      else if s.firmwareOk (1 - s.nv.fwSlot) then
        t.boot.stage = 1 ∧ t.nv.fwSlot = 1 - s.nv.fwSlot ∧ t.boot.fail = 1
      else t.boot.stage = 0 ∧ t.boot.failed = true ∧ t.boot.fail = 2 := by
  refine completes_of_exec (exec_stage1 s h0 h1 h2) ?_
  by_cases hf : s.firmwareOk s.nv.fwSlot = true
  · obtain ⟨hs, hn, hb, -, hm⟩ := s.stage1_acts
    rw [if_pos hf, if_pos hf, hn]
    exact ⟨hs, rfl, hb.trans h2, hm⟩
  · rw [if_neg hf, if_neg hf]
    by_cases hf' : s.firmwareOk (1 - s.nv.fwSlot) = true
    · rw [if_pos hf', if_pos hf']
      obtain ⟨u, hu⟩ : ∃ u, u = ({ s with nv := { s.nv with fwSlot := 1 - s.nv.fwSlot }, boot := { s.boot with fail := 1 } } : State).raiseBoth
        .firmwareFallback 0x2205 [] := ⟨_, rfl⟩
      have hun : u.nv.fwSlot = 1 - s.nv.fwSlot := hu ▸ rfl
      have hub : u.boot.fail = 1 := hu ▸ rfl
      obtain ⟨hs, hn, -, hb, -⟩ := u.stage1_acts
      rw [← hu, hn]
      exact ⟨hs, hun, hb.trans hub⟩
    · rw [if_neg hf', if_neg hf']
      exact ⟨h1, rfl, rfl⟩

/-! ## Stage 2 -/

/-- What Stage 2 leaves of the boot registers. -/
def State.tested2 (f : Stage2Find) (t : State) : Prop :=
  t.boot.paths = f.paths ∧ t.boot.granaryOk = f.granaryOk ∧ (f.granaryOk = false → t.boot.failed = true)
    ∧ (t.boot.stage = 2 ∧ t.boot.failed = false ∧ t.boot.holdBase.isSome = true ∨ t.boot.stage = 1 ∧ t.boot.failed = true)

section
variable {u : State} {f : Stage2Find} (hp : u.boot.paths = f.paths) (hg : u.boot.granaryOk = f.granaryOk)
include hp hg

theorem State.tested2_failStage (hs : u.boot.stage = 1) (n : Nat) : State.tested2 f (u.failStage n) := ⟨hp, hg, fun _ => rfl, .inr ⟨hs, rfl⟩⟩

theorem State.tested2_holdAt (hf : u.boot.failed = false) (hok : f.granaryOk = true) (base : Nat) : State.tested2 f (u.holdAt base) := by
  obtain ⟨m, k, ms, l, p, q, h⟩ := u.holdAt_form base
  rw [h]
  exact ⟨hp, hg, fun e => by simp [hok] at e, .inl ⟨rfl, hf, rfl⟩⟩

end

theorem stage2_completes (s : State) (f : Stage2Find) (h1 : s.boot.stage = 1) (h2 : s.boot.failed = false) (h3 : s.boot.wharfFailed = false) :
    completes (.stage2 f) s (State.tested2 f) := by
  refine completes_of_exec (exec_stage2 s f h1 h2 h3) ?_
  by_cases hw : (List.range 4).all (s.takeFind f).wharfCut = true
  · rw [if_pos hw]
    exact State.tested2_failStage (u := s.takeFind f) rfl rfl h1 3
  rw [if_neg hw]
  obtain ⟨u, hu⟩ : ∃ u, u = (s.takeFind f).fenceFound.trainStacks f := ⟨_, rfl⟩
  have hb : u.boot = (s.takeFind f).boot := by rw [hu, State.trainStacks_boot, State.fenceFound_boot]
  have hs : u.boot.stage = 1 := (congrArg Boot.stage hb).trans h1
  have hp : u.boot.paths = f.paths := congrArg Boot.paths hb
  have hg : u.boot.granaryOk = f.granaryOk := congrArg Boot.granaryOk hb
  have hf : u.boot.failed = false := (congrArg Boot.failed hb).trans h2
  rw [← hu]
  clear hb hu hw
  dsimp only
  by_cases hok : u.boot.granaryOk = true
  · rw [if_neg (by simp [hok])]
    split
    · exact State.tested2_failStage hp hg hs 4
    · exact State.tested2_holdAt hp hg hf (hg ▸ hok) _
  · rw [if_pos (by simp [hok])]
    exact State.tested2_failStage (u := (u.free 16).2) hp hg hs _

/-! ### Where the tests find nothing -/

theorem SMap.get_append {α : Type} (d : α) (m n : SMap α) (j : Nat) :
    SMap.get d (m ++ n) j = if m.any (fun e => e.1 = j) then SMap.get d m j else SMap.get d n j := by
  induction m with
  | nil => rfl
  | cons e m ih =>
    by_cases h : e.1 = j
    · simp [SMap.get, h]
    · simp only [List.cons_append, SMap.get, if_neg h, ih, List.any_cons, h, decide_false, Bool.false_or, if_false]

theorem SMap.get_map_range {α : Type} (d : α) (g : Nat → α) (n j : Nat) :
    SMap.get d ((List.range n).map fun b => (b, g b)) j = if j < n then g j else d := by
  induction n with
  | zero => rfl
  | succ n ih =>
    rw [List.range_succ, List.map_append, SMap.get_append, ih]
    by_cases hj : j < n
    · have : ((List.range n).map fun b => (b, g b)).any (fun e => e.1 = j) = true := by simpa using hj
      rw [if_pos this, if_pos hj, if_pos (by omega)]
    · have : ¬((List.range n).map fun b => (b, g b)).any (fun e => e.1 = j) = true := by simpa using Nat.le_of_not_lt hj
      rw [if_neg this]
      by_cases e : n = j
      · simp [SMap.get, e]
      · simp [SMap.get, e, show ¬j < n + 1 by omega]

/-- The state that tests without a finding leave. -/
abbrev State.sound (s : State) : State := s.takeFind {}

theorem State.bundle_sound (s : State) (b : Nat) : (s.sound.bundle b).state = if b < 2088 then 1 else 0 := by
  rw [State.bundle, State.bundles_takeFind, State.bundleTests, SMap.get_map_range]
  split <;> rfl

theorem State.wharfCut_sound (s : State) (k : Nat) (hk : k < 4) : s.sound.wharfCut k = false := by
  have hj : joinLost s.sound.boot.paths (4 + k) = false := by
    show joinLost 0xFFFF (4 + k) = false
    clear s
    revert hk
    revert k
    decide
  rw [State.wharfCut, hj, State.bundle_sound, State.bundle_sound]
  split <;> split <;> rfl

theorem State.keelCause_sound (s : State) (k : Nat) (hk : k < 4) : s.sound.keelCause k = none := by
  have hj : (joinsOf k).any (joinLost s.sound.boot.paths) = false := by
    show (joinsOf k).any (joinLost 0xFFFF) = false
    clear s
    revert hk
    revert k
    decide
  rw [State.keelCause, hj, s.wharfCut_sound k hk]
  rfl

theorem State.fenceFound_sound (s : State) : s.sound.fenceFound = s.sound := by
  have hb : ∀ d, s.sound.bundles.any (fun e => e.1 / 256 = d && e.2.state = 2) = false := fun d => by
    refine List.any_eq_false.2 fun e he => ?_
    rw [State.bundles_takeFind, State.bundleTests] at he
    obtain ⟨b, -, rfl⟩ := List.mem_map.1 he
    have h1 : (s.tested {} b).state = 1 := rfl
    dsimp only
    rw [h1]
    simp
  have hk : (List.range 4).foldl State.fenceCut s.sound = s.sound :=
    foldl_keeps _ (· = s.sound) _ (fun u k hk hu => by rw [hu, State.fenceCut, s.keelCause_sound k (List.mem_range.1 hk)]) _ rfl
  rw [State.fenceFound, hk]
  exact foldl_keeps _ (· = s.sound) _ (fun u d _ hu => by rw [hu, State.fenceBroken, if_neg (by simp [hb d])]) _ rfl

/-- Fuses map no pseudo-channel out and no Keel is fenced. -/
def State.unfenced (s : State) : Prop := s.nv.fusedPcs = [] ∧ ∀ k, k < 4 → (s.keel k).fenced = false

theorem State.unfenced_sound {s : State} (h : s.unfenced) : s.sound.unfenced :=
  ⟨by rw [State.nv_takeFind]; exact h.1, fun k hk => by rw [State.keel_takeFind]; exact h.2 k hk⟩

theorem State.keel_trainStacks {s : State} (f : Stage2Find) (k : Nat) (hk : (s.keel k).fenced = false) : ((s.trainStacks f).keel k).fenced = false := by
  unfold State.trainStacks
  dsimp only
  refine foldl_keeps _ (fun t : State => (t.keel k).fenced = false) _ (fun t j _ ht => ?_) _ ?_
  · by_cases hj : k = j
    · rw [← hj, State.keel_updKeel]
      split <;> exact ht
    · rw [State.keel_updKeel_other _ _ _ _ hj]
      exact ht
  · refine foldl_keeps _ (fun t : State => (t.keel k).fenced = false) _ (fun t j _ ht => ?_) _ hk
    rw [State.keel, State.updStack_keels]
    exact ht

theorem State.stack_trainStacks {s : State} (h : s.unfenced) (i : Nat) (hi : i < 24) :
    ((s.trainStacks {}).stack i).out = 0 ∧ ((s.trainStacks {}).stack i).trained = true := by
  unfold State.trainStacks
  dsimp only
  refine foldl_keeps _ (fun t : State => (t.stack i).out = 0 ∧ (t.stack i).trained = true) _ (fun t j _ ht => ?_) _ ?_
  · rw [State.stack, State.updKeel_hbmStacks]
    exact ht
  refine foldl_nodup_reaches _ State.unfenced (fun t : State => (t.stack i).out = 0 ∧ (t.stack i).trained = true) i _ List.nodup_range
    (List.mem_range.2 hi) (fun t j _ ht => ?_) (fun t ht => ?_) (fun t j hj ht => ?_) _ h
  · rw [State.unfenced, State.updStack_nv]
    exact ⟨ht.1, fun k hk => by rw [State.keel, State.updStack_keels]; exact ht.2 k hk⟩
  · obtain ⟨hf, hk⟩ := ht
    rw [State.stack_updStack]
    exact ⟨by rw [hf]; rfl, by rw [hk (i / 6) (by omega)]; rfl⟩
  · rw [State.stack_updStack_other _ _ _ _ hj.symm]
    exact ht

/-- The hold group of a module without faults is the first group of Keel 0. -/
theorem State.findHold_whole {u : State} (hk : (u.keel 0).fenced = false) (ho : (u.stack 0).out = 0) : u.findHold = some 0 := by
  have hn : u.nq 0 0 = 8 := by
    rw [State.nq, State.groupMask, show 6 * 0 + 0 / 8 = 0 from rfl, ho]
    rfl
  have hr : (List.range 48).find? (fun q => u.nq 0 q = 8) = some 0 := by
    rw [List.range_succ_eq_map, List.find?_cons_of_pos (by simpa using hn)]
  unfold State.findHold
  rw [show List.range 4 = [0, 1, 2, 3] from rfl, List.findSome?_cons, if_neg (by simp [hk]), hr]
  simp [State.groupBase]

theorem State.wharfCut_sound_all (s : State) : (List.range 4).all s.sound.wharfCut = false := by
  have h := s.wharfCut_sound 0 (by omega)
  simp [List.range_succ_eq_map, h]

theorem exec_stage2_sound (s : State) (h1 : s.boot.stage = 1) (h2 : s.boot.failed = false) (h3 : s.boot.wharfFailed = false) (hu : s.unfenced) :
    exec (.stage2 {}) s = .next ((s.sound.trainStacks {}).holdAt 0) := by
  have hb : (s.sound.trainStacks {}).boot = s.sound.boot := State.trainStacks_boot _ _
  have hs := State.unfenced_sound hu
  have hf := State.findHold_whole (State.keel_trainStacks {} 0 (hs.2 0 (by omega))) (State.stack_trainStacks hs 0 (by omega)).1
  rw [exec_stage2 s {} h1 h2 h3, if_neg (by rw [s.wharfCut_sound_all]; exact Bool.false_ne_true), s.fenceFound_sound]
  generalize s.sound.trainStacks {} = u at hb hf ⊢
  dsimp only
  rw [if_neg (by rw [hb]; exact Bool.false_ne_true), hf]

theorem State.bundles_trainStacks (s : State) (f : Stage2Find) : (s.trainStacks f).bundles = s.bundles := by
  unfold State.trainStacks
  dsimp only
  rw [foldl_keeps_proj State.bundles _ (fun _ _ => State.updKeel_bundles _ _ _),
    foldl_keeps_proj State.bundles _ (fun _ _ => State.updStack_bundles _ _ _)]

theorem State.holdAt_sound {u : State} (hf : u.boot.failed = false) (hp : u.boot.paths = 0xFFFF) (hb : ∀ b, b < 2088 → (u.bundle b).state = 1)
    (hs : ∀ i, i < 24 → (u.stack i).out = 0 ∧ (u.stack i).trained = true) :
    (u.holdAt 0).boot.stage = 2 ∧ (u.holdAt 0).boot.failed = false ∧ (u.holdAt 0).boot.holdBase = some 0 ∧ (u.holdAt 0).boot.paths = 0xFFFF
      ∧ (∀ b, b < 2088 → ((u.holdAt 0).bundle b).state = 1)
      ∧ ∀ i, i < 24 → ((u.holdAt 0).stack i).out = 0 ∧ ((u.holdAt 0).stack i).trained = true := by
  obtain ⟨m, k, ms, l, p, q, h⟩ := u.holdAt_form 0
  rw [h]
  exact ⟨rfl, hf, rfl, hp, hb, hs⟩

theorem State.bundle_trainStacks (s : State) (b : Nat) (h : b < 2088) : ((s.sound.trainStacks {}).bundle b).state = 1 := by
  rw [State.bundle, State.bundles_trainStacks]
  exact (s.bundle_sound b).trans (if_pos h)

theorem stage2_sound (s : State) (h1 : s.boot.stage = 1) (h2 : s.boot.failed = false) (h3 : s.boot.wharfFailed = false) (hu : s.unfenced) :
    completes (.stage2 {}) s fun t =>
      t.boot.stage = 2 ∧ t.boot.failed = false ∧ t.boot.holdBase = some 0 ∧ t.boot.paths = 0xFFFF
        ∧ (∀ b, b < 2088 → (t.bundle b).state = 1) ∧ ∀ i, i < 24 → (t.stack i).out = 0 ∧ (t.stack i).trained = true := by
  refine completes_of_exec (exec_stage2_sound s h1 h2 h3 hu) ?_
  refine State.holdAt_sound ?_ ?_ s.bundle_trainStacks (State.stack_trainStacks (State.unfenced_sound hu))
  · rw [State.trainStacks_boot, State.boot_takeFind]
    exact h2
  · rw [State.trainStacks_boot, State.boot_takeFind]

/-- Settles O8: power-good, insertion and the stages each by their own lemma; where the tests of Stage 2 find nothing, every bundle
is in use, every stack whole, and the hold group the first of Keel 0. -/
theorem startupCommandsComplete : Obligations.StartupCommandsComplete := by
  refine ⟨fun s straps low hg hi hp hl h1 h2 => completes_of_exec (powerGood_starts s straps low hg hi hp hl h1 h2) (s.stage0_acts straps),
    powerGoodFall_stops, fun s low hl => ?_, fun s hi hg => ?_, insertion_stops, stage1_completes, stage2_completes,
    fun s h1 h2 h3 hf hk => stage2_sound s h1 h2 h3 ⟨hf, hk⟩⟩
  · show execPowerGoodFall low s = _
    unfold execPowerGoodFall
    rw [if_pos (by simp [hl])]
  · show execModuleInsertion s = _
    unfold execModuleInsertion
    rw [if_neg (by simp [hi]), if_neg (by simp [hg])]

end Sys2Proof.Machine
end

section
/-! OBLIGATIONS. Images loaded and refused, Stages 3 and 4, and the failure of the Wharf die (chapters 15 and 16). -/

namespace Sys2Proof.Machine

open Sys2Proof

/-! ## GO -/

/-- A port's load is refused: what the refusal leaves. -/
theorem State.rejectLoad_acts (s : State) (port : Nat) (r : Reject) :
    ((s.rejectLoad port r).load port).status = 2 ∧ ((s.rejectLoad port r).load port).reason = r.reason % 256
      ∧ ((s.rejectLoad port r).load port).busy = false ∧ (s.rejectLoad port r).boot.stage = s.boot.stage
      ∧ (s.rejectLoad port r).img = s.img ∧ (s.rejectLoad port r).mem = s.mem := by
  obtain ⟨u, hu⟩ : ∃ u, u = s.updLoad port fun c => { c with
    busy := false, status := 2, reason := r.reason % 256, sect := r.sect % 256, record := r.record % 2 ^ 32 } := ⟨_, rfl⟩
  have hl : (u.load port).status = 2 ∧ (u.load port).reason = r.reason % 256 ∧ (u.load port).busy = false := by
    rw [hu, State.load_updLoad]
    exact ⟨rfl, rfl, rfl⟩
  have hb : u.boot.stage = s.boot.stage := hu ▸ rfl
  have hi : u.img = s.img := hu ▸ rfl
  have hm : u.mem = s.mem := hu ▸ rfl
  have hc : (s.rejectLoad port r).boot = u.boot ∧ (s.rejectLoad port r).img = u.img ∧ (s.rejectLoad port r).mem = u.mem := by
    rw [hu]
    unfold State.rejectLoad
    dsimp only
    split <;> exact ⟨rfl, rfl, rfl⟩
  rw [State.load, hc.1, hc.2.1, hc.2.2]
  exact ⟨hl.1, hl.2.1, hl.2.2, hb, hi, hm⟩

theorem State.acceptLoad_acts (s : State) (port : Port) (g : Image) (hs : s.boot.stage = 2 ∨ s.boot.stage = 4) :
    (s.acceptLoad port g).boot.loading = some port ∧ (s.acceptLoad port g).boot.loadImage = some g
      ∧ ((s.acceptLoad port g).load port).busy = true ∧ (s.acceptLoad port g).boot.stage = 2 := by
  unfold State.acceptLoad
  extract_lets half v u1 u
  have hu : u.boot.stage = 2 := by
    simp only [u]
    split
    · obtain ⟨ms, p, q, h⟩ := State.enterStage_form { v with tide := { u1 with open_ := false } } 2
      rw [h]
    · exact hs.resolve_right ‹_›
  refine ⟨rfl, rfl, ?_, hu⟩
  show (SMap.get {} (SMap.upd {} u.boot.loads port.val fun c => { c with busy := true }) port.val).busy = true
  rw [SMap.get_upd_same]

theorem State.stage_of_loadRefusal {s : State} {port : Nat} (h : s.loadRefusal port = none) : s.boot.stage = 2 ∨ s.boot.stage = 4 := by
  unfold State.loadRefusal at h
  split at h
  · cases h
  split at h
  · exact .inl ‹_›
  split at h
  · rename_i h4
    simp only [Bool.and_eq_true, decide_eq_true_eq] at h4
    exact .inr h4.1.1
  · cases h

/-- What a load that begins, or is refused, leaves. -/
def State.loadEnds (s : State) (port : Port) (r : Except Reject Image) (t : State) : Prop :=
  match r with
  | .ok g => t.boot.loading = some port ∧ t.boot.loadImage = some g ∧ (t.load port).busy = true ∧ t.boot.stage = 2
  | .error r => (t.load port).status = 2 ∧ (t.load port).reason = r.reason % 256 ∧ (t.load port).busy = false
      ∧ t.boot.stage = s.boot.stage ∧ t.img = s.img ∧ t.mem = s.mem

theorem imageLoadGo_ends (s : State) (port : Port) (r : Except Reject Image) (hr : s.srcReaches (.pf port) = true)
    (hf : s.loadRefusal port = none) (hc : s.checkImage port (s.stagedImage (s.loadBase port)) = r) :
    completes (.imageLoadGo port false) s (s.loadEnds port r) := by
  refine completes_of_exec (t := s.loadGo port false) ?_ ?_
  · show execImageLoadGo port false s = _
    rw [execImageLoadGo, if_pos hr]
  · unfold State.loadGo
    rw [hf]
    dsimp only
    rw [if_neg Bool.false_ne_true, hc]
    cases r with
    | error r => exact s.rejectLoad_acts port r
    | ok g => exact s.acceptLoad_acts port g (State.stage_of_loadRefusal hf)

/-! ## Stage 3 -/

theorem State.setDie_epochCalm (s : State) (g : Image) (d : Nat) : (s.setDie g d).epochCalm = s.epochCalm ∧ (s.setDie g d).links = s.links :=
  ⟨rfl, rfl⟩

theorem State.epochCalm_of_sansPower {s t : State} (h : t.sansPower = s.sansPower) : t.epochCalm = s.epochCalm :=
  (congrArg State.epochCalm h : t.sansPower.epochCalm = s.sansPower.epochCalm)

theorem State.recap_reweir_epochCalm (s : State) : s.recap.reweir.epochCalm = s.epochCalm := by
  have h : s.recap.reweir.epochCalm = s.recap.epochCalm := State.epochCalm_of_sansPower (State.reweir_sansPower s.recap)
  obtain ⟨n, f, b, l, c, hr⟩ := s.recap_form
  rw [h, hr]
  rfl

/-- The memory that Stage 3 keeps begins here. -/
def State.keepBase (s : State) : Nat := s.boot.holdBase.getD 0 + s.boot.loadHalf * halfHold

/-- The polder that Stage 3 builds from a charter's record. -/
def State.boundPol (s : State) (g : Image) (p : Nat) : Polder := (s.pol p).bound p (g.charter.pols.getD p {})

/-- What stands once the image is built. -/
structure Built (s : State) (g : Image) (t : State) : Prop where
  img : t.img = some g
  boot : t.boot = s.boot
  mem : t.mem = memClear s.mem fun a => !(s.keepBase ≤ a && a < s.keepBase + halfHold)
  pol : ∀ p, p < 64 → t.pol p = s.boundPol g p
  reads : ∀ n, (t.link n).reads = []

theorem State.build_built (s : State) (g : Image) : Built s g (s.build g) := by
  unfold State.build
  extract_lets keep s1 old land s2 s3
  have h3 : ((List.range 8).foldl (fun s d => s.setDie g d) s3).epochCalm = s3.epochCalm :=
    foldl_keeps_proj State.epochCalm _ (fun t d => (t.setDie_epochCalm g d).1) _ _
  have hl : ((List.range 8).foldl (fun s d => s.setDie g d) s3).links = s3.links :=
    foldl_keeps_proj State.links _ (fun t d => (t.setDie_epochCalm g d).2) _ _
  have hs : (((List.range 8).foldl (fun s d => s.setDie g d) s3).recap.reweir).epochCalm = s3.epochCalm :=
    (State.recap_reweir_epochCalm _).trans h3
  have hk : (((List.range 8).foldl (fun s d => s.setDie g d) s3).recap.reweir).links = s3.links :=
    (State.recap_reweir_keeps _).1.trans hl
  generalize ((List.range 8).foldl (fun s d => s.setDie g d) s3).recap.reweir = t at hs hk ⊢
  refine ⟨?_, ?_, ?_, fun p hp => ?_, fun n => ?_⟩
  · exact (congrArg State.img hs : t.epochCalm.img = s3.epochCalm.img)
  · exact (congrArg State.boot hs : t.epochCalm.boot = s3.epochCalm.boot)
  · exact State.mem_of_epochCalm hs
  · have hpols : t.pols = s2.pols := (congrArg State.pols hs : t.epochCalm.pols = s3.epochCalm.pols)
    rw [State.pol, hpols]
    exact foldl_set_get {} (fun p => (old.pol p).bound p (g.charter.pols.getD p {})) 64 [] p hp
  · have he : t.eachLink fun l => l.reads = [] := fun e he => by
      have he : e ∈ s2.links.mapAll {} fun _ l => { l with chunks := [], partialTxn := [], heldTxns := [], reads := [] } := by
        rw [hk] at he
        exact he
      exact SMap.of_mem_mapAll (P := fun l : LinkPort => l.reads = []) he fun _ _ => rfl
    exact State.link_of_eachLink he rfl n

/-! ### The ports under the new table -/

/-- Only link ports have changed, and none has a READ out. -/
def Relinked (s t : State) : Prop := LinksOnly s t ∧ ∀ n, (t.link n).reads = []

theorem Relinked.updLink {s t : State} (h : Relinked s t) (n : Nat) (f : LinkPort → LinkPort) (hf : ∀ l, (f l).reads = l.reads ∨ (f l).reads = []) :
    Relinked s (t.updLink n f) := by
  refine ⟨h.1.updLink n f, fun m => ?_⟩
  by_cases hm : m = n
  · rw [hm, State.link_updLink]
    exact (hf _).elim (fun e => e.trans (h.2 n)) id
  · rw [State.link_updLink_other _ _ _ _ hm]
    exact h.2 m

theorem Relinked.refit {s t : State} (h : Relinked s t) (n : Nat) : Relinked s (t.refit n) := h.updLink n _ fun _ => .inl rfl

theorem Relinked.failReads {s t : State} (h : Relinked s t) (n : Nat) : Relinked s (t.failReads n) := by
  unfold State.failReads
  dsimp only
  rw [h.2 n]
  exact h.updLink n _ fun _ => .inr rfl

theorem Relinked.beginTraining {s t : State} (h : Relinked s t) (n : Nat) : Relinked s (t.beginTraining n) := by
  unfold State.beginTraining
  refine Relinked.refit (Relinked.failReads ?_ n) n
  exact h.updLink n _ fun _ => .inl rfl

theorem State.relink_relinked (s : State) (h : ∀ n, (s.link n).reads = []) : Relinked s s.relink := by
  unfold State.relink
  refine foldl_keeps _ (Relinked s) _ (fun t n _ ht => ?_) s ⟨LinksOnly.self s, h⟩
  dsimp only
  split
  · exact ht.beginTraining n
  · exact ht.refit n

/-! ### The end of the load -/

theorem State.raiseFloor_form (s : State) (g : Image) : ∃ v, s.raiseFloor g = { s with nv := v } := by
  unfold State.raiseFloor
  split
  · split
    · exact ⟨_, rfl⟩
    · exact ⟨s.nv, rfl⟩
  · exact ⟨s.nv, rfl⟩

/-- What the boot registers say once the load has ended. -/
def State.loadOver (s : State) (port : Port) : State :=
  let done := fun (c : LoadCtl) => { c with consent := false }
  { s with boot := { s.boot with
    imageHalf := s.boot.loadHalf, loadedBy := port.val, loading := none, loadImage := none, resetAfterLoad := none
    loads := ((s.boot.loads.upd {} 0 done).upd {} 1 done).set {} port.val {} } }

/-- The image's floor and measurements are noted. -/
theorem State.measured_form (u : State) (g : Image) (a b c : List Byte) :
    ∃ v l, (((u.raiseFloor g).setMeas 3 a).setMeas 4 b).setMeas 5 c = { u with nv := v, boot := { u.boot with meas := l } } := by
  obtain ⟨v, hv⟩ := u.raiseFloor_form g
  obtain ⟨l, hl⟩ := (u.raiseFloor g).setMeas_form 3 a
  obtain ⟨l', hl'⟩ := State.setMeas_form { u with nv := v, boot := { u.boot with meas := l } } 4 b
  obtain ⟨l'', hl''⟩ := State.setMeas_form { u with nv := v, boot := { u.boot with meas := l' } } 5 c
  rw [hl, hv, hl', hl'']
  exact ⟨v, l'', rfl⟩

theorem exec_stage3 (s : State) (port : Port) (g : Image) (hp : s.boot.loading = some port) (hg : s.boot.loadImage = some g)
    (hr : s.boot.resetAfterLoad = none) :
    ∃ v l, exec .stage3 s =
      .next ((({ s.build g with nv := v, boot := { (s.build g).boot with meas := l } } : State).loadOver port).relink.enterStage 3) := by
  have hb : (s.build g).boot.resetAfterLoad = none := by rw [(s.build_built g).boot, hr]
  obtain ⟨v, l, hm⟩ := (s.build g).measured_form g g.keyMeasure g.measure g.charterMeasure
  refine ⟨v, l, ?_⟩
  show execStage3 s = _
  unfold execStage3
  rw [hp, hg]
  dsimp only
  rw [hm]
  generalize s.build g = u at hb ⊢
  dsimp only
  rw [if_neg (by simp [hb])]
  rfl

theorem memByte_kept (m : List Host.Cell) (b a : Nat) :
    memByte (memClear m fun x => !(b ≤ x && x < b + halfHold)) a = if b ≤ a ∧ a < b + halfHold then memByte m a else 0 := by
  rw [memByte_memClear]
  by_cases h : b ≤ a ∧ a < b + halfHold
  · rw [if_pos h, if_neg (by simp [h.1, h.2])]
  · rw [if_neg h, if_pos (by simp only [Bool.not_eq_true', Bool.and_eq_false_iff, decide_eq_false_iff_not]; omega)]
    rfl

theorem stage3_completes (s : State) (port : Port) (g : Image) (hp : s.boot.loading = some port) (hg : s.boot.loadImage = some g)
    (hr : s.boot.resetAfterLoad = none) :
    completes .stage3 s fun t =>
      t.boot.stage = 3 ∧ t.img = some g ∧ t.boot.loading = none ∧ t.boot.imageHalf = s.boot.loadHalf
        ∧ (∀ p, p < 64 → (t.pol p).gen = 0 ∧ (t.pol p).tallies = [] ∧ (t.pol p).enable = false
            ∧ (t.pol p).state = (if 2 ≤ (g.charter.pols.getD p {}).port then 0 else if p < 2 then 2 else 1))
        ∧ (∀ a, memByte t.mem a = if s.boot.holdBase.getD 0 + s.boot.loadHalf * halfHold ≤ a
            ∧ a < s.boot.holdBase.getD 0 + s.boot.loadHalf * halfHold + halfHold then memByte s.mem a else 0) := by
  obtain ⟨v, l, hx⟩ := exec_stage3 s port g hp hg hr
  refine completes_of_exec hx ?_
  obtain ⟨himg, hboot, hmem, hpol, hreads⟩ := s.build_built g
  have hb : (s.build g).boot.loadHalf = s.boot.loadHalf := congrArg Boot.loadHalf hboot
  generalize s.build g = w at himg hb hmem hpol hreads ⊢
  obtain ⟨u, hu⟩ : ∃ u, u = ({ w with nv := v, boot := { w.boot with meas := l } } : State).loadOver port := ⟨_, rfl⟩
  have hur : ∀ n, (u.link n).reads = [] := hu ▸ hreads
  have hui : u.img = some g := hu ▸ himg
  have hum : u.mem = w.mem := hu ▸ rfl
  have hup : ∀ p, p < 64 → u.pol p = s.boundPol g p := hu ▸ hpol
  have hub : u.boot.loading = none ∧ u.boot.imageHalf = s.boot.loadHalf := hu ▸ ⟨rfl, hb⟩
  rw [← hu]
  obtain ⟨hk, -⟩ := u.relink_relinked hur
  obtain ⟨ms, p, q, he⟩ := u.relink.enterStage_form 3
  rw [he, hk]
  refine ⟨rfl, hui, hub.1, hub.2, fun p hp => ?_, fun a => ?_⟩
  · show (u.pol p).gen = 0 ∧ (u.pol p).tallies = [] ∧ (u.pol p).enable = false ∧ (u.pol p).state = _
    rw [hup p hp]
    exact ⟨rfl, rfl, rfl, rfl⟩
  · show memByte u.mem a = _
    rw [hum, hmem]
    exact memByte_kept s.mem s.keepBase a

theorem stage4_completes (s : State) (h : s.boot.stage = 3) :
    completes .stage4 s fun t => t.boot.stage = 4 ∧ t.pols = s.pols ∧ t.mem = s.mem ∧ t.img = s.img := by
  refine completes_of_exec (t := s.enterStage 4) ?_ ?_
  · show execStage4 s = _
    rw [execStage4, if_pos h]
  · obtain ⟨ms, p, q, he⟩ := s.enterStage_form 4
    rw [he]
    exact ⟨rfl, rfl, rfl, rfl⟩

/-- Only the oscillator runs, at Stage 0 with FAIL 6. -/
def State.wharfGone (s : State) : State :=
  { s.powerOff with
    alm := { ({} : Almanac) with now := s.alm.now }
    boot := { s.powerOff.boot with
      powered := true, stage0 := true, goodAt := s.boot.goodAt, moduleId := s.boot.moduleId, package := s.boot.package
      meas := s.boot.meas.filter fun e => e.1 = 0, failed := true, fail := 6, wharfFailed := true }
    pmbus := s.pmbus }

theorem wharfFailure_stops (s : State) (h0 : s.boot.stage0 = true) :
    completes .wharfFailure s fun t =>
      t.boot.stage = 0 ∧ t.boot.failed = true ∧ t.boot.fail = 6 ∧ t.boot.wharfFailed = true ∧ t.alm.now = s.alm.now
        ∧ t.mem = [] ∧ t.boot.moduleId = s.boot.moduleId := by
  refine completes_of_exec (t := (s.wharfGone.enterStage 0).latchStatus) ?_ ?_
  · show execWharfFailure s = _
    unfold execWharfFailure
    rw [if_neg (by simp [h0])]
    rfl
  · obtain ⟨ms, p, q, he⟩ := s.wharfGone.enterStage_form 0
    rw [he]
    exact ⟨rfl, rfl, rfl, rfl, rfl, rfl, rfl⟩

/-- Settles O9: GO by the outcome of the image's checks, Stage 3 by what the build of the image leaves: no link port has a READ out,
so that training again touches nothing else. -/
theorem imageCommandsComplete : Obligations.ImageCommandsComplete := by
  refine ⟨fun s port hr hf => ?_, fun s port hr => ?_, stage3_completes, stage4_completes, wharfFailure_stops⟩
  · generalize hc : s.checkImage port (s.stagedImage (s.loadBase port)) = r
    have h := imageLoadGo_ends s port r hr hf hc
    cases r with
    | error r => exact h
    | ok g => exact h
  · show execConsent port s = _
    rw [execConsent, if_pos hr]

end Sys2Proof.Machine
end

section
/-! OBLIGATIONS. Modes of arrays, the Weir's level and the ladder (chapter 4). -/

namespace Sys2Proof.Machine

open Sys2Proof

/-! ## Changes of mode (R80 to R82) -/

/-- What a change of mode does to one die. -/
def State.changeDie (s : State) (d : Die) (m : MillMode) (i : Nat) (u : State) (e : Nat) : State :=
  u.updMill e fun c =>
    let c := if e = d.val ∨ m = .pair then c.setMode m i else c.setMode .gang 0
    { c with changeTo := (modeTiles s d m i e).foldl (fun x k => x.set 0 k (u.clock + 64)) c.changeTo }

/-- A change of mode as it runs. -/
def State.modeChanged (s : State) (d : Die) (m : MillMode) (i : Nat) : State := (modeDies s d m).foldl (s.changeDie d m i) s

theorem modeTiles_eq (s : State) (d : Die) (m : MillMode) (i e : Nat) :
    modeTiles s d m i e = bitsOf 16 (if e = d.val then if (s.mill d.val).ganged then 0xFFFF else changeTiles m i else 0xFFFF : BitVec 16).toNat := by
  unfold modeTiles
  by_cases he : e = d.val
  · cases hg : (s.mill d.val).ganged <;> simp [he]
  · simp [he]

theorem modeDies_eq (s : State) (d : Die) (m : MillMode) :
    modeDies s d m = if decide (m = .pair) || (s.mill d.val).paired then [d.val, d.val / 2 * 2 + (1 - d.val % 2)] else [d.val] := by
  unfold modeDies
  simp

/-- No tile that a change moves runs, or is itself changing. -/
def State.tilesRest (s : State) (d : Die) (m : MillMode) (i e : Nat) : Bool :=
  (modeTiles s d m i e).all fun t => !s.tileRuns e t && (s.mill e).changeTo.get 0 t ≤ s.clock

theorem exec_millModeChange (s : State) (d : Die) (m : MillMode) (i : Nat) :
    exec (.millModeChange d m i) s = .next (
      if !(m = .solo || (List.range 64).any fun p => (if m = .pair then [d.val, d.val / 2 * 2 + (1 - d.val % 2)] else [d.val]).all
          fun e => s.ownsTiles p e (changeTiles m i))
        || !((modeDies s d m).all (s.tilesRest d m i)) || (m = .quad && 4 ≤ i) || (modeDies s d m).any (fun e => (s.mill e).fenced) then s
      else s.modeChanged d m i) := by
  unfold State.modeChanged State.changeDie State.tilesRest
  simp only [modeTiles_eq, modeDies_eq]
  show execMillModeChange d m i s = _
  unfold execMillModeChange
  simp

theorem modeDies_nodup (s : State) (d : Die) (m : MillMode) : (modeDies s d m).Nodup := by
  unfold modeDies
  split
  · simp
    omega
  · simp

theorem mem_modeDies (s : State) (d : Die) (m : MillMode) : d.val ∈ modeDies s d m := by
  unfold modeDies
  split <;> simp

/-- Elements of a list set to one value. -/
theorem SMap.get_setEach {α : Type} [DecidableEq α] (dv v : α) (ks : List Nat) (c : SMap α) (k : Nat) (hk : k ∈ ks) :
    (ks.foldl (fun x k => SMap.set dv x k v) c).get dv k = v := by
  refine foldl_reaches _ (fun _ => True) (fun x : SMap α => x.get dv k = v) k ks (fun _ _ _ _ => trivial) (fun x _ => SMap.get_set_same _ _ _ _)
    (fun x j _ hj _ hx => ?_) hk c trivial
  rw [SMap.get_set_other _ _ _ _ _ (Ne.symm hj)]
  exact hx

/-- A die's mode bits after a change of mode that `d` leads. -/
def MillSt.modeFor (c : MillSt) (d : Die) (m : MillMode) (i e : Nat) : MillSt :=
  if e = d.val ∨ m = .pair then c.setMode m i else c.setMode .gang 0

/-- What a change of mode leaves of each die that it concerns. -/
theorem State.mill_modeChanged (s : State) (d : Die) (m : MillMode) (i e : Nat) (he : e ∈ modeDies s d m) :
    (s.modeChanged d m i).mill e = { (s.mill e).modeFor d m i e with changeTo := ((s.modeChanged d m i).mill e).changeTo }
      ∧ ∀ k ∈ modeTiles s d m i e, ((s.modeChanged d m i).mill e).changeTo.get 0 k = s.clock + 64 := by
  refine foldl_nodup_reaches (s.changeDie d m i) (fun u => u.mill e = s.mill e ∧ u.clock = s.clock)
    (fun u : State => u.mill e = { (s.mill e).modeFor d m i e with changeTo := (u.mill e).changeTo }
      ∧ ∀ k ∈ modeTiles s d m i e, (u.mill e).changeTo.get 0 k = s.clock + 64) e _ (modeDies_nodup s d m) he
    (fun u b hb hu => ?_) (fun u hu => ?_) (fun u b hb hu => ?_) s ⟨rfl, rfl⟩
  · refine ⟨?_, hu.2⟩
    rw [State.changeDie, State.mill_updMill_other _ _ _ _ hb.symm]
    exact hu.1
  · rw [State.changeDie, State.mill_updMill, hu.1, hu.2]
    exact ⟨rfl, fun k hk => SMap.get_setEach 0 _ _ _ k hk⟩
  · rw [State.changeDie, State.mill_updMill_other _ _ _ _ hb.symm]
    exact hu

theorem State.mill_modeChanged_other (s : State) (d : Die) (m : MillMode) (i e : Nat) (he : e ∉ modeDies s d m) :
    (s.modeChanged d m i).mill e = s.mill e := by
  refine foldl_keeps _ (fun u : State => u.mill e = s.mill e) _ (fun u b hb hu => ?_) s rfl
  rw [State.changeDie, State.mill_updMill_other _ _ _ _ (fun h : e = b => he (h ▸ hb))]
  exact hu

theorem State.updMill_frame {s u : State} (h : u = { s with mills := u.mills }) (d : Nat) (f : MillSt → MillSt) :
    u.updMill d f = { s with mills := (u.updMill d f).mills } := by
  obtain ⟨m, rfl⟩ : ∃ m, u = { s with mills := m } := ⟨_, h⟩
  rfl

theorem State.modeChanged_frame (s : State) (d : Die) (m : MillMode) (i : Nat) :
    s.modeChanged d m i = { s with mills := (s.modeChanged d m i).mills } := by
  refine foldl_keeps _ (fun u : State => u = { s with mills := u.mills }) _ (fun u b _ hu => ?_) s rfl
  exact State.updMill_frame hu b _

/-! ### The arrays that stand formed -/

theorem quadOf_of_quadMask : ∀ i < 4, ∀ k < 16, (quadMask i).toNat.testBit k = true → quadOf k = i := by decide

theorem solo_forms (s : State) (d i k : Nat) (c : MillSt) (h : s.mill d = { c.setMode .solo i with changeTo := (s.mill d).changeTo })
    (hk : k ∈ bitsOf 16 (changeTiles .solo i).toNat) : s.formed d k = true := by
  have hg : (s.mill d).ganged = false := by rw [h]; rfl
  have hq : (s.mill d).quad = if i < 4 then c.quad &&& ~~~((1 : BitVec 4) <<< i) else 0 := by rw [h]; rfl
  obtain ⟨h16, hbit⟩ := List.mem_filter.1 hk
  have h16 := List.mem_range.1 h16
  unfold State.formed
  dsimp only
  rw [if_pos h16, hg, hq]
  by_cases hi : i < 4
  · rw [changeTiles, if_pos hi] at hbit
    rw [if_pos hi, quadOf_of_quadMask i hi k h16 hbit]
    simp [hi]
  · simp [hi]

theorem quad_forms (s : State) (d i : Nat) (hi : i < 4) (c : MillSt) (h : s.mill d = { c.setMode .quad i with changeTo := (s.mill d).changeTo }) :
    s.formed d (16 + i) = true := by
  have hg : (s.mill d).ganged = false := by rw [h]; rfl
  have hq : (s.mill d).quad = c.quad ||| ((1 : BitVec 4) <<< i) := by rw [h]; rfl
  unfold State.formed
  dsimp only
  rw [if_neg (by omega), if_pos (by omega), hg, hq]
  simp [hi]

theorem gang_forms (s : State) (d : Nat) (i : Nat) (c : MillSt) (h : s.mill d = { c.setMode .gang i with changeTo := (s.mill d).changeTo }) :
    s.formed d 20 = true := by
  have hg : (s.mill d).ganged = true ∧ (s.mill d).paired = false := by rw [h]; exact ⟨rfl, rfl⟩
  simp [State.formed, hg.1, hg.2]

theorem pair_forms (s : State) (d : Nat) (hd : d % 2 = 0) (h : ∀ e, e = d ∨ e = d + 1 → (s.mill e).paired = true) : s.formed d 21 = true := by
  simp [State.formed, hd, h d (.inl rfl), h (d + 1) (.inr rfl)]

theorem modeMayChange_iff (s : State) (d : Die) (m : MillMode) (i : Nat) (h : modeMayChange s d m i) :
    exec (.millModeChange d m i) s = .next (s.modeChanged d m i) := by
  obtain ⟨hq, ho, hf⟩ := h
  rw [exec_millModeChange, if_neg]
  have h1 : (m = .solo || (List.range 64).any fun p => (if m = .pair then [d.val, d.val / 2 * 2 + (1 - d.val % 2)] else [d.val]).all
      fun e => s.ownsTiles p e (changeTiles m i)) = true := by
    rcases ho with ho | ⟨p, hp, ho⟩
    · simp [ho]
    · refine Bool.or_eq_true_iff.2 (.inr (List.any_eq_true.2 ⟨p, List.mem_range.2 hp, List.all_eq_true.2 ho⟩))
  have h2 : (modeDies s d m).all (s.tilesRest d m i) = true := by
    refine List.all_eq_true.2 fun e he => List.all_eq_true.2 fun k hk => ?_
    obtain ⟨hr, hc⟩ := (hf e he).2 k hk
    simp [hr, hc]
  have h3 : (modeDies s d m).any (fun e => (s.mill e).fenced) = false :=
    List.any_eq_false.2 fun e he => by simp [(hf e he).1]
  have h4 : (decide (m = .quad) && decide (4 ≤ i)) = false := by
    by_cases hm : m = .quad
    · simp [hq hm]
    · simp [hm]
  rw [h1, h2, h3, h4]
  simp

theorem modeChange_completes (s : State) (d : Die) (m : MillMode) (i : Nat) (h : modeMayChange s d m i) :
    completes (.millModeChange d m i) s fun t =>
      (∀ e ∈ modeDies s d m,
          t.mill e = { (if e = d.val ∨ m = .pair then (s.mill e).setMode m i else (s.mill e).setMode .gang 0) with
            changeTo := (t.mill e).changeTo }
            ∧ ∀ k ∈ modeTiles s d m i e, (t.mill e).changeTo.get 0 k = s.clock + 64)
        ∧ (∀ e, e ∉ modeDies s d m → t.mill e = s.mill e) ∧ t = { s with mills := t.mills }
        ∧ (m = .solo → ∀ k ∈ bitsOf 16 (changeTiles m i).toNat, t.formed d.val k = true)
        ∧ (m = .quad → t.formed d.val (16 + i) = true) ∧ (m = .gang → t.formed d.val 20 = true)
        ∧ (m = .pair → t.formed (d.val / 2 * 2) 21 = true) := by
  refine completes_of_exec (modeMayChange_iff s d m i h) ⟨s.mill_modeChanged d m i, s.mill_modeChanged_other d m i, s.modeChanged_frame d m i, ?_⟩
  have hd : (s.modeChanged d m i).mill d.val = { (s.mill d.val).setMode m i with changeTo := ((s.modeChanged d m i).mill d.val).changeTo } := by
    have hd := (s.mill_modeChanged d m i d.val (mem_modeDies s d m)).1
    rwa [MillSt.modeFor, if_pos (.inl rfl)] at hd
  refine ⟨?_, ?_, ?_, ?_⟩
  · rintro rfl k hk
    exact solo_forms _ _ i k _ hd hk
  · rintro rfl
    exact quad_forms _ _ i (h.1 rfl) _ hd
  · rintro rfl
    exact gang_forms _ _ i _ hd
  · rintro rfl
    refine pair_forms _ _ (by omega) fun e he => ?_
    have hm : e ∈ modeDies s d .pair := by
      unfold modeDies
      rw [if_pos (.inl rfl)]
      simp
      omega
    have he := (s.mill_modeChanged d .pair i e hm).1
    rw [MillSt.modeFor, if_pos (.inr rfl)] at he
    rw [he]
    rfl

theorem modeChange_waits (s : State) (d : Die) (m : MillMode) (i k : Nat) (hk : k ∈ modeTiles s d m i d.val)
    (hr : s.tileRuns d.val k = true) : exec (.millModeChange d m i) s = .next s := by
  have h2 : (modeDies s d m).all (s.tilesRest d m i) = false := by
    refine List.all_eq_false.2 ⟨d.val, mem_modeDies s d m, fun h => ?_⟩
    have h := List.all_eq_true.1 h k hk
    simp [hr] at h
  rw [exec_millModeChange, h2]
  simp

/-! ## The ladder (R96) -/

theorem ladderRung_climbs (s : State) (d : Die) (tile : Fin 16) (r : Nat) (hr : (s.mill d.val).rung.get 0 tile.val = r) (h0 : 0 < r)
    (hc : (s.mill d.val).ladderAt.get 0 tile.val + r * (16 * (s.mill d.val).ladder) ≤ s.clock) :
    completes (.ladderRung d tile) s fun t =>
      (t.mill d.val).rung.get 0 tile.val = (if r < 8 then r + 1 else 0) ∧ (∀ e, e ≠ d.val → t.mill e = s.mill e)
        ∧ (∀ k, k ≠ tile.val → (t.mill d.val).rung.get 0 k = (s.mill d.val).rung.get 0 k) ∧ t = { s with mills := t.mills } := by
  refine completes_of_exec (t := s.updMill d.val fun c => { c with rung := c.rung.set 0 tile.val (if r < 8 then r + 1 else 0) }) ?_
    ⟨?_, fun e he => State.mill_updMill_other _ _ _ _ he, fun k hk => ?_, rfl⟩
  · show execLadderRung d tile s = _
    unfold execLadderRung
    dsimp only
    rw [hr, if_neg]
    simp
    omega
  · rw [State.mill_updMill]
    exact SMap.get_set_same _ _ _ _
  · rw [State.mill_updMill]
    exact SMap.get_set_other _ _ _ _ _ hk

end Sys2Proof.Machine
end

section
/-! OBLIGATIONS. The Weir's level at a boundary of its windows (R95). -/

namespace Sys2Proof.Machine

open Sys2Proof

/-! ## An operation goes on at a new rate -/

/-- An operation as it goes on at the level of its dies. -/
def State.paced (s : State) (k : Nat) (o : MillOp) : MillOp := { o.rest s.clock with eff := effOf (s.weirOf (o.dies k)) o.booked }

/-- One operation goes on, where it still issues. -/
def State.pace (s : State) (e : Nat × MillOp) : State :=
  if e.2.held.isSome || !e.2.issuing s.clock then s else
  ((s.setOp e.1 e.2 (s.paced e.1 e.2)).chargeWeir e.2.pol e.2.seq ((s.paced e.1 e.2).ends - e.2.ends)).unchargeWeir e.2.pol e.2.seq
    (e.2.ends - (s.paced e.1 e.2).ends)

theorem State.retime_eq (s : State) (d : Nat) : s.retime d = (s.opsOn d).foldl State.pace s := rfl

theorem MillOp.rest_rest (o : MillOp) (now n : Nat) : ({ o.rest now with eff := n } : MillOp).rest now = { o.rest now with eff := n } := by
  have h : now - max o.from_ now = 0 := by omega
  simp [MillOp.rest, h]

/-- A paced operation stays as it is. -/
theorem State.paced_paced (s : State) (k : Nat) (o : MillOp) : s.paced k (s.paced k o) = s.paced k o := by
  show ({ (s.paced k o).rest s.clock with eff := effOf (s.weirOf (o.dies k)) o.booked } : MillOp) = s.paced k o
  rw [State.paced, MillOp.rest_rest]

/-- A die's mill without the ages that its tiles run to. -/
def MillSt.still (c : MillSt) : MillSt := { c with runsTo := [], lastIssue := [] }

theorem State.markTiles_still (s : State) (d : Nat) (tiles : BitVec 16) (runs last j : Nat) :
    ((s.markTiles d tiles runs last).mill j).still = (s.mill j).still := by
  unfold State.markTiles
  by_cases h : j = d
  · rw [h, State.mill_updMill]
    rfl
  · rw [State.mill_updMill_other _ _ _ _ h]

/-- What the change of one operation does to the mills. -/
theorem State.setOp_still (s : State) (k : Nat) (o new : MillOp) (j : Nat) :
    ((s.setOp k o new).mill j).still =
      ((s.updMill k fun c => { c with ops := c.ops.map fun x => if x = o then new else x }).mill j).still :=
  foldl_keeps_proj (fun u : State => (u.mill j).still) _ (fun u e => u.markTiles_still e _ _ _ j) _ _

theorem State.setOp_mill_other (s : State) (k : Nat) (o new : MillOp) (j : Nat) (hj : j ≠ k) (hd : j ∉ new.dies k) :
    (s.setOp k o new).mill j = s.mill j := by
  refine foldl_keeps _ (fun u : State => u.mill j = s.mill j) _ (fun u e he hu => ?_) _ (State.mill_updMill_other _ _ _ _ hj)
  rw [State.markTiles, State.mill_updMill_other _ _ _ _ fun h : j = e => hd (h ▸ he)]
  exact hu

theorem State.setOp_frame (s : State) (k : Nat) (o new : MillOp) : s.setOp k o new = { s with mills := (s.setOp k o new).mills } :=
  foldl_keeps _ (fun u : State => u = { s with mills := u.mills }) _ (fun _ e _ hu => State.updMill_frame hu e _) _
    (State.updMill_frame (u := s) rfl k _)

/-! ## What pacing keeps -/

/-- Pacing keeps all but mills and runs, every level, the results, and the mills of dies further off than one. -/
structure Paces (s : State) (d : Nat) (u : State) : Prop where
  frame : u = { s with mills := u.mills, pols := u.pols }
  weir : ∀ e, (u.mill e).weir = (s.mill e).weir
  results : ∀ e, (u.mill e).results = (s.mill e).results
  far : ∀ e, e + 1 < d ∨ d + 1 < e → u.mill e = s.mill e

theorem State.mem_opsOn {s : State} {d : Nat} {e : Nat × MillOp} (h : e ∈ s.opsOn d) :
    e.1 = d ∨ e.1 + 1 = d := by
  unfold State.opsOn at h
  rcases List.mem_append.1 h with h | h
  · obtain ⟨o, -, rfl⟩ := List.mem_map.1 h
    exact .inl rfl
  · split at h
    · obtain ⟨o, -, rfl⟩ := List.mem_map.1 h
      exact .inr (by dsimp only; omega)
    · cases h

/-- A paced state: its mills are those of the change of the operation. -/
theorem State.pace_mill (s : State) (e : Nat × MillOp) (h : (e.2.held.isSome || !e.2.issuing s.clock) = false) (j : Nat) :
    (s.pace e).mill j = (s.setOp e.1 e.2 (s.paced e.1 e.2)).mill j := by
  rw [State.pace, if_neg (by simp [h])]
  rfl

theorem State.mem_dies {o : MillOp} {k j : Nat} (h : j ∈ o.dies k) : j = k ∨ j = k + 1 := by
  unfold MillOp.dies at h
  split at h <;> simp at h <;> omega

theorem Paces.pace {s u : State} {d : Nat} (hu : Paces s d u) (e : Nat × MillOp) (he : e.1 = d ∨ e.1 + 1 = d) : Paces s d (u.pace e) := by
  by_cases h : (e.2.held.isSome || !e.2.issuing u.clock) = true
  · rw [State.pace, if_pos h]
    exact hu
  have h := Bool.eq_false_of_not_eq_true h
  obtain ⟨hf, hw, hr, hm⟩ := hu
  have hs := fun j => u.setOp_still e.1 e.2 (u.paced e.1 e.2) j
  have hk : ∀ j, ((u.updMill e.1 fun c => { c with ops := c.ops.map fun x => if x = e.2 then u.paced e.1 e.2 else x }).mill j).weir = (u.mill j).weir
      ∧ ((u.updMill e.1 fun c => { c with ops := c.ops.map fun x => if x = e.2 then u.paced e.1 e.2 else x }).mill j).results = (u.mill j).results := fun j => by
    by_cases hj : j = e.1
    · rw [hj, State.mill_updMill]
      exact ⟨rfl, rfl⟩
    · rw [State.mill_updMill_other _ _ _ _ hj]
      exact ⟨rfl, rfl⟩
  refine ⟨?_, fun j => ?_, fun j => ?_, fun j hj => ?_⟩
  · have hset := u.setOp_frame e.1 e.2 (u.paced e.1 e.2)
    obtain ⟨m, p, rfl⟩ : ∃ m p, u = { s with mills := m, pols := p } := ⟨_, _, hf⟩
    rw [State.pace, if_neg (by simp [h])]
    generalize State.setOp _ _ _ _ = v at hset ⊢
    obtain ⟨m', rfl⟩ : ∃ m', v = { s with mills := m', pols := p } := ⟨_, hset⟩
    rfl
  · rw [u.pace_mill e h, ← hw j, ← (hk j).1]
    exact (congrArg MillSt.weir (hs j) :)
  · rw [u.pace_mill e h, ← hr j, ← (hk j).2]
    exact (congrArg MillSt.results (hs j) :)
  · rw [u.pace_mill e h, State.setOp_mill_other _ _ _ _ _ (by omega), hm j hj]
    intro hj'
    have hj' : j ∈ e.2.dies e.1 := hj'
    have := State.mem_dies hj'
    omega

/-! ## The operations of the die -/

theorem Paces.paced {s u : State} {d : Nat} (hu : Paces s d u) (k : Nat) (o : MillOp) : u.paced k o = s.paced k o := by
  have hc : u.clock = s.clock := by rw [hu.frame]
  have hw : ∀ (l : List Nat) (n : Nat), l.foldl (fun n d => min n (u.mill d).weir) n = l.foldl (fun n d => min n (s.mill d).weir) n := by
    intro l n
    simp only [hu.weir]
  unfold State.paced State.weirOf
  rw [hc, hw]

theorem State.pace_ops (u : State) (e : Nat × MillOp) (d : Nat) (h : (e.2.held.isSome || !e.2.issuing u.clock) = false) :
    ((u.pace e).mill d).ops = if d = e.1 then (u.mill d).ops.map fun x => if x = e.2 then u.paced e.1 e.2 else x else (u.mill d).ops := by
  rw [u.pace_mill e h]
  refine (congrArg MillSt.ops (u.setOp_still e.1 e.2 (u.paced e.1 e.2) d) :).trans ?_
  by_cases hd : d = e.1
  · rw [if_pos hd, hd]
    show ((u.updMill e.1 _).mill e.1).ops = _
    rw [State.mill_updMill]
  · rw [if_neg hd]
    show ((u.updMill e.1 _).mill d).ops = _
    rw [State.mill_updMill_other _ _ _ _ hd]

/-- A paced operation stays among the operations. -/
theorem State.paced_stays {s u : State} {d : Nat} (hu : Paces s d u) (e : Nat × MillOp) (o : MillOp)
    (ho : s.paced d o ∈ (u.mill d).ops) : s.paced d o ∈ ((u.pace e).mill d).ops := by
  by_cases h : (e.2.held.isSome || !e.2.issuing u.clock) = true
  · rw [State.pace, if_pos h]
    exact ho
  rw [u.pace_ops e d (Bool.eq_false_of_not_eq_true h)]
  split
  · rename_i hd
    refine List.mem_map.2 ⟨_, ho, ?_⟩
    split
    · rename_i hx
      rw [hu.paced, ← hd, ← hx, State.paced_paced]
    · rfl
  · exact ho

/-- An operation is still to be paced, or has been. -/
def State.pacing (s : State) (d : Nat) (o : MillOp) (u : State) : Prop :=
  Paces s d u ∧ (o ∈ (u.mill d).ops ∨ s.paced d o ∈ (u.mill d).ops)

theorem State.pacing_pace {s u : State} {d : Nat} {o : MillOp} (hu : s.pacing d o u) (e : Nat × MillOp) (he : e.1 = d ∨ e.1 + 1 = d) :
    s.pacing d o (u.pace e) := by
  refine ⟨hu.1.pace e he, hu.2.elim (fun ho => ?_) fun ho => .inr (State.paced_stays hu.1 e o ho)⟩
  by_cases h : (e.2.held.isSome || !e.2.issuing u.clock) = true
  · rw [State.pace, if_pos h]
    exact .inl ho
  rw [u.pace_ops e d (Bool.eq_false_of_not_eq_true h)]
  split
  · rename_i hd
    by_cases hx : o = e.2
    · refine .inr (List.mem_map.2 ⟨o, ho, ?_⟩)
      rw [if_pos hx, hu.1.paced, ← hd, hx]
    · exact .inl (List.mem_map.2 ⟨o, ho, if_neg hx⟩)
  · exact .inl ho

theorem State.paced_of_pace {s u : State} {d : Nat} {o : MillOp} (hu : s.pacing d o u) (hh : o.held = none) (hi : o.issuing s.clock = true) :
    s.paced d o ∈ ((u.pace (d, o)).mill d).ops := by
  refine hu.2.elim (fun ho => ?_) fun ho => State.paced_stays hu.1 _ o ho
  have hc : u.clock = s.clock := by rw [hu.1.frame]
  rw [u.pace_ops (d, o) d (by simp [hh, hc, hi]), if_pos rfl]
  refine List.mem_map.2 ⟨o, ho, ?_⟩
  rw [if_pos rfl, hu.1.paced]

theorem State.retime_paces (s : State) (d : Nat) : Paces s d (s.retime d) := by
  rw [State.retime_eq]
  exact foldl_keeps _ (Paces s d) _ (fun u e he hu => hu.pace e (State.mem_opsOn he)) s ⟨rfl, fun _ => rfl, fun _ => rfl, fun _ _ => rfl⟩

theorem State.mem_opsOn_self {s : State} {d : Nat} {o : MillOp} (h : o ∈ (s.mill d).ops) : (d, o) ∈ s.opsOn d :=
  List.mem_append_left _ (List.mem_map.2 ⟨o, h, rfl⟩)

theorem State.retime_ops (s : State) (d : Nat) (o : MillOp) (ho : o ∈ (s.mill d).ops) (hh : o.held = none) (hi : o.issuing s.clock = true) :
    s.paced d o ∈ ((s.retime d).mill d).ops := by
  rw [State.retime_eq]
  exact foldl_reaches State.pace (s.pacing d o) (fun u => s.paced d o ∈ (u.mill d).ops) (d, o) _
    (fun u e he hu => State.pacing_pace hu e (State.mem_opsOn he)) (fun u hu => State.paced_of_pace hu hh hi)
    (fun u e _ _ hu hp => State.paced_stays hu.1 e o hp) (State.mem_opsOn_self ho) s
    ⟨⟨rfl, fun _ => rfl, fun _ => rfl, fun _ _ => rfl⟩, .inl ho⟩

theorem State.watchSteps_form (s : State) : ∃ p, s.watchSteps = { s with pwr := p } :=
  foldl_keeps _ (fun u : State => ∃ p, u = { s with pwr := p }) _ (fun u d _ hu => by
    obtain ⟨p, rfl⟩ := hu
    exact ⟨_, rfl⟩) s ⟨s.pwr, rfl⟩

theorem weirLevel_changes (s : State) (d : Die) (hc : s.clock % 64 = 0) :
    completes (.weirLevelChange d) s fun t =>
      (t.mill d.val).weir = (s.mill d.val).weirNext
        ∧ (∀ o ∈ (s.mill d.val).ops, o.held = none → o.issuing s.clock = true → ∃ o' ∈ (t.mill d.val).ops,
            o' = { o.rest s.clock with eff := effOf (t.weirOf (o.dies d.val)) o.booked })
        ∧ (∀ e, e + 1 < d.val ∨ d.val + 1 < e → t.mill e = s.mill e) ∧ (∀ e, (t.mill e).results = (s.mill e).results)
        ∧ t = { s with mills := t.mills, pols := t.pols, pwr := t.pwr } := by
  obtain ⟨v, hv⟩ : ∃ v, v = s.updMill d.val fun c => { c with weir := c.weirNext } := ⟨_, rfl⟩
  refine completes_of_exec (t := (v.retime d.val).watchSteps) ?_ ?_
  · show execWeirLevelChange d s = _
    unfold execWeirLevelChange
    rw [if_neg (by simp [hc]), hv]
  have hmv : v.mill d.val = { s.mill d.val with weir := (s.mill d.val).weirNext } := by rw [hv, State.mill_updMill]
  have hmo : ∀ e, e ≠ d.val → v.mill e = s.mill e := fun e he => by rw [hv, State.mill_updMill_other _ _ _ _ he]
  have hp := v.retime_paces d.val
  have ho := v.retime_ops d.val
  have hfv : v = { s with mills := v.mills } := hv ▸ rfl
  have hpc := hp.paced
  generalize v.retime d.val = w at hp ho hpc ⊢
  obtain ⟨hf, hw, hr, hm⟩ := hp
  obtain ⟨q, hws⟩ := w.watchSteps_form
  rw [hws]
  have hcv : v.clock = s.clock := by rw [hfv]
  have hwm : ∀ e, ({ w with pwr := q } : State).mill e = w.mill e := fun e => rfl
  have hcw : w.clock = s.clock := by rw [hf, hcv]
  refine ⟨?_, fun o hom hh hi => ⟨_, ?_, rfl⟩, fun e he => ?_, fun e => ?_, ?_⟩
  · rw [hwm, hw, hmv]
  · have hx : v.paced d.val o ∈ (w.mill d.val).ops := ho o (by rw [hmv]; exact hom) hh (by rw [hcv]; exact hi)
    have hy : ({ w with pwr := q } : State).weirOf (o.dies d.val) = w.weirOf (o.dies d.val) := rfl
    rw [← hpc] at hx
    rw [hwm, hy, ← hcw]
    exact hx
  · rw [hwm, hm e he, hmo e (by omega)]
  · rw [hwm, hr]
    by_cases he : e = d.val
    · rw [he, hmv]
    · rw [hmo e he]
  · obtain ⟨m, rfl⟩ : ∃ m, v = { s with mills := m } := ⟨_, hfv⟩
    obtain ⟨m', p, rfl⟩ : ∃ m' p, w = { s with mills := m', pols := p } := ⟨_, _, hf⟩
    rfl

/-- Settles O36: modes die by die, the Weir operation by operation: an operation that has been paced stays as it is. -/
theorem arraysWeirAndLadderFollow : Obligations.ArraysWeirAndLadderFollow := by
  refine ⟨modeChange_completes, modeChange_waits, weirLevel_changes, fun s d hc => ?_, ladderRung_climbs⟩
  show execWeirLevelChange d s = _
  unfold execWeirLevelChange
  rw [if_pos hc]

end Sys2Proof.Machine
end

section
/-! OBLIGATIONS. Scale, Sieve and Cooper compute (R99 to R107): refuted by a Sieve-8 send of a polder number beyond 63. -/

namespace Sys2Proof.Machine

open Sys2Proof

/-- A schedule of polder 64 that uses the Sieve of die 0. -/
def sieveSchedule : Schedule := { pol := 64, stations := [2] }

/-- A charter with 65 records: the last gives polder 64 lanes of the Sieve of die 0. -/
def sieveImage : Image :=
  { charter := { pols := List.replicate 64 {} ++ [{ stations := [(0, 1, 0)] }] }, schedules := [sieveSchedule] }

/-- Polder 64 runs a manifest of its schedule. -/
def sieveState : State := { img := some sieveImage, pols := [(64, { running := [(0, {})] })] }

/-- It sends an empty, poisoned tile. -/
def sieveSend : Sieve8 := { pol := 64, record := List.replicate 32 0, hop := 0, tile := 0, g := [], poison := true }

/-- The send leaves its poison at the Sieve's lanes of polder 64 of die 0, which stand where those of polder 0 of die 1 do. -/
theorem exec_sieveSend : exec (.sieve8Encode 0 sieveSend) sieveState = .next { sieveState with stations := [(64, { poison := true })] } := by
  rfl

/-- Refutes O37: the statement lets a Sieve-8 send name any polder number. One of polder 64 on die 0 changes the lanes of polder 0 on
die 1, which the statement says are left alone. -/
theorem not_stationsCompute : ¬ Obligations.StationsCompute := by
  unfold Obligations.StationsCompute
  rintro ⟨-, -, -, -, hsieve, -⟩
  have h := (hsieve sieveState sieveState sieveState 0 sieveSend 0 sieveSchedule { kind := 2, die := 0 } false rfl rfl rfl rfl (by decide) (by decide)
    rfl rfl rfl rfl (fun _ _ => List.not_mem_nil) rfl nofun).1 [] rfl rfl
  obtain ⟨⟨-, -, -, hlanes⟩, -⟩ := completes.of_exec h exec_sieveSend
  exact absurd (congrArg StationSt.poison (hlanes 1 0 (by omega) (by omega) (by decide))) (by decide)

end Sys2Proof.Machine
end

section
/-! SUPPORT. An operation begins on a region of a Mill die (R84 to R96): what it leaves of the die and of everything else. -/

namespace Sys2Proof.Machine

open Sys2Proof

/-! ## A running manifest -/

/-- What a change of runs keeps of every run it keeps of the run that is read, listed or not. -/
theorem State.run_updRun_proj {β : Type} (g : Run → β) (f : Run → Run) (hf : ∀ r, g (f r) = g r) (s : State) (p seq : Nat) :
    g (((s.updRun p seq f).pol p).run seq) = g ((s.pol p).run seq) := by
  by_cases h : (s.pol p).isRunning seq = true
  · rw [s.run_updRun p seq f h, hf]
  · unfold State.updRun
    rw [State.pol_updPol, if_neg h]

theorem State.run_updStream_proj {β : Type} (g : Run → β) (hg : ∀ (r : Run) x, g { r with streams := x } = g r) (s : State) (p seq n : Nat)
    (f : StreamRun → StreamRun) : g (((s.updStream p seq n f).pol p).run seq) = g ((s.pol p).run seq) :=
  State.run_updRun_proj g _ (fun r => hg r _) s p seq

/-- What a level that is booked rests on. -/
theorem State.bookedLevel_congr {s t : State} (p seq : Nat) (hi : t.img = s.img) (hm : ((t.pol p).run seq).m = ((s.pol p).run seq).m)
    (hp : ((t.pol p).run seq).phase = ((s.pol p).run seq).phase) : t.bookedLevel p seq = s.bookedLevel p seq := by
  unfold State.bookedLevel State.phasePoint State.schedule State.sealed State.charter
  dsimp only
  rw [hi, hm, hp]

/-! ## The die -/

/-- A die's settings and results: what the begin of an operation keeps. -/
def MillSt.settings (c : MillSt) : MillSt := { c with rung := [], ladderAt := [], issued := 0, runsTo := [], lastIssue := [], ops := [], cycles := [] }

theorem MillSt.settings_cycles (c : MillSt) (x : SMap Nat) : ({ c with cycles := x } : MillSt).settings = c.settings := rfl

theorem enterLadder_settings (now first : Nat) (c : MillSt) (ts : List Nat) :
    (ts.foldl (enterLadder now first) c).settings = c.settings := by
  refine foldl_keeps_proj MillSt.settings _ (fun c t => ?_) ts c
  unfold enterLadder
  dsimp only
  split <;> rfl

theorem State.occupy_mill (s : State) (d first : Nat) (mask : BitVec 16) (cycles drain issues : Nat) :
    ((s.occupy d first mask cycles drain issues).mill d).settings = (s.mill d).settings
      ∧ ∀ i ∈ bitsOf 16 mask.toNat, ((s.occupy d first mask cycles drain issues).mill d).runsTo.get 0 i = s.clock + cycles := by
  unfold State.occupy State.markTiles
  dsimp only
  rw [State.mill_updMill, State.mill_updMill]
  exact ⟨enterLadder_settings s.clock first (s.mill d) _, fun i hi => SMap.get_setEach 0 _ _ _ i hi⟩

theorem State.occupy_frame (s : State) (d first : Nat) (mask : BitVec 16) (cycles drain issues : Nat) :
    s.occupy d first mask cycles drain issues = { s with mills := (s.occupy d first mask cycles drain issues).mills } := rfl

theorem State.occupy_other (s : State) (d first : Nat) (mask : BitVec 16) (cycles drain issues e : Nat) (h : e ≠ d) :
    (s.occupy d first mask cycles drain issues).mill e = s.mill e := by
  unfold State.occupy State.markTiles
  dsimp only
  rw [State.mill_updMill_other _ _ _ _ h, State.mill_updMill_other _ _ _ _ h]

/-! ## Begin -/

/-- The cycles of an operation on a region of a die. -/
def State.regionCycles (s : State) (d p seq : Nat) (follows : Bool) (t : Timing) : Nat := t.cycles follows (s.weirOf [d]) (s.bookedLevel p seq)

/-- Nothing but mills and the runs of one polder has changed, whose streams and booked level are as before; the dies keep their settings. -/
structure Begins (p seq : Nat) (s t : State) : Prop where
  frame : t = { s with mills := t.mills, pols := t.pols }
  pol : ∀ q, q ≠ p → t.pol q = s.pol q
  stream : ∀ n, t.streamRun p seq n = s.streamRun p seq n
  booked : t.bookedLevel p seq = s.bookedLevel p seq
  settings : ∀ e, (t.mill e).settings = (s.mill e).settings

theorem Begins.refl (p seq : Nat) (s : State) : Begins p seq s s := ⟨rfl, fun _ _ => rfl, fun _ => rfl, rfl, fun _ => rfl⟩

theorem Begins.trans {p seq : Nat} {s t u : State} (h : Begins p seq s t) (k : Begins p seq t u) : Begins p seq s u := by
  refine ⟨?_, fun q hq => (k.pol q hq).trans (h.pol q hq), fun n => (k.stream n).trans (h.stream n), k.booked.trans h.booked,
    fun e => (k.settings e).trans (h.settings e)⟩
  obtain ⟨m, q, rfl⟩ : ∃ m q, t = { s with mills := m, pols := q } := ⟨_, _, h.frame⟩
  exact k.frame

theorem Begins.clock {p seq : Nat} {s t : State} (h : Begins p seq s t) : t.clock = s.clock := by rw [h.frame]

/-- A change of the mills that keeps their settings. -/
theorem Begins.of_mills (p seq : Nat) {s t : State} (hf : t = { s with mills := t.mills }) (hm : ∀ e, (t.mill e).settings = (s.mill e).settings) :
    Begins p seq s t := by
  obtain ⟨m, rfl⟩ : ∃ m, t = { s with mills := m } := ⟨_, hf⟩
  exact ⟨rfl, fun _ _ => rfl, fun _ => rfl, rfl, hm⟩

theorem Begins.updMill (p seq : Nat) (s : State) (d : Nat) (f : MillSt → MillSt) (hf : (f (s.mill d)).settings = (s.mill d).settings) :
    Begins p seq s (s.updMill d f) := by
  refine Begins.of_mills p seq rfl fun e => ?_
  by_cases he : e = d
  · rw [he, State.mill_updMill, hf]
  · rw [State.mill_updMill_other _ _ _ _ he]

theorem Begins.chargeWeir (p seq : Nat) (s : State) (n : Nat) : Begins p seq s (s.chargeWeir p seq n) := by
  have hr : ∀ {β : Type} (g : Run → β), (∀ r now n k, g (Run.delayed r now n k) = g r) →
      g (((s.chargeWeir p seq n).pol p).run seq) = g ((s.pol p).run seq) := fun g hg =>
    State.run_updRun_proj g _ (fun r => by
      split
      · exact hg _ _ _ _
      · rfl) s p seq
  exact ⟨rfl, fun q hq => State.pol_updPol_other _ _ _ _ hq, fun k => hr (fun r => SMap.get ({} : StreamRun) r.streams k) fun _ _ _ _ => rfl,
    State.bookedLevel_congr p seq rfl (hr Run.m fun _ _ _ _ => rfl) (hr Run.phase fun _ _ _ _ => rfl), fun _ => rfl⟩

theorem Begins.occupy (p seq : Nat) (s : State) (d first : Nat) (mask : BitVec 16) (cycles drain issues : Nat) :
    Begins p seq s (s.occupy d first mask cycles drain issues) := by
  refine Begins.of_mills p seq (s.occupy_frame d first mask cycles drain issues) fun e => ?_
  by_cases he : e = d
  · rw [he, (s.occupy_mill d first mask cycles drain issues).1]
  · rw [State.occupy_other _ _ _ _ _ _ _ _ he]

/-- What the begin of an operation on a region leaves. -/
theorem State.begin_region (s : State) (d p seq : Nat) (tiles : BitVec 16) (follows : Bool) (t : Timing) :
    (s.begin_ d regionArray p seq tiles follows t).1 = s.regionCycles d p seq follows t
      ∧ Begins p seq s (s.begin_ d regionArray p seq tiles follows t).2
      ∧ (∀ e, e ≠ d → (s.begin_ d regionArray p seq tiles follows t).2.mill e = s.mill e)
      ∧ ∀ i ∈ bitsOf 16 tiles.toNat, ((s.begin_ d regionArray p seq tiles follows t).2.mill d).runsTo.get 0 i =
          s.clock + s.regionCycles d p seq follows t := by
  unfold State.begin_
  rw [if_neg (by decide)]
  extract_lets dies booked n cycles u v entry fin op
  have hc : cycles = s.regionCycles d p seq follows t := rfl
  have hv : v = u.occupy d 0 tiles cycles t.drain t.issues := rfl
  have hu : Begins p seq s u := Begins.chargeWeir p seq s _
  have huv : Begins p seq u v := hv ▸ Begins.occupy p seq u d 0 tiles cycles t.drain t.issues
  have hclock : u.clock = s.clock := hu.clock
  have humill : ∀ e, u.mill e = s.mill e := fun e => rfl
  have hruns := (u.occupy_mill d 0 tiles cycles t.drain t.issues).2
  have hother := u.occupy_other d 0 tiles cycles t.drain t.issues
  rw [← hv] at hruns hother
  clear_value v u cycles
  refine ⟨hc, hu.trans (huv.trans (Begins.updMill p seq v d _ rfl)), fun e he => ?_, fun i hi => ?_⟩
  · dsimp only
    rw [State.mill_updMill_other _ _ _ _ he, hother e he, humill]
  · dsimp only
    rw [State.mill_updMill, ← hc, ← hclock]
    exact hruns i hi

end Sys2Proof.Machine
end

section
/-! OBLIGATIONS. Verify passes (R90 to R94). -/

namespace Sys2Proof.Machine

open Sys2Proof Fpu

/-! ## Every die runs its slice -/

theorem verifyTiming_congr {c c' : MillSt} (h : c'.settings = c.settings) (v : VerifyOp) (kmax vs : Nat) :
    verifyTiming c' v kmax vs = verifyTiming c v kmax vs := by
  have hl : c'.ladder = c.ladder := (congrArg MillSt.ladder h :)
  have hs : c'.stagger = c.stagger := (congrArg MillSt.stagger h :)
  unfold verifyTiming gemvTiming ladderTerm
  dsimp only
  rw [hl, hs]

/-- One die's slice begins; its timing is that of the home die's settings. -/
def State.slice (s : State) (v : VerifyOp) (seq home kmax vs : Nat) (used : BitVec 16) (follows : Bool) (d : Nat) : State :=
  let x := s.begin_ d regionArray v.pol seq used follows (verifyTiming (s.mill home) v kmax vs)
  x.2.updMill d fun c => { c with cycles := c.cycles.set 0 regionArray x.1 }

theorem State.regionCycles_congr {p seq : Nat} {s t : State} (h : Begins p seq s t) (d : Nat) (follows : Bool) (tm : Timing) :
    t.regionCycles d p seq follows tm = tm.cycles follows (min 64 (s.mill d).weir) (s.bookedLevel p seq) := by
  have hw : (t.mill d).weir = (s.mill d).weir := (congrArg MillSt.weir (h.settings d) :)
  show tm.cycles follows (min 64 (t.mill d).weir) (t.bookedLevel p seq) = _
  rw [h.booked, hw]

section
variable (s : State) (v : VerifyOp) (seq home kmax vs : Nat) (used : BitVec 16) (follows : Bool)

theorem State.slice_begins (d : Nat) : Begins v.pol seq s (s.slice v seq home kmax vs used follows d) := by
  obtain ⟨-, hb, -, -⟩ := s.begin_region d v.pol seq used follows (verifyTiming (s.mill home) v kmax vs)
  exact hb.trans (Begins.updMill v.pol seq _ d _ (MillSt.settings_cycles _ _))

theorem State.slice_other (d e : Nat) (h : e ≠ d) : (s.slice v seq home kmax vs used follows d).mill e = s.mill e := by
  obtain ⟨-, -, ho, -⟩ := s.begin_region d v.pol seq used follows (verifyTiming (s.mill home) v kmax vs)
  rw [State.slice, State.mill_updMill_other _ _ _ _ h, ho e h]

/-- What a slice leaves of its die, from the state in which the first slice began. -/
theorem State.slice_runs {u : State} (hu : Begins v.pol seq s u) (d : Nat) :
    let n := (verifyTiming (s.mill home) v kmax vs).cycles follows (min 64 (s.mill d).weir) (s.bookedLevel v.pol seq)
    ((u.slice v seq home kmax vs used follows d).mill d).cycles.get 0 22 = n
      ∧ ∀ i ∈ bitsOf 16 used.toNat, ((u.slice v seq home kmax vs used follows d).mill d).runsTo.get 0 i = s.clock + n := by
  obtain ⟨hc, -, -, hr⟩ := u.begin_region d v.pol seq used follows (verifyTiming (u.mill home) v kmax vs)
  rw [verifyTiming_congr (hu.settings home) v kmax vs, State.regionCycles_congr hu] at hc hr
  intro n
  unfold State.slice
  dsimp only
  rw [State.mill_updMill, verifyTiming_congr (hu.settings home) v kmax vs, hc]
  refine ⟨SMap.get_set_same _ _ _ _, fun i hi => ?_⟩
  rw [← hu.clock]
  exact hr i hi

/-- The slices of all dies. -/
def State.slices (dies : List Nat) : State := dies.foldl (fun s d => s.slice v seq home kmax vs used follows d) s

theorem State.slices_begins (dies : List Nat) : Begins v.pol seq s (s.slices v seq home kmax vs used follows dies) :=
  foldl_keeps _ (Begins v.pol seq s) dies (fun u d _ hu => hu.trans (u.slice_begins v seq home kmax vs used follows d)) s (Begins.refl _ _ s)

theorem State.slices_other (dies : List Nat) (e : Nat) (h : e ∉ dies) : (s.slices v seq home kmax vs used follows dies).mill e = s.mill e := by
  refine foldl_keeps _ (fun u : State => u.mill e = s.mill e) dies (fun u d hd hu => ?_) s rfl
  rw [State.slice_other _ _ _ _ _ _ _ _ _ _ (fun he : e = d => h (he ▸ hd))]
  exact hu

theorem State.slices_runs (dies : List Nat) (hnd : dies.Nodup) (e : Nat) (he : e ∈ dies) :
    let n := (verifyTiming (s.mill home) v kmax vs).cycles follows (min 64 (s.mill e).weir) (s.bookedLevel v.pol seq)
    ((s.slices v seq home kmax vs used follows dies).mill e).cycles.get 0 22 = n
      ∧ ∀ i ∈ bitsOf 16 used.toNat, ((s.slices v seq home kmax vs used follows dies).mill e).runsTo.get 0 i = s.clock + n := by
  intro n
  refine foldl_nodup_reaches (fun s d => State.slice s v seq home kmax vs used follows d) (Begins v.pol seq s)
    (fun u : State => (u.mill e).cycles.get 0 22 = n ∧ ∀ i ∈ bitsOf 16 used.toNat, (u.mill e).runsTo.get 0 i = s.clock + n) e dies hnd he
    (fun u d _ hu => hu.trans (u.slice_begins v seq home kmax vs used follows d)) (fun u hu => s.slice_runs v seq home kmax vs used follows hu e)
    (fun u d hd hu => ?_) s (Begins.refl _ _ s)
  rw [State.slice_other _ _ _ _ _ _ _ _ _ _ hd.symm]
  exact hu

end

theorem State.useTiles_keeps (s : State) (p seq : Nat) (ds : List Demand) :
    s.useTiles p seq ds = { s with pols := (s.useTiles p seq ds).pols } ∧ (∀ q, q ≠ p → (s.useTiles p seq ds).pol q = s.pol q)
      ∧ (s.useTiles p seq ds).bookedLevel p seq = s.bookedLevel p seq := by
  refine foldl_keeps _ (fun u : State => u = { s with pols := u.pols } ∧ (∀ q, q ≠ p → u.pol q = s.pol q) ∧ u.bookedLevel p seq = s.bookedLevel p seq)
    ds (fun u d _ hu => ?_) s ⟨rfl, fun _ _ => rfl, rfl⟩
  obtain ⟨hf, hp, hb⟩ := hu
  refine ⟨?_, fun q hq => (State.pol_updRun_other _ _ _ _ _ hq).trans (hp q hq), ?_⟩
  · obtain ⟨m, rfl⟩ : ∃ m, u = { s with pols := m } := ⟨_, hf⟩
    rfl
  · rw [← hb]
    exact State.bookedLevel_congr p seq rfl (State.run_updStream_proj Run.m (fun _ _ => rfl) u p seq _ _)
      (State.run_updStream_proj Run.phase (fun _ _ => rfl) u p seq _ _)

/-! ## The pass -/

/-- The pass's outcome: drafts accepted, the token, FALLBACK. -/
def verifyOutcome (v : VerifyOp) (nd k : Nat) : Nat × Nat × Bool :=
  if v.samples then samplePass v nd k else ((greedyPass v k).1, (greedyPass v k).2, false)

/-- What a pass needs before its record is read. -/
structure VerifyReady (s : State) (d : Die) (v : VerifyOp) (seq : Nat) (c : Schedule) (mu : MillUse) : Prop where
  run : s.stationRun v.pol d.val 0 (fun c => (bitsOf 8 v.dies.toNat).all fun e => fits c useVerify e v.hidden.fmt v.head.fmt (c.kmax + 1) v.gemm.n
    v.hidden.cols v.nk (bitsOf 16 v.tiles.toNat)) = some (seq, c)
  use : verifyUse c v d.val = some mu
  home : (bitsOf 8 v.dies.toNat).head? = some d.val
  record : v.record.length = 64
  ok : v.gemm.ok = true
  cols : v.hidden.cols ≤ 16384
  whole : v.gemm.n % (256 * (bitsOf 8 v.dies.toNat).length) = 0
  rows : v.k c.kmax < v.hidden.rows
  draft : v.samples = true → v.q.length = c.kmax ∧ ∀ r ∈ v.q, r.length = v.gemm.n
  result : ∀ i, mu.result = some i → v.result = (((s.pol v.pol).run seq).m.operands.getD i (0, 0)).2
  region : ∀ e ∈ bitsOf 8 v.dies.toNat, s.regionReady v.pol e v.tiles (followsOn s (bitsOf 8 v.dies.toNat)
    (dealt v.tiles (gemvLoads v.head.fmt v.hidden.cols (v.gemm.n / (bitsOf 8 v.dies.toNat).length))) v.follows) = true
  fed : s.fed v.pol seq (verifyDemands c v (bitsOf 8 v.dies.toNat)) [] v.poison = true
  owes : s.stationOwes 1 d.val v.pol = []

theorem exec_verify (d : Die) (v : VerifyOp) (s : State) :
    exec (if v.samples then .verifySample d v else .verifyGreedy d v) s = .next (s.verify d.val v v.samples) := by
  cases h : v.samples <;> rfl

theorem VerifyReady.verify {s s' u : State} {d : Die} {v : VerifyOp} {seq : Nat} {c : Schedule} {mu : MillUse} {bad : Bool}
    (h : VerifyReady s d v seq c mu) (hr : s.readRecord (.station 1 d.val v.pol seq) v.pol seq mu.record v.record = (.is bad, s'))
    (hb : bad = true → v.poison = true)
    (hu : (s'.stationStore 1 d.val v.pol seq v.result (resultRecord v c.kmax (verifyOutcome v (bitsOf 8 v.dies.toNat).length (v.k c.kmax)).1
      (verifyOutcome v (bitsOf 8 v.dies.toNat).length (v.k c.kmax)).2.1 (verifyOutcome v (bitsOf 8 v.dies.toNat).length (v.k c.kmax)).2.2) v.poison).1 = some u) :
    s.verify d.val v v.samples = (u.useTiles v.pol seq (verifyDemands c v (bitsOf 8 v.dies.toNat))).slices v seq d.val c.kmax
      (v.gemm.n / (bitsOf 8 v.dies.toNat).length)
      (dealt v.tiles (gemvLoads v.head.fmt v.hidden.cols (v.gemm.n / (bitsOf 8 v.dies.toNat).length)))
      (followsOn s (bitsOf 8 v.dies.toNat) (dealt v.tiles (gemvLoads v.head.fmt v.hidden.cols (v.gemm.n / (bitsOf 8 v.dies.toNat).length))) v.follows)
      (bitsOf 8 v.dies.toNat) := by
  obtain ⟨hrun, huse, hhome, hrec, hok, hcols, hwhole, hrows, hdraft, hresult, hregion, hfed, howes⟩ := h
  have hres : (mu.result.any fun i => v.result ≠ (((s.pol v.pol).run seq).m.operands.getD i (0, 0)).2) = false := by
    cases hmu : mu.result with
    | none => rfl
    | some i => simp [hresult i hmu]
  have hreg : (bitsOf 8 v.dies.toNat).all (fun e => s.regionReady v.pol e v.tiles (followsOn s (bitsOf 8 v.dies.toNat)
      (dealt v.tiles (gemvLoads v.head.fmt v.hidden.cols (v.gemm.n / (bitsOf 8 v.dies.toNat).length))) v.follows)) = true :=
    List.all_eq_true.2 hregion
  have hq : (v.samples && !(v.q.length = c.kmax && v.q.all fun r => r.length = v.gemm.n)) = false := by
    cases hs : v.samples with
    | false => rfl
    | true =>
      obtain ⟨h1, h2⟩ := hdraft hs
      simp only [h1, decide_true, Bool.true_and, Bool.not_eq_false', List.all_eq_true, decide_eq_true_eq]
      exact h2
  unfold State.verify
  dsimp only
  rw [hrun]
  dsimp only
  rw [huse, Option.getD_some]
  rw [if_neg]
  · rw [hr]
    dsimp only
    rw [if_neg (by cases bad <;> simp_all)]
    unfold verifyOutcome at hu
    generalize (if v.samples = true then samplePass v (bitsOf 8 v.dies.toNat).length (v.k c.kmax) else
      ((greedyPass v (v.k c.kmax)).1, (greedyPass v (v.k c.kmax)).2, false)) = x at hu ⊢
    obtain ⟨acc, token, fb⟩ := x
    dsimp only at hu ⊢
    generalize s'.stationStore 1 d.val v.pol seq v.result (resultRecord v c.kmax acc token fb) v.poison = y at hu ⊢
    obtain ⟨o, w⟩ := y
    obtain rfl : o = some u := hu
    rfl
  · unfold followsOn at hreg
    rw [hhome, hres, hq, hreg, hfed, howes, hok, hrec, hwhole]
    simp
    omega

/-! ## The record -/

/-- The token slots of a record: drafts accepted, the token, then ones. -/
def recordTokens (v : VerifyOp) (acc token : Nat) (l : List Nat) : List Byte :=
  (l.map fun i => leBytes 4 (if i < acc then v.draft i else if i = acc then token else 0xFFFFFFFF)).flatten

theorem recordTokens_length (v : VerifyOp) (acc token : Nat) (l : List Nat) : (recordTokens v acc token l).length = 4 * l.length := by
  induction l with
  | nil => rfl
  | cons i l ih =>
    rw [recordTokens, List.map_cons, List.flatten_cons, List.length_append, ← recordTokens, ih, leBytes_length, List.length_cons]
    omega

theorem recordTokens_append (v : VerifyOp) (acc token : Nat) (l m : List Nat) :
    recordTokens v acc token (l ++ m) = recordTokens v acc token l ++ recordTokens v acc token m := by
  rw [recordTokens, List.map_append, List.flatten_append, ← recordTokens, ← recordTokens]

/-- The token stands after the drafts accepted. -/
theorem recordTokens_token (v : VerifyOp) (acc token : Nat) (ha : acc ≤ 8) :
    ∃ b, recordTokens v acc token (List.range 9) = recordTokens v acc token (List.range acc) ++ (leBytes 4 token ++ b) := by
  have hrange : List.range 9 = List.range acc ++ acc :: (List.range (8 - acc)).map fun j => acc + (j + 1) := by
    rw [show 9 = acc + ((8 - acc) + 1) by omega, List.range_add, List.range_succ_eq_map, List.map_cons, List.map_map]
    rfl
  refine ⟨recordTokens v acc token ((List.range (8 - acc)).map fun j => acc + (j + 1)), ?_⟩
  rw [hrange, recordTokens_append]
  congr 1
  rw [recordTokens, List.map_cons, List.flatten_cons, if_neg (lt_irrefl acc), if_pos rfl, ← recordTokens]

/-- A record is a head of 8 bytes, the tokens and a tail of 20. -/
theorem resultRecord_eq (v : VerifyOp) (kmax acc token : Nat) (fb : Bool) :
    ∃ c t, c.length = 6 ∧ t.length = 20 ∧ resultRecord v kmax acc token fb =
      leBytes 1 acc ++ (leBytes 1 (acc + 1) ++ (c ++ (recordTokens v acc token (List.range 9) ++ t))) := by
  have h : ∀ f : Nat, ∃ c t : List Byte, c.length = 6 ∧ t.length = 20 ∧ leBytes 1 acc ++ leBytes 1 (acc + 1) ++ leBytes 1 f ++ leBytes 5 0
      ++ recordTokens v acc token (List.range 9) ++ leBytes 4 0 ++ leBytes 8 (leAt v.record 16 8) ++ leBytes 8 0 =
        leBytes 1 acc ++ (leBytes 1 (acc + 1) ++ (c ++ (recordTokens v acc token (List.range 9) ++ t))) := fun f =>
    ⟨leBytes 1 f ++ leBytes 5 0, leBytes 4 0 ++ (leBytes 8 (leAt v.record 16 8) ++ leBytes 8 0),
      by simp only [List.length_append, leBytes_length], by simp only [List.length_append, leBytes_length],
      by simp only [List.append_assoc]⟩
  exact h _

theorem resultRecord_parts (v : VerifyOp) (kmax acc token : Nat) (fb : Bool) (ha : acc ≤ 8) (ht : token < 2 ^ 32) :
    let r := resultRecord v kmax acc token fb
    r.length = 64 ∧ leAt r 0 1 = acc ∧ leAt r 1 1 = acc + 1 ∧ leAt r (8 + 4 * acc) 4 = token := by
  obtain ⟨c, t, hc, ht', hr⟩ := resultRecord_eq v kmax acc token fb
  obtain ⟨b, hb⟩ := recordTokens_token v acc token ha
  intro r
  show (resultRecord v kmax acc token fb).length = 64 ∧ leAt (resultRecord v kmax acc token fb) 0 1 = acc
    ∧ leAt (resultRecord v kmax acc token fb) 1 1 = acc + 1 ∧ leAt (resultRecord v kmax acc token fb) (8 + 4 * acc) 4 = token
  rw [hr]
  refine ⟨?_, leAt_head 1 acc _ (by omega), leAt_mid _ _ 1 1 (acc + 1) (leBytes_length 1 acc) (by omega), ?_⟩
  · simp only [List.length_append, leBytes_length, recordTokens_length, List.length_range, hc, ht']
  · have hx := leAt_mid (leBytes 1 acc ++ (leBytes 1 (acc + 1) ++ (c ++ recordTokens v acc token (List.range acc)))) (b ++ t) (8 + 4 * acc) 4 token
      (by simp only [List.length_append, leBytes_length, recordTokens_length, List.length_range, hc]; omega) ht
    rw [hb]
    simpa only [List.append_assoc] using hx

/-! ## Greedy mode -/

/-- How far a list begins with elements of a kind. -/
theorem takeWhile_length (P : Nat → Bool) (l : List Nat) :
    (l.takeWhile P).length ≤ l.length ∧ (∀ i, i < (l.takeWhile P).length → P (l.getD i 0) = true)
      ∧ ((l.takeWhile P).length < l.length → P (l.getD (l.takeWhile P).length 0) = false) := by
  induction l with
  | nil => simp
  | cons a l ih =>
    obtain ⟨h1, h2, h3⟩ := ih
    cases ha : P a with
    | false => simp [ha]
    | true =>
      rw [List.takeWhile_cons, if_pos ha, List.length_cons, List.length_cons]
      refine ⟨by omega, fun i hi => ?_, fun h => h3 (by omega)⟩
      cases i with
      | zero => exact ha
      | succ i => exact h2 i (by omega)

theorem greedyPass_accepts (v : VerifyOp) (k : Nat) :
    (greedyPass v k).1 ≤ k ∧ (∀ i, i < (greedyPass v k).1 → v.draft i = argmax (v.logits i))
      ∧ ((greedyPass v k).1 < k → v.draft (greedyPass v k).1 ≠ argmax (v.logits (greedyPass v k).1)) := by
  obtain ⟨h1, h2, h3⟩ := takeWhile_length (fun i => v.draft i = argmax (v.logits i)) (List.range k)
  have hn : (greedyPass v k).1 = ((List.range k).takeWhile fun i => v.draft i = argmax (v.logits i)).length := rfl
  rw [← hn, List.length_range] at h1 h3
  rw [← hn] at h2
  have hget : ∀ i, i < k → (List.range k).getD i 0 = i := fun i hi => by
    rw [List.getD_eq_getElem _ _ (by simpa using hi), List.getElem_range]
  refine ⟨h1, fun i hi => ?_, fun h => ?_⟩
  · have := h2 i hi
    rw [hget i (by omega)] at this
    exact of_decide_eq_true this
  · have := h3 h
    rw [hget _ h] at this
    exact of_decide_eq_false this

theorem verifyTiming_cycles (m : MillSt) (v : VerifyOp) (kmax vs n booked : Nat) (hb : booked ≤ n) :
    let l := gemvLoads v.head.fmt v.hidden.cols vs
    let g := rateOf v.head.fmt
    (verifyTiming m v kmax vs).cycles false n booked
      = 256 + ceilDiv l (popCount 16 v.tiles.toNat) * max (64 * g) (g * (kmax + 1)) + 16 + 256
        + (if v.samples then 2 else 1) * ceilDiv ((kmax + 1) * vs) 1024 + 384 + 32 * (kmax + 1)
        + (56 * m.ladder + m.stagger * highest (dealt v.tiles l) - g * 512) := by
  have hs : stretch n booked = id := funext fun c => by rw [stretch, if_neg (by omega), id]
  intro l g
  unfold Timing.cycles
  rw [hs, List.map_id, if_neg Bool.false_ne_true, if_neg Bool.false_ne_true]
  have ht : (verifyTiming m v kmax vs).terms.sum = ceilDiv l (popCount 16 v.tiles.toNat) * max (64 * g) (g * (kmax + 1))
      + ((if v.samples then 2 else 1) * ceilDiv ((kmax + 1) * vs) 1024 + (384 + 32 * (kmax + 1))) := rfl
  have hl : (verifyTiming m v kmax vs).ladder = 56 * m.ladder + m.stagger * highest (dealt v.tiles l) - g * 512 := rfl
  have hc : (verifyTiming m v kmax vs).consts = 528 := rfl
  rw [ht, hc, id, hl]
  omega

theorem verify_otherMode (s : State) (d : Die) (v : VerifyOp) (sample : Bool) (h : v.samples ≠ sample) : s.verify d.val v sample = s := by
  unfold State.verify
  dsimp only
  split
  · rfl
  · rw [if_pos (by simp [h])]

/-- Settles O35: the slices of a pass die by die, each from the settings and the booked level that the first of them found. -/
theorem verifyPassesRun : Obligations.VerifyPassesRun := by
  refine ⟨?_, verifyTiming_cycles, fun s d v => ⟨fun h => ?_, fun h => ?_⟩, resultRecord_parts, greedyPass_accepts⟩
  · intro s s' u d v seq c mu bad dies nd k used f ds tm booked r hrun huse hhome hrec hok hcols hwhole hrows hdraft hresult hregion hfed howes
      hread hbad hu
    have hready : VerifyReady s d v seq c mu := ⟨hrun, huse, hhome, hrec, hok, hcols, hwhole, hrows, hdraft, hresult, hregion, hfed, howes⟩
    obtain ⟨huf, hup, hub⟩ := u.useTiles_keeps v.pol seq ds
    have hum : ∀ e, (u.useTiles v.pol seq ds).mill e = u.mill e := fun e => by rw [huf]; rfl
    have huc : (u.useTiles v.pol seq ds).clock = u.clock := by rw [huf]
    refine completes_of_exec ((exec_verify d v s).trans (congrArg Host.Outcome.next (hready.verify hread hbad hu))) ?_
    have hs := (u.useTiles v.pol seq ds).slices_begins v seq d.val c.kmax (v.gemm.n / nd) used f dies
    refine ⟨?_, fun e he => ?_, fun q hq => (hs.pol q hq).trans (hup q hq), fun n => hs.stream n, fun e he => ⟨?_, ?_⟩⟩
    · obtain ⟨m, hm⟩ : ∃ m, u.useTiles v.pol seq ds = { u with pols := m } := ⟨_, huf⟩
      have hf := hs.frame
      rw [hm] at hf
      rw [hm]
      exact hf
    · rw [State.slices_other _ _ _ _ _ _ _ _ _ _ he, hum]
    · rw [← hum e]
      exact (congrArg MillSt.results (hs.settings e) :)
    · have h := (u.useTiles v.pol seq ds).slices_runs v seq d.val c.kmax (v.gemm.n / nd) used f dies (List.nodup_range.filter _) e he
      rw [hum, hum, hub, huc] at h
      exact h
  · show Host.Outcome.next (s.verify d.val v false) = _
    rw [verify_otherMode s d v false (by simp [h])]
  · show Host.Outcome.next (s.verify d.val v true) = _
    rw [verify_otherMode s d v true (by simp [h])]

end Sys2Proof.Machine
end

section
/-! SUPPORT. Answers to a host's access, and the module's own reads and writes of a host (R31, R282 to R286). -/

namespace Sys2Proof.Machine

open Sys2Proof

/-! ## What leaves for a host -/

theorem splitRcb_single (m fuel a : Nat) (bs : List Byte) (hne : bs ≠ []) (h : a % 128 + bs.length ≤ m) : splitRcb m (fuel + 1) a bs = [bs] := by
  obtain ⟨b, l, rfl⟩ := List.exists_cons_of_ne_nil hne
  have hl : (b :: l).length ≤ m - a % 128 := by omega
  have hnil : ∀ f c, splitRcb m f c [] = [] := fun f c => by cases f <;> rfl
  show (b :: l).take (m - a % 128) :: splitRcb m fuel (a + (m - a % 128)) ((b :: l).drop (m - a % 128)) = _
  rw [List.take_of_length_le hl, List.drop_of_length_le hl, hnil]

theorem splitWrite_single (m fuel a : Nat) (bs : List Byte) (hne : bs ≠ []) (hm : bs.length ≤ m) (h : a % 4096 + bs.length ≤ 4096) :
    splitWrite m (fuel + 1) a bs = [(a, bs)] := by
  obtain ⟨b, l, rfl⟩ := List.exists_cons_of_ne_nil hne
  have hl : (b :: l).length ≤ min m (4096 - a % 4096) := by omega
  have hnil : ∀ f c, splitWrite m f c [] = [] := fun f c => by cases f <;> rfl
  show (a, (b :: l).take (min m (4096 - a % 4096))) :: splitWrite m fuel (a + min m (4096 - a % 4096)) ((b :: l).drop (min m (4096 - a % 4096))) = _
  rw [List.take_of_length_le hl, List.drop_of_length_le hl, hnil]

theorem splitRead_single (m fuel a len : Nat) (hne : len ≠ 0) (hm : len ≤ m) (h : a % 1024 + len ≤ 1024) : splitRead m (fuel + 1) a len = [(a, len)] := by
  have hmin : min len (min m (1024 - a % 1024)) = len := by omega
  have hnil : ∀ f c, splitRead m f c 0 = [] := fun f c => by cases f <;> rfl
  simp only [splitRead, hne, if_false, hmin, Nat.sub_self, hnil]

theorem State.mps_ge (s : State) (port : Nat) : 128 ≤ s.mps port := by
  have := Nat.one_le_two_pow (n := field (s.devCtl port) 5 3)
  simp only [State.mps]
  omega

theorem State.mrrs_ge (s : State) (port : Nat) : 128 ≤ s.mrrs port := by
  have := Nat.one_le_two_pow (n := field (s.devCtl port) 12 3)
  simp only [State.mrrs]
  omega

theorem State.tagLimit_pos (s : State) (port : Nat) : 0 < s.tagLimit port := by
  unfold State.tagLimit
  dsimp only
  split_ifs <;> decide

/-- Bytes that end by the next multiple of 128 leave in one completion (R283). -/
theorem State.complete_single (s : State) (port fn addr : Nat) (data : List Byte) (ep : Bool) (hne : data ≠ [])
    (h : addr % 128 + data.length ≤ 128) : s.complete port fn addr data ep = s.toHost port (.completion fn data 0 ep) := by
  have hm := s.mps_ge port
  unfold State.complete
  rw [splitRcb_single _ _ _ _ hne (by omega)]
  rfl

theorem Src.portOf_lt (src : Src) : src.portOf < 2 := by cases src <;> exact Fin.isLt _

/-- A message enters the quay to a host, which has room. -/
theorem State.toHost_room (s : State) {port : Nat} (m : HostMsg) (hp : port < 2) (hw : (s.quay (hostOutNo port)).waiting = [])
    (hl : (s.quay (hostOutNo port)).entries.length < 128) :
    ((s.toHost port m).quay (hostOutNo port)).entries = (s.quay (hostOutNo port)).entries ++ [.host m] := by
  have hd : quayDepth (hostOutNo port) = 128 := by interval_cases port <;> rfl
  unfold State.toHost
  rw [State.quay_pushQuay, QuaySt.push_of_room _ _ _ (by rw [hd]; exact hl) hw]

theorem State.toHost_frame (s : State) (port : Nat) (m : HostMsg) : s.toHost port m = { s with quays := (s.toHost port m).quays } := rfl

/-- An answer of free bytes, poisoned. -/
theorem State.completePoison_leaves (s : State) {port : Nat} (fn off len : Nat) (hp : port < 2) (hne : len ≠ 0) (h : off % 128 + len ≤ 128)
    (hw : (s.quay (hostOutNo port)).waiting = []) (hl : (s.quay (hostOutNo port)).entries.length < 128) :
    ∃ bs, bs.length = len ∧ ((s.completePoison port fn off len).quay (hostOutNo port)).entries
        = (s.quay (hostOutNo port)).entries ++ [.host (.completion fn bs 0 true)]
      ∧ (s.completePoison port fn off len).mem = s.mem ∧ (s.completePoison port fn off len).crier = s.crier := by
  obtain ⟨bs, u, hf⟩ : ∃ bs u, s.freeBytes len = (bs, u) := ⟨_, _, rfl⟩
  have hb : bs.length = len := by
    have : bs = (s.freeBytes len).1 := by rw [hf]
    rw [this]
    exact leBytes_length _ _
  have hu : u = { s with seed := u.seed } := by
    have : u = (s.freeBytes len).2 := by rw [hf]
    rw [this]
    rfl
  have hne' : bs ≠ [] := by rintro rfl; exact hne hb.symm
  have hq : u.quay (hostOutNo port) = s.quay (hostOutNo port) := by rw [hu]; rfl
  have hc : s.completePoison port fn off len = u.toHost port (.completion fn bs 0 true) := by
    unfold State.completePoison
    rw [hf]
    exact u.complete_single _ _ _ _ _ hne' (by omega)
  refine ⟨bs, hb, ?_, ?_, ?_⟩ <;> rw [hc]
  · rw [u.toHost_room _ hp (by rw [hq]; exact hw) (by rw [hq]; exact hl), hq]
  · rw [u.toHost_frame, hu]
  · rw [u.toHost_frame, hu]

/-- An event in a polder's own day book. -/
theorem State.raiseOwn_band (s : State) (code : Code) (source p : Nat) (detail : List Byte) :
    ∃ e, (s.raiseOwn code source p detail).crier.band = s.crier.band ++ [e] ∧ e.code = code ∧ e.book = p := ⟨_, rfl, rfl, rfl⟩

/-! ## Accesses that come to nothing (R282) -/

section
variable {s : State} {src : Src} {p : Nat} (hp : s.fnPolder src.portOf src.fnOf = some p) (h0 : src ≠ .dev 0) (h1 : src ≠ .dev 1)
include hp h0 h1

theorem exec_hostBar2Read {off len : Nat} (hup : s.fnUp src.portOf src.fnOf = true) (hlen : len ≠ 0)
    (hh : s.held (srcBar2 src.portOf) p = false) (hr : s.fnReaches src.portOf src.fnOf = true) (hst : 2 ≤ s.boot.stage) :
    exec (.hostBar2Read src off len) s = .next (match s.bar2Verdict src.portOf src.fnOf p 0 off len with
      | .undecoded => s.completeUr src.portOf src.fnOf
      | .refused => (s.completeUr src.portOf src.fnOf).raiseOwn .permission (srcBar2 src.portOf) p
          ((s.completeUr src.portOf src.fnOf).bar2Addr src.fnOf off)
      | .reserved => (s.completePoison src.portOf src.fnOf off len).raiseOwn .permission (srcBar2 src.portOf) p
          ((s.completePoison src.portOf src.fnOf off len).bar2Addr src.fnOf off)
      | .fenced => (s.completePoison src.portOf src.fnOf off len).raiseOwn .fencedTarget (srcBar2 src.portOf) p
          ((s.completePoison src.portOf src.fnOf off len).bar2Addr src.fnOf off)
      | .ok segs => (if src.fnOf = 0 then s else s.wharfFill p off len).hostFetch src.portOf src.fnOf p off segs) := by
  show execHostBar2Read src off len s = _
  unfold execHostBar2Read
  dsimp only
  rw [hp]
  dsimp only
  have hst' : ¬ s.boot.stage < 2 := by omega
  rw [if_neg (by simp [h0, h1, hup, hlen, hh]), if_neg (by simp [hr, hst'])] <;>
    cases s.bar2Verdict src.portOf src.fnOf p 0 off len <;> rfl

theorem exec_hostBar2Write {off : Nat} {data : List Byte} {ep : Bool} (hr : s.fnReaches src.portOf src.fnOf = true) (hd : data ≠ [])
    (hst : 2 ≤ s.boot.stage) (hh : s.held (srcBar2 src.portOf) p = false) (u : State)
    (hu : u = if ep then s.countAdvisory src.portOf src.fnOf else s) :
    exec (.hostBar2Write src off data ep) s = .next (match u.bar2Verdict src.portOf src.fnOf p 1 off data.length with
      | .undecoded => u
      | .refused => u.raiseOwn .permission (srcBar2 src.portOf) p (u.bar2Addr src.fnOf off)
      | .reserved => u.raiseOwn .permission (srcBar2 src.portOf) p (u.bar2Addr src.fnOf off)
      | .fenced => u.raiseOwn .fencedTarget (srcBar2 src.portOf) p (u.bar2Addr src.fnOf off)
      | .ok segs => (if src.fnOf = 0 then u else u.wharfFill p off data.length).hostStore src.portOf src.fnOf p off segs data ep) := by
  show execHostBar2Write src off data ep s = _
  unfold execHostBar2Write
  dsimp only
  rw [hp]
  dsimp only
  have hst' : ¬ s.boot.stage < 2 := by omega
  rw [if_neg (by simp [h0, h1, hr, hd, hst', hh]), ← hu] <;>
    cases u.bar2Verdict src.portOf src.fnOf p 1 off data.length <;> rfl

end

theorem State.countAdvisory_frame (s : State) (port fn : Nat) : s.countAdvisory port fn = { s with ports := (s.countAdvisory port fn).ports } := rfl

/-! ## Reads and writes of a host's window (R284) -/

/-- A read of a port without one outstanding goes out on the first tag. -/
theorem State.sendHostRead_first (s : State) (port : Nat) (r : HostRead) (hr : (s.port port).reads = []) :
    s.sendHostRead port r = (s.updPort port fun q => { q with reads := q.reads ++ [{ r with tag := s.tagBase port + 0, since := s.clock }] }).toHost
      port (.memRead r.fn r.addr r.len (s.tagBase port + 0)) := by
  have hf : ((List.range (s.tagLimit port)).find? fun i => !(s.port port).reads.any fun x => x.tag = s.tagBase port + i) = some 0 := by
    obtain ⟨n, hn⟩ := Nat.exists_eq_succ_of_ne_zero (Nat.pos_iff_ne_zero.1 (s.tagLimit_pos port))
    rw [hn, List.range_succ_eq_map, hr]
    rfl
  unfold State.sendHostRead
  dsimp only
  rw [hf]

theorem hostWindowRead_asks (s : State) (port : Port) (p : Pol) (off len : Nat) (who : Requester) (hpp : (s.pol p).port = port.val) (hlen : len ≠ 0)
    (hh : s.held (s.whoSource who).1 p = false) (hline : off % 1024 + len ≤ 1024) (hoff : off < 2 ^ 40) (hdown : s.hostDown port = false)
    (hreads : (s.port port).reads = []) (h128 : len ≤ 128) (hpiece : ((s.landRegs port).hwin + off) % 1024 + len ≤ 1024)
    (hbus : (s.landRegs port).hwin + off + len ≤ 2 ^ 64) (hw : (s.quay (hostOutNo port)).waiting = [])
    (hl : (s.quay (hostOutNo port)).entries.length < 128) :
    completes (.hostWindowRead port p off len who) s fun t =>
      ∃ r, (t.port port).reads = [r] ∧ r.pol = p.val ∧ r.len = len ∧ r.addr = (s.landRegs port).hwin + off
        ∧ r.fn = (s.pol p).vf ∧ r.who = who
        ∧ (t.quay (hostOutNo port)).entries = (s.quay (hostOutNo port)).entries ++ [.host (.memRead r.fn r.addr len r.tag)]
        ∧ t.mem = s.mem ∧ t.crier = s.crier := by
  obtain ⟨r, hr⟩ : ∃ r : HostRead, r = {
    tag := 0, fn := s.requester p, pol := p, gen := (s.pol p).gen, addr := (s.landRegs port).hwin + off
    off := (s.landRegs port).hwin + off - ((s.landRegs port).hwin + off), len := len
    since := s.clock, who := who, va := hostBase + port.val * 2 ^ 40 + off } := ⟨_, rfl⟩
  obtain ⟨u, hu⟩ : ∃ u, u = s.sendHostRead port r := ⟨_, rfl⟩
  have hread : s.hostRead port p off len who (hostBase + port.val * 2 ^ 40 + off) = some (1, u) := by
    have hm := s.mrrs_ge port
    unfold State.hostRead State.busAddr
    dsimp only
    rw [if_pos hbus, Option.map_some, splitRead_single _ _ _ _ hlen (by omega) hpiece, hu, hr]
    rfl
  obtain ⟨f, hf⟩ : ∃ f : State → State, (∀ v, f v = { v with pols := (f v).pols }) ∧
      exec (.hostWindowRead port p off len who) s = .next (f u) := by
    have hx : exec (.hostWindowRead port p off len who) s = .next (match who with
        | .porter q seq st tile _ => u.updRun q seq fun r => { r with
            streams := r.streams.upd {} st fun c => { c with
              tiles := c.tiles.upd {} tile fun b => { b with outstanding := b.outstanding + 1 } } }
        | _ => u) := by
      show execHostWindowRead port p off len who s = _
      unfold execHostWindowRead
      dsimp only
      have h1 : ¬ 1024 < off % 1024 + len := by omega
      have h2 : off < 1099511627776 := hoff
      rw [if_neg (by simp [hpp, hlen, h1, h2, hh]), if_neg (by rw [hdown]; decide), hread]
      cases who <;> rfl
    cases who with
    | porter q seq st tile idx => exact ⟨fun v => v.updRun q seq fun r => { r with
            streams := r.streams.upd {} st fun c => { c with
              tiles := c.tiles.upd {} tile fun b => { b with outstanding := b.outstanding + 1 } } }, fun v => rfl, hx⟩
    | _ => exact ⟨fun v => v, fun v => rfl, hx⟩
  obtain ⟨hframe, hexec⟩ := hf
  refine completes_of_exec hexec ⟨{ r with tag := s.tagBase port + 0, since := s.clock }, ?_, ?_⟩
  · have h1 : (f u).port port = u.port port := by rw [hframe]; rfl
    have h2 : (u.port port).reads = (s.port port).reads ++ [{ r with tag := s.tagBase port + 0, since := s.clock }] := by
      rw [hu, s.sendHostRead_first port r hreads]
      exact congrArg HostPort.reads (s.port_updPort port fun q =>
        { q with reads := q.reads ++ [{ r with tag := s.tagBase port + 0, since := s.clock }] })
    rw [h1, h2, hreads]
    rfl
  · have h1 : (f u).quay (hostOutNo port) = u.quay (hostOutNo port) := by rw [hframe]; rfl
    have h2 : (f u).mem = s.mem := by rw [hframe, hu, s.sendHostRead_first port r hreads]; rfl
    have h3 : (f u).crier = s.crier := by rw [hframe, hu, s.sendHostRead_first port r hreads]; rfl
    refine ⟨by rw [hr], by rw [hr], by rw [hr], by rw [hr]; rfl, by rw [hr], ?_, h2, h3⟩
    have hrl : len = r.len := by rw [hr]
    rw [h1, hu, s.sendHostRead_first port r hreads, hrl]
    exact State.toHost_room _ _ port.isLt hw hl

theorem exec_hostWindowWrite (s : State) (port : Port) (p : Pol) (off : Nat) (data : List Byte) (poison : Bool)
    (hpp : (s.pol p).port = port.val) (hd : data ≠ []) (hh : s.held srcSeq p = false) (hoff : off < 2 ^ 40) :
    exec (.hostWindowWrite port p off data poison) s = .next (
      if s.hostDown port then s.raiseOwn .fencedTarget srcSeq p (addrDetail (hostBase + port.val * 2 ^ 40 + off) 3)
      else match s.hostWrite port p off data poison srcSeq (hostBase + port.val * 2 ^ 40 + off) 3 with
        | some s => s
        | none => s.permission srcSeq p (hostBase + port.val * 2 ^ 40 + off) 3) := by
  show execHostWindowWrite port p off data poison s = _
  unfold execHostWindowWrite
  dsimp only
  have h2 : off < 1099511627776 := hoff
  rw [if_neg (by simp [hpp, hd, hh, h2])] <;> rfl

theorem hostWindowWrite_posts (s : State) (port : Port) (p : Pol) (off : Nat) (data : List Byte) (poison : Bool)
    (hpp : (s.pol p).port = port.val) (hd : data ≠ []) (hh : s.held srcSeq p = false) (hoff : off < 2 ^ 40) (hdown : s.hostDown port = false)
    (h128 : data.length ≤ 128) (hpiece : ((s.landRegs port).hwin + off) % 4096 + data.length ≤ 4096)
    (hbus : (s.landRegs port).hwin + off + data.length ≤ 2 ^ 64) (hw : (s.quay (hostOutNo port)).waiting = [])
    (hl : (s.quay (hostOutNo port)).entries.length < 128) :
    completes (.hostWindowWrite port p off data poison) s fun t =>
      ∃ m, (t.quay (hostOutNo port)).entries = (s.quay (hostOutNo port)).entries
        ++ [.host (.memWrite (s.pol p).vf ((s.landRegs port).hwin + off) data poison m)] ∧ t = { s with quays := t.quays } := by
  obtain ⟨m, hm⟩ : ∃ m, m = ((p : Nat), srcSeq, hostBase + port.val * 2 ^ 40 + off, 3) := ⟨_, rfl⟩
  have hx := exec_hostWindowWrite s port p off data poison hpp hd hh hoff
  have hwrite : s.hostWrite port p off data poison srcSeq (hostBase + port.val * 2 ^ 40 + off) 3
      = some (s.toHost port (.memWrite (s.pol p).vf ((s.landRegs port).hwin + off) data poison m)) := by
    have := s.mps_ge port
    unfold State.hostWrite State.busAddr State.hostPost
    dsimp only
    rw [if_pos hbus, Option.map_some, splitWrite_single _ _ _ _ hd (by omega) hpiece, ← hm]
    rfl
  rw [if_neg (by rw [hdown]; decide), hwrite] at hx
  exact completes_of_exec hx ⟨m, s.toHost_room _ port.isLt hw hl, rfl⟩

/-! ## Completions and timeouts (R286) -/

section
variable {s : State} {port : Port} {tag : Nat} {data : List Byte} (hdown : s.hostDown port = false) (hst : s.boot.stage0 = true)
include hdown hst

theorem exec_hostCompletion_found {r : HostRead} (hr : (s.port port).reads.find? (fun r => r.tag = tag) = some r) :
    exec (.hostCompletion port tag data 0 false) s = .next (
      if (r.got ++ data.map fun b => (b, false)).length < r.len then s.updPort port fun q => { q with
        reads := q.reads.map fun x => if x.tag = tag then { x with got := r.got ++ data.map fun b => (b, false) } else x }
      else ((s.dropRead port tag).deliverRead r.who r.pol r.gen r.orphan r.va r.off
        ((r.got ++ data.map fun b => (b, false)).take r.len)).nextRead port) := by
  show execHostCompletion port tag data 0 false s = _
  unfold execHostCompletion
  rw [if_neg (by rw [hdown, hst]; decide), hr]
  rfl

theorem hostCompletion_gathers {r : HostRead} {l : List HostRead} (hr : (s.port port).reads = r :: l) (ht : r.tag = tag)
    (hlen : r.got.length + data.length < r.len) (hl : ∀ x ∈ l, x.tag ≠ tag) :
    completes (.hostCompletion port tag data 0 false) s fun t =>
      (t.port port).reads = { r with got := r.got ++ data.map fun b => (b, false) } :: l ∧ t = { s with ports := t.ports } := by
  have hx := exec_hostCompletion_found (data := data) hdown hst (r := r) (tag := tag) (by rw [hr]; simp [ht])
  rw [if_pos (by rw [List.length_append, List.length_map]; exact hlen)] at hx
  refine completes_of_exec hx ⟨?_, rfl⟩
  rw [s.port_updPort]
  dsimp only
  rw [hr, List.map_cons, if_pos ht]
  congr 1
  conv_rhs => rw [← List.map_id l]
  refine List.map_congr_left fun x hx => ?_
  rw [if_neg (hl x hx)]
  rfl

theorem hostCompletion_unexpected (hr : (s.port port).reads = []) :
    completes (.hostCompletion port tag data 0 false) s fun t =>
      ((t.port port).fn 0).aer.getLsbD 16 = true ∧ t = { s with ports := t.ports } := by
  have hx : exec (.hostCompletion port tag data 0 false) s = .next (s.countAer port 0 16) := by
    show execHostCompletion port tag data 0 false s = _
    unfold execHostCompletion
    rw [if_neg (by rw [hdown, hst]; decide), hr]
    rfl
  refine completes_of_exec hx ⟨?_, rfl⟩
  have hf : ((s.countAer port 0 16).port port).fn 0 = { (s.port port).fn 0 with aer := ((s.port port).fn 0).aer ||| BitVec.ofNat 32 (2 ^ 16) } := by
    unfold State.countAer
    rw [s.port_updPort]
    exact HostPort.fn_updFn ..
  rw [hf, BitVec.getLsbD_or]
  simp

end

theorem hostTimeout_ends (s : State) (port : Port) (r : HostRead) (hr : (s.port port).reads = [r]) (hwho : r.who = .none)
    (hwait : (s.port port).waitingReads = []) (ht : r.since + timeoutLeast (field (s.devCtl2 port) 0 4) ≤ s.clock) :
    completes (.hostTimeout port r.tag) s fun t =>
      (t.port port).reads = [] ∧ (t.port port).timeouts = satAdd 0xFFFF (s.port port).timeouts 1
        ∧ ∃ e, t.crier.band = s.crier.band ++ [e] ∧ e.code = .hostTimeout ∧ e.book = r.pol := by
  obtain ⟨u, hu⟩ : ∃ u, u = ((s.dropRead port r.tag).countAer port r.fn 14).updPort port
      fun q => { q with timeouts := satAdd 0xFFFF q.timeouts 1 } := ⟨_, rfl⟩
  obtain ⟨v, hv⟩ : ∃ v, v = (u.raiseOwn .hostTimeout (u.whoSource r.who).1 r.pol []).poisonHostRead r := ⟨_, rfl⟩
  have hvu : v = { u.raiseOwn .hostTimeout (u.whoSource r.who).1 r.pol [] with seed := v.seed } := by
    rw [hv]
    unfold State.poisonHostRead State.deliverRead
    rw [hwho]
    rfl
  have hport : v.port port = u.port port := by rw [hvu]; rfl
  have huport : (u.port port).reads = [] ∧ (u.port port).timeouts = satAdd 0xFFFF (s.port port).timeouts 1
      ∧ (u.port port).waitingReads = [] := by
    rw [hu]
    unfold State.dropRead State.countAer
    rw [State.port_updPort, State.port_updPort, State.port_updPort]
    refine ⟨?_, rfl, hwait⟩
    show (s.port port).reads.filter _ = []
    rw [hr]
    simp
  obtain ⟨h1, h2, h3⟩ := huport
  have hx : exec (.hostTimeout port r.tag) s = .next (v.nextRead port) := by
    show execHostTimeout port r.tag s = _
    unfold execHostTimeout
    rw [hr, List.find?_cons_of_pos (by simp)]
    dsimp only
    rw [if_neg (by simp [State.passed, ht]), ← hu, ← hv]
  have hnext : v.nextRead port = v := by
    unfold State.nextRead
    rw [hport, h3]
  rw [hnext] at hx
  refine completes_of_exec hx ⟨by rw [hport, h1], by rw [hport, h2], ?_⟩
  obtain ⟨e, he, hc, hb⟩ := u.raiseOwn_band .hostTimeout (u.whoSource r.who).1 r.pol []
  refine ⟨e, ?_, hc, hb⟩
  have hcu : u.crier = s.crier := by rw [hu]; rfl
  rw [hvu, ← hcu]
  exact he

end Sys2Proof.Machine
end

section
/-! SUPPORT. A host's access to a line at rest (R173, R194, R218, R282): its request is performed at once, and the answer leaves. -/

namespace Sys2Proof.Machine

open Sys2Proof

/-! ## The sectors of a run -/

/-- A mask that is summed bit by bit has the bits that its test names. -/
theorem getLsbD_sumOf (p : Nat → Bool) (i : Fin 8) : (BitVec.ofNat 8 ((List.range 8).foldl (fun a i => if p i then a + 2 ^ i else a) 0)).getLsbD i = p i := by
  have hall : ∀ (b0 b1 b2 b3 b4 b5 b6 b7 : Bool) (i : Fin 8),
      (BitVec.ofNat 8 ([(0, b0), (1, b1), (2, b2), (3, b3), (4, b4), (5, b5), (6, b6), (7, b7)].foldl
        (fun a x => if x.2 then a + 2 ^ x.1 else a) 0)).getLsbD i = [b0, b1, b2, b3, b4, b5, b6, b7].getD i false := by decide +kernel
  have hget : [p 0, p 1, p 2, p 3, p 4, p 5, p 6, p 7].getD i false = p i := by
    match i with
    | 0 | 1 | 2 | 3 | 4 | 5 | 6 | 7 => rfl
  exact (hall (p 0) (p 1) (p 2) (p 3) (p 4) (p 5) (p 6) (p 7) i).trans hget

/-- The sectors of a run within its line hold the run's bytes. -/
theorem inMask_runSectors {a n i : Nat} (h : a % 1024 + n ≤ 1024) (hi : i < n) : inMask (runSectors (a / 1024) a n) (a % 1024 + i) = true := by
  have hs : (a % 1024 + i) / 128 < 8 := by omega
  unfold inMask runSectors
  dsimp only
  rw [List.foldl_filter]
  refine (getLsbD_sumOf (fun j => decide (a / 1024 * 1024 + 128 * j < a + n) && decide (a < a / 1024 * 1024 + 128 * j + 128))
    ⟨(a % 1024 + i) / 128, hs⟩).trans ?_
  simp only [Bool.and_eq_true, decide_eq_true_eq]
  omega

theorem linesIn_single {a n : Nat} (hn : n ≠ 0) (h : a % 1024 + n ≤ 1024) : linesIn a n = [a / 1024] := by
  have : (a % 1024 + n + 1023) / 1024 = 1 := by omega
  unfold linesIn
  rw [this]
  rfl

/-! ## A request that nothing precedes -/

/-- A home stays plain where its fence, its stacks, the Granary and the charter do. -/
theorem State.Plain.congr {s t : State} {line p : Nat} (h : s.Plain line p) (hk : (t.keel (homeOf line)).fenced = (s.keel (homeOf line)).fenced)
    (hs : t.hbmStacks = s.hbmStacks) (hg : t.gran = s.gran) (hi : t.img = s.img) (hr : (t.mark line).run = 0) : t.Plain line p := by
  have hfence : t.stackFenced line = s.stackFenced line := by
    unfold State.stackFenced State.stackOf State.stack
    rw [State.locate_congr hs, hs]
  have hfind : t.granFind line = s.granFind line := State.granFind_of_gran hg line
  have hpart : t.granPart (homeOf line) p = s.granPart (homeOf line) p := by
    unfold State.granPart State.charter
    rw [hi]
  exact ⟨hk.trans h.home, hfence.trans h.stack, hfind.trans h.find, hpart.trans h.part, hr⟩

theorem State.restingLine.plain {s : State} {p line : Nat} (h : s.restingLine p line) : s.Plain line p := by
  obtain ⟨h1, h2, h3, h4, h5, -⟩ := h
  exact ⟨h1, h2, h3, h4, h5⟩

theorem State.takeTracker_fenced (s : State) (k p who j : Nat) : ((s.takeTracker k p who).keel j).fenced = (s.keel j).fenced := by
  unfold State.takeTracker
  by_cases hj : j = k
  · subst hj
    rw [s.keel_updKeel]
  · rw [s.keel_updKeel_other _ _ _ hj]

/-- The request of a host's access, where a tracker is free. -/
theorem State.newReq_taken (s : State) (op : HomeOp) (line p : Nat) (who : Requester) (va hint : Nat) (h : s.trackerFree (homeOf line) p = true) :
    ∃ (r : HomeReq) (k : SMap KeelSt), r.op = op ∧ r.line = line ∧ r.pol = p ∧ r.who = who ∧ r.tracked = true ∧ r.struck = false
      ∧ s.newReq op line p who va hint = { s with nextId := s.nextId + 1, keels := k, reqs := s.reqs ++ [r] }
      ∧ (∀ j, (k.get {} j).fenced = (s.keel j).fenced) := by
  obtain ⟨u, hu⟩ : ∃ u, u = s.takeTracker (homeOf line) p otherAgent := ⟨_, rfl⟩
  refine ⟨{ id := s.nextId, op := op, line := line, pol := p, gen := (s.pol p).gen, who := who, tracked := true, va := va, hint := hint }, u.keels,
    rfl, rfl, rfl, rfl, rfl, rfl, ?_, fun j => ?_⟩
  · have hf : s.freshId.2.trackerFree (homeOf line) p = true := h
    have hn : s.newReq op line p who va hint =
        { (if s.freshId.2.trackerFree (homeOf line) p then s.freshId.2.takeTracker (homeOf line) p otherAgent else s.freshId.2) with
          reqs := (if s.freshId.2.trackerFree (homeOf line) p then s.freshId.2.takeTracker (homeOf line) p otherAgent else s.freshId.2).reqs ++ [{
            id := s.nextId, op := op, line := line, pol := p
            gen := ((if s.freshId.2.trackerFree (homeOf line) p then s.freshId.2.takeTracker (homeOf line) p otherAgent else s.freshId.2).pol p).gen
            who := who, tracked := s.freshId.2.trackerFree (homeOf line) p, va := va, hint := hint }] } := rfl
    rw [hn, hf, if_pos rfl, hu]
    rfl
  · have := s.takeTracker_fenced (homeOf line) p otherAgent j
    rw [← hu] at this
    exact this

theorem recallFor_nil (op : HomeOp) : (recallFor op []).2 = [] := by
  cases op with
  | range op g => cases op <;> rfl
  | _ => rfl

/-- The only request under way is performed as soon as it is made. -/
theorem State.beginHost_single {s : State} {port id : Nat} {r : HomeReq} (hw : r.who = .host port id) (ht : r.tracked = true)
    (hr : s.reqs = [r]) (hx : s.txns = []) (he : s.entriesOf r.line = []) :
    s.beginHost port id = ({ s with reqs := [] } : State).perform r := by
  have hmay : s.mayServe r = true := by
    unfold State.mayServe State.unperformed
    rw [hw, ht, hr, hx]
    simp
  have hserve : s.serve r = ({ s with reqs := [] } : State).perform r := by
    have hb : ({ s with reqs := s.reqs.filter fun x => x.id ≠ r.id } : State).busy r.line = false := by
      show s.txns.any _ = false
      rw [hx]
      rfl
    have hq : s.reqs.filter (fun x => x.id ≠ r.id) = [] := by rw [hr]; simp
    have hs : s.serve r = ({ s with reqs := s.reqs.filter fun x => x.id ≠ r.id } : State).beginReq r := if_neg (by rw [hb]; decide)
    have hes : ({ s with reqs := s.reqs.filter fun x => x.id ≠ r.id } : State).entriesOf r.line = [] := he
    have hfar : (recallFor r.op (({ s with reqs := s.reqs.filter fun x => x.id ≠ r.id } : State).entriesOf r.line)).2.isEmpty = true := by
      rw [hes, recallFor_nil]
      rfl
    rw [hs, State.beginReq]
    refine (if_pos hfar).trans ?_
    rw [hq]
  unfold State.beginHost
  rw [hr, List.filter_cons_of_pos (by simp [hw]), List.filter_nil, List.foldl_cons, List.foldl_nil, if_pos hmay, hserve]

/-! ## Its answer -/

/-- An answer without poison at a plain home, after its tracker is given back. -/
theorem State.answer_host (s : State) {port id : Nat} {r : HomeReq} (bs : Bytes) (hw : r.who = .host port id) (ht : r.tracked = true)
    (hstr : r.struck = false) :
    s.answer r bs 0 = (s.freeTracker (homeOf r.line) r.pol otherAgent).hostGot port id r.pol
      (bs.map fun e => (s.boot.moduleId * 2 ^ 48 + r.line * 1024 + e.1, e.2)) false false := by
  have hread : s.readsData r = false := by
    unfold State.readsData
    rw [hw, Bool.and_false]
  have hd : s.answer r bs 0 = s.deliver r bs 0 := by
    unfold State.answer
    dsimp only
    rw [hstr, hread, Bool.and_false, if_neg Bool.false_ne_true, if_neg Bool.false_ne_true]
  have hnone : bitsOf 8 (0 : BitVec 8).toNat = [] := by decide
  rw [hd]
  unfold State.deliver
  dsimp only
  rw [if_pos ht, hw]
  show (s.freeTracker (homeOf r.line) r.pol otherAgent).hostAnswer port id r bs 0 = _
  unfold State.hostAnswer
  dsimp only
  rw [hnone]
  simp only [List.any_nil]
  have hbad : ∀ l : List HostAcc, (l.any fun a => a.segs.any fun _ => false) = false := fun l => by simp
  rw [hbad]
  rfl

/-- The last answer of a host's read, clean, lets its completion leave. -/
theorem State.hostGot_last {s : State} {port id p : Nat} {a : HostAcc} {bs : Bytes} (hb : (s.port port).bar2 = [a]) (hid : a.id = id)
    (hleft : a.left = 1) (hbad : a.bad = false) (hdead : a.dead = false) :
    ∃ u : State, u = { s with ports := u.ports } ∧ s.hostGot port id p bs false false = u.complete port a.fn a.off
      ((a.segs.map fun (g : Nat × Nat) => (List.range g.2).map fun i => (patch a.got bs).get 0 (g.1 + i)).flatten) false := by
  refine ⟨s.updPort port fun q => { q with bar2 := q.bar2.filter fun x => x.id ≠ id }, rfl, ?_⟩
  unfold State.hostGot
  rw [hb, List.find?_cons_of_pos (by simp [hid])]
  simp only [hleft, hbad, hdead, Nat.sub_self, Bool.or_self, if_true, ne_eq, not_true, if_false, Bool.false_eq_true, State.countDead]

theorem State.hostGot_none {s : State} {port id p : Nat} {bs : Bytes} {bad dead : Bool} (hb : (s.port port).bar2 = []) :
    s.hostGot port id p bs bad dead = s := by
  unfold State.hostGot
  rw [hb]
  rfl

theorem State.freeTracker_frame (s : State) (k p who : Nat) : s.freeTracker k p who = { s with keels := (s.freeTracker k p who).keels } := rfl

/-- A host's read of a line at rest gives the bytes of memory. -/
theorem State.Plain.host_read {v : State} {r : HomeReq} {port id : Nat} {a : HostAcc} {need : BitVec 8} (h : v.Plain r.line r.pol)
    (hpo : (v.mark r.line).poison = 0) (hde : (v.mark r.line).dead = 0) (hop : r.op = .read need) (hw : r.who = .host port id)
    (ht : r.tracked = true) (hstr : r.struck = false) (hb : (v.port port).bar2 = [a]) (hid : a.id = id) (hleft : a.left = 1)
    (hbad : a.bad = false) (hdead : a.dead = false) (hgot : a.got = []) :
    ∃ u : State, u = { v with keels := u.keels, ports := u.ports } ∧ v.perform r = u.complete port a.fn a.off
      ((a.segs.map fun (g : Nat × Nat) => (List.range g.2).map fun i => (patch [] ((maskOffs need).map fun o =>
        (v.boot.moduleId * 2 ^ 48 + r.line * 1024 + o, memByte v.mem (r.line * 1024 + o)))).get 0 (g.1 + i)).flatten) false := by
  have hmeets : v.meetsDead r.line need = false := by
    unfold State.meetsDead State.homeDead
    rw [h.find, hde]
    simp
  obtain ⟨w, hwd⟩ : ∃ w, w = v.updPort port fun q => { q with
      bar2 := q.bar2.map fun (x : HostAcc) => if x.id = id then { x with dead := x.dead || v.meetsDead r.line need } else x } := ⟨_, rfl⟩
  have hwf : w = { v with ports := w.ports } := by rw [hwd]; rfl
  have hwp : w.Plain r.line r.pol := h.congr (by rw [hwf]; rfl) (by rw [hwf]) (by rw [hwf]) (by rw [hwf]) (by rw [hwf]; exact h.run)
  have hwb : (w.port port).bar2 = [a] := by
    have hq := congrArg HostPort.bar2 (v.port_updPort port fun q => { q with
      bar2 := q.bar2.map fun (x : HostAcc) => if x.id = id then { x with dead := x.dead || v.meetsDead r.line need } else x })
    rw [← hwd] at hq
    refine hq.trans ?_
    show (v.port port).bar2.map _ = _
    rw [hb, List.map_singleton, if_pos hid, hmeets, Bool.or_false]
  have hwpo : w.homePoison r.line = 0 := by
    unfold State.homePoison
    rw [hwp.find, hwp.stack, if_neg Bool.false_ne_true, hwf]
    exact hpo
  have hperf : v.perform r = w.answer r ((maskOffs need).map fun o => (o, memByte w.mem (r.line * 1024 + o))) 0 := by
    unfold State.perform
    rw [h.home, if_neg Bool.false_ne_true, h.stack, Bool.false_and, if_neg Bool.false_ne_true, hop]
    dsimp only
    rw [hw]
    dsimp only
    rw [← hwd, hwp.homeRead, hwpo, show (0 : BitVec 8) &&& need = 0 from BitVec.zero_and]
  obtain ⟨x, hx⟩ : ∃ x, x = w.freeTracker (homeOf r.line) r.pol otherAgent := ⟨_, rfl⟩
  have hxf : x = { w with keels := x.keels } := by rw [hx]; rfl
  have hxb : (x.port port).bar2 = [a] := by
    rw [hxf]
    exact hwb
  obtain ⟨u, huf, hu⟩ := State.hostGot_last (p := r.pol) (bs := ((maskOffs need).map fun o => (o, memByte w.mem (r.line * 1024 + o))).map
    fun e => (w.boot.moduleId * 2 ^ 48 + r.line * 1024 + e.1, e.2)) hxb hid hleft hbad hdead
  refine ⟨u, ?_, ?_⟩
  · rw [huf, hxf, hwf]
  · rw [hperf, w.answer_host _ hw ht hstr, ← hx, hu, hgot, List.map_map, hwf]
    rfl

/-- A host's write of a line at rest changes memory. -/
theorem State.Plain.host_write {v : State} {r : HomeReq} {port id : Nat} {bs : Bytes} {poison : Bool} (h : v.Plain r.line r.pol)
    (hop : r.op = .write bs false poison) (hw : r.who = .host port id) (ht : r.tracked = true) (hstr : r.struck = false)
    (hb : (v.port port).bar2 = []) :
    v.perform r = { v with
      mem := memPatch v.mem (r.line * 1024) bs, marks := (v.perform r).marks, keels := (v.perform r).keels } := by
  obtain ⟨hwf, -⟩ := h.homeWrite bs false poison r.hint
  obtain ⟨w, hwd⟩ : ∃ w, w = v.homeWrite r.pol r.line bs false poison r.hint := ⟨_, rfl⟩
  rw [← hwd] at hwf
  have hperf : v.perform r = w.freeTracker (homeOf r.line) r.pol otherAgent := by
    have h1 : v.perform r = w.answer r [] 0 := by
      unfold State.perform
      rw [h.home, if_neg Bool.false_ne_true, h.stack, Bool.false_and, if_neg Bool.false_ne_true, hop]
      dsimp only
      rw [hwd]
    rw [h1, w.answer_host _ hw ht hstr, State.hostGot_none]
    rw [w.freeTracker_frame, hwf]
    exact hb
  rw [hperf, w.freeTracker_frame, hwf]

end Sys2Proof.Machine
end

section
/-! OBLIGATIONS. Host traffic (R282 to R286). -/

namespace Sys2Proof.Machine

open Sys2Proof

/-! ## A single run on a line at rest -/

/-- A cache of translations is filled in the Land alone. -/
theorem State.wharfFill_form (s : State) (p o len : Nat) : ∃ l, s.wharfFill p o len = { s with land := l } := by
  unfold State.wharfFill
  refine foldl_keeps _ (fun t => ∃ l, t = { s with land := l }) (granules o len) (fun t g _ ht => ?_) s ⟨s.land, rfl⟩
  obtain ⟨l, rfl⟩ := ht
  split
  · exact ⟨_, rfl⟩
  · exact ⟨l, rfl⟩

theorem State.restingLine.land {s : State} {p line : Nat} (h : s.restingLine p line) (l : Land) :
    ({ s with land := l } : State).restingLine p line := by
  have hp : ({ s with land := l } : State).Plain line p := h.plain.congr rfl rfl rfl rfl h.plain.run
  obtain ⟨-, -, -, -, h5, h6, h7, h8, h9, h10, h11⟩ := h
  exact ⟨hp.home, hp.stack, hp.find, hp.part, h5, h6, h7, h8, h9, h10, h11⟩

/-- An address by its module, its line and its place in the line. -/
theorem dpaModule_offset (a line : Nat) (h : dpaOffset a / 1024 = line) : a = a / 2 ^ 48 * 2 ^ 48 + line * 1024 + dpaOffset a % 1024 := by
  have ho : dpaOffset a = a % 2 ^ 48 := rfl
  omega

/-- The bytes of a run among the sectors that it touches. -/
theorem patched_run (m : List Host.Cell) {base o a len : Nat} (ha : a = base + o % 1024) (h : o % 1024 + len ≤ 1024) :
    ((List.range len).map fun i => (patch [] ((maskOffs (runSectors (o / 1024) o len)).map fun x =>
      (base + x, memByte m (o / 1024 * 1024 + x)))).get 0 (a + i)) = (List.range len).map fun i => memByte m (o + i) := by
  obtain ⟨l, hl⟩ : ∃ l, l = maskOffs (runSectors (o / 1024) o len) := ⟨_, rfl⟩
  have hshift : l.map (fun x => (base + x, memByte m (o / 1024 * 1024 + x)))
      = (l.map fun x => base + x).map fun y => (y, memByte m (o / 1024 * 1024 + (y - base))) := by
    rw [List.map_map]
    refine List.map_congr_left fun x _ => ?_
    simp
  refine List.map_congr_left fun i hi => ?_
  have hi := List.mem_range.1 hi
  have hmem : a + i ∈ l.map fun x => base + x := by
    refine List.mem_map.2 ⟨o % 1024 + i, ?_, by omega⟩
    rw [hl]
    exact mem_maskOffs.2 ⟨by omega, inMask_runSectors h hi⟩
  rw [← hl, hshift, get_patch_of_mem, if_pos hmem]
  congr 1
  omega

section
variable {s : State} {port fn p off a len hint : Nat} (hm : dpaModule a = s.boot.moduleId) (hreg : ∀ q w, s.region (dpaOffset a) ≠ .host q w)
  (hline : dpaOffset a % 1024 + len ≤ 1024) (hlen : len ≠ 0) (hrest : s.restingLine p (dpaOffset a / 1024)) (hb : (s.port port).bar2 = [])
include hm hreg hline hlen hrest hb

/-- The read of a run on a line at rest leaves with the bytes of memory. -/
theorem State.hostFetch_rest : ∃ u : State, u = { s with keels := u.keels, ports := u.ports, nextId := u.nextId }
      ∧ s.hostFetch port fn p off [⟨a, len, hint⟩] = u.complete port fn off ((List.range len).map fun i => memByte s.mem (dpaOffset a + i)) false := by
  have hplain := hrest.plain
  obtain ⟨-, -, -, -, -, hpo, hde, hes, hreqs, htx, htr⟩ := hrest
  obtain ⟨s1, hs1⟩ : ∃ s1, s1 = s.freshId.2 := ⟨_, rfl⟩
  obtain ⟨va, hva⟩ : ∃ va, va = s1.bar2Va fn off := ⟨_, rfl⟩
  obtain ⟨need, hneed⟩ : ∃ need, need = runSectors (dpaOffset a / 1024) (dpaOffset a) len := ⟨_, rfl⟩
  obtain ⟨r, k, hop, hrl, hrp, hw, ht, hstr, hnew, hk⟩ := s1.newReq_taken (.read need) (dpaOffset a / 1024) p (.host port s.nextId) va hint
    (by rw [hs1]; exact htr)
  have hread : s1.bar2Read port p s.nextId va ⟨a, len, hint⟩ = (1, s1.newReq (.read need) (dpaOffset a / 1024) p (.host port s.nextId) va hint) := by
    unfold State.bar2Read
    dsimp only
    have hm1 : dpaModule a = s1.boot.moduleId := by rw [hs1]; exact hm
    have hr1 : s1.region (dpaOffset a) = s.region (dpaOffset a) := by rw [hs1]; rfl
    rw [if_neg (not_not.2 hm1), hr1, linesIn_single hlen hline, hneed]
    cases hc : s.region (dpaOffset a) with
    | host q w => exact absurd hc (hreg q w)
    | _ => rfl
  obtain ⟨acc, hacc⟩ : ∃ acc : HostAcc, acc = { id := s.nextId, fn := fn, off := off, left := 1, segs := [(a, len)] } := ⟨_, rfl⟩
  obtain ⟨v, hv⟩ : ∃ v, v = (s1.newReq (.read need) (dpaOffset a / 1024) p (.host port s.nextId) va hint).updPort port
    fun q => { q with bar2 := q.bar2 ++ [acc] } := ⟨_, rfl⟩
  have hfetch : s.hostFetch port fn p off [⟨a, len, hint⟩] = v.beginHost port s.nextId := by
    unfold State.hostFetch
    dsimp only [List.foldl_cons, List.foldl_nil, List.map_cons, List.map_nil]
    rw [← hs1, ← hva, show s.freshId.1 = s.nextId from rfl, hread, hv, hacc]
    rfl
  have hvf : v = { s with nextId := s.nextId + 1 + 1, keels := k, reqs := [r], ports := v.ports } := by
    rw [hv, hnew, hs1]
    show _ = ({ s with nextId := s.nextId + 1 + 1, keels := k, reqs := [] ++ [r], ports := _ } : State)
    rw [← hreqs]
    rfl
  have hvb : (v.port port).bar2 = [acc] := by
    have hq := congrArg HostPort.bar2 ((s1.newReq (.read need) (dpaOffset a / 1024) p (.host port s.nextId) va hint).port_updPort port
      fun q => { q with bar2 := q.bar2 ++ [acc] })
    rw [← hv] at hq
    refine hq.trans ?_
    rw [hnew, hs1]
    show (s.port port).bar2 ++ [acc] = [acc]
    rw [hb, List.nil_append]
  have hsingle := State.beginHost_single (s := v) hw ht (by rw [hvf]) (by rw [hvf]; exact htx) (by rw [hvf, hrl]; exact hes)
  obtain ⟨y, hy⟩ : ∃ y : State, y = { v with reqs := [] } := ⟨_, rfl⟩
  rw [← hy] at hsingle
  have hyf : y = { s with nextId := s.nextId + 1 + 1, keels := k, reqs := [], ports := y.ports } := by rw [hy, hvf]
  have hyp : y.Plain r.line r.pol := by
    rw [hrl, hrp]
    refine hplain.congr ?_ (by rw [hyf]) (by rw [hyf]) (by rw [hyf]) (by rw [hyf]; exact hplain.run)
    have := hk (homeOf (dpaOffset a / 1024))
    rw [hs1] at this
    rw [hyf]
    exact this
  obtain ⟨u, huf, hu⟩ := hyp.host_read (id := s.nextId) (a := acc) (port := port) (by rw [hyf, hrl]; exact hpo) (by rw [hyf, hrl]; exact hde)
    hop hw ht hstr (by rw [hy]; exact hvb) (by rw [hacc]) (by rw [hacc]) (by rw [hacc]) (by rw [hacc]) (by rw [hacc])
  refine ⟨u, ?_, ?_⟩
  · rw [huf, hyf, ← hreqs]
  · have hmod : y.boot.moduleId = a / 2 ^ 48 := by rw [hyf]; exact hm.symm
    have hmem : y.mem = s.mem := by rw [hyf]
    have hdata := patched_run s.mem (dpaModule_offset a (dpaOffset a / 1024) rfl) hline
    rw [hfetch, hsingle, hu, hacc, hmod, hmem, hrl, hneed]
    refine congrArg (fun d => u.complete port fn off d false) ?_
    rw [List.map_singleton, List.flatten_cons, List.flatten_nil, List.append_nil]
    exact hdata

/-- The write of a run on a line at rest changes the bytes that it gives. -/
theorem State.hostStore_rest {data : List Byte} (hd : data.length = len) :
    ∃ t : State, t = { s with nextId := t.nextId, keels := t.keels, marks := t.marks, mem := t.mem }
      ∧ s.hostStore port fn p off [⟨a, len, hint⟩] data false = t
      ∧ t.mem = memPatch s.mem (dpaOffset a / 1024 * 1024) ((List.range len).map fun i => (dpaOffset a % 1024 + i, data.getD i 0)) := by
  have hplain := hrest.plain
  obtain ⟨-, -, -, -, -, -, -, hes, hreqs, htx, htr⟩ := hrest
  obtain ⟨s1, hs1⟩ : ∃ s1, s1 = s.freshId.2 := ⟨_, rfl⟩
  obtain ⟨va, hva⟩ : ∃ va, va = s1.bar2Va fn off := ⟨_, rfl⟩
  obtain ⟨s2, hs2⟩ : ∃ s2, s2 = s1.untag (dpaOffset a) data.length := ⟨_, rfl⟩
  obtain ⟨hs2f, hs2r⟩ : s2 = { s1 with marks := s2.marks } ∧ (s2.mark (dpaOffset a / 1024)).run = 0 := by
    rw [hs2]
    unfold State.untag
    refine foldl_keeps _ (fun t : State => t = { s1 with marks := t.marks } ∧ (t.mark (dpaOffset a / 1024)).run = 0) _ (fun t g _ ht => ?_) s1
      ⟨rfl, by rw [hs1]; exact hplain.run⟩
    obtain ⟨h1, h2⟩ := ht
    refine ⟨by rw [h1]; rfl, ?_⟩
    by_cases hg : dpaOffset a / 1024 = g.1
    · rw [hg, t.mark_updMark]
      rw [hg] at h2
      exact h2
    · rw [t.mark_updMark_other _ _ _ hg]
      exact h2
  obtain ⟨part, hpart⟩ : ∃ part : Bytes, part = (List.range len).map fun i => (dpaOffset a % 1024 + i, data.getD i 0) := ⟨_, rfl⟩
  obtain ⟨r, k, hop, hrl, hrp, hw, ht, hstr, hnew, hk⟩ := s2.newReq_taken (.write part false false) (dpaOffset a / 1024) p (.host port s.nextId) va hint
    (by rw [hs2f, hs1]; exact htr)
  obtain ⟨v, hv⟩ : ∃ v, v = s2.newReq (.write part false false) (dpaOffset a / 1024) p (.host port s.nextId) va hint := ⟨_, rfl⟩
  have hwrite : s1.bar2Write port p s.nextId va ⟨a, len, hint⟩ data false = v := by
    unfold State.bar2Write
    dsimp only
    have hm1 : dpaModule a = s1.boot.moduleId := by rw [hs1]; exact hm
    have hr1 : s1.region (dpaOffset a) = s.region (dpaOffset a) := by rw [hs1]; rfl
    have hp2 : ((List.range data.length).filter fun i => (dpaOffset a + i) / 1024 = dpaOffset a / 1024).map
        (fun i => ((dpaOffset a + i) % 1024, data.getD i 0)) = part := by
      rw [List.filter_eq_self.2, hpart, hd]
      · refine List.map_congr_left fun i hi => ?_
        have := List.mem_range.1 hi
        rw [show (dpaOffset a + i) % 1024 = dpaOffset a % 1024 + i by omega]
      · intro i hi
        have := List.mem_range.1 hi
        rw [hd] at this
        simp only [decide_eq_true_eq]
        omega
    rw [if_neg (not_not.2 hm1), hr1, linesIn_single hlen hline, hv, hs2, hd]
    cases hc : s.region (dpaOffset a) with
    | host q w => exact absurd hc (hreg q w)
    | _ =>
      dsimp only [List.foldl_cons, List.foldl_nil]
      rw [hd] at hp2
      rw [hp2]
  have hstore : s.hostStore port fn p off [⟨a, len, hint⟩] data false = v.beginHost port s.nextId := by
    unfold State.hostStore
    dsimp only [List.foldl_cons, List.foldl_nil]
    rw [← hs1, ← hva, show s.freshId.1 = s.nextId from rfl, List.take_of_length_le (Nat.le_of_eq hd), hwrite]
  have hvf : v = { s with nextId := s.nextId + 1 + 1, keels := k, reqs := [r], marks := s2.marks } := by
    rw [hv, hnew, hs2f, hs1]
    show _ = ({ s with nextId := s.nextId + 1 + 1, keels := k, reqs := [] ++ [r], marks := _ } : State)
    rw [← hreqs]
    rfl
  have hsingle := State.beginHost_single (s := v) hw ht (by rw [hvf]) (by rw [hvf]; exact htx) (by rw [hvf, hrl]; exact hes)
  obtain ⟨y, hy⟩ : ∃ y : State, y = { v with reqs := [] } := ⟨_, rfl⟩
  rw [← hy] at hsingle
  have hyf : y = { s with nextId := s.nextId + 1 + 1, keels := k, reqs := [], marks := s2.marks } := by rw [hy, hvf]
  have hyp : y.Plain r.line r.pol := by
    rw [hrl, hrp]
    refine hplain.congr ?_ (by rw [hyf]) (by rw [hyf]) (by rw [hyf]) (by rw [hyf]; exact hs2r)
    have := hk (homeOf (dpaOffset a / 1024))
    rw [hs2f, hs1] at this
    rw [hyf]
    exact this
  have hperf := hyp.host_write hop hw ht hstr (port := port) (by rw [hyf]; exact hb)
  refine ⟨y.perform r, ?_, by rw [hstore, hsingle], ?_⟩
  · obtain ⟨ks, hks⟩ : ∃ x, x = (y.perform r).keels := ⟨_, rfl⟩
    obtain ⟨ms, hms⟩ : ∃ x, x = (y.perform r).marks := ⟨_, rfl⟩
    rw [← hks, ← hms] at hperf
    rw [hperf, hyf, ← hreqs]
  · have hmem := congrArg State.mem hperf
    refine hmem.trans ?_
    show memPatch y.mem (r.line * 1024) part = _
    have hmemy : y.mem = s.mem := by rw [hyf]
    rw [hmemy, hrl, hpart]

end

/-- Where a VF's access goes through the Wharf cache, the line is as much at rest as before. -/
theorem State.wharfFilled_rest {s : State} {p line : Nat} (h : s.restingLine p line) (fn off len : Nat) :
    ∃ l, (if fn = 0 then s else s.wharfFill p off len) = { s with land := l } ∧ ({ s with land := l } : State).restingLine p line := by
  split
  · exact ⟨s.land, rfl, h⟩
  · obtain ⟨l, hl⟩ := s.wharfFill_form p off len
    exact ⟨l, hl, h.land l⟩

/-! ## A host's access through BAR index 2 -/

theorem hostBar2Read_completes (s : State) (src : Src) (off len p : Nat) (hp : s.fnPolder src.portOf src.fnOf = some p) (h0 : src ≠ .dev 0)
    (h1 : src ≠ .dev 1) (hup : s.fnUp src.portOf src.fnOf = true) (hlen : len ≠ 0) (hh : s.held (srcBar2 src.portOf) p = false)
    (hr : s.fnReaches src.portOf src.fnOf = true) (hst : 2 ≤ s.boot.stage) (hw : (s.quay (hostOutNo src.portOf)).waiting = [])
    (hl : (s.quay (hostOutNo src.portOf)).entries.length < 128) (hoff : off % 128 + len ≤ 128) :
    let n := hostOutNo src.portOf
    let v := s.bar2Verdict src.portOf src.fnOf p 0 off len
    let answers := fun (t : State) (bs : List Byte) (status : Nat) (ep : Bool) =>
      (t.quay n).entries = (s.quay n).entries ++ [.host (.completion src.fnOf bs status ep)] ∧ t.mem = s.mem
    let tells := fun (t : State) (c : Code) => ∃ e, t.crier.band = s.crier.band ++ [e] ∧ e.code = c ∧ e.book = p
    (∀ a h, v = .ok [⟨a, len, h⟩] → dpaModule a = s.boot.moduleId → (∀ q w, s.region (dpaOffset a) ≠ .host q w) →
      dpaOffset a % 1024 + len ≤ 1024 → s.restingLine p (dpaOffset a / 1024) → (s.port src.portOf).bar2 = [] →
      completes (.hostBar2Read src off len) s fun t =>
        answers t ((List.range len).map fun i => memByte s.mem (dpaOffset a + i)) 0 false ∧ t.crier = s.crier) ∧
    (v = .undecoded → completes (.hostBar2Read src off len) s fun t => answers t [] 1 false ∧ t.crier = s.crier) ∧
    (v = .refused → completes (.hostBar2Read src off len) s fun t => answers t [] 1 false ∧ tells t .permission) ∧
    (v = .reserved → completes (.hostBar2Read src off len) s fun t =>
      ∃ bs, bs.length = len ∧ answers t bs 0 true ∧ tells t .permission) ∧
    (v = .fenced → completes (.hostBar2Read src off len) s fun t =>
      ∃ bs, bs.length = len ∧ answers t bs 0 true ∧ tells t .fencedTarget) := by
  intro n v answers tells
  have hx := exec_hostBar2Read hp h0 h1 (off := off) hup hlen hh hr hst
  have hport := Src.portOf_lt src
  have hur : answers (s.completeUr src.portOf src.fnOf) [] 1 false := ⟨s.toHost_room _ hport hw hl, rfl⟩
  have hpoison := s.completePoison_leaves src.fnOf off len hport hlen hoff hw hl
  refine ⟨fun a h hv hm hreg hline hrest hb => ?_, fun hv => ?_, fun hv => ?_, fun hv => ?_, fun hv => ?_⟩ <;> rw [show s.bar2Verdict _ _ _ _ _ _ = _ from hv] at hx
  · obtain ⟨l, hfill, hrest'⟩ := s.wharfFilled_rest hrest src.fnOf off len
    obtain ⟨u, huf, hu⟩ := State.hostFetch_rest (s := { s with land := l }) (fn := src.fnOf) (off := off) (hint := h) (port := src.portOf)
      hm hreg hline hlen hrest' hb
    have hne : ((List.range len).map fun i => memByte s.mem (dpaOffset a + i)) ≠ [] := by simpa using hlen
    dsimp only at hx
    rw [hfill, hu, u.complete_single _ _ _ _ _ hne (by rw [List.length_map, List.length_range]; exact hoff)] at hx
    have hq : u.quay n = s.quay n := by rw [huf]; rfl
    refine completes_of_exec hx ⟨⟨?_, ?_⟩, ?_⟩
    · rw [u.toHost_room _ hport (by rw [hq]; exact hw) (by rw [hq]; exact hl), hq]
    · rw [u.toHost_frame, huf]
    · rw [u.toHost_frame, huf]
  · exact completes_of_exec hx ⟨hur, rfl⟩
  · exact completes_of_exec hx ⟨hur, (s.completeUr src.portOf src.fnOf).raiseOwn_band ..⟩
  · obtain ⟨bs, hbs, hq, hmem, hcr⟩ := hpoison
    obtain ⟨e, he, hc, hbk⟩ := (s.completePoison src.portOf src.fnOf off len).raiseOwn_band .permission (srcBar2 src.portOf) p
      ((s.completePoison src.portOf src.fnOf off len).bar2Addr src.fnOf off)
    exact completes_of_exec hx ⟨bs, hbs, ⟨hq, hmem⟩, e, by rw [he, hcr], hc, hbk⟩
  · obtain ⟨bs, hbs, hq, hmem, hcr⟩ := hpoison
    obtain ⟨e, he, hc, hbk⟩ := (s.completePoison src.portOf src.fnOf off len).raiseOwn_band .fencedTarget (srcBar2 src.portOf) p
      ((s.completePoison src.portOf src.fnOf off len).bar2Addr src.fnOf off)
    exact completes_of_exec hx ⟨bs, hbs, ⟨hq, hmem⟩, e, by rw [he, hcr], hc, hbk⟩

theorem hostBar2Write_rests (s : State) (src : Src) (off p : Nat) (data : List Byte) (hp : s.fnPolder src.portOf src.fnOf = some p)
    (h0 : src ≠ .dev 0) (h1 : src ≠ .dev 1) (hr : s.fnReaches src.portOf src.fnOf = true) (hd : data ≠ []) (hst : 2 ≤ s.boot.stage)
    (hh : s.held (srcBar2 src.portOf) p = false) (a h : Nat)
    (hv : s.bar2Verdict src.portOf src.fnOf p 1 off data.length = .ok [⟨a, data.length, h⟩]) (hm : dpaModule a = s.boot.moduleId)
    (hreg : ∀ q w, s.region (dpaOffset a) ≠ .host q w) (hline : dpaOffset a % 1024 + data.length ≤ 1024)
    (hrest : s.restingLine p (dpaOffset a / 1024)) (hb : (s.port src.portOf).bar2 = []) :
    completes (.hostBar2Write src off data false) s fun t =>
      t.mem = memPatch s.mem (dpaOffset a / 1024 * 1024) ((List.range data.length).map fun i => (dpaOffset a % 1024 + i, data.getD i 0))
        ∧ (∀ x, x < dpaOffset a ∨ dpaOffset a + data.length ≤ x → memByte t.mem x = memByte s.mem x)
        ∧ t.quays = s.quays ∧ t.crier = s.crier := by
  have hx := exec_hostBar2Write hp h0 h1 (off := off) (data := data) (ep := false) hr hd hst hh s rfl
  obtain ⟨l, hfill, hrest'⟩ := s.wharfFilled_rest hrest src.fnOf off data.length
  have hlen : data.length ≠ 0 := fun hz => hd (List.eq_nil_of_length_eq_zero hz)
  obtain ⟨t, htf, ht, hmem⟩ := State.hostStore_rest (s := { s with land := l }) (fn := src.fnOf) (off := off) (hint := h) (port := src.portOf)
    hm hreg hline hlen hrest' hb (data := data) rfl
  rw [hv] at hx
  dsimp only at hx
  rw [hfill, ht] at hx
  refine completes_of_exec hx ⟨hmem, fun x hout => ?_, by rw [htf], by rw [htf]⟩
  rw [hmem]
  refine memByte_memPatch_other _ _ _ _ fun e he hxe => ?_
  obtain ⟨i, hi, rfl⟩ := List.mem_map.1 he
  have := List.mem_range.1 hi
  have hxe : x = dpaOffset a / 1024 * 1024 + (dpaOffset a % 1024 + i) := hxe
  omega

/-- Settles O48: each access by its verdict; a run on a line at rest is one request, which its home performs at once. -/
theorem hostTrafficCompletes : Obligations.HostTrafficCompletes := by
  unfold Obligations.HostTrafficCompletes
  refine ⟨fun s src off len p hp h0 h1 hup hlen hh hr hst => ?_, fun s src off p data ep hp h0 h1 hr hd hst hh => ?_,
    fun s port p off len who hpp hlen hh hline hoff hdown hreads h128 hpiece hbus hw hl =>
      hostWindowRead_asks s port p off len who hpp hlen hh hline hoff hdown hreads h128 hpiece hbus hw hl,
    fun s port p off data poison hpp hd hh hoff => ⟨fun hdown h128 hpiece hbus hw hl =>
      hostWindowWrite_posts s port p off data poison hpp hd hh hoff hdown h128 hpiece hbus hw hl, fun hdown => ?_⟩,
    fun s port tag data hdown hst => ⟨fun r l hr ht hlen hl => hostCompletion_gathers hdown hst hr ht hlen hl, fun r l hr ht hlen => ?_,
      fun hr => hostCompletion_unexpected hdown hst hr⟩,
    fun s port r hr hwho hwait ht => hostTimeout_ends s port r hr hwho hwait ht⟩
  · intro port fn n v
    refine ⟨fun segs hv => ?_, fun hw hl hoff => hostBar2Read_completes s src off len p hp h0 h1 hup hlen hh hr hst hw hl hoff⟩
    have hx := exec_hostBar2Read hp h0 h1 (off := off) hup hlen hh hr hst
    rw [show s.bar2Verdict src.portOf src.fnOf p 0 off len = _ from hv] at hx
    exact hx
  · intro port fn u v
    have hx := exec_hostBar2Write hp h0 h1 (off := off) (data := data) (ep := ep) hr hd hst hh u rfl
    have hu : u = { s with ports := u.ports } := by
      show (if ep then s.countAdvisory src.portOf src.fnOf else s) = { s with ports := (if ep then s.countAdvisory src.portOf src.fnOf else s).ports }
      cases ep <;> rfl
    refine ⟨fun segs hv => ?_, fun a h hv hep hm hreg hline hrest hb => ?_, fun hv => ?_, fun c hv => ?_⟩
    · rw [show u.bar2Verdict src.portOf src.fnOf p 1 off data.length = _ from hv] at hx
      exact hx
    · subst hep
      exact hostBar2Write_rests s src off p data hp h0 h1 hr hd hst hh a h hv hm hreg hline hrest hb
    · rw [show u.bar2Verdict src.portOf src.fnOf p 1 off data.length = _ from hv] at hx
      exact hx
    · have told : ∀ detail, completes (.hostBar2Write src off data ep) s (fun t => t = u.raiseOwn c (srcBar2 src.portOf) p detail) →
          completes (.hostBar2Write src off data ep) s fun t =>
            t.mem = s.mem ∧ t.quays = s.quays ∧ ∃ e, t.crier.band = s.crier.band ++ [e] ∧ e.code = c ∧ e.book = p := by
        rintro detail ⟨t, ht, rfl⟩
        obtain ⟨e, he, hc, hbk⟩ := u.raiseOwn_band c (srcBar2 src.portOf) p detail
        have hcr : u.crier = s.crier := by rw [hu]
        have hmem : u.mem = s.mem := by rw [hu]
        have hq : u.quays = s.quays := by rw [hu]
        exact completes_of_exec ht ⟨hmem, hq, e, by rw [he, hcr], hc, hbk⟩
      obtain ⟨hv, rfl⟩ | ⟨hv, rfl⟩ | ⟨hv, rfl⟩ := hv <;> rw [show u.bar2Verdict src.portOf src.fnOf p 1 off data.length = _ from hv] at hx <;>
        exact told _ (completes_of_exec hx rfl)
  · have hx := exec_hostWindowWrite s port p off data poison hpp hd hh hoff
    rw [if_pos hdown] at hx
    exact completes_of_exec hx ⟨s.raiseOwn_band .., rfl⟩
  · have hx := exec_hostCompletion_found (data := data) hdown hst (r := r) (tag := tag) (by rw [hr]; simp [ht])
    rw [if_neg (by rw [List.length_append, List.length_map]; omega)] at hx
    exact hx

end Sys2Proof.Machine
end

section
/-! SUPPORT. The queue and memory: what every command leaves alone, or canonical. -/

namespace Sys2Proof.Machine

open Sys2Proof

/-- What no command but a step may touch, and what every step keeps canonical: the queue and memory. -/
structure Trunk where
  pending : List Instr
  mem : List Host.Cell

def State.trunk (s : State) : Trunk := ⟨s.pending, s.mem⟩

/-- The queue is the same, and memory is still canonical if it was. -/
structure TrunkKept (c d : Trunk) : Prop where
  pending : d.pending = c.pending
  mem : Memory.wf c.mem = true → Memory.wf d.mem = true

@[simp] theorem TrunkKept.refl (c : Trunk) : TrunkKept c c := ⟨rfl, id⟩

theorem TrunkKept.trans {c d e : Trunk} (h : TrunkKept c d) (g : TrunkKept d e) : TrunkKept c e :=
  ⟨g.pending.trans h.pending, g.mem ∘ h.mem⟩

/-- The command answers a next state, with the queue and memory kept. -/
def Out.Keeps (o : Out) (s : State) : Prop := ∃ t, o = .next t ∧ TrunkKept s.trunk t.trunk

@[simp] theorem Out.keeps_next (s t : State) : Out.Keeps (.next t) s ↔ TrunkKept s.trunk t.trunk := by
  simp [Out.Keeps]

@[simp] theorem State.trunk_mk (a b c d e f g h i j k l m n o p q r t u v w x y z a' b' c' d' e' f' g' h' i' j' k' l') :
    State.trunk ⟨a, b, c, d, e, f, g, h, i, j, k, l, m, n, o, p, q, r, t, u, v, w, x, y, z, a', b', c', d', e', f', g', h',
      i', j', k', l'⟩ = ⟨a, k⟩ := by rw [State.trunk]

@[simp] theorem State.trunk_eta (s : State) : (⟨s.pending, s.mem⟩ : Trunk) = s.trunk := by cases s; rw [State.trunk]

@[simp] theorem State.trunk_ite (p : Prop) [Decidable p] (s t : State) :
    (if p then s else t).trunk = if p then s.trunk else t.trunk := apply_ite ..

@[simp] theorem trunk_foldl {α : Type} (f : State → α → State) (l : List α) (s : State) (h : ∀ u x, (f u x).trunk = u.trunk) :
    (l.foldl f s).trunk = s.trunk := by
  induction l generalizing s with
  | nil => rfl
  | cons x l ih => rw [List.foldl_cons, ih, h]

@[simp] theorem kept_foldl {α : Type} (f : State → α → State) (l : List α) (s : State) (c : Trunk)
    (h : ∀ u x, TrunkKept u.trunk (f u x).trunk) (hc : TrunkKept c s.trunk) : TrunkKept c (l.foldl f s).trunk := by
  induction l generalizing s with
  | nil => exact hc
  | cons x l ih => exact ih _ (hc.trans (h s x))

@[simp] theorem trunk_foldl_snd {α β : Type} (f : β × State → α → β × State) (l : List α) (x : β × State)
    (h : ∀ y a, (f y a).2.trunk = y.2.trunk) : (l.foldl f x).2.trunk = x.2.trunk :=
  foldl_keeps_proj (fun y => y.2.trunk) f h l x

@[simp] theorem kept_foldl_snd {α β : Type} (f : β × State → α → β × State) (l : List α) (x : β × State) (c : Trunk)
    (h : ∀ y a, TrunkKept y.2.trunk (f y a).2.trunk) (hc : TrunkKept c x.2.trunk) : TrunkKept c (l.foldl f x).2.trunk :=
  foldl_keeps f (fun y : β × State => TrunkKept c y.2.trunk) l (fun y a _ hy => hy.trans (h y a)) x hc

theorem trunk_getD (o : Option State) (s : State) (h : ∀ t, o = some t → t.trunk = s.trunk) : (o.getD s).trunk = s.trunk := by
  cases o with
  | none => rfl
  | some t => exact h t rfl

/-- Writes made one after another until one is refused. -/
theorem trunk_foldl_bind {α : Type} (f : State → α → Option State) (l : List α) (o : Option State) (c : Trunk)
    (h : ∀ u e t, f u e = some t → t.trunk = u.trunk) (ho : ∀ u, o = some u → u.trunk = c) (t : State)
    (ht : (l.foldl (fun x e => x.bind fun s => f s e) o) = some t) : t.trunk = c := by
  induction l generalizing o with
  | nil => exact ho t ht
  | cons e l ih =>
    refine ih _ (fun u hu => ?_) ht
    obtain ⟨v, hv, hf⟩ := Option.bind_eq_some_iff.1 hu
    rw [h v e u hf, ho v hv]

@[simp] theorem TrunkKept.ite {c d e : Trunk} {p : Prop} [Decidable p] (h : p → TrunkKept c d) (g : ¬p → TrunkKept c e) :
    TrunkKept c (if p then d else e) := by
  split
  · exact h ‹_›
  · exact g ‹_›

@[simp] theorem TrunkKept.memPatch {c : Trunk} {p m} (h : TrunkKept c ⟨p, m⟩) (a bs) :
    TrunkKept c ⟨p, memPatch m a bs⟩ := ⟨h.pending, fun w => Memory.wf_memPatch _ _ _ (h.mem w)⟩

@[simp] theorem TrunkKept.memClear {c : Trunk} {p m} (h : TrunkKept c ⟨p, m⟩) (f) :
    TrunkKept c ⟨p, memClear m f⟩ := ⟨h.pending, fun w => Memory.wf_memClear _ _ (h.mem w)⟩

theorem TrunkKept.of_trunk {c d : Trunk} (h : d = c) : TrunkKept c d := h ▸ .refl c

theorem TrunkKept.of_eq {c d e : Trunk} (h : TrunkKept c d) (he : e = d) : TrunkKept c e := he ▸ h

theorem TrunkKept.state_ite {c : Trunk} {p : Prop} [Decidable p] {s t : State} (h : p → TrunkKept c s.trunk)
    (g : ¬p → TrunkKept c t.trunk) : TrunkKept c (if p then s else t).trunk := by
  split
  · exact h ‹_›
  · exact g ‹_›

theorem State.trunk_of_ite {c : Trunk} {p : Prop} [Decidable p] {s t : State} (h : p → s.trunk = c)
    (g : ¬p → t.trunk = c) : (if p then s else t).trunk = c := by
  split
  · exact h ‹_›
  · exact g ‹_›

theorem Out.Keeps.next {s t : State} (h : TrunkKept s.trunk t.trunk) : Out.Keeps (.next t) s := ⟨t, rfl, h⟩

end Sys2Proof.Machine

end


section
/-! SUPPORT. What the functions of Clock, Ops, Quays, Access, Granary do to the queue and to memory. -/

namespace Sys2Proof.Machine

open Sys2Proof

@[simp] theorem State.ppsPass_trunk (s : State) (was : Nat) : (s.ppsPass was).trunk = s.trunk := by
  simp only [State.ppsPass]
  repeat' split
  all_goals simp

@[simp] theorem State.tick_trunk (s : State) : s.tick.trunk = s.trunk := by
  simp [State.tick]

@[simp] theorem State.advanceTo_trunk (s : State) (value : Nat) : (s.advanceTo value).trunk = s.trunk := by
  simp [State.advanceTo]

@[simp] theorem State.updPol_trunk (s : State) (p : Nat) (f : Polder → Polder) : (s.updPol p f).trunk = s.trunk := by
  simp [State.updPol]

@[simp] theorem State.updHand_trunk (s : State) (h : Nat) (f : Hand → Hand) : (s.updHand h f).trunk = s.trunk := by
  simp [State.updHand]

@[simp] theorem State.updMill_trunk (s : State) (d : Nat) (f : MillSt → MillSt) :
    (s.updMill d f).trunk = s.trunk := by
  simp [State.updMill]

@[simp] theorem State.updKeel_trunk (s : State) (k : Nat) (f : KeelSt → KeelSt) :
    (s.updKeel k f).trunk = s.trunk := by
  simp [State.updKeel]

@[simp] theorem State.updStack_trunk (s : State) (k : Nat) (f : Stack → Stack) :
    (s.updStack k f).trunk = s.trunk := by
  simp [State.updStack]

@[simp] theorem State.updMark_trunk (s : State) (l : Nat) (f : Mark → Mark) : (s.updMark l f).trunk = s.trunk := by
  simp [State.updMark]

@[simp] theorem State.updLink_trunk (s : State) (n : Nat) (f : LinkPort → LinkPort) :
    (s.updLink n f).trunk = s.trunk := by
  simp [State.updLink]

@[simp] theorem State.updEngine_trunk (s : State) (m : Nat) (f : OptEngine → OptEngine) :
    (s.updEngine m f).trunk = s.trunk := by
  simp [State.updEngine]

@[simp] theorem State.updPort_trunk (s : State) (n : Nat) (f : HostPort → HostPort) :
    (s.updPort n f).trunk = s.trunk := by
  simp [State.updPort]

@[simp] theorem State.updBundle_trunk (s : State) (b : Nat) (f : BundleSt → BundleSt) :
    (s.updBundle b f).trunk = s.trunk := by
  simp [State.updBundle]

@[simp] theorem State.updStint_trunk (s : State) (i : Nat) (f : StintSt → StintSt) :
    (s.updStint i f).trunk = s.trunk := by
  simp [State.updStint]

@[simp] theorem State.updLand_trunk (s : State) (f : Land → Land) : (s.updLand f).trunk = s.trunk := by
  simp [State.updLand]

@[simp] theorem State.updLandRegs_trunk (s : State) (n : Nat) (f : LandRegs → LandRegs) :
    (s.updLandRegs n f).trunk = s.trunk := by
  simp [State.updLandRegs]

@[simp] theorem State.updLoad_trunk (s : State) (n : Nat) (f : LoadCtl → LoadCtl) :
    (s.updLoad n f).trunk = s.trunk := by
  simp [State.updLoad]

@[simp] theorem State.updFence_trunk (s : State) (i : Nat) (f : FenceSt → FenceSt) :
    (s.updFence i f).trunk = s.trunk := by
  simp [State.updFence]

@[simp] theorem State.updBook_trunk (s : State) (p c : Nat) (f : Book → Book) :
    (s.updBook p c f).trunk = s.trunk := by
  simp [State.updBook]

@[simp] theorem State.updDiePower_trunk (s : State) (d : Nat) (f : DiePower → DiePower) :
    (s.updDiePower d f).trunk = s.trunk := by
  simp [State.updDiePower]

@[simp] theorem State.updHeat_trunk (s : State) (i : Nat) (f : DieHeat → DieHeat) :
    (s.updHeat i f).trunk = s.trunk := by
  simp [State.updHeat]

@[simp] theorem State.updStation_trunk (s : State) (d p : Nat) (f : StationSt → StationSt) :
    (s.updStation d p f).trunk = s.trunk := by
  simp [State.updStation]

@[simp] theorem State.updRun_trunk (s : State) (p seq : Nat) (f : Run → Run) :
    (s.updRun p seq f).trunk = s.trunk := by
  simp [State.updRun]

@[simp] theorem State.free_trunk (s : State) (w : Nat) : (s.free w).2.trunk = s.trunk := by
  simp [State.free]

@[simp] theorem State.freshId_trunk (s : State) : s.freshId.2.trunk = s.trunk := by
  simp [State.freshId]

@[simp] theorem State.raise_trunk (s : State) (code : Code) (source book pol : Nat) (detail : List Byte) :
    (s.raise code source book pol detail).trunk = s.trunk := by
  simp [State.raise]

@[simp] theorem State.raiseOwn_trunk (s : State) (code : Code) (source p : Nat) (detail : List Byte) :
    (s.raiseOwn code source p detail).trunk = s.trunk := by
  simp [State.raiseOwn]

@[simp] theorem State.raiseBoth_trunk (s : State) (code : Code) (source : Nat) (detail : List Byte) :
    (s.raiseBoth code source detail).trunk = s.trunk := by
  simp [State.raiseBoth]

@[simp] theorem State.raiseSup_trunk (s : State) (code : Code) (source p : Nat) (detail : List Byte) :
    (s.raiseSup code source p detail).trunk = s.trunk := by
  unfold State.raiseSup
  split <;> simp

@[simp] theorem State.permission_trunk (s : State) (source p addr engine : Nat) :
    (s.permission source p addr engine).trunk = s.trunk := by
  simp [State.permission]

@[simp] theorem State.delayRuns_trunk (s : State) (p : Nat) (f : Run → Bool) (n : Nat) (k : Cause) :
    (s.delayRuns p f n k).trunk = s.trunk := by
  simp [State.delayRuns]

@[simp] theorem State.updQuay_trunk (s : State) (n : Nat) (f : QuaySt → QuaySt) :
    (s.updQuay n f).trunk = s.trunk := by
  simp [State.updQuay]

@[simp] theorem State.pushQuay_trunk (s : State) (n : Nat) (e : QEntry) : (s.pushQuay n e).trunk = s.trunk := by
  simp [State.pushQuay]

@[simp] theorem State.toHost_trunk (s : State) (port : Nat) (m : HostMsg) : (s.toHost port m).trunk = s.trunk := by
  simp [State.toHost]

@[simp] theorem State.complete_trunk (s : State) (port fn addr : Nat) (data : List Byte) (ep : Bool) :
    (s.complete port fn addr data ep).trunk = s.trunk := by
  simp [State.complete]

@[simp] theorem State.completeUr_trunk (s : State) (port fn : Nat) : (s.completeUr port fn).trunk = s.trunk := by
  simp [State.completeUr]

@[simp] theorem State.hostPost_trunk (s : State) (port fn addr : Nat) (data : List Byte) (ep : Bool)
    (maker : Nat × Nat × Nat × Nat) :
    (s.hostPost port fn addr data ep maker).trunk = s.trunk := by
  simp [State.hostPost]

@[simp] theorem State.msixSend_trunk (s : State) (port fn v : Nat) : (s.msixSend port fn v).trunk = s.trunk := by
  simp [State.msixSend]

@[simp] theorem State.bookVector_trunk (s : State) (p c : Nat) : (s.bookVector p c).trunk = s.trunk := by
  simp [State.bookVector]

@[simp] theorem State.stageVector_trunk (s : State) : s.stageVector.trunk = s.trunk := by
  simp [State.stageVector]

@[simp] theorem State.reply_trunk (s : State) (src : Src) (size : Nat) (v : Nat) :
    (s.reply src size v).trunk = s.trunk := by
  unfold State.reply
  split <;> simp

@[simp] theorem State.setGran_trunk (s : State) (key : Nat) (g : GranLine) : (s.setGran key g).trunk = s.trunk := by
  simp [State.setGran]

@[simp] theorem State.updGran_trunk (s : State) (key : Nat) (f : GranLine → GranLine) :
    (s.updGran key f).trunk = s.trunk := by
  simp [State.updGran]

@[simp] theorem State.homeUndo_kept {c₀ : Trunk} (s : State) (line : Nat) (mask : BitVec 8)
    (hc : TrunkKept c₀ s.trunk) :
    TrunkKept c₀ (s.homeUndo line mask).trunk := by
  simp only [State.homeUndo]
  repeat' split
  all_goals simp [hc]

@[simp] theorem State.granFlush_kept {c₀ : Trunk} (s : State) (key : Nat) (hc : TrunkKept c₀ s.trunk) :
    TrunkKept c₀ (s.granFlush key).trunk := by
  simp (disch := simp [hc]) [State.granFlush]

@[simp] theorem State.granEvict_kept {c₀ : Trunk} (s : State) (key : Nat) (hc : TrunkKept c₀ s.trunk) :
    TrunkKept c₀ (s.granEvict key).trunk := by
  simp [State.granEvict, hc]

@[simp] theorem State.granAlloc_kept {c₀ : Trunk} (s : State) (p line hint : Nat) (hc : TrunkKept c₀ s.trunk) :
    TrunkKept c₀ (s.granAlloc p line hint).trunk := by
  simp only [State.granAlloc]
  repeat' split
  all_goals simp [hc]

@[simp] theorem State.granFill_trunk (s : State) (line : Nat) (need : BitVec 8) :
    (s.granFill line need).trunk = s.trunk := by
  unfold State.granFill
  split <;> simp

@[simp] theorem State.countDead_trunk (s : State) (p : Nat) (dead : Bool) : (s.countDead p dead).trunk = s.trunk := by
  simp [State.countDead]

@[simp] theorem State.homeRead_kept {c₀ : Trunk} (s : State) (p line : Nat) (need : BitVec 8) (hint : Nat)
    (hc : TrunkKept c₀ s.trunk) :
    TrunkKept c₀ (s.homeRead p line need hint).2.trunk := by
  simp [State.homeRead, hc]

@[simp] theorem State.homeKeep_kept {c₀ : Trunk} (s : State) (line : Nat) (bs : Bytes) (dead : Bool)
    (hc : TrunkKept c₀ s.trunk) :
    TrunkKept c₀ (s.homeKeep line bs dead).trunk := by
  simp [State.homeKeep, hc]

@[simp] theorem State.homeWrite_kept {c₀ : Trunk} (s : State) (p line : Nat) (bs : Bytes) (dead poison : Bool)
    (hint : Nat) (hc : TrunkKept c₀ s.trunk) :
    TrunkKept c₀ (s.homeWrite p line bs dead poison hint).trunk := by
  simp only [State.homeWrite]
  repeat' split
  all_goals simp (disch := simp [hc]) [hc]

@[simp] theorem State.homeDiscard_trunk (s : State) (line : Nat) (mask : BitVec 8) (granary : Bool) :
    (s.homeDiscard line mask granary).trunk = s.trunk := by
  unfold State.homeDiscard
  split <;> simp

@[simp] theorem State.homePoisonAll_trunk (s : State) (line : Nat) : (s.homePoisonAll line).trunk = s.trunk := by
  unfold State.homePoisonAll
  split <;> simp

@[simp] theorem State.untag_trunk (s : State) (o len : Nat) : (s.untag o len).trunk = s.trunk := by
  simp [State.untag]

end Sys2Proof.Machine

end


section
/-! SUPPORT. What the functions of Home do to the queue and to memory. -/

namespace Sys2Proof.Machine

open Sys2Proof

@[simp] theorem State.sendTxn_trunk (s : State) (n p cls : Nat) (t : Txn) :
    (s.sendTxn n p cls t).trunk = s.trunk := by
  unfold State.sendTxn
  split <;> simp

@[simp] theorem State.takeTracker_trunk (s : State) (k p who : Nat) : (s.takeTracker k p who).trunk = s.trunk := by
  simp [State.takeTracker]

@[simp] theorem State.freeTracker_trunk (s : State) (k p who : Nat) : (s.freeTracker k p who).trunk = s.trunk := by
  simp [State.freeTracker]

@[simp] theorem State.newReq_trunk (s : State) (op : HomeOp) (line p : Nat) (who : Requester) (va hint : Nat) :
    (s.newReq op line p who va hint).trunk = s.trunk := by
  simp [State.newReq]

@[simp] theorem State.late_trunk (s : State) (p : Nat) (orphan : Bool) : (s.late p orphan).trunk = s.trunk := by
  simp [State.late]

@[simp] theorem State.hostGot_trunk (s : State) (port id p : Nat) (bs : Bytes) (bad dead : Bool) :
    (s.hostGot port id p bs bad dead).trunk = s.trunk := by
  unfold State.hostGot
  split <;> simp

@[simp] theorem State.hostAnswer_trunk (s : State) (port id : Nat) (r : HomeReq) (bs : Bytes) (poison : BitVec 8) :
    (s.hostAnswer port id r bs poison).trunk = s.trunk := by
  simp [State.hostAnswer]

@[simp] theorem State.deliver_trunk (s : State) (r : HomeReq) (bs : Bytes) (poison : BitVec 8) :
    (s.deliver r bs poison).trunk = s.trunk := by
  simp only [State.deliver]
  repeat' split
  all_goals simp

@[simp] theorem State.answer_trunk (s : State) (r : HomeReq) (bs : Bytes) (poison : BitVec 8) :
    (s.answer r bs poison).trunk = s.trunk := by
  simp [State.answer]

@[simp] theorem State.freeLine_trunk (s : State) : s.freeLine.2.trunk = s.trunk := by
  simp [State.freeLine]

@[simp] theorem State.answerFenced_trunk (s : State) (r : HomeReq) : (s.answerFenced r).trunk = s.trunk := by
  simp [State.answerFenced]

@[simp] theorem State.answerFencedStack_trunk (s : State) (r : HomeReq) :
    (s.answerFencedStack r).trunk = s.trunk := by
  unfold State.answerFencedStack
  split <;> simp

@[simp] theorem State.perform_kept {c₀ : Trunk} (s : State) (r : HomeReq) (hc : TrunkKept c₀ s.trunk) :
    TrunkKept c₀ (s.perform r).trunk := by
  simp only [State.perform]
  repeat' split
  all_goals simp (disch := simp [hc]) [hc]

@[simp] theorem State.setShadow_trunk (s : State) (key : Nat) (e : Shadow) : (s.setShadow key e).trunk = s.trunk := by
  simp [State.setShadow]

@[simp] theorem State.setTxn_trunk (s : State) (line : Nat) (t : HomeTxn) : (s.setTxn line t).trunk = s.trunk := by
  simp [State.setTxn]

@[simp] theorem State.send_trunk (s : State) (m : CohMsg) : (s.send m).trunk = s.trunk := by
  simp [State.send]

@[simp] theorem State.sendData_kept {c₀ : Trunk} (s : State) (m : CohMsg) (need : BitVec 8)
    (hc : TrunkKept c₀ s.trunk) :
    TrunkKept c₀ (s.sendData m need).trunk := by
  simp (disch := simp [hc]) [State.sendData]

@[simp] theorem State.sendGrant_trunk (s : State) (m : CohMsg) (st : Nat) (cover need : BitVec 8) :
    (s.sendGrant m st cover need).trunk = s.trunk := by
  simp [State.sendGrant]

@[simp] theorem State.grantNow_kept {c₀ : Trunk} (s : State) (m : CohMsg) (es : List Entry) (st : Nat) (ent : EntSt)
    (hc : TrunkKept c₀ s.trunk) :
    TrunkKept c₀ (s.grantNow m es st ent).trunk := by
  simp [State.grantNow, hc]

@[simp] theorem State.invalidate_trunk (s : State) (m : CohMsg) (es : List Entry) :
    (s.invalidate m es).trunk = s.trunk := by
  simp [State.invalidate]

@[simp] theorem State.forward_trunk (s : State) (m : CohMsg) (o : Entry) (type : MsgType) (need : BitVec 8) :
    (s.forward m o type need).trunk = s.trunk := by
  simp [State.forward]

@[simp] theorem State.beginCoh_kept {c₀ : Trunk} (s : State) (m : CohMsg) (hc : TrunkKept c₀ s.trunk) :
    TrunkKept c₀ (s.beginCoh m).trunk := by
  simp only [State.beginCoh]
  repeat' split
  all_goals simp [hc]

@[simp] theorem State.land_kept {c₀ : Trunk} (s : State) (m : CohMsg) (hc : TrunkKept c₀ s.trunk) :
    TrunkKept c₀ (s.land_ m).trunk := by
  simp only [State.land_]
  repeat' split
  all_goals simp (disch := simp [hc]) [hc]

@[simp] theorem State.takePut_kept {c₀ : Trunk} (s : State) (m : CohMsg) (hc : TrunkKept c₀ s.trunk) :
    TrunkKept c₀ (s.takePut m).trunk := by
  simp only [State.takePut]
  repeat' split
  all_goals simp [hc]

@[simp] theorem State.beginReq_kept {c₀ : Trunk} (s : State) (r : HomeReq) (hc : TrunkKept c₀ s.trunk) :
    TrunkKept c₀ (s.beginReq r).trunk := by
  simp [State.beginReq, hc]

@[simp] theorem State.recallSharers_trunk (s : State) (line : Nat) : (s.recallSharers line).trunk = s.trunk := by
  simp [State.recallSharers]

@[simp] theorem State.begin_kept {c₀ : Trunk} (s : State) (line : Nat) (x0 : Serving) (hc : TrunkKept c₀ s.trunk) :
    TrunkKept c₀ (s.begin line x0).trunk := by
  unfold State.begin
  split <;> simp [hc]

@[simp] theorem State.takeCrossing_kept {c₀ : Trunk} (s : State) (line : Nat) (hc : TrunkKept c₀ s.trunk) :
    TrunkKept c₀ (s.takeCrossing line).trunk := by
  simp [State.takeCrossing, hc]

@[simp] theorem State.drain_kept {c₀ : Trunk} (s : State) (line : Nat) (x0 : Nat) (x1 : List Serving)
    (hc : TrunkKept c₀ s.trunk) :
    TrunkKept c₀ (s.drain line x0 x1).trunk := by
  induction x0 generalizing s x1 with
  | zero => simpa [State.drain] using hc
  | succ n ih =>
    cases x1 with
    | nil => simpa [State.drain] using hc
    | cons x q =>
      have begun : ∀ first, TrunkKept c₀ (s.begin line first).trunk := fun first => by simp [hc]
      simp only [State.drain]
      repeat' split
      all_goals simp [begun, ih]

@[simp] theorem State.finish_kept {c₀ : Trunk} (s : State) (line : Nat) (hc : TrunkKept c₀ s.trunk) :
    TrunkKept c₀ (s.finish line).trunk := by
  simp [State.finish, hc]

@[simp] theorem State.request_kept {c₀ : Trunk} (s : State) (line : Nat) (x : Serving) (hc : TrunkKept c₀ s.trunk) :
    TrunkKept c₀ (s.request line x).trunk := by
  simp [State.request, hc]

@[simp] theorem State.serve_kept {c₀ : Trunk} (s : State) (r : HomeReq) (hc : TrunkKept c₀ s.trunk) :
    TrunkKept c₀ (s.serve r).trunk := by
  simp [State.serve, hc]

@[simp] theorem State.writeOthers_trunk (s : State) (line : Nat) (es : List (Nat × Shadow)) :
    (s.writeOthers line es).trunk = s.trunk := by
  simp [State.writeOthers]

@[simp] theorem State.closeTxn_kept {c₀ : Trunk} (s : State) (line : Nat) (hc : TrunkKept c₀ s.trunk) :
    TrunkKept c₀ (s.closeTxn line).trunk := by
  simp [State.closeTxn, hc]

@[simp] theorem State.lastAnswer_kept {c₀ : Trunk} (s : State) (line : Nat) (hc : TrunkKept c₀ s.trunk) :
    TrunkKept c₀ (s.lastAnswer line).trunk := by
  simp only [State.lastAnswer]
  repeat' split
  all_goals simp (disch := simp [hc]) [hc]

@[simp] theorem State.answered_kept {c₀ : Trunk} (s : State) (m : CohMsg) (f : HomeTxn → HomeTxn)
    (hc : TrunkKept c₀ s.trunk) :
    TrunkKept c₀ (s.answered m f).trunk := by
  simp [State.answered, hc]

@[simp] theorem State.doneAt_kept {c₀ : Trunk} (s : State) (m : CohMsg) (hc : TrunkKept c₀ s.trunk) :
    TrunkKept c₀ (s.doneAt m).trunk := by
  simp only [State.doneAt]
  repeat' split
  all_goals simp [hc]

theorem State.receive_trunk (s : State) (m : CohMsg) (t : State) (h : (s.receive m) = some t) :
    t.trunk = s.trunk := by
  simp only [State.receive] at h
  split at h
  · cases h; simp
  · cases h

@[simp] theorem State.recallOne_kept {c₀ : Trunk} (s : State) (key : Nat) (b : BinLine) (hc : TrunkKept c₀ s.trunk) :
    TrunkKept c₀ (s.recallOne key b).trunk := by
  simp [State.recallOne, hc]

@[simp] theorem State.pokeLine_kept {c₀ : Trunk} (s : State) (p line : Nat) (bs : Bytes) (poison : Bool)
    (hc : TrunkKept c₀ s.trunk) : TrunkKept c₀ (s.pokeLine p line bs poison).trunk := by
  refine .state_ite (fun _ => hc) fun _ => .state_ite (fun _ => by simp [hc]) fun _ => State.homeWrite_kept _ _ _ _ _ _ _ ?_
  rw [trunk_foldl _ _ _ fun u e => State.setShadow_trunk ..]
  exact kept_foldl _ _ _ _ (fun u e => u.recallOne_kept _ _ (.refl _)) hc

@[simp] theorem State.poke_kept {c₀ : Trunk} (s : State) (p a : Nat) (bs : List Byte) (poison : Bool)
    (hc : TrunkKept c₀ s.trunk) :
    TrunkKept c₀ (s.poke p a bs poison).trunk := by
  simp (disch := simp [hc]) [State.poke]

end Sys2Proof.Machine

end


section
/-! SUPPORT. What the functions of Land, Fabric, MillOps, Route, Seq do to the queue and to memory. -/

namespace Sys2Proof.Machine

open Sys2Proof

@[simp] theorem State.fillCache_trunk (s : State) (c : Nat) (e : TransEntry) : (s.fillCache c e).trunk = s.trunk := by
  simp [State.fillCache]

@[simp] theorem State.dropCached_trunk (s : State) (f : TransEntry → Bool) : (s.dropCached f).trunk = s.trunk := by
  simp [State.dropCached]

@[simp] theorem State.startWalk_trunk (s : State) (eng : EngineRef) (p va acc tag : Nat) :
    (s.startWalk eng p va acc tag).trunk = s.trunk := by
  simp [State.startWalk]

@[simp] theorem State.chargeWalks_trunk (s : State) (eng : EngineRef) : (s.chargeWalks eng).trunk = s.trunk := by
  unfold State.chargeWalks
  split <;> simp

@[simp] theorem State.endWalks_trunk (s : State) (eng : EngineRef) : (s.endWalks eng).trunk = s.trunk := by
  simp [State.endWalks]

@[simp] theorem State.translate_trunk (s : State) (eng : EngineRef) (p va acc tag : Nat) :
    (s.translate eng p va acc tag).2.trunk = s.trunk := by
  unfold State.translate
  split <;> simp

@[simp] theorem State.setWalk_trunk (s : State) (id : Nat) (f : Walk → Walk) : (s.setWalk id f).trunk = s.trunk := by
  simp [State.setWalk]

@[simp] theorem State.queueWalk_trunk (s : State) (w : Walk) (st : WalkSt) : (s.queueWalk w st).trunk = s.trunk := by
  simp [State.queueWalk]

@[simp] theorem State.dropWalk_trunk (s : State) (id : Nat) : (s.dropWalk id).trunk = s.trunk := by
  simp [State.dropWalk]

@[simp] theorem State.walk_trunk (s : State) (id : Nat) : (s.walk id).trunk = s.trunk := by
  simp only [State.walk]
  repeat' split
  all_goals simp

@[simp] theorem State.missArrives_trunk (s : State) (w : Walk) (room : Bool) :
    (s.missArrives w room).trunk = s.trunk := by
  simp only [State.missArrives]
  repeat' split
  all_goals simp

@[simp] theorem State.walkAgain_trunk (s : State) (w : Walk) : (s.walkAgain w).trunk = s.trunk := by
  simp [State.walkAgain]

@[simp] theorem State.closeMiss_trunk (s : State) (m : Miss) (f : State → Walk → State) (hf : ∀ u w,
    (f u w).trunk = u.trunk) :
    (s.closeMiss m f).trunk = s.trunk := by
  simp only [State.closeMiss]
  rw [trunk_foldl _ _ _ fun u w => ?_]
  · simp
  · split
    · exact hf u w
    · split <;> simp

@[simp] theorem State.abortWalk_trunk (s : State) (w : Walk) : (s.abortWalk w).trunk = s.trunk := by
  simp [State.abortWalk]

@[simp] theorem State.resume_trunk (s : State) (port serial : Nat) (abort : Bool) :
    (s.resume port serial abort).trunk = s.trunk := by
  unfold State.resume
  split
  · simp
  · split <;> simp

@[simp] theorem State.setEntry_trunk (s : State) (i : Nat) (v : Word) : (s.setEntry i v).trunk = s.trunk := by
  simp [State.setEntry]

@[simp] theorem State.landGo_trunk (s : State) (port : Nat) : (s.landGo port).trunk = s.trunk := by
  simp [State.landGo]

@[simp] theorem State.landCtlWrite_trunk (s : State) (port : Nat) (a : RegAcc) :
    (s.landCtlWrite port a).trunk = s.trunk := by
  simp [State.landCtlWrite]

@[simp] theorem State.landIdxWrite_trunk (s : State) (port : Nat) (a : RegAcc) :
    (s.landIdxWrite port a).trunk = s.trunk := by
  simp [State.landIdxWrite]

@[simp] theorem State.landValWrite_trunk (s : State) (port : Nat) (a : RegAcc) :
    (s.landValWrite port a).trunk = s.trunk := by
  simp [State.landValWrite]

@[simp] theorem State.landResumeWrite_trunk (s : State) (port : Nat) (a : RegAcc) :
    (s.landResumeWrite port a).trunk = s.trunk := by
  simp [State.landResumeWrite]

@[simp] theorem State.landHwinWrite_trunk (s : State) (port : Nat) (a : RegAcc) :
    (s.landHwinWrite port a).trunk = s.trunk := by
  simp [State.landHwinWrite]

@[simp] theorem State.editDone_trunk (s : State) (port : Nat) : (s.editDone port).trunk = s.trunk := by
  simp [State.editDone]

@[simp] theorem State.freeBytes_trunk (s : State) (n : Nat) : (s.freeBytes n).2.trunk = s.trunk := by
  simp [State.freeBytes]

@[simp] theorem State.sendWrite_trunk (s : State) (n p cls dpa : Nat) (bs : List Byte) (poison : Bool) (hint : Nat) :
    (s.sendWrite n p cls dpa bs poison hint).trunk = s.trunk := by
  simp [State.sendWrite]

theorem State.remoteWrite_trunk (s : State) (p cls dpa : Nat) (bs : List Byte) (poison : Bool) (hint : Nat)
    (t : State) (h : (s.remoteWrite p cls dpa bs poison hint) = some t) :
    t.trunk = s.trunk := by
  unfold State.remoteWrite at h
  repeat' split at h
  all_goals simp at h
  all_goals subst h
  all_goals simp

theorem State.remoteRead_trunk (s : State) (p cls dpa len : Nat) (who : Requester) (va : Nat) (t : State) (h :
    (s.remoteRead p cls dpa len who va) = some t) :
    t.trunk = s.trunk := by
  unfold State.remoteRead at h
  split at h
  · cases h; simp
  · cases h

@[simp] theorem State.sendHostRead_trunk (s : State) (port : Nat) (r : HostRead) :
    (s.sendHostRead port r).trunk = s.trunk := by
  simp only [State.sendHostRead]
  repeat' split
  all_goals simp

theorem State.hostRead_trunk (s : State) (port p w len : Nat) (who : Requester) (va : Nat) (t : Nat × State)
    (h : State.hostRead s port p w len who va = some t) : t.2.trunk = s.trunk := by
  obtain ⟨a, -, rfl⟩ := Option.map_eq_some_iff.1 h
  simp

theorem State.hostWrite_trunk (s : State) (port p w : Nat) (bs : List Byte) (poison : Bool) (src va eng : Nat)
    (t : State) (h : (s.hostWrite port p w bs poison src va eng) = some t) :
    t.trunk = s.trunk := by
  obtain ⟨a, -, rfl⟩ := Option.map_eq_some_iff.1 h
  simp

@[simp] theorem State.writeDpa_kept {c₀ : Trunk} (s : State) (p va dpa : Nat) (bs : List Byte) (poison : Bool)
    (hc : TrunkKept c₀ s.trunk) :
    TrunkKept c₀ (s.writeDpa p va dpa bs poison).2.trunk := by
  simp only [State.writeDpa]
  split
  · split
    · next h => simp [State.remoteWrite_trunk _ _ _ _ _ _ _ _ h, hc]
    · simp [hc]
  · split
    · split
      · simp [hc]
      · split
        · next h => simp [State.hostWrite_trunk _ _ _ _ _ _ _ _ _ _ h, hc]
        · simp [hc]
    · repeat' split
      all_goals simp [hc]
    · repeat' split
      all_goals simp [hc]
    · simp [hc]

@[simp] theorem State.markTiles_trunk (s : State) (d : Nat) (tiles : BitVec 16) (runs last : Nat) :
    (s.markTiles d tiles runs last).trunk = s.trunk := by
  simp [State.markTiles]

@[simp] theorem State.setOp_trunk (s : State) (d : Nat) (o new : MillOp) : (s.setOp d o new).trunk = s.trunk := by
  simp [State.setOp]

@[simp] theorem State.endOps_trunk (s : State) (f : MillOp → Bool) : (s.endOps f).trunk = s.trunk := by
  refine trunk_foldl _ _ _ fun u d => ?_
  have hl : ∀ (v : State) (l : List MillOp), (l.foldl (fun s o => (o.dies d).foldl (fun s e =>
      s.markTiles e o.tiles s.clock (s.clock + 1)) s) v).trunk = v.trunk := fun v l => by simp
  simp only [apply_ite State.trunk, State.updMill_trunk, hl, ite_self]

@[simp] theorem State.chargeWeir_trunk (s : State) (p seq n : Nat) : (s.chargeWeir p seq n).trunk = s.trunk := by
  simp [State.chargeWeir]

@[simp] theorem State.unchargeWeir_trunk (s : State) (p seq n : Nat) : (s.unchargeWeir p seq n).trunk = s.trunk := by
  simp [State.unchargeWeir]

@[simp] theorem State.retime_trunk (s : State) (d : Nat) : (s.retime d).trunk = s.trunk := by
  simp [State.retime]

@[simp] theorem State.stopTile_trunk (s : State) (d t n : Nat) : (s.stopTile d t n).trunk = s.trunk := by
  simp [State.stopTile]

@[simp] theorem State.holdOps_trunk (s : State) (p : Nat) : (s.holdOps p).trunk = s.trunk := by
  simp [State.holdOps]

@[simp] theorem State.resumeOps_trunk (s : State) (p : Nat) : (s.resumeOps p).trunk = s.trunk := by
  refine trunk_foldl _ _ _ fun u d => trunk_foldl _ _ _ fun v o => ?_
  repeat' split
  all_goals simp

@[simp] theorem State.recordOver_trunk (s : State) (p : Nat) (r : RecordWait) :
    (s.recordOver p r).trunk = s.trunk := by
  simp [State.recordOver]

@[simp] theorem State.settleRecord_kept {c₀ : Trunk} (s : State) (p : Nat) (r : RecordWait)
    (hc : TrunkKept c₀ s.trunk) :
    TrunkKept c₀ (s.settleRecord p r).trunk := by
  unfold State.settleRecord
  split
  · simp [hc]
  · have ht : TrunkKept c₀ (s.translate (.sequencer p r.seq) p r.va 1 r.tag).2.trunk := by simp [hc]
    generalize s.translate (.sequencer p r.seq) p r.va 1 r.tag = x at ht ⊢
    obtain ⟨l, u⟩ := x
    replace ht : TrunkKept c₀ u.trunk := ht
    cases l with
    | ok e d =>
      dsimp only
      split
      · simp [ht]
      · have hw := State.writeDpa_kept u p r.va d r.bytes false ht
        generalize u.writeDpa p r.va d r.bytes false = x at hw ⊢
        obtain ⟨did, v⟩ := x
        replace hw : TrunkKept c₀ v.trunk := hw
        cases did <;> simp [hw]
    | _ => simp [ht]

@[simp] theorem State.postRecord_kept {c₀ : Trunk} (s : State) (p : Nat) (r : RecordWait)
    (hc : TrunkKept c₀ s.trunk) :
    TrunkKept c₀ (s.postRecord p r).trunk := by
  simp [State.postRecord, hc]

@[simp] theorem State.retryRecords_kept {c₀ : Trunk} (s : State) (p : Nat) (hc : TrunkKept c₀ s.trunk) :
    TrunkKept c₀ (s.retryRecords p).trunk := by
  simp [State.retryRecords, hc]

@[simp] theorem State.manifestRecord_kept {c₀ : Trunk} (s : State) (p : Nat) (m : Manifest) (status end_ left : Nat)
    (hc : TrunkKept c₀ s.trunk) :
    TrunkKept c₀ (s.manifestRecord p m status end_ left).trunk := by
  simp [State.manifestRecord, hc]

@[simp] theorem State.refuse_kept {c₀ : Trunk} (s : State) (p : Nat) (m : Manifest) (reason bound tb : Nat)
    (hc : TrunkKept c₀ s.trunk) :
    TrunkKept c₀ (s.refuse p m reason bound tb).trunk := by
  simp [State.refuse, hc]

@[simp] theorem State.updLag_trunk (s : State) (p seq : Nat) : (s.updLag p seq).trunk = s.trunk := by
  simp [State.updLag]

@[simp] theorem State.missDeadline_trunk (s : State) (p seq : Nat) : (s.missDeadline p seq).trunk = s.trunk := by
  simp [State.missDeadline]

@[simp] theorem State.sendNotices_trunk (s : State) (p seq reason : Nat) :
    (s.sendNotices p seq reason).trunk = s.trunk := by
  simp only [State.sendNotices]
  split
  · rfl
  · split
    · rfl
    · refine trunk_foldl _ _ _ fun u m => ?_
      split <;> simp

@[simp] theorem State.endWalksOf_trunk (s : State) (f : EngineRef → Bool) : (s.endWalksOf f).trunk = s.trunk := by
  simp [State.endWalksOf]

@[simp] theorem State.endRun_kept {c₀ : Trunk} (s : State) (p seq status end_ left : Nat)
    (hc : TrunkKept c₀ s.trunk) :
    TrunkKept c₀ (s.endRun p seq status end_ left).trunk := by
  simp [State.endRun, hc]

@[simp] theorem State.fenceRun_kept {c₀ : Trunk} (s : State) (p seq : Nat) (hc : TrunkKept c₀ s.trunk) :
    TrunkKept c₀ (s.fenceRun p seq).trunk := by
  simp [State.fenceRun, hc]

@[simp] theorem kept_fenceRuns {c₀ : Trunk} (s : State) (p : Nat) (l : List (Nat × Run))
    (f : State → Nat × Run → Bool)
    (hc : TrunkKept c₀ s.trunk) :
    TrunkKept c₀ (l.foldl (fun s e => if f s e = true then s.fenceRun p e.1 else s) s).trunk :=
  kept_foldl _ _ _ _ (fun u e => .state_ite (fun _ => u.fenceRun_kept p e.1 (.refl _)) fun _ => .refl _) hc

@[simp] theorem State.fenceRuns_kept {c₀ : Trunk} (s : State) (p : Nat) (hc : TrunkKept c₀ s.trunk) :
    TrunkKept c₀ (s.fenceRuns p).trunk := by
  simp [State.fenceRuns, hc]

@[simp] theorem State.emptyPending_kept {c₀ : Trunk} (s : State) (p status : Nat) (hc : TrunkKept c₀ s.trunk) :
    TrunkKept c₀ (s.emptyPending p status).trunk := by
  exact kept_foldl _ _ _ _ (fun u m => by simp) (by simp [hc])

@[simp] theorem State.orphanAll_trunk (s : State) (p : Nat) : (s.orphanAll p).trunk = s.trunk := by
  simp [State.orphanAll]

@[simp] theorem State.advanceGen_kept {c₀ : Trunk} (s : State) (p : Nat) (own : Bool) (hc : TrunkKept c₀ s.trunk) :
    TrunkKept c₀ (s.advanceGen p own).trunk := by
  simp (disch := simp [hc]) [State.advanceGen]

@[simp] theorem State.advanceKept_kept {c₀ : Trunk} (s : State) (p : Nat) (hc : TrunkKept c₀ s.trunk) :
    TrunkKept c₀ (s.advanceKept p).trunk := by
  simp [State.advanceKept, hc]

end Sys2Proof.Machine

end


section
/-! SUPPORT. What the functions of Almanac, Fill, Bins do to the queue and to memory. -/

namespace Sys2Proof.Machine

open Sys2Proof

@[simp] theorem State.measured_trunk (s : State) (off : Int) : (s.measured off).trunk = s.trunk := by
  simp only [State.measured]
  repeat' split
  all_goals simp

@[simp] theorem State.refMissing_trunk (s : State) : s.refMissing.trunk = s.trunk := by
  simp [State.refMissing]

@[simp] theorem State.almCtlWrite_trunk (s : State) (a : RegAcc) : (s.almCtlWrite a).trunk = s.trunk := by
  simp [State.almCtlWrite]

@[simp] theorem State.almStepWrite_trunk (s : State) (a : RegAcc) : (s.almStepWrite a).trunk = s.trunk := by
  simp [State.almStepWrite]

@[simp] theorem State.almPpsWrite_trunk (s : State) (a : RegAcc) : (s.almPpsWrite a).trunk = s.trunk := by
  simp [State.almPpsWrite]

@[simp] theorem State.almMasterWrite_trunk (s : State) (a : RegAcc) : (s.almMasterWrite a).trunk = s.trunk := by
  simp [State.almMasterWrite]

@[simp] theorem State.almNowRead_trunk (s : State) (src : Src) (size half : Nat) :
    (s.almNowRead src size half).trunk = s.trunk := by
  simp [State.almNowRead]

@[simp] theorem State.applyStep_trunk (s : State) : s.applyStep.trunk = s.trunk := by
  unfold State.applyStep
  split <;> simp

@[simp] theorem State.boundaryHere_trunk (s : State) : s.boundaryHere.trunk = s.trunk := by
  simp [State.boundaryHere]

@[simp] theorem State.boundaryAgo_trunk (s : State) (late : Nat) : (s.boundaryAgo late).trunk = s.trunk := by
  simp [State.boundaryAgo]

@[simp] theorem State.idle_trunk (s : State) : s.idle.trunk = s.trunk := by
  simp [State.idle]

@[simp] theorem State.fillMiss_trunk (s : State) (h key : Nat) (bytes : List Byte) (poison : Bool) :
    (s.fillMiss h key bytes poison).trunk = s.trunk := by
  unfold State.fillMiss
  split <;> simp

@[simp] theorem State.deliverRead_trunk (s : State) (who : Requester) (pol gen : Nat) (orphan : Bool) (va off : Nat)
    (got : List (Byte × Bool)) :
    (s.deliverRead who pol gen orphan va off got).trunk = s.trunk := by
  unfold State.deliverRead
  split <;> simp

@[simp] theorem State.poisonBytes_trunk (s : State) (n : Nat) : (s.poisonBytes n).2.trunk = s.trunk := by
  simp [State.poisonBytes]

@[simp] theorem State.poisonHostRead_trunk (s : State) (r : HostRead) : (s.poisonHostRead r).trunk = s.trunk := by
  simp [State.poisonHostRead]

@[simp] theorem State.setBin_trunk (s : State) (key : Nat) (b : BinLine) : (s.setBin key b).trunk = s.trunk := by
  simp [State.setBin]

@[simp] theorem State.capture_trunk (s : State) (key : Nat) (b : BinLine) (secs : BitVec 8) :
    (s.capture key b secs).trunk = s.trunk := by
  simp [State.capture]

@[simp] theorem State.serveHits_trunk (s : State) (key : Nat) (x0 : Nat) : (s.serveHits key x0).trunk = s.trunk := by
  induction x0 generalizing s with
  | zero => rfl
  | succ n ih =>
    simp only [State.serveHits]
    repeat' split
    all_goals simp [ih]

@[simp] theorem State.askRdsec_trunk (s : State) (key : Nat) (b : BinLine) (need : BitVec 8) :
    (s.askRdsec key b need).trunk = s.trunk := by
  simp [State.askRdsec]

@[simp] theorem State.askGets_trunk (s : State) (key : Nat) (b : BinLine) (need : BitVec 8) :
    (s.askGets key b need).trunk = s.trunk := by
  simp [State.askGets]

@[simp] theorem State.askGetm_trunk (s : State) (key : Nat) (b : BinLine) (parts : BitVec 8) :
    (s.askGetm key b parts).trunk = s.trunk := by
  simp [State.askGetm]

@[simp] theorem State.askNext_trunk (s : State) (key : Nat) : (s.askNext key).trunk = s.trunk := by
  simp only [State.askNext]
  repeat' split
  all_goals simp

@[simp] theorem State.serveWaits_trunk (s : State) (key : Nat) : (s.serveWaits key).trunk = s.trunk := by
  simp [State.serveWaits]

@[simp] theorem State.giveUp_trunk (s : State) (key : Nat) : (s.giveUp key).trunk = s.trunk := by
  simp [State.giveUp]

@[simp] theorem State.supply_trunk (s : State) (m : CohMsg) (key : Nat) (b : BinLine) (ack : Nat) :
    (s.supply m key b ack).trunk = s.trunk := by
  simp [State.supply]

@[simp] theorem State.wbCross_trunk (s : State) (m : CohMsg) (key : Nat) (b : BinLine) :
    (s.wbCross m key b).trunk = s.trunk := by
  simp [State.wbCross]

@[simp] theorem State.ackFor_trunk (s : State) (m : CohMsg) (type : MsgType) : (s.ackFor m type).trunk = s.trunk := by
  simp [State.ackFor]

@[simp] theorem State.answerMsg_trunk (s : State) (m : CohMsg) : (s.answerMsg m).trunk = s.trunk := by
  simp only [State.answerMsg]
  repeat' split
  all_goals simp

@[simp] theorem State.evict_trunk (s : State) (key : Nat) (b : BinLine) : (s.evict key b).trunk = s.trunk := by
  unfold State.evict
  split <;> simp

theorem State.binMiss_trunk (s : State) (d p line : Nat) (w : BinWait) (t : State) (h :
    (s.binMiss d p line w) = some t) :
    t.trunk = s.trunk := by
  simp only [State.binMiss] at h
  repeat' split at h
  all_goals cases h
  all_goals simp

@[simp] theorem State.binRead_trunk (s : State) (d p line : Nat) (need : BitVec 8) (hint : Nat) :
    (s.binRead d p line need hint).trunk = s.trunk := by
  simp only [State.binRead]
  split
  · rfl
  · split
    · split <;> simp
    · cases h : s.binMiss d p line { read := need, hint := hint, gen := (s.pol p).gen } with
      | none => rfl
      | some t => exact State.binMiss_trunk _ _ _ _ _ _ h

theorem State.atHome_kept {c₀ : Trunk} (s : State) (t : MsgType) (m : CohMsg) (f : State → State)
    (hc : TrunkKept c₀ s.trunk)
    (hf : ∀ u, TrunkKept c₀ u.trunk → TrunkKept c₀ (f u).trunk) : TrunkKept c₀ (s.atHome t m f).trunk := by
  unfold State.atHome
  split
  · exact hc
  · next u h =>
    have hu : TrunkKept c₀ u.trunk := State.receive_trunk s m u h ▸ hc
    repeat' split
    · exact hc
    · exact hu
    · exact hf u hu

@[simp] theorem State.put_kept {c₀ : Trunk} (s : State) (m : CohMsg) (hc : TrunkKept c₀ s.trunk) :
    TrunkKept c₀ (s.put m).trunk := by
  simp (disch := simp [hc]) [State.put]

@[simp] theorem State.tryComplete_trunk (s : State) (key : Nat) : (s.tryComplete key).trunk = s.trunk := by
  simp only [State.tryComplete]
  repeat' split
  all_goals simp

theorem State.atBin_trunk (s : State) (t : MsgType) (m : CohMsg) (f : State → State)
    (hf : ∀ u, (f u).trunk = u.trunk) : (s.atBin t m f).trunk = s.trunk := by
  unfold State.atBin
  split
  · rfl
  · next u h =>
    have hu := State.receive_trunk s m u h
    repeat' split
    · rfl
    · exact hu
    · rw [hf, hu]

@[simp] theorem State.serveLost_trunk (s : State) (key : Nat) (b : BinLine) (m : CohMsg) (secs : BitVec 8) :
    (s.serveLost key b m secs).trunk = s.trunk := by
  simp [State.serveLost]

@[simp] theorem State.binData_trunk (s : State) (m : CohMsg) (secs : BitVec 8) (fromOwner : Bool) :
    (s.binData m secs fromOwner).trunk = s.trunk := by
  simp only [State.binData]
  repeat' split
  all_goals simp

@[simp] theorem State.forwarded_trunk (s : State) (m : CohMsg) : (s.forwarded m).trunk = s.trunk := by
  unfold State.forwarded
  split <;> simp

end Sys2Proof.Machine

end


section
/-! SUPPORT. What the functions of Flits, Tides, Fence do to the queue and to memory. -/

namespace Sys2Proof.Machine

open Sys2Proof

@[simp] theorem State.joinFlit_trunk (s : State) (n : Nat) (f : List Byte) : (s.joinFlit n f).trunk = s.trunk := by
  simp [State.joinFlit]

@[simp] theorem State.assemble_trunk (s : State) (n : Nat) (x0 : Nat) : (s.assemble n x0).trunk = s.trunk := by
  induction x0 generalizing s with
  | zero => rfl
  | succ k ih =>
    simp only [State.assemble]
    split
    · rfl
    · rw [ih]
      split <;> simp

@[simp] theorem State.addFlit_trunk (s : State) (n seq : Nat) (f : List Byte) :
    (s.addFlit n seq f).trunk = s.trunk := by
  simp [State.addFlit]

@[simp] theorem State.takeFlit_trunk (s : State) (n : Nat) (f : List Byte) : (s.takeFlit n f).trunk = s.trunk := by
  simp [State.takeFlit]

@[simp] theorem State.failReads_trunk (s : State) (n : Nat) : (s.failReads n).trunk = s.trunk := by
  simp [State.failReads]

@[simp] theorem State.refit_trunk (s : State) (n : Nat) : (s.refit n).trunk = s.trunk := by
  simp [State.refit]

@[simp] theorem State.portStops_trunk (s : State) (n st : Nat) : (s.portStops n st).trunk = s.trunk := by
  simp [State.portStops]

@[simp] theorem State.portDown_trunk (s : State) (n : Nat) : (s.portDown n).trunk = s.trunk := by
  simp [State.portDown]

theorem State.zlRows_trunk (s : State) (n : Nat) (t : Txn) (f : State → State) (hf : (f s).trunk = s.trunk) :
    (s.zlRows n t f).trunk = s.trunk := by
  simp only [State.zlRows]
  repeat' split
  all_goals simp [hf]

@[simp] theorem State.zlPermission_trunk (s : State) (t : Txn) : (s.zlPermission t).trunk = s.trunk := by
  simp [State.zlPermission]

@[simp] theorem State.countTally_trunk (s : State) (t : Txn) : (s.countTally t).trunk = s.trunk := by
  simp [State.countTally]

@[simp] theorem State.noteLateness_trunk (s : State) (n : Nat) (t : Txn) : (s.noteLateness n t).trunk = s.trunk := by
  simp [State.noteLateness]

@[simp] theorem State.zlWrite_trunk (s : State) (n : Nat) (t : Txn) : (s.zlWrite n t).trunk = s.trunk := by
  simp [State.zlWrite]

@[simp] theorem State.zlRead_trunk (s : State) (n : Nat) (t : Txn) : (s.zlRead n t).trunk = s.trunk := by
  simp [State.zlRead]

@[simp] theorem State.updCollector_trunk (s : State) (p number : Nat) (f : Collector → Collector) :
    (s.updCollector p number f).trunk = s.trunk := by
  simp [State.updCollector]

@[simp] theorem State.sendBarrier_trunk (s : State) (p number m dst : Nat) :
    (s.sendBarrier p number m dst).trunk = s.trunk := by
  unfold State.sendBarrier
  split <;> simp

@[simp] theorem State.barrierArrival_trunk (s : State) (p : Nat) (b : BarrierDecl) (m pol : Nat) :
    (s.barrierArrival p b m pol).trunk = s.trunk := by
  simp [State.barrierArrival]

@[simp] theorem State.barrierLocal_trunk (s : State) (p : Nat) (b : BarrierDecl) :
    (s.barrierLocal p b).trunk = s.trunk := by
  simp [State.barrierLocal]

@[simp] theorem State.zlBarrier_trunk (s : State) (t : Txn) : (s.zlBarrier t).trunk = s.trunk := by
  simp only [State.zlBarrier]
  repeat' split
  all_goals simp

@[simp] theorem State.zlPerform_trunk (s : State) (n : Nat) (t : Txn) : (s.zlPerform n t).trunk = s.trunk := by
  refine State.zlRows_trunk _ _ _ _ ?_
  repeat' split
  all_goals simp

@[simp] theorem State.releaseHeld_trunk (s : State) (p : Nat) : (s.releaseHeld p).trunk = s.trunk := by
  refine trunk_foldl _ _ _ fun u n => ?_
  simp only []
  split <;> simp

@[simp] theorem State.mringBaseWrite_trunk (s : State) (p : Nat) (a : RegAcc) :
    (s.mringBaseWrite p a).trunk = s.trunk := by
  simp [State.mringBaseWrite]

@[simp] theorem State.mringCtlWrite_trunk (s : State) (p : Nat) (a : RegAcc) :
    (s.mringCtlWrite p a).trunk = s.trunk := by
  simp [State.mringCtlWrite]

@[simp] theorem State.fbCfgWrite_trunk (s : State) (p : Nat) (a : RegAcc) : (s.fbCfgWrite p a).trunk = s.trunk := by
  simp [State.fbCfgWrite]

@[simp] theorem State.takeManifest_kept {c₀ : Trunk} (s : State) (p : Nat) (m : Manifest) (tb : Nat)
    (hc : TrunkKept c₀ s.trunk) :
    TrunkKept c₀ (s.takeManifest p m tb).trunk := by
  simp only [State.takeManifest]
  repeat' split
  all_goals simp [hc]

@[simp] theorem State.handleSlot_kept {c₀ : Trunk} (s : State) (p tb : Nat) (raw : List Byte)
    (hc : TrunkKept c₀ s.trunk) :
    TrunkKept c₀ (s.handleSlot p tb raw).trunk := by
  have hu : TrunkKept c₀ (s.updPol p Polder.consume).trunk := by simp [hc]
  refine .state_ite (fun _ => State.manifestRecord_kept _ _ _ _ _ _ (by simp [hc])) fun _ =>
    .state_ite (fun _ => State.manifestRecord_kept _ _ _ _ _ _ (by simp [hc])) fun _ =>
    .state_ite (fun _ => State.manifestRecord_kept _ _ _ _ _ _ (by simp [hc])) fun _ => State.takeManifest_kept _ _ _ _ hu

@[simp] theorem State.takeSlots_kept {c₀ : Trunk} (s : State) (p tb : Nat) (x0 : Nat) (hc : TrunkKept c₀ s.trunk) :
    TrunkKept c₀ (s.takeSlots p tb x0).trunk := by
  induction x0 generalizing s with
  | zero => exact hc
  | succ n ih =>
    simp only [State.takeSlots]
    repeat' split
    · exact hc
    · simp [hc]
    · simp [hc]
    · exact hc
    · exact ih _ (by simp [hc])

@[simp] theorem State.readmit_kept {c₀ : Trunk} (s : State) (p tb : Nat) (hc : TrunkKept c₀ s.trunk) :
    TrunkKept c₀ (s.readmit p tb).trunk := by
  refine kept_foldl _ _ _ _ (fun u m => ?_) hc
  repeat' split
  all_goals simp

@[simp] theorem State.writeHeader_kept {c₀ : Trunk} (s : State) (p tb : Nat) (hc : TrunkKept c₀ s.trunk) :
    TrunkKept c₀ (s.writeHeader p tb).trunk := by
  simp [State.writeHeader, hc]

@[simp] theorem State.checkLow_trunk (s : State) (p seq : Nat) : (s.checkLow p seq).trunk = s.trunk := by
  simp [State.checkLow]

@[simp] theorem State.checkMiss_trunk (s : State) (p seq : Nat) : (s.checkMiss p seq).trunk = s.trunk := by
  simp [State.checkMiss]

@[simp] theorem State.raiseWide_trunk (s : State) (code : Code) (source : Nat) (users : List Nat)
    (detail : List Byte) :
    (s.raiseWide code source users detail).trunk = s.trunk := by
  simp [State.raiseWide]

@[simp] theorem State.advanceAll_kept {c₀ : Trunk} (s : State) (ps : List Nat) (hc : TrunkKept c₀ s.trunk) :
    TrunkKept c₀ (s.advanceAll ps).trunk := by
  simp [State.advanceAll, hc]

@[simp] theorem State.discardReqs_trunk (s : State) (rs : List HomeReq) : (s.discardReqs rs).trunk = s.trunk := by
  simp [State.discardReqs]

@[simp] theorem sweepLine_kept {c₀ : Trunk} (d : Nat) (x : Nat × State) (line : Nat) (hc : TrunkKept c₀ x.2.trunk) :
    TrunkKept c₀ (sweepLine d x line).2.trunk := by
  simp only [sweepLine]
  repeat' split
  all_goals simp [hc]

@[simp] theorem State.loseMessages_trunk (s : State) (d : Nat) : (s.loseMessages d).trunk = s.trunk := by
  simp [State.loseMessages]

@[simp] theorem State.failMisses_trunk (s : State) (d : Nat) : (s.failMisses d).trunk = s.trunk := by
  simp [State.failMisses]

@[simp] theorem State.sweep_kept {c₀ : Trunk} (s : State) (d : Nat) (hc : TrunkKept c₀ s.trunk) :
    TrunkKept c₀ (s.sweep d).2.trunk := by
  simp [State.sweep, hc]

@[simp] theorem State.untest_trunk (s : State) (f : Nat → Bool) : (s.untest f).trunk = s.trunk := by
  simp [State.untest]

@[simp] theorem State.noteFence_trunk (s : State) (i cause : Nat) : (s.noteFence i cause).trunk = s.trunk := by
  simp [State.noteFence]

@[simp] theorem State.cutDie_kept {c₀ : Trunk} (s : State) (d cause : Nat) (hc : TrunkKept c₀ s.trunk) :
    TrunkKept c₀ (s.cutDie d cause).2.trunk := by
  simp [State.cutDie, hc]

@[simp] theorem State.stayFenced_trunk (s : State) (d : Nat) : (s.stayFenced d).trunk = s.trunk := by
  simp [State.stayFenced]

@[simp] theorem State.fenceDie_kept {c₀ : Trunk} (s : State) (d cause : Nat) (hc : TrunkKept c₀ s.trunk) :
    TrunkKept c₀ (s.fenceDie d cause).trunk := by
  simp (disch := simp [hc]) [State.fenceDie]

@[simp] theorem State.failHome_trunk (s : State) (k : Nat) : (s.failHome k).trunk = s.trunk := by
  simp [State.failHome]

@[simp] theorem State.dropHomed_trunk (s : State) (k : Nat) : (s.dropHomed k).trunk = s.trunk := by
  simp [State.dropHomed]

@[simp] theorem State.flushStack_trunk (s : State) (i : Nat) : (s.flushStack i).trunk = s.trunk := by
  simp [State.flushStack]

@[simp] theorem State.failWalks_trunk (s : State) (k : Nat) : (s.failWalks k).trunk = s.trunk := by
  simp [State.failWalks]

@[simp] theorem State.fenceKeel_kept {c₀ : Trunk} (s : State) (k cause : Nat) (hc : TrunkKept c₀ s.trunk) :
    TrunkKept c₀ (s.fenceKeel k cause).trunk := by
  refine .state_ite (fun _ => hc) fun _ => ?_
  dsimp only
  rw [trunk_foldl _ _ _ fun u e => State.raiseWide_trunk .., State.raiseWide_trunk]
  refine kept_foldl _ _ _ _ (fun u p => kept_fenceRuns _ _ _ _ (.refl _)) (State.advanceAll_kept _ _ ?_)
  simp only [State.noteFence_trunk, State.updKeel_trunk, State.failWalks_trunk, State.dropCached_trunk,
    State.failHome_trunk, State.dropHomed_trunk, trunk_foldl _ _ _ fun u i => State.portDown_trunk ..]
  rw [trunk_foldl _ _ _ fun u i => (State.flushStack_trunk ..).trans (State.updStack_trunk ..)]
  exact kept_foldl_snd _ _ _ _ (fun y d => y.2.cutDie_kept d 5 (.refl _)) (by simp [hc])

@[simp] theorem State.fenceGranary_trunk (s : State) (i : Nat) : (s.fenceGranary i).trunk = s.trunk := by
  simp [State.fenceGranary]

@[simp] theorem State.fenceStack_trunk (s : State) (i : Nat) : (s.fenceStack i).trunk = s.trunk := by
  simp only [State.fenceStack]
  split
  · rfl
  · refine (trunk_foldl _ _ _ fun u p => trunk_foldl _ _ _ fun w e => ?_).trans (by simp)
    repeat' split
    all_goals simp

@[simp] theorem State.bundleFails_kept {c₀ : Trunk} (s : State) (b : Nat) (hc : TrunkKept c₀ s.trunk) :
    TrunkKept c₀ (s.bundleFails b).trunk := by
  have hu : ∀ f, TrunkKept c₀ ((s.updBundle b f).raiseBoth .bundleDead (srcDie (bundleDie b)) (bundleDetail b)).trunk :=
    fun f => by simp [hc]
  refine .state_ite (fun _ => hc) fun _ => .state_ite (fun _ => ?_) fun _ => .state_ite (fun _ => ?_) fun _ => ?_
  · exact State.fenceDie_kept _ _ _ (hu _)
  · exact State.fenceKeel_kept _ _ _ (hu _)
  · exact kept_foldl _ _ _ _ (fun u p => kept_fenceRuns _ _ _ _ (.refl _)) (hu _)

@[simp] theorem State.strike_trunk (s : State) (level d line : Nat) (sectors : BitVec 8) :
    (s.strike level d line sectors).trunk = s.trunk := by
  simp only [State.strike]
  repeat' split
  all_goals simp

@[simp] theorem State.poisonTransfer_trunk (s : State) (p : Nat) (x0 : Transfer) :
    (s.poisonTransfer p x0).trunk = s.trunk := by
  unfold State.poisonTransfer
  split <;> simp

@[simp] theorem State.replayed_trunk (s : State) (b p cost : Nat) : (s.replayed b p cost).trunk = s.trunk := by
  simp only [State.replayed]
  repeat' split
  all_goals simp

@[simp] theorem State.millReset_kept {c₀ : Trunk} (s : State) (d port : Nat) (clockOk : Bool)
    (faults : List LaneFault) (hc : TrunkKept c₀ s.trunk) :
    TrunkKept c₀ (s.millReset d port clockOk faults).trunk := by
  simp [State.millReset, hc]

end Sys2Proof.Machine

end


section
/-! SUPPORT. What the functions of Weir, Hbm, Crier, HostMem, Polders, Host do to the queue and to memory. -/

namespace Sys2Proof.Machine

open Sys2Proof

@[simp] theorem State.latchStatus_trunk (s : State) : s.latchStatus.trunk = s.trunk := by
  simp [State.latchStatus]

@[simp] theorem State.watchSteps_trunk (s : State) : s.watchSteps.trunk = s.trunk := by
  simp [State.watchSteps]

@[simp] theorem State.reweir_trunk (s : State) : s.reweir.trunk = s.trunk := by
  simp [State.reweir]

@[simp] theorem State.beginStep_trunk (s : State) (d new : Nat) : (s.beginStep d new).trunk = s.trunk := by
  simp [State.beginStep]

@[simp] theorem State.moveStep_trunk (s : State) (d : Nat) : (s.moveStep d).trunk = s.trunk := by
  simp only [State.moveStep]
  repeat' split
  all_goals simp

@[simp] theorem State.serveReq_kept {c₀ : Trunk} (s : State) (id : Nat) (f : HomeOp → Bool)
    (hc : TrunkKept c₀ s.trunk) :
    TrunkKept c₀ (s.serveReq id f).trunk := by
  unfold State.serveReq
  split <;> simp [hc]

@[simp] theorem State.trackReq_trunk (s : State) (id : Nat) : (s.trackReq id).trunk = s.trunk := by
  simp [State.trackReq]

@[simp] theorem State.stackReading_trunk (s : State) (i c : Nat) : (s.stackReading i c).trunk = s.trunk := by
  simp [State.stackReading]

@[simp] theorem State.updCrier_trunk (s : State) (f : Crier → Crier) : (s.updCrier f).trunk = s.trunk := by
  simp [State.updCrier]

@[simp] theorem State.latch_trunk (s : State) (e : Pend) : (s.latch e).trunk = s.trunk := by
  simp [State.latch]

@[simp] theorem State.edge_trunk (s : State) (ev : Event) : (s.edge ev).trunk = s.trunk := by
  simp [State.edge]

@[simp] theorem State.findFull_trunk (s : State) (e : Pend) : (s.findFull e).trunk = s.trunk := by
  simp [State.findFull]

@[simp] theorem State.bookOff_trunk (s : State) (p c : Nat) : (s.bookOff p c).trunk = s.trunk := by
  simp [State.bookOff]

@[simp] theorem State.dbBaseWrite_trunk (s : State) (p c : Nat) (a : RegAcc) :
    (s.dbBaseWrite p c a).trunk = s.trunk := by
  simp [State.dbBaseWrite]

@[simp] theorem State.dbRingWrite_trunk (s : State) (p c : Nat) (a : RegAcc) :
    (s.dbRingWrite p c a).trunk = s.trunk := by
  simp [State.dbRingWrite]

@[simp] theorem State.dbStatWrite_trunk (s : State) (p c : Nat) (a : RegAcc) (pf : Bool) :
    (s.dbStatWrite p c a pf).trunk = s.trunk := by
  simp [State.dbStatWrite]

@[simp] theorem State.wharfFill_trunk (s : State) (p o len : Nat) : (s.wharfFill p o len).trunk = s.trunk := by
  refine trunk_foldl _ _ _ fun u g => ?_
  split <;> simp

@[simp] theorem State.beginHost_kept {c₀ : Trunk} (s : State) (port id : Nat) (hc : TrunkKept c₀ s.trunk) :
    TrunkKept c₀ (s.beginHost port id).trunk := by
  simp (disch := simp [hc]) [State.beginHost]

@[simp] theorem State.completePoison_trunk (s : State) (port fn o len : Nat) :
    (s.completePoison port fn o len).trunk = s.trunk := by
  simp [State.completePoison]

@[simp] theorem State.countAer_trunk (s : State) (port fn bit : Nat) : (s.countAer port fn bit).trunk = s.trunk := by
  simp [State.countAer]

@[simp] theorem State.countAdvisory_trunk (s : State) (port fn : Nat) :
    (s.countAdvisory port fn).trunk = s.trunk := by
  simp [State.countAdvisory]

@[simp] theorem State.nextRead_trunk (s : State) (port : Nat) : (s.nextRead port).trunk = s.trunk := by
  unfold State.nextRead
  split <;> simp

@[simp] theorem State.dropRead_trunk (s : State) (port tag : Nat) : (s.dropRead port tag).trunk = s.trunk := by
  simp [State.dropRead]

@[simp] theorem State.polGrantWrite_trunk (s : State) (p : Nat) (a : RegAcc) :
    (s.polGrantWrite p a).trunk = s.trunk := by
  simp [State.polGrantWrite]

@[simp] theorem State.polSaveWrite_trunk (s : State) (p : Nat) (a : RegAcc) :
    (s.polSaveWrite p a).trunk = s.trunk := by
  simp [State.polSaveWrite]

@[simp] theorem State.polDone_trunk (s : State) (p st : Nat) : (s.polDone p st).trunk = s.trunk := by
  simp [State.polDone]

@[simp] theorem State.closed_trunk (s : State) (p : Nat) : (s.closed p).trunk = s.trunk := by
  simp [State.closed]

@[simp] theorem State.closePol_kept {c₀ : Trunk} (s : State) (p : Nat) (own : Bool) (hc : TrunkKept c₀ s.trunk) :
    TrunkKept c₀ (s.closePol p own).trunk := by
  simp [State.closePol, hc]

@[simp] theorem State.freezeOver_trunk (s : State) (p : Nat) : (s.freezeOver p).trunk = s.trunk := by
  simp [State.freezeOver]

@[simp] theorem State.resumePol_kept {c₀ : Trunk} (s : State) (p : Nat) (hc : TrunkKept c₀ s.trunk) :
    TrunkKept c₀ (s.resumePol p).trunk := by
  simp [State.resumePol, hc]

@[simp] theorem State.save_kept {c₀ : Trunk} (s : State) (p : Nat) (hc : TrunkKept c₀ s.trunk) :
    TrunkKept c₀ (s.save p).trunk := by
  simp [State.save, hc]

@[simp] theorem State.saveEnd_kept {c₀ : Trunk} (s : State) (p : Nat) (hc : TrunkKept c₀ s.trunk) :
    TrunkKept c₀ (s.saveEnd p).trunk := by
  simp [State.saveEnd, hc]

@[simp] theorem State.applyRecord_trunk (s : State) (p : Nat) (r : List Byte) :
    (s.applyRecord p r).trunk = s.trunk := by
  simp [State.applyRecord]

@[simp] theorem State.restore_trunk (s : State) (p : Nat) : (s.restore p).trunk = s.trunk := by
  simp [State.restore]

@[simp] theorem State.restoreEnd_trunk (s : State) (p : Nat) : (s.restoreEnd p).trunk = s.trunk := by
  simp [State.restoreEnd]

@[simp] theorem State.polEnds_kept {c₀ : Trunk} (s : State) (hc : TrunkKept c₀ s.trunk) :
    TrunkKept c₀ s.polEnds.trunk := by
  simp (disch := simp [hc]) [State.polEnds]

@[simp] theorem State.polGo_kept {c₀ : Trunk} (s : State) (p cmd : Nat) (hc : TrunkKept c₀ s.trunk) :
    TrunkKept c₀ (s.polGo p cmd).trunk := by
  unfold State.polGo
  split <;> simp [hc]

@[simp] theorem State.polCtlWrite_kept {c₀ : Trunk} (s : State) (p : Nat) (a : RegAcc) (hc : TrunkKept c₀ s.trunk) :
    TrunkKept c₀ (s.polCtlWrite p a).trunk := by
  simp (disch := simp [hc]) [State.polCtlWrite]

@[simp] theorem State.polCommand_kept {c₀ : Trunk} (s : State) (p : Nat) (a : RegAcc) (f : Nat → Bool)
    (hc : TrunkKept c₀ s.trunk) :
    TrunkKept c₀ (s.polCommand p a f).trunk := by
  simp [State.polCommand, hc]

@[simp] theorem State.resetPols_kept {c₀ : Trunk} (s : State) (port : Nat) (hc : TrunkKept c₀ s.trunk) :
    TrunkKept c₀ (s.resetPols port).trunk := by
  simp [State.resetPols, hc]

@[simp] theorem State.closeTenants_kept {c₀ : Trunk} (s : State) (port : Nat) (hc : TrunkKept c₀ s.trunk) :
    TrunkKept c₀ (s.closeTenants port).trunk := by
  simp (disch := simp [hc]) [State.closeTenants]

@[simp] theorem State.updFn_trunk (s : State) (port fn : Nat) (f : Func → Func) :
    (s.updFn port fn f).trunk = s.trunk := by
  simp [State.updFn]

@[simp] theorem State.sendPending_trunk (s : State) (port fn : Nat) : (s.sendPending port fn).trunk = s.trunk := by
  simp [State.sendPending]

@[simp] theorem State.msixWrite_trunk (s : State) (port fn off size : Nat) (value : Word) :
    (s.msixWrite port fn off size value).trunk = s.trunk := by
  simp [State.msixWrite]

@[simp] theorem State.enterD3_trunk (s : State) (port fn : Nat) : (s.enterD3 port fn).trunk = s.trunk := by
  simp [State.enterD3]

@[simp] theorem State.returnD0_trunk (s : State) (port fn : Nat) : (s.returnD0 port fn).trunk = s.trunk := by
  simp [State.returnD0]

@[simp] theorem State.setVfs_trunk (s : State) (port n : Nat) : (s.setVfs port n).trunk = s.trunk := by
  simp [State.setVfs]

@[simp] theorem State.clearVfs_kept {c₀ : Trunk} (s : State) (port : Nat) (hc : TrunkKept c₀ s.trunk) :
    TrunkKept c₀ (s.clearVfs port).trunk := by
  simp [State.clearVfs, hc]

@[simp] theorem State.resizeBar_trunk (s : State) (port : Nat) (vf : Bool) (log : Nat) :
    (s.resizeBar port vf log).trunk = s.trunk := by
  simp [State.resizeBar]

@[simp] theorem State.flushHost_trunk (s : State) (port : Nat) : (s.flushHost port).trunk = s.trunk := by
  simp only [State.flushHost]
  rw [trunk_foldl _ _ _ fun u r => by simp, trunk_foldl _ _ _ fun u m => ?_]
  · simp
  · repeat' split
    all_goals simp

@[simp] theorem State.zeroShare_trunk (s : State) (port : Nat) : (s.zeroShare port).trunk = s.trunk := by
  simp [State.zeroShare]

@[simp] theorem State.resetPortRegs_trunk (s : State) (port : Nat) : (s.resetPortRegs port).trunk = s.trunk := by
  simp [State.resetPortRegs]

@[simp] theorem State.resetSteps_kept {c₀ : Trunk} (s : State) (port : Nat) (hc : TrunkKept c₀ s.trunk) :
    TrunkKept c₀ (s.resetSteps port).trunk := by
  simp [State.resetSteps, hc]

@[simp] theorem State.countReset_trunk (s : State) (port : Nat) : (s.countReset port).trunk = s.trunk := by
  simp [State.countReset]

@[simp] theorem State.resetPort_kept {c₀ : Trunk} (s : State) (port : Nat) (kind : ResetKind)
    (hc : TrunkKept c₀ s.trunk) :
    TrunkKept c₀ (s.resetPort port kind).trunk := by
  simp (disch := simp [hc]) [State.resetPort]

@[simp] theorem State.flrPf_kept {c₀ : Trunk} (s : State) (port : Nat) (hc : TrunkKept c₀ s.trunk) :
    TrunkKept c₀ (s.flrPf port).trunk := by
  simp [State.flrPf, hc]

@[simp] theorem State.flrVf_kept {c₀ : Trunk} (s : State) (port n : Nat) (hc : TrunkKept c₀ s.trunk) :
    TrunkKept c₀ (s.flrVf port n).trunk := by
  simp only [State.flrVf]
  repeat' split
  all_goals simp [hc]

@[simp] theorem State.peerReset_trunk (s : State) (port p : Nat) (kind : ResetKind) :
    (s.peerReset port p kind).trunk = s.trunk := by
  simp [State.peerReset]

@[simp] theorem State.doeAnswer_trunk (s : State) (port : Nat) (bytes : List Byte) :
    (s.doeAnswer port bytes).trunk = s.trunk := by
  simp [State.doeAnswer]

@[simp] theorem State.doeFrom1_trunk (s : State) (port : Nat) (bytes : List Byte) :
    (s.doeFrom1 port bytes).trunk = s.trunk := by
  simp [State.doeFrom1]

@[simp] theorem State.discovery_trunk (s : State) (port index : Nat) : (s.discovery port index).trunk = s.trunk := by
  simp [State.discovery]

@[simp] theorem State.attest_trunk (s : State) (port : Nat) (request : List Byte) :
    (s.attest port request).trunk = s.trunk := by
  simp [State.attest]

@[simp] theorem State.certificate_trunk (s : State) (port : Nat) : (s.certificate port).trunk = s.trunk := by
  simp [State.certificate]

@[simp] theorem State.featureAnswer_trunk (s : State) (port status : Nat) :
    (s.featureAnswer port status).trunk = s.trunk := by
  simp [State.featureAnswer]

@[simp] theorem State.accept_trunk (s : State) (port : Nat) (word : Word) : (s.accept port word).trunk = s.trunk := by
  simp [State.accept]

@[simp] theorem State.tellCharter_trunk (s : State) (port : Port) : (s.tellCharter port).trunk = s.trunk := by
  simp [State.tellCharter]

@[simp] theorem State.doeStop_trunk (s : State) (port : Nat) : (s.doeStop port).trunk = s.trunk := by
  simp [State.doeStop]

@[simp] theorem State.doeRequest_trunk (s : State) (port : Port) (object : List Byte) :
    (s.doeRequest port object).trunk = s.trunk := by
  simp only [State.doeRequest]
  repeat' split
  all_goals simp

@[simp] theorem State.configWrite_kept {c₀ : Trunk} (s : State) (port fn off : Nat) (w raw : BitVec 32)
    (hc : TrunkKept c₀ s.trunk) :
    TrunkKept c₀ (s.configWrite port fn off w raw).trunk := by
  simp only [State.configWrite]
  repeat' split
  all_goals simp [hc]

@[simp] theorem State.cfgAnswer_trunk (s : State) (port fn : Nat) (data : List Byte) (status : Nat) :
    (s.cfgAnswer port fn data status).trunk = s.trunk := by
  simp [State.cfgAnswer]

end Sys2Proof.Machine

end


section
/-! SUPPORT. What the functions of Streams, Tiles, Mill, Power, Link, Boot do to the queue and to memory. -/

namespace Sys2Proof.Machine

open Sys2Proof

@[simp] theorem State.updStream_trunk (s : State) (p seq stream : Nat) (f : StreamRun → StreamRun) :
    (s.updStream p seq stream f).trunk = s.trunk := by
  simp [State.updStream]

@[simp] theorem State.updTile_trunk (s : State) (p seq stream t : Nat) (f : TileBuf → TileBuf) :
    (s.updTile p seq stream t f).trunk = s.trunk := by
  simp [State.updTile]

@[simp] theorem State.translateLines_trunk (s : State) (eng : EngineRef) (p acc tag : Nat) (vas : List Nat) :
    (s.translateLines eng p acc tag vas).2.trunk = s.trunk := by
  exact foldl_keeps_proj (fun x : List (Nat × Look) × State => x.2.trunk) _ (fun x va => by simp) _ _

theorem State.loadLine_trunk (s : State) (p : Nat) (who : Requester) (va dpa hint : Nat) (t : Nat × State)
    (h : s.loadLine p who va dpa hint = some t) : t.2.trunk = s.trunk := by
  unfold State.loadLine at h
  split at h
  · obtain ⟨u, hu, rfl⟩ := Option.map_eq_some_iff.1 h
    exact State.remoteRead_trunk _ _ _ _ _ _ _ _ hu
  · split at h
    · split at h
      · cases h
      · exact State.hostRead_trunk _ _ _ _ _ _ _ _ h
    · cases h
    · cases h; simp

theorem State.storeLine_trunk (s : State) (p : Nat) (who : Requester) (va dpa hint : Nat) (bs : Bytes)
    (dead poison : Bool)
    (t : Nat × State) (h : s.storeLine p who va dpa hint bs dead poison = some t) : t.2.trunk = s.trunk := by
  unfold State.storeLine at h
  split at h
  · obtain ⟨u, hu, rfl⟩ := Option.map_eq_some_iff.1 h
    exact trunk_foldl_bind _ _ _ _ (fun u e t h => State.remoteWrite_trunk _ _ _ _ _ _ _ _ h) (by rintro u ⟨⟩; rfl) _ hu
  · split at h
    · split at h
      · cases h
      · obtain ⟨u, hu, rfl⟩ := Option.map_eq_some_iff.1 h
        exact trunk_foldl_bind _ _ _ _ (fun u e t h => State.hostWrite_trunk _ _ _ _ _ _ _ _ _ _ h) (by rintro u ⟨⟩; rfl) _ hu
    · cases h
    · cases h; simp

@[simp] theorem State.overwrite_trunk (s : State) (p seq die porter va : Nat) (bs : Bytes) (bad : Bool) :
    (s.overwrite p seq die porter va bs bad).trunk = s.trunk := by
  simp only [State.overwrite]
  repeat' split
  all_goals simp

@[simp] theorem State.groupBytes_trunk (s : State) (kind : Nat) (lines : List Nat) :
    (s.groupBytes kind lines).2.2.trunk = s.trunk := by
  simp only [State.groupBytes]
  repeat' split
  all_goals simp

@[simp] theorem State.groupEdges_trunk (s : State) (sd : StreamDecl) (t off kind : Nat) (lines : List Nat)
    (bytes : List Byte) :
    (s.groupEdges sd t off kind lines bytes).2.2.trunk = s.trunk := by
  simp only [State.groupEdges]
  repeat' split
  all_goals simp

@[simp] theorem State.pokeGroup_kept {c₀ : Trunk} (s : State) (p : Nat) (lines : List Nat) (bad : Nat → Bool)
    (out : List Byte) (hc : TrunkKept c₀ s.trunk) :
    TrunkKept c₀ (s.pokeGroup p lines bad out).trunk := by
  simp (disch := simp [hc]) [State.pokeGroup]

@[simp] theorem State.rejectRun_kept {c₀ : Trunk} (s : State) (p seq : Nat) (hc : TrunkKept c₀ s.trunk) :
    TrunkKept c₀ (s.rejectRun p seq).trunk := by
  simp [State.rejectRun, hc]

@[simp] theorem State.updRange_trunk (s : State) (p seq i : Nat) (f : RangeRun → RangeRun) :
    (s.updRange p seq i f).trunk = s.trunk := by
  simp [State.updRange]

@[simp] theorem State.rangeBegin_kept {c₀ : Trunk} (s : State) (p seq i : Nat) (d : RangeDecl) (raw : List Byte)
    (hc : TrunkKept c₀ s.trunk) :
    TrunkKept c₀ (s.rangeBegin p seq i d raw).trunk := by
  simp [State.rangeBegin, hc]

theorem State.rangeLine_trunk (s : State) (p seq i : Nat) (d : RangeDecl) (g : RangeRun) (line va entryHint : Nat)
    (t : State) (h : (s.rangeLine p seq i d g line va entryHint) = some t) :
    t.trunk = s.trunk := by
  simp only [State.rangeLine] at h
  repeat' split at h
  all_goals cases h
  all_goals simp

@[simp] theorem State.useTiles_trunk (s : State) (p seq : Nat) (ds : List Demand) :
    (s.useTiles p seq ds).trunk = s.trunk := by
  simp [State.useTiles]

@[simp] theorem State.giveTiles_trunk (s : State) (p seq : Nat) (n : Option Nat) (ts : List TileBuf) :
    (s.giveTiles p seq n ts).trunk = s.trunk := by
  unfold State.giveTiles
  split <;> simp

@[simp] theorem State.useElems_trunk (s : State) (p seq stream n : Nat) :
    (s.useElems p seq stream n).trunk = s.trunk := by
  simp [State.useElems]

@[simp] theorem State.giveElems_trunk (s : State) (p seq fmt : Nat) (n : Option Nat) (codes scales : List Nat)
    (bad : Bool) :
    (s.giveElems p seq fmt n codes scales bad).trunk = s.trunk := by
  unfold State.giveElems
  split <;> simp

@[simp] theorem State.readRecord_trunk (s : State) (eng : EngineRef) (p seq : Nat) (operand : Option Nat)
    (bytes : List Byte) :
    (s.readRecord eng p seq operand bytes).2.trunk = s.trunk := by
  unfold State.readRecord
  split
  · rfl
  · next i =>
    dsimp only
    have ht := State.translate_trunk s eng p (((s.pol p).run seq).m.operands.getD i (0, 0)).2 0 ((s.pol p).run seq).m.tag
    generalize s.translate eng p _ _ _ = x at ht ⊢
    obtain ⟨l, u⟩ := x
    replace ht : u.trunk = s.trunk := ht
    cases l <;> dsimp only
    case ok e dpa => repeat' split
                     all_goals simp [ht]
    all_goals simp [ht]

@[simp] theorem State.occupy_trunk (s : State) (d first : Nat) (mask : BitVec 16) (cycles drain issues : Nat) :
    (s.occupy d first mask cycles drain issues).trunk = s.trunk := by
  simp [State.occupy]

@[simp] theorem State.begin_trunk (s : State) (d i p seq : Nat) (tiles : BitVec 16) (follows : Bool) (t : Timing) :
    (s.begin_ d i p seq tiles follows t).2.trunk = s.trunk := by
  simp [State.begin_]

@[simp] theorem State.millResults_trunk (s : State) (d i cycles : Nat) (out : List Nat) (poison : Bool) :
    (s.millResults d i cycles out poison).trunk = s.trunk := by
  simp [State.millResults]

@[simp] theorem State.gemm_trunk (s : State) (d i op span : Nat) (tm : MillSt → Nat → Gemm → Timing) (g : Gemm) :
    (s.gemm d i op span tm g).trunk = s.trunk := by
  simp only [State.gemm]
  repeat' split
  all_goals simp

@[simp] theorem State.checkSeal_trunk (s : State) : s.checkSeal.trunk = s.trunk := by
  simp [State.checkSeal]

@[simp] theorem State.recap_trunk (s : State) : s.recap.trunk = s.trunk := by
  simp [State.recap]

@[simp] theorem State.pwrCapWrite_trunk (s : State) (port : Nat) (a : RegAcc) :
    (s.pwrCapWrite port a).trunk = s.trunk := by
  simp [State.pwrCapWrite]

@[simp] theorem State.setVolts_trunk (s : State) (volts : Nat) : (s.setVolts volts).trunk = s.trunk := by
  simp [State.setVolts]

@[simp] theorem State.lowerL_trunk (s : State) (others : Nat) : (s.lowerL others).trunk = s.trunk := by
  simp [State.lowerL]

@[simp] theorem State.raiseL_trunk (s : State) : s.raiseL.trunk = s.trunk := by
  simp [State.raiseL]

@[simp] theorem State.ceilFalls_trunk (s : State) (i : Nat) : (s.ceilFalls i).trunk = s.trunk := by
  simp [State.ceilFalls]

@[simp] theorem State.heatBegins_trunk (s : State) (i : Nat) : (s.heatBegins i).trunk = s.trunk := by
  simp [State.heatBegins]

@[simp] theorem State.engineOff_trunk (s : State) (e : Nat) : (s.engineOff e).trunk = s.trunk := by
  simp [State.engineOff]

@[simp] theorem State.engineOn_trunk (s : State) (e : Nat) : (s.engineOn e).trunk = s.trunk := by
  simp [State.engineOn]

@[simp] theorem State.oeWrite_trunk (s : State) (port e : Nat) (a : RegAcc) :
    (s.oeWrite port e a).trunk = s.trunk := by
  simp [State.oeWrite]

@[simp] theorem State.beginTraining_trunk (s : State) (n : Nat) : (s.beginTraining n).trunk = s.trunk := by
  simp [State.beginTraining]

@[simp] theorem State.linkOffset_trunk (s : State) (n : Nat) (off : Int) : (s.linkOffset n off).trunk = s.trunk := by
  simp [State.linkOffset]

@[simp] theorem State.zlCtlWrite_trunk (s : State) (n : Nat) (a : RegAcc) : (s.zlCtlWrite n a).trunk = s.trunk := by
  simp [State.zlCtlWrite]

@[simp] theorem State.zlCtl_trunk (s : State) (n : Nat) (a : RegAcc) (f : Bool) :
    (s.zlCtl n a f).trunk = s.trunk := by
  unfold State.zlCtl
  split <;> simp

@[simp] theorem State.emitFlit_trunk (s : State) (n kind seq tide slot : Nat) (body : List Byte) :
    (s.emitFlit n kind seq tide slot body).trunk = s.trunk := by
  simp [State.emitFlit]

@[simp] theorem State.emitNew_trunk (s : State) (n kind slot : Nat) (body : List Byte) :
    (s.emitNew n kind slot body).trunk = s.trunk := by
  simp [State.emitNew]

@[simp] theorem State.chargePort_trunk (s : State) (n cycles : Nat) (k : Cause) :
    (s.chargePort n cycles k).trunk = s.trunk := by
  simp [State.chargePort]

@[simp] theorem State.chargeLink_trunk (s : State) (n cycles : Nat) : (s.chargeLink n cycles).trunk = s.trunk := by
  simp [State.chargeLink]

@[simp] theorem State.chargeUnfit_trunk (s : State) (n cycles : Nat) : (s.chargeUnfit n cycles).trunk = s.trunk := by
  simp [State.chargeUnfit]

@[simp] theorem State.slotFlit_trunk (s : State) (n slot width : Nat) :
    (s.slotFlit n slot width).trunk = s.trunk := by
  simp only [State.slotFlit]
  repeat' split
  all_goals simp

@[simp] theorem State.landFlit_trunk (s : State) (n : Nat) (f : List Byte) : (s.landFlit n f).trunk = s.trunk := by
  simp [State.landFlit]

theorem State.zlTake_trunk (s : State) (n : Nat) (t : Txn) (op : Nat) (f : State → State) (hf : ∀ u,
    (f u).trunk = u.trunk) :
    (s.zlTake n t op f).trunk = s.trunk := by
  unfold State.zlTake
  split <;> simp [hf]

theorem State.bandTake_kept {c₀ : Trunk} (s : State) (n src : Nat) (b : BandMsg) (f : State → State)
    (hc : TrunkKept c₀ s.trunk)
    (hf : ∀ u, TrunkKept c₀ u.trunk → TrunkKept c₀ (f u).trunk) : TrunkKept c₀ (s.bandTake n src b f).trunk := by
  unfold State.bandTake
  split
  · exact hc
  · exact hf _ (by simp [hc])

@[simp] theorem State.sendBand_trunk (s : State) (n : Nat) (b : BandMsg) : (s.sendBand n b).trunk = s.trunk := by
  simp [State.sendBand]

@[simp] theorem State.commonsWrite_trunk (s : State) (a : RegAcc) : (s.commonsWrite a).trunk = s.trunk := by
  simp [State.commonsWrite]

@[simp] theorem State.lapseShifts_trunk (s : State) : s.lapseShifts.trunk = s.trunk := by
  simp [State.lapseShifts]

@[simp] theorem State.makeOffer_trunk (s : State) (late : List (Nat × Nat)) (heard : List Nat) :
    (s.makeOffer late heard).trunk = s.trunk := by
  unfold State.makeOffer
  split <;> simp

@[simp] theorem State.enterStage_trunk (s : State) (n : Nat) : (s.enterStage n).trunk = s.trunk := by
  simp [State.enterStage]

@[simp] theorem State.failStage_trunk (s : State) (fail : Nat) : (s.failStage fail).trunk = s.trunk := by
  simp [State.failStage]

@[simp] theorem State.setMeas_trunk (s : State) (i : Nat) (d : List Byte) : (s.setMeas i d).trunk = s.trunk := by
  simp [State.setMeas]

@[simp] theorem State.stage0_trunk (s : State) (straps : BitVec 10) : (s.stage0 straps).trunk = s.trunk := by
  simp [State.stage0]

@[simp] theorem State.stage1_trunk (s : State) : s.stage1.trunk = s.trunk := by
  simp [State.stage1]

@[simp] theorem State.trainStacks_trunk (s : State) (f : Stage2Find) : (s.trainStacks f).trunk = s.trunk := by
  simp [State.trainStacks]

@[simp] theorem State.zero_kept {c₀ : Trunk} (s : State) (f : Nat → Bool) (hc : TrunkKept c₀ s.trunk) :
    TrunkKept c₀ (s.zero f).trunk := by
  simp [State.zero, hc]

@[simp] theorem State.rejectLoad_trunk (s : State) (port : Nat) (r : Reject) :
    (s.rejectLoad port r).trunk = s.trunk := by
  simp [State.rejectLoad]

@[simp] theorem State.acceptLoad_trunk (s : State) (port : Port) (g : Image) :
    (s.acceptLoad port g).trunk = s.trunk := by
  simp [State.acceptLoad]

@[simp] theorem State.loadGo_trunk (s : State) (port : Port) (cut : Bool) : (s.loadGo port cut).trunk = s.trunk := by
  simp only [State.loadGo]
  repeat' split
  all_goals simp

@[simp] theorem State.setDie_trunk (s : State) (g : Image) (d : Nat) : (s.setDie g d).trunk = s.trunk := by
  simp [State.setDie]

@[simp] theorem State.build_kept {c₀ : Trunk} (s : State) (g : Image) (hc : TrunkKept c₀ s.trunk) :
    TrunkKept c₀ (s.build g).trunk := by
  simp [State.build, hc]

@[simp] theorem State.raiseFloor_trunk (s : State) (g : Image) : (s.raiseFloor g).trunk = s.trunk := by
  unfold State.raiseFloor
  split <;> simp

@[simp] theorem State.relink_trunk (s : State) : s.relink.trunk = s.trunk := by
  simp [State.relink]

end Sys2Proof.Machine

end


section
/-! SUPPORT. What the functions of Causeway to Regs, HandsMem, Pmbus, Stations do to the queue and to memory. -/

namespace Sys2Proof.Machine

open Sys2Proof

@[simp] theorem State.emptySlot_trunk (s : State) (i : Nat) : (s.emptySlot i).trunk = s.trunk := by
  unfold State.emptySlot
  split <;> simp

@[simp] theorem State.handFault_kept {c₀ : Trunk} (s : State) (h : Nat) (code : Code) (m sub : Nat)
    (hc : TrunkKept c₀ s.trunk) :
    TrunkKept c₀ (s.handFault h code m sub).trunk := by
  simp [State.handFault, hc]

@[simp] theorem State.illegal_kept {c₀ : Trunk} (s : State) (h sub : Nat) (hc : TrunkKept c₀ s.trunk) :
    TrunkKept c₀ (s.illegal h sub).trunk := by
  simp [State.illegal, hc]

@[simp] theorem State.poisonConsumed_kept {c₀ : Trunk} (s : State) (h : Nat) (hc : TrunkKept c₀ s.trunk) :
    TrunkKept c₀ (s.poisonConsumed h).trunk := by
  simp [State.poisonConsumed, hc]

@[simp] theorem State.laneOp_trunk (s : State) (h fsel : Nat) (finv : Bool) (xd : Nat) (srcs : List Nat)
    (f : Hand → Nat → Lane) :
    (s.laneOp h fsel finv xd srcs f).trunk = s.trunk := by
  simp [State.laneOp]

@[simp] theorem State.compareOp_kept {c₀ : Trunk} (s : State) (h : Nat) (i : FmtL) (minors : Nat)
    (f : Nat → Lane → Lane → Bool) (hc : TrunkKept c₀ s.trunk) :
    TrunkKept c₀ (s.compareOp h i minors f).trunk := by
  simp (disch := simp [hc]) [State.compareOp]

@[simp] theorem State.updKernel_trunk (s : State) (p seq j : Nat) (f : KernelRun → KernelRun) :
    (s.updKernel p seq j f).trunk = s.trunk := by
  simp [State.updKernel]

@[simp] theorem State.setReached_trunk (s : State) (h n : Nat) : (s.setReached h n).trunk = s.trunk := by
  simp only [State.setReached]
  repeat' split
  all_goals simp

@[simp] theorem State.taskOver_trunk (s : State) (h : Nat) : (s.taskOver h).trunk = s.trunk := by
  simp only [State.taskOver]
  repeat' split
  all_goals simp

@[simp] theorem State.settle_trunk (s : State) (h : Nat) (a : BitVec 16) (stack : List MaskEntry) (pc : Int) :
    (s.settle h a stack pc).trunk = s.trunk := by
  simp [State.settle]

@[simp] theorem State.setKey_trunk (s : State) (n : Nat) (k : KeySlot) : (s.setKey n k).trunk = s.trunk := by
  simp [State.setKey]

@[simp] theorem State.secDone_trunk (s : State) (port status : Nat) : (s.secDone port status).trunk = s.trunk := by
  simp [State.secDone]

@[simp] theorem State.keyRequest_trunk (s : State) (port cmd : Nat) : (s.keyRequest port cmd).trunk = s.trunk := by
  simp [State.keyRequest]

@[simp] theorem State.loadCtlWrite_trunk (s : State) (port : Port) (a : RegAcc) :
    (s.loadCtlWrite port a).trunk = s.trunk := by
  simp [State.loadCtlWrite]

@[simp] theorem State.mboxCtlWrite_trunk (s : State) (port : Nat) (a : RegAcc) :
    (s.mboxCtlWrite port a).trunk = s.trunk := by
  simp [State.mboxCtlWrite]

@[simp] theorem State.mboxWrite_trunk (s : State) (port o : Nat) (a : RegAcc) :
    (s.mboxWrite port o a).trunk = s.trunk := by
  simp [State.mboxWrite]

@[simp] theorem State.crierWrite_trunk (s : State) (off : Nat) (a : RegAcc) :
    (s.crierWrite off a).trunk = s.trunk := by
  unfold State.crierWrite
  split <;> simp

@[simp] theorem State.polWrite_kept {c₀ : Trunk} (s : State) (off : Nat) (a : RegAcc) (hc : TrunkKept c₀ s.trunk) :
    TrunkKept c₀ (s.polWrite off a).trunk := by
  simp only [State.polWrite]
  repeat' split
  all_goals simp [hc]

@[simp] theorem State.landWrite_kept {c₀ : Trunk} (s : State) (port off : Nat) (a : RegAcc)
    (hc : TrunkKept c₀ s.trunk) :
    TrunkKept c₀ (s.landWrite port off a).trunk := by
  unfold State.landWrite
  split <;> simp [hc]

@[simp] theorem State.cswWrite_trunk (s : State) (off : Nat) (a : RegAcc) : (s.cswWrite off a).trunk = s.trunk := by
  unfold State.cswWrite
  split <;> simp

@[simp] theorem State.zlRegWrite_trunk (s : State) (port off : Nat) (a : RegAcc) :
    (s.zlRegWrite port off a).trunk = s.trunk := by
  simp only [State.zlRegWrite]
  repeat' split
  all_goals simp

@[simp] theorem State.almRegWrite_trunk (s : State) (port off : Nat) (a : RegAcc) :
    (s.almRegWrite port off a).trunk = s.trunk := by
  unfold State.almRegWrite
  repeat' split
  all_goals simp

@[simp] theorem State.lanesAt_trunk (s : State) (h : Nat) (i : FmtM) (acc : Nat) :
    (s.lanesAt h i acc).2.trunk = s.trunk := by
  refine foldl_keeps_proj (fun x : Option (List (Nat × Nat × LaneAt)) × State => x.2.trunk) _ (fun x l => ?_) _ _
  obtain ⟨got, u⟩ := x
  dsimp only
  split
  · rfl
  · have ht := State.translate_trunk u (.hand h) (s.hand h).pol ((s.hand h).globalVa i l) acc
      ((s.pol (s.hand h).pol).run (s.hand h).runSeq).m.tag
    generalize u.translate (.hand h) _ _ _ _ = x at ht ⊢
    obtain ⟨k, v⟩ := x
    cases k <;> exact ht

@[simp] theorem State.checked_trunk (s : State) (h : Nat) (ls : List (Nat × Nat × LaneAt)) :
    (s.checked h ls).trunk = s.trunk := by
  simp only [State.checked]
  repeat' split
  all_goals simp

@[simp] theorem State.loadFree_trunk (s : State) (h : Nat) (i : FmtM) (signed : Bool) (l : Nat) :
    (s.loadFree h i signed l).trunk = s.trunk := by
  simp [State.loadFree]

@[simp] theorem State.loadSector_trunk (s : State) (h : Nat) (i : FmtM) (signed : Bool) (l va off : Nat)
    (line : L1Line) :
    (s.loadSector h i signed l va off line).trunk = s.trunk := by
  simp [State.loadSector]

@[simp] theorem State.stagedSector_trunk (s : State) (h n key base sector : Nat) :
    (s.stagedSector h n key base sector).2.trunk = s.trunk := by
  simp [State.stagedSector]

@[simp] theorem State.loadStaged_trunk (s : State) (h : Nat) (i : FmtM) (signed : Bool) (l va n key off : Nat) :
    (s.loadStaged h i signed l va n key off).trunk = s.trunk := by
  simp only [State.loadStaged]
  repeat' split
  all_goals simp

@[simp] theorem State.askSector_trunk (s : State) (h key va hint : Nat) :
    (s.askSector h key va hint).trunk = s.trunk := by
  simp only [State.askSector]
  split
  · exact trunk_getD _ _ fun t h => State.remoteRead_trunk _ _ _ _ _ _ _ _ h
  · split
    · refine trunk_getD _ _ fun t ht => ?_
      obtain ⟨x, hx, rfl⟩ := Option.map_eq_some_iff.1 ht
      exact State.hostRead_trunk _ _ _ _ _ _ _ _ hx
    · simp

@[simp] theorem State.missSector_trunk (s : State) (h : Nat) (i : FmtM) (signed : Bool) (ls : List
    (Nat × Nat × Word × Nat)) (key : Nat) :
    (s.missSector h i signed ls key).trunk = s.trunk := by
  simp only [State.missSector]
  split <;> simp

@[simp] theorem State.noteRemote_trunk (s : State) (h m : Nat) : (s.noteRemote h m).trunk = s.trunk := by
  simp only [State.noteRemote]
  repeat' split
  all_goals simp

@[simp] theorem State.chunked_trunk (s : State) (bs : Bytes) : (s.chunked bs).2.trunk = s.trunk := by
  simp [State.chunked]

@[simp] theorem State.sendAtom_trunk (s : State) (h : Nat) (i : FmtM) (op : AtomOp) (va : Nat) (r : AtomReq) :
    (s.sendAtom h i op va r).trunk = s.trunk := by
  simp [State.sendAtom]

theorem State.smbus_trunk (s : State) (f : State → State × Option (List Byte)) (hf : ∀ u, (f u).1.trunk = u.trunk) :
    (s.smbus f).trunk = s.trunk := by
  simp only [State.smbus]
  split <;> simp [hf]

@[simp] theorem State.smbusRead_trunk (s : State) (f : State → List Byte) : (s.smbusRead f).trunk = s.trunk := by
  exact State.smbus_trunk s _ fun u => rfl

@[simp] theorem State.useTakes_trunk (s : State) (p seq : Nat) (ts : List Take) :
    (s.useTakes p seq ts).trunk = s.trunk := by
  simp [State.useTakes]

@[simp] theorem State.residualLines_trunk (s : State) (eng : EngineRef) (p seq : Nat) (vas : List Nat) :
    (s.residualLines eng p seq vas).2.2.trunk = s.trunk := by
  simp [State.residualLines]

end Sys2Proof.Machine

end


section
/-! SUPPORT. The queue and memory under the functions whose results are taken apart. -/

namespace Sys2Proof.Machine

open Sys2Proof

@[simp] theorem State.powerOff_kept {c₀ : Trunk} (s : State) (hc : TrunkKept c₀ s.trunk) :
    TrunkKept c₀ s.powerOff.trunk :=
  ⟨hc.pending, fun _ => rfl⟩

@[simp] theorem State.trip_kept {c₀ : Trunk} (s : State) (hc : TrunkKept c₀ s.trunk) : TrunkKept c₀ s.trip.trunk :=
  s.powerOff_kept hc

@[simp] theorem State.placeRecord_kept {c₀ : Trunk} (s : State) (p base : Nat) (r : List Byte)
    (hc : TrunkKept c₀ s.trunk) :
    TrunkKept c₀ (s.placeRecord p base r).trunk := by
  unfold State.placeRecord
  dsimp only
  split
  · split
    · exact hc
    · refine (foldl_keeps_proj State.trunk _ (fun u e => ?_) _ _).symm ▸ hc
      exact trunk_getD _ _ fun t h => State.hostWrite_trunk _ _ _ _ _ _ _ _ _ _ h
  · exact s.poke_kept _ _ _ _ hc

@[simp] theorem State.bar2Read_trunk (s : State) (port p id va : Nat) (g : Seg) :
    (s.bar2Read port p id va g).2.trunk = s.trunk := by
  unfold State.bar2Read
  dsimp only
  split
  · refine foldl_keeps_proj (fun x : Nat × State => x.2.trunk) _ (fun x e => ?_) _ _
    split
    · next h => exact State.remoteRead_trunk _ _ _ _ _ _ _ _ h
    · rfl
  · split
    · next q w h =>
      cases hr : s.hostRead q p w g.len (.host port id) g.dpa with
      | none => rfl
      | some t => exact State.hostRead_trunk _ _ _ _ _ _ _ _ hr
    · simp

@[simp] theorem State.bar2Write_trunk (s : State) (port p id va : Nat) (g : Seg) (bs : List Byte) (poison : Bool) :
    (s.bar2Write port p id va g bs poison).trunk = s.trunk := by
  unfold State.bar2Write
  dsimp only
  split
  · exact trunk_getD _ _ fun t h => State.remoteWrite_trunk _ _ _ _ _ _ _ _ h
  · split
    · exact trunk_getD _ _ fun t h => State.hostWrite_trunk _ _ _ _ _ _ _ _ _ _ h
    · simp

@[simp] theorem State.hostFetch_kept {c₀ : Trunk} (s : State) (port fn p off : Nat) (segs : List Seg)
    (hc : TrunkKept c₀ s.trunk) :
    TrunkKept c₀ (s.hostFetch port fn p off segs).trunk := by
  have hf : ∀ (x : Nat × State), (segs.foldl (fun (x : Nat × State) g =>
      let (k, s) := x.2.bar2Read port p s.nextId (s.freshId.2.bar2Va fn off) g
      (x.1 + k, s)) x).2.trunk = x.2.trunk := fun x =>
    foldl_keeps_proj (fun x : Nat × State => x.2.trunk) _ (fun x g => by simp) _ _
  unfold State.hostFetch
  refine State.beginHost_kept _ _ _ ?_
  rw [State.updPort_trunk]
  exact (hf (0, s.freshId.2)).symm ▸ hc

@[simp] theorem State.hostStore_kept {c₀ : Trunk} (s : State) (port fn p off : Nat) (segs : List Seg)
    (bs : List Byte) (poison : Bool)
    (hc : TrunkKept c₀ s.trunk) : TrunkKept c₀ (s.hostStore port fn p off segs bs poison).trunk := by
  have hf : ∀ (x : State × List Byte), (segs.foldl (fun (x : State × List Byte) g =>
      (x.1.bar2Write port p s.nextId (s.freshId.2.bar2Va fn off) g (x.2.take g.len) poison, x.2.drop g.len)) x).1.trunk
        = x.1.trunk := fun x =>
    foldl_keeps_proj (fun x : State × List Byte => x.1.trunk) _ (fun x g => by simp) _ _
  unfold State.hostStore
  refine State.beginHost_kept _ _ _ ?_
  exact (hf (s.freshId.2, bs)).symm ▸ hc

@[simp] theorem State.raiseGranules_trunk (s : State) (code : Code) (src p eng : Nat) (vas : List Nat) :
    (s.raiseGranules code src p eng vas).trunk = s.trunk := by
  refine foldl_keeps_proj (fun x : List Nat × State => x.2.trunk) _ (fun x va => ?_) _ _
  split
  · rfl
  · simp

@[simp] theorem State.rangeLines_trunk (s : State) (p seq i : Nat) (d : RangeDecl) (fuel : Nat) :
    (s.rangeLines p seq i d fuel).trunk = s.trunk := by
  induction fuel generalizing s with
  | zero => rfl
  | succ fuel ih =>
    unfold State.rangeLines
    dsimp only
    split
    · rfl
    · have ht := s.translate_trunk (EngineRef.porter d.die d.porter p seq (256 + i)) p
        ((((s.pol p).run seq).ranges.get {} i).base + 1024 * (((s.pol p).run seq).ranges.get {} i).lines)
        (if (((s.pol p).run seq).ranges.get {} i).op = 3 then 4 else 3) ((s.pol p).run seq).m.tag
      split
      · next u h => rw [h] at ht; simp [ih, apply_ite State.trunk, ht]
      · next u h => rw [h] at ht; simp [ih, apply_ite State.trunk, ht]
      · next u h => rw [h] at ht; simp [ih, ht]
      · next e dpa u h =>
        rw [h] at ht
        split
        · simp [ih, apply_ite State.trunk, ht]
        · split
          · simp [ih, ht]
          · split
            · next v hv =>
              have := State.rangeLine_trunk _ _ _ _ _ _ _ _ _ _ hv
              simp [ih, ht, this]
            · exact ht
      · next h => rw [h] at ht; exact ht

@[simp] theorem State.rangeStep_kept {c₀ : Trunk} (s : State) (p seq i op : Nat) (hc : TrunkKept c₀ s.trunk) :
    TrunkKept c₀ (s.rangeStep p seq i op).trunk := by
  unfold State.rangeStep
  dsimp only
  split
  · next d _ _ =>
    split
    · exact hc
    · split
      · repeat' split
        all_goals simp [hc]
      · split
        · exact hc
        · have ht := s.translate_trunk (EngineRef.porter d.die d.porter p seq (256 + i)) p
            ((((s.pol p).run seq).m.operands.getD d.operand (0, 0)).2) 0 ((s.pol p).run seq).m.tag
          split
          all_goals
            next h =>
            rw [h] at ht
            have hu := ht.symm ▸ hc
            repeat' split
            all_goals simp [hu]
  · exact hc

theorem State.readReg_trunk (s : State) (src : Src) (off size half : Nat) :
    (s.readReg src off size half).2.trunk = s.trunk := by
  obtain ⟨hm, -, hp⟩ := s.readReg_tame src off size half
  unfold State.trunk
  rw [hm, hp]

@[simp] theorem State.writeReg_kept {c₀ : Trunk} (s : State) (off : Nat) (a : RegAcc) (hc : TrunkKept c₀ s.trunk) :
    TrunkKept c₀ (s.writeReg off a).trunk := by
  have pf : ∀ port : Port, TrunkKept c₀ (if off = 0x10010 then s.loadCtlWrite port a
      else if 0x20000 ≤ off && off < 0x40000 then s.almRegWrite port.val off a
      else if off = 0x80000 then s.pwrCapWrite port.val a
      else if off = 0x80010 then { s with pwr := { s.pwr with inputSeen := s.pwr.inputSeen && !a.bit 7 } }
      else if 0x100000 ≤ off && off < 0x200000 then s.polWrite off a
      else if 0x200000 ≤ off && off < 0x400000 then s.landWrite port.val off a
      else if 0x400000 ≤ off && off < 0x800000 then s.cswWrite off a
      else if 0x800000 ≤ off && off < 0x800180 && off % 16 = 0 then
        s.updStack ((off - 0x800000) / 16) fun t => { t with hotSeen := t.hotSeen && !a.bit 3 }
      else if 0x1000000 ≤ off && off < 0x2000000 then s.zlRegWrite port.val off a
      else if off = 0x3000020 then s.mboxCtlWrite port.val a
      else if 0x3008000 ≤ off && off < 0x3010000 then s.mboxWrite port.val (off - 0x3008000) a
      else s).trunk := by
    intro port
    refine .state_ite (fun _ => hc.of_eq (s.loadCtlWrite_trunk ..)) fun _ => ?_
    refine .state_ite (fun _ => hc.of_eq (s.almRegWrite_trunk ..)) fun _ => ?_
    refine .state_ite (fun _ => hc.of_eq (s.pwrCapWrite_trunk ..)) fun _ => ?_
    refine .state_ite (fun _ => hc) fun _ => ?_
    refine .state_ite (fun _ => s.polWrite_kept _ _ hc) fun _ => ?_
    refine .state_ite (fun _ => s.landWrite_kept _ _ _ hc) fun _ => ?_
    refine .state_ite (fun _ => hc.of_eq (s.cswWrite_trunk ..)) fun _ => ?_
    refine .state_ite (fun _ => hc) fun _ => ?_
    refine .state_ite (fun _ => hc.of_eq (s.zlRegWrite_trunk ..)) fun _ => ?_
    refine .state_ite (fun _ => hc.of_eq (s.mboxCtlWrite_trunk ..)) fun _ => ?_
    exact .state_ite (fun _ => hc.of_eq (s.mboxWrite_trunk ..)) fun _ => hc
  unfold State.writeReg
  refine .state_ite (fun _ => hc) fun _ => .state_ite (fun _ => hc.of_eq (s.crierWrite_trunk ..)) fun _ =>
    .state_ite (fun _ => hc.of_eq (s.msixWrite_trunk ..)) fun _ => ?_
  cases a.src with
  | vf p n => exact hc
  | pf p => exact pf p
  | dev p => exact pf p

@[simp] theorem State.memStart_kept {c₀ : Trunk} (s : State) (h : Nat) (i : FmtM) (n : Nat) (global : Bool)
    (bad : Option Nat) (go : State → State)
    (hc : TrunkKept c₀ s.trunk) (hgo : TrunkKept c₀ (go s).trunk) : TrunkKept c₀ (s.memStart h i n global bad go).trunk := by
  unfold State.memStart
  dsimp only
  refine .state_ite (fun _ => hc) fun _ => ?_
  cases bad with
  | some sub => exact s.illegal_kept _ _ hc
  | none => exact .state_ite (fun _ => hc) fun _ => .state_ite (fun _ => s.poisonConsumed_kept _ hc) fun _ =>
      .state_ite (fun _ => s.handFault_kept _ _ _ _ hc) fun _ => hgo

@[simp] theorem State.loadLane_trunk (s : State) (h : Nat) (i : FmtM) (signed : Bool) (e : Nat × Nat × LaneAt) :
    (s.loadLane h i signed e).trunk = s.trunk := by
  unfold State.loadLane
  dsimp only
  split
  · simp
  · simp
  · simp
  · simp
  · split
    · exact (State.updHand_trunk ..).trans (s.readReg_trunk ..)
    · split
      · simp
      · rfl

@[simp] theorem State.loadGlobal_kept {c₀ : Trunk} (s : State) (h : Nat) (i : FmtM) (signed : Bool)
    (hc : TrunkKept c₀ s.trunk) :
    TrunkKept c₀ (s.loadGlobal h i signed).trunk := by
  refine s.memStart_kept _ _ _ _ _ _ hc ?_
  have ht := s.lanesAt_trunk h i 0
  dsimp only
  split
  · next hl =>
    rw [hl] at ht
    exact ht.symm ▸ hc
  · next ls u hl =>
    rw [hl] at ht
    have hu := ht.symm ▸ hc
    simp [hu]

@[simp] theorem State.store_kept {c₀ : Trunk} (s : State) (h : Nat) (i : FmtM) (dead : Bool)
    (hc : TrunkKept c₀ s.trunk) :
    TrunkKept c₀ (s.store h i dead).trunk := by
  refine s.memStart_kept _ _ _ _ _ _ hc ?_
  have ht := s.lanesAt_trunk h i 1
  dsimp only
  split
  · next hl =>
    rw [hl] at ht
    exact ht.symm ▸ hc
  · next ls u hl =>
    rw [hl] at ht
    have hu := ht.symm ▸ hc
    simp [hu]

@[simp] theorem State.storeAway_kept {c₀ : Trunk} (s : State) (h : Nat) (e : StoreEntry) (hc : TrunkKept c₀ s.trunk) :
    TrunkKept c₀ (s.storeAway h e).trunk := by
  have runs : ∀ (u : State) (bs : Bytes) (f : State → Nat × List Byte → Option State),
      (∀ u r t, f u r = some t → t.trunk = u.trunk) →
      ((((byteRuns bs).foldl (fun x r => x.bind fun s => f s r) (some u)).getD
        (u.permission (srcHand h) (s.hand h).pol e.va 1)).trunk = u.trunk) := by
    intro u bs f hf
    cases ho : (byteRuns bs).foldl (fun x r => x.bind fun s => f s r) (some u) with
    | none => exact u.permission_trunk ..
    | some t => exact trunk_foldl_bind f _ _ _ hf (fun v hv => by cases hv; rfl) t ho
  have hch := s.chunked_trunk e.bytes
  unfold State.storeAway
  generalize s.chunked e.bytes = x at hch ⊢
  obtain ⟨bs, u⟩ := x
  refine .state_ite (fun _ => ?_) fun _ => ?_
  · exact hc.of_eq ((State.noteRemote_trunk ..).trans ((runs u bs _ fun u r t ht => State.remoteWrite_trunk _ _ _ _ _ _ _ _ ht).trans hch))
  · cases s.region (dpaOffset (s.sectorDpa (8 * e.line)) + (e.bytes.headD (0, 0)).1) with
    | host q w =>
      exact .state_ite (fun _ => hc.of_eq (s.raiseOwn_trunk ..)) fun _ =>
        hc.of_eq <| runs s _ _ fun u r t ht => State.hostWrite_trunk _ _ _ _ _ _ _ _ _ _ ht
    | gate o => exact .state_ite (fun _ => hc) fun _ => s.writeReg_kept _ _ hc
    | _ => exact hc

@[simp] theorem State.localAccess_kept {c₀ : Trunk} (s : State) (h : Nat) (i : FmtM) (n : Nat) (bad : Option Nat)
    (raise : Hand → State → State)
    (f : Hand → Hand) (hc : TrunkKept c₀ s.trunk) (hr : (raise (s.hand h) s).trunk = s.trunk) :
    TrunkKept c₀ (s.localAccess h i n bad raise f).trunk := by
  refine s.memStart_kept _ _ _ _ _ _ hc ?_
  simp [hc, hr]

@[simp] theorem State.stationLines_trunk (s : State) (kind d p seq : Nat) (ls : List (Nat × Nat × Bytes))
    (poison : Bool) :
    (s.stationLines kind d p seq ls poison).trunk = s.trunk := by
  unfold State.stationLines
  dsimp only
  refine (trunk_foldl _ _ _ fun u e => ?_).trans ?_
  · obtain ⟨va, dpa, part⟩ := e
    dsimp only
    split
    · next n t h => exact (State.updRun_trunk ..).trans (State.storeLine_trunk _ _ _ _ _ _ _ _ _ _ h)
    · simp
  · simp

theorem State.stationStore_trunk (s : State) (kind d p seq va : Nat) (bytes : List Byte) (poison : Bool) :
    (s.stationStore kind d p seq va bytes poison).2.trunk = s.trunk
      ∧ ∀ t ∈ (s.stationStore kind d p seq va bytes poison).1, t.trunk = s.trunk := by
  have ht := s.translateLines_trunk (EngineRef.station kind d p seq) p 1 ((s.pol p).run seq).m.tag
    ((List.range (ceilDiv (va % 1024 + bytes.length) 1024)).map fun i => va / 1024 * 1024 + 1024 * i)
  unfold State.stationStore
  dsimp only
  generalize s.translateLines _ _ _ _ _ = x at ht ⊢
  obtain ⟨ls, u⟩ := x
  have hu : u.trunk = s.trunk := ht
  dsimp only
  split
  · exact ⟨hu, fun t h => by cases h⟩
  · refine ⟨by simp [hu], fun t h => ?_⟩
    cases h
    simp [hu]

@[simp] theorem State.stationOp_trunk (s : State) (kind d p : Nat) (takes : Nat → StationUse → Option (List Take))
    (key : Option Nat)
    (give : Nat → List Nat × List Nat) (poison : Bool) (f : State → State) (hf : ∀ u, (f u).trunk = u.trunk) :
    (s.stationOp kind d p takes key give poison f).trunk = s.trunk := by
  unfold State.stationOp
  split
  · rfl
  · split
    · rfl
    · next seq _ _ _ u _ =>
      have ht := s.readRecord_trunk (.station kind d p seq) p seq (if key.isSome then u.record else none) (keyBytes key)
      split
      · next h => rw [h] at ht; exact ht
      · rfl
      · next bad v h =>
        rw [h] at ht
        split
        · rfl
        · have hv : v.trunk = s.trunk := ht
          dsimp only
          split
          · rw [hf, State.useTakes_trunk, hv]
          · rw [State.giveElems_trunk, hf, State.useTakes_trunk, hv]

@[simp] theorem State.verify_trunk (s : State) (home : Nat) (v : VerifyOp) (sample : Bool) :
    (s.verify home v sample).trunk = s.trunk := by
  unfold State.verify
  dsimp only
  split
  · rfl
  · split
    · rfl
    · split
      · next h => exact (congrArg (fun x => x.2.trunk) h).symm.trans (State.readRecord_trunk ..)
      · rfl
      · next bad u h =>
        have hu : u.trunk = s.trunk := (congrArg (fun x => x.2.trunk) h).symm.trans (State.readRecord_trunk ..)
        split
        · rfl
        · split
          · next hst =>
            exact (congrArg (fun x => x.2.trunk) hst).symm.trans ((State.stationStore_trunk ..).1.trans hu)
          · next t w hst =>
            have htu : t.trunk = u.trunk := (State.stationStore_trunk ..).2 t (congrArg Prod.fst hst)
            refine (trunk_foldl _ _ _ fun u d => by simp).trans ?_
            simp [htu, hu]

end Sys2Proof.Machine

end


section
/-! SUPPORT. Commands that keep the queue and memory: those that turn on a lookup or a translation. -/

namespace Sys2Proof.Machine

open Sys2Proof

/-! ## Messages of the Bins and their homes -/

section
variable (m : CohMsg) (s : State)

theorem execGets_kept : (execGets m s).Keeps s := .next <| s.atHome_kept _ _ _ (.refl _) fun u hu => by simp [hu]
theorem execGetm_kept : (execGetm m s).Keeps s := .next <| s.atHome_kept _ _ _ (.refl _) fun u hu => by simp [hu]
theorem execRdsec_kept : (execRdsec m s).Keeps s := .next <| s.atHome_kept _ _ _ (.refl _) fun u hu => by simp [hu]
theorem execPute_kept : (execPute m s).Keeps s := .next <| s.atHome_kept _ _ _ (.refl _) fun u hu => by simp [hu]
theorem execPutm_kept : (execPutm m s).Keeps s := .next <| s.atHome_kept _ _ _ (.refl _) fun u hu => by simp [hu]
theorem execPuto_kept : (execPuto m s).Keeps s := .next <| s.atHome_kept _ _ _ (.refl _) fun u hu => by simp [hu]
theorem execDone_kept : (execDone m s).Keeps s := .next <| s.atHome_kept _ _ _ (.refl _) fun u hu => by simp [hu]
theorem execInvAck_kept : (execInvAck m s).Keeps s := .next <| s.atHome_kept _ _ _ (.refl _) fun u hu => by simp [hu]
theorem execFwdAck_kept : (execFwdAck m s).Keeps s := .next <| s.atHome_kept _ _ _ (.refl _) fun u hu => by simp [hu]
theorem execWbCross_kept : (execWbCross m s).Keeps s := .next <| s.atHome_kept _ _ _
    (.refl _) fun u hu => by simp [hu]
theorem execRecallAck_kept : (execRecallAck m s).Keeps s :=
  .next <| s.atHome_kept _ _ _ (.refl _) fun u hu => .state_ite (fun _ => by simp [hu]) fun _ => hu

theorem execGrant_kept : (execGrant m s).Keeps s :=
  .next <| .of_trunk <| s.atBin_trunk _ _ _ fun u => by
    split
    · split <;> simp
    · rfl

theorem execDataH_kept : (execDataH m s).Keeps s := .next <| .of_trunk <| s.atBin_trunk _ _ _ fun u => by simp
theorem execDataF_kept : (execDataF m s).Keeps s :=
  .next <| .state_ite (fun _ => s.atHome_kept _ _ _ (.refl _) fun u hu => by simp [hu]) fun _ =>
    .of_trunk <| s.atBin_trunk _ _ _ fun u => by simp

theorem execPutAck_kept : (execPutAck m s).Keeps s :=
  .next <| .of_trunk <| s.atBin_trunk _ _ _ fun u => by
    split
    · split <;> simp
    · rfl

theorem execNackRd_kept : (execNackRd m s).Keeps s :=
  .next <| .of_trunk <| s.atBin_trunk _ _ _ fun u => by simp

theorem execFwdGets_kept : (execFwdGets m s).Keeps s := .next <| .of_trunk <| s.atBin_trunk _ _ _ fun u => by simp
theorem execFwdGetm_kept : (execFwdGetm m s).Keeps s := .next <| .of_trunk <| s.atBin_trunk _ _ _ fun u => by simp
theorem execInv_kept : (execInv m s).Keeps s := .next <| .of_trunk <| s.atBin_trunk _ _ _ fun u => by simp
theorem execRecall_kept : (execRecall m s).Keeps s := .next <| .of_trunk <| s.atBin_trunk _ _ _ fun u => by simp

end

/-! ## Memory -/

theorem execAddToLine_kept (d : Die) (p : Pol) (seq va : Nat) (ty : AtlType) (addends : List (Nat × Lane))
    (s : State) :
    (execAddToLine d p seq va ty addends s).Keeps s := by
  refine .next <| .state_ite (fun _ => .refl _) fun _ => ?_
  have ht := s.translate_trunk (EngineRef.station 3 d.val p.val seq) p.val va 2 ((s.pol p.val).run seq).m.tag
  generalize s.translate _ _ _ _ _ = x at ht ⊢
  obtain ⟨l, u⟩ := x
  have hu : TrunkKept s.trunk u.trunk := TrunkKept.of_trunk ht
  cases l with
  | ok e dpa => exact .state_ite (fun _ => by simp [hu]) fun _ => by simp [hu]
  | _ => simp [hu]

theorem execHbmWrite_kept (k : Keel) (line : Nat) (s : State) : (execHbmWrite k line s).Keeps s := by
  refine .next ?_
  split
  · exact .refl _
  · dsimp only
    split
    · exact ⟨rfl, fun h => Memory.wf_memWrite _ _ _ h⟩
    · exact .refl _

theorem execHostWindowWrite_kept (port : Port) (p : Pol) (off : Nat) (data : List Byte) (poison : Bool) (s : State) :
    (execHostWindowWrite port p off data poison s).Keeps s := by
  refine .next <| .state_ite (fun _ => .refl _) fun _ => .state_ite (fun _ => by simp) fun _ => ?_
  split
  · next t h => exact TrunkKept.of_trunk (State.hostWrite_trunk _ _ _ _ _ _ _ _ _ _ h)
  · simp

theorem execHostWindowRead_kept (port : Port) (p : Pol) (off len : Nat) (who : Requester) (s : State) :
    (execHostWindowRead port p off len who s).Keeps s := by
  refine .next <| .state_ite (fun _ => .refl _) fun _ => ?_
  have counted : ∀ (n : Nat) (u : State), (match who with
      | .porter q seq st tile _ => u.updRun q seq fun r => { r with
          streams := r.streams.upd {} st fun c => { c with
            tiles := c.tiles.upd {} tile fun b => { b with outstanding := b.outstanding + n } } }
      | _ => u).trunk = u.trunk := fun n u => by cases who <;> simp
  refine .state_ite (fun _ => ?_) fun _ => ?_
  · cases who <;> simp
  · split
    · next n u h => exact TrunkKept.of_trunk ((counted n u).trans (State.hostRead_trunk _ _ _ _ _ _ _ _ h))
    · simp

theorem execRcFieldRead_kept (src : Src) (off size : Nat) (s : State) : (execRcFieldRead src off size s).Keeps s := by
  have hread : ∀ o h, ((s.readReg src o size h).2.reply src size (s.readReg src o size h).1).trunk = s.trunk := fun o h =>
    (State.reply_trunk ..).trans (s.readReg_trunk ..)
  refine .next ?_
  split
  · exact .state_ite (fun _ => .refl _) fun _ => TrunkKept.of_trunk (hread _ _)
  · exact .state_ite (fun _ => .refl _) fun _ => .state_ite (fun _ => by simp) fun _ => TrunkKept.of_trunk (hread _ _)

theorem execBinWrite_kept (h : HandId) (s : State) : (execBinWrite h s).Keeps s := by
  refine .next ?_
  dsimp only
  split
  · exact .refl _
  · next e rest _ =>
    split
    · simp
    · simp
    · refine .state_ite (fun _ => by simp) fun _ => .state_ite (fun _ => by simp) fun _ => ?_
      split
      · exact .state_ite (fun _ => .refl _) fun _ => by simp
      · split
        · exact .refl _
        · next u hu =>
          have hk : TrunkKept s.trunk u.trunk := TrunkKept.of_trunk (State.binMiss_trunk _ _ _ _ _ _ hu)
          exact .state_ite (fun _ => by simp [hk]) fun _ => hk

theorem execLdl_kept (h : HandId) (i : FmtM) (s : State) : (execLdl h i s).Keeps s := by
  refine .next <| s.localAccess_kept _ _ _ _ _ _ (.refl _) ?_
  split <;> simp

theorem execAtom_kept (h : HandId) (i : FmtM) (s : State) : (execAtom h i s).Keeps s := by
  refine .next ?_
  split
  · exact s.memStart_kept _ _ _ _ _ _ (.refl _) (.refl _)
  · next op ret _ =>
    refine s.memStart_kept _ _ _ _ _ _ (.refl _) ?_
    have ht := s.lanesAt_trunk h i 2
    generalize s.lanesAt h i 2 = x at ht ⊢
    obtain ⟨ls, u⟩ := x
    have hu : TrunkKept s.trunk u.trunk := TrunkKept.of_trunk ht
    cases ls with
    | none => exact hu
    | some ls =>
      refine .state_ite (fun _ => hu) fun _ => .state_ite (fun _ => hu) fun _ => hu.of_eq ?_
      refine (State.updHand_trunk ..).trans ((trunk_foldl _ _ _ fun v r => State.sendAtom_trunk ..).trans ?_)
      refine (trunk_foldl _ _ _ fun v e => ?_).trans (State.checked_trunk ..)
      split
      · rfl
      · split <;> simp

/-! ## Tiles and stations -/

theorem execPorterTileIssue_kept (p : Pol) (seq stream : Nat) (s : State) :
    (execPorterTileIssue p seq stream s).Keeps s := by
  refine .next <| TrunkKept.of_trunk ?_
  split
  · rfl
  · next d c m _ =>
    split
    · rfl
    · have ht := s.translateLines_trunk (porterRef d p.val seq stream) p.val 0 m.tag
        ((List.range (tileLines d)).map fun i => tileVa d (streamBase d m) c.next (1024 * i))
      dsimp only
      generalize s.translateLines _ _ _ _ _ = x at ht ⊢
      obtain ⟨ls, u⟩ := x
      have hu : u.trunk = s.trunk := ht
      dsimp only
      split
      · exact hu
      · split
        · simp [hu]
        · split
          · simp [hu]
          · refine (trunk_foldl _ _ _ fun v i => ?_).trans (by simp [hu])
            split
            · split
              · next h => exact (State.updTile_trunk ..).trans (State.loadLine_trunk _ _ _ _ _ _ _ h)
              · simp
            · simp

theorem execStoreTileEmit_kept (p : Pol) (seq stream : Nat) (payload : List Byte) (poison : Bool) (s : State) :
    (execStoreTileEmit p seq stream payload poison s).Keeps s := by
  refine .next <| .of_trunk ?_
  split
  · rfl
  · next d c m _ =>
    refine State.trunk_of_ite (fun _ => rfl) fun _ => ?_
    have ht := s.translateLines_trunk (porterRef d p.val seq stream) p.val 1 m.tag
      ((List.range (tileLines d)).map fun i => tileVa d (streamBase d m) c.next (1024 * i))
    dsimp only
    generalize s.translateLines _ _ _ _ _ = x at ht ⊢
    obtain ⟨ls, u⟩ := x
    have hu : u.trunk = s.trunk := ht
    dsimp only
    refine State.trunk_of_ite (fun _ => hu) fun _ => State.trunk_of_ite (fun _ => by simp [hu]) fun _ =>
      State.trunk_of_ite (fun _ => by simp [hu]) fun _ => ?_
    refine (apply_ite State.trunk ..).trans ((ite_congr rfl (fun _ => State.updStream_trunk ..) fun _ =>
      (State.updRun_trunk ..).trans (State.updTile_trunk ..)).trans ((ite_self _).trans ?_))
    refine (foldl_keeps_proj (fun x : Nat × State => x.2.trunk) _ (fun x i => ?_) _ _).trans (by simp [hu])
    split
    · refine foldl_keeps_proj (fun x : Nat × State => x.2.trunk) _ (fun y g => ?_) _ _ |>.trans ?_
      · split
        · next h => exact (State.overwrite_trunk ..).trans (State.storeLine_trunk _ _ _ _ _ _ _ _ _ _ h)
        · simp
      · exact (apply_ite (fun x : List Byte × State => x.2.trunk) _ _ _).trans
          ((ite_congr rfl (fun _ => rfl) fun _ => State.freeBytes_trunk ..).trans (ite_self _))
    · rfl

theorem execFusedAttentionPass_kept (d : Die) (g : Attention) (s : State) :
    (execFusedAttentionPass d g s).Keeps s := by
  refine .next <| .of_trunk ?_
  split
  · rfl
  · dsimp only
    split
    · rfl
    · refine State.trunk_of_ite (fun _ => rfl) fun _ => ?_
      split
      · next h => exact (congrArg (fun x => x.2.trunk) h).symm.trans (State.readRecord_trunk ..)
      · rfl
      · next bad u h =>
        have hu : u.trunk = s.trunk := (congrArg (fun x => x.2.trunk) h).symm.trans (State.readRecord_trunk ..)
        exact State.trunk_of_ite (fun _ => rfl) fun _ => by simp [hu]

theorem execPhaseStart_kept (p : Pol) (seq : Nat) (phase : Fin 8) (s : State) :
    (execPhaseStart p seq phase s).Keeps s := by
  refine .next <| .of_trunk ?_
  dsimp only
  split
  · rfl
  · split
    · rfl
    · refine (State.watchSteps_trunk _).trans ((trunk_foldl _ _ _ fun u d => ?_).trans (State.updRun_trunk ..))
      split
      · split <;> simp
      · rfl

theorem execZlWrite_kept (zp : ZPort) (t : Txn) (s : State) : (execZlWrite zp t s).Keeps s :=
  .next <| .of_trunk <| s.zlTake_trunk _ _ _ _ fun u => by simp

theorem execZlRead_kept (zp : ZPort) (t : Txn) (s : State) : (execZlRead zp t s).Keeps s :=
  .next <| .of_trunk <| s.zlTake_trunk _ _ _ _ fun u => by simp

theorem execZlBarrier_kept (zp : ZPort) (t : Txn) (s : State) : (execZlBarrier zp t s).Keeps s :=
  .next <| .of_trunk <| s.zlTake_trunk _ _ _ _ fun u => by simp

theorem execReadData_kept (zp : ZPort) (t : Txn) (s : State) : (execReadData zp t s).Keeps s :=
  .next <| .of_trunk <| s.zlTake_trunk _ _ _ _ fun u => by
    dsimp only
    split
    · simp
    · split <;> simp

theorem execAlmSync_kept (zp : ZPort) (src : Nat) (b : BandMsg) (s : State) : (execAlmSync zp src b s).Keeps s := by
  refine .next ?_
  split
  · exact s.bandTake_kept _ _ _ _ (.refl _) fun u hu => by simp [hu]
  · exact .refl _

theorem execAlmReq_kept (zp : ZPort) (src : Nat) (b : BandMsg) (s : State) : (execAlmReq zp src b s).Keeps s := by
  refine .next ?_
  split
  · exact s.bandTake_kept _ _ _ _ (.refl _) fun u hu => by simp [hu]
  · exact .refl _

theorem execAlmResp_kept (zp : ZPort) (src : Nat) (b : BandMsg) (s : State) : (execAlmResp zp src b s).Keeps s := by
  refine .next ?_
  split
  · exact s.bandTake_kept _ _ _ _ (.refl _) fun u hu => by simp [hu]
  · exact .refl _

theorem execNotice_kept (zp : ZPort) (src : Nat) (b : BandMsg) (s : State) : (execNotice zp src b s).Keeps s := by
  refine .next ?_
  split
  · refine s.bandTake_kept _ _ _ _ (.refl _) fun u hu => .state_ite (fun _ => hu) fun _ => ?_
    exact kept_foldl _ _ _ _ (fun v e => .state_ite (fun _ => by simp) fun _ => by simp) hu
  · exact .refl _

theorem execPowerReport_kept (zp : ZPort) (src : Nat) (b : BandMsg) (s : State) :
    (execPowerReport zp src b s).Keeps s := by
  refine .next ?_
  split
  · exact s.bandTake_kept _ _ _ _ (.refl _) fun u hu => by simp [hu]
  · exact .refl _

theorem execPowerOffer_kept (zp : ZPort) (src : Nat) (b : BandMsg) (s : State) :
    (execPowerOffer zp src b s).Keeps s := by
  refine .next ?_
  split
  · exact s.bandTake_kept _ _ _ _ (.refl _) fun u hu => .state_ite (fun _ => hu) fun _ => by simp [hu]
  · exact .refl _

theorem execPowerTake_kept (zp : ZPort) (src : Nat) (b : BandMsg) (s : State) :
    (execPowerTake zp src b s).Keeps s := by
  refine .next ?_
  split
  · exact s.bandTake_kept _ _ _ _ (.refl _) fun u hu => .state_ite (fun _ => hu) fun _ => by simp [hu]
  · exact .refl _

theorem execPowerGoodFall_kept (lowNs : Nat) (s : State) : (execPowerGoodFall lowNs s).Keeps s :=
  .next <| .state_ite (fun _ => .refl _) fun _ => ⟨rfl, fun _ => rfl⟩

theorem execWharfFailure_kept (s : State) : (execWharfFailure s).Keeps s := by
  refine .next <| .state_ite (fun _ => .refl _) fun _ => ?_
  rw [State.latchStatus_trunk, State.enterStage_trunk]
  exact ⟨rfl, fun _ => rfl⟩

theorem State.takeFind_trunk (s : State) (f : Stage2Find) : (s.takeFind f).trunk = s.trunk := by
  simp only [State.takeFind, State.trunk]

theorem State.fenceFound_kept {c₀ : Trunk} (s : State) (hc : TrunkKept c₀ s.trunk) :
    TrunkKept c₀ s.fenceFound.trunk := by
  refine kept_foldl _ _ _ _ (fun u d => .state_ite (fun _ => by simp) fun _ => .refl _) (kept_foldl _ _ _ _ (fun u k => ?_) hc)
  unfold State.fenceCut
  split <;> simp

theorem State.holdAt_kept {c₀ : Trunk} (s : State) (base : Nat) (hc : TrunkKept c₀ s.trunk) :
    TrunkKept c₀ (s.holdAt base).trunk := by
  refine (s.zero_kept (fun a => base ≤ a && a < base + 2 * halfHold) hc).of_eq ?_
  unfold State.holdAt
  rw [State.enterStage_trunk, State.setMeas_trunk]
  simp only [State.trunk]

theorem execStage2_kept (f : Stage2Find) (s : State) : (execStage2 f s).Keeps s := by
  by_cases h : s.boot.stage ≠ 1 || s.boot.failed || s.boot.wharfFailed
  · exact ⟨s, congrArg Host.Outcome.next (if_pos h), .refl _⟩
  · simp only [ne_eq, Bool.or_eq_true, decide_eq_true_eq, not_or, not_not, Bool.not_eq_true] at h
    obtain ⟨⟨h1, h2⟩, h3⟩ := h
    show Out.Keeps (exec (.stage2 f) s) s
    rw [exec_stage2 s f h1 h2 h3]
    refine .next <| .state_ite (fun _ => ?_) fun _ => ?_
    · exact .of_trunk ((State.failStage_trunk (s.takeFind f) 3).trans (s.takeFind_trunk f))
    · have hu : TrunkKept s.trunk ((s.takeFind f).fenceFound.trainStacks f).trunk :=
        (State.fenceFound_kept (s.takeFind f) (.of_trunk (s.takeFind_trunk f))).of_eq (State.trainStacks_trunk (s.takeFind f).fenceFound f)
      generalize (s.takeFind f).fenceFound.trainStacks f = v at hu ⊢
      refine .state_ite (fun _ => hu.of_eq ((State.failStage_trunk ..).trans (State.free_trunk ..))) fun _ => ?_
      cases v.findHold with
      | none => exact hu.of_eq (State.failStage_trunk ..)
      | some base => exact v.holdAt_kept _ hu

theorem execClearFaults_kept (s : State) : (execClearFaults s).Keeps s :=
  .next <| .of_trunk <| s.smbus_trunk _ fun u => by simp
theorem execUnsupportedCommand_kept (code : BitVec 8) (s : State) :
    (execUnsupportedCommand code s).Keeps s :=
  .next <| .state_ite (fun _ => .refl _) fun _ => .of_trunk <| s.smbus_trunk _ fun u => by simp
theorem execAlertResponse_kept (s : State) : (execAlertResponse s).Keeps s :=
  .next <| .of_trunk <| s.smbus_trunk _ fun u => by split <;> simp

theorem execStintOccurrence_kept (index cycle ready late : Nat) (s : State) :
    (execStintOccurrence index cycle ready late s).Keeps s := by
  refine .next <| .of_trunk ?_
  split
  · rfl
  · next t _ =>
    split
    · rfl
    · split
      · exact State.updStint_trunk ..
      · dsimp only
        have hj : ∀ (v : State) (n : Nat), (match nextHop s.table t with
            | some j => v.updStint j fun x => { x with queued := x.queued + n }
            | none => v).trunk = v.trunk := fun v n => by split <;> simp
        refine State.trunk_of_ite (fun _ => ?_) fun _ => ?_
        · exact (State.updPol_trunk ..).trans ((hj _ _).trans (State.updStint_trunk ..))
        · exact (State.delayRuns_trunk ..).trans ((State.updPol_trunk ..).trans ((hj _ _).trans (State.updStint_trunk ..)))

theorem execSieve8Encode_kept (d : Die) (r : Sieve8) (s : State) : (execSieve8Encode d r s).Keeps s := by
  refine .next <| .of_trunk ?_
  dsimp only
  split
  · rfl
  · next seq _ _ =>
    split
    · rfl
    · split
      · rfl
      · have hres := s.residualLines_trunk (EngineRef.station 2 d.val r.pol seq) r.pol seq
          ((List.range (ceilDiv (4 * r.g.length) 1024)).map fun i =>
            leAt r.record 16 8 % 2 ^ 45 / 65536 * 65536 + 262144 * r.tile + 1024 * i)
        generalize s.residualLines _ _ _ _ = x at hres ⊢
        obtain ⟨rd, wr, u⟩ := x
        have hu : u.trunk = s.trunk := hres
        dsimp only
        split
        · exact hu
        · split
          · exact hu
          · split
            · next h => exact (congrArg (fun x => x.2.trunk) h).symm.trans ((State.readRecord_trunk ..).trans hu)
            · exact hu
            · next bad v h =>
              have hv : v.trunk = s.trunk := (congrArg (fun x => x.2.trunk) h).symm.trans ((State.readRecord_trunk ..).trans hu)
              split
              · exact hu
              · split
                · simp [hv]
                · simp [hv]

end Sys2Proof.Machine

end


section
/-! SUPPORT. Commands that keep the queue and memory: those made of the functions above. -/

namespace Sys2Proof.Machine

open Sys2Proof

theorem execWalkerFreed_kept (k : Keel) (s : State) : (execWalkerFreed k s).Keeps s := by
  unfold execWalkerFreed
  split <;> simp

theorem execTranslationMiss_kept (id : Nat) (s : State) : (execTranslationMiss id s).Keeps s := by
  unfold execTranslationMiss
  split <;> simp

theorem execMissEntryFreed_kept (s : State) : (execMissEntryFreed s).Keeps s := by
  unfold execMissEntryFreed
  split <;> simp

theorem execLandEdit_kept (a : RegAcc) (s : State) : (execLandEdit a s).Keeps s := by
  unfold execLandEdit
  split <;> simp

theorem execLandEditComplete_kept (port : Port) (s : State) : (execLandEditComplete port s).Keeps s := by
  simp [execLandEditComplete]

theorem execLandResume_kept (a : RegAcc) (s : State) : (execLandResume a s).Keeps s := by
  unfold execLandResume
  split <;> simp

theorem execLandHwinLock_kept (a : RegAcc) (s : State) : (execLandHwinLock a s).Keeps s := by
  unfold execLandHwinLock
  split <;> simp

theorem execLandWalk_kept (id : Nat) (s : State) : (execLandWalk id s).Keeps s := by
  simp only [execLandWalk]
  repeat' split
  all_goals simp

theorem execLandAbort_kept (a : RegAcc) (s : State) : (execLandAbort a s).Keeps s := by
  refine .next ?_
  split
  · refine .state_ite (fun _ => ?_) fun _ => .refl _
    exact kept_foldl _ _ _ _ (fun u p => u.retryRecords_kept p (.refl _)) (.of_trunk (s.landResumeWrite_trunk ..))
  · exact .refl _

theorem execReferenceUpdate_kept (offset : Int) (s : State) : (execReferenceUpdate offset s).Keeps s := by
  simp only [execReferenceUpdate]
  repeat' split
  all_goals simp

theorem execReferenceMissing_kept (s : State) : (execReferenceMissing s).Keeps s := by
  simp [execReferenceMissing]

theorem execAlmCtlWrite_kept (a : RegAcc) (s : State) : (execAlmCtlWrite a s).Keeps s := by
  simp [execAlmCtlWrite]

theorem execAlmLock_kept (a : RegAcc) (s : State) : (execAlmLock a s).Keeps s := by
  simp [execAlmLock]

theorem execAlmStep_kept (a : RegAcc) (s : State) : (execAlmStep a s).Keeps s := by
  simp [execAlmStep]

theorem execAlmNowRead_kept (src : Src) (size half : Nat) (s : State) : (execAlmNowRead src size half s).Keeps s := by
  simp [execAlmNowRead]

theorem execPpsOutRise_kept (s : State) : (execPpsOutRise s).Keeps s := by
  simp [execPpsOutRise]

theorem execPpsOutFall_kept (s : State) : (execPpsOutFall s).Keeps s := by
  simp [execPpsOutFall]

theorem execPtmRequest_kept (port : Port) (s : State) : (execPtmRequest port s).Keeps s := by
  simp [execPtmRequest]

theorem execTideBoundary_kept (s : State) : (execTideBoundary s).Keeps s := by
  simp [execTideBoundary]

theorem execAlmStepApply_kept (s : State) : (execAlmStepApply s).Keeps s := by
  simp [execAlmStepApply]

theorem execBinRead_kept (d : Die) (p : Pol) (line : Nat) (need : BitVec 8) (hint : Nat) (s : State) :
    (execBinRead d p line need hint s).Keeps s := by
  simp [execBinRead]

theorem execHoldExpiry_kept (d : Die) (line : Nat) (p : Pol) (s : State) : (execHoldExpiry d line p s).Keeps s := by
  unfold execHoldExpiry
  split <;> simp

theorem execMringBaseWrite_kept (p : Pol) (a : RegAcc) (s : State) : (execMringBaseWrite p a s).Keeps s := by
  simp [execMringBaseWrite]

theorem execMringEnable_kept (p : Pol) (a : RegAcc) (s : State) : (execMringEnable p a s).Keeps s := by
  simp [execMringEnable]

theorem execMringDisable_kept (p : Pol) (a : RegAcc) (s : State) : (execMringDisable p a s).Keeps s := by
  simp [execMringDisable]

theorem execFbCfgWrite_kept (p : Pol) (a : RegAcc) (s : State) : (execFbCfgWrite p a s).Keeps s := by
  simp [execFbCfgWrite]

theorem execPickup_kept (p : Pol) (s : State) : (execPickup p s).Keeps s := by
  refine .next ?_
  split
  · next tb cycle _ _ =>
    refine .state_ite (fun _ => .refl _) fun _ => ?_
    have hu : TrunkKept s.trunk (((s.advanceTo (tb + cycle)).updPol p.val fun q =>
        { q with pickedTide := some tb, takenNow := 0 }).readmit p.val tb).trunk := by simp
    have ht := State.takeSlots_kept _ p.val tb 4 (State.retryRecords_kept _ p.val hu)
    exact .state_ite (fun _ => ht) fun _ => State.writeHeader_kept _ _ _ ht
  · exact .refl _

theorem execManifestStart_kept (p : Pol) (s : State) : (execManifestStart p s).Keeps s := by
  refine .next ?_
  split
  · exact .state_ite (fun _ => .refl _) fun _ => .state_ite (fun _ => by simp) fun _ => by simp
  · exact .refl _

theorem execFreeboardLow_kept (p : Pol) (seq : Nat) (s : State) : (execFreeboardLow p seq s).Keeps s := by
  simp [execFreeboardLow]

theorem execDeadlineMiss_kept (p : Pol) (seq : Nat) (s : State) : (execDeadlineMiss p seq s).Keeps s := by
  simp [execDeadlineMiss]

theorem execStreamTileComplete_kept (p : Pol) (seq stream : Nat) (delays : Causes) (s : State) :
    (execStreamTileComplete p seq stream delays s).Keeps s := by
  simp only [execStreamTileComplete]
  repeat' split
  all_goals simp

theorem execManifestComplete_kept (p : Pol) (seq : Nat) (s : State) : (execManifestComplete p seq s).Keeps s := by
  simp only [execManifestComplete]
  repeat' split
  all_goals simp

theorem execMillClockLoss_kept (d : Die) (s : State) : (execMillClockLoss d s).Keeps s := by
  simp [execMillClockLoss]

theorem execForwardingPathLoss_kept (k : Keel) (join : Fin 8) (s : State) :
    (execForwardingPathLoss k join s).Keeps s := by
  simp [execForwardingPathLoss]

theorem execBundleDead_kept (bundle : Nat) (s : State) : (execBundleDead bundle s).Keeps s := by
  simp [execBundleDead]

theorem execUncorrectableError_kept (part : Part) (s : State) : (execUncorrectableError part s).Keeps s := by
  simp only [execUncorrectableError]
  repeat' split
  all_goals simp

theorem execMemoryUe_kept (level : Nat) (d : Die) (line : Nat) (sectors : BitVec 8) (s : State) :
    (execMemoryUe level d line sectors s).Keeps s := by
  simp only [execMemoryUe]
  repeat' split
  all_goals simp

theorem execBundleReplay_kept (bundle : Nat) (p : Pol) (ok : Bool) (hit : Transfer) (s : State) :
    (execBundleReplay bundle p ok hit s).Keeps s := by
  refine .next <| .state_ite (fun _ => .refl _) fun _ => .state_ite (fun _ => by simp) fun _ => ?_
  exact .state_ite (fun _ => State.bundleFails_kept _ _ (by simp)) fun _ => by simp

theorem execMillReset_kept (d : Die) (a : RegAcc) (clockOk : Bool) (faults : List LaneFault) (s : State) :
    (execMillReset d a clockOk faults s).Keeps s := by
  unfold execMillReset
  split <;> simp

theorem execDieReturned_kept (d : Die) (s : State) : (execDieReturned d s).Keeps s := by
  unfold execDieReturned
  split <;> simp

theorem execGranaryEviction_kept (k : Keel) (set way : Nat) (s : State) :
    (execGranaryEviction k set way s).Keeps s := by
  simp [execGranaryEviction]

theorem execHomeNoncachingRead_kept (id : Nat) (s : State) : (execHomeNoncachingRead id s).Keeps s := by
  simp [execHomeNoncachingRead]

theorem execHomeNoncachingWrite_kept (id : Nat) (s : State) : (execHomeNoncachingWrite id s).Keeps s := by
  simp [execHomeNoncachingWrite]

theorem execTrackerFreed_kept (k : Keel) (s : State) : (execTrackerFreed k s).Keeps s := by
  simp only [execTrackerFreed]
  repeat' split
  all_goals simp

theorem execHbmRead_kept (k : Keel) (line : Nat) (s : State) : (execHbmRead k line s).Keeps s := by
  unfold execHbmRead
  split <;> simp

theorem execHbmRefresh_kept (i : StackId) (pc : Fin 64) (s : State) : (execHbmRefresh i pc s).Keeps s := by
  simp [execHbmRefresh]

theorem execStackTempRead_kept (i : StackId) (c : Nat) (s : State) : (execStackTempRead i c s).Keeps s := by
  simp [execStackTempRead]

theorem execRefreshRateFallback_kept (i : StackId) (s : State) : (execRefreshRateFallback i s).Keeps s := by
  simp [execRefreshRateFallback]

theorem execStackCeilingRelease_kept (i : StackId) (s : State) : (execStackCeilingRelease i s).Keeps s := by
  simp [execStackCeilingRelease]

theorem execEventEdge_kept (s : State) : (execEventEdge s).Keeps s := by
  unfold execEventEdge
  split <;> simp

theorem execSluiceRelease_kept (cls : Fin 2) (p : Pol) (source : Nat) (s : State) :
    (execSluiceRelease cls p source s).Keeps s := by
  unfold execSluiceRelease
  split <;> simp

theorem execDaybookRecordWrite_kept (cls : Fin 2) (s : State) : (execDaybookRecordWrite cls s).Keeps s := by
  simp only [execDaybookRecordWrite]
  repeat' split
  all_goals simp

theorem execDaybookEnable_kept (p : Pol) (cls : Fin 2) (a : RegAcc) (s : State) :
    (execDaybookEnable p cls a s).Keeps s := by
  simp [execDaybookEnable]

theorem execDaybookDisable_kept (p : Pol) (cls : Fin 2) (a : RegAcc) (s : State) :
    (execDaybookDisable p cls a s).Keeps s := by
  simp [execDaybookDisable]

theorem execDaybookConsWrite_kept (p : Pol) (cls : Fin 2) (a : RegAcc) (s : State) :
    (execDaybookConsWrite p cls a s).Keeps s := by
  simp [execDaybookConsWrite]

theorem execDaybookOverflow_kept (p : Pol) (cls : Fin 2) (s : State) : (execDaybookOverflow p cls s).Keeps s := by
  simp [execDaybookOverflow]

theorem execPolderFenced_kept (p : Pol) (cls : Fin 2) (s : State) : (execPolderFenced p cls s).Keeps s := by
  simp (disch := simp) [execPolderFenced]

theorem execHostBar2Read_kept (src : Src) (off len : Nat) (s : State) : (execHostBar2Read src off len s).Keeps s := by
  simp only [execHostBar2Read]
  repeat' split
  all_goals simp

theorem execHostBar2Write_kept (src : Src) (off : Nat) (data : List Byte) (ep : Bool) (s : State) :
    (execHostBar2Write src off data ep s).Keeps s := by
  simp only [execHostBar2Write]
  repeat' split
  all_goals simp

theorem execHostCompletion_kept (port : Port) (tag : Nat) (data : List Byte) (status : Nat) (ep : Bool) (s : State) :
    (execHostCompletion port tag data status ep s).Keeps s := by
  simp only [execHostCompletion]
  repeat' split
  all_goals simp

theorem execHostTimeout_kept (port : Port) (tag : Nat) (s : State) : (execHostTimeout port tag s).Keeps s := by
  unfold execHostTimeout
  split <;> simp

theorem execFreezeEffect_kept (p : Pol) (s : State) : (execFreezeEffect p s).Keeps s := by
  simp [execFreezeEffect]

theorem execFreezeComplete_kept (p : Pol) (s : State) : (execFreezeComplete p s).Keeps s := by
  simp [execFreezeComplete]

theorem execThawEffect_kept (p : Pol) (s : State) : (execThawEffect p s).Keeps s := by
  simp [execThawEffect]

theorem execPolOpen_kept (p : Pol) (a : RegAcc) (s : State) : (execPolOpen p a s).Keeps s := by
  simp [execPolOpen]

theorem execPolClose_kept (p : Pol) (a : RegAcc) (s : State) : (execPolClose p a s).Keeps s := by
  simp [execPolClose]

theorem execPolBump_kept (p : Pol) (a : RegAcc) (s : State) : (execPolBump p a s).Keeps s := by
  simp [execPolBump]

theorem execPolFreeze_kept (p : Pol) (a : RegAcc) (s : State) : (execPolFreeze p a s).Keeps s := by
  simp [execPolFreeze]

theorem execPolThaw_kept (p : Pol) (a : RegAcc) (s : State) : (execPolThaw p a s).Keeps s := by
  simp [execPolThaw]

theorem execPolSave_kept (p : Pol) (a : RegAcc) (s : State) : (execPolSave p a s).Keeps s := by
  simp [execPolSave]

theorem execPolRestore_kept (p : Pol) (a : RegAcc) (s : State) : (execPolRestore p a s).Keeps s := by
  simp [execPolRestore]

theorem execPolCmdRefused_kept (p : Pol) (a : RegAcc) (s : State) : (execPolCmdRefused p a s).Keeps s := by
  simp [execPolCmdRefused]

theorem execMsixEntryWrite_kept (port : Port) (fn : Fin 32) (off size : Nat) (value : Word) (s : State) :
    (execMsixEntryWrite port fn off size value s).Keeps s := by
  simp [execMsixEntryWrite]

theorem execMsixUnmask_kept (port : Port) (fn : Fin 32) (vector : Nat) (s : State) :
    (execMsixUnmask port fn vector s).Keeps s := by
  simp [execMsixUnmask]

theorem execD3hotEntry_kept (port : Port) (fn : Fin 32) (s : State) : (execD3hotEntry port fn s).Keeps s := by
  simp [execD3hotEntry]

theorem execD0Return_kept (port : Port) (fn : Fin 32) (s : State) : (execD0Return port fn s).Keeps s := by
  simp [execD0Return]

theorem execVfEnable_kept (port : Port) (numVfs : Nat) (s : State) : (execVfEnable port numVfs s).Keeps s := by
  simp [execVfEnable]

theorem execVfDisable_kept (port : Port) (s : State) : (execVfDisable port s).Keeps s := by
  simp [execVfDisable]

theorem execBarResize_kept (port : Port) (vf : Bool) (sizeLog : Nat) (s : State) :
    (execBarResize port vf sizeLog s).Keeps s := by
  simp [execBarResize]

theorem execPortReset_kept (port : Port) (kind : ResetKind) (s : State) : (execPortReset port kind s).Keeps s := by
  unfold execPortReset
  split <;> simp

theorem execRefclkLoss_kept (port : Port) (s : State) : (execRefclkLoss port s).Keeps s := by
  simp [execRefclkLoss]

theorem execPfFlr_kept (port : Port) (s : State) : (execPfFlr port s).Keeps s := by
  simp [execPfFlr]

theorem execVfFlr_kept (port : Port) (n : Fin 32) (s : State) : (execVfFlr port n s).Keeps s := by
  simp [execVfFlr]

theorem execResetComplete_kept (port : Port) (s : State) : (execResetComplete port s).Keeps s := by
  simp only [execResetComplete]
  repeat' split
  all_goals simp

theorem execPerstRelease_kept (port : Port) (s : State) : (execPerstRelease port s).Keeps s := by
  simp [execPerstRelease]

theorem execPcieLinkUp_kept (port : Port) (rate width : Nat) (flit : Bool) (s : State) :
    (execPcieLinkUp port rate width flit s).Keeps s := by
  simp [execPcieLinkUp]

theorem execL0pWidthChange_kept (port : Port) (width : Nat) (s : State) :
    (execL0pWidthChange port width s).Keeps s := by
  simp [execL0pWidthChange]

theorem execDoeDiscovery_kept (port : Port) (index : Nat) (s : State) : (execDoeDiscovery port index s).Keeps s := by
  simp [execDoeDiscovery]

theorem execAttestReport_kept (port : Port) (request : List Byte) (s : State) :
    (execAttestReport port request s).Keeps s := by
  simp [execAttestReport]

theorem execAttestCertificate_kept (port : Port) (s : State) : (execAttestCertificate port s).Keeps s := by
  simp [execAttestCertificate]

theorem execFeatureOffer_kept (port : Port) (s : State) : (execFeatureOffer port s).Keeps s := by
  simp [execFeatureOffer]

theorem execFeatureAccept_kept (port : Port) (word : Word) (s : State) : (execFeatureAccept port word s).Keeps s := by
  simp [execFeatureAccept]

theorem execDoeCharter_kept (port : Port) (s : State) : (execDoeCharter port s).Keeps s := by
  simp [execDoeCharter]

theorem execDoeAbort_kept (port : Port) (s : State) : (execDoeAbort port s).Keeps s := by
  simp [execDoeAbort]

theorem execConfigRequest_kept (port : Port) (fn : Fin 32) (write : Bool) (off : Nat) (value : BitVec 32)
    (be : BitVec 4)
    (s : State) : (execConfigRequest port fn write off value be s).Keeps s := by
  refine .next <| .state_ite (fun _ => .refl _) fun _ => .state_ite (fun _ => by simp) fun _ => ?_
  exact .state_ite (fun _ => by simp) fun _ => by simp

theorem execPorterTileStaged_kept (p : Pol) (seq stream : Nat) (s : State) :
    (execPorterTileStaged p seq stream s).Keeps s := by
  simp only [execPorterTileStaged]
  repeat' split
  all_goals simp

theorem execCreditReturn_kept (p : Pol) (seq stream : Nat) (s : State) :
    (execCreditReturn p seq stream s).Keeps s := by
  simp only [execCreditReturn]
  repeat' split
  all_goals simp

theorem execCaskDecode_kept (d : Die) (p : Pol) (seq stream group : Nat) (s : State) :
    (execCaskDecode d p seq stream group s).Keeps s := by
  simp only [execCaskDecode]
  repeat' split
  all_goals simp

theorem execCaskEncode_kept (d : Die) (p : Pol) (seq stream group : Nat) (bytes : List Byte) (s : State) :
    (execCaskEncode d p seq stream group bytes s).Keeps s := by
  simp only [execCaskEncode]
  repeat' split
  all_goals simp

theorem execPrefetch_kept (p : Pol) (seq stepNo : Nat) (s : State) : (execPrefetch p seq stepNo s).Keeps s := by
  simp [execPrefetch]

theorem execFlush_kept (p : Pol) (seq stepNo : Nat) (s : State) : (execFlush p seq stepNo s).Keeps s := by
  simp [execFlush]

theorem execCleanInvalidate_kept (p : Pol) (seq stepNo : Nat) (s : State) :
    (execCleanInvalidate p seq stepNo s).Keeps s := by
  simp [execCleanInvalidate]

theorem execDiscard_kept (p : Pol) (seq stepNo : Nat) (s : State) : (execDiscard p seq stepNo s).Keeps s := by
  simp [execDiscard]

theorem execGemmOutputStationary_kept (d : Die) (index : Nat) (g : Gemm) (s : State) :
    (execGemmOutputStationary d index g s).Keeps s := by
  simp [execGemmOutputStationary]

theorem execGemmWeightStationary_kept (d : Die) (index : Nat) (g : Gemm) (s : State) :
    (execGemmWeightStationary d index g s).Keeps s := by
  simp [execGemmWeightStationary]

theorem execBatchedGemv_kept (d : Die) (tiles : BitVec 16) (g : Gemm) (s : State) :
    (execBatchedGemv d tiles g s).Keeps s := by
  simp only [execBatchedGemv]
  repeat' split
  all_goals simp

theorem execMillModeChange_kept (d : Die) (mode : MillMode) (index : Nat) (s : State) :
    (execMillModeChange d mode index s).Keeps s := by
  simp [execMillModeChange]

theorem execWeirLevelChange_kept (d : Die) (s : State) : (execWeirLevelChange d s).Keeps s := by
  simp [execWeirLevelChange]

theorem execLadderRung_kept (d : Die) (tile : Fin 16) (s : State) : (execLadderRung d tile s).Keeps s := by
  simp [execLadderRung]

theorem execCapLimitWrite_kept (a : RegAcc) (s : State) : (execCapLimitWrite a s).Keeps s := by
  unfold execCapLimitWrite
  split <;> simp

theorem execPwrCapLock_kept (a : RegAcc) (s : State) : (execPwrCapLock a s).Keeps s := by
  unfold execPwrCapLock
  split <;> simp

theorem execInputRange_kept (volts : Nat) (s : State) : (execInputRange volts s).Keeps s := by
  simp [execInputRange]

theorem execInputPowerLoss_kept (volts : Nat) (s : State) : (execInputPowerLoss volts s).Keeps s := by
  simp (disch := simp) [execInputPowerLoss]

theorem execPowerSample_kept (volts amps : Nat) (mills : List Nat) (s : State) :
    (execPowerSample volts amps mills s).Keeps s := by
  simp [execPowerSample]

theorem execDieTempRead_kept (i : Fin 13) (c : Nat) (s : State) : (execDieTempRead i c s).Keeps s := by
  simp (disch := simp) [execDieTempRead]

theorem execThermalCeilingStep_kept (i : Fin 13) (s : State) : (execThermalCeilingStep i s).Keeps s := by
  simp [execThermalCeilingStep]

theorem execStepDown_kept (d : Die) (s : State) : (execStepDown d s).Keeps s := by
  simp only [execStepDown]
  repeat' split
  all_goals simp

theorem execStepUp_kept (d : Die) (s : State) : (execStepUp d s).Keeps s := by
  simp [execStepUp]

theorem execVoltageSettled_kept (d : Die) (s : State) : (execVoltageSettled d s).Keeps s := by
  unfold execVoltageSettled
  split <;> simp

theorem execDroop_kept (d : Die) (detector : Fin 32) (s : State) : (execDroop d detector s).Keeps s := by
  simp [execDroop]

theorem execDroopResume_kept (d : Die) (tile : Fin 16) (s : State) : (execDroopResume d tile s).Keeps s := by
  simp [execDroopResume]

theorem execLaserLost_kept (e : Engine) (s : State) : (execLaserLost e s).Keeps s := by
  simp [execLaserLost]

theorem execLightRestored_kept (e : Engine) (s : State) : (execLightRestored e s).Keeps s := by
  simp [execLightRestored]

theorem execOeShutdown_kept (e : Engine) (a : RegAcc) (s : State) : (execOeShutdown e a s).Keeps s := by
  unfold execOeShutdown
  split <;> simp

theorem execOeShutdownClear_kept (e : Engine) (a : RegAcc) (s : State) : (execOeShutdownClear e a s).Keeps s := by
  unfold execOeShutdownClear
  split <;> simp

theorem execOeTempRead_kept (e : Engine) (c : Nat) (s : State) : (execOeTempRead e c s).Keeps s := by
  simp [execOeTempRead]

theorem execLinkTraining_kept (zp : ZPort) (s : State) : (execLinkTraining zp s).Keeps s := by
  simp [execLinkTraining]

theorem execLinkUp_kept (zp : ZPort) (f : TrainFind) (s : State) : (execLinkUp zp f s).Keeps s := by
  simp [execLinkUp]

theorem execLinkDown_kept (zp : ZPort) (s : State) : (execLinkDown zp s).Keeps s := by
  simp [execLinkDown]

theorem execRetrain_kept (zp : ZPort) (a : RegAcc) (s : State) : (execRetrain zp a s).Keeps s := by
  simp [execRetrain]

theorem execZlPortOff_kept (zp : ZPort) (a : RegAcc) (s : State) : (execZlPortOff zp a s).Keeps s := by
  simp [execZlPortOff]

theorem execZlPortOn_kept (zp : ZPort) (a : RegAcc) (s : State) : (execZlPortOn zp a s).Keeps s := by
  simp [execZlPortOn]

theorem execZlPortLock_kept (zp : ZPort) (a : RegAcc) (s : State) : (execZlPortLock zp a s).Keeps s := by
  simp [execZlPortLock]

theorem execPortLimit_kept (zp : ZPort) (s : State) : (execPortLimit zp s).Keeps s := by
  refine .next ?_
  dsimp only
  split
  · exact .refl _
  · refine .state_ite (fun _ => .refl _) fun _ => ?_
    rw [State.updLink_trunk]
    refine kept_foldl _ _ _ _ (fun u p => ?_) (.refl _)
    rw [State.raiseOwn_trunk]
    exact kept_fenceRuns _ _ _ _ (.refl _)

theorem execLinkSlot_kept (zp : ZPort) (s : State) : (execLinkSlot zp s).Keeps s := by
  simp [execLinkSlot]

theorem execFlitReceive_kept (zp : ZPort) (flit : List Byte) (corrected : Nat) (uncorrected : Bool) (s : State) :
    (execFlitReceive zp flit corrected uncorrected s).Keeps s := by
  simp only [execFlitReceive]
  repeat' split
  all_goals simp

theorem execNakRepeat_kept (zp : ZPort) (s : State) : (execNakRepeat zp s).Keeps s := by
  simp [execNakRepeat]

theorem execFlitRelease_kept (zp : ZPort) (s : State) : (execFlitRelease zp s).Keeps s := by
  simp only [execFlitRelease]
  repeat' split
  all_goals simp

theorem execAlmSyncSend_kept (zp : ZPort) (s : State) : (execAlmSyncSend zp s).Keeps s := by
  simp [execAlmSyncSend]

theorem execAlmExchangeMissing_kept (zp : ZPort) (s : State) : (execAlmExchangeMissing zp s).Keeps s := by
  simp [execAlmExchangeMissing]

theorem execCollectiveTimeout_kept (p : Pol) (seq : Nat) (stepNo : Nat) (s : State) :
    (execCollectiveTimeout p seq stepNo s).Keeps s := by
  simp only [execCollectiveTimeout]
  repeat' split
  all_goals simp

theorem execZlCommonsLock_kept (a : RegAcc) (s : State) : (execZlCommonsLock a s).Keeps s := by
  unfold execZlCommonsLock
  split <;> simp

theorem execPowerEpoch_kept (s : State) : (execPowerEpoch s).Keeps s := by
  simp [execPowerEpoch]

theorem execPowerGoodRise_kept (straps : BitVec 10) (lowNs : Nat) (s : State) :
    (execPowerGoodRise straps lowNs s).Keeps s := by
  simp [execPowerGoodRise]

theorem execModuleInsertion_kept (s : State) : (execModuleInsertion s).Keeps s := by
  simp (disch := simp) [execModuleInsertion]

theorem execStage1_kept (s : State) : (execStage1 s).Keeps s := by
  simp [execStage1]

theorem execImageLoadGo_kept (port : Port) (cut : Bool) (s : State) : (execImageLoadGo port cut s).Keeps s := by
  simp [execImageLoadGo]

theorem execConsent_kept (port : Port) (s : State) : (execConsent port s).Keeps s := by
  simp [execConsent]

theorem execStage3_kept (s : State) : (execStage3 s).Keeps s := by
  refine .next ?_
  split
  · exact .state_ite (fun _ => State.resetSteps_kept _ _ (by simp)) fun _ => by simp
  · exact .refl _

theorem execStage4_kept (s : State) : (execStage4 s).Keeps s := by
  simp [execStage4]

theorem execQuayWrite_kept (q : Quay) (e : List Byte) (s : State) : (execQuayWrite q e s).Keeps s := by
  simp [execQuayWrite]

theorem execQuayRead_kept (q : Quay) (s : State) : (execQuayRead q s).Keeps s := by
  simp only [execQuayRead]
  repeat' split
  all_goals simp

theorem execIcmp_kept (h : HandId) (i : FmtL) (s : State) : (execIcmp h i s).Keeps s := by
  simp [execIcmp]

theorem execFcmp_kept (h : HandId) (i : FmtL) (s : State) : (execFcmp h i s).Keeps s := by
  simp [execFcmp]

theorem execSel_kept (h : HandId) (i : FmtL) (s : State) : (execSel h i s).Keeps s := by
  simp (disch := simp) [execSel]

theorem execIop_kept (h : HandId) (i : FmtL) (s : State) : (execIop h i s).Keeps s := by
  simp (disch := simp) [execIop]

theorem execIopi_kept (h : HandId) (i : FmtI) (s : State) : (execIopi h i s).Keeps s := by
  simp (disch := simp) [execIopi]

theorem execFop_kept (h : HandId) (i : FmtL) (s : State) : (execFop h i s).Keeps s := by
  simp (disch := simp) [execFop]

theorem execFspec_kept (h : HandId) (i : FmtL) (s : State) : (execFspec h i s).Keeps s := by
  simp (disch := simp) [execFspec]

theorem execCvt_kept (h : HandId) (i : FmtL) (s : State) : (execCvt h i s).Keeps s := by
  simp (disch := simp) [execCvt]

theorem execXlane_kept (h : HandId) (i : FmtL) (s : State) : (execXlane h i s).Keeps s := by
  simp (disch := simp) [execXlane]

theorem execXu_kept (h : HandId) (i : FmtL) (s : State) : (execXu h i s).Keeps s := by
  simp only [execXu]
  repeat' split
  all_goals simp

theorem execUop_kept (h : HandId) (i : FmtU) (s : State) : (execUop h i s).Keeps s := by
  simp only [execUop]
  repeat' split
  all_goals simp

theorem execHmma_kept (h : HandId) (i : FmtX) (s : State) : (execHmma h i s).Keeps s := by
  simp only [execHmma]
  repeat' split
  all_goals simp

theorem execKernelStart_kept (p : Pol) (seq kernel : Nat) (s : State) : (execKernelStart p seq kernel s).Keeps s := by
  simp only [execKernelStart]
  repeat' split
  all_goals simp

theorem execTaskStart_kept (h : HandId) (s : State) : (execTaskStart h s).Keeps s := by
  simp only [execTaskStart]
  repeat' split
  all_goals simp

theorem execKernelEnd_kept (p : Pol) (seq kernel : Nat) (s : State) : (execKernelEnd p seq kernel s).Keeps s := by
  unfold execKernelEnd
  split <;> simp

theorem execBra_kept (h : HandId) (i : FmtB) (s : State) : (execBra h i s).Keeps s :=
  .next <| .state_ite (fun _ => .refl _) fun _ => .state_ite (fun _ => s.illegal_kept _ _ (.refl _)) fun _ =>
    .state_ite (fun _ => s.poisonConsumed_kept _ (.refl _)) fun _ => by simp

theorem execDivIf_kept (h : HandId) (i : FmtB) (s : State) : (execDivIf h i s).Keeps s :=
  .next <| .state_ite (fun _ => .refl _) fun _ => .state_ite (fun _ => s.poisonConsumed_kept _ (.refl _)) fun _ =>
    .state_ite (fun _ => s.handFault_kept _ _ _ _ (.refl _)) fun _ => by simp

theorem execDivElse_kept (h : HandId) (_i : FmtB) (s : State) : (execDivElse h _i s).Keeps s := by
  simp only [execDivElse]
  repeat' split
  all_goals simp

theorem execDivEndif_kept (h : HandId) (_i : FmtB) (s : State) : (execDivEndif h _i s).Keeps s := by
  simp only [execDivEndif]
  repeat' split
  all_goals simp

theorem execDivLoop_kept (h : HandId) (i : FmtB) (s : State) : (execDivLoop h i s).Keeps s := by
  simp (disch := simp) [execDivLoop]

theorem execDivBreak_kept (h : HandId) (i : FmtB) (s : State) : (execDivBreak h i s).Keeps s :=
  .next <| .state_ite (fun _ => .refl _) fun _ => .state_ite (fun _ => s.illegal_kept _ _ (.refl _)) fun _ =>
    .state_ite (fun _ => s.poisonConsumed_kept _ (.refl _)) fun _ => by simp

theorem execDivEndloop_kept (h : HandId) (_i : FmtB) (s : State) : (execDivEndloop h _i s).Keeps s := by
  simp only [execDivEndloop]
  repeat' split
  all_goals simp

theorem execSysEnd_kept (h : HandId) (_i : FmtS) (s : State) : (execSysEnd h _i s).Keeps s := by
  simp [execSysEnd]

theorem execSysExit_kept (h : HandId) (_i : FmtS) (s : State) : (execSysExit h _i s).Keeps s := by
  simp [execSysExit]

theorem execSysTrap_kept (h : HandId) (i : FmtS) (s : State) : (execSysTrap h i s).Keeps s := by
  simp [execSysTrap]

theorem execRdcyc_kept (h : HandId) (i : FmtS) (s : State) : (execRdcyc h i s).Keeps s := by
  simp [execRdcyc]

theorem execRdalm_kept (h : HandId) (i : FmtS) (s : State) : (execRdalm h i s).Keeps s := by
  simp [execRdalm]

theorem execNop_kept (h : HandId) (_i : FmtS) (s : State) : (execNop h _i s).Keeps s := by
  simp [execNop]

theorem execBarCrew_kept (h : HandId) (i : FmtS) (s : State) : (execBarCrew h i s).Keeps s := by
  simp [execBarCrew]

theorem execBarSet_kept (h : HandId) (i : FmtS) (s : State) : (execBarSet h i s).Keeps s := by
  simp [execBarSet]

theorem execBarrierRelease_kept (p : Pol) (seq kernel : Nat) (d : Die) (s : State) :
    (execBarrierRelease p seq kernel d s).Keeps s := by
  unfold execBarrierRelease
  split <;> simp

theorem execStrandedBarrier_kept (h : HandId) (s : State) : (execStrandedBarrier h s).Keeps s := by
  simp only [execStrandedBarrier]
  repeat' split
  all_goals simp

theorem execTallyWait_kept (h : HandId) (i : FmtS) (s : State) : (execTallyWait h i s).Keeps s := by
  simp (disch := simp) [execTallyWait]

theorem execTallySatisfied_kept (h : HandId) (s : State) : (execTallySatisfied h s).Keeps s := by
  simp only [execTallySatisfied]
  repeat' split
  all_goals simp

theorem execTallyRead_kept (h : HandId) (i : FmtS) (s : State) : (execTallyRead h i s).Keeps s := by
  simp [execTallyRead]

theorem execFenceRel_kept (h : HandId) (i : FmtS) (s : State) : (execFenceRel h i s).Keeps s := by
  simp [execFenceRel]

theorem execFenceAcq_kept (h : HandId) (i : FmtS) (s : State) : (execFenceAcq h i s).Keeps s := by
  simp [execFenceAcq]

theorem execFenceAcqrel_kept (h : HandId) (i : FmtS) (s : State) : (execFenceAcqrel h i s).Keeps s := by
  simp [execFenceAcqrel]

theorem execTake_kept (h : HandId) (i : FmtS) (s : State) : (execTake h i s).Keeps s := by
  simp only [execTake]
  repeat' split
  all_goals simp

theorem execTileDone_kept (h : HandId) (i : FmtS) (s : State) : (execTileDone h i s).Keeps s := by
  simp only [execTileDone]
  repeat' split
  all_goals simp

theorem execAlloc_kept (h : HandId) (i : FmtS) (s : State) : (execAlloc h i s).Keeps s := by
  simp only [execAlloc]
  repeat' split
  all_goals simp

theorem execPut_kept (h : HandId) (i : FmtS) (s : State) : (execPut h i s).Keeps s := by
  simp only [execPut]
  repeat' split
  all_goals simp

theorem execEnrol_kept (port : Port) (s : State) : (execEnrol port s).Keeps s := by
  simp [execEnrol]

theorem execRevoke_kept (port : Port) (s : State) : (execRevoke port s).Keeps s := by
  simp [execRevoke]

theorem execFwWrite_kept (port : Port) (s : State) : (execFwWrite port s).Keeps s := by
  simp [execFwWrite]

theorem execFwCommit_kept (port : Port) (s : State) : (execFwCommit port s).Keeps s := by
  simp [execFwCommit]

theorem execRegisterWrite_kept (src : Src) (off size : Nat) (value : Word) (s : State) :
    (execRegisterWrite src off size value s).Keeps s := by
  simp [execRegisterWrite]

theorem execLd_kept (h : HandId) (i : FmtM) (s : State) : (execLd h i s).Keeps s := by
  simp [execLd]

theorem execLds_kept (h : HandId) (i : FmtM) (s : State) : (execLds h i s).Keeps s := by
  simp [execLds]

theorem execHandMissFill_kept (h : HandId) (sector : Nat) (s : State) : (execHandMissFill h sector s).Keeps s := by
  simp only [execHandMissFill]
  repeat' split
  all_goals simp

theorem execSt_kept (h : HandId) (i : FmtM) (s : State) : (execSt h i s).Keeps s := by
  simp [execSt]

theorem execStDead_kept (h : HandId) (i : FmtM) (s : State) : (execStDead h i s).Keeps s := by
  simp [execStDead]

theorem execStl_kept (h : HandId) (i : FmtM) (s : State) : (execStl h i s).Keeps s := by
  simp [execStl]

theorem execAtoml_kept (h : HandId) (i : FmtM) (s : State) : (execAtoml h i s).Keeps s := by
  unfold execAtoml
  split <;> simp

theorem execIllegalInstruction_kept (h : HandId) (word : Word) (s : State) :
    (execIllegalInstruction h word s).Keeps s := by
  simp only [execIllegalInstruction]
  repeat' split
  all_goals simp

theorem execStatusWord_kept (s : State) : (execStatusWord s).Keeps s := by
  simp [execStatusWord]

theorem execStatusInput_kept (s : State) : (execStatusInput s).Keeps s := by
  simp [execStatusInput]

theorem execStatusTemperature_kept (s : State) : (execStatusTemperature s).Keeps s := by
  simp [execStatusTemperature]

theorem execStatusCml_kept (s : State) : (execStatusCml s).Keeps s := by
  simp [execStatusCml]

theorem execStatusMfrSpecific_kept (s : State) : (execStatusMfrSpecific s).Keeps s := by
  simp [execStatusMfrSpecific]

theorem execReadVin_kept (s : State) : (execReadVin s).Keeps s := by
  simp [execReadVin]

theorem execReadIin_kept (s : State) : (execReadIin s).Keeps s := by
  simp [execReadIin]

theorem execReadPin_kept (s : State) : (execReadPin s).Keeps s := by
  simp [execReadPin]

theorem execReadTemperature1_kept (s : State) : (execReadTemperature1 s).Keeps s := by
  simp [execReadTemperature1]

theorem execPmbusRevision_kept (s : State) : (execPmbusRevision s).Keeps s := by
  simp [execPmbusRevision]

theorem execMfrId_kept (s : State) : (execMfrId s).Keeps s := by
  simp [execMfrId]

theorem execMfrModel_kept (s : State) : (execMfrModel s).Keeps s := by
  simp [execMfrModel]

theorem execThermtripRelease_kept (s : State) : (execThermtripRelease s).Keeps s := by
  simp [execThermtripRelease]

theorem execVerifyGreedy_kept (d : Die) (v : VerifyOp) (s : State) : (execVerifyGreedy d v s).Keeps s := by
  simp [execVerifyGreedy]

theorem execVerifySample_kept (d : Die) (v : VerifyOp) (s : State) : (execVerifySample d v s).Keeps s := by
  simp [execVerifySample]

theorem execScaleOp_kept (d : Die) (p : Pol) (fn : ScaleFn) (xs : List Lane) (poison : Bool) (s : State) :
    (execScaleOp d p fn xs poison s).Keeps s := by
  simp [execScaleOp]

theorem execSieveOp_kept (d : Die) (p : Pol) (fn : SieveFn) (xs : List Lane) (poison : Bool) (s : State) :
    (execSieveOp d p fn xs poison s).Keeps s := by
  simp [execSieveOp]

theorem execCooperReduction_kept (d : Die) (p : Pol) (first : Bool) (fmt : Nat) (elems scales : List Nat)
    (poison : Bool) (s : State) :
    (execCooperReduction d p first fmt elems scales poison s).Keeps s := by
  simp only [execCooperReduction]
  repeat' split
  all_goals simp

end Sys2Proof.Machine

end


section
/-! OBLIGATIONS. The queue and memory: what every command, and so every step, keeps. -/

namespace Sys2Proof.Machine

open Sys2Proof

theorem exec_kept : ∀ (c : Instr) (s : State), Out.Keeps (exec c s) s
  | .powerGoodRise straps lowNs, s => execPowerGoodRise_kept straps lowNs s
  | .powerGoodFall lowNs, s => execPowerGoodFall_kept lowNs s
  | .moduleInsertion, s => execModuleInsertion_kept s
  | .stage1, s => execStage1_kept s
  | .stage2 f, s => execStage2_kept f s
  | .imageLoadGo port cut, s => execImageLoadGo_kept port cut s
  | .stage3, s => execStage3_kept s
  | .stage4, s => execStage4_kept s
  | .consent port, s => execConsent_kept port s
  | .referenceUpdate offset, s => execReferenceUpdate_kept offset s
  | .referenceMissing, s => execReferenceMissing_kept s
  | .almCtlWrite a, s => execAlmCtlWrite_kept a s
  | .almLock a, s => execAlmLock_kept a s
  | .almStep a, s => execAlmStep_kept a s
  | .almStepApply, s => execAlmStepApply_kept s
  | .almNowRead src size half, s => execAlmNowRead_kept src size half s
  | .ppsOutRise, s => execPpsOutRise_kept s
  | .ppsOutFall, s => execPpsOutFall_kept s
  | .ptmRequest port, s => execPtmRequest_kept port s
  | .tideBoundary, s => execTideBoundary_kept s
  | .pickup p, s => execPickup_kept p s
  | .manifestStart p, s => execManifestStart_kept p s
  | .streamTileComplete p seq stream delays, s => execStreamTileComplete_kept p seq stream delays s
  | .freeboardLow p seq, s => execFreeboardLow_kept p seq s
  | .deadlineMiss p seq, s => execDeadlineMiss_kept p seq s
  | .manifestComplete p seq, s => execManifestComplete_kept p seq s
  | .mringBaseWrite p a, s => execMringBaseWrite_kept p a s
  | .mringEnable p a, s => execMringEnable_kept p a s
  | .mringDisable p a, s => execMringDisable_kept p a s
  | .fbCfgWrite p a, s => execFbCfgWrite_kept p a s
  | .rcFieldRead src off size, s => execRcFieldRead_kept src off size s
  | .registerWrite src off size value, s => execRegisterWrite_kept src off size value s
  | .porterTileIssue p seq stream, s => execPorterTileIssue_kept p seq stream s
  | .porterTileStaged p seq stream, s => execPorterTileStaged_kept p seq stream s
  | .storeTileEmit p seq stream payload poison, s => execStoreTileEmit_kept p seq stream payload poison s
  | .creditReturn p seq stream, s => execCreditReturn_kept p seq stream s
  | .millModeChange d mode index, s => execMillModeChange_kept d mode index s
  | .gemmOutputStationary d index g, s => execGemmOutputStationary_kept d index g s
  | .gemmWeightStationary d index g, s => execGemmWeightStationary_kept d index g s
  | .batchedGemv d tiles g, s => execBatchedGemv_kept d tiles g s
  | .fusedAttentionPass d g, s => execFusedAttentionPass_kept d g s
  | .verifyGreedy d v, s => execVerifyGreedy_kept d v s
  | .verifySample d v, s => execVerifySample_kept d v s
  | .weirLevelChange d, s => execWeirLevelChange_kept d s
  | .ladderRung d tile, s => execLadderRung_kept d tile s
  | .scaleOp d p fn xs poison, s => execScaleOp_kept d p fn xs poison s
  | .sieveOp d p fn xs poison, s => execSieveOp_kept d p fn xs poison s
  | .sieve8Encode d r, s => execSieve8Encode_kept d r s
  | .cooperReduction d p first fmt elems scales poison, s => execCooperReduction_kept d p first fmt elems scales poison s
  | .caskDecode d p seq stream group, s => execCaskDecode_kept d p seq stream group s
  | .caskEncode d p seq stream group bytes, s => execCaskEncode_kept d p seq stream group bytes s
  | .kernelStart p seq kernel, s => execKernelStart_kept p seq kernel s
  | .taskStart h, s => execTaskStart_kept h s
  | .kernelEnd p seq kernel, s => execKernelEnd_kept p seq kernel s
  | .illegalInstruction h word, s => execIllegalInstruction_kept h word s
  | .iop h w, s => execIop_kept h w s
  | .iopi h w, s => execIopi_kept h w s
  | .icmp h w, s => execIcmp_kept h w s
  | .fop h w, s => execFop_kept h w s
  | .fcmp h w, s => execFcmp_kept h w s
  | .fspec h w, s => execFspec_kept h w s
  | .cvt h w, s => execCvt_kept h w s
  | .sel h w, s => execSel_kept h w s
  | .xlane h w, s => execXlane_kept h w s
  | .xu h w, s => execXu_kept h w s
  | .uop h w, s => execUop_kept h w s
  | .bra h w, s => execBra_kept h w s
  | .divIf h w, s => execDivIf_kept h w s
  | .divElse h w, s => execDivElse_kept h w s
  | .divEndif h w, s => execDivEndif_kept h w s
  | .divLoop h w, s => execDivLoop_kept h w s
  | .divBreak h w, s => execDivBreak_kept h w s
  | .divEndloop h w, s => execDivEndloop_kept h w s
  | .ld h w, s => execLd_kept h w s
  | .lds h w, s => execLds_kept h w s
  | .handMissFill h sector, s => execHandMissFill_kept h sector s
  | .st h w, s => execSt_kept h w s
  | .stDead h w, s => execStDead_kept h w s
  | .ldl h w, s => execLdl_kept h w s
  | .stl h w, s => execStl_kept h w s
  | .atom h w, s => execAtom_kept h w s
  | .atoml h w, s => execAtoml_kept h w s
  | .fenceRel h w, s => execFenceRel_kept h w s
  | .fenceAcq h w, s => execFenceAcq_kept h w s
  | .fenceAcqrel h w, s => execFenceAcqrel_kept h w s
  | .tallyWait h w, s => execTallyWait_kept h w s
  | .tallySatisfied h, s => execTallySatisfied_kept h s
  | .tallyRead h w, s => execTallyRead_kept h w s
  | .take h w, s => execTake_kept h w s
  | .tileDone h w, s => execTileDone_kept h w s
  | .alloc h w, s => execAlloc_kept h w s
  | .put h w, s => execPut_kept h w s
  | .hmma h w, s => execHmma_kept h w s
  | .barCrew h w, s => execBarCrew_kept h w s
  | .barSet h w, s => execBarSet_kept h w s
  | .barrierRelease p seq kernel d, s => execBarrierRelease_kept p seq kernel d s
  | .strandedBarrier h, s => execStrandedBarrier_kept h s
  | .sysEnd h w, s => execSysEnd_kept h w s
  | .sysExit h w, s => execSysExit_kept h w s
  | .sysTrap h w, s => execSysTrap_kept h w s
  | .rdcyc h w, s => execRdcyc_kept h w s
  | .rdalm h w, s => execRdalm_kept h w s
  | .nop h w, s => execNop_kept h w s
  | .stintOccurrence index cycle ready late, s => execStintOccurrence_kept index cycle ready late s
  | .bundleReplay bundle p ok hit, s => execBundleReplay_kept bundle p ok hit s
  | .quayWrite q e, s => execQuayWrite_kept q e s
  | .quayRead q, s => execQuayRead_kept q s
  | .binRead d p line need hint, s => execBinRead_kept d p line need hint s
  | .binWrite h, s => execBinWrite_kept h s
  | .granaryEviction k set way, s => execGranaryEviction_kept k set way s
  | .homeNoncachingRead id, s => execHomeNoncachingRead_kept id s
  | .homeNoncachingWrite id, s => execHomeNoncachingWrite_kept id s
  | .addToLine d p seq va ty addends, s => execAddToLine_kept d p seq va ty addends s
  | .prefetch p seq stepNo, s => execPrefetch_kept p seq stepNo s
  | .flush p seq stepNo, s => execFlush_kept p seq stepNo s
  | .cleanInvalidate p seq stepNo, s => execCleanInvalidate_kept p seq stepNo s
  | .discard p seq stepNo, s => execDiscard_kept p seq stepNo s
  | .trackerFreed k, s => execTrackerFreed_kept k s
  | .hbmRead k line, s => execHbmRead_kept k line s
  | .hbmWrite k line, s => execHbmWrite_kept k line s
  | .hbmRefresh w pc, s => execHbmRefresh_kept w pc s
  | .stackTempRead w c, s => execStackTempRead_kept w c s
  | .refreshRateFallback w, s => execRefreshRateFallback_kept w s
  | .stackCeilingRelease w, s => execStackCeilingRelease_kept w s
  | .gets m, s => execGets_kept m s
  | .getm m, s => execGetm_kept m s
  | .rdsec m, s => execRdsec_kept m s
  | .pute m, s => execPute_kept m s
  | .putm m, s => execPutm_kept m s
  | .puto m, s => execPuto_kept m s
  | .done m, s => execDone_kept m s
  | .invAck m, s => execInvAck_kept m s
  | .fwdAck m, s => execFwdAck_kept m s
  | .wbCross m, s => execWbCross_kept m s
  | .recallAck m, s => execRecallAck_kept m s
  | .fwdGets m, s => execFwdGets_kept m s
  | .fwdGetm m, s => execFwdGetm_kept m s
  | .inv m, s => execInv_kept m s
  | .recall m, s => execRecall_kept m s
  | .grant m, s => execGrant_kept m s
  | .dataH m, s => execDataH_kept m s
  | .dataF m, s => execDataF_kept m s
  | .putAck m, s => execPutAck_kept m s
  | .nackRd m, s => execNackRd_kept m s
  | .holdExpiry d line p, s => execHoldExpiry_kept d line p s
  | .landWalk id, s => execLandWalk_kept id s
  | .walkerFreed k, s => execWalkerFreed_kept k s
  | .translationMiss id, s => execTranslationMiss_kept id s
  | .missEntryFreed, s => execMissEntryFreed_kept s
  | .landEdit a, s => execLandEdit_kept a s
  | .landEditComplete port, s => execLandEditComplete_kept port s
  | .landResume a, s => execLandResume_kept a s
  | .landAbort a, s => execLandAbort_kept a s
  | .landHwinLock a, s => execLandHwinLock_kept a s
  | .hostWindowRead port p off len who, s => execHostWindowRead_kept port p off len who s
  | .hostWindowWrite port p off data poison, s => execHostWindowWrite_kept port p off data poison s
  | .hostCompletion port tag data status ep, s => execHostCompletion_kept port tag data status ep s
  | .hostTimeout port tag, s => execHostTimeout_kept port tag s
  | .portReset port kind, s => execPortReset_kept port kind s
  | .pfFlr port, s => execPfFlr_kept port s
  | .vfFlr port n, s => execVfFlr_kept port n s
  | .resetComplete port, s => execResetComplete_kept port s
  | .refclkLoss port, s => execRefclkLoss_kept port s
  | .configRequest port fn write off value be, s => execConfigRequest_kept port fn write off value be s
  | .d3hotEntry port fn, s => execD3hotEntry_kept port fn s
  | .d0Return port fn, s => execD0Return_kept port fn s
  | .hostBar2Read src off len, s => execHostBar2Read_kept src off len s
  | .hostBar2Write src off data ep, s => execHostBar2Write_kept src off data ep s
  | .barResize port vf sizeLog, s => execBarResize_kept port vf sizeLog s
  | .msixUnmask port fn vector, s => execMsixUnmask_kept port fn vector s
  | .msixEntryWrite port fn off size value, s => execMsixEntryWrite_kept port fn off size value s
  | .vfEnable port numVfs, s => execVfEnable_kept port numVfs s
  | .vfDisable port, s => execVfDisable_kept port s
  | .doeDiscovery port index, s => execDoeDiscovery_kept port index s
  | .attestReport port request, s => execAttestReport_kept port request s
  | .attestCertificate port, s => execAttestCertificate_kept port s
  | .featureOffer port, s => execFeatureOffer_kept port s
  | .featureAccept port word, s => execFeatureAccept_kept port word s
  | .doeCharter port, s => execDoeCharter_kept port s
  | .doeAbort port, s => execDoeAbort_kept port s
  | .polOpen p a, s => execPolOpen_kept p a s
  | .polClose p a, s => execPolClose_kept p a s
  | .polBump p a, s => execPolBump_kept p a s
  | .polFreeze p a, s => execPolFreeze_kept p a s
  | .freezeEffect p, s => execFreezeEffect_kept p s
  | .freezeComplete p, s => execFreezeComplete_kept p s
  | .polThaw p a, s => execPolThaw_kept p a s
  | .thawEffect p, s => execThawEffect_kept p s
  | .polSave p a, s => execPolSave_kept p a s
  | .polRestore p a, s => execPolRestore_kept p a s
  | .polCmdRefused p a, s => execPolCmdRefused_kept p a s
  | .laserLost e, s => execLaserLost_kept e s
  | .lightRestored e, s => execLightRestored_kept e s
  | .oeShutdown e a, s => execOeShutdown_kept e a s
  | .oeShutdownClear e a, s => execOeShutdownClear_kept e a s
  | .linkTraining zp, s => execLinkTraining_kept zp s
  | .linkUp zp f, s => execLinkUp_kept zp f s
  | .linkDown zp, s => execLinkDown_kept zp s
  | .retrain zp a, s => execRetrain_kept zp a s
  | .zlPortOff zp a, s => execZlPortOff_kept zp a s
  | .zlPortOn zp a, s => execZlPortOn_kept zp a s
  | .zlPortLock zp a, s => execZlPortLock_kept zp a s
  | .portLimit zp, s => execPortLimit_kept zp s
  | .flitReceive zp flit corrected uncorrected, s => execFlitReceive_kept zp flit corrected uncorrected s
  | .nakRepeat zp, s => execNakRepeat_kept zp s
  | .flitRelease zp, s => execFlitRelease_kept zp s
  | .almSyncSend zp, s => execAlmSyncSend_kept zp s
  | .almSync zp src b, s => execAlmSync_kept zp src b s
  | .almReq zp src b, s => execAlmReq_kept zp src b s
  | .almResp zp src b, s => execAlmResp_kept zp src b s
  | .almExchangeMissing zp, s => execAlmExchangeMissing_kept zp s
  | .zlWrite zp t, s => execZlWrite_kept zp t s
  | .zlRead zp t, s => execZlRead_kept zp t s
  | .readData zp t, s => execReadData_kept zp t s
  | .zlBarrier zp t, s => execZlBarrier_kept zp t s
  | .powerReport zp src b, s => execPowerReport_kept zp src b s
  | .powerOffer zp src b, s => execPowerOffer_kept zp src b s
  | .powerTake zp src b, s => execPowerTake_kept zp src b s
  | .notice zp src b, s => execNotice_kept zp src b s
  | .powerEpoch, s => execPowerEpoch_kept s
  | .collectiveTimeout p seq stepNo, s => execCollectiveTimeout_kept p seq stepNo s
  | .zlCommonsLock a, s => execZlCommonsLock_kept a s
  | .eventEdge, s => execEventEdge_kept s
  | .daybookRecordWrite cls, s => execDaybookRecordWrite_kept cls s
  | .sluiceRelease cls p source, s => execSluiceRelease_kept cls p source s
  | .daybookEnable p cls a, s => execDaybookEnable_kept p cls a s
  | .daybookDisable p cls a, s => execDaybookDisable_kept p cls a s
  | .daybookConsWrite p cls a, s => execDaybookConsWrite_kept p cls a s
  | .daybookOverflow p cls, s => execDaybookOverflow_kept p cls s
  | .polderFenced p cls, s => execPolderFenced_kept p cls s
  | .millClockLoss d, s => execMillClockLoss_kept d s
  | .forwardingPathLoss k join, s => execForwardingPathLoss_kept k join s
  | .bundleDead bundle, s => execBundleDead_kept bundle s
  | .uncorrectableError part, s => execUncorrectableError_kept part s
  | .memoryUe level d line sectors, s => execMemoryUe_kept level d line sectors s
  | .millReset d a clockOk faults, s => execMillReset_kept d a clockOk faults s
  | .dieReturned d, s => execDieReturned_kept d s
  | .wharfFailure, s => execWharfFailure_kept s
  | .powerSample volts amps mills, s => execPowerSample_kept volts amps mills s
  | .inputRange volts, s => execInputRange_kept volts s
  | .inputPowerLoss volts, s => execInputPowerLoss_kept volts s
  | .capLimitWrite a, s => execCapLimitWrite_kept a s
  | .pwrCapLock a, s => execPwrCapLock_kept a s
  | .dieTempRead w c, s => execDieTempRead_kept w c s
  | .thermalCeilingStep w, s => execThermalCeilingStep_kept w s
  | .oeTempRead e c, s => execOeTempRead_kept e c s
  | .stepDown d, s => execStepDown_kept d s
  | .stepUp d, s => execStepUp_kept d s
  | .voltageSettled d, s => execVoltageSettled_kept d s
  | .phaseStart p seq phase, s => execPhaseStart_kept p seq phase s
  | .droop d detector, s => execDroop_kept d detector s
  | .droopResume d tile, s => execDroopResume_kept d tile s
  | .thermtripRelease, s => execThermtripRelease_kept s
  | .clearFaults, s => execClearFaults_kept s
  | .statusWord, s => execStatusWord_kept s
  | .statusInput, s => execStatusInput_kept s
  | .statusTemperature, s => execStatusTemperature_kept s
  | .statusCml, s => execStatusCml_kept s
  | .statusMfrSpecific, s => execStatusMfrSpecific_kept s
  | .readVin, s => execReadVin_kept s
  | .readIin, s => execReadIin_kept s
  | .readPin, s => execReadPin_kept s
  | .readTemperature1, s => execReadTemperature1_kept s
  | .pmbusRevision, s => execPmbusRevision_kept s
  | .mfrId, s => execMfrId_kept s
  | .mfrModel, s => execMfrModel_kept s
  | .unsupportedCommand code, s => execUnsupportedCommand_kept code s
  | .alertResponse, s => execAlertResponse_kept s
  | .enrol port, s => execEnrol_kept port s
  | .revoke port, s => execRevoke_kept port s
  | .fwWrite port, s => execFwWrite_kept port s
  | .fwCommit port, s => execFwCommit_kept port s
  | .linkSlot zp, s => execLinkSlot_kept zp s
  | .perstRelease port, s => execPerstRelease_kept port s
  | .pcieLinkUp port rate width flit, s => execPcieLinkUp_kept port rate width flit s
  | .l0pWidthChange port width, s => execL0pWidthChange_kept port width s

/-- Settles O7: the queue is part of what each of the 276 commands keeps. -/
theorem commandsLeaveTheQueueAlone : Obligations.CommandsLeaveTheQueueAlone := by
  intro c s
  obtain ⟨t, ht, hk⟩ := exec_kept c s
  exact ⟨t, ht, hk.pending⟩

theorem State.idle_polEnds_kept (s : State) : TrunkKept s.trunk s.idle.polEnds.trunk :=
  s.idle.polEnds_kept (.of_trunk s.idle_trunk)

/-- Settles O4: a step is an idle cycle, or a command on a state of the same memory, and each keeps memory canonical. -/
theorem everyStepKeepsMemoryCanonical : Obligations.EveryStepKeepsMemoryCanonical := by
  intro s t hs h
  unfold step at h
  split at h
  · obtain rfl := Host.Outcome.next.inj h
    exact s.idle_polEnds_kept.mem hs
  · next i rest _ =>
    obtain ⟨u, hu, hk⟩ := exec_kept i { s with pending := rest }
    obtain rfl := Host.Outcome.next.inj (hu.symm.trans h)
    exact hk.mem hs

end Sys2Proof.Machine

end
